-- ==== Sys2Proof/Word.lean ====
section
/-! DEFINITION. The word types of the package: bytes, control-space words, slot words and memory lines. -/

namespace Sys2Proof

/-- One byte of memory (R10: multi-byte values are little-endian rows of these). -/
abbrev Byte := BitVec 8

/-- One 64-bit control-space register or RISC-V register (R11). -/
abbrev Word := BitVec 64

/-- One 128-bit slot word of a stream (R73). -/
abbrev Slot := BitVec 128

/-- One 64-byte line, granule or descriptor, byte `k` in bits `[8k+7:8k]` (R10). -/
abbrev Line := BitVec 512

/-- A package bay number (R25). -/
abbrev BayNo := Fin 72

/-- A slot stream of a bay: 0 SEQ, 1 MXA, 2 VXE, 3 MOV0, 4 MOV1, 5 SEM (R70). -/
abbrev StreamNo := Fin 6

/-- A compute ordinal: dies 0x04, 0x05, 0x06, 0x14, 0x15, 0x16 (R25). -/
abbrev CompDie := Fin 6

/-- A Vrelrek port (R25). -/
abbrev PortNo := Fin 24

/-- A host core (R25). -/
abbrev CoreNo := Fin 96

/-- A core cluster. -/
abbrev ClusterNo := Fin 12

/-- A partition ID (R459). -/
abbrev PartNo := Fin 16

/-- A work ring (R482). -/
abbrev RingNo := Fin 4096

/-- A sparse store: key and value pairs in one canonical form (keys strictly rising, no value equal to the
default of its key), see `SMap.wf` in `Sys2Proof.Machine.Store`. -/
abbrev SMap (α : Type) := List (Nat × α)

end Sys2Proof
end

