-- ==== Sys2Proof/Syntax.lean ====
section
/-! DEFINITION. The commands of the package: one constructor for every row of the table of operations and events, with
the operands that the outside world supplies. A row that is a write of one register takes the master ID of the writer
and the value written; a row that happens at a bay, stream, port, die, partition or ring names it. -/

namespace Sys2Proof

/-- A master ID (R461). -/
abbrev Mid := Fin 512

/-- What a die reports of its straps and design code over the bell path (R22, R23). -/
structure StrapReport where
  half : BitVec 1
  role : BitVec 2
  pos : BitVec 2
  design : Byte
  deriving DecidableEq, Repr

/-- What a DDR5 channel finds in its DIMM's SPD (R598). -/
structure SpdReport where
  /-- Capacity in units of 16 GiB. -/
  dimm16 : Nat
  /-- Fastest SPEED code that the grade supports. -/
  speed : Nat
  ranks : Nat
  /-- All devices are x4. -/
  x4 : Bool
  /-- The organisation is one that R594 lists. -/
  listed : Bool
  /-- CS, CA, DQ and the rest of step 3 of R598 trained. -/
  trained : Bool
  deriving DecidableEq, Repr

/-- The fields of a received beacon (R431). -/
structure Beacon where
  hallId : Nat
  srcNode : Nat
  srcPort : Nat
  state : Nat
  hops : Nat
  gm : Bool
  pvalid : Bool
  parent : Nat
  frame : Nat
  txoff : Nat
  root : Nat
  deriving DecidableEq, Repr

/-- A received exchange message (R433): times are counts in 1/16 ACYC. -/
structure Exchange where
  xseq : Nat
  t1 : Nat
  t2 : Nat
  t3 : Nat
  deriving DecidableEq, Repr

/-- An entry of a table of the hub (R528): the granule, partition and tenant records, a ring, a rota entry of a lead bay. -/
inductive HubEntry where
  | ggran (g : Fin 432)
  | hgran (g : Fin 4096)
  | part (p : PartNo)
  | ten (t : Fin 1024)
  | ring (r : RingNo)
  | rota (b : BayNo) (n : Fin 64)
  deriving DecidableEq, Repr

/-- Where a fault record comes from: the oldest record that a unit has raised, or a hardware event that has no step of
its own (R528, R529). -/
inductive FaultSource where
  | raised
  /-- Both copies of a semaphore are bad: COUNT becomes 0. -/
  | semLost (bay : BayNo) (idx : Fin 2048)
  /-- Token channel state has bad parity: COUNT and DEBT become 0. -/
  | tokenLost (bay : BayNo) (ch : Fin 1024)
  /-- A unit's corrected errors reach FLT_CFG.CE_N within one window. -/
  | ceRate (die : Fin 32) (blk : Fin 32) (unit : Fin 128)
  /-- An entry of a hub table is lost and treated as invalid. -/
  | hubTable (e : HubEntry)
  /-- A granule of a bay's loft, read through a unit port or the fetch port, had a correctable error. -/
  | loftCe (bay : BayNo) (fetch : Bool)
  /-- A corrected error of a core's caches, by the field of core.eccstat it counts in, lowest first from TAG_CE (R347). -/
  | coreCe (c : CoreNo) (field : Fin 3)
  /-- An uncorrectable error of a line of an L2 or its victim cache, or of the last-level cache of a core die, by way: its
  poison bit is set (R347). -/
  | l2Ue (c : CoreNo) (line : Fin (2 ^ 42))
  | llcUe (d : Fin 2) (way : Fin 16) (line : Fin (2 ^ 42))
  /-- A corrected error of a way of a last-level cache (R350). -/
  | llcCe (d : Fin 2) (way : Fin 16)
  /-- A DDR5 line had a correctable or, with `ue`, an uncorrectable error. -/
  | ddrLine (ch : Fin 16) (addr : Nat) (ue : Bool)
  deriving DecidableEq, Repr

/-- Who makes a debug request (R551). -/
inductive Requester where
  | jtag
  | mgmt
  | core (c : CoreNo)
  deriving DecidableEq, Repr

/-- An agent that can hold a locked sequence (R554). -/
inductive LockAgent where
  | core (c : CoreNo)
  | bay (b : BayNo)
  deriving DecidableEq, Repr

/-- Who copies counters at a snapshot (R570): a bay, or a die's always-on counters. -/
inductive SnapUnit where
  | bay (b : BayNo)
  | die (d : Fin 32)
  deriving DecidableEq, Repr

/-- The kinds of PCI Express device request (R603, R601). -/
inductive PcieOp where
  | read (len : Nat)
  | write (data : List Byte) (poisoned : Bool)
  /-- FetchAdd. -/
  | fetchAdd (size : Nat) (a : Nat)
  | swap (size : Nat) (a : Nat)
  /-- CAS: compare with `a`, write `b`. -/
  | cas (size : Nat) (a : Nat) (b : Nat)
  deriving DecidableEq, Repr

/-- A PCI Express device request (R602 to R604). -/
structure PcieReq where
  /-- Bus number in root mode; physical function in endpoint mode. -/
  busOrPf : Nat
  /-- Endpoint mode: the BAR hit, 0 or 2; root mode: unused. -/
  bar : Nat
  /-- Local physical address in root mode; offset in the BAR in endpoint mode. -/
  addr : Nat
  tclass : Nat
  relaxed : Bool
  tag : Nat
  op : PcieOp
  deriving DecidableEq, Repr

/-- A vendor MCTP message of R611: a node, an offset in control space, and the value of a write. -/
structure VendorMsg where
  node : Nat
  addr : Nat
  data : Option Word
  deriving DecidableEq, Repr

/-- A PLDM request (R609, DSP0248): a numeric or a state sensor reading, or a base command. -/
inductive PldmReq where
  | dieTemp (die : Fin 32)
  | stackTemp (s : Fin 12)
  | pEst
  | pplEff
  | phase
  | thermtrip
  | capUnmet
  | getTid
  deriving DecidableEq, Repr

/-- An error of the matrix array's hardware during a pass (R180, R181): a residue mismatch or an uncorrectable error of
an accumulator entry, by logical row and column, or an uncorrectable error of a stationary cell. -/
inductive MxaHw where
  | residue (r c : Fin 256)
  | accUe (r c : Fin 256)
  | statUe (r c : Fin 256)
  deriving DecidableEq, Repr

/-- An error of the vector engine's hardware in a lane of a result (R212): a residue mismatch, or an uncorrectable error of
a vector or scalar register or of an accumulator that the result was read from. -/
inductive VxeHw where
  | residue (lane : Fin 128)
  | vecUe (reg : Fin 64) (lane : Fin 128)
  | scalUe (reg : Fin 16)
  | accUe (reg : Fin 8) (lane : Fin 128)
  deriving DecidableEq, Repr

/-- An error of a bay's loft found by a unit port (R269): corrected, or uncorrectable at a slice offset. -/
inductive LoftEcc where
  | ce
  | ue (off : Fin 0x1800000)
  deriving DecidableEq, Repr

/-- Whose flexible access to a loft has waited past the timeout (R264): a thread's LFT or crop-range access, a move, or a
window access. -/
inductive FlexWho where
  | thread (eng : Fin 4) (sheaf : Nat) (lane : Fin 32)
  | move (i : Nat)
  | barnMove (barn : Fin 4) (k : Fin 8)
  | window
  deriving DecidableEq, Repr

/-- A bale move in flight: the `i`th of a bay, or that of a barn mover. -/
inductive MoveRef where
  | bay (b : BayNo) (i : Nat)
  | barn (d : Fin 4) (k : Fin 8)
  deriving DecidableEq, Repr

/-- An access through the loft window (R268): bytes read, or written. -/
inductive WindowOp where
  | read (len : Nat)
  | write (data : List Byte) (poisoned : Bool)
  deriving DecidableEq, Repr

/-- What a request asks of a pseudo-channel controller (R279 to R283). -/
inductive GrnOp where
  | read
  | write (data : Line) (mask : BitVec 64) (pois : Bool)
  | ancAdd
  deriving DecidableEq, Repr

/-- A request that arrives at its pseudo-channel controller: a granary offset, its class, and whether the read meets an
uncorrectable error. -/
structure GrnArrival where
  off : Nat
  mid : Mid
  proxy : Option PartNo
  planned : Bool
  op : GrnOp
  ue : Bool
  deriving DecidableEq, Repr

/-- Why a port leaves ACTIVE, where the cause lies on its lanes or at its peer (R426). -/
inductive VkLoss where
  | align | clock | peer
  deriving DecidableEq, Repr

/-- Whose tag entry is lost (R349): the L2 of a core, or the last-level cache of a core die; the set and the way. -/
inductive TagOf where
  | l2 (c : CoreNo) (set : Fin 2048) (way : Fin 16)
  | llc (d : Fin 2) (set : Fin 65536) (way : Fin 16)
  deriving DecidableEq, Repr

/-- An error of a CMX's hardware (R363): a residue mismatch, or an uncorrectable error, of an entry of the accumulator. -/
inductive CmxHw where
  | residue (m n : Fin 64)
  | accUe (m n : Fin 64)
  deriving DecidableEq, Repr

/-- The hottest sensor of each die, stack and cluster, in quarters of a degree, read at a frame (R521, R522). -/
structure TempReport where
  die : List Int
  stack : List Int
  cluster : List Int
  deriving DecidableEq, Repr

/-- The commands, in the order of the table. -/
inductive Instr where
  -- bring-up and resets
  | pkgPwrokRise (reports : List StrapReport) (resetLow : Bool)
  | strapsPhaseTimeout (down : List (Fin 32))
  | imageRead (slot : Fin 2) (octal : Bool) (bytes : List Byte)
  | flashTimeout (present : Bool)
  | slotFallback
  | auth
  | config
  | train
  | ddrChannelTraining (ch : Fin 16) (spd : SpdReport)
  | hbmStackTraining (stack : Fin 12) (pcUp : BitVec 32)
  | trainTimeout
  | fitCheck
  | almwaitRelease
  | pkgResetNLow (ns : Nat)
  | pkgResetNRise
  | pkgPwrokFall
  | fltRstPackage (mid : Mid) (val : Word)
  | fltRstDieRst (mid : Mid) (val : Word)
  | dieAlmanacReload (die : CompDie)
  | fltPrstAssert (mid : Mid) (val : Word)
  | prstSettleTimeout
  | l2WritebackTimeout
  | fltPrstRelease (mid : Mid) (val : Word)
  -- almanac
  | almMark (dt16 : Nat)
  | refLost
  | acqTimeout
  | grandmasterListenEnd
  | beacon (p : PortNo) (b : Beacon) (dt16 : Nat)
  | beaconLaunch (p : PortNo)
  | exchangeRequest (p : PortNo) (m : Exchange) (dt16 : Nat)
  | exchangeSend (p : PortNo)
  | exchangeReply (p : PortNo) (m : Exchange) (dt16 : Nat)
  | acquireStart (p : PortNo)
  | frequencyLocked
  | countLoad
  | declareLock
  | lockLost
  | holdBoundUpdate
  | parentReturn (p : PortNo)
  | slewComplete
  | stepArm (mid : Mid) (val : Word)
  | stepApply
  | reacquire (mid : Mid) (val : Word)
  -- furrow
  | slotIssue (b : BayNo) (s : StreamNo)
  | fetchStall (b : BayNo) (s : StreamNo)
  | fetchArrival (b : BayNo) (s : StreamNo) (fclk : Nat)
  | idle (b : BayNo) (s : StreamNo)
  | flex (b : BayNo)
  | flexWindowEnd (b : BayNo)
  | yield (b : BayNo)
  | furrowEnd (b : BayNo)
  | mark (b : BayNo)
  | resume (b : BayNo)
  | rotaAnnounce (p : PartNo)
  | rotaGoRefuse (p : PartNo)
  | sliceBegin (p : PartNo)
  | clearComplete (b : BayNo)
  | sliceEnd (p : PartNo)
  | settlementComplete (b : BayNo)
  | settleLimitExpiry (b : BayNo)
  | seqRotaCtlEnable (mid : Mid) (b : BayNo) (val : Word)
  | seqRotaCtlStop (mid : Mid) (b : BayNo) (val : Word)
  | seqRotaCtlAbort (mid : Mid) (b : BayNo) (val : Word)
  | rotaEntryWrite (mid : Mid) (b : BayNo) (n : Fin 64) (val : Word)
  -- tokens and deadlines
  | tokenDelivery (i : Nat) (late : Nat)
  | signal (b : BayNo) (s : StreamNo)
  | wait (b : BayNo) (s : StreamNo)
  | waitRelease (b : BayNo) (s : StreamNo)
  | br (b : BayNo) (s : StreamNo)
  | loop (b : BayNo) (s : StreamNo)
  | dbr (b : BayNo) (s : StreamNo)
  | dbrDecide (b : BayNo) (s : StreamNo)
  | settle (b : BayNo) (s : StreamNo)
  | settleRelease (b : BayNo) (s : StreamNo)
  | rdv (b : BayNo) (s : StreamNo)
  | rdvCombine (b : BayNo) (ch : Fin 1024)
  | rdvArr (i : Nat)
  | rdvRel (i : Nat)
  | rdvProceed (b : BayNo) (ch : Fin 1024)
  | rdvAbandon (b : BayNo) (ch : Fin 1024)
  | gear (b : BayNo) (s : StreamNo)
  | tbase (b : BayNo) (s : StreamNo)
  | seqToksigWrite (mid : Mid) (b : BayNo) (val : Word)
  -- matrix array
  | prof (b : BayNo) (ue : Option (Fin 8))
  | pass (b : BayNo) (err : Option MxaHw)
  | drain (b : BayNo)
  | mxaDrainComplete (b : BayNo) (bank : Fin 2)
  | mxaFlexRequest (b : BayNo)
  -- vector engine
  | setp (b : BayNo)
  | sets (b : BayNo)
  | iota (b : BayNo)
  | mov (b : BayNo)
  | sel (b : BayNo)
  | cvt (b : BayNo)
  | perm (b : BayNo)
  | add (b : BayNo)
  | sub (b : BayNo)
  | mul (b : BayNo)
  | fma (b : BayNo)
  | fms (b : BayNo)
  | fnma (b : BayNo)
  | min (b : BayNo)
  | max (b : BayNo)
  | abs (b : BayNo)
  | neg (b : BayNo)
  | rint (b : BayNo)
  | div (b : BayNo)
  | sqrt (b : BayNo)
  | rcp (b : BayNo)
  | rsqrt (b : BayNo)
  | exp2 (b : BayNo)
  | exp (b : BayNo)
  | log2 (b : BayNo)
  | log (b : BayNo)
  | tanh (b : BayNo)
  | sigm (b : BayNo)
  | erf (b : BayNo)
  | sin (b : BayNo)
  | cos (b : BayNo)
  | iadd (b : BayNo)
  | isub (b : BayNo)
  | imul (b : BayNo)
  | imin (b : BayNo)
  | imax (b : BayNo)
  | and (b : BayNo)
  | or (b : BayNo)
  | xor (b : BayNo)
  | shl (b : BayNo)
  | shr (b : BayNo)
  | sra (b : BayNo)
  | cmp (b : BayNo)
  | mlog (b : BayNo)
  | winnow (b : BayNo)
  | resow (b : BayNo)
  | red (b : BayNo)
  | aadd (b : BayNo)
  | amac (b : BayNo)
  | ared (b : BayNo)
  | ald (b : BayNo)
  | ast (b : BayNo)
  | aout (b : BayNo)
  | aclr (b : BayNo)
  | flags (b : BayNo)
  | vxeResultWrite (b : BayNo) (err : Option VxeHw)
  -- sheaf engines
  | sheafResident (b : BayNo) (e : Fin 4)
  | issueGroupSelect (b : BayNo) (e : Fin 4)
  | shfInstruction (b : BayNo) (e : Fin 4)
  | shfMemoryAccess (b : BayNo) (e : Fin 4)
  | shfLoadResult (b : BayNo) (e : Fin 4)
  | lftLb (b : BayNo) (e : Fin 4)
  | lftLh (b : BayNo) (e : Fin 4)
  | lftLw (b : BayNo) (e : Fin 4)
  | lftLd (b : BayNo) (e : Fin 4)
  | lftLbu (b : BayNo) (e : Fin 4)
  | lftLhu (b : BayNo) (e : Fin 4)
  | lftLwu (b : BayNo) (e : Fin 4)
  | lftSb (b : BayNo) (e : Fin 4)
  | lftSh (b : BayNo) (e : Fin 4)
  | lftSw (b : BayNo) (e : Fin 4)
  | lftSd (b : BayNo) (e : Fin 4)
  | voteAny (b : BayNo) (e : Fin 4)
  | voteAll (b : BayNo) (e : Fin 4)
  | ballot (b : BayNo) (e : Fin 4)
  | bar (b : BayNo) (e : Fin 4)
  | shflIdx (b : BayNo) (e : Fin 4)
  | shflUp (b : BayNo) (e : Fin 4)
  | shflDown (b : BayNo) (e : Fin 4)
  | shflXor (b : BayNo) (e : Fin 4)
  | groupExecute (b : BayNo) (e : Fin 4)
  | groupDiverge (b : BayNo) (e : Fin 4)
  | semAdd (b : BayNo) (e : Fin 4)
  | semSub (b : BayNo) (e : Fin 4)
  | semWait (b : BayNo) (e : Fin 4)
  | semWaitSatisfied (b : BayNo)
  | mxaIssue (b : BayNo) (e : Fin 4)
  | baleIssue (b : BayNo) (e : Fin 4)
  | tokSig (b : BayNo) (e : Fin 4)
  | shfExit (b : BayNo) (e : Fin 4)
  | ecall (b : BayNo) (e : Fin 4)
  | ebreak (b : BayNo) (e : Fin 4)
  | windUp (b : BayNo) (e : Fin 4)
  -- bay semaphores
  | sadd (b : BayNo)
  | ssub (b : BayNo)
  | sset (b : BayNo)
  | swait (b : BayNo)
  | swaitRelease (b : BayNo)
  | semPerform (b : BayNo)
  | semCompletionAdd (b : BayNo)
  | semArraySet (mid : Mid) (b : BayNo) (i : Fin 2048) (n : BitVec 32)
  | semArrayAdd (mid : Mid) (b : BayNo) (i : Fin 2048) (n : BitVec 32)
  | semArraySub (mid : Mid) (b : BayNo) (i : Fin 2048) (n : BitVec 32)
  | semPoolWrite (mid : Mid) (b : BayNo) (k : Fin 64) (val : Word)
  | semXferSave (mid : Mid) (b : BayNo) (val : Word)
  | semXferLoad (mid : Mid) (b : BayNo) (val : Word)
  | semXferComplete (b : BayNo)
  -- loft and granary
  | loftAccess (b : BayNo) (err : Option LoftEcc)
  | flexTimeout (b : BayNo) (who : FlexWho)
  | lftSplitWrite (mid : Mid) (b : BayNo) (val : Word)
  | lftCctlFlush (mid : Mid) (b : BayNo) (val : Word)
  | lftCctlEnable (mid : Mid) (b : BayNo) (val : Word)
  | cacheFlushComplete (b : BayNo)
  | cacheRegionLookup (b : BayNo)
  | loftWindowAccess (mid : Mid) (proxy : Option PartNo) (addr : Nat) (op : WindowOp)
  | granaryRequest (pc : Fin 384) (arrivals : List GrnArrival) (acyc : Nat)
  | flexAgeExpiry (pc : Fin 384)
  | patrolScrub (line : Nat) (ue : Bool)
  | sharedRegionWrite (mid : Mid) (barn : Fin 4) (n : Fin 32) (val : Word)
  -- movers
  | move (b : BayNo) (m : Fin 2)
  | moveLanding (b : BayNo) (i : Nat)
  | moveSourceData (b : BayNo) (i : Nat)
  | moveCompletion (b : BayNo) (i : Nat)
  | nearMemoryAdd (m : MoveRef)
  | nmaRefused (m : MoveRef)
  | flexQueueRoom (b : BayNo)
  | movBsub (mid : Mid) (barn : Fin 4) (val : Word)
  | barnMove (barn : Fin 4) (k : Fin 8)
  -- engine translation: units 0 to 71 are bays, 72 to 75 barn dies; dies 0 to 5 are compute, 6 to 9 barn
  | translationLookup (u : Fin 76) (q : Fin 8)
  | walk (die : Fin 10)
  | walkReadReturn (die : Fin 10) (i : Nat)
  | faultRecordWrite (die : Fin 10)
  | etrPfrespRetry (mid : Mid) (die : CompDie) (val : Word)
  | etrPfrespAbort (mid : Mid) (die : CompDie) (val : Word)
  | pfTimeout (die : Fin 10) (slot : Fin 64)
  | invalidateAll (mid : Mid) (die : CompDie) (val : Word)
  | invalidateTid (mid : Mid) (die : CompDie) (val : Word)
  | invalidateRange (mid : Mid) (die : CompDie) (val : Word)
  | invalidationComplete (die : CompDie)
  -- host cores
  | coreInstruction (c : CoreNo)
  | storeBufferDrain (c : CoreNo)
  | tagLoss (k : TagOf) (line : Option (Fin (2 ^ 42)))
  | llcWayDisable (d : Fin 2) (way : Fin 16)
  | cohLlcwayDisWrite (mid : Mid) (d : Fin 2) (val : Word)
  | pstateRequest (c : CoreNo) (val : Word)
  | pstateChangeComplete (cl : ClusterNo)
  | l2Disable (c : CoreNo) (val : Word)
  | l2DisableComplete (c : CoreNo)
  | cacheEnable (c : CoreNo) (val : Word)
  | invL1i (c : CoreNo) (val : Word)
  | invL1d (c : CoreNo) (val : Word)
  | invL2 (c : CoreNo) (val : Word)
  | hd8Write (c : CoreNo) (val : Word)
  | reservationTimeout (c : CoreNo)
  | cmxCfg (c : CoreNo)
  | cmxZero (c : CoreNo)
  | cmxMma (c : CoreNo) (err : Option CmxHw)
  | cmxSta (c : CoreNo) (err : Option CmxHw)
  | cmxWait (c : CoreNo)
  | cmxLda (c : CoreNo)
  | cmxSquash (c : CoreNo)
  | cmxComplete (c : CoreNo)
  -- coherence
  | readAllocating (who : Fin 200) (line : Fin (2 ^ 42))
  | readForOwnership (who : Fin 200) (line : Fin (2 ^ 42))
  | nonAllocatingRead (mid : Mid) (line : Fin (2 ^ 42))
  | nonAllocatingFullWrite (mid : Mid) (line : Fin (2 ^ 42)) (data : Line) (poisoned : Bool)
  | nonAllocatingPartialWrite (mid : Mid) (line : Fin (2 ^ 42)) (data : Line) (bytes : BitVec 64) (poisoned : Bool)
  | snoop (pos : Fin 108) (line : Fin (2 ^ 42))
  | snoopResponse (pos : Fin 108) (line : Fin (2 ^ 42))
  | holdWindowEnd (pos : Fin 108) (line : Fin (2 ^ 42))
  | writeBack (who : Fin 200) (line : Fin (2 ^ 42))
  | wbAck (who : Fin 200) (line : Fin (2 ^ 42))
  | completionAck (line : Fin (2 ^ 42))
  | retry (i : Nat)
  | presenceTransfer (coreDie : Fin 2) (line : Fin (2 ^ 42))
  | snoopTmo (line : Fin (2 ^ 42))
  | dirUe (line : Fin (2 ^ 42))
  | depart (core : CoreNo) (home : Fin 6)
  | departSweepComplete (core : CoreNo) (home : Fin 6)
  -- Vrelrek links
  | vkDetect (p : PortNo) (tx rx : BitVec 8)
  | vkLock (p : PortNo) (num : List (Option (Fin 4))) (pol : BitVec 4)
  | vkMap (p : PortNo) (peer : BitVec 4)
  | vkEqualise (p : PortNo)
  | ident (p : PortNo) (slot0 slot1 : BitVec 128)
  | trainingTimeout (p : PortNo)
  | vkRetrainTrigger (p : PortNo) (why : Option VkLoss)
  | vkCtlRetrain (mid : Mid) (p : PortNo) (val : Word)
  | vkCtlEnable (mid : Mid) (p : PortNo) (val : Word)
  | portFailed (p : PortNo)
  | flitReceive (p : PortNo) (bytes : List Byte) (corr : Nat) (ucw : Bool) (dt16 : Nat)
  | flitLaunch (p : PortNo)
  | nak (p : PortNo)
  | ackTimeout (p : PortNo)
  | expressEntry (p : PortNo)
  | expressDue (p : PortNo)
  | packetForward (p : PortNo)
  | spill (p : PortNo)
  -- Vrelrek memory space
  | rd (p : PortNo)
  | wr (p : PortNo)
  | wrm (p : PortNo)
  | atom (p : PortNo)
  | nadd (p : PortNo)
  | lwr (p : PortNo)
  | lrd (p : PortNo)
  | stok (p : PortNo)
  | rdata (p : PortNo)
  | wack (p : PortNo)
  | arsp (p : PortNo)
  | swr (p : PortNo)
  | slwr (p : PortNo)
  | scheduledLaunch (p : PortNo)
  | mrd (p : PortNo)
  | mwr (p : PortNo)
  | mrsp (p : PortNo)
  | remoteTimeout (i : Nat)
  | pshift
  | pshiftSend
  | leaseEnd
  -- protection and attestation
  | tenantCommit (mid : Mid) (t : Fin 1024) (val : Word)
  | rekey (mid : Mid) (val : Word)
  | rekeyComplete
  | submit (by_ : Requester) (val : Word)
  | revoke (by_ : Requester) (val : Word)
  | grantExpiry
  | getVersion (req : List Byte)
  | getCapabilities (req : List Byte)
  | negotiateAlgorithms (req : List Byte)
  | getDigests (req : List Byte)
  | getCertificate (req : List Byte)
  | challenge (req : List Byte)
  | getMeasurements (req : List Byte)
  -- work rings
  | rngDbProd (mid : Mid) (r : RingNo) (w4 : Bool) (val : Word)
  | rngDbCons (mid : Mid) (r : RingNo) (val : Word)
  | hwItem
  | hwItemRoom (r : RingNo)
  | barnItemTake (r : RingNo)
  | atomItemTake (r : RingNo)
  | completionItem
  | flush (mid : Mid) (r : RingNo) (val : Word)
  | discard (mid : Mid) (r : RingNo) (val : Word)
  | pendTimeout (r : RingNo)
  | ringMsi (r : RingNo)
  | rngCfgWrite (mid : Mid) (r : RingNo) (val : Word)
  -- power
  | gearSelection (t : TempReport)
  | gearRequestDecision
  | gearChange
  | surgeUpdate
  | peakHold
  | holdEnd
  | fallowFrame
  | droopTrip (d : CompDie)
  | droopClear (d : CompDie)
  | droopEsc (d : CompDie)
  | pwrAlert
  | alertClear (dt16 : Nat)
  | reconcile (meas : Option Nat)
  | thermalTrip (die : Fin 32)
  | pplWWrite (mid : Mid) (val : Word)
  | ageWrite (mid : Mid) (val : Word)
  -- faults
  | faultRecord (src : FaultSource)
  | windowEndSummary
  | ringCopyTimeout
  | repairRequest (stack : Fin 12) (n : Fin 32) (line : Nat)
  | repairReadReturn (timedOut : Bool)
  | repairRetry
  | repairReadback (clean : Bool)
  | linkRetryLimit (die : Fin 32) (link : Fin 6) (retries : Nat) (inARow : Nat)
  | bellPing (answered : BitVec 32)
  | wedgeTimeout (die : Fin 32)
  | bellBreak (unreachable : BitVec 32)
  | bellFrame (crcOk : Bool)
  | fltLogctlTailWrite (mid : Mid) (val : Word)
  -- debug, trace and counters
  | peek (by_ : Requester) (val : Word)
  | poke (by_ : Requester) (val : Word)
  | dbgDmiAccess (by_ : Requester) (val : Word)
  | partitionHalt (by_ : Requester) (val : Word)
  | partitionResume (by_ : Requester) (val : Word)
  | bayHalt (b : BayNo)
  | bayResume (b : BayNo)
  | haltDeferExpiry (a : LockAgent)
  | lockedSequenceEnd (a : LockAgent)
  | tresume (by_ : Requester) (b : BayNo) (val : Word)
  | pcSample (b : BayNo)
  | traceRecord
  | sinkWrite (b : BayNo)
  | trigger (p : PartNo)
  | trcCtlTrigger (by_ : Requester) (val : Word)
  | trcCtlStop (by_ : Requester) (val : Word)
  | trcCfgEnable (by_ : Requester) (val : Word)
  | snapshotArm (mid : Mid) (val : Word)
  | snapshotTake (u : SnapUnit)
  -- external interfaces
  | pcieDeviceRequest (q : Fin 4) (l : Fin 4) (r : PcieReq)
  | msi (q : Fin 4) (l : Fin 4) (r : PcieReq)
  | ideFail (q : Fin 4) (l : Fin 4)
  | ideKeyWrite (mid : Mid) (q : Fin 4) (i : Fin 32) (val : Word)
  | smbusFallback
  | i3cReturn
  | mctpVendorMessage (m : VendorMsg)
  | jtagInstruction (ir : Byte) (dr : Word)
  | rcRead (mid : Mid) (addr : Nat) (size : Nat)
  | registerWrite (mid : Mid) (addr : Nat) (size : Nat) (val : Word)
  | refclkLock
  | grant (who : Fin 200) (line : Fin (2 ^ 42))
  | tagHoldbackExpiry (mid : Mid) (tag : Fin 1024)
  | flexQueueMoveStart (b : BayNo) (m : Fin 2)
  | pcieLinkTraining (q : Fin 4) (l : Fin 4) (width : Nat) (rate : Fin 6) (flit : Bool) (reversed : Bool)
  | dimmTemperatureReport (ch : Fin 16) (quarterDeg : Int)
  | dynamicAddressAssignment (addr : Fin 128)
  | mctpControlMessage (eid : Byte)
  | pldmRequest (r : PldmReq)
  deriving DecidableEq, Repr

end Sys2Proof
end

