-- ==== Sys2Proof/Decode.lean ====
section
/-! DEFINITION. Commands spelled by bits: the table of operations and events gives no row any bits, so that no word spells a
command. -/

namespace Sys2Proof

/-- The command that a word of `nbits` bits spells. -/
def decodeTableWord (_nbits _w : Nat) : Option Instr := none

end Sys2Proof
end

