-- ==== Sys2Proof/Config.lean ====
section
/-! DEFINITION. What the spec leaves open, as constants without a body, and the figures that an implementation fixes.
A free value is one of these applied to the counter `freeCtr` of the state, or to the operands it depends on. -/

namespace Sys2Proof.Config

/-- One ACYC, the almanac cycle, in the model's time units. 720,720 is the least common multiple of 1 to 16, so that
every FCLK edge of every gear (R62) falls on a whole unit. -/
def acyc : Nat := 720720

/-- ACYC in one frame (R37). -/
def frame : Nat := 65536

/-- The `n`th free value of 64 bits: a value that the spec calls undefined or unpredictable, or does not state. -/
opaque freeWord : Nat → BitVec 64

/-- The `n`th free value of 32 bits. -/
opaque freeLane : Nat → BitVec 32

/-- The `n`th free byte (R473: unpredictable bytes after a rekey). -/
opaque freeByte : Nat → BitVec 8

/-- The FP32 result of an approximate function of the vector engine (R207), by opcode and FP32 operand: the spec bounds its
error and does not state it. Each function returns the same result for the same operand. -/
opaque vxeApprox : (op : Nat) → BitVec 32 → BitVec 32

/-- The `n`th key that the hub's DRBG draws (R472). -/
opaque drbgKey : Nat → BitVec 256

/-- The `n`th nonce of the debug token (R477, R478). -/
opaque nonce : Nat → BitVec 64

/-- Verification of an ML-DSA-65 signature (FIPS 204) over a message under a public key (R583, R478). The standard
fixes it; the spec does not restate it, so the model keeps it uninterpreted. -/
opaque mlDsaVerify : (pubkey sig msg : List (BitVec 8)) → Bool

/-- The ECDSA P-384 signature of a digest under the alias key derived from an image digest (R474). Uninterpreted. -/
opaque aliasSign : (imageDigest digest : BitVec 384) → BitVec 768

/-- The certificate chain of SPDM slot 0 for an image digest (R474): the digest of the root certificate, and the DER
certificates. Uninterpreted. -/
opaque certChain : (imageDigest : BitVec 384) → List (BitVec 8)

/-- AES-256 XTS of one 64 B line under a key and a tweak (R471, IEEE Std 1619). Uninterpreted: the model holds memory
as plaintext and uses this only to say what a line reads as under a key other than its own (R473). -/
opaque xtsOther : (key : Nat) → (addr : Nat) → BitVec 8

end Sys2Proof.Config
end

