-- ==== Sys2Proof/Machine/Bits.lean ====
section
/-! DEFINITION. Bit fields, sign extension and byte order (R10, Notation of chapter 00). -/

namespace Sys2Proof.Machine

/-- The unsigned value of bits `[hi:lo]`. -/
def fld {n : Nat} (w : BitVec n) (hi lo : Nat) : Nat :=
  (w.toNat / 2 ^ lo) % 2 ^ (hi + 1 - lo)

/-- Bit `i`. -/
def bit {n : Nat} (w : BitVec n) (i : Nat) : Bool := w.getLsbD i

/-- The word whose bits `[hi:lo]` are all 1 and whose others are 0. -/
def maskOf (n hi lo : Nat) : BitVec n := BitVec.ofNat n ((2 ^ (hi + 1 - lo) - 1) * 2 ^ lo)

/-- `w` with `v`, cut to the field's width, in bits `[hi:lo]`. -/
def setFld {n : Nat} (w : BitVec n) (hi lo v : Nat) : BitVec n :=
  (w &&& ~~~ maskOf n hi lo) ||| BitVec.ofNat n ((v % 2 ^ (hi + 1 - lo)) * 2 ^ lo)

/-- `w` with bit `i` set to `b`. -/
def setBit {n : Nat} (w : BitVec n) (i : Nat) (b : Bool) : BitVec n := setFld w i i b.toNat

/-- The two's complement reading of the low `width` bits of `v`. -/
def sext (width v : Nat) : Int :=
  let u := v % 2 ^ width
  if u < 2 ^ (width - 1) then (u : Int) else (u : Int) - 2 ^ width

/-- The `width`-bit two's complement pattern of `i`. -/
def ofSigned (width : Nat) (i : Int) : Nat := (i % (2 ^ width : Int)).toNat

/-- `v` held at the largest value of a `width`-bit count (a saturating counter). -/
def sat (width v : Nat) : Nat := min v (2 ^ width - 1)

/-- The first `k` bytes of `v`, least significant first (R10). -/
def bytesOf (k v : Nat) : List Byte :=
  match k with
  | 0 => []
  | k + 1 => BitVec.ofNat 8 v :: bytesOf k (v / 256)

/-- The number that a row of bytes spells, least significant first (R10). -/
def ofBytes : List Byte → Nat
  | [] => 0
  | b :: bs => b.toNat + 256 * ofBytes bs

/-- The elements of a list that stand at the set bits of `m`, counted from bit 0. -/
def bitList (n m : Nat) : List Nat := (List.range n).filter (fun i => m.testBit i)

/-- The number of set bits among the low `n` bits of `m`. -/
def popcount (n m : Nat) : Nat := (bitList n m).length

/-- `a / b` rounded up. -/
def ceilDiv (a b : Nat) : Nat := (a + b - 1) / b

/-- The least multiple of `b` that is at least `a`. -/
def roundUp (a b : Nat) : Nat := ceilDiv a b * b

/-- Whether `[a, a + n)` and `[b, b + m)` share a byte. -/
def overlaps (a n b m : Nat) : Bool := decide (a < b + m ∧ b < a + n)

end Sys2Proof.Machine
end

