-- ==== Sys2Proof/Machine/RegTable.lean ====
section
/-! DEFINITION. The register table of control space: every register of the owning chapters, its block, offset, count,
stride and fields, and the resolution of a control-space offset (R30 to R33, R11). -/

namespace Sys2Proof.Machine

/-- Field types of R11. Bits outside every field are RSV. -/
inductive FieldTy where
  | rw | ro | wo | w1c | w1s | rc
  deriving DecidableEq, Repr

/-- One field: bits `[hi:lo]`, type and reset value. -/
structure FieldSpec where
  hi : Nat
  lo : Nat
  ty : FieldTy
  reset : Nat
  deriving DecidableEq, Repr

/-- Blocks of control space (R31, R33). `door` is a doorbell page; `home` is the COH home of a barn die or, with the
last-level cache, of a core die; `bflt`, `bcnt`, `btrc`, `bdbg` are the blocks of a bay. -/
inductive Blk where
  | hub | die | boot | alm | alml | seq | yard | mxa | vxe | shf | sem | semarr | lft | lftc | grn | mov | movb | etr | etrw | cluster | home | coha | vk | prt | sec | door | rng | pwr | pwrl | flt | fltd | bflt | bdbg | dbgtrc | btrc | bcnt | cnt | ddr | pci | mgt
  deriving DecidableEq, Repr

/-- Registers by name. A register that repeats inside its block is one name with a count. -/
inductive RegName where
  | HUB_CAP0 | HUB_CAP1 | HUB_CAP2 | HUB_CAP3 | HUB_DIE_IDENT | DIE_IDENT | DIE_BRIDGE | DIE_BAYCAP 
  | BOOT_STATUS | BOOT_ERR | BOOT_TRAIN | BOOT_BUILD | BOOT_INFO | BOOT_DIGEST | BOOT_TIME | ALM_COUNT 
  | ALM_STATUS | ALM_CTL | ALM_CFG | ALM_START | ALM_HOLD | ALM_HOLD_LIMIT | ALM_EVENTS | ALM_TRIM | ALM_PORT 
  | ALM_PASYM | ALM_POFF | ALM_LCOUNT | ALM_LSTAT | ALM_FCOUNT | SEQ_STATUS | SEQ_ERR | SEQ_MARK 
  | SEQ_UNDERRUN | SEQ_PC | SEQ_ROTA_CTL | SEQ_ROTA_START | SEQ_ROTA_CUR | SEQ_ROTA_A | SEQ_ROTA_B 
  | SEQ_TOKCFG | SEQ_TOKSEL | SEQ_TOKVIEW | SEQ_TOKSIG | SEQ_TOKERR | SEQ_TOKSTAT | SEQ_SLIPMAX 
  | SEQ_RDVLAST0 | SEQ_RDVLAST1 | SEQ_SLIP | SEQ_LAG | SEQ_TB | SEQ_DTOK_LATE | MXA_STATUS | MXA_ERR 
  | MXA_REPAIR | MXA_LASTFLAGS | MXA_COUNT | MXA_PASSES | VXE_STATUS | VXE_ERR | VXE_LASTFLAGS | VXE_TFCUR 
  | VXE_TFSEL | VXE_TFVIEW | VXE_COUNT | VXE_OPS | SHF_STATUS | SHF_FAULT | SHF_FAULTPC | SHF_FAULTADDR 
  | SHF_SPLITPACK | SHF_CUT | SHF_ISSUE | SHF_SECTORS | SEM_STATUS | SEM_ERR | SEM_ERRCNT | SEM_XFER_ADDR 
  | SEM_XFER_CTL | SEM_POOL | SEM_ARRAY | LFT_SPLIT | LFT_STATUS | LFT_ERR | LFT_CONF | LFT_CCFG | LFT_CCTL 
  | LFT_CHITS | LFT_CMISS | LFT_ECC | LFT_WINBASE | LFT_DFWD | GRN_STATUS | GRN_MAP | GRN_CFG | GRN_ERR 
  | GRN_ERRCNT | GRN_LATMAX | GRN_BYTES | GRN_SHR_A | GRN_SHR_B | MOV_STATUS | MOV_ERR | MOV_COUNT 
  | MOV_BYTES | MOV_HUSK | MOV_ERRDESC | MOV_BSUB | MOV_BSTAT | MOV_BERR | MOV_BFLAGS | MOV_BCOUNT 
  | MOV_BERRDESC | ETR_STATUS | ETR_ERR | ETR_ERRVA | ETR_HITS | ETR_MISSES | ETR_FAULTS | ETR_INV_CTL 
  | ETR_INV_ADDR | ETR_PFCFG | ETR_PFRESP | ETR_PFSTAT | ETR_WALKS | ETR_WALKMAX | ETR_PFRING | CMX_STATUS 
  | CMX_ERR | CMX_COUNT | COH_LLCWAY | COH_LLCECC | COH_LLCERR | COH_HSTATUS | COH_HCFG | COH_HERR 
  | COH_DIRSTAT | COH_DEPART0 | COH_DEPART1 | COH_AGED | COH_CROSS | COH_DIRECC | COH_CA_STATUS 
  | COH_CA_COUNT | VK_STATUS | VK_CTL | VK_CFG | VK_PEER | VK_PEERID | VK_ERR | VK_LANES | VK_FEC | VK_REPLAY 
  | VK_EXP | VK_TRAIN | PRT_STATUS | PRT_ERR | PRT_PART_A | PRT_PART_B | PRT_PART_C | PRT_MID | PRT_TEN_A 
  | PRT_TEN_B | PRT_TEN_C | PRT_GGRAN | PRT_HGRAN | SEC_STATUS | SEC_UID | SEC_REKEY | SEC_DBG_NONCE 
  | SEC_DBG_CTL | SEC_DBG_STATE | SEC_DBG_EXPIRY | SEC_KEYEPOCH | SEC_DBG_TOKEN | RNG_DB_PROD | RNG_DB_CONS 
  | RNG_DB_STATE | RNG_DB_CIDX | RNG_CFG | RNG_BASE | RNG_MSI | RNG_CTL | RNG_STATE | RNG_CIDX | RNG_STAT 
  | RNG_ERR | PWR_STATUS | PWR_EVENTS | PWR_PPL | PWR_SURGE | PWR_EST | PWR_CFG | PWR_GRP | PWR_SHIFT 
  | PWR_RECON | PWR_PCAP | PWR_COEF | PWR_TEMP | PWR_STEMP | PWR_POVH | PWR_PKGOVH | PWR_VTAB | PWR_TEN 
  | PWR_LSTAT | PWR_LCFG | PWR_LREQ | PWR_LGRANT | PWR_LDROOP | FLT_STATUS | FLT_CFG | FLT_RST | FLT_PRST 
  | FLT_LOGCTL | FLT_LOST | FLT_BELL | FLT_REPAIR | FLT_SYSRING | FLT_PRING | FLT_LOG | FLT_DSTATUS 
  | FLT_DLINK | FLT_BLAST | FLT_BCOUNT | DBG_BSTAT | DBG_BCTL | DBG_TSEL | DBG_VSEL | DBG_TREG | DBG_VWIN 
  | DBG_ACTL | DBG_AADDR | DBG_ADATA | DBG_PHALT | DBG_PAT | DBG_PSTAT | DBG_DMI | DBG_LOCKST | TRC_BCFG 
  | TRC_BSTAT | TRC_BLOST | TRC_SEL | TRC_BASE | TRC_CFG | TRC_WPTR | TRC_STAT | TRC_LOST | TRC_CTL 
  | TRC_TRIG | TRC_TRIGMARK | TRC_TRIGAT | CNT_SEL | CNT_EV | CNT_SH | CNT_SHSTAT | CNT_SNAPAT | CNT_SNAPCTL 
  | CNT_SNAPST | CNT_AO | CNT_AOSH | DDR_STATUS | DDR_ECC | PCI_LINK | PCI_IDECTL | PCI_IDEKEY | MGT_STATUS 
  deriving DecidableEq, Repr

/-- Where a register lies in its block, and its fields. -/
structure RegInfo where
  blk : Blk
  off : Nat
  count : Nat
  stride : Nat
  fields : List FieldSpec
  deriving DecidableEq, Repr

/-- The register tables of the owning chapters. -/
def RegName.info : RegName → RegInfo
  | .HUB_CAP0 => ⟨.hub, 0x0, 1, 8, [⟨63, 48, .ro, 3870⟩, ⟨47, 32, .ro, 3365⟩, ⟨31, 24, .ro, 1⟩, ⟨23, 20, .ro, 0⟩, ⟨19, 15, .ro, 0⟩, ⟨14, 11, .ro, 0⟩]⟩ -- R34
  | .HUB_CAP1 => ⟨.hub, 0x8, 1, 8, [⟨63, 56, .ro, 0⟩, ⟨55, 52, .ro, 0⟩, ⟨47, 40, .ro, 96⟩, ⟨39, 32, .ro, 12⟩, ⟨31, 24, .ro, 12⟩, ⟨23, 16, .ro, 0⟩, ⟨15, 8, .ro, 16⟩, ⟨7, 4, .ro, 4⟩]⟩ -- R34
  | .HUB_CAP2 => ⟨.hub, 0x10, 1, 8, [⟨35, 35, .ro, 1⟩, ⟨34, 34, .ro, 1⟩, ⟨33, 33, .ro, 0⟩, ⟨32, 32, .ro, 0⟩, ⟨31, 24, .ro, 0⟩, ⟨23, 0, .ro, 0⟩]⟩ -- R34
  | .HUB_CAP3 => ⟨.hub, 0x18, 1, 8, [⟨47, 0, .ro, 0⟩]⟩ -- R34
  | .HUB_DIE_IDENT => ⟨.hub, 0x100, 1, 8, [⟨31, 24, .ro, 0⟩, ⟨23, 20, .ro, 0⟩, ⟨16, 16, .ro, 0⟩, ⟨12, 12, .ro, 0⟩, ⟨11, 10, .ro, 0⟩, ⟨9, 8, .ro, 0⟩, ⟨7, 5, .ro, 0⟩, ⟨4, 0, .ro, 0⟩]⟩ -- R34
  | .DIE_IDENT => ⟨.die, 0x0, 1, 8, [⟨31, 24, .ro, 0⟩, ⟨23, 20, .ro, 0⟩, ⟨16, 16, .ro, 0⟩, ⟨12, 12, .ro, 0⟩, ⟨11, 10, .ro, 0⟩, ⟨9, 8, .ro, 0⟩, ⟨7, 5, .ro, 0⟩, ⟨4, 0, .ro, 0⟩]⟩ -- R34
  | .DIE_BRIDGE => ⟨.die, 0x8, 1, 8, [⟨23, 22, .ro, 0⟩, ⟨19, 18, .ro, 0⟩, ⟨15, 14, .ro, 0⟩, ⟨11, 10, .ro, 0⟩, ⟨7, 6, .ro, 0⟩, ⟨3, 2, .ro, 0⟩]⟩ -- R34
  | .DIE_BAYCAP => ⟨.die, 0x100, 12, 8, [⟨63, 63, .ro, 0⟩, ⟨62, 60, .ro, 0⟩, ⟨59, 59, .ro, 0⟩, ⟨58, 58, .ro, 0⟩, ⟨57, 56, .ro, 0⟩, ⟨55, 48, .ro, 0⟩, ⟨39, 32, .ro, 0⟩]⟩ -- R34
  | .BOOT_STATUS => ⟨.boot, 0x0, 1, 8, [⟨63, 63, .ro, 0⟩, ⟨62, 62, .ro, 0⟩, ⟨61, 61, .ro, 0⟩, ⟨55, 48, .ro, 0⟩, ⟨47, 44, .ro, 0⟩, ⟨33, 32, .ro, 3⟩, ⟨3, 0, .ro, 1⟩]⟩ -- R593
  | .BOOT_ERR => ⟨.boot, 0x8, 1, 8, [⟨55, 48, .ro, 0⟩, ⟨47, 40, .ro, 0⟩, ⟨39, 32, .ro, 255⟩, ⟨31, 0, .ro, 0⟩]⟩ -- R593
  | .BOOT_TRAIN => ⟨.boot, 0x10, 1, 8, [⟨59, 48, .ro, 0⟩, ⟨47, 36, .ro, 0⟩, ⟨31, 16, .ro, 0⟩, ⟨15, 0, .ro, 0⟩]⟩ -- R593
  | .BOOT_BUILD => ⟨.boot, 0x18, 1, 8, [⟨63, 0, .ro, 0⟩]⟩ -- R593
  | .BOOT_INFO => ⟨.boot, 0x20, 1, 8, [⟨63, 32, .ro, 0⟩, ⟨21, 16, .ro, 0⟩, ⟨6, 0, .ro, 0⟩]⟩ -- R593
  | .BOOT_DIGEST => ⟨.boot, 0x40, 6, 8, [⟨63, 0, .ro, 0⟩]⟩ -- R593
  | .BOOT_TIME => ⟨.boot, 0x88, 6, 8, [⟨31, 0, .ro, 0⟩]⟩ -- R593
  | .ALM_COUNT => ⟨.alm, 0x0, 1, 8, [⟨63, 0, .ro, 0⟩]⟩ -- R67
  | .ALM_STATUS => ⟨.alm, 0x8, 1, 8, [⟨31, 18, .ro, 0⟩, ⟨17, 17, .ro, 0⟩, ⟨16, 16, .ro, 0⟩, ⟨15, 15, .ro, 0⟩, ⟨14, 14, .ro, 0⟩, ⟨13, 10, .ro, 0⟩, ⟨9, 5, .ro, 31⟩, ⟨4, 4, .ro, 0⟩, ⟨3, 0, .ro, 0⟩]⟩ -- R67
  | .ALM_CTL => ⟨.alm, 0x10, 1, 8, [⟨1, 1, .wo, 0⟩, ⟨0, 0, .wo, 0⟩]⟩ -- R67
  | .ALM_CFG => ⟨.alm, 0x18, 1, 8, [⟨63, 56, .ro, 0⟩, ⟨55, 40, .ro, 0⟩, ⟨36, 32, .ro, 0⟩, ⟨28, 24, .ro, 0⟩, ⟨20, 16, .ro, 0⟩, ⟨12, 8, .ro, 0⟩, ⟨0, 0, .ro, 0⟩]⟩ -- R67
  | .ALM_START => ⟨.alm, 0x20, 1, 8, [⟨63, 0, .ro, 0⟩]⟩ -- R67
  | .ALM_HOLD => ⟨.alm, 0x28, 1, 8, [⟨63, 32, .ro, 0⟩, ⟨31, 0, .ro, 0⟩]⟩ -- R67
  | .ALM_HOLD_LIMIT => ⟨.alm, 0x30, 1, 8, [⟨15, 0, .rw, 8⟩]⟩ -- R67
  | .ALM_EVENTS => ⟨.alm, 0x38, 1, 8, [⟨8, 8, .w1c, 0⟩, ⟨7, 7, .w1c, 0⟩, ⟨6, 6, .w1c, 0⟩, ⟨5, 5, .w1c, 0⟩, ⟨4, 4, .w1c, 0⟩, ⟨3, 3, .w1c, 0⟩, ⟨2, 2, .w1c, 0⟩, ⟨1, 1, .w1c, 0⟩, ⟨0, 0, .w1c, 0⟩]⟩ -- R67
  | .ALM_TRIM => ⟨.alm, 0x40, 1, 8, [⟨47, 32, .ro, 0⟩, ⟨31, 0, .ro, 0⟩]⟩ -- R67
  | .ALM_PORT => ⟨.alm, 0x100, 24, 16, [⟨63, 63, .ro, 0⟩, ⟨62, 62, .ro, 0⟩, ⟨61, 61, .ro, 0⟩, ⟨60, 60, .ro, 0⟩, ⟨59, 59, .ro, 0⟩, ⟨55, 32, .ro, 0⟩, ⟨15, 0, .ro, 0⟩]⟩ -- R67
  | .ALM_PASYM => ⟨.alm, 0x108, 24, 16, [⟨15, 0, .ro, 0⟩]⟩ -- R67
  | .ALM_POFF => ⟨.alm, 0x300, 24, 8, [⟨63, 0, .ro, 0⟩]⟩ -- R67
  | .ALM_LCOUNT => ⟨.alml, 0x0, 1, 8, [⟨63, 0, .ro, 0⟩]⟩ -- R68
  | .ALM_LSTAT => ⟨.alml, 0x8, 1, 8, [⟨31, 16, .ro, 0⟩, ⟨6, 6, .ro, 0⟩, ⟨5, 5, .ro, 0⟩, ⟨4, 0, .ro, 4⟩]⟩ -- R68
  | .ALM_FCOUNT => ⟨.alml, 0x10, 1, 8, [⟨63, 0, .ro, 0⟩]⟩ -- R68
  | .SEQ_STATUS => ⟨.seq, 0x0, 1, 8, [⟨57, 48, .ro, 0⟩, ⟨47, 44, .ro, 0⟩, ⟨43, 43, .ro, 0⟩, ⟨42, 42, .ro, 0⟩, ⟨31, 26, .ro, 0⟩, ⟨23, 16, .ro, 255⟩, ⟨3, 0, .ro, 0⟩]⟩ -- R101
  | .SEQ_ERR => ⟨.seq, 0x8, 1, 8, [⟨63, 63, .w1c, 0⟩, ⟨55, 32, .ro, 0⟩, ⟨28, 26, .ro, 0⟩, ⟨25, 16, .ro, 0⟩, ⟨7, 0, .ro, 0⟩]⟩ -- R101
  | .SEQ_MARK => ⟨.seq, 0x10, 1, 8, [⟨63, 32, .ro, 0⟩, ⟨31, 0, .ro, 0⟩]⟩ -- R101
  | .SEQ_UNDERRUN => ⟨.seq, 0x18, 1, 8, [⟨63, 0, .ro, 0⟩]⟩ -- R101
  | .SEQ_PC => ⟨.seq, 0x100, 6, 8, [⟨63, 48, .ro, 0⟩, ⟨23, 0, .ro, 0⟩]⟩ -- R101
  | .SEQ_ROTA_CTL => ⟨.seq, 0x200, 1, 8, [⟨9, 9, .wo, 0⟩, ⟨8, 8, .wo, 0⟩, ⟨7, 7, .rw, 0⟩, ⟨5, 0, .rw, 0⟩]⟩ -- R101
  | .SEQ_ROTA_START => ⟨.seq, 0x208, 1, 8, [⟨47, 0, .rw, 0⟩]⟩ -- R101
  | .SEQ_ROTA_CUR => ⟨.seq, 0x210, 1, 8, [⟨63, 63, .w1c, 0⟩, ⟨55, 8, .ro, 0⟩, ⟨5, 0, .ro, 0⟩]⟩ -- R101
  | .SEQ_ROTA_A => ⟨.seq, 0x400, 64, 16, [⟨63, 63, .rw, 0⟩, ⟨62, 62, .rw, 0⟩, ⟨61, 52, .rw, 0⟩, ⟨51, 40, .rw, 0⟩, ⟨39, 38, .ro, 0⟩, ⟨31, 16, .ro, 0⟩, ⟨12, 0, .rw, 0⟩]⟩ -- R101
  | .SEQ_ROTA_B => ⟨.seq, 0x408, 64, 16, [⟨24, 16, .rw, 0⟩, ⟨8, 0, .rw, 0⟩]⟩ -- R101
  | .SEQ_TOKCFG => ⟨.seq, 0x800, 1, 8, [⟨63, 32, .rw, 65536⟩, ⟨31, 0, .rw, 0⟩]⟩ -- R131
  | .SEQ_TOKSEL => ⟨.seq, 0x808, 1, 8, [⟨9, 0, .rw, 0⟩]⟩ -- R131
  | .SEQ_TOKVIEW => ⟨.seq, 0x810, 1, 8, [⟨63, 32, .ro, 0⟩, ⟨31, 31, .ro, 0⟩, ⟨30, 30, .ro, 0⟩, ⟨29, 29, .ro, 0⟩, ⟨28, 28, .ro, 0⟩, ⟨27, 24, .ro, 0⟩, ⟨23, 16, .ro, 0⟩, ⟨7, 0, .ro, 0⟩]⟩ -- R131
  | .SEQ_TOKSIG => ⟨.seq, 0x818, 1, 8, [⟨39, 32, .wo, 0⟩, ⟨9, 0, .wo, 0⟩]⟩ -- R131
  | .SEQ_TOKERR => ⟨.seq, 0x820, 1, 8, [⟨63, 63, .w1c, 0⟩, ⟨57, 48, .ro, 0⟩, ⟨47, 40, .ro, 0⟩, ⟨31, 0, .ro, 0⟩]⟩ -- R131
  | .SEQ_TOKSTAT => ⟨.seq, 0x828, 1, 8, [⟨63, 32, .ro, 0⟩, ⟨31, 0, .ro, 0⟩]⟩ -- R131
  | .SEQ_SLIPMAX => ⟨.seq, 0x830, 1, 8, [⟨63, 61, .rc, 0⟩, ⟨60, 58, .rc, 0⟩, ⟨57, 32, .rc, 0⟩, ⟨31, 0, .rc, 0⟩]⟩ -- R131
  | .SEQ_RDVLAST0 => ⟨.seq, 0x838, 1, 8, [⟨63, 63, .ro, 0⟩, ⟨62, 62, .ro, 0⟩, ⟨61, 61, .ro, 0⟩, ⟨47, 32, .ro, 0⟩, ⟨31, 0, .ro, 0⟩]⟩ -- R131
  | .SEQ_RDVLAST1 => ⟨.seq, 0x840, 1, 8, [⟨47, 32, .ro, 0⟩, ⟨31, 0, .ro, 0⟩]⟩ -- R131
  | .SEQ_SLIP => ⟨.seq, 0x880, 8, 8, [⟨63, 32, .ro, 0⟩, ⟨31, 0, .ro, 0⟩]⟩ -- R131
  | .SEQ_LAG => ⟨.seq, 0x900, 6, 8, [⟨31, 0, .ro, 0⟩]⟩ -- R131
  | .SEQ_TB => ⟨.seq, 0x940, 6, 8, [⟨63, 0, .ro, 0⟩]⟩ -- R131
  | .SEQ_DTOK_LATE => ⟨.yard, 0x0, 1, 8, [⟨63, 0, .ro, 0⟩]⟩ -- R132
  | .MXA_STATUS => ⟨.mxa, 0x0, 1, 8, [⟨23, 16, .ro, 0⟩, ⟨12, 10, .ro, 0⟩, ⟨9, 9, .ro, 0⟩, ⟨8, 8, .ro, 0⟩, ⟨5, 5, .ro, 0⟩, ⟨4, 4, .ro, 0⟩, ⟨1, 1, .ro, 0⟩, ⟨0, 0, .ro, 0⟩]⟩ -- R186
  | .MXA_ERR => ⟨.mxa, 0x8, 1, 8, [⟨63, 63, .w1c, 0⟩, ⟨57, 48, .ro, 0⟩, ⟨40, 40, .ro, 0⟩, ⟨39, 32, .ro, 0⟩, ⟨31, 24, .ro, 0⟩, ⟨7, 0, .ro, 0⟩]⟩ -- R186
  | .MXA_REPAIR => ⟨.mxa, 0x10, 1, 8, [⟨35, 27, .ro, 0⟩, ⟨26, 18, .ro, 0⟩, ⟨17, 9, .ro, 0⟩, ⟨8, 0, .ro, 0⟩]⟩ -- R186
  | .MXA_LASTFLAGS => ⟨.mxa, 0x18, 1, 8, [⟨15, 0, .ro, 0⟩]⟩ -- R186
  | .MXA_COUNT => ⟨.mxa, 0x20, 1, 8, [⟨63, 32, .ro, 0⟩, ⟨31, 0, .ro, 0⟩]⟩ -- R186
  | .MXA_PASSES => ⟨.mxa, 0x28, 1, 8, [⟨63, 0, .ro, 0⟩]⟩ -- R186
  | .VXE_STATUS => ⟨.vxe, 0x0, 1, 8, [⟨23, 14, .ro, 0⟩, ⟨13, 8, .ro, 0⟩, ⟨2, 2, .ro, 0⟩, ⟨1, 1, .ro, 0⟩, ⟨0, 0, .ro, 0⟩]⟩ -- R214
  | .VXE_ERR => ⟨.vxe, 0x8, 1, 8, [⟨63, 63, .w1c, 0⟩, ⟨57, 48, .ro, 0⟩, ⟨39, 32, .ro, 0⟩, ⟨31, 24, .ro, 0⟩, ⟨7, 0, .ro, 0⟩]⟩ -- R214
  | .VXE_LASTFLAGS => ⟨.vxe, 0x10, 1, 8, [⟨15, 0, .ro, 0⟩]⟩ -- R214
  | .VXE_TFCUR => ⟨.vxe, 0x18, 1, 8, [⟨63, 63, .ro, 0⟩, ⟨25, 16, .ro, 0⟩, ⟨15, 0, .ro, 0⟩]⟩ -- R214
  | .VXE_TFSEL => ⟨.vxe, 0x20, 1, 8, [⟨9, 0, .rw, 0⟩]⟩ -- R214
  | .VXE_TFVIEW => ⟨.vxe, 0x28, 1, 8, [⟨15, 0, .w1c, 0⟩]⟩ -- R214
  | .VXE_COUNT => ⟨.vxe, 0x30, 1, 8, [⟨31, 0, .ro, 0⟩]⟩ -- R214
  | .VXE_OPS => ⟨.vxe, 0x38, 1, 8, [⟨63, 0, .ro, 0⟩]⟩ -- R214
  | .SHF_STATUS => ⟨.shf, 0x0, 1, 8, [⟨48, 32, .ro, 0⟩, ⟨24, 20, .ro, 0⟩, ⟨3, 0, .ro, 0⟩]⟩ -- R246
  | .SHF_FAULT => ⟨.shf, 0x8, 1, 8, [⟨63, 63, .w1c, 0⟩, ⟨57, 48, .ro, 0⟩, ⟨47, 37, .ro, 0⟩, ⟨36, 32, .ro, 0⟩, ⟨7, 0, .ro, 0⟩]⟩ -- R246
  | .SHF_FAULTPC => ⟨.shf, 0x10, 1, 8, [⟨47, 0, .ro, 0⟩]⟩ -- R246
  | .SHF_FAULTADDR => ⟨.shf, 0x18, 1, 8, [⟨47, 0, .ro, 0⟩]⟩ -- R246
  | .SHF_SPLITPACK => ⟨.shf, 0x28, 1, 8, [⟨63, 32, .ro, 0⟩, ⟨31, 0, .ro, 0⟩]⟩ -- R246
  | .SHF_CUT => ⟨.shf, 0x38, 1, 8, [⟨63, 32, .ro, 0⟩, ⟨31, 0, .ro, 0⟩]⟩ -- R246
  | .SHF_ISSUE => ⟨.shf, 0x20, 1, 8, [⟨63, 0, .ro, 0⟩]⟩ -- R246
  | .SHF_SECTORS => ⟨.shf, 0x30, 1, 8, [⟨63, 0, .ro, 0⟩]⟩ -- R246
  | .SEM_STATUS => ⟨.sem, 0x0, 1, 8, [⟨43, 32, .ro, 0⟩, ⟨1, 1, .ro, 0⟩, ⟨0, 0, .ro, 0⟩]⟩ -- R259
  | .SEM_ERR => ⟨.sem, 0x8, 1, 8, [⟨63, 63, .w1c, 0⟩, ⟨57, 48, .ro, 0⟩, ⟨42, 40, .ro, 0⟩, ⟨34, 24, .ro, 0⟩, ⟨7, 0, .ro, 0⟩]⟩ -- R259
  | .SEM_ERRCNT => ⟨.sem, 0x10, 1, 8, [⟨63, 32, .ro, 0⟩, ⟨31, 0, .ro, 0⟩]⟩ -- R259
  | .SEM_XFER_ADDR => ⟨.sem, 0x18, 1, 8, [⟨47, 0, .rw, 0⟩]⟩ -- R259
  | .SEM_XFER_CTL => ⟨.sem, 0x20, 1, 8, [⟨63, 63, .ro, 0⟩, ⟨62, 62, .wo, 0⟩, ⟨61, 61, .rw, 0⟩, ⟨43, 32, .rw, 0⟩, ⟨10, 0, .rw, 0⟩]⟩ -- R259
  | .SEM_POOL => ⟨.sem, 0x100, 64, 8, [⟨63, 63, .rw, 0⟩, ⟨57, 48, .rw, 0⟩, ⟨22, 16, .rw, 0⟩, ⟨7, 0, .rw, 0⟩]⟩ -- R259
  | .SEM_ARRAY => ⟨.semarr, 0x0, 2048, 8, [⟨31, 0, .ro, 0⟩]⟩ -- R260
  | .LFT_SPLIT => ⟨.lft, 0x0, 1, 8, [⟨2, 0, .rw, 0⟩]⟩ -- R286
  | .LFT_STATUS => ⟨.lft, 0x8, 1, 8, [⟨44, 32, .ro, 0⟩, ⟨28, 16, .ro, 0⟩, ⟨4, 0, .ro, 0⟩]⟩ -- R286
  | .LFT_ERR => ⟨.lft, 0x10, 1, 8, [⟨63, 63, .w1c, 0⟩, ⟨57, 48, .ro, 0⟩, ⟨47, 40, .ro, 0⟩, ⟨24, 0, .ro, 0⟩]⟩ -- R286
  | .LFT_CONF => ⟨.lft, 0x18, 1, 8, [⟨63, 32, .ro, 0⟩, ⟨31, 16, .ro, 0⟩, ⟨15, 0, .ro, 0⟩]⟩ -- R286
  | .LFT_CCFG => ⟨.lft, 0x20, 1, 8, [⟨31, 16, .rw, 16⟩, ⟨2, 0, .rw, 0⟩]⟩ -- R286
  | .LFT_CCTL => ⟨.lft, 0x28, 1, 8, [⟨1, 1, .w1s, 0⟩, ⟨0, 0, .rw, 0⟩]⟩ -- R286
  | .LFT_CHITS => ⟨.lft, 0x30, 1, 8, [⟨63, 0, .ro, 0⟩]⟩ -- R286
  | .LFT_CMISS => ⟨.lft, 0x38, 1, 8, [⟨63, 32, .ro, 0⟩, ⟨31, 0, .ro, 0⟩]⟩ -- R286
  | .LFT_ECC => ⟨.lft, 0x40, 1, 8, [⟨63, 32, .ro, 0⟩, ⟨31, 0, .ro, 0⟩]⟩ -- R286
  | .LFT_WINBASE => ⟨.lftc, 0x0, 1, 8, [⟨47, 0, .ro, 0⟩]⟩ -- R287
  | .LFT_DFWD => ⟨.lftc, 0x8, 1, 8, [⟨63, 0, .ro, 0⟩]⟩ -- R287
  | .GRN_STATUS => ⟨.grn, 0x0, 1, 8, [⟨47, 40, .ro, 0⟩, ⟨39, 32, .ro, 0⟩, ⟨31, 16, .ro, 0⟩, ⟨0, 0, .ro, 0⟩]⟩ -- R288
  | .GRN_MAP => ⟨.grn, 0x8, 1, 8, [⟨63, 48, .ro, 0⟩, ⟨47, 30, .ro, 0⟩]⟩ -- R288
  | .GRN_CFG => ⟨.grn, 0x10, 1, 8, [⟨23, 16, .rw, 24⟩, ⟨15, 0, .rw, 256⟩]⟩ -- R288
  | .GRN_ERR => ⟨.grn, 0x18, 1, 8, [⟨63, 63, .w1c, 0⟩, ⟨57, 53, .ro, 0⟩, ⟨52, 48, .ro, 0⟩, ⟨47, 47, .ro, 0⟩, ⟨46, 40, .ro, 0⟩, ⟨38, 6, .ro, 0⟩]⟩ -- R288
  | .GRN_ERRCNT => ⟨.grn, 0x20, 1, 8, [⟨63, 48, .ro, 0⟩, ⟨47, 32, .ro, 0⟩, ⟨31, 16, .ro, 0⟩, ⟨15, 0, .ro, 0⟩]⟩ -- R288
  | .GRN_LATMAX => ⟨.grn, 0x28, 1, 8, [⟨63, 32, .rc, 0⟩, ⟨31, 0, .rc, 0⟩]⟩ -- R288
  | .GRN_BYTES => ⟨.grn, 0x100, 32, 8, [⟨63, 0, .ro, 0⟩]⟩ -- R288
  | .GRN_SHR_A => ⟨.grn, 0x1000, 32, 16, [⟨63, 63, .rw, 0⟩, ⟨62, 62, .rw, 0⟩, ⟨61, 60, .rw, 0⟩, ⟨45, 23, .rw, 0⟩, ⟨22, 0, .rw, 0⟩]⟩ -- R288
  | .GRN_SHR_B => ⟨.grn, 0x1008, 32, 16, [⟨61, 0, .rw, 0⟩]⟩ -- R288
  | .MOV_STATUS => ⟨.mov, 0x0, 2, 8, [⟨55, 48, .ro, 0⟩, ⟨34, 32, .ro, 0⟩, ⟨31, 16, .ro, 0⟩, ⟨3, 0, .ro, 0⟩]⟩ -- R314
  | .MOV_ERR => ⟨.mov, 0x10, 1, 8, [⟨63, 63, .w1c, 0⟩, ⟨57, 48, .ro, 0⟩, ⟨47, 47, .ro, 0⟩, ⟨46, 46, .ro, 0⟩, ⟨39, 8, .ro, 0⟩, ⟨7, 0, .ro, 0⟩]⟩ -- R314
  | .MOV_COUNT => ⟨.mov, 0x18, 1, 8, [⟨63, 48, .ro, 0⟩, ⟨47, 32, .ro, 0⟩, ⟨31, 0, .ro, 0⟩]⟩ -- R314
  | .MOV_BYTES => ⟨.mov, 0x20, 2, 8, [⟨63, 0, .ro, 0⟩]⟩ -- R314
  | .MOV_HUSK => ⟨.mov, 0x30, 1, 8, [⟨63, 0, .ro, 0⟩]⟩ -- R314
  | .MOV_ERRDESC => ⟨.mov, 0x38, 1, 8, [⟨47, 6, .ro, 0⟩]⟩ -- R314
  | .MOV_BSUB => ⟨.movb, 0x0, 1, 8, [⟨47, 6, .wo, 0⟩]⟩ -- R315
  | .MOV_BSTAT => ⟨.movb, 0x8, 1, 8, [⟨38, 32, .ro, 0⟩, ⟨7, 0, .ro, 0⟩]⟩ -- R315
  | .MOV_BERR => ⟨.movb, 0x10, 1, 8, [⟨63, 63, .w1c, 0⟩, ⟨57, 48, .ro, 0⟩, ⟨47, 45, .ro, 0⟩, ⟨39, 8, .ro, 0⟩, ⟨7, 0, .ro, 0⟩]⟩ -- R315
  | .MOV_BFLAGS => ⟨.movb, 0x18, 1, 8, [⟨15, 0, .w1c, 0⟩]⟩ -- R315
  | .MOV_BCOUNT => ⟨.movb, 0x20, 1, 8, [⟨63, 0, .ro, 0⟩]⟩ -- R315
  | .MOV_BERRDESC => ⟨.movb, 0x28, 1, 8, [⟨47, 6, .ro, 0⟩]⟩ -- R315
  | .ETR_STATUS => ⟨.etr, 0x0, 1, 8, [⟨63, 32, .ro, 0⟩, ⟨22, 16, .ro, 0⟩, ⟨2, 0, .ro, 0⟩]⟩ -- R337
  | .ETR_ERR => ⟨.etr, 0x8, 1, 8, [⟨63, 63, .w1c, 0⟩, ⟨57, 48, .ro, 0⟩, ⟨42, 40, .ro, 0⟩, ⟨34, 32, .ro, 0⟩, ⟨7, 0, .ro, 0⟩]⟩ -- R337
  | .ETR_ERRVA => ⟨.etr, 0x10, 1, 8, [⟨47, 0, .ro, 0⟩]⟩ -- R337
  | .ETR_HITS => ⟨.etr, 0x18, 1, 8, [⟨63, 0, .ro, 0⟩]⟩ -- R337
  | .ETR_MISSES => ⟨.etr, 0x20, 1, 8, [⟨63, 0, .ro, 0⟩]⟩ -- R337
  | .ETR_FAULTS => ⟨.etr, 0x28, 1, 8, [⟨63, 32, .ro, 0⟩, ⟨31, 0, .ro, 0⟩]⟩ -- R337
  | .ETR_INV_CTL => ⟨.etrw, 0x0, 1, 8, [⟨63, 63, .ro, 0⟩, ⟨62, 62, .wo, 0⟩, ⟨61, 60, .rw, 0⟩, ⟨57, 48, .rw, 0⟩, ⟨15, 0, .rw, 0⟩]⟩ -- R338
  | .ETR_INV_ADDR => ⟨.etrw, 0x8, 1, 8, [⟨47, 16, .rw, 0⟩]⟩ -- R338
  | .ETR_PFCFG => ⟨.etrw, 0x10, 1, 8, [⟨15, 0, .rw, 4096⟩]⟩ -- R338
  | .ETR_PFRESP => ⟨.etrw, 0x18, 1, 8, [⟨23, 19, .wo, 0⟩, ⟨18, 17, .wo, 0⟩, ⟨15, 0, .wo, 0⟩]⟩ -- R338
  | .ETR_PFSTAT => ⟨.etrw, 0x20, 1, 8, [⟨63, 48, .ro, 0⟩, ⟨47, 32, .ro, 0⟩, ⟨31, 16, .ro, 0⟩, ⟨6, 0, .ro, 0⟩]⟩ -- R338
  | .ETR_WALKS => ⟨.etrw, 0x28, 1, 8, [⟨63, 0, .ro, 0⟩]⟩ -- R338
  | .ETR_WALKMAX => ⟨.etrw, 0x30, 1, 8, [⟨31, 0, .rc, 0⟩]⟩ -- R338
  | .ETR_PFRING => ⟨.etrw, 0x100, 16, 8, [⟨63, 63, .rw, 0⟩, ⟨11, 0, .rw, 0⟩]⟩ -- R338
  | .CMX_STATUS => ⟨.cluster, 0x10000, 1, 8, [⟨15, 8, .ro, 0⟩, ⟨5, 0, .ro, 0⟩]⟩ -- R368
  | .CMX_ERR => ⟨.cluster, 0x10008, 1, 8, [⟨63, 63, .w1c, 0⟩, ⟨18, 16, .ro, 0⟩, ⟨15, 15, .ro, 0⟩, ⟨7, 0, .ro, 0⟩]⟩ -- R368
  | .CMX_COUNT => ⟨.cluster, 0x10010, 1, 8, [⟨63, 32, .ro, 0⟩, ⟨31, 0, .ro, 0⟩]⟩ -- R368
  | .COH_LLCWAY => ⟨.home, 0x30000, 1, 8, [⟨47, 32, .ro, 0⟩, ⟨31, 16, .ro, 0⟩, ⟨15, 0, .w1s, 0⟩]⟩ -- R369
  | .COH_LLCECC => ⟨.home, 0x30008, 1, 8, [⟨47, 40, .rw, 16⟩, ⟨39, 32, .rw, 16⟩, ⟨31, 0, .ro, 0⟩]⟩ -- R369
  | .COH_LLCERR => ⟨.home, 0x30010, 1, 8, [⟨63, 63, .w1c, 0⟩, ⟨62, 60, .ro, 0⟩, ⟨59, 56, .ro, 0⟩, ⟨47, 6, .ro, 0⟩]⟩ -- R369
  | .COH_HSTATUS => ⟨.home, 0x0, 1, 8, [⟨35, 32, .ro, 0⟩, ⟨9, 0, .ro, 0⟩]⟩ -- R388
  | .COH_HCFG => ⟨.home, 0x8, 1, 8, [⟨15, 0, .rw, 256⟩]⟩ -- R388
  | .COH_HERR => ⟨.home, 0x10, 1, 8, [⟨63, 63, .w1c, 0⟩, ⟨62, 60, .ro, 0⟩, ⟨55, 49, .ro, 0⟩, ⟨47, 6, .ro, 0⟩]⟩ -- R388
  | .COH_DIRSTAT => ⟨.home, 0x28, 1, 8, [⟨31, 0, .ro, 0⟩]⟩ -- R388
  | .COH_DEPART0 => ⟨.home, 0x18, 1, 8, [⟨63, 0, .ro, 0⟩]⟩ -- R388
  | .COH_DEPART1 => ⟨.home, 0x20, 1, 8, [⟨43, 0, .ro, 0⟩]⟩ -- R388
  | .COH_AGED => ⟨.home, 0x30, 1, 8, [⟨63, 32, .ro, 0⟩, ⟨31, 0, .ro, 0⟩]⟩ -- R388
  | .COH_CROSS => ⟨.home, 0x38, 1, 8, [⟨63, 32, .ro, 0⟩, ⟨31, 0, .ro, 0⟩]⟩ -- R388
  | .COH_DIRECC => ⟨.home, 0x40, 1, 8, [⟨63, 32, .ro, 0⟩, ⟨31, 0, .ro, 0⟩]⟩ -- R388
  | .COH_CA_STATUS => ⟨.coha, 0x0, 1, 8, [⟨27, 16, .ro, 0⟩, ⟨9, 0, .ro, 0⟩]⟩ -- R389
  | .COH_CA_COUNT => ⟨.coha, 0x8, 1, 8, [⟨63, 32, .ro, 0⟩, ⟨31, 0, .ro, 0⟩]⟩ -- R389
  | .VK_STATUS => ⟨.vk, 0x0, 1, 8, [⟨43, 40, .ro, 0⟩, ⟨39, 38, .ro, 0⟩, ⟨37, 37, .ro, 0⟩, ⟨35, 32, .ro, 0⟩, ⟨15, 12, .ro, 0⟩, ⟨11, 8, .ro, 0⟩, ⟨3, 0, .ro, 0⟩]⟩ -- R435
  | .VK_CTL => ⟨.vk, 0x8, 1, 8, [⟨1, 1, .wo, 0⟩, ⟨0, 0, .rw, 0⟩]⟩ -- R435
  | .VK_CFG => ⟨.vk, 0x10, 1, 8, [⟨63, 48, .rw, 0⟩, ⟨47, 40, .rw, 0⟩, ⟨39, 24, .rw, 0⟩, ⟨23, 12, .rw, 0⟩]⟩ -- R435
  | .VK_PEER => ⟨.vk, 0x18, 1, 8, [⟨33, 32, .ro, 0⟩, ⟨29, 16, .ro, 0⟩, ⟨4, 0, .ro, 0⟩]⟩ -- R435
  | .VK_PEERID => ⟨.vk, 0x20, 1, 8, [⟨63, 63, .ro, 0⟩, ⟨47, 32, .ro, 0⟩, ⟨29, 16, .ro, 0⟩, ⟨4, 0, .ro, 0⟩]⟩ -- R435
  | .VK_ERR => ⟨.vk, 0x30, 1, 8, [⟨63, 63, .w1c, 0⟩, ⟨39, 8, .ro, 0⟩, ⟨7, 0, .ro, 0⟩]⟩ -- R435
  | .VK_LANES => ⟨.vk, 0x28, 1, 8, [⟨19, 16, .ro, 0⟩, ⟨15, 8, .ro, 255⟩, ⟨7, 0, .ro, 255⟩]⟩ -- R435
  | .VK_FEC => ⟨.vk, 0x38, 1, 8, [⟨63, 32, .ro, 0⟩, ⟨31, 0, .ro, 0⟩]⟩ -- R435
  | .VK_REPLAY => ⟨.vk, 0x40, 1, 8, [⟨63, 32, .ro, 0⟩, ⟨31, 0, .ro, 0⟩]⟩ -- R435
  | .VK_EXP => ⟨.vk, 0x48, 1, 8, [⟨63, 32, .ro, 0⟩, ⟨31, 0, .ro, 0⟩]⟩ -- R435
  | .VK_TRAIN => ⟨.vk, 0x50, 1, 8, [⟨63, 32, .ro, 0⟩, ⟨31, 0, .ro, 0⟩]⟩ -- R435
  | .PRT_STATUS => ⟨.prt, 0x0, 1, 8, [⟨63, 32, .ro, 0⟩, ⟨31, 16, .ro, 0⟩, ⟨0, 0, .ro, 0⟩]⟩ -- R480
  | .PRT_ERR => ⟨.prt, 0x8, 1, 8, [⟨63, 63, .w1c, 0⟩, ⟨55, 48, .ro, 0⟩, ⟨47, 43, .ro, 0⟩, ⟨42, 34, .ro, 0⟩, ⟨33, 30, .ro, 0⟩, ⟨29, 20, .ro, 0⟩, ⟨19, 0, .ro, 0⟩]⟩ -- R480
  | .PRT_PART_A => ⟨.prt, 0x100, 16, 32, [⟨63, 63, .ro, 0⟩, ⟨62, 62, .ro, 0⟩, ⟨61, 60, .ro, 0⟩, ⟨43, 32, .ro, 0⟩, ⟨31, 25, .ro, 0⟩, ⟨17, 0, .ro, 0⟩]⟩ -- R480
  | .PRT_PART_B => ⟨.prt, 0x108, 16, 32, [⟨55, 32, .ro, 0⟩, ⟨31, 0, .ro, 0⟩]⟩ -- R480
  | .PRT_PART_C => ⟨.prt, 0x110, 16, 32, [⟨44, 32, .ro, 0⟩, ⟨11, 0, .ro, 0⟩]⟩ -- R480
  | .PRT_MID => ⟨.prt, 0x1000, 512, 8, [⟨63, 63, .ro, 0⟩, ⟨62, 62, .ro, 0⟩, ⟨61, 60, .ro, 0⟩, ⟨51, 48, .ro, 0⟩]⟩ -- R480
  | .PRT_TEN_A => ⟨.prt, 0x2000, 1024, 32, [⟨63, 63, .rw, 0⟩, ⟨62, 62, .rw, 0⟩, ⟨61, 58, .rw, 0⟩, ⟨47, 10, .rw, 0⟩]⟩ -- R480
  | .PRT_TEN_B => ⟨.prt, 0x2008, 1024, 32, [⟨47, 16, .rw, 0⟩]⟩ -- R480
  | .PRT_TEN_C => ⟨.prt, 0x2010, 1024, 32, [⟨32, 0, .rw, 0⟩]⟩ -- R480
  | .PRT_GGRAN => ⟨.prt, 0x10000, 432, 8, [⟨63, 63, .ro, 0⟩, ⟨51, 48, .ro, 0⟩, ⟨31, 16, .ro, 0⟩]⟩ -- R480
  | .PRT_HGRAN => ⟨.prt, 0x11000, 4096, 8, [⟨63, 63, .ro, 0⟩, ⟨51, 48, .ro, 0⟩, ⟨31, 16, .ro, 0⟩]⟩ -- R480
  | .SEC_STATUS => ⟨.sec, 0x0, 1, 8, [⟨63, 32, .ro, 0⟩, ⟨11, 8, .ro, 0⟩, ⟨3, 3, .w1c, 0⟩, ⟨2, 2, .ro, 0⟩, ⟨1, 1, .ro, 0⟩, ⟨0, 0, .ro, 0⟩]⟩ -- R481
  | .SEC_UID => ⟨.sec, 0x8, 1, 8, [⟨63, 0, .ro, 0⟩]⟩ -- R481
  | .SEC_REKEY => ⟨.sec, 0x10, 1, 8, [⟨63, 63, .ro, 0⟩, ⟨62, 62, .wo, 0⟩, ⟨3, 0, .rw, 0⟩]⟩ -- R481
  | .SEC_DBG_NONCE => ⟨.sec, 0x18, 1, 8, [⟨63, 0, .ro, 0⟩]⟩ -- R481
  | .SEC_DBG_CTL => ⟨.sec, 0x20, 1, 8, [⟨63, 63, .ro, 0⟩, ⟨62, 62, .wo, 0⟩, ⟨61, 61, .wo, 0⟩, ⟨43, 40, .ro, 0⟩, ⟨16, 0, .rw, 0⟩]⟩ -- R481
  | .SEC_DBG_STATE => ⟨.sec, 0x28, 1, 8, [⟨32, 32, .ro, 0⟩, ⟨31, 16, .ro, 0⟩, ⟨15, 0, .ro, 0⟩]⟩ -- R481
  | .SEC_DBG_EXPIRY => ⟨.sec, 0x30, 1, 8, [⟨47, 0, .ro, 0⟩]⟩ -- R481
  | .SEC_KEYEPOCH => ⟨.sec, 0x40, 16, 8, [⟨31, 0, .ro, 0⟩]⟩ -- R481
  | .SEC_DBG_TOKEN => ⟨.sec, 0x1000, 1024, 8, [⟨63, 0, .wo, 0⟩]⟩ -- R481
  | .RNG_DB_PROD => ⟨.door, 0x0, 1, 8, [⟨63, 48, .wo, 0⟩, ⟨16, 16, .wo, 0⟩, ⟨6, 0, .wo, 0⟩]⟩ -- R484
  | .RNG_DB_CONS => ⟨.door, 0x8, 1, 8, [⟨63, 63, .wo, 0⟩, ⟨31, 0, .wo, 0⟩]⟩ -- R484
  | .RNG_DB_STATE => ⟨.door, 0x10, 1, 8, [⟨63, 48, .ro, 0⟩, ⟨39, 39, .ro, 0⟩, ⟨38, 32, .ro, 0⟩, ⟨31, 0, .ro, 0⟩]⟩ -- R484
  | .RNG_DB_CIDX => ⟨.door, 0x18, 1, 8, [⟨63, 63, .ro, 0⟩, ⟨31, 0, .ro, 0⟩]⟩ -- R484
  | .RNG_CFG => ⟨.rng, 0x0, 1, 8, [⟨63, 63, .rw, 0⟩, ⟨62, 60, .rw, 0⟩, ⟨59, 56, .rw, 0⟩, ⟨55, 55, .rw, 0⟩, ⟨43, 32, .rw, 0⟩, ⟨31, 30, .rw, 0⟩, ⟨15, 0, .rw, 0⟩]⟩ -- R496
  | .RNG_BASE => ⟨.rng, 0x8, 1, 8, [⟨47, 10, .rw, 0⟩]⟩ -- R496
  | .RNG_MSI => ⟨.rng, 0x10, 1, 8, [⟨55, 48, .rw, 0⟩, ⟨47, 2, .rw, 0⟩]⟩ -- R496
  | .RNG_CTL => ⟨.rng, 0x18, 1, 8, [⟨1, 1, .wo, 0⟩, ⟨0, 0, .wo, 0⟩]⟩ -- R496
  | .RNG_STATE => ⟨.rng, 0x20, 1, 8, [⟨63, 48, .ro, 0⟩, ⟨39, 39, .ro, 0⟩, ⟨38, 32, .ro, 0⟩, ⟨31, 0, .ro, 0⟩]⟩ -- R496
  | .RNG_CIDX => ⟨.rng, 0x28, 1, 8, [⟨63, 63, .ro, 0⟩, ⟨31, 0, .ro, 0⟩]⟩ -- R496
  | .RNG_STAT => ⟨.rng, 0x30, 1, 8, [⟨63, 48, .ro, 0⟩, ⟨47, 32, .ro, 0⟩, ⟨31, 16, .ro, 0⟩, ⟨15, 8, .ro, 0⟩, ⟨7, 0, .ro, 0⟩]⟩ -- R496
  | .RNG_ERR => ⟨.rng, 0x38, 1, 8, [⟨63, 63, .w1c, 0⟩, ⟨39, 32, .ro, 0⟩, ⟨31, 0, .ro, 0⟩]⟩ -- R496
  | .PWR_STATUS => ⟨.pwr, 0x0, 1, 8, [⟨15, 15, .ro, 0⟩, ⟨14, 14, .ro, 0⟩, ⟨13, 13, .ro, 0⟩, ⟨12, 12, .ro, 0⟩, ⟨10, 8, .ro, 0⟩, ⟨6, 4, .ro, 0⟩, ⟨2, 0, .ro, 0⟩]⟩ -- R526
  | .PWR_EVENTS => ⟨.pwr, 0x8, 1, 8, [⟨7, 7, .w1c, 0⟩, ⟨6, 6, .w1c, 0⟩, ⟨5, 5, .w1c, 0⟩, ⟨4, 4, .w1c, 0⟩, ⟨3, 3, .w1c, 0⟩, ⟨2, 2, .w1c, 0⟩, ⟨1, 1, .w1c, 0⟩, ⟨0, 0, .w1c, 0⟩]⟩ -- R526
  | .PWR_PPL => ⟨.pwr, 0x10, 1, 8, [⟨59, 48, .ro, 0⟩, ⟨47, 36, .ro, 0⟩, ⟨35, 24, .ro, 0⟩, ⟨11, 0, .rw, 0⟩]⟩ -- R526
  | .PWR_SURGE => ⟨.pwr, 0x18, 1, 8, [⟨55, 40, .ro, 0⟩, ⟨39, 32, .ro, 0⟩, ⟨31, 16, .ro, 0⟩, ⟨15, 0, .rw, 0⟩]⟩ -- R526
  | .PWR_EST => ⟨.pwr, 0x20, 1, 8, [⟨63, 48, .ro, 0⟩, ⟨47, 32, .ro, 0⟩, ⟨31, 16, .ro, 0⟩, ⟨15, 0, .ro, 4096⟩]⟩ -- R526
  | .PWR_CFG => ⟨.pwr, 0x30, 1, 8, [⟨63, 56, .rw, 0⟩, ⟨55, 48, .rw, 100⟩, ⟨47, 40, .rw, 95⟩, ⟨39, 36, .rw, 3⟩, ⟨35, 32, .rw, 0⟩, ⟨31, 24, .ro, 0⟩, ⟨23, 16, .ro, 0⟩, ⟨12, 12, .rw, 0⟩, ⟨11, 0, .rw, 0⟩]⟩ -- R526
  | .PWR_GRP => ⟨.pwr, 0x38, 1, 8, [⟨63, 56, .ro, 0⟩, ⟨55, 48, .rw, 0⟩, ⟨47, 32, .rw, 0⟩, ⟨31, 24, .rw, 0⟩, ⟨23, 12, .rw, 0⟩, ⟨11, 0, .rw, 0⟩]⟩ -- R526
  | .PWR_SHIFT => ⟨.pwr, 0x40, 1, 8, [⟨63, 52, .ro, 0⟩, ⟨51, 40, .ro, 0⟩, ⟨31, 20, .ro, 0⟩, ⟨19, 8, .ro, 0⟩, ⟨7, 0, .ro, 0⟩]⟩ -- R526
  | .PWR_RECON => ⟨.pwr, 0x28, 1, 8, [⟨63, 32, .ro, 0⟩, ⟨31, 0, .ro, 0⟩]⟩ -- R526
  | .PWR_PCAP => ⟨.pwr, 0x48, 1, 8, [⟨2, 0, .ro, 0⟩, ⟨6, 4, .ro, 0⟩, ⟨10, 8, .ro, 0⟩, ⟨14, 12, .ro, 0⟩, ⟨18, 16, .ro, 0⟩, ⟨22, 20, .ro, 0⟩, ⟨26, 24, .ro, 0⟩, ⟨30, 28, .ro, 0⟩, ⟨34, 32, .ro, 0⟩, ⟨38, 36, .ro, 0⟩, ⟨42, 40, .ro, 0⟩, ⟨46, 44, .ro, 0⟩]⟩ -- R526
  | .PWR_COEF => ⟨.pwr, 0x100, 16, 8, [⟨39, 16, .ro, 0⟩, ⟨15, 0, .rw, 0⟩]⟩ -- R526
  | .PWR_TEMP => ⟨.pwr, 0x200, 32, 8, [⟨47, 32, .rc, 0⟩, ⟨15, 0, .ro, 0⟩]⟩ -- R526
  | .PWR_STEMP => ⟨.pwr, 0x300, 12, 8, [⟨47, 32, .rc, 0⟩, ⟨15, 0, .ro, 0⟩]⟩ -- R526
  | .PWR_POVH => ⟨.pwr, 0x400, 16, 8, [⟨63, 0, .ro, 0⟩]⟩ -- R526
  | .PWR_PKGOVH => ⟨.pwr, 0x480, 1, 8, [⟨63, 0, .ro, 0⟩]⟩ -- R526
  | .PWR_VTAB => ⟨.pwr, 0x820, 13, 8, [⟨42, 32, .ro, 0⟩, ⟨27, 16, .ro, 0⟩, ⟨11, 0, .ro, 0⟩]⟩ -- R526
  | .PWR_TEN => ⟨.pwr, 0x2000, 1024, 8, [⟨63, 0, .ro, 0⟩]⟩ -- R526
  | .PWR_LSTAT => ⟨.pwrl, 0x0, 1, 8, [⟨27, 25, .ro, 0⟩, ⟨24, 24, .ro, 0⟩, ⟨23, 19, .ro, 4⟩, ⟨18, 14, .ro, 16⟩, ⟨9, 5, .ro, 4⟩, ⟨4, 0, .ro, 4⟩]⟩ -- R527
  | .PWR_LCFG => ⟨.pwrl, 0x8, 1, 8, [⟨31, 16, .rw, 0⟩, ⟨15, 8, .rw, 50⟩, ⟨4, 0, .rw, 0⟩]⟩ -- R527
  | .PWR_LREQ => ⟨.pwrl, 0x10, 1, 8, [⟨59, 0, .ro, 0⟩]⟩ -- R527
  | .PWR_LGRANT => ⟨.pwrl, 0x18, 1, 8, [⟨63, 48, .ro, 0⟩, ⟨47, 32, .ro, 0⟩, ⟨31, 16, .ro, 0⟩, ⟨15, 0, .ro, 0⟩]⟩ -- R527
  | .PWR_LDROOP => ⟨.pwrl, 0x20, 1, 8, [⟨63, 32, .ro, 0⟩, ⟨31, 16, .ro, 0⟩, ⟨15, 0, .ro, 0⟩]⟩ -- R527
  | .FLT_STATUS => ⟨.flt, 0x0, 1, 8, [⟨40, 32, .ro, 0⟩, ⟨2, 2, .ro, 0⟩, ⟨1, 1, .ro, 0⟩, ⟨0, 0, .w1c, 0⟩]⟩ -- R548
  | .FLT_CFG => ⟨.flt, 0x8, 1, 8, [⟨63, 56, .rw, 2⟩, ⟨55, 48, .rw, 16⟩, ⟨47, 40, .rw, 8⟩, ⟨39, 32, .rw, 64⟩, ⟨31, 24, .rw, 16⟩, ⟨23, 16, .rw, 4⟩]⟩ -- R548
  | .FLT_RST => ⟨.flt, 0x20, 1, 8, [⟨31, 16, .wo, 0⟩, ⟨12, 8, .wo, 0⟩, ⟨1, 1, .wo, 0⟩, ⟨0, 0, .wo, 0⟩]⟩ -- R548
  | .FLT_PRST => ⟨.flt, 0x28, 1, 8, [⟨63, 63, .ro, 0⟩, ⟨62, 62, .wo, 0⟩, ⟨61, 61, .wo, 0⟩, ⟨31, 16, .ro, 0⟩, ⟨3, 0, .rw, 0⟩]⟩ -- R548
  | .FLT_LOGCTL => ⟨.flt, 0x10, 1, 8, [⟨24, 16, .ro, 0⟩, ⟨8, 0, .rw, 0⟩]⟩ -- R548
  | .FLT_LOST => ⟨.flt, 0x18, 1, 8, [⟨63, 32, .ro, 0⟩, ⟨31, 0, .ro, 0⟩]⟩ -- R548
  | .FLT_BELL => ⟨.flt, 0x30, 1, 8, [⟨32, 32, .ro, 0⟩, ⟨31, 0, .ro, 0⟩]⟩ -- R548
  | .FLT_REPAIR => ⟨.flt, 0x38, 1, 8, [⟨63, 48, .ro, 0⟩, ⟨47, 32, .ro, 0⟩, ⟨31, 16, .ro, 0⟩, ⟨15, 0, .ro, 0⟩]⟩ -- R548
  | .FLT_SYSRING => ⟨.flt, 0x40, 1, 8, [⟨63, 63, .rw, 0⟩, ⟨11, 0, .rw, 0⟩]⟩ -- R548
  | .FLT_PRING => ⟨.flt, 0x80, 16, 8, [⟨63, 63, .rw, 0⟩, ⟨11, 0, .rw, 0⟩]⟩ -- R548
  | .FLT_LOG => ⟨.flt, 0x1000, 1024, 8, [⟨63, 0, .ro, 0⟩]⟩ -- R548
  | .FLT_DSTATUS => ⟨.fltd, 0x0, 1, 8, [⟨38, 32, .ro, 0⟩, ⟨0, 0, .w1c, 0⟩]⟩ -- R549
  | .FLT_DLINK => ⟨.fltd, 0x8, 2, 8, [⟨63, 32, .ro, 0⟩, ⟨31, 0, .ro, 0⟩]⟩ -- R549
  | .FLT_BLAST => ⟨.bflt, 0x0, 4, 8, [⟨63, 0, .ro, 0⟩]⟩ -- R550
  | .FLT_BCOUNT => ⟨.bflt, 0x20, 1, 8, [⟨63, 0, .ro, 0⟩]⟩ -- R550
  | .DBG_BSTAT => ⟨.bdbg, 0x0, 1, 8, [⟨63, 32, .ro, 0⟩, ⟨31, 16, .ro, 0⟩, ⟨2, 2, .w1c, 0⟩, ⟨1, 1, .ro, 0⟩, ⟨0, 0, .ro, 0⟩]⟩ -- R571
  | .DBG_BCTL => ⟨.bdbg, 0x8, 1, 8, [⟨1, 1, .wo, 0⟩, ⟨0, 0, .rw, 0⟩]⟩ -- R571
  | .DBG_TSEL => ⟨.bdbg, 0x10, 1, 8, [⟨22, 21, .rw, 0⟩, ⟨20, 10, .rw, 0⟩, ⟨4, 0, .rw, 0⟩]⟩ -- R571
  | .DBG_VSEL => ⟨.bdbg, 0x18, 1, 8, [⟨5, 0, .rw, 0⟩]⟩ -- R571
  | .DBG_TREG => ⟨.bdbg, 0x100, 66, 8, [⟨63, 0, .rw, 0⟩]⟩ -- R571
  | .DBG_VWIN => ⟨.bdbg, 0x400, 64, 8, [⟨63, 0, .rw, 0⟩]⟩ -- R571
  | .DBG_ACTL => ⟨.dbgtrc, 0x0, 1, 8, [⟨63, 63, .ro, 0⟩, ⟨62, 62, .wo, 0⟩, ⟨61, 61, .rw, 0⟩, ⟨60, 60, .rw, 0⟩, ⟨59, 56, .rw, 0⟩, ⟨50, 48, .ro, 0⟩]⟩ -- R572
  | .DBG_AADDR => ⟨.dbgtrc, 0x8, 1, 8, [⟨47, 0, .rw, 0⟩]⟩ -- R572
  | .DBG_ADATA => ⟨.dbgtrc, 0x10, 1, 8, [⟨63, 0, .rw, 0⟩]⟩ -- R572
  | .DBG_PHALT => ⟨.dbgtrc, 0x18, 1, 8, [⟨63, 62, .wo, 0⟩, ⟨3, 0, .rw, 0⟩]⟩ -- R572
  | .DBG_PAT => ⟨.dbgtrc, 0x20, 1, 8, [⟨63, 0, .rw, 0⟩]⟩ -- R572
  | .DBG_PSTAT => ⟨.dbgtrc, 0x28, 1, 8, [⟨63, 48, .w1c, 0⟩, ⟨47, 32, .ro, 0⟩, ⟨31, 16, .ro, 0⟩, ⟨15, 0, .ro, 0⟩]⟩ -- R572
  | .DBG_DMI => ⟨.dbgtrc, 0x30, 1, 8, [⟨63, 32, .rw, 0⟩, ⟨31, 31, .wo, 0⟩, ⟨30, 30, .rw, 0⟩, ⟨29, 29, .ro, 0⟩, ⟨6, 0, .rw, 0⟩]⟩ -- R572
  | .DBG_LOCKST => ⟨.dbgtrc, 0x38, 1, 8, [⟨63, 32, .ro, 0⟩, ⟨31, 0, .ro, 0⟩]⟩ -- R572
  | .TRC_BCFG => ⟨.btrc, 0x0, 1, 8, [⟨63, 63, .rw, 0⟩, ⟨62, 62, .rw, 0⟩, ⟨61, 61, .rw, 0⟩, ⟨60, 60, .rw, 0⟩, ⟨59, 59, .rw, 0⟩, ⟨58, 58, .rw, 0⟩, ⟨57, 57, .rw, 0⟩, ⟨53, 48, .rw, 0⟩, ⟨47, 44, .rw, 0⟩, ⟨43, 40, .rw, 0⟩, ⟨31, 0, .rw, 0⟩]⟩ -- R573
  | .TRC_BSTAT => ⟨.btrc, 0x8, 1, 8, [⟨6, 0, .ro, 0⟩]⟩ -- R573
  | .TRC_BLOST => ⟨.btrc, 0x10, 1, 8, [⟨63, 48, .ro, 0⟩, ⟨47, 32, .ro, 0⟩, ⟨31, 16, .ro, 0⟩, ⟨15, 0, .ro, 0⟩]⟩ -- R573
  | .TRC_SEL => ⟨.dbgtrc, 0x8000, 1, 8, [⟨3, 0, .rw, 0⟩]⟩ -- R574
  | .TRC_BASE => ⟨.dbgtrc, 0x8008, 1, 8, [⟨47, 12, .rw, 0⟩]⟩ -- R574
  | .TRC_CFG => ⟨.dbgtrc, 0x8010, 1, 8, [⟨63, 63, .rw, 0⟩, ⟨62, 61, .rw, 0⟩, ⟨60, 56, .rw, 0⟩, ⟨55, 52, .rw, 0⟩]⟩ -- R574
  | .TRC_WPTR => ⟨.dbgtrc, 0x8018, 1, 8, [⟨31, 0, .ro, 0⟩]⟩ -- R574
  | .TRC_STAT => ⟨.dbgtrc, 0x8020, 1, 8, [⟨59, 32, .ro, 0⟩, ⟨5, 5, .ro, 0⟩, ⟨4, 4, .ro, 0⟩, ⟨3, 0, .ro, 0⟩]⟩ -- R574
  | .TRC_LOST => ⟨.dbgtrc, 0x8028, 1, 8, [⟨63, 48, .ro, 0⟩, ⟨47, 32, .ro, 0⟩, ⟨31, 16, .ro, 0⟩, ⟨15, 0, .ro, 0⟩]⟩ -- R574
  | .TRC_CTL => ⟨.dbgtrc, 0x8030, 1, 8, [⟨1, 1, .wo, 0⟩, ⟨0, 0, .wo, 0⟩]⟩ -- R574
  | .TRC_TRIG => ⟨.dbgtrc, 0x8038, 1, 8, [⟨63, 63, .rw, 0⟩, ⟨62, 62, .rw, 0⟩, ⟨61, 61, .rw, 0⟩, ⟨60, 60, .rw, 0⟩, ⟨59, 58, .rw, 0⟩, ⟨31, 0, .rw, 0⟩]⟩ -- R574
  | .TRC_TRIGMARK => ⟨.dbgtrc, 0x8040, 1, 8, [⟨63, 32, .rw, 0⟩, ⟨31, 0, .rw, 0⟩]⟩ -- R574
  | .TRC_TRIGAT => ⟨.dbgtrc, 0x8048, 1, 8, [⟨63, 0, .rw, 0⟩]⟩ -- R574
  | .CNT_SEL => ⟨.bcnt, 0x0, 8, 8, [⟨63, 63, .rw, 0⟩, ⟨57, 48, .rw, 0⟩, ⟨7, 0, .rw, 0⟩]⟩ -- R575
  | .CNT_EV => ⟨.bcnt, 0x40, 8, 8, [⟨63, 0, .rw, 0⟩]⟩ -- R575
  | .CNT_SH => ⟨.bcnt, 0x80, 8, 8, [⟨63, 0, .ro, 0⟩]⟩ -- R575
  | .CNT_SHSTAT => ⟨.bcnt, 0xc0, 1, 8, [⟨63, 32, .ro, 0⟩, ⟨1, 1, .ro, 0⟩, ⟨0, 0, .ro, 0⟩]⟩ -- R575
  | .CNT_SNAPAT => ⟨.cnt, 0x0, 1, 8, [⟨63, 0, .rw, 0⟩]⟩ -- R576
  | .CNT_SNAPCTL => ⟨.cnt, 0x8, 1, 8, [⟨63, 63, .ro, 0⟩, ⟨62, 62, .wo, 0⟩, ⟨31, 0, .ro, 0⟩]⟩ -- R576
  | .CNT_SNAPST => ⟨.cnt, 0x10, 1, 8, [⟨63, 32, .ro, 0⟩, ⟨31, 0, .ro, 0⟩]⟩ -- R576
  | .CNT_AO => ⟨.cnt, 0x1000, 256, 8, [⟨63, 0, .ro, 0⟩]⟩ -- R576
  | .CNT_AOSH => ⟨.cnt, 0x2000, 256, 8, [⟨63, 0, .ro, 0⟩]⟩ -- R576
  | .DDR_STATUS => ⟨.ddr, 0x0, 1, 8, [⟨47, 40, .ro, 0⟩, ⟨39, 36, .ro, 0⟩, ⟨35, 32, .ro, 0⟩, ⟨2, 2, .ro, 0⟩, ⟨1, 1, .ro, 0⟩, ⟨0, 0, .ro, 0⟩]⟩ -- R600
  | .DDR_ECC => ⟨.ddr, 0x8, 1, 8, [⟨63, 32, .ro, 0⟩, ⟨31, 0, .ro, 0⟩]⟩ -- R600
  | .PCI_LINK => ⟨.pci, 0x0, 4, 8, [⟨11, 11, .w1c, 0⟩, ⟨10, 10, .ro, 0⟩, ⟨9, 9, .ro, 0⟩, ⟨8, 6, .ro, 0⟩, ⟨5, 1, .ro, 0⟩, ⟨0, 0, .ro, 0⟩]⟩ -- R607
  | .PCI_IDECTL => ⟨.pci, 0x100, 4, 8, [⟨8, 8, .rw, 0⟩, ⟨7, 0, .rw, 0⟩]⟩ -- R607
  | .PCI_IDEKEY => ⟨.pci, 0x400, 32, 8, [⟨63, 0, .wo, 0⟩]⟩ -- R607
  | .MGT_STATUS => ⟨.mgt, 0x0, 1, 8, [⟨16, 16, .ro, 0⟩, ⟨6, 0, .ro, 0⟩]⟩ -- R612

/-- The registers of each block, in the order of the tables. -/
def Blk.regs : Blk → List RegName
  | .hub => [.HUB_CAP0, .HUB_CAP1, .HUB_CAP2, .HUB_CAP3, .HUB_DIE_IDENT]
  | .die => [.DIE_IDENT, .DIE_BRIDGE, .DIE_BAYCAP]
  | .boot => [.BOOT_STATUS, .BOOT_ERR, .BOOT_TRAIN, .BOOT_BUILD, .BOOT_INFO, .BOOT_DIGEST, .BOOT_TIME]
  | .alm => [.ALM_COUNT, .ALM_STATUS, .ALM_CTL, .ALM_CFG, .ALM_START, .ALM_HOLD, .ALM_HOLD_LIMIT, .ALM_EVENTS, .ALM_TRIM, .ALM_PORT, .ALM_PASYM, .ALM_POFF]
  | .alml => [.ALM_LCOUNT, .ALM_LSTAT, .ALM_FCOUNT]
  | .seq => [.SEQ_STATUS, .SEQ_ERR, .SEQ_MARK, .SEQ_UNDERRUN, .SEQ_PC, .SEQ_ROTA_CTL, .SEQ_ROTA_START, .SEQ_ROTA_CUR, .SEQ_ROTA_A, .SEQ_ROTA_B, .SEQ_TOKCFG, .SEQ_TOKSEL, .SEQ_TOKVIEW, .SEQ_TOKSIG, .SEQ_TOKERR, .SEQ_TOKSTAT, .SEQ_SLIPMAX, .SEQ_RDVLAST0, .SEQ_RDVLAST1, .SEQ_SLIP, .SEQ_LAG, .SEQ_TB]
  | .yard => [.SEQ_DTOK_LATE]
  | .mxa => [.MXA_STATUS, .MXA_ERR, .MXA_REPAIR, .MXA_LASTFLAGS, .MXA_COUNT, .MXA_PASSES]
  | .vxe => [.VXE_STATUS, .VXE_ERR, .VXE_LASTFLAGS, .VXE_TFCUR, .VXE_TFSEL, .VXE_TFVIEW, .VXE_COUNT, .VXE_OPS]
  | .shf => [.SHF_STATUS, .SHF_FAULT, .SHF_FAULTPC, .SHF_FAULTADDR, .SHF_SPLITPACK, .SHF_CUT, .SHF_ISSUE, .SHF_SECTORS]
  | .sem => [.SEM_STATUS, .SEM_ERR, .SEM_ERRCNT, .SEM_XFER_ADDR, .SEM_XFER_CTL, .SEM_POOL]
  | .semarr => [.SEM_ARRAY]
  | .lft => [.LFT_SPLIT, .LFT_STATUS, .LFT_ERR, .LFT_CONF, .LFT_CCFG, .LFT_CCTL, .LFT_CHITS, .LFT_CMISS, .LFT_ECC]
  | .lftc => [.LFT_WINBASE, .LFT_DFWD]
  | .grn => [.GRN_STATUS, .GRN_MAP, .GRN_CFG, .GRN_ERR, .GRN_ERRCNT, .GRN_LATMAX, .GRN_BYTES, .GRN_SHR_A, .GRN_SHR_B]
  | .mov => [.MOV_STATUS, .MOV_ERR, .MOV_COUNT, .MOV_BYTES, .MOV_HUSK, .MOV_ERRDESC]
  | .movb => [.MOV_BSUB, .MOV_BSTAT, .MOV_BERR, .MOV_BFLAGS, .MOV_BCOUNT, .MOV_BERRDESC]
  | .etr => [.ETR_STATUS, .ETR_ERR, .ETR_ERRVA, .ETR_HITS, .ETR_MISSES, .ETR_FAULTS]
  | .etrw => [.ETR_INV_CTL, .ETR_INV_ADDR, .ETR_PFCFG, .ETR_PFRESP, .ETR_PFSTAT, .ETR_WALKS, .ETR_WALKMAX, .ETR_PFRING]
  | .cluster => [.CMX_STATUS, .CMX_ERR, .CMX_COUNT]
  | .home => [.COH_LLCWAY, .COH_LLCECC, .COH_LLCERR, .COH_HSTATUS, .COH_HCFG, .COH_HERR, .COH_DIRSTAT, .COH_DEPART0, .COH_DEPART1, .COH_AGED, .COH_CROSS, .COH_DIRECC]
  | .coha => [.COH_CA_STATUS, .COH_CA_COUNT]
  | .vk => [.VK_STATUS, .VK_CTL, .VK_CFG, .VK_PEER, .VK_PEERID, .VK_ERR, .VK_LANES, .VK_FEC, .VK_REPLAY, .VK_EXP, .VK_TRAIN]
  | .prt => [.PRT_STATUS, .PRT_ERR, .PRT_PART_A, .PRT_PART_B, .PRT_PART_C, .PRT_MID, .PRT_TEN_A, .PRT_TEN_B, .PRT_TEN_C, .PRT_GGRAN, .PRT_HGRAN]
  | .sec => [.SEC_STATUS, .SEC_UID, .SEC_REKEY, .SEC_DBG_NONCE, .SEC_DBG_CTL, .SEC_DBG_STATE, .SEC_DBG_EXPIRY, .SEC_KEYEPOCH, .SEC_DBG_TOKEN]
  | .door => [.RNG_DB_PROD, .RNG_DB_CONS, .RNG_DB_STATE, .RNG_DB_CIDX]
  | .rng => [.RNG_CFG, .RNG_BASE, .RNG_MSI, .RNG_CTL, .RNG_STATE, .RNG_CIDX, .RNG_STAT, .RNG_ERR]
  | .pwr => [.PWR_STATUS, .PWR_EVENTS, .PWR_PPL, .PWR_SURGE, .PWR_EST, .PWR_CFG, .PWR_GRP, .PWR_SHIFT, .PWR_RECON, .PWR_PCAP, .PWR_COEF, .PWR_TEMP, .PWR_STEMP, .PWR_POVH, .PWR_PKGOVH, .PWR_VTAB, .PWR_TEN]
  | .pwrl => [.PWR_LSTAT, .PWR_LCFG, .PWR_LREQ, .PWR_LGRANT, .PWR_LDROOP]
  | .flt => [.FLT_STATUS, .FLT_CFG, .FLT_RST, .FLT_PRST, .FLT_LOGCTL, .FLT_LOST, .FLT_BELL, .FLT_REPAIR, .FLT_SYSRING, .FLT_PRING, .FLT_LOG]
  | .fltd => [.FLT_DSTATUS, .FLT_DLINK]
  | .bflt => [.FLT_BLAST, .FLT_BCOUNT]
  | .bdbg => [.DBG_BSTAT, .DBG_BCTL, .DBG_TSEL, .DBG_VSEL, .DBG_TREG, .DBG_VWIN]
  | .dbgtrc => [.DBG_ACTL, .DBG_AADDR, .DBG_ADATA, .DBG_PHALT, .DBG_PAT, .DBG_PSTAT, .DBG_DMI, .DBG_LOCKST, .TRC_SEL, .TRC_BASE, .TRC_CFG, .TRC_WPTR, .TRC_STAT, .TRC_LOST, .TRC_CTL, .TRC_TRIG, .TRC_TRIGMARK, .TRC_TRIGAT]
  | .btrc => [.TRC_BCFG, .TRC_BSTAT, .TRC_BLOST]
  | .bcnt => [.CNT_SEL, .CNT_EV, .CNT_SH, .CNT_SHSTAT]
  | .cnt => [.CNT_SNAPAT, .CNT_SNAPCTL, .CNT_SNAPST, .CNT_AO, .CNT_AOSH]
  | .ddr => [.DDR_STATUS, .DDR_ECC]
  | .pci => [.PCI_LINK, .PCI_IDECTL, .PCI_IDEKEY]
  | .mgt => [.MGT_STATUS]

/-- The die window base of a die ID (R31). -/
def dieBase (die : Nat) : Nat := die * 0x200000

/-- The die ID of a compute ordinal (R25). -/
def compDieId (c : Nat) : Nat := if c < 3 then 4 + c else 0x14 + (c - 3)

/-- The die ID of a barn ordinal (R25). -/
def barnDieId (b : Nat) : Nat := if b < 2 then 2 + b else 0x12 + (b - 2)

/-- The die ID of a core die (R25). -/
def coreDieId (k : Nat) : Nat := if k = 0 then 1 else 0x11

/-- Where block `b` of unit `u` starts, as an offset in control space (R31, R33). The unit is the bay, sheaf engine
(`4 × bay + engine`), compute ordinal, barn ordinal, global stack, port, cluster, home (barn ordinals 0 to 3, core dies
4 and 5), channel, ring or die ID that the block belongs to; 0 for the hub's own blocks. -/
def Blk.base (b : Blk) (u : Nat) : Nat :=
  let bay (k : Nat) : Nat := dieBase (compDieId (k / 12)) + (k % 12) * 0x10000
  let comp := dieBase (compDieId u)
  match b with
  | .hub => 0 | .boot => 0x10000 | .alm => 0x20000 | .pwr => 0x30000 | .flt => 0x40000 | .prt => 0x50000
  | .rng => 0x80000 + u * 0x80
  | .dbgtrc => 0x100000 | .mgt => 0x110000 | .cnt => 0x120000 | .sec => 0x130000
  | .seq => bay u | .mxa => bay u + 0x1000 | .vxe => bay u + 0x2000
  | .shf => bay (u / 4) + 0x3000 + (u % 4) * 0x400
  | .sem => bay u + 0x4000 | .mov => bay u + 0x5000 | .lft => bay u + 0x6000 | .etr => bay u + 0x7000
  | .semarr => bay u + 0x8000 | .bcnt => bay u + 0xC000 | .btrc => bay u + 0xD000 | .bdbg => bay u + 0xE000
  | .bflt => bay u + 0xF000
  | .alml => comp + 0x101000 | .pwrl => comp + 0x102000 | .fltd => comp + 0x103000 | .yard => comp + 0x104000
  | .etrw => comp + 0x105000 | .lftc => comp + 0x106000 | .coha => comp + 0x107000
  | .grn => dieBase (barnDieId (u / 3)) + (u % 3) * 0x40000
  | .vk => dieBase (barnDieId (u / 6)) + 0x100000 + (u % 6) * 0x10000
  | .pci => dieBase (barnDieId u) + 0x180000
  | .home => if u < 4 then dieBase (barnDieId u) + 0x1A0000 else dieBase (coreDieId (u - 4)) + 0x100000
  | .movb => dieBase (barnDieId u) + 0x1C0000
  | .cluster => dieBase (coreDieId (u / 6)) + (u % 6) * 0x20000
  | .ddr => dieBase (coreDieId (u / 8)) + 0x140000 + (u % 8) * 0x1000
  | .die => dieBase u + (if (2 ≤ u % 16) ∧ (u % 16 ≤ 3) ∨ u % 16 = 1 then 0x1F0000 else 0x100000)
  | .door => 0x4000000 + u * 0x1000

/-- The 13 valid die IDs (R22, R23). -/
def validDie (d : Nat) : Bool := decide (d ≤ 6) || (decide (0x11 ≤ d) && decide (d ≤ 0x16))

/-- The compute ordinal of a compute die ID (R25). -/
def compOrd (d : Nat) : Nat := if d < 16 then d - 4 else d - 0x14 + 3

/-- The barn ordinal of a barn die ID (R25). -/
def barnOrd (d : Nat) : Nat := if d < 16 then d - 2 else d - 0x12 + 2

/-- The block, its unit and the offset inside it at a control-space offset, as R31 to R33 place them; none where no
block lies (an access there is an access error, R32). -/
def blkAt (a : Nat) : Option (Blk × Nat × Nat) :=
  if 0x4000000 ≤ a ∧ a < 0x5000000 then some (.door, (a - 0x4000000) / 0x1000, a % 0x1000)
  else if 0x4000000 ≤ a then none
  else
    let d := a / 0x200000
    let o := a % 0x200000
    if validDie d = false then none
    else if d = 0 then
      if o < 0x10000 then some (.hub, 0, o)
      else if o < 0x20000 then some (.boot, 0, o - 0x10000)
      else if o < 0x30000 then some (.alm, 0, o - 0x20000)
      else if o < 0x40000 then some (.pwr, 0, o - 0x30000)
      else if o < 0x50000 then some (.flt, 0, o - 0x40000)
      else if o < 0x80000 then some (.prt, 0, o - 0x50000)
      else if o < 0x100000 then some (.rng, (o - 0x80000) / 0x80, o % 0x80)
      else if o < 0x110000 then some (.dbgtrc, 0, o - 0x100000)
      else if o < 0x120000 then some (.mgt, 0, o - 0x110000)
      else if o < 0x130000 then some (.cnt, 0, o - 0x120000)
      else if o < 0x140000 then some (.sec, 0, o - 0x130000)
      else none
    else if d % 16 = 1 then
      let k := d / 16
      if o < 0xC0000 then some (.cluster, 6 * k + o / 0x20000, o % 0x20000)
      else if o < 0x100000 then none
      else if o < 0x140000 then some (.home, 4 + k, o - 0x100000)
      else if o < 0x148000 then some (.ddr, 8 * k + (o - 0x140000) / 0x1000, o % 0x1000)
      else if 0x1F0000 ≤ o then some (.die, d, o - 0x1F0000)
      else none
    else if d % 16 ≤ 3 then
      let b := barnOrd d
      if o < 0xC0000 then some (.grn, 3 * b + o / 0x40000, o % 0x40000)
      else if o < 0x100000 then none
      else if o < 0x160000 then some (.vk, 6 * b + (o - 0x100000) / 0x10000, o % 0x10000)
      else if o < 0x180000 then none
      else if o < 0x1A0000 then some (.pci, b, o - 0x180000)
      else if o < 0x1C0000 then some (.home, b, o - 0x1A0000)
      else if o < 0x1F0000 then some (.movb, b, o - 0x1C0000)
      else some (.die, d, o - 0x1F0000)
    else
      let c := compOrd d
      if o < 0xC0000 then
        let bay := 12 * c + o / 0x10000
        let p := o % 0x10000
        if p < 0x1000 then some (.seq, bay, p)
        else if p < 0x2000 then some (.mxa, bay, p - 0x1000)
        else if p < 0x3000 then some (.vxe, bay, p - 0x2000)
        else if p < 0x4000 then some (.shf, 4 * bay + (p - 0x3000) / 0x400, p % 0x400)
        else if p < 0x5000 then some (.sem, bay, p - 0x4000)
        else if p < 0x6000 then some (.mov, bay, p - 0x5000)
        else if p < 0x7000 then some (.lft, bay, p - 0x6000)
        else if p < 0x8000 then some (.etr, bay, p - 0x7000)
        else if p < 0xC000 then some (.semarr, bay, p - 0x8000)
        else if p < 0xD000 then some (.bcnt, bay, p - 0xC000)
        else if p < 0xE000 then some (.btrc, bay, p - 0xD000)
        else if p < 0xF000 then some (.bdbg, bay, p - 0xE000)
        else some (.bflt, bay, p - 0xF000)
      else if o < 0x100000 then none
      else if o < 0x101000 then some (.die, d, o - 0x100000)
      else if o < 0x102000 then some (.alml, c, o - 0x101000)
      else if o < 0x103000 then some (.pwrl, c, o - 0x102000)
      else if o < 0x104000 then some (.fltd, c, o - 0x103000)
      else if o < 0x105000 then some (.yard, c, o - 0x104000)
      else if o < 0x106000 then some (.etrw, c, o - 0x105000)
      else if o < 0x107000 then some (.lftc, c, o - 0x106000)
      else if o < 0x108000 then some (.coha, c, o - 0x107000)
      else none

/-- A register, the unit of its block and its index in the register's row. -/
structure RegRef where
  name : RegName
  unit : Nat
  idx : Nat
  deriving DecidableEq, Repr

/-- Whether the 8 bytes at block offset `o` are an instance of a register, and which. -/
def RegInfo.index (r : RegInfo) (o : Nat) : Option Nat :=
  if r.off ≤ o ∧ (o - r.off) % r.stride = 0 ∧ (o - r.off) / r.stride < r.count then some ((o - r.off) / r.stride)
  else none

/-- Which instance of a register lies where, with the exceptions of presence that the chapters state: the shared-region
entries stand only in the stack-0 block of a barn (R288), DIE_BAYCAPb only on compute dies (R34), and the last-level
cache registers only on core dies (R369). -/
def regPresent (n : RegName) (u : Nat) : Bool :=
  match n with
  | .GRN_SHR_A | .GRN_SHR_B => decide (u % 3 = 0)
  | .DIE_BAYCAP => decide (4 ≤ u % 16)
  | .COH_LLCWAY | .COH_LLCECC | .COH_LLCERR => decide (4 ≤ u)
  | _ => true

/-- The register at a block offset. None: the offset behaves as RSV (R32). -/
def regIn (b : Blk) (u o : Nat) : Option RegRef :=
  b.regs.findSome? (fun n =>
    match n.info.index o with
    | some i => if regPresent n u then some ⟨n, u, i⟩ else none
    | none => none)

/-- The control-space offset of a register (R31 to R33). -/
def RegRef.addr (r : RegRef) : Nat :=
  let i := r.name.info
  i.blk.base r.unit + i.off + r.idx * i.stride

/-- The bits of every field of one type. -/
def RegInfo.mask (r : RegInfo) (t : FieldTy) : Word :=
  r.fields.foldl (fun m f => if f.ty = t then m ||| maskOf 64 f.hi f.lo else m) 0

/-- The reset value that the tables give a register. Fields whose reset is "Fused", "Strap" or "Image" are 0 here:
fused and strapped fields are read from the fuses and straps, and image fields are loaded by CONFIG (R588). -/
def RegInfo.resetVal (r : RegInfo) : Word :=
  r.fields.foldl (fun m f => m ||| BitVec.ofNat 64 (f.reset * 2 ^ f.lo)) 0

/-- The reset value of the 8 bytes at a control-space offset. -/
def csrReset (a : Nat) : Word :=
  match blkAt a with
  | none => 0
  | some (b, u, o) =>
    match regIn b u o with
    | none => 0
    | some r => r.name.info.resetVal

end Sys2Proof.Machine
end

