-- ==== Sys2Proof/Machine/State.lean ====
section
/-! DEFINITION. The state of the package as plain data: everything the chapters give the machine, the commands that wait,
the reasons a step stops, and the state after reset. -/

namespace Sys2Proof.Machine

/-- Why a step stops with a fault. -/
inductive Fault where
  /-- Raised by the step when a waiting command is not well formed (an operand outside the range its type of request
  has, such as a flit that is not 640 bytes long). Safe: the machine stops where the spec describes no request. -/
  | illFormed
  deriving DecidableEq, Repr

/-- Why a step is refused. -/
inductive Refusal where
  /-- No meaning yet for the command of this mnemonic. Safe. -/
  | notModelled (mnemonic : String)
  deriving DecidableEq, Repr

/-! ### Fuses, pins and boot -/

/-- What is fused or strapped at test (R2 to R6, R34, R584, R474). -/
structure Fuses where
  /-- 1: HD25-E. -/
  variantE : Bool
  stepLetter : Nat
  metal : Nat
  /-- On an HD25-E, the two absent bays-within-die of each compute ordinal, low and high; 0xF none. -/
  absent : List (Nat × Nat)
  uid : Word
  designRev : Nat
  /-- Repaired links of each die, bit per link (DIE_BRIDGE.REPAIRED). -/
  repaired : SMap Nat
  /-- SHA-384 digests of the four key slots, as numbers. -/
  keyDigest : List Nat
  revoked : Nat
  secver : Nat
  /-- Fused coefficients in fJ per event, k = 0 to 15 (PWR_COEFk.FUSED). -/
  coef : List Nat
  /-- Fused voltage table, gears 4 to 16: GF, ARRAY_MV, LOGIC_MV (PWR_VTABg). -/
  vtab : List (Nat × Nat × Nat)
  /-- Fused ramp steps: STEP_LOGIC, STEP_ARRAY (PWR_CFG). -/
  rampStep : Nat × Nat
  /-- Fused static energy per frame, in fJ: of a bay by gear, of a cluster by P-state, and of the rest (R519); relative
  factors of the P-states, CF (R508). -/
  statBay : List Nat
  statCl : List Nat
  statPkg : Nat
  cf : List Nat
  /-- Fused row and column repair of each bay's matrix array (MXA_REPAIR). -/
  mxaRepair : SMap Word
  deriving DecidableEq, Repr

/-- Levels of the pins that commands drive or that the package drives (R22, R514, R523, R578, R608). -/
structure Pins where
  pwrok : Bool
  /-- PKG_RESET_N is high. -/
  resetN : Bool
  /-- PWR_ALERT_N is high. -/
  alertN : Bool
  /-- THERMTRIP_N is high (driven low by a trip, R523). -/
  thermtripN : Bool
  /-- The hub drives the xSPI lands (R580). -/
  xspiDriven : Bool
  deriving DecidableEq, Repr

/-- Bring-up's own state beside the BOOT registers (R577 to R592). -/
structure Boot where
  /-- What the dies reported (R23). -/
  straps : List StrapReport
  strapsOk : Bool
  /-- Every die-to-die link has trained. -/
  linksUp : Bool
  /-- Die IDs whose links did not train. -/
  linksDown : List Nat
  /-- The slot being read: 0 or 1. -/
  slot : Nat
  /-- Bytes of the slot as read, empty before IMAGE. -/
  buf : List Byte
  /-- A response of the flash arrived. -/
  read : Bool
  /-- The copy of the accepted image that the hub keeps (R588). -/
  image : List Byte
  accepted : Bool
  /-- Registers loading has begun, so that no failure falls back to the other slot (R581). -/
  loading : Bool
  /-- A slot has failed and the other is to be read (R581). -/
  fallback : Bool
  /-- Tick of the rise of PKG_PWROK (BOOT_TIMEp). -/
  t0 : Nat
  /-- Tick at which the phase in progress began (R579, R581). -/
  phaseAt : Nat
  /-- AUTH has accepted the slot that was read (R583). -/
  authed : Bool
  /-- The flash is read at 8D-8D-8D (R608). -/
  octal : Bool
  /-- The 17 keys of R472: partitions 0 to 15 and the package key; the default 0 is no key. -/
  keys : SMap (BitVec 256)
  keyDraws : Nat
  deriving DecidableEq, Repr

/-! ### The almanac -/

/-- What a port holds of almanac carriage (R45 to R52, R431, R433). -/
structure AlmPort where
  /-- The last beacon of this hall, and the tick it arrived. -/
  beacon : Option (Beacon × Nat)
  /-- Exchanges of the round in progress: delay and offset, in 1/16 ACYC. -/
  exch : List (Int × Int)
  /-- T1 of an exchange request that has no reply yet, in 1/16 ACYC, and its XSEQ. -/
  sent : Option (Nat × Nat)
  xseq : Nat
  /-- Frame number of the last beacon launched on the port. -/
  lastBeacon : Option Nat
  deriving DecidableEq, Repr

/-- The almanac of the hub beside the ALM registers. -/
structure Alm where
  /-- The count runs (R36). -/
  running : Bool
  /-- The count in ticks is `now + base`. -/
  base : Int
  /-- Tick at which the count first ran (R568). -/
  since : Nat
  /-- Step of R53 in progress, 1 to 4; 0 none. -/
  step : Nat
  /-- The port acquisition runs with. -/
  acqPort : Nat
  /-- The measured offset that a slew or a step takes up, in 1/16 ACYC. -/
  offset : Int
  /-- Frames confirmed within bounds in step 4 or in a slew. -/
  confirm : Nat
  /-- A slew of R58 or R60 is in progress. -/
  slewing : Bool
  /-- A step is armed (R59). -/
  stepArmed : Bool
  /-- Tick at which holdover was entered. -/
  holdFrom : Nat
  /-- The grandmaster has locked to ALM_REFCLK since its last loss. -/
  refLocked : Bool
  /-- The grandmaster listens before its own start (R44): tick at which it began. -/
  listenFrom : Option Nat
  /-- The grandmaster adopted a neighbour's count (R44). -/
  adopted : Bool
  /-- The root has been taken since the last start of acquisition (R47). -/
  rootTaken : Bool
  /-- Relocking after REACQUIRE of a grandmaster (R60). -/
  relock : Bool
  ports : Vector AlmPort 24
  deriving DecidableEq, Repr

/-- The furrow clock of a compute die (R62, R65, R512): edge `edges0` falls at `epoch`; the next `supp` edges of the PLL are
suppressed, and the edges after them follow at the period. -/
structure DieClk where
  epoch : Nat
  edges0 : Nat
  gear : Nat
  /-- Division factor of emergency division; 0 none. -/
  div : Nat
  /-- Edges suppressed by droop from the epoch on, and those of them that have been counted. -/
  supp : Nat
  dropped : Nat
  /-- The edge number at the last frame boundary. -/
  frame0 : Nat
  /-- Edges suppressed in the current frame (R127, R513). -/
  frameSupp : Nat
  /-- The die is tripped by its droop detector. -/
  droop : Bool
  /-- The die has stopped every clock (R523). -/
  stopped : Bool
  /-- A die reset has lost the die's copy of the almanac count, until it is reloaded (R61). -/
  copyLost : Bool
  deriving DecidableEq, Repr

/-! ### Token channels and slot streams -/

/-- The payload of a rendezvous release (R123, R448). -/
structure RdvPay where
  group : Nat
  slack : Int
  hold : Bool
  crit : Nat
  deriving DecidableEq, Repr

/-- A rendezvous pending on a channel (R122 to R124). -/
structure RdvPend where
  stream : Nat
  root : Bool
  rebase : Bool
  limited : Bool
  nchild : Nat
  alt : Nat
  /-- T_REL as a full count. -/
  trel : Nat
  /-- TB + LIMIT as a full count. -/
  limitAt : Nat
  up : Nat
  dnb : Nat
  group : Nat
  loc : Nat
  children : List Nat
  /-- Tick of the last FCLK of the span. -/
  atL : Nat
  /-- Addresses of the record that R122 refuses: nothing is sent to them. -/
  refused : List Nat
  combined : Bool
  /-- Tick of the combine FCLK. -/
  combineAt : Nat
  /-- The stream has stopped or taken ALT; only steps 1 to 4 of R123 remain. -/
  abandoned : Bool
  deriving DecidableEq, Repr

/-- A token channel (R102). The decision latch holds the stamp and TAKEN. -/
structure Chan where
  count : Nat
  debt : Nat
  poison : Bool
  arr : Nat
  arrGroup : Nat
  arrHold : Bool
  arrCrit : Nat
  /-- Tick of the delivery that counts as last. -/
  arrAt : Nat
  rel : Option (RdvPay × Nat)
  latch : Option (Nat × Bool)
  pend : Option RdvPend
  /-- Tick of the last delivery that raised COUNT, and tick at which DEBT last became 0. -/
  upAt : Nat
  clearAt : Nat
  deriving DecidableEq, Repr

/-- What holds a stream past its span. -/
inductive StreamHold where
  | none | wait | dbr | settle | rdv | swait | fetch
  deriving DecidableEq, Repr

/-- A slot stream (R70 to R75, R111, R117). Edges are FCLK edge indices of the bay's die. -/
structure Stream where
  run : Bool
  /-- The word in issue, its index, the edge it issued at and the last edge of its span. -/
  word : Slot
  idx : Nat
  issued : Nat
  last : Nat
  /-- Index and edge of the next word. -/
  next : Nat
  nextAt : Nat
  hold : StreamHold
  /-- A word is in issue whose operation has not been carried out yet. -/
  fresh : Bool
  /-- Last edge of an operation that may outlast its span (R74). -/
  busy : Nat
  /-- The four loop counters, 0 inactive (R117). -/
  loops : List Nat
  /-- The time base TB (R111). -/
  tb : Nat
  /-- Edge at which a stall began. -/
  stallFrom : Nat
  deriving DecidableEq, Repr

/-- SEQ_STATUS.STATE (R101) but for HALTED, which the debug state of the bay gives. -/
inductive SeqSt where
  | idle | run | fallow | parked | clear | stopped | settle
  deriving DecidableEq, Repr

/-- How a bay parked (R96). -/
inductive Park where
  | none | byEnd | byYield
  deriving DecidableEq, Repr

/-- An open flex window (R85 to R88). -/
structure FlexWin where
  eng : Nat
  bankgrp : Nat
  mxaLend : Bool
  doneCh : Nat
  /-- First and last edge of the window. -/
  first : Nat
  last : Nat
  isOpen : Bool
  /-- The launch wound up with poison (R242). -/
  pois : Bool
  /-- The token of DONE_CH has been sent. -/
  signalled : Bool
  deriving DecidableEq, Repr

/-- The sequencer of a bay beside its registers. -/
structure Seq where
  st : SeqSt
  /-- The current slice tenant (R637). -/
  tid : Option Nat
  entry : Option Nat
  /-- The slice's starting frame boundary B as a count, and the edge of it. -/
  bnd : Nat
  bndEdge : Nat
  /-- Frames made fallow by power control since B. -/
  fallowed : Nat
  section_ : Nat
  storeBase : Nat
  workBase : Nat
  workSize : Nat
  /-- The tenant of this slice is SUSPENDED (starts at IN_IDX). -/
  resume : Bool
  yielded : Bool
  park : Park
  /-- A furrow error has stopped a stream in this slice. -/
  erred : Bool
  clearEnd : Nat
  /-- The refusal or ready answer of R92: none before validation. -/
  ready : Option Nat
  win : Option FlexWin
  /-- Edge at which settlement after preemption or debt began. -/
  settleFrom : Nat
  /-- The bay was preempted: its settlement waits for its moves too (R97). -/
  preempted : Bool
  /-- The entry that begins, and whether it is a live slice, once this bay has settled (R97, R130). -/
  take : Option (Nat × Bool)
  deriving DecidableEq, Repr

/-- The rota of a partition beside the registers of its lead bay (R89 to R99). -/
structure Rota where
  enabled : Bool
  /-- A slice is in progress. -/
  inSlice : Bool
  fallow : Bool
  cur : Nat
  /-- First frame of the current slice's run and the frame at which the slice ends. -/
  startFrame : Nat
  endFrame : Nat
  /-- Frame at which the current entry ends. -/
  entryEnd : Nat
  /-- Announced entry and what the bays were told; none before an announcement. -/
  ann : Option Nat
  annCont : Bool
  annGo : Bool
  annRefused : Bool
  stopReq : Bool
  abortReq : Bool
  deriving DecidableEq, Repr

/-- A token in flight to a bay of this package. `tid` is the sender's tenant; none for tokens that carry none. -/
structure TokFlight where
  bay : Nat
  ch : Nat
  n : Nat
  poison : Bool
  /-- The tick at which it is due; delivery is the first FCLK edge of the die at or after it. -/
  due : Nat
  tid : Option Nat
  /-- The Vrelrek port of its ingress. -/
  port : Option Nat
  /-- It crossed a die boundary (R110). -/
  cross : Bool
  deriving DecidableEq, Repr

/-- A rendezvous message in flight to a bay of this package (R123). -/
structure RdvFlight where
  rel : Bool
  bay : Nat
  ch : Nat
  pay : RdvPay
  due : Nat
  /-- The sender's tenant, for a message of this package. -/
  tid : Option Nat
  port : Option Nat
  deriving DecidableEq, Repr

/-! ### Faults, trace, counters and debug -/

/-- A fault record (R536) before the hub's SEQ and LOSTCNT. -/
structure FltRec where
  stamp : Nat
  count : Nat
  addr : Nat
  cls : Nat
  sub : Nat
  blk : Nat
  unit : Nat
  die : Nat
  mid : Nat
  tid : Nat
  pid : Nat
  sev : Nat
  storm : Bool
  pois : Bool
  pidv : Bool
  region : Nat
  deriving DecidableEq, Repr

/-- A key of a collector: its first record and the records it has suppressed (R539). -/
structure FltKey where
  first : FltRec
  count : Nat
  deriving DecidableEq, Repr

/-- A repair request of the hub (R532). -/
structure Repair where
  /-- Line as a local physical address, its offset in its entry, the entry. -/
  line : Nat
  gold : Nat
  gkind : Nat
  retries : Nat
  /-- The golden read is outstanding. -/
  reading : Bool
  /-- The write has been made and the read-back is outstanding. -/
  written : Bool
  /-- Tick of the next retry. -/
  retryAt : Option Nat
  /-- The answer of a golden source in another package: its line, or none where the read failed or was poisoned. -/
  answer : Option (Option Line)
  deriving DecidableEq, Repr

/-- Fault collection beside the FLT registers. -/
structure Flt where
  /-- Records raised and not yet passed to a collector. -/
  wire : List FltRec
  /-- Keys of the die collectors, by die ID. -/
  dieKeys : SMap (List FltKey)
  hubKeys : List FltKey
  seqNo : Nat
  lostSince : Nat
  repairs : List Repair
  /-- Lines whose read-back failed: not repaired again until package reset (R533). -/
  dead : List Nat
  /-- Consecutive pings missed, by die ID (R547). -/
  missed : SMap Nat
  /-- Partition reset in progress (R543): partition and the tick at which it was asserted. -/
  prst : Option (Nat × Nat)
  /-- First frame of the coalescing window that the keys belong to (R539). -/
  winFrom : Nat
  deriving DecidableEq, Repr

/-- A trace record (R562). -/
structure TrcRec where
  stamp : Nat
  kind : Nat
  cls : Nat
  bay : Nat
  sub : Nat
  tid : Nat
  data : Nat
  deriving DecidableEq, Repr

/-- The trace buffer of a bay (R564). -/
structure TrcBay where
  buf : List TrcRec
  /-- Records lost since the last LOST record, by class. -/
  lost : List Nat
  deriving DecidableEq, Repr

/-- The trace sink of a partition: the registers that TRC_SEL shows, and the stop point (R565 to R567, R574). -/
structure Sink where
  base : Word
  cfg : Word
  wptr : Nat
  stat : Word
  lost : Word
  trig : Word
  trigMark : Word
  trigAt : Word
  /-- Index of the record after which the sink stops. -/
  stopAt : Option Nat
  /-- A trigger condition that has fired and whose TRIGGER record is to be written: source, STAMP, BAY (R567). -/
  fire : Option (Nat × Nat × Nat)
  deriving DecidableEq, Repr

/-- Debug state of a bay beside DBG registers (R554 to R559). -/
structure DbgBay where
  halted : Bool
  /-- Edges of the last halt and of the last resume. -/
  haltEdge : Nat
  resEdge : Nat
  /-- A halt deferred by a locked sequence: edge at which it is forced. -/
  defer : Option Nat
  /-- The almanac count of the last PC sample plus 1, and by engine the sheaf last sampled plus 1 (R561). -/
  smpAt : Nat
  smpRr : List Nat
  deriving DecidableEq, Repr

/-- Debug state of the hub: armed halts and resumes by partition, with their count and whether it had passed (R556), and the
frame at which the first bay of a partition halted. -/
structure DbgHub where
  armHalt : SMap (Option (Nat × Bool))
  armRes : SMap (Option (Nat × Bool))
  haltFrom : SMap (Option Nat)
  /-- The TAP's instruction register (R613). -/
  jtagIr : Nat
  /-- What the TAP's data register captures at its next scan. -/
  jtagDr : Word
  /-- Cores whose deferred halt waits for a locked sequence (R554), with the tick at which it is forced. -/
  coreDefer : SMap (Option Nat)
  /-- Almanac count of the next snapshot (R570); none when no snapshot is armed. -/
  snapAt : Option Nat
  /-- Bays (0 to 71) and dies (72 + die ID) that have still to copy. -/
  snapLeft : List Nat
  deriving DecidableEq, Repr

/-- Base of the lazily counted events of a bay's counters: the edge index up to which FCLK events are counted (R569). -/
structure CntBay where
  edge : Nat
  /-- Edges from there on that advanced no slot. -/
  skip : Nat
  deriving DecidableEq, Repr

/-! ### Vrelrek -/

/-- The route record (R438); every barn die holds the same copy. Entry `n` is the 16-bit word of node `n`. -/
structure Route where
  nodeId : Nat
  remoteTmo : Nat
  spillMib : Nat
  spillBase : Nat
  entries : SMap Nat
  deriving DecidableEq, Repr

/-- An express entry: a token, or with `mtype` nonzero a 16 B message (R427, R447). STAMP is in 1/16 ACYC. -/
structure Express where
  mtype : Nat
  pois : Bool
  n : Nat
  stamp : Nat
  dest : Nat
  xf : Nat
  body : Nat
  deriving DecidableEq, Repr

/-- An almanac packet waiting for a DATA flit (R431, R433): a beacon, an exchange request or a reply. -/
inductive AlmPkt where
  | beacon (b : Beacon)
  | request (xseq : Nat) (t1 : Nat)
  | reply (xseq : Nat) (t1 : Nat) (t2 : Nat) (t3 : Nat)
  deriving DecidableEq, Repr

/-- A body packet (R442): its header fields, and the slots after the header. -/
structure Pkt where
  vc : Nat
  ptype : Nat
  hops : Nat
  dnode : Nat
  snode : Nat
  mid : Nat
  sid : Nat
  tag : Nat
  mod_ : Nat
  addr : Nat
  data : List (BitVec 128)
  deriving DecidableEq, Repr

/-- A packet waiting to launch: the port it came in by, none for one of this package; the time S_k of a scheduled packet in
1/16 ACYC (R452); the tick since which it waits. -/
structure TxPkt where
  pkt : Pkt
  from_ : Option Nat
  due : Option Nat
  since : Nat
  deriving DecidableEq, Repr

/-- A DATA flit in the replay buffer (R425): its sequence number, its express entries, the body slots and FIRST. -/
structure TxFlit where
  seq : Nat
  exps : List Express
  body : List (BitVec 128)
  first : Nat
  /-- Almanac packets of the body, by their first slot: their launch times are filled at each launch. -/
  alms : List (Nat × AlmPkt)
  deriving DecidableEq, Repr

/-- Who hears the answer of a remote request: a source read of a move (unit, move, address in the space of R292, bytes), a
write of a move, a golden read of the hub (R532), an ATOM item of a ring (R490), a management access (R450). -/
inductive VkOwner where
  | moveRead (unit id key len : Nat)
  | moveWrite (unit id : Nat)
  | golden
  | atomItem (ring tag : Nat)
  | mgmt
  deriving DecidableEq, Repr

/-- A request of this package that waits for its response, or whose tag is held back after a timeout (R455). -/
structure VkReq where
  mid : Nat
  tag : Nat
  node : Nat
  owner : VkOwner
  sentAt : Nat
  held : Bool
  deriving DecidableEq, Repr

/-- A port beside its VK registers (R415 to R433). Lists by virtual channel run from VC 0. -/
structure Port where
  /-- Express entries queued, oldest first. -/
  expq : List Express
  /-- Almanac packets due, oldest first. -/
  almq : List AlmPkt
  /-- Packets that wait to launch, and the spill queue of the port (R441). -/
  txq : List TxPkt
  spill : List TxPkt
  /-- Slots of a packet that the last DATA body broke off. -/
  rest : List (BitVec 128)
  txSeq : Nat
  replay : List TxFlit
  /-- Sequence number at which a replay goes on, and whether its first flit is still to go. -/
  resend : Option Nat
  rpl : Bool
  rxSeq : Nat
  nak : Bool
  awaitRpl : Bool
  /-- Running totals: credit granted by the peer, slots sent, slots freed here, and slots held here. -/
  granted : List Nat
  used : List Nat
  freed : List Nat
  held : List Nat
  rot : Nat
  /-- Slots of a packet that goes on in the next DATA body. -/
  part : List (BitVec 128)
  /-- Packets and express entries received and not yet taken. -/
  rxq : List Pkt
  rxexp : List Express
  /-- Express entries held until their STAMP, in 1/16 ACYC. -/
  expHeld : List (Express × Nat)
  /-- The state of R415 that training is in, 1 to 5, 0 when not training, and the tick it was entered; the tick at which
  RETRAIN was entered; the tick of the last ACK advance. -/
  sub : Nat
  stateAt : Nat
  retrainAt : Nat
  ackAt : Nat
  /-- A cause to retrain (R426) and a NAK (R425) that have been received and not yet acted on. -/
  trig : Bool
  nakRx : Bool
  /-- Credit totals of the peer as last reported, by virtual channel. -/
  seen : List Nat
  /-- The next flit period, in fifths of a tick, and the flit last launched. -/
  nextTx : Nat
  tx : List Byte
  /-- Logical lanes usable by this end (R417, R418). -/
  usable : Nat
  /-- The peer before a retrain: hall, node and port (R426). -/
  peer : Option (Nat × Nat × Nat)
  /-- Frames in which the port entered RETRAIN. -/
  retrains : List Nat
  /-- Uncorrectable codewords of a frame. -/
  ucw : Nat × Nat
  deriving DecidableEq, Repr
/-! ### Power -/

/-- A gear request that a bay has posted (R118, R500, R502). -/
structure GearReq where
  bay : Nat
  gear : Nat
  /-- The frame boundary it names, as a frame number. -/
  bnd : Nat
  /-- Almanac count at which it was posted. -/
  posted : Nat
  gch : Option Nat
  decided : Bool
  deriving DecidableEq, Repr

/-- What a proceeding rendezvous reports (R517). -/
structure RdvReport where
  frame : Nat
  slack : Int
  crit : Nat
  wait : Nat
  deriving DecidableEq, Repr

/-- Quanta shifted by a PSHIFT (R518): received, or donated, from a frame until another. -/
structure Lease where
  recv : Bool
  quanta : Nat
  start : Nat
  stop : Nat
  deriving DecidableEq, Repr

/-- The power controller beside its registers. Energies are in units of 1/4,096 fJ (R519). -/
structure Pwr where
  gearReqs : List GearReq
  reports : List RdvReport
  /-- PSHIFT messages that have reached the hub: power group, quanta, frame (R449). -/
  shiftIn : List (Nat × Nat × Nat)
  leases : List Lease
  /-- Frame of the last PSHIFT sent. -/
  lastShift : Option Nat
  /-- The controller has started (R525). -/
  started : Bool
  /-- Events of the current frame, by place × 2^20 + owner × 16 + class: places 0 to 5 compute dies, 6 to 17 clusters, 18
  elsewhere; owners 0 to 1,023 tenants, 1,024 + p the overhead of partition p, 2,048 the package. -/
  events : SMap Nat
  /-- Dynamic energy of each compute die and its gear in its last non-fallow frame; of each cluster in the last frame. -/
  dynDie : List (Nat × Nat)
  dynCl : List Nat
  /-- P_est of the last frame, and LEVEL, as energies times 4,096 more where RATIO enters. -/
  est : Nat
  level : Nat
  /-- Energy by owner, and the model energy of the period by partition, 16 for the package's own. -/
  energy : SMap Int
  period : SMap Nat
  /-- Frame from which the period counts. -/
  periodFrom : Nat
  /-- Thermal caps of the clusters (R522), and whether a hot die stands at gear 4. -/
  tpc : List Nat
  hot : Bool
  /-- The fallow count for the next group (R509), and the caps of the clusters for the next frame (R508). -/
  fNext : Nat
  kNext : List Nat
  /-- The last fallow frame whose effects have been applied (R510). -/
  fallowAt : Option Nat
  /-- Commanded voltages of the compute dies, LOGIC and ARRAY in mV (R498). -/
  volt : List (Nat × Nat)
  /-- Dies in emergency division, by compute ordinal: tick from which their frames count (R513, R515). -/
  emerg : SMap (Option Nat)
  /-- Frames at which the surge bucket was last updated, gears last selected, requests last decided, gears last changed. -/
  surgeAt : Option Nat
  selAt : Option Nat
  decAt : Option Nat
  chgAt : Option Nat
  deriving DecidableEq, Repr

/-! ### Main memory and coherence -/

/-- What the image fixes and no register holds (R586, R590, R597, R605, R612, R478). -/
structure ImgCfg where
  cspBase : Nat
  grnBase : Nat
  hostBase : Nat
  winBase : Nat
  imsicM : Nat
  imsicS : Nat
  /-- Words 0 and 1 of the DDR record. -/
  ddr : Word
  ddrScrub : Word
  /-- The 20 words of the PCIE record; empty without the record. -/
  pcie : List Word
  /-- Word 0 of the MGT record. -/
  mgt : Word
  /-- The 18 words of the CORES record. -/
  cores : List Word
  /-- SHA-384 of the debug public key; none without a DEBUG record. -/
  dbgKey : Option (List Byte)
  dbgPkg : Bool
  deriving DecidableEq, Repr

/-- A line of a cache that takes part in coherence (R375). `st`: 1 Shared, 2 Exclusive, 3 Modified. -/
structure HLine where
  st : Nat
  data : Line
  pois : Bool
  /-- Tick at which the hold window of the last grant ends (R380). -/
  wonUntil : Nat
  /-- The line stands in the write-back buffer, and its home has acknowledged the write-back (R381). -/
  wb : Bool
  acked : Bool
  /-- Last-level cache copy: the cores of its local sharer mask, by core within the die (R374). -/
  mask : Nat
  /-- Kept by a cache that has left coherence: its home does not know of it (R351, R353). -/
  orphan : Bool
  deriving DecidableEq, Repr

/-- Kinds of request at a home (R376). -/
inductive HomeKind where
  | readAlloc | readOwn | ncRead | ncFull | ncPart
  deriving DecidableEq, Repr

/-- A request at a home. `who` is a cache key (`holdKey`) for an allocating request and a master ID otherwise. -/
structure HomeReq where
  kind : HomeKind
  who : Nat
  data : Line
  /-- Byte mask of a partial write. -/
  mask : Nat
  pois : Bool
  aged : Bool
  deriving DecidableEq, Repr

/-- How a snooped agent answers (R376, R381). -/
inductive SnoopAns where
  | miss
  | shared
  | data (line : Line) (pois : Bool) (modified : Bool) (crossed : Bool)
  deriving DecidableEq, Repr

/-- The transaction in progress on a line (R377). -/
structure HomeTxn where
  req : HomeReq
  /-- Positions whose snoop is on its way, and whether the snoop invalidates. -/
  snoops : List Nat
  /-- Positions whose snoop has arrived and waits for a hold window to end (R380). -/
  delayed : List Nat
  inval : Bool
  /-- Answers on their way to the home. -/
  resps : List (Nat × SnoopAns)
  line : Line
  pois : Bool
  wasM : Bool
  /-- `line` holds the data that an owner or memory has supplied and no cache holds yet. -/
  got : Bool
  /-- State granted, once served: 1 Shared, 2 Exclusive, 3 Modified. -/
  grant : Nat
  /-- 0 waiting for snoops, 1 served, 2 the completion acknowledgement is on its way. -/
  stage : Nat
  sentAt : Nat
  deriving DecidableEq, Repr

/-- A directory entry (R371, R372). BUSY is `txn` present. -/
structure DirEnt where
  owned : Bool
  pres : Nat
  txn : Option HomeTxn
  queue : List HomeReq
  /-- A write-back that the home holds because a snoop crossed it (R381). -/
  wbHeld : Option Nat
  way : Nat
  deriving DecidableEq, Repr

/-- Requests refused with RETRY that their requester will resend: line, request, times refused (R378, R379). -/
structure HomeRetry where
  line : Nat
  req : HomeReq
  count : Nat
  deriving DecidableEq, Repr
/-! ### The matrix array (R161) -/

/-- A stationary bank: the `size` bytes of an image as loaded, with the poison of its granules. Bytes past them are free
values counted from `undef`, as is every byte after a window with MXA_LEND = 1 (R185); after the clear all are zero. -/
structure StatBank where
  bytes : SMap Byte
  pois : SMap Bool
  size : Nat
  undef : Option Nat
  deriving DecidableEq, Repr

/-- A drain in progress (R174). -/
structure Drain where
  bank : Nat
  rec_ : Line
  daddr : Nat
  rows : Nat
  tile : Nat
  sig : Bool
  /-- First FCLK of the drain and the FCLK of its token. -/
  start : Nat
  fin : Nat
  /-- Thread-issued: the semaphore that its completion adds to (R184); `some none` asks for none. -/
  flex : Option (Option Nat)
  deriving DecidableEq, Repr

/-- A thread-issued matrix request (R183). -/
structure MxaReq where
  prof : Nat
  word : Slot
  sem : Nat
  deriving DecidableEq, Repr

structure Mxa where
  banks : List StatBank
  /-- Active stationary bank. -/
  active : Nat
  /-- Accumulator entries at bank × 65,536 + 256 r + c, and their poison. -/
  acc : SMap (BitVec 128)
  accPois : SMap Bool
  /-- A bank not started since a window with MXA_LEND = 1 holds free values counted from here (R185). -/
  accUndef : List (Option Nat)
  /-- Flags raised by terms since each bank was last started. -/
  accFlags : List Nat
  profs : List (Option Line)
  drains : List Drain
  flexq : List MxaReq
  /-- FCLK at which the running thread-issued request is complete. -/
  flexEnd : Nat
  /-- Last FCLK of streaming, of the load in progress, and of the last term into each bank. -/
  streamEnd : Nat
  loadEnd : Nat
  termEnd : List Nat
  deriving DecidableEq, Repr

/-! ### The vector engine (R187) -/

/-- A pointer register (R197). -/
structure VPtr where
  base : Nat
  stride : Int
  wrap : Nat
  cursor : Int
  deriving DecidableEq, Repr

/-- One effect of a result write. -/
inductive VEff where
  /-- The bits of `m` of lane `l` of Vr. -/
  | lane (r l : Nat) (v m : BitVec 32) (p : Bool)
  | mask (r : Nat) (v m : BitVec 128) (p : Bool)
  | scalar (i : Nat) (v : BitVec 32) (p : Bool)
  | token (i : Nat) (v : BitVec 32)
  | ptr (i : Nat) (p : VPtr)
  | acSet (a l : Nat) (c : BitVec 128) (p : Bool)
  | acAdd (a l : Nat) (c : BitVec 128) (p : Bool)
  | loft (off : Nat) (bytes : List Byte) (mask : Nat) (pois : Nat)
  | flags (l f : Nat)
  | clearFlags (l : Nat)
  deriving DecidableEq, Repr

/-- The result write of an iteration (R195, R196): the last write of a word may send its token. -/
structure VWrite where
  edge : Nat
  word : Nat
  effs : List VEff
  fin : Bool
  sig : Option Nat
  pois : Bool
  deriving DecidableEq, Repr

structure Vxe where
  v : SMap (BitVec 32)
  vp : SMap Bool
  m : SMap (BitVec 128)
  mp : SMap Bool
  s : SMap (BitVec 32)
  sp : SMap Bool
  ptr : SMap VPtr
  tok : SMap (BitVec 32)
  ac : SMap (BitVec 128)
  acp : SMap Bool
  lf : SMap Nat
  /-- Result writes in flight, in order of issue. -/
  flight : List VWrite
  words : Nat
  /-- The word whose flags VXE_LASTFLAGS collects (R209). -/
  lastWord : Nat
  deriving DecidableEq, Repr

/-! ### The semaphore block (R247) -/

/-- Who issued an operation on a semaphore, in the order of R252. -/
inductive SemSrc where
  | stream | mxa | mover | sheaf (order : Nat) | csp
  deriving DecidableEq, Repr

inductive SemKind where
  | add | sub | set
  deriving DecidableEq, Repr

/-- An operation on its way to the block. `edge` is the FCLK it is performed at; `phys` a physical index. -/
structure SemOp where
  edge : Nat
  src : SemSrc
  kind : SemKind
  phys : Nat
  n : Nat
  deriving DecidableEq, Repr

/-- A completion addition of a mover or of a thread-issued matrix request (R638): tenant, logical index, FCLK. -/
structure SemDone where
  mover : Bool
  tid : Nat
  idx : Nat
  edge : Nat
  deriving DecidableEq, Repr

/-- The pending SWAIT of the SEM stream (R255). -/
structure SWait where
  phys : Nat
  n : Nat
  cons : Bool
  /-- First FCLK at which it is evaluated, and the FCLK at which its condition has held. -/
  from_ : Nat
  got : Option Nat
  deriving DecidableEq, Repr

/-- A thread that waits on a semaphore (R253): engine, sheaf and lane, and the FCLK at which its condition has held. -/
structure SemWait where
  eng : Nat
  sheaf : Nat
  lane : Nat
  phys : Nat
  n : Nat
  from_ : Nat
  got : Option Nat
  deriving DecidableEq, Repr

/-- A block transfer (R258) and the operations held behind it. -/
structure SemXfer where
  first : Nat
  count : Nat
  load : Bool
  addr : Nat
  held : List SemOp
  deriving DecidableEq, Repr

structure Sem where
  count : SMap (BitVec 32)
  ops : List SemOp
  dones : List SemDone
  swait : Option SWait
  waits : List SemWait
  xfer : Option SemXfer
  deriving DecidableEq, Repr
/-! ### Engine translation (R316 to R336) -/

/-- Who waits for a translation: a thread's access, an engine's instruction fetch, a thread's BALE.ISSUE, a move of a bay
mover, a barn mover. -/
inductive XOwner where
  | thread (eng sheaf lane : Nat)
  | fetch (eng : Nat)
  | desc (eng sheaf lane : Nat)
  | move (id : Nat)
  | barn (k : Nat)
  deriving DecidableEq, Repr

/-- A request for a translation (R316): its miss queue, tenant, address, bytes and KIND (R334). -/
structure XReq where
  queue : Nat
  tid : Nat
  va : Nat
  len : Nat
  kind : Nat
  owner : XOwner
  deriving DecidableEq, Repr

/-- The answer to a request: code 0 and a physical address, or the code of R337. -/
structure XAns where
  req : XReq
  code : Nat
  pa : Nat
  deriving DecidableEq, Repr

/-- An entry of a translation cache (R325): `size` 0 for 64 KiB, 1 for 2 MiB, 2 for 512 MiB, the virtual page of that
size, the physical base and the rights (R 1, W 2, A 4). -/
structure TEnt where
  tid : Nat
  size : Nat
  vpn : Nat
  pa : Nat
  rights : Nat
  deriving DecidableEq, Repr

/-- A miss in a queue (R326): the requests of one page, the walk in progress, the fault it waits for. -/
structure Miss where
  queue : Nat
  tid : Nat
  page : Nat
  reqs : List XReq
  walking : Bool
  fault : Option Nat
  deriving DecidableEq, Repr

/-- The translation unit of a bay, or of a barn die. -/
structure Etr where
  tlb : List (Nat × TEnt)
  plru : SMap Nat
  reqs : List XReq
  misses : List Miss
  ans : List XAns
  deriving DecidableEq, Repr

/-- A table pointer in a walk cache (R325): the level of the entry it was read from and the VA bits it covers. -/
structure WcEnt where
  tid : Nat
  level : Nat
  va : Nat
  table : Nat
  deriving DecidableEq, Repr

/-- A walk in progress (R322, R327): the unit and queue whose miss it serves, the level and address of the entry it reads. -/
structure Walk where
  unit : Nat
  queue : Nat
  tid : Nat
  page : Nat
  level : Nat
  entry : Nat
  start : Nat
  deriving DecidableEq, Repr

/-- An outstanding page fault of a die (R333, R334). -/
structure PFault where
  slot : Nat
  gen : Nat
  unit : Nat
  req : XReq
  level : Nat
  pte : Nat
  stamp : Nat
  merged : Nat
  /-- Frame in which its record was written. -/
  written : Option Nat
  /-- The record has waited for ring space. -/
  waited : Bool
  deriving DecidableEq, Repr

/-- The walkers of a die. -/
structure EtrDie where
  wc : List WcEnt
  walks : List Walk
  faults : List PFault
  gens : SMap Nat
  /-- Where the round-robins of R327 go on. -/
  rrA : Nat
  rrB : Nat
  deriving DecidableEq, Repr


/-! ### Sheaf engines (R215 to R246) -/

/-- What a thread does (R216, R232). -/
inductive ThSt where
  | ready
  /-- It waits at a group instruction, at SEM.WAIT, for a crop-range access, for room in a full request queue, for the
  descriptor of its BALE.ISSUE, or is stopped at an EBREAK that a debugger claims (R559). -/
  | group | semWait | access | room | desc | stopped
  | exited | faulted | cut
  deriving DecidableEq, Repr

/-- A thread: its PC, its registers, a poison bit for x0 to x31 and f0 to f31, fcsr, the FCLK at which it is ready. -/
structure Thread where
  st : ThSt
  pc : Nat
  x : SMap Word
  f : SMap Word
  pois : Nat
  fcsr : Nat
  instret : Nat
  readyAt : Nat
  deriving DecidableEq, Repr

/-- A resident sheaf: its number, its threads by lane, and the group instruction that its threads wait at. -/
structure Sheaf where
  no : Nat
  threads : List Thread
  gword : Nat
  deriving DecidableEq, Repr

/-- What a crop-range access does. -/
inductive AccKind where
  | load | store | lr | sc | amo (op : Nat)
  deriving DecidableEq, Repr

/-- A crop-range access of a thread (R236): whether it has passed the memory port, and the data of a load on its way. -/
structure ShAcc where
  sheaf : Nat
  lane : Nat
  kind : AccKind
  fp : Bool
  signed : Bool
  rd : Nat
  a : Nat
  size : Nat
  v : Nat
  vp : Bool
  sent : Bool
  data : Option (Nat × Bool)
  deriving DecidableEq, Repr

/-- A sheaf engine and the launch it runs (R218 to R221). -/
structure Eng where
  active : Bool
  desc : Line
  daddr : Nat
  rank : Nat
  /-- The launch's first FCLK n. -/
  start : Nat
  tid : Nat
  sheaves : List Sheaf
  /-- The next sheaf to become resident, and the sheaves of the launch. -/
  next : Nat
  total : Nat
  exited : Nat
  faulted : Nat
  cut : Nat
  pois : Bool
  fl : Nat
  /-- Sheaf of the previous issue; the issue group as sheaf and lane, its PC and word. -/
  last : Nat
  group : List (Nat × Nat)
  word : Nat
  /-- The PC and sheaf that an instruction fetch is for, and the instruction cache by line of virtual address. -/
  fetch : Option (Nat × Nat)
  icache : SMap Line
  acc : List ShAcc
  /-- FCLK at which the issue port, and the memory port, are free. -/
  free : Nat
  memFree : Nat
  /-- The first fault of the launch has raised its record; the PC of a stopped thread has been poked, by sheaf and lane. -/
  raised : Bool
  poked : List (Nat × Nat)
  deriving DecidableEq, Repr

/-- The reservation of a thread (R225): the physical address of its doubleword. -/
structure ShfResv where
  bay : Nat
  eng : Nat
  sheaf : Nat
  lane : Nat
  pa : Nat
  deriving DecidableEq, Repr
/-! ### The loft slice and the bale movers (R262, R263, R270, R289) -/

/-- What a planned operation does to the loft: at FCLK `start + j` it moves the bytes (offset, length) of entry `j`. `path` is
its place among the reads or the writes of R263; it belongs to the operation `op` of a stream of a bay. -/
structure LoftUse where
  path : Nat
  wrt : Bool
  ownBay : Nat
  stream : Nat
  op : Nat
  beats : List (Nat × Nat)
  start : Nat
  late : Nat
  deriving DecidableEq, Repr

/-- The cache region of a bay (R270, R271): block number + 1 of set × 16 + way, pseudo-LRU bits by set, and the candidate
filter, newest first, with misses. Line data stands in `held`. -/
structure CReg where
  blocks : SMap Nat
  plru : SMap Nat
  cand : List (Nat × Nat)
  deriving DecidableEq, Repr

/-- A 512 B block of a move's source as read: its number in the address space of R292, its bytes, and a poison bit per
granule. -/
structure SrcBeat where
  blk : Nat
  bytes : List Byte
  pois : Nat
  /-- Remote reads of the block without an answer. -/
  left : Nat
  deriving DecidableEq, Repr

/-- A bale move in flight (R300 to R311). -/
structure Move where
  id : Nat
  mover : Nat
  flex : Bool
  tid : Nat
  /-- Partition of a barn mover's tenant. -/
  proxy : Option Nat
  desc : Line
  at_ : Nat
  /-- First FCLK, and the FCLK by which R263 has delayed it. -/
  p : Nat
  late : Nat
  got : List SrcBeat
  /-- Translations received, and pages asked for, with whether for writing. -/
  xl : List XAns
  asked : List (Nat × Bool)
  /-- Next output beat, and the tick of the last landing. -/
  next : Nat
  lastAt : Nat
  /-- Remote writes not answered yet, and packets sent (R452). -/
  remote : Nat
  packets : Nat
  /-- Due time of the last scheduled packet, in 1/16 ACYC. -/
  dueLast : Nat
  flags : Nat
  pois : Bool
  /-- Code of the first error of the move, 0 none. -/
  err : Nat
  cut : Bool
  /-- A controller has refused an anchored add (R307). -/
  refused : Bool
  /-- The image that a husk stream decodes to, and the code of its rejection. -/
  husk : Option (List Byte × Nat)
  /-- A work-ring item, by ring and item tag (R489). -/
  item : Option (Nat × Nat)
  deriving DecidableEq, Repr

/-- A descriptor of BALE.ISSUE: admitted, or with the thread that waits for room (R309). -/
structure FlexMove where
  desc : Line
  va : Nat
  tid : Nat
  thread : Nat × Nat × Nat
  deriving DecidableEq, Repr

/-- The movers of a bay. -/
structure Mov where
  moves : List Move
  flexq : List FlexMove
  waiting : List FlexMove
  nextId : Nat
  deriving DecidableEq, Repr

/-- A descriptor queued for the barn movers of a die (R313): its address, and the ring and tag of a work-ring item. -/
structure BarnDesc where
  addr : Nat
  desc : Line
  item : Option (Nat × Nat)
  deriving DecidableEq, Repr

/-- The barn movers of a barn die. -/
structure BarnMov where
  queue : List BarnDesc
  moves : List Move
  nextId : Nat
  deriving DecidableEq, Repr

/-- An item of a hardware producer on its way to a ring (R488): the KIND that the producer needs, the ring that counts it if
it is dropped, the tick at which a waiting fault record is dropped (R538). -/
structure HwItem where
  ring : Nat
  need : Nat
  line : Line
  counts : Nat
  until_ : Option Nat
  waiting : Bool
  deriving DecidableEq, Repr

/-- The completion of a BARN or ATOM item that waits to be written on its completion ring (R491). -/
structure RingDone where
  ring : Nat
  idx : Nat
  kind : Nat
  status : Nat
  result : Nat
  flags : Nat
  pois : Bool
  deriving DecidableEq, Repr

/-- A request at a pseudo-channel controller (R279): its granary offset, class, arrival, and what it asks. -/
structure GrnReq where
  off : Nat
  mid : Nat
  proxy : Option Nat
  planned : Bool
  aged : Bool
  arrived : Nat
  op : GrnOp
  ue : Bool
  deriving DecidableEq, Repr

/-! ### Host cores and the CMX -/

/-- An entry of the store buffer (R354). -/
structure SbEnt where
  line : Nat
  data : Line
  mask : Nat
  /-- Tick of the entry's first store. -/
  at_ : Nat
  /-- A later store may merge (no FENCE, AMO, SC or I/O access since, R355). -/
  mergeable : Bool
  deriving DecidableEq, Repr

/-- A CMX instruction that has retired and is not complete (R364): whether it is an MMA, and what an STA has still to write:
addresses, bytes and poison. -/
structure CmxWork where
  mma : Bool
  writes : List (Nat × List Byte × Bool)
  deriving DecidableEq, Repr

/-- The context of a core in its cluster's CMX (R360), with the work it has accepted, oldest first. An entry of an accumulator is 128 bits and a poison bit. -/
structure Cmx where
  cfg : Word
  acc : SMap (BitVec 128)
  accPois : SMap Bool
  flags : Nat
  pois : Bool
  work : List CmxWork
  deriving DecidableEq, Repr

/-- A host core: RISC-V architectural state, the store buffer, the reservation and the CMX context. -/
structure Core where
  /-- Released from reset (R591). -/
  released : Bool
  pc : Word
  x : SMap Word
  f : SMap Word
  v : SMap (BitVec 256)
  /-- RISC-V CSRs by number. -/
  csr : SMap Word
  /-- 0 U, 1 S, 3 M. -/
  priv : Nat
  virt : Bool
  /-- Base and size of the reservation, tick of the LR, whether it was made in HD8 mode (R357). -/
  resv : Option (Nat × Nat × Nat × Bool)
  sb : List SbEnt
  /-- The L1 caches hold lines that a disable has left stale (R352, R353). -/
  l1dStale : Bool
  l1iStale : Bool
  cmx : Cmx
  halted : Bool
  /-- A single step is requested by dcsr (Debug Module). -/
  haltReq : Bool
  /-- Pending interrupt identities of the core's IMSIC files, by file × 256 + identity, and their enables. -/
  eip : SMap Bool
  eie : SMap Bool
  /-- What `cycle` and `instret` read above the cluster's cycles and the instructions retired. -/
  cycOff : Word
  instret : Word
  deriving DecidableEq, Repr

/-- The clock of a cluster (R342, R343): its P-state, the one it changes to, and the CCLK counted up to a tick. -/
structure Clu where
  pst : Nat
  target : Option Nat
  cyc : Nat
  since : Nat
  deriving DecidableEq, Repr

/-- The SPDM responder (R474): how far the connection has come (0 nothing, 1 version, 2 capabilities, 3 algorithms), the
version as its byte, the transcripts that signatures cover, and the response last sent. -/
structure Spdm where
  stage : Nat
  ver : Nat
  vca : List Byte
  certs : List Byte
  meas : List Byte
  out : List Byte
  deriving DecidableEq, Repr

/-- What the management interfaces hold (R609 to R611): the endpoint ID, the last PLDM answer, the last answer to a vendor
message (an error code, 0 none, and data), and the tick until which the bus must have been idle. -/
structure Mgt where
  eid : Nat
  reading : Option Int
  answer : Option (Nat × Word)
  deriving DecidableEq, Repr

/-- The Debug Module of the hub (R553): dmcontrol, the error and automatic execution of abstract commands, the data and program
buffer words, and by hart whether a resume is acknowledged and a reset has been seen. -/
structure Dm where
  active : Bool
  hartsel : Nat
  haltreq : SMap Bool
  cmderr : Nat
  auto : Nat
  command : Nat
  data : List (BitVec 32)
  progbuf : List (BitVec 32)
  resumeack : SMap Bool
  havereset : SMap Bool
  deriving DecidableEq, Repr

/-! ### The package -/

/-- A bay. -/
structure Bay where
  seq : Seq
  streams : Vector Stream 6
  chans : SMap Chan
  mxa : Mxa
  vxe : Vxe
  /-- The per-tenant flag registers by TID (R209). -/
  tflags : SMap Nat
  sem : Sem
  etr : Etr
  /-- Loft accesses of planned operations, and the next FCLK whose accesses have not been served (R263). -/
  luse : List LoftUse
  served : Nat
  creg : CReg
  mov : Mov
  /-- The four sheaf engines. -/
  engs : Vector Eng 4
  trc : TrcBay
  dbg : DbgBay
  cnt : CntBay
  deriving DecidableEq, Repr

/-- The package: everything but the queue of commands. -/
structure Mach where
  /-- Time in units of 1/720,720 ACYC since the rise of PKG_PWROK. The model's own clock. -/
  now : Nat
  /-- The model's own counter of free values drawn. -/
  freeCtr : Nat
  /-- Control-space registers by offset (R31 to R33): those that differ from their reset value. -/
  csr : SMap Word
  fuses : Fuses
  pins : Pins
  boot : Boot
  alm : Alm
  clk : Vector DieClk 6
  bays : Vector Bay 72
  rota : Vector Rota 16
  /-- Tokens and rendezvous messages in flight. -/
  toks : List TokFlight
  rdvs : List RdvFlight
  flt : Flt
  /-- Trace records on their way to the bay buffers. -/
  trcWire : List TrcRec
  sinks : Vector Sink 16
  dbg : DbgHub
  /-- Main memory (granary and DDR5) by local physical address. -/
  mem : SMap Byte
  /-- Poisoned 64 B lines of main memory, by line number. -/
  memPois : SMap Bool
  /-- Loft bytes: bay n at n × 32 MiB. -/
  loft : SMap Byte
  /-- Poisoned 64 B granules of the lofts, by granule number in the same numbering. -/
  loftPois : SMap Bool
  cfg : ImgCfg
  /-- Which key the lines of memory were written under (R471 to R473): the epoch since cold reset, the epoch of each
  granule that a rekey has changed plus 1, and the epoch plus 1 under which each line was last written. -/
  coldEpoch : Nat
  granKey : SMap Nat
  lineKey : SMap Nat
  epochs : Nat
  /-- Lines held by caches, at cache key × 2^42 + line number. -/
  held : SMap HLine
  /-- The directories of the six homes, by line number, and the pseudo-LRU bits of their sets. -/
  dir : SMap DirEnt
  dirLru : SMap Nat
  retries : List HomeRetry
  cores : Vector Core 96
  clus : Vector Clu 12
  /-- Corrected errors of the ways of the last-level caches, by die × 16 + way, and the window they were counted in (R350). -/
  llcCe : SMap Nat
  llcWin : Nat
  /-- Ways, as die × 16 + way, whose disabling software has begun (R350). -/
  llcSoft : SMap Bool
  /-- How the last access to control space by a command of its own ended (0 done, 1 refused, 2 access error, 3 busy error),
  and the value of a read; the last completion that a PCI Express request was answered with: tag, status, data, poison. -/
  cspOut : Nat × Word
  pcieOut : Option (Nat × Nat × List Byte × Bool)
  /-- Words of tenant records that wait for their commit (R467). -/
  tenB : SMap Word
  tenC : SMap Word
  spdm : Spdm
  /-- The IDE key windows of the PCI Express ports, by port × 2,048 + word (R606). -/
  ideKeys : SMap Word
  mgt : Mgt
  dm : Dm
  /-- Tick + 1 of the last doorbell applied to a ring, 0 none (R493), and the core whose doorbell it was, plus 1 (R554). -/
  ringAt : SMap Nat
  ringBy : SMap Nat
  /-- The translation caches of the barn dies, and the walkers of the compute dies (0 to 5) and barn dies (6 to 9). -/
  barnEtr : Vector Etr 4
  etrDies : Vector EtrDie 10
  /-- MAC performed by the bays of each compute ordinal, whose 65,536ths an always-on counter shows (R568). -/
  macs : SMap Nat
  /-- Requests that wait at the pseudo-channel controllers (R279). -/
  grnq : List GrnReq
  barnMov : Vector BarnMov 4
  /-- Completions of ring items that the hub has still to write, and items of hardware producers (R488, R491). -/
  ringDone : List RingDone
  hwItems : List HwItem
  shfResv : List ShfResv
  route : Route
  ports : Vector Port 24
  /-- Remote requests of this package without a response (R455). -/
  vkReqs : List VkReq
  pwr : Pwr
  deriving DecidableEq, Repr

/-- The state of the machine: the commands that wait, first in, first out, and the package. -/
structure State where
  pending : List Instr
  mach : Mach
  deriving DecidableEq, Repr
/-! ### Reset -/

/-- A token channel after package reset: the whole state is 0 (R102). -/
def Chan.zero : Chan :=
  { count := 0, debt := 0, poison := false, arr := 0, arrGroup := 0, arrHold := false, arrCrit := 0, arrAt := 0,
    rel := none, latch := none, pend := none, upAt := 0, clearAt := 0 }

/-- A stream that is not issuing. -/
def Stream.zero : Stream :=
  { run := false, word := 0, idx := 0, issued := 0, last := 0, next := 0, nextAt := 0, hold := .none, fresh := false,
    busy := 0, loops := [0, 0, 0, 0], tb := 0, stallFrom := 0 }

/-- A sequencer with no slice (SEQ_STATUS.STATE reset IDLE, ENTRY none, R101). -/
def Seq.zero : Seq :=
  { st := .idle, tid := none, entry := none, bnd := 0, bndEdge := 0, fallowed := 0,
    section_ := 0, storeBase := 0, workBase := 0, workSize := 0, resume := false, yielded := false, park := .none,
    erred := false, clearEnd := 0, ready := none, win := none, settleFrom := 0, preempted := false, take := none }

/-- A rota that is not enabled. -/
def Rota.zero : Rota :=
  { enabled := false, inSlice := false, fallow := false, cur := 0, startFrame := 0, endFrame := 0, entryEnd := 0, ann := none,
    annCont := false, annGo := false, annRefused := false, stopReq := false, abortReq := false }

/-- A trace sink whose registers are at reset (R574). -/
def Sink.zero : Sink :=
  { base := 0, cfg := 0, wptr := 0, stat := 0, lost := 0, trig := 0, trigMark := 0, trigAt := 0,
    stopAt := none, fire := none }

/-- A stationary bank of zeros. -/
def StatBank.zero : StatBank := { bytes := [], pois := [], size := 0, undef := none }

/-- The matrix array after the clear (R162), or before it: every bank zero and every profile slot invalid. -/
def Mxa.zero : Mxa :=
  { banks := [StatBank.zero, StatBank.zero], active := 0, acc := [], accPois := [], accUndef := [none, none],
    accFlags := [0, 0], profs := List.replicate 8 none, drains := [], flexq := [], flexEnd := 0, streamEnd := 0,
    loadEnd := 0, termEnd := [0, 0] }

/-- A pointer of zeros. -/
def VPtr.zero : VPtr := { base := 0, stride := 0, wrap := 0, cursor := 0 }

/-- The vector engine after the clear of R188: token targets unlisted read 0xFFFF_FFFF. -/
def Vxe.zero : Vxe :=
  { v := [], vp := [], m := [], mp := [], s := [], sp := [], ptr := [], tok := [], ac := [], acp := [], lf := [],
    flight := [], words := 0, lastWord := 0 }

/-- The semaphore block after package reset: every COUNT is 0 (R247). -/
def Sem.zero : Sem :=
  { count := [], ops := [], dones := [], swait := none, waits := [], xfer := none }

/-- A translation unit with nothing cached. -/
def Etr.zero : Etr := { tlb := [], plru := [], reqs := [], misses := [], ans := [] }

/-- Walkers with nothing in progress. -/
def EtrDie.zero : EtrDie := { wc := [], walks := [], faults := [], gens := [], rrA := 0, rrB := 0 }

/-- A cache region with no block (R273), and movers with nothing in flight. -/
def CReg.zero : CReg := { blocks := [], plru := [], cand := [] }
def Mov.zero : Mov := { moves := [], flexq := [], waiting := [], nextId := 0 }
def BarnMov.zero : BarnMov := { queue := [], moves := [], nextId := 0 }

/-- A sheaf engine with no launch. -/
def Eng.zero : Eng :=
  { active := false, desc := 0, daddr := 0, rank := 0, start := 0, tid := 0, sheaves := [], next := 0, total := 0, exited := 0,
    faulted := 0, cut := 0, pois := false, fl := 0, last := 0, group := [], word := 0, fetch := none, icache := [], acc := [],
    free := 0, memFree := 0, raised := false, poked := [] }

/-- A bay after package reset. -/
def Bay.zero : Bay :=
  { seq := Seq.zero, streams := Vector.replicate 6 Stream.zero, chans := [], mxa := Mxa.zero,
    vxe := Vxe.zero, tflags := [], sem := Sem.zero, etr := Etr.zero, luse := [], served := 0, creg := CReg.zero,
    mov := Mov.zero, engs := Vector.replicate 4 Eng.zero, trc := { buf := [], lost := [0, 0, 0, 0] },
    dbg := { halted := false, haltEdge := 0, resEdge := 0, defer := none, smpAt := 0, smpRr := [0, 0, 0, 0] }, cnt := { edge := 0, skip := 0 } }

/-- An almanac port with nothing heard. -/
def AlmPort.zero : AlmPort := { beacon := none, exch := [], sent := none, xseq := 0, lastBeacon := none }

/-- The almanac before it first runs (R36). -/
def Alm.zero : Alm :=
  { running := false, base := 0, since := 0, step := 0, acqPort := 31, offset := 0, confirm := 0, slewing := false,
    stepArmed := false, holdFrom := 0, refLocked := false, listenFrom := none, adopted := false, rootTaken := false,
    relock := false, ports := Vector.replicate 24 AlmPort.zero }

/-- The furrow clock at gear 4 (ALM_LSTAT.GEAR resets to 4, R68; the PLL first locks at gear 4). -/
def DieClk.zero : DieClk :=
  { epoch := 0, edges0 := 0, gear := 4, div := 0, supp := 0, dropped := 0, frame0 := 0, frameSupp := 0, droop := false, stopped := false,
    copyLost := false }

/-- The fuses of the model: an HD25-F of stepping A1 with no repairs. DESIGN CHOICE (unsafe), log entry 4. -/
def Fuses.model : Fuses :=
  { variantE := false, stepLetter := 0, metal := 1, absent := [], uid := 0, designRev := 0, repaired := [],
    keyDigest := [0, 0, 0, 0], revoked := 0, secver := 0, coef := [], vtab := [], rampStep := (0, 0), statBay := [], statCl := [], statPkg := 0, cf := [], mxaRepair := [] }

/-- Bring-up before PKG_PWROK rises. -/
def Boot.zero : Boot :=
  { straps := [], strapsOk := false, linksUp := false, linksDown := [], slot := 0, buf := [], read := false, image := [],
    accepted := false, loading := false, fallback := false, t0 := 0, phaseAt := 0, authed := false, octal := false, keys := [],
    keyDraws := 0 }

/-- Fault collection with nothing recorded. -/
def Flt.zero : Flt :=
  { wire := [], dieKeys := [], hubKeys := [], seqNo := 0, lostSince := 0, repairs := [], dead := [],
    missed := [], prst := none, winFrom := 0 }

/-- Debug with nothing armed. -/
def DbgHub.zero : DbgHub :=
  { armHalt := [], armRes := [], haltFrom := [], jtagIr := 0, jtagDr := 0, coreDefer := [], snapAt := none, snapLeft := [] }

/-- A Vrelrek port with nothing queued. -/
def Port.zero : Port :=
  { expq := [], almq := [], txq := [], spill := [], rest := [], txSeq := 0, replay := [], resend := none, rpl := false,
    rxSeq := 4095, nak := false, awaitRpl := false, granted := [0, 0, 0, 0, 0, 0], used := [0, 0, 0, 0, 0, 0],
    freed := [0, 0, 0, 0, 0, 0], held := [0, 0, 0, 0, 0, 0], rot := 1, part := [], rxq := [], rxexp := [], expHeld := [], sub := 0, stateAt := 0, retrainAt := 0, ackAt := 0, trig := false,
    nakRx := false, seen := [0, 0, 0, 0, 0, 0], nextTx := 0, tx := [], usable := 0, peer := none, retrains := [], ucw := (0, 0) }

/-- The power controller with nothing pending. -/
def Pwr.zero : Pwr :=
  { gearReqs := [], reports := [], shiftIn := [], leases := [], lastShift := none, started := false, events := [],
    dynDie := List.replicate 6 (0, 4), dynCl := List.replicate 12 0, est := 0, level := 0, energy := [], period := [],
    periodFrom := 0, tpc := List.replicate 12 0, hot := false, fNext := 0, kNext := List.replicate 12 0, fallowAt := none, volt := List.replicate 6 (0, 0), emerg := [],
    surgeAt := none, selAt := none, decAt := none, chgAt := none }

/-- The route record before the image is loaded. -/
def Route.zero : Route := { nodeId := 0, remoteTmo := 0, spillMib := 0, spillBase := 0, entries := [] }

/-- Before the image is loaded: CSP_BASE at its default (R30), the MGT defaults (R612), no other base. -/
def ImgCfg.zero : ImgCfg :=
  { cspBase := 0xF000000000, grnBase := 0, hostBase := 0, winBase := 0, imsicM := 0, imsicS := 0, ddr := 0, ddrScrub := 0,
    pcie := [], mgt := 0x4A, cores := [], dbgKey := none, dbgPkg := false }

/-- A line with no directory entry is Uncached (R371). -/
def DirEnt.zero : DirEnt := { owned := false, pres := 0, txn := none, queue := [], wbHeld := none, way := 0 }

/-- A line not held (Invalid, R375). -/
def HLine.none : HLine :=
  { st := 0, data := 0, pois := false, wonUntil := 0, wb := false, acked := false, mask := 0, orphan := false }

/-- A CMX context after package reset: all-zero configuration and empty accumulators (R360). -/
def Cmx.zero : Cmx := { cfg := 0, acc := [], accPois := [], flags := 0, pois := false, work := [] }

/-- A core in reset, in M-mode. Registers to which the spec gives no value are 0, log entry 5. -/
def Core.zero : Core :=
  { released := false, pc := 0, x := [], f := [], v := [], csr := [(0x7C0, 0x2E)], priv := 3, virt := false, resv := none,
    sb := [], l1dStale := false, l1iStale := false, cmx := Cmx.zero, halted := false, haltReq := false, eip := [],
    eie := [], cycOff := 0, instret := 0 }

/-- A cluster at P0; the image sets its P-state (R590). -/
def Clu.zero : Clu := { pst := 0, target := none, cyc := 0, since := 0 }

/-- An SPDM responder without a connection. -/
def Spdm.zero : Spdm := { stage := 0, ver := 0, vca := [], certs := [], meas := [], out := [] }

/-- Management interfaces without an address. -/
def Mgt.zero : Mgt := { eid := 0, reading := none, answer := none }

/-- The Debug Module, inactive (R553). -/
def Dm.zero : Dm :=
  { active := false, hartsel := 0, haltreq := [], cmderr := 0, auto := 0, command := 0, data := List.replicate 12 0,
    progbuf := List.replicate 8 0, resumeack := [], havereset := [] }

/-- The package with every register at the reset value of its table, before the board raises PKG_PWROK. The values of
registers to which the spec gives no reset value are 0, log entry 5. -/
def Mach.reset : Mach :=
  { now := 0, freeCtr := 0, csr := [], fuses := Fuses.model,
    pins := { pwrok := false, resetN := true, alertN := true, thermtripN := true, xspiDriven := false },
    boot := Boot.zero, alm := Alm.zero, clk := Vector.replicate 6 DieClk.zero, bays := Vector.replicate 72 Bay.zero,
    rota := Vector.replicate 16 Rota.zero, toks := [], rdvs := [], flt := Flt.zero, trcWire := [],
    sinks := Vector.replicate 16 Sink.zero, dbg := DbgHub.zero, mem := [], memPois := [], loft := [], loftPois := [], cfg := ImgCfg.zero, coldEpoch := 0, granKey := [], lineKey := [], epochs := 0, held := [],
    dir := [], dirLru := [], retries := [], cores := Vector.replicate 96 Core.zero,
    barnEtr := Vector.replicate 4 Etr.zero, etrDies := Vector.replicate 10 EtrDie.zero, macs := [],
    grnq := [],
    barnMov := Vector.replicate 4 BarnMov.zero, ringDone := [], hwItems := [], clus := Vector.replicate 12 Clu.zero, llcCe := [], llcWin := 0, llcSoft := [], cspOut := (0, 0), pcieOut := none,
    tenB := [], tenC := [], spdm := Spdm.zero, ideKeys := [], mgt := Mgt.zero, dm := Dm.zero, ringAt := [], ringBy := [], shfResv := [], route := Route.zero, ports := Vector.replicate 24 Port.zero, vkReqs := [], pwr := Pwr.zero }

/-- The machine after reset: no command waits. -/
def State.reset : State := { pending := [], mach := Mach.reset }

end Sys2Proof.Machine
end

