-- ==== Sys2Proof/Machine/Store.lean ====
section
/-! DEFINITION. Sparse stores in one canonical form: memory bytes, registers and every other large table. -/

namespace Sys2Proof.Machine

/-- The value stored at a key, or the default `d` of an unlisted one. -/
def smapGet {α : Type} (d : α) : SMap α → Nat → α
  | [], _ => d
  | (k, v) :: m, a => if a = k then v else smapGet d m a

/-- `m` with `v` entered at `a`, before the first greater key. -/
def smapIns {α : Type} : SMap α → Nat → α → SMap α
  | [], a, v => [(a, v)]
  | (k, w) :: m, a, v =>
    if a < k then (a, v) :: (k, w) :: m
    else if a = k then (a, v) :: m
    else (k, w) :: smapIns m a v

/-- `m` with `v` at `a`; a value equal to the default of `a` removes the entry, so that equal stores are equal data. -/
def smapPut {α : Type} [DecidableEq α] (d : α) (m : SMap α) (a : Nat) (v : α) : SMap α :=
  if v = d then m.filter (fun p => !(decide (p.1 = a))) else smapIns m a v

/-- `m` with every key of `[lo, lo + n)` back at its default. -/
def smapClear {α : Type} (m : SMap α) (lo n : Nat) : SMap α :=
  m.filter (fun p => !(decide (lo ≤ p.1) && decide (p.1 < lo + n)))

/-- The canonical form: keys strictly rising, no value equal to the default of its key. -/
def smapWf {α : Type} [DecidableEq α] (d : Nat → α) (m : SMap α) : Bool :=
  decide (m.Pairwise (fun p q => p.1 < q.1)) && m.all (fun p => !(decide (p.2 = d p.1)))

/-- Reading one byte of a byte store: an unlisted byte reads 0. DESIGN CHOICE (unsafe), log entry 3. -/
def byteAt (m : SMap Byte) (a : Nat) : Byte := smapGet 0#8 m a

/-- Writing one byte of a byte store. -/
def putByte (m : SMap Byte) (a : Nat) (b : Byte) : SMap Byte := smapPut 0#8 m a b

/-- `n` bytes from `a` on. -/
def readBytes (m : SMap Byte) (a : Nat) : Nat → List Byte
  | 0 => []
  | n + 1 => byteAt m a :: readBytes m (a + 1) n

/-- A row of bytes written from `a` on. -/
def writeBytes (m : SMap Byte) (a : Nat) : List Byte → SMap Byte
  | [] => m
  | b :: bs => writeBytes (putByte m a b) (a + 1) bs

/-- The little-endian number in `n` bytes from `a` on (R10). -/
def readNat (m : SMap Byte) (a n : Nat) : Nat := ofBytes (readBytes m a n)

/-- A number written little-endian in `n` bytes from `a` on (R10). -/
def writeNat (m : SMap Byte) (a n v : Nat) : SMap Byte := writeBytes m a (bytesOf n v)

/-- A row of bytes written only where the mask bit of its position is 1 (byte enables). -/
def writeMasked (m : SMap Byte) (a : Nat) (mask : Nat) : List Byte → SMap Byte
  | [] => m
  | b :: bs =>
    writeMasked (if mask % 2 = 1 then putByte m a b else m) (a + 1) (mask / 2) bs

end Sys2Proof.Machine
end

