-- ==== Sys2Proof/WellFormed.lean ====
section
/-! DEFINITION. Well-formed commands: the operands that the outside world may supply. An operand outside the range that the
spec gives its kind of request is no request at all. -/

namespace Sys2Proof

/-- A received beacon: every field within its width (R431). -/
def Beacon.wf (b : Beacon) : Bool :=
  decide (b.hallId < 2 ^ 16) && decide (b.srcNode < 2 ^ 14) && decide (b.srcPort < 2 ^ 5) && decide (b.state < 2 ^ 4) &&
  decide (b.hops < 2 ^ 4) && decide (b.parent < 2 ^ 14) && decide (b.frame < 2 ^ 48) && decide (b.txoff < 2 ^ 16) &&
  decide (b.root < 2 ^ 14)

/-- A received exchange message: XSEQ of 8 bits, times of 64 (R433). -/
def Exchange.wf (m : Exchange) : Bool :=
  decide (m.xseq < 2 ^ 8) && decide (m.t1 < 2 ^ 64) && decide (m.t2 < 2 ^ 64) && decide (m.t3 < 2 ^ 64)

/-- A PCI Express operation: reads of up to 4,096 B, writes of up to 512 B, the atomic sizes of R601. -/
def PcieOp.wf : PcieOp → Bool
  | .read n => decide (0 < n) && decide (n ≤ 4096)
  | .write d _ => decide (0 < d.length) && decide (d.length ≤ 512)
  | .fetchAdd n _ => decide (n = 4) || decide (n = 8)
  | .swap n _ => decide (n = 4) || decide (n = 8)
  | .cas n _ _ => decide (n = 4) || decide (n = 8) || decide (n = 16)

/-- An access through the loft window covers at least one byte. -/
def WindowOp.wf : WindowOp → Bool
  | .read n => decide (0 < n)
  | .write d _ => decide (0 < d.length)

/-- Sensor readings: one for every die ID, stack and cluster. -/
def TempReport.wf (t : TempReport) : Bool := decide (t.die.length = 32) && decide (t.stack.length = 12) && decide (t.cluster.length = 12)

/-- A flit is 640 bytes (R420). -/
def flitWf (bytes : List Byte) : Bool := decide (bytes.length = 640)

/-- LOCK reports the number of each of the four lanes (R417). -/
def lockWf (num : List (Option (Fin 4))) : Bool := decide (num.length = 4)

/-- A PCI Express link has 1, 2, 4, 8 or 16 lanes (R601). -/
def widthWf (width : Nat) : Bool := [1, 2, 4, 8, 16].contains width

/-- Whether a command is well formed. -/
def Instr.wf : Instr → Bool
  | .beacon _ b _ => b.wf
  | .exchangeRequest _ m _ => m.wf
  | .exchangeReply _ m _ => m.wf
  | .gearSelection t => t.wf
  | .loftWindowAccess _ _ _ op => op.wf
  | .vkLock _ num _ => lockWf num
  | .flitReceive _ bytes _ _ _ => flitWf bytes
  | .pcieDeviceRequest _ _ r => r.op.wf
  | .msi _ _ r => r.op.wf
  | .pcieLinkTraining _ _ width _ _ _ => widthWf width
  | _ => true

end Sys2Proof
end

