-- ==== Sys2Proof/Machine/Ops.lean ====
section
/-! DEFINITION. The named operations that every family shares: registers, bays, time, presence, ownership, fault records,
trace records and event counters. -/

namespace Sys2Proof.Machine

open Sys2Proof.Config (acyc)

/-- The outcome of a command that changes the package by `f`: the queue stays as it is. -/
def onMach (s : State) (f : Mach → Mach) : Host.Outcome State Fault Refusal := .next { s with mach := f s.mach }

/-- The same for a command whose operands must be well formed (`Instr.wf`): one whose operands are not stops the step. -/
def guarded (wf : Bool) (s : State) (f : Mach → Mach) : Host.Outcome State Fault Refusal :=
  if wf then onMach s f else .fault .illFormed

/-! ### Vectors by number -/

/-- Element `i`, or `d` past the end. -/
def vget {α : Type} {n : Nat} (d : α) (v : Vector α n) (i : Nat) : α := if h : i < n then v[i] else d

/-- `v` with element `i` changed by `f`; unchanged past the end. -/
def vmod {α : Type} {n : Nat} (v : Vector α n) (i : Nat) (f : α → α) : Vector α n :=
  if h : i < n then v.set i (f v[i]) else v

/-- `l` with element `i` replaced. -/
def lset {α : Type} (l : List α) (i : Nat) (a : α) : List α := l.set i a

/-! ### Registers -/

/-- The 8 bytes stored at a control-space offset (live registers are computed by `csrView`). -/
def csrAt (s : Mach) (a : Nat) : Word := smapGet (csrReset a) s.csr a

/-- The register file with 8 bytes stored at an offset. -/
def csrPut (s : Mach) (a : Nat) (v : Word) : Mach := { s with csr := smapPut (csrReset a) s.csr a v }

/-- The stored value of a register. -/
def rg (s : Mach) (n : RegName) (u i : Nat) : Word := csrAt s (RegRef.addr ⟨n, u, i⟩)

/-- Storing a register whole: a hardware update, whatever the types of its fields. -/
def wr (s : Mach) (n : RegName) (u i : Nat) (v : Word) : Mach := csrPut s (RegRef.addr ⟨n, u, i⟩) v

/-- A field of a register. -/
def rf (s : Mach) (n : RegName) (u i hi lo : Nat) : Nat := fld (rg s n u i) hi lo

/-- One bit of a register. -/
def rb (s : Mach) (n : RegName) (u i b : Nat) : Bool := bit (rg s n u i) b

/-- A hardware update of one field. -/
def wf (s : Mach) (n : RegName) (u i hi lo v : Nat) : Mach := wr s n u i (setFld (rg s n u i) hi lo v)

/-- A hardware update of one bit. -/
def wb (s : Mach) (n : RegName) (u i b : Nat) (v : Bool) : Mach := wf s n u i b b v.toNat

/-- A saturating count in a field. -/
def bump (s : Mach) (n : RegName) (u i hi lo k : Nat) : Mach :=
  wf s n u i hi lo (sat (hi + 1 - lo) (rf s n u i hi lo + k))

/-- A count that wraps mod 2^64. -/
def bumpWrap (s : Mach) (n : RegName) (u i k : Nat) : Mach := wr s n u i (rg s n u i + BitVec.ofNat 64 k)

/-- A register that records the first event after its VALID bit [63] was last cleared takes `v` with VALID set; with
VALID set already it is unchanged. -/
def recordFirst (s : Mach) (n : RegName) (u i : Nat) (v : Word) : Mach :=
  if rb s n u i 63 then s else wr s n u i (setBit v 63 true)

/-- A word assembled from fields `(hi, lo, value)`. -/
def packFlds (l : List (Nat × Nat × Nat)) : Word := l.foldl (fun w f => setFld w f.1 f.2.1 f.2.2) 0

/-! ### Free values -/

/-- A free word, and the state with the draw counted. -/
def drawWord (s : Mach) : Word × Mach := (Config.freeWord s.freeCtr, { s with freeCtr := s.freeCtr + 1 })

/-- `n` free bytes, and the state with the draws counted. -/
def drawBytes (s : Mach) (n : Nat) : List Byte × Mach :=
  ((List.range n).map (fun k => Config.freeByte (s.freeCtr + k)), { s with freeCtr := s.freeCtr + n })

/-! ### Bays, streams and channels -/

def getBay (s : Mach) (b : Nat) : Bay := vget Bay.zero s.bays b

def modBay (s : Mach) (b : Nat) (f : Bay → Bay) : Mach := { s with bays := vmod s.bays b f }

def getSeq (s : Mach) (b : Nat) : Seq := (getBay s b).seq

def modSeq (s : Mach) (b : Nat) (f : Seq → Seq) : Mach := modBay s b (fun x => { x with seq := f x.seq })

def getStream (s : Mach) (b k : Nat) : Stream := vget Stream.zero (getBay s b).streams k

def modStream (s : Mach) (b k : Nat) (f : Stream → Stream) : Mach :=
  modBay s b (fun x => { x with streams := vmod x.streams k f })

def getChan (s : Mach) (b c : Nat) : Chan := smapGet Chan.zero (getBay s b).chans c

def modChan (s : Mach) (b c : Nat) (f : Chan → Chan) : Mach :=
  modBay s b (fun x => { x with chans := smapPut Chan.zero x.chans c (f (smapGet Chan.zero x.chans c)) })

def getRota (s : Mach) (p : Nat) : Rota := vget Rota.zero s.rota p

def modRota (s : Mach) (p : Nat) (f : Rota → Rota) : Mach := { s with rota := vmod s.rota p f }

def getSink (s : Mach) (p : Nat) : Sink := vget Sink.zero s.sinks p

def modSink (s : Mach) (p : Nat) (f : Sink → Sink) : Mach := { s with sinks := vmod s.sinks p f }

def modPwr (s : Mach) (f : Pwr → Pwr) : Mach := { s with pwr := f s.pwr }

def modFlt (s : Mach) (f : Flt → Flt) : Mach := { s with flt := f s.flt }

def modBoot (s : Mach) (f : Boot → Boot) : Mach := { s with boot := f s.boot }

def modAlm (s : Mach) (f : Alm → Alm) : Mach := { s with alm := f s.alm }

def modDbg (s : Mach) (f : DbgHub → DbgHub) : Mach := { s with dbg := f s.dbg }

/-- The state folded over a list of items. -/
def foldS {α : Type} (l : List α) (f : Mach → α → Mach) (s : Mach) : Mach := l.foldl f s

/-! ### Time (R36, R37, R62, R63) -/

/-- The clock moved on to a tick that has not passed yet. -/
def advanceTo (s : Mach) (t : Nat) : Mach := { s with now := max s.now t }

/-- The almanac count in ticks. -/
def almTicks (s : Mach) : Nat := ((s.now : Int) + s.alm.base).toNat

/-- The almanac count (R36): 0 before it first runs. -/
def count (s : Mach) : Nat := if s.alm.running then (almTicks s / acyc) % 2 ^ 64 else 0

/-- The almanac count in 1/16 ACYC (R430). -/
def count16 (s : Mach) : Nat := if s.alm.running then almTicks s * 16 / acyc else 0

/-- The tick at which the almanac reads a count. -/
def tickOf (s : Mach) (c : Nat) : Nat := (((c * acyc : Nat) : Int) - s.alm.base).toNat

/-- The frame number of the count (R37). -/
def frameNo (s : Mach) : Nat := count s / 65536

/-- The almanac count at a tick. -/
def countAt (s : Mach) (t : Nat) : Nat :=
  if s.alm.running then ((((t : Int) + s.alm.base).toNat) / acyc) % 2 ^ 64 else 0

/-- The tick of the next frame boundary after now (R37). -/
def nextFrameTick (s : Mach) : Nat := tickOf s ((frameNo s + 1) * 65536)

/-- The package at its next frame boundary; at once if the count is not running (R591). -/
def toFrameBoundary (s : Mach) : Mach :=
  if s.alm.running then advanceTo s (if count s % 65536 = 0 ∧ almTicks s % acyc = 0 then s.now else nextFrameTick s)
  else s

def getClk (s : Mach) (d : Nat) : DieClk := vget DieClk.zero s.clk d

def modClk (s : Mach) (d : Nat) (f : DieClk → DieClk) : Mach := { s with clk := vmod s.clk d f }

/-- The FCLK period in ticks: 16/g ACYC (R62), times the division factor of an emergency (R65). -/
def period (c : DieClk) : Nat := 16 * acyc / (max 1 c.gear) * (max 1 c.div)

/-- The index of the last FCLK edge at or before a tick. -/
def edgeNo (c : DieClk) (t : Nat) : Nat :=
  if t < c.epoch then c.edges0 - ceilDiv (c.epoch - t) (period c) else c.edges0 + ((t - c.epoch) / period c - c.supp)

/-- The tick of an FCLK edge. -/
def edgeTick (c : DieClk) (k : Nat) : Nat :=
  if k ≤ c.edges0 then c.epoch - (c.edges0 - k) * period c else c.epoch + (k - c.edges0 + c.supp) * period c

/-- The first FCLK edge at or after a tick (R63). -/
def edgeAfter (c : DieClk) (t : Nat) : Nat :=
  if t ≤ c.epoch then c.edges0 - (c.epoch - t) / period c
  else c.edges0 + max 1 (ceilDiv (t - c.epoch) (period c) - c.supp)

/-- The compute ordinal of a bay (R25). -/
def dieOf (b : Nat) : Nat := b / 12

/-- The clock of a bay's die. -/
def clkOf (s : Mach) (b : Nat) : DieClk := getClk s (dieOf b)

/-- The FCLK edge index of a bay now. -/
def edgeOf (s : Mach) (b : Nat) : Nat := edgeNo (clkOf s b) s.now

/-- The clock moved on to an FCLK edge of a bay's die. -/
def advanceEdge (s : Mach) (b k : Nat) : Mach := advanceTo s (edgeTick (clkOf s b) k)

/-! ### Presence (R4 to R8, R34) -/

/-- Whether the bay is present. -/
def bayPresent (s : Mach) (b : Nat) : Bool :=
  decide (b < 72) &&
  !(s.fuses.variantE &&
    (match s.fuses.absent[b / 12]? with
     | some (lo, hi) => decide (b % 12 = lo) || decide (b % 12 = hi)
     | none => false))

/-- Sheaf engines per present bay (R4). -/
def shfPerBay (s : Mach) : Nat := if s.fuses.variantE then 2 else 4

/-- Whether a sheaf engine is present (DIE_BAYCAPb.SHF_COUNT, R80). -/
def shfPresent (s : Mach) (b e : Nat) : Bool := bayPresent s b && decide (e < shfPerBay s)

/-- Whether a Vrelrek port is present (R4). -/
def portPresent (s : Mach) (p : Nat) : Bool := decide (p < 24) && (!s.fuses.variantE || decide (p % 6 < 3))

/-- Capacity of a stack in GiB (R4). -/
def stackGib (s : Mach) : Nat := if s.fuses.variantE then 24 else 36

/-- Capacity of the granary in bytes. -/
def granarySize (s : Mach) : Nat := 12 * stackGib s * 2 ^ 30

/-- Bays of a package in order. -/
def allBays : List Nat := List.range 72

/-! ### Ownership (R459, R461, R25) -/

/-- Whether a partition is defined. -/
def partValid (s : Mach) (p : Nat) : Bool := rb s .PRT_PART_A 0 p 63

/-- The first partition whose field has the bit of a resource. -/
def ownerBy (s : Mach) (f : Nat → Nat) (bitNo : Nat) : Option Nat :=
  (List.range 16).find? (fun p => partValid s p && (f p).testBit bitNo)

/-- The partition that owns a yard. -/
def yardPid (s : Mach) (y : Nat) : Option Nat := ownerBy s (fun p => rf s .PRT_PART_A 0 p 17 0) y

/-- The partition that owns a bay (whole yards, R6). -/
def bayPid (s : Mach) (b : Nat) : Option Nat := yardPid s (b / 4)

/-- The partition that owns a cluster. -/
def clusterPid (s : Mach) (c : Nat) : Option Nat := ownerBy s (fun p => rf s .PRT_PART_A 0 p 43 32) c

/-- The partition that owns a core's cluster. -/
def corePid (s : Mach) (c : Nat) : Option Nat := clusterPid s (c / 8)

/-- The partition that owns a Vrelrek port. -/
def portPid (s : Mach) (p : Nat) : Option Nat := ownerBy s (fun q => rf s .PRT_PART_B 0 q 55 32) p

/-- The partition that owns function group `k` of PCI Express port `q`. -/
def pciPid (s : Mach) (q k : Nat) : Option Nat := ownerBy s (fun p => rf s .PRT_PART_B 0 p 31 0) (8 * q + k)

/-- The partition that owns a ring. -/
def ringPid (s : Mach) (r : Nat) : Option Nat :=
  (List.range 16).find? (fun p =>
    partValid s p && decide (rf s .PRT_PART_C 0 p 11 0 ≤ r)
      && decide (r < rf s .PRT_PART_C 0 p 11 0 + rf s .PRT_PART_C 0 p 44 32))

/-- Whether a partition is a system partition (R460). -/
def partSys (s : Mach) (p : Nat) : Bool := rb s .PRT_PART_A 0 p 62

/-- Present bays of a partition, in order. -/
def partBays (s : Mach) (p : Nat) : List Nat := allBays.filter (fun b => bayPresent s b && decide (bayPid s b = some p))

/-- The lead bay of a partition: its present bay of lowest number (R89). -/
def leadBay (s : Mach) (p : Nat) : Option Nat := (partBays s p).head?

/-- Whether a bay is its partition's lead bay. -/
def isLead (s : Mach) (b : Nat) : Bool :=
  match bayPid s b with
  | some p => decide (leadBay s p = some b)
  | none => false

/-- Whether bring-up is complete (R591). -/
def isDone (s : Mach) : Bool := rb s .BOOT_STATUS 0 0 63

/-- Kinds of master ID (R461). -/
inductive MidKind where
  | hub | bound | proxy | repair | invalid
  deriving DecidableEq, Repr

/-- The kind of a master ID and the partition that a BOUND one is checked as (R461, R640). -/
def midInfo (s : Mach) (m : Nat) : MidKind × Option Nat :=
  let bound (o : Option Nat) (present : Bool) : MidKind × Option Nat :=
    if present && o.isSome then (.bound, o) else (.invalid, none)
  if m = 0 then (.hub, none)
  else if m ≤ 0x60 then bound (corePid s (m - 1)) true
  else if m < 0x80 then (.invalid, none)
  else if m ≤ 0xC7 then bound (bayPid s (m - 0x80)) (bayPresent s (m - 0x80))
  else if m < 0x100 then (.invalid, none)
  else if m ≤ 0x147 then bound (bayPid s (m - 0x100)) (bayPresent s (m - 0x100))
  else if m ≤ 0x18F then bound (bayPid s (m - 0x148)) (bayPresent s (m - 0x148))
  else if m ≤ 0x1B9 then (.proxy, none)
  else if m = 0x1BE then (.repair, none)
  else if m < 0x1C0 then (.invalid, none)
  else if m ≤ 0x1DF then bound (pciPid s ((m - 0x1C0) / 8) (m % 8)) true
  else if m ≤ 0x1F7 then bound (portPid s (m - 0x1E0)) (portPresent s (m - 0x1E0))
  else (.invalid, none)

/-- Whether a master carries the SYS attribute: the hub, and cores or ingress ports of a system partition (R460, R466). -/
def midSys (s : Mach) (m : Nat) : Bool :=
  match midInfo s m with
  | (.hub, _) => true
  | (.bound, some p) => partSys s p && (decide (m ≤ 0x60) || decide (0x1E0 ≤ m))
  | _ => false

/-! ### Event counters (R568, R569) -/

/-- An always-on counter of a die, by die ID (R568). -/
def bumpAo (s : Mach) (die k n : Nat) : Mach := bumpWrap s .CNT_AO 0 (die * 8 + k) n

/-- Owners of energy beyond the tenants (R519). -/
def ownPart (p : Nat) : Nat := 1024 + p
def ownPkg : Nat := 2048

/-- The owner of what a partition's overhead is charged, or the package. -/
def ownOverhead (p : Option Nat) : Nat := match p with | some p => ownPart p | none => ownPkg

/-- The owner of a bay's events: its slice's tenant; its partition's overhead without one. -/
def ownBay (s : Mach) (b : Nat) : Nat := match (getSeq s b).tid with | some t => t | none => ownOverhead (bayPid s b)

/-- `n` events of class `k` at a place (0 to 5 compute dies, 6 to 17 clusters, 18 elsewhere) booked to an owner (R519). -/
def book (s : Mach) (place owner k n : Nat) : Mach :=
  let key := place * 2 ^ 20 + owner * 16 + k
  modPwr s (fun p => { p with events := smapPut 0 p.events key (smapGet 0 p.events key + n) })

/-- What an event of a bay adds beside its counters: the always-on counters of the die (R568) and energy (R519). -/
def bookEv (s : Mach) (b ev n : Nat) : Mach :=
  let at_ := fun (k m : Nat) => book s (dieOf b) (ownBay s b) k m
  match ev with
  | 0x03 => at_ 0 n
  | 0x04 => at_ 1 n
  | 0x05 => at_ 2 n
  | 0x06 => at_ 3 n
  | 0x07 => at_ 5 (ceilDiv n 64)
  | 0x08 => at_ 6 (ceilDiv n 64)
  | 0x0B => bumpAo (at_ 7 (ceilDiv n 512)) (compDieId (dieOf b)) 4 (ceilDiv n 64)
  | 0x0D => bumpAo s (compDieId (dieOf b)) 5 n
  | _ => s

/-- An event of a bay: every counter that names it, and whose tenant filter passes, adds `n` (R569). -/
def countEv (s : Mach) (b ev n : Nat) : Mach :=
  let s := bookEv s b ev n
  foldS (List.range 8) (fun t k =>
    if decide (rf t .CNT_SEL b k 7 0 = ev)
        && (!(rb t .CNT_SEL b k 63) || decide ((getSeq t b).tid = some (rf t .CNT_SEL b k 57 48)))
    then bumpWrap t .CNT_EV b k n else t) s

/-- The counters of FCLK edges and of slot FCLK brought up to the last edge (R569): an edge advances the slots of a bay that
runs a slice, is not halted and is not in a fallow frame. -/
def syncCnt (s : Mach) (b : Nat) : Mach :=
  let x := getBay s b
  let e := edgeOf s b
  let n := e - x.cnt.edge
  let m := if x.seq.st = .run ∧ x.dbg.halted = false then n - x.cnt.skip else 0
  modBay (countEv (countEv s b 1 n) b 2 m) b (fun x => { x with cnt := { edge := e, skip := x.cnt.skip - n } })

/-! ### Trace and trigger events (R562, R567) -/

/-- A trace record of a bay, when its trace is enabled (R563). -/
def emitTrace (s : Mach) (b kind cls sub data : Nat) : Mach :=
  if rb s .TRC_BCFG b 0 63 then
    { s with trcWire := s.trcWire ++
      [{ stamp := count s % 2 ^ 32, kind := kind, cls := cls, bay := b, sub := sub,
         tid := (getSeq s b).tid.getD 0, data := data }] }
  else s

/-- A trace record whose enable bit in TRC_BCFG is `en`. -/
def emitTraceIf (s : Mach) (b en kind cls sub data : Nat) : Mach :=
  if rb s .TRC_BCFG b 0 en then emitTrace s b kind cls sub data else s

/-- A condition that may fire the trigger of the bay's partition (R567): the first after ENABLE is kept. -/
def fireIf (s : Mach) (b : Nat) (src : Nat) (cond : Sink → Bool) : Mach :=
  match bayPid s b with
  | none => s
  | some p =>
    let k := getSink s p
    if bit k.cfg 63 && decide (fld k.stat 3 0 = 1) && !(bit k.stat 5) && k.fire.isNone && cond k then
      modSink s p (fun k => { k with fire := some (src, count s % 2 ^ 32, b) })
    else s

/-! ### Fault records (R536, R537, R639) -/

/-- The SEV of a class (R537). -/
def clsSev (cls sub : Nat) : Nat :=
  if cls = 2 ∨ cls = 4 then 2
  else if cls = 5 then (if sub = 1 then 0 else 2)
  else if cls = 6 ∨ cls = 10 ∨ cls = 12 then 1
  else if cls = 7 then (if sub = 0xF1 then 2 else 0)
  else if cls = 8 then (if sub = 0xF0 then 2 else 1)
  else if cls = 0xF then 1
  else if cls = 0x10 then (if sub = 0xF4 then 3 else 0)
  else if cls = 0x12 then 3
  else 0

/-- The words of a record, with the hub's SEQ and LOSTCNT (R536). -/
def FltRec.bits (r : FltRec) (seq lost : Nat) : BitVec 256 :=
  let fs : List (Nat × Nat × Nat) :=
    [(255, 192, r.stamp), (191, 176, r.count), (175, 128, r.addr), (127, 120, r.cls), (119, 112, r.sub),
     (111, 107, r.blk), (106, 100, r.unit), (99, 95, r.die), (94, 86, r.mid), (85, 76, r.tid), (75, 72, r.pid),
     (71, 70, r.sev), (69, 69, r.storm.toNat), (68, 68, r.pois.toNat), (67, 67, r.pidv.toNat), (63, 32, r.region),
     (31, 16, seq), (15, 0, lost)]
  fs.foldl (fun w f => setFld w f.1 f.2.1 f.2.2) 0

/-- Word `k` of a record. -/
def FltRec.word (r : FltRec) (seq lost k : Nat) : Word := BitVec.ofNat 64 (fld (r.bits seq lost) (64 * k + 63) (64 * k))

/-- A record of a class with its SEV (R639): a record with poison has its SEV raised to DATA when the class SEV is
lower. Partition fields are set by the callers. -/
def mkRec (s : Mach) (cls sub blk unit die addr region : Nat) : FltRec :=
  { stamp := count s, count := 0, addr := addr, cls := cls, sub := sub, blk := blk, unit := unit, die := die, mid := 0,
    tid := 0, pid := 0, sev := clsSev cls sub, storm := false, pois := false, pidv := false, region := region }

/-- The record marked as concerning poison. -/
def FltRec.poisoned (r : FltRec) : FltRec := { r with pois := true, sev := max r.sev 2 }

/-- The record naming a partition and a tenant (PIDV = 1, R639). -/
def FltRec.forPart (r : FltRec) (pid : Option Nat) (tid : Nat) : FltRec :=
  match pid with
  | some p => { r with pidv := true, pid := p, tid := tid }
  | none => r

/-- A unit raises a record: it waits for FAULT_RECORD to pass it to the collectors (R538), and counts for its die (R568; the
hub counts the records that it takes). -/
def raise (s : Mach) (r : FltRec) : Mach :=
  let t := { s with flt := { s.flt with wire := s.flt.wire ++ [r] } }
  if r.die = 0 then t else bumpAo t r.die 7 1

/-- The record of a unit of a bay: UNIT is the bay within its die, PIDV follows the current slice tenant or the TID that
the error register names (R639). -/
def bayRec (s : Mach) (b cls sub blk addr : Nat) (tid : Option Nat) : FltRec :=
  let die := compDieId (dieOf b)
  let unit := b % 12
  let region := if cls = 1 ∨ cls = 2 ∨ cls = 4 ∨ cls = 5 ∨ cls = 10 then addr / 2 ^ 16 else die * 256 + unit
  let r := mkRec s cls sub blk unit die addr region
  match (if tid.isSome then tid else (getSeq s b).tid) with
  | some t => r.forPart (bayPid s b) t
  | none => r

/-- A bay raises a record: it keeps a copy in FLT_BLAST, counts it (R538, R550), traces it and may fire the trigger of
its partition (R563, R567). -/
def raiseBay (s : Mach) (b : Nat) (r : FltRec) : Mach :=
  let s := foldS (List.range 4) (fun t k => wr t .FLT_BLAST b k (r.word 0 0 k)) s
  let s := bump s .FLT_BCOUNT b 0 63 0 1
  let s := emitTraceIf s b 57 8 2 7 (r.cls + r.sub * 256 + r.sev * 65536)
  let s := fireIf s b 2 (fun k => bit k.trig 62 && decide (fld k.trig 59 58 ≤ r.sev))
  raise s r

end Sys2Proof.Machine
end

