-- ==== Sys2Proof/Machine/Route.lean ====
section
/-! DEFINITION. Routing of packets and express entries (R438 to R440), latencies between dies (R27, R107, R108) and the
sending of express entries (R427, R428). -/

namespace Sys2Proof.Machine

open Sys2Proof.Config (acyc)

/-- States of a port (R415). -/
def vkActive : Nat := 6
def vkHeld : Nat := 7
def vkRetrain : Nat := 8
def vkFailed : Nat := 9

/-- VK_STATUS.STATE of a port. -/
def portState (s : Mach) (p : Nat) : Nat := rf s .VK_STATUS p 0 3 0

/-- Whether a port is trained: it is ACTIVE, or HELD with its lanes trained (R45, R415). -/
def portTrained (s : Mach) (p : Nat) : Bool := portPresent s p && decide (portState s p = vkActive)

/-- The 16-bit route entry of a node (R438). -/
def routeEntry (s : Mach) (node : Nat) : Nat := smapGet 0 s.route.entries node

/-- The egress port for a node; none where it is unroutable (R439). -/
def routePort (s : Mach) (node : Nat) : Option Nat :=
  let e := BitVec.ofNat 16 (routeEntry s node)
  let p := fld e 14 10
  let alt := fld e 8 4
  if bit e 15 = false then none
  else if portState s p = vkActive ∨ portState s p = vkRetrain then some p
  else if bit e 9 = true ∧ portState s alt = vkActive ∧
      (portState s p = vkFailed ∨ portState s p = vkHeld ∨ portState s p = 0) then some alt
  else none

/-- The half of a die ID: its bit 4 (R22). -/
def halfOf (die : Nat) : Nat := die / 16 % 2

/-- The exact latency in ACYC from one die to another (R27, R107): 0 on one die, 64 in one half, 96 across halves. -/
def dieLat (d e : Nat) : Nat := if d = e then 0 else if halfOf d = halfOf e then 64 else 96

/-- Forwarding time inside an intermediate package, from ingress barn to egress barn (R108). -/
def fwdLat (d e : Nat) : Nat := if d = e then 16 else if halfOf d = halfOf e then 64 else 96

/-- The barn die of a port. -/
def portDie (p : Nat) : Nat := barnDieId (p / 6)

/-- LINK_LAT of a port (R51). -/
def linkLat (s : Mach) (p : Nat) : Nat := rf s .ALM_PORT 0 p 15 0

/-- An almanac count in 1/16 ACYC at a tick. -/
def count16At (s : Mach) (t : Nat) : Nat := (((t : Int) + s.alm.base).toNat) * 16 / acyc

def getPort (s : Mach) (p : Nat) : Port := vget Port.zero s.ports p

def modPort (s : Mach) (p : Nat) (f : Port → Port) : Mach := { s with ports := vmod s.ports p f }

/-- A record of class VRELREK for a rule that gives it no error register: its SUBCODE is a free value (R536, R537). REGION
is the destination node or the node at the far end. -/
def vkRecord (s : Mach) (p : Option Nat) (node : Nat) : Mach :=
  let (w, s) := drawWord s
  let r := mkRec s 0xC (w.toNat % 256) 0xB (match p with | some p => p % 6 | none => 0x7F)
    (match p with | some p => barnDieId (p / 6) | none => 0) 0 node
  raise s (match p with | some p => r.forPart (portPid s p) 0 | none => r)

/-- The record of an unroutable packet or entry (R439). -/
def unroutable (s : Mach) (node : Nat) : Mach := vkRecord s none node

/-- An express entry sent from a die at a tick to another node: STAMP is the time of the departing edge plus E to the
egress barn plus LINK_LAT of the egress port (R428 step 1). An unroutable entry is dropped with a record (R439). -/
def sendExpress (s : Mach) (die tick node : Nat) (e : Express) : Mach :=
  match routePort s node with
  | none => unroutable s node
  | some p =>
    let st := count16At s tick + 16 * (dieLat die (portDie p) + linkLat s p)
    modPort s p (fun q => { q with expq := q.expq ++ [{ e with stamp := st % 2 ^ 20 }] })

/-- The full time in 1/16 ACYC that a 20-bit STAMP names: the one nearest the package's own count (R428 step 3). -/
def fullStamp (s : Mach) (st : Nat) : Nat :=
  let c := count16 s
  let base := c / 2 ^ 20 * 2 ^ 20 + st
  if base + 2 ^ 19 < c then base + 2 ^ 20
  else if c + 2 ^ 19 ≤ base ∧ 2 ^ 20 ≤ base then base - 2 ^ 20
  else base

/-- The tick of a time in 1/16 ACYC of the package's count. -/
def tick16 (s : Mach) (t : Nat) : Nat := (((t * acyc / 16 : Nat) : Int) - s.alm.base).toNat

end Sys2Proof.Machine
end

