-- ==== Sys2Proof/Machine/Slots.lean ====
section
/-! DEFINITION. What every slot stream shares: fields of a slot word, furrow errors, slip, token errors, sending and
delivering tokens, and the guard of an operation in issue (R73 to R80, R103 to R110, R127). -/

namespace Sys2Proof.Machine

open Sys2Proof.Config (acyc)

/-! ### Slot words (R73) -/

def slotHold (w : Slot) : Nat := fld w 127 112
def slotForm (w : Slot) : Nat := fld w 111 110
def slotOp (w : Slot) : Nat := fld w 109 104
def slotBody (w : Slot) : Nat := fld w 103 0

/-- Whether every bit of `[103:0]` outside the listed fields is 0 (a nonzero reserved bit is ILLEGAL_OP, R113). -/
def reservedClear (w : Slot) (used : List (Nat × Nat)) : Bool :=
  decide (slotBody w = slotBody (w &&& used.foldl (fun m f => m ||| maskOf 128 f.1 f.2) 0#128))

/-! ### Furrow errors (R101) -/

def eIllegalForm : Nat := 1
def eIllegalOp : Nat := 2
def eAbsent : Nat := 3
def eBusy : Nat := 4
def eIndex : Nat := 5
def eOverrun : Nat := 6
def eBadMagic : Nat := 7
def eBadVersion : Nat := 8
def eIdMismatch : Nat := 9
def eLayout : Nat := 0xA
def eNoSeq : Nat := 0xB
def eSection : Nat := 0xC
def eFence : Nat := 0xD

/-- SEQ_ERR records the first error after VALID was cleared; every error raises a record of class FURROW. -/
def recordSeqErr (s : Mach) (b stream code : Nat) : Mach :=
  let t := (getSeq s b).tid.getD 0
  let v := packFlds [(55, 32, (getStream s b stream).idx), (28, 26, stream), (25, 16, t), (7, 0, code)]
  raiseBay (recordFirst s .SEQ_ERR b 0 v) b (bayRec s b 6 code 6 0 none)

/-- Every stream of a bay stops issuing. A rendezvous that a stopped stream has reached goes on without it (R124). -/
def stopStreams (s : Mach) (b : Nat) : Mach :=
  modBay (syncCnt s b) b (fun x =>
    { x with streams := x.streams.map (fun k => { k with run := false, hold := .none, fresh := false }),
             chans := x.chans.map (fun c =>
               (c.1, { c.2 with pend := c.2.pend.map (fun r => { r with abandoned := true }) })) })

/-- A furrow error: it is recorded, and the bay stops until its slice ends (R97, R101). DEDUCED, log entry 10. -/
def furrowErr (s : Mach) (b stream code : Nat) : Mach :=
  let s := recordSeqErr s b stream code
  if (getSeq s b).st = .run then
    modSeq (stopStreams s b) b (fun q => { q with st := .stopped, erred := true })
  else s

/-! ### Fallow frames (R509) -/

/-- The order in which the frames of a group of eight become fallow. -/
def fallowOrder : List Nat := [0, 4, 2, 6, 1, 5, 3, 7]

/-- Whether a frame of the current group is fallow: PWR_STATUS.FALLOW holds the count in force. -/
def frameFallow (s : Mach) (f : Nat) : Bool := (fallowOrder.take (rf s .PWR_STATUS 0 0 10 8)).contains (f % 8)

/-! ### Slip (R127) -/

/-- A slip event: SEQ_SLIPc counts it, SEQ_SLIPMAX keeps the largest, and an event of at least SLIP_THRESH raises a
record of class TOKEN with SUBCODE 0x10 + c. -/
def slipEvent (s : Mach) (b stream cause amount : Nat) : Mach :=
  if amount = 0 then s
  else
    let s := bump (bump s .SEQ_SLIP b cause 31 0 amount) .SEQ_SLIP b cause 63 32 1
    let s := bumpAo s (compDieId (dieOf b)) 6 amount
    let s := if cause = 0 ∨ cause = 4 then countEv s b 0x14 amount else s
    let s :=
      if rf s .SEQ_SLIPMAX b 0 57 32 < amount then
        wr s .SEQ_SLIPMAX b 0 (packFlds [(63, 61, cause), (60, 58, stream), (57, 32, sat 26 amount), (31, 0, count s)])
      else s
    let s :=
      if rf s .TRC_BCFG b 0 31 0 ≤ amount then emitTraceIf s b 60 4 1 stream (cause + sat 26 amount * 8) else s
    let s := fireIf s b 3 (fun k => bit k.trig 61 && decide (fld k.trig 31 0 ≤ amount))
    let th := rf s .SEQ_TOKCFG b 0 31 0
    if th ≠ 0 ∧ th ≤ amount then raiseBay s b (bayRec s b 7 (0x10 + cause) 6 amount none) else s

/-- A slip event now; a fallow frame records none. -/
def slip (s : Mach) (b stream cause amount : Nat) : Mach :=
  if frameFallow s (frameNo s) then s else slipEvent s b stream cause amount

/-! ### Token addresses and errors (R103, R105, R131) -/

def tokRem (a : Nat) : Bool := a.testBit 31
def tokNode (a : Nat) : Nat := a / 2 ^ 17 % 2 ^ 14
def tokBay (a : Nat) : Nat := a / 2 ^ 10 % 128
def tokCh (a : Nat) : Nat := a % 1024
def tokNone : Nat := 0xFFFFFFFF

/-- The token address of a channel of a bay of this package. -/
def tokAddr (b c : Nat) : Nat := b * 1024 + c

/-- Whether the address names this package: REM = 0, or NODE is its own node ID (R103). -/
def tokLocal (s : Mach) (a : Nat) : Bool := !tokRem a || decide (tokNode a = s.route.nodeId)

/-- Reserved bits nonzero, or BAY of 72 or above: ILLEGAL_OP at issue (R105). With REM = 0 NODE must be 0. -/
def tokIllegal (a : Nat) : Bool := decide (72 ≤ tokBay a) || (!tokRem a && decide (tokNode a ≠ 0))

/-- Whether a local address names an absent bay (R105). The presence of a bay of another package is not this package's
to know. -/
def tokAbsent (s : Mach) (a : Nat) : Bool := tokLocal s a && !bayPresent s (tokBay a)

/-- Whether a local address names a bay outside the sender's partition (R105). -/
def tokForeign (s : Mach) (b a : Nat) : Bool := tokLocal s a && decide (bayPid s (tokBay a) ≠ bayPid s b)

/-- SEQ_TOKERR records the first token error; every token error raises a record of class TOKEN. -/
def tokErr (s : Mach) (b code addr : Nat) : Mach :=
  let t := (getSeq s b).tid.getD 0
  raiseBay (recordFirst s .SEQ_TOKERR b 0 (packFlds [(57, 48, t), (47, 40, code), (31, 0, addr)])) b
    (bayRec s b 7 code 6 addr none)

/-! ### Sending (R107, R108) -/

/-- The tick at which a token sent by a bay at an FCLK edge is due at a bay of this package (R107). Inside a die it is
an edge of the die's clock; across dies it is the time of the edge plus the exact ACYC. -/
def tokenDue (s : Mach) (src dst edge : Nat) : Nat :=
  let c := clkOf s src
  if src = dst then edgeTick c (edge + 1)
  else if src / 4 = dst / 4 then edgeTick c (edge + 4)
  else if dieOf src = dieOf dst then edgeTick c (edge + 12)
  else edgeTick c edge + dieLat (compDieId (dieOf src)) (compDieId (dieOf dst)) * acyc

/-- `n` tokens sent by a bay at an FCLK edge to an address that R105 has let through at issue: a local bay outside the
partition records REFUSED and nothing is sent; another package is reached by an express entry. -/
def sendToken (s : Mach) (b edge n : Nat) (p : Bool) (a : Nat) : Mach :=
  if a = tokNone then s
  else if tokLocal s a then
    if tokForeign s b a then tokErr s b 3 a
    else { s with toks := s.toks ++ [{ bay := tokBay a, ch := tokCh a, n := n, poison := p,
                                       due := tokenDue s b (tokBay a) edge, tid := (getSeq s b).tid, port := none,
                                       cross := decide (dieOf b ≠ dieOf (tokBay a)) }] }
  else
    sendExpress s (compDieId (dieOf b)) (edgeTick (clkOf s b) edge) (tokNode a)
      { mtype := 0, pois := p, n := n, stamp := 0, dest := a, xf := 0, body := 0 }

/-- A token of a bay to one of its own channels, due one FCLK later (R87, R107). -/
def signalOwn (s : Mach) (b edge n : Nat) (p : Bool) (c : Nat) : Mach := sendToken s b edge n p (tokAddr b c)

/-! ### Delivery and consumption (R104) -/

/-- Delivery of `n` tokens at a tick: DEBT is paid first, the remainder adds to COUNT and may set POISON; COUNT
saturates at 255 with COUNT_OVF. -/
def Chan.deliver (c : Chan) (n : Nat) (p : Bool) (t : Nat) : Chan :=
  let d := min n c.debt
  let r := n - d
  { c with debt := c.debt - d, count := min 255 (c.count + r), poison := c.poison || (p && decide (r ≠ 0)),
           upAt := if r = 0 then c.upAt else t,
           clearAt := if c.debt ≠ 0 ∧ c.debt - d = 0 then t else c.clearAt }

/-- Whether a delivery would take COUNT past 255. -/
def Chan.overflows (c : Chan) (n : Nat) : Bool := decide (255 < c.count + (n - min n c.debt))

/-- Consumption of `n` tokens: POISON returns to 0 when COUNT reaches 0. -/
def Chan.consume (c : Chan) (n : Nat) : Chan :=
  { c with count := c.count - n, poison := c.poison && decide (c.count - n ≠ 0) }

/-- Tokens delivered to a channel of a bay. -/
def deliver (s : Mach) (b ch n : Nat) (p : Bool) : Mach :=
  let o := (getChan s b ch).overflows n
  let s := modChan s b ch (fun c => c.deliver n p s.now)
  let s := countEv s b 0x13 n
  if o then tokErr s b 1 (tokAddr b ch) else s

/-- A token dropped at receipt is counted (R105). -/
def tokenDrop (s : Mach) (b : Nat) : Mach := bump s .SEQ_TOKSTAT b 0 31 0 1

/-! ### The operation in issue -/

/-- Whether debug has halted a bay (R557). -/
def isHalted (s : Mach) (b : Nat) : Bool := (getBay s b).dbg.halted

/-- The first edge from `m` on that a debug halt does not keep from the slots of a bay (R557, R558). -/
def runEdge (s : Mach) (b m : Nat) : Nat :=
  let d := (getBay s b).dbg
  if d.haltEdge ≤ m then max m d.resEdge else m

/-- Whether a stream has a word of this form and opcode in issue whose operation has not been carried out. -/
def opReady (s : Mach) (b k form op : Nat) : Bool :=
  let x := getStream s b k
  x.run && x.fresh && decide (slotForm x.word = form) && decide (slotOp x.word = op)
    && decide ((getSeq s b).st = .run) && !isHalted s b

/-- The operation in issue has been carried out. -/
def opDone (s : Mach) (b k : Nat) : Mach := modStream s b k (fun x => { x with fresh := false })

/-- The operation of a word in issue. With no such word in issue the command finds nothing to do (log entry 2). -/
def onSlot (s : Mach) (b k form op : Nat) (f : Slot → Mach → Mach) : Mach :=
  if opReady s b k form op then f (getStream s b k).word (opDone s b k) else s

/-- The stream's next word is `idx` instead of the one that follows (R79 refuses an index past the end at its issue). -/
def redirect (s : Mach) (b k idx : Nat) : Mach := modStream s b k (fun x => { x with next := idx })

/-- The stream's next word issues at an edge. -/
def releaseAt (s : Mach) (b k m : Nat) : Mach :=
  modStream s b k (fun x => { x with hold := .none, nextAt := m })

/-- The stream is held past its span. -/
def holdStream (s : Mach) (b k : Nat) (h : StreamHold) : Mach := modStream s b k (fun x => { x with hold := h })

/-- A deadline point TB + OFFSET as a full count (R111). -/
def deadline (s : Mach) (b k off : Nat) : Nat := ((getStream s b k).tb + off) % 2 ^ 64

/-- The first edge from `m` on that reaches a bay's planned units: edges of fallow frames do not (R510). -/
def workEdge (s : Mach) (b m : Nat) : Nat :=
  let c := clkOf s b
  (List.range 7).foldl (fun m _ =>
    let f := countAt s (edgeTick c m) / 65536
    if f / 8 = frameNo s / 8 ∧ frameFallow s f then edgeAfter c (tickOf s ((f + 1) * 65536)) else m) m

/-- m_T: the first FCLK edge of the bay at or after a count (R112). -/
def edgeOfCount (s : Mach) (b t : Nat) : Nat := workEdge s b (edgeAfter (clkOf s b) (tickOf s t))

/-- The report of a timed slot reached at `first` with test edge `mT`: LATE_ARM slip, and SEQ_LAGs (R112, R127). -/
def lateArm (s : Mach) (b k first mT : Nat) : Mach :=
  let late := first - mT
  slip (wf s .SEQ_LAG b k 31 0 (sat 32 late)) b k 1 late

end Sys2Proof.Machine
end

