-- ==== Sys2Proof/Machine/Tokens.lean ====
section
/-! DEFINITION. Token channels, control slots, rendezvous, slip and settlement (chapter 04). -/

namespace Sys2Proof.Machine

open Sys2Proof.Config (acyc)

/-- The loft index of a slice offset of a bay: the window layout of R268 without its base. -/
def loftIx (b off : Nat) : Nat := b * 0x2000000 + off

/-- Bytes of the planned region of a bay (R265). -/
def plannedSize (s : Mach) (b : Nat) : Nat :=
  match rf s .LFT_SPLIT b 0 2 0 with
  | 0 => 24 * 2 ^ 20 | 1 => 22 * 2 ^ 20 | 2 => 20 * 2 ^ 20 | 3 => 16 * 2 ^ 20 | 4 => 8 * 2 ^ 20 | _ => 0

/-- STORE_SIZE of the current store (R77). -/
def storeSize (s : Mach) (b : Nat) : Nat :=
  readNat s.loft (loftIx b ((getSeq s b).storeBase + 0x10)) 4 % 2 ^ 25

/-- The tenant fence (R93, R267): every byte lies in the planned region, inside the store or the work window of the
current slice tenant. -/
def fenceOk (s : Mach) (b off len : Nat) : Bool :=
  let q := getSeq s b
  q.tid.isSome && decide (off + len ≤ plannedSize s b) &&
  ((decide (q.storeBase ≤ off) && decide (off + len ≤ q.storeBase + storeSize s b)) ||
   (decide (q.workBase ≤ off) && decide (off + len ≤ q.workBase + q.workSize)))

/-! ### SIGNAL, WAIT, BR, LOOP, TBASE, GEAR (R114 to R118) -/

/-- A check of R105 at issue: an error code, or none. -/
def destErr (s : Mach) (a : Nat) : Option Nat :=
  if a = tokNone then none
  else if tokIllegal a then some eIllegalOp
  else if tokAbsent s a then some eAbsent
  else none

/-- SIGNAL (R114): N tokens to DEST0 and DEST1 at the first FCLK of the span. -/
def doSignal (b k : Nat) (w : Slot) (s : Mach) : Mach :=
  let n := fld w 97 90
  let d1 := fld w 63 32
  let d0 := fld w 31 0
  if reservedClear w [(97, 90), (63, 32), (31, 0)] = false ∨ n = 0 then furrowErr s b k eIllegalOp
  else match destErr s d0 with
    | some e => furrowErr s b k e
    | none => match destErr s d1 with
      | some e => furrowErr s b k e
      | none =>
        let m := (getStream s b k).issued
        sendToken (sendToken s b m n false d0) b m n false d1

def execSignal (b : BayNo) (k : StreamNo) (s : State) : Host.Outcome State Fault Refusal :=
  onMach s (fun s => onSlot s b k 2 1 (doSignal b k))

/-- Whether a WAIT word is legal (R115). -/
def waitLegal (w : Slot) : Bool :=
  reservedClear w [(103, 101), (97, 80), (31, 0)] &&
  (if bit w 101 then bit w 102 && !bit w 103 && decide (fld w 97 80 = 0) else decide (fld w 97 90 ≠ 0))

/-- WAIT (R115): the stream is held from the end of its span. -/
def doWait (b k : Nat) (w : Slot) (s : Mach) : Mach :=
  if waitLegal w then
    let s := advanceEdge s b (getStream s b k).last
    holdStream s b k .wait
  else furrowErr s b k eIllegalOp

def execWait (b : BayNo) (k : StreamNo) (s : State) : Host.Outcome State Fault Refusal :=
  onMach s (fun s => onSlot s b k 2 2 (doWait b k))

/-- The edge a channel's COUNT last rose at. -/
def upEdge (s : Mach) (b ch : Nat) : Nat := workEdge s b (edgeAfter (clkOf s b) (getChan s b ch).upAt)

/-- WAIT_RELEASE (R115): at the first FCLK m of L + 1 or later at which the condition holds, CONS consumes N tokens and
the next word issues. FCLK of m − (L + 1) not due to TIMED are slip of cause WAIT. -/
def waitRelease (s : Mach) (b k : Nat) : Mach :=
  let x := getStream s b k
  let w := x.word
  let ch := fld w 89 80
  let n := fld w 97 90
  let noch := bit w 101
  if x.hold = .wait ∧ isHalted s b = false ∧ (noch = true ∨ n ≤ (getChan s b ch).count) then
    let t0 := x.last + 1
    let mT := edgeOfCount s b (deadline s b k (fld w 31 0))
    let timed := bit w 102
    let base := if timed then max t0 mT else t0
    let m := runEdge s b (if noch then base else max base (upEdge s b ch))
    let s := advanceEdge s b m
    let s := if timed then lateArm s b k t0 mT else s
    let s := slip s b k 0 (m - base)
    let s := if bit w 103 && !noch then modChan s b ch (fun c => c.consume n) else s
    releaseAt s b k m
  else s

def execWaitRelease (b : BayNo) (k : StreamNo) (s : State) : Host.Outcome State Fault Refusal :=
  onMach s (fun s => waitRelease s b k)

/-- BR (R116): at L the condition is evaluated, consuming nothing; the stream redirects when it holds. -/
def doBr (b k : Nat) (w : Slot) (s : Mach) : Mach :=
  let cond := fld w 103 101
  let n := fld w 97 90
  let ch := fld w 89 80
  let legal := reservedClear w [(103, 101), (97, 56)] &&
    (match cond with
     | 0 => decide (n = 0) && decide (ch = 0)
     | 1 | 2 => decide (n ≠ 0)
     | 3 => decide (n = 0)
     | _ => false)
  if legal then
    let s := advanceEdge s b (getStream s b k).last
    let c := getChan s b ch
    let go := match cond with
      | 0 => true
      | 1 => decide (n ≤ c.count)
      | 2 => decide (c.count < n)
      | _ => c.poison
    if go then redirect s b k (fld w 79 56) else s
  else furrowErr s b k eIllegalOp

def execBr (b : BayNo) (k : StreamNo) (s : State) : Host.Outcome State Fault Refusal :=
  onMach s (fun s => onSlot s b k 2 3 (doBr b k))

/-- LOOP (R117): an inactive counter loads INIT, the counter is decremented, and the stream redirects while it is not 0;
a counter of 0 is inactive. -/
def doLoop (b k : Nat) (w : Slot) (s : Mach) : Mach :=
  let init := fld w 55 32
  if reservedClear w [(103, 102), (79, 32)] = false ∨ init = 0 then furrowErr s b k eIllegalOp
  else
    let s := advanceEdge s b (getStream s b k).last
    let i := fld w 103 102
    let c := (getStream s b k).loops.getD i 0
    let v := (if c = 0 then init else c) - 1
    let s := modStream s b k (fun x => { x with loops := lset x.loops i v })
    if v ≠ 0 then redirect s b k (fld w 79 56) else s

def execLoop (b : BayNo) (k : StreamNo) (s : State) : Host.Outcome State Fault Refusal :=
  onMach s (fun s => onSlot s b k 2 4 (doLoop b k))

/-- TBASE (R117): MODE SLICE sets TB to B + 65,536 × f; MODE ADD adds the signed DELTA. -/
def doTbase (b k : Nat) (w : Slot) (s : Mach) : Mach :=
  let mode := fld w 103 102
  if reservedClear w [(103, 102), (31, 0)] = false ∨ 2 ≤ mode then furrowErr s b k eIllegalOp
  else
    let s := advanceEdge s b (getStream s b k).last
    let q := getSeq s b
    modStream s b k (fun x =>
      { x with tb := if mode = 0 then (q.bnd + 65536 * q.fallowed) % 2 ^ 64
                     else (((x.tb : Int) + sext 32 (fld w 31 0)) % 2 ^ 64).toNat })

def execTbase (b : BayNo) (k : StreamNo) (s : State) : Host.Outcome State Fault Refusal :=
  onMach s (fun s => onSlot s b k 2 9 (doTbase b k))

/-- The one token of a decided gear request: P = 0 for a grant and P = 1 for a refusal (R502). -/
def gearToken (s : Mach) (r : GearReq) (due : Nat) (granted : Bool) : Mach :=
  match r.gch with
  | none => s
  | some c => { s with toks := s.toks ++ [{ bay := r.bay, ch := c, n := 1, poison := !granted, due := due,
                                            tid := (getSeq s r.bay).tid, port := none, cross := false }] }

/-- The tick 12 FCLK after now on a bay's die: the delivery of a gear token (R502, R107). -/
def gearTokenDue (s : Mach) (b : Nat) : Nat := edgeTick (clkOf s b) (edgeOf s b + 12)

/-- A standing request in PWR_LREQ (R500). -/
def setStanding (s : Mach) (b g : Nat) : Mach := wf s .PWR_LREQ (dieOf b) 0 (5 * (b % 12) + 4) (5 * (b % 12)) g

/-- A gear request posted (R118, R500, R502): a pending one is replaced and refused as SUPERSEDED; one posted at or after
beat 256 of frame B − 1 is decided as LATE at once. -/
def postGear (s : Mach) (r : GearReq) : Mach :=
  let d := dieOf r.bay
  let old := s.pwr.gearReqs.filter (fun x => decide (x.bay = r.bay) && !x.decided)
  let s := modPwr s (fun p =>
    { p with gearReqs := p.gearReqs.filter (fun x => !(decide (x.bay = r.bay) && !x.decided)) })
  let s := foldS old (fun t x => gearToken (bump t .PWR_LGRANT d 0 15 0 1) x (gearTokenDue t x.bay) false) s
  if (r.bnd * 65536 : Int) - 65536 + 256 * 16 ≤ r.posted then
    let s := gearToken (bump s .PWR_LGRANT d 0 31 16 1) r (gearTokenDue s r.bay) false
    if r.bnd ≤ frameNo s then setStanding s r.bay r.gear
    else modPwr s (fun p => { p with gearReqs := p.gearReqs ++ [{ r with decided := true }] })
  else modPwr s (fun p => { p with gearReqs := p.gearReqs ++ [r] })

/-- GEAR (R118): a request for the first frame boundary at or after TB + OFFSET. -/
def doGear (b k : Nat) (w : Slot) (s : Mach) : Mach :=
  let g := fld w 103 99
  if reservedClear w [(103, 98), (89, 80), (31, 0)] = false ∨ g < 4 ∨ 16 < g then furrowErr s b k eIllegalOp
  else
    let s := advanceEdge s b (getStream s b k).last
    postGear s { bay := b, gear := g, bnd := ceilDiv (deadline s b k (fld w 31 0)) 65536, posted := count s,
                 gch := if bit w 98 then some (fld w 89 80) else none, decided := false }

def execGear (b : BayNo) (k : StreamNo) (s : State) : Host.Outcome State Fault Refusal :=
  onMach s (fun s => onSlot s b k 2 8 (doGear b k))

/-! ### DBR and SETTLE (R119 to R121) -/

/-- DBR reaches its deadline point and waits for its test FCLK. -/
def doDbr (b k : Nat) (w : Slot) (s : Mach) : Mach :=
  if reservedClear w [(103, 101), (97, 56), (31, 0)] = false ∨ fld w 97 90 = 0 then furrowErr s b k eIllegalOp
  else holdStream (advanceEdge s b (getStream s b k).last) b k .dbr

def execDbr (b : BayNo) (k : StreamNo) (s : State) : Host.Outcome State Fault Refusal :=
  onMach s (fun s => onSlot s b k 2 5 (doDbr b k))

/-- The effect of CONS = 1 on the channel (R119, R120): the main path consumes N; ALT consumes what is there, at most N,
and the rest becomes DEBT, saturating at 255. -/
def Chan.decide_ (c : Chan) (n : Nat) (alt : Bool) : Chan :=
  if alt then
    let m := min c.count n
    let c' := c.consume m
    { c' with debt := min 255 (c.debt + (n - m)) }
  else c.consume n

/-- DBR_DECIDE (R119, R120). The first DBR of a bay to decide on CH for deadline point T tests and latches the outcome;
a later one of the same CH and T takes the latched outcome at its own test FCLK. -/
def dbrDecide (s : Mach) (b k : Nat) : Mach :=
  let x := getStream s b k
  if x.hold ≠ .dbr ∨ isHalted s b then s
  else
    let w := x.word
    let cons := bit w 103
    let plate := bit w 102
    let early := bit w 101
    let n := fld w 97 90
    let ch := fld w 89 80
    let t := deadline s b k (fld w 31 0)
    let mT := edgeOfCount s b t
    let t0 := x.last + 1
    let c := getChan s b ch
    let latched : Option Bool := match c.latch with
      | some (st, o) => if st = t % 2 ^ 32 then some o else none
      | none => none
    let present := decide (n ≤ c.count) && !(plate && c.poison)
    let upE := upEdge s b ch
    let earlyAt := max t0 upE
    let alt := match latched with
      | some o => o
      | none => !present
    let m := match latched with
      | some true => max t0 mT
      | some false => if early then t0 else max t0 mT
      | none => if early && present && decide (earlyAt < max t0 mT) then earlyAt else max t0 mT
    let m := runEdge s b m
    let s := advanceEdge s b m
    let s := lateArm s b k t0 mT
    let ovf := alt && cons && decide (255 < c.debt + (n - min c.count n))
    let s := modChan s b ch (fun c => { c with latch := some (t % 2 ^ 32, alt) })
    let s := if cons then modChan s b ch (fun c => c.decide_ n alt) else s
    let s := if ovf then tokErr s b 2 (tokAddr b ch) else s
    let s := if alt then countEv (bump s .SEQ_TOKSTAT b 0 63 32 1) b 0x15 1 else s
    let s := emitTraceIf s b 59 5 1 k (ch + (if alt then 1024 else 0) + (t % 2 ^ 32) * 2 ^ 32)
    let s := if alt then redirect s b k (fld w 79 56) else s
    releaseAt s b k m

def execDbrDecide (b : BayNo) (k : StreamNo) (s : State) : Host.Outcome State Fault Refusal :=
  onMach s (fun s => dbrDecide s b k)

/-- SETTLE (R121): the stream is held until the debt is 0. -/
def doSettle (b k : Nat) (w : Slot) (s : Mach) : Mach :=
  if reservedClear w [(103, 103), (89, 80)] = false ∨ (bit w 103 = true ∧ fld w 89 80 ≠ 0) then
    furrowErr s b k eIllegalOp
  else holdStream (advanceEdge s b (getStream s b k).last) b k .settle

def execSettle (b : BayNo) (k : StreamNo) (s : State) : Host.Outcome State Fault Refusal :=
  onMach s (fun s => onSlot s b k 2 6 (doSettle b k))

/-- Whether every channel of a bay has DEBT 0. -/
def noDebt (s : Mach) (b : Nat) : Bool := (getBay s b).chans.all (fun c => decide (c.2.debt = 0))

/-- SETTLE_RELEASE (R121): when the debt is 0 the next word issues; the extension is slip of cause WAIT. -/
def settleRelease (s : Mach) (b k : Nat) : Mach :=
  let x := getStream s b k
  let all := bit x.word 103
  let ch := fld x.word 89 80
  if x.hold = .settle ∧ isHalted s b = false ∧ (if all then noDebt s b = true else (getChan s b ch).debt = 0) then
    let paid := if all then (getBay s b).chans.foldl (fun m c => max m c.2.clearAt) 0 else (getChan s b ch).clearAt
    let m := runEdge s b (max (x.last + 1) (workEdge s b (edgeAfter (clkOf s b) paid)))
    let s := advanceEdge s b m
    releaseAt (slip s b k 0 (m - (x.last + 1))) b k m
  else s

def execSettleRelease (b : BayNo) (k : StreamNo) (s : State) : Host.Outcome State Fault Refusal :=
  onMach s (fun s => settleRelease s b k)

/-! ### Delivery (R104 to R110) -/

/-- Whether a receiving bay takes a token (R105): it has a current slice tenant; a token of this package names that
tenant; a token of a Vrelrek ingress comes through a port of the bay's partition. -/
def tokAccepted (s : Mach) (b : Nat) (tid port : Option Nat) : Bool :=
  match (getSeq s b).tid with
  | none => false
  | some cur =>
    (match tid with | some t => decide (t = cur) | none => true) &&
    (match port with | some p => decide (portPid s p = bayPid s b) | none => true)

/-- TOKEN_DELIVERY: the `i`th token in flight is delivered at the first FCLK edge of its bay at or after its due time,
or `late` ACYC later where its link needed a retry (R107, R110). -/
def tokenDelivery (s : Mach) (i late : Nat) : Mach :=
  match s.toks[i]? with
  | none => s
  | some f =>
    let c := clkOf s f.bay
    let e := edgeAfter c (f.due + (if f.cross then late * acyc else 0))
    let s := advanceTo { s with toks := s.toks.eraseIdx i } (edgeTick c e)
    let s := if f.cross ∧ edgeAfter c f.due < e then bump s .SEQ_DTOK_LATE (dieOf f.bay) 0 63 0 1 else s
    if tokAccepted s f.bay f.tid f.port then deliver s f.bay f.ch f.n f.poison
    else tokenDrop s f.bay

def execTokenDelivery (i late : Nat) (s : State) : Host.Outcome State Fault Refusal := onMach s (fun s => tokenDelivery s i late)

/-- The effect of a write of SEQ_TOKSIG (R131): N tokens with P = 0 to channel CH for the current slice tenant; N = 0 is
ignored; with no current slice tenant they are dropped. -/
def onToksig (s : Mach) (b : Nat) (v : Word) : Mach :=
  let n := fld v 39 32
  if n = 0 then s
  else if (getSeq s b).tid.isSome then deliver s b (fld v 9 0) n false
  else tokenDrop s b

/-! ### Rendezvous (R122 to R125) -/

/-- CRIT as an express message carries it: an address of this package leaves with REM and its node, so that another package
can tell the node (R517). DEDUCED, log entry 12. -/
def critOut (s : Mach) (crit : Nat) : Nat := if tokRem crit then crit else 2 ^ 31 + s.route.nodeId * 2 ^ 17 + crit % 2 ^ 17

/-- SLACK as an express message carries it: 20 bits, saturated (R448). -/
def satSlack (x : Int) : Int := max (-524288) (min 524287 x)

/-- An arrival or a release sent by a bay at an FCLK edge (R123, R448). -/
def sendRdv (s : Mach) (b edge : Nat) (isRel : Bool) (pay : RdvPay) (a : Nat) : Mach :=
  if a = tokNone then s
  else if tokLocal s a then
    { s with rdvs := s.rdvs ++ [{ rel := isRel, bay := tokBay a, ch := tokCh a, pay := pay,
                                  due := tokenDue s b (tokBay a) edge, tid := (getSeq s b).tid, port := none }] }
  else
    let sl := ofSigned 20 pay.slack
    sendExpress s (compDieId (dieOf b)) (edgeTick (clkOf s b) edge) (tokNode a)
      { mtype := if isRel then 2 else 1, pois := false, n := 0, stamp := 0, dest := a,
        xf := pay.hold.toNat * 16 + (if isRel then sl / 2 ^ 16 else 0),
        body := pay.group * 2 ^ 48 + critOut s pay.crit * 2 ^ 16 + (if isRel then sl % 2 ^ 16 else 0) }

/-- Sends to every address of a list that R122 has not refused. -/
def sendRdvAll (s : Mach) (b edge : Nat) (isRel : Bool) (pay : RdvPay) (refused : List Nat) (l : List Nat) : Mach :=
  foldS (l.filter (fun a => !(refused.contains a))) (fun t a => sendRdv t b edge isRel pay a) s

/-- The rendezvous record at a planned-region offset (R122). -/
def rdvRecord (s : Mach) (b off : Nat) : Line := BitVec.ofNat 512 (readNat s.loft (loftIx b off) 64)

/-- When an RDV reads its record, arrivals held of another group are dropped, and those beyond NCHILD (R125). -/
def dropHeld (s : Mach) (b ch group nchild : Nat) : Mach :=
  let c := getChan s b ch
  if c.arr = 0 then s
  else if c.arrGroup ≠ group then
    foldS (List.range c.arr) (fun t _ => tokErr t b 5 (tokAddr b ch))
      (modChan s b ch (fun c => { c with arr := 0, arrHold := false, arrCrit := 0 }))
  else if nchild < c.arr then
    foldS (List.range (c.arr - nchild)) (fun t _ => tokErr t b 5 (tokAddr b ch))
      (modChan s b ch (fun c => { c with arr := nchild }))
  else s

/-- RDV (R122): at L it reads its record, checks its addresses and waits for its children. An earlier rendezvous pending
on the channel holds it at L. -/
def doRdv (b k : Nat) (w : Slot) (s : Mach) : Mach :=
  let ch := fld w 89 80
  let x := getStream s b k
  let nchild := fld w 97 94
  let limited := bit w 101
  if reservedClear w [(103, 101), (97, 94), (89, 32), (31, 0)] = false ∨ bit w 51 = true ∨ 8 < nchild
      ∨ fld w 55 52 ≠ 0 ∨ (limited = false ∧ fld w 79 56 ≠ 0) then furrowErr s b k eIllegalOp
  else
    let s := advanceEdge s b x.last
    if (getChan s b ch).pend.isSome then modStream s b k (fun x => { x with hold := .rdv, fresh := true })
    else
      let off := fld w 50 32 * 64
      if fenceOk s b off 64 = false then furrowErr s b k eFence
      else
        let r := rdvRecord s b off
        let up := fld r 511 480
        let loc := fld r 415 384
        let kids := ((List.range 8).map (fun i => fld r (32 * i + 31) (32 * i))).filter (fun a => decide (a ≠ tokNone))
        let root := bit w 103
        if kids.length ≠ nchild then furrowErr s b k eLayout
        else
          let names := up :: loc :: kids
          match names.findSome? (destErr s) with
          | some e => furrowErr s b k e
          | none =>
            let foreign := names.filter (fun a => decide (a ≠ tokNone) && tokForeign s b a)
            let s := match foreign.head? with
              | some a => tokErr s b 3 a
              | none => s
            let held := edgeOf s b - x.last
            let s := if x.hold = .rdv then slip s b k 0 held else s
            let group := fld r 431 416
            let s := dropHeld s b ch group nchild
            let s := holdStream s b k .rdv
            let pd : RdvPend :=
                  { stream := k, root := root, rebase := bit w 102, limited := limited, nchild := nchild,
                    alt := fld w 79 56, trel := deadline s b k (fld w 31 0), limitAt := deadline s b k (fld r 479 448),
                    up := if root then tokNone else up, dnb := fld r 447 432, group := group, loc := loc,
                    children := kids, atL := edgeTick (clkOf s b) x.last, refused := foreign, combined := false,
                    combineAt := 0, abandoned := false }
            modChan s b ch (fun c => { c with pend := some pd })

def execRdv (b : BayNo) (k : StreamNo) (s : State) : Host.Outcome State Fault Refusal :=
  onMach s (fun s => onSlot s b k 2 7 (doRdv b k))

/-- Whether this package is in holdover. -/
def inHoldover (s : Mach) : Bool := decide (rf s .ALM_STATUS 0 0 3 0 = 3)

/-- RDV_COMBINE (R123 steps 1 to 3): with NCHILD arrivals held, they are consumed at the combine FCLK k; a participant
sends one arrival upward, the root computes SLACK and sends the release. -/
def rdvCombine (s : Mach) (b ch : Nat) : Mach :=
  let c := getChan s b ch
  match c.pend with
  | none => s
  | some r =>
    if r.combined ∨ c.arr < r.nchild then s
    else
      let t := if r.nchild = 0 then r.atL else max r.atL c.arrAt
      let e := edgeAfter (clkOf s b) t
      let s := advanceTo s t
      let s := if r.abandoned then s else slip s b r.stream 0 (e - edgeAfter (clkOf s b) r.atL)
      let crit := if r.nchild = 0 ∨ c.arrAt ≤ r.atL then tokAddr b ch else c.arrCrit
      let hold := (decide (r.nchild ≠ 0) && c.arrHold) || inHoldover s
      let done : RdvPend := { r with combined := true, combineAt := t }
      let s := modChan s b ch (fun c =>
        { c with arr := c.arr - r.nchild, arrHold := false, arrCrit := 0, pend := some done })
      if r.root then
        let slack := satSlack ((r.trel : Int) - r.dnb - countAt s t)
        let pay : RdvPay := { group := r.group, slack := slack, hold := hold, crit := crit }
        let s := sendRdvAll s b e true pay r.refused r.children
        if r.abandoned then modChan s b ch (fun c => { c with rel := none, pend := none })
        else modChan s b ch (fun c => { c with rel := some (pay, t) })
      else sendRdvAll s b e false { group := r.group, slack := 0, hold := hold, crit := crit } r.refused [r.up]

def execRdvCombine (b : BayNo) (ch : Fin 1024) (s : State) : Host.Outcome State Fault Refusal :=
  onMach s (fun s => rdvCombine s b ch)

/-- Whether an arrival is dropped as RDV_MISMATCH (R125). -/
def arrMismatch (c : Chan) (group : Nat) : Bool :=
  decide (15 ≤ c.arr) ||
  (match c.pend with
   | some r => decide (group ≠ r.group) || decide (r.nchild ≤ c.arr)
   | none => decide (c.arr ≠ 0) && decide (group ≠ c.arrGroup))

/-- An arrival added to the arrival record (R102): the one delivered last counts as last, and among arrivals of one FCLK
the lowest CRIT (R123). -/
def Chan.arrive (c : Chan) (p : RdvPay) (t : Nat) : Chan :=
  { c with arr := c.arr + 1, arrGroup := p.group, arrHold := (decide (c.arr ≠ 0) && c.arrHold) || p.hold,
           arrCrit := if c.arr ≠ 0 ∧ c.arrAt = t then min c.arrCrit p.crit else p.crit, arrAt := t }

/-- The `i`th rendezvous message in flight, taken at the first FCLK edge at or after its due time. -/
def takeRdv (s : Mach) (i : Nat) (f : RdvFlight) : Mach :=
  let c := clkOf s f.bay
  advanceTo { s with rdvs := s.rdvs.eraseIdx i } (edgeTick c (edgeAfter c f.due))

/-- RDV_ARR (R125): a rendezvous arrival is held, or dropped as RDV_MISMATCH. -/
def rdvArr (s : Mach) (i : Nat) : Mach :=
  match s.rdvs[i]? with
  | none => s
  | some f =>
    if f.rel then s
    else
      let s := takeRdv s i f
      if tokAccepted s f.bay f.tid f.port = false then tokenDrop s f.bay
      else if arrMismatch (getChan s f.bay f.ch) f.pay.group then tokErr s f.bay 5 (tokAddr f.bay f.ch)
      else modChan s f.bay f.ch (fun c => c.arrive f.pay s.now)

def execRdvArr (i : Nat) (s : State) : Host.Outcome State Fault Refusal := onMach s (fun s => rdvArr s i)

/-- RDV_REL (R123 step 4, R124, R125): a release is forwarded to the children on the FCLK it arrives, and lets the
participant proceed; after an abandonment the channel is then free. -/
def rdvRel (s : Mach) (i : Nat) : Mach :=
  match s.rdvs[i]? with
  | none => s
  | some f =>
    if f.rel = false then s
    else
      let s := takeRdv s i f
      if tokAccepted s f.bay f.tid f.port = false then tokenDrop s f.bay
      else match (getChan s f.bay f.ch).pend with
        | none => tokErr s f.bay 5 (tokAddr f.bay f.ch)
        | some r =>
          if f.pay.group ≠ r.group then tokErr s f.bay 5 (tokAddr f.bay f.ch)
          else
            let s := sendRdvAll s f.bay (edgeOf s f.bay) true f.pay r.refused r.children
            if r.abandoned then modChan s f.bay f.ch (fun c => { c with rel := none, pend := none })
            else modChan s f.bay f.ch (fun c => { c with rel := some (f.pay, s.now) })

def execRdvRel (i : Nat) (s : State) : Host.Outcome State Fault Refusal := onMach s (fun s => rdvRel s i)

/-- A duration of ACYC in FCLK of a bay's die, rounded up (R123 step 6; the rounding is the model's, log entry 13). -/
def fclkOf (s : Mach) (b acycs : Nat) : Nat := ceilDiv (acycs * acyc) (period (clkOf s b))

/-- RDV_PROCEED (R123 steps 5 to 7): the participant issues its next word at the later of m for T_REL + SLIP_G and the
FCLK after its release arrived, reports its slip, writes SEQ_RDVLAST, signals LOCAL and rebases. -/
def rdvProceed (s : Mach) (b ch : Nat) : Mach :=
  let c := getChan s b ch
  match c.pend, c.rel with
  | some r, some (pay, at_) =>
    if r.abandoned ∨ isHalted s b then s
    else
      let slipG := (max 0 (-pay.slack)).toNat
      let m0 := edgeOfCount s b (r.trel + slipG)
      let m := runEdge s b (max m0 (workEdge s b (edgeAfter (clkOf s b) at_ + 1)))
      let s := advanceEdge s b m
      let s := slip s b r.stream 2 (m - m0)
      let s := slip s b r.stream 3 (fclkOf s b slipG)
      let s := wr s .SEQ_RDVLAST0 b 0
        (packFlds [(63, 63, 1), (62, 62, pay.hold.toNat), (47, 32, r.group), (31, 0, ofSigned 32 pay.slack)])
      let s := wr s .SEQ_RDVLAST1 b 0 (packFlds [(47, 32, sat 16 slipG), (31, 0, pay.crit)])
      let s := if r.refused.contains r.loc then s else sendToken s b m 1 false r.loc
      let s := if r.rebase then
          modBay s b (fun x => { x with streams := x.streams.map (fun k => { k with tb := (k.tb + slipG) % 2 ^ 64 }) })
        else s
      let s := emitTraceIf s b 58 6 1 r.stream
        (ofSigned 32 pay.slack + sat 16 slipG * 2 ^ 32 + r.group * 2 ^ 48)
      let wait := (s.now - r.atL) / acyc
      let rep : RdvReport := { frame := frameNo s, slack := pay.slack, crit := pay.crit, wait := wait }
      let s := modPwr s (fun p => { p with reports := p.reports ++ [rep] })
      let s := modChan s b ch (fun c => { c with pend := none, rel := none })
      releaseAt s b r.stream m
  | _, _ => s

def execRdvProceed (b : BayNo) (ch : Fin 1024) (s : State) : Host.Outcome State Fault Refusal :=
  onMach s (fun s => rdvProceed s b ch)

/-- RDV_ABANDON (R124): a LIMITED participant not released at the first edge at or after TB + LIMIT redirects to ALT. -/
def rdvAbandon (s : Mach) (b ch : Nat) : Mach :=
  let c := getChan s b ch
  match c.pend with
  | none => s
  | some r =>
    if r.limited = false ∨ r.abandoned ∨ c.rel.isSome ∨ isHalted s b then s
    else
      let x := getStream s b r.stream
      let m := runEdge s b (max (x.last + 1) (edgeOfCount s b r.limitAt))
      let s := advanceEdge s b m
      let s := slip s b r.stream 2 (fclkOf s b (r.limitAt - r.trel))
      let s := wr s .SEQ_RDVLAST0 b 0 (packFlds [(63, 63, 1), (61, 61, 1), (47, 32, r.group)])
      let s := modChan s b ch (fun c => { c with pend := some { r with abandoned := true } })
      releaseAt (redirect s b r.stream r.alt) b r.stream m

def execRdvAbandon (b : BayNo) (ch : Fin 1024) (s : State) : Host.Outcome State Fault Refusal :=
  onMach s (fun s => rdvAbandon s b ch)

end Sys2Proof.Machine
end

