-- ==== Sys2Proof/Machine/Furrow.lean ====
section
/-! DEFINITION. Furrow programs: the store, its validation, slot issue and fetch, and the operations of the SEQ stream
other than FLEX (chapter 03). -/

namespace Sys2Proof.Machine

/-! ### The furrow store (R77) -/

/-- `n` bytes of a bay's loft at a slice offset, as a number. -/
def loftNat (s : Mach) (b off n : Nat) : Nat := readNat s.loft (loftIx b off) n

/-- A header word of the store. -/
def storeHdr (s : Mach) (b base k : Nat) : Word := BitVec.ofNat 64 (loftNat s b (base + 8 * k) 8)

/-- Stream entry `k` of a store. -/
def streamEntry (s : Mach) (b base k : Nat) : Slot := BitVec.ofNat 128 (loftNat s b (base + 0x40 + 16 * k) 16)

def entOut (e : Slot) : Nat := fld e 127 104
def entIn (e : Slot) : Nat := fld e 103 80
def entStart (e : Slot) : Nat := fld e 79 56
def entLength (e : Slot) : Nat := fld e 55 32
def entOffset (e : Slot) : Nat := fld e 24 0

/-- STREAMS of a store: the streams present. -/
def storeStreams (s : Mach) (b base : Nat) : List Nat := bitList 6 (fld (storeHdr s b base 1) 5 0)

/-- The index at which stream `k` resumes by section entry `n`. -/
def sectionIdx (s : Mach) (b base n k : Nat) : Nat :=
  loftNat s b (base + fld (storeHdr s b base 1) 63 32 + 32 * n + 4 * k) 4 % 2 ^ 24

/-- The checks of LAYOUT (R78, rows 5 and 6). -/
def layoutOk (s : Mach) (b base : Nat) : Bool :=
  let h1 := storeHdr s b base 1
  let size := fld (storeHdr s b base 2) 24 0
  let sOff := fld h1 63 32
  let sCnt := fld h1 31 16
  let strs := storeStreams s b base
  decide (size ≠ 0) && decide (size % 4096 = 0) && decide (base + size ≤ plannedSize s b) &&
  decide (sOff % 32 = 0) && decide (sCnt ≠ 0) && decide (sOff + 32 * sCnt ≤ size) &&
  strs.all (fun k =>
    let e := streamEntry s b base k
    decide (entOffset e % 16 = 0) && decide (entOffset e + 16 * entLength e ≤ size) &&
    decide (entStart e < entLength e) && decide (entIn e < entLength e) && decide (entOut e < entLength e) &&
    (List.range sCnt).all (fun n => decide (sectionIdx s b base n k < entLength e)))

/-- STORE_VALIDATE (R78): the code of the first check that fails, 0 for ready. `sec` is the saved section of a suspended
tenant. -/
def validateStore (s : Mach) (b base pid tid : Nat) (sec : Option Nat) : Nat :=
  let h0 := storeHdr s b base 0
  if fld h0 31 0 ≠ 0x00465257 then eBadMagic
  else if fld h0 39 32 ≠ 1 then eBadVersion
  else if fld h0 43 40 ≠ pid ∨ fld h0 57 48 ≠ tid then eIdMismatch
  else if bit (storeHdr s b base 1) 0 = false then eNoSeq
  else if layoutOk s b base = false then eLayout
  else match sec with
    | some k => if k < fld (storeHdr s b base 1) 31 16 then 0 else eSection
    | none => 0

/-! ### Issue (R73 to R84) -/

/-- Whether an opcode is one of its stream's operations, or of the control slots (R76, R113 and the units' chapters). -/
def legalOp (k form op : Nat) : Bool :=
  if form = 2 then decide (1 ≤ op) && decide (op ≤ 9)
  else match k with
    | 0 => decide (1 ≤ op) && decide (op ≤ 5)
    | 1 => decide (1 ≤ op) && decide (op ≤ 3)
    | 2 => decide (1 ≤ op) && decide (op ≤ 0x37)
    | 5 => decide (1 ≤ op) && decide (op ≤ 4)
    | _ => decide (op = 1)

/-- Whether a stream may issue its next word: it runs, no slot holds it, and the operation in issue is carried out. -/
def mayIssue (s : Mach) (b k : Nat) : Bool :=
  let x := getStream s b k
  x.run && !x.fresh && decide (x.hold = .none) && decide ((getSeq s b).st = .run) && !isHalted s b

/-- SLOT_ISSUE (R74): the stream issues its next word at the FCLK after the previous span. An index past the end is
INDEX_RANGE (R79); an operation that outlasts its span is STREAM_BUSY (R74); a reserved form and an IDLE word with
nonzero OPCODE or BODY are ILLEGAL_FORM (R73, R74); a reserved opcode is ILLEGAL_OP (R76, R113). -/
def slotIssue (s : Mach) (b k : Nat) : Mach :=
  if mayIssue s b k = false then s
  else
    let x := getStream s b k
    let base := (getSeq s b).storeBase
    let e := streamEntry s b base k
    let s := advanceEdge s b x.nextAt
    if entLength e ≤ x.next then furrowErr s b k eIndex
    else if x.last < x.busy then furrowErr s b k eBusy
    else
      let w : Slot := BitVec.ofNat 128 (loftNat s b (base + entOffset e + 16 * x.next) 16)
      let last := x.nextAt + slotHold w
      let form := slotForm w
      let s := modStream s b k (fun y =>
        { y with word := w, idx := x.next, issued := x.nextAt, last := last, next := x.next + 1, nextAt := last + 1,
                 fresh := decide (form = 1 ∨ form = 2) })
      if form = 3 then furrowErr s b k eIllegalForm
      else if form = 0 then (if slotOp w = 0 ∧ slotBody w = 0 then s else furrowErr s b k eIllegalForm)
      else if legalOp k form (slotOp w) then s
      else furrowErr s b k eIllegalOp

def execSlotIssue (b : BayNo) (k : StreamNo) (s : State) : Host.Outcome State Fault Refusal := onMach s (fun s => slotIssue s b k)

/-- FETCH_STALL (R84): a word not fetched when due stalls its stream alone and increments SEQ_UNDERRUN. -/
def fetchStall (s : Mach) (b k : Nat) : Mach :=
  if mayIssue s b k then
    let x := getStream s b k
    let s := advanceEdge s b x.nextAt
    let s := bump s .SEQ_UNDERRUN b 0 63 0 1
    modStream s b k (fun y => { y with hold := .fetch, stallFrom := x.nextAt })
  else s

def execFetchStall (b : BayNo) (k : StreamNo) (s : State) : Host.Outcome State Fault Refusal := onMach s (fun s => fetchStall s b k)

/-- FETCH_ARRIVAL (R84): the word arrives `n` FCLK late; the stall is slip of cause FETCH. -/
def fetchArrival (s : Mach) (b k n : Nat) : Mach :=
  let x := getStream s b k
  if x.hold = .fetch ∧ isHalted s b = false then
    let m := runEdge s b (x.stallFrom + n)
    let n := m - x.stallFrom
    let s := advanceEdge s b m
    releaseAt (slip s b k 4 n) b k m
  else s

def execFetchArrival (b : BayNo) (k : StreamNo) (fclk : Nat) (s : State) : Host.Outcome State Fault Refusal :=
  onMach s (fun s => fetchArrival s b k fclk)

/-- IDLE (R74): the word holds the unit for its span; the clock moves on to its last FCLK. -/
def idleWord (s : Mach) (b k : Nat) : Mach :=
  let x := getStream s b k
  if x.run ∧ slotForm x.word = 0 ∧ (getSeq s b).st = .run then advanceEdge s b x.last else s

def execIdle (b : BayNo) (k : StreamNo) (s : State) : Host.Outcome State Fault Refusal := onMach s (fun s => idleWord s b k)

/-! ### SEQ operations (R76) -/

/-- Redirects every present stream at the FCLK after `l`; a stream that is not in an IDLE word at `l` stops with
STREAM_BUSY (R94). The SEQ stream itself is the one that redirects. -/
def redirectAll (s : Mach) (b l : Nat) (target : Nat → Nat) (clearLoops : Bool) : Mach :=
  let strs := storeStreams s b (getSeq s b).storeBase
  let caught := strs.find? (fun k =>
    decide (k ≠ 0) && ((getStream s b k).fresh || decide ((getStream s b k).hold ≠ .none)
      || decide (slotForm (getStream s b k).word ≠ 0)))
  match caught with
  | some k => furrowErr s b k eBusy
  | none =>
    foldS strs (fun t k => modStream t b k (fun x =>
      { x with last := l, next := target k, nextAt := l + 1,
               loops := if clearLoops then [0, 0, 0, 0] else x.loops })) s

/-- The bay parks (R96): every stream stops after its current span. -/
def parkBay (s : Mach) (b : Nat) (how : Park) : Mach :=
  modSeq (stopStreams s b) b (fun q => { q with st := .parked, park := how })

/-- YIELD (R94): taken when E − F < NEED. A taken yield records its section and redirects every present stream to OUT_IDX;
in a slice that has yielded already it is taken unconditionally and parks the bay. -/
def doYield (b : Nat) (w : Slot) (s : Mach) : Mach :=
  if reservedClear w [(103, 72)] = false then furrowErr s b 0 eIllegalOp
  else
    let q := getSeq s b
    let l := (getStream s b 0).last
    if q.yielded then parkBay (advanceEdge s b l) b .byYield
    else
      let e : Nat := match bayPid s b with | some p => (getRota s p).endFrame | none => 0
      let f := countAt s (edgeTick (clkOf s b) (getStream s b 0).issued) / 65536
      if (e : Int) - f < (fld w 103 88 : Int) then
        let s := advanceEdge s b l
        let s := modSeq s b (fun q => { q with section_ := fld w 87 72, yielded := true })
        redirectAll s b l (fun k => entOut (streamEntry s b q.storeBase k)) false
      else s

def execYield (b : BayNo) (s : State) : Host.Outcome State Fault Refusal := onMach s (fun s => onSlot s b 0 1 2 (doYield b))

/-- END (R96): every stream stops after its current span and the bay parks. -/
def doEnd (b : Nat) (w : Slot) (s : Mach) : Mach :=
  if slotBody w = 0 then parkBay (advanceEdge s b (getStream s b 0).last) b .byEnd else furrowErr s b 0 eIllegalOp

def execFurrowEnd (b : BayNo) (s : State) : Host.Outcome State Fault Refusal := onMach s (fun s => onSlot s b 0 1 3 (doEnd b))

/-- MARK (R76): VALUE and the frame go to SEQ_MARK, a trace record is emitted, and a trigger on marks may fire. -/
def doMark (b : Nat) (w : Slot) (s : Mach) : Mach :=
  if reservedClear w [(31, 0)] = false then furrowErr s b 0 eIllegalOp
  else
    let v := fld w 31 0
    let s := wr s .SEQ_MARK b 0 (packFlds [(63, 32, frameNo s), (31, 0, v)])
    let s := emitTrace s b 1 2 0 v
    fireIf s b 1 (fun k =>
      bit k.trig 63 && decide ((v ^^^ fld k.trigMark 31 0) &&& fld k.trigMark 63 32 = 0))

def execMark (b : BayNo) (s : State) : Host.Outcome State Fault Refusal := onMach s (fun s => onSlot s b 0 1 4 (doMark b))

/-- RESUME (R95): every present stream redirects to the saved section, or to section 0 for a NEW tenant; the loop
counters become inactive (R117). -/
def doResume (b : Nat) (w : Slot) (s : Mach) : Mach :=
  if slotBody w = 0 then
    let q := getSeq s b
    let l := (getStream s b 0).last
    let n := if q.resume then q.section_ else 0
    redirectAll (advanceEdge s b l) b l (fun k => sectionIdx s b q.storeBase n k) true
  else furrowErr s b 0 eIllegalOp

def execResume (b : BayNo) (s : State) : Host.Outcome State Fault Refusal := onMach s (fun s => onSlot s b 0 1 5 (doResume b))

end Sys2Proof.Machine
end

