-- ==== Sys2Proof/Machine/Almanac.lean ====
section
/-! DEFINITION. The almanac time base (chapter 02) and its carriage over the ports (R431, R433). -/

namespace Sys2Proof.Machine

open Sys2Proof.Config (acyc)

/-! ### States and registers -/

def aIdle : Nat := 0
def aAcquire : Nat := 1
def aLocked : Nat := 2
def aHoldover : Nat := 3
def aFree : Nat := 4

/-- ALM_STATUS.STATE. -/
def almState (s : Mach) : Nat := rf s .ALM_STATUS 0 0 3 0

def setAlmState (s : Mach) (v : Nat) : Mach := wf s .ALM_STATUS 0 0 3 0 v

/-- ALM_CFG.ROLE: 1 grandmaster. -/
def isGm (s : Mach) : Bool := rb s .ALM_CFG 0 0 0

def getAlmPort (s : Mach) (p : Nat) : AlmPort := vget AlmPort.zero s.alm.ports p

def modAlmPort (s : Mach) (p : Nat) (f : AlmPort → AlmPort) : Mach :=
  modAlm s (fun a => { a with ports := vmod a.ports p f })

/-- A record of class ALMANAC. Its SUBCODE is a free value: the ALM block has no error register with a CODE (R537). -/
def almRecord (s : Mach) (port : Nat) : Mach :=
  let (w, s) := drawWord s
  raise s (mkRec s 0xD (w.toNat % 256) 0xF 0x7F 0 0 port)

/-- An ALM_EVENTS bit that becomes set also raises a fault record (R67). -/
def almEvent (s : Mach) (k port : Nat) : Mach :=
  if rb s .ALM_EVENTS 0 0 k then s else almRecord (wb s .ALM_EVENTS 0 0 k true) port

/-- The package's own time in 1/16 ACYC: the count, or before it runs the local base that a load then shifts. -/
def loc16 (s : Mach) : Nat := almTicks s * 16 / acyc

/-- The clock moved on by a time in 1/16 ACYC. -/
def after16 (s : Mach) (dt : Nat) : Mach := advanceTo s (s.now + dt * acyc / 16)

/-- The offset of one port's round, signed, in 1/16 ACYC (ALM_POFFp). -/
def portOffset (s : Mach) (p : Nat) : Int := sext 64 (rg s .ALM_POFF 0 p).toNat

/-- ASYM of a port, signed, in 1/16 ACYC. -/
def portAsym (s : Mach) (p : Nat) : Int := sext 16 (rf s .ALM_PASYM 0 p 15 0)

/-- WF of a port in 1/16 ACYC, by its width (R413). -/
def wf16 (s : Mach) (p : Nat) : Nat :=
  match rf s .VK_STATUS p 0 39 38 with | 1 => 1238 | 2 => 619 | _ => 310

/-- No furrow is running in any partition (R98): ENABLE is 0 and every bay reads IDLE. -/
def noFurrow (s : Mach) : Bool :=
  s.rota.toList.all (fun r => !r.enabled) && s.bays.toList.all (fun b => decide (b.seq.st = .idle))

/-- The furrow clocks take up the beats of the count: their first edge of each beat lies on the beat boundary (R62), and
ALM_LSTAT.ALIGNED reads 1 on every die that is not divided and holds a copy of the count (R65, R68). -/
def alignClocks (s : Mach) : Mach :=
  foldS (List.range 6) (fun t d =>
    let t := modClk t d (fun c =>
      let beat := tickOf t (count t / 16 * 16)
      { c with epoch := beat, edges0 := edgeNo c t.now - (t.now - beat) / period c, supp := 0, dropped := 0 })
    let c := getClk t d
    wb t .ALM_LSTAT d 0 5 (t.alm.running && decide (c.div = 0) && !c.copyLost)) s

/-- The count in 1/16 ACYC shifted by an offset: the package's time base moves on. -/
def shiftBase (s : Mach) (off16 : Int) : Mach :=
  alignClocks (modAlm s (fun a => { a with base := a.base + off16 * acyc / 16 }))

/-- The count starts now at `c` (R42, R43). -/
def startCount (s : Mach) (c : Nat) : Mach :=
  alignClocks (modAlm s (fun a =>
    { a with running := true, since := if a.running then a.since else s.now, base := (c * acyc : Nat) - (s.now : Int) }))

/-- The package's place in the tree: HOPS_V, HOPS, PARENT and ROOT (R45, R47). -/
def setPlace (s : Mach) (hops parent root : Nat) : Mach :=
  wf (wf (wf (wb s .ALM_STATUS 0 0 17 true) .ALM_STATUS 0 0 13 10 hops) .ALM_STATUS 0 0 9 5 parent)
    .ALM_STATUS 0 0 31 18 root

/-- ALM_PORTp.PARENT marks exactly the current parent. -/
def markParent (s : Mach) (p : Nat) : Mach :=
  foldS (List.range 24) (fun t q => wb t .ALM_PORT 0 q 60 (decide (q = p))) s

def statusParent (s : Mach) : Nat := rf s .ALM_STATUS 0 0 9 5
def statusRoot (s : Mach) : Nat := rf s .ALM_STATUS 0 0 31 18
def placeValid (s : Mach) : Bool := rb s .ALM_STATUS 0 0 17

/-- Leaving holdover: the counts of the current holdover end (R57). DEDUCED, log entry 16. -/
def endHold (s : Mach) : Mach := wb (wr s .ALM_HOLD 0 0 0) .ALM_STATUS 0 0 15 false

/-- Holdover is entered (R56). -/
def enterHold (s : Mach) : Mach :=
  let s := setAlmState s aHoldover
  let s := modAlm s (fun a => { a with holdFrom := s.now, slewing := false, step := 0 })
  almEvent (wr s .ALM_HOLD 0 0 0) 1 0

/-! ### The grandmaster (R40 to R44) -/

/-- The grandmaster's count starts: its root is its own node from that moment (R47). -/
def gmStart (s : Mach) (st : Nat) : Mach :=
  setPlace (setAlmState (startCount s (rg s .ALM_START 0 0).toNat) st) 0 31 s.route.nodeId

/-- ALM_MARK (R42): `dt16` is the time to the marked edge of ALM_REFCLK. The first mark after lock starts the count at
the edge after the marked one; later a mark whose next edge is not a frame boundary sets MARK_ERR. -/
def almMark (s : Mach) (dt16 : Nat) : Mach :=
  let s := after16 s dt16
  if isGm s = false then s
  else if s.alm.running then
    if (almTicks s / acyc + 16) % 65536 = 0 then s else almEvent s 3 0
  else if s.alm.refLocked then gmStart (advanceTo s (s.now + 16 * acyc)) aLocked
  else s

def execAlmMark (dt16 : Nat) (s : State) : Host.Outcome State Fault Refusal := onMach s (fun s => almMark s dt16)

/-- REF_LOST (R43): REF_OK clears, REF_LOST is set, and the grandmaster enters holdover. -/
def refLost (s : Mach) : Mach :=
  if isGm s ∧ s.alm.refLocked then
    let s := modAlm (wb s .ALM_STATUS 0 0 16 false) (fun a => { a with refLocked := false, relock := false })
    let s := almEvent s 5 0
    if s.alm.running then enterHold s else s
  else s

def execRefLost (s : State) : Host.Outcome State Fault Refusal := onMach s (fun s => refLost s)

/-- ACQ_TIMEOUT (R43): with no reference or mark the grandmaster starts at ALM_START in state FREE. -/
def acqTimeout (s : Mach) : Mach :=
  if isGm s ∧ s.alm.running = false then gmStart s aFree else s

def execAcqTimeout (s : State) : Host.Outcome State Fault Refusal := onMach s (fun s => acqTimeout s)

/-- Whether a port hears this hall in HOLDOVER rooted at this node, with a completed round (R44). -/
def adoptable (s : Mach) (p : Nat) : Bool :=
  portTrained s p && rb s .ALM_PORT 0 p 63 &&
  (match (getAlmPort s p).beacon with
   | some (b, _) => decide (b.state = aHoldover) && decide (b.root = s.route.nodeId)
   | none => false)

/-- GRANDMASTER_LISTEN_END (R44): after one frame of listening the grandmaster adopts the count of a neighbour in
holdover that names it as root; otherwise its own start follows at a mark. -/
def listenEnd (s : Mach) : Mach :=
  if isGm s ∧ s.alm.running = false ∧ s.alm.listenFrom.isSome then
    let s := advanceTo s (s.alm.listenFrom.getD 0 + 65536 * acyc)
    let s := modAlm s (fun a => { a with listenFrom := none })
    match (List.range 24).find? (adoptable s) with
    | some p =>
      let o := portOffset s p
      let s := shiftBase (modAlm s (fun a =>
        { a with running := true, since := if a.running then a.since else s.now, adopted := true })) o
      setPlace (setAlmState s aAcquire) 0 31 s.route.nodeId
    | none => s
  else s

def execGrandmasterListenEnd (s : State) : Host.Outcome State Fault Refusal := onMach s (fun s => listenEnd s)

/-- REFCLK_LOCK (R41, R43, R60): the grandmaster's frequency lock completes and STATE moves from ACQUIRE to LOCKED. -/
def refclkLock (s : Mach) : Mach :=
  if isGm s then
    let s := modAlm (wb s .ALM_STATUS 0 0 16 true) (fun a => { a with refLocked := true, relock := false })
    if almState s = aAcquire then endHold (setAlmState s aLocked) else s
  else s

def execRefclkLock (s : State) : Host.Outcome State Fault Refusal := onMach s (fun s => refclkLock s)

/-! ### Beacons (R45 to R47, R54, R431) -/

/-- ROOT_CONFLICT (R47): a beacon of another root from a package that is LOCKED, FREE or a grandmaster. -/
def rootCheck (s : Mach) (p : Nat) (b : Beacon) : Mach :=
  if placeValid s ∧ b.root ≠ statusRoot s ∧ (b.state = aLocked ∨ b.state = aFree ∨ b.gm) then
    almEvent (wb s .ALM_PORT 0 p 59 true) 8 p
  else s

/-- The phase error of a beacon, in 1/16 ACYC: the sender's boundary as placed, less the receiver's own (R431). -/
def phaseError (s : Mach) (p : Nat) (b : Beacon) : Int :=
  let placed : Int := (loc16 s : Int) - ((rf s .ALM_PORT 0 p 55 32 : Int) - 2 * portAsym s p) - b.txoff
  placed - (b.frame * 65536 * 16 : Nat)

/-- A free trim within ±20 ppm, in ppb: the law of the trim is not the spec's, its limit is (R54). -/
def freeTrim (w : Word) : Int := ((w.toNat % 40001 : Nat) : Int) - 20000

/-- BEACON (R431): a beacon of this hall is kept, checked against the root, and from the parent or the port of
acquisition gives the phase error. One of another hall is ignored and sets HALL_MISMATCH. -/
def onBeacon (s : Mach) (p : Nat) (b : Beacon) (dt16 : Nat) : Mach :=
  let s := after16 s dt16
  if portTrained s p = false then s
  else if b.hallId ≠ rf s .ALM_CFG 0 0 55 40 then
    almRecord (wb s .ALM_PORT 0 p 61 true) p
  else
    let s := modAlmPort s p (fun a => { a with beacon := some (b, s.now) })
    let s := rootCheck s p b
    let tracked := (almState s = aLocked ∧ isGm s = false ∧ statusParent s = p)
      ∨ ((s.alm.step = 4 ∨ s.alm.slewing) ∧ s.alm.acqPort = p)
    if tracked then
      let e := phaseError s p b
      let (w, s) := drawWord s
      let s := wf (wf s .ALM_TRIM 0 0 47 32 (ofSigned 16 (max (-32768) (min 32767 e)))) .ALM_TRIM 0 0 31 0
        (ofSigned 32 (freeTrim w))
      modAlm s (fun a => { a with confirm := if e.natAbs ≤ 32 then a.confirm + 1 else 0 })
    else s

def execBeacon (p : PortNo) (b : Beacon) (dt16 : Nat) (s : State) : Host.Outcome State Fault Refusal :=
  guarded b.wf s (fun s => onBeacon s p b dt16)

/-- The beacon that this package sends on a port (R431). -/
def ownBeacon (s : Mach) (p : Nat) : Beacon :=
  let st := almState s
  let known := decide (st = aLocked) || decide (st = aHoldover) || decide (st = aFree) || isGm s
  let par := statusParent s
  { hallId := rf s .ALM_CFG 0 0 55 40, srcNode := s.route.nodeId, srcPort := p, state := st,
    hops := if known then rf s .ALM_STATUS 0 0 13 10 else 15, gm := isGm s, pvalid := decide (par ≠ 31),
    parent := match (getAlmPort s par).beacon with | some (b, _) => if par ≠ 31 then b.srcNode else 0 | none => 0,
    frame := frameNo s, txoff := loc16 s - frameNo s * 65536 * 16 - wf16 s p,
    root := if known then statusRoot s else 0 }

/-- BEACON_LAUNCH (R431): once per frame, at or after the boundary, a beacon is put in the next DATA flit of an ACTIVE
port. -/
def beaconLaunch (s : Mach) (p : Nat) : Mach :=
  if portState s p = vkActive ∧ s.alm.running ∧ (getAlmPort s p).lastBeacon ≠ some (frameNo s) then
    let b := ownBeacon s p
    let s := modPort s p (fun q => { q with almq := q.almq ++ [.beacon b] })
    modAlmPort s p (fun a => { a with lastBeacon := some (frameNo s) })
  else s

def execBeaconLaunch (p : PortNo) (s : State) : Host.Outcome State Fault Refusal := onMach s (fun s => beaconLaunch s p)

/-! ### Two-way exchange (R49 to R52, R433) -/

/-- EXCHANGE_SEND (R49): one request on a trained port, with T1 the launch time (R430). -/
def exchangeSend (s : Mach) (p : Nat) : Mach :=
  if portTrained s p ∧ (getAlmPort s p).sent.isNone then
    let x := ((getAlmPort s p).xseq + 1) % 256
    let t1 := loc16 s - wf16 s p
    let s := modPort s p (fun q => { q with almq := q.almq ++ [.request x t1] })
    modAlmPort s p (fun a => { a with sent := some (x, t1), xseq := x })
  else s

def execExchangeSend (p : PortNo) (s : State) : Host.Outcome State Fault Refusal := onMach s (fun s => exchangeSend s p)

/-- EXCHANGE_REQUEST (R433): the request is timestamped at its decode time and answered. -/
def exchangeRequest (s : Mach) (p : Nat) (m : Exchange) (dt16 : Nat) : Mach :=
  let s := after16 s dt16
  if portTrained s p then
    let t2 := loc16 s
    modPort s p (fun q => { q with almq := q.almq ++ [.reply m.xseq m.t1 t2 (t2 - wf16 s p)] })
  else s

def execExchangeRequest (p : PortNo) (m : Exchange) (dt16 : Nat) (s : State) : Host.Outcome State Fault Refusal :=
  guarded m.wf s (fun s => exchangeRequest s p m dt16)

/-- An integer put into a list in rising order. -/
def insertInt (x : Int) : List Int → List Int
  | [] => [x]
  | y :: l => if x ≤ y then x :: y :: l else y :: insertInt x l

/-- A list of integers in rising order. -/
def sortInts (l : List Int) : List Int := l.foldr insertInt []

/-- The median of 64 values: half the sum of the two middle ones, rounded down (R49; the rounding is log entry 15). -/
def median (l : List Int) : Int :=
  let m := sortInts l
  (m.getD (l.length / 2 - 1) 0 + m.getD (l.length / 2) 0) / 2

/-- PORT_DISAGREE (R52): on a non-parent port a round with |offset| > 4 ACYC. -/
def disagreeCheck (s : Mach) (p : Nat) : Mach :=
  if rb s .ALM_PORT 0 p 63 ∧ statusParent s ≠ p ∧ 64 < (portOffset s p).natAbs ∧ rb s .ALM_PORT 0 p 62 = false then
    almEvent (wb s .ALM_PORT 0 p 62 true) 4 p
  else s

/-- ROUND_COMPLETE (R49, R51): the medians give DELAY_Q4, LINK_LAT (measured once while the port stays trained) and
OFFSET_Q4. -/
def roundComplete (s : Mach) (p : Nat) (l : List (Int × Int)) : Mach :=
  let d := (median (l.map Prod.fst)).toNat
  let o := median (l.map Prod.snd)
  let s := if rb s .ALM_PORT 0 p 63 then s
    else wf (wf s .ALM_PORT 0 p 55 32 d) .ALM_PORT 0 p 15 0 (ceilDiv d 16)
  let s := wb s .ALM_PORT 0 p 63 true
  let s := wr s .ALM_POFF 0 p (BitVec.ofNat 64 (ofSigned 64 o))
  if almState s = aLocked then disagreeCheck s p else s

/-- EXCHANGE_REPLY (R49, R433): one exchange gives its delay and offset; the 64th completes the round. -/
def exchangeReply (s : Mach) (p : Nat) (m : Exchange) (dt16 : Nat) : Mach :=
  let s := after16 s dt16
  if portTrained s p ∧ (getAlmPort s p).sent = some (m.xseq, m.t1) then
    let t4 : Int := loc16 s
    let u : Int := (m.t2 : Int) - m.t1
    let v : Int := t4 - m.t3
    let x := ((u + v) / 2 + portAsym s p, (u - v) / 2 - portAsym s p)
    let l := (getAlmPort s p).exch ++ [x]
    let s := modAlmPort s p (fun a => { a with sent := none, exch := if l.length = 64 then [] else l })
    if l.length = 64 then roundComplete s p l else s
  else s

def execExchangeReply (p : PortNo) (m : Exchange) (dt16 : Nat) (s : State) : Host.Outcome State Fault Refusal :=
  guarded m.wf s (fun s => exchangeReply s p m dt16)

/-! ### Acquisition and tracking (R45, R48, R53 to R60) -/

/-- The candidate ports of ALM_CFG in order. -/
def candidates (s : Mach) : List Nat :=
  ([(12, 8), (20, 16), (28, 24), (36, 32)].map (fun f => rf s .ALM_CFG 0 0 f.1 f.2)).filter (fun p => decide (p < 24))

/-- Whether a candidate qualifies as parent (R45): `hold` admits a sender in HOLDOVER, `root` is the root that binds. -/
def qualifies (s : Mach) (hold : Bool) (root : Option Nat) (p : Nat) : Bool :=
  portTrained s p && !(rb s .ALM_PORT 0 p 62) && !(rb s .ALM_PORT 0 p 59) &&
  (match (getAlmPort s p).beacon with
   | none => false
   | some (b, _) =>
     decide (b.hops ≤ 14) && !(b.pvalid && decide (b.parent = s.route.nodeId)) &&
     (decide (b.state = aLocked) || decide (b.state = aFree) || b.gm || (hold && decide (b.state = aHoldover))) &&
     (match root with | some r => decide (b.root = r) | none => true))

/-- The parent that R45 chooses among the candidates other than `not`. -/
def chooseParent (s : Mach) (root : Option Nat) (not : Nat) : Option Nat :=
  let l := (candidates s).filter (fun p => decide (p ≠ not))
  match l.find? (qualifies s false root) with
  | some p => some p
  | none => l.find? (qualifies s true root)

/-- ACQUIRE_START (R53 step 1): the first trained candidate starts acquisition on a follower that has not started, or
whose reacquisition waits for a candidate. -/
def acquireStart (s : Mach) (p : Nat) : Mach :=
  if isGm s = false ∧ (candidates s).contains p ∧ portTrained s p ∧
      (almState s = aIdle ∨ (almState s = aAcquire ∧ s.alm.step = 1 ∧ s.alm.acqPort = 31)) then
    modAlm (setAlmState s aAcquire) (fun a => { a with step := 1, acqPort := p, confirm := 0 })
  else s

def execAcquireStart (p : PortNo) (s : State) : Host.Outcome State Fault Refusal := onMach s (fun s => acquireStart s p)

/-- FREQUENCY_LOCKED (R53 step 2): the exchange round with the parent starts. -/
def frequencyLocked (s : Mach) : Mach :=
  if s.alm.step = 1 ∧ s.alm.acqPort ≠ 31 then
    modAlmPort (modAlm s (fun a => { a with step := 2 })) s.alm.acqPort (fun a => { a with exch := [], sent := none })
  else s

def execFrequencyLocked (s : State) : Host.Outcome State Fault Refusal := onMach s (fun s => frequencyLocked s)

/-- What a measured offset leads to on a running count (R58, R60): a slew, or holdover with STEP_PENDING. -/
def takeUp (s : Mach) (p : Nat) : Mach :=
  let o := portOffset s p
  if o.natAbs ≤ 65536 * 16 then
    modAlm (setAlmState s aAcquire) (fun a =>
      { a with slewing := true, confirm := 0, acqPort := p, offset := o, step := 0 })
  else
    let s := if almState s = aHoldover then s else enterHold s
    modAlm (wb s .ALM_STATUS 0 0 14 true) (fun a => { a with offset := o, acqPort := p, step := 0 })

/-- COUNT_LOAD (R53 step 3): at the next parent frame boundary the count is loaded; a running count is never loaded and
its offset is treated as R58 does (R60). -/
def countLoad (s : Mach) : Mach :=
  let p := s.alm.acqPort
  if s.alm.step = 2 ∧ rb s .ALM_PORT 0 p 63 then
    if s.alm.running then takeUp s p
    else
      let o := portOffset s p
      let s := shiftBase (modAlm s (fun a =>
        { a with running := true, since := if a.running then a.since else s.now, step := 4, confirm := 0 })) o
      toFrameBoundary s
  else s

def execCountLoad (s : State) : Host.Outcome State Fault Refusal := onMach s (fun s => countLoad s)

/-- The follower declares LOCKED on a parent (R45, R47): it takes its root if none was taken since the start of
acquisition. -/
def declareOn (s : Mach) (p : Nat) : Mach :=
  match (getAlmPort s p).beacon with
  | none => s
  | some (b, _) =>
    let root := if s.alm.rootTaken then statusRoot s else b.root
    let s := setPlace (setAlmState s aLocked) (b.hops + 1) p root
    let s := markParent (endHold s) p
    modAlm s (fun a => { a with step := 0, slewing := false, rootTaken := true, confirm := 0 })

/-- DECLARE_LOCK (R53 step 5): after two confirming frames the follower declares LOCKED, checks the other ports for
another root and for disagreement, and exchanges on all ports. -/
def declareLock (s : Mach) : Mach :=
  if s.alm.step = 4 ∧ 2 ≤ s.alm.confirm then
    let s := declareOn s s.alm.acqPort
    foldS (List.range 24) (fun t q =>
      let t := match (getAlmPort t q).beacon with
        | some (b, _) => rootCheck t q b
        | none => t
      disagreeCheck t q) s
  else s

def execDeclareLock (s : State) : Host.Outcome State Fault Refusal := onMach s (fun s => declareLock s)

/-- Whether the parent is lost (R54): |phase error| > 8 ACYC, or no beacon for 2 frames. -/
def parentLost (s : Mach) : Bool :=
  let p := statusParent s
  decide (128 < (sext 16 (rf s .ALM_TRIM 0 0 47 32)).natAbs) || !(portTrained s p) ||
  (match (getAlmPort s p).beacon with
   | some (_, t) => decide (t + 2 * 65536 * acyc ≤ s.now)
   | none => true)

/-- LOCK_LOST (R54, R55): the follower switches to the next qualifying candidate or enters holdover. -/
def lockLost (s : Mach) : Mach :=
  if almState s = aLocked ∧ isGm s = false ∧ parentLost s then
    let old := statusParent s
    let s := almEvent s 0 old
    match chooseParent s (some (statusRoot s)) old with
    | some p =>
      match (getAlmPort s p).beacon with
      | some (b, _) => almEvent (markParent (setPlace s (b.hops + 1) p (statusRoot s)) p) 6 p
      | none => s
    | none => enterHold s
  else s

def execLockLost (s : State) : Host.Outcome State Fault Refusal := onMach s (fun s => lockLost s)

/-- The bound of R57. -/
def driftBound (elapsed : Nat) : Nat := 2 + ceilDiv (elapsed * 50) 1000000000

/-- HOLD_BOUND_UPDATE (R57): at each frame of holdover the bound is recomputed; the first above LIMIT sets HOLD_EXCEED. -/
def holdBoundUpdate (s : Mach) : Mach :=
  if almState s = aHoldover then
    let s := toFrameBoundary (advanceTo s (s.now + 1))
    let bound := sat 32 (driftBound ((s.now - s.alm.holdFrom) / acyc))
    let s := bump (wf s .ALM_HOLD 0 0 63 32 bound) .ALM_HOLD 0 0 31 0 1
    let over_ := decide (rf s .ALM_HOLD_LIMIT 0 0 15 0 < bound)
    if over_ ∧ rb s .ALM_STATUS 0 0 15 = false then almEvent (wb s .ALM_STATUS 0 0 15 true) 2 0 else s
  else s

def execHoldBoundUpdate (s : State) : Host.Outcome State Fault Refusal := onMach s (fun s => holdBoundUpdate s)

/-- PARENT_RETURN (R58): a returning parent is measured by a round and the package slews or sets STEP_PENDING; a
grandmaster whose reference returns keeps its count and locks frequency only. -/
def parentReturn (s : Mach) (p : Nat) : Mach :=
  if almState s ≠ aHoldover then s
  else if isGm s then modAlm (setAlmState s aAcquire) (fun a => { a with relock := true })
  else if (candidates s).contains p ∧ rb s .ALM_PORT 0 p 63 ∧
      qualifies s false (if s.alm.rootTaken then some (statusRoot s) else none) p then takeUp s p
  else s

def execParentReturn (p : PortNo) (s : State) : Host.Outcome State Fault Refusal := onMach s (fun s => parentReturn s p)

/-- SLEW_COMPLETE (R58, R60): after 2 frames within 2 ACYC the package declares LOCKED. -/
def slewComplete (s : Mach) : Mach :=
  if s.alm.slewing ∧ 2 ≤ s.alm.confirm then declareOn s s.alm.acqPort else s

def execSlewComplete (s : State) : Host.Outcome State Fault Refusal := onMach s (fun s => slewComplete s)

/-- The effect of ALM_CTL.STEP_ARM (R59): a pending step is armed unless a furrow runs. -/
def onStepArm (s : Mach) : Mach :=
  if rb s .ALM_STATUS 0 0 14 ∧ noFurrow s then modAlm s (fun a => { a with stepArmed := true }) else s

/-- STEP_APPLY (R59): at the next frame boundary, with no furrow running, the count jumps to the measured count, and the
package enters ACQUIRE at step 4. -/
def stepApply (s : Mach) : Mach :=
  if s.alm.stepArmed then
    let s := modAlm (toFrameBoundary s) (fun a => { a with stepArmed := false })
    if noFurrow s then
      let s := shiftBase s s.alm.offset
      let s := almEvent (setAlmState (wb s .ALM_STATUS 0 0 14 false) aAcquire) 7 0
      modAlm s (fun a => { a with step := 4, confirm := 0, slewing := false })
    else s
  else s

def execStepApply (s : State) : Host.Outcome State Fault Refusal := onMach s (fun s => stepApply s)

/-- The effect of ALM_CTL.REACQUIRE (R60). -/
def onReacquire (s : Mach) : Mach :=
  if isGm s then
    if almState s = aFree ∧ rb s .ALM_STATUS 0 0 16 = false then s
    else if s.alm.running then modAlm (setAlmState s aAcquire) (fun a => { a with relock := true })
    else s
  else
    let s := wb (markParent s 31) .ALM_STATUS 0 0 17 false
    let s := wf s .ALM_STATUS 0 0 9 5 31
    let p := match chooseParent s none 31 with
      | some p => p
      | none => ((candidates s).find? (portTrained s)).getD 31
    modAlm (setAlmState s aAcquire) (fun a =>
      { a with step := 1, acqPort := p, confirm := 0, slewing := false, rootTaken := false, stepArmed := false })

/-- The effect of a write of ALM_CTL. -/
def onAlmCtl (s : Mach) (v : Word) : Mach :=
  let s := if bit v 0 then onStepArm s else s
  if bit v 1 then onReacquire s else s

end Sys2Proof.Machine
end

