-- ==== Sys2Proof/Machine/Num.lean ====
section
/-! DEFINITION. Number formats, rounding, conversion and accumulation (chapter 05). Values are exact: a sign, an integer
and a power of two. -/

namespace Sys2Proof.Machine

/-! ### Values -/

/-- An exact value: a NaN, an infinity, or (−1)^neg × m × 2^e, zero with its sign. -/
inductive Val where
  | nan (signalling : Bool)
  | inf (neg : Bool)
  | fin (neg : Bool) (m : Nat) (e : Int)
  deriving DecidableEq, Repr

/-- Arithmetic flags of R158. -/
def fNX : Nat := 1
def fUF : Nat := 2
def fOF : Nat := 4
def fDZ : Nat := 8
def fNV : Nat := 16
def fSAT : Nat := 32
def fAOF : Nat := 64
def fATR : Nat := 128
def fAMM : Nat := 256

/-- Format codes of R133. -/
def kFP32 : Nat := 0
def kBF16 : Nat := 1
def kFP16 : Nat := 2
def kE4M3 : Nat := 3
def kE5M2 : Nat := 4
def kE2M1 : Nat := 5
def kINT8 : Nat := 6
def kINT4 : Nat := 7
def kMXFP8E4 : Nat := 8
def kMXFP8E5 : Nat := 9
def kMXFP6E3 : Nat := 10
def kMXFP6E2 : Nat := 11
def kMXFP4 : Nat := 12
def kMXINT8 : Nat := 13
def kINT32 : Nat := 14
def kANC80 : Nat := 15
def kE8M0 : Nat := 16

/-- What a floating-point format does past its finite values. -/
inductive Special where
  /-- Infinity and NaN as IEEE 754. -/
  | ieee
  /-- One NaN and no infinity (E4M3). -/
  | nanOnly
  | none
  deriving DecidableEq, Repr

/-- A floating-point format: widths of the exponent and mantissa, bias, and special encodings (R134). -/
structure FloatFmt where
  ebits : Nat
  mbits : Nat
  bias : Int
  sp : Special
  deriving DecidableEq, Repr

def fmtFP32 : FloatFmt := { ebits := 8, mbits := 23, bias := 127, sp := .ieee }
def fmtFP64 : FloatFmt := { ebits := 11, mbits := 52, bias := 1023, sp := .ieee }
def fmtBF16 : FloatFmt := { ebits := 8, mbits := 7, bias := 127, sp := .ieee }
def fmtFP16 : FloatFmt := { ebits := 5, mbits := 10, bias := 15, sp := .ieee }
def fmtE5M2 : FloatFmt := { ebits := 5, mbits := 2, bias := 15, sp := .ieee }
def fmtE4M3 : FloatFmt := { ebits := 4, mbits := 3, bias := 7, sp := .nanOnly }
def fmtE3M2 : FloatFmt := { ebits := 3, mbits := 2, bias := 3, sp := .none }
def fmtE2M3 : FloatFmt := { ebits := 2, mbits := 3, bias := 1, sp := .none }
def fmtE2M1 : FloatFmt := { ebits := 2, mbits := 1, bias := 1, sp := .none }

/-- The element format of a code whose elements are floating point (R133, R140). -/
def floatOf (code : Nat) : Option FloatFmt :=
  match code with
  | 0 => some fmtFP32 | 1 => some fmtBF16 | 2 => some fmtFP16 | 3 => some fmtE4M3 | 4 => some fmtE5M2
  | 5 => some fmtE2M1 | 8 => some fmtE4M3 | 9 => some fmtE5M2 | 10 => some fmtE3M2 | 11 => some fmtE2M3
  | 12 => some fmtE2M1 | _ => none

/-- Container bits of an element of a format (R133). -/
def elemBits (code : Nat) : Nat :=
  match code with
  | 0 => 32 | 1 => 16 | 2 => 16 | 3 => 8 | 4 => 8 | 5 => 4 | 6 => 8 | 7 => 4 | 8 => 8 | 9 => 8 | 10 => 6 | 11 => 6
  | 12 => 4 | 13 => 8 | 14 => 32 | 15 => 128 | 16 => 8 | _ => 0

/-- Whether a format is one of the microscaling formats. -/
def isMX (code : Nat) : Bool := decide (8 ≤ code) && decide (code ≤ 13)

/-- 2^k as an integer, for a nonnegative exponent. -/
def pow2 (k : Int) : Nat := 2 ^ k.toNat

/-- The value that an element of a floating-point format stands for (R134). -/
def decodeFloat (f : FloatFmt) (bits : Nat) : Val :=
  let neg := bits.testBit (f.ebits + f.mbits)
  let e := bits / 2 ^ f.mbits % 2 ^ f.ebits
  let m := bits % 2 ^ f.mbits
  let top := 2 ^ f.ebits - 1
  let q : Int := (if e = 0 then 1 else (e : Int)) - f.bias - f.mbits
  let v := Val.fin neg (if e = 0 then m else 2 ^ f.mbits + m) q
  match f.sp with
  | .ieee =>
    if e = top then (if m = 0 then .inf neg else .nan (!m.testBit (f.mbits - 1))) else v
  | .nanOnly => if e = top ∧ m = 2 ^ f.mbits - 1 then .nan false else v
  | .none => v

/-- A signed integer as a value. -/
def ofInt (i : Int) (e : Int) : Val := .fin (decide (i < 0)) i.natAbs e

/-- The value of an element of any format but ANC80, without its scale (R134, R135, R139, R140). -/
def decodeElem (code bits : Nat) : Val :=
  match floatOf code with
  | some f => decodeFloat f (bits % 2 ^ elemBits code)
  | none =>
    if code = kINT8 then ofInt (sext 8 bits) 0
    else if code = kINT4 then ofInt (sext 4 bits) 0
    else if code = kINT32 then ofInt (sext 32 bits) 0
    else if code = kMXINT8 then ofInt (sext 8 bits) (-6)
    else if code = kE8M0 then (if bits % 256 = 255 then .nan false else .fin false 1 ((bits % 256 : Nat) - (127 : Int)))
    else .nan false

def Val.isNaN : Val → Bool
  | .nan _ => true
  | _ => false

def Val.isInf : Val → Bool
  | .inf _ => true
  | _ => false

def Val.isZero : Val → Bool
  | .fin _ 0 _ => true
  | _ => false

def Val.sign : Val → Bool
  | .nan _ => false
  | .inf n => n
  | .fin n _ _ => n

def Val.negate : Val → Val
  | .nan k => .nan k
  | .inf n => .inf !n
  | .fin n m e => .fin (!n) m e

/-- The value of bits of length: floor(log2 m), m nonzero. -/
def log2 (m : Nat) : Nat := Nat.log2 m

/-- Signed integer and exponent of a finite value. -/
def Val.int : Val → Int × Int
  | .fin n m e => (if n then -(m : Int) else m, e)
  | _ => (0, 0)

/-! ### Comparison -/

/-- a < b of finite values and infinities; false where either is NaN. -/
def Val.lt (a b : Val) : Bool :=
  match a, b with
  | .nan _, _ => false
  | _, .nan _ => false
  | .inf n, .inf m => n && !m
  | .inf n, _ => n
  | _, .inf m => !m
  | a, b =>
    let x := a.int
    let y := b.int
    let e := min x.2 y.2
    decide (x.1 * pow2 (x.2 - e) < y.1 * pow2 (y.2 - e))

/-- a = b as numbers (+0 = −0); false where either is NaN. -/
def Val.eq (a b : Val) : Bool := !a.isNaN && !b.isNaN && !a.lt b && !b.lt a

/-! ### Rounding (R142 to R144) -/

/-- Rounding mode, saturation, and the seed and logical index of stochastic rounding. -/
structure Rnd where
  rm : Nat
  sat : Bool
  seed : Nat
  idx : Nat
  deriving DecidableEq, Repr

/-- Round to nearest even without saturation. -/
def rne : Rnd := { rm := 0, sat := false, seed := 0, idx := 0 }

/-- U of R143. -/
def srU (seed idx : Nat) : Nat :=
  let m := 2 ^ 32
  let x := (seed + idx * 0x9E3779B9) % m
  let x := x ^^^ (x / 2 ^ 16)
  let x := (x * 0x85EBCA6B) % m
  let x := x ^^^ (x / 2 ^ 13)
  let x := (x * 0xC2B2AE35) % m
  let x := x ^^^ (x / 2 ^ 16)
  x / 2 ^ 16

/-- The magnitude `m × 2^e` rounded to a multiple of 2^q: the multiple, and whether the result is inexact. -/
def roundTo (r : Rnd) (neg : Bool) (m : Nat) (e q : Int) : Nat × Bool :=
  if q ≤ e then (m * pow2 (e - q), false)
  else
    let d := pow2 (q - e)
    let n := m / d
    let rem := m % d
    if rem = 0 then (n, false)
    else
      let up := match r.rm with
        | 0 => decide (d < 2 * rem) || (decide (d = 2 * rem) && n.testBit 0)
        | 1 => false
        | 2 => neg
        | 3 => !neg
        | 4 => decide (d ≤ 2 * rem)
        | 5 => decide (65536 ≤ rem * 65536 / d + srU r.seed r.idx)
        | _ => false
      (if up then n + 1 else n, true)

/-- The canonical NaN of a format with one, else +0 (R136). -/
def canonNaN (f : FloatFmt) : Nat :=
  match f.sp with
  | .ieee => (2 ^ f.ebits - 1) * 2 ^ f.mbits + 2 ^ (f.mbits - 1)
  | .nanOnly => 2 ^ (f.ebits + f.mbits) - 1
  | .none => 0

/-- The bits of the largest finite magnitude, and of an infinity, without sign. -/
def maxBits (f : FloatFmt) : Nat :=
  match f.sp with
  | .ieee => (2 ^ f.ebits - 1) * 2 ^ f.mbits - 1
  | .nanOnly => 2 ^ (f.ebits + f.mbits) - 2
  | .none => 2 ^ (f.ebits + f.mbits) - 1
def infBits (f : FloatFmt) : Nat := (2 ^ f.ebits - 1) * 2 ^ f.mbits
def signBit (f : FloatFmt) (neg : Bool) : Nat := if neg then 2 ^ (f.ebits + f.mbits) else 0

/-- A value converted to a floating-point format: its bits and the flags raised (R136, R137, R145 to R147). -/
def encodeFloat (f : FloatFmt) (r : Rnd) (v : Val) : Nat × Nat :=
  match v with
  | .nan k => (canonNaN f, if k || decide (f.sp = .none) then fNV else 0)
  | .inf n =>
    let sg := signBit f n
    (match f.sp with
     | .ieee => if r.sat then (sg + maxBits f, fOF + fNX + fSAT) else (sg + infBits f, 0)
     | .nanOnly => if r.sat then (sg + maxBits f, fOF + fNX + fSAT) else (canonNaN f, fNV)
     | .none => (sg + maxBits f, fOF + fNX + fSAT))
  | .fin n 0 _ => (signBit f n, 0)
  | .fin n m e =>
    let sg := signBit f n
    let top : Int := e + log2 m
    let emin : Int := 1 - f.bias - f.mbits
    let q := max (top - f.mbits) emin
    let (k, nx) := roundTo r n m e q
    let free := roundTo r n m e (top - f.mbits)
    let tiny := decide (q = emin) &&
      decide (free.1 * pow2 (top - f.mbits - min (top - f.mbits) emin)
        < 2 ^ f.mbits * pow2 (emin - min (top - f.mbits) emin))
    -- the encoding of k × 2^q, exponent and mantissa together: a carry out of the mantissa raises the exponent
    let mag : Nat := if k < 2 ^ f.mbits then k else ((q - emin).toNat) * 2 ^ f.mbits + k
    if maxBits f < mag then
      if r.sat then (sg + maxBits f, fOF + fNX + fSAT)
      else match f.sp with
        | .none => (sg + maxBits f, fOF + fNX + fSAT)
        | .nanOnly => (canonNaN f, fOF + fNX + fNV)
        | .ieee =>
          let toMax := r.rm = 1 ∨ (r.rm = 2 ∧ n = false) ∨ (r.rm = 3 ∧ n = true)
          (sg + (if toMax then maxBits f else infBits f), fOF + fNX)
    else (sg + mag, (if nx then fNX else 0) + (if nx && tiny then fUF else 0))

/-- A value converted to a signed integer of `w` bits: its pattern and the flags raised (R148). -/
def encodeInt (w : Nat) (r : Rnd) (v : Val) : Nat × Nat :=
  let hi : Nat := 2 ^ (w - 1) - 1
  let lo : Nat := 2 ^ (w - 1)
  match v with
  | .nan _ => (0, fNV)
  | .inf n => (if n then lo else hi, fOF + fSAT + fNX)
  | .fin n m e =>
    let (k, nx) := roundTo r n m e 0
    if n then (if lo < k then (lo, fOF + fSAT + fNX) else ((2 ^ w - k) % 2 ^ w, if nx then fNX else 0))
    else if hi < k then (hi, fOF + fSAT + fNX) else (k, if nx then fNX else 0)

/-- A value converted to an element of a format without shared scale. -/
def encodeElem (code : Nat) (r : Rnd) (v : Val) : Nat × Nat :=
  match floatOf code with
  | some f => encodeFloat f r v
  | none => encodeInt (if code = kINT8 then 8 else if code = kINT4 then 4 else 32) r v

/-! ### Exact arithmetic (R145) -/

/-- The flags of a NaN result: a signalling operand, or a NaN from operands that are none. -/
def nanOf (l : List Val) (made : Bool) : Val × Nat :=
  let sig := l.any (fun v => match v with | .nan true => true | _ => false)
  let any := l.any Val.isNaN
  (.nan false, if sig || (made && !any) then fNV else 0)

/-- Exact sum; a zero sum of opposite signs is −0 under RDN and +0 otherwise. -/
def addVal (rm : Nat) (a b : Val) : Val × Nat :=
  match a, b with
  | .nan _, _ => nanOf [a, b] false
  | _, .nan _ => nanOf [a, b] false
  | .inf n, .inf m => if n = m then (.inf n, 0) else nanOf [] true
  | .inf n, _ => (.inf n, 0)
  | _, .inf m => (.inf m, 0)
  | .fin n m e, .fin n' m' e' =>
    if m = 0 ∧ m' = 0 then (.fin (if n = n' then n else decide (rm = 2)) 0 0, 0)
    else
      let q := min e e'
      let x : Int := a.int.1 * pow2 (e - q) + b.int.1 * pow2 (e' - q)
      if x = 0 then (.fin (decide (rm = 2)) 0 0, 0) else (ofInt x q, 0)

/-- Exact product. -/
def mulVal (a b : Val) : Val × Nat :=
  match a, b with
  | .nan _, _ => nanOf [a, b] false
  | _, .nan _ => nanOf [a, b] false
  | .inf n, x => if x.isZero then nanOf [] true else (.inf (n != x.sign), 0)
  | x, .inf n => if x.isZero then nanOf [] true else (.inf (n != x.sign), 0)
  | .fin n m e, .fin n' m' e' => (.fin (n != n') (m * m') (e + e'), 0)

/-- a × b + c, exact. An infinity times zero is invalid whatever c is. -/
def fmaVal (rm : Nat) (a b c : Val) : Val × Nat :=
  let p := mulVal a b
  if c.isNaN then
    let q := nanOf [a, b, c] false
    (q.1, p.2 ||| q.2)
  else
    let q := addVal rm p.1 c
    (q.1, p.2 ||| q.2)

/-- a / b with enough bits that one rounding of the result is correct; DZ for a finite nonzero value over zero. -/
def divVal (a b : Val) : Val × Nat :=
  match a, b with
  | .nan _, _ => nanOf [a, b] false
  | _, .nan _ => nanOf [a, b] false
  | .inf n, .inf _ => let _ := n; nanOf [] true
  | .inf n, x => (.inf (n != x.sign), 0)
  | x, .inf n => (.fin (x.sign != n) 0 0, 0)
  | .fin n m e, .fin n' m' e' =>
    if m' = 0 then (if m = 0 then nanOf [] true else (.inf (n != n'), fDZ))
    else if m = 0 then (.fin (n != n') 0 0, 0)
    else
      let k := 160 + log2 m' + 1
      let x := m * 2 ^ k
      (.fin (n != n') (2 * (x / m') + (if x % m' = 0 then 0 else 1)) (e - e' - k - 1), 0)

/-- The integer square root. -/
def isqrt (n : Nat) : Nat := Nat.sqrt n

/-- √a with enough bits that one rounding is correct. -/
def sqrtVal (a : Val) : Val × Nat :=
  match a with
  | .nan k => nanOf [.nan k] false
  | .inf n => if n then nanOf [] true else (.inf false, 0)
  | .fin n m e =>
    if m = 0 then (.fin n 0 0, 0)
    else if n then nanOf [] true
    else
      let sh : Nat := 200 + (if e % 2 = 0 then 0 else 1)
      let x := m * 2 ^ sh
      let r := isqrt x
      (.fin false (2 * r + (if r * r = x then 0 else 1)) ((e - sh) / 2 - 1), 0)

/-! ### Anchored accumulation (R150 to R154) -/

/-- An ANC80 container. -/
abbrev Anc := BitVec 128

def ancSet (c : Anc) : Bool := bit c 127
def ancInv (c : Anc) : Bool := bit c 126
def ancOvf (c : Anc) : Bool := bit c 125
def ancTrn (c : Anc) : Bool := bit c 124
def ancA (c : Anc) : Int := sext 10 (fld c 121 112)
def ancV (c : Anc) : Int := sext 104 (fld c 103 0)

/-- A container from its fields. -/
def mkAnc (inv ovf trn : Bool) (a v : Int) : Anc :=
  BitVec.ofNat 128 (2 ^ 127 + inv.toNat * 2 ^ 126 + ovf.toNat * 2 ^ 125 + trn.toNat * 2 ^ 124
    + ofSigned 10 a * 2 ^ 112 + ofSigned 104 v)

/-- A term meets an anchor (R151). -/
def ancTerm (a : Int) (t : Val) : Anc :=
  match t with
  | .fin n m e =>
    let q := a - 64
    let k := if q ≤ e then m * pow2 (e - q) else m / pow2 (q - e)
    let trn := decide (e < q) && decide (m % pow2 (q - e) ≠ 0)
    let lim := 2 ^ 79 - 1
    let ovf := decide (lim < k)
    let k := min k lim
    mkAnc false ovf trn a (if n then -(k : Int) else k)
  | _ => mkAnc true false false a 0

/-- The sum of two containers and the flags raised (R152). -/
def ancAdd (p q : Anc) : Anc × Nat :=
  if ancSet p = false then (q, 0)
  else if ancSet q = false then (p, 0)
  else if ancA p ≠ ancA q then (mkAnc true false false (max (ancA p) (ancA q)) 0, fAMM)
  else if ancInv p || ancInv q then (mkAnc true false false (max (ancA p) (ancA q)) 0, 0)
  else (mkAnc false (ancOvf p || ancOvf q) (ancTrn p || ancTrn q) (ancA p) (ancV p + ancV q), 0)

/-- Reading a container out to a format (R153): its bits and the flags raised. -/
def ancOut (code : Nat) (r : Rnd) (c : Anc) : Nat × Nat :=
  if code = kANC80 then (c.toNat, 0)
  else
    let atr := if ancSet c && ancTrn c then fATR else 0
    if ancSet c = false then (0, 0)
    else if ancInv c then
      ((match floatOf code with | some f => canonNaN f | none => 0), fNV ||| atr)
    else
      let v := ancV c
      let neg := decide (v < 0)
      let out := ancOvf c || decide (v < -(2 ^ 79 : Int)) || decide ((2 ^ 79 - 1 : Int) < v)
      if out then
        match floatOf code with
        | some f =>
          if r.sat = false ∧ f.sp = .ieee then (signBit f neg + infBits f, fAOF + fOF + fNX ||| atr)
          else (signBit f neg + maxBits f, fAOF + fOF + fNX + fSAT ||| atr)
        | none =>
          let w := elemBits code
          (if neg then 2 ^ (w - 1) else 2 ^ (w - 1) - 1, fAOF + fOF + fNX + fSAT ||| atr)
      else
        let x := encodeElem code r (if v = 0 then .fin false 0 0 else ofInt v (ancA c - 64))
        (x.1, x.2 ||| atr)

/-! ### Scales (R139 to R141) -/

/-- The group size that GSZ selects; none for 0b00 (R139). -/
def groupSize (gsz : Nat) : Option Nat :=
  match gsz with | 1 => some 32 | 2 => some 64 | 3 => some 128 | _ => none

/-- An element under a group scale: a NaN or infinite scale makes it NaN (R139). -/
def scaled (x s : Val) : Val :=
  match s with
  | .nan _ => .nan false
  | .inf _ => .nan false
  | s => (mulVal x s).1

/-- An element under an MX shared scale (R140). -/
def mxScaled (x : Val) (scale : Nat) : Val :=
  if scale % 256 = 255 then .nan false
  else match x with
    | .fin n m e => .fin n m (e + (scale % 256 : Nat) - 127)
    | v => v

/-- EMAX of the element format of an MX format (R141). -/
def mxEmax (code : Nat) : Int :=
  match code with | 8 => 8 | 9 => 15 | 10 => 4 | 11 => 2 | 12 => 2 | _ => 0

/-- The largest finite magnitude of an MX element format. -/
def mxMax (code : Nat) : Val :=
  match code with
  | 8 => .fin false 448 0 | 9 => .fin false 57344 0 | 10 => .fin false 28 0 | 11 => .fin false 15 (-1)
  | 12 => .fin false 6 0 | _ => .fin false 127 (-6)

/-- |v| with an infinity taken as the largest finite magnitude. -/
def mxAbs (code : Nat) (v : Val) : Val :=
  match v with
  | .inf _ => mxMax code
  | .fin _ m e => .fin false m e
  | v => v

/-- One element of a block with shared exponent code `x` (R141). -/
def mxElem (code : Nat) (r : Rnd) (x : Nat) (v : Val) : Nat × Nat :=
  let w := match v with | .fin n m e => Val.fin n m (e - ((x : Int) - 127)) | v => v
  let r := { r with sat := true }
  match floatOf code with
  | some f => encodeFloat f r w
  | none =>
    match w with
    | .fin n m e => encodeInt 8 r (.fin n m (e + 6))
    | .inf n => (if n then 256 - 127 else 127, fOF + fNX + fSAT)
    | w => encodeInt 8 r w

/-- A block of values quantised to an MX format: its shared scale, its elements and the flags of each (R141). IDX of
element `k` is `r.idx + k`. -/
def mxQuant (code : Nat) (r : Rnd) (vs : List Val) : Nat × List (Nat × Nat) :=
  if vs.any Val.isNaN then (255, vs.map (fun _ => (0, fNV)))
  else
    let amax := vs.foldl (fun m v => if m.lt (mxAbs code v) then mxAbs code v else m) (.fin false 0 0)
    let e : Int := match amax with
      | .fin _ m e => if m = 0 then -127 else e + log2 m - mxEmax code
      | _ => -127
    let x := ((max (-127) (min 127 e)) + 127).toNat
    (x, vs.zipIdx.map (fun p => mxElem code { r with idx := r.idx + p.2 } x p.1))

/-! ### Packing (R138) -/

/-- Element `i` of a densely packed row of bytes, given as a number (R138). -/
def packedElem (code row i : Nat) : Nat := row / 2 ^ (elemBits code * i) % 2 ^ elemBits code

/-- The number of bytes of `n` packed elements. -/
def packedBytes (code n : Nat) : Nat := ceilDiv (elemBits code * n) 8

/-- A row of elements packed into a number. -/
def packElems (code : Nat) (l : List Nat) : Nat :=
  l.foldr (fun x acc => acc * 2 ^ elemBits code + x % 2 ^ elemBits code) 0

end Sys2Proof.Machine
end

