-- ==== Sys2Proof/Machine/Image.lean ====
section
/-! DEFINITION. Engine-ready images and linear tiles: where an element, its scale and its sparsity code lie, and the value
it stands for (R167, R295, R296). -/

namespace Sys2Proof.Machine

/-- The shape of a tile as one side of a transfer or one operand of a pass stores it. -/
structure Tile where
  code : Nat
  gsz : Nat
  rows : Nat
  cols : Nat
  /-- Reduction axis of scales: 1 along columns. -/
  kaxis : Nat
  sparse : Bool
  deriving DecidableEq, Repr

/-- Elements per shared or group scale; none without scales. -/
def Tile.group (t : Tile) : Option Nat := if isMX t.code then some 32 else groupSize t.gsz

/-- Bytes of one scale. -/
def Tile.scaleBytes (t : Tile) : Nat := if isMX t.code then 1 else 2

/-- Stored rows of the element plane. -/
def Tile.elemRows (t : Tile) : Nat := if t.sparse then t.rows / 2 else t.rows

/-- Bytes of a row of elements, unpadded and padded to 64. -/
def Tile.rowBytes (t : Tile) : Nat := packedBytes t.code t.cols
def Tile.rowPad (t : Tile) : Nat := roundUp t.rowBytes 64

/-- Rows and columns of the scale plane. -/
def Tile.scaleRows (t : Tile) : Nat :=
  match t.group with
  | some g => if t.kaxis = 0 then ceilDiv t.rows g else t.rows
  | none => 0
def Tile.scaleCols (t : Tile) : Nat :=
  match t.group with
  | some g => if t.kaxis = 0 then t.cols else ceilDiv t.cols g
  | none => 0
def Tile.scalePad (t : Tile) : Nat := roundUp (t.scaleCols * t.scaleBytes) 64

/-- Bytes of a row of metadata codes, padded. -/
def Tile.metaPad (t : Tile) : Nat := roundUp (ceilDiv t.cols 2) 64
def Tile.metaRows (t : Tile) : Nat := if t.sparse then t.rows / 4 else 0

def Tile.elemPlane (t : Tile) : Nat := t.elemRows * t.rowPad
def Tile.scalePlane (t : Tile) : Nat := t.scaleRows * t.scalePad

/-- The image size S in bytes (R172, R295). -/
def Tile.size (t : Tile) : Nat := t.elemPlane + t.scalePlane + t.metaRows * t.metaPad

/-- Offset of element bits in an image: byte offset and bit within it. -/
def Tile.elemAt (t : Tile) (r c : Nat) : Nat × Nat :=
  let bitPos := c * elemBits t.code
  (r * t.rowPad + bitPos / 8, bitPos % 8)

/-- Row and column of the scale of element (r, c). -/
def Tile.scaleIdx (t : Tile) (r c : Nat) : Nat × Nat :=
  let g := t.group.getD 1
  if t.kaxis = 0 then (r / g, c) else (r, c / g)

/-- Offset of the scale of element (r, c) in an image. -/
def Tile.scaleAt (t : Tile) (r c : Nat) : Nat :=
  let i := t.scaleIdx r c
  t.elemPlane + i.1 * t.scalePad + i.2 * t.scaleBytes

/-- Offset of the metadata byte of group `g` of column `c`. -/
def Tile.metaAt (t : Tile) (g c : Nat) : Nat := t.elemPlane + t.scalePlane + g * t.metaPad + c / 2

/-- `n` bytes of a source as a number. -/
def readFrom (rd : Nat → Byte) (off n : Nat) : Nat := ofBytes ((List.range n).map (fun i => rd (off + i)))

/-- The raw bits of a stored element. -/
def Tile.elemBitsAt (t : Tile) (rd : Nat → Byte) (r c : Nat) : Nat :=
  let p := t.elemAt r c
  let w := elemBits t.code
  readFrom rd p.1 (ceilDiv (p.2 + w) 8) / 2 ^ p.2 % 2 ^ w

/-- The raw scale of an element. -/
def Tile.scaleBitsAt (t : Tile) (rd : Nat → Byte) (r c : Nat) : Nat := readFrom rd (t.scaleAt r c) t.scaleBytes

/-- An element under a raw scale (R139, R140). -/
def applyScale (t : Tile) (x : Val) (sc : Nat) : Val :=
  if isMX t.code then mxScaled x sc
  else match groupSize t.gsz with
    | some _ => scaled x (decodeElem kBF16 sc)
    | none => x

/-- The metadata code of a group of a column (R167). -/
def Tile.metaCode (t : Tile) (rd : Nat → Byte) (g c : Nat) : Nat :=
  (rd (t.metaAt g c)).toNat / (if c % 2 = 0 then 1 else 16) % 16

/-- The stored row that stands at logical row `r` of column `c`; none where the group stands for zero (R167, R168). -/
def Tile.storedRow (t : Tile) (rd : Nat → Byte) (r c : Nat) : Option Nat :=
  if t.sparse then
    let m := t.metaCode rd (r / 4) c
    if r % 4 = m % 4 then some (r / 4 * 2)
    else if m % 4 < m / 4 ∧ r % 4 = m / 4 then some (r / 4 * 2 + 1)
    else none
  else some r

/-- The value of logical element (r, c) of an image, with its scale. -/
def Tile.valAt (t : Tile) (rd : Nat → Byte) (r c : Nat) : Val :=
  match t.storedRow rd r c with
  | none => .fin false 0 0
  | some q =>
    let x := decodeElem t.code (t.elemBitsAt rd q c)
    if t.group.isSome then applyScale t x (t.scaleBitsAt rd r c) else x

/-- Offsets in an image of the granules that logical element (r, c) draws on. -/
def Tile.granAt (t : Tile) (rd : Nat → Byte) (r c : Nat) : List Nat :=
  let e := match t.storedRow rd r c with
    | some q => [(t.elemAt q c).1 / 64 * 64]
    | none => []
  let sc := if t.group.isSome then [t.scaleAt r c / 64 * 64] else []
  let m := if t.sparse then [t.metaAt (r / 4) c / 64 * 64] else []
  e ++ sc ++ m

end Sys2Proof.Machine
end

