-- ==== Sys2Proof/Machine/Bale.lean ====
section
/-! DEFINITION. Bale descriptors, the two sides of a move, and what its destination holds as a function of its source
(R292 to R299, R301, R303 to R305). A byte of either side is named by its key: the R292 word of the side's address plus the
byte's distance from it. -/

namespace Sys2Proof.Machine

/-! ### Addresses (R292) -/

/-- Where a key lies. `phys` is a local physical address; a GLOBAL or RLOFT word of the package's own node is local. -/
inductive BaleAddr where
  | loft (bay off : Nat)
  | va (a : Nat)
  | phys (a : Nat)
  | remote (node a : Nat)
  | rloft (node bay off : Nat)
  deriving DecidableEq, Repr

def keyKind (w : Nat) : Nat := w / 2 ^ 62 % 4

/-- The place of a key, on the package of a node. -/
def baleAddr (node w : Nat) : BaleAddr :=
  let n := w / 2 ^ 48 % 2 ^ 14
  let bay := w / 2 ^ 40 % 128
  let off := w % 2 ^ 40
  match keyKind w with
  | 0 => .loft bay off
  | 1 => .va (w % 2 ^ 62)
  | 2 => if n = node then .phys (w % 2 ^ 48) else .remote n (w % 2 ^ 48)
  | _ => if n = node then .loft bay off else .rloft n bay off

/-- Reserved bits of an address word that are not 0. -/
def baleAddrBad (w : Nat) : Bool :=
  match keyKind w with
  | 0 => decide (w / 2 ^ 47 % 2 ^ 15 ≠ 0) || decide (w / 2 ^ 25 % 2 ^ 15 ≠ 0)
  | 1 => decide (w / 2 ^ 48 % 2 ^ 14 ≠ 0)
  | 2 => false
  | _ => decide (w / 2 ^ 47 % 2 ≠ 0) || decide (w / 2 ^ 25 % 2 ^ 15 ≠ 0)

/-- Whether an address word is of kind LOFT or RLOFT. -/
def keyLoft (w : Nat) : Bool := decide (keyKind w = 0) || decide (keyKind w = 3)

/-! ### Fields of the descriptor (R293) -/

def dSrc (d : Line) : Nat := fld d 511 448
def dDst (d : Line) : Nat := fld d 447 384
def dAux (d : Line) : Nat := fld d 383 320
def dCompl (d : Line) : Nat := fld d 319 288
def dSeed (d : Line) : Nat := fld d 287 256
def dSpitch (d : Line) : Nat := fld d 255 224
def dDpitch (d : Line) : Nat := fld d 223 192
def dRows (d : Line) : Nat := fld d 191 184 + 1
def dCols (d : Line) : Nat := fld d 183 176 + 1
def dSfmt (d : Line) : Nat := fld d 175 171
def dSgsz (d : Line) : Nat := fld d 170 169
def dDfmt (d : Line) : Nat := fld d 168 164
def dDgsz (d : Line) : Nat := fld d 163 162
def dRm (d : Line) : Nat := fld d 161 159
def dSat (d : Line) : Bool := bit d 158
def dSlay (d : Line) : Nat := fld d 157 156
def dDlay (d : Line) : Nat := fld d 155 154
def dTrans (d : Line) : Bool := bit d 153
def dKaxis (d : Line) : Nat := fld d 152 152
def dSparse (d : Line) : Bool := bit d 151
def dOp (d : Line) : Nat := fld d 150 148
def dAnchor (d : Line) : Int := sext 10 (fld d 147 138)
def dLand (d : Line) : Nat := fld d 137 137
def dSigt (d : Line) : Bool := bit d 136
def dSigs (d : Line) : Bool := bit d 135
def dSem (d : Line) : Nat := fld d 134 124
def dSched (d : Line) : Bool := bit d 123
def dAt (d : Line) : Nat := fld d 122 91
def dSid (d : Line) : Nat := fld d 90 79
def dTid (d : Line) : Nat := fld d 78 69

/-- Whether elements, scales and metadata go over bit for bit (R297). -/
def dCopy (d : Line) : Bool := decide (dSfmt d = dDfmt d) && decide (dSgsz d = dDgsz d)

/-- Whether the source is a husk stream. -/
def dHusk (d : Line) : Bool := decide (dSlay d = 2)

/-! ### Sides (R295, R296) -/

/-- One side of a move. `lay`: 0 linear, 1 image. -/
structure Side where
  tile : Tile
  lay : Nat
  base : Nat
  aux : Nat
  pitch : Nat
  deriving DecidableEq, Repr

def scaledFmt (code gsz : Nat) : Bool := isMX code || decide (gsz ≠ 0)

/-- The source side. -/
def srcSide (d : Line) : Side :=
  { tile := { code := dSfmt d, gsz := dSgsz d, rows := dRows d, cols := dCols d, kaxis := dKaxis d, sparse := dSparse d },
    lay := dSlay d, base := dSrc d, aux := dAux d, pitch := dSpitch d }

/-- The destination side. A transposed copy moves each scale with its block, so that its reduction axis is the other one:
DEDUCED, log entry 24. -/
def dstSide (d : Line) : Side :=
  let rows := if dTrans d then dCols d else dRows d
  let cols := if dTrans d then dRows d else dCols d
  let kax := if dTrans d && dCopy d then 1 - dKaxis d else dKaxis d
  { tile := { code := dDfmt d, gsz := dDgsz d, rows := rows, cols := cols, kaxis := kax, sparse := dSparse d },
    lay := dDlay d, base := dDst d, aux := dAux d, pitch := dDpitch d }

/-- Row `i` of plane `p` (0 elements, 1 scales, 2 metadata): key and bytes. -/
def Side.rowAt (x : Side) (p i : Nat) : Nat × Nat :=
  let t := x.tile
  match p with
  | 0 => if x.lay = 0 then (x.base + i * x.pitch, t.rowBytes) else (x.base + i * t.rowPad, t.rowPad)
  | 1 =>
    if x.lay = 0 then (x.aux + i * (t.scaleCols * t.scaleBytes), t.scaleCols * t.scaleBytes)
    else (x.base + t.elemPlane + i * t.scalePad, t.scalePad)
  | _ => (x.base + t.elemPlane + t.scalePlane + i * t.metaPad, t.metaPad)

/-- Rows of a plane. -/
def Side.planeRows (x : Side) (p : Nat) : Nat :=
  match p with | 0 => x.tile.elemRows | 1 => x.tile.scaleRows | _ => x.tile.metaRows

/-- Bits of one unit of a plane (an element, a scale, a metadata code) and units in a row. -/
def Side.unitBits (x : Side) (p : Nat) : Nat :=
  match p with | 0 => elemBits x.tile.code | 1 => 8 * x.tile.scaleBytes | _ => 4
def Side.unitCols (x : Side) (p : Nat) : Nat := if p = 1 then x.tile.scaleCols else x.tile.cols

/-- Every row of a side, plane by plane: plane, row, key, bytes. -/
def Side.rows (x : Side) : List (Nat × Nat × Nat × Nat) :=
  [0, 1, 2].flatMap (fun p => (List.range (x.planeRows p)).map (fun i => (p, i, (x.rowAt p i).1, (x.rowAt p i).2)))

/-- The 512 B blocks that a range of keys meets. -/
def keyBlocks (k n : Nat) : List Nat :=
  if n = 0 then [] else (List.range ((k + n - 1) / 512 + 1 - k / 512)).map (fun i => k / 512 + i)

/-- Blocks in the order of their first appearance (R301). -/
def dedupBlocks (l : List Nat) : List Nat :=
  (l.foldl (fun acc b => if acc.head? = some b ∨ acc.contains b then acc else b :: acc) []).reverse

/-- The beats of a side: the aligned blocks that cover its rows and planes. -/
def Side.beats (x : Side) : List Nat := dedupBlocks (x.rows.flatMap (fun r => keyBlocks r.2.2.1 r.2.2.2))

/-- The source beats of a move; a husk stream is its bytes. -/
def srcBeats (d : Line) : List Nat :=
  if dHusk d then keyBlocks (dSrc d) (dAux d % 2 ^ 32) else (srcSide d).beats

def dstBeats (d : Line) : List Nat := (dstSide d).beats

/-- FCLK for which a move occupies its mover (R301). -/
def occupancy (d : Line) : Nat :=
  let i := (srcBeats d).length
  let o := (dstBeats d).length
  if dTrans d then i + o else max i o

/-! ### Malformed descriptors (R294) -/

/-- Whether the multiples of R138, R165 and R167 hold for a side. -/
def Side.shapeOk (x : Side) : Bool :=
  let t := x.tile
  let w := elemBits t.code
  let k := if t.kaxis = 0 then t.rows else t.cols
  (!decide (w = 4) || decide (t.cols % 2 = 0)) && (!decide (w = 6) || decide (t.cols % 4 = 0)) &&
  (if x.lay = 1 then
    (match t.group with | some g => decide (k % g = 0) | none => true) &&
    (!decide (w = 4) || decide (k % 2 = 0)) && (!decide (w = 6) || decide (k % 4 = 0)) &&
    (!t.sparse || (decide (w = 4) && decide (t.rows % 4 = 0) && decide (t.kaxis = 0)))
  else
    decide (x.pitch % (if keyLoft x.base then 64 else 8) = 0) && decide (t.rowBytes ≤ x.pitch))

/-- Whether the formats are accepted (R298, R306). -/
def formatsOk (d : Line) : Bool :=
  let sf := dSfmt d
  let df := dDfmt d
  gszFmt sf (dSgsz d) && gszFmt df (dDgsz d) &&
  (match dOp d with
   | 0 => dCopy d || (conv sf df && decide (dDgsz d = 0))
   | 1 => decide (df = kFP32) && (dCopy d || (conv sf df && decide (dDgsz d = 0)))
   | 2 => decide (df = kINT32) && (decide (sf = kINT8) || decide (sf = kINT4) || decide (sf = kINT32))
            && decide (dSgsz d = 0) && decide (dDgsz d = 0)
   | _ => decide (df = kANC80) && decide (dDgsz d = 0) && decide (sf ≠ kE8M0))
where
  /-- GSZ goes only with codes 0x05 to 0x07 (R139). -/
  gszFmt (code gsz : Nat) : Bool := decide (gsz = 0) || (decide (5 ≤ code) && decide (code ≤ 7))
  /-- A conversion between different formats (R298). INT32 and E8M0 are read as no source, E8M0 as no destination:
  DEDUCED, log entry 24. -/
  conv (sf df : Nat) : Bool :=
    decide (sf ≠ df) && decide (sf ≠ kINT32) && decide (sf ≠ kE8M0) && decide (df ≠ kE8M0) && decide (df ≠ kANC80) &&
    !(isMX sf && isMX df) &&
    (decide (sf ≠ kANC80) || decide (df = kFP32) || decide (df = kBF16) || decide (df = kFP16) || decide (df = kINT32))

/-- Whether a descriptor is malformed (R294), short of the rules that differ by issuer. -/
def malformed (d : Line) : Bool :=
  let husk := dHusk d
  let trans := dTrans d
  let sl := decide (dSlay d = 0) && scaledFmt (dSfmt d) (dSgsz d)
  let dl := decide (dDlay d = 0) && scaledFmt (dDfmt d) (dDgsz d)
  let anc := decide (dSfmt d = kANC80) || decide (dDfmt d = kANC80)
  decide (fld d 68 0 ≠ 0) || decide (16 < dSfmt d) || decide (16 < dDfmt d) || decide (dSlay d = 3) ||
  decide (2 ≤ dDlay d) || decide (4 ≤ dOp d) || decide (6 ≤ dRm d) ||
  baleAddrBad (dSrc d) || baleAddrBad (dDst d) ||
  (if husk then decide (2 ^ 32 ≤ dAux d) else if sl || dl then baleAddrBad (dAux d) else decide (dAux d ≠ 0)) ||
  (trans && (anc || dSparse d || husk)) ||
  (dSparse d && !(decide (dSlay d = 1) && decide (dDlay d = 1) && dCopy d)) ||
  !(formatsOk d) ||
  (husk && !(decide (dDlay d = 1) && dCopy d && decide (dOp d = 0))) ||
  (decide (dOp d ≠ 0) && !(decide (dDlay d = 0) && !trans && !husk && (decide (keyKind (dDst d) = 1) || decide (keyKind (dDst d) = 2)))) ||
  (sl && dl) ||
  (!husk && !((srcSide d).shapeOk)) || !((dstSide d).shapeOk)

/-! ### The husk codec (R303 to R305) -/

/-- Stream bits `[q, q + n)`. -/
def huskField (v q n : Nat) : Nat := v / 2 ^ q % 2 ^ n

/-- One chunk at bit `q` (R304): the bit after it and its 64 bytes, packed; none where it fails. -/
def huskChunk (v lim q : Nat) (prev : Option (List Byte)) : Option (Nat × List Byte) :=
  let ok (n : Nat) (l : List Byte) : Option (Nat × List Byte) := if n ≤ lim then some (n, l) else none
  if lim < q + 2 then none
  else match huskField v q 2 with
    | 0 => ok (q + 2 + 512) ((List.range 64).map (fun i => BitVec.ofNat 8 (huskField v (q + 2 + 8 * i) 8)))
    | 1 => ok (q + 10) (List.replicate 64 (BitVec.ofNat 8 (huskField v (q + 2) 8)))
    | 2 =>
      let w := huskField v (q + 2) 3
      let base := huskField v (q + 5) 8
      if w = 0 then none
      else ok (q + 13 + 64 * w) ((List.range 64).map (fun i =>
        let z := huskField v (q + 13 + w * i) w
        let dlt : Int := if z % 2 = 0 then (z / 2 : Nat) else -((z / 2 : Nat) : Int) - 1
        BitVec.ofInt 8 ((base : Int) + dlt)))
    | _ => (prev.map (fun l => (q + 2, l)))

/-- Chunks from bit `q` on: the bytes emitted, and whether all of them decoded. -/
def huskChunks (v lim : Nat) : (n q : Nat) → Option (List Byte) → List (List Byte) → List (List Byte) × Bool
  | 0, _, _, acc => (acc.reverse, true)
  | n + 1, q, prev, acc =>
    match huskChunk v lim q prev with
    | none => (acc.reverse, false)
    | some (q', l) => huskChunks v lim n q' (some l) (l :: acc)

/-- One bit of the reflected CRC-32 of R303. -/
def crc32Bit (c : Nat) : Nat := if c % 2 = 1 then (c / 2) ^^^ 0xEDB88320 else c / 2

def crc32Byte (c : Nat) (b : Byte) : Nat :=
  (List.range 8).foldl (fun x _ => crc32Bit x) (c ^^^ b.toNat)

/-- CRC-32 of a row of bytes: reflected, initial value and final XOR 0xFFFF_FFFF. -/
def crc32 (l : List Byte) : Nat := (l.foldl crc32Byte 0xFFFFFFFF) ^^^ 0xFFFFFFFF

/-- Decoding a husk stream for an image of `size` bytes (R303 to R305): the raw bytes emitted, and 0, 2 HUSK_FORMAT or
3 HUSK_CHECK. -/
def huskDecode (stream : List Byte) (size : Nat) : List Byte × Nat :=
  let v := ofBytes stream
  let lim := 8 * stream.length
  let raw := huskField v 64 32
  if lim < 128 ∨ huskField v 0 32 ≠ 0x4B535548 ∨ huskField v 32 8 ≠ 1 ∨ huskField v 40 24 ≠ 0 ∨ raw = 0 ∨ raw % 64 ≠ 0 ∨ raw ≠ size then
    ([], 2)
  else
    let r := huskChunks v lim (raw / 64) 128 none []
    let bytes := r.1.flatten
    if r.2 = false then (bytes, 2)
    else (bytes, if crc32 bytes = huskField v 96 32 then 0 else 3)

/-! ### Forming the destination (R297 to R299, R306, R311) -/

/-- What has been read of a source: bytes and poison of the granule, by key. -/
structure SrcView where
  rd : Nat → Byte
  pois : Nat → Bool

/-- The view of the blocks read so far; a byte of a block not read is 0. -/
def srcView (got : List SrcBeat) : SrcView :=
  { rd := fun k => match got.find? (fun g => decide (g.blk = k / 512)) with
      | some g => g.bytes.getD (k % 512) 0
      | none => 0,
    pois := fun k => match got.find? (fun g => decide (g.blk = k / 512)) with
      | some g => g.pois.testBit (k % 512 / 64)
      | none => false }

/-- Unit `j` of row `i` of a plane of a side: its bits and its poison. -/
def Side.unit (x : Side) (v : SrcView) (p i j : Nat) : Nat × Bool :=
  let w := x.unitBits p
  let k := (x.rowAt p i).1 + j * w / 8
  let sh := j * w % 8
  let n := ceilDiv (sh + w) 8
  (readFrom v.rd k n / 2 ^ sh % 2 ^ w, v.pois k || v.pois (k + n - 1))

/-- The value of source element (r, c) under its scale, and its poison (R298, R311). -/
def Side.value (x : Side) (v : SrcView) (r c : Nat) : Val × Bool :=
  let e := x.unit v 0 r c
  let y := decodeElem x.tile.code e.1
  if x.tile.group.isSome then
    let i := x.tile.scaleIdx r c
    let sc := x.unit v 1 i.1 i.2
    (applyScale x.tile y sc.1, e.2 || sc.2)
  else (y, e.2)

/-- Rounding of a move for the destination element (r, c) (R298). -/
def dRnd (d : Line) (r c : Nat) : Rnd := { rm := dRm d, sat := dSat d, seed := dSeed d, idx := r * 256 + c }

/-- The source position of destination element (r, c). -/
def srcPos (d : Line) (r c : Nat) : Nat × Nat := if dTrans d then (c, r) else (r, c)

/-- A unit of the destination: bits, poison and flags. -/
structure DstUnit where
  bits : Nat
  pois : Bool
  flags : Nat
  deriving DecidableEq, Repr

/-- The block of 32 destination elements that element (r, c) belongs to, and its place in it (R298). -/
def mxBlock (t : Tile) (r c : Nat) : List (Nat × Nat) × Nat :=
  if t.kaxis = 0 then ((List.range 32).filterMap (fun k => if r / 32 * 32 + k < t.rows then some (r / 32 * 32 + k, c) else none), r % 32)
  else ((List.range 32).filterMap (fun k => if c / 32 * 32 + k < t.cols then some (r, c / 32 * 32 + k) else none), c % 32)

/-- A block quantised (R141): scale, elements with their flags, and poison of the block. IDX of each element is its own
(R298). -/
def quantBlock (d : Line) (v : SrcView) (cells : List (Nat × Nat)) : Nat × List (Nat × Nat) × Bool :=
  let vs := cells.map (fun q => (srcSide d).value v (srcPos d q.1 q.2).1 (srcPos d q.1 q.2).2)
  let q := mxQuant (dDfmt d) (dRnd d 0 0) (vs.map Prod.fst)
  let elems := if (vs.map Prod.fst).any Val.isNaN then q.2
    else (cells.zip (vs.map Prod.fst)).map (fun p => mxElem (dDfmt d) (dRnd d p.1.1 p.1.2) q.1 p.2)
  (q.1, elems, vs.any Prod.snd)

/-- Whether the MX block of a destination unit of a copy draws on a poisoned element or scale (R311). -/
def blockPois (d : Line) (v : SrcView) (p i j : Nat) : Bool :=
  let t := (dstSide d).tile
  let cell := if p = 0 then (i, j) else if t.kaxis = 0 then (i * 32, j) else (i, j * 32)
  (mxBlock t cell.1 cell.2).1.any (fun q =>
    ((srcSide d).value v (srcPos d q.1 q.2).1 (srcPos d q.1 q.2).2).2)

/-- Unit (i, j) of a plane of the destination of a move that is not a husk decode. -/
def dstUnit (d : Line) (v : SrcView) (p i j : Nat) : DstUnit :=
  let src := srcSide d
  let dst := dstSide d
  if dCopy d then
    let u := src.unit v p (srcPos d i j).1 (srcPos d i j).2
    { bits := u.1, pois := u.2 || (isMX (dDfmt d) && blockPois d v p i j), flags := 0 }
  else if p = 1 then
    let g := 32
    let cell := if dst.tile.kaxis = 0 then (i * g, j) else (i, j * g)
    let q := quantBlock d v (mxBlock dst.tile cell.1 cell.2).1
    { bits := q.1, pois := q.2.2, flags := 0 }
  else if isMX (dDfmt d) then
    let b := mxBlock dst.tile i j
    let q := quantBlock d v b.1
    let e := q.2.1.getD b.2 (0, 0)
    { bits := e.1, pois := q.2.2, flags := e.2 }
  else
    let s := srcPos d i j
    if dSfmt d = kANC80 then
      let u := src.unit v 0 s.1 s.2
      let o := ancOut (dDfmt d) (if dOp d = 1 then rne else dRnd d i j) (BitVec.ofNat 128 u.1)
      { bits := o.1, pois := u.2, flags := o.2 }
    else
      let x := src.value v s.1 s.2
      if dDfmt d = kANC80 then { bits := (ancTerm (dAnchor d) x.1).toNat, pois := x.2, flags := 0 }
      else
        let o := encodeElem (dDfmt d) (if dOp d = 1 then rne else dRnd d i j) x.1
        { bits := o.1, pois := x.2, flags := o.2 }

/-- Bytes `[k, k + n)` of a row of a plane of the destination: a number, poison by byte, and flags. Units past the row's
columns are zero padding (R295). -/
def dstPiece (d : Line) (v : SrcView) (p i off n : Nat) : Nat × (Nat → Bool) × Nat :=
  let x := dstSide d
  let w := x.unitBits p
  let first := off * 8 / w
  let last := min (x.unitCols p) (ceilDiv ((off + n) * 8) w)
  let us := (List.range (last - first)).map (fun j => (first + j, dstUnit d v p i (first + j)))
  let num := us.foldl (fun acc u => acc + u.2.bits % 2 ^ w * 2 ^ (w * (u.1 - first))) 0
  let num := num / 2 ^ (off * 8 - first * w) % 2 ^ (8 * n)
  (num, fun b => us.any (fun u => u.2.pois && decide (u.1 * w / 8 ≤ b) && decide (b ≤ (u.1 * w + w - 1) / 8)),
   us.foldl (fun f u => f ||| u.2.flags) 0)

/-- Source keys that a row of the destination draws on: key and bytes. -/
def rowNeeds (d : Line) (p i : Nat) : List (Nat × Nat) :=
  let src := srcSide d
  if dHusk d then [(dSrc d, dAux d % 2 ^ 32)]
  else if dTrans d then src.rows.map (fun r => r.2.2)
  else if dCopy d ∧ isMX (dDfmt d) = false then [src.rowAt p i]
  else
    let dst := dstSide d
    let rows := if dst.tile.group.isNone ∨ dst.tile.kaxis = 1 then [i]
      else
        let g := if p = 1 then i else i / 32
        (List.range 32).filterMap (fun k => if g * 32 + k < dst.tile.rows then some (g * 32 + k) else none)
    rows.flatMap (fun r =>
      src.rowAt 0 r :: (if src.tile.group.isSome then [src.rowAt 1 (src.tile.scaleIdx r 0).1] else []))

end Sys2Proof.Machine
end

