-- ==== Sys2Proof/Machine/Mem.lean ====
section
/-! DEFINITION. The local physical address space: what lies where, who may reach it, refusals of the access tables, and
main memory behind its controllers (R268, R277 to R284, R341, R462 to R466, R471 to R473, R595, R596). -/

namespace Sys2Proof.Machine

/-! ### Host memory (R594, R596) -/

/-- Enabled DDR5 channels. -/
def ddrChannels (s : Mach) : Nat := popcount 16 (fld s.cfg.ddr 15 0)

/-- Bytes of host memory. -/
def hostSize (s : Mach) : Nat := ddrChannels s * (fld s.cfg.ddr 39 32 * 16) * 2 ^ 30

/-- The channel of a host offset (R596). -/
def hostChan (s : Mach) (h : Nat) : Nat :=
  let n := ddrChannels s
  let c := h / 256
  let i := (c % n) ^^^ (c / n % n)
  i % 2 * 8 + i / 2

/-! ### The granary (R277, R278) -/

/-- Where a granary byte lies. -/
structure PcAddr where
  barn : Nat
  stack : Nat
  /-- Global pseudo-channel. -/
  pc : Nat
  loc : Nat
  deriving DecidableEq, Repr

/-- The pseudo-channel and local address of a granary offset (R278). -/
def pcOf (o : Nat) : PcAddr :=
  let c := o / 256
  let row := c / 384
  let k := c % 384
  let a := k / 128
  let b2 := (k % 128) ^^^ (row % 128)
  let barn := b2 % 4
  let stack := barn * 3 + (a + row) % 3
  { barn := barn, stack := stack, pc := stack * 32 + b2 / 4 % 16 * 2 + b2 / 64, loc := row * 256 + o % 256 }

/-! ### Regions (R30, R268, R340, R341, R605) -/

/-- What a local physical address reaches. -/
inductive Region where
  | granary (off : Nat)
  | host (off : Nat)
  | window (bay : Nat) (off : Nat)
  | csp (off : Nat)
  /-- File 0 machine, 1 supervisor, 1 + g guest g. -/
  | imsic (core : Nat) (file : Nat) (off : Nat)
  | aperture (q : Nat) (off : Nat)
  | none
  deriving DecidableEq, Repr

/-- Base and size of the aperture of a PCI Express port (R605). -/
def aperture (s : Mach) (q : Nat) : Nat × Nat :=
  let w := s.cfg.pcie.getD (5 * q + 1) 0
  if fld (s.cfg.pcie.getD (5 * q) 0) 1 0 = 0 then (0, 0) else (fld w 47 30 * 2 ^ 30, fld w 15 0 * 2 ^ 30)

/-- The region of a local physical address. -/
def region (s : Mach) (a : Nat) : Region :=
  let c := s.cfg
  if c.grnBase ≤ a ∧ a < c.grnBase + granarySize s then .granary (a - c.grnBase)
  else if c.hostBase ≤ a ∧ a < c.hostBase + hostSize s then .host (a - c.hostBase)
  else if c.winBase ≤ a ∧ a < c.winBase + 72 * 0x2000000 then
    .window ((a - c.winBase) / 0x2000000) ((a - c.winBase) % 0x2000000)
  else if c.cspBase ≤ a ∧ a < c.cspBase + 0x8000000 then .csp (a - c.cspBase)
  else if c.imsicM ≤ a ∧ a < c.imsicM + 96 * 0x1000 then
    .imsic ((a - c.imsicM) / 0x1000) 0 ((a - c.imsicM) % 0x1000)
  else if c.imsicS ≤ a ∧ a < c.imsicS + 96 * 0x8000 then
    let o := a - c.imsicS
    .imsic (o / 0x8000) (1 + o % 0x8000 / 0x1000) (o % 0x1000)
  else match (List.range 4).find? (fun q => decide ((aperture s q).1 ≤ a) && decide (a < (aperture s q).1 + (aperture s q).2)) with
    | some q => .aperture q (a - (aperture s q).1)
    | none => .none

/-- Whether an address lies in main memory (R341). -/
def isMain (s : Mach) (a : Nat) : Bool :=
  match region s a with | .granary _ => true | .host _ => true | _ => false

/-- The home of a line of main memory: 0 to 3 barns, 4 and 5 core dies (R370). -/
def homeOf (s : Mach) (a : Nat) : Nat :=
  match region s a with
  | .granary o => (pcOf o).barn
  | .host o => 4 + hostChan s o / 8
  | _ => 0

/-- The die ID of a home. -/
def homeDie (h : Nat) : Nat := if h < 4 then barnDieId h else coreDieId (h - 4)

/-! ### The access tables (R462 to R466) -/

/-- Rights on an address. -/
structure Rights where
  read : Bool
  write : Bool
  atomic : Bool
  deriving DecidableEq, Repr

def Rights.none : Rights := { read := false, write := false, atomic := false }
def Rights.all : Rights := { read := true, write := true, atomic := true }

/-- Who is checked: the hub, the repair agent, a partition, or nobody (an invalid master ID). -/
inductive Checked where
  | hub | repair | part (p : Nat) | nobody
  deriving DecidableEq, Repr

/-- Who a master ID is checked as; a PROXY transaction carries the PID `proxy` (R461, R640). -/
def checkedAs (s : Mach) (mid : Nat) (proxy : Option Nat) : Checked :=
  match midInfo s mid with
  | (.hub, _) => .hub
  | (.repair, _) => .repair
  | (.bound, some p) => .part p
  | (.proxy, _) => match proxy with | some p => .part p | none => .nobody
  | _ => .nobody

/-- The rights that a granule entry grants (R463). -/
def granuleRights (e : Word) (c : Checked) : Rights :=
  match c with
  | .hub => .all
  | .repair => { read := true, write := false, atomic := false }
  | .part p =>
    if bit e 63 then
      if fld e 51 48 = p then .all
      else if (fld e 31 16).testBit p then { read := true, write := false, atomic := false }
      else .none
    else .none
  | .nobody => .none

/-- The granule entry of a main-memory address (R463). -/
def granuleOf (s : Mach) (a : Nat) : Word :=
  match region s a with
  | .granary o => rg s .PRT_GGRAN 0 (o / 2 ^ 30)
  | .host o => rg s .PRT_HGRAN 0 (o / 2 ^ 30)
  | _ => 0

/-- A shared-region entry, words A and B (R282); every copy is the same. -/
def shrA (s : Mach) (n : Nat) : Word := rg s .GRN_SHR_A 0 n
def shrB (s : Mach) (n : Nat) : Word := rg s .GRN_SHR_B 0 n

/-- Whether a granary offset lies in a shared-region entry. -/
def inShr (s : Mach) (n off : Nat) : Bool :=
  let a := shrA s n
  bit a 63 && decide (fld a 22 0 * 65536 ≤ off) && decide (off < (fld a 22 0 + fld a 45 23) * 65536)

/-- The shared-region entry of a granary offset. -/
def shrOf (s : Mach) (off : Nat) : Option Nat := (List.range 32).find? (fun n => inShr s n off)

/-- The rights of a checked master on an address of main memory or the loft window (R463, R466). -/
def rightsAt (s : Mach) (c : Checked) (a : Nat) : Rights :=
  match region s a with
  | .granary o =>
    let r := granuleRights (granuleOf s a) c
    if c = .repair ∧ (shrOf s o).isSome then { r with write := true } else r
  | .host _ => granuleRights (granuleOf s a) c
  | .window b _ =>
    (match c with
     | .hub => { read := true, write := true, atomic := false }
     | .part p => if bayPid s b = some p then { read := true, write := true, atomic := false } else .none
     | _ => .none)
  | _ => .none

/-- Die ID, BLK and UNIT of the target of an address of main memory or the loft window (R465, R536). -/
def targetOf (s : Mach) (a : Nat) : Nat × Nat × Nat :=
  match region s a with
  | .granary o => (barnDieId (pcOf o).barn, 9, (pcOf o).stack % 3)
  | .host o => (coreDieId (hostChan s o / 8), 0xD, hostChan s o % 8)
  | .window b _ => (compDieId (dieOf b), 5, b % 12)
  | _ => (0, 0x1D, 0x7F)

/-- The PID that a record of a checked access names. -/
def Checked.pid : Checked → Option Nat
  | .part p => some p
  | _ => none

/-- A refusal by the access tables (R465): it counts in PRT_STATUS.REFUSED, is recorded in PRT_ERR and raises one record
of class ACCESS. `csp` is 1 for control space. -/
def refuseAccess (s : Mach) (csp : Bool) (mid : Nat) (c : Checked) (tid : Nat) (a die blk unit : Nat) : Mach :=
  let code := if csp then 2 else 1
  let s := bump s .PRT_STATUS 0 0 63 32 1
  let s := recordFirst s .PRT_ERR 0 0
    (packFlds [(55, 48, code), (47, 43, die), (42, 34, mid), (33, 30, c.pid.getD 0), (19, 0, a / 2 ^ 28)])
  let r := (mkRec s 1 code blk unit die a (a / 2 ^ 16)).forPart c.pid tid
  raise s { r with mid := mid }

/-- A refusal of an access to main memory or the loft window. -/
def refuseMem (s : Mach) (mid : Nat) (c : Checked) (tid a : Nat) : Mach :=
  let t := targetOf s a
  refuseAccess s false mid c tid a t.1 t.2.1 t.2.2

/-! ### Keys of memory (R471 to R473) -/

/-- The granule number of a line: granary granules from 0, host granules from 65,536. -/
def granNo (s : Mach) (a : Nat) : Nat :=
  match region s a with
  | .granary o => o / 2 ^ 30
  | .host o => 65536 + o / 2 ^ 30
  | _ => 2 ^ 20

/-- The key epoch that an address is encrypted under now. -/
def curKey (s : Mach) (a : Nat) : Nat :=
  let k := smapGet 0 s.granKey (granNo s a)
  if k = 0 then s.coldEpoch else k

/-- What a line of main memory holds behind its controller: a line last written under another key reads as unpredictable
bytes (R473). -/
def rawLine (s : Mach) (line : Nat) : Line :=
  let k := curKey s (line * 64)
  if smapGet 0 s.lineKey line = k then BitVec.ofNat 512 (readNat s.mem (line * 64) 64)
  else BitVec.ofNat 512 (ofBytes ((List.range 64).map (fun i => Config.xtsOther k (line * 64 + i))))

def linePois (s : Mach) (line : Nat) : Bool := smapGet false s.memPois line

def setLinePois (s : Mach) (line : Nat) (p : Bool) : Mach := { s with memPois := smapPut false s.memPois line p }

/-- Every byte of a line. -/
def fullMask : Nat := 2 ^ 64 - 1

/-- `old` with the bytes of `new` whose mask bit is 1. -/
def mergeLine (old new : Line) (mask : Nat) : Line :=
  let m : Line := (List.range 64).foldl (fun m i => if mask.testBit i then setFld m (8 * i + 7) (8 * i) 255 else m) 0
  (old &&& ~~~ m) ||| (new &&& m)

/-- A controller writes bytes of a line: a write of all 64 bytes sets the poison bit as the data carries it; a partial
write is a read-modify-write that leaves a set bit set (R280). -/
def rawWrite (s : Mach) (line : Nat) (d : Line) (mask : Nat) (p : Bool) : Mach :=
  let full := decide (mask % 2 ^ 64 = fullMask)
  let v := if full then d else mergeLine (rawLine s line) d mask
  let q := if full then p else linePois s line || p
  let s := { s with mem := writeNat s.mem (line * 64) 64 v.toNat,
                    lineKey := smapPut 0 s.lineKey line (curKey s (line * 64)) }
  setLinePois s line q

/-! ### The controllers of the granary and of DDR5 (R280, R283, R528) -/

/-- GRN_ERR records the first error; every error raises a record (R288). -/
def grnErr (s : Mach) (off code : Nat) : Mach :=
  let p := pcOf off
  let e := shrOf s off
  let s := recordFirst s .GRN_ERR p.stack 0
    (packFlds [(57, 53, p.pc % 32), (52, 48, e.getD 0), (47, 47, e.isSome.toNat), (46, 40, code), (38, 6, off / 64)])
  let s := match code with
    | 1 => bump s .GRN_ERRCNT p.stack 0 15 0 1
    | 2 => bump s .GRN_ERRCNT p.stack 0 31 16 1
    | 3 => bump s .GRN_ERRCNT p.stack 0 47 32 1
    | _ => s
  let a := s.cfg.grnBase + off
  let r := mkRec s 2 code 9 (p.stack % 3) (barnDieId p.barn) a (a / 2 ^ 16)
  raise s (if code = 1 then r.poisoned else r)

/-- Whether the controller refuses a write of a master to an address (R283). -/
def writeLocked (s : Mach) (c : Checked) (a : Nat) : Bool :=
  match region s a with
  | .granary o =>
    decide (c ≠ .repair) && (match shrOf s o with | some n => bit (shrA s n) 62 | none => false)
  | _ => false

/-- The owner of the energy of a request (R519): its tenant, or for a core, a CMX, a PCI Express group or a port the
overhead of its partition; none is given for a bay's request of its slice. -/
def ownerOf (s : Mach) (mid : Nat) (tid : Option Nat) : Nat :=
  match midInfo s mid with
  | (.hub, _) => ownPkg
  | (.bound, some p) =>
    if mid ≤ 0x60 ∨ 0x1C0 ≤ mid then ownPart p
    else match tid with
      | some t => t
      | none => if 0x80 ≤ mid ∧ mid ≤ 0xC7 then ownBay s (mid - 0x80) else ownPart p
  | _ => match tid with | some t => t | none => ownPkg

/-- What moves on a pseudo-channel or a DDR5 channel: a read, a write, a near-memory add. -/
inductive MemUse where
  | read | write | add
  deriving DecidableEq, Repr

/-- Bytes moved at a memory controller: GRN_BYTESq, the always-on counters of its die, and energy (R288, R568, R519). -/
def countBytes (s : Mach) (a n : Nat) (use : MemUse) (owner : Nat) : Mach :=
  let k := match use with | .read => 0 | .write => 1 | .add => 2
  match region s a with
  | .granary o =>
    let s := bump s .GRN_BYTES ((pcOf o).stack) ((pcOf o).pc % 32) 63 0 (if use = .add then 2 * n else n)
    book (bumpAo s (barnDieId (pcOf o).barn) k 1) 18 owner (if use = .add then 9 else 8) 1
  | .host o => book (bumpAo s (coreDieId (hostChan s o / 8)) (2 + k % 2) 1) 18 owner 10 1
  | _ => s

/-- An uncorrectable error of a line of main memory: its poison bit is set, the error is recorded (R280, R528, R600).
The DDR block has no error register, so that the SUBCODE of its record is a free value (R536, R537). -/
def memUE (s : Mach) (a : Nat) : Mach :=
  let s := setLinePois s (a / 64) true
  match region s a with
  | .granary o => grnErr s (o / 64 * 64) 1
  | .host o =>
    let ch := hostChan s o
    let s := bump s .DDR_ECC ch 0 31 0 1
    let (w, s) := drawWord s
    raise s (mkRec s 2 (w.toNat % 256) 0xD (ch % 8) (coreDieId (ch / 8)) a (a / 2 ^ 16)).poisoned
  | _ => s

end Sys2Proof.Machine
end

