-- ==== Sys2Proof/Machine/Home.lean ====
section
/-! DEFINITION. Coherence within the package (chapter 14): caches, directories, transactions at the homes, and the
coherent view that every other family reads and writes through. -/

namespace Sys2Proof.Machine

open Sys2Proof.Config (acyc)

/-! ### Caches -/

/-- Cache keys: 0 to 95 the L2 and victim cache of a core, 102 to 105 the I/O agent of a barn, 106 and 107 the
last-level cache of a core die for lines homed elsewhere, 128 + b the cache region of bay b. -/
def posOf (k : Nat) : Nat := if 128 ≤ k then 96 + (k - 128) / 12 else k

/-- The cache keys of a presence position (R371). -/
def keysOf (pos : Nat) : List Nat :=
  if 96 ≤ pos ∧ pos ≤ 101 then (List.range 12).map (fun i => 128 + 12 * (pos - 96) + i) else [pos]

def lineSpan : Nat := 2 ^ 42

def getHeld (s : Mach) (k line : Nat) : HLine := smapGet HLine.none s.held (k * lineSpan + line)

def putHeld (s : Mach) (k line : Nat) (h : HLine) : Mach :=
  { s with held := smapPut HLine.none s.held (k * lineSpan + line) h }

/-- Whether a cache holds a line inside coherence. -/
def holds (s : Mach) (k line : Nat) : Bool :=
  let h := getHeld s k line
  decide (h.st ≠ 0) && !h.orphan

def getDir (s : Mach) (line : Nat) : DirEnt := smapGet DirEnt.zero s.dir line

def modDir (s : Mach) (line : Nat) (f : DirEnt → DirEnt) : Mach :=
  { s with dir := smapPut DirEnt.zero s.dir line (f (getDir s line)) }

def getCore (s : Mach) (c : Nat) : Core := vget Core.zero s.cores c

def modCore (s : Mach) (c : Nat) (f : Core → Core) : Mach := { s with cores := vmod s.cores c f }

/-- The core die (0 or 1) of a core, and the last-level cache position of a die. -/
def coreDieOf (c : Nat) : Nat := c / 48
def llcKey (d : Nat) : Nat := 106 + d

/-! ### Clocks of hold windows (R342, R380) -/

/-- CCLK of a P-state: its period is 8/`n` ACYC (R342). -/
def pstateDiv (p : Nat) : Nat :=
  match p with | 0 => 15 | 1 => 13 | 2 => 11 | 3 => 9 | 4 => 7 | _ => 5

/-- The P-state of a core's cluster (core.pstate.CUR). -/
def clusterPstate (s : Mach) (c : Nat) : Nat :=
  (vget Clu.zero s.clus (c / 8)).pst

/-- The CCLK period of a core's cluster in ticks. -/
def cclk (s : Mach) (c : Nat) : Nat := 8 * acyc / pstateDiv (clusterPstate s c)

/-- Ticks of the hold window of a cache: 48 CCLK of a core, 48 FCLK of a compute die, none otherwise (R380). -/
def holdTicks (s : Mach) (k : Nat) : Nat :=
  if k < 96 then 48 * cclk s k else if 128 ≤ k then 48 * period (clkOf s (k - 128)) else 0

/-! ### Reservations (R359) -/

/-- A write of bytes of a line ends the reservations of sheaf threads on a doubleword that it touches (R225). -/
def breakShf (s : Mach) (line mask : Nat) : Mach :=
  { s with shfResv := s.shfResv.filter (fun r =>
      !(decide (r.pa / 64 = line) && decide (mask / 2 ^ (r.pa % 64) % 256 ≠ 0))) }

/-- Another agent's write of bytes of a line ends the reservations that it touches: a core's on the line, a thread's on the
doubleword. -/
def breakResv (s : Mach) (line mask : Nat) (except : Option Nat) : Mach :=
  { breakShf s line mask with cores := s.cores.mapFinIdx (fun i c _ =>
      if some i = except then c
      else match c.resv with
        | some r => if overlaps r.1 r.2.1 (line * 64) 64 then { c with resv := none } else c
        | none => c) }

/-! ### The coherent view (R276, R377) -/

/-- The cache that owns a line Exclusive or Modified. -/
def ownerKey (s : Mach) (line : Nat) : Option Nat :=
  let e := getDir s line
  if e.owned then
    ((bitList 108 e.pres).flatMap keysOf).find? (fun k => holds s k line && decide (2 ≤ (getHeld s k line).st))
  else none

/-- Data that a transaction in progress carries. -/
def txnData (e : DirEnt) : Option (Line × Bool) :=
  match e.txn with
  | none => none
  | some t =>
    if t.got then some (t.line, t.pois)
    else t.resps.findSome? (fun r => match r.2 with | .data l p _ _ => some (l, p) | _ => none)

/-- The latest value of a line in its coherence order, and whether it is poisoned. -/
def cohLine (s : Mach) (line : Nat) : Line × Bool :=
  match txnData (getDir s line) with
  | some d => d
  | none =>
    match ownerKey s line with
    | some k => ((getHeld s k line).data, (getHeld s k line).pois)
    | none => (rawLine s line, linePois s line)

/-! ### Errors of a home (R382 to R384, R388) -/

/-- COH_HERR records the first error; every error raises a record. -/
def homeErr (s : Mach) (line code pos : Nat) : Mach :=
  let h := homeOf s (line * 64)
  let a := line * 64
  let s := recordFirst s .COH_HERR h 0 (packFlds [(62, 60, code), (55, 49, pos), (47, 6, line)])
  let r := mkRec s 0xA code 0xA 0x7F (homeDie h) a (a / 2 ^ 16)
  raise s (if code = 2 then r else r.poisoned)

/-! ### Snoops (R376, R380, R381) -/

/-- Whether a position has departed or is being swept at a home (R385). -/
def departed (s : Mach) (home pos : Nat) : Bool :=
  if pos < 64 then rb s .COH_DEPART0 home 0 pos else rb s .COH_DEPART1 home 0 (pos - 64)

/-- Marked positions of an entry that are not masked. -/
def marked (s : Mach) (line : Nat) : List Nat :=
  (bitList 108 (getDir s line).pres).filter (fun p => !departed s (homeOf s (line * 64)) p)

/-- What a snoop leaves a cache: nothing, a Shared copy, or its state. -/
def snoopKey (s : Mach) (k line : Nat) (kind : HomeKind) : Mach :=
  let h := getHeld s k line
  if h.st = 0 ∨ h.orphan ∨ h.wb then s
  else match kind with
    | .ncRead => s
    | .readAlloc => putHeld s k line { h with st := 1 }
    | _ => putHeld s k line HLine.none

/-- A snoop of a last-level cache copy also invalidates the cores of its mask, except the requester (R374). -/
def snoopMasked (s : Mach) (pos line : Nat) (kind : HomeKind) (who : Nat) : Mach :=
  if (pos = 106 ∨ pos = 107) ∧ kind ≠ .ncRead ∧ kind ≠ .readAlloc then
    foldS ((bitList 48 (getHeld s pos line).mask).filter (fun c => decide (48 * (pos - 106) + c ≠ who)))
      (fun t c => snoopKey t (48 * (pos - 106) + c) line kind) s
  else s

/-- The agent of a position answers a snoop of a transaction of kind `kind`. -/
def answerSnoop (s : Mach) (pos line : Nat) (kind : HomeKind) (who : Nat) : SnoopAns × Mach :=
  let ks := (keysOf pos).filter (fun k => holds s k line)
  let ans := match ks.find? (fun k => decide (2 ≤ (getHeld s k line).st)) with
    | some k =>
      let h := getHeld s k line
      SnoopAns.data h.data h.pois (decide (h.st = 3)) h.wb
    | none => if ks = [] then .miss else .shared
  let s := snoopMasked s pos line kind who
  let s := foldS ks (fun t k => snoopKey t k line kind) s
  let s := match ans with
    | .data _ _ _ true => bump s .COH_CROSS (homeOf s (line * 64)) 0 63 32 1
    | _ => s
  let s := if 96 ≤ pos ∧ pos ≤ 101 then bump s .COH_CA_COUNT (pos - 96) 0 63 32 1 else s
  let s := if pos < 96 ∧ kind ≠ .ncRead ∧ kind ≠ .readAlloc then
      modCore s pos (fun c => match c.resv with
        | some r => if overlaps r.1 r.2.1 (line * 64) 64 then { c with resv := none } else c
        | none => c)
    else s
  (ans, s)

/-- The tick at which the hold window of a position for a line ends, when a snoop of this kind waits for it. -/
def windowEnd (s : Mach) (pos line : Nat) (kind : HomeKind) : Nat :=
  if kind = .ncRead then 0
  else (keysOf pos).foldl (fun m k => if holds s k line then max m (getHeld s k line).wonUntil else m) 0

/-! ### Transactions (R376, R377) -/

/-- The bit of a position. -/
def posBit (p : Nat) : Nat := 2 ^ p

/-- A request is served once every snoop has been answered. Memory is written where R376 says so. -/
def serve (s : Mach) (line : Nat) (t : HomeTxn) : Mach :=
  let e := getDir s line
  let r := t.req
  match r.kind with
  | .readAlloc =>
    let s := if t.got ∧ t.wasM then rawWrite s line t.line fullMask t.pois else s
    let d := if t.got then (t.line, t.pois) else (rawLine s line, linePois s line)
    let p := posOf r.who
    let others := e.pres &&& (2 ^ 128 - 1 - posBit p)
    let sharers := decide (others ≠ 0)
    let t' := { t with got := true, line := d.1, pois := d.2, grant := if sharers then 1 else 2, stage := 1 }
    modDir s line (fun e => { e with owned := !sharers, pres := others ||| posBit p, txn := some t' })
  | .readOwn =>
    let d := if t.got then (t.line, t.pois) else (rawLine s line, linePois s line)
    let t' := { t with got := true, line := d.1, pois := d.2, grant := if t.got && t.wasM then 3 else 2, stage := 1 }
    modDir s line (fun e => { e with owned := true, pres := posBit (posOf r.who), txn := some t' })
  | .ncRead => modDir s line (fun e => { e with txn := some { t with got := false, stage := 2 } })
  | .ncFull =>
    let s := breakResv (rawWrite s line r.data fullMask r.pois) line fullMask none
    modDir s line (fun e => { e with owned := false, pres := 0, txn := some { t with got := false, stage := 2 } })
  | .ncPart =>
    let s := if t.got then rawWrite s line t.line fullMask t.pois else s
    let s := breakResv (rawWrite s line r.data r.mask r.pois) line r.mask none
    modDir s line (fun e => { e with owned := false, pres := 0, txn := some { t with got := false, stage := 2 } })

/-- The snoops that a request needs (R376): none where the directory marks no other holder. -/
def snoopsFor (s : Mach) (line : Nat) (r : HomeReq) : List Nat :=
  let e := getDir s line
  let others := (marked s line).filter (fun p => decide (p ≠ posOf r.who) || decide (r.kind = .ncRead)
    || decide (r.kind = .ncFull) || decide (r.kind = .ncPart))
  match r.kind with
  | .readAlloc | .ncRead => if e.owned then others else []
  | _ => others

/-- Admission of a request (R377): the entry is BUSY from here on; with no snoop to send it is served at once. -/
def enterHome (s : Mach) (line : Nat) (r : HomeReq) : Mach :=
  let sn := snoopsFor s line r
  let own := decide (r.who < 200) && holds s r.who line
  let t : HomeTxn :=
    { req := r, snoops := sn, delayed := [], inval := decide (r.kind ≠ .readAlloc ∧ r.kind ≠ .ncRead), resps := [],
      line := if own then (getHeld s r.who line).data else 0, pois := own && (getHeld s r.who line).pois,
      wasM := own && decide ((getHeld s r.who line).st = 3), got := own && decide (2 ≤ (getHeld s r.who line).st),
      grant := 0, stage := 0, sentAt := s.now }
  let s := modDir s line (fun e => { e with txn := some t })
  if sn = [] then serve s line t else s

/-- Entries of a line's set at its home (R371). -/
def setLines (s : Mach) (line : Nat) : List (Nat × DirEnt) :=
  s.dir.filter (fun p => decide (p.1 % 65536 = line % 65536) && decide (p.2.pres ≠ 0) &&
    decide (homeOf s (p.1 * 64) = homeOf s (line * 64)))

/-- The way that tree pseudo-LRU bits point at among `ways` (a power of two) candidates: bit `n` of node `n` is 1 when
the upper half is older; a half without a candidate is passed over. -/
def plruPick (bits : Nat) (cand : Nat → Bool) : (levels node base : Nat) → Nat
  | 0, _, base => base
  | k + 1, node, base =>
    let half := 2 ^ k
    let upperHas := (List.range half).any (fun i => cand (base + half + i))
    let lowerHas := (List.range half).any (fun i => cand (base + i))
    let up := if bits.testBit node then upperHas || !lowerHas else upperHas && !lowerHas
    if up then plruPick bits cand k (2 * node + 1) (base + half) else plruPick bits cand k (2 * node) base

/-- The tree bits after a use of way `w` of `2^levels`: every node on its path points away from it. -/
def plruTouch (bits w : Nat) : (levels node : Nat) → Nat
  | 0, _ => bits
  | k + 1, node =>
    let upper := w.testBit k
    let rest := plruTouch bits w k (2 * node + upper.toNat)
    let cleared := rest - (if rest.testBit node then 2 ^ node else 0)
    if upper then cleared else cleared + 2 ^ node

/-- Back-invalidation of an entry (R373): every marked holder, an OWNED victim's data written to memory. -/
def backInvalidate (s : Mach) (line : Nat) : Mach :=
  let d := cohLine s line
  let own := ownerKey s line
  let n := (bitList 108 (getDir s line).pres).length
  let s := if own.isSome then rawWrite s line d.1 fullMask d.2 else s
  let s := foldS (marked s line) (fun t p => (answerSnoop t p line .ncFull 511).2) s
  let s := bump s .COH_DIRSTAT (homeOf s (line * 64)) 0 31 0 n
  { s with dir := smapPut DirEnt.zero s.dir line DirEnt.zero }

/-- A free way for a new entry; a full set first gives up a victim (R373): the fewest set bits, ties by tree
pseudo-LRU. None where every entry of the set is BUSY. -/
def newEntry (s : Mach) (line : Nat) : Option Mach :=
  let l := setLines s line
  let used := l.map (fun p => p.2.way)
  let setKey := homeOf s (line * 64) * 65536 + line % 65536
  let finish (s : Mach) (w : Nat) : Mach :=
    let bits := smapGet 0 s.dirLru setKey
    let s := { s with dirLru := smapPut 0 s.dirLru setKey (plruTouch bits w 4 1) }
    modDir s line (fun e => { e with way := w })
  match (List.range 16).find? (fun w => !(used.contains w)) with
  | some w => some (finish s w)
  | none =>
    let free := l.filter (fun p => p.2.txn.isNone)
    match free with
    | [] => none
    | _ =>
      let fewest := free.foldl (fun m p => min m (popcount 128 p.2.pres)) 128
      let cand := free.filter (fun p => decide (popcount 128 p.2.pres = fewest))
      let w := plruPick (smapGet 0 s.dirLru setKey) (fun w => cand.any (fun p => decide (p.2.way = w))) 4 1 0
      match cand.find? (fun p => decide (p.2.way = w)) with
      | some v => some (finish (backInvalidate s v.1) w)
      | none => none

/-- Transactions in progress at a home. -/
def trackers (s : Mach) (home : Nat) : Nat :=
  (s.dir.filter (fun p => p.2.txn.isSome && decide (homeOf s (p.1 * 64) = home))).length

/-- A request refused with RETRY (R378). -/
def sendRetry (s : Mach) (line : Nat) (r : HomeReq) (n : Nat) : Mach :=
  let s := bump s .COH_AGED (homeOf s (line * 64)) 0 31 0 1
  { s with retries := s.retries ++ [{ line := line, req := r, count := n + 1 }] }

/-- A request reaches its home: queued behind a transaction of its line, aged requests ahead of others, admitted where a
tracker is free, or refused with RETRY (R377 to R379). -/
def request (s : Mach) (line : Nat) (r : HomeReq) (n : Nat) : Mach :=
  let e := getDir s line
  let h := homeOf s (line * 64)
  if isMain s (line * 64) = false then s
  else if e.txn.isSome then
    if 16 ≤ e.queue.length then sendRetry s line r n
    else if r.aged then
      let q := e.queue.filter (fun q => q.aged) ++ r :: e.queue.filter (fun q => !q.aged)
      modDir s line (fun e => { e with queue := q })
    else modDir s line (fun e => { e with queue := e.queue ++ [r] })
  else
    let used := trackers s h
    if used < 504 ∨ (r.aged = true ∧ used < 512) then
      if e.pres = 0 ∧ (r.kind = .readAlloc ∨ r.kind = .readOwn) then
        match newEntry s line with
        | some s => enterHome s line r
        | none => sendRetry s line r n
      else enterHome s line r
    else sendRetry s line r n

/-- A request without data. -/
def plainReq (k : HomeKind) (who : Nat) : HomeReq :=
  { kind := k, who := who, data := 0, mask := 0, pois := false, aged := false }

/-- Whether a cache key names a coherent agent that may make an allocating request for a line (R20, R371): a core with its L2
enabled, no home of the line still sweeping for it (R351, R385); a bay only for a block that its cache region has allocated
(R270, R271). -/
def mayAllocate (s : Mach) (k line : Nat) : Bool :=
  (decide (k < 96) && bit (smapGet 0 (getCore s k).csr 0x7C0) 3 && !departed s (homeOf s (line * 64)) k) ||
  (decide (102 ≤ k) && decide (k ≤ 105)) ||
  (decide (128 ≤ k) && bayPresent s (k - 128)
    && (getBay s (k - 128)).creg.blocks.any (fun p => decide (p.2 = line / 64 + 1)))

/-- A core's read that its die's last-level cache serves from a clean copy of a line homed elsewhere (R374). -/
def llcServes (s : Mach) (k line : Nat) : Bool :=
  decide (k < 96) && holds s (llcKey (coreDieOf k)) line && decide (getDir s line).txn.isNone
    && !((getDir s line).owned)

/-- Another bay of a bay's die that holds a line, inside coherence. -/
def dieMate (s : Mach) (k line : Nat) : Option Nat :=
  if 128 ≤ k then (keysOf (posOf k)).find? (fun j => decide (j ≠ k) && holds s j line) else none

/-- The other bays of a bay's die give up a line that the bay has won. -/
def dropMates (s : Mach) (k line : Nat) : Mach :=
  if 128 ≤ k then
    foldS ((keysOf (posOf k)).filter (fun j => decide (j ≠ k) && holds s j line))
      (fun t j => putHeld t j line HLine.none) s
  else s

/-- A line forwarded between two bays of a die by its agent (R271, R272): a read leaves both Shared, a Modified line
being written back first; ownership moves from an owning bay to the other. -/
def dieForward (s : Mach) (k j line : Nat) (own : Bool) : Mach :=
  let h := getHeld s j line
  let s := bump s .LFT_DFWD ((k - 128) / 12) 0 63 0 1
  if own then dropMates (putHeld s k line { h with wonUntil := 0 }) k line
  else
    let s := if h.st = 3 then rawWrite s line h.data fullMask h.pois else s
    let s := if 2 ≤ h.st then modDir s line (fun e => { e with owned := false }) else s
    let c : HLine := { h with st := 1, wonUntil := 0 }
    putHeld (putHeld s j line c) k line c

/-- READ_ALLOCATING (R374, R376). -/
def readAllocating (s : Mach) (k line : Nat) : Mach :=
  if mayAllocate s k line = false ∨ holds s k line then s
  else if (dieMate s k line).isSome ∧ (getDir s line).txn.isNone then
    dieForward s k ((dieMate s k line).getD 0) line false
  else if llcServes s k line then
    let l := llcKey (coreDieOf k)
    let h := getHeld s l line
    let s := putHeld s l line { h with mask := h.mask ||| posBit (k % 48) }
    putHeld s k line { HLine.none with st := 1, data := h.data, pois := h.pois }
  else request s line (plainReq .readAlloc k) 0

def execReadAllocating (who : Fin 200) (line : Fin (2 ^ 42)) (s : State) : Host.Outcome State Fault Refusal :=
  onMach s (fun s => readAllocating s who line)

/-- READ_FOR_OWNERSHIP (R376): read for ownership, or upgrade from Shared. -/
def readForOwnership (s : Mach) (k line : Nat) : Mach :=
  let mate := (dieMate s k line).getD 0
  if mayAllocate s k line = false ∨ (holds s k line ∧ 2 ≤ (getHeld s k line).st) then s
  else if (dieMate s k line).isSome ∧ 2 ≤ (getHeld s mate line).st ∧ (getDir s line).txn.isNone then
    dieForward s k mate line true
  else request s line (plainReq .readOwn k) 0

def execReadForOwnership (who : Fin 200) (line : Fin (2 ^ 42)) (s : State) : Host.Outcome State Fault Refusal :=
  onMach s (fun s => readForOwnership s who line)

/-- A non-allocating access is checked at the home's controller before it is admitted (R462, R463, R283). -/
def ncRequest (s : Mach) (mid line : Nat) (wrt : Bool) (r : HomeReq) : Mach :=
  let a := line * 64
  let c := checkedAs s mid none
  let g := rightsAt s c a
  if isMain s a = false then s
  else if (if wrt then g.write else g.read) = false then refuseMem s mid c 0 a
  else if wrt ∧ writeLocked s c a then
    (match region s a with | .granary o => grnErr s o 2 | _ => s)
  else request (countBytes s a 64 (if wrt then .write else .read) (ownerOf s mid none)) line r 0

/-- NON_ALLOCATING_READ (R376). -/
def nonAllocatingRead (s : Mach) (mid line : Nat) : Mach :=
  ncRequest s mid line false (plainReq .ncRead (256 + mid))

def execNonAllocatingRead (mid : Mid) (line : Fin (2 ^ 42)) (s : State) : Host.Outcome State Fault Refusal :=
  onMach s (fun s => nonAllocatingRead s mid line)

/-- NON_ALLOCATING_FULL_WRITE (R376). -/
def nonAllocatingFullWrite (s : Mach) (mid line : Nat) (d : Line) (p : Bool) : Mach :=
  ncRequest s mid line true
    { kind := .ncFull, who := 256 + mid, data := d, mask := fullMask, pois := p, aged := false }

def execNonAllocatingFullWrite (mid : Mid) (line : Fin (2 ^ 42)) (data : Line) (p : Bool) (s : State) :
    Host.Outcome State Fault Refusal :=
  onMach s (fun s => nonAllocatingFullWrite s mid line data p)

/-- NON_ALLOCATING_PARTIAL_WRITE (R376). -/
def nonAllocatingPartialWrite (s : Mach) (mid line : Nat) (d : Line) (m : Nat) (p : Bool) : Mach :=
  ncRequest s mid line true
    { kind := .ncPart, who := 256 + mid, data := d, mask := m, pois := p, aged := false }

def execNonAllocatingPartialWrite (mid : Mid) (line : Fin (2 ^ 42)) (data : Line) (bytes : BitVec 64) (p : Bool)
    (s : State) : Host.Outcome State Fault Refusal :=
  onMach s (fun s => nonAllocatingPartialWrite s mid line data bytes.toNat p)

/-- The agent of a position answers the snoop of the line's transaction. -/
def answerTxn (s : Mach) (pos line : Nat) : Mach :=
  match (getDir s line).txn with
  | none => s
  | some t =>
    let a := answerSnoop s pos line t.req.kind t.req.who
    let t' := { t with snoops := t.snoops.filter (fun p => decide (p ≠ pos)),
                       delayed := t.delayed.filter (fun p => decide (p ≠ pos)), resps := t.resps ++ [(pos, a.1)] }
    modDir a.2 line (fun e => { e with txn := some t' })

/-- SNOOP (R376, R380): the agent answers, or holds its answer until its hold window ends. -/
def snoop (s : Mach) (pos line : Nat) : Mach :=
  match (getDir s line).txn with
  | none => s
  | some t =>
    if t.snoops.contains pos = false then s
    else if s.now < windowEnd s pos line t.req.kind then
      let t' := { t with snoops := t.snoops.filter (fun p => decide (p ≠ pos)), delayed := t.delayed ++ [pos] }
      let s := bump (modDir s line (fun e => { e with txn := some t' })) .COH_CROSS (homeOf s (line * 64)) 0 31 0 1
      if 96 ≤ pos ∧ pos ≤ 101 then bump s .COH_CA_COUNT (pos - 96) 0 31 0 1 else s
    else answerTxn s pos line

def execSnoop (pos : Fin 108) (line : Fin (2 ^ 42)) (s : State) : Host.Outcome State Fault Refusal :=
  onMach s (fun s => snoop s pos line)

/-- HOLD_WINDOW_END (R380): the delayed snoop is answered at the end of the window. -/
def holdWindowEnd (s : Mach) (pos line : Nat) : Mach :=
  match (getDir s line).txn with
  | none => s
  | some t =>
    if t.delayed.contains pos then answerTxn (advanceTo s (windowEnd s pos line t.req.kind)) pos line else s

def execHoldWindowEnd (pos : Fin 108) (line : Fin (2 ^ 42)) (s : State) : Host.Outcome State Fault Refusal :=
  onMach s (fun s => holdWindowEnd s pos line)

/-- A held write-back whose line a snoop response has carried is discarded and acknowledged with STALE (R381). -/
def staleWb (s : Mach) (line : Nat) : Mach :=
  match (getDir s line).wbHeld with
  | none => s
  | some k =>
    let s := putHeld s k line (let h := getHeld s k line; { h with acked := true })
    modDir s line (fun e => { e with wbHeld := none })

/-- The home takes one snoop response; an owner that answers MISS with no held write-back has lost the line (R382). -/
def takeResponse (s : Mach) (pos line : Nat) : Mach :=
  match (getDir s line).txn with
  | none => s
  | some t =>
    match t.resps.find? (fun r => decide (r.1 = pos)) with
    | none => s
    | some r =>
      let e := getDir s line
      let rest := t.resps.filter (fun q => decide (q.1 ≠ pos))
      let lost := e.owned && e.pres.testBit pos && decide (r.2 = .miss) && e.wbHeld.isNone
      let t := { t with resps := rest }
      let t := match r.2 with
        | .data l p m _ => { t with got := true, line := l, pois := p, wasM := m }
        | _ => t
      let s := if lost then homeErr (setLinePois s line true) line 1 pos else s
      let e := getDir s line
      let keep := match r.2 with
        | .miss => false
        | .data _ _ _ true => false
        | _ => !t.inval
      let s := modDir s line (fun _ =>
        { e with txn := some t, pres := if keep then e.pres else e.pres &&& (2 ^ 128 - 1 - posBit pos) })
      if t.snoops = [] ∧ t.delayed = [] ∧ rest = [] ∧ t.stage = 0 then staleWb (serve s line t) line else s

/-- SNOOP_RESPONSE (R381, R382). -/
def execSnoopResponse (pos : Fin 108) (line : Fin (2 ^ 42)) (s : State) : Host.Outcome State Fault Refusal :=
  onMach s (fun s => takeResponse s pos line)

/-- GRANT (R380): the requester receives its data and state, its hold window starts, and its completion acknowledgement
leaves. A last-level cache keeps a copy of a Shared grant to one of its cores of a line homed elsewhere (R374). -/
def grant (s : Mach) (k line : Nat) : Mach :=
  match (getDir s line).txn with
  | none => s
  | some t =>
    if t.stage ≠ 1 ∨ t.req.who ≠ k then s
    else
      let h : HLine := { HLine.none with st := t.grant, data := t.line, pois := t.pois,
                                         wonUntil := if 2 ≤ t.grant then s.now + holdTicks s k else 0 }
      let s := putHeld (if 2 ≤ t.grant then dropMates s k line else s) k line h
      let l := llcKey (coreDieOf k)
      let fill := decide (k < 96) && decide (t.grant = 1) && decide (homeOf s (line * 64) ≠ 4 + coreDieOf k)
      let s := if fill then putHeld s l line { HLine.none with st := 1, data := t.line, pois := t.pois } else s
      modDir s line (fun e => { e with txn := some { t with stage := 2, got := false },
                                       pres := if fill then e.pres ||| posBit l else e.pres })

def execGrant (who : Fin 200) (line : Fin (2 ^ 42)) (s : State) : Host.Outcome State Fault Refusal :=
  onMach s (fun s => grant s who line)

/-- COMPLETION_ACK (R377): BUSY ends and the next queued request is admitted. -/
def completionAck (s : Mach) (line : Nat) : Mach :=
  match (getDir s line).txn with
  | none => s
  | some t =>
    if t.stage ≠ 2 then s
    else
      let q := (getDir s line).queue
      let s := modDir s line (fun e => { e with txn := none, queue := q.tail })
      match q with
      | [] => s
      | r :: _ => enterHome s line r

def execCompletionAck (line : Fin (2 ^ 42)) (s : State) : Host.Outcome State Fault Refusal := onMach s (fun s => completionAck s line)

/-- RETRY (R378, R379): a refused request is resent, with its aged mark after 8 refusals. -/
def resend (s : Mach) (i : Nat) : Mach :=
  match s.retries[i]? with
  | none => s
  | some q =>
    let s := { s with retries := s.retries.eraseIdx i }
    let age := decide (8 ≤ q.count) && !q.req.aged
    let s := if age then bump s .COH_AGED (homeOf s (q.line * 64)) 0 63 32 1 else s
    request s q.line (if age then { q.req with aged := true } else q.req) q.count

def execRetry (i : Nat) (s : State) : Host.Outcome State Fault Refusal := onMach s (fun s => resend s i)

/-! ### Write-backs (R381) -/

/-- Whether an HD8 reservation pins a line in a core's L2 (R357). -/
def pinned (s : Mach) (k line : Nat) : Bool :=
  decide (k < 96) && (match (getCore s k).resv with | some r => r.2.2.2 && overlaps r.1 r.2.1 (line * 64) 64 | none => false)

/-- The eviction of a reserved line ends a native reservation (R359). -/
def evictResv (s : Mach) (k line : Nat) : Mach :=
  if k < 96 then modCore s k (fun c => match c.resv with
    | some r => if overlaps r.1 r.2.1 (line * 64) 64 then { c with resv := none } else c
    | none => c)
  else s

/-- WRITE_BACK (R381): a line leaves a cache through its write-back buffer. The home writes Modified data, clears the
agent's bit and acknowledges with DONE; with a snoop to the agent outstanding it holds the write-back. A line held Shared
is dropped silently (R372). -/
def writeBack (s : Mach) (k line : Nat) : Mach :=
  let h := getHeld s k line
  let s := if pinned s k line then s else evictResv s k line
  if h.st = 0 ∨ h.orphan ∨ h.acked ∨ pinned s k line = true then s
  else if h.st = 1 then (if h.mask = 0 then putHeld s k line HLine.none else s)
  else
    let e := getDir s line
    let s := putHeld s k line { h with wb := true }
    let outstanding := match e.txn with
      | some t => t.snoops.contains (posOf k) || t.delayed.contains (posOf k)
          || t.resps.any (fun r => decide (r.1 = posOf k))
      | none => false
    if outstanding then modDir s line (fun e => { e with wbHeld := some k })
    else
      let s := if h.st = 3 then rawWrite s line h.data fullMask h.pois else s
      let s := modDir s line (fun e =>
        { e with owned := false, pres := e.pres &&& (2 ^ 128 - 1 - posBit (posOf k)) })
      putHeld s k line (let h := getHeld s k line; { h with acked := true })

def execWriteBack (who : Fin 200) (line : Fin (2 ^ 42)) (s : State) : Host.Outcome State Fault Refusal :=
  onMach s (fun s => writeBack s who line)

/-- Whether the L2 of a core is being disabled: its written-back lines stay, valid and clean, outside coherence (R351). -/
def l2Disabling (s : Mach) (k : Nat) : Bool :=
  decide (k < 96) && bit (smapGet 0 (getCore s k).csr 0x7C0) 4

/-- WB_ACK (R381): DONE or STALE frees the write-back buffer. -/
def wbAck (s : Mach) (k line : Nat) : Mach :=
  let h := getHeld s k line
  if h.wb ∧ h.acked then
    if l2Disabling s k then putHeld s k line { HLine.none with st := 1, data := h.data, pois := h.pois, orphan := true }
    else putHeld s k line HLine.none
  else s

def execWbAck (who : Fin 200) (line : Fin (2 ^ 42)) (s : State) : Host.Outcome State Fault Refusal := onMach s (fun s => wbAck s who line)

/-- PRESENCE_TRANSFER (R374): a last-level cache that evicts a copy hands its masked cores to the home. -/
def presenceTransfer (s : Mach) (d line : Nat) : Mach :=
  let k := llcKey d
  if holds s k line then
    let m := (getHeld s k line).mask
    let s := putHeld s k line HLine.none
    modDir s line (fun e =>
      { e with pres := (e.pres &&& (2 ^ 128 - 1 - posBit k)) ||| m * 2 ^ (48 * d) })
  else s

def execPresenceTransfer (d : Fin 2) (line : Fin (2 ^ 42)) (s : State) : Host.Outcome State Fault Refusal :=
  onMach s (fun s => presenceTransfer s d line)

/-- SNOOP_TMO (R383): a snoop unanswered for SNOOP_TMO × 4,096 ACYC is recorded; the home keeps waiting. -/
def snoopTmo (s : Mach) (line : Nat) : Mach :=
  match (getDir s line).txn with
  | none => s
  | some t =>
    let h := homeOf s (line * 64)
    let tmo := rf s .COH_HCFG h 0 15 0
    match t.snoops ++ t.delayed with
    | [] => s
    | p :: _ => if tmo = 0 then s else homeErr (advanceTo s (t.sentAt + tmo * 4096 * acyc)) line 2 p

def execSnoopTmo (line : Fin (2 ^ 42)) (s : State) : Host.Outcome State Fault Refusal := onMach s (fun s => snoopTmo s line)

/-- DIR_UE (R384): every position is invalidated and the line is poisoned in memory. -/
def dirUe (s : Mach) (line : Nat) : Mach :=
  if isMain s (line * 64) then
    let s := foldS (List.range 108) (fun t p => (answerSnoop t p line .ncFull 511).2) s
    let s := { s with dir := smapPut DirEnt.zero s.dir line DirEnt.zero }
    let s := bump s .COH_DIRECC (homeOf s (line * 64)) 0 63 32 1
    homeErr (setLinePois s line true) line 3 0
  else s

def execDirUe (line : Fin (2 ^ 42)) (s : State) : Host.Outcome State Fault Refusal := onMach s (fun s => dirUe s line)

/-- The DEPARTn bit of a position at a home. -/
def setDepart (s : Mach) (home pos : Nat) (v : Bool) : Mach :=
  if pos < 64 then wb s .COH_DEPART0 home 0 pos v else wb s .COH_DEPART1 home 0 (pos - 64) v

/-- Whether the L2 of a core has a write-back that its home has not acknowledged. -/
def wbPending (s : Mach) (c : Nat) : Bool :=
  s.held.any (fun p => decide (p.1 / lineSpan = c) && (p.2.wb || decide (p.2.st = 3)) && !p.2.orphan)

/-- The end of an L2 disable (R351, R385): L2_DPEND returns to 0 when every home has set the DEPARTn bit. The lines stay in
the cache, unknown to every home. -/
def l2DisableDone (s : Mach) (c : Nat) : Mach :=
  if l2Disabling s c && (List.range 6).all (fun h => departed s h c) then
    let s := { s with held := s.held.map (fun p => if p.1 / lineSpan = c then (p.1, { p.2 with orphan := true }) else p) }
    modCore s c (fun x => { x with csr := smapPut 0 x.csr 0x7C0 (setBit (smapGet 0 x.csr 0x7C0) 4 false) })
  else s

/-- DEPART (R385): the home masks the position of a core whose L2 leaves coherence and begins its sweep. -/
def depart (s : Mach) (c home : Nat) : Mach :=
  if l2Disabling s c ∧ wbPending s c = false then l2DisableDone (setDepart s home c true) c else s

def execDepart (core : CoreNo) (home : Fin 6) (s : State) : Host.Outcome State Fault Refusal := onMach s (fun s => depart s core home)

/-- DEPART_SWEEP_COMPLETE (R385): the position is cleared in every entry of the home and DEPARTn clears. -/
def departSweepComplete (s : Mach) (c home : Nat) : Mach :=
  if departed s home c then
    let s := { s with dir := s.dir.filterMap (fun p =>
      if homeOf s (p.1 * 64) = home then
        let pr := p.2.pres &&& (2 ^ 128 - 1 - posBit c)
        let e := { p.2 with pres := pr, owned := p.2.owned && decide (pr ≠ 0) }
        if e = DirEnt.zero then none else some (p.1, e)
      else some p) }
    setDepart s home c false
  else s

def execDepartSweepComplete (core : CoreNo) (home : Fin 6) (s : State) : Host.Outcome State Fault Refusal :=
  onMach s (fun s => departSweepComplete s core home)

/-! ### Whole accesses at the home -/

/-- A transaction in progress brought to its end: its remaining snoops, responses, grant and acknowledgement. An access
that another family makes in one step takes its place in the coherence order after it. -/
def finishTxn (s : Mach) (line : Nat) : Mach :=
  match (getDir s line).txn with
  | none => s
  | some t =>
    let s := foldS (t.snoops ++ t.delayed) (fun u p => answerTxn (advanceTo u (windowEnd u p line t.req.kind)) p line) s
    let ps := match (getDir s line).txn with | some t => t.resps.map (fun r => r.1) | none => []
    let s := foldS ps (fun u p => takeResponse u p line) s
    completionAck (grant s t.req.who line) line

/-- Every transaction queued on a line, in the home's order (R377): at most 16 wait behind the one in progress. -/
def settleLine (s : Mach) (line : Nat) : Mach := (List.range 17).foldl (fun t _ => finishTxn t line) s

/-- A non-allocating write of bytes of a line performed at its home in one step (R376): holders are invalidated, an
owner's data is pulled to memory for a partial write. -/
def homeWrite (s : Mach) (line : Nat) (d : Line) (mask : Nat) (p : Bool) : Mach :=
  let s := settleLine s line
  let v := cohLine s line
  let own := (ownerKey s line).isSome
  let s := foldS (marked s line) (fun t q => (answerSnoop t q line .ncPart 511).2) s
  let s := if own ∧ mask % 2 ^ 64 ≠ fullMask then rawWrite s line v.1 fullMask v.2 else s
  let s := modDir s line (fun e => { e with owned := false, pres := 0 })
  breakResv (rawWrite s line d mask p) line mask none

/-- A non-allocating read of a line performed at its home (R376): the owner forwards a copy and keeps its state. -/
def homeRead (s : Mach) (line : Nat) : Line × Bool := cohLine s line

/-! ### Bytes of main memory through coherence -/

/-- `n` bytes from an address on in the coherent view, with whether any of them lies in a poisoned line. -/
def cohBytes (s : Mach) (a n : Nat) : List Byte × Bool :=
  let bytes := (List.range n).map (fun i =>
    let l := (cohLine s ((a + i) / 64)).1
    BitVec.ofNat 8 (fld l (8 * ((a + i) % 64) + 7) (8 * ((a + i) % 64))))
  let ls := if n = 0 then [] else (List.range ((a + n - 1) / 64 + 1 - a / 64)).map (fun i => a / 64 + i)
  (bytes, ls.any (fun l => (cohLine s l).2))

/-- The little-endian number at an address in the coherent view, with poison. -/
def cohNat (s : Mach) (a n : Nat) : Nat × Bool :=
  let b := cohBytes s a n
  (ofBytes b.1, b.2)

/-- A row of bytes written at an address through the homes, line by line. -/
def cohWrite (s : Mach) (a : Nat) (bs : List Byte) (p : Bool) : Mach :=
  let n := bs.length
  if n = 0 then s
  else
    let v := ofBytes bs
    let ls := (List.range ((a + n - 1) / 64 + 1 - a / 64)).map (fun i => a / 64 + i)
    foldS ls (fun t l =>
      let lo := max a (l * 64)
      let hi := min (a + n) (l * 64 + 64)
      let part := v / 2 ^ (8 * (lo - a)) % 2 ^ (8 * (hi - lo))
      homeWrite t l (BitVec.ofNat 512 (part * 2 ^ (8 * (lo - l * 64))))
        ((2 ^ (hi - lo) - 1) * 2 ^ (lo - l * 64)) p) s

end Sys2Proof.Machine
end

