-- ==== Sys2Proof/Machine/Loft.lean ====
section
/-! DEFINITION. The loft slice as units reach it: bytes, poison granules, fence refusals and errors (R261 to R269), the
accesses that planned operations make FCLK by FCLK (R263), and the loft reads of the bale movers (R302). -/

namespace Sys2Proof.Machine

/-- One byte of a bay's slice. -/
def loftByte (s : Mach) (b off : Nat) : Byte := byteAt s.loft (loftIx b off)

/-- Whether the granule of a slice offset is poisoned. -/
def granPois (s : Mach) (b off : Nat) : Bool := smapGet false s.loftPois (loftIx b off / 64)

def setGranPois (s : Mach) (b off : Nat) (p : Bool) : Mach :=
  { s with loftPois := smapPut false s.loftPois (loftIx b off / 64) p }

/-- Offsets of the granules that `[off, off + n)` meets. -/
def granules (off n : Nat) : List Nat :=
  if n = 0 then [] else (List.range ((off + n - 1) / 64 + 1 - off / 64)).map (fun i => (off / 64 + i) * 64)

/-- Whether any granule of a range is poisoned. -/
def rangePois (s : Mach) (b off n : Nat) : Bool := (granules off n).any (fun g => granPois s b g)

/-- Units reading and writing the slice: counters of R568 and R569. -/
def countLoftRead (s : Mach) (b n : Nat) : Mach :=
  bumpAo (countEv s b 0x07 n) (compDieId (dieOf b)) 3 (ceilDiv n 64)
def countLoftWrite (s : Mach) (b n : Nat) : Mach :=
  bumpAo (countEv s b 0x08 n) (compDieId (dieOf b)) 3 (ceilDiv n 64)

/-! ### Errors (R264, R267, R286) -/

/-- LFT_ERR records the first error; it raises a record unless the requester records the refusal itself (R267). -/
def lftErr (s : Mach) (b code off tid : Nat) (raises : Bool) : Mach :=
  let s := recordFirst s .LFT_ERR b 0 (packFlds [(57, 48, tid), (47, 40, code), (24, 0, off)])
  let s := if code = 2 then bump s .LFT_CONF b 0 31 16 1 else s
  if raises then
    let cls := if code = 1 ∨ code = 2 then 1 else if code = 3 then 2 else 8
    let r := bayRec s b cls code 5 (if code = 5 then 0 else off) (some tid)
    raiseBay s b (if code = 3 then r.poisoned else r)
  else s

/-- The code of a fence refusal: FENCE when the carried TID is the current slice tenant, else FENCE_STALE (R267). -/
def fenceCode (s : Mach) (b tid : Nat) : Nat := if (getSeq s b).tid = some tid then 1 else 2

/-- A planned unit's access refused by the fence: LFT_ERR without a record, furrow error FENCE (R93, R267). -/
def fenceError (s : Mach) (b stream off : Nat) : Mach :=
  let t := (getSeq s b).tid.getD 0
  furrowErr (lftErr s b (fenceCode s b t) off t false) b stream eFence

/-- Whether an access that carries a TID passes the fence (R267). -/
def fencePass (s : Mach) (b off n tid : Nat) : Bool := decide ((getSeq s b).tid = some tid) && fenceOk s b off n

/-- Bit k: the bank groups that `[off, off + n)` meets (R261). -/
def bankGroups (off n : Nat) : Nat :=
  (granules off n).foldl (fun m g => m ||| 2 ^ (g / 512 % 8)) 0

/-! ### Planned accesses (R263) -/

/-- A planned operation will move these bytes, one entry per FCLK, from `start` on. Operations that are over are
dropped. -/
def loftUse (s : Mach) (b : Nat) (u : LoftUse) : Mach :=
  if u.beats = [] then s
  else modBay s b (fun x =>
    { x with luse := x.luse.filter (fun v => decide (u.start < v.start + v.beats.length + 4096)) ++ [u] })

/-- Consecutive accesses of 512 B to `n` bytes at an offset. -/
def rowBeats (off n : Nat) : List (Nat × Nat) :=
  (List.range (ceilDiv n 512)).map (fun i => (off + 512 * i, min 512 (n - 512 * i)))

/-! ### Loft reads of the bale movers (R302, R311) -/

def getMov (s : Mach) (b : Nat) : Mov := (getBay s b).mov

def modMov (s : Mach) (b : Nat) (f : Mov → Mov) : Mach := modBay s b (fun x => { x with mov := f x.mov })

def getMove (s : Mach) (b id : Nat) : Option Move := (getMov s b).moves.find? (fun m => decide (m.id = id))

def modMove (s : Mach) (b id : Nat) (f : Move → Move) : Mach :=
  modMov s b (fun x => { x with moves := x.moves.map (fun m => if m.id = id then f m else m) })

/-- MOV_ERR and MOV_ERRDESC keep the first error; every error raises a record (R314). The move completes with P = 1. -/
def movErr (s : Mach) (b : Nat) (m : Move) (code : Nat) : Mach :=
  let first := !(rb s .MOV_ERR b 0 63)
  let s := recordFirst s .MOV_ERR b 0
    (packFlds [(57, 48, m.tid), (47, 47, m.mover), (46, 46, m.flex.toNat), (39, 8, m.at_ / 64), (7, 0, code)])
  let s := if first then wr s .MOV_ERRDESC b 0 (packFlds [(47, 6, m.at_ / 64)]) else s
  let s := modMove s b m.id (fun m => { m with pois := true, err := if m.err = 0 then code else m.err })
  raiseBay s b (bayRec s b 8 code 4 (m.at_ % 2 ^ 48) (some m.tid))

/-- The bytes of a move's rows that lie in a block: key and bytes. -/
def blockPieces (rows : List (Nat × Nat)) (blk : Nat) : List (Nat × Nat) :=
  rows.filterMap (fun r =>
    let lo := max r.1 (blk * 512)
    let hi := min (r.1 + r.2) (blk * 512 + 512)
    if lo < hi then some (lo, hi - lo) else none)

/-- The rows of a move's source: key and bytes. -/
def srcRows (d : Line) : List (Nat × Nat) :=
  if dHusk d then [(dSrc d, dAux d % 2 ^ 32)] else (srcSide d).rows.map (fun r => r.2.2)

/-- Whether a byte offset lies in the banks that the open window lends (R227). -/
def lentBank (s : Mach) (b off n : Nat) : Bool :=
  match (getSeq s b).win with
  | some w => w.isOpen && decide (bankGroups off n &&& w.bankgrp = bankGroups off n)
  | none => false

/-- Whether a move is a thread-issued one whose loft accesses the end of its window suppresses (R310). -/
def moveCut (s : Mach) (b : Nat) (m : Move) : Bool :=
  m.flex && (match (getSeq s b).win with
    | some w => !w.isOpen || decide (w.last < edgeOf s b)
    | none => true)

/-- A thread-issued move is cut (R310): counted once. -/
def cutMove (s : Mach) (b : Nat) (m : Move) : Mach :=
  if m.cut then s
  else
    let s := bump s .MOV_COUNT b 0 63 48 1
    movErr (modMove s b m.id (fun m => { m with cut := true })) b m 8

/-- A mover reads a block of its own bay's loft: fenced bytes read as zeros marked poisoned, one record a refused
access (R267, R311). -/
def readLoftBeat (s : Mach) (b : Nat) (m : Move) (blk : Nat) : Mach :=
  if m.got.any (fun g => decide (g.blk = blk)) then s
  else
    let ps := blockPieces (srcRows m.desc) blk
    let cut := moveCut s b m
    let bad := fun (p : Nat × Nat) => cut || !(fencePass s b (p.1 % 2 ^ 40) p.2 m.tid)
    let good := ps.filter (fun p => !bad p)
    let byte := fun i =>
      let k := blk * 512 + i
      if good.any (fun p => decide (p.1 ≤ k) && decide (k < p.1 + p.2)) then loftByte s b (k % 2 ^ 40) else 0
    let pois := (List.range 8).foldl (fun a g =>
      let lo := blk * 512 + 64 * g
      if (ps.any (fun p => bad p && overlaps p.1 p.2 lo 64)) || granPois s b (lo % 2 ^ 40) then a + 2 ^ g else a) 0
    let n := good.foldl (fun a p => a + p.2) 0
    let s := modMove (countEv (countLoftRead s b n) b 0x0A n) b m.id (fun m =>
      { m with got := m.got ++ [{ blk := blk, bytes := (List.range 512).map byte, pois := pois, left := 0 }] })
    match ps.find? bad with
    | none => s
    | some p =>
      if cut then cutMove s b m
      else movErr (lftErr s b (fenceCode s b m.tid) (p.1 % 2 ^ 40) m.tid false) b m 7

/-- Every loft read that is due by now is made, before a write of this FCLK (R263, R302). -/
def catchUp (s : Mach) (b : Nat) : Mach :=
  let e := edgeOf s b
  foldS ((getMov s b).moves.filter (fun m => decide (keyKind (dSrc m.desc) = 0 ∨ keyKind (dSrc m.desc) = 3))) (fun t m =>
    match baleAddr t.route.nodeId (dSrc m.desc) with
    | .loft _ _ =>
      foldS ((srcBeats m.desc).take (e + 1 - (m.p + m.late))) (fun u blk =>
        match getMove u b m.id with
        | some m => readLoftBeat u b m blk
        | none => u) t
    | _ => t) s

/-! ### Writes (R263, R269) -/

/-- Bytes written where the mask has a 1: a granule written whole takes the poison of the data, one written in part keeps
a set poison bit (R269). `pois` has a bit per granule of the range. -/
def loftPut (s : Mach) (b off : Nat) (bs : List Byte) (mask pois : Nat) : Mach :=
  let n := bs.length
  let s := if (getMov s b).moves = [] then s else catchUp s b
  let s := { s with loft := writeMasked s.loft (loftIx b off) mask bs }
  foldS ((granules off n).zipIdx) (fun t g =>
    let lo := max off g.1
    let hi := min (off + n) (g.1 + 64)
    let part := mask / 2 ^ (lo - off) % 2 ^ (hi - lo)
    if part = 0 then t
    else
      let full := decide (hi - lo = 64) && decide (part = fullMask)
      let p := pois.testBit g.2
      setGranPois t b g.1 (if full then p else granPois t b g.1 || p)) s

/-- A row of bytes written whole, with one poison mark. -/
def loftWrite (s : Mach) (b off : Nat) (bs : List Byte) (p : Bool) : Mach :=
  loftPut s b off bs (2 ^ bs.length - 1) (if p then 2 ^ (bs.length / 64 + 2) - 1 else 0)

end Sys2Proof.Machine
end

