-- ==== Sys2Proof/Machine/Phys.lean ====
section
/-! DEFINITION. Accesses to local physical addresses as agents make them: main memory through coherence, planned regions
through the loft window (R268, R276, R462, R465). -/

namespace Sys2Proof.Machine

/-- The line addresses that `[a, a + n)` meets. -/
def lineAddrs (a n : Nat) : List Nat :=
  if n = 0 then [] else (List.range ((a + n - 1) / 64 + 1 - a / 64)).map (fun i => (a / 64 + i) * 64)

/-- Whether an address lies in a window but past the planned region: an access error (R268). -/
def pastPlanned (s : Mach) (a : Nat) : Bool :=
  match region s a with
  | .window b off => bayPresent s b && decide (plannedSize s b ≤ off)
  | _ => false

/-- The first line of a range that the access tables refuse to a checked master. -/
def physDenied (s : Mach) (c : Checked) (a n : Nat) (wrt : Bool) : Option Nat :=
  (lineAddrs a n).find? (fun l =>
    let g := rightsAt s c l
    !(if wrt then g.write else g.read) || pastPlanned s l || (wrt && writeLocked s c l))

/-- The report of a refused access (R465, R283): a locked line records WRITE_RO at its controller. -/
def physRefuse (s : Mach) (mid : Nat) (c : Checked) (tid a : Nat) (wrt : Bool) : Mach :=
  let g := rightsAt s c a
  if (if wrt then g.write else g.read) && writeLocked s c a then
    (match region s a with | .granary o => grnErr s (o / 64 * 64) 2 | _ => s)
  else refuseMem s mid c tid a

/-- `n` bytes at a local physical address, with poison. The window of an absent bay reads 0. -/
def physRead (s : Mach) (a n : Nat) : List Byte × Bool :=
  match region s a with
  | .window b off =>
    if bayPresent s b then ((List.range n).map (fun i => loftByte s b (off + i)), rangePois s b off n)
    else (List.replicate n 0, false)
  | _ => if isMain s a then cohBytes s a n else (List.replicate n 0, false)

/-- Bytes written at a local physical address. -/
def physWrite (s : Mach) (a : Nat) (bs : List Byte) (p : Bool) : Mach :=
  match region s a with
  | .window b off => if bayPresent s b then loftWrite (countLoftWrite s b bs.length) b off bs p else s
  | _ => if isMain s a then cohWrite s a bs p else s

/-- A read checked line by line: none where any line is refused, with the report of the refusal. -/
def readAs (s : Mach) (mid : Nat) (proxy : Option Nat) (tid a n : Nat) : Option (List Byte × Bool) × Mach :=
  let c := checkedAs s mid proxy
  match physDenied s c a n false with
  | some l => (none, physRefuse s mid c tid l false)
  | none => (some (physRead s a n), foldS (lineAddrs a n) (fun t l => countBytes t l (min n 64) .read (ownerOf t mid (some tid))) s)

/-- A write checked line by line: nothing is written where any line is refused. Answers whether it was made. -/
def writeAs (s : Mach) (mid : Nat) (proxy : Option Nat) (tid a : Nat) (bs : List Byte) (p : Bool) : Bool × Mach :=
  let c := checkedAs s mid proxy
  match physDenied s c a bs.length true with
  | some l => (false, physRefuse s mid c tid l true)
  | none => (true, physWrite (foldS (lineAddrs a bs.length) (fun t l =>
      countBytes t l (min bs.length 64) .write (ownerOf t mid (some tid))) s) a bs p)

end Sys2Proof.Machine
end

