-- ==== Sys2Proof/Machine/Etr.lean ====
section
/-! DEFINITION. Engine address translation: lookups, walks, page faults and invalidation (chapter 12). Units 0 to 71 are the
bays, 72 to 75 the barn dies; dies 0 to 5 are the compute dies and 6 to 9 the barn dies. -/

namespace Sys2Proof.Machine

open Sys2Proof.Config (acyc)

def getEtr (s : Mach) (u : Nat) : Etr := if u < 72 then (getBay s u).etr else vget Etr.zero s.barnEtr (u - 72)

def modEtr (s : Mach) (u : Nat) (f : Etr → Etr) : Mach :=
  if u < 72 then modBay s u (fun x => { x with etr := f x.etr }) else { s with barnEtr := vmod s.barnEtr (u - 72) f }

def getEtrDie (s : Mach) (d : Nat) : EtrDie := vget EtrDie.zero s.etrDies d

def modEtrDie (s : Mach) (d : Nat) (f : EtrDie → EtrDie) : Mach := { s with etrDies := vmod s.etrDies d f }

/-- The die whose walkers serve a unit. -/
def etrDieOf (u : Nat) : Nat := if u < 72 then u / 12 else 6 + (u - 72)

/-- The die ID of a walker die, and the master ID of its walkers (R461). -/
def etrDieId (d : Nat) : Nat := if d < 6 then compDieId d else barnDieId (d - 6)
def walkerMid (d : Nat) : Nat := 0x1B0 + d

/-! ### Tenant records (R467) -/

def tenValid (s : Mach) (t : Nat) : Bool := rb s .PRT_TEN_A 0 t 63
/-- The partition that a valid record binds a tenant to. -/
def tenPid (s : Mach) (t : Nat) : Option Nat := if tenValid s t then some (rf s .PRT_TEN_A 0 t 61 58) else none
/-- The level-3 table; none without a root (R320). -/
def tenRoot (s : Mach) (t : Nat) : Option Nat :=
  if tenValid s t && rb s .PRT_TEN_A 0 t 62 then some (rf s .PRT_TEN_A 0 t 47 10 * 1024) else none
/-- Whether `[va, va + n)` lies in the crop range of a tenant (R275). -/
def inCrop (s : Mach) (t va n : Nat) : Bool :=
  let lo := rf s .PRT_TEN_B 0 t 47 16 * 65536
  tenValid s t && decide (lo ≤ va) && decide (va + n ≤ lo + rf s .PRT_TEN_C 0 t 32 0 * 65536)

/-! ### Refusals (R318, R329, R337) -/

/-- The right that a KIND needs: R 1, W 2, A 4 (R318). -/
def kindRight (k : Nat) : Nat := match k with | 1 => 2 | 5 => 2 | 2 => 4 | 6 => 4 | _ => 1

def xAnswer (s : Mach) (u : Nat) (r : XReq) (code pa : Nat) : Mach :=
  modEtr s u (fun x => { x with ans := x.ans ++ [{ req := r, code := code, pa := pa }] })

/-- A refused request: its requester hears the code, ETR_ERR of a bay records the first refusal, and every refusal but
OUT_OF_CROP and RIGHTS raises a record. -/
def etrRefuse (s : Mach) (u : Nat) (r : XReq) (code : Nat) : Mach :=
  let s := xAnswer s u r code 0
  let s :=
    if u < 72 then
      if rb s .ETR_ERR u 0 63 then s
      else
        let s := recordFirst s .ETR_ERR u 0 (packFlds [(57, 48, r.tid), (42, 40, r.queue), (34, 32, r.kind), (7, 0, code)])
        wr s .ETR_ERRVA u 0 (packFlds [(47, 0, r.va)])
    else s
  if code ≤ 2 then s
  else if u < 72 then raiseBay s u { bayRec s u 9 code 8 r.va (some r.tid) with region := r.tid }
  else raise s ((mkRec s 9 code 8 r.queue (barnDieId (u - 72)) r.va r.tid).forPart (tenPid s r.tid) r.tid)

/-! ### Translation caches (R325) -/

/-- log2 of the bytes that an entry maps. -/
def teLog (size : Nat) : Nat := match size with | 0 => 16 | 1 => 21 | _ => 29

def tlbSets (u : Nat) : Nat := if u < 72 then 512 else 64

/-- The set of a virtual page: its low bits. DESIGN CHOICE, log entry 23. -/
def tlbSet (u size va : Nat) : Nat := va / 2 ^ teLog size % tlbSets u

/-- The entry that translates an address for a tenant. -/
def tlbFind (x : Etr) (tid va : Nat) : Option (Nat × TEnt) :=
  x.tlb.find? (fun p => decide (p.2.tid = tid) && decide (p.2.vpn = va / 2 ^ teLog p.2.size))

/-- An entry put into its set: an empty way, else the tree pseudo-LRU victim. -/
def tlbPut (u : Nat) (x : Etr) (e : TEnt) : Etr :=
  let set := tlbSet u e.size (e.vpn * 2 ^ teLog e.size)
  let bits := smapGet 0 x.plru set
  let way := match (List.range 8).find? (fun w => x.tlb.all (fun p => decide (p.1 ≠ set * 8 + w))) with
    | some w => w
    | none => plruPick bits (fun _ => true) 3 1 0
  { x with tlb := (set * 8 + way, e) :: x.tlb.filter (fun p => decide (p.1 ≠ set * 8 + way)),
           plru := smapPut 0 x.plru set (plruTouch bits way 3 1) }

/-- An entry used. -/
def tlbTouch (x : Etr) (k : Nat) : Etr :=
  { x with plru := smapPut 0 x.plru (k / 8) (plruTouch (smapGet 0 x.plru (k / 8)) (k % 8) 3 1) }

/-- The physical address under an entry (R323, R324). -/
def tePa (e : TEnt) (va : Nat) : Nat := e.pa + va % 2 ^ teLog e.size

/-- A request answered by an entry: a right that the leaf lacks refuses it (R318). -/
def answerBy (s : Mach) (u : Nat) (e : TEnt) (r : XReq) : Mach :=
  if e.rights &&& kindRight r.kind = 0 then etrRefuse s u r 2 else xAnswer s u r 0 (tePa e r.va)

/-! ### TRANSLATION_LOOKUP (R317, R326) -/

/-- A miss enters its queue, or joins the entry of its page; with 8 entries in the queue the request waits. -/
def enterMiss (s : Mach) (u : Nat) (r : XReq) : Mach :=
  let x := getEtr s u
  let page := r.va / 65536
  match x.misses.find? (fun m => decide (m.queue = r.queue) && decide (m.tid = r.tid) && decide (m.page = page)) with
  | some m0 =>
    let s := modEtr s u (fun x => { x with misses := x.misses.map (fun m => if m = m0 then { m with reqs := m.reqs ++ [r] } else m) })
    (match m0.fault with
     | some k =>
       modEtrDie s (etrDieOf u) (fun d => { d with faults := d.faults.map (fun f =>
         if f.slot = k ∧ f.written.isNone then { f with merged := sat 16 (f.merged + 1) } else f) })
     | none => s)
  | none =>
    if 8 ≤ (x.misses.filter (fun m => decide (m.queue = r.queue))).length then
      modEtr s u (fun x => { x with reqs := x.reqs ++ [r] })
    else
      let m : Miss := { queue := r.queue, tid := r.tid, page := page, reqs := [r], walking := false, fault := none }
      modEtr s u (fun x => { x with misses := x.misses ++ [m] })

/-- TRANSLATION_LOOKUP: the oldest waiting request of a queue is checked against the crop range and looked up. -/
def translationLookup (s : Mach) (u q : Nat) : Mach :=
  match (getEtr s u).reqs.find? (fun r => decide (r.queue = q)) with
  | none => s
  | some r =>
    let s := modEtr s u (fun x => { x with reqs := x.reqs.erase r })
    if inCrop s r.tid r.va r.len = false then etrRefuse s u r 1
    else match tlbFind (getEtr s u) r.tid r.va with
      | some (k, e) =>
        let s := modEtr s u (fun x => tlbTouch x k)
        let s := if u < 72 then bump s .ETR_HITS u 0 63 0 1 else s
        answerBy s u e r
      | none =>
        let s := if u < 72 then countEv (bump s .ETR_MISSES u 0 63 0 1) u 0x12 1 else s
        enterMiss s u r

def execTranslationLookup (u : Fin 76) (q : Fin 8) (s : State) : Host.Outcome State Fault Refusal :=
  onMach s (fun s => translationLookup s u q)

/-! ### Walks (R319 to R322, R327, R328) -/

/-- Lowest VA bit that a level indexes, and the index. -/
def lvlShift (l : Nat) : Nat := match l with | 3 => 41 | 2 => 35 | 1 => 29 | _ => 16
def lvlIndex (l va : Nat) : Nat := va / 2 ^ lvlShift l % (match l with | 3 => 128 | 0 => 8192 | _ => 64)

/-- Level and entry address at which a walk starts: the deepest pointer that the walk cache holds, else the root. -/
def walkStart (s : Mach) (d tid va : Nat) : Option (Nat × Nat) :=
  let hit (l : Nat) := (getEtrDie s d).wc.find? (fun e =>
    decide (e.tid = tid) && decide (e.level = l) && decide (e.va = va / 2 ^ lvlShift l))
  match hit 1, hit 2, hit 3 with
  | some e, _, _ => some (0, e.table + lvlIndex 0 va * 8)
  | _, some e, _ => some (1, e.table + lvlIndex 1 va * 8)
  | _, _, some e => some (2, e.table + lvlIndex 2 va * 8)
  | _, _, _ => (tenRoot s tid).map (fun r => (3, r + lvlIndex 3 va * 8))

/-- Misses of a unit that may be taken. -/
def freeMisses (s : Mach) (u : Nat) : List Miss :=
  (getEtr s u).misses.filter (fun m => !m.walking && m.fault.isNone)

/-- Walks held by a unit. -/
def unitWalks (s : Mach) (u : Nat) : Nat :=
  ((getEtrDie s (etrDieOf u)).walks.filter (fun w => decide (w.unit = u))).length

/-- The next miss of a compute die (R327): queues 0 and 1 of every bay round-robin by bay, then queues 2 to 7 round-robin
by bay and queue, no bay holding more than 4 walkers. The new place of the round-robin comes with it. -/
def pickMiss (s : Mach) (d : Nat) : Option (Nat × Miss) :=
  let x := getEtrDie s d
  let bays := fun (from_ : Nat) => (List.range 12).map (fun i => 12 * d + (from_ + i) % 12)
  let ok := fun u => decide (unitWalks s u < 4)
  let first := (bays x.rrA).findSome? (fun u =>
    if ok u then ((freeMisses s u).find? (fun m => decide (m.queue < 2))).map (fun m => (u, m)) else none)
  match first with
  | some r => some r
  | none =>
    ((List.range 72).map (fun i => (x.rrB + i) % 72)).findSome? (fun k =>
      let u := 12 * d + k / 6
      if ok u then ((freeMisses s u).find? (fun m => decide (m.queue = 2 + k % 6))).map (fun m => (u, m)) else none)

/-- A miss ends: its requests are taken out of the queue. -/
def endMiss (s : Mach) (u queue tid page : Nat) : List XReq × Mach :=
  let hit := fun (m : Miss) => decide (m.queue = queue) && decide (m.tid = tid) && decide (m.page = page)
  let l := (getEtr s u).misses.filter hit
  (l.flatMap Miss.reqs, modEtr s u (fun x => { x with misses := x.misses.filter (fun m => !hit m) }))

/-- Every request of a miss refused. -/
def refuseMiss (s : Mach) (u queue tid page code : Nat) : Mach :=
  let r := endMiss s u queue tid page
  foldS r.1 (fun t q => etrRefuse t u q code) r.2

/-- WALK (R322, R327): a walker takes a miss. -/
def walk (s : Mach) (d : Nat) : Mach :=
  let x := getEtrDie s d
  let pick : Option (Nat × Miss) :=
    if d < 6 then (if x.walks.length < 16 then pickMiss s d else none)
    else ((freeMisses s (72 + (d - 6))).find? (fun m => x.walks.all (fun w => decide (w.queue ≠ m.queue)))).map
      (fun m => (72 + (d - 6), m))
  match pick with
  | none => s
  | some (u, m) =>
    let va := match m.reqs with | r :: _ => r.va | [] => m.page * 65536
    let s := modEtrDie s d (fun x =>
      if m.queue < 2 then { x with rrA := (u % 12 + 1) % 12 } else { x with rrB := (u % 12 * 6 + (m.queue - 2) + 1) % 72 })
    match walkStart s d m.tid va with
    | none => refuseMiss s u m.queue m.tid m.page 9
    | some (l, a) =>
      let s := modEtr s u (fun x => { x with misses := x.misses.map (fun n => if n = m then { n with walking := true } else n) })
      let w : Walk := { unit := u, queue := m.queue, tid := m.tid, page := m.page, level := l, entry := a, start := s.now }
      modEtrDie s d (fun x => { x with walks := x.walks ++ [w] })

def execWalk (die : Fin 10) (s : State) : Host.Outcome State Fault Refusal := onMach s (fun s => walk s die)

/-- Whether a valid entry is malformed at its level (R322). -/
def badEntry (l : Nat) (e : Word) : Bool :=
  let leaf := bit e 1
  let addr := fld e 47 9 * 512
  decide (fld e 63 48 ≠ 0) || decide (fld e 8 6 ≠ 0) ||
  (leaf && decide (2 ≤ l)) || (!leaf && decide (l = 0)) || (bit e 5 && !(leaf && decide (l = 0))) ||
  (if leaf then (if l = 1 then decide (addr % 2 ^ 29 ≠ 0) else decide (addr % 65536 ≠ 0))
   else (if l = 1 then decide (addr % 65536 ≠ 0) else false))

/-- The cached translation of a leaf (R323, R324). -/
def leafEnt (l tid va : Nat) (e : Word) : TEnt :=
  let addr := fld e 47 9 * 512
  let rights := fld e 4 2
  let size := if l = 1 then 2 else if bit e 5 then 1 else 0
  let k := 2 ^ teLog size
  { tid := tid, size := size, vpn := va / k, pa := addr / k * k, rights := rights }

/-- A walk has ended: the walker is free, and its time counts. -/
def endWalk (s : Mach) (d : Nat) (w : Walk) : Mach :=
  let s := modEtrDie s d (fun x => { x with walks := x.walks.erase w })
  if d < 6 then
    let s := bump s .ETR_WALKS d 0 63 0 1
    let t := sat 32 ((s.now - w.start) / acyc)
    if rf s .ETR_WALKMAX d 0 31 0 < t then wf s .ETR_WALKMAX d 0 31 0 t else s
  else s

/-- The requests of a walk's miss. -/
def walkReqs (s : Mach) (w : Walk) : List XReq :=
  ((getEtr s w.unit).misses.filter (fun m =>
    decide (m.queue = w.queue) && decide (m.tid = w.tid) && decide (m.page = w.page))).flatMap Miss.reqs

/-- A page fault of a walk that met V = 0 (R333, R334): it joins an outstanding fault of the page on the die, takes a free
slot, waits while 64 are outstanding, or is refused without a ring. -/
def pageFault (s : Mach) (d : Nat) (w : Walk) : Mach :=
  let x := getEtrDie s d
  let setMiss (s : Mach) (k : Option Nat) : Mach :=
    modEtr s w.unit (fun y => { y with misses := y.misses.map (fun m =>
      if m.queue = w.queue ∧ m.tid = w.tid ∧ m.page = w.page then { m with walking := false, fault := k } else m) })
  let n := (walkReqs s w).length
  match x.faults.find? (fun f => decide (f.req.tid = w.tid) && decide (f.req.va / 65536 = w.page)) with
  | some f =>
    let s := modEtrDie s d (fun x => { x with faults := x.faults.map (fun g =>
      if g.slot = f.slot ∧ g.written.isNone then { g with merged := sat 16 (g.merged + n) } else g) })
    setMiss s (some f.slot)
  | none =>
    let pid := (tenPid s w.tid).getD 0
    if rb s .ETR_PFRING 0 pid 63 = false then refuseMiss s w.unit w.queue w.tid w.page 6
    else match (List.range 64).find? (fun k => x.faults.all (fun f => decide (f.slot ≠ k))), walkReqs s w with
      | some k, r :: _ =>
        let gen := smapGet 0 x.gens k
        let f : PFault :=
          { slot := k, gen := gen, unit := w.unit, req := r, level := w.level, pte := w.entry,
            stamp := count s % 2 ^ 32, merged := sat 16 (n - 1), written := none, waited := false }
        let s := modEtrDie s d (fun x => { x with faults := x.faults ++ [f], gens := smapPut 0 x.gens k ((gen + 1) % 1024) })
        let s := if w.unit < 72 then bump s .ETR_FAULTS w.unit 0 63 32 1 else s
        setMiss s (some k)
      | _, _ => setMiss s none

/-- WALK_READ_RETURN (R322, R324, R328, R329): the entry read returns to the `i`th walk in progress. -/
def walkReadReturn (s : Mach) (d i : Nat) : Mach :=
  match (getEtrDie s d).walks[i]? with
  | none => s
  | some w =>
    let va := match walkReqs s w with | r :: _ => r.va | [] => w.page * 65536
    let r := readAs s (walkerMid d) (tenPid s w.tid) w.tid w.entry 8
    let s := r.2
    match r.1 with
    | none => refuseMiss (endWalk s d w) w.unit w.queue w.tid w.page 5
    | some (bs, p) =>
      let e : Word := BitVec.ofNat 64 (ofBytes bs)
      if p then refuseMiss (endWalk s d w) w.unit w.queue w.tid w.page 4
      else if bit e 0 = false then pageFault (endWalk s d w) d w
      else if badEntry w.level e then refuseMiss (endWalk s d w) w.unit w.queue w.tid w.page 3
      else if bit e 1 then
        let t := leafEnt w.level w.tid va e
        let s := endWalk s d w
        let s := modEtr s w.unit (fun x => tlbPut w.unit x t)
        let q := endMiss s w.unit w.queue w.tid w.page
        foldS q.1 (fun u r => answerBy u w.unit t r) q.2
      else
        let table := fld e 47 9 * 512
        let c : WcEnt := { tid := w.tid, level := w.level, va := va / 2 ^ lvlShift w.level, table := table }
        let l := w.level - 1
        modEtrDie s d (fun x =>
          { x with wc := ((c :: x.wc.filter (fun e =>
                      !(decide (e.tid = c.tid) && decide (e.level = c.level) && decide (e.va = c.va)))).take 128),
                   walks := x.walks.map (fun v => if v = w then { v with level := l, entry := table + lvlIndex l va * 8 } else v) })

def execWalkReadReturn (die : Fin 10) (i : Nat) (s : State) : Host.Outcome State Fault Refusal :=
  onMach s (fun s => walkReadReturn s die i)

/-! ### Page faults answered (R334 to R336) -/

/-- The words of a translation fault record (R334). -/
def faultItem (s : Mach) (d : Nat) (f : PFault) : BitVec 256 :=
  let fs : List (Nat × Nat × Nat) :=
    [(239, 192, f.req.va), (191, 182, f.gen), (181, 176, f.slot), (175, 166, f.req.tid),
     (165, 162, (tenPid s f.req.tid).getD 0), (161, 157, etrDieId d), (156, 150, if f.unit < 72 then f.unit else 0x7F),
     (149, 147, f.req.queue), (146, 144, f.req.kind), (143, 142, f.level), (127, 96, f.stamp), (95, 80, f.merged),
     (47, 0, f.pte)]
  fs.foldl (fun w g => setFld w g.1 g.2.1 g.2.2) 0

/-- The units that a die serves. -/
def dieUnits (d : Nat) : List Nat := if d < 6 then (List.range 12).map (fun i => 12 * d + i) else [72 + (d - 6)]

/-- A fault leaves the table of its die. -/
def dropFault (s : Mach) (d : Nat) (f : PFault) : Mach :=
  modEtrDie s d (fun x => { x with faults := x.faults.filter (fun g => decide (g.slot ≠ f.slot)) })

/-- RETRY: every stalled miss of the fault is walked again (R335). -/
def faultRetry (s : Mach) (d : Nat) (f : PFault) : Mach :=
  foldS (dieUnits d) (fun t u =>
    modEtr t u (fun x => { x with misses := x.misses.map (fun m => if m.fault = some f.slot then { m with fault := none } else m) }))
    (dropFault s d f)

/-- ABORT with a code: every stalled request of the fault is refused (R335, R336). -/
def faultAbort (s : Mach) (d : Nat) (f : PFault) (code : Nat) : Mach :=
  foldS (dieUnits d) (fun t u =>
    foldS ((getEtr t u).misses.filter (fun m => decide (m.fault = some f.slot)))
      (fun v m => refuseMiss v u m.queue m.tid m.page code) t) (dropFault s d f)

/-- The outstanding fault that an answer names; none where it is stale or another partition's (R335). -/
def answered (s : Mach) (mid : Nat) (v : Word) : Option (Nat × PFault) :=
  let die := fld v 23 19
  match (List.range 10).find? (fun d => decide (etrDieId d = die)) with
  | none => none
  | some d =>
    ((getEtrDie s d).faults.find? (fun f =>
      decide (f.slot = fld v 5 0) && decide (f.gen = fld v 15 6) && f.written.isSome &&
      (midSys s mid || (match midInfo s mid with
        | (.bound, some p) => decide (tenPid s f.req.tid = some p)
        | _ => false)))).map (fun f => (d, f))

/-- The effect of a write of ETR_PFRESP by a master (R335). -/
def onPfresp (s : Mach) (mid : Nat) (v : Word) : Mach :=
  let action := fld v 18 17
  match (if 2 ≤ action then none else answered s mid v) with
  | none => bump s .ETR_PFSTAT 0 0 63 48 1
  | some (d, f) => if action = 0 then faultRetry s d f else faultAbort s d f 7

/-- PF_TIMEOUT (R336): a fault unanswered within TIMEOUT frames of its record is aborted. -/
def pfTimeout (s : Mach) (d slot : Nat) : Mach :=
  match (getEtrDie s d).faults.find? (fun f => decide (f.slot = slot)) with
  | none => s
  | some f =>
    let t := rf s .ETR_PFCFG (if d < 6 then d else 0) 0 15 0
    match f.written with
    | some w =>
      if t = 0 then s
      else
        let s := advanceTo s (tickOf s ((w + t) * 65536))
        faultAbort (bump s .ETR_PFSTAT 0 0 47 32 1) d f 8
    | none => s

def execPfTimeout (die : Fin 10) (slot : Fin 64) (s : State) : Host.Outcome State Fault Refusal :=
  onMach s (fun s => pfTimeout s die slot)

/-! ### Invalidation (R331, R332) -/

/-- Whether an invalidation covers a mapping of a tenant: scope, TID, first byte and bytes. -/
def invCovers (scope tid lo n : Nat) (t va len : Nat) : Bool :=
  match scope with
  | 0 => true
  | 1 => decide (t = tid)
  | _ => decide (t = tid) && overlaps lo n va len

/-- The effect of a write of ETR_INV_CTL (R331): the fields are kept, and START begins an invalidation of the package. -/
def onInvCtl (s : Mach) (d : Nat) (v : Word) : Mach :=
  if rb s .ETR_INV_CTL d 0 63 then s
  else
    let s := wr s .ETR_INV_CTL d 0 (packFlds [(61, 60, fld v 61 60), (57, 48, fld v 57 48), (15, 0, fld v 15 0)])
    let scope := fld v 61 60
    if bit v 62 = false ∨ scope = 3 then s
    else
      let tid := fld v 57 48
      let lo := rf s .ETR_INV_ADDR d 0 47 16 * 65536
      let n := (if fld v 15 0 = 0 then 65536 else fld v 15 0) * 65536
      let cov := invCovers scope tid lo n
      let s := foldS (List.range 76) (fun t u => modEtr t u (fun x =>
        let back := x.ans.filter (fun a => decide (a.code = 0) && cov a.req.tid a.req.va a.req.len)
        { x with tlb := x.tlb.filter (fun p => !cov p.2.tid (p.2.vpn * 2 ^ teLog p.2.size) (2 ^ teLog p.2.size)),
                 ans := x.ans.filter (fun a => !(decide (a.code = 0) && cov a.req.tid a.req.va a.req.len)),
                 reqs := back.map XAns.req ++ x.reqs,
                 misses := x.misses.map (fun m => if cov m.tid (m.page * 65536) 65536 then { m with walking := false } else m) })) s
      let keep := fun (a : XAns) => !cov a.req.tid a.req.va a.req.len
      let drop := fun (m : Move) => { m with xl := m.xl.filter keep, asked := if m.xl.all keep then m.asked else [] }
      let s := { s with bays := s.bays.map (fun x => { x with mov := { x.mov with moves := x.mov.moves.map drop } }),
                        barnMov := s.barnMov.map (fun x => { x with moves := x.moves.map drop }) }
      let s := foldS (List.range 10) (fun t k => modEtrDie t k (fun x =>
        { x with wc := x.wc.filter (fun e => !cov e.tid (e.va * 2 ^ lvlShift e.level) (2 ^ lvlShift e.level)),
                 walks := x.walks.filter (fun w => !cov w.tid (w.page * 65536) 65536) })) s
      wb s .ETR_INV_CTL d 0 63 true

/-- INVALIDATION_COMPLETE (R332): nothing covered remains, and BUSY clears. -/
def invalidationComplete (s : Mach) (d : Nat) : Mach := wb s .ETR_INV_CTL d 0 63 false

def execInvalidationComplete (die : CompDie) (s : State) : Host.Outcome State Fault Refusal :=
  onMach s (fun s => invalidationComplete s die)

end Sys2Proof.Machine
end

