-- ==== Sys2Proof/Machine/Mxa.lean ====
section
/-! DEFINITION. The matrix array: profiles, passes, drains and thread-issued requests (chapter 06). -/

namespace Sys2Proof.Machine

def getMxa (s : Mach) (b : Nat) : Mxa := (getBay s b).mxa

def modMxa (s : Mach) (b : Nat) (f : Mxa → Mxa) : Mach := modBay s b (fun x => { x with mxa := f x.mxa })

/-- A tenant's flag word of a bay (R209). -/
def orTflags (s : Mach) (b tid f : Nat) : Mach :=
  modBay s b (fun x => { x with tflags := smapPut 0 x.tflags tid (smapGet 0 x.tflags tid ||| f) })

/-! ### Profiles (R163 to R165, R170, R171) -/

def pDest (r : Line) : Nat := fld r 255 224
def pSeed (r : Line) : Nat := fld r 223 192
def pPitch (r : Line) : Nat := fld r 191 176
def pAnchor (r : Line) : Int := sext 10 (fld r 127 118)
def pRm (r : Line) : Nat := fld r 117 115
def pSat (r : Line) : Bool := bit r 114
def pAccm (r : Line) : Nat := fld r 113 112
def pOfmt (r : Line) : Nat := fld r 111 107
def pSparse (r : Line) : Bool := bit r 101
def pMode (r : Line) : Nat := fld r 100 99
def pXfmt (r : Line) : Nat := fld r 98 94
def pXgsz (r : Line) : Nat := fld r 93 92
def pWfmt (r : Line) : Nat := fld r 91 87
def pWgsz (r : Line) : Nat := fld r 86 85
def pKs (r : Line) : Nat := fld r 84 74
def pCs (r : Line) : Nat := fld r 73 65
def pRs (r : Line) : Nat := fld r 64 56

/-- A format whose elements have 4 bits. -/
def fourBit (code : Nat) : Bool := decide (elemBits code = 4)

/-- Whether the array accepts a format as X or W (R163). -/
def mxaOperand (code : Nat) : Bool := decide (1 ≤ code) && decide (code ≤ 13)

/-- κ and ρ of a profile (R163). -/
def pKappa (r : Line) : Nat :=
  if fourBit (pXfmt r) && fourBit (pWfmt r) then (if pSparse r then 4 else 2) else 1
def pRho (r : Line) : Nat :=
  if pXfmt r = kBF16 ∨ pXfmt r = kFP16 ∨ pWfmt r = kBF16 ∨ pWfmt r = kFP16 then 2 else 1

/-- A GSZ is allowed only with the codes 0x05 to 0x07 (R139). -/
def gszOk (code gsz : Nat) : Bool := decide (gsz = 0) || (decide (5 ≤ code) && decide (code ≤ 7))

/-- Whether a reduction length keeps the multiples of R165. -/
def kMultiple (r : Line) (k : Nat) : Bool :=
  (!(isMX (pXfmt r) || isMX (pWfmt r)) || decide (k % 32 = 0)) &&
  (match groupSize (pXgsz r) with | some g => decide (k % g = 0) | none => true) &&
  (match groupSize (pWgsz r) with | some g => decide (k % g = 0) | none => true) &&
  (!pSparse r || decide (k % 4 = 0)) &&
  (!(fourBit (pXfmt r) || fourBit (pWfmt r)) || decide (k % 2 = 0)) &&
  (!(decide (elemBits (pXfmt r) = 6) || decide (elemBits (pWfmt r) = 6)) || decide (k % 4 = 0))

/-- Whether a profile record is accepted (R171). -/
def profOk (r : Line) : Bool :=
  decide (fld r 511 256 = 0) && decide (fld r 175 128 = 0) && decide (fld r 106 102 = 0) && decide (fld r 55 0 = 0) &&
  mxaOperand (pXfmt r) && mxaOperand (pWfmt r) && gszOk (pXfmt r) (pXgsz r) && gszOk (pWfmt r) (pWgsz r) &&
  decide (pAccm r ≠ 3) && decide (pRm r ≤ 5) && decide (pMode r ≠ 3) &&
  (!(decide (pAccm r = 2)) ||
    ((decide (pXfmt r = kINT8) || decide (pXfmt r = kINT4)) && (decide (pWfmt r = kINT8) || decide (pWfmt r = kINT4))
      && decide (pXgsz r = 0) && decide (pWgsz r = 0))) &&
  decide (1 ≤ pCs r) && decide (pCs r ≤ 256) &&
  (if pMode r = 2 then decide (1 ≤ pRs r) && decide (pRs r ≤ 256)
   else decide (1 ≤ pKs r) && decide (pKs r ≤ 256 * pKappa r) && kMultiple r (pKs r)) &&
  (!pSparse r || (decide (pMode r = 0) && fourBit (pWfmt r))) &&
  decide (pOfmt r ≤ 15) && (!isMX (pOfmt r) || decide (pCs r % 32 = 0))

/-- An uncorrectable error of a profile slot invalidates it and raises a record, whose SUBCODE the spec does not give
(R181): a free value. -/
def profSlotUe (s : Mach) (b slot : Nat) : Mach :=
  let (w, s) := drawWord s
  raiseBay (modMxa s b (fun m => { m with profs := lset m.profs slot none })) b
    (bayRec s b 8 (w.toNat % 256) 1 0 none)

/-- PROF (R171): one 64 B read, validation, 9 FCLK. A refused record leaves the slot invalid. -/
def doProf (b : Nat) (w : Slot) (s : Mach) : Mach :=
  let slot := fld w 103 101
  let off := fld w 18 0 * 64
  if reservedClear w [(103, 101), (18, 0)] = false then furrowErr s b 1 eIllegalOp
  else if fenceOk s b off 64 = false then fenceError s b 1 off
  else
    let s := modStream s b 1 (fun x => { x with busy := x.issued + 8 })
    let s := countLoftRead s b 64
    let r : Line := BitVec.ofNat 512 (readNat s.loft (loftIx b off) 64)
    if profOk r then modMxa s b (fun m => { m with profs := lset m.profs slot (some r) })
    else furrowErr (modMxa s b (fun m => { m with profs := lset m.profs slot none })) b 1 eIllegalOp

def execProf (b : BayNo) (ue : Option (Fin 8)) (s : State) : Host.Outcome State Fault Refusal :=
  onMach s (fun s => onSlot s b 1 1 1 (fun w s =>
    let s := doProf b w s
    match ue with
    | some k => profSlotUe s b k
    | none => s))

/-! ### Images of a pass (R164, R166) -/

/-- Steps of the streamed dimension: the pass word's stream length. -/
def passSteps (w : Slot) : Nat := fld w 95 84 + 1

/-- The stationary tile; none in OS. -/
def statTile (r : Line) : Tile :=
  if pMode r = 1 then { code := pXfmt r, gsz := pXgsz r, rows := pKs r, cols := pCs r, kaxis := 0, sparse := false }
  else { code := pWfmt r, gsz := pWgsz r, rows := pKs r, cols := pCs r, kaxis := 0, sparse := pSparse r }

/-- The streamed tile of WS and IS: one row per vector. In OS the Xᵀ image: κ rows per step. KAXIS 1, DEDUCED, log 17. -/
def streamTile (r : Line) (w : Slot) : Tile :=
  match pMode r with
  | 0 => { code := pXfmt r, gsz := pXgsz r, rows := passSteps w, cols := pKs r, kaxis := 1, sparse := false }
  | 1 => { code := pWfmt r, gsz := pWgsz r, rows := passSteps w, cols := pKs r, kaxis := 1, sparse := false }
  | _ => { code := pXfmt r, gsz := pXgsz r, rows := passSteps w * pKappa r, cols := pRs r, kaxis := 1, sparse := false }

/-- The W image of an OS pass. -/
def streamTileW (r : Line) (w : Slot) : Tile :=
  { code := pWfmt r, gsz := pWgsz r, rows := passSteps w * pKappa r, cols := pCs r, kaxis := 1, sparse := false }

def passNext (w : Slot) : Nat := fld w 44 26
def passAddr (w : Slot) : Nat := fld w 25 7 * 64
def passDrains (w : Slot) : Bool := bit w 99
def passStarts (w : Slot) : Bool := decide (fld w 99 98 = 0) || decide (fld w 99 98 = 3)
def passBank (w : Slot) : Nat := fld w 97 97
def passDaddr (w : Slot) : Nat := fld w 63 45 * 64

/-- Whether the word names a stationary image. -/
def passLoads (r : Line) (w : Slot) : Bool := decide (pMode r ≠ 2) && decide (passNext w ≠ 0x7FFFF)

/-- Rows that the drain of a pass writes. -/
def passRows (r : Line) (w : Slot) : Nat := if pMode r = 2 then pRs r else passSteps w

/-- Bytes of one drained row, and its pitch (R170, R174). -/
def drainRow (r : Line) : Nat := ceilDiv (pCs r * elemBits (pOfmt r)) 512 * 64
def drainPitch (r : Line) : Nat := if pPitch r = 0 then drainRow r else pPitch r * 64

/-- Bytes of one row of scales of an MX drain: an image's scale plane with KAXIS 1 after the rows. DEDUCED, log 18. -/
def drainScaleRow (r : Line) : Nat := if isMX (pOfmt r) then ceilDiv (pCs r / 32) 64 * 64 else 0

/-- The ranges of loft that a drain writes. -/
def drainRanges (r : Line) (daddr rows : Nat) : List (Nat × Nat) :=
  (List.range rows).map (fun i => (daddr + i * drainPitch r, drainRow r)) ++
  (if isMX (pOfmt r) then [(daddr + rows * drainPitch r, rows * drainScaleRow r)] else [])

/-- The ranges of loft that a pass reads. -/
def passReads (r : Line) (w : Slot) : List (Nat × Nat) :=
  [(passAddr w, (streamTile r w).size)] ++
  (if pMode r = 2 then [(passNext w * 64, (streamTileW r w).size)] else []) ++
  (if passLoads r w then [(passNext w * 64, (statTile r).size)] else [])

/-- Streaming and load times in FCLK (R172). -/
def passStream (r : Line) (w : Slot) : Nat := passSteps w * pRho r
def passLoad (r : Line) (w : Slot) : Nat := if passLoads r w then ceilDiv (statTile r).size 512 + 8 else 0

/-- FCLK from the first FCLK of a pass to the last term of its last entry (R174). -/
def passTail (r : Line) (w : Slot) : Nat :=
  let len := passSteps w - 1
  if pMode r = 2 then pRho r * (len + (pRs r - 1) + (pCs r - 1)) + 8
  else pRho r * (len + (pCs r - 1)) + (if pRho r = 1 then 262 else 518)

/-! ### Stationary banks and accumulators -/

/-- One byte of a stationary bank. -/
def StatBank.byte (k : StatBank) (i : Nat) : Byte :=
  if i < k.size then byteAt k.bytes i
  else match k.undef with
    | some u => Config.freeByte (u + i)
    | none => 0

def StatBank.gran (k : StatBank) (off : Nat) : Bool := smapGet false k.pois (off / 64)

def getStat (m : Mxa) (i : Nat) : StatBank := m.banks.getD i StatBank.zero

/-- A stationary image loaded into the shadow bank (R173). -/
def loadStat (s : Mach) (b off n : Nat) : Mach :=
  let m := getMxa s b
  let bytes := writeBytes [] 0 (readBytes s.loft (loftIx b off) n)
  let pois := (List.range (ceilDiv n 64)).foldl (fun p i => smapPut false p i (granPois s b (off + 64 * i))) []
  let k : StatBank := { bytes := bytes, pois := pois, size := n, undef := some s.freeCtr }
  let s := countLoftRead s b n
  modMxa { s with freeCtr := s.freeCtr + 2 ^ 20 } b (fun m' => { m' with banks := lset m'.banks (1 - m.active) k })

/-- Key of an accumulator entry. -/
def accIx (bank r c : Nat) : Nat := bank * 65536 + r * 256 + c

/-- The contents of an accumulator entry. -/
def accGet (m : Mxa) (bank r c : Nat) : BitVec 128 :=
  let i := accIx bank r c
  match m.accUndef.getD bank none with
  | some u =>
    let d := BitVec.ofNat 128 ((Config.freeWord (u + 2 * i)).toNat + (Config.freeWord (u + 2 * i + 1)).toNat * 2 ^ 64)
    if smapGet false m.accPois (2 ^ 20 + i) then smapGet 0 m.acc i else d
  | none => smapGet 0 m.acc i

def accPoisAt (m : Mxa) (bank r c : Nat) : Bool := smapGet false m.accPois (accIx bank r c)

/-- An accumulator entry written. In a bank of free values the entry is marked as written at key 2^20 + its index. -/
def accPut (m : Mxa) (bank r c : Nat) (v : BitVec 128) (p : Bool) : Mxa :=
  let i := accIx bank r c
  let q := smapPut false m.accPois i p
  { m with acc := smapPut 0 m.acc i v,
           accPois := if (m.accUndef.getD bank none).isSome then smapPut false q (2 ^ 20 + i) true else q }

/-- A bank started (R169): every entry reads as empty, no entry is poisoned, no flag has been raised. -/
def accStart (m : Mxa) (bank : Nat) : Mxa :=
  { m with acc := smapClear m.acc (bank * 65536) 65536,
           accPois := smapClear (smapClear m.accPois (bank * 65536) 65536) (2 ^ 20 + bank * 65536) 65536,
           accUndef := lset m.accUndef bank none, accFlags := lset m.accFlags bank 0 }

/-- One term entering an entry (R149, R175): the entry and the flags raised. -/
def accStep (r : Line) (cur : BitVec 128 × Nat) (x w : Val) : BitVec 128 × Nat :=
  match pAccm r with
  | 0 =>
    let q := ancAdd cur.1 (ancTerm (pAnchor r) (mulVal x w).1)
    (q.1, cur.2 ||| q.2)
  | 1 =>
    let q := fmaVal 0 x w (decodeFloat fmtFP32 (fld cur.1 31 0))
    let o := encodeFloat fmtFP32 rne q.1
    (BitVec.ofNat 128 o.1, cur.2 ||| q.2 ||| o.2)
  | _ => (BitVec.ofNat 128 (ofSigned 32 (sext 32 (fld cur.1 31 0) + x.int.1 * w.int.1)), cur.2)

/-- One entry of a pass: its terms in ascending k, and whether any granule that one of them draws on is poisoned. -/
def passEntry (r : Line) (k : Nat) (x w : Nat → Val) (p : Nat → Bool) (start : BitVec 128) : BitVec 128 × Nat × Bool :=
  let ks := List.range k
  let a := ks.foldl (fun acc i => accStep r acc (x i) (w i)) (start, 0)
  (a.1, a.2, ks.any p)

/-- The arithmetic of a pass (R164, R175, R179): every entry (r, c) takes its terms. The streamed images are read as
they stand at the pass's first FCLK, log entry 19. -/
def passMath (s : Mach) (b : Nat) (r : Line) (w : Slot) : Mach :=
  let m := getMxa s b
  let bank := passBank w
  let st := getStat m m.active
  let stT := statTile r
  let a := passAddr w
  let sT := streamTile r w
  let rdS := fun i => loftByte s b (a + i)
  let aw := passNext w * 64
  let wT := streamTileW r w
  let rdW := fun i => loftByte s b (aw + i)
  let entry (i c : Nat) (start : BitVec 128) : BitVec 128 × Nat × Bool :=
    match pMode r with
    | 2 =>
      passEntry r (passSteps w * pKappa r) (fun k => sT.valAt rdS k i) (fun k => wT.valAt rdW k c)
        (fun k => (sT.granAt rdS k i).any (fun g => granPois s b (a + g))
          || (wT.granAt rdW k c).any (fun g => granPois s b (aw + g))) start
    | md =>
      let sv := fun k => sT.valAt rdS i k
      let tv := fun k => stT.valAt st.byte k c
      passEntry r (pKs r) (if md = 0 then sv else tv) (if md = 0 then tv else sv)
        (fun k => (sT.granAt rdS i k).any (fun g => granPois s b (a + g)) || (stT.granAt st.byte k c).any st.gran) start
  let m := if passStarts w then accStart m bank else m
  let cells := (List.range (passRows r w)).flatMap (fun i => (List.range (pCs r)).map (fun c => (i, c)))
  let m := cells.foldl (fun (m : Mxa) p =>
    let e := entry p.1 p.2 (accGet m bank p.1 p.2)
    let m := accPut m bank p.1 p.2 e.1 (accPoisAt m bank p.1 p.2 || e.2.2)
    { m with accFlags := lset m.accFlags bank (m.accFlags.getD bank 0 ||| e.2.1) }) m
  modMxa s b (fun _ => m)

/-- Malformed groups of the stationary tile that a pass reads (R168). -/
def metaBad (m : Mxa) (r : Line) : Nat :=
  if pSparse r then
    let st := getStat m m.active
    let t := statTile r
    ((List.range (pKs r / 4)).flatMap (fun g => (List.range (pCs r)).map (fun c => t.metaCode st.byte g c))).countP
      (fun k => decide (k / 4 ≤ k % 4))
  else 0

/-! ### Drains (R174, R176, R177, R179) -/

/-- Rounding of the drain of an entry. -/
def drainRnd (r : Line) (tile i c : Nat) : Rnd :=
  { rm := pRm r, sat := pSat r, seed := (pSeed r + tile * 65536) % 2 ^ 32, idx := i * 256 + c }

/-- The exact value with which an entry enters an MX block, and the flags raised (R176). -/
def drainVal (r : Line) (e : BitVec 128) : Val × Nat :=
  match pAccm r with
  | 0 =>
    if ancSet e = false then (.fin false 0 0, 0)
    else
      let atr := if ancTrn e then fATR else 0
      let v := ancV e
      if ancInv e then (.nan false, fNV ||| atr)
      else if ancOvf e || decide (v < -(2 ^ 79 : Int)) || decide ((2 ^ 79 - 1 : Int) < v) then
        (.inf (decide (v < 0)), fAOF ||| atr)
      else (ofInt v (pAnchor r - 64), atr)
  | 1 => (decodeFloat fmtFP32 (fld e 31 0), 0)
  | _ => (ofInt (sext 32 (fld e 31 0)) 0, 0)

/-- An entry read out to a format without shared scale (R176): its bits and flags. -/
def drainElem (r : Line) (rnd : Rnd) (e : BitVec 128) : Nat × Nat :=
  if pAccm r = 0 then ancOut (pOfmt r) rnd e
  else
    let v := (drainVal r e).1
    if pOfmt r = kANC80 then ((ancTerm (pAnchor r) v).toNat, 0) else encodeElem (pOfmt r) rnd v

/-- A drained row: its elements, its scales and the flags raised. -/
def drainRowOut (r : Line) (m : Mxa) (bank tile i : Nat) : List Nat × List Nat × Nat :=
  if isMX (pOfmt r) then
    let blocks := (List.range (pCs r / 32)).map (fun k =>
      let vs := (List.range 32).map (fun j => drainVal r (accGet m bank i (32 * k + j)))
      let q := mxQuant (pOfmt r) (drainRnd r tile i (32 * k)) (vs.map Prod.fst)
      (q, vs.foldl (fun f v => f ||| v.2) 0))
    (blocks.flatMap (fun q => q.1.2.map Prod.fst), blocks.map (fun q => q.1.1),
     blocks.foldl (fun f q => q.1.2.foldl (fun f e => f ||| e.2) (f ||| q.2)) 0)
  else
    let es := (List.range (pCs r)).map (fun c => drainElem r (drainRnd r tile i c) (accGet m bank i c))
    (es.map Prod.fst, [], es.foldl (fun f e => f ||| e.2) 0)

/-- The writes of a drain in order: offset, 64 bytes, poison. -/
def drainWrites (m : Mxa) (d : Drain) : List (Nat × List Byte × Bool) × Nat :=
  let r := d.rec_
  let rows := (List.range d.rows).map (fun i => (i, drainRowOut r m d.bank d.tile i))
  let per := 512 / elemBits (pOfmt r)
  let data := rows.flatMap (fun p =>
    let n := drainRow r
    let v := packElems (pOfmt r) p.2.1
    (List.range (n / 64)).map (fun g =>
      let cs := (List.range (pCs r)).filter (fun c =>
        overlaps (c * elemBits (pOfmt r)) (elemBits (pOfmt r)) (g * 512) 512)
      let _ := per
      (d.daddr + p.1 * drainPitch r + 64 * g, bytesOf 64 (v / 2 ^ (512 * g)),
       cs.any (fun c => accPoisAt m d.bank p.1 c))))
  let scales := if isMX (pOfmt r) then
      rows.flatMap (fun p =>
        let v := packElems kE8M0 p.2.2.1
        (List.range (drainScaleRow r / 64)).map (fun g =>
          (d.daddr + d.rows * drainPitch r + p.1 * drainScaleRow r + 64 * g, bytesOf 64 (v / 2 ^ (512 * g)),
           (List.range (pCs r)).any (fun c => accPoisAt m d.bank p.1 c))))
    else []
  (data ++ scales, rows.foldl (fun f p => f ||| p.2.2.2) 0)

/-- FCLK that a drain's rows take at 512 B per FCLK (R174 step 2). -/
def drainFclk (r : Line) (rows : Nat) : Nat := ceilDiv (rows * drainRow r) 512

/-- The first `n` granules of a drain's writes. -/
def drainPut (s : Mach) (b : Nat) (ws : List (Nat × List Byte × Bool)) (n : Nat) : Mach :=
  let ws := ws.take n
  foldS ws (fun t w => loftWrite t b w.1 w.2.1 w.2.2) (countLoftWrite s b (64 * ws.length))

/-- A drain starts: the record that MXA_DRAIN_COMPLETE completes. -/
def startDrain (s : Mach) (b : Nat) (r : Line) (w : Slot) (rows start : Nat) (flex : Option (Option Nat)) : Mach :=
  let fin := start + drainFclk r rows
  let d : Drain :=
    { bank := passBank w, rec_ := r, daddr := passDaddr w, rows := rows, tile := fld w 79 64, sig := bit w 96,
      start := start, fin := fin, flex := flex }
  let s := if flex.isSome then s else
    loftUse s b { path := 1, wrt := true, ownBay := b, stream := 1, op := start,
                  beats := rowBeats (passDaddr w) (rows * drainRow r), start := start, late := 0 }
  modMxa s b (fun m => { m with drains := m.drains ++ [d],
                                flexEnd := if flex.isSome then max m.flexEnd fin else m.flexEnd })

/-- A drain completes at its time (R174 step 3, R177): its rows are in the loft, its flag word goes to MXA_LASTFLAGS and
the tenant's register, and its token or semaphore addition is made. -/
def finishDrain (s : Mach) (b : Nat) (d : Drain) : Mach :=
  let s := advanceEdge s b d.fin
  let m := getMxa s b
  let ws := drainWrites m d
  let s := drainPut s b ws.1 ws.1.length
  let flags := ws.2 ||| m.accFlags.getD d.bank 0
  let s := wr s .MXA_LASTFLAGS b 0 (BitVec.ofNat 64 flags)
  let s := bump s .MXA_PASSES b 0 63 0 1
  let s := modMxa s b (fun m => { m with drains := m.drains.filter (fun x => decide (x ≠ d)) })
  let tid := (getSeq s b).tid
  let s := match tid with | some t => orTflags s b t flags | none => s
  if d.sig = false then s
  else match d.flex with
    | none => sendToken s b d.fin 1 (ws.1.any (fun w => w.2.2)) (pDest d.rec_)
    | some none => s
    | some (some i) =>
      modBay s b (fun x => { x with sem := { x.sem with
        dones := x.sem.dones ++ [{ mover := false, tid := tid.getD 0, idx := i, edge := d.fin }] } })

/-- The drains of a bay whose time is before an edge complete. -/
def flushDrains (s : Mach) (b e : Nat) : Mach :=
  foldS ((getMxa s b).drains.filter (fun d => decide (d.fin ≤ e))) (fun t d => finishDrain t b d) s

/-- MXA_DRAIN_COMPLETE: the drain of an accumulator bank completes. -/
def drainComplete (s : Mach) (b bank : Nat) : Mach :=
  match (getMxa s b).drains.find? (fun d => decide (d.bank = bank)) with
  | some d => finishDrain s b d
  | none => s

def execMxaDrainComplete (b : BayNo) (bank : Fin 2) (s : State) : Host.Outcome State Fault Refusal :=
  onMach s (fun s => drainComplete s b bank)

/-- Whether a bank's drain has not yet completed. -/
def draining (s : Mach) (b bank : Nat) : Bool := (getMxa s b).drains.any (fun d => decide (d.bank = bank))

/-- A drain cut at an edge (R182, R185): what falls at or before the edge is in the loft, no token is sent. -/
def cutDrain (s : Mach) (b e : Nat) (d : Drain) : Mach :=
  drainPut s b (drainWrites (getMxa s b) d).1 ((e + 1 - d.start) * 8)

/-! ### Errors of the hardware (R180, R181) -/

/-- MXA_ERR records the first error; every error raises a record. -/
def mxaErr (s : Mach) (b code bank row col : Nat) : Mach :=
  let t := (getSeq s b).tid.getD 0
  let v := packFlds [(57, 48, t), (40, 40, bank), (39, 32, row), (31, 24, col), (7, 0, code)]
  raiseBay (recordFirst s .MXA_ERR b 0 v) b (bayRec s b 8 code 1 0 none)

/-- An error of the hardware during a pass into `bank` of `rows` rows. -/
def mxaHw (s : Mach) (b bank rows : Nat) (e : MxaHw) : Mach :=
  let pois (s : Mach) (r c : Nat) : Mach := modMxa s b (fun m => accPut m bank r c (accGet m bank r c) true)
  match e with
  | .residue r c => mxaErr (pois s r c) b 1 bank r c
  | .accUe r c => mxaErr (pois s r c) b 2 bank r c
  | .statUe r c => mxaErr (foldS (List.range rows) (fun t i => pois t i c) s) b 3 (getMxa s b).active r c

/-! ### PASS and DRAIN (R169, R172 to R174) -/

/-- MAC that a pass performs, pruned positions counted (R29, R163). -/
def passMacs (r : Line) (w : Slot) : Nat :=
  passRows r w * pCs r * (if pMode r = 2 then passSteps w * pKappa r else pKs r)

/-- The event that counts MAC of a pair (R569). -/
def macEvent (r : Line) : Nat := if pRho r = 2 then 5 else if fourBit (pXfmt r) && fourBit (pWfmt r) then 3 else 4

/-- MAC counted in the event counters and, in units of 65,536, in the always-on counter of the die. -/
def countMacs (s : Mach) (b ev n : Nat) : Mach :=
  let s := countEv s b ev n
  let d := dieOf b
  let t := smapGet 0 s.macs d + n
  bumpAo { s with macs := smapPut 0 s.macs d (t % 65536) } (compDieId d) 1 (t / 65536)

/-- A pass from its first FCLK `p` on: FLIP, the terms, the load into the shadow bank and the drain. -/
def runPass (s : Mach) (b p : Nat) (r : Line) (w : Slot) (flex : Option (Option Nat)) : Mach :=
  let s := modMxa s b (fun m => { m with active := if bit w 100 then 1 - m.active else m.active })
  let s := foldS (passReads r w |>.take (if pMode r = 2 then 2 else 1)) (fun t g => countLoftRead t b g.2) s
  let s := bump s .MXA_COUNT b 0 63 32 (metaBad (getMxa s b) r)
  let use (path : Nat) (l : List (Nat × Nat)) (at_ : Nat) : LoftUse :=
    { path := path, wrt := false, ownBay := b, stream := 1, op := p, beats := l, start := at_, late := 0 }
  let s := if flex.isSome then s else
    let l := passReads r w |>.take (if pMode r = 2 then 2 else 1)
    let s := loftUse s b (use 0 (l.flatMap (fun g => rowBeats g.1 g.2)) p)
    if passLoads r w then loftUse s b (use 1 (rowBeats (passNext w * 64) (statTile r).size) p) else s
  let s := passMath s b r w
  let s := if passLoads r w then loadStat s b (passNext w * 64) (statTile r).size else s
  let last := p + passTail r w
  let s := countMacs s b (macEvent r) (passMacs r w)
  let s := bump s .MXA_PASSES b 0 63 0 1
  let bank := passBank w
  let s := modMxa s b (fun m =>
    { m with streamEnd := p + passStream r w - 1,
             loadEnd := if passLoads r w then p + passLoad r w - 1 else m.loadEnd,
             termEnd := lset m.termEnd bank (max (m.termEnd.getD bank 0) last),
             flexEnd := if flex.isSome then last else m.flexEnd })
  if passDrains w then startDrain s b r w (passRows r w) ((getMxa s b).termEnd.getD bank 0 + 1) flex else s

/-- Reserved bits of a PASS word, FLIP in OS, stream lengths, and the OS multiples of R165. -/
def passLegal (r : Line) (w : Slot) : Bool :=
  reservedClear w [(103, 84), (79, 7)] &&
  (if pMode r = 2 then !bit w 100 && kMultiple r (passSteps w * pKappa r) else decide (passSteps w ≤ 256))

/-- Reserved bits and the row count of a DRAIN word. -/
def drainLegal (w : Slot) : Bool :=
  reservedClear w [(103, 101), (97, 84), (63, 45)] && decide (passSteps w ≤ 256)

/-- The profile that a word names. -/
def wordProf (s : Mach) (b : Nat) (w : Slot) : Option Line := ((getMxa s b).profs.getD (fld w 103 101) none)

/-- The first range that the tenant fence refuses. -/
def fenceRefused (s : Mach) (b : Nat) (l : List (Nat × Nat)) : Option Nat :=
  (l.find? (fun g => !fenceOk s b g.1 g.2)).map Prod.fst

/-- PASS (R169, R172, R173). -/
def doPass (b : Nat) (err : Option MxaHw) (w : Slot) (s : Mach) : Mach :=
  let x := getStream s b 1
  let p := x.issued
  let s := flushDrains s b p
  match wordProf s b w with
  | none => furrowErr s b 1 eIllegalOp
  | some r =>
    if passLegal r w = false then furrowErr s b 1 eIllegalOp
    else if draining s b (passBank w) then furrowErr s b 1 eBusy
    else if slotHold w + 1 < max (passStream r w) (passLoad r w) then furrowErr s b 1 eBusy
    else match (if passDrains w && bit w 96 then destErr s (pDest r) else none) with
      | some e => furrowErr s b 1 e
      | none =>
        match fenceRefused s b (passReads r w ++
            (if passDrains w then drainRanges r (passDaddr w) (passRows r w) else [])) with
        | some off => fenceError s b 1 off
        | none =>
          let s := runPass s b p r w none
          match err with
          | some e => mxaHw s b (passBank w) (passRows r w) e
          | none => s

def execPass (b : BayNo) (err : Option MxaHw) (s : State) : Host.Outcome State Fault Refusal :=
  onMach s (fun s => onSlot s b 1 1 2 (doPass b err))

/-- DRAIN (R169, R172 to R174): the drain starts at the FCLK after its issue or after the last term of an earlier pass
into the bank, whichever is later. -/
def doDrain (b : Nat) (w : Slot) (s : Mach) : Mach :=
  let i := (getStream s b 1).issued
  let s := flushDrains s b i
  match wordProf s b w with
  | none => furrowErr s b 1 eIllegalOp
  | some r =>
    if drainLegal w = false then furrowErr s b 1 eIllegalOp
    else if draining s b (passBank w) then furrowErr s b 1 eBusy
    else match (if bit w 96 then destErr s (pDest r) else none) with
      | some e => furrowErr s b 1 e
      | none =>
        match fenceRefused s b (drainRanges r (passDaddr w) (passSteps w)) with
        | some off => fenceError s b 1 off
        | none => startDrain s b r w (passSteps w) (max i ((getMxa s b).termEnd.getD (passBank w) 0) + 1) none

def execDrain (b : BayNo) (s : State) : Host.Outcome State Fault Refusal := onMach s (fun s => onSlot s b 1 1 3 (doDrain b))

/-! ### Preemption, windows and thread-issued requests (R182 to R185) -/

/-- At a preemption the array abandons its streaming, loads and drains at the slice boundary `e` (R182). -/
def mxaPreempt (s : Mach) (b e : Nat) : Mach :=
  let s := flushDrains s b e
  let s := foldS (getMxa s b).drains (fun t d => cutDrain t b (e - 1) d) s
  modMxa s b (fun m => { m with drains := [], streamEnd := min m.streamEnd e, loadEnd := min m.loadEnd e,
                                termEnd := m.termEnd.map (min e) })

/-- The clear of R162. -/
def mxaClear (s : Mach) (b : Nat) : Mach := modMxa s b (fun _ => Mxa.zero)

/-- The accumulator and stationary banks hold undefined values after a window with MXA_LEND = 1 (R185). -/
def mxaUndefine (s : Mach) (b : Nat) : Mach :=
  let u := s.freeCtr
  let k (i : Nat) : StatBank := { bytes := [], pois := [], size := 0, undef := some (u + i * 2 ^ 20) }
  let s := { s with freeCtr := u + 3 * 2 ^ 20 }
  modMxa s b (fun m =>
    { m with banks := [k 0, k 1], acc := [], accPois := [], accUndef := [some (u + 2 ^ 21), some (u + 2 ^ 21)] })

/-- At the last FCLK `e` of a window with MXA_LEND = 1 the array abandons every thread-issued request that is queued or
not complete (R185). -/
def mxaWindowEnd (s : Mach) (b e : Nat) : Mach :=
  let s := flushDrains s b e
  let m := getMxa s b
  let cut := m.flexq.length + (if e < m.flexEnd then 1 else 0)
  let s := foldS (m.drains.filter (fun d => d.flex.isSome)) (fun t d => cutDrain t b e d) s
  let s := modMxa s b (fun m =>
    { m with drains := m.drains.filter (fun d => d.flex.isNone), flexq := [], flexEnd := min m.flexEnd e,
             streamEnd := min m.streamEnd e, loadEnd := min m.loadEnd e, termEnd := m.termEnd.map (min e) })
  mxaUndefine (bump s .MXA_COUNT b 0 31 0 cut) b

/-- Whether a range lies in the planned region and in the bank groups of a mask. -/
def inBanks (s : Mach) (b grp : Nat) (g : Nat × Nat) : Bool :=
  decide (g.1 + g.2 ≤ plannedSize s b) && decide (bankGroups g.1 g.2 &&& grp = bankGroups g.1 g.2)

/-- The profile record of a request. -/
def reqProf (s : Mach) (b : Nat) (q : MxaReq) : Line :=
  BitVec.ofNat 512 (readNat s.loft (loftIx b (q.prof * 64)) 64)

/-- Whether a thread-issued request passes R184. -/
def reqOk (s : Mach) (b grp : Nat) (q : MxaReq) : Bool :=
  let r := reqProf s b q
  let w := q.word
  inBanks s b grp (q.prof * 64, 64) && profOk r && decide (slotForm w = 1) &&
  ((decide (slotOp w = 2) && passLegal r w && (passReads r w).all (inBanks s b grp)
      && (!passDrains w || (drainRanges r (passDaddr w) (passRows r w)).all (inBanks s b grp))) ||
   (decide (slotOp w = 3) && drainLegal w && (drainRanges r (passDaddr w) (passSteps w)).all (inBanks s b grp)))

/-- A request that R184 refuses: FLEX_RANGE. -/
def reqRefused (s : Mach) (b : Nat) : Mach := mxaErr s b 4 0 0 0

/-- MXA_FLEX_REQUEST (R183): the oldest request starts when the array, both drains and any load are idle; its profile
loads in 9 FCLK. -/
def flexRequest (s : Mach) (b : Nat) : Mach :=
  let m := getMxa s b
  match m.flexq, (getSeq s b).win with
  | q :: rest, some win =>
    if m.drains.isEmpty = false then s
    else
      let idle := max (max m.streamEnd m.loadEnd) (m.termEnd.foldl max 0) + 1
      let p := max (edgeOf s b) idle + 9
      if win.last < p then s
      else
        let s := advanceEdge s b p
        let s := modMxa s b (fun m => { m with flexq := rest, flexEnd := p })
        let r := reqProf s b q
        let dst := some (if q.sem < 2048 then some q.sem else none)
        if reqOk s b win.bankgrp q = false then reqRefused s b
        else if slotOp q.word = 2 then runPass s b p r q.word dst
        else startDrain s b r q.word (passSteps q.word) (p + 1) dst
  | _, _ => s

def execMxaFlexRequest (b : BayNo) (s : State) : Host.Outcome State Fault Refusal := onMach s (fun s => flexRequest s b)

end Sys2Proof.Machine
end

