-- ==== Sys2Proof/Machine/Vxe.lean ====
section
/-! DEFINITION. The vector engine: registers, operands and masks, result writes, and the frame in which every operation
runs (R187 to R198, R209 to R213). -/

namespace Sys2Proof.Machine

def getVxe (s : Mach) (b : Nat) : Vxe := (getBay s b).vxe

def modVxe (s : Mach) (b : Nat) (f : Vxe → Vxe) : Mach := modBay s b (fun x => { x with vxe := f x.vxe })

/-! ### Registers (R187) -/

def vLane (x : Vxe) (r l : Nat) : BitVec 32 := smapGet 0 x.v (128 * r + l)
def vLaneP (x : Vxe) (r l : Nat) : Bool := smapGet false x.vp (128 * r + l)
def vMask (x : Vxe) (m : Nat) : BitVec 128 := if m = 0 then BitVec.allOnes 128 else smapGet 0 x.m m
def vMaskP (x : Vxe) (m : Nat) : Bool := if m = 0 then false else smapGet false x.mp m
def vScal (x : Vxe) (i : Nat) : BitVec 32 := smapGet 0 x.s i
def vScalP (x : Vxe) (i : Nat) : Bool := smapGet false x.sp i
def vPtr (x : Vxe) (i : Nat) : VPtr := smapGet VPtr.zero x.ptr i
def vTok (x : Vxe) (i : Nat) : BitVec 32 := smapGet 0xFFFFFFFF x.tok i
def vAc (x : Vxe) (a l : Nat) : BitVec 128 := smapGet 0 x.ac (128 * a + l)
def vAcP (x : Vxe) (a l : Nat) : Bool := smapGet false x.acp (128 * a + l)
def vLf (x : Vxe) (l : Nat) : Nat := smapGet 0 x.lf l

/-- A flag word of a lane goes to its sticky flags, to VXE_LASTFLAGS and to the tenant's register (R209). -/
def vRaise (s : Mach) (b word l f : Nat) : Mach :=
  if f = 0 then s
  else
    let x := getVxe s b
    let s := modVxe s b (fun x => { x with lf := smapPut 0 x.lf l (vLf x l ||| f), lastWord := word })
    let old := if x.lastWord = word then rf s .VXE_LASTFLAGS b 0 15 0 else 0
    let s := wf s .VXE_LASTFLAGS b 0 15 0 (old ||| f)
    match (getSeq s b).tid with
    | some t => orTflags s b t f
    | none => s

/-- One effect of a result write. -/
def vApply (b word : Nat) (s : Mach) (e : VEff) : Mach :=
  match e with
  | .lane r l v m p =>
    modVxe s b (fun x =>
      let i := 128 * r + l
      { x with v := smapPut 0 x.v i ((vLane x r l &&& ~~~m) ||| (v &&& m)),
               vp := smapPut false x.vp i (p || (decide (m ≠ BitVec.allOnes 32) && vLaneP x r l)) })
  | .mask r v m p =>
    modVxe s b (fun x =>
      { x with m := smapPut 0 x.m r ((smapGet 0 x.m r &&& ~~~m) ||| (v &&& m)),
               mp := smapPut false x.mp r (p || (decide (m ≠ BitVec.allOnes 128) && vMaskP x r)) })
  | .scalar i v p => modVxe s b (fun x => { x with s := smapPut 0 x.s i v, sp := smapPut false x.sp i p })
  | .token i v => modVxe s b (fun x => { x with tok := smapPut 0xFFFFFFFF x.tok i v })
  | .ptr i q => modVxe s b (fun x => { x with ptr := smapPut VPtr.zero x.ptr i q })
  | .acSet a l c p =>
    modVxe s b (fun x => { x with ac := smapPut 0 x.ac (128 * a + l) c, acp := smapPut false x.acp (128 * a + l) p })
  | .acAdd a l c p =>
    let x := getVxe s b
    let q := ancAdd (vAc x a l) c
    let s := modVxe s b (fun x =>
      { x with ac := smapPut 0 x.ac (128 * a + l) q.1, acp := smapPut false x.acp (128 * a + l) (vAcP x a l || p) })
    vRaise s b word l q.2
  | .loft off bytes mask pois => loftPut (countLoftWrite s b bytes.length) b off bytes mask pois
  | .flags l f => vRaise s b word l f
  | .clearFlags l => modVxe s b (fun x => { x with lf := smapPut 0 x.lf l 0 })

/-! ### Result writes (R195, R196) -/

/-- Whether two effects write the same lane of the same register, accumulator or mask. -/
def VEff.meets : VEff → VEff → Bool
  | .lane r l _ m _, .lane r' l' _ m' _ => decide (r = r') && decide (l = l') && decide (m &&& m' ≠ 0)
  | .mask r _ m _, .mask r' _ m' _ => decide (r = r') && decide (m &&& m' ≠ 0)
  | .acSet a l _ _, .acSet a' l' _ _ => decide (a = a') && decide (l = l')
  | .acSet a l _ _, .acAdd a' l' _ _ => decide (a = a') && decide (l = l')
  | .acAdd a l _ _, .acSet a' l' _ _ => decide (a = a') && decide (l = l')
  | _, _ => false

/-- Whether two words write the same lane on the same FCLK (R196). -/
def VWrite.clash (x y : VWrite) : Bool :=
  decide (x.edge = y.edge) && decide (x.word ≠ y.word) && x.effs.any (fun e => y.effs.any e.meets)

/-- Whether a write clears lane flags: it takes effect before a condition raised on its FCLK (R210). -/
def VWrite.clears (w : VWrite) : Bool := w.effs.any (fun e => match e with | .clearFlags _ => true | _ => false)

/-- The next write in flight: the earliest FCLK, and on one FCLK a clear of flags, then the word issued first. -/
def nextWrite (l : List VWrite) : Option VWrite :=
  l.foldl (fun (m : Option VWrite) w =>
    match m with
    | none => some w
    | some v => if w.edge < v.edge ∨ (w.edge = v.edge ∧ w.clears ∧ v.clears = false) then some w else some v) none

/-- A result write takes effect: its effects, the count of double writes, and, with the last write of a word, the word's
token and VXE_OPS. -/
def applyWrite (s : Mach) (b : Nat) (w : VWrite) : Mach :=
  let s := modVxe s b (fun x => { x with flight := x.flight.erase w })
  let waw := (getVxe s b).flight.countP (fun y => w.clash y)
  let s := bump s .VXE_COUNT b 0 31 0 waw
  let s := foldS w.effs (vApply b w.word) s
  if w.fin then
    let s := bump s .VXE_OPS b 0 63 0 1
    match w.sig with
    | some a => sendToken s b w.edge 1 w.pois a
    | none => s
  else s

/-- Every write in flight before FCLK `t` takes effect: a read at `t` sees it. -/
def vFlushN (s : Mach) (b t : Nat) : Nat → Mach
  | 0 => s
  | n + 1 =>
    match nextWrite (getVxe s b).flight with
    | some w => if w.edge < t then vFlushN (applyWrite s b w) b t n else s
    | none => s

def vFlush (s : Mach) (b t : Nat) : Mach := vFlushN s b t (getVxe s b).flight.length

/-- An effect marked as poisoned where it writes lane `l`. -/
def VEff.poison (l : Nat) : VEff → VEff
  | .lane r k v m p => .lane r k v m (p || decide (k = l))
  | .acSet a k c p => .acSet a k c (p || decide (k = l))
  | .acAdd a k c p => .acAdd a k c (p || decide (k = l))
  | .loft off bs en ps =>
    .loft off bs en (if 4 * l < bs.length ∧ en / 2 ^ (4 * l) % 16 ≠ 0 then ps ||| 2 ^ (4 * l / 64) else ps)
  | .mask r v m p => .mask r v m (p || m.getLsbD l)
  | e => e

/-- An error of the hardware in a result (R212): the lane is poisoned, VXE_ERR records it, a record is raised, and the
word's token will carry P = 1. -/
def vHw (s : Mach) (b : Nat) (w : VWrite) (e : VxeHw) : Mach × VWrite :=
  let dest := w.effs.findSome? (fun e => match e with
    | .lane r _ _ _ _ => some r
    | .acSet a _ _ _ => some a
    | .acAdd a _ _ _ => some a
    | .scalar i _ _ => some i
    | _ => none)
  let (code, reg, lane, s) : Nat × Nat × Nat × Mach := match e with
    | .residue l => (1, dest.getD 0, l, s)
    | .vecUe r l => (2, r, l, modVxe s b (fun x => { x with vp := smapPut false x.vp (128 * r + l) true }))
    | .scalUe r => (2, r, 0, modVxe s b (fun x => { x with sp := smapPut false x.sp r true }))
    | .accUe r l => (3, r, l, modVxe s b (fun x => { x with acp := smapPut false x.acp (128 * r + l) true }))
  let lanes := match e with | .scalUe _ => List.range 128 | _ => [lane]
  let w' := { w with effs := w.effs.map (fun e => lanes.foldl (fun e l => e.poison l) e), pois := true }
  let t := (getSeq s b).tid.getD 0
  let s := raiseBay (recordFirst s .VXE_ERR b 0 (packFlds [(57, 48, t), (39, 32, reg), (31, 24, lane), (7, 0, code)])) b
    (bayRec s b 8 code 2 0 none)
  (modVxe s b (fun x =>
    { x with flight := x.flight.map (fun y =>
        if y = w then w' else if y.word = w.word ∧ y.fin then { y with pois := true } else y) }), w')

/-- VXE_RESULT_WRITE: the oldest result write in flight takes effect at its FCLK. -/
def vResultWrite (s : Mach) (b : Nat) (err : Option VxeHw) : Mach :=
  match nextWrite (getVxe s b).flight with
  | none => s
  | some w =>
    let s := advanceEdge s b w.edge
    match err with
    | none => applyWrite s b w
    | some e =>
      let q := vHw s b w e
      applyWrite q.1 b q.2

def execVxeResultWrite (b : BayNo) (err : Option VxeHw) (s : State) : Host.Outcome State Fault Refusal :=
  onMach s (fun s => vResultWrite s b err)

/-! ### Words (R190, R191, R193) -/

def wRep (w : Slot) : Nat := fld w 103 94
def wMsk (w : Slot) : Nat := fld w 93 86
def wMz (w : Slot) : Bool := bit w 85
def wSig (w : Slot) : Nat := fld w 84 82
def wFmt (w : Slot) : Nat := fld w 81 77
def wOfmt (w : Slot) : Nat := fld w 76 72
def wRm (w : Slot) : Nat := fld w 71 69
def wSat (w : Slot) : Bool := bit w 68
def wAcn (w : Slot) : Nat := fld w 67 65
def wSub (w : Slot) : Nat := fld w 64 61
def wD (w : Slot) : Nat := fld w 60 53
def wA (w : Slot) : Nat := fld w 52 45
def wB (w : Slot) : Nat := fld w 44 37
def wC (w : Slot) : Nat := fld w 36 29
def wImm (w : Slot) : Nat := fld w 28 0

/-- An operand specifier (R190). -/
inductive VOp where
  | reg (n : Nat) (step : Bool)
  | loft (p : Nat)
  | scal (i : Nat)
  | none
  | bad
  deriving DecidableEq, Repr

def vOp (f : Nat) : VOp :=
  match f / 64 with
  | 0 => .reg (f % 64) false
  | 1 => .reg (f % 64) true
  | 2 => if f % 64 < 16 then .loft (f % 16) else if f % 64 < 32 then .scal (f % 16) else .bad
  | _ => if f = 255 then .none else .bad

def VOp.isSrc : VOp → Bool
  | .reg _ _ => true | .loft _ => true | .scal _ => true | _ => false
def VOp.isDst : VOp → Bool
  | .reg _ _ => true | .loft _ => true | _ => false
def VOp.isReg : VOp → Bool
  | .reg _ _ => true | _ => false
def VOp.isLoft : VOp → Bool
  | .loft _ => true | _ => false
/-- A stepping register or a loft pointer. -/
def VOp.moves : VOp → Bool
  | .reg _ st => st | .loft _ => true | _ => false

/-- A specifier that its operation does not use: 0 or none. DEDUCED, log entry 20. -/
def unusedOp (f : Nat) : Bool := decide (f = 0) || decide (f = 255)

/-- Whether a mask specifier is legal (R191). -/
def maskLegal (f : Nat) (dst : Bool) : Bool :=
  if f < 8 then !(dst && decide (f = 0)) else decide (64 ≤ f) && decide (f < 128)

/-- The mask of an iteration and whether it is poisoned (R191, R211). -/
def readMask (x : Vxe) (f i : Nat) : BitVec 128 × Bool :=
  if f < 64 then (vMask x (f % 8), vMaskP x (f % 8))
  else
    let r := (f % 64 + i / 32) % 64
    let q := i % 32
    let ls := (List.range 4).map (fun k => 4 * q + k)
    (BitVec.ofNat 128 (ls.foldr (fun l acc => acc * 2 ^ 32 + (vLane x r l).toNat) 0), ls.any (fun l => vLaneP x r l))

/-- The effects that write the bits `m` of the mask of an iteration. -/
def writeMask (f i : Nat) (v m : BitVec 128) (p : Bool) : List VEff :=
  if f < 64 then [.mask (f % 8) v m p]
  else
    let r := (f % 64 + i / 32) % 64
    let q := i % 32
    (List.range 4).filterMap (fun k =>
      let mk : BitVec 32 := BitVec.ofNat 32 (m.toNat / 2 ^ (32 * k))
      if mk = 0 then none else some (.lane r (4 * q + k) (BitVec.ofNat 32 (v.toNat / 2 ^ (32 * k))) mk p))

/-! ### Pointers and sources (R189, R195, R197) -/

/-- The planned-region byte address of a pointer; past every slice where it is negative. -/
def ptrAddr (q : VPtr) : Nat :=
  let a : Int := if q.wrap = 0 then (q.base : Int) + q.cursor else (q.base : Int) + q.cursor % q.wrap
  if a < 0 then 2 ^ 40 else a.toNat * 64

/-- Iterations per register-sized unit for elements of `w` bits in CVT (R189). -/
def vP (w : Nat) : Nat := match w with | 16 => 2 | 8 => 4 | 6 => 4 | 4 => 8 | _ => 1

/-- Bytes that a loft operand moves per advance (R196). -/
def unitBytes (w : Nat) : Nat := if w = 6 then 384 else 512

/-- The unit that an operand names in an iteration: 4,096 bits, and a poison bit per lane. A scalar has no unit. -/
def readUnit (s : Mach) (b : Nat) (o : VOp) (i' w : Nat) : Nat × Nat :=
  let x := getVxe s b
  match o with
  | .reg n st =>
    let r := if st then (n + i') % 64 else n
    let ls := List.range 128
    (ls.foldr (fun l acc => acc * 2 ^ 32 + (vLane x r l).toNat) 0,
     ls.foldr (fun l acc => acc * 2 + (vLaneP x r l).toNat) 0)
  | .loft p =>
    let a := ptrAddr (vPtr x p)
    (readNat s.loft (loftIx b a) (unitBytes w),
     (List.range 128).foldr (fun l acc => acc * 2 + (granPois s b (a + 4 * l)).toNat) 0)
  | _ => (0, 0)

/-- Element `e` of `w` bits at packed position `q` of an operand in an iteration, and its poison. -/
def srcElem (s : Mach) (b : Nat) (o : VOp) (i' w q : Nat) : Nat → Nat × Bool :=
  match o with
  | .scal k =>
    let x := getVxe s b
    fun _ => ((vScal x k).toNat % 2 ^ w, vScalP x k)
  | _ =>
    let u := readUnit s b o i' w
    fun e =>
      let pos := q * 128 * w + e * w
      (u.1 / 2 ^ pos % 2 ^ w, u.2.testBit (pos / 32) || u.2.testBit ((pos + w - 1) / 32))

/-- A pointer advanced. -/
def advancePtr (s : Mach) (b : Nat) (o : VOp) : Mach :=
  match o with
  | .loft p =>
    modVxe s b (fun x =>
      let q := vPtr x p
      { x with ptr := smapPut VPtr.zero x.ptr p { q with cursor := q.cursor + q.stride } })
  | _ => s

/-! ### Iterations -/

/-- What an iteration computes: the elements written (element, bits, poison) of width `w` at packed position `q` of the `P`
that one unit holds, flags by lane, and other effects. -/
structure IterOut where
  w : Nat
  q : Nat
  P : Nat
  els : List (Nat × Nat × Bool)
  flags : List (Nat × Nat)
  effs : List VEff
  deriving DecidableEq, Repr

def IterOut.none : IterOut := { w := 32, q := 0, P := 1, els := [], flags := [], effs := [] }

/-- The part of a unit that elements fill: bits, mask of bits, poison by lane. -/
def packEls (w base : Nat) (els : List (Nat × Nat × Bool)) : Nat × Nat × Nat :=
  els.foldl (fun acc e =>
    let pos := base + e.1 * w
    (acc.1 ||| (e.2.1 % 2 ^ w) * 2 ^ pos, acc.2.1 ||| (2 ^ w - 1) * 2 ^ pos,
     if e.2.2 then acc.2.2 ||| 2 ^ (pos / 32) ||| 2 ^ ((pos + w - 1) / 32) else acc.2.2)) (0, 0, 0)

/-- Lane effects of a part of a register. -/
def regEffs (r : Nat) (u : Nat × Nat × Nat) : List VEff :=
  (List.range 128).filterMap (fun l =>
    let m : BitVec 32 := BitVec.ofNat 32 (u.2.1 / 2 ^ (32 * l))
    if m = 0 then none
    else some (.lane r l (BitVec.ofNat 32 (u.1 / 2 ^ (32 * l))) m (u.2.2.testBit l)))

/-- The write of a part of a unit of `n` bytes to the loft: bytes of which only some bits are written keep the others as
the read-ahead finds them (R192). -/
def loftEffs (s : Mach) (b off n : Nat) (u : Nat × Nat × Nat) : List VEff :=
  let old := readNat s.loft (loftIx b off) n
  let v := u.1 ||| (old - (old &&& u.2.1))
  let mask := (List.range n).foldl (fun m k => if u.2.1 / 2 ^ (8 * k) % 256 = 0 then m else m ||| 2 ^ k) 0
  let pois := (List.range (n / 64)).foldl (fun p g => if u.2.2 / 2 ^ (16 * g) % 2 ^ 16 = 0 then p else p ||| 2 ^ g) 0
  [.loft off (bytesOf n v) mask pois]

/-- What the driver of a word carries from iteration to iteration: the state as its reads see it, the writes made, the
unit being filled, the first refused loft offset, and what WINNOW, RESOW and RED carry. -/
structure VRun where
  view : Mach
  writes : List VWrite
  buf : Nat × Nat × Nat
  bad : Option Nat
  /-- Loft bytes read, and the accesses in order: offset and bytes. -/
  rd : Nat
  reads : List (Nat × Nat)
  elems : List (Nat × Bool)
  used : Nat
  groups : List (Nat × Bool × Bool)

/-- FCLK of issue of an iteration. -/
def iterAt (p ii i : Nat) : Nat := p + i * ii

/-- A write of a word. -/
def vWrite (word edge : Nat) (effs : List VEff) : VWrite :=
  { edge := edge, word := word, effs := effs, fin := false, sig := none, pois := false }

/-- Whether an effect writes poison. -/
def VEff.isPois : VEff → Bool
  | .lane _ _ _ _ p => p
  | .mask _ _ _ p => p
  | .scalar _ _ p => p
  | .acSet _ _ _ p => p
  | .acAdd _ _ _ p => p
  | .loft _ _ _ p => decide (p ≠ 0)
  | _ => false

/-- A write recorded: in the writes of the word and in what later reads of the word see. -/
def VRun.push (r : VRun) (b : Nat) (w : VWrite) : VRun :=
  { r with writes := r.writes ++ [w], view := modVxe r.view b (fun x => { x with flight := x.flight ++ [w] }) }

/-- A loft access of the word, noted where the fence refuses it. -/
def VRun.access (r : VRun) (b : Nat) (o : VOp) (n : Nat) : VRun :=
  match o with
  | .loft p =>
    let a := ptrAddr (vPtr (getVxe r.view b) p)
    if r.bad.isNone && !fenceOk r.view b a n then { r with bad := some a } else r
  | _ => r

/-- A loft source of the word read at its FCLK. -/
def VRun.source (r : VRun) (b : Nat) (o : VOp) (n : Nat) : VRun :=
  match o with
  | .loft p =>
    { r.access b o n with rd := r.rd + n, reads := r.reads ++ [(ptrAddr (vPtr (getVxe r.view b) p), n)] }
  | _ => r

/-- The results of an iteration go to their destination (R189, R195): a register part at once, a loft unit when its last
packed position is filled or with the word's last iteration, its unfilled positions zero. -/
def VRun.deliver (r : VRun) (b word edge : Nat) (d : VOp) (o : IterOut) (i : Nat) (last : Bool) : VRun :=
  let P := o.P
  let part := packEls o.w (o.q * 128 * o.w) o.els
  let fx := o.effs ++ o.flags.map (fun f => VEff.flags f.1 f.2)
  match d with
  | .reg n st =>
    let reg := if st then (n + i / P) % 64 else n
    let part := if o.w = 6 then (part.1, part.2.1 ||| (2 ^ 1024 - 1) * 2 ^ 3072, part.2.2) else part
    r.push b (vWrite word edge (regEffs reg part ++ fx))
  | .loft p =>
    let buf := (r.buf.1 ||| part.1, r.buf.2.1 ||| part.2.1, r.buf.2.2 ||| part.2.2)
    if i % P + 1 = P ∨ last then
      let n := unitBytes o.w
      let r := r.access b (.loft p) n
      let a := ptrAddr (vPtr (getVxe r.view b) p)
      let filled := (i % P + 1) * 128 * o.w
      let rest := if P = 1 then 0 else (2 ^ (8 * n) - 1) / 2 ^ filled * 2 ^ filled
      let r := r.push b (vWrite word edge (loftEffs r.view b a n (buf.1, buf.2.1 ||| rest, buf.2.2) ++ fx))
      { r with buf := (0, 0, 0) }
    else { r.push b (vWrite word edge fx) with buf := buf }
  | _ => r.push b (vWrite word edge fx)

/-- An operand advances after the iteration that consumes or fills its last packed position (R189). -/
def VRun.step (r : VRun) (b : Nat) (o : VOp) (P i : Nat) : VRun :=
  if i % P + 1 = P then { r with view := advancePtr r.view b o } else r

/-- The word's writes with the last of them marked: it sends the token (R196). -/
def closeWord (ws : List VWrite) (sig : Option Nat) : List VWrite :=
  let e := ws.foldl (fun m w => max m w.edge) 0
  let p := ws.any (fun w => w.effs.any VEff.isPois)
  let n := ws.length
  let k := ((List.range n).filter (fun i => decide ((ws.getD i (vWrite 0 0 [])).edge = e))).getLastD 0
  ws.zipIdx.map (fun x => if x.2 = k then { x.1 with fin := true, sig := sig, pois := p } else x.1)

/-- The FCLK of the loft writes of a list. -/
def loftEdges (ws : List VWrite) : List Nat :=
  (ws.filter (fun w => w.effs.any (fun e => match e with | .loft _ _ _ _ => true | _ => false))).map VWrite.edge

/-- The loft accesses of a word, read and write path (R263). -/
def vxeUses (s : Mach) (b p : Nat) (reads : List (Nat × Nat)) (ws : List VWrite) : Mach :=
  let s := loftUse s b { path := 2, wrt := false, ownBay := b, stream := 2, op := p, beats := reads, start := p, late := 0 }
  foldS ws (fun t w => foldS w.effs (fun u e => match e with
    | .loft off bs _ _ =>
      loftUse u b { path := 2, wrt := true, ownBay := b, stream := 2, op := p, beats := [(off, bs.length)],
                    start := w.edge, late := 0 }
    | _ => u) t) s

/-- Lanes left unmasked, counted by the event counters. -/
def vCount (s : Mach) (b n iters : Nat) : Mach :=
  bumpAo (countEv s b 0x06 n) (compDieId (dieOf b)) 2 iters

/-- The frame of a word (R194, R196): legality, the span, the token's destination, the run of its iterations, the fence,
the loft write path; then its writes are in flight and its pointers have moved. -/
def vWord (b : Nat) (w : Slot) (legal : Bool) (ii : Nat) (lanes : Mach → Nat)
    (body : Mach → Nat → Nat → VRun) (s : Mach) : Mach :=
  let x := getStream s b 2
  let p := x.issued
  let s := vFlush s b p
  let sigOk := decide (wSig w = 0) || decide (4 ≤ wSig w)
  if (legal && sigOk) = false then furrowErr s b 2 eIllegalOp
  else if slotHold w + 1 < (wRep w + 1) * ii then furrowErr s b 2 eBusy
  else
    let a := (vTok (getVxe s b) (wSig w % 4)).toNat
    match (if wSig w = 0 then none else destErr s a) with
    | some e => furrowErr s b 2 e
    | none =>
      let word := (getVxe s b).words + 1
      let r := body s word p
      match r.bad with
      | some off => fenceError s b 2 off
      | none =>
        let busy := loftEdges (getVxe s b).flight
        if (loftEdges r.writes).any busy.contains then furrowErr s b 2 eBusy
        else
          let ws := closeWord r.writes (if wSig w = 0 then none else some a)
          let s := vCount s b (lanes s) (wRep w + 1)
          let s := if r.rd = 0 then s else countLoftRead s b r.rd
          let s := vxeUses s b p r.reads ws
          let mp := (readMask (getVxe s b) (wMsk w) 0).2
            || r.writes.any (fun w => w.effs.any (fun e => match e with | .mask _ _ _ p => p | _ => false))
          let s := wb s .VXE_STATUS b 0 2 mp
          modVxe s b (fun x => { x with flight := x.flight ++ ws, words := word, ptr := (getVxe r.view b).ptr })

/-- A run that has not begun. -/
def vRun0 (s : Mach) : VRun :=
  { view := s, writes := [], buf := (0, 0, 0), bad := none, rd := 0, reads := [], elems := [], used := 0, groups := [] }

/-- Unmasked lanes of a word, over its iterations. -/
def unmasked (b : Nat) (w : Slot) (s : Mach) : Nat :=
  (List.range (wRep w + 1)).foldl (fun n i => n + popcount 128 (readMask (getVxe s b) (wMsk w) i).1.toNat) 0

/-- The clear of R188. -/
def vxeClear (s : Mach) (b : Nat) : Mach := modVxe s b (fun x => { Vxe.zero with words := x.words, lastWord := x.lastWord })

/-- At a preemption nothing is written after the slice boundary and no token is sent (R213). -/
def vxePreempt (s : Mach) (b e : Nat) : Mach := modVxe (vFlush s b e) b (fun x => { x with flight := [] })

end Sys2Proof.Machine
end

