-- ==== Sys2Proof/Machine/LoftOps.lean ====
section
/-! DEFINITION. The bank rule, the split, the cache region, the loft window, the pseudo-channel controllers and the
shared-region table (chapter 10). -/

namespace Sys2Proof.Machine

open Sys2Proof.Config (acyc)

/-! ### LOFT_ACCESS (R262, R263, R269) -/

/-- The accesses of an FCLK: a use and the bytes of its entry. -/
def usesAt (s : Mach) (b e : Nat) : List (LoftUse × Nat × Nat) :=
  (getBay s b).luse.filterMap (fun u =>
    if u.start ≤ e then (u.beats[e - u.start]?).map (fun x => (u, x.1, x.2)) else none)

/-- The order of R263: the earliest issue FCLK, reads before writes, then the path; on a landing path the owner's own write
before an inbound one (R290). -/
def useKey (b : Nat) (u : LoftUse) : Nat :=
  (2 ^ 20 - min u.late (2 ^ 20)) * 64 + (if u.wrt then 32 else 0) + u.path * 2 + (if u.ownBay = b then 0 else 1)

/-- Accesses sorted into that order. -/
def insertUse (b : Nat) (x : LoftUse × Nat × Nat) : List (LoftUse × Nat × Nat) → List (LoftUse × Nat × Nat)
  | [] => [x]
  | y :: l => if useKey b x.1 < useKey b y.1 then x :: y :: l else y :: insertUse b x l

/-- Banks of an access, a bit each. -/
def bankMask (off n : Nat) : Nat := (granules off n).foldl (fun m g => m ||| 2 ^ (g / 64 % 64)) 0

/-- The accesses that the bank rule delays (R262): one access a bank, 32 granule reads, 16 granule writes, and one access
a landing path. -/
def delayed (l : List (LoftUse × Nat × Nat)) : List LoftUse :=
  (l.foldl (fun (acc : Nat × Nat × Nat × List Nat × List LoftUse) x =>
    let banks := bankMask x.2.1 x.2.2
    let n := (granules x.2.1 x.2.2).length
    let path := x.1.path + (if x.1.wrt then 8 else 0)
    let ok := decide (acc.1 &&& banks = 0) && !(acc.2.2.2.1.contains path) &&
      (if x.1.wrt then decide (acc.2.2.1 + n ≤ 16) else decide (acc.2.1 + n ≤ 32))
    if ok then
      (acc.1 ||| banks, if x.1.wrt then acc.2.1 else acc.2.1 + n, if x.1.wrt then acc.2.2.1 + n else acc.2.2.1,
       path :: acc.2.2.2.1, acc.2.2.2.2)
    else (acc.1, acc.2.1, acc.2.2.1, acc.2.2.2.1, acc.2.2.2.2 ++ [x.1])) (0, 0, 0, [], [])).2.2.2.2

/-- An operation delayed by one FCLK (R263): its remaining accesses, results and token shift, its stream issues its next
word one FCLK later, and that is slip of cause WAIT. -/
def delayUse (s : Mach) (b e : Nat) (u : LoftUse) : Mach :=
  let o := u.ownBay
  let k := u.stream
  let later (v : LoftUse) : LoftUse :=
    if v.ownBay = o ∧ v.stream = k ∧ e < v.start + v.beats.length ∧ (v.op = u.op ∨ e < v.start) then
      { v with start := v.start + 1, late := if v.op = u.op then v.late + 1 else v.late }
    else v
  let s := { s with bays := s.bays.map (fun x => { x with luse := x.luse.map later }) }
  let s := bump s .LFT_CONF b 0 63 32 1
  let s := if u.wrt ∧ (3 ≤ k) ∧ (o ≠ b ∨ u.path ≠ k) then bump s .MOV_COUNT o 0 31 0 1 else s
  let sh (x : Nat) : Nat := if e ≤ x then x + 1 else x
  let s := match k with
    | 1 => modMxa s o (fun m =>
        { m with streamEnd := sh m.streamEnd, loadEnd := sh m.loadEnd, termEnd := m.termEnd.map sh,
                 drains := m.drains.map (fun d => { d with start := if e < d.start then d.start + 1 else d.start, fin := sh d.fin }) })
    | 2 => modVxe s o (fun x => { x with flight := x.flight.map (fun w => { w with edge := sh w.edge }) })
    | _ => modMove s o u.op (fun m => { m with late := m.late + 1 })
  let s := modStream s o k (fun x =>
    { x with last := sh x.last, nextAt := if e ≤ x.last then x.nextAt + 1 else x.nextAt, busy := sh x.busy })
  countEv (slip s o k 0 1) b 0x17 1

/-- The accesses of the bay's next FCLK are served or delayed. -/
def loftServe (s : Mach) (b : Nat) : Mach :=
  let e := max (edgeOf s b) (getBay s b).served
  let s := advanceEdge s b e
  let s := modBay s b (fun x => { x with served := e + 1 })
  foldS (delayed ((usesAt s b e).foldl (fun l x => insertUse b x l) [])) (fun t u => delayUse t b e u) s

/-- An error found by a unit port (R269). -/
def loftEcc (s : Mach) (b : Nat) (e : LoftEcc) : Mach :=
  match e with
  | .ce => bump s .LFT_ECC b 0 31 0 1
  | .ue off => lftErr (setGranPois s b (off / 64 * 64) true) b 3 (off / 64 * 64) ((getSeq s b).tid.getD 0) true

/-- LOFT_ACCESS. -/
def loftAccess (s : Mach) (b : Nat) (err : Option LoftEcc) : Mach :=
  let s := loftServe s b
  match err with
  | some e => loftEcc s b e
  | none => s

def execLoftAccess (b : BayNo) (err : Option LoftEcc) (s : State) : Host.Outcome State Fault Refusal :=
  onMach s (fun s => loftAccess s b err)

/-! ### The cache region (R265, R270 to R273) -/

/-- Sets of the cache region of a bay (R265). -/
def regionSets (s : Mach) (b : Nat) : Nat :=
  match rf s .LFT_SPLIT b 0 2 0 with | 1 => 32 | 2 => 64 | 3 => 128 | 4 => 256 | _ => 0

def getCReg (s : Mach) (b : Nat) : CReg := (getBay s b).creg

def modCReg (s : Mach) (b : Nat) (f : CReg → CReg) : Mach := modBay s b (fun x => { x with creg := f x.creg })

/-- Whether accesses look the region up: it is enabled, and no flush runs (R273). -/
def regionOn (s : Mach) (b : Nat) : Bool :=
  rb s .LFT_CCTL b 0 0 && !(rb s .LFT_CCTL b 0 1) && decide (regionSets s b ≠ 0)

/-- The way of a block in its set. -/
def regionWay (s : Mach) (b blk : Nat) : Option Nat :=
  let set := blk % regionSets s b
  (List.range 16).find? (fun w => decide (smapGet 0 (getCReg s b).blocks (set * 16 + w) = blk + 1))

/-- Lines that a bay's cache holds. -/
def bayLines (s : Mach) (b : Nat) : List Nat :=
  (s.held.filter (fun p => decide (p.1 / lineSpan = 128 + b))).map (fun p => p.1 % lineSpan)

/-- A line leaves a cache: a Modified or Exclusive one is written back through its home and acknowledged. -/
def dropLine (s : Mach) (k line : Nat) : Mach :=
  let s := settleLine s line
  if (getHeld s k line).st = 1 then putHeld s k line HLine.none else wbAck (writeBack s k line) k line

/-- Every line of a block leaves. -/
def dropBlock (s : Mach) (b blk : Nat) : Mach :=
  foldS ((bayLines s b).filter (fun l => decide (l / 64 = blk))) (fun t l => dropLine t (128 + b) l) s

/-- A line brought into a cache in one step, behind whatever its home has in progress; `own` for writing. -/
def obtainLine (s : Mach) (k line : Nat) (own : Bool) : Mach :=
  let s := settleLine s line
  settleLine (if own then readForOwnership s k line else readAllocating s k line) line

/-- BLOCK_ALLOCATE (R271): the victim is written back, the demanded line is fetched first and the other 63 follow. -/
def allocateBlock (s : Mach) (b line : Nat) : Mach :=
  let blk := line / 64
  let set := blk % regionSets s b
  let r := getCReg s b
  let bits := smapGet 0 r.plru set
  let way := match (List.range 16).find? (fun w => decide (smapGet 0 r.blocks (set * 16 + w) = 0)) with
    | some w => w
    | none => plruPick bits (fun _ => true) 4 1 0
  let old := smapGet 0 r.blocks (set * 16 + way)
  let s := if old = 0 then s else dropBlock s b (old - 1)
  let s := modCReg s b (fun r =>
    { blocks := smapPut 0 r.blocks (set * 16 + way) (blk + 1), plru := smapPut 0 r.plru set (plruTouch bits way 4 1),
      cand := r.cand.filter (fun c => decide (c.1 ≠ blk)) })
  let s := bump s .LFT_CMISS b 0 63 32 1
  foldS ((List.range 64).map (fun i => blk * 64 + (line % 64 + i) % 64)) (fun t l => obtainLine t (128 + b) l false) s

/-- A crop-range access of a bay's threads to a line looks the region up (R271). A line of the region that a store or an
atomic needs is obtained for ownership. -/
def regionLookup (s : Mach) (b line : Nat) (own : Bool) : Mach :=
  if regionOn s b = false then s
  else
    let blk := line / 64
    let set := blk % regionSets s b
    match regionWay s b blk with
    | some w =>
      let s := modCReg s b (fun r => { r with plru := smapPut 0 r.plru set (plruTouch (smapGet 0 r.plru set) w 4 1) })
      let s := if holds s (128 + b) line then countEv (bump s .LFT_CHITS b 0 63 0 1) b 0x10 1
        else countEv (bump s .LFT_CMISS b 0 31 0 1) b 0x11 1
      obtainLine s (128 + b) line own
    | none =>
      let s := countEv (bump s .LFT_CMISS b 0 31 0 1) b 0x11 1
      let n := (match (getCReg s b).cand.find? (fun c => decide (c.1 = blk)) with | some c => c.2 | none => 0) + 1
      if rf s .LFT_CCFG b 0 2 0 < n then
        let s := allocateBlock s b line
        if own then obtainLine s (128 + b) line true else s
      else modCReg s b (fun r => { r with cand := ((blk, n) :: r.cand.filter (fun c => decide (c.1 ≠ blk))).take 256 })

/-- A write of LFT_CCTL (R273): FLUSH starts a flush; ENABLE written 0 starts the same flush. -/
def onLftCctl (s : Mach) (b : Nat) (v : Word) : Mach :=
  let was := rb s .LFT_CCTL b 0 0
  let s := wb s .LFT_CCTL b 0 0 (bit v 0)
  if bit v 1 ∨ (was = true ∧ bit v 0 = false) then wb s .LFT_CCTL b 0 1 true else s

/-- CACHE_FLUSH_COMPLETE (R273): every Modified line is written back, every block is invalid and FLUSH reads 0. -/
def cacheFlushComplete (s : Mach) (b : Nat) : Mach :=
  if rb s .LFT_CCTL b 0 1 then
    let s := foldS (bayLines s b) (fun t l => dropLine t (128 + b) l) s
    wb (modCReg s b (fun _ => CReg.zero)) .LFT_CCTL b 0 1 false
  else s

def execCacheFlushComplete (b : BayNo) (s : State) : Host.Outcome State Fault Refusal := onMach s (fun s => cacheFlushComplete s b)

/-- Whether a furrow is running in a partition (R98). -/
def furrowRunning (s : Mach) (p : Nat) : Bool :=
  (getRota s p).enabled || (partBays s p).any (fun b => decide ((getSeq s b).st ≠ .idle))

/-- A write of LFT_SPLIT (R266). Bytes that pass into the planned region hold undefined values. -/
def onLftSplit (s : Mach) (b : Nat) (v : Word) : Mach :=
  let code := fld v 2 0
  let running : Bool := match bayPid s b with | some p => furrowRunning s p | none => false
  if running = true ∨ 5 ≤ code ∨ rg s .LFT_CCTL b 0 ≠ 0 then lftErr s b 5 0 0 true
  else
    let old := plannedSize s b
    let s := wf s .LFT_SPLIT b 0 2 0 code
    let new := plannedSize s b
    let lo := loftIx b old
    let hi := loftIx b new
    let keep := min old new
    let s := { s with loftPois := s.loftPois.filter (fun p =>
      !(decide (loftIx b keep / 64 ≤ p.1) && decide (p.1 < loftIx b 0x1800000 / 64))) }
    let s := modCReg s b (fun _ => CReg.zero)
    if new ≤ old then s
    else
      let r := drawBytes s (hi - lo)
      { r.2 with loft := writeBytes r.2.loft lo r.1 }

/-! ### The loft window (R264, R268) -/

/-- LOFT_WINDOW_ACCESS: the check of the access tables comes first; then an absent bay ignores the access, and one past the
planned region is an access error (R268, R462, R465). -/
def loftWindowAccess (s : Mach) (mid : Nat) (proxy : Option Nat) (a : Nat) (op : WindowOp) : Mach :=
  match region s a with
  | .window b off =>
    let n := match op with | .read n => n | .write bs _ => bs.length
    let c := checkedAs s mid proxy
    let may := match op with | .read _ => (rightsAt s c a).read | .write _ _ => (rightsAt s c a).write
    if may = false then refuseMem s mid c 0 a
    else if bayPresent s b = false then s
    else if plannedSize s b < off + n then
      raise s ((mkRec s 1 0xF5 5 (b % 12) (compDieId (dieOf b)) a (a / 2 ^ 16)).forPart c.pid 0)
    else
      match op with
      | .read n => countEv (countLoftRead s b n) b 0x09 (ceilDiv n 64)
      | .write bs p => loftWrite (countEv (countLoftWrite s b bs.length) b 0x09 (ceilDiv bs.length 64)) b off bs p
  | _ => s

def execLoftWindowAccess (mid : Mid) (proxy : Option PartNo) (addr : Nat) (op : WindowOp) (s : State) :
    Host.Outcome State Fault Refusal :=
  guarded op.wf s (fun s => loftWindowAccess s mid (proxy.map Fin.val) addr op)

/-! ### Pseudo-channel controllers (R279 to R284) -/

/-- A request is served (R279 to R283): check, lock, refusal of an anchored add without ANC80, poison, and the data.
`lat` is the ACYC from arrival to the last byte. -/
def grnServe (s : Mach) (r : GrnReq) (lat : Nat) : Mach :=
  let a := s.cfg.grnBase + r.off
  let p := pcOf r.off
  let c := checkedAs s r.mid r.proxy
  let g := rightsAt s c a
  let wrt : Bool := match r.op with | .read => false | _ => true
  let s := if r.planned then
      (if rf s .GRN_LATMAX p.stack 0 63 32 < sat 32 lat then wf s .GRN_LATMAX p.stack 0 63 32 (sat 32 lat) else s)
    else (if rf s .GRN_LATMAX p.stack 0 31 0 < sat 32 lat then wf s .GRN_LATMAX p.stack 0 31 0 (sat 32 lat) else s)
  if (if wrt then g.write else g.read) = false then refuseMem s r.mid c 0 a
  else if wrt ∧ writeLocked s c a then grnErr s (r.off / 64 * 64) 2
  else
    let s := countBytes s a 64 (match r.op with | .read => .read | .write _ _ _ => .write | .ancAdd => .add)
      (ownerOf s r.mid none)
    match r.op with
    | .read => if r.ue then memUE s a else s
    | .write d m q => homeWrite s (a / 64) d m.toNat q
    | .ancAdd => if s.fuses.variantE then grnErr s (r.off / 64 * 64) 3 else s

/-- The request that a controller serves next: an aged FLEX request, else the oldest PLANNED one, else the oldest; none goes
ahead of an older request to its line (R279). -/
def grnNext (s : Mach) (pc : Nat) : Option GrnReq :=
  let q := s.grnq.filter (fun r => decide ((pcOf r.off).pc = pc))
  let ok := q.zipIdx.filter (fun x => !((q.take x.2).any (fun y => decide (y.off / 64 = x.1.off / 64))))
  let ok := ok.map Prod.fst
  match ok.find? (fun r => r.aged), ok.find? (fun r => r.planned) with
  | some r, _ => some r
  | _, some r => some r
  | _, _ => ok.head?

/-- GRANARY_REQUEST: requests arrive at a controller, and it serves one, whose last byte is delivered `n` ACYC later. -/
def granaryRequest (s : Mach) (pc : Nat) (l : List GrnArrival) (n : Nat) : Mach :=
  let new := (l.filter (fun a => decide (a.off < granarySize s) && decide ((pcOf a.off).pc = pc))).map (fun a =>
    { off := a.off, mid := a.mid, proxy := a.proxy.map Fin.val, planned := a.planned, aged := false, arrived := s.now,
      op := a.op, ue := a.ue : GrnReq })
  let s := { s with grnq := s.grnq ++ new }
  match grnNext s pc with
  | none => s
  | some r =>
    let s := advanceTo { s with grnq := s.grnq.erase r } (s.now + n * acyc)
    grnServe s r ((s.now - r.arrived) / acyc)

def execGranaryRequest (pc : Fin 384) (arrivals : List GrnArrival) (n : Nat) (s : State) : Host.Outcome State Fault Refusal :=
  onMach s (fun s => granaryRequest s pc arrivals n)

/-- FLEX_AGE_EXPIRY (R279): the oldest FLEX request of a controller has waited FLEX_AGE × 16 ACYC and is served next. -/
def flexAgeExpiry (s : Mach) (pc : Nat) : Mach :=
  match s.grnq.find? (fun r => decide ((pcOf r.off).pc = pc) && !r.planned && !r.aged) with
  | none => s
  | some r =>
    let age := max 1 (rf s .GRN_CFG ((pcOf r.off).stack) 0 15 0) * 16 * acyc
    let s := advanceTo s (r.arrived + age)
    { s with grnq := s.grnq.map (fun q => if q = r then { q with aged := true } else q) }

def execFlexAgeExpiry (pc : Fin 384) (s : State) : Host.Outcome State Fault Refusal := onMach s (fun s => flexAgeExpiry s pc)

/-- PATROL_SCRUB (R280): a line is read; an uncorrectable one is treated as if it had been read. Corrected data is written
back, which leaves the line as it reads. -/
def patrolScrub (s : Mach) (line : Nat) (ue : Bool) : Mach :=
  match region s (line * 64) with
  | .granary o =>
    if rf s .GRN_CFG ((pcOf o).stack) 0 23 16 = 0 ∨ ue = false then s else memUE s (line * 64)
  | _ => s

def execPatrolScrub (line : Nat) (ue : Bool) (s : State) : Host.Outcome State Fault Refusal := onMach s (fun s => patrolScrub s line ue)

/-! ### The shared-region table (R282) -/

/-- SHR_REJECT: recorded in the block addressed, stack 0 of a barn die; LINE is the first of the range. -/
def shrReject (s : Mach) (barn n : Nat) (v : Word) : Mach :=
  let o := fld v 22 0 * 65536
  let s := recordFirst s .GRN_ERR (3 * barn) 0 (packFlds [(52, 48, n), (46, 40, 4), (38, 6, o / 64)])
  let a := s.cfg.grnBase + o
  raise s (mkRec s 2 4 9 0 (barnDieId barn) a (a / 2 ^ 16))

/-- A write of GRN_SHRn_A (R282): all four copies change together; a valid entry is checked first. -/
def onShrA (s : Mach) (barn n : Nat) (v : Word) : Mach :=
  let base := fld v 22 0
  let size := fld v 45 23
  let clash := (List.range 32).any (fun k =>
    decide (k ≠ n) && bit (shrA s k) 63 && overlaps (fld (shrA s k) 22 0) (fld (shrA s k) 45 23) base size)
  if bit v 63 ∧ (granarySize s < (base + size) * 65536 ∨ clash = true ∨ size = 0 ∨ fld v 61 60 = 3) then shrReject s barn n v
  else wr s .GRN_SHR_A 0 n (packFlds [(63, 60, fld v 63 60), (45, 0, fld v 45 0)])

end Sys2Proof.Machine
end

