-- ==== Sys2Proof/Machine/Sem.lean ====
section
/-! DEFINITION. Bay semaphores: pools, operations in their fixed order, waits, the SEM stream and block transfers
(chapter 09). -/

namespace Sys2Proof.Machine

def getSem (s : Mach) (b : Nat) : Sem := (getBay s b).sem

def modSem (s : Mach) (b : Nat) (f : Sem → Sem) : Mach := modBay s b (fun x => { x with sem := f x.sem })

/-- COUNT of a physical semaphore. -/
def semCount (s : Mach) (b i : Nat) : Nat := (smapGet 0 (getSem s b).count i).toNat

def setSemCount (s : Mach) (b i n : Nat) : Mach :=
  modSem s b (fun x => { x with count := smapPut 0 x.count i (BitVec.ofNat 32 n) })

/-! ### Pools (R248, R249) -/

/-- The valid pool of a tenant in a bay: its first physical index and its size. -/
def semPool (s : Mach) (b tid : Nat) : Option (Nat × Nat) :=
  ((List.range 64).find? (fun k =>
      rb s .SEM_POOL b k 63 && decide (rf s .SEM_POOL b k 57 48 = tid))).map (fun k =>
    (rf s .SEM_POOL b k 22 16 * 16, rf s .SEM_POOL b k 7 0 * 16))

/-- The physical semaphore of a logical index of a tenant; none outside its pool. -/
def semPhys (s : Mach) (b tid idx : Nat) : Option Nat :=
  match semPool s b tid with
  | some (base, size) => if idx < size then some (base + idx) else none
  | none => none

/-! ### Errors (R257, R259) -/

def semStream : Nat := 0
def semSheaf : Nat := 1
def semMxa : Nat := 2
def semMover : Nat := 3
def semCsp : Nat := 4

/-- SEM_ERR records the first error; every error raises a record. -/
def semErr (s : Mach) (b src code phys : Nat) : Mach :=
  let t := (getSeq s b).tid.getD 0
  let s := match code with
    | 1 => bump s .SEM_ERRCNT b 0 63 32 1
    | 2 => bump s .SEM_ERRCNT b 0 31 0 1
    | _ => s
  raiseBay (recordFirst s .SEM_ERR b 0 (packFlds [(57, 48, t), (42, 40, src), (34, 24, phys), (7, 0, code)])) b
    (bayRec s b 8 code 7 0 none)

/-! ### Operations (R251, R252) -/

/-- SEM_ERR.SRC of an issuer, and its place in the order of R252. -/
def SemSrc.code : SemSrc → Nat
  | .stream => semStream | .mxa => semMxa | .mover => semMover | .sheaf _ => semSheaf | .csp => semCsp

def SemSrc.rank : SemSrc → Nat
  | .stream => 0 | .mxa => 1 | .mover => 2 | .sheaf k => 3 + k | .csp => 100000

/-- An operation performed on its semaphore. -/
def semApply (s : Mach) (b : Nat) (o : SemOp) : Mach :=
  let s := countEv s b 0x16 1
  let c := semCount s b o.phys
  match o.kind with
  | .add =>
    let s := setSemCount s b o.phys (min (c + o.n) 0xFFFFFFFF)
    if 0xFFFFFFFF < c + o.n then semErr s b o.src.code 1 o.phys else s
  | .sub =>
    let s := setSemCount s b o.phys (c - o.n)
    if c < o.n then semErr s b o.src.code 2 o.phys else s
  | .set => setSemCount s b o.phys o.n

/-- Waits evaluated at an FCLK, against one COUNT: a wait whose condition holds notes the FCLK, and SWAIT with CONS = 1
subtracts (R251, R253, R255). `first` evaluates waits whose first evaluation lies before `e`. -/
def evalWaits (s : Mach) (b e : Nat) (first : Bool) : Mach :=
  let x := getSem s b
  let due (from_ : Nat) : Bool := if first then decide (from_ < e) else decide (from_ ≤ e)
  let at_ (from_ : Nat) : Nat := if first then from_ else e
  let ws := x.waits.map (fun w =>
    if w.got.isNone && due w.from_ && decide (w.n ≤ semCount s b w.phys) then { w with got := some (at_ w.from_) } else w)
  let s := modSem s b (fun x => { x with waits := ws })
  match x.swait with
  | none => s
  | some w =>
    if w.got.isNone && due w.from_ && decide (w.n ≤ semCount s b w.phys) then
      let s := if w.cons then setSemCount s b w.phys (semCount s b w.phys - w.n) else s
      modSem s b (fun x => { x with swait := some { w with got := some (at_ w.from_) } })
    else s

/-- Whether a block transfer holds operations on a semaphore (R258). -/
def xferHolds (x : Sem) (i : Nat) : Bool :=
  match x.xfer with
  | some t => decide (t.first ≤ i) && decide (i < t.first + t.count)
  | none => false

/-- The completion additions due at an FCLK, resolved against the pools as they stand (R638): operations, or OUT_OF_POOL. -/
def takeDones (s : Mach) (b e : Nat) : Mach :=
  let ds := (getSem s b).dones.filter (fun d => decide (d.edge + 8 ≤ e))
  let s := modSem s b (fun x => { x with dones := x.dones.filter (fun d => !decide (d.edge + 8 ≤ e)) })
  foldS ds (fun t d =>
    match semPhys t b d.tid d.idx with
    | some i =>
      modSem t b (fun x => { x with ops := x.ops ++
        [{ edge := d.edge + 8, src := if d.mover then .mover else .mxa, kind := .add, phys := i, n := 1 }] })
    | none => semErr t b (if d.mover then semMover else semMxa) 3 d.idx) s

/-- One operation reaches the block: performed, or held behind a block transfer of its range. -/
def semArrive (b : Nat) (s : Mach) (o : SemOp) : Mach :=
  if xferHolds (getSem s b) o.phys then
    modSem s b (fun x => { x with xfer := x.xfer.map (fun t => { t with held := t.held ++ [o] }) })
  else semApply s b o

/-- An operation put before the first of a list that does not go ahead of it (R252). -/
def insertOp (o : SemOp) : List SemOp → List SemOp
  | [] => [o]
  | p :: l => if o.src.rank ≤ p.src.rank then o :: p :: l else p :: insertOp o l

/-- Everything due at FCLK `e`: operations in the order of R252, then the waits. -/
def semAt (s : Mach) (b e : Nat) : Mach :=
  let s := advanceEdge s b e
  let s := evalWaits s b e true
  let s := takeDones s b e
  let ops := (getSem s b).ops.filter (fun o => decide (o.edge ≤ e))
  let s := modSem s b (fun x => { x with ops := x.ops.filter (fun o => !decide (o.edge ≤ e)) })
  let sorted := ops.foldr insertOp []
  evalWaits (foldS sorted (semArrive b) s) b e false

/-- The earliest FCLK at which an operation or an addition is due. -/
def semNext (x : Sem) : Option Nat :=
  ((x.ops.map SemOp.edge) ++ (x.dones.map (fun (d : SemDone) => d.edge + 8))).foldl (fun (m : Option Nat) e =>
    match m with
    | none => some e
    | some k => some (min k e)) none

/-- Everything due up to FCLK `e`, in order. -/
def semRunN (s : Mach) (b e : Nat) : Nat → Mach
  | 0 => s
  | n + 1 =>
    match semNext (getSem s b) with
    | some k => if k ≤ e then semRunN (semAt s b k) b e n else s
    | none => s

def semRun (s : Mach) (b e : Nat) : Mach :=
  semRunN s b e ((getSem s b).ops.length + (getSem s b).dones.length)

/-- SEM_PERFORM (R252): the operations due next are performed in their fixed order and the waits evaluated. -/
def semPerform (s : Mach) (b : Nat) : Mach :=
  match semNext (getSem s b) with
  | some e => semAt s b e
  | none => s

def execSemPerform (b : BayNo) (s : State) : Host.Outcome State Fault Refusal := onMach s (fun s => semPerform s b)

/-- SEM_COMPLETION_ADD (R638): the oldest completion addition is made 8 FCLK after the completion was taken. -/
def semCompletionAdd (s : Mach) (b : Nat) : Mach :=
  match (getSem s b).dones with
  | d :: _ => semRun s b (d.edge + 8)
  | [] => s

def execSemCompletionAdd (b : BayNo) (s : State) : Host.Outcome State Fault Refusal := onMach s (fun s => semCompletionAdd s b)

/-! ### The SEM stream (R254, R255) -/

def semWordIdx (w : Slot) : Nat := fld w 103 93

/-- A word of the SEM stream with its index resolved; an index outside the pool is ILLEGAL_OP and OUT_OF_POOL. -/
def onSem (b : Nat) (w : Slot) (wait : Bool) (f : Nat → Mach → Mach) (s : Mach) : Mach :=
  if reservedClear w (if wait then [(103, 92), (31, 0)] else [(103, 93), (31, 0)]) = false then furrowErr s b 5 eIllegalOp
  else
    match (getSeq s b).tid.bind (fun t => semPhys s b t (semWordIdx w)) with
    | some i => f i s
    | none => furrowErr (semErr s b semStream 3 (semWordIdx w)) b 5 eIllegalOp

/-- SADD, SSUB and SSET: performed 8 FCLK after the first FCLK of the span. -/
def semOpWord (b : Nat) (k : SemKind) (w : Slot) (s : Mach) : Mach :=
  onSem b w false (fun i s =>
    modSem s b (fun x => { x with ops := x.ops ++
      [{ edge := (getStream s b 5).issued + 8, src := .stream, kind := k, phys := i, n := fld w 31 0 }] })) s

def execSadd (b : BayNo) (s : State) : Host.Outcome State Fault Refusal := onMach s (fun s => onSlot s b 5 1 1 (semOpWord b .add))
def execSsub (b : BayNo) (s : State) : Host.Outcome State Fault Refusal := onMach s (fun s => onSlot s b 5 1 2 (semOpWord b .sub))
def execSset (b : BayNo) (s : State) : Host.Outcome State Fault Refusal := onMach s (fun s => onSlot s b 5 1 3 (semOpWord b .set))

/-- SWAIT: the stream is held; the condition is evaluated from p + 8 on. WAIT with n = 0 is satisfied there at once. -/
def doSwait (b : Nat) (w : Slot) (s : Mach) : Mach :=
  onSem b w true (fun i s =>
    let x : SWait :=
      { phys := i, n := fld w 31 0, cons := bit w 92, from_ := (getStream s b 5).issued + 8, got := none }
    holdStream (modSem s b (fun y => { y with swait := some x })) b 5 .swait) s

def execSwait (b : BayNo) (s : State) : Host.Outcome State Fault Refusal := onMach s (fun s => onSlot s b 5 1 4 (doSwait b))

/-- SWAIT_RELEASE (R255): with h the first FCLK at which the condition holds, the next word issues at max(L + 1, h + 1);
the extension is slip of cause WAIT. -/
def swaitRelease (s : Mach) (b : Nat) : Mach :=
  match (getSem s b).swait with
  | none => s
  | some w0 =>
   if isHalted s b then s else
    let s := if w0.got.isNone then evalWaits s b (w0.from_ + 1) true else s
    match (getSem s b).swait.bind SWait.got with
    | none => s
    | some h =>
      let t0 := (getStream s b 5).last + 1
      let m := runEdge s b (max t0 (workEdge s b (h + 1)))
      let s := advanceEdge s b m
      let s := modSem s b (fun x => { x with swait := none })
      releaseAt (slip s b 5 0 (m - t0)) b 5 m

def execSwaitRelease (b : BayNo) (s : State) : Host.Outcome State Fault Refusal := onMach s (fun s => swaitRelease s b)

/-- A SWAIT pending at a preemption or a slice end is withdrawn (R255). -/
def semWithdraw (s : Mach) (b : Nat) : Mach := modSem s b (fun x => { x with swait := none })

/-! ### Control space (R249, R258, R260) -/

/-- A write of an array entry (R260): performed at the first FCLK edge at or after its arrival (R252). -/
def onSemArray (s : Mach) (b i : Nat) (v : Word) : Mach :=
  let op := fld v 63 62
  if op = 3 ∨ fld v 61 32 ≠ 0 then semErr s b semCsp 5 i
  else
    let e := edgeAfter (clkOf s b) s.now
    let k : SemKind := if op = 0 then .set else if op = 1 then .add else .sub
    let s := modSem s b (fun x => { x with ops := x.ops ++ [{ edge := e, src := .csp, kind := k, phys := i, n := fld v 31 0 }] })
    semRun s b e

/-- A write of SEM_POOLk (R249): ignored with POOL_REJECT, which names the first index of the range written, or the pool
changes. DEDUCED, log entry 26. -/
def onSemPool (s : Mach) (b k : Nat) (v : Word) : Mach :=
  let valid := bit v 63
  let base := fld v 22 16
  let size := fld v 7 0
  let tid := fld v 57 48
  let others := (List.range 64).filter (fun j => decide (j ≠ k) && rb s .SEM_POOL b j 63)
  let cur := (getSeq s b).tid
  let reject :=
    (valid && (decide (size = 0) || decide (128 < base + size))) ||
    (valid && others.any (fun j => overlaps base size (rf s .SEM_POOL b j 22 16) (rf s .SEM_POOL b j 7 0))) ||
    (valid && others.any (fun j => decide (rf s .SEM_POOL b j 57 48 = tid))) ||
    (rb s .SEM_POOL b k 63 && decide (cur = some (rf s .SEM_POOL b k 57 48))) ||
    (valid && decide (cur = some tid))
  if reject then semErr s b semCsp 4 (base * 16)
  else wr s .SEM_POOL b k (packFlds [(63, 63, valid.toNat), (57, 48, tid), (22, 16, base), (7, 0, size)])

/-- A write of SEM_XFER_CTL (R258): its fields are kept; START begins a transfer or records XFER_REFUSED. While a
transfer runs the write is ignored. -/
def onSemXfer (s : Mach) (b : Nat) (v : Word) : Mach :=
  if (getSem s b).xfer.isSome then s
  else
    let s := wr s .SEM_XFER_CTL b 0 (packFlds [(61, 61, fld v 61 61), (43, 32, fld v 43 32), (10, 0, fld v 10 0)])
    if bit v 62 = false then s
    else
      let first := fld v 10 0
      let c := fld v 43 32
      let n := if c = 0 then 2048 else c
      let own := match (getSeq s b).tid.bind (semPool s b) with
        | some p => overlaps first n p.1 p.2
        | none => false
      if own || decide (2048 < first + n) then semErr s b semCsp 6 first
      else
        let t : SemXfer :=
          { first := first, count := n, load := bit v 61, addr := rf s .SEM_XFER_ADDR b 0 47 0, held := [] }
        wb (modSem s b (fun x => { x with xfer := some t })) .SEM_XFER_CTL b 0 63 true

/-- SEM_XFER_COMPLETE (R258): the copy is made with the bay's master ID, then the held operations in arrival order. A
semaphore whose memory the access tables refuse keeps its COUNT. -/
def semXferComplete (s : Mach) (b : Nat) : Mach :=
  match (getSem s b).xfer with
  | none => s
  | some t =>
    let mid := 0x80 + b
    let s := foldS (List.range t.count) (fun u k =>
      let a := t.addr / 8 * 8 + 8 * k
      let i := t.first + k
      if t.load then
        match readAs u mid none 0 a 8 with
        | (some v, u) => setSemCount u b i (ofBytes v.1 % 2 ^ 32)
        | (none, u) => u
      else (writeAs u mid none 0 a (bytesOf 8 (semCount u b i)) false).2) s
    let held := match (getSem s b).xfer with | some t => t.held | none => []
    let s := modSem s b (fun x => { x with xfer := none })
    let s := foldS held (semApply · b ·) s
    let s := evalWaits s b (edgeOf s b) false
    wb s .SEM_XFER_CTL b 0 63 false

def execSemXferComplete (b : BayNo) (s : State) : Host.Outcome State Fault Refusal := onMach s (fun s => semXferComplete s b)

end Sys2Proof.Machine
end

