-- ==== Sys2Proof/Machine/VkSend.lean ====
section
/-! DEFINITION. Packets leaving this package: their encoding, routing and the requests that wait for an answer (R439, R442,
R443, R455). -/

namespace Sys2Proof.Machine

/-! ### Packet types (R443) -/

def ptRD : Nat := 0x01
def ptWR : Nat := 0x02
def ptWRM : Nat := 0x03
def ptATOM : Nat := 0x04
def ptNADD : Nat := 0x05
def ptLWR : Nat := 0x06
def ptLRD : Nat := 0x07
def ptSTOK : Nat := 0x08
def ptRDATA : Nat := 0x10
def ptWACK : Nat := 0x11
def ptARSP : Nat := 0x12
def ptSWR : Nat := 0x18
def ptSLWR : Nat := 0x19
def ptMRD : Nat := 0x1C
def ptMWR : Nat := 0x1D
def ptMRSP : Nat := 0x1E

/-- The virtual channel of a packet type (R423). -/
def vcOf (pt : Nat) : Nat := if pt < 0x10 then 2 else if pt < 0x18 then 3 else if pt < 0x1C then 4 else 5

/-- Slots of a packet (LEN). -/
def Pkt.len (p : Pkt) : Nat := 1 + p.data.length

/-- The header slot (R442). -/
def Pkt.header (p : Pkt) : BitVec 128 :=
  let fs : List (Nat × Nat × Nat) :=
    [(127, 80, p.addr), (79, 75, p.mod_), (74, 65, p.tag), (64, 53, p.sid), (52, 44, p.mid), (43, 30, p.snode),
     (29, 16, p.dnode), (15, 13, p.hops), (12, 8, p.ptype), (7, 5, p.vc), (4, 0, p.len - 1)]
  fs.foldl (fun w f => setFld w f.1 f.2.1 f.2.2) 0

def Pkt.slots (p : Pkt) : List (BitVec 128) := p.header :: p.data

/-- The packet that a row of slots spells. -/
def parsePkt (l : List (BitVec 128)) : Option Pkt :=
  match l with
  | [] => none
  | h :: t =>
    some { vc := fld h 7 5, ptype := fld h 12 8, hops := fld h 15 13, dnode := fld h 29 16, snode := fld h 43 30,
           mid := fld h 52 44, sid := fld h 64 53, tag := fld h 74 65, mod_ := fld h 79 75, addr := fld h 127 80, data := t }

/-- Slots holding a row of bytes. -/
def slotsOf (bs : List Byte) : List (BitVec 128) :=
  (List.range (ceilDiv bs.length 16)).map (fun i => BitVec.ofNat 128 (ofBytes ((bs.drop (16 * i)).take 16)))

/-- The bytes of a row of slots. -/
def bytesOfSlots (l : List (BitVec 128)) : List Byte := l.flatMap (fun w => bytesOf 16 w.toNat)

/-! ### Sending (R439) -/

/-- A packet of this package joins its egress port; none where its destination is unroutable. -/
def sendPkt (s : Mach) (p : Pkt) (due : Option Nat) : Option Mach :=
  (routePort s p.dnode).map (fun q =>
    modPort s q (fun x => { x with txq := x.txq ++ [{ pkt := p, from_ := none, due := due, since := s.now }] }))

/-- A response or STOK: dropped with a record where its destination is unroutable. -/
def sendOrDrop (s : Mach) (p : Pkt) : Mach := (sendPkt s p none).getD (unroutable s p.dnode)

/-- What became of a request: sent, answered UNROUTABLE at once, or waiting for a free tag. -/
inductive VkSent where
  | sent | unroutable | noTag
  deriving DecidableEq, Repr

/-- A tag of a master that is neither in use nor held back (R455). -/
def freeTag (s : Mach) (mid : Nat) : Option Nat :=
  (List.range 1024).find? (fun t => s.vkReqs.all (fun r => decide (r.mid ≠ mid) || decide (r.tag ≠ t)))

/-- A request of a master to another node. -/
def vkRequest (s : Mach) (mid sid node pt mod_ addr : Nat) (data : List (BitVec 128)) (owner : VkOwner)
    (due : Option Nat) : VkSent × Mach :=
  match freeTag s mid with
  | none => (.noTag, s)
  | some t =>
    let p : Pkt :=
      { vc := vcOf pt, ptype := pt, hops := 0, dnode := node, snode := s.route.nodeId, mid := mid, sid := sid, tag := t,
        mod_ := mod_, addr := addr, data := data }
    match sendPkt s p due with
    | none => (.unroutable, s)
    | some s =>
      (.sent, { s with vkReqs := s.vkReqs ++
        [{ mid := mid, tag := t, node := node, owner := owner, sentAt := s.now, held := false }] })

end Sys2Proof.Machine
end

