-- ==== Sys2Proof/Machine/Movers.lean ====
section
/-! DEFINITION. Bale moves: issue, source data, landings, near-memory adds, completion, the flex queue and the barn movers
(chapter 11). Units 0 to 71 are bays, 72 to 75 the barn dies. -/

namespace Sys2Proof.Machine

open Sys2Proof.Config (acyc)

/-! ### Moves by unit -/

def getBarnMov (s : Mach) (d : Nat) : BarnMov := vget BarnMov.zero s.barnMov d

def modBarnMov (s : Mach) (d : Nat) (f : BarnMov → BarnMov) : Mach := { s with barnMov := vmod s.barnMov d f }

def unitMoves (s : Mach) (u : Nat) : List Move := if u < 72 then (getMov s u).moves else (getBarnMov s (u - 72)).moves

def getMv (s : Mach) (u id : Nat) : Option Move := (unitMoves s u).find? (fun m => decide (m.id = id))

def modMv (s : Mach) (u id : Nat) (f : Move → Move) : Mach :=
  if u < 72 then modMove s u id f
  else modBarnMov s (u - 72) (fun x => { x with moves := x.moves.map (fun m => if m.id = id then f m else m) })

/-- The master ID that a move's accesses carry (R461). -/
def mvMid (u : Nat) (m : Move) : Nat :=
  if u < 72 then (if m.mover = 0 then 0x100 + u else 0x148 + u) else 0x190 + 8 * (u - 72) + m.mover

/-- MOV_BERR and MOV_BERRDESC keep the first error; every error raises a record (R315). -/
def barnErr (s : Mach) (d k tid : Nat) (pid : Option Nat) (at_ code : Nat) : Mach :=
  let first := !(rb s .MOV_BERR d 0 63)
  let s := recordFirst s .MOV_BERR d 0 (packFlds [(57, 48, tid), (47, 45, k), (39, 8, at_ / 64), (7, 0, code)])
  let s := if first then wr s .MOV_BERRDESC d 0 (packFlds [(47, 6, at_ / 64)]) else s
  let die := barnDieId d
  raise s ((mkRec s 8 code 4 k die at_ (die * 256 + k)).forPart pid tid)

/-- An error of a move: it completes with P = 1 (R311). -/
def mvErr (s : Mach) (u : Nat) (m : Move) (code : Nat) : Mach :=
  if u < 72 then movErr s u m code
  else
    let s := modMv s u m.id (fun m => { m with pois := true, err := if m.err = 0 then code else m.err })
    barnErr s (u - 72) m.mover m.tid m.proxy m.at_ code

/-! ### Translations (R316, R326) -/

/-- A piece of a side in virtual memory. -/
def isVa (k : Nat) : Bool := decide (keyKind k = 1)

/-- The KIND of a beat's translation (R334). -/
def mvKind (d : Line) (wrt : Bool) : Nat := if wrt then (if dOp d = 0 then 5 else 6) else 4

/-- The answers that have come for a move. -/
def takeAnswers (s : Mach) (u id : Nat) : Mach :=
  let own := fun (r : XReq) => decide (r.owner = (if u < 72 then XOwner.move id else XOwner.barn id))
  let l := (getEtr s u).ans.filter (fun a => own a.req)
  if l = [] then s
  else modMv (modEtr s u (fun x => { x with ans := x.ans.filter (fun a => !own a.req) })) u id
    (fun m => { m with xl := m.xl ++ l })

/-- Pages of a list of pieces, up to 8, each with its first piece. -/
def pagesOf (l : List (Nat × Nat)) : List (Nat × Nat × Nat) :=
  ((l.filter (fun p => isVa p.1)).foldl (fun (acc : List (Nat × Nat × Nat)) p =>
    let pg := p.1 % 2 ^ 48 / 65536
    if acc.any (fun q => decide (q.1 = pg)) ∨ 8 ≤ acc.length then acc else acc ++ [(pg, p.1 % 2 ^ 48, p.2)]) [])

/-- The pieces of the next source blocks and output beats of a move. -/
def aheadPieces (m : Move) (wrt : Bool) : List (Nat × Nat) :=
  if wrt then ((dstBeats m.desc).drop m.next).flatMap (blockPieces ((dstSide m.desc).rows.map (fun r => r.2.2)))
  else ((srcBeats m.desc).filter (fun b => m.got.all (fun g => decide (g.blk ≠ b)))).flatMap (blockPieces (srcRows m.desc))

/-- A move asks for the translations of its pages, up to 8 pages ahead. -/
def askPages (s : Mach) (u id : Nat) : Mach :=
  foldS [false, true] (fun t wrt =>
    match getMv t u id with
    | none => t
    | some m =>
      foldS (pagesOf (aheadPieces m wrt)) (fun v p =>
        match getMv v u id with
        | none => v
        | some m =>
          if m.asked.contains (p.1, wrt) then v
          else
            let r : XReq :=
              { queue := if u < 72 then (if m.flex then 2 else m.mover) else m.mover, tid := m.tid, va := p.2.1, len := p.2.2,
                kind := mvKind m.desc wrt, owner := if u < 72 then .move id else .barn id }
            let v := modEtr v u (fun x => { x with reqs := x.reqs ++ [r] })
            modMv v u id (fun m => { m with asked := m.asked ++ [(p.1, wrt)] })) t) s

/-- Where a piece of a move lies once translated. -/
inductive Place where
  | loft (bay off : Nat)
  | phys (a : Nat)
  | remote (node a : Nat)
  | rloft (node bay off : Nat)
  | refused
  | waiting
  deriving DecidableEq, Repr

/-- The place of a key for a move of a unit. The LOFT addresses of a barn mover reach the loft window (R313). -/
def placeOf (s : Mach) (u : Nat) (m : Move) (k : Nat) (wrt : Bool) : Place :=
  match baleAddr s.route.nodeId k with
  | .loft b off => if u < 72 then .loft b off else .phys (s.cfg.winBase + b * 0x2000000 + off)
  | .phys a => .phys a
  | .remote n a => .remote n a
  | .rloft n b off => .rloft n b off
  | .va a =>
    match m.xl.find? (fun x => decide (x.req.va / 65536 = a / 65536) && decide (x.req.kind = mvKind m.desc wrt)) with
    | none => .waiting
    | some x => if x.code = 0 then .phys (x.pa - x.req.va % 65536 + a % 65536) else .refused

/-! ### Source data (R302, R311) -/

/-- Whether the source is the loft of the mover's own bay, read with exact timing. -/
def ownLoft (s : Mach) (u : Nat) (m : Move) : Bool :=
  decide (u < 72) && (match baleAddr s.route.nodeId (dSrc m.desc) with | .loft _ _ => true | _ => false)

/-- A block of the source with the bytes of a piece merged. -/
def mergeBeat (g : SrcBeat) (k : Nat) (bs : List Byte) (p : Nat → Bool) : SrcBeat :=
  { g with bytes := (List.range 512).map (fun i =>
             let a := g.blk * 512 + i
             if k ≤ a ∧ a < k + bs.length then bs.getD (a - k) 0 else g.bytes.getD i 0),
           pois := g.pois ||| (List.range 8).foldl (fun a i =>
             if overlaps k bs.length (g.blk * 512 + 64 * i) 64 ∧ p (g.blk * 512 + 64 * i) then a + 2 ^ i else a) 0 }

/-- An empty block. -/
def newBeat (blk : Nat) : SrcBeat := { blk := blk, bytes := List.replicate 512 0, pois := 0, left := 0 }

/-- A piece of at most 256 B within one chunk. -/
def chunkPieces (k n : Nat) : List (Nat × Nat) :=
  if n = 0 then []
  else (List.range ((k + n - 1) / 256 + 1 - k / 256)).map (fun i =>
    let lo := max k ((k / 256 + i) * 256)
    (lo, min (k + n) ((k / 256 + i) * 256 + 256) - lo))

/-- The lines of a piece. -/
def linePieces (k n : Nat) : List (Nat × Nat) :=
  if n = 0 then []
  else (List.range ((k + n - 1) / 64 + 1 - k / 64)).map (fun i =>
    let lo := max k ((k / 64 + i) * 64)
    (lo, min (k + n) ((k / 64 + i) * 64 + 64) - lo))

/-- A beat of which some piece could not be read: its block poisoned, with an error code. -/
def refusedPiece (s : Mach) (u id blk k n code : Nat) : Mach :=
  let s := modMv s u id (fun m =>
    { m with got := m.got.map (fun g => if g.blk = blk then mergeBeat g k (List.replicate n 0) (fun _ => true) else g) })
  match getMv s u id with
  | some m => mvErr s u m code
  | none => s

/-- The next unread block of a memory or remote source is read; a translation still missing leaves the move as it is. -/
def sourceBeat (s : Mach) (u id : Nat) : Mach :=
  let s := askPages (takeAnswers s u id) u id
  match getMv s u id with
  | none => s
  | some m =>
    match (srcBeats m.desc).find? (fun b => m.got.all (fun g => decide (g.blk ≠ b))) with
    | none => s
    | some blk =>
      let ps := blockPieces (srcRows m.desc) blk
      if ps.any (fun p => decide (placeOf s u m p.1 false = .waiting)) then s
      else
        let s := modMv s u id (fun m => { m with got := m.got ++ [newBeat blk] })
        let s := if u < 72 then countEv s u 0x0A (ps.foldl (fun n p => n + p.2) 0) else s
        foldS ps (fun t p =>
          foldS (linePieces p.1 p.2) (fun v q =>
            match placeOf v u m q.1 false with
            | .phys a =>
              let r := readAs v (mvMid u m) m.proxy m.tid a q.2
              (match r.1 with
               | some (bs, po) =>
                 modMv r.2 u id (fun m =>
                   { m with got := m.got.map (fun g => if g.blk = blk then mergeBeat g q.1 bs (fun _ => po) else g) })
               | none => refusedPiece r.2 u id blk q.1 q.2 1)
            | .loft b off =>
              -- the loft of another bay names no source of a furrow move (R300)
              let bs := (List.range q.2).map (fun i => loftByte v b (off + i))
              modMv v u id (fun m => { m with got := m.got.map (fun g =>
                if g.blk = blk then mergeBeat g q.1 bs (fun _ => rangePois v b off q.2) else g) })
            | .refused => refusedPiece v u id blk q.1 q.2 1
            | _ => v) <|
          foldS (chunkPieces p.1 p.2) (fun v q =>
            let req (node pt a : Nat) : Mach :=
              let lo := a / 16 * 16
              let n := roundUp (a + q.2) 16 - lo
              let r := vkRequest v (mvMid u m) (dSid m.desc) node pt (n / 16 - 1) lo [] (.moveRead u id (q.1 - (a - lo)) n) none
              match r.1 with
              | .sent => modMv r.2 u id (fun m => { m with got := m.got.map (fun g =>
                  if g.blk = blk then { g with left := g.left + 1 } else g) })
              | _ => refusedPiece r.2 u id blk q.1 q.2 6
            match placeOf v u m q.1 false with
            | .remote node a => req node ptRD a
            | .rloft node b off => req node ptLRD (b * 2 ^ 40 + off)
            | _ => v) t) s

/-- Read data of a remote request (R443, R455, R456): STATUS, bytes, POISMASK by line of the transfer. -/
def moveRemoteData (s : Mach) (u id key n status : Nat) (bs : List Byte) (pois : Nat) : Mach :=
  let blk := key / 512
  let s := modMv s u id (fun m => { m with got := m.got.map (fun g =>
    if g.blk = blk then
      let g := { g with left := g.left - 1 }
      if status = 0 then mergeBeat g key bs (fun a => pois.testBit (a / 64 - key / 64)) else g
    else g) })
  if status = 0 then s else refusedPiece s u id blk key n 6

/-- The `i`th move of a bay. -/
def nthMove (s : Mach) (b i : Nat) : Option Move := (getMov s b).moves[i]?

/-- MOVE_SOURCE_DATA: a beat of a memory or remote source returns to the mover. -/
def moveSourceData (s : Mach) (b i : Nat) : Mach :=
  match nthMove s b i with
  | some m => if ownLoft s b m then s else sourceBeat s b m.id
  | none => s

def execMoveSourceData (b : BayNo) (i : Nat) (s : State) : Host.Outcome State Fault Refusal := onMach s (fun s => moveSourceData s b i)

/-! ### Readiness and husk decode (R303 to R305) -/

/-- The rows of the destination that an output beat covers: plane, row, key of the row, key and bytes of the piece. -/
def beatRows (d : Line) (blk : Nat) : List (Nat × Nat × Nat × Nat × Nat) :=
  (dstSide d).rows.filterMap (fun r =>
    let lo := max r.2.2.1 (blk * 512)
    let hi := min (r.2.2.1 + r.2.2.2) (blk * 512 + 512)
    if lo < hi then some (r.1, r.2.1, r.2.2.1, lo, hi - lo) else none)

/-- Source blocks that an output beat needs. -/
def beatNeeds (d : Line) (blk : Nat) : List Nat :=
  dedupBlocks ((beatRows d blk).flatMap (fun r => (rowNeeds d r.1 r.2.1).flatMap (fun k => keyBlocks k.1 k.2)))

/-- Whether what an output beat needs is there; a loft source not read yet is read as the loft holds it now. -/
def beatReady (s : Mach) (u id blk : Nat) : Bool × Mach :=
  match getMv s u id with
  | none => (false, s)
  | some m =>
    let need := beatNeeds m.desc blk
    if ownLoft s u m then
      (true, foldS need (fun t k => match getMv t u id with | some m => readLoftBeat t u m k | none => t) s)
    else (need.all (fun k => m.got.any (fun g => decide (g.blk = k) && decide (g.left = 0))), s)

/-- The husk stream of a move decoded once its source is complete; a rejection is recorded. -/
def decodeHusk (s : Mach) (u id : Nat) : Mach :=
  match getMv s u id with
  | none => s
  | some m =>
    if dHusk m.desc = false ∨ m.husk.isSome then s
    else
      let n := dAux m.desc % 2 ^ 32
      let v := srcView m.got
      let size := (dstSide m.desc).tile.size
      let r := huskDecode ((List.range n).map (fun i => v.rd (dSrc m.desc + i))) size
      let po := (srcBeats m.desc).any (fun b => (List.range 8).any (fun g => v.pois (b * 512 + 64 * g)))
      let s := if u < 72 then countEv (bump s .MOV_HUSK u 0 63 0 r.1.length) u 0x0C r.1.length else s
      let f := drawBytes s (size - r.1.length)
      let code := if r.2 = 0 ∧ po then 9 else r.2
      let s := modMv f.2 u id (fun m =>
        { m with husk := some (r.1 ++ f.1, if r.2 = 2 then r.1.length * 16 + 2 else code), pois := m.pois || decide (code ≠ 0) })
      if r.2 = 0 then s
      else match getMv s u id with | some m => mvErr s u m r.2 | none => s

/-- Bytes of a piece of the destination, as a number, with poison by byte of its row, and flags. -/
def pieceData (m : Move) (p i off n : Nat) (imgOff : Nat) : Nat × (Nat → Bool) × Nat :=
  match m.husk with
  | some (bs, code) =>
    (ofBytes ((bs.drop imgOff).take n),
     fun b =>
      if code % 16 = 2 then decide (code / 16 ≤ imgOff + (b - off)) else decide (code ≠ 0),
     0)
  | none => dstPiece m.desc (srcView m.got) p i off n

/-! ### Landings (R290, R302, R308, R311) -/

/-- Poison bits of the granules of a piece at address `a`: bit k for the k-th granule it meets. -/
def granBits (a n off : Nat) (p : Nat → Bool) : Nat :=
  ((linePieces a n).zipIdx).foldl (fun acc g =>
    if (List.range g.1.2).any (fun i => p (off + (g.1.1 - a) + i)) then acc + 2 ^ g.2 else acc) 0

/-- Whether the writes of a move use scheduled slots (R451). -/
def scheduled (s : Mach) (u : Nat) (m : Move) : Bool :=
  decide (u < 72) && !m.flex && dSched m.desc &&
  (match baleAddr s.route.nodeId (dDst m.desc) with | .remote _ _ => true | .rloft _ _ _ => true | _ => false)

/-- The flit period of a port in 1/16 ACYC (R413). -/
def wfOf (s : Mach) (p : Nat) : Nat := match rf s .VK_STATUS p 0 39 38 with | 3 => 310 | 2 => 619 | 1 => 1238 | _ => 310

/-- The full count that a short stamp names: the one nearest the package's count (R38). -/
def fullShort (s : Mach) (st : Nat) : Nat :=
  let c := count s
  let base := c / 2 ^ 32 * 2 ^ 32 + st
  if base + 2 ^ 31 < c then base + 2 ^ 32 else if c + 2 ^ 31 ≤ base ∧ 2 ^ 32 ≤ base then base - 2 ^ 32 else base

/-- A remote write of a piece (R442 to R444, R451, R452): WR, LWR or their scheduled forms when 16 B units cover it, else WRM
line by line. A ragged tail of a planned region is padded with zeros. -/
def remoteWrite (s : Mach) (u id node : Nat) (loft : Bool) (a n : Nat) (bs : List Byte) (pois : Nat) : Mach :=
  match getMv s u id with
  | none => s
  | some m =>
    let sched := scheduled s u m
    let sent (r : VkSent × Mach) (due : Nat) : Mach :=
      match r.1 with
      | .sent => modMv r.2 u id (fun m => { m with remote := m.remote + 1, packets := m.packets + 1, dueLast := due })
      | _ => mvErr r.2 u m 6
    if a % 16 = 0 ∧ (n % 16 = 0 ∨ loft) then
      let data := slotsOf bs
      if sched then
        let p := (routePort s node).getD 0
        let sk := fullShort s (dAt m.desc) * 16 + m.packets / 2 * wfOf s p
        let due := sk + wfOf s p + 16 * (linkLat s p + 4)
        sent (vkRequest s (mvMid u m) (dSid m.desc) node (if loft then ptSLWR else ptSWR)
          (pois + (if loft then dLand m.desc * 16 else 0)) a (BitVec.ofNat 128 (due % 2 ^ 20) :: data) (.moveWrite u id) (some sk)) due
      else
        sent (vkRequest s (mvMid u m) (dSid m.desc) node (if loft then ptLWR else ptWR)
          (pois + (if loft then dLand m.desc * 16 else 0)) a data (.moveWrite u id) none) 0
    else
      foldS ((linePieces a n).zipIdx) (fun t q =>
        match getMv t u id with
        | none => t
        | some m =>
          let lo := q.1.1 % 64
          let mask := (2 ^ q.1.2 - 1) * 2 ^ lo
          let v := ofBytes ((bs.drop (q.1.1 - a)).take q.1.2) * 2 ^ (8 * lo)
          let line := (List.range 4).map (fun i => BitVec.ofNat 128 (v / 2 ^ (128 * i)))
          let r := vkRequest t (mvMid u m) (dSid m.desc) node ptWRM (if pois.testBit q.2 then 1 else 0) (q.1.1 / 64 * 64)
            (BitVec.ofNat 128 mask :: line) (.moveWrite u id) none
          match r.1 with
          | .sent => modMv r.2 u id (fun m => { m with remote := m.remote + 1 })
          | _ => mvErr r.2 u m 6) s

/-- A piece lands: planned region, memory or another package. -/
def landPiece (s : Mach) (u id k n : Nat) (num : Nat) (gp : Nat) : Mach :=
  match getMv s u id with
  | none => s
  | some m =>
    let bs := bytesOf n num
    let landed (t : Mach) : Mach :=
      let t := if u < 72 then countEv (bump t .MOV_BYTES u m.mover 63 0 n) u 0x0B n else t
      if gp ≠ 0 then modMv t u id (fun m => { m with pois := true }) else t
    match placeOf s u m k true with
    | .loft b off =>
      if moveCut s u m then cutMove s u m
      else if fencePass s b off n m.tid then landed (loftPut (countLoftWrite s b n) b off bs (2 ^ n - 1) gp)
      else mvErr (lftErr s b (fenceCode s b m.tid) off m.tid false) u m 7
    | .phys a =>
      foldS ((linePieces a n).zipIdx) (fun t q =>
        match getMv t u id with
        | none => t
        | some m =>
          let w := writeAs t (mvMid u m) m.proxy m.tid q.1.1 ((bs.drop (q.1.1 - a)).take q.1.2) (gp.testBit q.2)
          if w.1 then w.2 else mvErr w.2 u m 1) (landed s)
    | .remote node a => landed (remoteWrite s u id node false a n bs gp)
    | .rloft node b off => landed (remoteWrite s u id node true (b * 2 ^ 40 + off) n bs gp)
    | .refused => mvErr s u m 1
    | .waiting => s

/-- Whether the translations of the rows of an output beat have come. -/
def beatPlaced (s : Mach) (u : Nat) (m : Move) (blk : Nat) : Bool :=
  (beatRows m.desc blk).all (fun r => decide (placeOf s u m r.2.2.2.1 true ≠ .waiting))

/-- The next output beat of a copying move lands. -/
def landBeat (s : Mach) (u id : Nat) : Mach :=
  let s := askPages (takeAnswers s u id) u id
  match getMv s u id with
  | none => s
  | some m =>
    match (dstBeats m.desc)[m.next]? with
    | none => s
    | some blk =>
      let r := beatReady s u id blk
      if r.1 = false ∨ beatPlaced s u m blk = false ∨ dOp m.desc ≠ 0 then s
      else
        let s := decodeHusk r.2 u id
        let rows := (beatRows m.desc blk).flatMap (fun r => (chunkPieces r.2.2.2.1 r.2.2.2.2).map (fun q => (r, q)))
        let s := foldS rows (fun t (x : (Nat × Nat × Nat × Nat × Nat) × Nat × Nat) =>
          match getMv t u id with
          | none => t
          | some m =>
            let off := x.2.1 - x.1.2.2.1
            let d := pieceData m x.1.1 x.1.2.1 off x.2.2 (x.2.1 - dDst m.desc)
            let t := modMv t u id (fun m => { m with flags := m.flags ||| d.2.2 })
            landPiece t u id x.2.1 x.2.2 d.1 (granBits x.2.1 x.2.2 off d.2.1)) s
        modMv s u id (fun m => { m with next := m.next + 1, lastAt := s.now })

/-- Transit in FCLK between two bays of a compute die (R302). -/
def transit (b c : Nat) : Nat := if b = c then 0 else if b / 4 = c / 4 then 4 else 12

/-- The FCLK at which output beat `j` of a move of a bay lands, where R302 makes it exact. The landings of a format change
before the last are taken back to back: DESIGN CHOICE, log entry 25. -/
def landEdge (s : Mach) (b : Nat) (m : Move) : Option Nat :=
  match baleAddr s.route.nodeId (dDst m.desc) with
  | .loft c _ =>
    if ownLoft s b m && !m.flex && !(dHusk m.desc) && decide (dieOf b = dieOf c) then
      let i := (srcBeats m.desc).length
      let o := (dstBeats m.desc).length
      let off := if dTrans m.desc then i + 16 + m.next
        else if dCopy m.desc then m.next + 8
        else max i o - o + m.next + 12
      some (m.p + m.late + off + transit b c)
    else none
  | _ => none

/-- MOVE_LANDING: the next output beat of a move lands. -/
def moveLanding (s : Mach) (b i : Nat) : Mach :=
  match nthMove s b i with
  | none => s
  | some m => landBeat (match landEdge s b m with | some e => advanceEdge s b e | none => s) b m.id

def execMoveLanding (b : BayNo) (i : Nat) (s : State) : Host.Outcome State Fault Refusal := onMach s (fun s => moveLanding s b i)

/-! ### Near-memory adds (R306, R307) -/

/-- One element added (R306): the sum and its flags. -/
def nmaSum (op old x : Nat) : Nat × Nat :=
  match op with
  | 1 =>
    let v := addVal 0 (decodeFloat fmtFP32 old) (decodeFloat fmtFP32 x)
    let e := encodeFloat fmtFP32 rne v.1
    (e.1, v.2 ||| e.2)
  | 2 => ((old + x) % 2 ^ 32, 0)
  | _ =>
    let r := ancAdd (BitVec.ofNat 128 old) (BitVec.ofNat 128 x)
    (r.1.toNat, r.2)

/-- Bytes of an element of an add. -/
def nmaBytes (op : Nat) : Nat := if op = 3 then 16 else 4

/-- What a controller answers to an add: performed with flags, refused rights, locked, or no ANC80. -/
inductive NmaAns where
  | done (flags : Nat)
  | access | locked | unsup | target
  deriving DecidableEq, Repr

/-- Elements added into main memory at their home, in one step: address, value and poison of each (R306, R281, R283). -/
def nmaAt (s : Mach) (mid : Nat) (proxy : Option Nat) (tid op : Nat) (els : List (Nat × Nat × Bool)) : NmaAns × Mach :=
  let c := checkedAs s mid proxy
  let n := nmaBytes op
  let gran := fun a => match region s a with | .granary _ => true | _ => false
  if els.any (fun e => !gran e.1) then (.target, s)
  else match els.find? (fun e => !((rightsAt s c e.1).write && (rightsAt s c e.1).read)) with
    | some e => (.access, refuseMem s mid c tid e.1)
    | none => match els.find? (fun e => writeLocked s c e.1) with
      | some e => (.locked, physRefuse s mid c tid e.1 true)
      | none =>
        if op = 3 ∧ s.fuses.variantE then
          (.unsup, match els with
            | e :: _ => (match region s e.1 with | .granary o => grnErr s (o / 64 * 64) 3 | _ => s)
            | [] => s)
        else
          let r := els.foldl (fun (acc : Nat × Mach) e =>
            let old := cohNat acc.2 e.1 n
            let v := nmaSum op old.1 e.2.1
            (acc.1 ||| v.2, cohWrite acc.2 e.1 (bytesOf n v.1) e.2.2)) (0, s)
          let lines := (els.map (fun e => e.1 / 64)).eraseDups
          (.done r.1, foldS lines (fun t l => countBytes t (l * 64) 64 .add (ownerOf t mid (some tid))) r.2)

/-- The elements of an output beat of an adding move: key, value, poison, flags. -/
def beatElems (m : Move) (blk : Nat) : List (Nat × DstUnit) :=
  let n := nmaBytes (dOp m.desc)
  (beatRows m.desc blk).flatMap (fun r =>
    (List.range (dstSide m.desc).tile.cols).filterMap (fun j =>
      let k := r.2.2.1 + j * n
      if r.2.2.2.1 ≤ k ∧ k < r.2.2.2.1 + r.2.2.2.2 then some (k, dstUnit m.desc (srcView m.got) 0 r.2.1 j) else none))

/-- The additive identity of a format, which stands where a NADD line has no element of the move. -/
def nmaZero (op : Nat) : Nat := if op = 1 then 0x80000000 else 0

/-- A line of an adding move sent to another package (R444). -/
def remoteAdd (s : Mach) (u id node a : Nat) (els : List (Nat × DstUnit)) : Mach :=
  match getMv s u id with
  | none => s
  | some m =>
    let op := dOp m.desc
    let n := nmaBytes op
    let v := (List.range (64 / n)).foldl (fun acc i =>
      let x := match els.find? (fun e => decide (e.1 % 64 = i * n)) with | some e => e.2.bits | none => nmaZero op
      acc + x * 2 ^ (8 * n * i)) 0
    let po := els.any (fun e => e.2.pois)
    let r := vkRequest s (mvMid u m) (dSid m.desc) node ptNADD (op + if po then 4 else 0) (a / 64 * 64)
      ((List.range 4).map (fun i => BitVec.ofNat 128 (v / 2 ^ (128 * i)))) (.moveWrite u id) none
    match r.1 with
    | .sent => modMv r.2 u id (fun m => { m with remote := m.remote + 1 })
    | _ => mvErr r.2 u m 6

/-- The next output beat of an adding move is added, line by line. A target that is not granary ends the move (R306); a
refused anchored add marks it (R307). -/
def addBeat (s : Mach) (u id : Nat) : Mach :=
  let s := askPages (takeAnswers s u id) u id
  match getMv s u id with
  | none => s
  | some m =>
    match (dstBeats m.desc)[m.next]? with
    | none => s
    | some blk =>
      let r := beatReady s u id blk
      if r.1 = false ∨ beatPlaced s u m blk = false ∨ dOp m.desc = 0 ∨ m.refused then s
      else
        let s := r.2
        let m := (getMv s u id).getD m
        let els := beatElems m blk
        let flags := els.foldl (fun f e => f ||| e.2.flags) 0
        let lines := dedupBlocks (els.map (fun e => e.1 / 64))
        let s := foldS lines (fun t l =>
          match getMv t u id with
          | none => t
          | some m =>
            let es := els.filter (fun e => decide (e.1 / 64 = l))
            if m.refused ∨ (dstBeats m.desc).length ≤ m.next then t
            else match placeOf t u m ((es.head?.map Prod.fst).getD 0) true with
              | .phys a =>
                let k0 := (es.head?.map Prod.fst).getD 0
                let po := es.any (fun e => e.2.pois)
                let q := nmaAt t (mvMid u m) m.proxy m.tid (dOp m.desc) (es.map (fun e => (a + (e.1 - k0), e.2.bits, po)))
                (match q.1 with
                 | .done f => modMv q.2 u id (fun m => { m with flags := m.flags ||| f, pois := m.pois || po })
                 | .unsup => modMv q.2 u id (fun m => { m with refused := true })
                 | .target =>
                   modMv (mvErr q.2 u m 5) u id (fun m => { m with next := (dstBeats m.desc).length, lastAt := q.2.now })
                 | _ => mvErr q.2 u m 1)
              | .remote node a => remoteAdd t u id node a es
              | .refused => mvErr t u m 1
              | _ => t) s
        modMv s u id (fun m =>
          { m with flags := m.flags ||| flags, lastAt := s.now,
                   next := if m.refused then m.next else min (m.next + 1) (dstBeats m.desc).length })

/-- The move that a reference names: unit and identity. -/
def refMove (s : Mach) (r : MoveRef) : Option (Nat × Nat) :=
  match r with
  | .bay b i => (nthMove s b i).map (fun m => (b.val, m.id))
  | .barn d k => ((getBarnMov s d).moves.find? (fun m => decide (m.mover = k.val))).map (fun m => (72 + d.val, m.id))

/-- NEAR_MEMORY_ADD (R306). -/
def nearMemoryAdd (s : Mach) (r : MoveRef) : Mach :=
  match refMove s r with
  | some (u, id) => addBeat s u id
  | none => s

def execNearMemoryAdd (m : MoveRef) (s : State) : Host.Outcome State Fault Refusal := onMach s (fun s => nearMemoryAdd s m)

/-- NMA_REFUSED (R307): a refused anchored add stops the move, which records it and completes with P = 1. -/
def nmaRefusedMove (s : Mach) (r : MoveRef) : Mach :=
  match refMove s r with
  | some (u, id) =>
    (match getMv s u id with
     | some m =>
       if m.refused ∧ m.next < (dstBeats m.desc).length then
         modMv (mvErr s u m 4) u id (fun m => { m with next := (dstBeats m.desc).length, lastAt := s.now })
       else s
     | none => s)
  | none => s

def execNmaRefused (m : MoveRef) (s : State) : Host.Outcome State Fault Refusal := onMach s (fun s => nmaRefusedMove s m)

/-- The answer to a remote write or add (R443, R446, R455): STATUS and flag word. -/
def moveRemoteAck (s : Mach) (u id status flags : Nat) : Mach :=
  let s := modMv s u id (fun m => { m with remote := m.remote - 1, flags := m.flags ||| flags, lastAt := max m.lastAt s.now })
  match getMv s u id with
  | none => s
  | some m =>
    if status = 0 then s
    else if status = 5 then modMv s u id (fun m => { m with refused := true })
    else mvErr s u m (if status = 4 then 1 else 6)

/-! ### Completion (R302, R308, R311) -/

/-- A token of a move, sent at a tick from a die. STOK travels behind the last remote write; a scheduled move's token is an
express entry due 16 ACYC after its last packet (R452). -/
def moveToken (s : Mach) (u : Nat) (m : Move) (edge : Nat) : Mach :=
  let a := dCompl m.desc
  let p := m.pois
  let remoteDst := match baleAddr s.route.nodeId (dDst m.desc) with
    | .remote n _ => some n | .rloft n _ _ => some n | _ => none
  let die := if u < 72 then compDieId (dieOf u) else barnDieId (u - 72)
  let tick := if u < 72 then edgeTick (clkOf s u) edge else s.now
  if a = tokNone then s
  else if tokLocal s a then
    let ok := decide (bayPid s (tokBay a) = (if u < 72 then bayPid s u else m.proxy))
    if ok then
      { s with toks := s.toks ++ [{ bay := tokBay a, ch := tokCh a, n := 1, poison := p,
                                    due := if u < 72 then tokenDue s u (tokBay a) edge
                                      else tick + dieLat die (compDieId (dieOf (tokBay a))) * acyc,
                                    tid := some m.tid, port := none,
                                    cross := decide (die ≠ compDieId (dieOf (tokBay a))) }] }
    else if u < 72 then tokErr s u 3 a else s
  else
    let e : Express := { mtype := 0, pois := p, n := 1, stamp := 0, dest := a, xf := 0, body := 0 }
    match remoteDst with
    | none => sendExpress s die tick (tokNode a) e
    | some _ =>
      if scheduled s u m then
        (match routePort s (tokNode a) with
         | some q => modPort s q (fun x => { x with expq := x.expq ++ [{ e with stamp := (m.dueLast + 256) % 2 ^ 20 }] })
         | none => unroutable s (tokNode a))
      else
        sendOrDrop s { vc := 2, ptype := ptSTOK, hops := 0, dnode := tokNode a, snode := s.route.nodeId, mid := mvMid u m,
                       sid := dSid m.desc, tag := 0, mod_ := 0, addr := 0,
                       data := [BitVec.ofNat 128 (a + 2 ^ 32 + (if p then 2 ^ 40 else 0))] }

/-- Whether a move has landed whole and every answer it waits for has come; a scheduled move whose token goes to another
package does not wait. -/
def moveOver (s : Mach) (u : Nat) (m : Move) : Bool :=
  decide ((dstBeats m.desc).length ≤ m.next) && !(m.refused && decide (m.err ≠ 4)) &&
  (decide (m.remote = 0) || (scheduled s u m && dSigt m.desc && !(tokLocal s (dCompl m.desc))))

/-- The completion action of a move of a bay. -/
def completeBay (s : Mach) (b : Nat) (m : Move) : Mach :=
  let e := edgeNo (clkOf s b) m.lastAt + 1
  let s := advanceEdge s b e
  let e := max e (edgeOf s b)
  let s := if m.flags = 0 then s else orTflags s b m.tid m.flags
  let s := if m.err = 0 then s else bump s .MOV_COUNT b 0 47 32 1
  let s := modMov s b (fun x => { x with moves := x.moves.filter (fun n => decide (n.id ≠ m.id)) })
  let s := if dSigt m.desc then moveToken s b m e else s
  if dSigs m.desc && !m.cut then
    modSem s b (fun x => { x with dones := x.dones ++ [{ mover := true, tid := m.tid, idx := dSem m.desc, edge := e }] })
  else s

/-- MOVE_COMPLETION. -/
def moveCompletion (s : Mach) (b i : Nat) : Mach :=
  match nthMove s b i with
  | none => s
  | some m => if moveOver s b m then completeBay s b m else s

def execMoveCompletion (b : BayNo) (i : Nat) (s : State) : Host.Outcome State Fault Refusal := onMach s (fun s => moveCompletion s b i)

/-! ### MOVE (R300) -/

/-- A new move. -/
def newMove (id mover tid at_ p : Nat) (flex : Bool) (d : Line) : Move :=
  { id := id, mover := mover, flex := flex, tid := tid, proxy := none, desc := d, at_ := at_, p := p, late := 0, got := [],
    xl := [], asked := [], next := 0, lastAt := 0, remote := 0, packets := 0, dueLast := 0, flags := 0, pois := false, err := 0,
    cut := false, refused := false, husk := none, item := none }

/-- Moves of a mover in flight. -/
def inFlight (s : Mach) (b m : Nat) : Nat := ((getMov s b).moves.filter (fun x => decide (x.mover = m))).length

/-- The LOFT addresses of a descriptor: bay, and whether it is a source. -/
def loftAddrs (s : Mach) (d : Line) : List (Nat × Bool) :=
  let sl := decide (dSlay d = 0) && scaledFmt (dSfmt d) (dSgsz d)
  let dl := decide (dDlay d = 0) && scaledFmt (dDfmt d) (dDgsz d)
  let at_ (k : Nat) (src : Bool) : List (Nat × Bool) :=
    match baleAddr s.route.nodeId k with | .loft b _ => [(b, src)] | _ => []
  at_ (dSrc d) true ++ at_ (dDst d) false ++ (if sl then at_ (dAux d) true else if dl then at_ (dAux d) false else [])

/-- The loft accesses that a furrow move will make (R263, R290). -/
def moveUses (s : Mach) (b : Nat) (m : Move) : Mach :=
  let span (rows : List (Nat × Nat)) (blk : Nat) : Nat × Nat :=
    let ps := blockPieces rows blk
    let lo := ps.foldl (fun a p => min a p.1) (blk * 512 + 512)
    let hi := ps.foldl (fun a p => max a (p.1 + p.2)) 0
    (lo % 2 ^ 40, hi - lo)
  let s := if ownLoft s b m then
      loftUse s b { path := 3 + m.mover, wrt := false, ownBay := b, stream := 3 + m.mover, op := m.id,
                    beats := (srcBeats m.desc).map (span (srcRows m.desc)), start := m.p, late := 0 }
    else s
  match landEdge s b m, baleAddr s.route.nodeId (dDst m.desc) with
  | some e, .loft c _ =>
    loftUse s c { path := 3 + dLand m.desc, wrt := true, ownBay := b, stream := 3 + m.mover, op := m.id,
                  beats := (dstBeats m.desc).map (span ((dstSide m.desc).rows.map (fun r => r.2.2))), start := e, late := 0 }
  | _, _ => s

/-- The error for which a MOVE is refused at issue (R300, R105): a furrow error, and whether the semaphore block records the
index. -/
def moveRefusal (s : Mach) (b m tid hold : Nat) (d : Line) : Option (Nat × Bool) :=
  let semBad := dSigs d && (semPhys s b tid (dSem d)).isNone
  let tok := if dSigt d then destErr s (dCompl d) else none
  let ls := loftAddrs s d
  if malformed d then some (eIllegalOp, false)
  else if semBad then some (eIllegalOp, true)
  else if tok = some eIllegalOp then some (eIllegalOp, false)
  else if dHusk d && s.fuses.variantE then some (eAbsent, false)
  else if ls.any (fun x => !bayPresent s x.1) ∨ tok = some eAbsent then some (eAbsent, false)
  else if ls.any (fun x => decide (bayPid s x.1 ≠ bayPid s b) || (x.2 && decide (x.1 ≠ b))) then some (eFence, false)
  else if 4 ≤ inFlight s b m then some (eBusy, false)
  else if hold + 1 < occupancy d then some (eBusy, false)
  else none

/-- MOVE (R300, R301). -/
def doMove (b m : Nat) (w : Slot) (s : Mach) : Mach :=
  let k := 3 + m
  let off := fld w 18 0 * 64
  if reservedClear w [(18, 0)] = false then furrowErr s b k eIllegalOp
  else if fenceOk s b off 64 = false then fenceError s b k off
  else
    let d : Line := BitVec.ofNat 512 (readNat s.loft (loftIx b off) 64)
    let tid := (getSeq s b).tid.getD 0
    match moveRefusal s b m tid (slotHold w) d with
    | some (e, sem) => furrowErr (if sem then semErr s b semMover 3 (dSem d) else s) b k e
    | none =>
      let id := (getMov s b).nextId
      let mv := newMove id m tid off (getStream s b k).issued false d
      let s := modMov s b (fun x => { x with moves := x.moves ++ [mv], nextId := id + 1 })
      askPages (moveUses s b mv) b id

def execMove (b : BayNo) (m : Fin 2) (s : State) : Host.Outcome State Fault Refusal :=
  onMach s (fun s => onSlot s b (3 + m.val) 1 1 (doMove b m))

/-! ### Thread-issued moves (R309, R310) -/

/-- Whether admission refuses a thread's descriptor. -/
def baleRefused (s : Mach) (b tid : Nat) (d : Line) : Bool :=
  let tok := dCompl d
  malformed d || (!(dSigt d) && !(dSigs d)) || (dHusk d && s.fuses.variantE) || dSched d ||
  (match baleAddr s.route.nodeId (dSrc d), baleAddr s.route.nodeId (dDst d) with
   | .rloft _ _ _, _ => true | _, .rloft _ _ _ => true | _, _ => false) ||
  (loftAddrs s d).any (fun x => decide (x.1 ≠ b)) ||
  (ownRows s d).any (fun r => !(lentBank s b (r.1 % 2 ^ 40) r.2)) ||
  (dSigt d && (tokRem tok || tokIllegal tok || !(bayPresent s (tokBay tok)) || tokForeign s b tok)) ||
  (dSigs d && (semPhys s b tid (dSem d)).isNone)
where
  /-- The rows of a descriptor in a planned region. -/
  ownRows (s : Mach) (d : Line) : List (Nat × Nat) :=
    (srcRows d ++ (dstSide d).rows.map (fun r => r.2.2)).filter (fun r =>
      match baleAddr s.route.nodeId r.1 with | .loft _ _ => true | _ => false)

/-- FLEX_QUEUE_MOVE_START (R309): a mover with no MOVE in flight takes the next admitted move. -/
def flexQueueMoveStart (s : Mach) (b m : Nat) : Mach :=
  match (getMov s b).flexq with
  | [] => s
  | q :: rest =>
    if inFlight s b m = 0 then
      let id := (getMov s b).nextId
      let mv := newMove id m q.tid q.va (edgeOf s b) true q.desc
      let s := modMov s b (fun x => { x with moves := x.moves ++ [mv], flexq := rest, nextId := id + 1 })
      askPages s b id
    else s

def execFlexQueueMoveStart (b : BayNo) (m : Fin 2) (s : State) : Host.Outcome State Fault Refusal :=
  onMach s (fun s => flexQueueMoveStart s b m)

/-! ### Barn movers (R291, R313) -/

/-- A descriptor is submitted to a barn die by a master of a partition, or the hub (none); true where it is queued. -/
def barnSubmit (s : Mach) (d : Nat) (who : Option Nat) (a : Nat) (desc : Line) (item : Option (Nat × Nat)) : Bool × Mach :=
  let tid := dTid desc
  let pid := tenPid s tid
  let refuse := decide (64 ≤ (getBarnMov s d).queue.length) ||
    (match who with | some p => decide (pid ≠ some p) | none => false) || malformed desc || dSigs desc ||
    (dHusk desc && s.fuses.variantE)
  if refuse then (false, barnErr s d 0 tid pid a 1)
  else (true, modBarnMov s d (fun x => { x with queue := x.queue ++ [{ addr := a, desc := desc, item := item }] }))

/-- A write of MOV_BSUB by a master (R313). The descriptor is read at submission. -/
def onMovBsub (s : Mach) (mid d : Nat) (v : Word) : Mach :=
  let a := fld v 47 6 * 64
  let desc : Line := (cohLine s (a / 64)).1
  match midInfo s mid with
  | (.hub, _) => (barnSubmit s d none a desc none).2
  | (.bound, some p) => (barnSubmit s d (some p) a desc none).2
  | _ => barnErr s d 0 (dTid desc) (tenPid s (dTid desc)) a 1

/-- The completion action of a barn move: a token only; a work-ring item completes on its ring (R491). -/
def completeBarn (s : Mach) (d : Nat) (m : Move) : Mach :=
  let s := if m.flags = 0 then s else wf s .MOV_BFLAGS d 0 15 0 (rf s .MOV_BFLAGS d 0 15 0 ||| m.flags)
  let s := bump s .MOV_BCOUNT d 0 63 0 1
  let s := modBarnMov s d (fun x => { x with moves := x.moves.filter (fun n => decide (n.id ≠ m.id)) })
  let s := if dSigt m.desc then moveToken s (72 + d) m 0 else s
  match m.item with
  | some (r, i) =>
    { s with ringDone := s.ringDone ++
      [{ ring := r, idx := i, kind := 1, status := m.err, result := 0, flags := m.flags, pois := m.pois }] }
  | none => s

/-- A barn move goes on as far as translations and answers let it. -/
def barnRun (s : Mach) (d id : Nat) : Mach :=
  let u := 72 + d
  match getMv s u id with
  | none => s
  | some m =>
    let s := foldS (srcBeats m.desc) (fun t _ => sourceBeat t u id) s
    let s := foldS (dstBeats m.desc) (fun t _ => if dOp m.desc = 0 then landBeat t u id else addBeat t u id) s
    match getMv s u id with
    | none => s
    | some m =>
      let s := if m.refused ∧ m.err ≠ 4 then
          modMv (mvErr s u m 4) u id (fun m => { m with next := (dstBeats m.desc).length })
        else s
      match getMv s u id with
      | some m => if moveOver s u m then completeBarn s d m else s
      | none => s

/-- BARN_MOVE: a barn mover takes a queued descriptor and performs it with the rights of its tenant's partition. -/
def barnMove (s : Mach) (d k : Nat) : Mach :=
  let x := getBarnMov s d
  match x.moves.find? (fun m => decide (m.mover = k)) with
  | some m => barnRun s d m.id
  | none =>
    match x.queue with
    | [] => s
    | q :: rest =>
      let id := 8 * x.nextId + k
      let mv := { newMove id k (dTid q.desc) q.addr 0 false q.desc with proxy := tenPid s (dTid q.desc), item := q.item }
      let s := modBarnMov s d (fun x => { x with queue := rest, moves := x.moves ++ [mv], nextId := x.nextId + 1 })
      barnRun s d id

def execBarnMove (barn : Fin 4) (k : Fin 8) (s : State) : Host.Outcome State Fault Refusal := onMach s (fun s => barnMove s barn k)

end Sys2Proof.Machine
end

