-- ==== Sys2Proof/Machine/Links.lean ====
section
/-! DEFINITION. Vrelrek ports: training, flits, credits, replay and express entries (R411 to R441, R457). -/

namespace Sys2Proof.Machine

open Sys2Proof.Config (acyc)

/-! ### Events and states of a port -/

/-- The node at the far end of a port. -/
def farNode (s : Mach) (p : Nat) : Nat := rf s .VK_PEERID p 0 29 16

/-- An event of VK_ERR (R435): the first is recorded, every one raises a record. -/
def vkEvent (s : Mach) (p code : Nat) : Mach :=
  let s := recordFirst s .VK_ERR p 0 (packFlds [(39, 8, count s % 2 ^ 32), (7, 0, code)])
  raise s ((mkRec s 0xC code 0xB (p % 6) (barnDieId (p / 6)) 0 (farNode s p)).forPart (portPid s p) 0)

def setPortState (s : Mach) (p st : Nat) : Mach := wf s .VK_STATUS p 0 3 0 st

/-- A tick and a number of flit periods of a port: five times the exact period in ticks (R413). -/
def flitFifths (s : Mach) (p : Nat) : Nat :=
  match rf s .VK_STATUS p 0 39 38 with | 1 => 278806528 | 2 => 139403264 | _ => 69701632

/-- `n` flit periods of a port after a tick. -/
def flitsAfter (s : Mach) (p t n : Nat) : Nat := t + ceilDiv (n * flitFifths s p) 5

/-- A port stops being measured by the almanac (R426). -/
def endMeasure (s : Mach) (p : Nat) : Mach :=
  let s := wb s .ALM_PORT 0 p 63 false
  modAlmPort s p (fun a => { a with exch := [], sent := none })

/-- A port begins DETECT: the lanes, the width and the peer are not known (R415, R416). -/
def startDetect (s : Mach) (p : Nat) : Mach :=
  let s := wf s .VK_STATUS p 0 43 32 0
  let s := wb s .VK_PEERID p 0 63 false
  modPort s p (fun q => { q with sub := 1, stateAt := s.now, trig := false, nakRx := false })

/-- A port takes up a training state; within RETRAIN, STATE stays RETRAIN. -/
def enterSub (s : Mach) (p n : Nat) : Mach :=
  let s := modPort s p (fun q => { q with sub := n, stateAt := s.now })
  if portState s p = vkRetrain then s else setPortState s p n

/-- The entries of an express list, a 16 B message counting as two (R427). -/
def expUnits (l : List Express) : Nat := (l.map (fun e => if e.mtype = 0 then 1 else 2)).sum

/-- A port loses its buffers, and the express entries in them are counted (R426, R457). -/
def discardPort (s : Mach) (p : Nat) : Mach :=
  let q := getPort s p
  let n := q.expq.length + q.rxexp.length + q.expHeld.length + (q.replay.map (fun f => f.exps.length)).sum
  let s := bump s .VK_EXP p 0 31 0 n
  let s := modPort s p (fun q =>
    let z : Port := Port.zero
    { z with sub := q.sub, stateAt := q.stateAt, retrainAt := q.retrainAt, retrains := q.retrains, nextTx := q.nextTx,
             usable := q.usable, peer := q.peer })
  let drop := fun (x : TxPkt) => if x.from_ = some p then { x with from_ := none } else x
  foldS (List.range 24) (fun t k =>
    modPort t k (fun q => { q with txq := q.txq.map drop })) s

/-- A port enters FAILED with a reason (R415, R426). -/
def failPort (s : Mach) (p why : Nat) : Mach :=
  let s := vkEvent s p 7
  let s := wf (setPortState s p vkFailed) .VK_STATUS p 0 11 8 why
  let s := endMeasure (wf s .VK_STATUS p 0 43 32 0) p
  discardPort (modPort s p (fun q => { q with sub := 0, peer := none })) p

/-- A port leaves ACTIVE for RETRAIN, or for FAILED at retrain number RETRAIN_MAX + 1 within 4,096 frames (R426). -/
def retrain (s : Mach) (p : Nat) : Mach :=
  let f := frameNo s
  let l := ((getPort s p).retrains ++ [f]).filter (fun g => decide (f < g + 4096))
  let s := bump (endMeasure s p) .VK_TRAIN p 0 63 32 1
  let s := modPort s p (fun q => { q with retrains := l, retrainAt := s.now })
  if rf s .VK_CFG p 0 47 40 < l.length then failPort s p 6
  else startDetect (setPortState s p vkRetrain) p

/-! ### Training (R415 to R419) -/

/-- VK_DETECT (R416): the codes of the transmit and receive lanes are stored, the others isolated. With no usable lane the
check repeats every 10 ms. -/
def vkDetect (s : Mach) (p : Nat) (tx rx : BitVec 8) : Mach :=
  if portPresent s p ∧ (getPort s p).sub = 1 then
    let iso := (List.range 4).foldl (fun a k =>
      if fld tx (2 * k + 1) (2 * k) = 0 ∧ fld rx (2 * k + 1) (2 * k) = 0 then a else a + 2 ^ k) 0
    let s := wr s .VK_LANES p 0 (packFlds [(19, 16, iso), (15, 8, rx.toNat), (7, 0, tx.toNat)])
    if iso = 15 then
      advanceTo (modPort s p (fun q => { q with stateAt := s.now + 16000000 * acyc })) (s.now + 16000000 * acyc)
    else enterSub s p 2
  else s

def execVkDetect (p : PortNo) (tx rx : BitVec 8) (s : State) : Host.Outcome State Fault Refusal := onMach s (fun s => vkDetect s p tx rx)

/-- VK_LOCK (R417): `num` is the lane number heard on each physical lane, `pol` the inverted ones. The order that more
lanes agree with is taken, identity on a tie; a lane that does not fit it is isolated. -/
def vkLock (s : Mach) (p : Nat) (num : List (Option (Fin 4))) (pol : BitVec 4) : Mach :=
  if portPresent s p ∧ (getPort s p).sub = 2 then
    let iso := rf s .VK_LANES p 0 19 16
    let heard := fun k => if iso.testBit k then none else ((num.getD k none).map Fin.val)
    let same := ((List.range 4).filter (fun k => heard k = some k)).length
    let rev := ((List.range 4).filter (fun k => heard k = some (3 - k))).length
    let r := decide (same < rev)
    let logical := fun k => if r then 3 - k else k
    let iso := (List.range 4).foldl (fun a k => if heard k = some (logical k) then a else a ||| 2 ^ k) iso
    let good := (List.range 4).filter (fun k => !iso.testBit k)
    let polL := (good.map (fun k => if bit pol k then 2 ^ logical k else 0)).sum
    let rxOk := (good.map (fun k => 2 ^ logical k)).sum
    let usable := rxOk &&& (15 - iso)
    let s := wf s .VK_LANES p 0 19 16 iso
    let s := wf (wb s .VK_STATUS p 0 37 r) .VK_STATUS p 0 35 32 polL
    enterSub (modPort s p (fun q => { q with usable := usable })) p 3
  else s

def execVkLock (p : PortNo) (num : List (Option (Fin 4))) (pol : BitVec 4) (s : State) : Host.Outcome State Fault Refusal :=
  guarded (lockWf num) s (fun s => vkLock s p num pol)

/-- Width code and lanes of a set of usable logical lanes (R418). -/
def widthOf (m : Nat) : Option (Nat × Nat) :=
  if m = 15 then some (3, 15)
  else if m % 4 = 3 then some (2, 3)
  else if m / 4 = 3 then some (2, 12)
  else if m = 0 then none
  else ((List.range 4).find? (fun k => m.testBit k)).map (fun k => (1, 2 ^ k))

/-- VK_MAP (R418): the AND of both masks gives the width and the lanes; below ×4 LANE_FAULT is recorded. -/
def vkMap (s : Mach) (p : Nat) (peer : BitVec 4) : Mach :=
  if portPresent s p ∧ (getPort s p).sub = 3 then
    match widthOf ((getPort s p).usable &&& peer.toNat) with
    | none => enterSub (startDetect s p) p 1
    | some (w, l) =>
      let s := wf (wf s .VK_STATUS p 0 43 40 l) .VK_STATUS p 0 39 38 w
      enterSub (if w = 3 then s else vkEvent s p 3) p 4
  else s

def execVkMap (p : PortNo) (peer : BitVec 4) (s : State) : Host.Outcome State Fault Refusal := onMach s (fun s => vkMap s p peer)

/-- VK_EQUALISE (R415): the port goes on to IDENTIFY. -/
def vkEqualise (s : Mach) (p : Nat) : Mach :=
  if portPresent s p ∧ (getPort s p).sub = 4 then enterSub s p 5 else s

def execVkEqualise (p : PortNo) (s : State) : Host.Outcome State Fault Refusal := onMach s (fun s => vkEqualise s p)

/-- What R419 decides for a peer's node and port: HELD_WHY, or none for ACTIVE. -/
def identHeld (s : Mach) (p node port : Nat) : Option Nat :=
  let c := rf s .VK_PEER p 0 33 32
  if node = s.route.nodeId then some 1
  else if c ≠ 0 ∧ rf s .VK_PEER p 0 29 16 ≠ node then some 2
  else if 2 ≤ c ∧ rf s .VK_PEER p 0 4 0 ≠ port then some 2
  else none

/-- IDENT (R419, R426): the peer's identity decides between ACTIVE, HELD, and after a retrain with another peer FAILED. -/
def identRx (s : Mach) (p : Nat) (b0 b1 : BitVec 128) : Mach :=
  if portPresent s p ∧ (getPort s p).sub = 5 then
    let hall := fld b0 127 112
    let node := fld b0 111 98
    let port := fld b0 97 93
    let s := wr s .VK_PEERID p 0 (packFlds [(63, 63, 1), (47, 32, hall), (29, 16, node), (4, 0, port)])
    let again := decide (portState s p = vkRetrain)
    let same := decide ((getPort s p).peer = some (hall, node, port))
    if again && !same then failPort s p 7
    else match identHeld s p node port with
      | some why =>
        let s := wf (setPortState s p vkHeld) .VK_STATUS p 0 15 12 why
        let s := modPort s p (fun q => { q with sub := 0, nextTx := s.now * 5 })
        vkEvent s p (why + 4)
      | none =>
        let s := bump (wf (setPortState s p vkActive) .VK_STATUS p 0 15 12 0) .VK_TRAIN p 0 31 0 1
        if again then
          modPort s p (fun q =>
            { q with sub := 0, nextTx := s.now * 5, ackAt := s.now, awaitRpl := false, nak := false,
                     resend := q.replay.head?.map TxFlit.seq, rpl := true })
        else
          modPort s p (fun q =>
            { q with sub := 0, nextTx := s.now * 5, ackAt := s.now, peer := some (hall, node, port), txSeq := 0,
                     rxSeq := 4095, granted := (List.range 6).map (fun v => fld b1 (12 * v + 11) (12 * v)) })
  else s

def execIdent (p : PortNo) (slot0 slot1 : BitVec 128) (s : State) : Host.Outcome State Fault Refusal :=
  onMach s (fun s => identRx s p slot0 slot1)

/-- The tick at which a port's training times out, and the reason (R415). -/
def trainLimit (s : Mach) (p : Nat) : Option (Nat × Nat) :=
  let q := getPort s p
  let ms := 1600000 * acyc
  let step : Option (Nat × Nat) := match q.sub with
    | 2 => some (q.stateAt + 5 * ms, 1)
    | 3 => some (q.stateAt + ms, 2)
    | 4 => some (q.stateAt + 50 * ms, 3)
    | 5 => some (q.stateAt + ms, 4)
    | _ => none
  let whole := q.retrainAt + max 1 (rf s .VK_CFG p 0 63 48) * 65536 * acyc
  if portState s p = vkRetrain then
    match step with
    | some (t, w) => if t < whole then some (t, w) else some (whole, 5)
    | none => some (whole, 5)
  else step

/-- TRAINING_TIMEOUT (R415): a state that exceeds its limit sends the port to FAILED. -/
def trainingTimeout (s : Mach) (p : Nat) : Mach :=
  if portPresent s p ∧ (getPort s p).sub ≠ 0 then
    match trainLimit s p with
    | some (t, why) => failPort (advanceTo s t) p why
    | none => s
  else s

def execTrainingTimeout (p : PortNo) (s : State) : Host.Outcome State Fault Refusal := onMach s (fun s => trainingTimeout s p)

/-- VK_RETRAIN_TRIGGER (R426): the cause that the port has recorded itself (the limit of UCW_LIMIT, CRED_ERR), or a cause on
its lanes or at its peer. -/
def retrainTrigger (s : Mach) (p : Nat) (why : Option VkLoss) : Mach :=
  if portPresent s p ∧ portState s p = vkActive then
    match why with
    | none => if (getPort s p).trig then retrain s p else s
    | some .align => retrain (vkEvent s p 1) p
    | some .clock => retrain (vkEvent s p 8) p
    | some .peer => retrain s p
  else s

def execVkRetrainTrigger (p : PortNo) (why : Option VkLoss) (s : State) : Host.Outcome State Fault Refusal :=
  onMach s (fun s => retrainTrigger s p why)

/-- A port starts training at DETECT (R415, R419). -/
def startPort (s : Mach) (p : Nat) : Mach :=
  let s := wf s .VK_STATUS p 0 15 0 0
  enterSub (startDetect (discardPort s p) p) p 1

/-- The effect of a write of VK_CTL (R415, R419, R426): ENABLE first, then RETRAIN. -/
def onVkCtl (s : Mach) (p : Nat) (v : Word) : Mach :=
  let s := wb s .VK_CTL p 0 0 (bit v 0)
  if bit v 0 = false then
    if portState s p = 0 then s
    else
      let s := endMeasure (wr s .VK_STATUS p 0 0) p
      discardPort (modPort s p (fun q => { q with sub := 0, peer := none })) p
  else if portState s p = 0 then startPort s p
  else if bit v 1 = false then s
  else if portState s p = vkActive then retrain s p
  else if portState s p = vkHeld ∨ portState s p = vkFailed then startPort s p
  else s

/-- PORT_FAILED (R457): a port in FAILED has lost its replay buffer and its spill queue. -/
def portFailed (s : Mach) (p : Nat) : Mach :=
  if portPresent s p ∧ portState s p = vkFailed then discardPort s p else s

def execPortFailed (p : PortNo) (s : State) : Host.Outcome State Fault Refusal := onMach s (fun s => portFailed s p)

/-! ### Flits (R420 to R425) -/

/-- CRC-32C of a flit with its CRC field, bytes 0 to 3, taken as 0 (R421). -/
def flitCrc (bs : List Byte) : Nat :=
  let step := fun (c : Nat) (_ : Nat) => if c % 2 = 1 then (c / 2) ^^^ 0x82F63B78 else c / 2
  let out := (List.replicate 4 (0 : Byte) ++ bs.drop 4).foldl (fun c b =>
    (List.range 8).foldl step (c ^^^ b.toNat)) 0xFFFFFFFF
  out ^^^ 0xFFFFFFFF

/-- A flit's bytes from its header, its express slot and its body slots, with the CRC inserted. -/
def flitBytes (hdr exp : Nat) (body : List (BitVec 128)) : List Byte :=
  let slots := body ++ List.replicate (38 - body.length) 0
  let bs := bytesOf 16 hdr ++ bytesOf 16 exp ++ bytesOfSlots slots
  bytesOf 4 (flitCrc bs) ++ bs.drop 4

/-- The receive buffer of a virtual channel (R424). -/
def vcBuffer (v : Nat) : Nat := match v with | 1 => 256 | 2 => 2048 | 3 => 2048 | 4 => 1024 | 5 => 64 | _ => 0

/-- Element `i` of a list of counts changed by `f`. -/
def upd (l : List Nat) (i : Nat) (f : Nat → Nat) : List Nat := l.set i (f (l.getD i 0))

/-- Space of a receive buffer freed (R424). -/
def freeRx (s : Mach) (p v n : Nat) : Mach :=
  modPort s p (fun q => { q with held := upd q.held v (· - n), freed := upd q.freed v (· + min n (q.held.getD v 0)) })

/-- The slots of an almanac packet launched at a time in 1/16 ACYC (R431, R433). -/
def almSlots (a : AlmPkt) (l16 : Nat) : List (BitVec 128) :=
  let v : BitVec 256 := match a with
    | .beacon b =>
      let fs : List (Nat × Nat × Nat) :=
        [(4, 0, 1), (15, 8, 1), (31, 16, b.hallId), (45, 32, b.srcNode), (50, 46, b.srcPort), (54, 51, b.state),
         (58, 55, b.hops), (59, 59, b.gm.toNat), (60, 60, b.pvalid.toNat), (74, 61, b.parent), (122, 75, b.frame),
         (138, 123, l16 - b.frame * 65536 * 16), (152, 139, b.root)]
      fs.foldl (fun w f => setFld w f.1 f.2.1 f.2.2) 0
    | .request x _ =>
      let fs : List (Nat × Nat × Nat) := [(15, 8, 2), (23, 16, x), (87, 24, l16)]
      fs.foldl (fun w f => setFld w f.1 f.2.1 f.2.2) 0
    | .reply x t1 t2 _ =>
      let fs : List (Nat × Nat × Nat) := [(4, 0, 1), (15, 8, 3), (23, 16, x), (87, 24, t1), (151, 88, t2), (215, 152, l16)]
      fs.foldl (fun w f => setFld w f.1 f.2.1 f.2.2) 0
  match a with
  | .request _ _ => [BitVec.ofNat 128 v.toNat]
  | _ => [BitVec.ofNat 128 v.toNat, BitVec.ofNat 128 (v.toNat / 2 ^ 128)]

/-- PAD packets filling `n` slots (R422). -/
def padSlots (n : Nat) : List (BitVec 128) :=
  let one := fun k => BitVec.ofNat 128 (7 * 32 + (k - 1)) :: List.replicate (k - 1) 0
  if n = 0 then [] else if n ≤ 32 then one n else one 32 ++ one (n - 32)

/-- An express entry or message as it travels (R427, R447). -/
def expBits (e : Express) : Nat :=
  if e.mtype = 0 then 2 ^ 61 + e.pois.toNat * 2 ^ 60 + e.n * 2 ^ 52 + e.stamp * 2 ^ 32 + e.dest
  else e.body * 2 ^ 64 + 2 * 2 ^ 61 + e.mtype * 2 ^ 57 + e.xf * 2 ^ 52 + e.stamp * 2 ^ 32 + e.dest

/-- The express slot of a row of at most two entries. -/
def expSlot (l : List Express) : Nat :=
  match l with
  | [] => 0
  | e :: t => if e.mtype ≠ 0 then expBits e else expBits e + (match t with | f :: _ => expBits f * 2 ^ 64 | [] => 0)

/-- Credit held on a virtual channel. -/
def creditOf (q : Port) (v : Nat) : Nat := q.granted.getD v 0 - q.used.getD v 0

/-- The express entries that the next flit takes: at most two, in their order, as credit allows. -/
def takeExp (q : Port) : List Express :=
  match q.expq with
  | e :: t =>
    if e.mtype ≠ 0 then (if 2 ≤ creditOf q 1 then [e] else [])
    else if creditOf q 1 = 0 then []
    else match t with
      | f :: _ => if f.mtype = 0 ∧ 2 ≤ creditOf q 1 then [e, f] else [e]
      | [] => [e]
  | [] => []

/-- A body being filled: its slots, the almanac packets in it, its SCH packets, what its last packet leaves for the next
body, and the packets taken from the spill queue and from the port's queue. -/
structure Filling where
  slots : List (BitVec 128)
  alms : List (Nat × AlmPkt)
  sch : Nat
  rest : List (BitVec 128)

/-- A packet started in a body; past its end the packet goes on in the next. -/
def Filling.add (f : Filling) (l : List (BitVec 128)) : Filling :=
  let n := 38 - f.slots.length
  { f with slots := f.slots ++ l.take n, rest := l.drop n }

/-- The packet of a virtual channel that may launch next: the head of the spill queue before the port's own queue, with
credit; a scheduled packet at or after its S_k (R424, R441, R452). The answer says whether it is spilled, and its index. -/
def nextOf (q : Port) (v l16 : Nat) : Option (Bool × Nat × TxPkt) :=
  let fits := fun (x : TxPkt) => decide (x.pkt.len ≤ creditOf q v)
  match q.spill.head? with
  | some x => if x.pkt.vc = v ∧ fits x then some (true, 0, x) else own q v l16 fits
  | none => own q v l16 fits
where
  own (q : Port) (v l16 : Nat) (fits : TxPkt → Bool) : Option (Bool × Nat × TxPkt) :=
    match q.txq.zipIdx.find? (fun x => decide (x.1.pkt.vc = v) &&
      (decide (v ≠ 4) || (match x.1.due with | some d => decide (d ≤ l16) | none => true))) with
    | some (x, i) => if fits x then some (false, i, x) else none
    | none => none

/-- One packet of a virtual channel put in a body. -/
def putPkt (s : Mach) (p v l16 : Nat) (f : Filling) : Option (Mach × Filling) :=
  if f.slots.length = 38 then none
  else match nextOf (getPort s p) v l16 with
    | none => none
    | some (sp, i, x) =>
      let s := modPort s p (fun q =>
        { q with spill := if sp then q.spill.drop 1 else q.spill, txq := if sp then q.txq else q.txq.eraseIdx i,
                 used := upd q.used v (· + x.pkt.len) })
      let s := match x.from_ with | some r => if sp then s else freeRx s r v x.pkt.len | none => s
      some (s, f.add x.pkt.slots)

/-- A channel's packets put in a body while it has room and credit. -/
def putAll (fuel : Nat) (s : Mach) (p v l16 : Nat) (f : Filling) : Mach × Filling :=
  match fuel with
  | 0 => (s, f)
  | fuel + 1 =>
    match putPkt s p v l16 f with
    | some (t, g) => putAll fuel t p v l16 g
    | none => (s, f)

/-- Almanac packets put in a body: all that have room, or one where SCH packets travel with them (R453). -/
def putAlm (s : Mach) (p : Nat) (limit : Nat) (f : Filling) : Mach × Filling :=
  let fits := fun (acc : Filling × List AlmPkt) (a : AlmPkt) =>
    let n := (almSlots a 0).length
    if acc.2 ≠ [] ∨ limit ≤ acc.1.alms.length ∨ 38 < acc.1.slots.length + n then (acc.1, acc.2 ++ [a])
    else ({ (acc.1.add (almSlots a 0)) with alms := acc.1.alms ++ [(acc.1.slots.length, a)] }, acc.2)
  let r := (getPort s p).almq.foldl fits (f, [])
  (modPort s p (fun q => { q with almq := r.2 }), r.1)

/-- Whether a management packet has waited 64 flit periods (R423). -/
def mgtOld (s : Mach) (p : Nat) : Bool :=
  (getPort s p).txq.any (fun x => decide (x.pkt.vc = 5) && decide (flitsAfter s p x.since 64 ≤ s.now))

/-- A body filled in the order of R423, from the rest of a packet begun in the last one. -/
def fillBody (s : Mach) (p l16 : Nat) : Mach × Filling :=
  let q := getPort s p
  let f : Filling := { slots := q.rest, alms := [], sch := 0, rest := [] }
  let s := modPort s p (fun q => { q with rest := [] })
  let sch := (nextOf (getPort s p) 4 l16).isSome
  let (s, f) := putAlm s p (if sch then 1 else 38) f
  let (s, f) := putAll 2 s p 4 l16 f
  let (s, f) := if mgtOld s p then putAll 1 s p 5 l16 f else (s, f)
  let (s, f) := putAll 38 s p 3 l16 f
  let (s, f) := putAll 38 s p 2 l16 f
  putAll 38 s p 5 l16 f

/-- A DATA flit's body with launch times filled afresh (R425, R430). -/
def launchBody (t : TxFlit) (l16 : Nat) : List (BitVec 128) :=
  t.alms.foldl (fun b a =>
    let sl := almSlots a.2 l16
    b.take a.1 ++ sl ++ b.drop (a.1 + sl.length)) t.body

/-- A header without its CRC (R421); the two credit reports rotate through VCs 1 to 5 (R424). -/
def flitHeader (q : Port) (ftype seq first : Nat) (rpl : Bool) : Nat :=
  let c0 := q.rot
  let c1 := if c0 = 5 then 1 else c0 + 1
  let fs : List (Nat × Nat × Nat) :=
    [(127, 124, ftype), (123, 112, seq), (111, 100, q.rxSeq), (99, 99, q.nak.toNat), (98, 98, rpl.toNat), (97, 95, c0),
     (94, 83, q.freed.getD c0 0 % 4096), (82, 80, c1), (79, 68, q.freed.getD c1 0 % 4096), (67, 62, first)]
  (fs.foldl (fun w f => setFld w f.1 f.2.1 f.2.2) (0 : BitVec 128)).toNat

/-- A flit leaves: its bytes are the port's last, the credit rotation moves on, a NAK in it is counted. -/
def sendFlit (s : Mach) (p ftype seq first : Nat) (rpl : Bool) (exps : List Express) (body : List (BitVec 128)) : Mach :=
  let q := getPort s p
  let bs := flitBytes (flitHeader q ftype seq first rpl) (expSlot exps) body
  let s := if q.nak then bump s .VK_REPLAY p 0 63 32 1 else s
  modPort s p (fun q =>
    { q with tx := bs, nak := false, rot := if q.rot = 5 then 2 else if q.rot = 4 then 1 else q.rot + 2 })

/-- A DATA flit leaves at a launch time: T1 of an exchange request in it is that of this launch (R433). -/
def sendData (s : Mach) (p : Nat) (t : TxFlit) (l16 : Nat) (rpl : Bool) : Mach :=
  let s := foldS t.alms (fun s a => match a.2 with
    | .request x _ => modAlmPort s p (fun m =>
        match m.sent with
        | some (y, _) => if x = y then { m with sent := some (x, l16) } else m
        | none => m)
    | _ => s) s
  let s := bumpAo (book s 18 (ownOverhead (portPid s p)) 11 1) (barnDieId (p / 6)) 3 1
  sendFlit s p 1 t.seq t.first rpl t.exps (launchBody t l16)

/-- Replay from the oldest flit that no ACK covers (R425). -/
def startReplay (s : Mach) (p : Nat) : Mach :=
  modPort s p (fun q =>
    { q with nakRx := false, resend := q.replay.head?.map TxFlit.seq, rpl := true, ackAt := s.now })

/-- A new DATA flit, or NULL when there is nothing to send (R423 to R425, R432). -/
def launchNew (s : Mach) (p l16 : Nat) : Mach :=
  let exps := takeExp (getPort s p)
  let (t, f) := fillBody s p l16
  if exps = [] ∧ f.slots = [] then sendFlit s p 0 0 0 false [] []
  else
    let n := (getPort s p).rest.length
    let fl : TxFlit :=
      { seq := (getPort t p).txSeq, exps := exps, body := f.slots ++ (if f.slots = [] then [] else padSlots (38 - f.slots.length)),
        first := if f.slots = [] then 0x3E else if n = 38 then 0x3F else n, alms := f.alms }
    let s := modPort t p (fun q =>
      { q with expq := q.expq.drop exps.length, used := upd q.used 1 (· + expUnits exps), rest := f.rest,
               txSeq := (q.txSeq + 1) % 4096, replay := q.replay ++ [fl], ackAt := if q.replay = [] then t.now else q.ackAt })
    sendData s p fl l16 false

/-- The IDENT flit of this package (R419). -/
def sendIdent (s : Mach) (p : Nat) : Mach :=
  let b0 := setFld (setFld (setFld (0 : BitVec 128) 127 112 (rf s .ALM_CFG 0 0 55 40)) 111 98 s.route.nodeId) 97 93 p
  let b1 := [1, 2, 3, 4, 5].foldl (fun w v => setFld w (12 * v + 11) (12 * v) (vcBuffer v)) (0 : BitVec 128)
  sendFlit s p 2 0 0 false [] [b0, b1]

/-- The next flit period of a port: time moves on to it, and the one after becomes next. -/
def nextPeriod (s : Mach) (p : Nat) : Mach :=
  let q := getPort s p
  let w := flitFifths s p
  let at_ := if q.nextTx < s.now * 5 then q.nextTx + ceilDiv (s.now * 5 - q.nextTx) w * w else q.nextTx
  advanceTo (modPort s p (fun q => { q with nextTx := at_ + w })) (ceilDiv at_ 5)

/-- FLIT_LAUNCH (R425, R430, R432): in each flit period a port in ACTIVE launches a DATA flit if it has anything to send,
else a NULL flit; a replay goes first; with a full replay buffer only NULL flits leave, and from HELD too. -/
def flitLaunch (s : Mach) (p : Nat) : Mach :=
  let st := portState s p
  if portPresent s p = false then s
  else if (getPort s p).sub = 5 then sendIdent (nextPeriod s p) p
  else if st = vkHeld then sendFlit (nextPeriod s p) p 0 0 0 false [] []
  else if st ≠ vkActive ∨ (getPort s p).trig then s
  else
    let s := nextPeriod (if (getPort s p).nakRx then startReplay s p else s) p
    let l16 := loc16 s - wf16 s p
    let q := getPort s p
    match q.resend with
    | some n =>
      (match q.replay.find? (fun f => decide (f.seq = n)) with
       | some f =>
         let s := sendData (bump s .VK_REPLAY p 0 31 0 1) p f l16 q.rpl
         let more := (getPort s p).replay.any (fun g => decide (g.seq = (n + 1) % 4096))
         modPort s p (fun q => { q with rpl := false, resend := if more then some ((n + 1) % 4096) else none })
       | none => sendFlit (modPort s p (fun q => { q with resend := none, rpl := false })) p 0 0 0 false [] [])
    | none => if 512 ≤ q.replay.length then sendFlit s p 0 0 0 false [] [] else launchNew s p l16

def execFlitLaunch (p : PortNo) (s : State) : Host.Outcome State Fault Refusal := onMach s (fun s => flitLaunch s p)

/-- SCHEDULED_LAUNCH (R452): the port launches at the first flit period whose launch time is at or after S_k of its oldest
scheduled packet. -/
def scheduledLaunch (s : Mach) (p : Nat) : Mach :=
  match (getPort s p).txq.find? (fun x => x.due.isSome) with
  | some x =>
    if portPresent s p ∧ portState s p = vkActive then
      flitLaunch (advanceTo s (tick16 s (x.due.getD 0 + wf16 s p))) p
    else s
  | none => s

def execScheduledLaunch (p : PortNo) (s : State) : Host.Outcome State Fault Refusal := onMach s (fun s => scheduledLaunch s p)

/-! ### Receiving -/

/-- A discarded DATA flit causes a NAK, unless the port already awaits a replay (R425). -/
def discardFlit (s : Mach) (p : Nat) (data : Bool) : Mach :=
  if data ∧ (getPort s p).awaitRpl = false then modPort s p (fun q => { q with nak := true, awaitRpl := true }) else s

/-- ACK and the credit reports of a header (R421, R424). -/
def takeHeader (s : Mach) (p : Nat) (h : BitVec 128) : Mach :=
  let ack := fld h 111 100
  let credit := fun (s : Mach) (v r : Nat) =>
    modPort s p (fun q =>
      let d := (r + 4096 - q.seen.getD v 0) % 4096
      { q with seen := upd q.seen v (fun _ => r), granted := upd q.granted v (· + d) })
  let s := credit s (fld h 97 95) (fld h 94 83)
  let s := if fld h 82 80 = fld h 97 95 then s else credit s (fld h 82 80) (fld h 79 68)
  let s := match (getPort s p).replay.findIdx? (fun f => decide (f.seq = ack)) with
    | some i => modPort s p (fun q =>
        { q with replay := q.replay.drop (i + 1), ackAt := s.now,
                 resend := match q.resend with
                   | some n => if (q.replay.drop (i + 1)).any (fun f => decide (f.seq = n)) then some n
                               else (q.replay.drop (i + 1)).head?.map TxFlit.seq
                   | none => none })
    | none => s
  if bit h 99 then modPort s p (fun q => { q with nakRx := true }) else s

/-- The express entry of a 64-bit word, or the message of 128 bits (R427, R447). -/
def parseExp (w : Nat) : Express :=
  { mtype := if w / 2 ^ 61 % 8 = 2 then w / 2 ^ 57 % 16 else 0, pois := w.testBit 60, n := w / 2 ^ 52 % 256,
    stamp := w / 2 ^ 32 % 2 ^ 20, dest := w % 2 ^ 32, xf := w / 2 ^ 52 % 32, body := w / 2 ^ 64 % 2 ^ 64 }

/-- The entries of an express slot; a message with a reserved MTYPE 0 has no entry here, and is answered with its count. -/
def parseExpSlot (w : Nat) : List Express × Nat :=
  let k0 := w / 2 ^ 61 % 8
  let k1 := w / 2 ^ 125 % 8
  if k0 = 2 then (if w / 2 ^ 57 % 16 = 0 then ([], 1) else ([parseExp w], 0))
  else ((if k0 = 1 then [parseExp (w % 2 ^ 64)] else []) ++
    (if (k0 = 1 ∨ k0 = 0) ∧ k1 = 1 then [parseExp (w / 2 ^ 64)] else []), 0)

/-- Whether a packet type is a request. -/
def isRequest (pt : Nat) : Bool := decide (pt < 8) || decide (pt = 0x18) || decide (pt = 0x19) || decide (pt = 0x1C) || decide (pt = 0x1D)

/-- The response type of a request (R443). -/
def answerType (pt : Nat) : Nat :=
  if pt = ptRD ∨ pt = ptLRD then ptRDATA
  else if pt = ptATOM then ptARSP
  else if pt = ptMRD ∨ pt = ptMWR then ptMRSP
  else ptWACK

/-- A response of this package to a request (R442): STATUS in ADDR [7:0], FLAGS in ADDR [27:12]. -/
def respond (s : Mach) (k : Pkt) (status flags mod_ : Nat) (data : List (BitVec 128)) : Mach :=
  let pt := answerType k.ptype
  let data := if (pt = ptARSP ∨ pt = ptMRSP) ∧ data = [] then [0] else data
  sendOrDrop s { vc := vcOf pt, ptype := pt, hops := 0, dnode := k.snode, snode := s.route.nodeId, mid := k.mid,
                 sid := k.sid, tag := k.tag, mod_ := mod_, addr := status + flags * 2 ^ 12, data := data }

/-- A packet that this package cannot route: a request is answered UNROUTABLE, anything else dropped with a record. -/
def refuseRoute (s : Mach) (k : Pkt) : Mach :=
  if isRequest k.ptype then respond s k 7 0 0 [] else unroutable s k.dnode

/-- CRED_ERR (R424): recorded, and the port retrains. -/
def credErr (s : Mach) (p : Nat) : Mach := modPort (vkEvent s p 4) p (fun q => { q with trig := true })

/-- Whether R443 lists a packet type. -/
def knownType (pt : Nat) : Bool :=
  isRequest pt && decide (pt ≠ 0) || decide (pt = 8) || decide (pt = 0x10) || decide (pt = 0x11) || decide (pt = 0x12) ||
  decide (pt = 0x1E)

/-- A packet received whole: a reserved code or a type on another channel than its own is answered MALFORMED (R444); PAD and almanac packets need no credit, and the rows of the almanac carry the latter; every
other one fills its channel's buffer. -/
def takePacket (s : Mach) (p : Nat) (l : List (BitVec 128)) : Mach :=
  match parsePkt l with
  | none => s
  | some k =>
    if k.vc = 0 ∨ k.vc = 7 ∨ k.vc = 6 ∨ k.vc = 1 then s
    else if vcBuffer k.vc < (getPort s p).held.getD k.vc 0 + k.len then credErr s p
    else if k.dnode = s.route.nodeId ∧ (knownType k.ptype = false ∨ vcOf k.ptype ≠ k.vc) then
      let s := freeRx (modPort s p (fun q => { q with held := upd q.held k.vc (· + k.len) })) p k.vc k.len
      let s := vkRecord s (some p) k.snode
      if k.vc = 3 ∨ isDone s = false then s else respond s k 8 0 0 []
    else modPort s p (fun q => { q with held := upd q.held k.vc (· + k.len), rxq := q.rxq ++ [k] })

/-- The packets of a row of slots in order; what does not make a whole packet waits for the next DATA body. -/
def takeSlots (fuel : Nat) (s : Mach) (p : Nat) (l : List (BitVec 128)) : Mach :=
  match fuel, l with
  | 0, _ => s
  | _, [] => modPort s p (fun q => { q with part := [] })
  | fuel + 1, h :: _ =>
    let n := fld h 4 0 + 1
    if l.length < n then modPort s p (fun q => { q with part := l })
    else takeSlots fuel (takePacket s p (l.take n)) p (l.drop n)

/-- The express entries of a DATA flit. -/
def takeExps (s : Mach) (p w : Nat) : Mach :=
  let r := parseExpSlot w
  let n := expUnits r.1
  let s := bump s .VK_EXP p 0 31 0 r.2
  if vcBuffer 1 < (getPort s p).held.getD 1 0 + n then credErr s p
  else modPort s p (fun q => { q with held := upd q.held 1 (· + n), rxexp := q.rxexp ++ r.1 })

/-- Whether a flit's header is well formed (R421). -/
def headerOk (h : BitVec 128) : Bool :=
  decide (fld h 127 124 ≤ 2) && decide (fld h 61 32 = 0) &&
  (decide (fld h 67 62 ≤ 0x25) || decide (fld h 67 62 = 0x3E) || decide (fld h 67 62 = 0x3F))

/-- A codeword's corrections and failures (R412, R426): more than UCW_LIMIT uncorrectable ones in a frame retrain the
port. -/
def countFec (s : Mach) (p corr : Nat) (ucw : Bool) : Mach :=
  let s := bump s .VK_FEC p 0 63 32 corr
  if ucw then
    let s := bump s .VK_FEC p 0 31 0 1
    let u := (getPort s p).ucw
    let n := if u.1 = frameNo s then u.2 + 1 else 1
    let s := modPort s p (fun q => { q with ucw := (frameNo s, n) })
    if rf s .VK_CFG p 0 39 24 < n ∧ (getPort s p).trig = false ∧ portState s p = vkActive then
      modPort (vkEvent s p 2) p (fun q => { q with trig := true })
    else s
  else s

/-- FLIT_RECEIVE (R421, R422, R424, R425): a flit of 640 bytes decoded `dt16` later, with the symbols corrected in its
codeword and whether the codeword was uncorrectable. -/
def flitReceive (s : Mach) (p : Nat) (bs : List Byte) (corr : Nat) (ucw : Bool) (dt16 : Nat) : Mach :=
  let s := after16 s dt16
  if portPresent s p = false ∨ (portState s p ≠ vkActive ∧ portState s p ≠ vkHeld) then s
  else
    let s := countFec s p corr ucw
    let h : BitVec 128 := BitVec.ofNat 128 (ofBytes (bs.take 16))
    let data := decide (fld h 127 124 = 1)
    if portState s p ≠ vkActive ∨ (getPort s p).trig then s
    else if bs.length ≠ 640 ∨ ucw = true ∨ headerOk h = false ∨ fld h 31 0 ≠ flitCrc bs then discardFlit s p data
    else
      let s := takeHeader s p h
      let s := if data then bumpAo s (barnDieId (p / 6)) 4 1 else s
      if data = false then s
      else
        let q := getPort s p
        let seq := fld h 123 112
        let want := (q.rxSeq + 1) % 4096
        if seq ≠ want then (if 2048 ≤ (seq + 4096 - want) % 4096 then s else discardFlit s p true)
        else if q.awaitRpl ∧ bit h 98 = false then s
        else
          let s := modPort s p (fun q => { q with rxSeq := seq, awaitRpl := false })
          let s := takeExps s p (ofBytes ((bs.drop 16).take 16))
          if fld h 67 62 = 0x3E then s
          else takeSlots 80 s p ((getPort s p).part ++ slotsOf (bs.drop 32))

def execFlitReceive (p : PortNo) (bytes : List Byte) (corr : Nat) (ucw : Bool) (dt16 : Nat) (s : State) :
    Host.Outcome State Fault Refusal := guarded (flitWf bytes) s (fun s => flitReceive s p bytes corr ucw dt16)

/-- NAK (R425): the port has received one and replays from ACK + 1. -/
def onNak (s : Mach) (p : Nat) : Mach :=
  if portPresent s p ∧ portState s p = vkActive ∧ (getPort s p).nakRx then startReplay s p else s

def execNak (p : PortNo) (s : State) : Host.Outcome State Fault Refusal := onMach s (fun s => onNak s p)

/-- ACK_TIMEOUT (R425): no ACK advance for ACK_TMO flit periods while flits are outstanding. -/
def ackTimeout (s : Mach) (p : Nat) : Mach :=
  let q := getPort s p
  if portPresent s p ∧ portState s p = vkActive ∧ q.replay ≠ [] then
    startReplay (advanceTo s (flitsAfter s p q.ackAt (max 1 (rf s .VK_CFG p 0 23 12)))) p
  else s

def execAckTimeout (p : PortNo) (s : State) : Host.Outcome State Fault Refusal := onMach s (fun s => ackTimeout s p)

/-! ### Express entries (R427, R428, R440, R458) -/

/-- EXPRESS_ENTRY: the oldest entry received at a port is forwarded with its STAMP increased by F and LINK_LAT, or held at
its final ingress until its STAMP; one that comes after its STAMP is counted. -/
def expressEntry (s : Mach) (p : Nat) : Mach :=
  match (getPort s p).rxexp with
  | [] => s
  | e :: _ =>
    let s := modPort s p (fun q => { q with rxexp := q.rxexp.drop 1 })
    let s := freeRx s p 1 (expUnits [e])
    let full := fullStamp s e.stamp
    if 3 < e.mtype then bump s .VK_EXP p 0 31 0 1
    else if tokLocal s e.dest then
      if isDone s = false then s
      else
        let late := decide (full < count16 s)
        let s := if late then bump s .VK_EXP p 0 63 32 1 else s
        modPort s p (fun q => { q with expHeld := q.expHeld ++ [(e, max full (count16 s))] })
    else if full + 16 * 16384 < count16 s then bump s .VK_EXP p 0 31 0 1
    else match routePort s (tokNode e.dest) with
      | none => unroutable s (tokNode e.dest)
      | some q =>
        let st := (full + 16 * (fwdLat (portDie p) (portDie q) + linkLat s q)) % 2 ^ 20
        modPort s q (fun x => { x with expq := x.expq ++ [{ e with stamp := st }] })

def execExpressEntry (p : PortNo) (s : State) : Host.Outcome State Fault Refusal := onMach s (fun s => expressEntry s p)

/-- The held entry of a port that is due first. -/
def firstDue (l : List (Express × Nat)) : Option (Nat × Express × Nat) :=
  l.zipIdx.foldl (fun acc x =>
    match acc with
    | some (_, _, t) => if x.1.2 < t then some (x.2, x.1.1, x.1.2) else acc
    | none => some (x.2, x.1.1, x.1.2)) none

/-- EXPRESS_DUE (R428 steps 3 and 4): at its STAMP the entry leaves for its die, which it reaches after E. -/
def expressDue (s : Mach) (p : Nat) : Mach :=
  match firstDue (getPort s p).expHeld with
  | none => s
  | some (i, e, t) =>
    let s := advanceTo (modPort s p (fun q => { q with expHeld := q.expHeld.eraseIdx i })) (tick16 s t)
    let b := tokBay e.dest
    let due := max s.now (tick16 s t) + dieLat (portDie p) (compDieId (dieOf b)) * acyc
    if e.mtype = 3 then
      modPwr s (fun w => { w with shiftIn := w.shiftIn ++
        [(e.body / 2 ^ 56 % 256, e.body / 2 ^ 48 % 256, e.body % 2 ^ 48)] })
    else if 72 ≤ b then s
    else if e.mtype = 0 then
      { s with toks := s.toks ++ [{ bay := b, ch := tokCh e.dest, n := e.n, poison := e.pois, due := due, tid := none,
                                    port := some p, cross := true }] }
    else
      let sl := e.xf % 16 * 2 ^ 16 + e.body % 2 ^ 16
      let pay : RdvPay := { group := e.body / 2 ^ 48 % 2 ^ 16, slack := if e.mtype = 2 then sext 20 sl else 0,
                            hold := e.xf.testBit 4, crit := e.body / 2 ^ 16 % 2 ^ 32 }
      { s with rdvs := s.rdvs ++ [{ rel := decide (e.mtype = 2), bay := b, ch := tokCh e.dest, pay := pay, due := due,
                                    tid := none, port := some p }] }

def execExpressDue (p : PortNo) (s : State) : Host.Outcome State Fault Refusal := onMach s (fun s => expressDue s p)

/-! ### Packets for other nodes (R439 to R441) -/

/-- The oldest packet of a port that meets a condition and is the first of its virtual channel, and its index. Scheduled
packets have no order among themselves. -/
def headPkt (s : Mach) (p : Nat) (f : Pkt → Bool) : Option (Nat × Pkt) :=
  let l := (getPort s p).rxq
  (l.zipIdx.find? (fun x => f x.1 &&
    (decide (x.1.vc = 4) || !((l.take x.2).any (fun y => decide (y.vc = x.1.vc)))))).map (fun x => (x.2, x.1))

/-- Bytes of the spill area that the ports of a barn use (R438, R441). -/
def spillUsed (s : Mach) (barn : Nat) : Nat :=
  ((List.range 6).map (fun k => (((getPort s (6 * barn + k)).spill.map (fun x => 16 * x.pkt.len)).sum))).sum

/-- Whether a packet has room in the spill area of a port's barn. -/
def spillRoom (s : Mach) (q : Nat) (k : Pkt) : Bool := decide (spillUsed s (q / 6) + 16 * k.len ≤ s.route.spillMib * 2 ^ 20)

/-- A forwarded packet joins the spill queue of its egress port: its ingress buffer is free. -/
def toSpill (s : Mach) (q : Nat) (x : TxPkt) : Mach :=
  let s := match x.from_ with | some r => freeRx s r x.pkt.vc x.pkt.len | none => s
  modPort s q (fun y => { y with spill := y.spill ++ [{ x with from_ := none }] })

/-- PACKET_FORWARD: the oldest packet of a port for another node goes to its egress port with HOPS raised, behind the spill
queue where there is one. -/
def packetForward (s : Mach) (p : Nat) : Mach :=
  match headPkt s p (fun k => decide (k.dnode ≠ s.route.nodeId)) with
  | none => s
  | some (i, k) =>
    let s := modPort s p (fun q => { q with rxq := q.rxq.eraseIdx i })
    if 7 ≤ k.hops then refuseRoute (freeRx s p k.vc k.len) k
    else match routePort s k.dnode with
      | none => refuseRoute (freeRx s p k.vc k.len) k
      | some q =>
        let x : TxPkt := { pkt := { k with hops := k.hops + 1 }, from_ := some p, due := none, since := s.now }
        if k.vc ≠ 4 ∧ (getPort s q).spill ≠ [] ∧ spillRoom s q k then toSpill s q x
        else modPort s q (fun y => { y with txq := y.txq ++ [x] })

def execPacketForward (p : PortNo) (s : State) : Host.Outcome State Fault Refusal := onMach s (fun s => packetForward s p)

/-- SPILL (R441): the oldest forwarded packet of an egress port that has found no credit for 64 flit periods is written to
the spill area; a full area raises a record, and the packet waits on. -/
def spill (s : Mach) (q : Nat) : Mach :=
  let y := getPort s q
  match y.txq.zipIdx.find? (fun x => x.1.from_.isSome && decide (x.1.pkt.vc ≠ 4) &&
      decide (creditOf y x.1.pkt.vc < x.1.pkt.len)) with
  | none => s
  | some (x, i) =>
    let s := advanceTo s (flitsAfter s q x.since 64)
    if spillRoom s q x.pkt then toSpill (modPort s q (fun y => { y with txq := y.txq.eraseIdx i })) q x
    else modPort (vkRecord s (some q) (farNode s q)) q (fun y => { y with txq := y.txq.set i { x with since := s.now } })

def execSpill (p : PortNo) (s : State) : Host.Outcome State Fault Refusal := onMach s (fun s => spill s p)

end Sys2Proof.Machine
end

