-- ==== Sys2Proof/Machine/Remote.lean ====
section
/-! DEFINITION. The Vrelrek memory space: requests served at the target, responses, timeouts (R436 to R458). Register
accesses of MRD and MWR stand with control space. -/

namespace Sys2Proof.Machine

open Sys2Proof.Config (acyc)

/-! ### Taking a packet -/

/-- The master ID of a port's ingress (R461). -/
def ingressMid (p : Nat) : Nat := 0x1E0 + p

/-- The oldest packet of a type for this package taken from a port, if no earlier one of its channel waits there. -/
def takeType (s : Mach) (p pt : Nat) : Option (Pkt × Mach) :=
  (headPkt s p (fun k => decide (k.dnode = s.route.nodeId) && decide (k.ptype = pt))).map (fun x =>
    (x.2, freeRx (modPort s p (fun q => { q with rxq := q.rxq.eraseIdx x.1 })) p x.2.vc x.2.len))

/-- A request of a type served: BUSY before bring-up has completed (R458), MALFORMED where its form breaks R444. Every
refusal raises a record. -/
def serveReq (s : Mach) (p pt : Nat) (ok : Pkt → Bool) (f : Pkt → Mach → Mach) : Mach :=
  match takeType s p pt with
  | none => s
  | some (k, s) =>
    if isDone s = false then respond (vkRecord s (some p) k.snode) k 3 0 0 []
    else if ok k = false then respond (vkRecord s (some p) k.snode) k 8 0 0 []
    else f k s

/-- A refusal with a STATUS that no register records. -/
def refusePkt (s : Mach) (p : Nat) (k : Pkt) (status : Nat) : Mach := respond (vkRecord s (some p) k.snode) k status 0 0 []

/-! ### Forms (R443, R444) -/

/-- Bytes that an RD or LRD asks for. -/
def readLen (k : Pkt) : Nat := 16 * (k.mod_ % 16 + 1)

/-- 16 to 256 B, aligned to 16 B, in one 256 B chunk. -/
def chunkOk (a n : Nat) : Bool := decide (a % 16 = 0) && decide (0 < n) && decide (a % 256 + n ≤ 256)

/-- The RLOFT form of ADDR: bay and offset. -/
def rloftBay (a : Nat) : Nat := a / 2 ^ 40 % 128
def rloftOff (a : Nat) : Nat := a % 2 ^ 25
def rloftOk (a : Nat) : Bool := decide (a / 2 ^ 25 % 2 ^ 15 = 0) && decide (a / 2 ^ 47 = 0)

def rdOk (k : Pkt) : Bool := decide (k.data = []) && decide (k.mod_ < 16) && chunkOk k.addr (readLen k)
def wrOk (k : Pkt) : Bool := decide (k.mod_ < 16) && chunkOk k.addr (16 * k.data.length)
def wrmOk (k : Pkt) : Bool :=
  decide (k.data.length = 5) && decide (k.mod_ < 2) && decide (k.addr % 64 = 0) && decide ((k.data.getD 0 0).toNat < 2 ^ 64)
def atomSize (k : Pkt) : Nat := if k.mod_.testBit 4 then 8 else 4
def atomOk (k : Pkt) : Bool :=
  decide (k.data.length = 1) && decide (k.mod_ < 32) && decide (k.mod_ % 16 < 10) && decide (k.addr % atomSize k = 0)
def naddOk (k : Pkt) : Bool :=
  decide (k.data.length = 4) && decide (k.mod_ < 8) && decide (k.mod_ % 4 ≠ 0) && decide (k.addr % 64 = 0)
def lwrOk (k : Pkt) : Bool := decide (k.mod_ < 32) && rloftOk k.addr && chunkOk (rloftOff k.addr) (16 * k.data.length)
def lrdOk (k : Pkt) : Bool :=
  decide (k.data = []) && decide (k.mod_ < 16) && rloftOk k.addr && chunkOk (rloftOff k.addr) (readLen k)
def stokOk (k : Pkt) : Bool := decide (k.data.length = 1) && decide (k.mod_ = 0) && decide ((k.data.getD 0 0).toNat < 2 ^ 41)
def schOk (k : Pkt) : Bool := decide (k.data.length ≠ 0) && decide ((k.data.getD 0 0).toNat < 2 ^ 20)

/-- A scheduled packet as the unscheduled one it carries (R443). -/
def unscheduled (k : Pkt) : Pkt := { k with data := k.data.drop 1 }

/-! ### Main memory and the loft window (R437) -/

/-- Whether an address is one that a request may reach. -/
def reachable (s : Mach) (a : Nat) : Bool := isMain s a || (match region s a with | .window _ _ => true | _ => false)

/-- Poison of the lines that a read meets, bit j for the j-th (R456). -/
def poisMask (s : Mach) (a n : Nat) : Nat :=
  (((linePieces a n).zipIdx).map (fun q => if (physRead s q.1.1 q.1.2).2 then 2 ^ q.2 else 0)).sum

/-- RD: the bytes, with POISMASK. -/
def serveRd (p : Nat) (k : Pkt) (s : Mach) : Mach :=
  if reachable s k.addr = false then refusePkt s p k 2
  else
    let r := readAs s (ingressMid p) none 0 k.addr (readLen k)
    match r.1 with
    | none => respond r.2 k 1 0 0 []
    | some d => respond r.2 k 0 0 (poisMask s k.addr (readLen k)) (slotsOf d.1)

def execRd (p : PortNo) (s : State) : Host.Outcome State Fault Refusal := onMach s (fun s => serveReq s p ptRD rdOk (serveRd p))

/-- STATUS of a write that the tables refuse: RO where only the lock of a shared region stands against it. -/
def writeRefusal (s : Mach) (c : Checked) (a : Nat) : Nat := if (rightsAt s c a).write && writeLocked s c a then 4 else 1

/-- Bytes written line by line, each with its poison; nothing where any line is refused. Answers the STATUS. -/
def remoteStore (s : Mach) (p a : Nat) (bs : List Byte) (pois : Nat) : Nat × Mach :=
  let c := checkedAs s (ingressMid p) none
  match physDenied s c a bs.length true with
  | some l => (writeRefusal s c l, physRefuse s (ingressMid p) c 0 l true)
  | none =>
    (0, foldS ((linePieces a bs.length).zipIdx) (fun t q =>
      let t := countBytes t q.1.1 64 .write (ownerOf t (ingressMid p) none)
      physWrite t q.1.1 ((bs.drop (q.1.1 - a)).take q.1.2) (pois.testBit q.2)) s)

/-- WR. -/
def serveWr (p : Nat) (k : Pkt) (s : Mach) : Mach :=
  if reachable s k.addr = false then refusePkt s p k 2
  else
    let r := remoteStore s p k.addr (bytesOfSlots k.data) k.mod_
    respond r.2 k r.1 0 0 []

def execWr (p : PortNo) (s : State) : Host.Outcome State Fault Refusal := onMach s (fun s => serveReq s p ptWR wrOk (serveWr p))

/-- WRM: the masked bytes of a line; POIS leaves the line poisoned. -/
def serveWrm (p : Nat) (k : Pkt) (s : Mach) : Mach :=
  if reachable s k.addr = false then refusePkt s p k 2
  else
    let c := checkedAs s (ingressMid p) none
    let mask := (k.data.getD 0 0).toNat
    let bs := bytesOfSlots (k.data.drop 1)
    match physDenied s c k.addr 64 true with
    | some l =>
      let st := writeRefusal s c l
      respond (physRefuse s (ingressMid p) c 0 l true) k st 0 0 []
    | none =>
      let s := countBytes s k.addr 64 .write (ownerOf s (ingressMid p) none)
      let s := match region s k.addr with
        | .window b off => if bayPresent s b then loftPut (countLoftWrite s b 64) b off bs mask (k.mod_ % 2) else s
        | _ => homeWrite s (k.addr / 64) (BitVec.ofNat 512 (ofBytes bs)) mask (decide (k.mod_ % 2 = 1))
      respond s k 0 0 0 []

def execWrm (p : PortNo) (s : State) : Host.Outcome State Fault Refusal := onMach s (fun s => serveReq s p ptWRM wrmOk (serveWrm p))

/-- The value an atomic writes (R445), on values of `w` bits. -/
def atomNew (op w old a b : Nat) : Nat :=
  let si := fun (x : Nat) => sext w (x % 2 ^ w)
  match op with
  | 0 => a
  | 1 => old + a
  | 2 => old &&& a
  | 3 => old ||| a
  | 4 => old ^^^ a
  | 5 => if si a < si old then a else old
  | 6 => if si old < si a then a else old
  | 7 => min old (a % 2 ^ w)
  | 8 => max old (a % 2 ^ w)
  | _ => if old = a % 2 ^ w then b else old

/-- An atomic performed at its home (R407): the old value and the poison of the line, which stays as it was. -/
def doAtomic (s : Mach) (op size a x y : Nat) : Nat × Bool × Mach :=
  let old := cohNat s a size
  let v := atomNew op (8 * size) old.1 x y % 2 ^ (8 * size)
  (old.1, old.2, cohWrite s a (bytesOf size v) false)

/-- ATOM. -/
def serveAtom (p : Nat) (k : Pkt) (s : Mach) : Mach :=
  if reachable s k.addr = false then refusePkt s p k 2
  else
    let c := checkedAs s (ingressMid p) none
    let g := rightsAt s c k.addr
    if (g.atomic && g.write) = false then respond (refuseMem s (ingressMid p) c 0 k.addr) k 1 0 0 []
    else if writeLocked s c k.addr then respond (physRefuse s (ingressMid p) c 0 k.addr true) k 4 0 0 []
    else
      let d := (k.data.getD 0 0).toNat
      let s := countBytes s k.addr 64 .write (ownerOf s (ingressMid p) none)
      let r := doAtomic s (k.mod_ % 16) (atomSize k) k.addr (d % 2 ^ 64) (d / 2 ^ 64)
      respond r.2.2 k 0 0 r.2.1.toNat [BitVec.ofNat 128 r.1]

def execAtom (p : PortNo) (s : State) : Host.Outcome State Fault Refusal := onMach s (fun s => serveReq s p ptATOM atomOk (serveAtom p))

/-- NADD: a line of DFMT values added at its home (R306); FLAGS are those of the additions. -/
def serveNadd (p : Nat) (k : Pkt) (s : Mach) : Mach :=
  let op := k.mod_ % 4
  let n := nmaBytes op
  let v := ofBytes (bytesOfSlots k.data)
  let els := (List.range (64 / n)).map (fun i => (k.addr + i * n, v / 2 ^ (8 * n * i) % 2 ^ (8 * n), k.mod_.testBit 2))
  let r := nmaAt s (ingressMid p) none 0 op els
  match r.1 with
  | .done f => respond r.2 k 0 f 0 []
  | .access => respond r.2 k 1 0 0 []
  | .locked => respond r.2 k 4 0 0 []
  | .unsup => respond r.2 k 5 0 0 []
  | .target => refusePkt r.2 p k 2

def execNadd (p : PortNo) (s : State) : Host.Outcome State Fault Refusal := onMach s (fun s => serveReq s p ptNADD naddOk (serveNadd p))

/-! ### Planned regions (R444, R267, R268) -/

/-- The checks of LWR and LRD in order: bay, access table, fence. A STATUS with its report, or none. -/
def rloftCheck (s : Mach) (p : Nat) (k : Pkt) (n : Nat) (wrt : Bool) : Option (Nat × Mach) :=
  let b := rloftBay k.addr
  let off := rloftOff k.addr
  let c := checkedAs s (ingressMid p) none
  let a := s.cfg.winBase + b * 0x2000000 + off
  let g := rightsAt s c a
  if bayPresent s b = false then some (9, vkRecord s (some p) k.snode)
  else if (if wrt then g.write else g.read) = false then some (1, refuseMem s (ingressMid p) c 0 a)
  else match (getSeq s b).tid with
    | some t => if fencePass s b off n t then none else some (6, lftErr s b (fenceCode s b t) off t true)
    | none => some (6, lftErr s b 2 off 0 true)

/-- LWR: data lands in a planned region. -/
def serveLwr (p : Nat) (k : Pkt) (s : Mach) : Mach :=
  let n := 16 * k.data.length
  match rloftCheck s p k n true with
  | some (st, s) => respond s k st 0 0 []
  | none =>
    let b := rloftBay k.addr
    respond (loftPut (countLoftWrite s b n) b (rloftOff k.addr) (bytesOfSlots k.data) (2 ^ n - 1) (k.mod_ % 16)) k 0 0 0 []

def execLwr (p : PortNo) (s : State) : Host.Outcome State Fault Refusal := onMach s (fun s => serveReq s p ptLWR lwrOk (serveLwr p))

/-- LRD: a planned region read through its window. -/
def serveLrd (p : Nat) (k : Pkt) (s : Mach) : Mach :=
  let n := readLen k
  match rloftCheck s p k n false with
  | some (st, s) => respond s k st 0 0 []
  | none =>
    let b := rloftBay k.addr
    let off := rloftOff k.addr
    let s := countEv (countLoftRead s b n) b 0x09 (ceilDiv n 64)
    let pm := (((linePieces off n).zipIdx).map (fun q => if rangePois s b q.1.1 q.1.2 then 2 ^ q.2 else 0)).sum
    respond s k 0 0 pm (slotsOf ((List.range n).map (fun i => loftByte s b (off + i))))

def execLrd (p : PortNo) (s : State) : Host.Outcome State Fault Refusal := onMach s (fun s => serveReq s p ptLRD lrdOk (serveLrd p))

/-! ### STOK (R444) -/

/-- Whether a port still holds an earlier write of a packet's stream (R394). -/
def streamWaits (s : Mach) (p : Nat) (k : Pkt) : Bool :=
  (getPort s p).rxq.any (fun x => decide (x.snode = k.snode) && decide (x.mid = k.mid) && decide (x.sid = k.sid) &&
    decide (x.vc = 4) && decide (x.dnode = s.route.nodeId))

/-- STOK: the token goes to its bay once the earlier writes of its stream are performed; a malformed one, or one that comes
before bring-up has completed, is dropped. -/
def stok (s : Mach) (p : Nat) : Mach :=
  match takeType s p ptSTOK with
  | none => s
  | some (k, t) =>
    if streamWaits s p k then s
    else if isDone s = false then t
    else if stokOk k = false then vkRecord t (some p) k.snode
    else
      let w := (k.data.getD 0 0).toNat
      let b := tokBay w
      if 72 ≤ b then t
      else { t with toks := t.toks ++ [{ bay := b, ch := tokCh w, n := w / 2 ^ 32 % 256, poison := w.testBit 40,
                                         due := t.now + dieLat (portDie p) (compDieId (dieOf b)) * acyc, tid := none,
                                         port := some p, cross := true }] }

def execStok (p : PortNo) (s : State) : Host.Outcome State Fault Refusal := onMach s (fun s => stok s p)

/-! ### Scheduled packets (R452, R454) -/

/-- The scheduled packet of a type for this package that is due first, its index, and its due time in 1/16 ACYC. -/
def firstSch (s : Mach) (p pt : Nat) : Option (Nat × Pkt × Nat) :=
  ((getPort s p).rxq.zipIdx).foldl (fun acc x =>
    if x.1.dnode = s.route.nodeId ∧ x.1.ptype = pt then
      let d := fullStamp s (x.1.data.getD 0 0 |>.toNat |> (· % 2 ^ 20))
      match acc with
      | some (_, _, e) => if d < e then some (x.2, x.1, d) else acc
      | none => some (x.2, x.1, d)
    else acc) none

/-- A scheduled packet is held until D_k and lands at the first FCLK edge of its die at or after it; one that comes later
lands on arrival. Before bring-up has completed it is dropped. -/
def landSch (s : Mach) (p pt : Nat) (ok : Pkt → Bool) (f : Pkt → Mach → Mach) : Mach :=
  match firstSch s p pt with
  | none => s
  | some (i, k, d) =>
    let s := freeRx (modPort s p (fun q => { q with rxq := q.rxq.eraseIdx i })) p 4 k.len
    if isDone s = false then s
    else if (schOk k && ok (unscheduled k)) = false then refusePkt s p k 8
    else
      let t := max s.now (tick16 s d)
      let s := if pt = ptSLWR ∧ rloftBay k.addr < 72 then
          let c := clkOf s (rloftBay k.addr)
          advanceTo s (edgeTick c (edgeAfter c t))
        else advanceTo s t
      f (unscheduled k) s

def execSwr (p : PortNo) (s : State) : Host.Outcome State Fault Refusal := onMach s (fun s => landSch s p ptSWR wrOk (serveWr p))
def execSlwr (p : PortNo) (s : State) : Host.Outcome State Fault Refusal := onMach s (fun s => landSch s p ptSLWR lwrOk (serveLwr p))

/-! ### Responses (R443, R455) -/

/-- The outcome of a request given to its owner: STATUS (6, REMOTE, for a mover on a timeout), FLAGS, POISMASK and data. -/
def giveAnswer (s : Mach) (r : VkReq) (status flags pois : Nat) (data : List (BitVec 128)) : Mach :=
  match r.owner with
  | .moveRead u id key n => moveRemoteData s u id key n status ((bytesOfSlots data).take n) pois
  | .moveWrite u id => moveRemoteAck s u id status flags
  | .golden => modFlt s (fun f => { f with repairs := f.repairs.map (fun q =>
      if q.reading then { q with answer := some (if status = 0 ∧ pois = 0 then some (BitVec.ofNat 512 (ofBytes (bytesOfSlots data)))
                                                  else none) } else q) })
  | .atomItem ring idx =>
    { s with ringDone := s.ringDone ++
      [{ ring := ring, idx := idx, kind := 2, status := status,
         result := if status = 0 then (data.getD 0 0).toNat % 2 ^ 64 else 0, flags := 0, pois := decide (pois % 2 = 1) }] }
  | .mgmt => { s with mgt := { s.mgt with answer := some (status, BitVec.ofNat 64 (data.getD 0 0).toNat) } }

/-- A response: it goes to the request that holds its tag; one whose tag is free or held back is dropped with a record. -/
def response (s : Mach) (p pt : Nat) : Mach :=
  match takeType s p pt with
  | none => s
  | some (k, s) =>
    let mine := fun (r : VkReq) => decide (r.mid = k.mid) && decide (r.tag = k.tag) && !r.held
    match s.vkReqs.find? mine with
    | none => vkRecord s (some p) k.snode
    | some r =>
      giveAnswer { s with vkReqs := s.vkReqs.filter (fun r => !(mine r)) } r (k.addr % 256) (k.addr / 2 ^ 12 % 2 ^ 16)
        k.mod_ k.data

def execRdata (p : PortNo) (s : State) : Host.Outcome State Fault Refusal := onMach s (fun s => response s p ptRDATA)
def execWack (p : PortNo) (s : State) : Host.Outcome State Fault Refusal := onMach s (fun s => response s p ptWACK)
def execArsp (p : PortNo) (s : State) : Host.Outcome State Fault Refusal := onMach s (fun s => response s p ptARSP)
def execMrsp (p : PortNo) (s : State) : Host.Outcome State Fault Refusal := onMach s (fun s => response s p ptMRSP)

/-- REMOTE_TMO in ticks (R438). -/
def remoteTmo (s : Mach) : Nat := max 1 s.route.remoteTmo * 4096 * acyc

/-- REMOTE_TIMEOUT (R455): the `i`th outstanding request, unanswered for REMOTE_TMO, completes as refused; its tag is held
back. A mover's code is REMOTE; for an ATOM item the spec states no STATUS, a free value other than OK. -/
def remoteTimeout (s : Mach) (i : Nat) : Mach :=
  match (s.vkReqs.filter (fun r => !r.held))[i]? with
  | none => s
  | some r =>
    let s := advanceTo s (r.sentAt + remoteTmo s)
    let s := vkRecord { s with vkReqs := s.vkReqs.map (fun q =>
      if q.mid = r.mid ∧ q.tag = r.tag then { q with held := true, sentAt := s.now } else q) } none r.node
    let (w, s) := drawWord s
    giveAnswer s r (match r.owner with | .atomItem _ _ => 1 + w.toNat % 255 | _ => 7) 0 0 []

def execRemoteTimeout (i : Nat) (s : State) : Host.Outcome State Fault Refusal := onMach s (fun s => remoteTimeout s i)

/-- TAG_HOLDBACK_EXPIRY (R455): a tag held back is free after a further REMOTE_TMO. -/
def tagHoldbackExpiry (s : Mach) (mid tag : Nat) : Mach :=
  match s.vkReqs.find? (fun r => decide (r.mid = mid) && decide (r.tag = tag) && r.held) with
  | none => s
  | some r =>
    let s := advanceTo s (r.sentAt + remoteTmo s)
    { s with vkReqs := s.vkReqs.filter (fun q => !(decide (q.mid = mid) && decide (q.tag = tag) && q.held)) }

def execTagHoldbackExpiry (mid : Mid) (tag : Fin 1024) (s : State) : Host.Outcome State Fault Refusal :=
  onMach s (fun s => tagHoldbackExpiry s mid tag)

end Sys2Proof.Machine
end

