-- ==== Sys2Proof/Machine/Rings.lean ====
section
/-! DEFINITION. Work rings (R482 to R496), message-signalled interrupts (R340, R494) and the fault records of engine
translation, which travel on rings (R334). -/

namespace Sys2Proof.Machine

open Sys2Proof.Config (acyc)

/-! ### Interrupts to IMSIC files (R340) -/

/-- The core and file of an IMSIC address: file 0 is the machine file, 1 the supervisor file, 1 + g guest file g. -/
def imsicFile (s : Mach) (a : Nat) : Option (Nat × Nat) :=
  let m := a - s.cfg.imsicM
  let v := a - s.cfg.imsicS
  if s.cfg.imsicM ≤ a ∧ m / 0x1000 < 96 ∧ s.cfg.imsicM ≠ 0 then some (m / 0x1000, 0)
  else if s.cfg.imsicS ≤ a ∧ v / 0x8000 < 96 ∧ s.cfg.imsicS ≠ 0 then some (v / 0x8000, 1 + v % 0x8000 / 0x1000)
  else none

/-- An identity made pending in the file that an address names; 0 and identities past 255 are ignored, as is every other
word of a file's page. -/
def msiTo (s : Mach) (a data : Nat) : Mach :=
  match imsicFile s a with
  | some (c, f) =>
    if data = 0 ∨ 255 < data ∨ a % 0x1000 ≠ 0 then s
    else modCore s c (fun x => { x with eip := smapPut false x.eip (f * 256 + data) true })
  | none => s

/-! ### Mach of a ring (R482) -/

def ringKind (s : Mach) (r : Nat) : Nat := rf s .RNG_CFG r 0 62 60
def ringOn (s : Mach) (r : Nat) : Bool := rb s .RNG_CFG r 0 63
/-- Words of the buffer. -/
def ringSize (s : Mach) (r : Nat) : Nat := 2 ^ (rf s .RNG_CFG r 0 59 56 + 4)
def pidx (s : Mach) (r : Nat) : Nat := rf s .RNG_STATE r 0 31 0
def cidx (s : Mach) (r : Nat) : Nat := rf s .RNG_CIDX r 0 31 0
def pend (s : Mach) (r : Nat) : Nat := rf s .RNG_STATE r 0 38 32
def ringEpoch (s : Mach) (r : Nat) : Nat := rf s .RNG_STATE r 0 63 48
def ringOcc (s : Mach) (r : Nat) : Nat := (pidx s r + 2 ^ 32 - cidx s r) % 2 ^ 32
/-- Address of word `i`. -/
def ringAddr (s : Mach) (r i : Nat) : Nat := rf s .RNG_BASE r 0 47 10 * 1024 + i % ringSize s r * 64
def hwConsumed (k : Nat) : Bool := decide (k = 1) || decide (k = 2)
def hwProduced (k : Nat) : Bool := decide (3 ≤ k)

/-- An event of RNG_ERR: the first is recorded, every one raises a record (R496). -/
def ringErr (s : Mach) (r code : Nat) : Mach :=
  let i := (pidx s r + pend s r) % 2 ^ 32
  let s := recordFirst s .RNG_ERR r 0 (packFlds [(39, 32, code), (31, 0, i)])
  raise s ((mkRec s 0x11 code 0x13 0x7F 0 0 r).forPart (ringPid s r) 0)

/-- PIDX advances: the items committed are visible to the consumer (R485, R488). -/
def advancePidx (s : Mach) (r n : Nat) : Mach := bumpAo (wf s .RNG_STATE r 0 31 0 ((pidx s r + n) % 2 ^ 32)) 0 3 1

/-- RING_MSI (R494): an armed ring with a nonzero ringOcc sends its interrupt and is disarmed. -/
def ringMsi (s : Mach) (r : Nat) : Mach :=
  if ringOn s r ∧ rb s .RNG_CFG r 0 55 ∧ rb s .RNG_CIDX r 0 63 ∧ ringOcc s r ≠ 0 then
    msiTo (wb s .RNG_CIDX r 0 63 false) (rf s .RNG_MSI r 0 47 2 * 4) (rf s .RNG_MSI r 0 55 48)
  else s

def execRingMsi (r : RingNo) (s : State) : Host.Outcome State Fault Refusal := onMach s (fun s => ringMsi s r)

/-! ### Producing and consuming (R484 to R487) -/

/-- PEND as it stands and the core whose doorbell made it nonzero, by its master ID (R493, R554). -/
def setPend (s : Mach) (r n mid : Nat) : Mach :=
  let by_ := if n = 0 then 0 else if pend s r ≠ 0 then smapGet 0 s.ringBy r else if 1 ≤ mid ∧ mid ≤ 0x60 then mid else 0
  let s := { s with ringBy := smapPut 0 s.ringBy r by_, ringAt := smapPut 0 s.ringAt r (s.now + 1) }
  wf s .RNG_STATE r 0 38 32 n

/-- RNG_DB_PROD (R485): a doorbell adds WORDS to PEND and commits at END; a 4-byte write is BAD_DB. -/
def onDbProd (s : Mach) (mid r : Nat) (w4 : Bool) (v : Word) : Mach :=
  let words := fld v 6 0
  let fin := bit v 16
  let p := pend s r
  if w4 then ringErr (bump s .RNG_STAT r 0 47 32 1) r 1
  else if fld v 63 48 ≠ ringEpoch s r then bump s .RNG_STAT r 0 63 48 1
  else if words = 0 ∨ 64 < words ∨ 64 < p + words ∨ (p + words = 64 ∧ fin = false) ∨
      (fin = false ∧ hwConsumed (ringKind s r) = true) ∨ hwProduced (ringKind s r) = true then
    ringErr (bump s .RNG_STAT r 0 47 32 1) r 1
  else if ringSize s r < ringOcc s r + p + words then ringErr (bump s .RNG_STAT r 0 47 32 1) r 2
  else
    let s := bumpAo s 0 2 1
    if fin then advancePidx (setPend s r 0 mid) r (p + words) else setPend s r (p + words) mid

/-- RNG_DB_CONS (R487, R494). -/
def onDbCons (s : Mach) (r : Nat) (v : Word) : Mach :=
  let c := fld v 31 0
  if hwConsumed (ringKind s r) = true ∨ ringOcc s r < (c + 2 ^ 32 - cidx s r) % 2 ^ 32 then
    ringErr (bump s .RNG_STAT r 0 47 32 1) r 3
  else
    let s := bumpAo (wf s .RNG_CIDX r 0 31 0 c) 0 2 1
    if bit v 63 then ringMsi (wb s .RNG_CIDX r 0 63 true) r else s

/-! ### Hardware producers (R488) -/

/-- Whether a ring takes the items of a producer. -/
def takesItem (s : Mach) (r need : Nat) : Bool := decide (r < 4096) && ringOn s r && decide (ringKind s r = need)

/-- An item that is dropped counts and is recorded on a ring. -/
def dropItem (s : Mach) (r : Nat) : Mach := ringErr (bump s .RNG_STAT r 0 7 0 1) r 6

/-- An item written whole, and PIDX advanced. -/
def putItem (s : Mach) (r : Nat) (d : Line) : Mach :=
  advancePidx (homeWrite s (ringAddr s r (pidx s r) / 64) d fullMask false) r 1

/-- An item offered to its ring: dropped, written, or waiting behind others while the ring is full. -/
def offerItem (s : Mach) (x : HwItem) : Mach :=
  if takesItem s x.ring x.need = false then dropItem s (x.counts % 4096)
  else if s.hwItems.any (fun y => decide (y.ring = x.ring) && y.waiting) || decide (ringSize s x.ring ≤ ringOcc s x.ring) then
    let s := bump s .RNG_STAT x.ring 0 15 8 1
    { s with hwItems := s.hwItems ++ [{ x with waiting := true }] }
  else putItem s x.ring x.line

/-- HW_ITEM: the oldest item of a hardware producer that has not been offered to its ring is. -/
def hwItem (s : Mach) : Mach :=
  match s.hwItems.findIdx? (fun x => !x.waiting) with
  | some i =>
    (match s.hwItems[i]? with
     | some x => offerItem { s with hwItems := s.hwItems.eraseIdx i } x
     | none => s)
  | none => s

def execHwItem (s : State) : Host.Outcome State Fault Refusal := onMach s (fun s => hwItem s)

/-- HW_ITEM_ROOM: the first item that waits on a ring is written once the ring has room. -/
def hwItemRoom (s : Mach) (r : Nat) : Mach :=
  match s.hwItems.findIdx? (fun x => decide (x.ring = r) && x.waiting) with
  | some i =>
    (match s.hwItems[i]? with
     | some x =>
       let t := { s with hwItems := s.hwItems.eraseIdx i }
       if takesItem s r x.need = false then dropItem t (x.counts % 4096)
       else if ringOcc s r < ringSize s r then putItem t r x.line
       else s
     | none => s)
  | none => s

def execHwItemRoom (r : RingNo) (s : State) : Host.Outcome State Fault Refusal := onMach s (fun s => hwItemRoom s r)

/-- An item that a hardware source of the hub addresses to a ring. -/
def sendItem (s : Mach) (ring need : Nat) (line : Line) (until_ : Option Nat) : Mach :=
  { s with hwItems := s.hwItems ++
    [{ ring := ring, need := need, line := line, counts := ring, until_ := until_, waiting := false }] }

/-- A 64 B item from its first bytes. -/
def itemLine (bs : List Byte) : Line := BitVec.ofNat 512 (ofBytes bs)

/-- COMPLETION_ITEM (R491): the oldest completion is written on CRING of its ring, which must be an enabled COMPL ring of the
same partition; otherwise it is dropped and counted on the source ring. -/
def completionItem (s : Mach) : Mach :=
  match s.ringDone with
  | [] => s
  | d :: _ =>
    let s := { s with ringDone := s.ringDone.drop 1 }
    let c := rf s .RNG_CFG d.ring 0 43 32
    let line := itemLine (bytesOf 4 d.idx ++ bytesOf 2 d.ring ++ bytesOf 1 d.kind ++ bytesOf 1 d.status ++ bytesOf 8 d.result ++
      bytesOf 2 d.flags ++ bytesOf 1 d.pois.toNat)
    if takesItem s c 3 = false ∨ ringPid s c ≠ ringPid s d.ring ∨ (ringPid s c).isNone then dropItem s d.ring
    else offerItem s { ring := c, need := 3, line := line, counts := d.ring, until_ := none, waiting := false }

def execCompletionItem (s : State) : Host.Outcome State Fault Refusal := onMach s (fun s => completionItem s)

/-! ### Hardware consumers (R489, R490) -/

/-- The next committed word of a ring that the hub consumes, read under the rights of the ring's partition; a refusal stops
the ring. -/
def takeWord (s : Mach) (r kind : Nat) : Option (Except Mach (Nat × Nat × Line)) :=
  if (ringOn s r && decide (ringKind s r = kind) && !(rb s .RNG_STATE r 0 39) && decide (ringOcc s r ≠ 0)) = false then none
  else match ringPid s r with
    | none => none
    | some p =>
      let a := ringAddr s r (cidx s r)
      if isMain s a = false ∨ (physDenied s (.part p) a 64 false).isSome then
        some (.error (ringErr (wb (refuseMem s 0 (.part p) 0 a) .RNG_STATE r 0 39 true) r 5))
      else some (.ok (p, cidx s r, (homeRead s (a / 64)).1))

/-- CIDX advances as the hub takes an item. -/
def takeDone (s : Mach) (r : Nat) : Mach := wf s .RNG_CIDX r 0 31 0 ((cidx s r + 1) % 2 ^ 32)

/-- A completion that the hub has still to write. -/
def ringEnd (s : Mach) (r i kind status result : Nat) (p : Bool) : Mach :=
  { s with ringDone := s.ringDone ++
    [{ ring := r, idx := i, kind := kind, status := status, result := result, flags := 0, pois := p }] }

/-- BARN_ITEM_TAKE: a descriptor is submitted to the barn die of TARGET for the ring's partition; while the die's queue is
full the hub waits. A refused one completes with code ACCESS (R313). -/
def barnItemTake (s : Mach) (r : Nat) : Mach :=
  let d := rf s .RNG_CFG r 0 31 30
  if 64 ≤ (getBarnMov s d).queue.length then s
  else match takeWord s r 1 with
    | none => s
    | some (.error t) => t
    | some (.ok (p, i, w)) =>
      let s := takeDone s r
      let a := ringAddr s r i
      let q := barnSubmit s d (some p) a w (some (r, i))
      if q.1 then q.2 else ringEnd q.2 r i 1 1 0 false

def execBarnItemTake (r : RingNo) (s : State) : Host.Outcome State Fault Refusal := onMach s (fun s => barnItemTake s r)

/-- An atomic of this package's own node under the rights of a partition: STATUS, old value, poison. -/
def ownAtomic (s : Mach) (p op size a x y : Nat) : Nat × Nat × Bool × Mach :=
  let c : Checked := .part p
  let g := rightsAt s c a
  if reachable s a = false then (2, 0, false, s)
  else if (g.atomic && g.write) = false then (1, 0, false, refuseMem s 0 c 0 a)
  else if writeLocked s c a then (4, 0, false, physRefuse s 0 c 0 a true)
  else
    let r := doAtomic (countBytes s a 64 .write (ownPart p)) op size a x y
    (0, r.1, r.2.1, r.2.2)

/-- ATOM_ITEM_TAKE: an atomic item is performed at its home here, or sent to its node; at most 16 of a ring are outstanding. -/
def atomItemTake (s : Mach) (r : Nat) : Mach :=
  if 16 ≤ (s.vkReqs.filter (fun q => !q.held && (match q.owner with | .atomItem k _ => decide (k = r) | _ => false))).length then s
  else match takeWord s r 2 with
    | none => s
    | some (.error t) => t
    | some (.ok (p, i, w)) =>
      let ga := fld w 61 0
      let op := fld w 67 64
      let size := if bit w 68 then 8 else 4
      let sid := fld w 91 80
      let x := fld w 191 128
      let y := fld w 255 192
      let a := ga % 2 ^ 48
      let node := ga / 2 ^ 48
      let s1 := takeDone s r
      if 10 ≤ op ∨ fld w 63 62 ≠ 0 ∨ fld w 79 69 ≠ 0 ∨ fld w 127 92 ≠ 0 ∨ fld w 511 256 ≠ 0 ∨ a % size ≠ 0 then
        ringEnd s1 r i 2 8 0 false
      else if node = s.route.nodeId then
        let q := ownAtomic s1 p op size a x y
        ringEnd q.2.2.2 r i 2 q.1 q.2.1 q.2.2.1
      else
        let v := vkRequest s1 0 sid node ptATOM (op + if size = 8 then 16 else 0) a [BitVec.ofNat 128 (x + y * 2 ^ 64)]
          (.atomItem r i) none
        match v.1 with
        | .sent => v.2
        | .noTag => s
        | .unroutable => ringEnd v.2 r i 2 7 0 false

def execAtomItemTake (r : RingNo) (s : State) : Host.Outcome State Fault Refusal := onMach s (fun s => atomItemTake s r)

/-! ### Flush and configuration (R492, R493, R495) -/

/-- A flush: PEND is discarded and EPOCH advances. -/
def flushRing (s : Mach) (r : Nat) : Mach :=
  let s := bump s .RNG_STAT r 0 31 16 (pend s r)
  let s := wf (setPend s r 0 0) .RNG_STATE r 0 63 48 ((ringEpoch s r + 1) % 65536)
  s

/-- The effect of a write of RNG_CTL: FLUSH, and with it DISCARD. -/
def onRngCtl (s : Mach) (r : Nat) (v : Word) : Mach :=
  if bit v 0 = false then s
  else
    let s := flushRing s r
    if bit v 1 then wf (bump s .RNG_STAT r 0 31 16 (ringOcc s r)) .RNG_CIDX r 0 31 0 (pidx s r) else s

/-- PEND_TIMEOUT (R493): PEND nonzero for PEND_TMO frames with no doorbell applied flushes the ring. -/
def pendTimeout (s : Mach) (r : Nat) : Mach :=
  let t := rf s .RNG_CFG r 0 15 0
  if t = 0 ∨ pend s r = 0 then s
  else flushRing (ringErr (advanceTo s (smapGet 0 s.ringAt r - 1 + t * 65536 * acyc)) r 4) r

def execPendTimeout (r : RingNo) (s : State) : Host.Outcome State Fault Refusal := onMach s (fun s => pendTimeout s r)

/-- Whether a value of RNG_CFG may enable a ring. -/
def ringLegal (s : Mach) (r : Nat) (v : Word) : Bool :=
  decide (fld v 62 60 ≤ 5) && decide (fld v 59 56 ≤ 12) && (ringPid s r).isSome &&
  decide (rf s .RNG_BASE r 0 47 10 * 1024 % 2 ^ (fld v 59 56 + 10) = 0)

/-- The effect of a write of RNG_CFG. -/
def onRngCfg (s : Mach) (r : Nat) (v : Word) : Mach :=
  if ringOn s r then
    let s := wb s .RNG_CFG r 0 55 (bit v 55)
    if bit v 63 then s else wb (setPend s r 0 0) .RNG_CFG r 0 63 false
  else
    let kept := packFlds [(62, 60, fld v 62 60), (59, 56, fld v 59 56), (55, 55, (bit v 55).toNat), (43, 32, fld v 43 32),
      (31, 30, fld v 31 30), (15, 0, fld v 15 0)]
    let s := wr s .RNG_CFG r 0 kept
    if bit v 63 = false then wf s .RNG_STATE r 0 38 32 0
    else if ringLegal s r v = false then s
    else
      let s := wb s .RNG_CFG r 0 63 true
      let s := wr s .RNG_STATE r 0 (packFlds [(63, 48, (ringEpoch s r + 1) % 65536)])
      { (wr s .RNG_CIDX r 0 (packFlds [(63, 63, 1)])) with ringBy := smapPut 0 s.ringBy r 0 }

/-- A write of RNG_BASE: ignored while the ring is enabled. -/
def onRngBase (s : Mach) (r : Nat) (v : Word) : Mach := if ringOn s r then s else wf s .RNG_BASE r 0 47 10 (fld v 47 10)

/-! ### Fault records of engine translation (R334) -/

/-- FAULT_RECORD_WRITE: the oldest fault of a die whose record is not written yet is put on the ring of its partition; while
that is full the item waits and is counted. A record that the ring drops counts as written. -/
def faultRecordWrite (s : Mach) (d : Nat) : Mach :=
  match (getEtrDie s d).faults.find? (fun f => f.written.isNone) with
  | none => s
  | some f =>
    let ring := rf s .ETR_PFRING 0 ((tenPid s f.req.tid).getD 0) 11 0
    let put := fun (t : Mach) (g : PFault → PFault) => modEtrDie t d (fun x => { x with faults := x.faults.map (fun q =>
      if q.slot = f.slot then g q else q) })
    let done := fun (t : Mach) => put t (fun q => { q with written := some (frameNo t) })
    if takesItem s ring 4 = false then done (dropItem s ring)
    else if ringSize s ring ≤ ringOcc s ring then
      if f.waited then s
      else put (bump (bump s .RNG_STAT ring 0 15 8 1) .ETR_PFSTAT 0 0 31 16 1) (fun q => { q with waited := true })
    else done (putItem s ring (BitVec.ofNat 512 (faultItem s d f).toNat))

def execFaultRecordWrite (die : Fin 10) (s : State) : Host.Outcome State Fault Refusal := onMach s (fun s => faultRecordWrite s die)

end Sys2Proof.Machine
end

