-- ==== Sys2Proof/Machine/Prot.lean ====
section
/-! DEFINITION. Tenant records and rekeying (R467 to R470, R473). -/

namespace Sys2Proof.Machine

/-! ### Tenant records (R467 to R470) -/

/-- Whether reserved bits of a tenant record are nonzero: word A as written, B and C as staged (R469). -/
def tenReserved (a b c : Word) : Bool :=
  decide (fld a 57 48 ≠ 0) || decide (fld a 9 0 ≠ 0) || decide (fld b 63 48 ≠ 0) || decide (fld b 15 0 ≠ 0)
    || decide (fld c 63 33 ≠ 0)

/-- Whether a commit is rejected (R469): a reserved bit, or with VALID = 1 an undefined partition or a bad crop range. -/
def tenRejected (s : Mach) (a b c : Word) : Bool :=
  tenReserved a b c
    || (bit a 63 && (!partValid s (fld a 61 58) || decide (fld c 32 0 = 0)
        || decide (2 ^ 48 < fld b 47 16 * 65536 + fld c 32 0 * 65536)))

/-- Whether a TID is the current slice tenant or the announced next tenant in any rota (R469). -/
def tenBusy (s : Mach) (t : Nat) : Bool :=
  s.bays.toList.any (fun b => decide (b.seq.tid = some t))
    || (List.range 16).any (fun p =>
      match (getRota s p).ann, leadBay s p with
      | some n, some b => decide (rf s .SEQ_ROTA_A b n 61 52 = t)
      | _, _ => false)

/-- TEN_REJECT (3) or TEN_BUSY (4): PRT_ERR and a record of class PARTITION (R480, R639). -/
def tenErr (s : Mach) (mid t code : Nat) : Mach :=
  let p := (midInfo s mid).2
  let s := recordFirst s .PRT_ERR 0 0 (packFlds [(55, 48, code), (42, 34, mid), (33, 30, p.getD 0), (29, 20, t)])
  raise s { (mkRec s 0x10 code 0x12 0x7F 0 0 (p.getD 0)).forPart p t with mid := mid }

/-- Whether a write of a tenant record is accepted (R470): a SYS master, or a BOUND master of partition p when the current
and the written record are either invalid or bound to p. -/
def tenWriteOk (s : Mach) (mid t : Nat) (v : Word) : Bool :=
  midSys s mid ||
    (match midInfo s mid with
     | (.bound, some p) =>
       (!tenValid s t || decide (tenPid s t = some p)) && (!bit v 63 || decide (fld v 61 58 = p))
     | _ => false)

/-- The staged words of a record. -/
def stagedB (s : Mach) (t : Nat) : Word := smapGet 0 s.tenB t
def stagedC (s : Mach) (t : Nat) : Word := smapGet 0 s.tenC t

/-- A write of PRT_TENt_A (R467, R469): the staged words and A become the record at once, or the commit is ignored. -/
def onTenA (s : Mach) (mid t : Nat) (v : Word) : Mach :=
  let b := stagedB s t
  let c := stagedC s t
  if tenRejected s v b c then tenErr s mid t 3
  else if tenBusy s t then tenErr s mid t 4
  else wr (wr (wr s .PRT_TEN_A 0 t v) .PRT_TEN_B 0 t b) .PRT_TEN_C 0 t c

/-- Writes of PRT_TENt_B and PRT_TENt_C are staged (R467). -/
def onTenB (s : Mach) (t : Nat) (v : Word) : Mach := { s with tenB := smapPut 0 s.tenB t v }
def onTenC (s : Mach) (t : Nat) (v : Word) : Mach := { s with tenC := smapPut 0 s.tenC t v }

/-! ### Rekey (R473) -/

/-- Whether a partition is held in partition reset (FLT_PRST.HELD). -/
def prstHeld (s : Mach) (p : Nat) : Bool := rb s .FLT_PRST 0 0 (16 + p)

/-- The line of a cache entry, and whether its granule belongs to a partition. -/
def lineOwnedBy (s : Mach) (p line : Nat) : Bool :=
  let e := granuleOf s (line * 64)
  bit e 63 && decide (fld e 51 48 = p)

/-- Granules of a partition, as `granNo` numbers them. -/
def granulesOf (s : Mach) (p : Nat) : List Nat :=
  let own (e : Word) : Bool := bit e 63 && decide (fld e 51 48 = p)
  (List.range 432).filter (fun g => own (rg s .PRT_GGRAN 0 g))
    ++ ((List.range 4096).filter (fun g => own (rg s .PRT_HGRAN 0 g))).map (fun g => 65536 + g)

/-- SEC_REKEY with START = 1 (R473): accepted only while the partition is held in partition reset. Every cached line of
its granules is invalidated without write-back and a fresh key is installed; BUSY stays until REKEY_COMPLETE. -/
def onRekey (s : Mach) (v : Word) : Mach :=
  let p := fld v 3 0
  if rb s .SEC_REKEY 0 0 63 then s
  else
    let s := wf s .SEC_REKEY 0 0 3 0 p
    if bit v 62 = false then s
    else if prstHeld s p = false then wb s .SEC_STATUS 0 0 3 true
    else
      let s := wb s .SEC_REKEY 0 0 63 true
      let held := s.held.filter (fun x => !lineOwnedBy s p (x.1 % lineSpan))
      let dir := s.dir.filter (fun x => !lineOwnedBy s p x.1)
      let k := s.epochs + 1
      let keys := (granulesOf s p).foldl (fun m g => smapPut 0 m g k) s.granKey
      let s := { s with held := held, dir := dir, epochs := k, granKey := keys }
      let s := modBoot s (fun b => { b with keys := smapPut 0 b.keys p (Config.drbgKey b.keyDraws), keyDraws := b.keyDraws + 1 })
      bump s .SEC_KEYEPOCH 0 p 31 0 1

/-- REKEY_COMPLETE (R473): BUSY clears; the rekey typically takes 2 ms. -/
def rekeyComplete (s : Mach) : Mach := wb s .SEC_REKEY 0 0 63 false

def execRekeyComplete (s : State) : Host.Outcome State Fault Refusal := onMach s (fun s => rekeyComplete s)

end Sys2Proof.Machine
end

