-- ==== Sys2Proof/Machine/Rv.lean ====
section
/-! DEFINITION. RISC-V scalar instructions as sheaf threads (R222) and host cores (R339) execute them: RV64IMAFD with Zicsr,
Zifencei, Zfh, Zba and Zbb, and for cores Zbs, Zicond, Zfa, Zimop and the cache-block operations. The meaning is that of
the RISC-V specifications, which the spec names. Registers are numbers below 2^64. -/

namespace Sys2Proof.Machine

/-- What an instruction asks of the agent that executes it. -/
inductive RvAct where
  | illegal
  /-- A result in x (or f) register `rd`, with floating-point flags; the pc moves on. -/
  | result (fp : Bool) (rd : Nat) (v : Nat) (fl : Nat)
  | jump (target rd : Nat)
  | branch (taken : Bool) (target : Nat)
  /-- A load of `size` bytes: sign-extended, or NaN-boxed into an f register. -/
  | load (fp : Bool) (rd a size : Nat) (signed : Bool)
  | store (a size v : Nat)
  | lr (rd a size : Nat)
  | sc (rd a size v : Nat)
  | amo (op rd a size v : Nat)
  | fence (bits : Nat)
  | fenceI
  | ecall
  | ebreak
  /-- A CSR access: 1 write, 2 set, 3 clear, with the source operand; `wr` says whether it writes, `rdx` whether it reads. -/
  | csr (op rd num src : Nat) (wr rdx : Bool)
  /-- A cache-block operation on the block of an address: 0 INVAL, 1 CLEAN, 2 FLUSH, 4 ZERO. -/
  | cbo (op a : Nat)
  /-- A privileged instruction, a custom opcode or a vector instruction: for the agent to read. -/
  | other
  deriving DecidableEq, Repr

/-- The registers that an instruction reads. -/
structure RvIn where
  pc : Nat
  x : Nat → Nat
  f : Nat → Nat
  frm : Nat
  /-- A host core: the extensions of RVA23 beyond those of a thread, and Zfhmin in place of Zfh. -/
  core : Bool

/-! ### Fields -/

def iOp (w : Nat) : Nat := w % 128
def iRd (w : Nat) : Nat := w / 2 ^ 7 % 32
def iF3 (w : Nat) : Nat := w / 2 ^ 12 % 8
def iRs1 (w : Nat) : Nat := w / 2 ^ 15 % 32
def iRs2 (w : Nat) : Nat := w / 2 ^ 20 % 32
def iRs3 (w : Nat) : Nat := w / 2 ^ 27 % 32
def iF7 (w : Nat) : Nat := w / 2 ^ 25 % 128
def iImm (w : Nat) : Nat := w / 2 ^ 20 % 4096

/-- A number of `w` bits sign-extended to 64. -/
def sx (w v : Nat) : Nat := ofSigned 64 (sext w v)

def immI (w : Nat) : Nat := sx 12 (iImm w)
def immS (w : Nat) : Nat := sx 12 (iF7 w * 32 + iRd w)
def immB (w : Nat) : Nat :=
  sx 13 (w / 2 ^ 31 % 2 * 2 ^ 12 + w / 2 ^ 7 % 2 * 2 ^ 11 + w / 2 ^ 25 % 64 * 32 + w / 2 ^ 8 % 16 * 2)
def immU (w : Nat) : Nat := sx 32 (w / 2 ^ 12 % 2 ^ 20 * 2 ^ 12)
def immJ (w : Nat) : Nat :=
  sx 21 (w / 2 ^ 31 % 2 * 2 ^ 20 + w / 2 ^ 12 % 256 * 2 ^ 12 + w / 2 ^ 20 % 2 * 2 ^ 11 + w / 2 ^ 21 % 1024 * 2)

/-- A sum mod 2^64. -/
def add64 (a b : Nat) : Nat := (a + b) % 2 ^ 64
def sub64 (a b : Nat) : Nat := (a + 2 ^ 64 - b % 2 ^ 64) % 2 ^ 64
def not64 (a : Nat) : Nat := 2 ^ 64 - 1 - a % 2 ^ 64
def slt64 (a b : Nat) : Bool := decide (sext 64 a < sext 64 b)

/-! ### Integer results -/

/-- Leading zeros of `n` bits. -/
def clz (n v : Nat) : Nat := if v % 2 ^ n = 0 then n else n - 1 - Nat.log2 (v % 2 ^ n)
/-- Trailing zeros of `n` bits. -/
def ctz (n v : Nat) : Nat := ((List.range n).find? (fun i => v.testBit i)).getD n
def rol (n v k : Nat) : Nat := let k := k % n; (v * 2 ^ k + v % 2 ^ n / 2 ^ (n - k)) % 2 ^ n
def ror (n v k : Nat) : Nat := rol n (v % 2 ^ n) (n - k % n)
def sra (n v k : Nat) : Nat := ofSigned n (sext n v / 2 ^ k)

/-- M on `n` bits; divisions by zero and overflow as the M extension gives them. -/
def mulDiv (n f3 a b : Nat) : Nat :=
  let sa := sext n a
  let sb := sext n b
  let ua := a % 2 ^ n
  let ub := b % 2 ^ n
  match f3 with
  | 0 => ofSigned n (sa * sb)
  | 1 => ofSigned n (sa * sb / 2 ^ n)
  | 2 => ofSigned n (sa * ub / 2 ^ n)
  | 3 => ua * ub / 2 ^ n
  | 4 => if ub = 0 then 2 ^ n - 1 else ofSigned n (sa.tdiv sb)
  | 5 => if ub = 0 then 2 ^ n - 1 else ua / ub
  | 6 => if ub = 0 then ua else ofSigned n (sa.tmod sb)
  | _ => if ub = 0 then ua else ua % ub

/-- Bytes that are not zero become 0xFF (ORC.B), and the bytes of a doubleword reversed (REV8). -/
def orcB (v : Nat) : Nat := ofBytes ((bytesOf 8 v).map (fun b => if b = 0 then 0 else 0xFF))
def rev8 (v : Nat) : Nat := ofBytes (bytesOf 8 v).reverse

/-- OP: the result of a register-register instruction of 64 bits. -/
def rvOp (core : Bool) (w a b : Nat) : Option Nat :=
  let k := b % 64
  match iF7 w * 8 + iF3 w with
  | 0x0 => some (add64 a b)
  | 0x1 => some (a * 2 ^ k % 2 ^ 64)
  | 0x2 => some (slt64 a b).toNat
  | 0x3 => some (decide (a < b)).toNat
  | 0x4 => some (a ^^^ b)
  | 0x5 => some (a / 2 ^ k)
  | 0x6 => some (a ||| b)
  | 0x7 => some (a &&& b)
  | 0x100 => some (sub64 a b)
  | 0x105 => some (sra 64 a k)
  | 0x104 => some (a ^^^ not64 b)
  | 0x106 => some (a ||| not64 b)
  | 0x107 => some (a &&& not64 b)
  | 0x82 => some (add64 (a * 2) b)
  | 0x84 => some (add64 (a * 4) b)
  | 0x86 => some (add64 (a * 8) b)
  | 0x2C => some (if slt64 a b then a else b)
  | 0x2D => some (min a b)
  | 0x2E => some (if slt64 a b then b else a)
  | 0x2F => some (max a b)
  | 0x181 => some (rol 64 a k)
  | 0x185 => some (ror 64 a k)
  | 0x121 => if core then some (a &&& not64 (2 ^ k)) else none
  | 0x125 => if core then some (a / 2 ^ k % 2) else none
  | 0x1A1 => if core then some (a ^^^ 2 ^ k) else none
  | 0xA1 => if core then some (a ||| 2 ^ k) else none
  | 0x3D => if core then some (if b = 0 then 0 else a) else none
  | 0x3F => if core then some (if b = 0 then a else 0) else none
  | k => if k / 8 = 1 then some (mulDiv 64 (k % 8) a b) else none

/-- OP-IMM. -/
def rvOpImm (core : Bool) (w a : Nat) : Option Nat :=
  let i := immI w
  let k := iImm w % 64
  let top := iImm w / 64
  match iF3 w with
  | 0 => some (add64 a i)
  | 2 => some (slt64 a i).toNat
  | 3 => some (decide (a < i)).toNat
  | 4 => some (a ^^^ i)
  | 6 => some (a ||| i)
  | 7 => some (a &&& i)
  | 1 =>
    if top = 0 then some (a * 2 ^ k % 2 ^ 64)
    else if top = 0x12 ∧ core = true then some (a &&& not64 (2 ^ k))
    else if top = 0x1A ∧ core = true then some (a ^^^ 2 ^ k)
    else if top = 0x0A ∧ core = true then some (a ||| 2 ^ k)
    else match iImm w with
      | 0x600 => some (clz 64 a)
      | 0x601 => some (ctz 64 a)
      | 0x602 => some (popcount 64 a)
      | 0x604 => some (sx 8 a)
      | 0x605 => some (sx 16 a)
      | _ => none
  | _ =>
    if top = 0 then some (a / 2 ^ k)
    else if top = 0x10 then some (sra 64 a k)
    else if top = 0x18 then some (ror 64 a k)
    else if top = 0x12 ∧ core = true then some (a / 2 ^ k % 2)
    else match iImm w with
      | 0x287 => some (orcB a)
      | 0x6B8 => some (rev8 a)
      | _ => none

/-- OP-32. -/
def rvOp32 (w a b : Nat) : Option Nat :=
  let k := b % 32
  let u := a % 2 ^ 32
  match iF7 w * 8 + iF3 w with
  | 0x0 => some (sx 32 (a + b))
  | 0x100 => some (sx 32 (sub64 a b))
  | 0x1 => some (sx 32 (a * 2 ^ k))
  | 0x5 => some (sx 32 (u / 2 ^ k))
  | 0x105 => some (sx 32 (sra 32 a k))
  | 0x20 => some (add64 u b)
  | 0x82 => some (add64 (u * 2) b)
  | 0x84 => some (add64 (u * 4) b)
  | 0x86 => some (add64 (u * 8) b)
  | 0x181 => some (sx 32 (rol 32 a k))
  | 0x185 => some (sx 32 (ror 32 a k))
  | 0x24 => if iRs2 w = 0 then some (a % 2 ^ 16) else none
  | k => if k / 8 = 1 ∧ k ≠ 9 ∧ k ≠ 10 ∧ k ≠ 11 then some (sx 32 (mulDiv 32 (k % 8) a b)) else none

/-- OP-IMM-32. -/
def rvOpImm32 (w a : Nat) : Option Nat :=
  let k := iImm w % 32
  match iF3 w with
  | 0 => some (sx 32 (add64 a (immI w)))
  | 1 =>
    if iF7 w = 0 then some (sx 32 (a * 2 ^ k))
    else if iImm w / 64 = 2 then some (a % 2 ^ 32 * 2 ^ (iImm w % 64) % 2 ^ 64)
    else match iImm w with
      | 0x600 => some (clz 32 a)
      | 0x601 => some (ctz 32 a)
      | 0x602 => some (popcount 32 a)
      | _ => none
  | 5 =>
    if iF7 w = 0 then some (sx 32 (a % 2 ^ 32 / 2 ^ k))
    else if iF7 w = 0x20 then some (sx 32 (sra 32 a k))
    else if iF7 w = 0x30 then some (sx 32 (ror 32 a k))
    else none
  | _ => none

/-! ### Floating point -/

/-- The format of a `fmt` field: 0 single, 1 double, 2 half. -/
def fpFmt (k : Nat) : FloatFmt := match k with | 0 => fmtFP32 | 1 => fmtFP64 | _ => fmtFP16
def fpBits (k : Nat) : Nat := match k with | 0 => 32 | 1 => 64 | _ => 16
/-- A value boxed with ones into 64 bits. -/
def fpBox (k v : Nat) : Nat := 2 ^ 64 - 2 ^ fpBits k + v % 2 ^ fpBits k
/-- The bits of an f register read as a format: a value not boxed is the canonical NaN. -/
def fpUnbox (k v : Nat) : Nat := if v / 2 ^ fpBits k = 2 ^ (64 - fpBits k) - 1 then v % 2 ^ fpBits k else canonNaN (fpFmt k)
def fpVal (k v : Nat) : Val := decodeFloat (fpFmt k) (fpUnbox k v)

/-- The rounding mode of an instruction (R223): 7 selects frm; 5 and 6 are illegal. -/
def fpRm (i : RvIn) (w : Nat) : Option Rnd :=
  let m := if iF3 w = 7 then i.frm else iF3 w
  if m < 5 then some { rm := m, sat := false, seed := 0, idx := 0 } else none

/-- A value rounded to a format and boxed, with flags beside its own. -/
def fpOut (k rd : Nat) (r : Rnd) (v : Val × Nat) : RvAct :=
  let e := encodeFloat (fpFmt k) r v.1
  .result true rd (fpBox k e.1) (v.2 ||| e.2)

def isSig : Val → Bool
  | .nan k => k
  | _ => false

/-- FMIN and FMAX, and with `m` FMINM and FMAXM of Zfa: −0 is below +0; a NaN gives way to a number unless `m`. -/
def fpMinMax (k : Nat) (max m : Bool) (a b : Nat) : Nat × Nat :=
  let x := fpVal k a
  let y := fpVal k b
  let fl := if isSig x || isSig y then fNV else 0
  let less := x.lt y || (x.isZero && y.isZero && x.sign)
  let nan := canonNaN (fpFmt k)
  if m && (x.isNaN || y.isNaN) then (nan, fl)
  else if x.isNaN then (if y.isNaN then nan else fpUnbox k b, fl)
  else if y.isNaN then (fpUnbox k a, fl)
  else (if less != max then fpUnbox k a else fpUnbox k b, fl)

/-- FLE, FLT, FEQ (funct3 0, 1, 2), and the quiet FLEQ and FLTQ of Zfa (4, 5). -/
def fpCmp (k f3 a b : Nat) : Nat × Nat :=
  let x := fpVal k a
  let y := fpVal k b
  let nan := x.isNaN || y.isNaN
  let quiet := decide (2 ≤ f3)
  let fl := if (if quiet then isSig x || isSig y else nan) then fNV else 0
  let v := match f3 % 4 with | 0 => x.lt y || x.eq y | 1 => x.lt y | _ => x.eq y
  ((!nan && v).toNat, fl)

/-- FCLASS. -/
def fpClass (k a : Nat) : Nat :=
  let bits := fpUnbox k a
  let f := fpFmt k
  let sub := decide (bits / 2 ^ f.mbits % 2 ^ f.ebits = 0)
  match decodeFloat f bits with
  | .nan s => if s then 2 ^ 8 else 2 ^ 9
  | .inf n => if n then 1 else 2 ^ 7
  | .fin n m _ => if m = 0 then (if n then 2 ^ 3 else 2 ^ 4) else if sub then (if n then 2 ^ 2 else 2 ^ 5) else (if n then 2 else 2 ^ 6)

/-- A value converted to an integer of `n` bits as RISC-V converts it: out of range or NaN is NV and saturates. -/
def fpToInt (n : Nat) (signed : Bool) (r : Rnd) (v : Val) : Nat × Nat :=
  let hi : Int := if signed then 2 ^ (n - 1) - 1 else 2 ^ n - 1
  let lo : Int := if signed then -(2 ^ (n - 1)) else 0
  match v with
  | .nan _ => (ofSigned n hi, fNV)
  | .inf neg => (ofSigned n (if neg then lo else hi), fNV)
  | .fin neg m e =>
    let q := roundTo r neg m e 0
    let i : Int := if neg then -(q.1 : Int) else q.1
    if hi < i then (ofSigned n hi, fNV) else if i < lo then (ofSigned n lo, fNV)
    else (ofSigned n i, if q.2 then fNX else 0)

/-- FROUND and FROUNDNX of Zfa. -/
def fpRound (k : Nat) (r : Rnd) (nx : Bool) (a : Nat) : Nat × Nat :=
  match fpVal k a with
  | .fin n m e =>
    let q := roundTo r n m e 0
    ((encodeFloat (fpFmt k) rne (.fin n q.1 0)).1, if nx && q.2 then fNX else 0)
  | .inf _ => (fpUnbox k a, 0)
  | .nan s => (canonNaN (fpFmt k), if s then fNV else 0)

/-- The constants of FLI (Zfa) as a value. -/
def fliVal (k i : Nat) : Val :=
  match i with
  | 0 => .fin true 1 0
  | 1 => .fin false 1 (1 - (fpFmt k).bias)
  | 2 => .fin false 1 (-16) | 3 => .fin false 1 (-15) | 4 => .fin false 1 (-8) | 5 => .fin false 1 (-7)
  | 6 => .fin false 1 (-4) | 7 => .fin false 1 (-3) | 8 => .fin false 1 (-2) | 9 => .fin false 5 (-4)
  | 10 => .fin false 3 (-3) | 11 => .fin false 7 (-4) | 12 => .fin false 1 (-1) | 13 => .fin false 5 (-3)
  | 14 => .fin false 3 (-2) | 15 => .fin false 7 (-3) | 16 => .fin false 1 0 | 17 => .fin false 5 (-2)
  | 18 => .fin false 3 (-1) | 19 => .fin false 7 (-2) | 20 => .fin false 2 0 | 21 => .fin false 5 (-1)
  | 22 => .fin false 3 0 | 23 => .fin false 4 0 | 24 => .fin false 8 0 | 25 => .fin false 16 0
  | 26 => .fin false 128 0 | 27 => .fin false 256 0 | 28 => .fin false 32768 0 | 29 => .fin false 65536 0
  | 30 => .inf false | _ => .nan false

/-- Whether a core has an OP-FP function in half precision: Zfhmin has moves and conversions between formats only. -/
def fpHalfOk (core : Bool) (f5 rs2 : Nat) : Bool :=
  !core || decide (f5 = 0x08 ∧ rs2 ≤ 2) || decide (f5 = 0x1E ∧ rs2 = 0) || decide (f5 = 0x1C ∧ rs2 = 0)

/-- OP-FP. -/
def rvFp (i : RvIn) (w : Nat) : RvAct :=
  let k := iF7 w % 4
  let f5 := iF7 w / 4
  let rd := iRd w
  let a := i.f (iRs1 w)
  let b := i.f (iRs2 w)
  let f3 := iF3 w
  let bad := decide (k = 3) || (decide (k = 2) && !(fpHalfOk i.core f5 (iRs2 w) && decide (¬(f5 = 0x1C ∧ f3 ≠ 0 ∧ i.core = true))))
  let withRm (g : Rnd → RvAct) : RvAct := match fpRm i w with | some r => g r | none => .illegal
  let x := fpVal k a
  let y := fpVal k b
  if bad then .illegal
  else match f5 with
  | 0x00 => withRm (fun r => fpOut k rd r (addVal r.rm x y))
  | 0x01 => withRm (fun r => fpOut k rd r (addVal r.rm x y.negate))
  | 0x02 => withRm (fun r => fpOut k rd r (mulVal x y))
  | 0x03 => withRm (fun r => fpOut k rd r (divVal x y))
  | 0x0B => if iRs2 w ≠ 0 then .illegal else withRm (fun r => fpOut k rd r (sqrtVal x))
  | 0x04 =>
    let n := fpBits k
    let u := fpUnbox k a
    let v := fpUnbox k b
    let top := 2 ^ (n - 1)
    if f3 = 0 then .result true rd (fpBox k (u % top + v / top * top)) 0
    else if f3 = 1 then .result true rd (fpBox k (u % top + (1 - v / top) * top)) 0
    else if f3 = 2 then .result true rd (fpBox k (u ^^^ (v / top * top))) 0
    else .illegal
  | 0x05 =>
    if f3 < 2 ∨ (f3 < 4 ∧ i.core = true) then
      let v := fpMinMax k (decide (f3 % 2 = 1)) (decide (2 ≤ f3)) a b
      .result true rd (fpBox k v.1) v.2
    else .illegal
  | 0x08 =>
    let j := iRs2 w
    if j < 3 ∧ j ≠ k then
      withRm (fun r =>
        let v := fpVal j a
        fpOut k rd r (v, if isSig v then fNV else 0))
    else if (j = 4 ∨ j = 5) ∧ i.core = true then
      withRm (fun r => let v := fpRound k r (decide (j = 5)) a; .result true rd (fpBox k v.1) v.2)
    else .illegal
  | 0x14 =>
    if f3 < 3 ∨ ((f3 = 4 ∨ f3 = 5) ∧ i.core = true) then let v := fpCmp k f3 a b; .result false rd v.1 v.2 else .illegal
  | 0x18 =>
    if iRs2 w < 4 then
      withRm (fun r =>
        let n := if iRs2 w < 2 then 32 else 64
        let v := fpToInt n (decide (iRs2 w % 2 = 0)) r x
        .result false rd (sx n v.1) v.2)
    else if iRs2 w = 8 ∧ k = 1 ∧ f3 = 1 ∧ i.core = true then
      let v : Nat × Nat := match x with
        | .fin n m e =>
          let q := roundTo { rne with rm := 1 } n m e 0
          let s : Int := if n then -(q.1 : Int) else q.1
          let big := decide (s < -(2 ^ 31 : Int)) || decide ((2 ^ 31 - 1 : Int) < s)
          (ofSigned 32 s, if big then fNV else if q.2 then fNX else 0)
        | _ => (0, fNV)
      .result false rd (sx 32 v.1) v.2
    else .illegal
  | 0x1A =>
    if iRs2 w < 4 then
      withRm (fun r =>
        let v := i.x (iRs1 w)
        let n : Int := match iRs2 w with | 0 => sext 32 v | 1 => (v % 2 ^ 32 : Nat) | 2 => sext 64 v | _ => v
        fpOut k rd r (ofInt n 0, 0))
    else .illegal
  | 0x1C =>
    if iRs2 w ≠ 0 then .illegal
    else if f3 = 0 then .result false rd (sx (fpBits k) (a % 2 ^ fpBits k)) 0
    else if f3 = 1 then .result false rd (fpClass k a) 0
    else .illegal
  | 0x1E =>
    if f3 ≠ 0 then .illegal
    else if iRs2 w = 0 then .result true rd (fpBox k (i.x (iRs1 w))) 0
    else if iRs2 w = 1 ∧ i.core = true then .result true rd (fpBox k (encodeFloat (fpFmt k) rne (fliVal k (iRs1 w))).1) 0
    else .illegal
  | _ => .illegal

/-- The fused multiply-adds. -/
def rvFma (i : RvIn) (w : Nat) : RvAct :=
  let k := iF7 w % 4
  if k = 3 ∨ (k = 2 ∧ i.core = true) then .illegal
  else match fpRm i w with
  | none => .illegal
  | some r =>
    let op := iOp w
    let a := fpVal k (i.f (iRs1 w))
    let b := fpVal k (i.f (iRs2 w))
    let c := fpVal k (i.f (iRs3 w))
    let a := if op = 0x4B ∨ op = 0x4F then a.negate else a
    let c := if op = 0x47 ∨ op = 0x4F then c.negate else c
    fpOut k (iRd w) r (fmaVal r.rm a b c)

/-! ### One instruction -/

/-- The new value of an AMO. -/
def amoVal (op size old v : Nat) : Nat :=
  let n := 8 * size
  let lt := decide (sext n old < sext n v)
  let o := old % 2 ^ n
  let u := v % 2 ^ n
  match op with
  | 1 => u
  | 0 => (o + u) % 2 ^ n
  | 4 => o ^^^ u
  | 0xC => o &&& u
  | 8 => o ||| u
  | 0x10 => if lt then o else u
  | 0x14 => if lt then u else o
  | 0x18 => min o u
  | _ => max o u

/-- What a 32-bit instruction asks. -/
def rvExec (i : RvIn) (w : Nat) : RvAct :=
  let a := i.x (iRs1 w)
  let b := i.x (iRs2 w)
  let rd := iRd w
  let f3 := iF3 w
  let res (o : Option Nat) : RvAct := match o with | some v => .result false rd (v % 2 ^ 64) 0 | none => .illegal
  match iOp w with
  | 0x37 => res (some (immU w))
  | 0x17 => res (some (add64 i.pc (immU w)))
  | 0x6F => .jump (add64 i.pc (immJ w)) rd
  | 0x67 => if f3 = 0 then .jump (add64 a (immI w) / 2 * 2) rd else .illegal
  | 0x63 =>
    let t := add64 i.pc (immB w)
    (match f3 with
     | 0 => .branch (decide (a = b)) t
     | 1 => .branch (decide (a ≠ b)) t
     | 4 => .branch (slt64 a b) t
     | 5 => .branch (!slt64 a b) t
     | 6 => .branch (decide (a < b)) t
     | 7 => .branch (decide (b ≤ a)) t
     | _ => .illegal)
  | 0x03 =>
    if f3 = 7 then .illegal else .load false rd (add64 a (immI w)) (2 ^ (f3 % 4)) (decide (f3 < 4))
  | 0x23 => if 4 ≤ f3 then .illegal else .store (add64 a (immS w)) (2 ^ f3) b
  | 0x13 => res (rvOpImm i.core w a)
  | 0x33 => res (rvOp i.core w a b)
  | 0x1B => res (rvOpImm32 w a)
  | 0x3B => res (rvOp32 w a b)
  | 0x07 => if 1 ≤ f3 ∧ f3 ≤ 3 then .load true rd (add64 a (immI w)) (2 ^ f3) false else .other
  | 0x27 => if 1 ≤ f3 ∧ f3 ≤ 3 then .store (add64 a (immS w)) (2 ^ f3) (i.f (iRs2 w)) else .other
  | 0x43 => rvFma i w
  | 0x47 => rvFma i w
  | 0x4B => rvFma i w
  | 0x4F => rvFma i w
  | 0x53 => rvFp i w
  | 0x0F =>
    if f3 = 0 then .fence (iImm w)
    else if f3 = 1 then .fenceI
    else if f3 = 2 ∧ i.core = true ∧ rd = 0 ∧ (iImm w ≤ 2 ∨ iImm w = 4) then .cbo (iImm w) a
    else .illegal
  | 0x2F =>
    let size := 2 ^ f3
    let op := iF7 w / 4
    if f3 ≠ 2 ∧ f3 ≠ 3 then .illegal
    else if op = 2 then (if iRs2 w = 0 then .lr rd a size else .illegal)
    else if op = 3 then .sc rd a size b
    else if op ∈ [0, 1, 4, 8, 0xC, 0x10, 0x14, 0x18, 0x1C] then .amo op rd a size b
    else .illegal
  | 0x73 =>
    if f3 = 0 then
      (if w = 0x00000073 then .ecall else if w = 0x00100073 then .ebreak else .other)
    else if f3 = 4 then
      -- Zimop: MOP.R and MOP.RR write 0
      (if i.core && decide (w / 2 ^ 31 % 2 = 1) && decide (w / 2 ^ 28 % 4 = 0) &&
          (decide (w / 2 ^ 25 % 2 = 1) || decide (w / 2 ^ 22 % 16 = 7)) then .result false rd 0 0 else .other)
    else
      let src := if 4 < f3 then iRs1 w else a
      let op := f3 % 4
      .csr op rd (iImm w) src (decide (op = 1) || decide (iRs1 w ≠ 0)) (decide (op ≠ 1) || decide (rd ≠ 0))
  | _ => .other

/-- The registers that an instruction reads, f registers from 32 on; x0 is none. -/
def rvSrcs (w : Nat) : List Nat :=
  let x1 := [iRs1 w]
  let x12 := [iRs1 w, iRs2 w]
  let f1 := [32 + iRs1 w]
  let f12 := [32 + iRs1 w, 32 + iRs2 w]
  let l := match iOp w with
    | 0x67 => x1 | 0x63 => x12 | 0x03 => x1 | 0x23 => x12 | 0x13 => x1 | 0x33 => x12 | 0x1B => x1 | 0x3B => x12
    | 0x07 => x1
    | 0x27 => [iRs1 w, 32 + iRs2 w]
    | 0x43 => f12 ++ [32 + iRs3 w] | 0x47 => f12 ++ [32 + iRs3 w] | 0x4B => f12 ++ [32 + iRs3 w] | 0x4F => f12 ++ [32 + iRs3 w]
    | 0x53 =>
      (match iF7 w / 4 with
       | 0x0B => f1 | 0x08 => f1 | 0x18 => f1 | 0x1C => f1
       | 0x1A => x1
       | 0x1E => if iRs2 w = 0 then x1 else []
       | _ => f12)
    | 0x2F => if iF7 w / 4 = 2 then x1 else x12
    | 0x73 => if 1 ≤ iF3 w ∧ iF3 w ≤ 3 then x1 else []
    | 0x0F => if iF3 w = 2 then x1 else []
    | _ => []
  l.filter (fun r => decide (r ≠ 0))

/-- The registers whose use as a branch condition, a jump target or an address may not be poisoned (R244). -/
def rvControl (w : Nat) : List Nat :=
  let l := match iOp w with
    | 0x67 => [iRs1 w] | 0x63 => [iRs1 w, iRs2 w] | 0x03 => [iRs1 w] | 0x23 => [iRs1 w] | 0x07 => [iRs1 w] | 0x27 => [iRs1 w]
    | 0x2F => [iRs1 w]
    | _ => []
  l.filter (fun r => decide (r ≠ 0))

end Sys2Proof.Machine
end

