-- ==== Sys2Proof/Machine/Sheaf.lean ====
section
/-! DEFINITION. Sheaf engines: launches, threads, issue, faults, window end and wind-up (chapter 08). -/

namespace Sys2Proof.Machine

def getEng (s : Mach) (b e : Nat) : Eng := vget Eng.zero (getBay s b).engs e

def modEng (s : Mach) (b e : Nat) (f : Eng → Eng) : Mach := modBay s b (fun x => { x with engs := vmod x.engs e f })

/-! ### Threads -/

def Thread.zero : Thread := { st := .cut, pc := 0, x := [], f := [], pois := 0, fcsr := 0, instret := 0, readyAt := 0 }

/-- A live thread (R216). -/
def Thread.live (t : Thread) : Bool :=
  match t.st with | .exited => false | .faulted => false | .cut => false | _ => true

def Thread.getX (t : Thread) (r : Nat) : Nat := if r = 0 then 0 else (smapGet 0 t.x r).toNat
def Thread.getF (t : Thread) (r : Nat) : Nat := (smapGet 0 t.f r).toNat

/-- Whether a register, an f register from 32 on, is poisoned (R244). -/
def Thread.poisoned (t : Thread) (r : Nat) : Bool := t.pois.testBit r

/-- A mask with one bit set or cleared. -/
def putBit (m i : Nat) (v : Bool) : Nat := if m.testBit i = v then m else m ^^^ 2 ^ i

/-- A result written: x0 stays 0. -/
def Thread.put (t : Thread) (fp : Bool) (r v : Nat) (p : Bool) : Thread :=
  if fp then { t with f := smapPut 0 t.f r (BitVec.ofNat 64 v), pois := putBit t.pois (32 + r) p }
  else if r = 0 then t
  else { t with x := smapPut 0 t.x r (BitVec.ofNat 64 v), pois := putBit t.pois r p }

/-- An instruction retires: the thread goes on at `pc`, ready at an FCLK. -/
def Thread.retire (t : Thread) (pc at_ : Nat) : Thread :=
  { t with st := .ready, pc := pc % 2 ^ 64, instret := t.instret + 1, readyAt := at_ }

def Eng.sheaf (g : Eng) (k : Nat) : Option Sheaf := g.sheaves.find? (fun s => decide (s.no = k))

def Eng.thread (g : Eng) (k l : Nat) : Thread :=
  match g.sheaf k with
  | some s => s.threads.getD l Thread.zero
  | none => Thread.zero

/-- A sheaf with one thread changed. -/
def Sheaf.mod (x : Sheaf) (l : Nat) (f : Thread → Thread) : Sheaf :=
  { x with threads := x.threads.zipIdx.map (fun p => if p.2 = l then f p.1 else p.1) }

def getThread (s : Mach) (b e k l : Nat) : Thread := (getEng s b e).thread k l

def modThread (s : Mach) (b e k l : Nat) (f : Thread → Thread) : Mach :=
  modEng s b e (fun g => { g with sheaves := g.sheaves.map (fun x => if x.no = k then x.mod l f else x) })

/-- Lanes of the live threads of a sheaf. -/
def Sheaf.liveLanes (x : Sheaf) : List Nat := (x.threads.zipIdx.filter (fun p => p.1.live)).map Prod.snd

/-- The live threads of an engine, as sheaf and lane. -/
def Eng.live (g : Eng) : List (Nat × Nat) := g.sheaves.flatMap (fun x => x.liveLanes.map (fun l => (x.no, l)))

/-- Registers, PC and frm of a thread. -/
def Thread.rv (t : Thread) : RvIn :=
  { pc := t.pc, x := t.getX, f := t.getF, frm := t.fcsr / 32 % 8, core := false }

/-! ### Fault codes (R245) -/

def tIllegal : Nat := 1
def tMisaligned : Nat := 2
def tAccess : Nat := 3
def tBank : Nat := 4
def tPoison : Nat := 5
def tDiverge : Nat := 6
def tSem : Nat := 7
def tMxa : Nat := 8
def tBale : Nat := 9
def tToken : Nat := 0xA
def tBreak : Nat := 0xB
def tEcall : Nat := 0xC
def tFetch : Nat := 0xD

/-- A thread's reservation ends. -/
def dropResv (s : Mach) (b e k l : Nat) : Mach :=
  { s with shfResv := s.shfResv.filter (fun r =>
      !(decide (r.bay = b) && decide (r.eng = e) && decide (r.sheaf = k) && decide (r.lane = l))) }

/-- THREAD_FAULT (R245): the thread stops and counts in FAULTED; SHF_FAULT keeps the first fault, and the first of a launch
on the engine raises a record. -/
def threadFault (s : Mach) (b e k l code addr : Nat) : Mach :=
  let t := getThread s b e k l
  if t.live = false then s
  else
    let s := modThread (dropResv s b e k l) b e k l (fun t => { t with st := .faulted })
    let s := modEng s b e (fun g =>
      { g with faulted := g.faulted + 1, acc := g.acc.filter (fun a => !(decide (a.sheaf = k) && decide (a.lane = l))) })
    let u := 4 * b + e
    let s := if rb s .SHF_FAULT u 0 63 then s
      else
        let s := recordFirst s .SHF_FAULT u 0
          (packFlds [(57, 48, (getSeq s b).tid.getD 0), (47, 37, k), (36, 32, l), (7, 0, code)])
        wr (wr s .SHF_FAULTPC u 0 (packFlds [(47, 0, t.pc)])) .SHF_FAULTADDR u 0 (packFlds [(47, 0, addr)])
    if (getEng s b e).raised then s
    else
      let s := modEng s b e (fun g => { g with raised := true })
      let r := bayRec s b (if code = tPoison then 4 else 8) code 3 (addr % 2 ^ 48) none
      raiseBay s b (if code = tPoison then r.poisoned else r)

/-- A thread has read a poisoned value. -/
def sawPoison (s : Mach) (b e : Nat) (p : Bool) : Mach :=
  if p then modEng s b e (fun g => { g with pois := true }) else s

/-! ### Launch (R218 to R221) -/

def lEntry (d : Line) : Nat := fld d 511 464
def lArg (d : Line) : Nat := fld d 463 416
def lStack (d : Line) : Nat := fld d 415 368
def lSsize (d : Line) : Nat := fld d 367 352
def lNthr (d : Line) : Nat := fld d 351 335
def lMaxres (d : Line) : Nat := fld d 334 331
def lRepack (d : Line) : Bool := bit d 330

def fxEng (w : Slot) : Nat := fld w 103 100

/-- The checks of the descriptor (R219). -/
def launchOk (w : Slot) (d : Line) : Bool :=
  decide (fxEng w ≠ 0) && decide (lEntry d % 4 = 0) && decide (lStack d % 64 = 0) && decide (lNthr d ≠ 0) &&
  decide (lNthr d ≤ 65536) && decide (lSsize d ≠ 0) && decide (fld d 329 256 = 0)

/-- Thread (s, l) at its start (R221). -/
def startThread (d : Line) (rank k l at_ : Nat) : Thread :=
  let g := rank * lNthr d + 32 * k + l
  let t : Thread := { st := .ready, pc := lEntry d, x := [], f := [], pois := 0, fcsr := 0, instret := 0, readyAt := at_ }
  ((t.put false 2 (lStack d + (g + 1) * lSsize d * 64) false).put false 10 (lArg d) false).put false 11 g false

/-- Sheaf `k` of a launch (R220). -/
def startSheaf (d : Line) (rank k at_ : Nat) : Sheaf :=
  let n := min 32 (lNthr d - 32 * k)
  { no := k, threads := (List.range n).map (fun l => startThread d rank k l at_), gword := 0 }

/-- Engine `e` takes a launch. -/
def launchEng (d : Line) (daddr rank n tid : Nat) : Eng :=
  let total := ceilDiv (lNthr d) 32
  let res := min (lMaxres d + 1) total
  { Eng.zero with active := true, desc := d, daddr := daddr, rank := rank, start := n, tid := tid,
                  sheaves := (List.range res).map (fun k => startSheaf d rank k (n + 9)), next := res, total := total,
                  last := res - 1, free := n + 9, memFree := n + 9 }

/-- FLEX (R85 to R88, R219): the window opens and every engine named takes the launch. -/
def doFlex (b : Nat) (w : Slot) (s : Mach) : Mach :=
  let busy : Bool := match (getSeq s b).win with | some x => x.isOpen | none => false
  let engs := bitList 4 (fxEng w)
  let off := fld w 82 64 * 64
  if reservedClear w [(103, 91), (82, 64), (57, 48)] = false then furrowErr s b 0 eIllegalOp
  else if fenceOk s b off 64 = false then fenceError s b 0 off
  else
    let d : Line := BitVec.ofNat 512 (readNat s.loft (loftIx b off) 64)
    if launchOk w d = false then furrowErr s b 0 eIllegalOp
    else if engs.any (fun e => !shfPresent s b e) then furrowErr s b 0 eAbsent
    else if busy = true ∨ engs.any (fun e => (getEng s b e).active) then furrowErr s b 0 eBusy
    else
      let x := getStream s b 0
      let n := x.issued
      let win : FlexWin :=
        { eng := fxEng w, bankgrp := fld w 99 92, mxaLend := bit w 91, doneCh := fld w 57 48, first := n, last := x.last,
          isOpen := true, pois := false, signalled := false }
      let s := modSeq s b (fun q => { q with win := some win })
      foldS engs (fun t e =>
        modEng t b e (fun _ => launchEng d off (popcount e (fxEng w)) n ((getSeq t b).tid.getD 0))) s

def execFlex (b : BayNo) (s : State) : Host.Outcome State Fault Refusal := onMach s (fun s => onSlot s b 0 1 1 (doFlex b))

/-- SHEAF_RESIDENT (R220): the next queued sheaf becomes resident on the FCLK after a resident one's last live thread
ended; the ended one leaves. -/
def sheafResident (s : Mach) (b e : Nat) : Mach :=
  let g := getEng s b e
  if g.active = false ∨ g.total ≤ g.next then s
  else match g.sheaves.find? (fun x => x.liveLanes.isEmpty) with
    | none => s
    | some x =>
      let s := advanceEdge s b (edgeOf s b + 1)
      modEng s b e (fun g =>
        { g with sheaves := g.sheaves.filter (fun y => decide (y.no ≠ x.no)) ++ [startSheaf g.desc g.rank g.next (edgeOf s b)],
                 next := g.next + 1, fl := x.threads.foldl (fun f t => f ||| t.fcsr % 32) g.fl })

def execSheafResident (b : BayNo) (e : Fin 4) (s : State) : Host.Outcome State Fault Refusal := onMach s (fun s => sheafResident s b e)

/-! ### Rows of an instruction word -/

/-- Which command carries out an instruction (R222, R226 to R229): 0 for SHF_INSTRUCTION. -/
def shfRow (w : Nat) : Nat :=
  let f3 := iF3 w
  let f7 := iF7 w
  match iOp w with
  | 0x73 => if w = 0x73 then 1 else if w = 0x100073 then 2 else 0
  | 0x0B => if f3 < 7 then 0x10 + f3 else 0
  | 0x2B => if f3 < 4 then 0x20 + f3 else 0
  | 0x5B =>
    if f3 = 0 ∧ f7 < 3 ∧ iRs2 w = 0 then 0x30 + f7
    else if f3 = 0 ∧ f7 = 3 ∧ iRs1 w = 0 ∧ iRs2 w = 0 ∧ iRd w = 0 then 0x33
    else if f3 = 0 ∧ 4 ≤ f7 ∧ f7 < 8 then 0x30 + f7
    else if f3 = 1 ∧ f7 < 3 ∧ iRd w = 0 then 0x40 + f7
    else if f3 = 2 ∧ f7 < 2 ∧ iRs2 w = 0 then 0x50 + f7
    else if f3 = 2 ∧ f7 = 2 ∧ iRd w = 0 then 0x52
    else if f3 = 3 ∧ f7 = 0 ∧ iRs1 w = 0 ∧ iRs2 w = 0 ∧ iRd w = 0 then 0x60
    else 0
  | _ => 0

/-- VOTE, BALLOT, BAR and SHFL (R230). -/
def isGroup (w : Nat) : Bool := decide (shfRow w / 16 = 3)

/-- Issue factor and result latency (R233). -/
def shfCost (w : Nat) : Nat × Nat :=
  let f7 := iF7 w
  let f3 := iF3 w
  let mdiv := decide (iOp w = 0x33 ∨ iOp w = 0x3B) && decide (f7 = 1)
  let fp64 := decide (f7 % 4 = 1)
  let fma := decide (0x43 ≤ iOp w) && decide (iOp w ≤ 0x4F)
  if isGroup w then (1, 6)
  else if mdiv then (if f3 < 4 then (1, 6) else (8, 36))
  else if iOp w = 0x53 ∨ fma = true then
    (if iOp w = 0x53 ∧ (f7 / 4 = 3 ∨ f7 / 4 = 0x0B) then (if fp64 then (16, 40) else (8, 24))
     else if fp64 ∧ (fma = true ∨ f7 / 4 < 3) then (4, 8) else (1, 6))
  else (1, 4)

/-! ### ISSUE_GROUP_SELECT (R232 to R235) -/

/-- Whether an engine may issue: its window is open at this FCLK, the bay is not halted, and the frame is not fallow
(R240, R243). -/
def shfRuns (s : Mach) (b e : Nat) : Bool :=
  (getEng s b e).active && !(getBay s b).dbg.halted && !frameFallow s (frameNo s) &&
  (match (getSeq s b).win with
   | some w => w.isOpen && decide (edgeOf s b ≤ w.last)
   | none => false)

/-- The last FCLK of the window. -/
def winLast (s : Mach) (b : Nat) : Nat := match (getSeq s b).win with | some w => w.last | none => 0

def readyLanes (x : Sheaf) (e : Nat) : List Nat :=
  (x.threads.zipIdx.filter (fun p => decide (p.1.st = .ready) && decide (p.1.readyAt ≤ e))).map Prod.snd

/-- Sheaves in round-robin order after number `k`. -/
def roundRobin (l : List Sheaf) (k : Nat) : List Sheaf :=
  let ins (acc : List Sheaf) (x : Sheaf) : List Sheaf :=
    acc.filter (fun y => decide (y.no < x.no)) ++ [x] ++ acc.filter (fun y => decide (x.no < y.no))
  let l := l.foldl ins []
  l.filter (fun x => decide (k < x.no)) ++ l.filter (fun x => decide (x.no ≤ k))

/-- The first FCLK from `e` on at which a thread of the engine is ready. -/
def nextReady (g : Eng) (e : Nat) : Option Nat :=
  (g.sheaves.flatMap Sheaf.threads).foldl (fun (m : Option Nat) t =>
    if t.st = .ready then some (match m with | none => max e t.readyAt | some k => min k (max e t.readyAt)) else m) none

/-- The lowest PC among threads. -/
def minPc (x : Sheaf) (lanes : List Nat) : Nat :=
  lanes.foldl (fun m l => min m (x.threads.getD l Thread.zero).pc) (2 ^ 64)

/-- The word at a PC in the engine's instruction cache. -/
def cachedWord (g : Eng) (pc : Nat) : Option Nat :=
  if pc % 4 ≠ 0 ∨ (g.icache.all (fun p => decide (p.1 ≠ pc / 64))) then none
  else some (fld (smapGet 0 g.icache (pc / 64)) (8 * (pc % 64) + 31) (8 * (pc % 64)))

/-- Every thread of a sheaf that is ready at a PC faults with FETCH (R244). -/
def fetchFault (s : Mach) (b e k pc : Nat) : Mach :=
  match (getEng s b e).sheaf k with
  | some x =>
    foldS (x.threads.zipIdx.filter (fun p => decide (p.1.st = .ready) && decide (p.1.pc = pc)))
      (fun t p => threadFault t b e k p.2 tFetch pc) s
  | none => s

/-- An instruction fetch has its translation: the line is read with the bay's master ID (R225, R271). -/
def takeFetch (s : Mach) (b e : Nat) : Mach :=
  match (getEng s b e).fetch, (getEtr s b).ans.find? (fun a => decide (a.req.owner = .fetch e)) with
  | some (pc, k), some a =>
    let s := modEtr s b (fun x => { x with ans := x.ans.erase a })
    let s := modEng s b e (fun g => { g with fetch := none })
    if a.code ≠ 0 then fetchFault s b e k pc
    else
      let line := a.pa / 64
      let s := regionLookup s b line false
      let r := readAs s (0x80 + b) none ((getSeq s b).tid.getD 0) (line * 64) 64
      (match r.1 with
       | some (bs, false) =>
         modEng r.2 b e (fun g =>
           { g with icache := g.icache.filter (fun p => decide (p.1 ≠ pc / 64)) ++ [(pc / 64, BitVec.ofNat 512 (ofBytes bs))] })
       | some (_, true) => fetchFault (sawPoison r.2 b e true) b e k pc
       | none => fetchFault r.2 b e k pc)
  | _, _ => s

/-- Sheaves whose threads at the PC join the leader group (R232, R235). -/
def repack (g : Eng) (e pc : Nat) (lead : Sheaf) : List (Nat × Nat) :=
  let first := (readyLanes lead e).filter (fun l => decide ((lead.threads.getD l Thread.zero).pc = pc))
  ((roundRobin (g.sheaves.filter (fun x => decide (x.no ≠ lead.no))) lead.no).foldl
    (fun (acc : List Nat × List (Nat × Nat)) x =>
      let l := (readyLanes x e).filter (fun l => decide ((x.threads.getD l Thread.zero).pc = pc))
      if l.any (fun i => acc.1.contains i) then acc else (acc.1 ++ l, acc.2 ++ l.map (fun i => (x.no, i))))
    (first, first.map (fun i => (lead.no, i)))).2

/-- A group in ascending home-sheaf order, then lane (R235). -/
def sortGroup (l : List (Nat × Nat)) : List (Nat × Nat) :=
  l.foldl (fun acc p =>
    acc.filter (fun q => decide (q.1 * 32 + q.2 < p.1 * 32 + p.2)) ++ [p] ++
    acc.filter (fun q => decide (p.1 * 32 + p.2 < q.1 * 32 + q.2))) []

/-- FCLK for which a group holds the issue port: one for each half with a thread, times the issue factor (R233). -/
def portTime (l : List (Nat × Nat)) (w : Nat) : Nat :=
  ((if l.any (fun p => decide (p.2 < 16)) then 1 else 0) + (if l.any (fun p => decide (16 ≤ p.2)) then 1 else 0)) * (shfCost w).1

/-- ISSUE_GROUP_SELECT: the free issue port selects the next issue group. A PC that the instruction cache does not hold is
fetched first. -/
def issueGroupSelect (s : Mach) (b e : Nat) : Mach :=
  let s := takeFetch s b e
  let g := getEng s b e
  if shfRuns s b e = false ∨ g.group ≠ [] then s
  else match nextReady g (max (edgeOf s b) g.free) with
  | none => s
  | some at_ =>
    if winLast s b < at_ then s
    else match (roundRobin g.sheaves g.last).find? (fun x => decide (readyLanes x at_ ≠ [])) with
      | none => s
      | some x =>
        let pc := minPc x (readyLanes x at_)
        match cachedWord g pc with
        | none =>
          if pc % 4 ≠ 0 then fetchFault s b e x.no pc
          else if g.fetch.isSome then s
          else
            let r : XReq := { queue := 7, tid := g.tid, va := pc, len := 4, kind := 3, owner := .fetch e }
            modEtr (modEng s b e (fun g => { g with fetch := some (pc, x.no) })) b (fun y => { y with reqs := y.reqs ++ [r] })
        | some w =>
          let lead := ((readyLanes x at_).filter (fun l => decide ((x.threads.getD l Thread.zero).pc = pc))).map (fun l => (x.no, l))
          let grp := if lRepack g.desc && !isGroup w then repack g at_ pc x else lead
          let packed := decide (lead.length < grp.length)
          let s := advanceEdge s b at_
          let s := modEng s b e (fun g =>
            { g with group := sortGroup grp, word := w, last := x.no, free := at_ + portTime grp w })
          let u := 4 * b + e
          let s := bump s .SHF_ISSUE u 0 63 0 1
          let s := if packed then bump s .SHF_SPLITPACK u 0 31 0 1 else s
          let s := book s (dieOf b) (ownBay s b) 4 ((grp.map (fun g => g.2 / 16)).eraseDups.length)
          countEv (countEv s b 0x0D 1) b 0x0E grp.length

def execIssueGroupSelect (b : BayNo) (e : Fin 4) (s : State) : Host.Outcome State Fault Refusal :=
  onMach s (fun s => issueGroupSelect s b e)

/-- The group in issue is carried out by the command of its row, one thread after the other. -/
def onGroup (s : Mach) (b e row : Nat) (f : Nat → Nat → Nat → Mach → Mach) : Mach :=
  let g := getEng s b e
  if g.group = [] ∨ shfRow g.word ≠ row ∨ shfRuns s b e = false then s
  else foldS g.group (fun t p => f g.word p.1 p.2 t) (modEng s b e (fun g => { g with group := [] }))

/-- The FCLK at which a result of the instruction issued now is readable. -/
def resultAt (s : Mach) (b w : Nat) : Nat := edgeOf s b + (shfCost w).2

/-- A thread retires to the next instruction. -/
def retireNext (s : Mach) (b e k l at_ : Nat) : Mach :=
  modThread s b e k l (fun t => t.retire (t.pc + 4) at_)

/-! ### SHF_INSTRUCTION (R222 to R224, R244) -/

/-- The value of a CSR of a thread; none for one that it does not have (R224). -/
def threadCsr (s : Mach) (b e k l num : Nat) : Option Nat :=
  let g := getEng s b e
  let t := g.thread k l
  match num with
  | 0x001 => some (t.fcsr % 32)
  | 0x002 => some (t.fcsr / 32 % 8)
  | 0x003 => some (t.fcsr % 256)
  | 0xC00 => some (edgeOf s b - g.start)
  | 0xC01 => some (count s / 16)
  | 0xC02 => some t.instret
  | 0xCC0 => some (g.rank * lNthr g.desc + 32 * k + l)
  | 0xCC1 => some l
  | 0xCC2 => some k
  | 0xCC3 => some (lNthr g.desc)
  | 0xCC4 => some e
  | 0xCC5 => some b
  | 0xCC6 => some (lArg g.desc)
  | 0xCC7 => some (countAt s (edgeTick (clkOf s b) (winLast s b)))
  | 0xCC8 => some ((getSeq s b).tid.getD 0)
  | _ => none

/-- fcsr after a write of fflags, frm or fcsr. -/
def putFcsr (old num v : Nat) : Nat :=
  match num with
  | 1 => old / 32 * 32 + v % 32
  | 2 => old % 32 + v % 8 * 32
  | _ => v % 256

/-- A CSR instruction of a thread. -/
def threadCsrOp (s : Mach) (b e k l w op rd num src : Nat) (wrt : Bool) : Mach :=
  let t := getThread s b e k l
  match threadCsr s b e k l num with
  | none => threadFault s b e k l tIllegal 0
  | some old =>
    if wrt && decide (3 < num) then threadFault s b e k l tIllegal 0
    else if wrt && decide (iF3 w < 4) && t.poisoned (iRs1 w) then threadFault s b e k l tPoison 0
    else
      let v := match op with | 1 => src | 2 => old ||| src | _ => old &&& not64 src
      modThread s b e k l (fun t =>
        let t := if wrt then { t with fcsr := putFcsr t.fcsr num v } else t
        (t.put false rd old false).retire (t.pc + 4) (resultAt s b w))

/-- A crop-range access enters the memory port's queue, and its thread waits. -/
def pushAcc (s : Mach) (b e : Nat) (a : ShAcc) : Mach :=
  if a.a % a.size ≠ 0 then threadFault s b e a.sheaf a.lane tMisaligned a.a
  else modThread (modEng s b e (fun g => { g with acc := g.acc ++ [a] })) b e a.sheaf a.lane (fun t => { t with st := .access })

/-- One thread executes an instruction of the base set. -/
def baseInsn (b e w k l : Nat) (s : Mach) : Mach :=
  let t := getThread s b e k l
  let p := (rvSrcs w).any t.poisoned
  let acc (kind : AccKind) (fp signed : Bool) (rd a size v : Nat) (vp : Bool) : Mach :=
    pushAcc s b e { sheaf := k, lane := l, kind := kind, fp := fp, signed := signed, rd := rd, a := a, size := size, v := v,
                    vp := vp, sent := false, data := none }
  if iOp w = 0x0B ∨ iOp w = 0x2B ∨ iOp w = 0x5B ∨ iOp w = 0x7B then threadFault s b e k l tIllegal 0
  else if (rvControl w).any t.poisoned then threadFault s b e k l tPoison 0
  else match rvExec t.rv w with
  | .result fp rd v fl =>
    modThread s b e k l (fun t => ({ (t.put fp rd v p) with fcsr := t.fcsr ||| fl % 32 }).retire (t.pc + 4) (resultAt s b w))
  | .jump target rd =>
    if target % 4 ≠ 0 then threadFault s b e k l tMisaligned target
    else modThread s b e k l (fun t => (t.put false rd (t.pc + 4) false).retire target (resultAt s b w))
  | .branch taken target =>
    if taken && decide (target % 4 ≠ 0) then threadFault s b e k l tMisaligned target
    else modThread s b e k l (fun t => t.retire (if taken then target else t.pc + 4) (resultAt s b w))
  | .load fp rd a size sg => acc .load fp sg rd a size 0 false
  | .store a size v => acc .store false false 0 a size v (t.poisoned (iRs2 w + if iOp w = 0x27 then 32 else 0))
  | .lr rd a size => acc .lr false true rd a size 0 false
  | .sc rd a size v => acc .sc false true rd a size v (t.poisoned (iRs2 w))
  | .amo op rd a size v => acc (.amo op) false true rd a size v (t.poisoned (iRs2 w))
  | .fence _ => retireNext s b e k l (resultAt s b w)
  | .fenceI => retireNext s b e k l (resultAt s b w)
  | .csr op rd num src wrt _ => threadCsrOp s b e k l w op rd num src wrt
  | _ => threadFault s b e k l tIllegal 0

/-- Whether a group's branch is taken by some of its threads and not by others (R234). -/
def splits (s : Mach) (b e : Nat) : Bool :=
  let g := getEng s b e
  let ways := g.group.filterMap (fun p =>
    match rvExec (g.thread p.1 p.2).rv g.word with
    | .branch taken _ => some taken
    | _ => none)
  ways.contains true && ways.contains false

/-- SHF_INSTRUCTION: the group in issue executes an instruction of the base set, or an illegal one. -/
def shfInstruction (s : Mach) (b e : Nat) : Mach :=
  let s := if shfRow (getEng s b e).word = 0 && shfRuns s b e && splits s b e
    then bump s .SHF_SPLITPACK (4 * b + e) 0 63 32 1 else s
  onGroup s b e 0 (baseInsn b e)

def execShfInstruction (b : BayNo) (e : Fin 4) (s : State) : Host.Outcome State Fault Refusal := onMach s (fun s => shfInstruction s b e)

/-- ECALL (R222). -/
def execEcall (b : BayNo) (e : Fin 4) (s : State) : Host.Outcome State Fault Refusal :=
  onMach s (fun s => onGroup s b e 1 (fun _ k l t => threadFault t b e k l tEcall 0))

/-- EBREAK (R222, R559): a fault, or a stopped thread when a debugger claims it. -/
def doEbreak (b e k l : Nat) (s : Mach) : Mach :=
  if rb s .DBG_BCTL b 0 0 then
    wb (modThread s b e k l (fun t => { t with st := .stopped })) .DBG_BSTAT b 0 2 true
  else threadFault s b e k l tBreak 0

def execEbreak (b : BayNo) (e : Fin 4) (s : State) : Host.Outcome State Fault Refusal :=
  onMach s (fun s => onGroup s b e 2 (fun _ k l t => doEbreak b e k l t))

/-! ### LFT accesses (R227, R228, R236) -/

/-- Distinct aligned 32 B sectors of a list of accesses: address and size. -/
def sectorsOf (l : List (Nat × Nat)) : List Nat :=
  l.foldl (fun acc p =>
    let k := p.1 / 32
    if acc.contains k then acc else acc ++ [k]) []

/-- The memory port serves `n` sectors: FCLK of the first, and the state with the port busy and the sectors counted. -/
def portServe (s : Mach) (b e n : Nat) : Nat × Mach :=
  let at_ := max (edgeOf s b) (getEng s b e).memFree
  let s := modEng s b e (fun g => { g with memFree := at_ + max 1 n })
  (at_, countEv (bump s .SHF_SECTORS (4 * b + e) 0 63 0 n) b 0x0F n)

/-- The address of an LFT access. -/
def lftAddr (t : Thread) (w : Nat) : Nat := add64 (t.getX (iRs1 w)) (if iOp w = 0x2B then immS w else immI w)

/-- Whether an LFT access of a thread is allowed (R227). -/
def lftAllowed (s : Mach) (b a n : Nat) : Bool :=
  decide (a + n ≤ 0x1800000) && lentBank s b a n && fenceOk s b a n

/-- One thread's LFT access, served at an FCLK; after the window's last FCLK it changes and returns nothing (R240). -/
def lftOne (b e w k l served : Nat) (s : Mach) : Mach :=
  let t := getThread s b e k l
  let a := lftAddr t w
  let n := 2 ^ (iF3 w % 4)
  let store := decide (iOp w = 0x2B)
  if t.poisoned (iRs1 w) then threadFault s b e k l tPoison 0
  else if a % n ≠ 0 then threadFault s b e k l tMisaligned a
  else if lftAllowed s b a n = false then threadFault s b e k l tBank a
  else if winLast s b < served then s
  else if store then
    let s := countEv (countLoftWrite s b n) b 0x09 1
    retireNext (loftWrite s b a (bytesOf n (t.getX (iRs2 w))) (t.poisoned (iRs2 w))) b e k l (max (served + 1) (getEng s b e).memFree)
  else
    let v := readNat s.loft (loftIx b a) n
    let p := rangePois s b a n
    let s := sawPoison (countEv (countLoftRead s b n) b 0x09 1) b e p
    modThread s b e k l (fun t =>
      (t.put false (iRd w) (if iF3 w < 4 then sx (8 * n) v else v) p).retire (t.pc + 4) (served + 12))

/-- An LFT instruction: the port serves the sectors of the group in order, one FCLK each. -/
def lft (s : Mach) (b e row : Nat) : Mach :=
  let g := getEng s b e
  let secs := sectorsOf (g.group.map (fun p => (lftAddr (g.thread p.1 p.2) g.word, 1)))
  if g.group = [] ∨ shfRow g.word ≠ row ∨ shfRuns s b e = false then s
  else
    let r := portServe s b e secs.length
    onGroup r.2 b e row (fun w k l t =>
      lftOne b e w k l (r.1 + secs.idxOf (lftAddr (getThread t b e k l) w / 32)) t)

def execLftLb (b : BayNo) (e : Fin 4) (s : State) : Host.Outcome State Fault Refusal := onMach s (fun s => lft s b e 0x10)
def execLftLh (b : BayNo) (e : Fin 4) (s : State) : Host.Outcome State Fault Refusal := onMach s (fun s => lft s b e 0x11)
def execLftLw (b : BayNo) (e : Fin 4) (s : State) : Host.Outcome State Fault Refusal := onMach s (fun s => lft s b e 0x12)
def execLftLd (b : BayNo) (e : Fin 4) (s : State) : Host.Outcome State Fault Refusal := onMach s (fun s => lft s b e 0x13)
def execLftLbu (b : BayNo) (e : Fin 4) (s : State) : Host.Outcome State Fault Refusal := onMach s (fun s => lft s b e 0x14)
def execLftLhu (b : BayNo) (e : Fin 4) (s : State) : Host.Outcome State Fault Refusal := onMach s (fun s => lft s b e 0x15)
def execLftLwu (b : BayNo) (e : Fin 4) (s : State) : Host.Outcome State Fault Refusal := onMach s (fun s => lft s b e 0x16)
def execLftSb (b : BayNo) (e : Fin 4) (s : State) : Host.Outcome State Fault Refusal := onMach s (fun s => lft s b e 0x20)
def execLftSh (b : BayNo) (e : Fin 4) (s : State) : Host.Outcome State Fault Refusal := onMach s (fun s => lft s b e 0x21)
def execLftSw (b : BayNo) (e : Fin 4) (s : State) : Host.Outcome State Fault Refusal := onMach s (fun s => lft s b e 0x22)
def execLftSd (b : BayNo) (e : Fin 4) (s : State) : Host.Outcome State Fault Refusal := onMach s (fun s => lft s b e 0x23)

/-! ### Crop-range accesses (R225, R236, R271, R272) -/

/-- KIND of an access (R318, R334). -/
def accKind (k : AccKind) : Nat := match k with | .store => 1 | .sc => 2 | .amo _ => 2 | _ => 0

/-- SHF_MEMORY_ACCESS: the memory port serves the accesses of the last group, an FCLK for each distinct sector, or each
thread of an atomic; each asks for its translation. -/
def shfMemoryAccess (s : Mach) (b e : Nat) : Mach :=
  let g := getEng s b e
  let l := g.acc.filter (fun a => !a.sent)
  if l = [] ∨ shfRuns s b e = false then s
  else
    let n := if l.all (fun a => decide (a.kind = .load ∨ a.kind = .store)) then (sectorsOf (l.map (fun a => (a.a, a.size)))).length
      else l.length
    let r := portServe s b e n
    let s := advanceEdge r.2 b (r.1 + max 1 n - 1)
    if winLast s b < edgeOf s b then s
    else
      let s := modEng s b e (fun g => { g with acc := g.acc.map (fun a => { a with sent := true }) })
      foldS l (fun t a =>
        let q : XReq :=
          { queue := 3 + e, tid := g.tid, va := a.a, len := a.size, kind := accKind a.kind, owner := .thread e a.sheaf a.lane }
        modEtr t b (fun x => { x with reqs := x.reqs ++ [q] })) s

def execShfMemoryAccess (b : BayNo) (e : Fin 4) (s : State) : Host.Outcome State Fault Refusal := onMach s (fun s => shfMemoryAccess s b e)

/-- Bytes written to a line that the bay's cache holds Exclusive or Modified. -/
def putCached (s : Mach) (b a n v : Nat) (p : Bool) : Mach :=
  let line := a / 64
  let k := 128 + b
  let h := getHeld s k line
  let mask := (2 ^ n - 1) * 2 ^ (a % 64)
  let d := mergeLine h.data (BitVec.ofNat 512 (v % 2 ^ (8 * n) * 2 ^ (8 * (a % 64)))) mask
  breakShf (putHeld s k line { h with st := 3, data := d, pois := h.pois || p }) line mask

/-- A write of a thread: in its bay's cache when that owns the line, else at the line's home. -/
def cropWrite (s : Mach) (b a n v : Nat) (p : Bool) : Mach :=
  if holds s (128 + b) (a / 64) && decide (2 ≤ (getHeld s (128 + b) (a / 64)).st) then putCached s b a n v p
  else physWrite (foldS (lineAddrs a n) (fun t l => countBytes t l n .write (ownerOf t (0x80 + b) none)) s) a (bytesOf n v) p

/-- An access is performed at its physical address (R271): a load's data is on its way, a store's thread goes on. -/
def performAcc (s : Mach) (b e : Nat) (x : ShAcc) (pa : Nat) : Mach :=
  let mid := 0x80 + b
  let tid := (getEng s b e).tid
  let c := checkedAs s mid none
  let wrt : Bool := match x.kind with | .store => true | .sc => true | .amo _ => true | _ => false
  let k := x.sheaf
  let l := x.lane
  let live := (getThread s b e k l).live
  match physDenied s c pa x.size wrt with
  | some ln => threadFault (physRefuse s mid c tid ln wrt) b e k l tAccess x.a
  | none =>
    let s := if isMain s pa then regionLookup s b (pa / 64) wrt else s
    let old := physRead s pa x.size
    let ov := ofBytes old.1
    let finish (s : Mach) (v : Nat) (p : Bool) : Mach :=
      if live then
        modEng (sawPoison s b e p) b e (fun g => { g with acc := g.acc.map (fun y =>
          if y.sheaf = k ∧ y.lane = l ∧ y.sent then { y with data := some (v, p) } else y) })
      else modEng s b e (fun g => { g with acc := g.acc.filter (fun y => !(decide (y.sheaf = k) && decide (y.lane = l))) })
    let dw := pa / 8 * 8
    match x.kind with
    | .load => finish s (if x.fp then fpBox (match x.size with | 4 => 0 | 8 => 1 | _ => 2) ov else if x.signed then sx (8 * x.size) ov else ov) old.2
    | .store =>
      let s := cropWrite s b pa x.size x.v x.vp
      let s := modEng s b e (fun g => { g with acc := g.acc.filter (fun y => !(decide (y.sheaf = k) && decide (y.lane = l))) })
      if live then retireNext s b e k l (edgeOf s b) else s
    | .lr =>
      let s := dropResv s b e k l
      let s := if live then { s with shfResv := s.shfResv ++ [{ bay := b, eng := e, sheaf := k, lane := l, pa := dw }] } else s
      finish s (sx (8 * x.size) ov) old.2
    | .sc =>
      let ok := s.shfResv.any (fun r =>
        decide (r.bay = b) && decide (r.eng = e) && decide (r.sheaf = k) && decide (r.lane = l) && decide (r.pa = dw))
      let s := dropResv s b e k l
      if ok then finish (cropWrite s b pa x.size x.v x.vp) 0 false else finish s 1 false
    | .amo op =>
      finish (cropWrite s b pa x.size (amoVal op x.size ov x.v) (old.2 || x.vp)) (sx (8 * x.size) ov) old.2

/-- CACHE_REGION_LOOKUP (R271): the oldest crop-range access of a bay's threads that has its translation looks the cache
region up and is performed; a refused one faults its thread (R318). -/
def cacheRegionLookup (s : Mach) (b : Nat) : Mach :=
  match (getEtr s b).ans.find? (fun a => match a.req.owner with | .thread _ _ _ => true | _ => false) with
  | none => s
  | some a =>
    let s := modEtr s b (fun x => { x with ans := x.ans.erase a })
    match a.req.owner with
    | .thread e k l =>
      (match (getEng s b e).acc.find? (fun y => decide (y.sheaf = k) && decide (y.lane = l) && y.sent && y.data.isNone) with
       | none => s
       | some x =>
         if a.code ≠ 0 then threadFault s b e k l tAccess x.a
         else performAcc s b e x a.pa)
    | _ => s

def execCacheRegionLookup (b : BayNo) (s : State) : Host.Outcome State Fault Refusal := onMach s (fun s => cacheRegionLookup s b)

/-- SHF_LOAD_RESULT: the data of the oldest access whose line has come is readable. -/
def shfLoadResult (s : Mach) (b e : Nat) : Mach :=
  match (getEng s b e).acc.find? (fun y => y.data.isSome) with
  | none => s
  | some x =>
    let d := x.data.getD (0, false)
    let s := modEng s b e (fun g => { g with acc := g.acc.erase x })
    modThread s b e x.sheaf x.lane (fun t => (t.put x.fp x.rd d.1 d.2).retire (t.pc + 4) (edgeOf s b))

def execShfLoadResult (b : BayNo) (e : Fin 4) (s : State) : Host.Outcome State Fault Refusal := onMach s (fun s => shfLoadResult s b e)

/-! ### Group instructions (R229 to R231) -/

/-- The group instruction of a sheaf executes once every live thread waits at it at one PC. -/
def groupRun (s : Mach) (b e k : Nat) : Mach :=
  match (getEng s b e).sheaf k with
  | none => s
  | some x =>
    let ps := x.liveLanes
    let th (l : Nat) : Thread := x.threads.getD l Thread.zero
    let w := x.gword
    let pc := minPc x ps
    if ps = [] ∨ isHalted s b ∨ ps.any (fun l => decide ((th l).st ≠ .group) || decide ((th l).pc ≠ pc)) then s
    else
      let v (l : Nat) : Nat := (th l).getX (iRs1 w)
      let po := ps.any (fun l => (th l).poisoned (iRs1 w))
      let res (l : Nat) : Nat × Bool :=
        match shfRow w with
        | 0x30 => ((ps.any (fun i => decide (v i ≠ 0))).toNat, po)
        | 0x31 => ((ps.all (fun i => decide (v i ≠ 0))).toNat, po)
        | 0x32 => (ps.foldl (fun m i => if v i ≠ 0 then m + 2 ^ i else m) 0, po)
        | 0x33 => (0, false)
        | r =>
          let n := (th l).getX (iRs2 w) % 32
          let src : Option Nat := match r with
            | 0x34 => some n
            | 0x35 => if n ≤ l then some (l - n) else none
            | 0x36 => if l + n < 32 then some (l + n) else none
            | _ => some (l ^^^ n)
          let i := match src with | some i => if ps.contains i then i else l | none => l
          (v i, (th i).poisoned (iRs1 w))
      let at_ := resultAt s b w
      foldS ps (fun t l =>
        let r := res l
        modThread (dropResv t b e k l) b e k l (fun y => (y.put false (iRd w) r.1 r.2).retire (y.pc + 4) at_)) s

/-- The threads of the group in issue reach a group instruction and wait; the instruction executes if all have come. -/
def groupReach (s : Mach) (b e row : Nat) : Mach :=
  let g := getEng s b e
  let k := g.last
  let hit := decide (g.group ≠ []) && decide (shfRow g.word = row) && shfRuns s b e
  let s := onGroup s b e row (fun w k l t =>
    modThread (modEng t b e (fun g => { g with sheaves := g.sheaves.map (fun x => if x.no = k then { x with gword := w } else x) }))
      b e k l (fun y => { y with st := .group }))
  if hit then groupRun s b e k else s

def execVoteAny (b : BayNo) (e : Fin 4) (s : State) : Host.Outcome State Fault Refusal := onMach s (fun s => groupReach s b e 0x30)
def execVoteAll (b : BayNo) (e : Fin 4) (s : State) : Host.Outcome State Fault Refusal := onMach s (fun s => groupReach s b e 0x31)
def execBallot (b : BayNo) (e : Fin 4) (s : State) : Host.Outcome State Fault Refusal := onMach s (fun s => groupReach s b e 0x32)
def execBar (b : BayNo) (e : Fin 4) (s : State) : Host.Outcome State Fault Refusal := onMach s (fun s => groupReach s b e 0x33)
def execShflIdx (b : BayNo) (e : Fin 4) (s : State) : Host.Outcome State Fault Refusal := onMach s (fun s => groupReach s b e 0x34)
def execShflUp (b : BayNo) (e : Fin 4) (s : State) : Host.Outcome State Fault Refusal := onMach s (fun s => groupReach s b e 0x35)
def execShflDown (b : BayNo) (e : Fin 4) (s : State) : Host.Outcome State Fault Refusal := onMach s (fun s => groupReach s b e 0x36)
def execShflXor (b : BayNo) (e : Fin 4) (s : State) : Host.Outcome State Fault Refusal := onMach s (fun s => groupReach s b e 0x37)

/-- Whether every live thread of a sheaf waits at a group instruction. -/
def Sheaf.allWait (x : Sheaf) : Bool :=
  decide (x.liveLanes ≠ []) && x.liveLanes.all (fun l => decide ((x.threads.getD l Thread.zero).st = .group))

def Sheaf.samePc (x : Sheaf) : Bool :=
  x.liveLanes.all (fun l => decide ((x.threads.getD l Thread.zero).pc = minPc x x.liveLanes))

/-- GROUP_EXECUTE (R230): a sheaf whose remaining participants all wait at one PC. -/
def groupExecute (s : Mach) (b e : Nat) : Mach :=
  match (getEng s b e).sheaves.find? (fun x => x.allWait && x.samePc) with
  | some x => groupRun s b e x.no
  | none => s

def execGroupExecute (b : BayNo) (e : Fin 4) (s : State) : Host.Outcome State Fault Refusal := onMach s (fun s => groupExecute s b e)

/-- GROUP_DIVERGE (R230). -/
def groupDiverge (s : Mach) (b e : Nat) : Mach :=
  match (getEng s b e).sheaves.find? (fun x => x.allWait && !x.samePc) with
  | some x => foldS x.liveLanes (fun t l => threadFault t b e x.no l tDiverge 0) s
  | none => s

def execGroupDiverge (b : BayNo) (e : Fin 4) (s : State) : Host.Outcome State Fault Refusal := onMach s (fun s => groupDiverge s b e)

/-! ### Semaphores, matrix and bale requests, tokens (R229, R236 to R239, R253) -/

/-- The issue instructions of a group hold the memory port for one FCLK a thread. -/
def onIssue (s : Mach) (b e row : Nat) (f : Nat → Nat → Nat → Mach → Mach) : Mach :=
  let g := getEng s b e
  if g.group = [] ∨ shfRow g.word ≠ row ∨ shfRuns s b e = false then s
  else
    let at_ := max (edgeOf s b) g.memFree
    onGroup (modEng s b e (fun g => { g with memFree := at_ + g.group.length })) b e row f

/-- A semaphore operation of a thread: poisoned operands, an operand past 2^32 and an index outside the pool fault. -/
def semOperand (b e w k l : Nat) (s : Mach) (f : Nat → Nat → Mach) : Mach :=
  let t := getThread s b e k l
  let idx := t.getX (iRs1 w)
  let n := t.getX (iRs2 w)
  if t.poisoned (iRs1 w) || t.poisoned (iRs2 w) then threadFault s b e k l tPoison 0
  else match (if n < 2 ^ 32 then (getSeq s b).tid.bind (fun i => semPhys s b i idx) else none) with
    | some p => f p n
    | none => threadFault (if n < 2 ^ 32 then semErr s b semSheaf 3 (idx % 2048) else s) b e k l tSem idx

/-- SEM.ADD and SEM.SUB: performed 8 FCLK later; the thread goes on at once. -/
def semThread (kind : SemKind) (b e w k l : Nat) (s : Mach) : Mach :=
  semOperand b e w k l s (fun p n =>
    let o : SemOp := { edge := edgeOf s b + 8, src := .sheaf (e * 32 + l), kind := kind, phys := p, n := n }
    retireNext (modSem s b (fun x => { x with ops := x.ops ++ [o] })) b e k l (resultAt s b w))

def execSemAdd (b : BayNo) (e : Fin 4) (s : State) : Host.Outcome State Fault Refusal := onMach s (fun s => onIssue s b e 0x40 (semThread .add b e))
def execSemSub (b : BayNo) (e : Fin 4) (s : State) : Host.Outcome State Fault Refusal := onMach s (fun s => onIssue s b e 0x41 (semThread .sub b e))

/-- SEM.WAIT: the thread is not ready until its condition holds, evaluated from 8 FCLK later on. -/
def semWaitThread (b e w k l : Nat) (s : Mach) : Mach :=
  semOperand b e w k l s (fun p n =>
    let x : SemWait := { eng := e, sheaf := k, lane := l, phys := p, n := n, from_ := edgeOf s b + 8, got := none }
    modThread (modSem s b (fun y => { y with waits := y.waits ++ [x] })) b e k l (fun t => { t with st := .semWait }))

def execSemWait (b : BayNo) (e : Fin 4) (s : State) : Host.Outcome State Fault Refusal := onMach s (fun s => onIssue s b e 0x42 (semWaitThread b e))

/-- SEM_WAIT_SATISFIED (R253): the oldest wait whose condition has held makes its thread ready 2 FCLK later. -/
def semWaitSatisfied (s : Mach) (b : Nat) : Mach :=
  let x0 := getSem s b
  let s := match x0.waits.find? (fun w => w.got.isNone && decide (w.n ≤ semCount s b w.phys)) with
    | some w => if x0.waits.all (fun y => y.got.isNone) then evalWaits s b (w.from_ + 1) true else s
    | none => s
  match (getSem s b).waits.find? (fun w => w.got.isSome) with
  | none => s
  | some w =>
    let h := w.got.getD 0
    let s := advanceEdge s b (h + 2)
    let s := modSem s b (fun x => { x with waits := x.waits.erase w })
    retireNext s b w.eng w.sheaf w.lane (h + 2)

def execSemWaitSatisfied (b : BayNo) (s : State) : Host.Outcome State Fault Refusal := onMach s (fun s => semWaitSatisfied s b)

/-- A thread's matrix request (R238): refused, waiting for room among the 4 requests of the array, or accepted. -/
def mxaThread (b e w k l : Nat) (s : Mach) : Mach :=
  let t := getThread s b e k l
  let a := t.getX (iRs1 w)
  let win := (getSeq s b).win
  let lend : Bool := match win with | some x => x.mxaLend | none => false
  if t.poisoned (iRs1 w) then threadFault s b e k l tPoison 0
  else if a % 32 ≠ 0 then threadFault s b e k l tMisaligned a
  else if lftAllowed s b a 32 = false then threadFault s b e k l tBank a
  else if lend = false then threadFault s b e k l tMxa a
  else
    let s := countEv (countLoftRead s b 32) b 0x09 1
    let p := rangePois s b a 32
    let word : Slot := BitVec.ofNat 128 (readNat s.loft (loftIx b a) 16)
    let prof := readNat s.loft (loftIx b (a + 16)) 8
    let sem := readNat s.loft (loftIx b (a + 24)) 8
    let idx := if 2 ^ 63 ≤ sem then 2048 else sem
    let q : MxaReq := { prof := prof % 2 ^ 19, word := word, sem := idx }
    let grp := match win with | some x => x.bankgrp | none => 0
    if p then threadFault (sawPoison s b e true) b e k l tPoison a
    else if 2 ^ 19 ≤ prof ∨ 2 ^ 11 ≤ sem % 2 ^ 63 ∨ (2 ^ 63 ≤ sem ∧ sem ≠ 2 ^ 63 + sem % 2 ^ 11) then
      threadFault s b e k l tMxa a
    else if sem < 2 ^ 63 ∧ ((getSeq s b).tid.bind (fun i => semPhys s b i idx)).isNone then
      threadFault (reqRefused (semErr s b semMxa 3 idx) b) b e k l tMxa a
    else if reqOk s b grp q = false then threadFault (reqRefused s b) b e k l tMxa a
    else if 4 ≤ (getMxa s b).flexq.length + (if edgeOf s b < (getMxa s b).flexEnd then 1 else 0) then
      modThread s b e k l (fun t => { t with st := .room })
    else
      let s := modMxa s b (fun m => { m with flexq := m.flexq ++ [q] })
      modThread s b e k l (fun t => (t.put false (iRd w) 0 false).retire (t.pc + 4) (resultAt s b w))

/-- Threads of an engine in a state at an instruction of a row. -/
def threadsAt (s : Mach) (b e : Nat) (st : ThSt) (row : Nat) : List (Nat × Nat × Nat) :=
  let g := getEng s b e
  g.live.filterMap (fun p =>
    let t := g.thread p.1 p.2
    match cachedWord g t.pc with
    | some w => if t.st = st ∧ shfRow w = row then some (w, p.1, p.2) else none
    | none => none)

/-- MXA_ISSUE: threads that wait for room try again, then the group in issue makes its requests in lane order. -/
def mxaIssue (s : Mach) (b e : Nat) : Mach :=
  let s := if shfRuns s b e then
      foldS (threadsAt s b e .room 0x50) (fun t x => mxaThread b e x.1 x.2.1 x.2.2 t) s
    else s
  onIssue s b e 0x50 (mxaThread b e)

def execMxaIssue (b : BayNo) (e : Fin 4) (s : State) : Host.Outcome State Fault Refusal := onMach s (fun s => mxaIssue s b e)

/-- The descriptor of a thread's bale request passes admission (R239, R309): refused, admitted, or it waits for room. -/
def baleAdmit (s : Mach) (b e k l va : Nat) (d : Line) : Mach :=
  let tid := (getEng s b e).tid
  let q : FlexMove := { desc := d, va := va, tid := tid, thread := (e, k, l) }
  if baleRefused s b tid d then
    threadFault (if dSigs d && (semPhys s b tid (dSem d)).isNone then semErr s b semMover 3 (dSem d) else s) b e k l tBale va
  else if (getMov s b).flexq.length < 8 then
    let w := (cachedWord (getEng s b e) (getThread s b e k l).pc).getD 0
    let s := modMov s b (fun x => { x with flexq := x.flexq ++ [q] })
    modThread s b e k l (fun t => (t.put false (iRd w) 0 false).retire (t.pc + 4) (edgeOf s b))
  else
    let s := modMov s b (fun x => { x with waiting := x.waiting ++ [q] })
    modThread s b e k l (fun t => { t with st := .room })

/-- The translation of a thread's descriptor has come: it is read with the read right (R239, R316). -/
def baleDesc (b e : Nat) (s : Mach) (a : XAns) : Mach :=
  let s := modEtr s b (fun x => { x with ans := x.ans.erase a })
  match a.req.owner with
  | .desc _ k l =>
    if (getThread s b e k l).st ≠ .desc then s
    else if a.code ≠ 0 then threadFault s b e k l tAccess a.req.va
    else
      let r := readAs s (0x80 + b) none a.req.tid a.pa 64
      (match r.1 with
       | none => threadFault r.2 b e k l tAccess a.req.va
       | some (bs, p) =>
         if p then threadFault (sawPoison r.2 b e true) b e k l tBale a.req.va
         else baleAdmit r.2 b e k l a.req.va (BitVec.ofNat 512 (ofBytes bs)))
  | _ => s

/-- One thread of the group at BALE.ISSUE asks for the translation of its descriptor. -/
def baleAsk (b e w k l : Nat) (s : Mach) : Mach :=
  let t := getThread s b e k l
  let va := t.getX (iRs1 w)
  if t.poisoned (iRs1 w) then threadFault s b e k l tPoison 0
  else if va % 64 ≠ 0 then threadFault s b e k l tMisaligned va
  else
    let q : XReq := { queue := 2, tid := (getEng s b e).tid, va := va, len := 64, kind := 7, owner := .desc e k l }
    modThread (modEtr s b (fun x => { x with reqs := x.reqs ++ [q] })) b e k l (fun t => { t with st := .desc })

/-- BALE_ISSUE: descriptors whose translations have come are read and admitted; the group in issue makes its requests. -/
def baleIssue (s : Mach) (b e : Nat) : Mach :=
  let l := (getEtr s b).ans.filter (fun a => match a.req.owner with | .desc i _ _ => decide (i = e) | _ => false)
  let s := if shfRuns s b e then foldS l (baleDesc b e) s else s
  onIssue s b e 0x51 (baleAsk b e)

def execBaleIssue (b : BayNo) (e : Fin 4) (s : State) : Host.Outcome State Fault Refusal := onMach s (fun s => baleIssue s b e)

/-- FLEX_QUEUE_ROOM (R309): the oldest waiting descriptor is admitted once the queue has room. -/
def flexQueueRoom (s : Mach) (b : Nat) : Mach :=
  match (getMov s b).waiting with
  | [] => s
  | q :: rest =>
    if (getMov s b).flexq.length < 8 then
      let s := modMov s b (fun x => { x with waiting := rest })
      baleAdmit s b q.thread.1 q.thread.2.1 q.thread.2.2 q.va q.desc
    else s

def execFlexQueueRoom (b : BayNo) (s : State) : Host.Outcome State Fault Refusal := onMach s (fun s => flexQueueRoom s b)

/-- TOK.SIG (R229): a REM = 0 address of a bay of the partition and N from 1 to 255, else TOKEN_REFUSED. -/
def tokThread (b e w k l : Nat) (s : Mach) : Mach :=
  let t := getThread s b e k l
  let a := t.getX (iRs1 w) % 2 ^ 32
  let n := t.getX (iRs2 w) % 256
  if t.poisoned (iRs1 w) || t.poisoned (iRs2 w) then threadFault s b e k l tPoison 0
  else if tokRem a || tokIllegal a || !(bayPresent s (tokBay a)) || tokForeign s b a || decide (n = 0) then
    threadFault s b e k l tToken a
  else retireNext (sendToken s b (edgeOf s b) n false a) b e k l (resultAt s b w)

def execTokSig (b : BayNo) (e : Fin 4) (s : State) : Host.Outcome State Fault Refusal := onMach s (fun s => onIssue s b e 0x52 (tokThread b e))

/-- SHF.EXIT: the thread ends. -/
def exitThread (b e k l : Nat) (s : Mach) : Mach :=
  modEng (modThread (dropResv s b e k l) b e k l (fun t => { t with st := .exited, instret := t.instret + 1 })) b e
    (fun g => { g with exited := g.exited + 1 })

def execShfExit (b : BayNo) (e : Fin 4) (s : State) : Host.Outcome State Fault Refusal :=
  onMach s (fun s => onGroup s b e 0x60 (fun _ k l t => exitThread b e k l t))

/-! ### Window end and wind-up (R240 to R242) -/

/-- Whether a request belongs to a thread of an engine that the cut drops: everything but a store or an atomic that has
left the memory port and is not stalled on a page fault. -/
def cutAcc (s : Mach) (b e : Nat) (a : ShAcc) : Bool :=
  let stalled := (getEtr s b).misses.any (fun m =>
    m.fault.isSome && m.reqs.any (fun r => decide (r.owner = .thread e a.sheaf a.lane)))
  !a.sent || decide (a.kind = .load) || decide (a.kind = .lr) || stalled || a.data.isSome

/-- The engine's live threads are cut, and its queued sheaves never become resident. -/
def cutEng (s : Mach) (b e : Nat) : Mach :=
  let g := getEng s b e
  if g.active = false then s
  else
    let queued := lNthr g.desc - min (lNthr g.desc) (32 * g.next)
    let n := g.live.length + queued
    let keep := g.acc.filter (fun a => !cutAcc s b e a)
    let mine (o : XOwner) : Bool :=
      match o with
      | .thread i k l => decide (i = e) && !(keep.any (fun a => decide (a.sheaf = k) && decide (a.lane = l)))
      | .fetch i => decide (i = e)
      | .desc i _ _ => decide (i = e)
      | _ => false
    let s := modEtr s b (fun x =>
      { x with reqs := x.reqs.filter (fun r => !mine r.owner), ans := x.ans.filter (fun a => !mine a.req.owner),
               misses := x.misses.map (fun m => { m with reqs := m.reqs.filter (fun r => !mine r.owner) }) })
    let s := modSem s b (fun x => { x with waits := x.waits.filter (fun w => decide (w.eng ≠ e)) })
    let s := modMov s b (fun x => { x with waiting := x.waiting.filter (fun q => decide (q.thread.1 ≠ e)) })
    let s := { s with shfResv := s.shfResv.filter (fun r => !(decide (r.bay = b) && decide (r.eng = e))) }
    let s := modEng s b e (fun g =>
      { g with cut := g.cut + n, next := g.total, group := [], fetch := none, acc := keep,
               sheaves := g.sheaves.map (fun x =>
                 { x with threads := x.threads.map (fun t => if t.live then { t with st := .cut } else t) }) })
    if n = 0 then s
    else bump (bump s .SHF_CUT (4 * b + e) 0 63 32 1) .SHF_CUT (4 * b + e) 0 31 0 n

/-- FLEX_WINDOW_END (R87, R185, R240): the last FCLK of the window passes. -/
def flexWindowEnd (s : Mach) (b : Nat) : Mach :=
  match (getSeq s b).win with
  | none => s
  | some w =>
    if w.isOpen = false ∨ isHalted s b then s
    else
      let s := advanceEdge s b w.last
      let s := if w.mxaLend then mxaWindowEnd s b w.last else s
      let s := foldS (List.range 4) (fun t e => cutEng t b e) s
      modSeq s b (fun q => { q with win := some { w with isOpen := false } })

def execFlexWindowEnd (b : BayNo) (s : State) : Host.Outcome State Fault Refusal := onMach s (fun s => flexWindowEnd s b)

/-- Whether an engine's launch may wind up (R241, R310): no live thread, no queued sheaf, every access performed, and no
accepted bale move in flight. -/
def mayWindUp (s : Mach) (b e : Nat) : Bool :=
  let g := getEng s b e
  g.active && g.live.isEmpty && decide (g.total ≤ g.next) && g.acc.isEmpty &&
  (getMov s b).flexq.isEmpty && (getMov s b).moves.all (fun m => !m.flex)

/-- RESULTe (R242). -/
def resultWord (g : Eng) : Word :=
  packFlds [(63, 63, 1), (62, 62, (decide (g.cut ≠ 0)).toNat), (61, 61, (decide (g.faulted ≠ 0)).toNat), (60, 60, g.pois.toNat),
            (50, 34, g.faulted), (33, 17, g.cut), (16, 0, g.exited)]

/-- WIND_UP: the engine writes RESULTe and its flags; the last engine of the launch sends DONE_CH (R107, R241). -/
def windUp (s : Mach) (b e : Nat) : Mach :=
  if mayWindUp s b e = false then s
  else
    let g := getEng s b e
    let s := loftWrite s b (g.daddr + 8 * e) (bytesOf 8 (resultWord g).toNat) false
    let fl := (g.sheaves.flatMap Sheaf.threads).foldl (fun f t => f ||| t.fcsr % 32) g.fl
    let s := if fl = 0 then s else orTflags s b ((getSeq s b).tid.getD g.tid) fl
    let s := modEng s b e (fun _ => Eng.zero)
    match (getSeq s b).win with
    | none => s
    | some w =>
      let w := { w with pois := w.pois || g.pois }
      if (bitList 4 w.eng).all (fun i => !(getEng s b i).active) && !w.signalled then
        signalOwn (modSeq s b (fun q => { q with win := some { w with signalled := true } })) b (edgeOf s b) 1 w.pois w.doneCh
      else modSeq s b (fun q => { q with win := some w })

def execWindUp (b : BayNo) (e : Fin 4) (s : State) : Host.Outcome State Fault Refusal := onMach s (fun s => windUp s b e)

/-! ### FLEX_TIMEOUT (R264) -/

/-- An access or move's beat that times out at a loft slice: refused. -/
def moveTimedOut (s : Mach) (u : Nat) (m : Move) : Mach :=
  let s := mvErr s u m 1
  match (srcBeats m.desc).find? (fun b => m.got.all (fun g => decide (g.blk ≠ b))) with
  | some blk =>
    modMv s u m.id (fun m => { m with got := m.got ++ [{ blk := blk, bytes := List.replicate 512 0, pois := 255, left := 0 }] })
  | none => modMv s u m.id (fun m => { m with next := m.next + 1, lastAt := s.now })

/-- FLEX_TIMEOUT: a flexible access to a bay's loft has waited past the timeout and completes with an error response. -/
def flexTimeout (s : Mach) (b : Nat) (who : FlexWho) : Mach :=
  let s := bump (lftErr s b 4 0 ((getSeq s b).tid.getD 0) true) .LFT_CONF b 0 15 0 1
  match who with
  | .thread e k l =>
    (match (getEng s b e).acc.find? (fun a => decide (a.sheaf = k) && decide (a.lane = l.val)) with
     | some a => threadFault s b e k l tAccess a.a
     | none => s)
  | .move i => (match nthMove s b i with | some m => moveTimedOut s b m | none => s)
  | .barnMove d k =>
    (match (getBarnMov s d).moves.find? (fun m => decide (m.mover = k.val)) with
     | some m => moveTimedOut s (72 + d) m
     | none => s)
  | .window => s

def execFlexTimeout (b : BayNo) (who : FlexWho) (s : State) : Host.Outcome State Fault Refusal := onMach s (fun s => flexTimeout s b who)

end Sys2Proof.Machine
end

