-- ==== Sys2Proof/Machine/Rota.lean ====
section
/-! DEFINITION. The rota of a partition: arming, changeover, slice boundaries, preemption, settlement and the clear (R89 to
R99, R129, R130, R637), and the effect of a fallow frame on the bays (R510). -/

namespace Sys2Proof.Machine

open Sys2Proof.Config (acyc)

/-! ### Entries (R90, R91, R101) -/

/-- ESTATE codes. -/
def eNew : Nat := 0
def eSuspended : Nat := 1
def eDone : Nat := 2
def eFaulted : Nat := 3

/-- Words of a rota entry in a lead bay. -/
def rotaA (s : Mach) (lead n : Nat) : Word := rg s .SEQ_ROTA_A lead n
def rotaB (s : Mach) (lead n : Nat) : Word := rg s .SEQ_ROTA_B lead n
def entTid (a : Word) : Nat := fld a 61 52
def entLen (a : Word) : Nat := if fld a 51 40 = 0 then 4096 else fld a 51 40
def entState (a : Word) : Nat := fld a 39 38

/-- Whether an entry runs a tenant: valid, not fallow, its tenant neither DONE nor FAULTED (R90). -/
def entWorks (a : Word) : Bool := bit a 63 && !bit a 62 && decide (entState a < eDone)

/-- The state of a tenant, in every entry that shares its TID (R91). -/
def setEstate (s : Mach) (lead tid st : Nat) (sec : Option Nat) : Mach :=
  foldS (List.range 64) (fun t n =>
    if entTid (rotaA t lead n) = tid then
      let t := wf t .SEQ_ROTA_A lead n 39 38 st
      match sec with
      | some k => wf t .SEQ_ROTA_A lead n 31 16 k
      | none => t
    else t) s

/-- SEQ_ROTA_CTL.LAST. -/
def rotaLast (s : Mach) (lead : Nat) : Nat := rf s .SEQ_ROTA_CTL lead 0 5 0

/-- The entry after `k` (R90, R99). -/
def nextEntry (s : Mach) (lead k : Nat) : Nat := if k + 1 ≤ rotaLast s lead then k + 1 else 0

/-- Frames of the run of entries of one tenant that begins with `k`, at most one cycle (R90). -/
def runLen (s : Mach) (lead k0 : Nat) : (fuel k : Nat) → Nat
  | 0, _ => 0
  | fuel + 1, k =>
    let a := rotaA s lead k
    let j := nextEntry s lead k
    entLen a + (if j = k0 ∨ !entWorks (rotaA s lead j) ∨ entTid (rotaA s lead j) ≠ entTid a then 0
                else runLen s lead k0 fuel j)

/-- Whether any bay of a partition is halted by debug (R557). -/
def partHalted (s : Mach) (p : Nat) : Bool := (partBays s p).any (fun b => (getBay s b).dbg.halted)

/-- The tick of a frame boundary. -/
def frameTick (s : Mach) (f : Nat) : Nat := tickOf s (f * 65536)

/-! ### Announcement (R92, R468, R78) -/

/-- The frame boundary at which the next entry begins. -/
def nextBound (r : Rota) : Nat := r.entryEnd

/-- Whether an entry continues the slice in progress (R90). -/
def continues (s : Mach) (lead : Nat) (r : Rota) (k : Nat) : Bool :=
  r.inSlice && !r.fallow && entWorks (rotaA s lead k) && decide (entTid (rotaA s lead k) = entTid (rotaA s lead r.cur))

/-- ROTA_ANNOUNCE: at beat 0 of the frame before a slice the lead announces the next entry and every bay validates its
store; a tenant record that is not valid or names another partition is ID_MISMATCH. No changeover is announced while a
bay is halted (R557), nor after STOP or ABORT but for a continuation (R98). -/
def rotaAnnounce (s : Mach) (p : Nat) : Mach :=
  match leadBay s p with
  | none => s
  | some lead =>
    let r := getRota s p
    let k := if r.inSlice then nextEntry s lead r.cur else 0
    let cont := continues s lead r k
    if r.enabled = false ∨ r.ann.isSome ∨ r.abortReq ∨ (r.stopReq ∧ cont = false) ∨ partHalted s p then s
    else
      let bnd := nextBound r
      let s := advanceTo s (frameTick s (bnd - 1))
      let a := rotaA s lead k
      let e := bnd + runLen s lead k 64 k
      let base := fld a 12 0 * 4096
      let sec := if entState a = eSuspended then some (fld a 31 16) else none
      let s :=
        if cont ∨ entWorks a = false then s
        else
          let bad := decide (tenPid s (entTid a) ≠ some p)
          foldS (partBays s p) (fun t b =>
            let code := if bad ∧ b = lead then eIdMismatch else validateStore t b base p (entTid a) sec
            modSeq t b (fun q => { q with ready := some code })) s
      modRota s p (fun r =>
        { r with ann := some k, annCont := cont, annGo := cont || !entWorks a, annRefused := false,
                 endFrame := if cont then e else r.endFrame })

def execRotaAnnounce (p : PartNo) (s : State) : Host.Outcome State Fault Refusal := onMach s (fun s => rotaAnnounce s p)

/-- A refusal of a changeover: the refusing bay records its code with the tenant refused (R92). -/
def refuseStore (s : Mach) (b tid code : Nat) : Mach :=
  raiseBay (recordFirst s .SEQ_ERR b 0 (packFlds [(25, 16, tid), (7, 0, code)])) b (bayRec s b 6 code 6 0 (some tid))

/-- ROTA_GO_REFUSE: at beat 3,072 the lead broadcasts GO, or REFUSE if any bay refused or failed to answer: the slice runs
fallow and the tenant becomes FAULTED (R92). -/
def rotaGoRefuse (s : Mach) (p : Nat) : Mach :=
  match leadBay s p, (getRota s p).ann with
  | some lead, some k =>
    let r := getRota s p
    if r.annGo then s
    else
      let s := advanceTo s (tickOf s ((nextBound r - 1) * 65536 + 3072 * 16))
      let bs := partBays s p
      let tid := entTid (rotaA s lead k)
      let bad := bs.any (fun b => decide ((getSeq s b).ready ≠ some 0))
      let s := foldS bs (fun t b =>
        match (getSeq t b).ready with
        | some c => if c = 0 then t else refuseStore t b tid c
        | none => t) s
      let s := foldS bs (fun t b => modSeq t b (fun q => { q with ready := none })) s
      let s := if bad then setEstate s lead tid eFaulted none else s
      modRota s p (fun r => { r with annGo := true, annRefused := bad })
  | _, _ => s

def execRotaGoRefuse (p : PartNo) (s : State) : Host.Outcome State Fault Refusal := onMach s (fun s => rotaGoRefuse s p)

/-! ### Fallow frames in a bay (R510) -/

/-- Every FCLK of a bay at or after `e0` moves by `n`: what its sequencer and its sheaf engines do next. -/
def shiftSlots (s : Mach) (b e0 : Nat) (n : Int) : Mach :=
  let mv (x : Nat) : Nat := ((x : Int) + n).toNat
  let sh (x : Nat) : Nat := if e0 ≤ x then mv x else x
  modBay s b (fun x =>
    { x with
      seq := { x.seq with clearEnd := sh x.seq.clearEnd, bndEdge := sh x.seq.bndEdge,
                          win := x.seq.win.map (fun w => { w with first := sh w.first, last := sh w.last }) },
      streams := x.streams.map (fun k =>
        { k with last := if k.hold = .none then sh k.last else mv k.last, nextAt := sh k.nextAt, busy := sh k.busy,
                 stallFrom := if k.hold = .fetch then mv k.stallFrom else k.stallFrom }),
      engs := x.engs.map (fun g =>
        { g with free := sh g.free, memFree := sh g.memFree,
                 sheaves := g.sheaves.map (fun y =>
                   { y with threads := y.threads.map (fun t => { t with readyAt := sh t.readyAt }) }) }) })

/-- The same of what its array, its vector engine and its movers do next. -/
def shiftUnits (s : Mach) (b e0 : Nat) (n : Int) : Mach :=
  let sh (x : Nat) : Nat := if e0 ≤ x then ((x : Int) + n).toNat else x
  modBay s b (fun x =>
    { x with
      mxa := { x.mxa with flexEnd := sh x.mxa.flexEnd, streamEnd := sh x.mxa.streamEnd, loadEnd := sh x.mxa.loadEnd,
                          termEnd := x.mxa.termEnd.map sh,
                          drains := x.mxa.drains.map (fun d => { d with start := sh d.start, fin := sh d.fin }) },
      vxe := { x.vxe with flight := x.vxe.flight.map (fun w => { w with edge := sh w.edge }) },
      mov := { x.mov with moves := x.mov.moves.map (fun m =>
        if m.next = 0 ∧ e0 ≤ m.p then { m with p := sh m.p } else { m with late := ((m.late : Int) + n).toNat }) },
      luse := x.luse.map (fun u =>
        if e0 ≤ u.start then { u with start := sh u.start }
        else { u with beats := u.beats.drop (e0 - u.start), start := ((e0 : Int) + n).toNat }) })

/-- A fallow frame passes in a bay: the `n` FCLK of the frame reach no sequencer, array, engine or mover, and TB rises by
65,536 ACYC. -/
def fallowBay (s : Mach) (b e0 n : Nat) : Mach :=
  let s := syncCnt s b
  let s := if isHalted s b then s else shiftSlots s b e0 n
  let s := shiftUnits s b e0 n
  let s := modSeq s b (fun q => { q with fallowed := q.fallowed + 1 })
  modBay s b (fun x => { x with streams := x.streams.map (fun k => { k with tb := (k.tb + 65536) % 2 ^ 64 }),
                                cnt := { x.cnt with skip := x.cnt.skip + n } })

/-- FCLK edges of a die from now to the next frame boundary. -/
def frameEdges (s : Mach) (d : Nat) : Nat :=
  let c := getClk s d
  edgeAfter c (frameTick s (frameNo s + 1)) - edgeAfter c s.now

/-! ### The slice begins (R93, R129, R130, R637) -/

/-- All channel state, decision latches and pending rendezvous are reset (R129). -/
def resetChans (s : Mach) (b : Nat) : Mach := modBay s b (fun x => { x with chans := [] })

/-- Whether a bay must settle before it goes on: a channel owes debt, it was preempted and its moves are in flight, or a
launch is not wound up (R97, R130, R243). -/
def unsettled (s : Mach) (b : Nat) : Bool :=
  !noDebt s b || ((getSeq s b).preempted && !(getMov s b).moves.isEmpty)
    || (List.range 4).any (fun e => (getEng s b e).active)

/-- The clear of a slice starts (R93, R162, R188): the work window reads zero and the units are cleared, at 1 KiB an FCLK
and at least 512 FCLK. The FCLK since the slice's boundary are slip of cause SLICE. -/
def startClear (s : Mach) (b : Nat) : Mach :=
  let q := getSeq s b
  let e := edgeAfter (clkOf s b) s.now
  let s := slip s b 7 7 (e - q.bndEdge)
  let n := min q.workSize (plannedSize s b - q.workBase)
  let s := { s with loft := smapClear s.loft (loftIx b q.workBase) n,
                    loftPois := smapClear s.loftPois (loftIx b q.workBase / 64) (n / 64) }
  let s := vxeClear (mxaClear s b) b
  modSeq s b (fun q => { q with st := .clear, clearEnd := e + max 512 (q.workSize / 1024), win := none })

/-- A bay goes IDLE: it has no current slice tenant and no entry. -/
def goIdle (s : Mach) (b : Nat) : Mach :=
  modSeq s b (fun q => { q with st := .idle, tid := none, entry := none, preempted := false, take := none })

/-- A bay enters an entry of the rota: its channels are reset, and it clears, or runs the slice fallow (R90, R93, R129). -/
def enterEntry (s : Mach) (lead b k : Nat) (live : Bool) : Mach :=
  let a := rotaA s lead k
  let w := rotaB s lead k
  let s := resetChans (syncCnt s b) b
  let s := modSeq s b (fun q =>
    { q with st := .fallow, entry := some k, tid := if live then some (entTid a) else none, preempted := false, take := none,
             section_ := fld a 31 16, storeBase := fld a 12 0 * 4096, workBase := fld w 8 0 * 65536,
             workSize := if live then fld w 24 16 * 65536 else 0, resume := decide (entState a = eSuspended),
             yielded := false, park := .none, erred := false })
  if live then startClear s b else s

/-- A bay whose settlement is complete goes on into the entry that waits for it, or goes IDLE (R97, R130). -/
def settled (s : Mach) (b : Nat) : Mach :=
  match (getSeq s b).take, (bayPid s b).bind (leadBay s) with
  | some (k, live), some lead => enterEntry s lead b k live
  | _, _ => goIdle s b

/-- A bay takes up an entry at the slice's first FCLK: its standing request becomes BASE (R500) and TB of every stream the
slice's starting boundary (R111). A bay that settles keeps its former tenant until it has (R637, R130). -/
def takeEntry (s : Mach) (lead b k bnd : Nat) (live : Bool) : Mach :=
  let s := setStanding s b (rf s .PWR_LCFG (dieOf b) 0 4 0)
  let e := edgeAfter (clkOf s b) (frameTick s bnd)
  let s := modSeq s b (fun q => { q with bnd := bnd * 65536, bndEdge := e, fallowed := 0 })
  let s := modBay s b (fun x => { x with streams := x.streams.map (fun k => { k with tb := bnd * 65536 }) })
  let s :=
    if (getSeq s b).st = .settle ∨ (getBay s b).dbg.halted then modSeq s b (fun q => { q with st := .settle, take := some (k, live) })
    else enterEntry s lead b k live
  if s.pwr.fallowAt = some (frameNo s) then fallowBay s b e (frameEdges s (dieOf b)) else s

/-- SLICE_BEGIN: the entry announced begins at its boundary. A continuation moves only the current entry on. -/
def sliceBegin (s : Mach) (p : Nat) : Mach :=
  match leadBay s p, (getRota s p).ann with
  | some lead, some k =>
    let r := getRota s p
    if r.annGo = false then s
    else
      let bnd := nextBound r
      let a := rotaA s lead k
      let bs := partBays s p
      if r.annCont then
        let s := advanceTo s (frameTick s bnd)
        let s := modRota s p (fun r => { r with cur := k, entryEnd := bnd + entLen a, ann := none, annCont := false, annGo := false })
        foldS bs (fun t b => modSeq t b (fun q => { q with entry := some k })) s
      else if r.inSlice then s
      else
        let s := advanceTo s (frameTick s bnd)
        let live := entWorks a && !r.annRefused
        let late := if s.pwr.fallowAt = some (frameNo s) then 1 else 0
        let s := modRota s p (fun r =>
          { r with inSlice := true, fallow := !live, cur := k, startFrame := bnd, entryEnd := bnd + entLen a + late,
                   endFrame := bnd + (if live then runLen s lead k 64 k else entLen a) + late, ann := none, annCont := false,
                   annGo := false, annRefused := false })
        foldS bs (fun t b => takeEntry t lead b k bnd live) s
  | _, _ => s

def execSliceBegin (p : PartNo) (s : State) : Host.Outcome State Fault Refusal := onMach s (fun s => sliceBegin s p)

/-- CLEAR_COMPLETE: after the clear every present stream starts at START_IDX, or at IN_IDX for a SUSPENDED tenant; slot
FCLK 0 is the first FCLK after it (R93). -/
def clearComplete (s : Mach) (b : Nat) : Mach :=
  let q := getSeq s b
  if q.st ≠ .clear ∨ (getBay s b).dbg.halted then s
  else
    let s := advanceEdge s b q.clearEnd
    let s := modSeq (syncCnt s b) b (fun q => { q with st := .run })
    foldS (storeStreams s b q.storeBase) (fun t k =>
      let x := streamEntry t b q.storeBase k
      modStream t b k (fun y =>
        { Stream.zero with run := true, next := if q.resume then entIn x else entStart x, nextAt := q.clearEnd, last := q.clearEnd - 1,
                           tb := y.tb })) s

def execClearComplete (b : BayNo) (s : State) : Host.Outcome State Fault Refusal := onMach s (fun s => clearComplete s b)

/-! ### The slice ends (R96, R97, R98) -/

/-- PREEMPT (R97, R182, R213, R255): a bay that has not parked stops its streams and records OVERRUN unless an error is
recorded already; its array and engine write nothing more, and its issued moves must settle. -/
def preempt (s : Mach) (b : Nat) : Mach :=
  let e := edgeAfter (clkOf s b) s.now
  let s := if (getSeq s b).erred then s else recordSeqErr s b 0 eOverrun
  let s := vxePreempt (mxaPreempt (stopStreams s b) b e) b e
  modSeq s b (fun q => { q with preempted := true })

/-- The tenant's state after its slice, from how every bay parked (R96). -/
def sliceOutcome (s : Mach) (bs : List Nat) : Nat :=
  let parked (h : Park) : Bool := bs.all (fun b => decide ((getSeq s b).st = .parked) && decide ((getSeq s b).park = h))
  if parked .byEnd then eDone else if parked .byYield then eSuspended else eFaulted

/-- The rota is over once every bay is IDLE: the lead clears ENABLE (R98). -/
def rotaOver (s : Mach) (p : Nat) : Mach :=
  let r := getRota s p
  if r.enabled ∧ r.inSlice = false ∧ r.ann = none ∧ (r.stopReq ∨ r.abortReq) ∧
      (partBays s p).all (fun b => decide ((getSeq s b).st = .idle)) then
    let s := modRota s p (fun r => { r with enabled := false, stopReq := false, abortReq := false })
    match leadBay s p with
    | some lead => wb s .SEQ_ROTA_CTL lead 0 7 false
    | none => s
  else s

/-- SLICE_END: at the end of the slice, or at the next frame boundary on ABORT, the lead sets the tenant's state, and every
bay that has not parked is preempted. With no entry announced the rota ends. -/
def sliceEnd (s : Mach) (p : Nat) : Mach :=
  match leadBay s p with
  | none => s
  | some lead =>
    let r := getRota s p
    if r.enabled = false ∨ partHalted s p ∨ (r.annCont ∧ r.abortReq = false) then s
    else if r.inSlice = false then (if r.abortReq ∨ (r.stopReq ∧ r.ann = none) then rotaOver (modRota s p (fun r => { r with ann := none })) p else s)
    else
      let s := if r.abortReq then toFrameBoundary s else advanceTo s (frameTick s r.entryEnd)
      let bs := partBays s p
      let out := sliceOutcome s bs
      let tid := entTid (rotaA s lead r.cur)
      let s :=
        if r.fallow then s
        else setEstate s lead tid out (if out = eSuspended then some (getSeq s lead).section_ else none)
      let s := foldS bs (fun t b =>
        let q := getSeq t b
        let t := semWithdraw t b
        let t := if r.fallow ∨ q.st = .parked then stopStreams t b else preempt t b
        if unsettled t b then
          modSeq t b (fun q => { q with st := .settle, settleFrom := edgeAfter (clkOf t b) t.now, take := none })
        else goIdle t b) s
      let over_ := r.abortReq || r.ann.isNone
      let s := modRota s p (fun r =>
        { r with inSlice := false, ann := if over_ then none else r.ann, annCont := false,
                 stopReq := r.stopReq || over_ })
      rotaOver s p

def execSliceEnd (p : PartNo) (s : State) : Host.Outcome State Fault Refusal := onMach s (fun s => sliceEnd s p)

/-- SETTLEMENT_COMPLETE: the bay's moves have completed, no debt is left and its launches are wound up; it goes on (R97,
R130). -/
def settlementComplete (s : Mach) (b : Nat) : Mach :=
  let q := getSeq s b
  if q.st = .settle ∧ unsettled s b = false ∧ (getBay s b).dbg.halted = false then
    let s := advanceTo s (edgeTick (clkOf s b) (edgeAfter (clkOf s b) s.now))
    let s := settled s b
    match bayPid s b with
    | some p => rotaOver s p
    | none => s
  else s

def execSettlementComplete (b : BayNo) (s : State) : Host.Outcome State Fault Refusal := onMach s (fun s => settlementComplete s b)

/-- SETTLE_LIMIT_EXPIRY: debt that is left after SETTLE_LIMIT FCLK is written off with LATE_DISCARD (R130). -/
def settleLimitExpiry (s : Mach) (b : Nat) : Mach :=
  let q := getSeq s b
  if q.st = .settle ∧ noDebt s b = false then
    let s := advanceEdge s b (q.settleFrom + rf s .SEQ_TOKCFG b 0 63 32)
    let owing := ((getBay s b).chans.filter (fun c => decide (c.2.debt ≠ 0))).head?
    let s := tokErr s b 4 (match owing with | some c => tokAddr b c.1 | none => 0)
    modBay s b (fun x => { x with chans := x.chans.map (fun c => (c.1, { c.2 with debt := 0 })) })
  else s

def execSettleLimitExpiry (b : BayNo) (s : State) : Host.Outcome State Fault Refusal := onMach s (fun s => settleLimitExpiry s b)

/-! ### Writes of the rota registers (R89, R98, R99, R101) -/

/-- The effect of a write of SEQ_ROTA_CTL. Rota registers of other bays ignore writes. -/
def onRotaCtl (s : Mach) (b : Nat) (v : Word) : Mach :=
  match bayPid s b with
  | none => s
  | some p =>
    if isLead s b = false then s
    else
      let r := getRota s p
      let s := wf s .SEQ_ROTA_CTL b 0 5 0 (fld v 5 0)
      if r.enabled then
        if bit v 9 then modRota s p (fun r => { r with abortReq := true })
        else if bit v 8 ∨ bit v 7 = false then modRota s p (fun r => { r with stopReq := true })
        else s
      else if bit v 7 then
        let f := rf s .SEQ_ROTA_START b 0 47 0
        if frameNo s + 2 ≤ f then
          wb (modRota s p (fun _ => { Rota.zero with enabled := true, startFrame := f, endFrame := f, entryEnd := f })) .SEQ_ROTA_CTL b 0 7 true
        else wb s .SEQ_ROTA_CUR b 0 63 true
      else s

/-- Whether a write to an entry is ignored: it is the current or the announced entry of an enabled rota (R99). -/
def entryBusy (s : Mach) (p n : Nat) : Bool :=
  let r := getRota s p
  r.enabled && ((r.inSlice && decide (r.cur = n)) || decide (r.ann = some n))

/-- The effect of a write of SEQ_ROTAn_A: with VALID = 1 the tenant becomes NEW with section 0. -/
def onRotaA (s : Mach) (b n : Nat) (v : Word) : Mach :=
  match bayPid s b with
  | none => s
  | some p =>
    if isLead s b = false ∨ entryBusy s p n then s
    else
      let s := wf (wf s .SEQ_ROTA_A b n 63 40 (fld v 63 40)) .SEQ_ROTA_A b n 12 0 (fld v 12 0)
      if bit v 63 then setEstate s b (entTid v) eNew (some 0) else s

/-- The effect of a write of SEQ_ROTAn_B. -/
def onRotaB (s : Mach) (b n : Nat) (v : Word) : Mach :=
  match bayPid s b with
  | none => s
  | some p =>
    if isLead s b = false ∨ entryBusy s p n then s
    else wf (wf s .SEQ_ROTA_B b n 24 16 (fld v 24 16)) .SEQ_ROTA_B b n 8 0 (fld v 8 0)

end Sys2Proof.Machine
end

