-- ==== Sys2Proof/Machine/Power.lean ====
section
/-! DEFINITION. Power, gears and thermal control (chapter 20): selection, requests, gear changes, the power limit, fallow
frames, droop, the alert, reconciliation and power groups. -/

namespace Sys2Proof.Machine

open Sys2Proof.Config (acyc)

/-! ### Frames, events, caps -/

/-- The frame that an event of each frame acts at: the current one if it has not acted in it, otherwise the next. -/
def atFrame (s : Mach) (last : Option Nat) : Mach :=
  match last with
  | none => toFrameBoundary s
  | some f => if frameNo s = f then advanceTo s (nextFrameTick s) else s

/-- The controller works once the cores are released and the count runs (R525). -/
def powerOn (s : Mach) : Bool := s.pwr.started && s.alm.running

/-- The die ID that an event names, or 0x1F. -/
def evtDie (d : Option Nat) : Nat := match d with | some d => compDieId d | none => 0x1F

/-- A PWR_EVENTS bit that becomes set raises a record and, with EVT_V = 1, writes one item to EVT_RING (R526). The SUBCODE of
the record is a free value: no register with a CODE names it (R536, R537). -/
def pwrEvent (s : Mach) (k : Nat) (d : Option Nat) : Mach :=
  if rb s .PWR_EVENTS 0 0 k then s
  else
    let s := wb s .PWR_EVENTS 0 0 k true
    let (w, s) := drawWord s
    let s := raise s (mkRec s 0xE (w.toNat % 256) 0x10 0x7F (match d with | some d => compDieId d | none => 0) 0 k)
    if rb s .PWR_CFG 0 0 12 then
      sendItem s (rf s .PWR_CFG 0 0 11 0) 5 (itemLine (bytesOf 8 (count s) ++ bytesOf 1 k ++ bytesOf 1 (evtDie d))) none
    else s

/-- A record of class THERMAL. -/
def thermRecord (s : Mach) (die sev : Nat) : Mach :=
  let (w, s) := drawWord s
  raise s { mkRec s 0xF (w.toNat % 256) 0x10 0x7F die 0 die with sev := sev }

def gearOf (s : Mach) (d : Nat) : Nat := rf s .PWR_LSTAT d 0 4 0
def nextGear (s : Mach) (d : Nat) : Nat := rf s .PWR_LSTAT d 0 23 19
def tcap (s : Mach) (d : Nat) : Nat := rf s .PWR_LSTAT d 0 18 14
def inEmerg (s : Mach) (d : Nat) : Bool := rb s .PWR_LSTAT d 0 24
def baseGear (s : Mach) (d : Nat) : Nat := rf s .PWR_LCFG d 0 4 0
def allDies : List Nat := List.range 6
def allClusters : List Nat := List.range 12
def dieBays (d : Nat) : List Nat := (List.range 12).map (fun i => 12 * d + i)

/-- Commanded voltages at a gear, LOGIC and ARRAY (R498). -/
def gearVolt (s : Mach) (g : Nat) : Nat × Nat :=
  let age := rf s .PWR_CFG 0 0 35 32
  (rf s .PWR_VTAB 0 (g - 4) 11 0 + age * rf s .PWR_CFG 0 0 31 24, rf s .PWR_VTAB 0 (g - 4) 27 16 + age * rf s .PWR_CFG 0 0 23 16)

def setVolt (s : Mach) (d g : Nat) : Mach := modPwr s (fun p => { p with volt := p.volt.set d (gearVolt s g) })

/-- The fastest P-state that a cluster's cores request, limited by its cap (R343); a change begins. -/
def retarget (s : Mach) (c : Nat) : Mach :=
  let req := (List.range 8).foldl (fun m i => min m (fld (smapGet 0 (getCore s (8 * c + i)).csr 0x7C2) 2 0)) 5
  let p := max req (rf s .PWR_PCAP 0 0 (4 * c + 2) (4 * c))
  { s with clus := vmod s.clus c (fun x => if x.pst = p then { x with target := none } else { x with target := some p }) }

/-- The caps of the clusters in force. -/
def setCaps (s : Mach) (l : List Nat) : Mach :=
  foldS allClusters (fun t c => retarget (wf t .PWR_PCAP 0 0 (4 * c + 2) (4 * c) (l.getD c 0)) c) s

/-! ### The power limit (R503 to R507, R518) -/

/-- One watt over a frame, in 2^−24 fJ. -/
def wattFrame : Nat := 40960000000 * 2 ^ 24

/-- Quanta received and donated in a frame. -/
def leased (s : Mach) (recv : Bool) (f : Nat) : Nat :=
  s.pwr.leases.foldl (fun n l => if l.recv = recv ∧ l.start ≤ f ∧ f < l.stop then n + l.quanta else n) 0

/-- PPL_EFF of a frame in W (R503). -/
def pplEff (s : Mach) (f : Nat) : Nat :=
  let v : Int := rf s .PWR_PPL 0 0 11 0 + 5 * ((leased s true f : Int) - leased s false f)
  min (rf s .PWR_PPL 0 0 47 36) (max (rf s .PWR_PPL 0 0 35 24) v.toNat)

/-- EFF_W, DON and RECV as they stand in the current frame. -/
def refreshEff (s : Mach) : Mach :=
  let f := frameNo s
  let s := wf (wf s .PWR_SHIFT 0 0 63 52 (sat 12 (leased s false f))) .PWR_SHIFT 0 0 51 40 (sat 12 (leased s true f))
  wf s .PWR_PPL 0 0 59 48 (pplEff s f)

/-- CAP in 2^−24 fJ. -/
def capEnergy (s : Mach) : Nat := rf s .PWR_SURGE 0 0 15 0 * 10 ^ 12 * 2 ^ 24

def inHold (s : Mach) : Bool := rb s .PWR_STATUS 0 0 15

/-- L of R507 for a frame, as energy over the frame. -/
def limitL (s : Mach) (f : Nat) : Nat :=
  min ((if inHold s then 2400 else 2900) * wattFrame) (pplEff s f * wattFrame + (capEnergy s - s.pwr.level))

/-- The energy of an event of class `k`, in 1/4,096 fJ (R519). -/
def evEnergy (s : Mach) (k : Nat) : Nat := rf s .PWR_COEF 0 k 39 16 * rf s .PWR_COEF 0 k 15 0

/-- The partition that an owner's energy counts for, 16 for none. -/
def ownerPart (s : Mach) (o : Nat) : Nat :=
  if o < 1024 then (tenPid s o).getD 16 else if o < 1040 then o - 1024 else 16

/-- Energy booked to an owner (R519). -/
def bookEnergy (s : Mach) (o e : Nat) : Mach :=
  let q := ownerPart s o
  modPwr s (fun p => { p with energy := smapPut 0 p.energy o (smapGet 0 p.energy o + (e : Int)),
                              period := smapPut 0 p.period q (smapGet 0 p.period q + e) })

/-- The static energies of a frame by owner (R519). -/
def staticEnergies (s : Mach) : List (Nat × Nat) :=
  (allBays.filter (bayPresent s)).map (fun b => (ownOverhead (bayPid s b), s.fuses.statBay.getD (gearOf s (dieOf b) - 4) 0 * 4096))
  ++ allClusters.map (fun c => (ownOverhead (clusterPid s c), s.fuses.statCl.getD (vget Clu.zero s.clus c).pst 0 * 4096))
  ++ [(ownPkg, s.fuses.statPkg * 4096)]

/-- SURGE_UPDATE: at the end of a frame its energy is booked, P_est is taken, LEVEL changes and is clamped (R505), and the
frames above 2,400 W are counted (R506). -/
def surgeUpdate (s : Mach) : Mach :=
  if powerOn s = false then s
  else
    let s := atFrame s s.pwr.surgeAt
    let f := frameNo s
    let evs := s.pwr.events.map (fun x => (x.1 / 2 ^ 20, x.1 / 16 % 2 ^ 16, x.2 * evEnergy s (x.1 % 16)))
    let at_ (pl : Nat) : Nat := evs.foldl (fun n x => if x.1 = pl then n + x.2.2 else n) 0
    let stat := staticEnergies s
    let total := evs.foldl (fun n x => n + x.2.2) 0 + stat.foldl (fun n x => n + x.2) 0
    let est := total * rf s .PWR_EST 0 0 15 0
    let dyn := allDies.map (fun d =>
      if s.pwr.fallowAt = some (f - 1) then s.pwr.dynDie.getD d (0, 4) else (at_ d, gearOf s d))
    let level := min (capEnergy s) (s.pwr.level + est - pplEff s (f - 1) * wattFrame)
    let s := foldS evs (fun t x => bookEnergy t x.2.1 x.2.2) s
    let s := foldS stat (fun t x => bookEnergy t x.1 x.2) s
    let s := modPwr s (fun p =>
      { p with events := [], est := est, level := level, dynDie := dyn, dynCl := allClusters.map (fun c => at_ (6 + c)),
               surgeAt := some f })
    let over_ := decide (2400 * wattFrame < est)
    let s := wf s .PWR_EST 0 0 47 32 (sat 16 (est / wattFrame))
    let s := wf s .PWR_EST 0 0 31 16 (sat 16 (dyn.foldl (fun n x => n + x.1) 0 * 4096 / wattFrame))
    let s := wf s .PWR_SURGE 0 0 31 16 (level / (10 ^ 12 * 2 ^ 24))
    let s := wf s .PWR_SURGE 0 0 39 32 (if over_ then sat 8 (rf s .PWR_SURGE 0 0 39 32 + 1) else 0)
    let left := rf s .PWR_SURGE 0 0 55 40
    let s := if inHold s then wf s .PWR_SURGE 0 0 55 40 (if over_ then 2196 else left - 1) else s
    refreshEff s

def execSurgeUpdate (s : State) : Host.Outcome State Fault Refusal := onMach s (fun s => surgeUpdate s)

/-- PEAK_HOLD (R506): the count of frames above 2,400 W has reached 244. -/
def peakHold (s : Mach) : Mach :=
  if inHold s = false ∧ 244 ≤ rf s .PWR_SURGE 0 0 39 32 then
    pwrEvent (wf (wb s .PWR_STATUS 0 0 15 true) .PWR_SURGE 0 0 55 40 2196) 1 none
  else s

def execPeakHold (s : State) : Host.Outcome State Fault Refusal := onMach s (fun s => peakHold s)

/-- HOLD_END (R506): no frame of HOLD remains. -/
def holdEnd (s : Mach) : Mach :=
  if inHold s ∧ rf s .PWR_SURGE 0 0 55 40 = 0 then wb s .PWR_STATUS 0 0 15 false else s

def execHoldEnd (s : State) : Host.Outcome State Fault Refusal := onMach s (fun s => holdEnd s)

/-! ### Gear selection (R501, R508, R509, R521, R522) -/

/-- Whether the slice of a bay that begins at a frame boundary is one of a different tenant (R500, R502). -/
def changesTenant (s : Mach) (b f : Nat) : Bool :=
  match bayPid s b with
  | none => false
  | some p =>
    let r := getRota s p
    if r.enabled = false ∨ r.abortReq ∨ r.entryEnd ≠ f then false
    else match r.ann, leadBay s p with
      | some _, _ => !r.annCont
      | none, some lead => !r.stopReq && !continues s lead r (if r.inSlice then nextEntry s lead r.cur else 0)
      | none, none => false

/-- The standing request of a bay (R500): PWR_LCFG.BASE while it belongs to no partition or runs a fallow rota slice. -/
def standing (s : Mach) (b : Nat) : Nat :=
  let q := getSeq s b
  if (bayPid s b).isNone ∨ (q.entry.isSome ∧ q.tid.isNone) then baseGear s (dieOf b)
  else rf s .PWR_LREQ (dieOf b) 0 (5 * (b % 12) + 4) (5 * (b % 12))

/-- PWR_LREQ of a die (R500, R527): the standing request of each present bay, once the controller has started. -/
def lreqView (s : Mach) (d : Nat) : Word :=
  if s.pwr.started then
    packFlds ((dieBays d).map (fun b => (5 * (b % 12) + 4, 5 * (b % 12), if bayPresent s b then standing s b else 0)))
  else rg s .PWR_LREQ d 0

/-- The standing request of a bay as it will stand at a boundary, of the requests posted before the selection (R501, R508). A
slice of a different tenant that is due at the boundary before and has not begun yet counts too. -/
def standingAt (s : Mach) (b f : Nat) : Nat :=
  if changesTenant s b f ∨ changesTenant s b (f - 1) then baseGear s (dieOf b)
  else
    let l := s.pwr.gearReqs.filter (fun r => decide (r.bay = b) && decide (r.bnd = f) && decide (r.posted < f * 65536 - 65536))
    match l.getLast? with
    | some r => r.gear
    | none => standing s b

/-- W of a die for a boundary (R501). -/
def wanted (s : Mach) (d f : Nat) : Nat :=
  match (dieBays d).filter (fun b => bayPresent s b && (bayPid s b).isSome) with
  | [] => baseGear s d
  | l => l.foldl (fun m b => max m (standingAt s b f)) 4

/-- GF of a gear and CF of a P-state. -/
def gfOf (s : Mach) (g : Nat) : Nat := rf s .PWR_VTAB 0 (g - 4) 42 32
def cfOf (s : Mach) (p : Nat) : Nat := s.fuses.cf.getD p 0

/-- Dynamic power of the dies with the gear it was taken at, and of the clusters with their P-states. -/
def dieTerms (s : Mach) : List (Nat × Nat) := allDies.map (fun d => s.pwr.dynDie.getD d (0, 4))
def clTerms (s : Mach) : List (Nat × Nat) :=
  allClusters.map (fun c => (s.pwr.dynCl.getD c 0, (vget Clu.zero s.clus c).pst))

/-- A common denominator of the factors of R508. -/
def estDen (s : Mach) : Nat :=
  (dieTerms s).foldl (fun n x => n * max 1 (gfOf s x.2)) ((clTerms s).foldl (fun n x => n * max 1 (cfOf s x.2)) 1)

/-- est(G, K) of R508 times the denominator. -/
def estOf (s : Mach) (den : Nat) (g k : List Nat) : Int :=
  let ds := (dieTerms s).zip g
  let cs := (clTerms s).zip k
  let e0 : Int := (s.pwr.est * den : Nat)
  let e1 := ds.foldl (fun (n : Int) x =>
    n + (x.1.1 * 4096 * (den / max 1 (gfOf s x.1.2)) : Nat) * ((gfOf s x.2 : Int) - gfOf s x.1.2)) e0
  cs.foldl (fun (n : Int) x =>
    n + (x.1.1 * 4096 * (den / max 1 (cfOf s x.1.2)) : Nat) * ((cfOf s (max x.1.2 x.2) : Int) - cfOf s x.1.2)) e1

/-- The last index of the greatest value among those that a test admits. -/
def lastMax (l : List Nat) (ok : Nat → Nat → Bool) : Option Nat :=
  (l.zipIdx.foldl (fun (acc : Option (Nat × Nat)) x =>
    if ok x.1 x.2 then
      (match acc with
       | some (v, _) => if v ≤ x.1 then some x else acc
       | none => some x)
    else acc) none).map Prod.snd

/-- One step of the loop of R508: a gear lowered, a cap raised, or nothing left. -/
def lowerStep (s : Mach) (g k : List Nat) : Option (List Nat × List Nat) :=
  match lastMax g (fun v d => decide (4 < v) && !inEmerg s d) with
  | some d => some (g.set d (g.getD d 5 - 1), k)
  | none =>
    match lastMax (k.map (fun v => 5 - v)) (fun v _ => decide (0 < v)) with
    | some c => some (g, k.set c (k.getD c 0 + 1))
    | none => none

/-- The loop of R508. -/
def selectLoop (s : Mach) (den lim : Nat) : (fuel : Nat) → List Nat → List Nat → List Nat × List Nat
  | 0, g, k => (g, k)
  | fuel + 1, g, k =>
    if estOf s den g k ≤ (lim * den : Nat) then (g, k)
    else match lowerStep s g k with
      | some (g, k) => selectLoop s den lim fuel g k
      | none => (g, k)

/-- The smallest f of 0 to 7 whose fallow frames meet the limit (R508). -/
def fallowNeed (s : Mach) (den lim : Nat) (g k : List Nat) : Option Nat :=
  let e := estOf s den g k
  let save := (dieTerms s).foldl (fun n x => n + x.1 * 4096 * gfOf s 4 * (den / max 1 (gfOf s x.2))) 0
  (List.range 8).find? (fun f => decide (8 * e - ((f * save : Nat) : Int) ≤ (8 * lim * den : Nat)))

/-- A reading of a sensor: CUR, and MAX where it is hotter. -/
def readSensor (s : Mach) (n : RegName) (i : Nat) (t : Int) : Mach :=
  let s := wf s n 0 i 15 0 (ofSigned 16 t)
  if sext 16 (rf s n 0 i 47 32) < t then wf s n 0 i 47 32 (ofSigned 16 t) else s

/-- Valid die IDs (R22). -/
def dieIds : List Nat := [0, 1, 2, 3, 4, 5, 6, 0x11, 0x12, 0x13, 0x14, 0x15, 0x16]

/-- Whether a reading reaches a threshold in degrees. -/
def hotAt (t : Option Int) (c : Nat) : Bool := match t with | some t => decide ((4 * c : Int) ≤ t) | none => false

/-- The thermal caps after a reading (R522): which dies are hot, and the state with TCAP and TPC moved. -/
def thermalUpdate (s : Mach) (t : TempReport) : List Nat × Mach :=
  let th := rf s .PWR_CFG 0 0 55 48
  let hy := rf s .PWR_CFG 0 0 39 36
  let sc := rf s .PWR_CFG 0 0 47 40
  let half (h : Nat) : Bool :=
    (List.range 4).any (fun b => decide (halfOf (barnDieId b) = h) && hotAt (t.die[barnDieId b]?) th)
    || (List.range 12).any (fun k => decide (halfOf (barnDieId (k / 3)) = h) && hotAt (t.stack[k]?) sc)
  let cool (x : Option Int) : Bool := !hotAt x (th - hy)
  let hot := allDies.filter (fun d => hotAt (t.die[compDieId d]?) th || half (halfOf (compDieId d)))
  let s := foldS allDies (fun u d =>
    let g := gearOf u d
    if hot.contains d then
      let u := wf u .PWR_LSTAT d 0 18 14 (max 4 (g - 1))
      if 4 < g then thermRecord (pwrEvent u 4 (some d)) (compDieId d) 1 else u
    else if cool (t.die[compDieId d]?) then wf u .PWR_LSTAT d 0 18 14 (min 16 (tcap u d + 1))
    else u) s
  let s := foldS allClusters (fun u c =>
    let x := t.cluster[c]?
    let p := (vget Clu.zero u.clus c).pst
    let old := u.pwr.tpc.getD c 0
    if hotAt x th then
      let u := modPwr u (fun w => { w with tpc := w.tpc.set c (min 5 (p + 1)) })
      if p < 5 then thermRecord (pwrEvent u 4 none) (coreDieId (c / 6)) 1 else u
    else if cool x then modPwr u (fun w => { w with tpc := w.tpc.set c (old - 1) })
    else u) s
  (hot, s)

/-- GEAR_SELECTION: at beat 0 of a frame the sensors are read, the thermal caps move, and the gears, cluster caps and, for
the next group of eight frames, the fallow count are chosen (R508, R509, R521, R522). -/
def gearSelection (s : Mach) (t : TempReport) : Mach :=
  if powerOn s = false then s
  else
    let s := atFrame s s.pwr.selAt
    let f := frameNo s
    let s := foldS dieIds (fun u d => readSensor u .PWR_TEMP d (t.die.getD d 0)) s
    let s := foldS (List.range 12) (fun u k => readSensor u .PWR_STEMP k (t.stack.getD k 0)) s
    let (hot, s) := thermalUpdate s t
    let low := hot.any (fun d => decide (gearOf s d ≤ 4))
    let s := modPwr s (fun p => { p with hot := p.hot || low, selAt := some f })
    let lim := limitL s (f + 1)
    let den := estDen s
    let w := allDies.map (fun d => wanted s d (f + 1))
    let g0 := allDies.map (fun d => if inEmerg s d then gearOf s d else min (w.getD d 4) (tcap s d))
    let gk := selectLoop s den lim 140 g0 s.pwr.tpc
    let s := foldS allDies (fun u d =>
      wf (wf u .PWR_LSTAT d 0 9 5 (w.getD d 4)) .PWR_LSTAT d 0 23 19 (gk.1.getD d 4)) s
    let s := wf s .PWR_EST 0 0 63 48 (sat 16 (lim / wattFrame))
    let s := modPwr s (fun p => { p with kNext := gk.2 })
    let meets := decide (estOf s den gk.1 gk.2 ≤ (lim * den : Nat))
    if f % 8 = 7 then
      let need := fallowNeed s den lim gk.1 gk.2
      let ft := rf s .PWR_STATUS 0 0 2 0
      let rise := s.pwr.hot && decide (ft < 7)
      let ft' := if s.pwr.hot then min 7 (ft + 1) else if hot = [] then ft - 1 else ft
      let s := if rise then pwrEvent s 7 none else s
      let s := if need.isNone ∧ rb s .PWR_STATUS 0 0 14 = false then pwrEvent s 0 none else s
      let s := wb s .PWR_STATUS 0 0 14 need.isNone
      let s := wf (wf s .PWR_STATUS 0 0 6 4 (need.getD 7)) .PWR_STATUS 0 0 2 0 ft'
      modPwr s (fun p => { p with hot := false, fNext := max (need.getD 7) ft' })
    else if meets then wb s .PWR_STATUS 0 0 14 false
    else s

def execGearSelection (t : TempReport) (s : State) : Host.Outcome State Fault Refusal :=
  guarded t.wf s (fun s => gearSelection s t)

/-! ### Requests (R500, R502) and voltages (R499) -/

/-- The decision of one pending request at beat 256 of the frame before its boundary. -/
def decideReq (s : Mach) (r : GearReq) (f : Nat) : Mach :=
  let d := dieOf r.bay
  let late := decide (f * 65536 ≤ r.posted)
  let emerg := inEmerg s d
  let tenant := changesTenant s r.bay r.bnd
  let granted := !late && !emerg && !tenant && decide (r.gear ≤ nextGear s d)
  let hi := if late then 31 else if emerg ∨ tenant then 15 else if granted then 63 else 47
  let s := gearToken (bump s .PWR_LGRANT d 0 hi (hi - 15) 1) r (gearTokenDue s r.bay) granted
  let gone := !late && !emerg && tenant
  modPwr s (fun p =>
    { p with gearReqs := (p.gearReqs.filter (fun x => !(decide (x = r) && gone))).map (fun x =>
        if x = r then { x with decided := true } else x) })

/-- GEAR_REQUEST_DECISION: at beat 256 the pending requests for the next boundary are decided, and the voltages of rising
gears are commanded (R499, R502). -/
def gearRequestDecision (s : Mach) : Mach :=
  if powerOn s = false then s
  else
    let s := if s.pwr.decAt = some (frameNo s) then advanceTo s (nextFrameTick s) else s
    let f := frameNo s
    let s := advanceTo s (tickOf s (f * 65536 + 256 * 16))
    let s := foldS (s.pwr.gearReqs.filter (fun r => !r.decided && decide (r.bnd = f + 1))) (fun t r => decideReq t r f) s
    let s := foldS allDies (fun t d =>
      if inEmerg t d = false ∧ gearOf t d < nextGear t d then setVolt t d (nextGear t d) else t) s
    modPwr s (fun p => { p with decAt := some f })

def execGearRequestDecision (s : State) : Host.Outcome State Fault Refusal := onMach s (fun s => gearRequestDecision s)

/-! ### The furrow clocks (R62 to R65, R512 to R515) -/

/-- A change of a die's clock. In a fallow frame whose effects have been applied, what its bays do next moves with the end
of the frame (R510). -/
def reclock (s : Mach) (d : Nat) (f : DieClk → DieClk) : Mach :=
  let c := getClk s d
  let s := modClk s d f
  if s.pwr.fallowAt = some (frameNo s) then
    let t := frameTick s (frameNo s + 1)
    let k := edgeAfter c t
    let n : Int := (edgeAfter (f c) t : Int) - k
    foldS (dieBays d) (fun u b => shiftUnits (shiftSlots u b k n) b k n) s
  else s

/-- Suppressed edges that have passed are counted (R512). -/
def countDropped (s : Mach) (d : Nat) (all : Bool) : Mach :=
  let c := getClk s d
  let n := (if all then c.supp else min c.supp ((s.now - c.epoch) / period c)) - c.dropped
  if n = 0 then s
  else
    let s := bump (modClk s d (fun c => { c with dropped := c.dropped + n, frameSupp := c.frameSupp + n })) .PWR_LDROOP d 0 63 32 n
    foldS ((dieBays d).filter (bayPresent s)) (fun t b => countEv t b 0x18 n) s

/-- DROOP and EMERG slip of the frame just ended (R127), once at its boundary. -/
def frameSlip (s : Mach) (d : Nat) : Mach :=
  let s := countDropped s d false
  let c := getClk s d
  let made := edgeNo c s.now - c.frame0
  let lost := if c.div ≠ 0 ∧ made ≠ 0 then c.gear * 4096 - (made + c.frameSupp) else 0
  let bs := (dieBays d).filter (bayPresent s)
  let s := if s.pwr.fallowAt = some (frameNo s - 1) then s
    else foldS bs (fun t b => slipEvent (slipEvent t b 7 5 lost) b 7 6 c.frameSupp) s
  modClk s d (fun c => { c with frameSupp := 0, frame0 := edgeNo c s.now })

/-- A die runs at a gear from a frame boundary on (R64): edge 0 of the new gear is the boundary. -/
def runGear (s : Mach) (d g : Nat) : Mach :=
  let t := s.now
  let s := modClk s d (fun c =>
    let left := c.supp - (t - c.epoch) / period c
    let p := 16 * acyc / max 1 g
    if left = 0 then { c with epoch := t, edges0 := edgeAfter c t, gear := g, div := 0, supp := 0, dropped := 0 }
    else { c with epoch := t - p, edges0 := edgeNo c t, gear := g, div := 0, supp := left, dropped := 0 })
  let s := wf (wf s .PWR_LSTAT d 0 4 0 g) .PWR_LSTAT d 0 27 25 0
  wf s .ALM_LSTAT d 0 4 0 g

/-- Standing requests of a boundary: the latest posted request for it becomes standing (R500). -/
def takeStanding (s : Mach) (f : Nat) : Mach :=
  let due := s.pwr.gearReqs.filter (fun r => r.decided && decide (r.bnd ≤ f))
  let s := foldS due (fun t r => setStanding t r.bay r.gear) s
  modPwr s (fun p => { p with gearReqs := p.gearReqs.filter (fun r => !(r.decided && decide (r.bnd ≤ f))) })

/-- GEAR_CHANGE: at a frame boundary the gears, caps, voltages and the fallow count of a new group take effect, and standing
requests update (R64, R498 to R500, R509). -/
def gearChange (s : Mach) : Mach :=
  if powerOn s = false then s
  else
    let s := atFrame s s.pwr.chgAt
    let f := frameNo s
    let s := foldS allDies frameSlip s
    let s := foldS allDies (fun t d =>
      if inEmerg t d then t
      else
        let t := if nextGear t d ≠ gearOf t d then runGear t d (nextGear t d) else t
        setVolt t d (gearOf t d)) s
    let s := takeStanding s f
    let s := if f % 8 = 0 then wf s .PWR_STATUS 0 0 10 8 s.pwr.fNext else s
    let s := if rb s .PWR_STATUS 0 0 13 then s else setCaps s s.pwr.kNext
    refreshEff (modPwr s (fun p => { p with chgAt := some f }))

def execGearChange (s : State) : Host.Outcome State Fault Refusal := onMach s (fun s => gearChange s)

/-- FALLOW_FRAME: the current frame, or the next if this one's effects stand already, is fallow: none of its FCLK reach the
bays, every TB rises by 65,536, and slice ends move one frame later (R90, R510). -/
def fallowFrame (s : Mach) : Mach :=
  if s.alm.running = false then s
  else
    let s := if frameFallow s (frameNo s) ∧ s.pwr.fallowAt ≠ some (frameNo s) then s else advanceTo s (nextFrameTick s)
    let f := frameNo s
    if frameFallow s f = false then s
    else
      let s := foldS allBays (fun t b => fallowBay t b (edgeAfter (clkOf t b) (frameTick t f)) (frameEdges t (dieOf b))) s
      let s := foldS (List.range 16) (fun t p =>
        modRota t p (fun r => if r.inSlice && !partHalted t p then { r with entryEnd := r.entryEnd + 1, endFrame := r.endFrame + 1 } else r)) s
      modPwr s (fun p => { p with fallowAt := some f })

def execFallowFrame (s : State) : Host.Outcome State Fault Refusal := onMach s (fun s => fallowFrame s)

/-- DROOP_TRIP (R512): from the second edge after the trip edges are suppressed, at most 64 of them. -/
def droopTrip (s : Mach) (d : Nat) : Mach :=
  let c := getClk s d
  if c.droop ∨ c.stopped then s
  else
    let j := (s.now - c.epoch) / period c
    let s := bump s .PWR_LDROOP d 0 31 16 1
    let s := countDropped s d true
    reclock s d (fun c =>
      if c.supp ≤ j then
        { c with epoch := c.epoch + (j + 1) * period c, edges0 := c.edges0 + (j + 1 - c.supp), supp := 64, dropped := 0, droop := true }
      else { c with supp := max c.supp (j + 65), droop := true })

def execDroopTrip (d : CompDie) (s : State) : Host.Outcome State Fault Refusal := onMach s (fun s => droopTrip s d)

/-- DROOP_CLEAR (R512): the fourth edge after the clear is the last suppressed. -/
def droopClear (s : Mach) (d : Nat) : Mach :=
  let c := getClk s d
  if c.droop = false then s
  else
    let j := if s.now < c.epoch then 4 - min 4 (ceilDiv (c.epoch - s.now) (period c)) else (s.now - c.epoch) / period c + 4
    countDropped (reclock s d (fun c => { c with supp := min c.supp j, droop := false })) d true

def execDroopClear (d : CompDie) (s : State) : Host.Outcome State Fault Refusal := onMach s (fun s => droopClear s d)

/-- EMERGENCY_DIVISION (R65, R514): a die above gear 4 divides its furrow clock by ceil(g/4) from its next edge on; a die at
gear 4 is not divided. -/
def divide (s : Mach) (d : Nat) : Mach :=
  let c := getClk s d
  let s := wb s .PWR_LSTAT d 0 24 true
  if c.stopped ∨ c.div ≠ 0 ∨ c.gear ≤ 4 then s
  else
    let k := ceilDiv c.gear 4
    let s := countDropped s d true
    let e := edgeAfter c s.now
    let s := reclock s d (fun c => { c with epoch := edgeTick c e, edges0 := e, div := k, supp := 0, dropped := 0 })
    let s := wf s .PWR_LSTAT d 0 27 25 k
    bump (wb (wb s .ALM_LSTAT d 0 5 false) .ALM_LSTAT d 0 6 true) .ALM_LSTAT d 0 31 16 1

/-- DROOP_ESC (R513): a die that has suppressed more than DROOP_ESC edges in a frame enters emergency division alone; the
frames of R515 count from the escalation. -/
def droopEsc (s : Mach) (d : Nat) : Mach :=
  let s := countDropped s d false
  let n := rf s .PWR_LCFG d 0 31 16
  if n ≠ 0 ∧ n < (getClk s d).frameSupp ∧ inEmerg s d = false then
    let s := pwrEvent (bump (divide s d) .PWR_LDROOP d 0 15 0 1) 3 (some d)
    modPwr s (fun p => { p with emerg := smapPut none p.emerg d (some s.now) })
  else s

def execDroopEsc (d : CompDie) (s : State) : Host.Outcome State Fault Refusal := onMach s (fun s => droopEsc s d)

/-- PWR_ALERT (R514): PWR_ALERT_N falls now. After 16 ACYC low and 112 ACYC on the alarm line every compute die divides, every
cluster is capped at P5, and then the regulators are commanded to gear-4 voltage. -/
def pwrAlert (s : Mach) : Mach :=
  if s.pins.alertN = false then s
  else
    let s := { s with pins := { s.pins with alertN := false } }
    let s := pwrEvent (wb (advanceTo s (s.now + 16 * acyc)) .PWR_STATUS 0 0 13 true) 2 none
    let s := advanceTo s (s.now + 112 * acyc)
    let s := setCaps (foldS allDies divide s) (List.replicate 12 5)
    modPwr (foldS allDies (fun t d => setVolt t d 4) s) (fun p => { p with emerg := [] })

def execPwrAlert (s : State) : Host.Outcome State Fault Refusal := onMach s (fun s => pwrAlert s)

/-- A die leaves emergency division at a frame boundary and runs at gear 4 (R65, R515). -/
def reenter (s : Mach) (d : Nat) : Mach :=
  let s := runGear (frameSlip s d) d 4
  let s := wf (wb s .PWR_LSTAT d 0 24 false) .PWR_LSTAT d 0 23 19 4
  let s := setVolt s d 4
  modPwr (wb (wb s .ALM_LSTAT d 0 5 true) .ALM_LSTAT d 0 6 false) (fun p => { p with emerg := smapPut none p.emerg d none })

/-- The frame boundary that ends the ALERT_CLR whole frames which begin at or after a tick (R515). -/
def clearFrame (s : Mach) (t : Nat) : Nat := ceilDiv (countAt s t * acyc + (if tickOf s (countAt s t) < t then 1 else 0)) (65536 * acyc) + max 1 (rf s .PWR_CFG 0 0 63 56)

/-- ALERT_CLEAR (R515): PWR_ALERT_N rose `dt16`/16 ACYC before now and stays high; at the end of ALERT_CLR whole frames, or at
the next boundary if that has passed, every die in emergency division re-enters gear 4. With the pin high already, the dies of
a droop escalation re-enter. -/
def alertClear (s : Mach) (dt16 : Nat) : Mach :=
  if s.alm.running = false then s
  else if s.pins.alertN = false then
    let f := clearFrame s (s.now - dt16 * acyc / 16)
    let s := { s with pins := { s.pins with alertN := true } }
    let s := if frameTick s f < s.now then toFrameBoundary s else advanceTo s (frameTick s f)
    wb (foldS (allDies.filter (inEmerg s)) reenter s) .PWR_STATUS 0 0 13 false
  else
    let due := allDies.filterMap (fun d => (smapGet none s.pwr.emerg d).map (fun t => (d, clearFrame s t)))
    match due with
    | [] => s
    | x :: l =>
      let f := l.foldl (fun m y => min m y.2) x.2
      let s := if frameTick s f < s.now then toFrameBoundary s else advanceTo s (frameTick s f)
      foldS (due.filter (fun y => decide (y.2 ≤ frameNo s))) (fun t y => reenter t y.1) s

def execAlertClear (dt16 : Nat) (s : State) : Host.Outcome State Fault Refusal := onMach s (fun s => alertClear s dt16)

/-! ### Reconciliation (R520) -/

/-- RECONCILE: every 25 frames the residual of the measured energy, in nJ, is shared among the partitions and RATIO is set.
Where the model's energy is 0 the spec states no RATIO: it is a free value. -/
def reconcile (s : Mach) (meas : Option Nat) : Mach :=
  if powerOn s = false then s
  else
    let s := advanceTo s (frameTick s (s.pwr.periodFrom + 25))
    let per := s.pwr.period
    let mod_ := per.foldl (fun n x => n + x.2) 0
    let s := modPwr s (fun p => { p with period := [], periodFrom := p.periodFrom + 25 })
    let s := wf s .PWR_RECON 0 0 31 0 (sat 32 (mod_ / (4096 * 10 ^ 12)))
    match meas with
    | none => pwrEvent (wb s .PWR_STATUS 0 0 12 false) 6 none
    | some m =>
      let e : Nat := m * 4096 * 10 ^ 6
      let s := wf (wb s .PWR_STATUS 0 0 12 true) .PWR_RECON 0 0 63 32 (sat 32 (m / 10 ^ 6))
      let res : Int := (e : Int) - mod_
      let share (p : Nat) : Int := if mod_ = 0 then 0 else Int.tdiv (res * smapGet 0 per p) mod_
      let give (t : Mach) (o : Nat) (x : Int) : Mach :=
        modPwr t (fun p => { p with energy := smapPut 0 p.energy o (smapGet 0 p.energy o + x) })
      let s := foldS (List.range 16) (fun t p => give t (ownPart p) (share p)) s
      let s := give s ownPkg (res - (List.range 16).foldl (fun n p => n + share p) 0)
      let q := e * 4096 / max 1 mod_
      if mod_ = 0 ∨ 65535 < q then
        let (w, s) := drawWord s
        wf s .PWR_EST 0 0 15 0 (w.toNat % 65536)
      else wf s .PWR_EST 0 0 15 0 q

def execReconcile (meas : Option Nat) (s : State) : Host.Outcome State Fault Refusal := onMach s (fun s => reconcile s meas)

/-! ### The thermal trip (R523) -/

/-- THERMAL_TRIP: THERMTRIP_N is driven low and every clock of the package stops. -/
def thermalTrip (s : Mach) (die : Nat) : Mach :=
  if s.pins.pwrok = false ∨ s.pins.thermtripN = false then s
  else
    let s := thermRecord { s with pins := { s.pins with thermtripN := false } } die 3
    foldS allDies (fun t d => modClk t d (fun c => { c with stopped := true })) s

def execThermalTrip (die : Fin 32) (s : State) : Host.Outcome State Fault Refusal := onMach s (fun s => thermalTrip s die)

/-! ### Power groups (R516 to R518) -/

/-- PSHIFT (R518): the oldest message that has arrived is applied from its frame, or from the next frame after the decision
for it, for LEASE frames; one of another power group is dropped. -/
def pshift (s : Mach) : Mach :=
  match s.pwr.shiftIn with
  | [] => s
  | (g, q, f) :: l =>
    let s := modPwr s (fun p => { p with shiftIn := l })
    let own := rf s .PWR_GRP 0 0 63 56
    if own = 0 ∨ g ≠ own then pwrEvent (bump s .PWR_SHIFT 0 0 7 0 1) 5 none
    else
      let stop := f + max 1 (rf s .PWR_GRP 0 0 47 32)
      let lease : Lease := { recv := true, quanta := q, start := if f ≤ frameNo s + 1 then frameNo s + 2 else f, stop := stop }
      refreshEff (modPwr (bump s .PWR_SHIFT 0 0 19 8 1) (fun p => { p with leases := p.leases ++ [lease] }))

def execPshift (s : State) : Host.Outcome State Fault Refusal := onMach s (fun s => pshift s)

/-- PSHIFT_SEND (R517): at beat 0 the reports of the last frame that name another node are considered, and one PSHIFT may be
sent to the node of the most critical. -/
def pshiftSend (s : Mach) : Mach :=
  if powerOn s = false then s
  else
    let s := if s.pwr.lastShift = some (frameNo s) then advanceTo s (nextFrameTick s) else s
    let n := frameNo s
    let g := rg s .PWR_GRP 0 0
    let mine := s.pwr.reports.filter (fun r => decide (r.frame + 1 = n))
    let cons := mine.filter (fun r => tokRem r.crit && decide (tokNode r.crit ≠ s.route.nodeId))
    let s := modPwr s (fun p => { p with reports := p.reports.filter (fun r => decide (n ≤ r.frame)) })
    match cons with
    | [] => s
    | r0 :: l =>
      let r := l.foldl (fun m r => if r.slack < m.slack then r else m) r0
      let q := fld g 55 48
      let since := match s.pwr.lastShift with | some f => decide (f + max 1 (fld g 31 24) ≤ n) | none => true
      if fld g 63 56 ≠ 0 ∧ r.slack < (16 * fld g 11 0 : Nat) ∧ cons.all (fun r => decide (16 * fld g 23 12 ≤ r.wait)) = true ∧ since = true ∧
          rf s .PWR_PPL 0 0 35 24 + 5 * q ≤ pplEff s n then
        let body := fld g 63 56 * 2 ^ 56 + q * 2 ^ 48 + (n + 2) % 2 ^ 48
        let s := sendExpress s 0 s.now (tokNode r.crit)
          { mtype := 3, pois := false, n := 0, stamp := 0, dest := r.crit, xf := 0, body := body }
        let s := bump s .PWR_SHIFT 0 0 31 20 1
        let lease : Lease := { recv := false, quanta := q, start := n + 2, stop := n + 2 + max 1 (fld g 47 32) }
        modPwr s (fun p => { p with lastShift := some n, leases := p.leases ++ [lease] })
      else s

def execPshiftSend (s : State) : Host.Outcome State Fault Refusal := onMach s (fun s => pshiftSend s)

/-- LEASE_END (R518): at FRAME + LEASE the quanta of the leases that end first return. -/
def leaseEnd (s : Mach) : Mach :=
  match s.pwr.leases with
  | [] => s
  | x :: l =>
    let f := l.foldl (fun m y => min m y.stop) x.stop
    let s := advanceTo s (frameTick s f)
    refreshEff (modPwr s (fun p => { p with leases := p.leases.filter (fun y => decide (frameNo s < y.stop)) }))

def execLeaseEnd (s : State) : Host.Outcome State Fault Refusal := onMach s (fun s => leaseEnd s)

/-! ### Start and register writes (R498, R503, R525 to R527) -/

/-- The controller starts at the first frame boundary after the cores' release (R525). -/
def startPower (s : Mach) : Mach :=
  let s := foldS allBays (fun t b => if bayPresent t b then setStanding t b (baseGear t (dieOf b)) else t) s
  let s := foldS allDies (fun t d => wf t .PWR_LSTAT d 0 18 14 16) s
  refreshEff (modPwr s (fun p =>
    { p with started := true, level := 0, leases := [], tpc := List.replicate 12 0, kNext := List.replicate 12 0, fNext := 0,
             periodFrom := frameNo s, period := [] }))

/-- The effect of a write of PWR_PPL: a PPL_W outside FLOOR_W to CEIL_W is ignored. -/
def onPpl (s : Mach) (v : Word) : Mach :=
  let w := fld v 11 0
  if rf s .PWR_PPL 0 0 35 24 ≤ w ∧ w ≤ rf s .PWR_PPL 0 0 47 36 then refreshEff (wf s .PWR_PPL 0 0 11 0 w) else s

/-- The effect of a write of PWR_SURGE. -/
def onSurge (s : Mach) (v : Word) : Mach := if fld v 15 0 ≤ 24000 then wf s .PWR_SURGE 0 0 15 0 (fld v 15 0) else s

/-- A field written when its value passes a check. -/
def wfIf (s : Mach) (n : RegName) (u i hi lo : Nat) (v : Word) (ok : Nat → Bool) : Mach :=
  if ok (fld v hi lo) then wf s n u i hi lo (fld v hi lo) else s

/-- The effect of a write of PWR_CFG: out-of-range thresholds and a lower AGE are ignored. -/
def onPwrCfg (s : Mach) (v : Word) : Mach :=
  let s := wf (wf s .PWR_CFG 0 0 63 56 (fld v 63 56)) .PWR_CFG 0 0 12 0 (fld v 12 0)
  let s := wfIf s .PWR_CFG 0 0 55 48 v (fun x => decide (70 ≤ x) && decide (x ≤ 105))
  let s := wfIf s .PWR_CFG 0 0 47 40 v (fun x => decide (70 ≤ x) && decide (x ≤ 105))
  let s := wfIf s .PWR_CFG 0 0 39 36 v (fun x => decide (1 ≤ x))
  wfIf s .PWR_CFG 0 0 35 32 v (fun x => decide (rf s .PWR_CFG 0 0 35 32 ≤ x))

/-- The effect of a write of PWR_GRP: QUANTA 0 is ignored. -/
def onPwrGrp (s : Mach) (v : Word) : Mach :=
  wfIf (wf s .PWR_GRP 0 0 47 0 (fld v 47 0)) .PWR_GRP 0 0 55 48 v (fun x => decide (x ≠ 0))

/-- The effect of a write of PWR_LCFG: BASE outside 4 to 16 is ignored. -/
def onLcfg (s : Mach) (d : Nat) (v : Word) : Mach :=
  wfIf (wf s .PWR_LCFG d 0 31 8 (fld v 31 8)) .PWR_LCFG d 0 4 0 v (fun x => decide (4 ≤ x) && decide (x ≤ 16))

end Sys2Proof.Machine
end

