-- ==== Sys2Proof/Machine/Faults.lean ====
section
/-! DEFINITION. Fault records on their way to the log, coalescing, repair of shared weights, and the bell path (R528 to R541,
R544 to R550). -/

namespace Sys2Proof.Machine

open Sys2Proof.Config (acyc)

/-! ### The log and the rings (R538, R639) -/

/-- Records in the log. -/
def logLen (s : Mach) : Nat := (rf s .FLT_LOGCTL 0 0 24 16 + 512 - rf s .FLT_LOGCTL 0 0 8 0) % 512

/-- A copy of a record sent to the ring that a register names; it waits there at most one frame. -/
def ringCopy (s : Mach) (reg : Word) (w : BitVec 256) : Mach :=
  if bit reg 63 then sendItem s (fld reg 11 0) 5 (BitVec.ofNat 512 w.toNat) (some (s.now + 65536 * acyc)) else s

/-- The partitions that hold any right on the granule of a main-memory address: its owner and its readers (R463, R534). -/
def granuleParts (s : Mach) (a : Nat) : List Nat :=
  let e := granuleOf s a
  if bit e 63 then (List.range 16).filter (fun p => decide (fld e 51 48 = p) || (fld e 31 16).testBit p) else []

/-- A record that the hub does not suppress takes the next number and enters the log, or is counted as lost; its copies go to
the rings. The copies of a REPAIR record name each partition with a right on the line's granule (R534). -/
def logRecord (s : Mach) (r : FltRec) : Mach :=
  let seq := s.flt.seqNo
  let room := decide (logLen s < 256)
  let lost := if room then s.flt.lostSince else 0
  let s :=
    if room then
      let h := rf s .FLT_LOGCTL 0 0 24 16
      let s := foldS (List.range 4) (fun t k => wr t .FLT_LOG 0 (4 * (h % 256) + k) (r.word seq lost k)) s
      wf s .FLT_LOGCTL 0 0 24 16 ((h + 1) % 512)
    else bump s .FLT_LOST 0 0 63 32 1
  let s := modFlt s (fun f =>
    { f with seqNo := (seq + 1) % 65536, lostSince := if room then 0 else sat 16 (f.lostSince + 1) })
  let s := ringCopy s (rg s .FLT_SYSRING 0 0) (r.bits seq lost)
  if r.cls = 5 then
    foldS (granuleParts s r.addr) (fun t p => ringCopy t (rg t .FLT_PRING 0 p) ((r.forPart (some p) 0).bits seq lost)) s
  else if r.pidv then ringCopy s (rg s .FLT_PRING 0 r.pid) (r.bits seq lost)
  else s

/-! ### Collectors (R539, R540) -/

/-- STORM_N, of which 0 means 1. -/
def stormN (s : Mach) : Nat := max 1 (rf s .FLT_CFG 0 0 55 48)

/-- Frames of a coalescing window. -/
def winLen (s : Mach) : Nat := 2 ^ rf s .FLT_CFG 0 0 63 56

def sameKey (r : FltRec) (k : FltKey) : Bool := decide (k.first.cls = r.cls) && decide (k.first.region = r.region)

/-- `n` more records of a key. -/
def addKey (l : List FltKey) (r : FltRec) (n : Nat) : List FltKey :=
  l.map (fun k => if sameKey r k then { k with count := sat 16 (k.count + n) } else k)

/-- Whether the count of a record's key has reached STORM_N. -/
def stormy (s : Mach) (l : List FltKey) (r : FltRec) : Bool := l.any (fun k => sameKey r k && decide (stormN s ≤ k.count))

/-- The keys of a die collector. -/
def dieKeysOf (s : Mach) (d : Nat) : List FltKey := smapGet [] s.flt.dieKeys d

/-- With no key held, the window is the one that a frame lies in. -/
def openWindow (s : Mach) : Mach :=
  if s.flt.hubKeys.isEmpty ∧ s.flt.dieKeys.isEmpty then
    modFlt s (fun f => { f with winFrom := frameNo s / winLen s * winLen s })
  else s

/-- The hub takes a record: the first of its key is logged, a later one is counted. -/
def hubTake (s : Mach) (r : FltRec) : Mach :=
  let s := bumpAo s 0 1 1
  if s.flt.hubKeys.any (sameKey r) then
    let s := modFlt s (fun f => { f with hubKeys := addKey f.hubKeys r 1 })
    if stormy s s.flt.hubKeys r then wb s .FLT_STATUS 0 0 0 true else s
  else
    let s := if s.flt.hubKeys.length < 256 then modFlt s (fun f => { f with hubKeys := f.hubKeys ++ [{ first := r, count := 0 }] }) else s
    logRecord s r

/-- The hub takes the summary of a die: its COUNT is added to its key; without a key it is logged as it stands. -/
def hubSummary (s : Mach) (r : FltRec) : Mach :=
  let s := bumpAo s 0 1 1
  if s.flt.hubKeys.any (sameKey r) then
    let s := modFlt s (fun f => { f with hubKeys := addKey f.hubKeys r r.count })
    if stormy s s.flt.hubKeys r then wb s .FLT_STATUS 0 0 0 true else s
  else
    let s := logRecord s r
    if stormN s ≤ r.count then wb s .FLT_STATUS 0 0 0 true else s

/-- A die collector takes a record: it forwards the first of its key, and every one that finds its key table full. -/
def dieTake (s : Mach) (r : FltRec) : Mach :=
  let l := dieKeysOf s r.die
  if l.any (sameKey r) then
    let l := addKey l r 1
    let s := modFlt s (fun f => { f with dieKeys := smapPut [] f.dieKeys r.die l })
    if stormy s l r ∧ 4 ≤ r.die % 16 then wb s .FLT_DSTATUS (compOrd r.die) 0 0 true else s
  else
    let s := if l.length < 64 then modFlt s (fun f => { f with dieKeys := smapPut [] f.dieKeys r.die (l ++ [{ first := r, count := 0 }]) }) else s
    hubTake s r

/-- A record passed on (R538): the hub's own units, and what the hub reports of a die (R546, R547), have no die collector. -/
def collect (s : Mach) (r : FltRec) : Mach :=
  let s := openWindow s
  if r.die = 0 ∨ r.cls = 0x13 then hubTake s r else dieTake s r

/-- The oldest record raised is passed on. -/
def collectNext (s : Mach) : Mach :=
  match s.flt.wire with
  | [] => s
  | r :: l => collect (modFlt s (fun f => { f with wire := l })) r

/-- A die or hub summary. -/
def FltKey.summary (k : FltKey) : FltRec := { k.first with storm := true, count := k.count }

/-- WINDOW_END_SUMMARY: at the end of a coalescing window the die collectors send their summaries, the hub adds them and writes
its own, and the keys are freed. -/
def windowEndSummary (s : Mach) : Mach :=
  if s.alm.running = false then s
  else
    let n := winLen s
    let s := advanceTo s (frameTick s ((s.flt.winFrom / n + 1) * n))
    let dies := s.flt.dieKeys.flatMap (fun x => x.2)
    let s := foldS (dies.filter (fun k => decide (k.count ≠ 0))) (fun t k => hubSummary t k.summary) s
    let s := foldS (s.flt.hubKeys.filter (fun k => decide (k.count ≠ 0))) (fun t k => logRecord t k.summary) s
    modFlt s (fun f => { f with dieKeys := [], hubKeys := [], winFrom := frameNo s / n * n })

def execWindowEndSummary (s : State) : Host.Outcome State Fault Refusal := onMach s (fun s => windowEndSummary s)

/-! ### Hardware events that have no step of their own (R347, R350, R528, R529) -/

/-- The register of an entry of a hub table; without its bit [63] every access that it would grant is refused. -/
def hubEntry (s : Mach) : HubEntry → Mach
  | .ggran g => wb s .PRT_GGRAN 0 g 63 false
  | .hgran g => wb s .PRT_HGRAN 0 g 63 false
  | .part p => wb s .PRT_PART_A 0 p 63 false
  | .ten t => wb s .PRT_TEN_A 0 t 63 false
  | .ring r => wb s .RNG_CFG r 0 63 false
  | .rota b n => wb s .SEQ_ROTA_A b n 63 false

/-- BLK of the block that holds a hub table. -/
def hubEntryBlk : HubEntry → Nat
  | .ring _ => 0x13
  | .rota _ _ => 6
  | _ => 0x12

/-- An event of a last-level cache (R369). -/
def llcErr (s : Mach) (d code way line : Nat) : Mach :=
  let s := recordFirst s .COH_LLCERR (4 + d) 0 (packFlds [(62, 60, code), (59, 56, way), (47, 6, line)])
  let r := mkRec s (if code = 1 then 2 else 0xA) code 0xA 0x7F (coreDieId d) (line * 64) (line * 64 / 2 ^ 16)
  raise s (if code = 1 then r.poisoned else r)

/-- The poison bit of a held line. -/
def poisonHeld (s : Mach) (k line : Nat) : Mach := putHeld s k line { getHeld s k line with pois := true }

/-- A saturating count of core.eccstat, by its lowest bit. -/
def bumpEcc (s : Mach) (c lo : Nat) : Mach :=
  modCore s c (fun x =>
    let v := smapGet 0 x.csr 0xFC0
    { x with csr := smapPut 0 x.csr 0xFC0 (setFld v (lo + 15) lo (sat 16 (fld v (lo + 15) lo + 1))) })

/-- A way of a last-level cache starts to be disabled by the cache itself (R350): at most 4 ways of a die, and never so that
fewer than 4 stay enabled. -/
def llcAuto (s : Mach) (d way : Nat) : Mach :=
  let v := rg s .COH_LLCWAY (4 + d) 0
  let gone := fld v 15 0 ||| fld v 31 16
  if gone.testBit way then s
  else if 4 ≤ ((List.range 16).filter (fun w =>
      bit v (32 + w) || (bit v (16 + w) && !smapGet false s.llcSoft (16 * d + w)))).length then llcErr s d 4 way 0
  else if 12 ≤ popcount 16 gone then s
  else wb s .COH_LLCWAY (4 + d) 0 (16 + way) true

/-- A corrected error of a way counts in its window; at THRESH the way is disabled (R350). -/
def llcCorrected (s : Mach) (d way : Nat) : Mach :=
  let s := bump s .COH_LLCECC (4 + d) 0 31 0 1
  let w := frameNo s / 2 ^ rf s .COH_LLCECC (4 + d) 0 39 32 + 1
  let s := if s.llcWin = w then s else { s with llcCe := [], llcWin := w }
  let n := smapGet 0 s.llcCe (16 * d + way) + 1
  let s := { s with llcCe := smapPut 0 s.llcCe (16 * d + way) n }
  if n = rf s .COH_LLCECC (4 + d) 0 47 40 then llcAuto s d way else s

/-- What a source of fault records does beside its record. -/
def sourceEvent (s : Mach) : FaultSource → Mach
  | .raised => s
  | .semLost b i =>
    let s := modSem s b (fun x => { x with count := smapPut 0 x.count i 0 })
    raiseBay s b (bayRec s b 8 0xF0 7 0 none)
  | .tokenLost b c =>
    let s := modChan s b c (fun x => { x with count := 0, debt := 0 })
    raiseBay s b (bayRec s b 7 0xF1 6 (tokAddr b c) none)
  | .ceRate die blk unit =>
    if rf s .FLT_CFG 0 0 47 40 = 0 then s
    else
      let (w, s) := drawWord s
      if 4 ≤ die.val % 16 ∧ unit.val < 12 ∧ validDie die = true then
        let b := 12 * compOrd die + unit
        raiseBay s b { bayRec s b 3 (w.toNat % 256) blk 0 none with region := die * 256 + unit }
      else raise s (mkRec s 3 (w.toNat % 256) blk unit die 0 (die * 256 + unit))
  | .hubTable e => raise (hubEntry s e) (mkRec s 0x10 0xF4 (hubEntryBlk e) 0x7F 0 0 0)
  | .loftCe b fetch => if fetch then bump s .LFT_ECC b 0 63 32 1 else bump s .LFT_ECC b 0 31 0 1
  | .coreCe c f => bumpEcc s c (16 + 16 * f.val)
  | .l2Ue c line => if holds s c line then bumpEcc (poisonHeld s c line) c 0 else s
  | .llcUe d way line =>
    if holds s (llcKey d) line then llcErr (poisonHeld s (llcKey d) line) d 1 way line else s
  | .llcCe d way => llcCorrected s d way
  | .ddrLine ch a ue =>
    match region s a with
    | .host o =>
      if hostChan s o ≠ ch then s
      else if ue then memUE s (a / 64 * 64)
      else bump s .DDR_ECC ch 0 63 32 1
    | _ => s

/-- FAULT_RECORD. -/
def faultRecord (s : Mach) (src : FaultSource) : Mach := collectNext (sourceEvent s src)

def execFaultRecord (src : FaultSource) (s : State) : Host.Outcome State Fault Refusal := onMach s (fun s => faultRecord s src)

/-- RING_COPY_TIMEOUT: a copy that has waited one frame for room in its ring is dropped (R538). -/
def ringCopyTimeout (s : Mach) : Mach :=
  match s.hwItems.findIdx? (fun x => x.waiting && x.until_.isSome) with
  | none => s
  | some i =>
    let t := match s.hwItems[i]? with | some x => x.until_.getD 0 | none => 0
    bump (advanceTo { s with hwItems := s.hwItems.eraseIdx i } t) .FLT_LOST 0 0 31 0 1

def execRingCopyTimeout (s : State) : Host.Outcome State Fault Refusal := onMach s (fun s => ringCopyTimeout s)

/-! ### Repair of shared weights (R532 to R534) -/

/-- FLT_REPAIR.QUEUED follows the queue. -/
def setRepairs (s : Mach) (l : List Repair) : Mach :=
  wf (modFlt s (fun f => { f with repairs := l })) .FLT_REPAIR 0 0 63 48 l.length

/-- The golden source of the first request that has not been read is asked: a golden address of another node by an RD packet. -/
def readGolden (s : Mach) (r : Repair) (l : List Repair) : Mach :=
  if r.gkind = 2 ∧ r.gold / 2 ^ 48 ≠ s.route.nodeId then
    let q := vkRequest s 0x1BE 0 (r.gold / 2 ^ 48) ptRD 3 (r.gold % 2 ^ 48) [] .golden none
    let a := match q.1 with | .sent => none | _ => some none
    setRepairs q.2 ({ r with reading := true, answer := a } :: l)
  else setRepairs s ({ r with reading := true, answer := none } :: l)

/-- The hub works on the request at the head of its queue. -/
def repairGo (s : Mach) : Mach :=
  match s.flt.repairs with
  | r :: l => if r.reading ∨ r.written ∨ r.retryAt.isSome then s else readGolden s r l
  | [] => s

/-- REPAIR_REQUEST: a controller asks for the repair of the `line`th line of entry `n` of the shared-region table, poisoned and
with a golden source (R284). -/
def repairRequest (s : Mach) (stack n line : Nat) : Mach :=
  let a := shrA s n
  let off := fld a 22 0 * 65536 + line * 64
  let adr := s.cfg.grnBase + off
  if bit a 63 = false ∨ fld a 61 60 = 0 ∨ fld a 61 60 = 3 ∨ inShr s n off = false ∨ (pcOf off).stack ≠ stack ∨
      linePois s (adr / 64) = false ∨ s.flt.dead.contains (adr / 64) = true then s
  else
    let s := bumpAo s 0 4 1
    if s.flt.repairs.any (fun r => decide (r.line = adr / 64)) then s
    else if 32 ≤ s.flt.repairs.length then bump s .FLT_REPAIR 0 0 15 0 1
    else
      let g := fld (shrB s n) 61 0 + line * 64
      let r : Repair := { line := adr / 64, gold := g, gkind := fld a 61 60, retries := 0, reading := false, written := false, retryAt := none, answer := none }
      repairGo (setRepairs s (s.flt.repairs ++ [r]))

def execRepairRequest (stack : Fin 12) (n : Fin 32) (line : Nat) (s : State) : Host.Outcome State Fault Refusal :=
  onMach s (fun s => repairRequest s stack n line)

/-- A request ends (R533, R534): it is counted, a REPAIR record is raised, and the hub goes on with the next. -/
def endRepair (s : Mach) (r : Repair) (l : List Repair) (ok : Bool) : Mach :=
  let s := setRepairs s l
  let s := if ok then bump s .FLT_REPAIR 0 0 47 32 1 else bump s .FLT_REPAIR 0 0 31 16 1
  repairGo (raise s (mkRec s 5 (if ok then 1 else 2) 0x11 0x7F 0 (r.line * 64) (r.line * 64 / 2 ^ 16)))

/-- The golden read failed: it is retried at most three times. -/
def goldenFailed (s : Mach) (r : Repair) (l : List Repair) : Mach :=
  if r.retries < 3 then
    let t := s.now + max 1 (rf s .FLT_CFG 0 0 23 16) * 65536 * acyc
    setRepairs s ({ r with reading := false, answer := none, retries := r.retries + 1, retryAt := some t } :: l)
  else endRepair s r l false

/-- The 64 B of the golden source arrived: the line is written whole, unless its entry is no longer locked. -/
def writeGolden (s : Mach) (r : Repair) (l : List Repair) (d : Line) : Mach :=
  let off := r.line * 64 - s.cfg.grnBase
  let e := shrOf s off
  if (match e with | some n => bit (shrA s n) 62 | none => false) then
    let s := homeWrite (countBytes s (r.line * 64) 64 .write ownPkg) r.line d fullMask false
    setRepairs s ({ r with reading := false, written := true, answer := none } :: l)
  else endRepair (bump s .GRN_ERRCNT (pcOf off).stack 0 63 48 1) r l false

/-- REPAIR_READ_RETURN: the golden read of the head of the queue returns, or has timed out. A golden source of this package is
read by the repair agent as it stands. -/
def repairReadReturn (s : Mach) (timedOut : Bool) : Mach :=
  match s.flt.repairs with
  | [] => s
  | r :: l =>
    if r.reading = false then s
    else
      let away := decide (r.gkind = 2) && decide (r.gold / 2 ^ 48 ≠ s.route.nodeId)
      if away then
        match r.answer with
        | none => s
        | some none => goldenFailed s r l
        | some (some d) => writeGolden s r l d
      else if timedOut then goldenFailed s r l
      else
        let q := readAs s 0x1BE none 0 (r.gold % 2 ^ 48) 64
        match q.1 with
        | some (bs, false) => writeGolden q.2 r l (itemLine bs)
        | _ => goldenFailed q.2 r l

def execRepairReadReturn (timedOut : Bool) (s : State) : Host.Outcome State Fault Refusal := onMach s (fun s => repairReadReturn s timedOut)

/-- REPAIR_RETRY: REPAIR_RETRY frames after a failure the hub reads again. -/
def repairRetry (s : Mach) : Mach :=
  match s.flt.repairs with
  | r :: l =>
    (match r.retryAt with
     | some t => readGolden (advanceTo s t) { r with retryAt := none } l
     | none => s)
  | [] => s

def execRepairRetry (s : State) : Host.Outcome State Fault Refusal := onMach s (fun s => repairRetry s)

/-- REPAIR_READBACK: the line is read back; an uncorrectable one is poisoned once more and not repaired again. -/
def repairReadback (s : Mach) (clean : Bool) : Mach :=
  match s.flt.repairs with
  | r :: l =>
    if r.written = false then s
    else if clean then endRepair s r l true
    else endRepair (modFlt (memUE s (r.line * 64)) (fun f => { f with dead := f.dead ++ [r.line] })) r l false
  | [] => s

def execRepairReadback (clean : Bool) (s : State) : Host.Outcome State Fault Refusal := onMach s (fun s => repairReadback s clean)

/-! ### Links and the bell path (R535, R544 to R547) -/

/-- A record of class WEDGE about a die. -/
def wedgeRecord (s : Mach) (die sub sev : Nat) : Mach :=
  raise s { mkRec s 0x13 sub 0x11 0x7F die 0 die with sev := sev }

/-- LINK_RETRY_LIMIT: a frame's CRC retries of a die's link; above 1,024 they raise a record. A flit that fails 16 retries in a
row raises a FATAL one, and the die reports itself wedged. The spec names no SUBCODE: a free value. -/
def linkRetryLimit (s : Mach) (die link retries inARow : Nat) : Mach :=
  if validDie die = false then s
  else
    let comp := decide (4 ≤ die % 16) && decide (link < 2)
    let s := if comp then bump s .FLT_DLINK (compOrd die) link 63 32 retries else s
    let (w, s) := drawWord s
    let r := mkRec s 0xB (w.toNat % 256) 0x11 0x7F die 0 (die * 256 + link)
    let s :=
      if 1024 < retries then
        raise (if comp then bump s .FLT_DLINK (compOrd die) link 31 0 1 else s) { r with sev := 1 }
      else s
    if 16 ≤ inARow then wedgeRecord (raise s { r with sev := 3 }) die 0xF3 3 else s

def execLinkRetryLimit (die : Fin 32) (link : Fin 6) (retries inARow : Nat) (s : State) : Host.Outcome State Fault Refusal :=
  onMach s (fun s => linkRetryLimit s die link retries inARow)

/-- FLT_STATUS.WEDGE follows the ALIVE bits of the 13 dies. -/
def setWedge (s : Mach) : Mach :=
  wb s .FLT_STATUS 0 0 2 (dieIds.any (fun d => !(rb s .FLT_BELL 0 0 d)))

/-- A ping of one die: an answer sets its ALIVE bit, the fourth miss in a row clears it. -/
def pingDie (s : Mach) (d : Nat) (ok : Bool) : Mach :=
  if ok then wb (modFlt s (fun f => { f with missed := smapPut 0 f.missed d 0 })) .FLT_BELL 0 0 d true
  else
    let n := smapGet 0 s.flt.missed d + 1
    let s := modFlt s (fun f => { f with missed := smapPut 0 f.missed d (min n 5) })
    if n = 4 then wedgeRecord (wb s .FLT_BELL 0 0 d false) d 0xF2 3 else s

/-- BELL_PING: once per frame the hub pings every die. -/
def bellPing (s : Mach) (answered : BitVec 32) : Mach :=
  setWedge (foldS dieIds (fun t d => pingDie t d (answered.getLsbD d)) (toFrameBoundary s))

def execBellPing (answered : BitVec 32) (s : State) : Host.Outcome State Fault Refusal := onMach s (fun s => bellPing s answered)

/-- WEDGE_TIMEOUT: a die whose outbound traffic has made no progress for WEDGE_TMO frames reports itself. -/
def wedgeTimeout (s : Mach) (die : Nat) : Mach :=
  if rf s .FLT_CFG 0 0 31 24 = 0 ∨ validDie die = false then s else wedgeRecord s die 0xF3 3

def execWedgeTimeout (die : Fin 32) (s : State) : Host.Outcome State Fault Refusal := onMach s (fun s => wedgeTimeout s die)

/-- BELL_BREAK: a break in the ring; a die that neither direction reaches is not alive. The SUBCODE is a free value. -/
def bellBreak (s : Mach) (unreachable : BitVec 32) : Mach :=
  let s := wb s .FLT_BELL 0 0 32 true
  let (w, s) := drawWord s
  let s := wedgeRecord s 0 (w.toNat % 256) 1
  setWedge (foldS (dieIds.filter (fun d => unreachable.getLsbD d)) (fun t d => wb t .FLT_BELL 0 0 d false) s)

def execBellBreak (unreachable : BitVec 32) (s : State) : Host.Outcome State Fault Refusal := onMach s (fun s => bellBreak s unreachable)

/-- BELL_FRAME: a frame with a bad CRC is resent, which the hub counts (R544, R568). -/
def bellFrame (s : Mach) (crcOk : Bool) : Mach := if crcOk then s else bumpAo s 0 5 1

def execBellFrame (crcOk : Bool) (s : State) : Host.Outcome State Fault Refusal := onMach s (fun s => bellFrame s crcOk)

/-! ### Writes of FLT registers (R548) -/

/-- FLT_LOGCTL: a TAIL beyond HEAD is ignored. -/
def onLogctl (s : Mach) (v : Word) : Mach :=
  let t := rf s .FLT_LOGCTL 0 0 8 0
  let h := rf s .FLT_LOGCTL 0 0 24 16
  let n := fld v 8 0
  if (h + 512 - t) % 512 < (n + 512 - t) % 512 then s else wf s .FLT_LOGCTL 0 0 8 0 n

/-- FLT_CFG: a WINDOW above 16 is ignored. -/
def onFltCfg (s : Mach) (v : Word) : Mach :=
  wfIf (wf s .FLT_CFG 0 0 55 16 (fld v 55 16)) .FLT_CFG 0 0 63 56 v (fun x => decide (x ≤ 16))

end Sys2Proof.Machine
end

