-- ==== Sys2Proof/Machine/Sha.lean ====
section
/-! DEFINITION. SHA-384 (FIPS 180-4), the digest of the Nutedex image, of keys and of measurements (R475, R478, R582).
PRESUMED: the function is that of the standard the spec names, log entry 6. -/

namespace Sys2Proof.Machine

/-- The round constants of FIPS 180-4, 4.2.3, first half. -/
def shaK1 : List Word :=
  [0x428a2f98d728ae22, 0x7137449123ef65cd, 0xb5c0fbcfec4d3b2f, 0xe9b5dba58189dbbc,
   0x3956c25bf348b538, 0x59f111f1b605d019, 0x923f82a4af194f9b, 0xab1c5ed5da6d8118,
   0xd807aa98a3030242, 0x12835b0145706fbe, 0x243185be4ee4b28c, 0x550c7dc3d5ffb4e2,
   0x72be5d74f27b896f, 0x80deb1fe3b1696b1, 0x9bdc06a725c71235, 0xc19bf174cf692694,
   0xe49b69c19ef14ad2, 0xefbe4786384f25e3, 0x0fc19dc68b8cd5b5, 0x240ca1cc77ac9c65,
   0x2de92c6f592b0275, 0x4a7484aa6ea6e483, 0x5cb0a9dcbd41fbd4, 0x76f988da831153b5,
   0x983e5152ee66dfab, 0xa831c66d2db43210, 0xb00327c898fb213f, 0xbf597fc7beef0ee4,
   0xc6e00bf33da88fc2, 0xd5a79147930aa725, 0x06ca6351e003826f, 0x142929670a0e6e70,
   0x27b70a8546d22ffc, 0x2e1b21385c26c926, 0x4d2c6dfc5ac42aed, 0x53380d139d95b3df,
   0x650a73548baf63de, 0x766a0abb3c77b2a8, 0x81c2c92e47edaee6, 0x92722c851482353b]

/-- The round constants, second half. -/
def shaK2 : List Word :=
  [0xa2bfe8a14cf10364, 0xa81a664bbc423001, 0xc24b8b70d0f89791, 0xc76c51a30654be30,
   0xd192e819d6ef5218, 0xd69906245565a910, 0xf40e35855771202a, 0x106aa07032bbd1b8,
   0x19a4c116b8d2d0c8, 0x1e376c085141ab53, 0x2748774cdf8eeb99, 0x34b0bcb5e19b48a8,
   0x391c0cb3c5c95a63, 0x4ed8aa4ae3418acb, 0x5b9cca4f7763e373, 0x682e6ff3d6b2b8a3,
   0x748f82ee5defb2fc, 0x78a5636f43172f60, 0x84c87814a1f0ab72, 0x8cc702081a6439ec,
   0x90befffa23631e28, 0xa4506cebde82bde9, 0xbef9a3f7b2c67915, 0xc67178f2e372532b,
   0xca273eceea26619c, 0xd186b8c721c0c207, 0xeada7dd6cde0eb1e, 0xf57d4f7fee6ed178,
   0x06f067aa72176fba, 0x0a637dc5a2c898a6, 0x113f9804bef90dae, 0x1b710b35131c471b,
   0x28db77f523047d84, 0x32caab7b40c72493, 0x3c9ebe0a15c9bebc, 0x431d67c49c100d4c,
   0x4cc5d4becb3e42b6, 0x597f299cfc657e2a, 0x5fcb6fab3ad6faec, 0x6c44198c4a475817]

/-- The initial hash value of SHA-384 (FIPS 180-4, 5.3.4). -/
def shaInit : List Word :=
  [0xcbbb9d5dc1059ed8, 0x629a292a367cd507, 0x9159015a3070dd17, 0x152fecd8f70e5939,
   0x67332667ffc00b31, 0x8eb44a8768581511, 0xdb0c2e0d64f98fa7, 0x47b5481dbefa4fa4]

/-- A 64-bit rotation to the right. -/
def rotr (w : Word) (n : Nat) : Word := w.rotateRight n

/-- The next word of the message schedule, from the last 16 words, newest first. -/
def shaNext (ws : List Word) : Word :=
  let g (i : Nat) : Word := ws.getD i 0
  let s0 := rotr (g 14) 1 ^^^ rotr (g 14) 8 ^^^ (g 14 >>> 7)
  let s1 := rotr (g 1) 19 ^^^ rotr (g 1) 61 ^^^ (g 1 >>> 6)
  s1 + g 6 + s0 + g 15

/-- One round on the eight working words. -/
def shaRound (v : List Word) (k w : Word) : List Word :=
  let g (i : Nat) : Word := v.getD i 0
  let s1 := rotr (g 4) 14 ^^^ rotr (g 4) 18 ^^^ rotr (g 4) 41
  let ch := (g 4 &&& g 5) ^^^ (~~~ g 4 &&& g 6)
  let t1 := g 7 + s1 + ch + k + w
  let s0 := rotr (g 0) 28 ^^^ rotr (g 0) 34 ^^^ rotr (g 0) 39
  let maj := (g 0 &&& g 1) ^^^ (g 0 &&& g 2) ^^^ (g 1 &&& g 2)
  [t1 + (s0 + maj), g 0, g 1, g 2, g 3 + t1, g 4, g 5, g 6]

/-- The rounds of one block: the message schedule rolls on as a window of 16 words, newest first. -/
def shaRounds : List Word → List Word → List Word → List Word
  | [], _, v => v
  | k :: ks, ws, v => shaRounds ks ((shaNext ws :: ws).take 16) (shaRound v k (ws.getD 15 0))

/-- A big-endian word of a block. -/
def shaWord (bs : List Byte) : Word := BitVec.ofNat 64 (ofBytes bs.reverse)

/-- The rows of `n` bytes of a list. -/
def chunks (n : Nat) : Nat → List Byte → List (List Byte)
  | 0, _ => []
  | k + 1, l => l.take n :: chunks n k (l.drop n)

/-- One block folded into the hash value. -/
def shaBlock (h : List Word) (blk : List Byte) : List Word :=
  let ws := ((chunks 8 16 blk).map shaWord).reverse
  List.zipWith (· + ·) h (shaRounds (shaK1 ++ shaK2) ws h)

/-- The padded message of FIPS 180-4, 5.1.2. -/
def shaPad (m : List Byte) : List Byte :=
  let z := (239 - m.length % 128) % 128
  m ++ [0x80#8] ++ List.replicate z 0#8 ++ (bytesOf 16 (8 * m.length)).reverse

/-- SHA-384 of a message, as the 48 bytes of the digest in order. -/
def sha384 (m : List Byte) : List Byte :=
  let p := shaPad m
  let h := (chunks 128 (p.length / 128) p).foldl shaBlock shaInit
  ((h.take 6).map (fun w => (bytesOf 8 w.toNat).reverse)).flatten

/-- The digest as a number of 384 bits, byte `k` in bits `[8k+7:8k]` (R10). -/
def sha384Nat (m : List Byte) : Nat := ofBytes (sha384 m)

end Sys2Proof.Machine
end

