-- ==== Sys2Proof/Machine/Debug.lean ====
section
/-! DEFINITION. Debug grants, halts and resumes, locked sequences, program-counter samples, trace, triggers and counter
snapshots (R476 to R479, R551, R554 to R570). -/

namespace Sys2Proof.Machine

open Sys2Proof.Config (acyc)

/-! ### Grants (R476, R551) -/

def grantObs (s : Mach) (p : Nat) : Bool := (rf s .SEC_DBG_STATE 0 0 15 0).testBit p
def grantInv (s : Mach) (p : Nat) : Bool := (rf s .SEC_DBG_STATE 0 0 31 16).testBit p
def grantPkg (s : Mach) : Bool := rb s .SEC_DBG_STATE 0 0 32

/-! ### Halting and resuming a bay (R556 to R558) -/

/-- One bit of DBG_PSTAT for a partition: `lo` is the lowest bit of the field. -/
def setPstat (s : Mach) (p lo : Nat) (v : Bool) : Mach := wb s .DBG_PSTAT 0 0 (lo + p) v

/-- A bay halts at an edge: slot FCLK stops, and its HALT record is written. When every bay of the partition has halted, the
partition has. -/
def haltBay (s : Mach) (b e : Nat) (forced late : Bool) : Mach :=
  let s := syncCnt (advanceEdge s b e) b
  let s := modBay s b (fun x => { x with dbg := { x.dbg with halted := true, haltEdge := workEdge s b e, defer := none } })
  let s := bump (wb (wb s .DBG_BSTAT b 0 1 false) .DBG_BSTAT b 0 0 true) .DBG_BSTAT b 0 63 32 1
  let s := emitTrace s b 7 1 7 (1 + 2 * forced.toNat + 4 * late.toNat)
  match bayPid s b with
  | none => s
  | some p =>
    let s := if late then setPstat s p 48 true else s
    let s := if (smapGet none s.dbg.haltFrom p).isSome then s
      else modDbg s (fun d => { d with haltFrom := smapPut none d.haltFrom p (some (frameNo s)) })
    if (partBays s p).all (isHalted s) then
      setPstat (setPstat (modDbg s (fun d => { d with armHalt := smapPut none d.armHalt p none })) p 0 false) p 16 true
    else s

/-- What a halt of `n` FCLK moves in a bay: spans, the words that follow them, the flex window and the clear of a slice. A
stream held past its span keeps its place, so that the halted time is slip (R558). -/
def shiftHalt (s : Mach) (b e0 n : Nat) : Mach :=
  let sh (x : Nat) : Nat := if e0 ≤ x then x + n else x
  modBay s b (fun x =>
    { x with
      seq := { x.seq with clearEnd := sh x.seq.clearEnd,
                          win := x.seq.win.map (fun w => { w with first := sh w.first, last := sh w.last }) },
      streams := x.streams.map (fun k =>
        if k.hold = .none then { k with last := sh k.last, nextAt := sh k.nextAt } else k) })

/-- The rota's slice end moves one frame later for every frame boundary that passed while a bay was halted (R557). -/
def extendRota (s : Mach) (p : Nat) : Mach :=
  match smapGet none s.dbg.haltFrom p with
  | none => s
  | some f =>
    let s := modDbg s (fun d => { d with haltFrom := smapPut none d.haltFrom p none })
    modRota s p (fun r =>
      if r.inSlice then
        let k := frameNo s - max f r.startFrame
        { r with entryEnd := r.entryEnd + k, endFrame := r.endFrame + k }
      else r)

/-- A halted bay resumes at an edge. With its last bay the partition has resumed. -/
def resumeBay (s : Mach) (b e : Nat) (late : Bool) : Mach :=
  let s := syncCnt (advanceEdge s b e) b
  let r := workEdge s b e
  let h := (getBay s b).dbg.haltEdge
  let s := shiftHalt s b h (r - h)
  let s := modBay s b (fun x => { x with dbg := { x.dbg with halted := false, resEdge := r } })
  let s := emitTrace (wb s .DBG_BSTAT b 0 0 false) b 7 1 7 (4 * late.toNat)
  match bayPid s b with
  | none => s
  | some p =>
    let s := if late then setPstat s p 48 true else s
    if partHalted s p then s
    else
      let s := modDbg s (fun d => { d with armRes := smapPut none d.armRes p none })
      extendRota (setPstat (setPstat s p 32 false) p 16 false) p

/-- Whether a partition's bays are all halted. -/
def isPartHalted (s : Mach) (p : Nat) : Bool := rb s .DBG_PSTAT 0 0 (16 + p)

/-- Whether the almanac count `t` has passed. -/
def countPassed (s : Mach) (t : Nat) : Bool := decide (tickOf s t < s.now)

/-- A write of DBG_PHALT (R556, R572): it arms a halt or a resume of partition PID at the count in DBG_PAT. -/
def onPhalt (s : Mach) (v : Word) : Mach :=
  let p := fld v 3 0
  let s := wf s .DBG_PHALT 0 0 3 0 p
  let t := (rg s .DBG_PAT 0 0).toNat
  let armed := (smapGet none s.dbg.armHalt p).isSome
  if grantInv s p = false then s
  else if fld v 63 62 = 1 then
    if armed ∨ isPartHalted s p ∨ (partBays s p).isEmpty then s
    else setPstat (modDbg s (fun d => { d with armHalt := smapPut none d.armHalt p (some (t, countPassed s t)) })) p 0 true
  else if fld v 63 62 = 2 then
    if isPartHalted s p = false ∨ (smapGet none s.dbg.armRes p).isSome then s
    else setPstat (modDbg s (fun d => { d with armRes := smapPut none d.armRes p (some (t, countPassed s t)) })) p 32 true
  else s

/-- The edge at which an armed halt or resume reaches a bay. -/
def armedEdge (s : Mach) (b : Nat) (a : Nat × Bool) : Nat :=
  if a.2 then edgeOf s b + 1 else max (edgeOf s b) (edgeAfter (clkOf s b) (tickOf s a.1))

/-- BAY_HALT: the armed halt of a partition reaches a bay. A bay whose semaphore block is running a transfer defers it (R554). -/
def bayHalt (s : Mach) (b : Nat) : Mach :=
  match (bayPid s b).bind (fun p => smapGet none s.dbg.armHalt p) with
  | none => s
  | some a =>
    if bayPresent s b = false ∨ isHalted s b ∨ (getBay s b).dbg.defer.isSome then s
    else
      let e := armedEdge s b a
      if (getSem s b).xfer.isSome then
        let s := advanceEdge s b e
        let s := modBay s b (fun x => { x with dbg := { x.dbg with defer := some (e + 1024) } })
        bump (wb s .DBG_BSTAT b 0 1 true) .DBG_LOCKST 0 0 63 32 1
      else haltBay s b e false a.2

def execBayHalt (b : BayNo) (s : State) : Host.Outcome State Fault Refusal := onMach s (fun s => bayHalt s b)

/-- BAY_RESUME: the armed resume of a partition reaches a bay. -/
def bayResume (s : Mach) (b : Nat) : Mach :=
  match (bayPid s b).bind (fun p => smapGet none s.dbg.armRes p) with
  | none => s
  | some a => if isHalted s b then resumeBay s b (armedEdge s b a) a.2 else s

def execBayResume (b : BayNo) (s : State) : Host.Outcome State Fault Refusal := onMach s (fun s => bayResume s b)

/-! ### Halting a core (R553, R554) -/

/-- dcsr and dpc. -/
def csrDcsr : Nat := 0x7B0
def csrDpc : Nat := 0x7B1

/-- A core enters debug mode: dpc, dcsr.cause, prv and v are written, and any reservation is cleared. -/
def enterDebug (s : Mach) (c cause : Nat) : Mach :=
  let s := modDbg s (fun d => { d with coreDefer := smapPut none d.coreDefer c none })
  modCore s c (fun x =>
    let d := setFld (setFld (setBit (smapGet 0 x.csr csrDcsr) 5 x.virt) 8 6 cause) 1 0 x.priv
    { x with halted := true, resv := none, priv := 3, virt := false,
             csr := smapPut 0 (smapPut 0 x.csr csrDcsr d) csrDpc x.pc })

/-- A halted core resumes: the mode and the pc return from dcsr and dpc, and MPRV is cleared below M-mode. -/
def leaveDebug (s : Mach) (c : Nat) : Mach :=
  modCore s c (fun x =>
    let d := smapGet 0 x.csr csrDcsr
    let st := smapGet 0 x.csr 0x300
    let p := fld d 1 0
    { x with halted := false, priv := p, virt := bit d 5 && decide (p ≠ 3), pc := smapGet 0 x.csr csrDpc, haltReq := bit d 2,
             csr := smapPut 0 x.csr 0x300 (if p = 3 then st else setBit st 17 false) })

/-- The rings in whose locked sequence a core stands (R554). -/
def lockedRings (s : Mach) (c : Nat) : List Nat :=
  ((s.ringBy.filter (fun x => decide (x.2 = c + 1))).map Prod.fst).filter (fun r => decide (pend s r ≠ 0))

/-- A core is asked to halt: at once, or deferred while it holds a locked sequence. -/
def haltCore (s : Mach) (c cause : Nat) : Mach :=
  let x := getCore s c
  if x.released = false ∨ x.halted ∨ (smapGet none s.dbg.coreDefer c).isSome then s
  else if (lockedRings s c).isEmpty then enterDebug s c cause
  else
    bump (modDbg s (fun d => { d with coreDefer := smapPut none d.coreDefer c (some (s.now + 1024 * cclk s c)) })) .DBG_LOCKST 0 0 63 32 1

/-! ### Locked sequences (R554, R555) -/

/-- A block transfer is abandoned: a save leaves its memory undefined, a load changes no COUNT, and held operations are
performed. -/
def dropXfer (s : Mach) (b : Nat) : Mach :=
  match (getSem s b).xfer with
  | none => s
  | some t =>
    let s := modSem s b (fun x => { x with xfer := none })
    let s :=
      if t.load then s
      else foldS (List.range t.count) (fun u k =>
        let q := drawBytes u 8
        (writeAs q.2 (0x80 + b) none 0 (t.addr / 8 * 8 + 8 * k) q.1 false).2) s
    let s := foldS t.held (semApply · b ·) s
    wb (evalWaits s b (edgeOf s b) false) .SEM_XFER_CTL b 0 63 false

/-- HALT_DEFER_EXPIRY: the deferral limit is reached, the sequence is abandoned whole and the halt is forced. -/
def haltDeferExpiry (s : Mach) : LockAgent → Mach
  | .bay b =>
    (match (getBay s b).dbg.defer with
     | none => s
     | some e =>
       let s := dropXfer (advanceEdge s b e) b
       haltBay (bump s .DBG_LOCKST 0 0 31 0 1) b (edgeOf s b) true false)
  | .core c =>
    (match smapGet none s.dbg.coreDefer c with
     | none => s
     | some t =>
       let s := advanceTo s t
       let s := foldS (lockedRings s c) flushRing s
       enterDebug (bump s .DBG_LOCKST 0 0 31 0 1) c 3)

def execHaltDeferExpiry (a : LockAgent) (s : State) : Host.Outcome State Fault Refusal := onMach s (fun s => haltDeferExpiry s a)

/-- LOCKED_SEQUENCE_END: the sequence of an agent whose halt is deferred has ended, and it halts. -/
def lockedSequenceEnd (s : Mach) : LockAgent → Mach
  | .bay b =>
    if (getBay s b).dbg.defer.isSome ∧ (getSem s b).xfer.isNone then haltBay s b (edgeAfter (clkOf s b) s.now) false false else s
  | .core c =>
    if (smapGet none s.dbg.coreDefer c).isSome ∧ (lockedRings s c).isEmpty then enterDebug s c 3 else s

def execLockedSequenceEnd (a : LockAgent) (s : State) : Host.Outcome State Fault Refusal := onMach s (fun s => lockedSequenceEnd s a)

/-! ### The life of a grant (R477 to R479) -/

/-- Cores of a partition. -/
def partCores (s : Mach) (p : Nat) : List Nat := (List.range 96).filter (fun c => decide (corePid s c = some p))

/-- A partition loses its INVASIVE grant: its halted units resume, and halts still to come are withdrawn. -/
def endInvasive (s : Mach) (p : Nat) : Mach :=
  let s := modDbg s (fun d => { d with armHalt := smapPut none d.armHalt p none })
  let s := setPstat s p 0 false
  let s := foldS (partBays s p) (fun t b =>
    let t := modBay t b (fun x => { x with dbg := { x.dbg with defer := none } })
    let t := wb t .DBG_BSTAT b 0 1 false
    if isHalted t b then resumeBay t b (edgeOf t b + 1) false else t) s
  foldS (partCores s p) (fun t c =>
    let t := modDbg t (fun d => { d with coreDefer := smapPut none d.coreDefer c none })
    if (getCore t c).halted then leaveDebug t c else t) s

/-- The grant in force is replaced (R479). -/
def setGrant (s : Mach) (obs inv : Nat) (pkg : Bool) : Mach :=
  let old := rf s .SEC_DBG_STATE 0 0 31 16
  let s := wr s .SEC_DBG_STATE 0 0 (packFlds [(32, 32, pkg.toNat), (31, 16, inv), (15, 0, obs)])
  foldS ((List.range 16).filter (fun p => old.testBit p && !inv.testBit p)) endInvasive s

/-- The bytes of the token window. -/
def tokenBytes (s : Mach) : List Byte := (List.range 666).flatMap (fun k => bytesOf 8 (rg s .SEC_DBG_TOKEN 0 k).toNat)

/-- `n` bytes of a list from `o` on, and the number they spell. -/
def cutBytes (l : List Byte) (o n : Nat) : List Byte := (l.drop o).take n
def cutNat (l : List Byte) (o n : Nat) : Nat := ofBytes (cutBytes l o n)

/-- The RESULT of a token (R478): the first check that fails, or 1. -/
def tokenResult (s : Mach) (t : List Byte) : Nat :=
  let zero (o n : Nat) : Bool := (cutBytes t o n).all (fun b => decide (b = 0))
  let key := cutBytes t 3376 1952
  let obs := cutNat t 24 2
  let inv := cutNat t 26 2
  let pkg := cutNat t 28 1
  let above := (List.range 16).any (fun p =>
    (obs.testBit p && decide (rf s .PRT_PART_A 0 p 61 60 = 0)) || (inv.testBit p && decide (rf s .PRT_PART_A 0 p 61 60 < 2)))
  if cutNat t 0 4 ≠ 0x47544244 ∨ cutNat t 4 1 ≠ 1 ∨ zero 5 3 = false ∨ 1 < pkg ∨ zero 29 3 = false ∨ zero 38 26 = false ∨
      zero 3373 3 = false then 2
  else if s.cfg.dbgKey ≠ some (sha384 key) then 3
  else if Config.mlDsaVerify key (cutBytes t 64 3309) (cutBytes t 0 64) = false then 4
  else if cutNat t 8 8 ≠ (rg s .SEC_DBG_NONCE 0 0).toNat then 5
  else if cutNat t 16 8 ≠ (rg s .SEC_UID 0 0).toNat then 6
  else if cutNat t 32 6 ≤ frameNo s then 7
  else if above ∨ (pkg = 1 ∧ s.cfg.dbgPkg = false) then 8
  else 1

/-- A new nonce is drawn. -/
def newNonce (s : Mach) : Mach :=
  { wr s .SEC_DBG_NONCE 0 0 (Config.nonce s.freeCtr) with freeCtr := s.freeCtr + 1 }

/-- A submission (R478). -/
def submitToken (s : Mach) : Mach :=
  let setResult (s : Mach) (r : Nat) : Mach := wf s .SEC_DBG_CTL 0 0 43 40 r
  if isDone s = false then setResult s 9
  else
    let t := tokenBytes s
    let r := if rb s .SEC_STATUS 0 0 2 then 9 else tokenResult s t
    let s := newNonce (setResult s r)
    if r = 1 then
      let inv := cutNat t 26 2
      wr (setGrant s (cutNat t 24 2 ||| inv) inv (decide (cutNat t 28 1 = 1))) .SEC_DBG_EXPIRY 0 0 (BitVec.ofNat 64 (cutNat t 32 6))
    else
      let n := min 8 (rf s .SEC_STATUS 0 0 11 8 + 1)
      let s := wf s .SEC_STATUS 0 0 11 8 n
      if n = 8 then wb s .SEC_STATUS 0 0 2 true else s

/-- A write of SEC_DBG_CTL (R477 to R479). -/
def onDbgCtl (s : Mach) (v : Word) : Mach :=
  let s := wf s .SEC_DBG_CTL 0 0 16 0 (fld v 16 0)
  let s := if bit v 62 then submitToken s else s
  if bit v 61 then
    let keep (x m : Nat) : Nat := x &&& (0xFFFF ^^^ m)
    let m := fld v 15 0
    setGrant s (keep (rf s .SEC_DBG_STATE 0 0 15 0) m) (keep (rf s .SEC_DBG_STATE 0 0 31 16) m) (grantPkg s && !bit v 16)
  else s

/-- GRANT_EXPIRY: the almanac reaches the expiry frame of the grant. -/
def grantExpiry (s : Mach) : Mach :=
  if rg s .SEC_DBG_STATE 0 0 = 0 ∨ s.alm.running = false then s
  else setGrant (advanceTo s (frameTick s (rf s .SEC_DBG_EXPIRY 0 0 47 0))) 0 0 false

def execGrantExpiry (s : State) : Host.Outcome State Fault Refusal := onMach s (fun s => grantExpiry s)

/-! ### Threads under debug (R559) -/

/-- Whether the thread that DBG_TSEL selects is open to DBG_TREGr: it is stopped, or its bay is halted. -/
def selThread (s : Mach) (b : Nat) : Nat × Nat × Nat :=
  (rf s .DBG_TSEL b 0 22 21, rf s .DBG_TSEL b 0 20 10, rf s .DBG_TSEL b 0 4 0)

def threadOpen (s : Mach) (b : Nat) : Bool :=
  let t := selThread s b
  let x := getThread s b t.1 t.2.1 t.2.2
  ((getEng s b t.1).sheaf t.2.1).isSome && (isHalted s b || decide (x.st = .stopped))

/-- A write of DBG_BCTL: CLAIM, and TRESUME of a stopped thread at PC + 4 or at the PC poked. -/
def onBctl (s : Mach) (b : Nat) (v : Word) : Mach :=
  let s := wb s .DBG_BCTL b 0 0 (bit v 0)
  let (e, k, l) := selThread s b
  let x := getThread s b e k l
  if bit v 1 = false ∨ x.st ≠ .stopped then s
  else
    let poked := (getEng s b e).poked.contains (k, l)
    let s := modEng s b e (fun g => { g with poked := g.poked.erase (k, l) })
    let s := modThread s b e k l (fun t => { t with st := .ready, pc := if poked then t.pc else add64 t.pc 4, readyAt := edgeOf s b + 1 })
    s

/-! ### Program-counter samples (R561) -/

/-- The state of a stream (SSTATE). -/
def sstate (s : Mach) (b k : Nat) : Nat :=
  let x := getStream s b k
  if isHalted s b then 6
  else match (getSeq s b).st with
    | .parked => 7
    | .idle | .settle => 8
    | .clear => 9
    | .stopped => 0xA
    | .fallow => 0xB
    | .run =>
      if frameFallow s (frameNo s) then 0xB
      else if x.run = false then (if slotForm x.word = 0 ∧ x.word = 0 then 8 else 7)
      else match x.hold with
        | .wait | .settle | .dbr => 1
        | .rdv => 2
        | .swait => 3
        | .fetch => 4
        | .none =>
          if (getBay s b).luse.any (fun u => decide (u.ownBay = b) && decide (u.stream = k) && decide (u.late ≠ 0)) then 5 else 0

/-- The state of a thread (TSTATE). -/
def tstate (s : Mach) (b e k l : Nat) : Nat :=
  let t := getThread s b e k l
  let own (o : XOwner) : Bool := decide (o = .thread e k l) || decide (o = .desc e k l)
  let paged := (getEtr s b).misses.any (fun m => m.fault.isSome && m.reqs.any (fun r => own r.owner))
  if isHalted s b then 8
  else match t.st with
    | .ready => if (getEng s b e).group.contains (k, l) then 0 else if t.readyAt ≤ edgeOf s b then 1 else 2
    | .group => 3
    | .semWait => 4
    | .access =>
      if paged then 5
      else if (getEng s b e).acc.any (fun a => decide (a.sheaf = k) && decide (a.lane = l) && a.sent) then 2 else 6
    | .desc => if paged then 5 else 2
    | .room => 6
    | .stopped => 7
    | _ => 1

/-- The sample of one engine: the next resident sheaf that has a live lane, in round-robin order. -/
def sampleEng (b : Nat) (s : Mach) (e : Nat) : Mach :=
  let g := getEng s b e
  let last := (getBay s b).dbg.smpRr.getD e 0 - 1
  match (roundRobin g.sheaves last).find? (fun x => !x.liveLanes.isEmpty) with
  | none => s
  | some x =>
    let l := x.liveLanes.headD 0
    let s := modBay s b (fun y => { y with dbg := { y.dbg with smpRr := y.dbg.smpRr.set e (x.no + 1) } })
    let pc := (getThread s b e x.no l).pc % 2 ^ 48
    emitTrace s b 3 0 e (pc + tstate s b e x.no l * 2 ^ 48 + x.no % 2048 * 2 ^ 52)

/-- PC_SAMPLE: the samples of a bay at the next count whose low bits are 0. -/
def pcSample (s : Mach) (b : Nat) : Mach :=
  if rb s .TRC_BCFG b 0 63 = false ∨ s.alm.running = false then s
  else
    let p := 2 ^ (rf s .TRC_BCFG b 0 43 40 + 10)
    let c0 := count s / p * p
    let edge (c : Nat) : Nat := edgeAfter (clkOf s b) (tickOf s c)
    let c := if (getBay s b).dbg.smpAt ≠ c0 + 1 ∧ s.now ≤ edgeTick (clkOf s b) (edge c0) then c0 else c0 + p
    let s := advanceEdge s b (edge c)
    let s := modBay s b (fun x => { x with dbg := { x.dbg with smpAt := c + 1 } })
    let s := if rb s .TRC_BCFG b 0 62 then
        foldS (bitList 6 (rf s .TRC_BCFG b 0 53 48)) (fun t k =>
          emitTrace t b 2 0 k ((getStream t b k).idx % 2 ^ 24 + sstate t b k * 2 ^ 24)) s
      else s
    if rb s .TRC_BCFG b 0 61 then
      foldS ((bitList 4 (rf s .TRC_BCFG b 0 47 44)).filter (shfPresent s b)) (sampleEng b) s
    else s

def execPcSample (b : BayNo) (s : State) : Host.Outcome State Fault Refusal := onMach s (fun s => pcSample s b)

/-! ### The trace buffer of a bay (R564) -/

/-- One more record lost of a class. -/
def loseTrace (s : Mach) (b cls : Nat) : Mach :=
  let s := bump s .TRC_BLOST b 0 (16 * cls + 15) (16 * cls) 1
  let s := modBay s b (fun x => { x with trc := { x.trc with lost := x.trc.lost.modify cls (fun n => sat 16 (n + 1)) } })
  countEv s b 0x19 1

def putTrace (s : Mach) (b : Nat) (r : TrcRec) : Mach :=
  modBay s b (fun x => { x with trc := { x.trc with buf := x.trc.buf ++ [r] } })

/-- A record reaches the buffer of its bay: at a full buffer the youngest record of the lowest class held makes room for one
of a higher class. -/
def bufferTrace (s : Mach) (r : TrcRec) : Mach :=
  let b := r.bay
  let buf := (getBay s b).trc.buf
  if buf.length < 64 then putTrace s b r
  else
    let low := buf.foldl (fun m x => min m x.cls) 3
    if low < r.cls then
      match (buf.zipIdx.filter (fun x => decide (x.1.cls = low))).getLast? with
      | some (_, i) =>
        let s := modBay s b (fun x => { x with trc := { x.trc with buf := x.trc.buf.eraseIdx i } })
        putTrace (loseTrace s b low) b r
      | none => s
    else loseTrace s b r.cls

/-- TRACE_RECORD: the oldest record on its way enters the buffer of its bay. -/
def traceRecord (s : Mach) : Mach :=
  match s.trcWire with
  | [] => s
  | r :: l => bufferTrace { s with trcWire := l } r

def execTraceRecord (s : State) : Host.Outcome State Fault Refusal := onMach s (fun s => traceRecord s)

/-- The LOST record of a bay, as soon as its buffer has room. -/
def lostRecord (s : Mach) (b : Nat) : Mach :=
  let t := (getBay s b).trc
  if t.lost.all (fun n => decide (n = 0)) ∨ 64 ≤ t.buf.length then s
  else
    let d := (t.lost.zipIdx.map (fun x => x.1 * 2 ^ (16 * x.2))).foldl (· + ·) 0
    let r : TrcRec := { stamp := count s % 2 ^ 32, kind := 0xA, cls := 3, bay := b, sub := 7, tid := (getSeq s b).tid.getD 0, data := d }
    putTrace (modBay s b (fun x => { x with trc := { x.trc with lost := [0, 0, 0, 0] } })) b r

/-- The 16 bytes of a record (R562). -/
def TrcRec.bytes (r : TrcRec) : List Byte :=
  let fs : List (Nat × Nat × Nat) :=
    [(127, 96, r.stamp), (95, 91, r.kind), (90, 89, r.cls), (88, 82, r.bay), (81, 79, r.sub), (78, 69, r.tid), (63, 0, r.data)]
  bytesOf 16 (fs.foldl (fun w f => setFld w f.1 f.2.1 f.2.2) (0 : BitVec 128)).toNat

/-! ### The sinks (R565 to R567) -/

/-- N, the records of a sink's region. -/
def sinkLen (k : Sink) : Nat := 256 * 2 ^ fld k.cfg 60 56

/-- A record lost at a sink. -/
def loseAtSink (s : Mach) (p cls : Nat) : Mach :=
  bumpAo (modSink s p (fun k => { k with lost := setFld k.lost (16 * cls + 15) (16 * cls) (sat 16 (fld k.lost (16 * cls + 15) (16 * cls) + 1)) })) 0 7 1

/-- A record reaches a sink that runs: it is written at position j mod N, and the sink stops where its mode says. -/
def sinkPut (s : Mach) (p : Nat) (r : TrcRec) : Mach :=
  let k := getSink s p
  let n := sinkLen k
  let j := k.wptr
  let q := writeAs s 0 none 0 (fld k.base 47 12 * 4096 + j % n * 16) r.bytes false
  let s := q.2
  if q.1 = false then modSink s p (fun k => { k with stat := setFld k.stat 3 0 3 })
  else
    let s := bumpAo s 0 6 1
    modSink s p (fun k =>
      let stat := if fld k.cfg 62 61 = 1 ∧ n ≤ j then setBit k.stat 4 true else k.stat
      let stops := (decide (fld k.cfg 62 61 = 0) && decide (n ≤ j + 1)) || decide (k.stopAt = some j)
      { k with wptr := (j + 1) % 2 ^ 32, stat := if stops then setFld stat 3 0 2 else stat })

/-- SINK_WRITE: the oldest record of a bay's buffer goes to the sink of its partition. A sink that has stopped loses it; with
the sink not enabled it stays. -/
def sinkWrite (s : Mach) (b : Nat) : Mach :=
  match bayPid s b, (getBay s b).trc.buf with
  | some p, r :: l =>
    let k := getSink s p
    if bit k.cfg 63 = false then s
    else
      let s := lostRecord (modBay s b (fun x => { x with trc := { x.trc with buf := l } })) b
      if fld k.stat 3 0 = 1 then sinkPut s p r else loseAtSink s p r.cls
  | _, _ => s

def execSinkWrite (b : BayNo) (s : State) : Host.Outcome State Fault Refusal := onMach s (fun s => sinkWrite s b)

/-- A sink that runs and has not been triggered. -/
def mayFire (k : Sink) : Bool := bit k.cfg 63 && decide (fld k.stat 3 0 = 1) && !bit k.stat 5

/-- The almanac's trigger condition, when no other has fired and its count has not passed. -/
def almFire (s : Mach) (p : Nat) : Mach :=
  let k := getSink s p
  if mayFire k ∧ k.fire.isNone ∧ bit k.trig 60 ∧ s.alm.running ∧ countPassed s k.trigAt.toNat = false then
    let s := advanceTo s (tickOf s k.trigAt.toNat)
    modSink s p (fun k => { k with fire := some (4, k.trigAt.toNat % 2 ^ 32, 0x7F) })
  else s

/-- TRIGGER: the hub writes the TRIGGER record of the condition that has fired, and in TRIG mode fixes where the sink stops. -/
def trigger (s : Mach) (p : Nat) : Mach :=
  let s := almFire s p
  let k := getSink s p
  match k.fire with
  | none => s
  | some (src, stamp, bay) =>
    if mayFire k = false then modSink s p (fun k => { k with fire := none })
    else
      let n := sinkLen k
      let t := k.wptr
      let pre := min t (max 1 (fld k.cfg 55 52) * (n / 16))
      let tid := if bay < 72 then (getSeq s bay).tid.getD 0 else 0
      let s := modSink s p (fun k =>
        { k with fire := none, stat := setFld (setBit k.stat 5 true) 59 32 (t % n),
                 stopAt := if fld k.cfg 62 61 = 2 then some (t + n - pre - 1) else none })
      sinkPut s p { stamp := stamp, kind := 9, cls := 3, bay := bay, sub := 7, tid := tid, data := src }

def execTrigger (p : PartNo) (s : State) : Host.Outcome State Fault Refusal := onMach s (fun s => trigger s p)

/-- The partition whose sink the TRC registers show. -/
def trcSel (s : Mach) : Nat := rf s .TRC_SEL 0 0 3 0

/-- A write of TRC_CTL: STOP stops the sink, TRIGGER fires the software trigger. -/
def onTrcCtl (s : Mach) (v : Word) : Mach :=
  let p := trcSel s
  if grantObs s p = false then s
  else
    let k := getSink s p
    let s := if bit v 0 ∧ mayFire k ∧ k.fire.isNone then
        modSink s p (fun k => { k with fire := some (0, count s % 2 ^ 32, 0x7F) }) else s
    if bit v 1 ∧ fld k.stat 3 0 = 1 then modSink s p (fun k => { k with stat := setFld k.stat 3 0 2 }) else s

/-- Whether every granule of a sink's region belongs to its partition (R565). -/
def sinkOwned (s : Mach) (p base size : Nat) : Bool :=
  ((List.range (size / 2 ^ 30 + 1)).map (fun i => base + min (i * 2 ^ 30) (size - 1))).all (fun a =>
    let e := granuleOf s a
    isMain s a && bit e 63 && decide (fld e 51 48 = p))

/-- A write of TRC_CFG. -/
def onTrcCfg (s : Mach) (v : Word) : Mach :=
  let p := trcSel s
  if grantObs s p = false then s
  else
    let k := getSink s p
    let cfg := if bit k.cfg 63 then k.cfg
      else
        let c := setFld (setFld k.cfg 62 61 (fld v 62 61)) 55 52 (fld v 55 52)
        if fld v 60 56 ≤ 20 then setFld c 60 56 (fld v 60 56) else c
    let size := 4096 * 2 ^ fld cfg 60 56
    let base := fld k.base 47 12 * 4096
    if bit v 63 ∧ fld cfg 62 61 ≠ 3 ∧ base % size = 0 ∧ sinkOwned s p base size then
      modSink s p (fun k => { k with cfg := setBit cfg 63 true, wptr := 0, stat := packFlds [(3, 0, 1)], stopAt := none, fire := none })
    else modSink s p (fun k => { k with cfg := setBit cfg 63 false, stat := setFld k.stat 3 0 0, fire := none })

/-- A write of TRC_BASE, TRC_TRIG, TRC_TRIGMARK or TRC_TRIGAT. -/
def onTrcBase (s : Mach) (v : Word) : Mach :=
  if grantObs s (trcSel s) = false then s
  else modSink s (trcSel s) (fun k => if bit k.cfg 63 then k else { k with base := packFlds [(47, 12, fld v 47 12)] })

def onTrcTrig (s : Mach) (v : Word) : Mach :=
  if grantObs s (trcSel s) = false then s
  else modSink s (trcSel s) (fun k => { k with trig := packFlds [(63, 58, fld v 63 58), (31, 0, fld v 31 0)] })

def onTrcTrigmark (s : Mach) (v : Word) : Mach :=
  if grantObs s (trcSel s) = false then s else modSink s (trcSel s) (fun k => { k with trigMark := v })

def onTrcTrigat (s : Mach) (v : Word) : Mach :=
  if grantObs s (trcSel s) = false then s else modSink s (trcSel s) (fun k => { k with trigAt := v })

/-! ### Snapshots (R568, R570) -/

/-- CCLK of a cluster up to now. -/
def clusterCycles (s : Mach) (cl : Nat) : Nat :=
  let x := vget Clu.zero s.clus cl
  x.cyc + (s.now - x.since) / (8 * acyc / pstateDiv x.pst)

/-- An always-on counter of a die: those that count with time are computed. -/
def aoView (s : Mach) (d k : Nat) : Word :=
  if d = 0 ∧ k = 0 then
    BitVec.ofNat 64 (if s.alm.running then frameNo s - countAt s s.alm.since / 65536 else 0)
  else if k = 0 ∧ 4 ≤ d % 16 ∧ validDie d = true then BitVec.ofNat 64 (edgeNo (getClk s (compOrd d)) s.now)
  else if k = 1 ∧ d % 16 = 1 then
    rg s .CNT_AO 0 (8 * d + 1) + BitVec.ofNat 64 (8 * ((List.range 6).map (fun i => clusterCycles s (d / 16 * 6 + i))).foldl (· + ·) 0)
  else rg s .CNT_AO 0 (8 * d + k)

/-- A write of CNT_SNAPCTL: ARM while no snapshot is in progress arms one at the count in CNT_SNAPAT. -/
def onSnapctl (s : Mach) (v : Word) : Mach :=
  if bit v 62 = false ∨ rb s .CNT_SNAPCTL 0 0 63 then s
  else
    let s := wr s .CNT_SNAPCTL 0 0 (packFlds [(63, 63, 1), (31, 0, rf s .CNT_SNAPCTL 0 0 31 0 + 1)])
    modDbg s (fun d =>
      { d with snapAt := some (rg s .CNT_SNAPAT 0 0).toNat, snapLeft := allBays.filter (bayPresent s) ++ dieIds.map (72 + ·) })

/-- The copy of one unit, and its LATE bit. -/
def snapUnit (s : Mach) (u : SnapUnit) (at_ : Nat) : Mach × Bool :=
  let late := countPassed s at_
  let seq := rf s .CNT_SNAPCTL 0 0 31 0
  match u with
  | .bay b =>
    let s := if late then s else advanceEdge s b (edgeAfter (clkOf s b) (tickOf s at_))
    let s := syncCnt s b
    let s := foldS (List.range 8) (fun t k => wr t .CNT_SH b k (rg t .CNT_EV b k)) s
    (wr s .CNT_SHSTAT b 0 (packFlds [(63, 32, seq), (1, 1, late.toNat), (0, 0, 1)]), late)
  | .die d =>
    let s := if late then s else advanceTo s (tickOf s at_)
    (foldS (List.range 8) (fun t k => wr t .CNT_AOSH 0 (8 * d + k) (aoView t d k)) s, late)

/-- SNAPSHOT_TAKE: a unit copies its counters; with the last copy the snapshot is done. -/
def snapshotTake (s : Mach) (u : SnapUnit) : Mach :=
  let i := match u with | .bay b => b.val | .die d => 72 + d.val
  match s.dbg.snapAt with
  | none => s
  | some at_ =>
    if s.dbg.snapLeft.contains i = false then s
    else
      let (s, late) := snapUnit s u at_
      let s := if late then bump s .CNT_SNAPST 0 0 63 32 1 else s
      let left := s.dbg.snapLeft.erase i
      let s := modDbg s (fun d => { d with snapLeft := left })
      if left.isEmpty then
        let s := modDbg s (fun d => { d with snapAt := none })
        wf (wb s .CNT_SNAPCTL 0 0 63 false) .CNT_SNAPST 0 0 31 0 (rf s .CNT_SNAPCTL 0 0 31 0)
      else s

def execSnapshotTake (u : SnapUnit) (s : State) : Host.Outcome State Fault Refusal := onMach s (fun s => snapshotTake s u)

end Sys2Proof.Machine
end

