-- ==== Sys2Proof/Machine/Nutedex.lean ====
section
/-! DEFINITION. The Nutedex image: its layout, the checks of AUTH and CONFIG, and the registers that its records load (R582 to
R588, R590, R597, R605, R612). -/

namespace Sys2Proof.Machine

/-! ### Layout (R582) -/

/-- Codes of BOOT_ERR (R593). -/
def bStrap : Nat := 1
def bNoImage : Nat := 2
def bFormat : Nat := 3
def bKey : Nat := 4
def bSignature : Nat := 5
def bRollback : Nat := 6
def bDigest : Nat := 7
def bRecord : Nat := 8
def bConfig : Nat := 9
def bTrainHbm : Nat := 0xA
def bTrainDdr : Nat := 0xB
def bTrainD2d : Nat := 0xC
def bFit : Nat := 0xD
def bFlashIo : Nat := 0xE

/-- A failure: its code, the record table index (0xFF none) and DETAIL. -/
structure BootFail where
  code : Nat
  rcd : Nat
  detail : Nat
  deriving DecidableEq, Repr

def hdrKeySlot (m : List Byte) : Nat := cutNat m 5 1
def hdrFlags (m : List Byte) : Nat := cutNat m 6 2
def hdrLen (m : List Byte) : Nat := cutNat m 8 4
def hdrSecver (m : List Byte) : Nat := cutNat m 12 4
def hdrRtOff (m : List Byte) : Nat := cutNat m 16 4
def hdrRtCount (m : List Byte) : Nat := cutNat m 20 2
def imageDigest (m : List Byte) : List Byte := sha384 (m.take 128)

/-- Where entry `i` of the record table lies. -/
def entryOff (m : List Byte) (i : Nat) : Nat := hdrRtOff m + 64 * i

def entryType (m : List Byte) (i : Nat) : Nat := cutNat m (entryOff m i) 2
def entryOffset (m : List Byte) (i : Nat) : Nat := cutNat m (entryOff m i + 4) 4
def entryLength (m : List Byte) (i : Nat) : Nat := cutNat m (entryOff m i + 8) 4
def zeroBytes (m : List Byte) (o n : Nat) : Bool := (cutBytes m o n).all (fun b => decide (b = 0))

/-- The record of a type: its index, its offset and its words. -/
def recordOf (m : List Byte) (ty : Nat) : Option (Nat × Nat × List Word) :=
  ((List.range (hdrRtCount m)).find? (fun i => decide (entryType m i = ty))).map (fun i =>
    let bs := cutBytes m (entryOffset m i) (entryLength m i)
    (i, entryOffset m i, (chunks 8 (entryLength m i / 8) bs).map (fun c => BitVec.ofNat 64 (ofBytes c))))

/-- The words of a record; none where the image has no such record. -/
def recWords (m : List Byte) (ty : Nat) : List Word := match recordOf m ty with | some r => r.2.2 | none => []

/-- Word `k` of a record, 0 where it is absent. -/
def recWord (m : List Byte) (ty k : Nat) : Word := (recWords m ty).getD k 0

def tMap : Nat := 1
def tAlmanac : Nat := 2
def tRoute : Nat := 3
def tVrelrek : Nat := 4
def tPartitions : Nat := 5
def tLoft : Nat := 6
def tPower : Nat := 7
def tRings : Nat := 8
def tCores : Nat := 9
def tDebug : Nat := 0xA
def tShared : Nat := 0xB
def tDdr : Nat := 0xC
def tPcie : Nat := 0xD
def tMgt : Nat := 0xE

/-- LENGTH of a record type, and whether an image must hold it (R586). -/
def typeInfo (ty : Nat) : Option (Nat × Bool) :=
  match ty with
  | 1 => some (48, true) | 2 => some (216, true) | 3 => some (32784, true) | 4 => some (576, false) | 5 => some (36608, true)
  | 6 => some (576, false) | 7 => some (208, true) | 8 => some (65800, false) | 9 => some (144, true) | 10 => some (56, false)
  | 11 => some (512, false) | 12 => some (16, true) | 13 => some (160, false) | 14 => some (16, false) | _ => none

/-! ### AUTH (R583) -/

/-- The first failing check of a list: offset and verdict. -/
def firstFail (l : List (Nat × Bool)) : Option Nat := (l.find? (fun x => !x.2)).map Prod.fst

/-- The format check of the header, then of the entries. -/
def formatFail (m : List Byte) : Option (Nat × Nat) :=
  let len := hdrLen m
  let rt := hdrRtOff m
  let n := hdrRtCount m
  let hdr := firstFail
    [(0, decide (cutNat m 0 4 = 0x5844544E)), (4, decide (cutNat m 4 1 = 1)), (5, decide (hdrKeySlot m < 4)),
     (6, decide (hdrFlags m &&& 0xFF0E = 0)), (8, decide (len % 64 = 0) && decide (6400 ≤ len) && decide (len ≤ 16777216)),
     (12, decide (hdrSecver m < 64)), (16, decide (rt % 64 = 0) && decide (5440 ≤ rt)),
     (20, decide (1 ≤ n) && decide (n ≤ 64) && decide (rt + 64 * n ≤ len)), (22, zeroBytes m 22 2), (80, zeroBytes m 80 48),
     (5389, zeroBytes m 5389 51), (8, decide (len ≤ m.length))]
  match hdr with
  | some o => some (0xFF, o)
  | none =>
    (List.range n).findSome? (fun i =>
      let e := entryOff m i
      (firstFail
        [(e + 3, zeroBytes m (e + 3) 1), (e + 4, decide (entryOffset m i % 64 = 0)), (e + 8, decide (entryLength m i % 8 = 0)),
         (e + 4, decide (entryOffset m i + entryLength m i ≤ len)), (e + 12, zeroBytes m (e + 12) 4)]).map (fun o => (i, o)))

/-- The checks of AUTH in order. -/
def authFail (s : Mach) (m : List Byte) : Option BootFail :=
  let key := cutBytes m 128 1952
  match formatFail m with
  | some (i, o) => some ⟨bFormat, i, o⟩
  | none =>
    if s.fuses.keyDigest.getD (hdrKeySlot m) 0 ≠ sha384Nat key ∨ s.fuses.revoked.testBit (hdrKeySlot m) then some ⟨bKey, 0xFF, 0⟩
    else if Config.mlDsaVerify key (cutBytes m 2080 3309) (m.take 128) = false then some ⟨bSignature, 0xFF, 0⟩
    else if hdrSecver m < s.fuses.secver then some ⟨bRollback, 0xFF, 0⟩
    else if sha384 (cutBytes m (hdrRtOff m) (64 * hdrRtCount m)) ≠ cutBytes m 32 48 then some ⟨bDigest, 0xFF, 32⟩
    else
      ((List.range (hdrRtCount m)).find? (fun i =>
        decide (sha384 (cutBytes m (entryOffset m i) (entryLength m i)) ≠ cutBytes m (entryOff m i + 16) 48))).map
        (fun i => ⟨bDigest, i, entryOff m i + 16⟩)

/-! ### The record table (R586) -/

/-- The RECORD check: every entry, then the required types. -/
def recordFail (m : List Byte) : Option BootFail :=
  let n := hdrRtCount m
  let bad (i : Nat) : Bool :=
    match typeInfo (entryType m i) with
    | none => true
    | some (len, _) =>
      decide (cutNat m (entryOff m i + 2) 1 ≠ 1) || decide (entryLength m i ≠ len) ||
        (List.range i).any (fun j => decide (entryType m j = entryType m i))
  match (List.range n).find? bad with
  | some i => some ⟨bRecord, i, entryOff m i⟩
  | none =>
    if [1, 2, 3, 5, 7, 9, 12].all (fun t => (recordOf m t).isSome) then none else some ⟨bRecord, 0xFF, 0⟩

/-! ### Registers of the records (R585, R586) -/

/-- The bits of a register that a record gives: fields of type RW, and fields whose reset is "Image". -/
def imgMask (n : RegName) : Word :=
  n.info.mask .rw ||| (match n with
    | .ALM_CFG | .ALM_START | .ALM_PASYM | .VK_PEER | .PRT_PART_A | .PRT_PART_B | .PRT_PART_C | .PRT_GGRAN | .PRT_HGRAN =>
      n.info.mask .ro
    | .PWR_PPL => maskOf 64 47 24
    | .PWR_GRP => maskOf 64 63 56
    | _ => 0)

/-- The registers of a record of registers, in the order of its words (R586). -/
def recordRegs (ty : Nat) : List RegRef :=
  let r (n : RegName) (u i : Nat) : RegRef := ⟨n, u, i⟩
  match ty with
  | 2 => [r .ALM_CFG 0 0, r .ALM_START 0 0, r .ALM_HOLD_LIMIT 0 0] ++ (List.range 24).map (r .ALM_PASYM 0)
  | 4 => (List.range 24).flatMap (fun p => [r .VK_CTL p 0, r .VK_CFG p 0, r .VK_PEER p 0])
  | 5 => (List.range 16).flatMap (fun p => [r .PRT_PART_A 0 p, r .PRT_PART_B 0 p, r .PRT_PART_C 0 p])
           ++ (List.range 432).map (r .PRT_GGRAN 0) ++ (List.range 4096).map (r .PRT_HGRAN 0)
  | 7 => [r .PWR_PPL 0 0, r .PWR_SURGE 0 0, r .PWR_CFG 0 0, r .PWR_GRP 0 0] ++ (List.range 16).map (r .PWR_COEF 0)
           ++ (List.range 6).map (fun d => r .PWR_LCFG d 0)
  | 8 => (List.range 4096).flatMap (fun q => [r .RNG_CFG q 0, r .RNG_BASE q 0]) ++ (List.range 16).map (r .ETR_PFRING 0)
           ++ [r .FLT_SYSRING 0 0] ++ (List.range 16).map (r .FLT_PRING 0)
  | 11 => (List.range 32).flatMap (fun k => [r .GRN_SHR_A 0 k, r .GRN_SHR_B 0 k])
  | _ => []

/-- A register takes the fields that its word gives. -/
def loadReg (s : Mach) (r : RegRef) (w : Word) : Mach :=
  let m := imgMask r.name
  csrPut s r.addr ((csrAt s r.addr &&& ~~~m) ||| (w &&& m))

/-- The records of registers that precede others in R588 stand in an otherwise empty register file for the checks. -/
def loadRecord (s : Mach) (m : List Byte) (ty : Nat) : Mach :=
  foldS ((recordRegs ty).zip (recWords m ty)) (fun t x => loadReg t x.1 x.2) s

/-! ### CONFIG (R585, R587) -/

/-- The six words of MAP, and the host-memory range that the DDR record makes. -/
structure ImgMap where
  csp : Nat
  grn : Nat
  host : Nat
  hostLen : Nat
  win : Nat
  imsicM : Nat
  imsicS : Nat
  apertures : List (Nat × Nat)
  deriving DecidableEq, Repr

def imgMap (m : List Byte) : ImgMap :=
  let w (k : Nat) : Nat := (recWord m tMap k).toNat
  let d := recWord m tDdr 0
  let ap (q : Nat) : List (Nat × Nat) :=
    if fld (recWord m tPcie (5 * q)) 1 0 = 0 then []
    else
      let a := recWord m tPcie (5 * q + 1)
      [(fld a 47 30 * 2 ^ 30, fld a 15 0 * 2 ^ 30)]
  { csp := w 0, grn := w 1, host := w 2, hostLen := popcount 16 (fld d 15 0) * fld d 39 32 * 2 ^ 34, win := w 3, imsicM := w 4,
    imsicS := w 5, apertures := (List.range 4).flatMap ap }

/-- Every range of the local address space, with the word of its base: control space, granary, host memory, the loft window, the
IMSIC regions and the apertures. -/
def imgRanges (s : Mach) (x : ImgMap) : List (Nat × Nat) :=
  [(x.csp, 2 ^ 27), (x.grn, granarySize s), (x.host, x.hostLen), (x.win, 72 * 2 ^ 25), (x.imsicM, 96 * 2 ^ 12), (x.imsicS, 96 * 2 ^ 15)]
    ++ x.apertures

/-- Whether `n` bytes from `a` on lie in main memory as the image lays it out. -/
def imgMain (s : Mach) (x : ImgMap) (a n : Nat) : Bool :=
  (decide (x.grn ≤ a) && decide (a + n ≤ x.grn + granarySize s)) || (decide (x.host ≤ a) && decide (a + n ≤ x.host + x.hostLen))

/-- Word `k` of MAP: its alignment and bound, and that its range shares no byte with another. -/
def mapOk (s : Mach) (x : ImgMap) (k : Nat) (w : Word) : Bool :=
  let al := match k with | 0 => 2 ^ 27 | 1 => 2 ^ 30 | 2 => 2 ^ 30 | 3 => 2 ^ 32 | 4 => 2 ^ 20 | _ => 2 ^ 22
  let rs := imgRanges s x
  match rs[k]? with
  | none => false
  | some (a, n) =>
    decide (w.toNat % al = 0) && decide (a + n ≤ 2 ^ 48) &&
      rs.zipIdx.all (fun y => decide (y.2 = k) || !overlaps a n y.1.1 y.1.2)

/-- Words of the PARTITIONS record: A, B and C of partition p and the granules. `t` holds the record loaded. -/
def partOk (s t : Mach) (k : Nat) (w : Word) : Bool :=
  if k < 48 then
    let p := k / 3
    let others := (List.range 16).filter (fun q => decide (q ≠ p) && partValid t q)
    let apart (f : Nat → Nat) : Bool := others.all (fun q => decide (f p &&& f q = 0))
    if !partValid t p then decide (w = 0)
    else match k % 3 with
      | 0 =>
        let y := fld w 17 0
        let present (j : Nat) : Bool := (List.range 4).any (fun i => bayPresent s (4 * j + i))
        decide (fld w 61 60 ≠ 3) && (bitList 18 y).all present && decide (fld w 31 25 = (leadBay t p).getD 0x7F) &&
          apart (fun q => rf t .PRT_PART_A 0 q 17 0) && apart (fun q => rf t .PRT_PART_A 0 q 43 32)
      | 1 =>
        (bitList 24 (fld w 55 32)).all (portPresent s) && apart (fun q => rf t .PRT_PART_B 0 q 55 32) &&
          apart (fun q => rf t .PRT_PART_B 0 q 31 0)
      | _ =>
        let a := fld w 11 0
        let n := fld w 44 32
        decide (a + n ≤ 4096) && (decide (n = 0) || others.all (fun q =>
          !overlaps a n (rf t .PRT_PART_C 0 q 11 0) (rf t .PRT_PART_C 0 q 44 32)))
  else if k < 480 then decide (k - 48 < granarySize s / 2 ^ 30) || decide (w = 0)
  else true

/-- Whether a named ring belongs to a partition and has a kind. -/
def imgRing (t : Mach) (p : Option Nat) (kind r : Nat) : Bool :=
  decide (ringPid t r = p) && p.isSome && decide (rf t .RNG_CFG r 0 62 60 = kind)

/-- Words of the RINGS record. `t` holds PARTITIONS and RINGS. -/
def ringOk (t : Mach) (k : Nat) (w : Word) : Bool :=
  if k < 8192 then
    let r := k / 2
    if k % 2 = 1 then true
    else if bit w 63 = false then true
    else
      ringLegal t r w &&
        (if fld w 62 60 = 1 ∨ fld w 62 60 = 2 then imgRing t (ringPid t r) 3 (fld w 43 32) else true)
  else if bit w 63 = false then true
  else if k < 8208 then imgRing t (some (k - 8192)) 4 (fld w 11 0)
  else if k = 8208 then decide (rf t .RNG_CFG (fld w 11 0) 0 62 60 = 5) && (match ringPid t (fld w 11 0) with | some p => partSys t p | none => false)
  else imgRing t (some (k - 8209)) 5 (fld w 11 0)

/-- Words of the POWER record: what a write would ignore is an error. -/
def powerOk (t : Mach) (k : Nat) (w : Word) : Bool :=
  let keeps (s : Mach) (n : RegName) (u : Nat) : Bool :=
    let m := n.info.mask .rw
    decide (rg s n u 0 &&& m = w &&& m)
  let z := { Mach.reset with csr := [] }
  if k = 0 then
    let f := fld w 35 24
    let c := fld w 47 36
    decide (900 ≤ f) && decide (f ≤ c) && decide (c ≤ 2400) && decide (f ≤ fld w 11 0) && decide (fld w 11 0 ≤ c)
  else if k = 1 then keeps (onSurge z w) .PWR_SURGE 0
  else if k = 2 then
    keeps (onPwrCfg z w) .PWR_CFG 0 &&
      (!bit w 12 || (decide (rf t .RNG_CFG (fld w 11 0) 0 62 60 = 5) && (ringPid t (fld w 11 0)).isSome))
  else if k = 3 then keeps (onPwrGrp z w) .PWR_GRP 0
  else if k < 20 then true
  else keeps (onLcfg z 0 w) .PWR_LCFG 0

/-- Words of the ROUTE record (R438): words 0 and 1, then four entries of 16 bits a word. -/
def routeOk (s : Mach) (x : ImgMap) (m : List Byte) (k : Nat) (w : Word) : Bool :=
  let own := fld (recWord m tRoute 0) 13 0
  let mib := fld (recWord m tRoute 0) 47 32
  if k = 0 then decide (fld w 63 48 = 0) && decide (fld w 15 14 = 0)
  else if k = 1 then
    let a := fld w 47 0
    decide (fld w 63 48 = 0) && decide (a % 2 ^ 20 = 0) &&
      (decide (mib = 0) || (decide (x.host ≤ a) && decide (a + 4 * mib * 2 ^ 20 ≤ x.host + x.hostLen)))
  else (List.range 4).all (fun i =>
    let n := 4 * (k - 2) + i
    let e := fld w (16 * i + 15) (16 * i)
    let port (p : Nat) : Bool := decide (p < 24) && portPresent s p
    decide (n = own) || (decide (e % 16 = 0) &&
      (!e.testBit 15 || (port (e / 1024 % 32) && (!e.testBit 9 || port (e / 16 % 32))))))

/-- Words of the SHARED record: a valid entry is one that R282 accepts. `t` holds the record loaded. -/
def sharedOk (s t : Mach) (k : Nat) (w : Word) : Bool :=
  let n := k / 2
  if k % 2 = 1 ∨ bit w 63 = false then true
  else
    let base := fld w 22 0
    let size := fld w 45 23
    decide ((base + size) * 65536 ≤ granarySize s) && decide (size ≠ 0) && decide (fld w 61 60 ≠ 3) &&
      (List.range 32).all (fun j =>
        decide (j = n) || !bit (shrA t j) 63 || !overlaps base size (fld (shrA t j) 22 0) (fld (shrA t j) 45 23))

/-- Words of the CORES record (R590). `t` holds PARTITIONS. -/
def coresOk (s t : Mach) (x : ImgMap) (k : Nat) (w : Word) : Bool :=
  if k < 16 then
    if bit w 63 then decide (fld w 62 48 = 0) && decide (fld w 47 0 % 4 = 0) && imgMain s x (fld w 47 0) 4
    else decide (w = 0) && (!partValid t k || decide (rf t .PRT_PART_A 0 k 43 32 = 0))
  else if k = 16 then decide (fld w 63 36 = 0) && (List.range 12).all (fun c => decide (fld w (3 * c + 2) (3 * c) ≤ 5))
  else decide (fld w 63 16 = 0)

/-- Words of the LOFT record. -/
def loftOk (s : Mach) (k : Nat) (w : Word) : Bool :=
  if bayPresent s k then decide (w.toNat &&& 0x107 = w.toNat) && decide (fld w 2 0 ≤ 4) else decide (w = 0)

/-- Words of the VRELREK record: those of an absent port are 0. -/
def vrelrekOk (s : Mach) (k : Nat) (w : Word) : Bool := portPresent s (k / 3) || decide (w = 0)

/-- Words of the DDR record (R597). -/
def ddrOk (k : Nat) (w : Word) : Bool :=
  if k = 0 then
    decide (fld w 63 41 = 0) && decide (fld w 31 20 = 0) && decide (1 ≤ fld w 39 32) && decide (fld w 39 32 ≤ 16) &&
      decide (fld w 19 16 ≤ 2) && (decide (fld w 15 0 = 0xFFFF) || decide (fld w 15 0 = 0x0F0F))
  else decide (fld w 63 8 = 0)

/-- Words of the PCIE record (R605). -/
def pcieOk (s : Mach) (x : ImgMap) (m : List Byte) (k : Nat) (w : Word) : Bool :=
  let q := k / 5
  let mode := fld (recWord m tPcie (5 * q)) 1 0
  match k % 5 with
  | 0 => decide (fld w 63 9 = 0) && decide (mode ≠ 3) && decide (fld w 4 2 ≤ 3) && decide (fld w 7 5 ≤ 5)
  | 1 =>
    let a := fld w 47 30 * 2 ^ 30
    let n := fld w 15 0 * 2 ^ 30
    decide (fld w 63 48 = 0) && decide (fld w 29 16 = 0) &&
      (decide (mode = 0) || (decide (1 ≤ fld w 15 0) && decide (fld w 15 0 ≤ 1024) && decide (a + n ≤ 2 ^ 48) &&
        (imgRanges s x).all (fun r => decide (r = (a, n)) || !overlaps a n r.1 r.2) &&
        decide ((x.apertures.filter (fun r => decide (r = (a, n)))).length ≤ 1)))
  | 2 => decide (mode ≠ 2) || (decide (fld w 63 14 = 0) && decide (20 ≤ fld w 13 8) && decide (fld w 13 8 ≤ 40))
  | 3 =>
    decide (mode ≠ 2) || (decide (fld w 63 48 = 0) && decide (fld w 47 0 % 2 ^ fld (recWord m tPcie (5 * q + 2)) 13 8 = 0) &&
      imgMain s x (fld w 47 0) 1)
  | _ => decide (mode = 2) || decide (w = 0)

/-- Words of the MGT record (R612). -/
def mgtOk (k : Nat) (w : Word) : Bool := if k = 0 then decide (w.toNat &&& 0x17F = w.toNat) else decide (w = 0)

/-- Word 6 of the DEBUG record: only bit 0 may be set. -/
def debugOk (k : Nat) (w : Word) : Bool := decide (k ≠ 6) || decide (w.toNat ≤ 1)

/-- Whether a word of a record passes every check of CONFIG. `t` holds the registers of PARTITIONS, RINGS and SHARED. -/
def wordOk (s t : Mach) (x : ImgMap) (m : List Byte) (ty k : Nat) (w : Word) : Bool :=
  let fields := match (recordRegs ty)[k]? with
    | some r => decide (w &&& ~~~imgMask r.name = 0)
    | none => true
  fields && (match ty with
    | 1 => mapOk s x k w
    | 3 => routeOk s x m k w
    | 4 => vrelrekOk s k w
    | 5 => partOk s t k w
    | 6 => loftOk s k w
    | 7 => powerOk t k w
    | 8 => ringOk t k w
    | 9 => coresOk s t x k w
    | 10 => debugOk k w
    | 11 => sharedOk s t k w
    | 12 => ddrOk k w
    | 13 => pcieOk s x m k w
    | 14 => mgtOk k w
    | _ => true)

/-- The first word that fails a check of CONFIG, in the order of the record table. -/
def configFail (s : Mach) (m : List Byte) : Option BootFail :=
  let x := imgMap m
  let t := loadRecord (loadRecord (loadRecord { Mach.reset with fuses := s.fuses } m tPartitions) m tRings) m tShared
  (List.range (hdrRtCount m)).findSome? (fun i =>
    let ty := entryType m i
    ((recWords m ty).zipIdx.find? (fun y => !wordOk s t x m ty y.2 y.1)).map (fun y => ⟨bConfig, i, entryOffset m i + 8 * y.2⟩))

end Sys2Proof.Machine
end

