-- ==== Sys2Proof/Machine/Boot.lean ====
section
/-! DEFINITION. Bring-up, from the straps to the release of the cores, and the four levels of reset (R22, R23, R34, R542, R543,
R577 to R592, R598, R599). -/

namespace Sys2Proof.Machine

open Sys2Proof.Config (acyc)

/-! ### Fuses and straps (R22, R23, R34) -/

/-- The die ID that a strap combination gives; none where it is not valid. -/
def strapId (r : StrapReport) : Option Nat :=
  let h := r.half.toNat
  match r.role.toNat with
  | 0 => if r.pos = 0 ∧ h = 0 then some 0 else none
  | 1 => if r.pos = 0 then some (16 * h + 1) else none
  | 2 => if r.pos.toNat < 2 then some (16 * h + 2 + r.pos.toNat) else none
  | _ => if r.pos.toNat < 3 then some (16 * h + 4 + r.pos.toNat) else none

/-- Whether the 13 dies report 13 different valid IDs and designs that match their roles. -/
def strapsGood (l : List StrapReport) : Bool :=
  let ids := l.map strapId
  l.all (fun r => (strapId r).isSome && decide (r.design.toNat = r.role.toNat + 1)) && decide ids.Nodup &&
    dieIds.all (fun d => ids.contains (some d))

/-- Straps of a valid die ID: half, role, position, and the ordinal of DIE_IDENT. -/
def dieStraps (d : Nat) : Nat × Nat × Nat × Nat :=
  let h := d / 16
  let x := d % 16
  if x = 0 then (0, 0, 0, 0) else if x = 1 then (h, 1, 0, h) else if x < 4 then (h, 2, x - 2, barnOrd d) else (h, 3, x - 4, compOrd d)

/-- DIE_IDENT of a die. -/
def dieIdent (s : Mach) (d : Nat) : Word :=
  let (h, role, pos, o) := dieStraps d
  packFlds [(31, 24, role + 1), (23, 20, s.fuses.designRev), (16, 16, h), (12, 12, h), (11, 10, role), (9, 8, pos), (7, 5, o), (4, 0, d)]

/-- The links of a die that exist: UP of each, and REPAIRED as fused. -/
def dieLinks (d : Nat) : Nat := if d = 0 then 0 else if d % 16 = 2 ∨ d % 16 = 3 then 6 else 2

def dieBridge (s : Mach) (d : Nat) (up : Bool) : Word :=
  packFlds ((List.range (dieLinks d)).flatMap (fun k =>
    [(4 * k + 3, 4 * k + 3, up.toNat), (4 * k + 2, 4 * k + 2, ((smapGet 0 s.fuses.repaired d).testBit k).toNat)]))

/-- DIE_BAYCAP of a bay: 0 where it is absent. -/
def bayCap (s : Mach) (b : Nat) : Word :=
  if bayPresent s b then
    packFlds [(63, 63, 1), (62, 60, shfPerBay s), (59, 59, 1), (58, 58, 1), (57, 56, 2), (55, 48, 24), (39, 32, b)]
  else 0

/-- The registers that fuses and straps give (R34 and the fused fields of other blocks). -/
def loadFuses (s : Mach) (up : Bool) : Mach :=
  let f := s.fuses
  let e := f.variantE.toNat
  let s := wf (wf (wf s .HUB_CAP0 0 0 23 20 e) .HUB_CAP0 0 0 19 15 f.stepLetter) .HUB_CAP0 0 0 14 11 f.metal
  let s := wf (wf (wf s .HUB_CAP1 0 0 63 56 (if f.variantE then 60 else 72)) .HUB_CAP1 0 0 55 52 (shfPerBay s)) .HUB_CAP1 0 0 23 16 (stackGib s)
  let s := wf (wf s .HUB_CAP2 0 0 33 32 (if f.variantE then 0 else 3)) .HUB_CAP2 0 0 31 24 (if f.variantE then 12 else 24)
  let s := wf s .HUB_CAP2 0 0 23 0 ((List.range 24).foldl (fun m p => if portPresent s p then m + 2 ^ p else m) 0)
  let s := wf s .HUB_CAP3 0 0 47 0 ((List.range 6).foldl (fun m k =>
    let a := if f.variantE then f.absent.getD k (0xF, 0xF) else (0xF, 0xF)
    m + (a.2 * 16 + a.1) * 2 ^ (8 * k)) 0)
  let s := wr s .HUB_DIE_IDENT 0 0 (dieIdent s 0)
  let s := foldS (dieIds.filter (fun d => decide (d ≠ 0))) (fun t d => wr (wr t .DIE_IDENT d 0 (dieIdent t d)) .DIE_BRIDGE d 0 (dieBridge t d up)) s
  let s := foldS allBays (fun t b => wr t .DIE_BAYCAP (compDieId (dieOf b)) (b % 12) (bayCap t b)) s
  let s := foldS allBays (fun t b => wr t .MXA_REPAIR b 0 (smapGet 0 f.mxaRepair b)) s
  let s := foldS (List.range 12) (fun t k => wf (wf t .GRN_STATUS k 0 47 40 (stackGib t)) .GRN_MAP k 0 63 48 (12 * stackGib t)) s
  let s := wf (wf s .PWR_CFG 0 0 31 24 f.rampStep.1) .PWR_CFG 0 0 23 16 f.rampStep.2
  let s := foldS (List.range 16) (fun t k => wf t .PWR_COEF 0 k 39 16 (f.coef.getD k 0)) s
  let s := foldS (List.range 13) (fun t k =>
    let v := f.vtab.getD k (0, 0, 0)
    wr t .PWR_VTAB 0 k (packFlds [(42, 32, v.1), (27, 16, v.2.1), (11, 0, v.2.2)])) s
  let s := wf (wf s .BOOT_STATUS 0 0 55 48 f.secver) .BOOT_STATUS 0 0 47 44 f.revoked
  let s := wr s .SEC_UID 0 0 f.uid
  foldS (List.range 6) (fun t d => setVolt t d 4) s

/-! ### Phases (R577) -/

def phase (s : Mach) : Nat := rf s .BOOT_STATUS 0 0 3 0

/-- Microseconds since the rise of PKG_PWROK. -/
def bootUs (s : Mach) : Nat := (s.now - s.boot.t0) / (1600 * acyc)

/-- A phase begins. -/
def setPhase (s : Mach) (p : Nat) : Mach := modBoot (wf s .BOOT_STATUS 0 0 3 0 p) (fun b => { b with phaseAt := s.now })

/-- The phase in progress, 1 to 6, ends and another begins. -/
def nextPhase (s : Mach) (p : Nat) : Mach :=
  setPhase (wr s .BOOT_TIME 0 (phase s - 1) (BitVec.ofNat 64 (sat 32 (bootUs s)))) p

/-- What a failure leaves in BOOT_ERR: CODE of the slot concerned, RECORD and DETAIL. -/
def setBootErr (s : Mach) (f : BootFail) : Mach :=
  let s := if s.boot.slot = 1 ∧ f.code ≠ bStrap then wf s .BOOT_ERR 0 0 55 48 f.code else wf s .BOOT_ERR 0 0 47 40 f.code
  wf (wf s .BOOT_ERR 0 0 39 32 f.rcd) .BOOT_ERR 0 0 31 0 f.detail

/-- A Vrelrek port that is not to run. -/
def downPort (s : Mach) (p : Nat) : Mach :=
  if portState s p = 0 then s
  else
    let s := endMeasure (wr s .VK_STATUS p 0 0) p
    discardPort (modPort s p (fun q => { q with sub := 0, peer := none })) p

/-- BRINGUP_FAILED (R592): the failure is recorded, every port is DISABLED, and a record of class BRINGUP is raised. -/
def bootFail (s : Mach) (f : BootFail) : Mach :=
  let s := setPhase (setBootErr s f) 0xF
  let s := foldS (List.range 24) downPort s
  let s := foldS (List.range 4) (fun t q => foldS (List.range 4) (fun u l => wr u .PCI_LINK q l 0) t) s
  raise s (mkRec s 0x12 f.code 0x17 0x7F 0 0 0)

/-- A slot fails: slot 0 leaves slot 1 to be read, as long as no register has been loaded (R581). -/
def slotFail (s : Mach) (f : BootFail) : Mach :=
  if s.boot.slot = 0 ∧ s.boot.loading = false ∧ s.boot.accepted = false then
    modBoot (setBootErr s f) (fun b => { b with fallback := true, read := false, authed := false, buf := [] })
  else bootFail s f

/-- A failure that names no record. -/
def plainFail (code detail : Nat) : BootFail := ⟨code, 0xFF, detail⟩

/-! ### Cold reset and the straps (R22, R23, R542, R577) -/

/-- What every reset of the package starts from: the state before bring-up, with what no reset reaches. Clocks restart now. -/
def freshState (s : Mach) : Mach :=
  let z := Mach.reset
  let w := s.now
  { z with
    now := w, freeCtr := s.freeCtr, fuses := s.fuses, pins := s.pins, mem := s.mem, memPois := s.memPois,
    loft := s.loft, loftPois := s.loftPois, coldEpoch := s.coldEpoch, granKey := s.granKey, lineKey := s.lineKey,
    epochs := s.epochs, clk := z.clk.map (fun c => { c with epoch := w, stopped := decide (s.pins.thermtripN = false) }),
    clus := z.clus.map (fun c => { c with since := w }) }

/-- PKG_PWROK_RISE: a cold reset. The straps are sampled and checked; with PKG_RESET_N low, STRAPS ends in HELD. -/
def pkgPwrokRise (s : Mach) (reports : List StrapReport) (resetLow : Bool) : Mach :=
  if s.pins.pwrok then s
  else
    let s := freshState { s with pins := { pwrok := true, resetN := !resetLow, alertN := s.pins.alertN, thermtripN := true, xspiDriven := false } }
    let s := { s with coldEpoch := s.epochs + 1, epochs := s.epochs + 1, granKey := [] }
    let good := strapsGood reports
    let s := modBoot s (fun b => { b with t0 := s.now, phaseAt := s.now, straps := reports, strapsOk := good })
    let s := setPhase (loadFuses s false) 1
    if good = false then bootFail s (plainFail bStrap 0)
    else if resetLow then nextPhase (modBoot (loadFuses s true) (fun b => { b with linksUp := true })) 8
    else s

def execPkgPwrokRise (reports : List StrapReport) (resetLow : Bool) (s : State) : Host.Outcome State Fault Refusal :=
  onMach s (fun s => pkgPwrokRise s reports resetLow)

/-- STRAPS_PHASE_TIMEOUT: 2 ms after the rise of PKG_PWROK the links of a die have not trained. -/
def strapsPhaseTimeout (s : Mach) (down : List (Fin 32)) : Mach :=
  match down with
  | [] => s
  | d :: _ =>
    if phase s ≠ 1 then s
    else
      let s := advanceTo s (s.boot.phaseAt + 3200000 * acyc)
      bootFail (modBoot s (fun b => { b with linksDown := down.map Fin.val })) (plainFail bTrainD2d d)

def execStrapsPhaseTimeout (down : List (Fin 32)) (s : State) : Host.Outcome State Fault Refusal :=
  onMach s (fun s => strapsPhaseTimeout s down)

/-! ### The image (R580, R581, R583, R587, R588) -/

/-- STRAPS ends with every link trained, and IMAGE begins. -/
def enterImage (s : Mach) : Mach :=
  if phase s = 1 then
    let s := foldS (dieIds.filter (fun d => decide (d ≠ 0))) (fun t d => wr t .DIE_BRIDGE d 0 (dieBridge t d true)) s
    nextPhase (modBoot s (fun b => { b with linksUp := true })) 2
  else s

/-- Whether the hub is reading a slot. -/
def imageOpen (s : Mach) (slot : Nat) : Bool :=
  (decide (phase s = 1) || decide (phase s = 2)) && decide (s.boot.slot = slot) && !s.boot.read && !s.boot.fallback

/-- IMAGE_READ: the whole of a slot is read. The hub drives the xSPI lands only meanwhile. -/
def imageRead (s : Mach) (slot : Nat) (octal : Bool) (bytes : List Byte) : Mach :=
  if imageOpen s slot then
    modBoot (enterImage s) (fun b => { b with buf := bytes.take (2 ^ 24), read := true, octal := octal })
  else s

def execImageRead (slot : Fin 2) (octal : Bool) (bytes : List Byte) (s : State) : Host.Outcome State Fault Refusal :=
  onMach s (fun s => imageRead s slot octal bytes)

/-- FLASH_TIMEOUT: no response within 10 ms: NO_IMAGE for an absent device, FLASH_IO for one that stops answering (R608). -/
def flashTimeout (s : Mach) (present : Bool) : Mach :=
  if imageOpen s s.boot.slot then
    let s := enterImage s
    slotFail (advanceTo s (s.boot.phaseAt + 16000000 * acyc)) (plainFail (if present then bFlashIo else bNoImage) 0)
  else s

def execFlashTimeout (present : Bool) (s : State) : Host.Outcome State Fault Refusal := onMach s (fun s => flashTimeout s present)

/-- SLOT_FALLBACK: the hub turns to slot 1. -/
def slotFallback (s : Mach) : Mach :=
  if s.boot.fallback then setPhase (modBoot s (fun b => { b with fallback := false, slot := 1 })) 2 else s

def execSlotFallback (s : State) : Host.Outcome State Fault Refusal := onMach s (fun s => slotFallback s)

/-- AUTH: the image read is authenticated. -/
def auth (s : Mach) : Mach :=
  if phase s ≠ 2 ∨ s.boot.read = false then s
  else
    let s := nextPhase s 3
    match authFail s s.boot.buf with
    | some f => slotFail s f
    | none => modBoot s (fun b => { b with authed := true })

def execAuth (s : State) : Host.Outcome State Fault Refusal := onMach s (fun s => auth s)

/-- What acceptance of an image puts in the BOOT registers. -/
def acceptImage (s : Mach) : Mach :=
  let m := s.boot.buf
  let d := imageDigest m
  let s := modBoot s (fun b => { b with image := m.take (hdrLen m), accepted := true, buf := [] })
  let s := wf s .BOOT_STATUS 0 0 33 32 s.boot.slot
  let s := wr s .BOOT_BUILD 0 0 (BitVec.ofNat 64 (cutNat m 24 8))
  let s := wr s .BOOT_INFO 0 0 (packFlds [(63, 32, hdrLen m), (21, 16, hdrSecver m), (6, 0, hdrRtCount m)])
  foldS (List.range 6) (fun t k => wr t .BOOT_DIGEST 0 k (BitVec.ofNat 64 (cutNat d (8 * k) 8))) s

/-- MAP: the bases of the address space. -/
def loadMap (s : Mach) (m : List Byte) : Mach :=
  let x := imgMap m
  let s := { s with cfg := { s.cfg with cspBase := x.csp, grnBase := x.grn, hostBase := x.host, winBase := x.win, imsicM := x.imsicM, imsicS := x.imsicS } }
  let s := foldS (List.range 12) (fun t k => wf t .GRN_MAP k 0 47 30 (x.grn / 2 ^ 30)) s
  foldS (List.range 6) (fun t d => wf t .LFT_WINBASE d 0 47 0 x.win) s

/-- KEY_GENERATION (R472): a key for each defined partition and the package key, at a cold reset. -/
def loadKeys (s : Mach) : Mach :=
  if rb s .SEC_STATUS 0 0 1 then s
  else
    let ps := (List.range 16).filter (partValid s)
    let s := foldS (ps ++ [16]) (fun t p =>
      modBoot t (fun b => { b with keys := smapPut 0 b.keys p (Config.drbgKey b.keyDraws), keyDraws := b.keyDraws + 1 })) s
    let s := foldS ps (fun t p => wr t .SEC_KEYEPOCH 0 p 1) s
    wb (wb s .SEC_STATUS 0 0 0 true) .SEC_STATUS 0 0 1 true

/-- LOFT: the split and the cache region of every bay. -/
def loadLoft (s : Mach) (m : List Byte) : Mach :=
  foldS ((recWords m tLoft).zipIdx) (fun t y =>
    wb (wf t .LFT_SPLIT y.2 0 2 0 (fld y.1 2 0)) .LFT_CCTL y.2 0 0 (bit y.1 8)) s

/-- ROUTE: one copy for every barn die (R438). -/
def loadRoute (s : Mach) (m : List Byte) : Mach :=
  let a := recWord m tRoute 0
  let es := (recWords m tRoute).drop 2
  let l := (es.zipIdx.flatMap (fun y => (List.range 4).map (fun i => (4 * y.2 + i, fld y.1 (16 * i + 15) (16 * i))))).filter (fun e => decide (e.2 ≠ 0))
  { s with route := { nodeId := fld a 13 0, remoteTmo := fld a 31 16, spillMib := fld a 47 32, spillBase := fld (recWord m tRoute 1) 47 0, entries := l } }

/-- The registers of rings that the image enables take what enabling gives them (R495). -/
def loadRings (s : Mach) (m : List Byte) : Mach :=
  let on := (List.range 4096).filter (fun r => rb s .RNG_CFG r 0 63)
  foldS (if (recordOf m tRings).isSome then on else []) (fun t r =>
    wr (wr t .RNG_STATE r 0 (packFlds [(63, 48, 1)])) .RNG_CIDX r 0 (packFlds [(63, 63, 1)])) s

/-- CORES: the initial P-states of the clusters (R590). -/
def loadCores (s : Mach) (m : List Byte) : Mach :=
  let w := recWord m tCores 16
  let p (c : Nat) : Nat := fld w (3 * c + 2) (3 * c)
  let s := { s with cfg := { s.cfg with cores := recWords m tCores } }
  let s := foldS (List.range 12) (fun t c => { t with clus := vmod t.clus c (fun x => { x with pst := p c }) }) s
  foldS (List.range 96) (fun t c => modCore t c (fun x => { x with csr := smapPut 0 x.csr 0x7C2 (packFlds [(10, 8, p (c / 8)), (2, 0, p (c / 8))]) })) s

/-- CONFIG_LOAD (R588): the records in their order. -/
def loadImage (s : Mach) (m : List Byte) : Mach :=
  let s := loadRecord (loadMap s m) m tPartitions
  let s := wf s .PRT_STATUS 0 0 31 16 ((List.range 16).foldl (fun n p => if partValid s p then n + 2 ^ p else n) 0)
  let s := loadKeys s
  let s := loadRoute (loadRecord (loadLoft s m) m tAlmanac) m
  let s := loadRings (loadRecord (loadRecord s m tShared) m tRings) m
  let s := loadRecord s m tPower
  let dbg := (recordOf m tDebug).isSome
  let s := { s with cfg := { s.cfg with
    ddr := recWord m tDdr 0, ddrScrub := recWord m tDdr 1, pcie := recWords m tPcie,
    mgt := if (recordOf m tMgt).isSome then recWord m tMgt 0 else 0x4A,
    dbgKey := if dbg then some ((recWords m tDebug).take 6 |>.flatMap (fun w => bytesOf 8 w.toNat)) else none,
    dbgPkg := bit (recWord m tDebug 6) 0 } }
  let s := loadRecord s m tVrelrek
  let s := foldS ((List.range 24).filter (fun p => portPresent s p && rb s .VK_CTL p 0 0)) startPort s
  loadCores s m

/-- CONFIG: every record is checked, and then loaded. The records that the hub kept need no second check. -/
def config (s : Mach) : Mach :=
  if phase s = 3 ∧ s.boot.authed then
    let s := nextPhase s 4
    match (recordFail s.boot.buf).orElse (fun _ => configFail s s.boot.buf) with
    | some f => slotFail (modBoot s (fun b => { b with authed := false })) f
    | none =>
      let s := acceptImage s
      loadImage (modBoot s (fun b => { b with authed := false, loading := true })) s.boot.image
  else if phase s = 4 ∧ s.boot.accepted ∧ s.boot.loading = false then
    loadImage (modBoot s (fun b => { b with loading := true })) s.boot.image
  else s

def execConfig (s : State) : Host.Outcome State Fault Refusal := onMach s (fun s => config s)

/-! ### Training (R589, R598, R599) -/

/-- TRAIN: CONFIG ends and the memories start to train; a grandmaster starts to listen (R44). -/
def train (s : Mach) : Mach :=
  if phase s ≠ 4 ∨ s.boot.loading = false then s
  else
    let s := nextPhase s 5
    if isGm s then modAlm (setAlmState s aAcquire) (fun a => { a with listenFrom := some s.now }) else s

def execTrain (s : State) : Host.Outcome State Fault Refusal := onMach s (fun s => train s)

/-- Whether a channel is enabled by the DDR record. -/
def ddrEnabled (s : Mach) (c : Nat) : Bool := (fld s.cfg.ddr 15 0).testBit c

/-- DDR_CHANNEL_TRAINING. -/
def ddrChannelTraining (s : Mach) (c : Nat) (x : SpdReport) : Mach :=
  if phase s ≠ 5 ∨ ddrEnabled s c = false ∨ rb s .BOOT_TRAIN 0 0 c ∨ rb s .BOOT_TRAIN 0 0 (16 + c) then s
  else if x.dimm16 = fld s.cfg.ddr 39 32 ∧ fld s.cfg.ddr 19 16 ≤ x.speed ∧ x.x4 ∧ x.listed ∧ x.trained then
    wr (wb s .BOOT_TRAIN 0 0 c true) .DDR_STATUS c 0
      (packFlds [(47, 40, x.dimm16), (39, 36, x.ranks), (35, 32, fld s.cfg.ddr 19 16), (0, 0, 1)])
  else bootFail (wb (wb s .BOOT_TRAIN 0 0 (16 + c) true) .DDR_STATUS c 0 1 true) (plainFail bTrainDdr c)

def execDdrChannelTraining (ch : Fin 16) (spd : SpdReport) (s : State) : Host.Outcome State Fault Refusal :=
  onMach s (fun s => ddrChannelTraining s ch spd)

/-- HBM_STACK_TRAINING: a stack fails when any of its 32 pseudo-channels cannot be trained. -/
def hbmStackTraining (s : Mach) (k : Nat) (up : BitVec 32) : Mach :=
  if phase s ≠ 5 ∨ rb s .BOOT_TRAIN 0 0 (36 + k) ∨ rb s .BOOT_TRAIN 0 0 (48 + k) then s
  else
    let s := wf s .GRN_STATUS k 0 39 32 (popcount 32 up.toNat)
    if up.toNat = 2 ^ 32 - 1 then wb (wb s .BOOT_TRAIN 0 0 (36 + k) true) .GRN_STATUS k 0 0 true
    else bootFail (wb s .BOOT_TRAIN 0 0 (48 + k) true) (plainFail bTrainHbm k)

def execHbmStackTraining (k : Fin 12) (up : BitVec 32) (s : State) : Host.Outcome State Fault Refusal :=
  onMach s (fun s => hbmStackTraining s k up)

/-- Stacks and channels that have not trained. -/
def stacksLeft (s : Mach) : List Nat := (List.range 12).filter (fun k => !rb s .BOOT_TRAIN 0 0 (36 + k))
def chansLeft (s : Mach) : List Nat := (List.range 16).filter (fun c => ddrEnabled s c && !rb s .BOOT_TRAIN 0 0 c)

/-- TRAIN_TIMEOUT: 2 s after TRAIN began, what has not trained is marked failed. -/
def trainTimeout (s : Mach) : Mach :=
  if phase s ≠ 5 then s
  else
    let ks := stacksLeft s
    let cs := chansLeft s
    let s1 := advanceTo s (s.boot.phaseAt + 3200000000 * acyc)
    let s1 := foldS ks (fun t k => wb t .BOOT_TRAIN 0 0 (48 + k) true) s1
    let s1 := foldS cs (fun t c => wb (wb t .BOOT_TRAIN 0 0 (16 + c) true) .DDR_STATUS c 0 1 true) s1
    match ks, cs with
    | k :: _, _ => bootFail s1 (plainFail bTrainHbm k)
    | [], c :: _ => bootFail s1 (plainFail bTrainDdr c)
    | [], [] => s

def execTrainTimeout (s : State) : Host.Outcome State Fault Refusal := onMach s (fun s => trainTimeout s)

/-- The reset vector of a partition, where it has one. -/
def resetVec (s : Mach) (p : Nat) : Option Nat :=
  let w := s.cfg.cores.getD p 0
  if bit w 63 then some (fld w 47 0) else none

/-- Whether partition `p` may read every byte of a range of main memory. -/
def partReads (s : Mach) (p a n : Nat) : Bool :=
  ((List.range (n / 2 ^ 30 + 1)).map (fun i => a + min (i * 2 ^ 30) (n - 1))).all (fun x =>
    let e := granuleOf s x
    isMain s x && bit e 63 && (decide (fld e 51 48 = p) || (fld e 31 16).testBit p))

/-- The granule of an address, within its range. -/
def granuleIdx (s : Mach) (a : Nat) : Nat := if isMain s a then granNo s a % 65536 else 0

/-- The first thing that does not fit the memory found (R589): its granule. -/
def fitFail (s : Mach) : Option Nat :=
  let host := hostSize s / 2 ^ 30
  let gran := (List.range 4096).find? (fun g => rb s .PRT_HGRAN 0 g 63 && decide (host ≤ g))
  let vec := ((List.range 16).filterMap (fun p => (resetVec s p).map (fun a => (p, a)))).find? (fun x => !partReads s x.1 x.2 4)
  let ring := (List.range 4096).find? (fun r =>
    rb s .RNG_CFG r 0 63 && !partReads s ((ringPid s r).getD 16) (rf s .RNG_BASE r 0 47 10 * 1024) (64 * ringSize s r))
  let spill := if s.route.spillMib = 0 then none
    else ((List.range (s.route.spillMib * 4 / 1024 + 1)).map (fun i =>
        s.route.spillBase + min (i * 2 ^ 30) (s.route.spillMib * 2 ^ 22 - 1))).find?
      (fun a => (match region s a with | .host _ => false | _ => true) || bit (granuleOf s a) 63)
  gran.orElse (fun _ => (vec.map (fun x => granuleIdx s x.2)).orElse (fun _ =>
    (ring.map (fun r => granuleIdx s (rf s .RNG_BASE r 0 47 10 * 1024))).orElse (fun _ => spill.map (granuleIdx s))))

/-- FIT_CHECK: with every unit trained, the configuration must fit the memory found. -/
def fitCheck (s : Mach) : Mach :=
  if phase s ≠ 5 ∨ stacksLeft s ≠ [] ∨ chansLeft s ≠ [] then s
  else match fitFail s with
    | some g => bootFail s (plainFail bFit g)
    | none => nextPhase s 6

def execFitCheck (s : State) : Host.Outcome State Fault Refusal := onMach s (fun s => fitCheck s)

/-! ### Release (R584, R591) -/

/-- The cores of a partition leave reset in M-mode at its reset vector, with a0 and a1 as R591 gives them. -/
def startCores (s : Mach) (p : Nat) : Mach :=
  foldS (partCores s p) (fun t c =>
    let q := fld (t.cfg.cores.getD 16 0) (3 * (c / 8) + 2) (3 * (c / 8))
    let cur := fld (smapGet 0 (getCore t c).csr 0x7C2) 10 8
    modCore t c (fun _ =>
      { Core.zero with
        released := true, pc := BitVec.ofNat 64 ((resetVec t p).getD 0),
        x := smapPut 0 (smapPut 0 [] 10 (BitVec.ofNat 64 c)) 11 (BitVec.ofNat 64 p),
        csr := smapPut 0 Core.zero.csr 0x7C2 (packFlds [(10, 8, cur), (2, 0, q)]) }))
    { s with dm := { s.dm with havereset := (partCores s p).foldl (fun m c => smapPut false m c true) s.dm.havereset } }

/-- FUSE_ADVANCE (R584). -/
def fuseAdvance (s : Mach) : Mach :=
  let m := s.boot.image
  let f := s.fuses
  if hdrFlags m % 2 = 0 then s
  else
    let rev := hdrFlags m / 16 % 16 &&& (15 ^^^ 2 ^ hdrKeySlot m)
    let all := f.revoked ||| rev
    let f2 := { f with secver := max f.secver (hdrSecver m), revoked := if all = 15 then f.revoked else all }
    if f2 = f then s
    else
      let s := wb { s with fuses := f2 } .BOOT_STATUS 0 0 61 true
      wf (wf s .BOOT_STATUS 0 0 55 48 f2.secver) .BOOT_STATUS 0 0 47 44 f2.revoked

/-- ALMWAIT_RELEASE. -/
def almwaitRelease (s : Mach) : Mach :=
  if phase s ≠ 6 then s
  else
    let st := almState s
    let runs := decide (st = aLocked) || decide (st = aFree) || decide (st = aHoldover)
    let wait := fld (s.cfg.cores.getD 17 0) 15 0
    let s := if runs ∨ wait = 0 then s else advanceTo s (s.boot.phaseAt + wait * 65536 * acyc)
    let s := toFrameBoundary s
    let s := nextPhase s 7
    let s := if runs then s else wb s .BOOT_STATUS 0 0 62 true
    let s := foldS ((List.range 16).filter (partValid s)) startCores s
    let s := wb (wb s .PRT_STATUS 0 0 0 true) .BOOT_STATUS 0 0 63 true
    startPower (newNonce (fuseAdvance s))

def execAlmwaitRelease (s : State) : Host.Outcome State Fault Refusal := onMach s (fun s => almwaitRelease s)

/-! ### Package reset and power (R542, R578) -/

/-- Registers that a package reset keeps: the image accepted, the times of the phases that it does not repeat, and the keys. -/
def keptRegs : List RegRef :=
  [⟨.BOOT_BUILD, 0, 0⟩, ⟨.BOOT_INFO, 0, 0⟩] ++ (List.range 6).map (fun k => ⟨.BOOT_DIGEST, 0, k⟩)
    ++ (List.range 3).map (fun k => ⟨.BOOT_TIME, 0, k⟩) ++ (List.range 16).map (fun p => ⟨.SEC_KEYEPOCH, 0, p⟩)

/-- PACKAGE_RESET: every run-time state and register is cleared; the image, the keys, the energy counters, the fuses and the
submissions counted since cold reset stay. -/
def packageReset (s : Mach) : Mach :=
  let t := freshState s
  let t := { t with boot := { s.boot with buf := [], read := false, authed := false, loading := false, fallback := false,
                                          slot := if s.boot.accepted then s.boot.slot else 0 },
                    pwr := { t.pwr with energy := s.pwr.energy } }
  let t := foldS keptRegs (fun u r => csrPut u r.addr (csrAt s r.addr)) (loadFuses t s.boot.linksUp)
  let t := wf t .BOOT_STATUS 0 0 33 32 (rf s .BOOT_STATUS 0 0 33 32)
  let t := wf (wf t .SEC_STATUS 0 0 11 8 (rf s .SEC_STATUS 0 0 11 8)) .SEC_STATUS 0 0 2 0 (rf s .SEC_STATUS 0 0 2 0)
  setPhase t 8

/-- Whether bring-up stopped on a strap fault, which only PKG_PWROK leaves (R592). -/
def strapFailed (s : Mach) : Bool := decide (phase s = 0xF) && !s.boot.strapsOk

/-- PKG_RESET_N_LOW: held low for 1 µs it enters HELD; a shorter pulse is ignored. -/
def pkgResetNLow (s : Mach) (ns : Nat) : Mach :=
  if s.pins.pwrok = false ∨ ns < 1000 ∨ phase s = 8 then s
  else
    let s := advanceTo { s with pins := { s.pins with resetN := false } } (s.now + 1600 * acyc)
    if strapFailed s then s else packageReset s

def execPkgResetNLow (ns : Nat) (s : State) : Host.Outcome State Fault Refusal := onMach s (fun s => pkgResetNLow s ns)

/-- PKG_RESET_N_RISE: from HELD, bring-up resumes at CONFIG, or at IMAGE with no image accepted. FCOUNT counts from here. -/
def pkgResetNRise (s : Mach) : Mach :=
  let w := s.now
  let s := { s with pins := { s.pins with resetN := true } }
  if phase s ≠ 8 then s
  else
    let s := { s with clk := s.clk.map (fun c => { c with epoch := w, edges0 := 0 }), clus := s.clus.map (fun c => { c with since := w }) }
    setPhase s (if s.boot.accepted then 4 else 2)

def execPkgResetNRise (s : State) : Host.Outcome State Fault Refusal := onMach s (fun s => pkgResetNRise s)

/-- PKG_PWROK_FALL: OFF; no state is kept. -/
def pkgPwrokFall (s : Mach) : Mach :=
  if s.pins.pwrok then
    let t := freshState s
    wf { t with pins := { s.pins with pwrok := false, thermtripN := true, xspiDriven := false } } .BOOT_STATUS 0 0 3 0 0
  else s

def execPkgPwrokFall (s : State) : Host.Outcome State Fault Refusal := onMach s (fun s => pkgPwrokFall s)

/-! ### Die reset (R61, R542) -/

/-- A line leaves a cache without a write-back; its home holds no record of the cache any more. With `lose` a dirty line is
poisoned at its home. -/
def forgetLine (s : Mach) (k line : Nat) (lose : Bool) : Mach :=
  let h := getHeld s k line
  let s := if lose ∧ h.st = 3 ∧ h.acked = false ∧ h.orphan = false then setLinePois s line true else s
  let s := putHeld s k line HLine.none
  if h.orphan then s
  else modDir s line (fun e =>
    let pr := e.pres &&& (2 ^ 128 - 1 - posBit (posOf k))
    { e with pres := pr, owned := e.owned && decide (pr ≠ 0) })

/-- The lines that a cache holds. -/
def linesOf (s : Mach) (k : Nat) : List Nat := (s.held.filter (fun x => decide (x.1 / lineSpan = k))).map (fun x => x.1 % lineSpan)

/-- Registers of the bays of a compute die, its fault collector, its walkers and its caching agent return to their reset, fused
and image values. -/
def dieRegs (s : Mach) (d : Nat) : Mach :=
  let w := compDieId d * 0x200000
  let kept := fun (a : Nat) => !((decide (w ≤ a) && decide (a < w + 0xC0000)) || (decide (w + 0x103000 ≤ a) && decide (a < w + 0x104000))
    || (decide (w + 0x105000 ≤ a) && decide (a < w + 0x106000)) || (decide (w + 0x107000 ≤ a) && decide (a < w + 0x108000)))
  let pf := (List.range 16).map (fun p => rg s .ETR_PFRING 0 p)
  let s := { s with csr := s.csr.filter (fun x => kept x.1) }
  let s := foldS pf.zipIdx (fun t y => wr t .ETR_PFRING 0 y.2 y.1) s
  let m := s.boot.image
  foldS (dieBays d) (fun t b =>
    let v := recWord m tLoft b
    let t := wr t .MXA_REPAIR b 0 (smapGet 0 t.fuses.mxaRepair b)
    wb (wf t .LFT_SPLIT b 0 2 0 (fld v 2 0)) .LFT_CCTL b 0 0 (bit v 8)) s

/-- Whether every partition that owns a yard of a die is held in reset. -/
def dieHeld (s : Mach) (d : Nat) : Bool :=
  (List.range 3).all (fun y => match yardPid s (3 * d + y) with | some p => prstHeld s p | none => true)

/-- A die reset: the units of a compute die and its caching agent are cleared, and its copy of the almanac is lost. What its
cache regions held, their homes treat under R382. -/
def dieReset (s : Mach) (d : Nat) : Mach :=
  let s := foldS (dieBays d) (fun t b =>
    let e := edgeOf t b
    modBay t b (fun _ => { Bay.zero with cnt := { edge := e, skip := 0 } })) s
  let s := { s with held := s.held.filter (fun x => !(decide (128 + 12 * d ≤ x.1 / lineSpan) && decide (x.1 / lineSpan < 140 + 12 * d))),
                    toks := s.toks.filter (fun t => decide (dieOf t.bay ≠ d)), rdvs := s.rdvs.filter (fun t => decide (dieOf t.bay ≠ d)),
                    trcWire := s.trcWire.filter (fun t => decide (dieOf t.bay ≠ d)),
                    shfResv := s.shfResv.filter (fun r => decide (dieOf r.bay ≠ d)),
                    etrDies := vmod s.etrDies d (fun _ => EtrDie.zero) }
  let s := modFlt s (fun f => { f with dieKeys := smapPut [] f.dieKeys (compDieId d) [] })
  let s := dieRegs s d
  wb (modClk s d (fun c => { c with copyLost := true })) .ALM_LSTAT d 0 5 false

/-- DIE_ALMANAC_RELOAD: the die reloads its copy at the next frame boundary, from which its edges are aligned. -/
def dieAlmanacReload (s : Mach) (d : Nat) : Mach :=
  if (getClk s d).copyLost = false ∨ s.alm.running = false then s
  else
    let s := modClk (toFrameBoundary s) d (fun c => { c with copyLost := false })
    wb s .ALM_LSTAT d 0 5 (decide ((getClk s d).div = 0))

def execDieAlmanacReload (die : CompDie) (s : State) : Host.Outcome State Fault Refusal := onMach s (fun s => dieAlmanacReload s die)

/-- A write of FLT_RST (R542): it acts only with its key. -/
def onFltRst (s : Mach) (v : Word) : Mach :=
  if fld v 31 16 ≠ 0xC0DE then s
  else if bit v 0 then pkgResetNRise (packageReset (advanceTo s (s.now + 1600 * acyc)))
  else if bit v 1 ∧ validDie (fld v 12 8) = true ∧ 4 ≤ fld v 12 8 % 16 then
    let d := compOrd (fld v 12 8)
    if dieHeld s d then dieReset s d else s
  else s

/-! ### Partition reset (R543) -/

/-- Steps 1 and 2: the rota is aborted, the cores are held, launches are cut, rings disabled and page faults aborted; each L2
starts to write back. -/
def prstAssert (s : Mach) (p : Nat) : Mach :=
  let s := modFlt (wb (wf s .FLT_PRST 0 0 3 0 p) .FLT_PRST 0 0 63 true) (fun f => { f with prst := some (p, s.now) })
  let s := if (getRota s p).enabled then modRota s p (fun r => { r with abortReq := true }) else s
  let s := foldS (partCores s p) (fun t c =>
    let keep := smapGet 0 (getCore t c).csr 0x7C2
    modCore t c (fun _ => { Core.zero with csr := smapPut 0 Core.zero.csr 0x7C2 keep })) s
  let s := foldS (partBays s p) (fun t b => foldS (List.range 4) (fun u e => cutEng u b e) t) s
  let s := foldS ((List.range 4096).filter (fun r => decide (ringPid s r = some p) && ringOn s r)) (fun t r =>
    wb (setPend t r 0 0) .RNG_CFG r 0 63 false) s
  foldS (List.range 10) (fun t d =>
    foldS ((getEtrDie t d).faults.filter (fun f => decide (tenPid t f.req.tid = some p))) (fun u f => faultAbort u d f 7) t) s

/-- Lines of a partition's L2 that are still dirty are lost and poisoned at their homes; nothing stays in the caches. -/
def loseLines (s : Mach) (p : Nat) : Mach :=
  foldS (partCores s p) (fun t c => foldS (linesOf t c) (fun u l => forgetLine u c l true) t) s

/-- Whether a partition's L2 still holds a Modified line that its home has not acknowledged. -/
def dirtyLeft (s : Mach) (p : Nat) : Bool := (partCores s p).any (wbPending s)

/-- L2_WRITEBACK_TIMEOUT: 65,536 ACYC after the assertion. -/
def l2WritebackTimeout (s : Mach) : Mach :=
  match s.flt.prst with
  | none => s
  | some (p, t) => loseLines (advanceTo s (t + 65536 * acyc)) p

def execL2WritebackTimeout (s : State) : Host.Outcome State Fault Refusal := onMach s (fun s => l2WritebackTimeout s)

/-- Whether every move issued by a partition has completed. -/
def movesSettled (s : Mach) (p : Nat) : Bool :=
  (partBays s p).all (fun b => (getMov s b).moves.isEmpty) &&
    s.barnMov.all (fun m => m.moves.all (fun x => decide (x.proxy ≠ some p)))

/-- Step 4 for a bay: its state is cleared, and its moves in flight go on alone. -/
def clearBay (s : Mach) (p b : Nat) : Mach :=
  let tids := (List.range 1024).filter (fun t => decide (tenPid s t = some p))
  let s := foldS (bayLines s b) (fun t l => dropLine t (128 + b) l) s
  let pools := (List.range 64).filter (fun k => rb s .SEM_POOL b k 63 && tids.contains (rf s .SEM_POOL b k 57 48))
  let s := foldS pools (fun t k =>
    modSem t b (fun x => { x with count := smapClear x.count (16 * rf t .SEM_POOL b k 22 16) (16 * rf t .SEM_POOL b k 7 0) })) s
  modBay s b (fun x =>
    { x with seq := Seq.zero, streams := Vector.replicate 6 Stream.zero, chans := [], mxa := Mxa.zero, vxe := Vxe.zero,
             tflags := x.tflags.filter (fun t => !tids.contains t.1), sem := { x.sem with swait := none, waits := [] },
             engs := Vector.replicate 4 Eng.zero, creg := CReg.zero, mov := { x.mov with flexq := [], waiting := [] },
             dbg := { x.dbg with halted := false, defer := none } })

/-- PRST_SETTLE_TIMEOUT: the partition's moves have settled, or PRST_TMO frames have passed; its state is cleared and it is
held. -/
def prstSettle (s : Mach) : Mach :=
  match s.flt.prst with
  | none => s
  | some (p, t) =>
    let s := if dirtyLeft s p then advanceTo s (t + 65536 * acyc) else s
    let s := loseLines s p
    let s := if movesSettled s p then s else advanceTo s (t + max 1 (rf s .FLT_CFG 0 0 39 32) * 65536 * acyc)
    let s := setGrant s (rf s .SEC_DBG_STATE 0 0 15 0 &&& (0xFFFF ^^^ 2 ^ p)) (rf s .SEC_DBG_STATE 0 0 31 16 &&& (0xFFFF ^^^ 2 ^ p)) (grantPkg s)
    let s := setPstat (setPstat s p 16 false) p 0 false
    let s := modDbg s (fun d => { d with armHalt := smapPut none d.armHalt p none, armRes := smapPut none d.armRes p none,
                                         haltFrom := smapPut none d.haltFrom p none })
    let s := foldS (partBays s p) (fun u b => clearBay (syncCnt u b) p b) s
    let s := { s with shfResv := s.shfResv.filter (fun r => decide (bayPid s r.bay ≠ some p)) }
    let s := modRota s p (fun _ => Rota.zero)
    let s := match leadBay s p with | some b => wb s .SEQ_ROTA_CTL b 0 7 false | none => s
    modFlt (wb (wb s .FLT_PRST 0 0 (16 + p) true) .FLT_PRST 0 0 63 false) (fun f => { f with prst := none })

def execPrstSettleTimeout (s : State) : Host.Outcome State Fault Refusal := onMach s (fun s => prstSettle s)

/-- A write of FLT_PRST: ASSERT or RELEASE of partition PID, ignored while BUSY is 1. -/
def onFltPrst (s : Mach) (v : Word) : Mach :=
  let p := fld v 3 0
  if rb s .FLT_PRST 0 0 63 then s
  else if bit v 62 then (if partValid s p then prstAssert s p else wf s .FLT_PRST 0 0 3 0 p)
  else
    let s := wf s .FLT_PRST 0 0 3 0 p
    if bit v 61 ∧ prstHeld s p then
      foldS (List.range 12) retarget (startCores (wb s .FLT_PRST 0 0 (16 + p) false) p)
    else s

end Sys2Proof.Machine
end

