-- ==== Sys2Proof/Machine/Caches.lean ====
section
/-! DEFINITION. The caches of the host cores: store buffers, disabling and invalidating, reservations, P-states, lost tags and
disabled ways (R342 to R369), and the custom CSRs of the cores (R367). -/

namespace Sys2Proof.Machine

open Sys2Proof.Config (acyc)

/-! ### Custom CSRs (R367) -/

def csrOf (s : Mach) (c n : Nat) : Word := smapGet 0 (getCore s c).csr n

def setCsr (s : Mach) (c n : Nat) (v : Word) : Mach := modCore s c (fun x => { x with csr := smapPut 0 x.csr n v })

/-- Whether L2, L1D and L1I of a core serve it: an L1 follows the L2 (R351). -/
def l2On (s : Mach) (c : Nat) : Bool := bit (csrOf s c 0x7C0) 3
def l1dOn (s : Mach) (c : Nat) : Bool := l2On s c && bit (csrOf s c 0x7C0) 2
def l1iOn (s : Mach) (c : Nat) : Bool := l2On s c && bit (csrOf s c 0x7C0) 1

def cachectlView (s : Mach) (c : Nat) : Word := csrOf s c 0x7C0 &&& 0x3E

def resvView (s : Mach) (c : Nat) : Word :=
  setBit (csrOf s c 0x7C1 &&& 0xFFFFFFFF00000002) 0 (getCore s c).resv.isSome

def pstateView (s : Mach) (c : Nat) : Word :=
  packFlds [(10, 8, (vget Clu.zero s.clus (c / 8)).pst), (2, 0, fld (csrOf s c 0x7C2) 2 0)]

/-- Every line of a core's L2 is gone. -/
def invalidateL2 (s : Mach) (c : Nat) : Mach := { s with held := s.held.filter (fun p => decide (p.1 / lineSpan ≠ c)) }

/-- A write of core.cachectl (R351 to R353). Invalidations end at once, so that INV_BUSY never reads 1. -/
def onCachectl (s : Mach) (c : Nat) (v : Word) : Mach :=
  let old := csrOf s c 0x7C0
  let pend := bit old 4
  let inv2 := bit v 8 && !bit old 3 && !pend
  let s := if inv2 then invalidateL2 s c else s
  let s := modCore s c (fun x =>
    { x with l1dStale := x.l1dStale && !(bit v 7 && !bit old 2), l1iStale := x.l1iStale && !(bit v 6 && !bit old 1) })
  let l2 := if bit v 3 then bit old 3 || !pend else false
  let off := bit old 3 && !l2
  let new := packFlds [(5, 5, fld v 5 5), (4, 4, (pend || off).toNat), (3, 3, l2.toNat), (2, 1, fld v 2 1)]
  let d := bit old 3 && bit old 2
  let i := bit old 3 && bit old 1
  let s := modCore s c (fun x =>
    { x with csr := smapPut 0 x.csr 0x7C0 new, resv := if off then none else x.resv,
             l1dStale := x.l1dStale || (d && !(l2 && bit v 2)), l1iStale := x.l1iStale || (i && !(l2 && bit v 1)) })
  s

/-- A write of core.resv: HD8, and with it the end of the reservation (R359). -/
def onResv (s : Mach) (c : Nat) (v : Word) : Mach :=
  modCore s c (fun x => { x with csr := smapPut 0 x.csr 0x7C1 (setFld (smapGet 0 x.csr 0x7C1) 1 1 (fld v 1 1)), resv := none })

/-- A write of core.pstate (R343): a REQ of 6 or 7 is ignored. -/
def onPstate (s : Mach) (c : Nat) (v : Word) : Mach :=
  if 6 ≤ fld v 2 0 then s
  else retarget (setCsr s c 0x7C2 (setFld (csrOf s c 0x7C2) 2 0 (fld v 2 0))) (c / 8)

/-- PSTATE_CHANGE_COMPLETE (R343): the cluster runs at the P-state it was changing to. -/
def pstateChangeComplete (s : Mach) (cl : Nat) : Mach :=
  let x := vget Clu.zero s.clus cl
  match x.target with
  | none => s
  | some p =>
    let n := (s.now - x.since) / (8 * acyc / pstateDiv x.pst)
    { s with clus := vmod s.clus cl (fun _ => { pst := p, target := none, cyc := x.cyc + n, since := s.now }) }

def execPstateChangeComplete (cl : ClusterNo) (s : State) : Host.Outcome State Fault Refusal :=
  onMach s (fun s => pstateChangeComplete s cl)

/-- L2_DISABLE_COMPLETE (R351, R385): with its last write-back acknowledged the cache departs from every home. -/
def l2DisableComplete (s : Mach) (c : Nat) : Mach := foldS (List.range 6) (fun t h => depart t c h) s

def execL2DisableComplete (c : CoreNo) (s : State) : Host.Outcome State Fault Refusal := onMach s (fun s => l2DisableComplete s c)

/-- RESERVATION_TIMEOUT (R359): an HD8 reservation ends 4,096 CCLK after its LR. -/
def reservationTimeout (s : Mach) (c : Nat) : Mach :=
  match (getCore s c).resv with
  | some (_, _, at_, true) =>
    let s := advanceTo s (at_ + 4096 * cclk s c)
    modCore s c (fun x =>
      let r := smapGet 0 x.csr 0x7C1
      { x with resv := none, csr := smapPut 0 x.csr 0x7C1 (setFld r 63 32 (sat 32 (fld r 63 32 + 1))) })
  | _ => s

def execReservationTimeout (c : CoreNo) (s : State) : Host.Outcome State Fault Refusal := onMach s (fun s => reservationTimeout s c)

/-! ### The store buffer (R354, R355) -/

/-- The bytes of an entry reach a line that the L2 holds Exclusive or Modified, or the line's home. A store leaves the line's
poison bit set unless it writes the whole line (R348). -/
def drainTo (s : Mach) (c : Nat) (e : SbEnt) : Mach :=
  let h0 := getHeld s c e.line
  let full := decide (e.mask % 2 ^ 64 = fullMask)
  if l2On s c then
    let s := obtainLine s c e.line true
    let h := getHeld s c e.line
    if 2 ≤ h.st ∧ h.orphan = false then
      let (old, p) := if h0.orphan then (h0.data, h0.pois) else (h.data, h.pois)
      let s := putHeld s c e.line { h with st := 3, data := mergeLine old e.data e.mask, pois := p && !full, wb := false, acked := false }
      breakResv (countBytes s (e.line * 64) 64 .write (ownerOf s (c + 1) none)) e.line e.mask (some c)
    else homeWrite s e.line e.data e.mask false
  else
    let own := (getCore s c).resv
    let s := homeWrite s e.line e.data e.mask false
    modCore s c (fun x => { x with resv := own })

/-- The oldest entry drains. -/
def drainOne (s : Mach) (c : Nat) : Mach :=
  match (getCore s c).sb with
  | [] => s
  | e :: l => drainTo (modCore s c (fun x => { x with sb := l })) c e

/-- Every entry drains, in order. -/
def drainAll (s : Mach) (c : Nat) : Mach := (List.range 56).foldl (fun t _ => drainOne t c) s

/-- STORE_BUFFER_DRAIN. -/
def execStoreBufferDrain (c : CoreNo) (s : State) : Host.Outcome State Fault Refusal := onMach s (fun s => drainOne s c)

/-! ### Lost tags and disabled ways (R349, R350) -/

/-- A line that leaves a cache without its home being told. -/
def loseLine (s : Mach) (k : Nat) (line : Option (Fin (2 ^ 42))) : Mach :=
  match line with | some l => putHeld s k l HLine.none | none => s

/-- TAG_LOSS: both copies of a tag entry fail. The record of an L2 has no error register behind it: its SUBCODE and how it
names the set and the way are free values. -/
def tagLoss (s : Mach) (k : TagOf) (line : Option (Fin (2 ^ 42))) : Mach :=
  match k with
  | .llc d _ way => llcErr (loseLine s (llcKey d) line) d 2 way 0
  | .l2 c _ _ =>
    let s := bumpEcc (loseLine s c line) c 0
    let (w, s) := drawWord s
    let (a, s) := drawWord s
    let r := mkRec s 0xA (w.toNat % 256) 0x1A (c.val % 48) (coreDieId (coreDieOf c)) (fld a 47 0) (fld a 47 16)
    raise s (r.forPart (clusterPid s (c.val / 8)) 0)

def execTagLoss (k : TagOf) (line : Option (Fin (2 ^ 42))) (s : State) : Host.Outcome State Fault Refusal := onMach s (fun s => tagLoss s k line)

/-- LLC_WAY_DISABLE (R350): the write-backs of a pending way are done. -/
def llcWayDisable (s : Mach) (d way : Nat) : Mach :=
  let v := rg s .COH_LLCWAY (4 + d) 0
  if bit v (16 + way) = false then s
  else
    let soft := smapGet false s.llcSoft (16 * d + way)
    let v := setBit (setBit v (16 + way) false) way true
    let v := if soft then v else setBit v (32 + way) true
    let s := { wr s .COH_LLCWAY (4 + d) 0 v with llcSoft := smapPut false s.llcSoft (16 * d + way) false }
    llcErr s d 3 way 0

def execLlcWayDisable (d : Fin 2) (way : Fin 16) (s : State) : Host.Outcome State Fault Refusal := onMach s (fun s => llcWayDisable s d way)

end Sys2Proof.Machine
end

