-- ==== Sys2Proof/Machine/HartC.lean ====
section
/-! DEFINITION. The compressed instructions of the host cores (C, Zcb, Zcmop): the 32-bit instruction that each stands for. -/

namespace Sys2Proof.Machine

/-- Bits `[hi:lo]` of an instruction. -/
def cf (w hi lo : Nat) : Nat := w / 2 ^ lo % 2 ^ (hi + 1 - lo)

/-- Words of the 32-bit formats. -/
def mkI (op f3 rd rs1 imm : Nat) : Nat := op + rd * 2 ^ 7 + f3 * 2 ^ 12 + rs1 * 2 ^ 15 + imm % 4096 * 2 ^ 20
def mkS (op f3 rs1 rs2 imm : Nat) : Nat :=
  op + imm % 32 * 2 ^ 7 + f3 * 2 ^ 12 + rs1 * 2 ^ 15 + rs2 * 2 ^ 20 + imm / 32 % 128 * 2 ^ 25
def mkR (op f3 f7 rd rs1 rs2 : Nat) : Nat := op + rd * 2 ^ 7 + f3 * 2 ^ 12 + rs1 * 2 ^ 15 + rs2 * 2 ^ 20 + f7 * 2 ^ 25
def mkJ (rd off : Nat) : Nat :=
  0x6F + rd * 2 ^ 7 + off / 2 ^ 12 % 256 * 2 ^ 12 + off / 2 ^ 11 % 2 * 2 ^ 20 + off / 2 % 1024 * 2 ^ 21 + off / 2 ^ 20 % 2 * 2 ^ 31
def mkB (f3 rs1 off : Nat) : Nat :=
  0x63 + off / 2 ^ 11 % 2 * 2 ^ 7 + off / 2 % 16 * 2 ^ 8 + f3 * 2 ^ 12 + rs1 * 2 ^ 15 + off / 2 ^ 5 % 64 * 2 ^ 25 + off / 2 ^ 12 % 2 * 2 ^ 31

/-- The 6-bit immediate of the CI format, sign-extended. -/
def cImm6 (w : Nat) : Nat := sx 6 (cf w 12 12 * 32 + cf w 6 2)

/-- Quadrant 0. -/
def expand0 (w : Nat) : Option Nat :=
  let rd := 8 + cf w 4 2
  let rs := 8 + cf w 9 7
  let d := cf w 12 10 * 8 + cf w 6 5 * 64
  let h := cf w 12 10 * 8 + cf w 6 6 * 4 + cf w 5 5 * 64
  match cf w 15 13 with
  | 0 =>
    let i := cf w 12 11 * 16 + cf w 10 7 * 64 + cf w 6 6 * 4 + cf w 5 5 * 8
    if i = 0 then none else some (mkI 0x13 0 rd 2 i)
  | 1 => some (mkI 0x07 3 rd rs d)
  | 2 => some (mkI 0x03 2 rd rs h)
  | 3 => some (mkI 0x03 3 rd rs d)
  | 4 =>
    let b := cf w 5 5 * 2 + cf w 6 6
    let k := cf w 5 5 * 2
    (match cf w 12 10 with
     | 0 => some (mkI 0x03 4 rd rs b)
     | 1 => some (mkI 0x03 (if cf w 6 6 = 0 then 5 else 1) rd rs k)
     | 2 => some (mkS 0x23 0 rs rd b)
     | 3 => if cf w 6 6 = 0 then some (mkS 0x23 1 rs rd k) else none
     | _ => none)
  | 5 => some (mkS 0x27 3 rs rd d)
  | 6 => some (mkS 0x23 2 rs rd h)
  | _ => some (mkS 0x23 3 rs rd d)

/-- Quadrant 1. -/
def expand1 (w : Nat) : Option Nat :=
  let rd := cf w 11 7
  let i := cImm6 w
  let r := 8 + cf w 9 7
  let r2 := 8 + cf w 4 2
  let sh := cf w 12 12 * 32 + cf w 6 2
  match cf w 15 13 with
  | 0 => some (mkI 0x13 0 rd rd i)
  | 1 => if rd = 0 then none else some (mkI 0x1B 0 rd rd i)
  | 2 => some (mkI 0x13 0 rd 0 i)
  | 3 =>
    if rd = 2 then
      let k := sx 10 (cf w 12 12 * 512 + cf w 6 6 * 16 + cf w 5 5 * 64 + cf w 4 3 * 128 + cf w 2 2 * 32)
      if k = 0 then none else some (mkI 0x13 0 2 2 k)
    else if i ≠ 0 then some (0x37 + rd * 2 ^ 7 + i % 2 ^ 20 * 2 ^ 12)
    else if rd % 2 = 1 ∧ rd < 16 then some (mkI 0x13 0 0 0 0)
    else none
  | 4 =>
    (match cf w 11 10 with
     | 0 => some (mkI 0x13 5 r r sh)
     | 1 => some (mkI 0x13 5 r r (0x400 + sh))
     | 2 => some (mkI 0x13 7 r r i)
     | _ =>
       match cf w 12 12 * 4 + cf w 6 5 with
       | 0 => some (mkR 0x33 0 0x20 r r r2)
       | 1 => some (mkR 0x33 4 0 r r r2)
       | 2 => some (mkR 0x33 6 0 r r r2)
       | 3 => some (mkR 0x33 7 0 r r r2)
       | 4 => some (mkR 0x3B 0 0x20 r r r2)
       | 5 => some (mkR 0x3B 0 0 r r r2)
       | 6 => some (mkR 0x33 0 1 r r r2)
       | _ =>
         match cf w 4 2 with
         | 0 => some (mkI 0x13 7 r r 0xFF)
         | 1 => some (mkI 0x13 1 r r 0x604)
         | 2 => some (mkR 0x3B 4 4 r r 0)
         | 3 => some (mkI 0x13 1 r r 0x605)
         | 4 => some (mkR 0x3B 0 4 r r 0)
         | 5 => some (mkI 0x13 4 r r 0xFFF)
         | _ => none)
  | 5 =>
    let off := sx 12 (cf w 12 12 * 2048 + cf w 11 11 * 16 + cf w 10 9 * 256 + cf w 8 8 * 1024 + cf w 7 7 * 64 + cf w 6 6 * 128 + cf w 5 3 * 2 + cf w 2 2 * 32)
    some (mkJ 0 off)
  | k =>
    let off := sx 9 (cf w 12 12 * 256 + cf w 11 10 * 8 + cf w 6 5 * 64 + cf w 4 3 * 2 + cf w 2 2 * 32)
    some (mkB (if k = 6 then 0 else 1) r off)

/-- Quadrant 2. -/
def expand2 (w : Nat) : Option Nat :=
  let rd := cf w 11 7
  let rs2 := cf w 6 2
  let d := cf w 12 12 * 32 + cf w 6 5 * 8 + cf w 4 2 * 64
  let h := cf w 12 12 * 32 + cf w 6 4 * 4 + cf w 3 2 * 64
  match cf w 15 13 with
  | 0 => some (mkI 0x13 1 rd rd (cf w 12 12 * 32 + rs2))
  | 1 => some (mkI 0x07 3 rd 2 d)
  | 2 => if rd = 0 then none else some (mkI 0x03 2 rd 2 h)
  | 3 => if rd = 0 then none else some (mkI 0x03 3 rd 2 d)
  | 4 =>
    if cf w 12 12 = 0 then
      if rs2 = 0 then (if rd = 0 then none else some (mkI 0x67 0 0 rd 0)) else some (mkR 0x33 0 0 rd 0 rs2)
    else if rs2 = 0 then (if rd = 0 then some 0x00100073 else some (mkI 0x67 0 1 rd 0))
    else some (mkR 0x33 0 0 rd rd rs2)
  | 5 => some (mkS 0x27 3 2 rs2 (cf w 12 10 * 8 + cf w 9 7 * 64))
  | 6 => some (mkS 0x23 2 2 rs2 (cf w 12 9 * 4 + cf w 8 7 * 64))
  | _ => some (mkS 0x23 3 2 rs2 (cf w 12 10 * 8 + cf w 9 7 * 64))

/-- The 32-bit instruction that a 16-bit one stands for; none for a reserved encoding. -/
def expandC (w : Nat) : Option Nat :=
  match w % 4 with
  | 0 => expand0 w
  | 1 => expand1 w
  | _ => expand2 w

end Sys2Proof.Machine
end

