-- ==== Sys2Proof/Machine/VxeOps.lean ====
section
/-! DEFINITION. The operations of the vector engine (R194, R197 to R208, R210). -/

namespace Sys2Proof.Machine

/-! ### Legality of fields (R193, R194) -/

/-- Which fields an operation uses: FMT, OFMT, RM, SAT, ACN, SUB and the low bits of IMM. A field not used must be 0; with
RM = SR, IMM is the seed. -/
structure VUse where
  fmt : Bool := false
  ofmt : Bool := false
  rm : Bool := false
  sat : Bool := false
  acn : Bool := false
  sub : Bool := false
  imm : Nat := 0

def VUse.ok (u : VUse) (w : Slot) : Bool :=
  (u.fmt || decide (wFmt w = 0)) && (u.ofmt || decide (wOfmt w = 0)) &&
  (if u.rm then decide (wRm w ≤ 5) else decide (wRm w = 0)) && (u.sat || !wSat w) &&
  (u.acn || decide (wAcn w = 0)) && (u.sub || decide (wSub w = 0)) &&
  (decide (wImm w < 2 ^ u.imm) || (u.rm && decide (wRm w = 5))) && maskLegal (wMsk w) false

/-- At most one loft operand among A, B and C (R190). -/
def oneLoft (w : Slot) : Bool :=
  decide (((([wA w, wB w, wC w]).map vOp).countP VOp.isLoft) ≤ 1)

def opD (w : Slot) : VOp := vOp (wD w)
def opA (w : Slot) : VOp := vOp (wA w)
def opB (w : Slot) : VOp := vOp (wB w)
def opC (w : Slot) : VOp := vOp (wC w)

/-- A row that names only A: B and C are none (R194). -/
def onlyA (w : Slot) : Bool := (opA w).isSrc && decide (opB w = .none) && decide (opC w = .none)
/-- A row that names A and B. -/
def aAndB (w : Slot) : Bool := (opA w).isSrc && (opB w).isSrc && unusedOp (wC w) && oneLoft w
/-- A row that names no source. -/
def noSrc (w : Slot) : Bool := unusedOp (wA w) && unusedOp (wB w) && unusedOp (wC w)

def fmtF (w : Slot) : Bool := decide (wFmt w ≤ 2)
def fmt32 (w : Slot) : Bool := decide (wFmt w = 0) || decide (wFmt w = kINT32)
def fmtI (w : Slot) : Bool := decide (wFmt w = kINT32)
/-- A 16-bit format. -/
def is16 (w : Slot) : Bool := decide (wFmt w = 1) || decide (wFmt w = 2)

/-! ### The elementwise frame -/

/-- An element's result: bits, flags, poison. -/
abbrev ERes := Nat × Nat × Bool

/-- The elements of an iteration under its mask (R192, R211): `per` elements to a lane. -/
def maskedOut (s : Mach) (b : Nat) (w : Slot) (i per ow q P : Nat) (el : Nat → ERes) : IterOut :=
  let m := readMask (getVxe s b) (wMsk w) i
  let rs := (List.range 128).map (fun l =>
    if m.1.getLsbD l then
      let es := (List.range per).map (fun h => let e := per * l + h; (e, el e))
      (es.map (fun e => (e.1, e.2.1, e.2.2.2 || m.2)), es.foldl (fun f e => f ||| e.2.2.1) 0)
    else if wMz w then ((List.range per).map (fun h => (per * l + h, 0, m.2)), 0)
    else ([], 0))
  { w := ow, q := q, P := P, els := rs.flatMap Prod.fst,
    flags := (rs.zipIdx.filter (fun r => decide (r.1.2 ≠ 0))).map (fun r => (r.2, r.1.2)), effs := [] }

/-- Whether any of the sources is in the loft. -/
def anyLoft (l : List (VOp × Nat × Nat)) : Bool := l.any (fun o => o.1.isLoft)

/-- The run of a word whose iterations are alike: `srcs` are its sources with their iterations per unit and the bytes of a
unit, `out` what an iteration computes from the state as it stands at its FCLK. -/
def iterRun (b : Nat) (w : Slot) (lat ii : Nat) (srcs : List (VOp × Nat × Nat)) (d : VOp)
    (out : Mach → Nat → IterOut) (s : Mach) (word p : Nat) : VRun :=
  (List.range (wRep w + 1)).foldl (fun r i =>
    let t := iterAt p ii i
    let r := { r with view := vFlush r.view b t }
    let r := srcs.foldl (fun r o => if i % o.2.1 = 0 then r.source b o.1 o.2.2 else r) r
    let o := out r.view i
    let r := r.deliver b word (t + lat - 1 + (if anyLoft srcs then 8 else 0)) d o i (decide (i = wRep w))
    let r := srcs.foldl (fun r x => r.step b x.1 x.2.1 i) r
    r.step b d o.P i) (vRun0 s)

/-- Sources of 32-bit units. -/
def srcs32 (l : List VOp) : List (VOp × Nat × Nat) := l.map (fun o => (o, 1, 512))

/-- A word of the elementwise kind over 32-bit lanes or 16-bit halves. -/
def elemWord (b : Nat) (w : Slot) (legal : Bool) (lat ii : Nat) (srcs : List VOp)
    (el : Mach → Nat → (Nat → ERes)) (s : Mach) : Mach :=
  let per := if is16 w then 2 else 1
  let ow := if is16 w then 16 else 32
  vWord b w (legal && (opD w).isDst) ii (unmasked b w)
    (iterRun b w lat ii (srcs32 srcs) (opD w) (fun s i => maskedOut s b w i per ow 0 1 (el s i))) s

/-- Element `e` of an operand in an arithmetic iteration. -/
def arg (s : Mach) (b : Nat) (w : Slot) (o : VOp) (i : Nat) : Nat → Nat × Bool :=
  srcElem s b o i (if is16 w then 16 else 32) 0

/-- An elementwise function of one, two or three operands. -/
def el1 (b : Nat) (w : Slot) (f : Nat → Nat → Nat × Nat) (s : Mach) (i : Nat) : Nat → ERes :=
  let a := arg s b w (opA w) i
  fun e => let r := f e (a e).1; (r.1, r.2, (a e).2)

def el2 (b : Nat) (w : Slot) (f : Nat → Nat → Nat → Nat × Nat) (s : Mach) (i : Nat) : Nat → ERes :=
  let a := arg s b w (opA w) i
  let c := arg s b w (opB w) i
  fun e => let r := f e (a e).1 (c e).1; (r.1, r.2, (a e).2 || (c e).2)

def el3 (b : Nat) (w : Slot) (f : Nat → Nat → Nat → Nat → Nat × Nat) (s : Mach) (i : Nat) : Nat → ERes :=
  let a := arg s b w (opA w) i
  let c := arg s b w (opB w) i
  let g := arg s b w (opC w) i
  fun e => let r := f e (a e).1 (c e).1 (g e).1; (r.1, r.2, (a e).2 || (c e).2 || (g e).2)

/-- The floating-point format of FMT. -/
def wFloat (w : Slot) : FloatFmt := (floatOf (wFmt w)).getD fmtFP32

/-- Rounding of element `e` of an iteration of an arithmetic operation (R144, R201). -/
def wRnd (w : Slot) (i e : Nat) : Rnd :=
  { rm := wRm w, sat := false, seed := wImm w, idx := (if is16 w then 256 else 128) * i + e }

/-- A value rounded to FMT, with the flags of its computation. -/
def rounded (w : Slot) (i e : Nat) (v : Val × Nat) : Nat × Nat :=
  let o := encodeFloat (wFloat w) (wRnd w i e) v.1
  (o.1, v.2 ||| o.2)

/-! ### SETP and SETS (R197, R198) -/

/-- A word without iterations: its effects at `lat` FCLK. -/
def singleWord (b lat : Nat) (effs : Vxe → List VEff) (s : Mach) : Mach :=
  let p := (getStream s b 2).issued
  let s := vFlush s b p
  let x := getVxe s b
  let word := x.words + 1
  let wr : VWrite := { edge := p + lat - 1, word := word, effs := effs x, fin := true, sig := none, pois := false }
  modVxe s b (fun x => { x with flight := x.flight ++ [wr], words := word })

/-- SETP (R197). -/
def doSetp (b : Nat) (w : Slot) (s : Mach) : Mach :=
  if reservedClear w [(103, 42)] = false then furrowErr s b 2 eIllegalOp
  else
    let q : VPtr := { base := fld w 99 81, stride := sext 20 (fld w 80 61), wrap := fld w 60 42, cursor := 0 }
    singleWord b 1 (fun _ => [.ptr (fld w 103 100) q]) s

def execSetp (b : BayNo) (s : State) : Host.Outcome State Fault Refusal := onMach s (fun s => onSlot s b 2 1 0x01 (doSetp b))

/-- SETS (R198). Fields that its KIND does not use are not reserved and are ignored. -/
def doSets (b : Nat) (w : Slot) (s : Mach) : Mach :=
  let i := fld w 103 100
  let kind := fld w 99 96
  let v : BitVec 32 := BitVec.ofNat 32 (fld w 31 0)
  if reservedClear w [(103, 96), (52, 45), (38, 0)] = false then furrowErr s b 2 eIllegalOp
  else match kind with
    | 0 => singleWord b 1 (fun _ => [.scalar i v false]) s
    | 1 =>
      let a := fld w 52 45
      let l := fld w 38 32
      if a < 64 then singleWord b 2 (fun x => [.scalar i (vLane x a l) (vLaneP x a l)]) s
      else furrowErr s b 2 eIllegalOp
    | 2 => if i < 4 then singleWord b 1 (fun _ => [.token i v]) s else furrowErr s b 2 eIllegalOp
    | _ => furrowErr s b 2 eIllegalOp

def execSets (b : BayNo) (s : State) : Host.Outcome State Fault Refusal := onMach s (fun s => onSlot s b 2 1 0x02 (doSets b))

/-! ### Moves -/

/-- IOTA: IMM + 128i + l. -/
def doIota (b : Nat) (w : Slot) (s : Mach) : Mach :=
  elemWord b w (VUse.ok { fmt := true, imm := 29 } w && fmtI w && noSrc w) 1 1 []
    (fun _ i l => ((wImm w + 128 * i + l) % 2 ^ 32, 0, false)) s

def execIota (b : BayNo) (s : State) : Host.Outcome State Fault Refusal := onMach s (fun s => onSlot s b 2 1 0x03 (doIota b))

/-- MOV: A, bit for bit. -/
def doMov (b : Nat) (w : Slot) (s : Mach) : Mach :=
  elemWord b w (VUse.ok { fmt := true } w && fmt32 w && onlyA w) 1 1 [opA w] (el1 b w (fun _ a => (a, 0))) s

def execMov (b : BayNo) (s : State) : Host.Outcome State Fault Refusal := onMach s (fun s => onSlot s b 2 1 0x04 (doMov b))

/-- SEL: MSK ? A : B in every lane. -/
def doSel (b : Nat) (w : Slot) (s : Mach) : Mach :=
  vWord b w (VUse.ok { fmt := true } w && fmt32 w && aAndB w && !wMz w && (opD w).isDst) 1 (fun _ => 128 * (wRep w + 1))
    (iterRun b w 1 1 (srcs32 [opA w, opB w]) (opD w) (fun s i =>
      let m := readMask (getVxe s b) (wMsk w) i
      let a := arg s b w (opA w) i
      let c := arg s b w (opB w) i
      { w := 32, q := 0, P := 1, flags := [], effs := [],
        els := (List.range 128).map (fun l =>
          let e := if m.1.getLsbD l then a l else c l
          (l, e.1, e.2 || m.2)) })) s

def execSel (b : BayNo) (s : State) : Host.Outcome State Fault Refusal := onMach s (fun s => onSlot s b 2 1 0x05 (doSel b))

/-- PERM: D lane l = A lane (B lane l [6:0]). -/
def doPerm (b : Nat) (w : Slot) (s : Mach) : Mach :=
  elemWord b w (VUse.ok { fmt := true } w && fmt32 w && aAndB w) 2 1 [opA w, opB w] (fun s i =>
    let a := arg s b w (opA w) i
    let c := arg s b w (opB w) i
    fun l =>
      let x := a ((c l).1 % 128)
      (x.1, 0, x.2 || (c l).2)) s

def execPerm (b : BayNo) (s : State) : Host.Outcome State Fault Refusal := onMach s (fun s => onSlot s b 2 1 0x07 (doPerm b))

/-! ### CVT (R201) -/

/-- Scale code of element `l` in an iteration, with its poison: C's register holds 128 iterations. -/
def cvtScale (s : Mach) (b : Nat) (w : Slot) (i l : Nat) : Nat × Bool :=
  let x := getVxe s b
  match opC w with
  | .reg n st =>
    let r := if st then (n + i / 128) % 64 else n
    let q := i % 128
    ((vLane x r q).toNat / 2 ^ (8 * (l / 32)) % 256, vLaneP x r q)
  | _ => (127, false)

/-- The exact value of element `l` of a CVT iteration, its flags and its poison. -/
def cvtVal (s : Mach) (b : Nat) (w : Slot) (i : Nat) : Nat → (Val × Nat) × Bool :=
  let iw := elemBits (wFmt w)
  let a := srcElem s b (opA w) (i / vP iw) iw (i % vP iw)
  let m := srcElem s b (opB w) i 32 0
  fun l =>
    let x0 := decodeElem (wFmt w) (a l).1
    let sc := cvtScale s b w i l
    let x := if isMX (wFmt w) then mxScaled x0 sc.1 else x0
    let p := (a l).2 || (isMX (wFmt w) && sc.2)
    if opB w = .none then ((x, 0), p) else (mulVal x (decodeFloat fmtFP32 (m l).1), p || (m l).2)

def cvtRnd (w : Slot) (i l : Nat) : Rnd := { rm := wRm w, sat := wSat w, seed := wImm w, idx := 128 * i + l }

/-- What an iteration of CVT to a format without shared scale computes. -/
def cvtOut (b : Nat) (w : Slot) (s : Mach) (i : Nat) : IterOut :=
  let ow := elemBits (wOfmt w)
  let v := cvtVal s b w i
  maskedOut s b w i 1 ow (i % vP ow) (vP ow) (fun l =>
    let x := v l
    let o := encodeElem (wOfmt w) (cvtRnd w i l) x.1.1
    (o.1, x.1.2 ||| o.2, x.2))

/-- What an iteration of CVT to an MX format computes: four blocks of 32 lanes, quantised over their unmasked lanes; the
scales go to C's register. -/
def cvtMxOut (b : Nat) (w : Slot) (s : Mach) (i : Nat) : IterOut :=
  let ow := elemBits (wOfmt w)
  let v := cvtVal s b w i
  let m := readMask (getVxe s b) (wMsk w) i
  let blocks := (List.range 4).map (fun k =>
    let ls := ((List.range 32).map (fun j => 32 * k + j)).filter (fun l => m.1.getLsbD l)
    let nan := ls.any (fun l => (v l).1.1.isNaN)
    let q := mxQuant (wOfmt w) rne (ls.map (fun l => (v l).1.1))
    let es := ls.map (fun l =>
      let x := v l
      let o := if nan then (0, fNV) else mxElem (wOfmt w) (cvtRnd w i l) q.1 x.1.1
      (l, o.1, x.1.2 ||| o.2, x.2 || m.2))
    (ls, q.1, es))
  let es := blocks.flatMap (fun k => k.2.2)
  let zero := if wMz w then ((List.range 128).filter (fun l => !m.1.getLsbD l)).map (fun l => (l, 0, m.2)) else []
  let sv := (blocks.zipIdx).foldl (fun a k => a + k.1.2.1 * 2 ^ (8 * k.2)) 0
  let sm := (blocks.zipIdx).foldl (fun a k =>
    if k.1.1.isEmpty && !wMz w then a else a + 255 * 2 ^ (8 * k.2)) 0
  let sv := (blocks.zipIdx).foldl (fun a k => if k.1.1.isEmpty then a - k.1.2.1 * 2 ^ (8 * k.2) else a) sv
  let scale : List VEff := match opC w with
    | .reg n st =>
      [.lane (if st then (n + i / 128) % 64 else n) (i % 128) (BitVec.ofNat 32 sv) (BitVec.ofNat 32 sm)
        (es.any (fun e => e.2.2.2))]
    | _ => []
  { w := ow, q := i % vP ow, P := vP ow, els := es.map (fun e => (e.1, e.2.1, e.2.2.2)) ++ zero,
    flags := es.map (fun e => (e.1, e.2.2.1)), effs := scale }

/-- Whether a CVT word is legal. -/
def cvtLegal (w : Slot) : Bool :=
  let mx := isMX (wFmt w) || isMX (wOfmt w)
  VUse.ok { fmt := true, ofmt := true, rm := true, sat := true } w && decide (wFmt w ≤ 14) && decide (wOfmt w ≤ 14) &&
  !(isMX (wFmt w) && isMX (wOfmt w)) && (opA w).isSrc && ((opB w).isSrc || decide (opB w = .none)) &&
  (if mx then (opC w).isReg else decide (opC w = .none)) && oneLoft w && (opD w).isDst

/-- CVT. -/
def doCvt (b : Nat) (w : Slot) (s : Mach) : Mach :=
  let iw := elemBits (wFmt w)
  vWord b w (cvtLegal w) 1 (unmasked b w)
    (iterRun b w 3 1 [(opA w, vP iw, unitBytes iw), (opB w, 1, 512)] (opD w)
      (if isMX (wOfmt w) then cvtMxOut b w else cvtOut b w)) s

def execCvt (b : BayNo) (s : State) : Host.Outcome State Fault Refusal := onMach s (fun s => onSlot s b 2 1 0x06 (doCvt b))

/-! ### Floating-point arithmetic (R199) -/

def fDec (w : Slot) (a : Nat) : Val := decodeFloat (wFloat w) a

/-- Binary and ternary operations that round once. -/
def arith2 (w : Slot) (i : Nat) (f : Val → Val → Val × Nat) (e a c : Nat) : Nat × Nat :=
  rounded w i e (f (fDec w a) (fDec w c))

def doArith2 (b : Nat) (lat ii : Nat) (f : Slot → Val → Val → Val × Nat) (w : Slot) (s : Mach) : Mach :=
  elemWord b w (VUse.ok { fmt := true, rm := true } w && fmtF w && aAndB w) lat ii [opA w, opB w]
    (fun s i => el2 b w (arith2 w i (f w)) s i) s

def doArith3 (b : Nat) (f : Slot → Val → Val → Val → Val × Nat) (w : Slot) (s : Mach) : Mach :=
  elemWord b w (VUse.ok { fmt := true, rm := true } w && fmtF w && (opA w).isSrc && (opB w).isSrc && (opC w).isSrc
      && oneLoft w) 4 1 [opA w, opB w, opC w]
    (fun s i => el3 b w (fun e a c g => rounded w i e (f w (fDec w a) (fDec w c) (fDec w g))) s i) s

def doArith1 (b : Nat) (rm : Bool) (lat ii : Nat) (f : Slot → Nat → Nat → Nat → Nat × Nat) (w : Slot) (s : Mach) : Mach :=
  elemWord b w (VUse.ok { fmt := true, rm := rm } w && fmtF w && onlyA w) lat ii [opA w]
    (fun s i => el1 b w (f w i) s i) s

def execAdd (b : BayNo) (s : State) : Host.Outcome State Fault Refusal :=
  onMach s (fun s => onSlot s b 2 1 0x08 (doArith2 b 3 1 (fun w a c => addVal (wRm w) a c)))

def execSub (b : BayNo) (s : State) : Host.Outcome State Fault Refusal :=
  onMach s (fun s => onSlot s b 2 1 0x09 (doArith2 b 3 1 (fun w a c => addVal (wRm w) a c.negate)))

def execMul (b : BayNo) (s : State) : Host.Outcome State Fault Refusal :=
  onMach s (fun s => onSlot s b 2 1 0x0A (doArith2 b 3 1 (fun _ a c => mulVal a c)))

def execFma (b : BayNo) (s : State) : Host.Outcome State Fault Refusal :=
  onMach s (fun s => onSlot s b 2 1 0x0B (doArith3 b (fun w a c g => fmaVal (wRm w) a c g)))

def execFms (b : BayNo) (s : State) : Host.Outcome State Fault Refusal :=
  onMach s (fun s => onSlot s b 2 1 0x0C (doArith3 b (fun w a c g => fmaVal (wRm w) a c g.negate)))

def execFnma (b : BayNo) (s : State) : Host.Outcome State Fault Refusal :=
  onMach s (fun s => onSlot s b 2 1 0x0D (doArith3 b (fun w a c g => fmaVal (wRm w) a.negate c g)))

/-- MIN and MAX of two encodings (R199): −0 below +0. -/
def minMax (f : FloatFmt) (big : Bool) (a c : Nat) : Nat × Nat :=
  let x := decodeFloat f a
  let y := decodeFloat f c
  if x.isNaN || y.isNaN then (canonNaN f, (nanOf [x, y] false).2)
  else
    let less := x.lt y || (x.isZero && y.isZero && x.sign && !y.sign)
    (if less != big then a else c, 0)

def doMinMax (b : Nat) (big : Bool) (w : Slot) (s : Mach) : Mach :=
  elemWord b w (VUse.ok { fmt := true } w && fmtF w && aAndB w) 2 1 [opA w, opB w]
    (el2 b w (fun _ a c => minMax (wFloat w) big a c)) s

def execMin (b : BayNo) (s : State) : Host.Outcome State Fault Refusal := onMach s (fun s => onSlot s b 2 1 0x0E (doMinMax b false))
def execMax (b : BayNo) (s : State) : Host.Outcome State Fault Refusal := onMach s (fun s => onSlot s b 2 1 0x0F (doMinMax b true))

/-- A change of the sign alone; a NaN becomes the canonical NaN (R199). -/
def signOp (g : Val → Bool) (w : Slot) (_i _e a : Nat) : Nat × Nat :=
  let f := wFloat w
  let v := decodeFloat f a
  if v.isNaN then (canonNaN f, 0)
  else (a % 2 ^ (f.ebits + f.mbits) + signBit f (g v), 0)

def execAbs (b : BayNo) (s : State) : Host.Outcome State Fault Refusal :=
  onMach s (fun s => onSlot s b 2 1 0x10 (doArith1 b false 1 1 (signOp (fun _ => false))))

def execNeg (b : BayNo) (s : State) : Host.Outcome State Fault Refusal :=
  onMach s (fun s => onSlot s b 2 1 0x11 (doArith1 b false 1 1 (signOp (fun v => !v.sign))))

/-- RINT: an integral value under RM. -/
def rintOp (w : Slot) (i e a : Nat) : Nat × Nat :=
  let f := wFloat w
  match decodeFloat f a with
  | .fin n m q =>
    let k := roundTo (wRnd w i e) n m q 0
    let o := encodeFloat f rne (.fin n k.1 0)
    (o.1, if k.2 then fNX else 0)
  | v => encodeFloat f rne v

def execRint (b : BayNo) (s : State) : Host.Outcome State Fault Refusal :=
  onMach s (fun s => onSlot s b 2 1 0x12 (doArith1 b true 3 1 rintOp))

/-- Issue intervals of DIV and SQRT, and of the approximate functions. -/
def iiDiv (w : Slot) : Nat := if is16 w then 8 else 4
def iiFun (w : Slot) : Nat := if is16 w then 2 else 1

def execDiv (b : BayNo) (s : State) : Host.Outcome State Fault Refusal :=
  onMach s (fun s => onSlot s b 2 1 0x13 (fun w s => doArith2 b 14 (iiDiv w) (fun _ a c => divVal a c) w s))

def execSqrt (b : BayNo) (s : State) : Host.Outcome State Fault Refusal :=
  onMach s (fun s => onSlot s b 2 1 0x14 (fun w s => doArith1 b true 14 (iiDiv w)
    (fun w i e a => rounded w i e (sqrtVal (fDec w a))) w s))

/-! ### Approximate functions (R207, R208) -/

def one : Val := .fin false 1 0
def pzero (n : Bool) : Val := .fin n 0 0

/-- The result of a special operand and its flags (R208). -/
def approxSpecial (op : Nat) (x : Val) : Option (Val × Nat) :=
  match x with
  | .nan k => some (.nan false, if k then fNV else 0)
  | .inf n =>
    (match op with
     | 0x15 => some (pzero n, 0)
     | 0x16 => some (if n then (.nan false, fNV) else (pzero false, 0))
     | 0x17 => some (if n then (pzero false, 0) else (.inf false, 0))
     | 0x18 => some (if n then (pzero false, 0) else (.inf false, 0))
     | 0x19 => some (if n then (.nan false, fNV) else (.inf false, 0))
     | 0x1A => some (if n then (.nan false, fNV) else (.inf false, 0))
     | 0x1B => some (.fin n 1 0, 0)
     | 0x1C => some (if n then (pzero false, 0) else (one, 0))
     | 0x1D => some (.fin n 1 0, 0)
     | _ => some (.nan false, fNV))
  | .fin n m e =>
    if m = 0 then
      (match op with
       | 0x15 => some (.inf n, fDZ)
       | 0x16 => some (.inf n, fDZ)
       | 0x17 => some (one, 0)
       | 0x18 => some (one, 0)
       | 0x19 => some (.inf true, fDZ)
       | 0x1A => some (.inf true, fDZ)
       | 0x1B => some (pzero n, 0)
       | 0x1C => some (.fin false 1 (-1), 0)
       | 0x1D => some (pzero n, 0)
       | 0x1E => some (pzero n, 0)
       | _ => some (one, 0))
    else if n && (op = 0x16 || op = 0x19 || op = 0x1A) then some (.nan false, fNV)
    else if (op = 0x19 || op = 0x1A) && Val.eq (.fin n m e) one then some (pzero false, 0)
    else none

/-- The exact result where the model can tell it: 1/x, 1/√x (with bits enough to round), 2^x and log₂ x where they are
powers of two and integers. -/
def approxExact (op : Nat) (x : Val) : Option Val :=
  match op, x with
  | 0x15, x => some (divVal one x).1
  | 0x16, x => some (sqrtVal (divVal one x).1).1
  | 0x17, .fin n m e =>
    if 0 ≤ e ∧ m * pow2 e ≤ 200 then some (.fin false 1 (if n then -(m * pow2 e : Nat) else (m * pow2 e : Nat)))
    else if e < 0 ∧ m % pow2 (-e) = 0 ∧ m / pow2 (-e) ≤ 200 then
      some (.fin false 1 (if n then -(m / pow2 (-e) : Nat) else (m / pow2 (-e) : Nat)))
    else none
  | 0x19, .fin _ m e => if m = 2 ^ log2 m then some (ofInt (e + log2 m) 0) else none
  | _, _ => none

/-- The FP32 result of an approximate function and its flags. For RCP and RSQRT the result is one of the FP32 values
within 1 ULP of the exact one, chosen by a free value; elsewhere it is the free value (log entry 21). -/
def approxFp32 (op : Nat) (x : Val) : Val × Nat :=
  match approxSpecial op x with
  | some r => r
  | none =>
    let xb : BitVec 32 := BitVec.ofNat 32 (encodeFloat fmtFP32 rne x).1
    let fr := (Config.vxeApprox op xb).toNat
    let near := op = 0x15 ∨ op = 0x16
    let ex := approxExact op x
    let bits : Nat := match ex with
      | some v =>
        if near then
          let lo := encodeFloat fmtFP32 { rne with rm := 2 } v
          let hi := encodeFloat fmtFP32 { rne with rm := 3 } v
          if lo.1 = hi.1 then (lo.1 + fr % 3 - 1) else if fr % 2 = 0 then lo.1 else hi.1
        else fr
      | none => fr
    let r := decodeFloat fmtFP32 bits
    let exact := match ex with | some v => Val.eq r v | none => false
    let nx := if exact then 0 else fNX
    let uf := if !exact && decide (bits / 2 ^ 23 % 256 = 0) then fUF else 0
    let off := if r.isInf then fOF else 0
    (r, nx ||| uf ||| off)

/-- An approximate function in FMT: the FP32 result, rounded once with RM in a 16-bit format. -/
def approxOp (op : Nat) (w : Slot) (i e a : Nat) : Nat × Nat :=
  let r := approxFp32 op (decodeFloat (wFloat w) a)
  let rnd := if is16 w then wRnd w i e else rne
  let o := encodeFloat (wFloat w) rnd r.1
  (o.1, r.2 ||| o.2)

def doFun (b op lat : Nat) (w : Slot) (s : Mach) : Mach := doArith1 b true lat (iiFun w) (approxOp op) w s

def execRcp (b : BayNo) (s : State) : Host.Outcome State Fault Refusal := onMach s (fun s => onSlot s b 2 1 0x15 (doFun b 0x15 6))
def execRsqrt (b : BayNo) (s : State) : Host.Outcome State Fault Refusal := onMach s (fun s => onSlot s b 2 1 0x16 (doFun b 0x16 6))
def execExp2 (b : BayNo) (s : State) : Host.Outcome State Fault Refusal := onMach s (fun s => onSlot s b 2 1 0x17 (doFun b 0x17 8))
def execExp (b : BayNo) (s : State) : Host.Outcome State Fault Refusal := onMach s (fun s => onSlot s b 2 1 0x18 (doFun b 0x18 10))
def execLog2 (b : BayNo) (s : State) : Host.Outcome State Fault Refusal := onMach s (fun s => onSlot s b 2 1 0x19 (doFun b 0x19 8))
def execLog (b : BayNo) (s : State) : Host.Outcome State Fault Refusal := onMach s (fun s => onSlot s b 2 1 0x1A (doFun b 0x1A 10))
def execTanh (b : BayNo) (s : State) : Host.Outcome State Fault Refusal := onMach s (fun s => onSlot s b 2 1 0x1B (doFun b 0x1B 12))
def execSigm (b : BayNo) (s : State) : Host.Outcome State Fault Refusal := onMach s (fun s => onSlot s b 2 1 0x1C (doFun b 0x1C 12))
def execErf (b : BayNo) (s : State) : Host.Outcome State Fault Refusal := onMach s (fun s => onSlot s b 2 1 0x1D (doFun b 0x1D 12))
def execSin (b : BayNo) (s : State) : Host.Outcome State Fault Refusal := onMach s (fun s => onSlot s b 2 1 0x1E (doFun b 0x1E 14))
def execCos (b : BayNo) (s : State) : Host.Outcome State Fault Refusal := onMach s (fun s => onSlot s b 2 1 0x1F (doFun b 0x1F 14))

/-! ### Integer operations -/

def doInt (b lat : Nat) (f : BitVec 32 → BitVec 32 → BitVec 32) (w : Slot) (s : Mach) : Mach :=
  elemWord b w (VUse.ok { fmt := true } w && fmtI w && aAndB w) lat 1 [opA w, opB w]
    (el2 b w (fun _ a c => ((f (BitVec.ofNat 32 a) (BitVec.ofNat 32 c)).toNat, 0))) s

def execIadd (b : BayNo) (s : State) : Host.Outcome State Fault Refusal :=
  onMach s (fun s => onSlot s b 2 1 0x20 (doInt b 1 (fun a c => a + c)))
def execIsub (b : BayNo) (s : State) : Host.Outcome State Fault Refusal :=
  onMach s (fun s => onSlot s b 2 1 0x21 (doInt b 1 (fun a c => a - c)))
def execImul (b : BayNo) (s : State) : Host.Outcome State Fault Refusal :=
  onMach s (fun s => onSlot s b 2 1 0x22 (doInt b 2 (fun a c => a * c)))
def execImin (b : BayNo) (s : State) : Host.Outcome State Fault Refusal :=
  onMach s (fun s => onSlot s b 2 1 0x23 (doInt b 1 (fun a c => if a.toInt ≤ c.toInt then a else c)))
def execImax (b : BayNo) (s : State) : Host.Outcome State Fault Refusal :=
  onMach s (fun s => onSlot s b 2 1 0x24 (doInt b 1 (fun a c => if a.toInt ≤ c.toInt then c else a)))
def execAnd (b : BayNo) (s : State) : Host.Outcome State Fault Refusal :=
  onMach s (fun s => onSlot s b 2 1 0x25 (doInt b 1 (fun a c => a &&& c)))
def execOr (b : BayNo) (s : State) : Host.Outcome State Fault Refusal :=
  onMach s (fun s => onSlot s b 2 1 0x26 (doInt b 1 (fun a c => a ||| c)))
def execXor (b : BayNo) (s : State) : Host.Outcome State Fault Refusal :=
  onMach s (fun s => onSlot s b 2 1 0x27 (doInt b 1 (fun a c => a ^^^ c)))
def execShl (b : BayNo) (s : State) : Host.Outcome State Fault Refusal :=
  onMach s (fun s => onSlot s b 2 1 0x28 (doInt b 1 (fun a c => a <<< (c.toNat % 32))))
def execShr (b : BayNo) (s : State) : Host.Outcome State Fault Refusal :=
  onMach s (fun s => onSlot s b 2 1 0x29 (doInt b 1 (fun a c => a >>> (c.toNat % 32))))
def execSra (b : BayNo) (s : State) : Host.Outcome State Fault Refusal :=
  onMach s (fun s => onSlot s b 2 1 0x2A (doInt b 1 (fun a c => a.sshiftRight (c.toNat % 32))))

/-! ### Masks (R199, R200) -/

/-- A condition on two FP32 or INT32 encodings: the bit and the flags. -/
def cmpBit (sub : Nat) (isInt : Bool) (a c : Nat) : Bool × Nat :=
  let x := decodeElem (if isInt then kINT32 else kFP32) a
  let y := decodeElem (if isInt then kINT32 else kFP32) c
  let un := x.isNaN || y.isNaN
  let sig := (nanOf [x, y] false).2
  match sub with
  | 0 => (x.eq y, sig)
  | 1 => (un || !x.eq y, sig)
  | 2 => (x.lt y, if un then fNV else 0)
  | 3 => (!un && !y.lt x, if un then fNV else 0)
  | 4 => (y.lt x, if un then fNV else 0)
  | 5 => (!un && !x.lt y, if un then fNV else 0)
  | 6 => (un, sig)
  | _ => (!un, sig)

/-- The effects on mask D of an iteration: unmasked bits take their value, the others follow MZ (R192). -/
def maskResult (w : Slot) (i : Nat) (m : BitVec 128 × Bool) (v : BitVec 128) (p : Bool) : List VEff :=
  let en := if wMz w then BitVec.allOnes 128 else m.1
  writeMask (wD w) i (v &&& m.1) en (p || m.2)

/-- CMP. -/
def doCmp (b : Nat) (w : Slot) (s : Mach) : Mach :=
  let legal := VUse.ok { fmt := true, sub := true } w && fmt32 w && aAndB w && maskLegal (wD w) true &&
    decide (wSub w ≤ (if fmtI w then 5 else 7))
  vWord b w legal 1 (unmasked b w)
    (iterRun b w 2 1 (srcs32 [opA w, opB w]) .none (fun s i =>
      let m := readMask (getVxe s b) (wMsk w) i
      let a := arg s b w (opA w) i
      let c := arg s b w (opB w) i
      let ls := (List.range 128).filter (fun l => m.1.getLsbD l)
      let rs := ls.map (fun l => (l, cmpBit (wSub w) (fmtI w) (a l).1 (c l).1))
      let v := rs.foldl (fun v r => if r.2.1 then v + 2 ^ r.1 else v) 0
      { IterOut.none with
        flags := rs.map (fun r => (r.1, r.2.2)),
        effs := maskResult w i m (BitVec.ofNat 128 v) (ls.any (fun l => (a l).2 || (c l).2)) })) s

def execCmp (b : BayNo) (s : State) : Host.Outcome State Fault Refusal := onMach s (fun s => onSlot s b 2 1 0x2B (doCmp b))

/-- MLOG. -/
def doMlog (b : Nat) (w : Slot) (s : Mach) : Mach :=
  let legal := VUse.ok { sub := true } w && maskLegal (wD w) true && maskLegal (wA w) false && unusedOp (wC w) &&
    decide (wSub w ≤ 4) && (if wSub w = 4 then decide (wB w = 255) else maskLegal (wB w) false)
  vWord b w legal 1 (unmasked b w)
    (iterRun b w 1 1 [] .none (fun s i =>
      let x := getVxe s b
      let m := readMask x (wMsk w) i
      let a := readMask x (wA w) i
      let c := if wSub w = 4 then (0, false) else readMask x (wB w) i
      let v := match wSub w with
        | 0 => a.1 &&& c.1
        | 1 => a.1 ||| c.1
        | 2 => a.1 ^^^ c.1
        | 3 => a.1 &&& ~~~c.1
        | _ => ~~~a.1
      { IterOut.none with effs := maskResult w i m v (a.2 || c.2) })) s

def execMlog (b : BayNo) (s : State) : Host.Outcome State Fault Refusal := onMach s (fun s => onSlot s b 2 1 0x2C (doMlog b))

/-! ### WINNOW and RESOW (R202, R203) -/

/-- The elements that WINNOW takes, in the order (iteration, lane), each read at its iteration's FCLK. -/
def winnowTake (b : Nat) (w : Slot) (s : Mach) (p : Nat) : VRun :=
  (List.range (wRep w + 1)).foldl (fun r i =>
    let r := { r with view := vFlush r.view b (p + i) }
    let r := r.source b (opA w) 512
    let m := readMask (getVxe r.view b) (wMsk w) i
    let a := arg r.view b w (opA w) i
    let es := ((List.range 128).filter (fun l => m.1.getLsbD l)).map (fun l =>
      (if wSub w = 1 then (128 * i + l) % 2 ^ 32 else (a l).1, (a l).2 || m.2))
    let r := { r with elems := r.elems ++ es }
    r.step b (opA w) 1 i) (vRun0 s)

/-- The run of WINNOW: unit u takes elements 128u on, and is written with the result of iteration u. -/
def winnowRun (b : Nat) (w : Slot) (s : Mach) (word p : Nat) : VRun :=
  let t := winnowTake b w s p
  let lat := 4 - 1 + (if (opA w).isLoft then 8 else 0)
  let c := t.elems.length
  let mp := (List.range (wRep w + 1)).any (fun i => (readMask (getVxe s b) (wMsk w) i).2)
  (List.range (wRep w + 1)).foldl (fun r u =>
    let els := (List.range 128).filterMap (fun j =>
      match t.elems[128 * u + j]? with
      | some e => some (j, e.1, e.2)
      | none => if wMz w then some (j, 0, mp) else none)
    let fin : List VEff := if u = wRep w then [.scalar (wImm w % 16) (BitVec.ofNat 32 c) mp] else []
    let r := r.deliver b word (p + u + lat) (opD w) { IterOut.none with els := els, effs := fin } u (decide (u = wRep w))
    r.step b (opD w) 1 u) t

def doWinnow (b : Nat) (w : Slot) (s : Mach) : Mach :=
  vWord b w (VUse.ok { fmt := true, sub := true, imm := 4 } w && fmt32 w && onlyA w && (opD w).moves && decide (wSub w ≤ 1))
    1 (unmasked b w) (winnowRun b w) s

def execWinnow (b : BayNo) (s : State) : Host.Outcome State Fault Refusal := onMach s (fun s => onSlot s b 2 1 0x2D (doWinnow b))

/-- The run of RESOW: unit i of A is read with iteration i; position (i, l) with mask bit 1 takes the next element. -/
def resowRun (b : Nat) (w : Slot) (s : Mach) (word p : Nat) : VRun :=
  let lat := 4 - 1 + (if (opA w).isLoft then 8 else 0)
  (List.range (wRep w + 1)).foldl (fun r i =>
    let r := { r with view := vFlush r.view b (p + i) }
    let r := r.source b (opA w) 512
    let a := arg r.view b w (opA w) i
    let r := { r with elems := r.elems ++ (List.range 128).map a }
    let m := readMask (getVxe r.view b) (wMsk w) i
    let q := (List.range 128).foldl (fun (acc : Nat × List (Nat × Nat × Bool)) l =>
      if m.1.getLsbD l then
        let e := r.elems.getD acc.1 (0, false)
        (acc.1 + 1, acc.2 ++ [(l, e.1, e.2 || m.2)])
      else (acc.1, if wMz w then acc.2 ++ [(l, 0, m.2)] else acc.2)) (r.used, [])
    let r := { r with used := q.1 }
    let r := r.deliver b word (p + i + lat) (opD w) { IterOut.none with els := q.2 } i (decide (i = wRep w))
    (r.step b (opA w) 1 i).step b (opD w) 1 i) (vRun0 s)

def doResow (b : Nat) (w : Slot) (s : Mach) : Mach :=
  vWord b w (VUse.ok { fmt := true } w && fmt32 w && onlyA w && (opA w).moves && (opD w).isDst)
    1 (unmasked b w) (resowRun b w) s

def execResow (b : BayNo) (s : State) : Host.Outcome State Fault Refusal := onMach s (fun s => onSlot s b 2 1 0x2E (doResow b))

/-! ### RED (R204) -/

/-- A node of the tree: none masked off; bits, poison, flags. -/
abbrev RNode := Option (Nat × Bool × Nat)

/-- The operation ⊕ of a reduction. -/
def redOp (w : Slot) (i g : Nat) (a c : Nat) : Nat × Nat :=
  match wSub w % 4, fmtI w with
  | 0, true => ((a + c) % 2 ^ 32, 0)
  | 0, false => rounded w i g (addVal (wRm w) (decodeFloat fmtFP32 a) (decodeFloat fmtFP32 c))
  | 1, true => (if sext 32 a ≤ sext 32 c then c else a, 0)
  | 1, false => minMax fmtFP32 true a c
  | _, true => (if sext 32 a ≤ sext 32 c then a else c, 0)
  | _, false => minMax fmtFP32 false a c

def redJoin (w : Slot) (i g : Nat) (a c : RNode) : RNode :=
  match a, c with
  | none, c => c
  | a, none => a
  | some x, some y =>
    let r := redOp w i g x.1 y.1
    some (r.1, x.2.1 || y.2.1, x.2.2 ||| y.2.2 ||| r.2)

/-- One level of the tree: adjacent results combined. -/
def redLevel (w : Slot) (i g : Nat) : List RNode → List RNode
  | a :: c :: l => redJoin w i g a c :: redLevel w i g l
  | l => l

def redTree (w : Slot) (i g : Nat) : Nat → List RNode → RNode
  | 0, l => l.headD none
  | n + 1, l => redTree w i g n (redLevel w i g l)

/-- The result of a group with every lane masked off. -/
def redEmpty (w : Slot) : Nat :=
  match wSub w % 4, fmtI w with
  | 0, _ => 0
  | 1, true => 2 ^ 31
  | 1, false => 0xFF800000
  | _, true => 2 ^ 31 - 1
  | _, false => 0x7F800000

/-- log2 of the group size. -/
def redLog (w : Slot) : Nat := wImm w % 8 + 1

/-- The group results of an iteration: bits, poison, flags. -/
def redGroups (b : Nat) (w : Slot) (s : Mach) (i : Nat) : List (Nat × Bool × Nat) :=
  let m := readMask (getVxe s b) (wMsk w) i
  let a := arg s b w (opA w) i
  let k := redLog w
  (List.range (128 / 2 ^ k)).map (fun g =>
    let leaves := (List.range (2 ^ k)).map (fun j =>
      let l := 2 ^ k * g + j
      if m.1.getLsbD l then some ((a l).1, (a l).2, 0) else none)
    match redTree w i g k leaves with
    | some r => (r.1, r.2.1 || m.2, r.2.2)
    | none => (redEmpty w, m.2, 0))

def redX (w : Slot) : Bool := decide (8 ≤ wSub w)

/-- Elements written by group results: lane g, the other lanes following MZ. -/
def redEls (w : Slot) (gs : List (Nat × Bool × Nat)) : List (Nat × Nat × Bool) :=
  (gs.zipIdx.map (fun g => (g.2, g.1.1, g.1.2.1))) ++
  (if wMz w then (List.range (128 - gs.length)).map (fun j => (gs.length + j, 0, false)) else [])

/-- L of RED. -/
def redLat (w : Slot) : Nat := (if wSub w % 4 = 0 ∧ wFmt w = 0 then 3 else 1) * redLog w + 2

def redIi (w : Slot) : Nat := if redX w && decide (wSub w % 4 = 0) && decide (wFmt w = 0) then 3 else 1

/-- The run of RED. With X = 1 the group results are combined in the order of the iterations and written with the last. -/
def redRun (b : Nat) (w : Slot) (s : Mach) (word p : Nat) : VRun :=
  (List.range (wRep w + 1)).foldl (fun r i =>
    let t := iterAt p (redIi w) i
    let edge := t + redLat w - 1 + (if (opA w).isLoft then 8 else 0)
    let r := { r with view := vFlush r.view b t }
    let r := r.source b (opA w) 512
    let gs := redGroups b w r.view i
    let last := decide (i = wRep w)
    let r :=
      if redX w then
        let acc : List (Nat × Bool × Nat) := if i = 0 then gs else
          (r.groups.zip gs).zipIdx.map (fun (x : ((Nat × Bool × Bool) × (Nat × Bool × Nat)) × Nat) =>
            let q := redOp w i x.2 x.1.1.1 x.1.2.1
            (q.1, x.1.1.2.1 || x.1.2.2.1, x.1.2.2.2 ||| q.2))
        let fl := acc.zipIdx.map (fun (g : (Nat × Bool × Nat) × Nat) => (g.2, g.1.2.2))
        let r := { r with groups := acc.map (fun (g : Nat × Bool × Nat) => (g.1, g.2.1, false)) }
        r.deliver b word edge (if last then opD w else .none)
          { IterOut.none with els := if last then redEls w acc else [], flags := fl } i last
      else r.deliver b word edge (opD w)
        { IterOut.none with els := redEls w gs, flags := (gs.zipIdx.map (fun (g : (Nat × Bool × Nat) × Nat) => (g.2, g.1.2.2))) } i last
    let r := r.step b (opA w) 1 i
    if redX w then r else r.step b (opD w) 1 i) (vRun0 s)

def doRed (b : Nat) (w : Slot) (s : Mach) : Mach :=
  let sum := decide (wSub w % 4 = 0) && decide (wFmt w = 0)
  let legal := VUse.ok { fmt := true, sub := true, rm := sum, imm := 3 } w && fmt32 w && onlyA w && (opD w).isDst &&
    decide (wImm w % 8 ≤ 6) && decide (wSub w % 4 ≠ 3) && decide (wSub w / 4 % 2 = 0) &&
    (!redX w || (match opD w with | .reg _ st => !st | _ => false))
  vWord b w legal (redIi w) (unmasked b w) (redRun b w) s

def execRed (b : BayNo) (s : State) : Host.Outcome State Fault Refusal := onMach s (fun s => onSlot s b 2 1 0x2F (doRed b))

/-! ### Anchored accumulators (R205, R206) -/

/-- The effects of an iteration on AC(ACN): a function of each unmasked lane; masked-off lanes follow MZ. -/
def acEffs (s : Mach) (b : Nat) (w : Slot) (i : Nat) (f : Nat → Bool → VEff) : List VEff :=
  let m := readMask (getVxe s b) (wMsk w) i
  (List.range 128).filterMap (fun l =>
    if m.1.getLsbD l then some (f l m.2)
    else if wMz w then some (.acSet (wAcn w) l 0 m.2) else none)

/-- AADD and AMAC: terms against the anchor IMM[9:0]. -/
def acTerms (b : Nat) (w : Slot) (mac : Bool) (s : Mach) (i : Nat) : IterOut :=
  let a := arg s b w (opA w) i
  let c := arg s b w (opB w) i
  let dec := decodeElem (wFmt w)
  { IterOut.none with effs := acEffs s b w i (fun l p =>
      let v := if mac then (mulVal (dec (a l).1) (dec (c l).1)).1 else dec (a l).1
      .acAdd (wAcn w) l (ancTerm (sext 10 (wImm w)) v) ((a l).2 || (mac && (c l).2) || p)) }

def doAadd (b : Nat) (w : Slot) (s : Mach) : Mach :=
  vWord b w (VUse.ok { fmt := true, acn := true, imm := 10 } w && fmt32 w && onlyA w && unusedOp (wD w)) 1 (unmasked b w)
    (iterRun b w 4 1 (srcs32 [opA w]) .none (acTerms b w false)) s

def execAadd (b : BayNo) (s : State) : Host.Outcome State Fault Refusal := onMach s (fun s => onSlot s b 2 1 0x30 (doAadd b))

def doAmac (b : Nat) (w : Slot) (s : Mach) : Mach :=
  vWord b w (VUse.ok { fmt := true, acn := true, imm := 10 } w && fmt32 w && aAndB w && unusedOp (wD w)) 1 (unmasked b w)
    (iterRun b w 4 1 (srcs32 [opA w, opB w]) .none (acTerms b w true)) s

def execAmac (b : BayNo) (s : State) : Host.Outcome State Fault Refusal := onMach s (fun s => onSlot s b 2 1 0x31 (doAmac b))

/-- ARED: AC(ACN) becomes the sums of its groups. -/
def aredOut (b : Nat) (w : Slot) (s : Mach) (i : Nat) : IterOut :=
  let x := getVxe s b
  let m := readMask x (wMsk w) i
  let k := redLog w
  let gs : List (Anc × Bool × Nat) := (List.range (128 / 2 ^ k)).map (fun g =>
    (List.range (2 ^ k)).foldl (fun (acc : Anc × Bool × Nat) j =>
      let l := 2 ^ k * g + j
      if m.1.getLsbD l then
        let q := ancAdd acc.1 (vAc x (wAcn w) l)
        (q.1, acc.2.1 || vAcP x (wAcn w) l, acc.2.2 ||| q.2)
      else acc) (0, m.2, 0))
  { IterOut.none with
    effs := (List.range 128).map (fun l =>
      match gs[l]? with
      | some g => .acSet (wAcn w) l g.1 g.2.1
      | none => .acSet (wAcn w) l 0 false),
    flags := gs.zipIdx.map (fun g => (g.2, g.1.2.2)) }

def doAred (b : Nat) (w : Slot) (s : Mach) : Mach :=
  vWord b w (VUse.ok { acn := true, imm := 3 } w && noSrc w && unusedOp (wD w) && decide (wRep w = 0)
      && decide (wImm w % 8 ≤ 6)) 1 (unmasked b w) (iterRun b w 8 1 [] .none (aredOut b w)) s

def execAred (b : BayNo) (s : State) : Host.Outcome State Fault Refusal := onMach s (fun s => onSlot s b 2 1 0x32 (doAred b))

/-- ALD: 128 containers of 2 KiB; its read takes 4 FCLK, and R195's 8 FCLK of a loft source apply (log entry 22). -/
def aldOut (b : Nat) (w : Slot) (s : Mach) (i : Nat) : IterOut :=
  let a := match opA w with | .loft p => ptrAddr (vPtr (getVxe s b) p) | _ => 0
  { IterOut.none with effs := acEffs s b w i (fun l p =>
      let c : Anc := BitVec.ofNat 128 (readNat s.loft (loftIx b (a + 16 * l)) 16)
      let q := granPois s b (a + 16 * l) || p
      if wSub w = 0 ∧ i = 0 then .acSet (wAcn w) l c q else .acAdd (wAcn w) l c q) }

def doAld (b : Nat) (w : Slot) (s : Mach) : Mach :=
  vWord b w (VUse.ok { acn := true, sub := true } w && onlyA w && (opA w).isLoft && unusedOp (wD w) && decide (wSub w ≤ 1))
    4 (unmasked b w) (iterRun b w 12 4 [(opA w, 1, 2048)] .none (aldOut b w)) s

def execAld (b : BayNo) (s : State) : Host.Outcome State Fault Refusal := onMach s (fun s => onSlot s b 2 1 0x33 (doAld b))

/-- The run of AST: 2 KiB over the loft write path at 512 B per FCLK, the last of the four writes at t + L − 1. -/
def astRun (b : Nat) (w : Slot) (s : Mach) (word p : Nat) : VRun :=
  let r := (vRun0 s).access b (opD w) 2048
  let a := match opD w with | .loft q => ptrAddr (vPtr (getVxe s b) q) | _ => 0
  let x := getVxe s b
  let m := readMask x (wMsk w) 0
  let k := wAcn w
  let r := (List.range 4).foldl (fun r j =>
    let ls := (List.range 32).map (fun n => 32 * j + n)
    let bs := ls.flatMap (fun l => bytesOf 16 (if m.1.getLsbD l then (vAc x k l).toNat else 0))
    let mask := ls.zipIdx.foldl (fun acc l =>
      if m.1.getLsbD l.1 || wMz w then acc + (2 ^ 16 - 1) * 2 ^ (16 * l.2) else acc) 0
    let pois := ls.zipIdx.foldl (fun acc l =>
      if m.1.getLsbD l.1 && (vAcP x k l.1 || m.2) then acc ||| 2 ^ (l.2 / 4) else acc) 0
    let clr : List VEff := if wSub w = 1 ∧ j = 3 then
        ((List.range 128).filter (fun l => m.1.getLsbD l)).map (fun l => .acSet k l 0 false)
      else []
    r.push b (vWrite word (p + j) ([.loft (a + 512 * j) bs mask pois] ++ clr))) r
  r.step b (opD w) 1 0

def doAst (b : Nat) (w : Slot) (s : Mach) : Mach :=
  vWord b w (VUse.ok { acn := true, sub := true } w && noSrc w && (opD w).isLoft && decide (wRep w = 0)
      && decide (wSub w ≤ 1)) 4 (unmasked b w) (astRun b w) s

def execAst (b : BayNo) (s : State) : Host.Outcome State Fault Refusal := onMach s (fun s => onSlot s b 2 1 0x34 (doAst b))

/-- AOUT: each lane read out to OFMT; a 16-bit result is zero-extended. -/
def aoutOut (b : Nat) (w : Slot) (s : Mach) (i : Nat) : IterOut :=
  let x := getVxe s b
  let o := maskedOut s b w i 1 32 0 1 (fun l =>
    let r := ancOut (wOfmt w) { rm := wRm w, sat := wSat w, seed := wImm w, idx := 128 * i + l } (vAc x (wAcn w) l)
    (r.1, r.2, vAcP x (wAcn w) l))
  let m := readMask x (wMsk w) i
  { o with effs := if wSub w = 1 then
      ((List.range 128).filter (fun l => m.1.getLsbD l)).map (fun l => .acSet (wAcn w) l 0 false) else [] }

def doAout (b : Nat) (w : Slot) (s : Mach) : Mach :=
  vWord b w (VUse.ok { ofmt := true, rm := true, sat := true, acn := true, sub := true } w && noSrc w && (opD w).isDst
      && decide (wRep w = 0) && decide (wSub w ≤ 1) && (decide (wOfmt w ≤ 2) || decide (wOfmt w = kINT32)))
    1 (unmasked b w) (iterRun b w 4 1 [] (opD w) (aoutOut b w)) s

def execAout (b : BayNo) (s : State) : Host.Outcome State Fault Refusal := onMach s (fun s => onSlot s b 2 1 0x35 (doAout b))

/-- ACLR empties AC(ACN). -/
def doAclr (b : Nat) (w : Slot) (s : Mach) : Mach :=
  vWord b w (VUse.ok { acn := true } w && noSrc w && unusedOp (wD w)) 1 (unmasked b w)
    (iterRun b w 1 1 [] .none (fun s i =>
      { IterOut.none with effs := acEffs s b w i (fun l p => .acSet (wAcn w) l 0 p) })) s

def execAclr (b : BayNo) (s : State) : Host.Outcome State Fault Refusal := onMach s (fun s => onSlot s b 2 1 0x36 (doAclr b))

/-- FLAGS (R210): the lane flags as INT32; the clear comes before a condition raised on its FCLK. -/
def flagsRun (b : Nat) (w : Slot) (s : Mach) (word p : Nat) : VRun :=
  let x := getVxe s b
  let m := readMask x (wMsk w) 0
  let clr : List VEff := if wSub w = 1 then
      ((List.range 128).filter (fun l => m.1.getLsbD l)).map (fun l => .clearFlags l) else []
  let r := (vRun0 s).deliver b word (p + 1) (opD w) (maskedOut s b w 0 1 32 0 1 (fun l => (vLf x l, 0, false))) 0 true
  (r.push b (vWrite word (p + 1) clr)).step b (opD w) 1 0

def doFlags (b : Nat) (w : Slot) (s : Mach) : Mach :=
  vWord b w (VUse.ok { sub := true } w && noSrc w && (opD w).isDst && decide (wRep w = 0) && decide (wSub w ≤ 1))
    1 (unmasked b w) (flagsRun b w) s

def execFlags (b : BayNo) (s : State) : Host.Outcome State Fault Refusal := onMach s (fun s => onSlot s b 2 1 0x37 (doFlags b))

end Sys2Proof.Machine
end

