-- ==== Sys2Proof/Machine/Csp.lean ====
section
/-! DEFINITION. Control space: who may reach a register, what a register reads as, and reads (R7, R11 to R16, R30 to R33,
R462, R465, R466, R541, R579). -/

namespace Sys2Proof.Machine

open Sys2Proof.Config (acyc)

/-! ### Access checks (R462, R466) -/

/-- How an access to control space ends. -/
inductive CspRes where
  /-- Done; refused by the access tables; an access error (R13, R32); a busy error (R16). -/
  | ok | refused | error | busy
  deriving DecidableEq, Repr

/-- Whether the block is one of a bay, and its bay. -/
def blkBay (b : Blk) (u : Nat) : Option Nat :=
  match b with
  | .seq | .mxa | .vxe | .sem | .semarr | .mov | .lft | .etr | .bcnt | .btrc | .bdbg | .bflt => some u
  | .shf => some (u / 4)
  | _ => none

/-- The partition that owns a block for R466: of a bay or cluster block, of a ring. -/
def blkOwner (s : Mach) (b : Blk) (u : Nat) : Option Nat :=
  match blkBay b u with
  | some k => bayPid s k
  | none =>
    match b with
    | .cluster => clusterPid s u
    | .rng => ringPid s u
    | .door => ringPid s u
    | _ => none

/-- Whether a PCI Express function group is the master. -/
def isGroupMid (m : Nat) : Bool := decide (0x1C0 ≤ m) && decide (m ≤ 0x1DF)

/-- R466 for one access: `v` is the value of a write, none for a read. An address that no block covers falls under the last
row. -/
def cspAllowed (s : Mach) (mid off : Nat) (v : Option Word) : Bool :=
  let info := midInfo s mid
  let sys := midSys s mid
  let own := fun (o : Option Nat) => sys || (decide (info.1 = .bound) && o.isSome && decide (o = info.2))
  match info.1 with
  | .invalid => false
  | .hub => true
  | _ =>
    match blkAt off with
    | none => sys
    | some (b, u, o) =>
      if isGroupMid mid then decide (b = .door) && own (blkOwner s b u)
      else
        match b with
        | .hub | .die => true
        | .cluster | .rng | .door => own (blkOwner s b u)
        | .etrw =>
          (match v with
           | none => true
           | some v =>
             if o / 8 = 3 then true
             else if o / 8 = 0 ∧ fld v 61 60 ≠ 0 then own (tenPid s (fld v 57 48))
             else sys)
        | .prt =>
          if 0x2000 ≤ o ∧ o < 0xA000 then
            let t := (o - 0x2000) / 32
            match v with
            | none => own (tenPid s t)
            | some v => if o % 32 < 8 then tenWriteOk s mid t v else tenWriteOk s mid t 0
          else sys
        | .movb => if o / 8 = 0 then true else sys
        | .sec => if o / 8 = 3 ∨ o / 8 = 4 ∨ (0x1000 ≤ o ∧ o < 0x3000) then true else sys
        | b => if (blkBay b u).isSome then own (blkOwner s b u) else sys

/-! ### Records of refusals and access errors (R465, R536, R541, R639) -/

/-- The BLK code of a block (R536). -/
def blkCode (b : Blk) (o : Nat) : Nat :=
  match b with
  | .mxa => 1 | .vxe => 2 | .shf => 3 | .mov | .movb => 4 | .lft | .lftc => 5 | .seq => 6 | .sem | .semarr => 7
  | .etr | .etrw => 8 | .grn => 9 | .home | .coha => 0xA | .vk => 0xB | .pci => 0xC | .ddr => 0xD | .cluster => 0xE
  | .alm | .alml => 0xF | .pwr | .pwrl => 0x10 | .flt | .fltd | .bflt => 0x11 | .prt => 0x12 | .rng | .door => 0x13
  | .bdbg => 0x14 | .dbgtrc => if o < 0x8000 then 0x14 else 0x15 | .btrc => 0x15 | .cnt | .bcnt => 0x16 | .boot => 0x17
  | .mgt => 0x18 | .sec => 0x19 | .hub | .die => 0x1B | .yard => 0x1C

/-- The UNIT of a block within its die (R536). -/
def blkUnit (b : Blk) (u : Nat) : Nat :=
  match blkBay b u with
  | some k => k % 12
  | none =>
    match b with
    | .grn => u % 3 | .vk => u % 6 | .cluster => u % 6 | .ddr => u % 8 | _ => 0x7F

/-- Die ID, BLK and UNIT of a control-space offset. -/
def cspTarget (off : Nat) : Nat × Nat × Nat :=
  match blkAt off with
  | some (b, u, o) => (if b = .door then 0 else off / 0x200000, blkCode b o, blkUnit b u)
  | none => (if off < 0x4000000 ∧ validDie (off / 0x200000) = true then off / 0x200000 else 0, 0x1D, 0x7F)

/-- The local physical address of a control-space offset. -/
def cspAddr (s : Mach) (off : Nat) : Nat := s.cfg.cspBase + off

/-- A refusal by the access tables. -/
def cspRefuse (s : Mach) (mid off : Nat) : Mach :=
  let t := cspTarget off
  refuseAccess s true mid (checkedAs s mid none) 0 (cspAddr s off) t.1 t.2.1 t.2.2

/-- The record of an access error. It names the partition of the master, or else the tenant of the bay, or the partition of
the cluster, that is addressed (R639). -/
def cspError (s : Mach) (mid off : Nat) : Mach :=
  let t := cspTarget off
  let r := mkRec s 1 0xF5 t.2.1 t.2.2 t.1 (cspAddr s off) (cspAddr s off / 2 ^ 16)
  let r := match (checkedAs s mid none).pid, blkAt off with
    | some p, _ => r.forPart (some p) 0
    | none, some (b, u, _) =>
      (match blkBay b u with
       | some k => (match (getSeq s k).tid with | some t => r.forPart (bayPid s k) t | none => r)
       | none => if b = Blk.cluster then r.forPart (clusterPid s u) 0 else r)
    | none, none => r
  raise s { r with mid := mid }

/-! ### Presence and the identity and status registers (R7, R579) -/

/-- Whether the unit of a block is present (R7). -/
def blkPresent (s : Mach) (b : Blk) (u : Nat) : Bool :=
  match b with
  | .shf => shfPresent s (u / 4) (u % 4)
  | .vk => portPresent s u
  | _ => match blkBay b u with | some k => bayPresent s k | none => true

/-- The identity and status registers of R579. -/
def isStatus : RegName → Bool
  | .HUB_CAP0 | .HUB_CAP1 | .HUB_CAP2 | .HUB_CAP3 | .HUB_DIE_IDENT | .DIE_IDENT | .DIE_BRIDGE | .DIE_BAYCAP => true
  | .BOOT_STATUS | .BOOT_ERR | .BOOT_TRAIN | .BOOT_BUILD | .BOOT_INFO | .BOOT_DIGEST | .BOOT_TIME => true
  | .ALM_COUNT | .ALM_STATUS | .FLT_STATUS | .FLT_LOGCTL | .FLT_LOG | .FLT_BELL | .CNT_AO => true
  | .PWR_STATUS | .PWR_TEMP | .PWR_STEMP | .GRN_STATUS | .VK_STATUS | .VK_LANES | .SEC_STATUS | .SEC_UID => true
  | _ => false

/-- The identity and status registers that take a write before bring-up completes: the log's tail and the W1C fields of
FLT_STATUS (R579). -/
def earlyWrite : RegName → Bool
  | .FLT_LOGCTL | .FLT_STATUS => true
  | _ => false

/-- The register at a control-space offset, with its block and unit. -/
def regAt (off : Nat) : Option (Blk × Nat × Option RegRef) :=
  (blkAt off).map (fun x => (x.1, x.2.1, regIn x.1 x.2.1 (x.2.2 / 8 * 8)))

/-! ### What live registers read as -/

/-- SEQ_STATUS.STATE. -/
def seqState (s : Mach) (b : Nat) : Nat :=
  let x := getSeq s b
  match x.st with
  | .idle => 0
  | .stopped => 5
  | .settle => 7
  | .run => if isHalted s b then 6 else if frameFallow s (frameNo s) then 2 else 1
  | .fallow => if isHalted s b then 6 else 2
  | .parked => if isHalted s b then 6 else 3
  | .clear => if isHalted s b then 6 else 4

def seqStatusView (s : Mach) (b : Nat) : Word :=
  let x := getSeq s b
  packFlds [(57, 48, x.tid.getD 0), (47, 44, (bayPid s b).getD 0), (43, 43, (isLead s b).toNat), (42, 42, (bayPid s b).isSome.toNat),
    (31, 26, ((List.range 6).map (fun k => if (getStream s b k).run then 2 ^ k else 0)).sum), (23, 16, x.entry.getD 0xFF),
    (3, 0, seqState s b)]

def seqPcView (s : Mach) (b k : Nat) : Word :=
  let x := getStream s b k
  packFlds [(63, 48, if x.run then min 65535 (x.last - edgeOf s b) else 0), (23, 0, x.idx)]

def rotaCurView (s : Mach) (b : Nat) : Word :=
  match bayPid s b with
  | some p =>
    let r := getRota s p
    packFlds [(63, 63, (rb s .SEQ_ROTA_CUR b 0 63).toNat), (55, 8, r.endFrame), (5, 0, r.cur)]
  | none => 0

def tokView (s : Mach) (b : Nat) : Word :=
  let c := getChan s b (rf s .SEQ_TOKSEL b 0 9 0)
  packFlds [(63, 32, (c.latch.map Prod.fst).getD 0), (31, 31, c.latch.isSome.toNat), (30, 30, ((c.latch.map Prod.snd).getD false).toNat),
    (29, 29, c.rel.isSome.toNat), (28, 28, c.poison.toNat), (27, 24, c.arr), (23, 16, c.debt), (7, 0, c.count)]

def mxaStatusView (s : Mach) (b : Nat) : Word :=
  let m := getMxa s b
  let e := edgeOf s b
  let drain (k : Nat) : Bool := m.drains.any (fun d => decide (d.bank = k) && decide (d.start ≤ e))
  packFlds [(23, 16, (m.profs.zipIdx.map (fun p => if p.1.isSome then 2 ^ p.2 else 0)).sum), (12, 10, m.flexq.length),
    (9, 9, (decide (e < m.flexEnd)).toNat), (8, 8, (decide (e < m.loadEnd)).toNat), (5, 5, (drain 1).toNat), (4, 4, (drain 0).toNat),
    (1, 1, m.active), (0, 0, (decide (e ≤ m.streamEnd) && decide (m.streamEnd ≠ 0)).toNat)]

/-- Issue interval of a vector word (R194). -/
def wordIi (w : Slot) : Nat :=
  match slotOp w with
  | 0x13 | 0x14 => iiDiv w
  | 0x2F => redIi w
  | 0x33 | 0x34 => 4
  | o => if 0x15 ≤ o ∧ o ≤ 0x1F ∧ wFmt w ≠ 0 then 2 else 1

/-- VXE_STATUS once the results due are written. -/
def vxeStatusView (s : Mach) (b : Nat) : Word :=
  let f := (getVxe s b).flight
  let words := (f.map VWrite.word).eraseDups.length
  let x := getStream s b 2
  let e := edgeOf s b
  let i := (e - x.issued) / wordIi x.word
  let issuing := x.run && decide (slotForm x.word = 1) && !x.fresh && decide (i ≤ wRep x.word)
  packFlds [(23, 14, if issuing then i else 0), (13, 8, words), (2, 2, rf s .VXE_STATUS b 0 2 2), (1, 1, (!f.isEmpty).toNat),
    (0, 0, issuing.toNat)]

def shfStatusView (s : Mach) (b e : Nat) : Word :=
  let g := getEng s b e
  let st := if g.active = false then 0 else if isHalted s b then 4 else if edgeOf s b < g.start ∨ g.next = 0 then 1
    else if g.live.isEmpty ∧ g.total ≤ g.next then 3 else 2
  packFlds [(48, 32, g.live.length), (24, 20, g.sheaves.length), (3, 0, st)]

def movStatusView (s : Mach) (b m : Nat) : Word :=
  let x := getMov s b
  let mine := x.moves.filter (fun v => decide (v.mover = m))
  let e := edgeOf s b
  let left := (mine.map (fun v => v.p + v.late + (dstBeats v.desc).length - e)).foldl max 0
  let stall := (getEtr s b).misses.any (fun q => q.fault.isSome && q.reqs.any (fun r => mine.any (fun v => decide (r.owner = .move v.id))))
  let st := if isHalted s b ∧ !mine.isEmpty then 4 else if stall then 3 else if left ≠ 0 then 1 else if mine.isEmpty then 0 else 2
  packFlds [(55, 48, if m = 0 then x.flexq.length else 0), (34, 32, mine.length), (31, 16, left), (3, 0, st)]

def movBstatView (s : Mach) (d : Nat) : Word :=
  let x := getBarnMov s d
  packFlds [(38, 32, x.queue.length), (7, 0, ((List.range 8).map (fun k => if x.moves.any (fun m => decide (m.mover = k)) then 2 ^ k else 0)).sum)]

def lftStatusView (s : Mach) (b : Nat) : Word :=
  let blocks := (getCReg s b).blocks.filter (fun p => decide (p.2 ≠ 0))
  let dirty := blocks.filter (fun p => (List.range 8).any (fun i => decide ((getHeld s (128 + b) ((p.2 - 1) * 8 + i)).st = 3)))
  packFlds [(44, 32, dirty.length), (28, 16, blocks.length), (4, 0, plannedSize s b / 2 ^ 20)]

def etrStatusView (s : Mach) (b : Nat) : Word :=
  let x := getEtr s b
  let occ := (List.range 8).map (fun q => (4 * q + 35, 4 * q + 32, (x.misses.filter (fun m => decide (m.queue = q))).length))
  packFlds (occ ++ [(22, 16, ((getEtrDie s (dieOf b)).faults.filter (fun f => decide (f.unit = b))).length), (2, 0, unitWalks s b)])

def hstatusView (s : Mach) (h : Nat) : Word :=
  let aged := s.dir.filter (fun p => decide (homeOf s (p.1 * 64) = h) && (match p.2.txn with | some t => t.req.aged | none => false))
  packFlds [(35, 32, aged.length), (9, 0, trackers s h)]

def caStatusView (s : Mach) (d : Nat) : Word :=
  let holds (b : Nat) : Bool := s.held.any (fun p => decide (p.1 / lineSpan = 128 + b) && decide (2 ≤ p.2.st))
  let mine (k : Nat) : Bool := decide (128 + 12 * d ≤ k) && decide (k < 128 + 12 * d + 12)
  let alloc (r : HomeReq) : Bool := (decide (r.kind = .readAlloc) || decide (r.kind = .readOwn)) && mine r.who
  let out := (s.dir.filter (fun p => match p.2.txn with | some t => alloc t.req | none => false)).length +
    (s.dir.map (fun p => (p.2.queue.filter alloc).length)).sum + (s.retries.filter (fun r => alloc r.req)).length
  packFlds [(27, 16, ((List.range 12).map (fun i => if holds (12 * d + i) then 2 ^ i else 0)).sum), (9, 0, out)]

/-- CMX_STATUS (R368). -/
def cmxStatusView (s : Mach) (cl : Nat) : Word :=
  let n (j : Nat) : Nat := (getCore s (8 * cl + j)).cmx.work.length
  packFlds [(15, 8, ((List.range 8).map (fun j => if n j = 0 then 0 else 2 ^ j)).sum), (5, 0, min 32 ((List.range 8).map n).sum)]

/-- PRT_MIDm (R460, R461, R480): the SYS attribute is that of the cores of a system partition. -/
def midView (s : Mach) (m : Nat) : Word :=
  match midInfo s m with
  | (.bound, some p) => packFlds [(63, 63, 1), (62, 62, (decide (m ≤ 0x60) && partSys s p).toNat), (51, 48, p)]
  | (.proxy, _) => packFlds [(63, 63, 1), (61, 60, 1)]
  | (.hub, _) => packFlds [(63, 63, 1), (61, 60, 2)]
  | (.repair, _) => packFlds [(63, 63, 1), (61, 60, 3)]
  | _ => 0

/-- An energy of an owner in nJ. -/
def energyView (s : Mach) (owner : Nat) : Word := BitVec.ofInt 64 ((smapGet 0 s.pwr.energy owner).tdiv 4096000000)

/-- The GRN repair requests of a stack that are not written back yet. -/
def repairsOf (s : Mach) (k : Nat) : Nat :=
  (s.flt.repairs.filter (fun r => !r.written && (match region s (r.line * 64) with | .granary o => decide ((pcOf o).stack = k) | _ => false))).length

/-- DBG_TREGr of the thread that DBG_TSEL selects (R559). -/
def tregView (s : Mach) (b r : Nat) : Word :=
  if threadOpen s b then
    let q := selThread s b
    let t := getThread s b q.1 q.2.1 q.2.2
    BitVec.ofNat 64 (if r < 32 then t.getX r else if r < 64 then t.getF (r - 32) else if r = 64 then t.pc else t.fcsr)
  else 0

/-- DBG_VWINw of a halted bay with no results in flight (R560). -/
def vwinView (s : Mach) (b w : Nat) : Word :=
  let x := getVxe s b
  if isHalted s b ∧ x.flight.isEmpty then
    let r := rf s .DBG_VSEL b 0 5 0
    BitVec.ofNat 64 ((vLane x r (2 * w)).toNat + (vLane x r (2 * w + 1)).toNat * 2 ^ 32)
  else 0

/-- What a register reads as, before the types of its fields (R11). Everything in flight that is due has landed. -/
def liveView (s : Mach) (r : RegRef) : Word :=
  let u := r.unit
  let i := r.idx
  match r.name with
  | .ALM_COUNT => BitVec.ofNat 64 (count s)
  | .ALM_STATUS => setBit (rg s .ALM_STATUS 0 0) 4 (rb s .ALM_CFG 0 0 0)
  | .ALM_LCOUNT => if (getClk s u).copyLost then 0 else BitVec.ofNat 64 (count s)
  | .ALM_FCOUNT => BitVec.ofNat 64 (edgeNo (getClk s u) s.now)
  | .SEQ_STATUS => seqStatusView s u
  | .PWR_LREQ => lreqView s u
  | .PWR_LDROOP => rg (countDropped s u false) .PWR_LDROOP u 0
  | .SEQ_PC => seqPcView s u i
  | .SEQ_ROTA_CTL | .SEQ_ROTA_START | .SEQ_ROTA_A | .SEQ_ROTA_B => if isLead s u then rg s r.name u i else 0
  | .SEQ_ROTA_CUR => if isLead s u then rotaCurView s u else 0
  | .SEQ_TOKVIEW => tokView s u
  | .SEQ_TB => BitVec.ofNat 64 (getStream s u i).tb
  | .MXA_STATUS => mxaStatusView s u
  | .VXE_STATUS => vxeStatusView s u
  | .VXE_TFCUR =>
    (match (getSeq s u).tid with
     | some t => packFlds [(63, 63, 1), (25, 16, t), (15, 0, smapGet 0 (getBay s u).tflags t)]
     | none => 0)
  | .VXE_TFVIEW => BitVec.ofNat 64 (smapGet 0 (getBay s u).tflags (rf s .VXE_TFSEL u 0 9 0))
  | .SHF_STATUS => shfStatusView s (u / 4) (u % 4)
  | .SEM_STATUS =>
    let x := getSem s u
    packFlds [(43, 32, x.waits.length), (1, 1, x.xfer.isSome.toNat), (0, 0, x.swait.isSome.toNat)]
  | .SEM_ARRAY => BitVec.ofNat 64 (semCount s u i)
  | .LFT_STATUS => lftStatusView s u
  | .GRN_STATUS => setFld (rg s .GRN_STATUS u 0) 31 16 (repairsOf s u)
  | .GRN_SHR_A | .GRN_SHR_B => rg s r.name 0 i
  | .MOV_STATUS => movStatusView s u i
  | .MOV_BSTAT => movBstatView s u
  | .ETR_STATUS => etrStatusView s u
  | .ETR_PFSTAT => setFld (rg s .ETR_PFSTAT 0 0) 6 0 (getEtrDie s u).faults.length
  | .ETR_PFRING => rg s .ETR_PFRING 0 i
  | .COH_HSTATUS => hstatusView s u
  | .COH_CA_STATUS => caStatusView s u
  | .CMX_STATUS => cmxStatusView s u
  | .PRT_MID => midView s i
  | .RNG_DB_STATE => rg s .RNG_STATE u 0
  | .RNG_DB_CIDX => rg s .RNG_CIDX u 0
  | .PWR_TEN => energyView s i
  | .PWR_POVH => energyView s (ownPart i)
  | .PWR_PKGOVH => energyView s ownPkg
  | .FLT_STATUS =>
    let full := decide ((rf s .FLT_LOGCTL 0 0 24 16 + 512 - rf s .FLT_LOGCTL 0 0 8 0) % 512 = 256)
    setFld (setBit (rg s .FLT_STATUS 0 0) 1 full) 40 32 s.flt.hubKeys.length
  | .FLT_DSTATUS => setFld (rg s .FLT_DSTATUS u 0) 38 32 (smapGet [] s.flt.dieKeys (compDieId u)).length
  | .DBG_BSTAT => setFld (rg s .DBG_BSTAT u 0) 31 16 (match (getBay s u).dbg.defer with | some e => e - edgeOf s u | none => 0)
  | .DBG_TREG => tregView s u i
  | .DBG_VWIN => vwinView s u i
  | .TRC_BSTAT => BitVec.ofNat 64 (getBay s u).trc.buf.length
  | .TRC_BASE => (getSink s (trcSel s)).base
  | .TRC_CFG => (getSink s (trcSel s)).cfg
  | .TRC_WPTR => BitVec.ofNat 64 (getSink s (trcSel s)).wptr
  | .TRC_STAT => (getSink s (trcSel s)).stat
  | .TRC_LOST => (getSink s (trcSel s)).lost
  | .TRC_TRIG => (getSink s (trcSel s)).trig
  | .TRC_TRIGMARK => (getSink s (trcSel s)).trigMark
  | .TRC_TRIGAT => (getSink s (trcSel s)).trigAt
  | .CNT_AO => aoView s (i / 8) (i % 8)
  | n => rg s n u i

/-- What is due at a bay has landed: vector results, drains, loft accesses, semaphore operations, counted edges. -/
def settleBay (s : Mach) (b : Nat) : Mach :=
  let e := edgeOf s b
  syncCnt (catchUp (flushDrains (vFlush s b e) b e) b) b

/-- The state as seen from a block. -/
def settleBlk (s : Mach) (b : Blk) (u : Nat) : Mach := match blkBay b u with | some k => settleBay s k | none => s

/-- The bits of a register that some field covers: the rest is RSV. -/
def RegInfo.defined (r : RegInfo) : Word := r.fields.foldl (fun m f => m ||| maskOf 64 f.hi f.lo) 0

/-- What a register reads as (R11): RSV bits and WO fields read 0. -/
def regView (s : Mach) (r : RegRef) : Word :=
  let t := settleBlk s r.name.info.blk r.unit
  liveView t r &&& r.name.info.defined &&& ~~~ (r.name.info.mask .wo)

/-! ### Reading (R11, R13, R16) -/

/-- The bits that an access of `size` bytes at an offset covers. -/
def halfMask (off size : Nat) : Word := if size = 8 then BitVec.allOnes 64 else if off % 8 = 0 then 0xFFFFFFFF else 0xFFFFFFFF00000000

/-- Whether size and alignment are those of R13. -/
def sizeOk (off size : Nat) : Bool := (decide (size = 4) || decide (size = 8)) && decide (off % size = 0)

/-- The checks made on an access before it acts, in their order: the access tables, busy (R16), R32 and R13. Answers the
block and the register, or how the access ends. -/
def cspEnter (s : Mach) (mid off size : Nat) (v : Option Word) : Except CspRes (Blk × Nat × Option RegRef) :=
  if s.pins.thermtripN = false then .error .busy
  else if isDone s = false then
    match regAt off with
    | some (b, u, some r) =>
      if isStatus r.name = false ∨ (v.isSome ∧ earlyWrite r.name = false) then .error .busy
      else if sizeOk off size then .ok (b, u, some r) else .error .error
    | _ => .error .busy
  else if cspAllowed s mid off v = false then .error .refused
  else
    match regAt off with
    | none => .error .error
    | some x => if sizeOk off size then .ok x else .error .error

/-- What the end of an access leaves: a refusal and an access error each raise a record. -/
def cspEnd (s : Mach) (mid off : Nat) : CspRes → Mach
  | .refused => cspRefuse s mid off
  | .error => cspError s mid off
  | _ => s

/-- The value of an access of `size` bytes, from the 8 bytes of its register. -/
def cutValue (off size : Nat) (v : Word) : Word := if size = 8 then v else (v >>> (8 * (off % 8))) &&& 0xFFFFFFFF

/-- A read by a master. RC fields covered by it are cleared; a peek (`peek`) clears none (R15, R552). -/
def cspRead (s : Mach) (mid off size : Nat) (peek : Bool) : CspRes × Word × Mach :=
  match cspEnter s mid off size none with
  | .error e => (e, 0, cspEnd s mid off e)
  | .ok (b, u, r) =>
    if blkPresent s b u = false then (.ok, 0, s)
    else
      match r with
      | none => (.ok, 0, s)
      | some r =>
        let s := settleBlk s b u
        let v := regView s r
        let rc := r.name.info.mask .rc &&& halfMask off size
        let s := if peek || decide (rc = 0) then s else wr s r.name r.unit r.idx (rg s r.name r.unit r.idx &&& ~~~ rc)
        (.ok, cutValue off size v, s)

/-- The model's code of how an access ended. -/
def CspRes.code : CspRes → Nat
  | .ok => 0 | .refused => 1 | .error => 2 | .busy => 3

/-- RC_READ: a control-space read. -/
def execRcRead (mid : Mid) (addr size : Nat) (s : State) : Host.Outcome State Fault Refusal :=
  onMach s (fun s =>
    let (e, v, s) := cspRead s mid addr size false
    { s with cspOut := (e.code, v) })

end Sys2Proof.Machine
end

