-- ==== Sys2Proof/Machine/HartCsr.lean ====
section
/-! DEFINITION. The host cores as RISC-V harts: privilege, control and status registers, interrupts, traps and the returns from
them (R339, R340, R347, R348, R359, R367, and the RISC-V specifications that R339 names). -/

namespace Sys2Proof.Machine

open Sys2Proof.Config (acyc)

/-! ### Exceptions -/

/-- An exception: its cause, the value for xtval, the guest physical address for xtval2 and whether xtval is a guest virtual
address. -/
structure HartExc where
  cause : Nat
  tval : Nat
  gpa : Nat
  gva : Bool
  deriving DecidableEq, Repr

def exc (cause tval : Nat) : HartExc := { cause := cause, tval := tval, gpa := 0, gva := false }

/-- Illegal instruction and virtual instruction, with the instruction in xtval. -/
def excIllegal (w : Nat) : HartExc := exc 2 w
def excVirtual (w : Nat) : HartExc := exc 22 w

/-! ### mstatus -/

def mstatus (s : Mach) (c : Nat) : Word := csrOf s c 0x300

/-- Bits of mstatus that sstatus shows and that vsstatus holds: SIE, SPIE, SPP, VS, FS, XS, SUM, MXR. -/
def sstatusMask : Word := packFlds [(1, 1, 1), (5, 5, 1), (8, 8, 1), (10, 9, 3), (14, 13, 3), (16, 15, 3), (18, 18, 1), (19, 19, 1)]

/-- And those of mstatus beside them: MIE, MPIE, MPP, MPRV, TVM, TW, TSR, GVA, MPV. -/
def mstatusMask : Word :=
  sstatusMask ||| packFlds [(3, 3, 1), (7, 7, 1), (12, 11, 3), (17, 17, 1), (20, 20, 1), (21, 21, 1), (22, 22, 1), (38, 38, 1), (39, 39, 1)]

/-- A status register as it reads: UXL (and SXL) are 2, SD says that a context is dirty. -/
def statusView (v : Word) (m : Bool) : Word :=
  let d := decide (fld v 10 9 = 3) || decide (fld v 14 13 = 3) || decide (fld v 16 15 = 3)
  setBit (setFld (if m then setFld v 35 34 2 else v) 33 32 2) 63 d

/-- A value written to mstatus: MPP 2 is no mode and leaves MPP. -/
def legalMstatus (old v : Word) : Word :=
  let n := (old &&& ~~~ mstatusMask) ||| (v &&& mstatusMask)
  if fld v 12 11 = 2 then setFld n 12 11 (fld old 12 11) else n

/-- Whether a context of mstatus is off where the hart runs, by its lowest bit: VS 9, FS 13, XS 15. -/
def ctxOff (s : Mach) (c lo : Nat) : Bool :=
  decide (fld (mstatus s c) (lo + 1) lo = 0) || ((getCore s c).virt && decide (fld (csrOf s c 0x200) (lo + 1) lo = 0))

/-- A context becomes Dirty. -/
def ctxDirty (s : Mach) (c lo : Nat) : Mach :=
  let s := setCsr s c 0x300 (setFld (mstatus s c) (lo + 1) lo 3)
  if (getCore s c).virt then setCsr s c 0x200 (setFld (csrOf s c 0x200) (lo + 1) lo 3) else s

/-! ### Time and the interrupt files (R39, R340) -/

/-- `time` and `cycle`. -/
def timeOf (s : Mach) : Nat := count s / 16

def cycleOf (s : Mach) (c : Nat) : Word := BitVec.ofNat 64 (clusterCycles s (c / 8)) + (getCore s c).cycOff

/-- Registers of an interrupt file beside its bits: 0x70 delivery, 0x72 threshold. -/
def fileKey (f r : Nat) : Nat := 0x10000 + 256 * f + r

/-- The identity that a file offers: the lowest that is pending, enabled and below the threshold; 0 none. -/
def topIdent (s : Mach) (c f : Nat) : Nat :=
  let x := getCore s c
  let thr := (csrOf s c (fileKey f 0x72)).toNat
  ((List.range 256).find? (fun i =>
    decide (1 ≤ i) && smapGet false x.eip (256 * f + i) && smapGet false x.eie (256 * f + i) && (decide (thr = 0) || decide (i < thr)))).getD 0

/-- Whether a file signals its interrupt. -/
def fileSignals (s : Mach) (c f : Nat) : Bool := decide (csrOf s c (fileKey f 0x70) = 1) && decide (topIdent s c f ≠ 0)

/-- hgeip: the guest files that signal. -/
def hgeip (s : Mach) (c : Nat) : Nat := ((List.range 8).map (fun g => if 1 ≤ g ∧ fileSignals s c (1 + g) then 2 ^ g else 0)).sum

/-- mip: software bits as written, external interrupts from the interrupt files, timers from stimecmp and vstimecmp. -/
def mipView (s : Mach) (c : Nat) : Nat :=
  let sw := csrOf s c 0x344
  let hv := csrOf s c 0x645
  let menv := csrOf s c 0x30A
  let henv := csrOf s c 0x60A
  let t := timeOf s
  let gein := fld (csrOf s c 0x600) 17 12
  let b (i : Nat) (v : Bool) : Nat := if v then 2 ^ i else 0
  let vst := bit menv 63 && bit henv 63 && decide ((csrOf s c 0x24D).toNat ≤ (t + (csrOf s c 0x605).toNat) % 2 ^ 64)
  b 1 (bit sw 1) + b 2 (bit hv 2) + b 5 (if bit menv 63 then decide ((csrOf s c 0x14D).toNat ≤ t) else bit sw 5) +
    b 6 (bit hv 6 || vst) + b 9 (bit sw 9 || fileSignals s c 1) +
    b 10 (bit hv 10 || (decide (gein ≠ 0) && (hgeip s c).testBit gein)) + b 11 (fileSignals s c 0) +
    b 12 (decide (hgeip s c &&& (csrOf s c 0x607).toNat ≠ 0)) + b 13 (bit sw 13)

/-- mideleg: the interrupts of VS and the guest interrupt are always delegated. -/
def midelegView (s : Mach) (c : Nat) : Nat := (csrOf s c 0x303).toNat ||| 0x1444

/-- Interrupts that are pending, enabled and delegated to a level: 3 M, 1 HS, 0 VS. -/
def readyInts (s : Mach) (c lvl : Nat) : Nat :=
  let on := mipView s c &&& (csrOf s c 0x304).toNat
  let d := midelegView s c
  let h := (csrOf s c 0x603).toNat
  if lvl = 3 then on &&& (0xFFFF ^^^ d % 65536) else if lvl = 1 then on &&& d &&& (0xFFFF ^^^ (h &&& 0x444)) else on &&& d &&& h &&& 0x444

/-- The interrupt of a set that is taken first, in the default order of the RISC-V specification. -/
def firstInt (m : Nat) : Option Nat := [11, 3, 7, 9, 1, 5, 12, 10, 2, 6, 13].find? (fun i => m.testBit i)

/-- mtopi, stopi and vstopi. -/
def topiOf (m : Nat) (shift : Nat) : Word := match firstInt m with | some i => BitVec.ofNat 64 ((i - shift) * 65536 + 1) | none => 0

/-! ### Traps -/

/-- Entry of the M-mode handler. -/
def trapM (s : Mach) (c : Nat) (intr : Bool) (e : HartExc) : Mach :=
  let x := getCore s c
  let st := mstatus s c
  let st := setFld (setBit (setBit (setBit (setFld st 12 11 x.priv) 7 (bit st 3)) 3 false) 38 e.gva) 39 39 x.virt.toNat
  let tv := csrOf s c 0x305
  let pc := (tv &&& ~~~ 3) + (if intr ∧ bit tv 0 then BitVec.ofNat 64 (4 * e.cause) else 0)
  modCore s c (fun x =>
    let m := smapPut 0 (smapPut 0 (smapPut 0 x.csr 0x300 st) 0x341 x.pc) 0x342 (BitVec.ofNat 64 (e.cause + (if intr then 2 ^ 63 else 0)))
    { x with csr := smapPut 0 (smapPut 0 (smapPut 0 m 0x343 (BitVec.ofNat 64 e.tval)) 0x34B (BitVec.ofNat 64 (e.gpa / 4))) 0x34A 0,
             priv := 3, virt := false, resv := none, pc := pc })

/-- Entry of the HS-mode handler. -/
def trapHS (s : Mach) (c : Nat) (intr : Bool) (e : HartExc) : Mach :=
  let x := getCore s c
  let st := mstatus s c
  let st := setFld (setBit (setBit st 5 (bit st 1)) 1 false) 8 8 (x.priv % 2)
  let hs := setBit (setBit (csrOf s c 0x600) 6 e.gva) 7 x.virt
  let hs := if x.virt then setFld hs 8 8 (x.priv % 2) else hs
  let tv := csrOf s c 0x105
  let pc := (tv &&& ~~~ 3) + (if intr ∧ bit tv 0 then BitVec.ofNat 64 (4 * e.cause) else 0)
  modCore s c (fun x =>
    let m := smapPut 0 (smapPut 0 (smapPut 0 x.csr 0x300 st) 0x141 x.pc) 0x142 (BitVec.ofNat 64 (e.cause + (if intr then 2 ^ 63 else 0)))
    let m := smapPut 0 (smapPut 0 (smapPut 0 (smapPut 0 m 0x143 (BitVec.ofNat 64 e.tval)) 0x643 (BitVec.ofNat 64 (e.gpa / 4))) 0x64A 0) 0x600 hs
    { x with csr := m, priv := 1, virt := false, resv := none, pc := pc })

/-- Entry of the VS-mode handler; its interrupts are numbered as those of S-mode. -/
def trapVS (s : Mach) (c : Nat) (intr : Bool) (e : HartExc) : Mach :=
  let x := getCore s c
  let st := csrOf s c 0x200
  let st := setFld (setBit (setBit st 5 (bit st 1)) 1 false) 8 8 (x.priv % 2)
  let tv := csrOf s c 0x205
  let cause := if intr then e.cause - 1 else e.cause
  let pc := (tv &&& ~~~ 3) + (if intr ∧ bit tv 0 then BitVec.ofNat 64 (4 * cause) else 0)
  modCore s c (fun x =>
    let m := smapPut 0 (smapPut 0 (smapPut 0 x.csr 0x200 st) 0x241 x.pc) 0x242 (BitVec.ofNat 64 (cause + (if intr then 2 ^ 63 else 0)))
    { x with csr := smapPut 0 m 0x243 (BitVec.ofNat 64 e.tval), priv := 1, virt := true, resv := none, pc := pc })

/-- An exception of the instruction at the pc goes to the handler that it is delegated to. -/
def trap (s : Mach) (c : Nat) (e : HartExc) : Mach :=
  let x := getCore s c
  if x.priv = 3 ∨ bit (csrOf s c 0x302) e.cause = false then trapM s c false e
  else if x.virt ∧ bit (csrOf s c 0x602) e.cause then trapVS s c false e
  else trapHS s c false e

/-- The interrupt that the hart takes before its next instruction, with the level that handles it. -/
def dueInt (s : Mach) (c : Nat) : Option (Nat × Nat) :=
  let x := getCore s c
  let m := if x.priv < 3 ∨ bit (mstatus s c) 3 then firstInt (readyInts s c 3) else none
  let h := if x.priv = 3 then none else if x.virt ∨ x.priv = 0 ∨ bit (mstatus s c) 1 then firstInt (readyInts s c 1) else none
  let v := if x.virt = false then none else if x.priv = 0 ∨ bit (csrOf s c 0x200) 1 then firstInt (readyInts s c 0) else none
  match m, h, v with
  | some i, _, _ => some (3, i)
  | none, some i, _ => some (1, i)
  | none, none, some i => some (0, i)
  | none, none, none => none

def takeInt (s : Mach) (c : Nat) (lvl i : Nat) : Mach :=
  if lvl = 3 then trapM s c true (exc i 0) else if lvl = 1 then trapHS s c true (exc i 0) else trapVS s c true (exc i 0)

/-- MRET. -/
def mret (s : Mach) (c w : Nat) : Except HartExc Mach :=
  let x := getCore s c
  if x.priv ≠ 3 then .error (if x.virt then excVirtual w else excIllegal w)
  else
    let st := mstatus s c
    let p := fld st 12 11
    let v := bit st 39 && decide (p ≠ 3)
    let n := setFld (setBit (setBit (setBit st 3 (bit st 7)) 7 true) 39 false) 12 11 0
    let n := if p = 3 then n else setBit n 17 false
    .ok (modCore s c (fun x => { x with csr := smapPut 0 x.csr 0x300 n, priv := p, virt := v, resv := none, pc := smapGet 0 x.csr 0x341 }))

/-- SRET, in M, HS and VS. -/
def sret (s : Mach) (c w : Nat) : Except HartExc Mach :=
  let x := getCore s c
  if x.virt then
    if x.priv = 0 ∨ bit (csrOf s c 0x600) 22 then .error (excVirtual w)
    else
      let st := csrOf s c 0x200
      let n := setBit (setBit (setBit st 1 (bit st 5)) 5 true) 8 false
      .ok (modCore s c (fun x => { x with csr := smapPut 0 x.csr 0x200 n, priv := fld st 8 8, resv := none, pc := smapGet 0 x.csr 0x241 }))
  else if x.priv = 0 ∨ (x.priv = 1 ∧ bit (mstatus s c) 22) then .error (excIllegal w)
  else
    let st := mstatus s c
    let hs := csrOf s c 0x600
    let n := setBit (setBit (setBit (setBit st 1 (bit st 5)) 5 true) 8 false) 17 false
    .ok (modCore s c (fun x =>
      { x with csr := smapPut 0 (smapPut 0 x.csr 0x300 n) 0x600 (setBit hs 7 false), priv := fld st 8 8, virt := bit hs 7,
               resv := none, pc := smapGet 0 x.csr 0x141 }))

/-! ### Control and status registers -/

/-- CSRs that hold what is written to them, within a mask. -/
def csrPlain (n : Nat) : Option Word :=
  match n with
  | 0x001 => some 0x1F | 0x002 => some 7 | 0x003 => some 0xFF
  | 0x008 => some 0xFF | 0x009 => some 1 | 0x00A => some 3
  | 0x105 => some 0xFFFFFFFFFFFFFFFD | 0x106 => some 7 | 0x10A => some (packFlds [(0, 0, 1), (7, 4, 15), (33, 32, 3)])
  | 0x10C => some 0 | 0x10D => some 0 | 0x10E => some 0 | 0x10F => some 0
  | 0x140 => some (BitVec.allOnes 64) | 0x141 => some 0xFFFFFFFFFFFFFFFE | 0x142 => some 0x80000000000000FF | 0x143 => some (BitVec.allOnes 64)
  | 0x14D => some (BitVec.allOnes 64) | 0x150 => some 0xFFF
  | 0x205 => some 0xFFFFFFFFFFFFFFFD | 0x240 => some (BitVec.allOnes 64) | 0x241 => some 0xFFFFFFFFFFFFFFFE
  | 0x242 => some 0x80000000000000FF | 0x243 => some (BitVec.allOnes 64) | 0x24D => some (BitVec.allOnes 64) | 0x250 => some 0xFFF
  | 0x302 => some 0xF8B7FF | 0x303 => some 0x2222 | 0x305 => some 0xFFFFFFFFFFFFFFFD | 0x306 => some 7
  | 0x308 => some 0 | 0x309 => some 0
  | 0x30A => some (packFlds [(0, 0, 1), (7, 4, 15), (63, 61, 7)])
  | 0x30C => some (packFlds [(63, 62, 3), (60, 58, 7)]) | 0x30D => some 0 | 0x30E => some 0 | 0x30F => some 0
  | 0x320 => some 0 | 0x340 => some (BitVec.allOnes 64) | 0x341 => some 0xFFFFFFFFFFFFFFFE | 0x342 => some 0x80000000000000FF
  | 0x343 => some (BitVec.allOnes 64) | 0x34A => some (BitVec.allOnes 64) | 0x34B => some (BitVec.allOnes 64) | 0x350 => some 0xFFF
  | 0x602 => some 0x08B1FF | 0x603 => some 0x444 | 0x605 => some (BitVec.allOnes 64) | 0x606 => some 7 | 0x607 => some 0xFE
  | 0x608 => some 0 | 0x609 => some 0 | 0x646 => some 0 | 0x647 => some 0
  | 0x60A => some (packFlds [(0, 0, 1), (7, 4, 15), (33, 32, 3), (63, 61, 7)])
  | 0x60C => some (packFlds [(63, 62, 3), (60, 58, 7)]) | 0x60D => some 0 | 0x60E => some 0 | 0x60F => some 0
  | 0x643 => some (BitVec.allOnes 64) | 0x645 => some 0x444 | 0x64A => some (BitVec.allOnes 64)
  | 0x747 => some 0 | 0x7A0 => some 3
  | n => if 0x3B0 ≤ n ∧ n ≤ 0x3BF then some 0x3FFFFFFFFFFFFF else none

/-- The PMP configuration byte of an entry. -/
def pmpCfg (s : Mach) (c i : Nat) : Nat := fld (csrOf s c (0x3A0 + i / 8 * 2)) (8 * (i % 8) + 7) (8 * (i % 8))

/-- A byte of pmpcfg written: a locked entry keeps its byte, W without R is reserved, and NA4 does not exist at a granularity
of 4 KiB. -/
def pmpByte (old v : Nat) : Nat :=
  let v := v % 256 &&& 0x9F
  if old.testBit 7 ∨ v % 4 = 2 then old else if v / 8 % 4 = 2 then (v &&& 0xE7) + (old &&& 0x18) else v

/-- Whether the address register of an entry is locked. -/
def pmpAddrLocked (s : Mach) (c i : Nat) : Bool :=
  (pmpCfg s c i).testBit 7 || (decide (i < 15) && (pmpCfg s c (i + 1)).testBit 7 && decide (pmpCfg s c (i + 1) / 8 % 4 = 1))

/-- A register of an interrupt file through its indirect window; the odd registers do not exist. -/
def fileRead (s : Mach) (c f sel : Nat) : Option Word :=
  let x := getCore s c
  let bits (m : SMap Bool) (k : Nat) : Word :=
    BitVec.ofNat 64 ((List.range 64).map (fun i => if 1 ≤ 64 * k + i ∧ smapGet false m (256 * f + 64 * k + i) then 2 ^ i else 0)).sum
  if sel = 0x70 ∨ sel = 0x72 then some (csrOf s c (fileKey f sel))
  else if 0x80 ≤ sel ∧ sel ≤ 0xBF then (if sel % 2 = 1 then none else some (if sel < 0x88 then bits x.eip ((sel - 0x80) / 2) else 0))
  else if 0xC0 ≤ sel ∧ sel ≤ 0xFF then (if sel % 2 = 1 then none else some (if sel < 0xC8 then bits x.eie ((sel - 0xC0) / 2) else 0))
  else none

def fileWrite (s : Mach) (c f sel : Nat) (v : Word) : Mach :=
  let put (m : SMap Bool) (k : Nat) : SMap Bool :=
    (List.range 64).foldl (fun m i => if 1 ≤ 64 * k + i then smapPut false m (256 * f + 64 * k + i) (bit v i) else m) m
  if sel = 0x70 then setCsr s c (fileKey f sel) (v &&& 1)
  else if sel = 0x72 then setCsr s c (fileKey f sel) (v &&& 0xFF)
  else if 0x80 ≤ sel ∧ sel < 0x88 then modCore s c (fun x => { x with eip := put x.eip ((sel - 0x80) / 2) })
  else if 0xC0 ≤ sel ∧ sel < 0xC8 then modCore s c (fun x => { x with eie := put x.eie ((sel - 0xC0) / 2) })
  else s

/-- The guest file that VGEIN selects, as a file number; none where VGEIN names none. -/
def guestFile (s : Mach) (c : Nat) : Option Nat :=
  let g := fld (csrOf s c 0x600) 17 12
  if 1 ≤ g ∧ g ≤ 7 then some (1 + g) else none

/-- An indirect register: interrupt priorities of the major interrupts are read-only zero; the rest is the interrupt file. -/
def indirect (s : Mach) (c sel : Nat) (f : Option Nat) : Option Word :=
  if 0x30 ≤ sel ∧ sel ≤ 0x3F then (if sel % 2 = 0 then some 0 else none) else f.bind (fun k => fileRead s c k sel)

/-- mtopei, stopei, vstopei. -/
def topei (s : Mach) (c f : Nat) : Word := BitVec.ofNat 64 (topIdent s c f * 65537)

/-- The interrupt bits of VS as S-mode numbers them. -/
def vsShift (m : Nat) : Nat := (m &&& 0x444) / 2

/-- What a CSR reads as; none where it does not exist. Counters beyond cycle, time and instret, and the identity of the
implementation, read 0. -/
def csrView (s : Mach) (c n : Nat) : Option Word :=
  let x := getCore s c
  let w (v : Nat) : Option Word := some (BitVec.ofNat 64 v)
  match n with
  | 0x001 => some (csrOf s c 0x003 &&& 0x1F)
  | 0x002 => w (fld (csrOf s c 0x003) 7 5)
  | 0x003 => some (csrOf s c 0x003)
  | 0x00F => w (fld (csrOf s c 0x00A) 1 0 * 2 + fld (csrOf s c 0x009) 0 0)
  | 0x100 => some (statusView (mstatus s c &&& sstatusMask) false)
  | 0x104 => w ((csrOf s c 0x304).toNat &&& midelegView s c &&& 0xBBBB)
  | 0x144 => w (mipView s c &&& midelegView s c &&& 0xBBBB)
  | 0x151 => indirect s c (csrOf s c 0x150).toNat (some 1)
  | 0x15C => some (topei s c 1)
  | 0x180 => some (csrOf s c 0x180)
  | 0x200 => some (statusView (csrOf s c 0x200) false)
  | 0x204 => w (vsShift ((csrOf s c 0x304).toNat &&& (csrOf s c 0x603).toNat))
  | 0x244 => w (vsShift (mipView s c &&& (csrOf s c 0x603).toNat))
  | 0x251 => indirect s c (csrOf s c 0x250).toNat (guestFile s c)
  | 0x25C => (guestFile s c).map (topei s c)
  | 0x280 => some (csrOf s c 0x280)
  | 0x300 => some (statusView (mstatus s c) true)
  | 0x301 => w (2 ^ 63 + 0x3411AF)
  | 0x303 => w (midelegView s c)
  | 0x304 => some (csrOf s c 0x304)
  | 0x344 => w (mipView s c)
  | 0x351 => indirect s c (csrOf s c 0x350).toNat (some 0)
  | 0x35C => some (topei s c 0)
  | 0x3A0 => some (csrOf s c 0x3A0) | 0x3A2 => some (csrOf s c 0x3A2)
  | 0x600 => some (setFld (csrOf s c 0x600) 33 32 2)
  | 0x604 => w ((csrOf s c 0x304).toNat &&& 0x1444)
  | 0x644 => w (mipView s c &&& 0x1444)
  | 0x680 => some (csrOf s c 0x680)
  | 0x7A1 => some (csrOf s c (0x20000 + 4 * (csrOf s c 0x7A0).toNat + 1))
  | 0x7A2 => some (csrOf s c (0x20000 + 4 * (csrOf s c 0x7A0).toNat + 2))
  | 0x7A3 => some (csrOf s c (0x20000 + 4 * (csrOf s c 0x7A0).toNat + 3))
  | 0x7A4 => w 0x1000048
  | 0x7B0 => some (setFld (csrOf s c 0x7B0) 31 28 4) | 0x7B1 => some (csrOf s c 0x7B1)
  | 0x7B2 => some (csrOf s c 0x7B2) | 0x7B3 => some (csrOf s c 0x7B3)
  | 0x7C0 => some (cachectlView s c) | 0x7C1 => some (resvView s c) | 0x7C2 => some (pstateView s c) | 0xFC0 => some (csrOf s c 0xFC0)
  | 0xB00 => some (cycleOf s c) | 0xB02 => some x.instret
  | 0xC00 => some (cycleOf s c)
  | 0xC01 => w (timeOf s + (if x.virt then (csrOf s c 0x605).toNat else 0))
  | 0xC02 => some x.instret
  | 0xC20 => some (csrOf s c 0xC20) | 0xC21 => some (csrOf s c 0xC21) | 0xC22 => w 32
  | 0xDA0 => w 0
  | 0xDB0 => some (topiOf (readyInts s c 1) 0)
  | 0xE12 => w (hgeip s c)
  | 0xEB0 => some (topiOf (readyInts s c 0) 1)
  | 0xF11 => w 0 | 0xF12 => w 0 | 0xF13 => w 0 | 0xF14 => w c | 0xF15 => w 0
  | 0xFB0 => some (topiOf (readyInts s c 3) 0)
  | n =>
    if (0xB03 ≤ n ∧ n ≤ 0xB1F) ∨ (0xC03 ≤ n ∧ n ≤ 0xC1F) ∨ (0x323 ≤ n ∧ n ≤ 0x33F) then w 0
    else if 0x3B0 ≤ n ∧ n ≤ 0x3BF then
      let a := pmpCfg s c (n - 0x3B0) / 8 % 4
      let v := csrOf s c n
      some (if a = 3 then v ||| 0x1FF else v &&& ~~~ 0x3FF)
    else (csrPlain n).map (fun _ => csrOf s c n)

/-- The modes of satp, vsatp and hgatp: 0 bare, 8 Sv39, 9 Sv48; any other value leaves the register. -/
def atpWrite (s : Mach) (c n : Nat) (v keep : Word) : Mach :=
  if fld v 63 60 = 0 ∨ fld v 63 60 = 8 ∨ fld v 63 60 = 9 then setCsr s c n (v &&& keep) else s

/-- Key of register `r` (1 to 3) of the selected trigger. -/
def trigKey (i r : Nat) : Nat := 0x20000 + 4 * i + r

/-- A write of tdata1 to tdata3 of the selected trigger: types mcontrol6 (6), icount (3) and disabled (15); one that belongs to
debug mode is written from debug mode only. -/
def trigPut (s : Mach) (c r : Nat) (v : Word) : Mach :=
  let i := (csrOf s c 0x7A0).toNat
  let halted := (getCore s c).halted
  if bit (csrOf s c (trigKey i 1)) 59 ∧ halted = false then s
  else if r = 1 then
    let v := setBit v 59 (bit v 59 && halted)
    let keep : Word := if fld v 63 60 = 6 then packFlds [(63, 59, 31), (24, 23, 3), (18, 16, 7), (15, 12, 15), (6, 6, 1), (4, 0, 31)]
      else packFlds [(63, 59, 31), (26, 25, 3), (23, 8, 0xFFFF), (7, 0, 0xFF)]
    setCsr s c (trigKey i 1) (if fld v 63 60 = 6 ∨ fld v 63 60 = 3 then v &&& keep else 0xF000000000000000)
  else setCsr s c (trigKey i r) v

/-- A write of a CSR that exists and may be written. -/
def hartCsrPut (s : Mach) (c n : Nat) (v : Word) : Mach :=
  let mix (k : Nat) (m : Word) : Mach := setCsr s c k ((csrOf s c k &&& ~~~ m) ||| (v &&& m))
  match n with
  | 0x001 => ctxDirty (setCsr s c 0x003 (setFld (csrOf s c 0x003) 4 0 (fld v 4 0))) c 13
  | 0x002 => ctxDirty (setCsr s c 0x003 (setFld (csrOf s c 0x003) 7 5 (fld v 2 0))) c 13
  | 0x003 => ctxDirty (setCsr s c 0x003 (v &&& 0xFF)) c 13
  | 0x008 => ctxDirty (setCsr s c 0x008 (v &&& 0xFF)) c 9
  | 0x009 => ctxDirty (setCsr s c 0x009 (v &&& 1)) c 9
  | 0x00A => ctxDirty (setCsr s c 0x00A (v &&& 3)) c 9
  | 0x00F => ctxDirty (setCsr (setCsr s c 0x009 (v &&& 1)) c 0x00A (BitVec.ofNat 64 (fld v 2 1))) c 9
  | 0x100 => mix 0x300 sstatusMask
  | 0x104 => mix 0x304 (BitVec.ofNat 64 (midelegView s c &&& 0x2222))
  | 0x144 => mix 0x344 (BitVec.ofNat 64 (midelegView s c &&& 0x2002))
  | 0x151 => let k := (csrOf s c 0x150).toNat; fileWrite s c 1 k v
  | 0x15C => modCore s c (fun x => { x with eip := smapPut false x.eip (256 + topIdent s c 1) false })
  | 0x180 => atpWrite s c 0x180 v (BitVec.allOnes 64)
  | 0x200 => mix 0x200 sstatusMask
  | 0x204 => setCsr s c 0x304
      (let m : Word := csrOf s c 0x603 &&& 0x444; (csrOf s c 0x304 &&& ~~~ m) ||| ((v <<< 1) &&& m))
  | 0x244 => setCsr s c 0x645 (let m : Word := csrOf s c 0x603 &&& 4; (csrOf s c 0x645 &&& ~~~ m) ||| ((v <<< 1) &&& m))
  | 0x251 => (match guestFile s c with | some f => fileWrite s c f (csrOf s c 0x250).toNat v | none => s)
  | 0x25C => (match guestFile s c with
      | some f => modCore s c (fun x => { x with eip := smapPut false x.eip (256 * f + topIdent s c f) false })
      | none => s)
  | 0x280 => atpWrite s c 0x280 v (BitVec.allOnes 64)
  | 0x300 => setCsr s c 0x300 (legalMstatus (mstatus s c) v)
  | 0x304 => setCsr s c 0x304 (v &&& 0x3EEE &&& ~~~ 0x88)
  | 0x344 => mix 0x344 0x2222
  | 0x351 => fileWrite s c 0 (csrOf s c 0x350).toNat v
  | 0x35C => modCore s c (fun x => { x with eip := smapPut false x.eip (topIdent s c 0) false })
  | 0x600 => mix 0x600 (packFlds [(6, 6, 1), (7, 7, 1), (8, 8, 1), (9, 9, 1), (17, 12, 7), (22, 20, 7), (49, 48, 3)])
  | 0x604 => mix 0x304 0x1444
  | 0x644 => mix 0x645 4
  | 0x680 => atpWrite s c 0x680 v 0xF3FFFFFFFFFFFFFC
  | 0x7B0 => mix 0x7B0 (packFlds [(17, 15, 7), (13, 11, 7), (5, 5, 1), (2, 0, 7)])
  | 0x7B1 => setCsr s c 0x7B1 (v &&& ~~~ 1)
  | 0x7B2 => setCsr s c 0x7B2 v | 0x7B3 => setCsr s c 0x7B3 v
  | 0x7C0 => onCachectl s c v | 0x7C1 => onResv s c v | 0x7C2 => onPstate s c v
  | 0xB00 => modCore s c (fun x => { x with cycOff := v - BitVec.ofNat 64 (clusterCycles s (c / 8)) })
  | 0xB02 => modCore s c (fun x => { x with instret := v })
  | n =>
    if n = 0x3A0 ∨ n = 0x3A2 then
      let old := csrOf s c n
      setCsr s c n (BitVec.ofNat 64 (ofBytes ((List.range 8).map (fun i =>
        BitVec.ofNat 8 (pmpByte (fld old (8 * i + 7) (8 * i)) (fld v (8 * i + 7) (8 * i)))))))
    else if 0x3B0 ≤ n ∧ n ≤ 0x3BF then (if pmpAddrLocked s c (n - 0x3B0) then s else setCsr s c n (v &&& 0x3FFFFFFFFFFFFF))
    else if n = 0x7A1 ∨ n = 0x7A2 ∨ n = 0x7A3 then trigPut s c (n - 0x7A0) v
    else match csrPlain n with | some m => mix n m | none => s

/-- The CSR of VS-mode that stands in for one of S-mode. -/
def vsCsr (n : Nat) : Nat := if n ∈ [0x100, 0x104, 0x105, 0x140, 0x141, 0x142, 0x143, 0x144, 0x14D, 0x150, 0x151, 0x15C, 0x180, 0xDB0] then n + 0x100 else n

/-- Whether the CSR exists and whether the hart may reach it (the CSR's address, TVM, the counter enables, mstateen, the state
of the context it belongs to). Answers the CSR it reaches. -/
def csrCheck (s : Mach) (c n w : Nat) (wr dbg : Bool) : Except HartExc Nat :=
  let x := getCore s c
  let lvl := n / 256 % 4
  let ill : Except HartExc Nat := .error (excIllegal w)
  let vir : Except HartExc Nat := .error (excVirtual w)
  let need := if lvl = 2 then 1 else lvl
  let k := if x.virt ∧ lvl = 1 then vsCsr n else n
  if (csrView s c k).isNone ∨ (wr = true ∧ n / 1024 = 3) then ill
  else if dbg then .ok n
  else if 0x7B0 ≤ n ∧ n ≤ 0x7B3 then ill
  else if lvl = 3 ∧ x.priv < 3 then ill
  else if x.virt ∧ (lvl = 2 ∨ x.priv < need) then vir
  else if x.priv < need then ill
  else if (n = 1 ∨ n = 2 ∨ n = 3) ∧ ctxOff s c 13 then ill
  else if n ∈ [0x008, 0x009, 0x00A, 0x00F, 0xC20, 0xC21, 0xC22] ∧ ctxOff s c 9 then ill
  else if n = 0x180 ∧ x.priv = 1 ∧ x.virt = false ∧ bit (mstatus s c) 20 then ill
  else if n = 0x180 ∧ x.virt ∧ bit (csrOf s c 0x600) 20 then vir
  else if n = 0x680 ∧ x.priv = 1 ∧ bit (mstatus s c) 20 then ill
  else if n = 0x14D ∧ x.priv < 3 ∧ (bit (csrOf s c 0x306) 1 = false ∨ bit (csrOf s c 0x30A) 63 = false) then ill
  else if n = 0x14D ∧ x.virt ∧ (bit (csrOf s c 0x606) 1 = false ∨ bit (csrOf s c 0x60A) 63 = false) then vir
  else if 0xC00 ≤ n ∧ n ≤ 0xC1F then
    let i := n - 0xC00
    if x.priv < 3 ∧ bit (csrOf s c 0x306) i = false then ill
    else if x.virt ∧ bit (csrOf s c 0x606) i = false then vir
    else if x.priv = 0 ∧ bit (csrOf s c 0x106) i = false then (if x.virt then vir else ill)
    else .ok k
  else if x.priv < 3 ∧ (n = 0x10A ∨ n = 0x60A) ∧ bit (csrOf s c 0x30C) 62 = false then ill
  else if x.priv < 3 ∧ n ∈ [0x150, 0x151, 0x250, 0x251] ∧ bit (csrOf s c 0x30C) 60 = false then ill
  else if x.priv < 3 ∧ n ∈ [0x15C, 0x25C] ∧ bit (csrOf s c 0x30C) 58 = false then ill
  else if x.priv < 3 ∧ ((0x10C ≤ n ∧ n ≤ 0x10F) ∨ (0x60C ≤ n ∧ n ≤ 0x60F)) ∧ bit (csrOf s c (0x30C + n % 4)) 63 = false then ill
  else if x.virt ∧ ((n = 0x10A ∧ bit (csrOf s c 0x60C) 62 = false) ∨ (n ∈ [0x150, 0x151] ∧ bit (csrOf s c 0x60C) 60 = false) ∨
      (n = 0x15C ∧ bit (csrOf s c 0x60C) 58 = false)) then vir
  else .ok k

end Sys2Proof.Machine
end

