-- ==== Sys2Proof/Machine/HartMem.lean ====
section
/-! DEFINITION. Memory as a host core sees it: physical memory protection, the access tables, the store buffer, cached lines,
I/O regions, and address translation in one and two stages (R339 to R341, R348, R352 to R359, R463 to R466). -/

namespace Sys2Proof.Machine

open Sys2Proof.Config (acyc)

/-! ### Checks of a physical access -/

/-- Kinds of access: 0 fetch, 1 load, 2 store or AMO. -/
def accessFault (kind : Nat) : Nat := match kind with | 0 => 1 | 1 => 5 | _ => 7
def ptFault (kind : Nat) : Nat := match kind with | 0 => 12 | 1 => 13 | _ => 15
def guestFault (kind : Nat) : Nat := match kind with | 0 => 20 | 1 => 21 | _ => 23
def misFault (kind : Nat) : Nat := match kind with | 0 => 0 | 1 => 4 | _ => 6

/-- The bytes that a PMP entry covers. -/
def pmpRange (s : Mach) (c i : Nat) : Option (Nat × Nat) :=
  let a (j : Nat) : Nat := (csrOf s c (0x3B0 + j)).toNat
  match pmpCfg s c i / 8 % 4 with
  | 1 => some (if i = 0 then 0 else a (i - 1) / 1024 * 4096, a i / 1024 * 4096)
  | 3 =>
    let v := a i ||| 0x1FF
    let t := ctz 54 (2 ^ 54 - 1 - v)
    some (v / 2 ^ (t + 1) * 2 ^ (t + 1) * 4, (v / 2 ^ (t + 1) + 1) * 2 ^ (t + 1) * 4)
  | _ => none

/-- Whether physical memory protection allows an access. -/
def pmpOk (s : Mach) (c priv kind pa n : Nat) : Bool :=
  let hit := (List.range 16).findSome? (fun i => match pmpRange s c i with
    | some (lo, hi) => if lo < pa + n ∧ pa < hi then some (i, decide (lo ≤ pa) && decide (pa + n ≤ hi)) else none
    | none => none)
  match hit with
  | none => decide (priv = 3)
  | some (i, whole) =>
    let f := pmpCfg s c i
    whole && ((decide (priv = 3) && !f.testBit 7) || f.testBit (match kind with | 0 => 2 | 1 => 0 | _ => 1))

/-- The core's own check against the access tables of an access to main memory (R464), made for every line. -/
def prtOk (s : Mach) (c kind pa n : Nat) : Bool :=
  let k := checkedAs s (c + 1) none
  (lineAddrs pa n).all (fun l => let g := rightsAt s k l; if kind = 2 then g.write else g.read)

/-- Whether an address lies in an I/O region (R341). -/
def isIo (s : Mach) (pa : Nat) : Bool :=
  match region s pa with | .window _ _ => true | .csp _ => true | .imsic _ _ _ => true | .aperture _ _ => true | _ => false

/-! ### Main memory through the caches -/

/-- A line as the core's caches or its home give it. -/
def coreLine (s : Mach) (c line : Nat) : Line × Bool :=
  let h := getHeld s c line
  if l2On s c ∧ h.st ≠ 0 then (h.data, h.pois) else cohLine s line

/-- A line made present for the core. With L2 disabled nothing is allocated (R352). With PF_NL the next line of the page is
fetched behind a miss (R346). -/
def touchLine (s : Mach) (c line : Nat) (own : Bool) : Mach :=
  let h := getHeld s c line
  if l2On s c = false then countBytes s (line * 64) 64 .read (ownerOf s (c + 1) none)
  else if h.orphan ∨ (h.st ≠ 0 ∧ (own = false ∨ 2 ≤ h.st)) then s
  else
    let s := if h.st = 0 ∧ (ownerKey s line).isNone then countBytes s (line * 64) 64 .read (ownerOf s (c + 1) none) else s
    let s := if h.st = 0 ∧ holds s (llcKey (coreDieOf c)) line = false then bumpAo s (coreDieId (coreDieOf c)) 4 1 else s
    let s := obtainLine s c line own
    let nl := line + 1
    if h.st = 0 ∧ bit (csrOf s c 0x7C0) 5 ∧ nl % 64 ≠ 0 ∧ (getHeld s c nl).st = 0 ∧ isMain s (nl * 64) = true ∧ prtOk s c 1 (nl * 64) 64
    then obtainLine s c nl false else s

/-- The byte of an address in the youngest store-buffer entry that holds it. -/
def sbByte (s : Mach) (c a : Nat) : Option Byte :=
  (getCore s c).sb.foldl (fun r e =>
    if e.line = a / 64 ∧ e.mask.testBit (a % 64) then some (BitVec.ofNat 8 (fld e.data (8 * (a % 64) + 7) (8 * (a % 64)))) else r) none

/-- `n` bytes of main memory as the core reads them (R356): from its store buffer where it holds them all; otherwise entries
that overlap drain first. Data of an L1D that was re-enabled without an invalidate is a free value (R353). -/
def loadMain (s : Mach) (c a n : Nat) (fetch : Bool) : (Nat × Bool) × Mach :=
  let bytes := (List.range n).map (fun i => sbByte s c (a + i))
  if bytes.all Option.isSome ∧ !fetch then ((ofBytes (bytes.map (fun b => b.getD 0)), false), s)
  else
    let s := if bytes.any Option.isSome then drainAll s c else s
    let s := foldS (lineAddrs a n) (fun t l => touchLine t c (l / 64) false) s
    let x := getCore s c
    if (fetch ∧ l1iOn s c ∧ x.l1iStale) ∨ (!fetch ∧ l1dOn s c ∧ x.l1dStale) then
      let (v, s) := drawBytes s n
      ((ofBytes v, false), s)
    else
      let v := (List.range n).map (fun i =>
        BitVec.ofNat 8 (fld (coreLine s c ((a + i) / 64)).1 (8 * ((a + i) % 64) + 7) (8 * ((a + i) % 64))))
      ((ofBytes v, (lineAddrs a n).any (fun l => (coreLine s c (l / 64)).2)), s)

/-- A store within a line enters the store buffer: it merges into the youngest entry or opens a new one (R354, R355). -/
def sbPush (s : Mach) (c line : Nat) (d : Line) (mask : Nat) : Mach :=
  let x := getCore s c
  match x.sb.getLast? with
  | some e =>
    if e.line = line ∧ e.mergeable ∧ s.now < e.at_ + 32 * cclk s c then
      modCore s c (fun x => { x with sb := x.sb.dropLast ++ [{ e with data := mergeLine e.data d mask, mask := e.mask ||| mask }] })
    else
      let s := if 56 ≤ x.sb.length then drainOne s c else s
      modCore s c (fun x => { x with sb := x.sb ++ [{ line := line, data := d, mask := mask, at_ := s.now, mergeable := true }] })
  | none => modCore s c (fun x => { x with sb := [{ line := line, data := d, mask := mask, at_ := s.now, mergeable := true }] })

/-- No later store merges into what the buffer holds (R355). -/
def sbSeal (s : Mach) (c : Nat) : Mach :=
  modCore s c (fun x => { x with sb := x.sb.map (fun e => { e with mergeable := false }) })

/-- A store of `n` bytes to main memory, line by line. -/
def storeMain (s : Mach) (c a n v : Nat) : Mach :=
  foldS (lineAddrs a n) (fun t l =>
    let lo := max a l
    let hi := min (a + n) (l + 64)
    let part := v / 2 ^ (8 * (lo - a)) % 2 ^ (8 * (hi - lo))
    sbPush t c (l / 64) (BitVec.ofNat 512 (part * 2 ^ (8 * (lo - l)))) ((2 ^ (hi - lo) - 1) * 2 ^ (lo - l))) s

/-! ### I/O regions -/

/-- A write of control space as the core makes it: the debug and ring blocks hang on it, so that the caller passes it. -/
abbrev CspIo : Type := Mach → Nat → Nat → Nat → Word → CspRes × Mach

/-- A load from an I/O region: `none` is an access fault. A device behind an aperture answers with a free value; an interrupt
file reads 0. -/
def loadIo (s : Mach) (c a n : Nat) : Option Nat × Mach :=
  let s := drainAll s c
  match region s a with
  | .window b off =>
    if bayPresent s b = false then (some 0, s)
    else
      let t := loftWindowAccess s (c + 1) none a (.read n)
      if (rightsAt s (checkedAs s (c + 1) none) a).read ∧ off + n ≤ plannedSize s b then
        (some (ofBytes ((List.range n).map (fun i => loftByte s b (off + i)))), t)
      else (none, t)
  | .csp off =>
    let (r, v, s) := cspRead s (c + 1) off n false
    (if r = .ok then some v.toNat else none, s)
  | .imsic _ _ _ => (if n = 4 ∧ a % 4 = 0 then some 0 else none, s)
  | .aperture _ _ => let (v, s) := drawBytes s n; (some (ofBytes v), s)
  | _ => (none, s)

/-- A store to an I/O region: false is an access fault. What a device behind an aperture does is outside the package. -/
def storeIo (io : CspIo) (s : Mach) (c a n v : Nat) : Bool × Mach :=
  let s := drainAll s c
  match region s a with
  | .window b off =>
    if bayPresent s b = false then (true, s)
    else
      let t := loftWindowAccess s (c + 1) none a (.write (bytesOf n v) false)
      (decide ((rightsAt s (checkedAs s (c + 1) none) a).write ∧ off + n ≤ plannedSize s b), t)
  | .csp off =>
    let (r, s) := io s (c + 1) off n (BitVec.ofNat 64 v)
    (decide (r = .ok), s)
  | .imsic _ _ _ => if n = 4 ∧ a % 4 = 0 then (true, msiTo s a v) else (false, s)
  | .aperture _ _ => (true, s)
  | _ => (false, s)

/-- Consumption of poisoned data (R348): its fault record. The core has no error register for it: the SUBCODE is a free value. -/
def poisonUse (s : Mach) (c pa : Nat) : Mach :=
  let (w, s) := drawWord s
  let r := mkRec s 4 (w.toNat % 256) 0x1A (c % 48) (coreDieId (coreDieOf c)) pa (pa / 2 ^ 16)
  raise s ({ r with mid := c + 1 }.poisoned.forPart (clusterPid s (c / 8)) 0)

/-! ### Physical accesses with every check -/

/-- A read of `n` bytes at a physical address: an exception cause, or the value. -/
def physLoad (s : Mach) (c priv kind pa n : Nat) : Except Nat Nat × Mach :=
  if pmpOk s c priv kind pa n = false then (.error (accessFault kind), s)
  else if isMain s pa ∧ isMain s (pa + n - 1) then
    if prtOk s c kind pa n = false then (.error (accessFault kind), s)
    else
      let ((v, p), s) := loadMain s c pa n (decide (kind = 0))
      if p then (.error 19, poisonUse s c pa) else (.ok v, s)
  else if isIo s pa ∧ (kind ≠ 0 ∨ (match region s pa with | .window _ _ => true | _ => false) = true) then
    match loadIo s c pa n with
    | (some v, s) => (.ok v, s)
    | (none, s) => (.error (accessFault kind), s)
  else (.error (accessFault kind), s)

/-- The checks of a write at a physical address; a line that its controller locks is recorded there (R283). -/
def physStoreOk (s : Mach) (c priv pa n : Nat) : Bool × Mach :=
  if pmpOk s c priv 2 pa n = false then (false, s)
  else if isMain s pa ∧ isMain s (pa + n - 1) then
    if prtOk s c 2 pa n = false then (false, s)
    else if (lineAddrs pa n).any (fun l => writeLocked s (checkedAs s (c + 1) none) l) then
      (false, physRefuse s (c + 1) (checkedAs s (c + 1) none) 0 pa true)
    else (true, s)
  else (isIo s pa, s)

/-- A write at a physical address. -/
def physStore (io : CspIo) (s : Mach) (c priv pa n v : Nat) : Except Nat Unit × Mach :=
  match physStoreOk s c priv pa n with
  | (false, s) => (.error 7, s)
  | (true, s) =>
    if isMain s pa then (.ok (), storeMain s c pa n v)
    else match storeIo io s c pa n v with
      | (true, s) => (.ok (), s)
      | (false, s) => (.error 7, s)

/-! ### Translation (Sv39, Sv48, Svnapot, Svpbmt, Svadu, two stages) -/

/-- How an access is translated: the mode it is made in, and whether it reads as an execute (HLVX). -/
structure XMode where
  priv : Nat
  virt : Bool
  hlvx : Bool
  deriving DecidableEq, Repr

/-- The mode of an ordinary access: MPRV gives loads and stores the mode of MPP and MPV. -/
def xmode (s : Mach) (c kind : Nat) : XMode :=
  let x := getCore s c
  let st := mstatus s c
  if kind ≠ 0 ∧ bit st 17 ∧ x.halted = false then
    { priv := fld st 12 11, virt := bit st 39 && decide (fld st 12 11 ≠ 3), hlvx := false }
  else { priv := x.priv, virt := x.virt, hlvx := false }

/-- Whether a page-table entry may not be used at its level. -/
def pteBad (pte : Word) (lvl : Nat) (pbmte : Bool) : Bool :=
  !bit pte 0 || (bit pte 2 && !bit pte 1) || decide (fld pte 60 54 ≠ 0) || (decide (fld pte 62 61 ≠ 0) && (!pbmte || decide (fld pte 62 61 = 3)))
    || (bit pte 63 && (decide (lvl ≠ 0) || decide (fld pte 13 10 ≠ 8)))

/-- Whether an entry is a leaf. -/
def pteLeaf (pte : Word) : Bool := bit pte 1 || bit pte 3

/-- Whether a pointer entry has a bit set that only a leaf may have. -/
def ptePtrBad (pte : Word) : Bool := decide (fld pte 7 6 ≠ 0) || bit pte 4 || decide (fld pte 63 61 ≠ 0)

/-- The address that a leaf of a level gives; none for a misaligned superpage. -/
def leafPa (pte : Word) (lvl va : Nat) : Option Nat :=
  let ppn := fld pte 53 10
  if ppn % 2 ^ (9 * lvl) ≠ 0 then none
  else if bit pte 63 then some (ppn / 16 * 65536 + va % 65536)
  else some (ppn * 4096 + va % 2 ^ (12 + 9 * lvl))

/-- A page-table walk from level `lvl` down: `rd` reads the entry at an address. Answers the leaf, its level and its address,
or `none` for a page fault. -/
def svWalk (rd : Mach → Nat → Except HartExc (Word × Nat) × Mach) (pbmte : Bool) (va : Nat) :
    (lvl : Nat) → (extra : Nat) → (base : Nat) → Mach → Except HartExc (Option (Word × Nat × Nat)) × Mach
  | lvl, extra, base, s =>
    let idx := va / 2 ^ (12 + 9 * lvl) % 2 ^ (9 + extra)
    match rd s (base + 8 * idx) with
    | (.error e, s) => (.error e, s)
    | (.ok (pte, pa), s) =>
      if pteBad pte lvl pbmte then (.ok none, s)
      else if pteLeaf pte then (.ok (some (pte, lvl, pa)), s)
      else if ptePtrBad pte then (.ok none, s)
      else match lvl with
        | 0 => (.ok none, s)
        | l + 1 => svWalk rd pbmte va l 0 (fld pte 53 10 * 4096) s
  termination_by structural lvl => lvl

/-- The accessed and dirty bits of a leaf: none where they stand, else the updated entry. -/
def pteAd (pte : Word) (kind : Nat) : Option Word :=
  let n := setBit (if kind = 2 then setBit pte 7 true else pte) 6 true
  if n = pte then none else some n

/-- A page-table entry read by the walker, as S-mode reads it. -/
def pteRead (s : Mach) (c kind pa : Nat) (e : Nat → HartExc) : Except HartExc (Word × Nat) × Mach :=
  if isMain s pa = false then (.error (e (accessFault kind)), s)
  else match physLoad s c 1 1 pa 8 with
    | (.ok v, s) => (.ok (BitVec.ofNat 64 v, pa), s)
    | (.error 19, s) => (.error (e 19), s)
    | (.error _, s) => (.error (e (accessFault kind)), s)

/-- A leaf's A and D bits are updated in memory when the control bit allows it (Svadu), in one atomic access. -/
def pteUpdate (s : Mach) (c kind pa : Nat) (adue : Bool) (pte : Word) : Except Nat Unit × Mach :=
  match pteAd pte kind with
  | none => (.ok (), s)
  | some n =>
    if adue = false then (.error 0, s)
    else match physStoreOk s c 1 pa 8 with
      | (false, s) => (.error (accessFault kind), s)
      | (true, s) => (.ok (), storeMain s c pa 8 n.toNat)

/-- The second stage: a guest physical address to a physical one. -/
def gStage (s : Mach) (c kind : Nat) (m : XMode) (gpa : Nat) (tval : Nat) : Except HartExc Nat × Mach :=
  let at_ := csrOf s c 0x680
  let mode := fld at_ 63 60
  if mode = 0 then (.ok gpa, s)
  else
    let lv := if mode = 8 then 3 else 4
    let flt (k : Nat) : HartExc := { cause := k, tval := tval, gpa := gpa, gva := true }
    let gf := flt (guestFault kind)
    if 2 ^ (14 + 9 * lv) ≤ gpa then (.error gf, s)
    else
      match svWalk (fun s a => pteRead s c kind a (fun k => { (exc k tval) with gva := true })) (bit (csrOf s c 0x30A) 62) gpa (lv - 1) 2 (fld at_ 43 0 * 4096) s with
      | (.error e, s) => (.error e, s)
      | (.ok none, s) => (.error gf, s)
      | (.ok (some (pte, lvl, pa)), s) =>
        let mxr := bit (mstatus s c) 19
        let ok := bit pte 4 && (match kind with
          | 0 => bit pte 3
          | 1 => if m.hlvx then bit pte 3 else bit pte 1 || (mxr && bit pte 3)
          | _ => bit pte 2)
        match leafPa pte lvl gpa with
        | none => (.error gf, s)
        | some r =>
          if ok = false then (.error gf, s)
          else match pteUpdate s c kind pa (bit (csrOf s c 0x30A) 61) pte with
            | (.ok _, s) => (.ok r, s)
            | (.error 0, s) => (.error gf, s)
            | (.error k, s) => (.error (flt k), s)

/-- The first stage: a virtual address to a physical one, or to a guest physical one in a virtual machine. -/
def xlate (s : Mach) (c kind : Nat) (m : XMode) (va : Nat) : Except HartExc Nat × Mach :=
  let at_ := if m.virt then csrOf s c 0x280 else csrOf s c 0x180
  let mode := if m.priv = 3 then 0 else fld at_ 63 60
  let flt (k : Nat) : HartExc := { (exc k va) with gva := m.virt }
  if mode = 0 then (if m.virt then gStage s c kind m va va else (.ok va, s))
  else
    let lv := if mode = 8 then 3 else 4
    let bits := 12 + 9 * lv
    let hi := va / 2 ^ (bits - 1)
    if hi ≠ 0 ∧ hi ≠ 2 ^ (65 - bits) - 1 then (.error (flt (ptFault kind)), s)
    else
      let rd (s : Mach) (a : Nat) : Except HartExc (Word × Nat) × Mach :=
        if m.virt then match gStage s c 1 { m with hlvx := false } a va with
          | (.error e, s) => (.error { e with cause := if e.cause = 21 then guestFault kind else if e.cause = 5 then accessFault kind else e.cause }, s)
          | (.ok pa, s) => pteRead s c kind pa flt
        else pteRead s c kind a flt
      let menv := csrOf s c 0x30A
      let env := if m.virt then csrOf s c 0x60A &&& menv else menv
      match svWalk rd (bit env 62) va (lv - 1) 0 (fld at_ 43 0 * 4096) s with
      | (.error e, s) => (.error e, s)
      | (.ok none, s) => (.error (flt (ptFault kind)), s)
      | (.ok (some (pte, lvl, pa)), s) =>
        let st := if m.virt then csrOf s c 0x200 else mstatus s c
        let mxr := bit (mstatus s c) 19 || bit st 19
        let user := if m.priv = 0 then bit pte 4 else !bit pte 4 || (decide (kind ≠ 0) && bit st 18)
        let ok := user && (match kind with
          | 0 => bit pte 3
          | 1 => if m.hlvx then bit pte 3 else bit pte 1 || (mxr && bit pte 3)
          | _ => bit pte 2)
        match leafPa pte lvl va with
        | none => (.error (flt (ptFault kind)), s)
        | some r =>
          if ok = false then (.error (flt (ptFault kind)), s)
          else match pteUpdate s c kind pa (bit env 61) pte with
            | (.ok _, s) => if m.virt then gStage s c kind m r va else (.ok r, s)
            | (.error 0, s) => (.error (flt (ptFault kind)), s)
            | (.error k, s) => (.error (flt k), s)

/-- The effective address under pointer masking (Ssnpm): U-mode by senvcfg.PMM, VS-mode by henvcfg.PMM. -/
def maskPtr (s : Mach) (c : Nat) (m : XMode) (a : Nat) : Nat :=
  let pmm := if m.priv = 0 then fld (csrOf s c 0x10A) 33 32 else if m.virt ∧ m.priv = 1 then fld (csrOf s c 0x60A) 33 32 else 0
  let k := match pmm with | 2 => 7 | 3 => 16 | _ => 0
  let bare := decide (fld (if m.virt then csrOf s c 0x280 else csrOf s c 0x180) 63 60 = 0)
  if k = 0 ∨ m.hlvx then a else if bare then a % 2 ^ (64 - k) else sx (64 - k) a

/-- The pages that an access spans are translated in order. -/
def xlatePages (s : Mach) (c kind : Nat) (m : XMode) (va n : Nat) : Except HartExc (List (Nat × Nat)) × Mach :=
  match xlate s c kind m va with
  | (.error e, s) => (.error e, s)
  | (.ok pa, s) =>
    let first := min n (4096 - va % 4096)
    if first = n then (.ok [(pa, n)], s)
    else match xlate s c kind m (add64 va first) with
      | (.error e, s) => (.error { e with tval := add64 va first }, s)
      | (.ok pb, s) => (.ok [(pa, first), (pb, n - first)], s)

/-- A load of `n` bytes at a virtual address. -/
def hartLoad (s : Mach) (c kind : Nat) (m : XMode) (va n : Nat) : Except HartExc Nat × Mach :=
  let va := if kind = 0 then va else maskPtr s c m va
  match xlatePages s c kind m va n with
  | (.error e, s) => (.error e, s)
  | (.ok ps, s) =>
    ps.foldl (fun r p => match r with
      | (.error e, s) => (.error e, s)
      | (.ok v, s) => match physLoad s c m.priv kind p.1 p.2 with
        | (.error k, s) => (.error { (exc k va) with gva := m.virt }, s)
        | (.ok w, s) => (.ok (if ps.length = 1 ∨ decide (p = ps.headD (0, 0)) then w else v + w * 2 ^ (8 * (n - p.2))), s))
      (.ok 0, s)

/-- A store of `n` bytes at a virtual address: every page is checked before any byte is written. -/
def hartStore (io : CspIo) (s : Mach) (c : Nat) (m : XMode) (va n v : Nat) : Except HartExc Unit × Mach :=
  let va := maskPtr s c m va
  match xlatePages s c 2 m va n with
  | (.error e, s) => (.error e, s)
  | (.ok ps, s) =>
    let e7 : HartExc := { (exc 7 va) with gva := m.virt }
    let chk := ps.foldl (fun r p => if r.1 then physStoreOk r.2 c m.priv p.1 p.2 else r) (true, s)
    if chk.1 = false then (.error e7, chk.2)
    else ps.foldl (fun r p => match r with
      | (.error e, s) => (.error e, s)
      | (.ok _, s) =>
        let part := if decide (p = ps.headD (0, 0)) then v % 2 ^ (8 * p.2) else v / 2 ^ (8 * (n - p.2))
        match physStore io s c m.priv p.1 p.2 part with
        | (.error _, s) => (.error e7, s)
        | (.ok _, s) => (.ok (), s)) (.ok (), chk.2)

end Sys2Proof.Machine
end

