-- ==== Sys2Proof/Machine/HartExec.lean ====
section
/-! DEFINITION. The instructions of the host cores apart from vectors and the CMX: RV64 with its extensions, atomics, fences, cache
blocks, control and status registers, and the privileged and hypervisor instructions (R339, R348, R352 to R359). -/

namespace Sys2Proof.Machine

open Sys2Proof.Config (acyc)

/-- How an instruction ends: it is done, it raises an exception, or it is a breakpoint for the debugger. -/
inductive HartOut where
  | done (s : Mach)
  | fail (e : HartExc) (s : Mach)
  | debug (s : Mach)
  deriving DecidableEq, Repr

def getXr (s : Mach) (c r : Nat) : Nat := if r = 0 then 0 else (smapGet 0 (getCore s c).x r).toNat
def getFr (s : Mach) (c r : Nat) : Nat := (smapGet 0 (getCore s c).f r).toNat

def putXr (s : Mach) (c r v : Nat) : Mach :=
  if r = 0 then s else modCore s c (fun x => { x with x := smapPut 0 x.x r (BitVec.ofNat 64 v) })

def putFr (s : Mach) (c r v : Nat) : Mach :=
  ctxDirty (modCore s c (fun x => { x with f := smapPut 0 x.f r (BitVec.ofNat 64 v) })) c 13

/-- The instruction retires and the pc moves on by its length. -/
def retire (s : Mach) (c len : Nat) : Mach :=
  bumpAo (modCore s c (fun x => { x with pc := x.pc + BitVec.ofNat 64 len, instret := x.instret + 1 })) (coreDieId (coreDieOf c)) 0 1

def setPc (s : Mach) (c t : Nat) : Mach := modCore s c (fun x => { x with pc := BitVec.ofNat 64 t })

/-- What the instruction reader of a core sees. -/
def hartIn (s : Mach) (c : Nat) : RvIn :=
  { pc := (getCore s c).pc.toNat, x := getXr s c, f := getFr s c, frm := fld (csrOf s c 0x003) 7 5, core := true }

/-! ### Atomics (R356 to R359) -/

/-- The physical address of an atomic access: misaligned accesses raise 4 or 6, an I/O region or a missing right 5 or 7. -/
def atomicPa (s : Mach) (c kind a n : Nat) (needR needW : Bool) : Except HartExc Nat × Mach :=
  let m := xmode s c kind
  let va := maskPtr s c m a
  let flt (k : Nat) : HartExc := { (exc k va) with gva := m.virt }
  if a % n ≠ 0 then (.error (flt (misFault kind)), s)
  else match xlate s c kind m va with
    | (.error e, s) => (.error e, s)
    | (.ok pa, s) =>
      let g := rightsAt s (checkedAs s (c + 1) none) pa
      if isMain s pa = false ∨ pmpOk s c m.priv kind pa n = false ∨ (needR && !g.read) = true ∨ (needW && !(g.write && g.atomic)) = true then
        (.error (flt (accessFault kind)), s)
      else if needW ∧ writeLocked s (checkedAs s (c + 1) none) pa then
        (.error (flt 7), physRefuse s (c + 1) (checkedAs s (c + 1) none) 0 pa true)
      else (.ok pa, s)

/-- A write of an atomic instruction is performed at once, after every older store. -/
def writeNow (s : Mach) (c pa n v : Nat) : Mach :=
  let lo := pa % 64
  drainTo s c { line := pa / 64, data := BitVec.ofNat 512 (v % 2 ^ (8 * n) * 2 ^ (8 * lo)), mask := (2 ^ n - 1) * 2 ^ lo, at_ := 0, mergeable := false }

/-- Sign extension of a value of 4 or 8 bytes. -/
def sxn (n v : Nat) : Nat := sx (8 * n) (v % 2 ^ (8 * n))

/-- LR (R357): the line is obtained Exclusive, and the reservation made in the mode of core.resv. -/
def doLr (s : Mach) (c rd a n len : Nat) : HartOut :=
  match atomicPa s c 1 a n true false with
  | (.error e, s) => .fail e s
  | (.ok pa, s) =>
    let s := sbSeal (drainAll s c) c
    let s := touchLine s c (pa / 64) true
    let ((v, p), s) := loadMain s c pa n false
    if p then .fail { (exc 19 a) with gva := (xmode s c 1).virt } (poisonUse s c pa)
    else
      let hd8 := bit (csrOf s c 0x7C1) 1
      let r := if hd8 then (pa / 256 * 256, 256, s.now, true) else (pa / 8 * 8, 8, s.now, false)
      .done (retire (putXr (modCore s c (fun x => { x with resv := some r })) c rd (sxn n v)) c len)

/-- SC (R357, R359): it succeeds within the reservation, which it ends. -/
def doSc (s : Mach) (c rd a n v len : Nat) : HartOut :=
  match atomicPa s c 2 a n false true with
  | (.error e, s) => .fail e s
  | (.ok pa, s) =>
    let ok := match (getCore s c).resv with | some r => decide (r.1 ≤ pa) && decide (pa + n ≤ r.1 + r.2.1) | none => false
    let s := sbSeal (drainAll s c) c
    let s := if ok then writeNow s c pa n v else s
    let s := modCore s c (fun x => { x with resv := none })
    .done (retire (putXr s c rd (if ok then 0 else 1)) c len)

/-- An AMO: every older store is performed, then the read and the write as one. -/
def doAmo (s : Mach) (c op rd a n v len : Nat) : HartOut :=
  match atomicPa s c 2 a n true true with
  | (.error e, s) => .fail e s
  | (.ok pa, s) =>
    let s := sbSeal (drainAll s c) c
    let s := touchLine s c (pa / 64) true
    let ((old, p), s) := loadMain s c pa n false
    if p then .fail { (exc 19 a) with gva := (xmode s c 2).virt } (poisonUse s c pa)
    else .done (retire (putXr (writeNow s c pa n (amoVal op n old v)) c rd (sxn n old)) c len)

/-! ### Cache blocks (R339) -/

/-- Whether a cache-block instruction is allowed where the hart runs: its bit or field in the three environment CSRs. -/
def cboAllowed (s : Mach) (c op : Nat) : Option Bool :=
  let x := getCore s c
  let on (r : Nat) : Bool := match op with
    | 4 => bit (csrOf s c r) 7
    | 0 => decide (fld (csrOf s c r) 5 4 ≠ 0)
    | _ => bit (csrOf s c r) 6
  if x.priv < 3 ∧ on 0x30A = false then none
  else if x.virt then some (on 0x60A && (decide (x.priv = 1) || on 0x10A))
  else if x.priv = 0 ∧ on 0x10A = false then none
  else some true

/-- A block written back to memory; with `inv` no cache keeps it. -/
def flushBlock (s : Mach) (line : Nat) (inv : Bool) : Mach :=
  let s := settleLine s line
  let d := cohLine s line
  let own := ownerKey s line
  let s := match own with
    | some k => let s := rawWrite s line d.1 fullMask d.2; let h := getHeld s k line
                if inv then s else putHeld s k line { h with st := min h.st 2 }
    | none => s
  if inv then
    let s := foldS (marked s line) (fun t q => (answerSnoop t q line .ncPart 511).2) s
    modDir s line (fun e => { e with owned := false, pres := 0 })
  else s

/-- CBO.INVAL, which executes as CBO.FLUSH, CBO.CLEAN, CBO.FLUSH and CBO.ZERO on 64 B blocks. -/
def doCbo (io : CspIo) (s : Mach) (c op a w len : Nat) : HartOut :=
  match cboAllowed s c op with
  | none => .fail (excIllegal w) s
  | some false => .fail (excVirtual w) s
  | some true =>
    let m := xmode s c 2
    let a := maskPtr s c m a
    if op = 4 then
      match hartStore io s c m (a / 64 * 64) 64 0 with
      | (.error e, s) => .fail e s
      | (.ok _, s) => .done (retire s c len)
    else
      let (r, s) := match xlate s c 1 m a with
        | (.error _, s) => xlate s c 2 m a
        | r => r
      match r with
      | .error e => .fail (if e.cause = 13 then { e with cause := 15 } else if e.cause = 21 then { e with cause := 23 } else if e.cause = 5 then { e with cause := 7 } else e) s
      | .ok pa =>
        if isMain s pa = false ∨ prtOk s c 1 (pa / 64 * 64) 64 = false ∨ pmpOk s c m.priv 1 (pa / 64 * 64) 64 = false then .fail { (exc 7 a) with gva := m.virt } s
        else .done (retire (flushBlock (drainAll s c) (pa / 64) (decide (op ≠ 1))) c len)

/-! ### Control and status registers, environment calls -/

def doCsr (s : Mach) (c op rd n src w len : Nat) (wr rdx dbg : Bool) : HartOut :=
  match csrCheck s c n w wr dbg with
  | .error e => .fail e s
  | .ok k =>
    let v := (csrView s c k).getD 0
    let base := if k = 0x344 then setBit v 9 (bit (csrOf s c 0x344) 9) else v
    let b := BitVec.ofNat 64 src
    let new := match op with | 1 => b | 2 => base ||| b | _ => base &&& ~~~ b
    let s := retire s c len
    let s := if wr then hartCsrPut s c k new else s
    .done (if rdx then putXr s c rd v.toNat else s)

/-- EBREAK: the debugger takes it where dcsr says so, else it is a breakpoint exception. -/
def hartEbreak (s : Mach) (c : Nat) (dbg : Bool) : HartOut :=
  let x := getCore s c
  let d := csrOf s c 0x7B0
  let i := if x.virt then (if x.priv = 1 then 17 else 16) else match x.priv with | 3 => 15 | 1 => 13 | _ => 12
  if dbg ∨ bit d i then .debug s else .fail { (exc 3 x.pc.toNat) with gva := x.virt } s

def doEcall (s : Mach) (c : Nat) : HartOut :=
  let x := getCore s c
  .fail (exc (match x.priv with | 0 => 8 | 1 => (if x.virt then 10 else 9) | _ => 11) 0) s

/-! ### Privileged instructions -/

/-- A fence of translations: the model keeps no translations between accesses, so that only its checks remain. -/
def doSfence (s : Mach) (c w len : Nat) (vm : Bool) : HartOut :=
  let x := getCore s c
  if x.virt then (if x.priv = 0 ∨ (vm ∧ bit (csrOf s c 0x600) 20) then .fail (excVirtual w) s else .done (retire s c len))
  else if x.priv = 0 ∨ (vm ∧ x.priv = 1 ∧ bit (mstatus s c) 20) then .fail (excIllegal w) s
  else .done (retire s c len)

def doHfence (s : Mach) (c w len : Nat) (g : Bool) : HartOut :=
  let x := getCore s c
  if x.virt then .fail (excVirtual w) s
  else if x.priv = 0 ∨ (g ∧ x.priv = 1 ∧ bit (mstatus s c) 20) then .fail (excIllegal w) s
  else .done (retire s c len)

/-- WFI and WRS end at once. -/
def doWfi (s : Mach) (c w len : Nat) (wrs : Bool) : HartOut :=
  let x := getCore s c
  if x.priv < 3 ∧ bit (mstatus s c) 21 then .fail (excIllegal w) s
  else if x.virt ∧ ((wrs = false ∧ x.priv = 0) ∨ bit (csrOf s c 0x600) 21) then .fail (excVirtual w) s
  else .done (retire s c len)

/-- HLV, HLVX and HSV: an access as the virtual machine would make it. -/
def doHyp (io : CspIo) (s : Mach) (c w len : Nat) : HartOut :=
  let x := getCore s c
  let f7 := iF7 w
  let n := 2 ^ (f7 / 2 % 4)
  let hs := csrOf s c 0x600
  let k := iRs2 w
  let storeOp := decide (f7 % 2 = 1)
  let legal := decide (0x30 ≤ f7 ∧ f7 ≤ 0x37) && (if storeOp then decide (iRd w = 0) else
    decide (k = 0) || (decide (k = 1) && decide (n ≠ 8)) || (decide (k = 3) && (decide (n = 2) || decide (n = 4))))
  if legal = false then .fail (excIllegal w) s
  else if x.virt then .fail (excVirtual w) s
  else if x.priv = 0 ∧ bit hs 9 = false then .fail (excIllegal w) s
  else
    let m : XMode := { priv := fld hs 8 8, virt := true, hlvx := decide (k = 3) && !storeOp }
    let a := getXr s c (iRs1 w)
    if storeOp then
      match hartStore io s c m a n (getXr s c k) with
      | (.error e, s) => .fail e s
      | (.ok _, s) => .done (retire s c len)
    else match hartLoad s c 1 m a n with
      | (.error e, s) => .fail e s
      | (.ok v, s) => .done (retire (putXr s c (iRd w) (if k = 0 then sxn n v else v)) c len)

/-- SYSTEM instructions that are no CSR access. -/
def doSystem (io : CspIo) (s : Mach) (c w len : Nat) : HartOut :=
  let flow (t : Except HartExc Mach) : HartOut := match t with | .ok t => .done (retire t c 0) | .error e => .fail e s
  if iF3 w = 4 then doHyp io s c w len
  else if w = 0x10200073 then flow (sret s c w)
  else if w = 0x30200073 then flow (mret s c w)
  else if w = 0x10500073 then doWfi s c w len false
  else if w = 0x00D00073 ∨ w = 0x01D00073 then doWfi s c w len true
  else if w = 0x18000073 ∨ w = 0x18100073 then doSfence s c w len false
  else if iRd w ≠ 0 then .fail (excIllegal w) s
  else match iF7 w with
    | 0x09 => doSfence s c w len true
    | 0x0B => doSfence s c w len true
    | 0x11 => doHfence s c w len false
    | 0x13 => doHfence s c w len false
    | 0x31 => doHfence s c w len true
    | 0x33 => doHfence s c w len true
    | _ => .fail (excIllegal w) s

/-! ### One instruction -/

/-- Whether an instruction needs the floating-point context. -/
def usesFp (w : Nat) : Bool :=
  decide (iOp w ∈ [0x43, 0x47, 0x4B, 0x4F, 0x53]) || (decide (iOp w ∈ [0x07, 0x27]) && decide (1 ≤ iF3 w ∧ iF3 w ≤ 4 ∧ iF3 w ≠ 4))

/-- A fence: with a store before it and a load after it, the store buffer drains; no later store merges across it (R355). -/
def doFence (s : Mach) (c bits len : Nat) : HartOut :=
  let s := sbSeal s c
  let s := if bits / 256 ≠ 8 ∧ bits.testBit 4 ∧ bits.testBit 1 then drainAll s c else s
  .done (retire s c len)

/-- An instruction of the base and its scalar extensions; `none` leaves it to the vector unit, the CMX or the decoder. -/
def scalarExec (io : CspIo) (s : Mach) (c w len : Nat) (dbg : Bool) : Option HartOut :=
  if usesFp w ∧ ctxOff s c 13 then some (.fail (excIllegal w) s)
  else match rvExec (hartIn s c) w with
    | .illegal => some (.fail (excIllegal w) s)
    | .result fp rd v fl =>
      let s := if fl = 0 then s else ctxDirty (setCsr s c 0x003 (csrOf s c 0x003 ||| BitVec.ofNat 64 fl)) c 13
      some (.done (retire (if fp then putFr s c rd v else putXr s c rd v) c len))
    | .jump t rd =>
      let ret := ((getCore s c).pc + BitVec.ofNat 64 len).toNat
      some (.done (setPc (putXr (retire s c len) c rd ret) c t))
    | .branch taken t => let s := retire s c len; some (.done (if taken then setPc s c t else s))
    | .load fp rd a n sg =>
      some (match hartLoad s c 1 (xmode s c 1) a n with
        | (.error e, s) => .fail e s
        | (.ok v, s) =>
          .done (retire (if fp then putFr s c rd (if n = 8 then v else fpBox (if n = 4 then 0 else 2) v)
            else putXr s c rd (if sg then sxn n v else v)) c len))
    | .store a n v =>
      some (match hartStore io s c (xmode s c 2) a n (v % 2 ^ (8 * n)) with
        | (.error e, s) => .fail e s
        | (.ok _, s) => .done (retire s c len))
    | .lr rd a n => some (doLr s c rd a n len)
    | .sc rd a n v => some (doSc s c rd a n v len)
    | .amo op rd a n v => some (doAmo s c op rd a n v len)
    | .fence bits => some (doFence s c bits len)
    | .fenceI => some (.done (retire (drainAll s c) c len))
    | .ecall => some (doEcall s c)
    | .ebreak => some (hartEbreak s c dbg)
    | .csr op rd n src wr rdx => some (doCsr s c op rd n src w len wr rdx dbg)
    | .cbo op a => some (doCbo io s c op a w len)
    | .other => if iOp w = 0x73 then some (doSystem io s c w len) else none

end Sys2Proof.Machine
end

