-- ==== Sys2Proof/Machine/Cmx.lean ====
section
/-! DEFINITION. The core matrix coprocessors (R360 to R366, R368). An instruction
reads its operands and computes when it retires; what it stores, and its completion, follow (R364). -/

namespace Sys2Proof.Machine

/-! ### Configuration (R362) -/

def cApitch (w : Word) : Nat := fld w 63 54 * 64
def cBpitch (w : Word) : Nat := fld w 53 44 * 64
def cAnchor (w : Word) : Int := sext 10 (fld w 43 34)
def cAfmt (w : Word) : Nat := fld w 33 29
def cBfmt (w : Word) : Nat := fld w 28 24
def cOfmt (w : Word) : Nat := fld w 23 19
def cRm (w : Word) : Nat := fld w 18 16
def cSat (w : Word) : Bool := bit w 15
def cAccm (w : Word) : Nat := fld w 14 13

/-- Bytes of a row of 64 elements. -/
def cRow (code : Nat) : Nat := elemBits code * 8

/-- A configuration word that CFG accepts. -/
def cmxCfgOk (w : Word) : Bool :=
  let opd (k : Nat) : Bool := decide (k = kBF16) || decide (k = kE4M3) || decide (k = kE5M2)
  opd (cAfmt w) && opd (cBfmt w) && decide (cAccm w ≤ 1) && decide (cRm w ≤ 5) &&
  (decide (cOfmt w ≤ kE5M2) || decide (cOfmt w = kANC80)) &&
  decide (cRow (cAfmt w) ≤ cApitch w) && decide (cRow (cBfmt w) ≤ cBpitch w) && decide (fld w 12 0 = 0)

/-! ### The context (R360) -/

def getCmx (s : Mach) (c : Nat) : Cmx := (getCore s c).cmx

def modCmx (s : Mach) (c : Nat) (f : Cmx → Cmx) : Mach := modCore s c (fun x => { x with cmx := f x.cmx })

/-- Key of an entry of an accumulator. -/
def cmxIx (acc m n : Nat) : Nat := acc * 4096 + m * 64 + n

/-- CMX_ERR records the first error; every error raises a record (R368). -/
def cmxErr (s : Mach) (c acc code : Nat) : Mach :=
  let cl := c / 8
  let v := packFlds [(18, 16, c % 8), (15, 15, acc), (7, 0, code)]
  let s := recordFirst s .CMX_ERR cl 0 v
  let die := coreDieId (coreDieOf c)
  raise s ((mkRec s 8 code 0xE (cl % 6) die 0 (die * 256 + cl % 6)).forPart (clusterPid s cl) 0)

/-- An error of the hardware poisons its entry. -/
def cmxHw (s : Mach) (c acc : Nat) (err : Option CmxHw) : Mach :=
  match err with
  | none => s
  | some e =>
    let (m, n, code) : Nat × Nat × Nat := match e with | .residue m n => (m.val, n.val, 1) | .accUe m n => (m.val, n.val, 2)
    cmxErr (modCmx s c (fun x => { x with accPois := smapPut false x.accPois (cmxIx acc m n) true })) c acc code

/-! ### Operands in memory (R363 to R365) -/

/-- The physical pieces of 64 rows at a virtual address, each checked: the first exception, or the pieces by row. -/
def cmxRows (s : Mach) (c kind base pitch row : Nat) : Except HartExc (List (List (Nat × Nat))) × Mach :=
  let m := xmode s c kind
  if base % 64 ≠ 0 then (.error { (exc (misFault kind) base) with gva := m.virt }, s)
  else (List.range 64).foldl (fun r i => match r with
    | (.error e, s) => (.error e, s)
    | (.ok l, s) =>
      let va := maskPtr s c m (add64 base (i * pitch))
      match xlatePages s c kind m va row with
      | (.error e, s) => (.error e, s)
      | (.ok ps, s) =>
        let bad := ps.any (fun p => !isMain s p.1 || !isMain s (p.1 + p.2 - 1) || !pmpOk s c m.priv kind p.1 p.2 || !prtOk s c kind p.1 p.2)
        if bad then (.error { (exc (accessFault kind) va) with gva := m.virt }, s)
        else if kind = 2 ∧ ps.any (fun p => writeLocked s (checkedAs s (c + 1) none) p.1) then
          (.error { (exc 7 va) with gva := m.virt }, physRefuse s (c + 1) (checkedAs s (c + 1) none) 0 (ps.headD (0, 0)).1 true)
        else (.ok (l ++ [ps]), s)) (.ok [], s)

/-- A row as the coherent memory has it: its number and, by 64 B piece of the row, whether its granule is poisoned. -/
def cmxReadRow (s : Mach) (ps : List (Nat × Nat)) : Nat × (Nat → Bool) :=
  let bytes := ps.flatMap (fun p => (cohBytes s p.1 p.2).1)
  let addrs := ps.flatMap (fun p => (List.range p.2).map (fun i => p.1 + i))
  (ofBytes bytes, fun i => (cohLine s (addrs.getD i 0 / 64)).2)

/-! ### Completion (R364, R368) -/

/-- CMX_COMPLETE: the oldest work of a core completes; an STA writes its rows. -/
def cmxComplete (s : Mach) (c : Nat) : Mach :=
  match (getCmx s c).work with
  | [] => s
  | w :: l =>
    let s := modCmx s c (fun x => { x with work := l })
    let resv := (getCore s c).resv
    let s := foldS w.writes (fun t p => cohWrite t p.1 p.2.1 p.2.2) s
    let s := modCore s c (fun y => { y with resv := resv })
    if w.mma = false then s
    else
      let cl := c / 8
      let s := bump s .CMX_COUNT cl 0 63 32 1
      book (bumpAo s (coreDieId (coreDieOf c)) 5 1) (6 + cl) (ownOverhead (clusterPid s cl)) 12 1

def execCmxComplete (c : CoreNo) (s : State) : Host.Outcome State Fault Refusal := onMach s (fun s => cmxComplete s c)

/-- All the work of a core completes. -/
def cmxFinish (s : Mach) (c : Nat) : Mach := foldS (getCmx s c).work (fun t _ => cmxComplete t c) s

/-- Stores not yet made are made before a later operand read of the core. -/
def cmxStores (s : Mach) (c : Nat) : Mach :=
  if (getCmx s c).work.any (fun w => !w.writes.isEmpty) then cmxFinish s c else s

/-- Work is accepted: the cluster holds at most 32, so that the oldest of one of its cores completes to make room. -/
def cmxAccept (s : Mach) (c : Nat) (w : CmxWork) : Mach :=
  let cores := (List.range 8).map (fun j => c / 8 * 8 + j)
  let n := (cores.map (fun k => (getCmx s k).work.length)).sum
  let s := if n < 32 then s
    else match cores.find? (fun k => !(getCmx s k).work.isEmpty) with | some k => cmxComplete s k | none => s
  modCmx s c (fun x => { x with work := x.work ++ [w] })

/-! ### Instructions (R361 to R365) -/

/-- CMX.MMA: every entry takes its terms in ascending k. -/
def cmxMma (s : Mach) (c acc : Nat) (ra rb : List (List (Nat × Nat))) : Mach :=
  let s := cmxStores (drainAll s c) c
  let cfg := (getCmx s c).cfg
  let a := ra.map (cmxReadRow s)
  let b := rb.map (cmxReadRow s)
  let ea := elemBits (cAfmt cfg)
  let eb := elemBits (cBfmt cfg)
  let av (m k : Nat) : Val := decodeElem (cAfmt cfg) (packedElem (cAfmt cfg) (a.getD m (0, fun _ => false)).1 k)
  let bv (k n : Nat) : Val := decodeElem (cBfmt cfg) (packedElem (cBfmt cfg) (b.getD k (0, fun _ => false)).1 n)
  let pois (m n : Nat) : Bool := (List.range 64).any (fun k =>
    (a.getD m (0, fun _ => false)).2 (k * ea / 8) || (b.getD k (0, fun _ => false)).2 (n * eb / 8))
  let step (cur : BitVec 128 × Nat) (x w : Val) : BitVec 128 × Nat :=
    if cAccm cfg = 0 then
      let q := ancAdd cur.1 (ancTerm (cAnchor cfg) (mulVal x w).1)
      (q.1, cur.2 ||| q.2)
    else
      let q := fmaVal 0 x w (decodeFloat fmtFP32 (fld cur.1 31 0))
      let o := encodeFloat fmtFP32 rne q.1
      (BitVec.ofNat 128 o.1, cur.2 ||| q.2 ||| o.2)
  let cells := (List.range 64).flatMap (fun m => (List.range 64).map (fun n => (m, n)))
  let x := cells.foldl (fun (x : Cmx) p =>
    let i := cmxIx acc p.1 p.2
    let r := (List.range 64).foldl (fun cur k => step cur (av p.1 k) (bv k p.2)) (smapGet 0 x.acc i, 0)
    let q := smapGet false x.accPois i || pois p.1 p.2
    { x with acc := smapPut 0 x.acc i r.1, accPois := smapPut false x.accPois i q, flags := x.flags ||| r.2, pois := x.pois || q }) (getCmx s c)
  cmxAccept (modCmx s c (fun _ => x)) c { mma := true, writes := [] }

/-- An entry read out to OFMT (R363): its bits and flags. -/
def cmxOut (cfg : Word) (m n : Nat) (e : BitVec 128) : Nat × Nat :=
  let r : Rnd := { rm := cRm cfg, sat := cSat cfg, seed := 0, idx := m * 64 + n }
  if cAccm cfg = 0 then ancOut (cOfmt cfg) r e
  else
    let v := decodeFloat fmtFP32 (fld e 31 0)
    if cOfmt cfg = kANC80 then ((ancTerm (cAnchor cfg) v).toNat, 0) else encodeElem (cOfmt cfg) r v

/-- CMX.STA: 64 rows of 64 elements, a poisoned granule where a poisoned entry falls into it. -/
def cmxSta (s : Mach) (c acc : Nat) (rows : List (List (Nat × Nat))) : Mach :=
  let x := getCmx s c
  let code := cOfmt x.cfg
  let eb := elemBits code
  let out := rows.zipIdx.map (fun p =>
    let es := (List.range 64).map (fun n => cmxOut x.cfg p.2 n (smapGet 0 x.acc (cmxIx acc p.2 n)))
    let ps := (List.range 64).map (fun n => smapGet false x.accPois (cmxIx acc p.2 n))
    let v := packElems code (es.map Prod.fst)
    let put := p.1.foldl (fun (q : List (Nat × List Byte × Bool) × Nat) g =>
      let ls := (lineAddrs g.1 g.2).map (fun l =>
        let lo := max g.1 l
        let hi := min (g.1 + g.2) (l + 64)
        let o := q.2 + (lo - g.1)
        let bad := (List.range 64).any (fun n => ps.getD n false && overlaps (n * eb) eb (8 * o) (8 * (hi - lo)))
        (lo, bytesOf (hi - lo) (v / 2 ^ (8 * o)), bad))
      (q.1 ++ ls, q.2 + g.2)) ([], 0)
    (put.1, es.foldl (fun f e => f ||| e.2) 0, ps.any id))
  let s := modCmx s c (fun y =>
    { y with flags := out.foldl (fun f r => f ||| r.2.1) y.flags, pois := y.pois || out.any (fun r => r.2.2) })
  cmxAccept s c { mma := false, writes := out.flatMap (fun r => r.1) }

/-- CMX.LDA: an accumulator loaded from memory; a format that is not the accumulation mode's own is converted. -/
def cmxLda (s : Mach) (c acc : Nat) (rows : List (List (Nat × Nat))) : Mach :=
  let s := cmxStores (drainAll s c) c
  let x := getCmx s c
  let code := cOfmt x.cfg
  let conv (v : Nat) : BitVec 128 × Nat :=
    if code = kANC80 then
      (if cAccm x.cfg = 0 then (BitVec.ofNat 128 v, 0) else let o := ancOut kFP32 rne (BitVec.ofNat 128 v); (BitVec.ofNat 128 o.1, o.2))
    else if cAccm x.cfg = 0 then (ancTerm (cAnchor x.cfg) (decodeFloat fmtFP32 v), 0) else (BitVec.ofNat 128 v, 0)
  let y := rows.zipIdx.foldl (fun (y : Cmx) p =>
    let r := cmxReadRow s p.1
    (List.range 64).foldl (fun (y : Cmx) n =>
      let e := conv (packedElem code r.1 n)
      let q := r.2 (n * elemBits code / 8)
      { y with acc := smapPut 0 y.acc (cmxIx acc p.2 n) e.1, accPois := smapPut false y.accPois (cmxIx acc p.2 n) q,
               flags := y.flags ||| e.2, pois := y.pois || q }) y) x
  cmxAccept (modCmx s c (fun _ => y)) c { mma := false, writes := [] }

/-- CMX.ZERO: an accumulator is empty. -/
def cmxZero (s : Mach) (c acc : Nat) : Mach :=
  modCmx s c (fun x => { x with acc := smapClear x.acc (acc * 4096) 4096, accPois := smapClear x.accPois (acc * 4096) 4096 })

/-- A CMX instruction (R361): anything else in custom-0 is illegal. -/
def cmxExec (s : Mach) (c w len : Nat) (err : Option CmxHw) : HartOut :=
  let ill : HartOut := .fail (excIllegal w) s
  let rd := iRd w
  let r1 := iRs1 w
  let r2 := iRs2 w
  let f := iF7 w
  let x := getXr s c r1
  let y := getXr s c r2
  let cfg := (getCmx s c).cfg
  let fin (t : Mach) : HartOut := .done (retire t c len)
  if iF3 w ≠ 0 ∨ ctxOff s c 15 then ill
  else if f = 0 then
    (if rd ≠ 0 ∨ r2 ≠ 0 ∨ cmxCfgOk (BitVec.ofNat 64 x) = false then ill
     else fin (ctxDirty (modCmx s c (fun q => { q with cfg := BitVec.ofNat 64 x })) c 15))
  else if f = 2 ∨ f = 3 then (if rd ≠ 0 ∨ r1 ≠ 0 ∨ r2 ≠ 0 then ill else fin (ctxDirty (cmxZero s c (f % 2)) c 15))
  else if f = 4 ∨ f = 5 then
    (if rd ≠ 0 then ill
     else match cmxRows s c 1 x (cApitch cfg) (cRow (cAfmt cfg)) with
       | (.error e, s) => .fail e s
       | (.ok ra, s) => match cmxRows s c 1 y (cBpitch cfg) (cRow (cBfmt cfg)) with
         | (.error e, s) => .fail e s
         | (.ok rb, s) => fin (cmxHw (ctxDirty (cmxMma s c (f % 2) ra rb) c 15) c (f % 2) err))
  else if f = 6 ∨ f = 7 then
    (if rd ≠ 0 then ill
     else match cmxRows s c 2 x y (cRow (cOfmt cfg)) with
       | (.error e, s) => .fail e s
       | (.ok rows, s) => fin (cmxSta (cmxHw s c (f % 2) err) c (f % 2) rows))
  else if f = 8 then
    (if r1 ≠ 0 ∨ r2 ≠ 0 then ill
     else
       let q := getCmx s c
       let v := q.flags % 2 ^ 16 + (if q.pois then 2 ^ 16 else 0)
       fin (putXr (modCmx (drainAll (sbSeal (cmxFinish s c) c) c) c (fun q => { q with flags := 0, pois := false })) c rd v))
  else if f = 0xA ∨ f = 0xB then
    (if rd ≠ 0 ∨ (cOfmt cfg ≠ kFP32 ∧ cOfmt cfg ≠ kANC80) then ill
     else match cmxRows s c 1 x y (cRow (cOfmt cfg)) with
       | (.error e, s) => .fail e s
       | (.ok rows, s) => fin (ctxDirty (cmxLda s c (f % 2) rows) c 15))
  else ill

/-- CMX_SQUASH (R366): an accepted instruction is squashed and leaves its count only. -/
def cmxSquash (s : Mach) (c : Nat) : Mach := bump s .CMX_COUNT (c / 8) 0 31 0 1

def execCmxSquash (c : CoreNo) (s : State) : Host.Outcome State Fault Refusal := onMach s (fun s => cmxSquash s c)

end Sys2Proof.Machine
end

