-- ==== Sys2Proof/Machine/CspWrite.lean ====
section
/-! DEFINITION. Control space: what a write of each register does, and the writes made with the access checks (R11 to R14,
and the register tables of the owning chapters). Writes of DBG_ACTL and DBG_DMI store their fields here; what their GO bit
starts is in DebugPort. -/

namespace Sys2Proof.Machine

open Sys2Proof.Config (acyc)

/-- A write of COH_LLCWAY.DIS by software (R350): the ways named start to be written back, unless fewer than 4 ways would
stay enabled. -/
def onLlcway (s : Mach) (h : Nat) (v : Word) : Mach :=
  let w := rg s .COH_LLCWAY h 0
  let gone := fld w 15 0 ||| fld w 31 16
  let fresh := (List.range 16).filter (fun i => bit v i && !gone.testBit i)
  if fresh.isEmpty ∨ 16 < 4 + popcount 16 gone + fresh.length then s
  else foldS fresh (fun t i => { wb t .COH_LLCWAY h 0 (16 + i) true with llcSoft := smapPut false t.llcSoft (16 * (h - 4) + i) true }) s

/-- A poke of the thread that DBG_TSEL selects (R559). -/
def onTreg (s : Mach) (b r : Nat) (v : Word) : Mach :=
  if threadOpen s b = false then s
  else
    let (e, k, l) := selThread s b
    let s := modThread s b e k l (fun t =>
      if r < 32 then t.put false r v.toNat false else if r < 64 then t.put true (r - 32) v.toNat false
      else if r = 64 then { t with pc := v.toNat } else { t with fcsr := v.toNat % 256 })
    if r = 64 ∧ (getThread s b e k l).st = .stopped then modEng s b e (fun g => { g with poked := (k, l) :: g.poked.erase (k, l) })
    else s

/-- A poke of a vector register (R560). -/
def onVwin (s : Mach) (b w : Nat) (v : Word) : Mach :=
  if isHalted s b = false ∨ (getVxe s b).flight.isEmpty = false then s
  else
    let r := rf s .DBG_VSEL b 0 5 0
    let put (x : SMap (BitVec 32)) (l n : Nat) : SMap (BitVec 32) := smapPut 0 x (128 * r + l) (BitVec.ofNat 32 n)
    modVxe s b (fun x => { x with v := put (put x.v (2 * w) (fld v 31 0)) (2 * w + 1) (fld v 63 32) })

/-- A write of CNT_SELk (R569). -/
def onCntSel (s : Mach) (b k : Nat) (v : Word) : Mach :=
  if 0x1A ≤ fld v 7 0 then s else wr (syncCnt s b) .CNT_SEL b k (packFlds [(63, 63, fld v 63 63), (57, 48, fld v 57 48), (7, 0, fld v 7 0)])

/-- A word of an IDE key window (R606, R607): while IDE is enabled it is ignored. -/
def onIdeKey (s : Mach) (q i : Nat) (v : Word) : Mach :=
  if rb s .PCI_IDECTL q (i / 8) 8 then s else { s with ideKeys := smapPut 0 s.ideKeys (2048 * q + i) v }

/-- An ordinary write: RW fields take the value, W1C fields clear and W1S fields set where it has a 1 (R11). -/
def plainWrite (s : Mach) (r : RegRef) (v : Word) : Mach :=
  let i := r.name.info
  let old := rg s r.name r.unit r.idx
  let rw := i.mask .rw
  let new := ((old &&& ~~~ rw) ||| (v &&& rw)) &&& ~~~ (v &&& i.mask .w1c)
  wr s r.name r.unit r.idx (new ||| (v &&& i.mask .w1s))

/-- The effect of a write of the 8 bytes of a register by a master; `w4` when the access was of 4 bytes. -/
def regWrite (s : Mach) (mid : Nat) (r : RegRef) (w4 : Bool) (v : Word) : Mach :=
  let u := r.unit
  let i := r.idx
  match r.name with
  | .ALM_CTL => onAlmCtl s v
  | .SEQ_ROTA_CTL => onRotaCtl s u v
  | .SEQ_ROTA_START | .SEQ_ROTA_CUR => if isLead s u then plainWrite s r v else s
  | .SEQ_ROTA_A => onRotaA s u i v
  | .SEQ_ROTA_B => onRotaB s u i v
  | .SEQ_TOKSIG => onToksig s u v
  | .VXE_TFVIEW => modBay s u (fun x =>
      let t := rf s .VXE_TFSEL u 0 9 0
      let keep := smapGet 0 x.tflags t &&& (0xFFFF ^^^ fld v 15 0)
      { x with tflags := smapPut 0 x.tflags t keep })
  | .SEM_ARRAY => onSemArray s u i v
  | .SEM_POOL => onSemPool s u i v
  | .SEM_XFER_CTL => onSemXfer s u v
  | .LFT_SPLIT => onLftSplit s u v
  | .LFT_CCTL => onLftCctl s u v
  | .GRN_SHR_A => onShrA s (u / 3) i v
  | .GRN_SHR_B => plainWrite s { r with unit := 0 } v
  | .MOV_BSUB => onMovBsub s mid u v
  | .ETR_INV_CTL => onInvCtl s u v
  | .ETR_PFRESP => onPfresp s mid v
  | .ETR_PFRING => plainWrite s { r with unit := 0 } v
  | .COH_LLCWAY => onLlcway s u v
  | .VK_CTL => onVkCtl s u v
  | .PRT_TEN_A => onTenA s mid i v
  | .PRT_TEN_B => onTenB s i v
  | .PRT_TEN_C => onTenC s i v
  | .SEC_REKEY => onRekey s v
  | .SEC_DBG_CTL => onDbgCtl s v
  | .SEC_DBG_TOKEN => wr s .SEC_DBG_TOKEN u i v
  | .RNG_DB_PROD => onDbProd s mid u w4 v
  | .RNG_DB_CONS => onDbCons s u v
  | .RNG_CTL => onRngCtl s u v
  | .RNG_CFG => onRngCfg s u v
  | .RNG_BASE => onRngBase s u v
  | .PWR_PPL => onPpl s v
  | .PWR_SURGE => onSurge s v
  | .PWR_CFG => onPwrCfg s v
  | .PWR_GRP => onPwrGrp s v
  | .PWR_LCFG => onLcfg s u v
  | .FLT_LOGCTL => onLogctl s v
  | .FLT_CFG => onFltCfg s v
  | .FLT_RST => onFltRst s v
  | .FLT_PRST => onFltPrst s v
  | .DBG_BCTL => onBctl s u v
  | .DBG_TREG => onTreg s u i v
  | .DBG_VWIN => onVwin s u i v
  | .DBG_PHALT => onPhalt s v
  | .TRC_BASE => onTrcBase s v
  | .TRC_CFG => onTrcCfg s v
  | .TRC_CTL => onTrcCtl s v
  | .TRC_TRIG => onTrcTrig s v
  | .TRC_TRIGMARK => onTrcTrigmark s v
  | .TRC_TRIGAT => onTrcTrigat s v
  | .CNT_SEL => onCntSel s u i v
  | .CNT_EV => wr (syncCnt s u) .CNT_EV u i v
  | .CNT_SNAPCTL => onSnapctl s v
  | .PCI_IDEKEY => onIdeKey s u i v
  | _ => plainWrite s r v

/-- Registers whose fields act together, so that R13 allows an access of 8 bytes only (R103, R260, R335). -/
def only8 : RegName → Bool
  | .SEQ_TOKSIG | .SEM_ARRAY | .ETR_PFRESP => true
  | _ => false

/-- The 8 bytes that a write of `size` bytes gives a register: the other half of a 4-byte write keeps what its RW fields
hold, with 0 in every other field. -/
def widen (s : Mach) (r : RegRef) (off size : Nat) (v : Word) : Word :=
  if size = 8 then v
  else
    let m := halfMask off size
    let x := if off % 8 = 0 then v &&& m else (v <<< 32)
    let old := match r.name with
      | .PRT_TEN_B => stagedB s r.idx
      | .PRT_TEN_C => stagedC s r.idx
      | _ => regView s r &&& r.name.info.mask .rw
    x ||| (old &&& ~~~ m)

/-- A write by a master, with its checks, and the effect of the write itself as the caller has it. -/
def cspWriteBy (act : Mach → RegRef → Bool → Word → Mach) (s : Mach) (mid off size : Nat) (v : Word) : CspRes × Mach :=
  let full := match regAt off with
    | some (_, _, some r) => widen s r off size v
    | _ => v
  match cspEnter s mid off size (some full) with
  | .error e => (e, cspEnd s mid off e)
  | .ok (b, u, r) =>
    if blkPresent s b u = false then (.ok, s)
    else
      match r with
      | none => (.ok, s)
      | some r =>
        if size = 4 ∧ only8 r.name = true then (.error, cspEnd s mid off .error)
        else (.ok, act (settleBlk s b u) r (decide (size = 4)) full)

/-- A write by a master. -/
def cspWriteBase (s : Mach) (mid off size : Nat) (v : Word) : CspRes × Mach :=
  cspWriteBy (fun s r w4 v => regWrite s mid r w4 v) s mid off size v

/-! ### The rows that are a write of one register

Each is the 8-byte write of its register by the master named, with every check that a write meets. -/

/-- A write of a register by a master. -/
def writeReg (s : Mach) (mid : Nat) (n : RegName) (u i : Nat) (v : Word) : Mach :=
  let (e, t) := cspWriteBase s mid (RegRef.addr { name := n, unit := u, idx := i }) 8 v
  { t with cspOut := (e.code, 0) }

def execFltRstPackage (mid : Mid) (val : Word) (s : State) : Host.Outcome State Fault Refusal := onMach s (fun s => writeReg s mid .FLT_RST 0 0 val)
def execFltRstDieRst (mid : Mid) (val : Word) (s : State) : Host.Outcome State Fault Refusal := onMach s (fun s => writeReg s mid .FLT_RST 0 0 val)
def execFltPrstAssert (mid : Mid) (val : Word) (s : State) : Host.Outcome State Fault Refusal := onMach s (fun s => writeReg s mid .FLT_PRST 0 0 val)
def execFltPrstRelease (mid : Mid) (val : Word) (s : State) : Host.Outcome State Fault Refusal := onMach s (fun s => writeReg s mid .FLT_PRST 0 0 val)
def execStepArm (mid : Mid) (val : Word) (s : State) : Host.Outcome State Fault Refusal := onMach s (fun s => writeReg s mid .ALM_CTL 0 0 val)
def execReacquire (mid : Mid) (val : Word) (s : State) : Host.Outcome State Fault Refusal := onMach s (fun s => writeReg s mid .ALM_CTL 0 0 val)
def execSeqRotaCtlEnable (mid : Mid) (b : BayNo) (val : Word) (s : State) : Host.Outcome State Fault Refusal :=
  onMach s (fun s => writeReg s mid .SEQ_ROTA_CTL b 0 val)
def execSeqRotaCtlStop (mid : Mid) (b : BayNo) (val : Word) (s : State) : Host.Outcome State Fault Refusal :=
  onMach s (fun s => writeReg s mid .SEQ_ROTA_CTL b 0 val)
def execSeqRotaCtlAbort (mid : Mid) (b : BayNo) (val : Word) (s : State) : Host.Outcome State Fault Refusal :=
  onMach s (fun s => writeReg s mid .SEQ_ROTA_CTL b 0 val)
/-- ROTA_ENTRY_WRITE: the word A of an entry. Word B is written as an ordinary register. -/
def execRotaEntryWrite (mid : Mid) (b : BayNo) (n : Fin 64) (val : Word) (s : State) : Host.Outcome State Fault Refusal :=
  onMach s (fun s => writeReg s mid .SEQ_ROTA_A b n val)
def execSeqToksigWrite (mid : Mid) (b : BayNo) (val : Word) (s : State) : Host.Outcome State Fault Refusal :=
  onMach s (fun s => writeReg s mid .SEQ_TOKSIG b 0 val)

/-- The value of a write of an array entry (R260). -/
def semWord (op : Nat) (n : BitVec 32) : Word := packFlds [(63, 62, op), (31, 0, n.toNat)]

def execSemArraySet (mid : Mid) (b : BayNo) (i : Fin 2048) (n : BitVec 32) (s : State) : Host.Outcome State Fault Refusal :=
  onMach s (fun s => writeReg s mid .SEM_ARRAY b i (semWord 0 n))
def execSemArrayAdd (mid : Mid) (b : BayNo) (i : Fin 2048) (n : BitVec 32) (s : State) : Host.Outcome State Fault Refusal :=
  onMach s (fun s => writeReg s mid .SEM_ARRAY b i (semWord 1 n))
def execSemArraySub (mid : Mid) (b : BayNo) (i : Fin 2048) (n : BitVec 32) (s : State) : Host.Outcome State Fault Refusal :=
  onMach s (fun s => writeReg s mid .SEM_ARRAY b i (semWord 2 n))
def execSemPoolWrite (mid : Mid) (b : BayNo) (k : Fin 64) (val : Word) (s : State) : Host.Outcome State Fault Refusal :=
  onMach s (fun s => writeReg s mid .SEM_POOL b k val)
def execSemXferSave (mid : Mid) (b : BayNo) (val : Word) (s : State) : Host.Outcome State Fault Refusal :=
  onMach s (fun s => writeReg s mid .SEM_XFER_CTL b 0 val)
def execSemXferLoad (mid : Mid) (b : BayNo) (val : Word) (s : State) : Host.Outcome State Fault Refusal :=
  onMach s (fun s => writeReg s mid .SEM_XFER_CTL b 0 val)
def execLftSplitWrite (mid : Mid) (b : BayNo) (val : Word) (s : State) : Host.Outcome State Fault Refusal :=
  onMach s (fun s => writeReg s mid .LFT_SPLIT b 0 val)
def execLftCctlFlush (mid : Mid) (b : BayNo) (val : Word) (s : State) : Host.Outcome State Fault Refusal :=
  onMach s (fun s => writeReg s mid .LFT_CCTL b 0 val)
def execLftCctlEnable (mid : Mid) (b : BayNo) (val : Word) (s : State) : Host.Outcome State Fault Refusal :=
  onMach s (fun s => writeReg s mid .LFT_CCTL b 0 val)
/-- SHARED_REGION_WRITE: word A of an entry, in the stack-0 block of a barn die. Word B is an ordinary register. -/
def execSharedRegionWrite (mid : Mid) (barn : Fin 4) (n : Fin 32) (val : Word) (s : State) : Host.Outcome State Fault Refusal :=
  onMach s (fun s => writeReg s mid .GRN_SHR_A (3 * barn.val) n val)
def execMovBsub (mid : Mid) (barn : Fin 4) (val : Word) (s : State) : Host.Outcome State Fault Refusal :=
  onMach s (fun s => writeReg s mid .MOV_BSUB barn 0 val)
def execEtrPfrespRetry (mid : Mid) (die : CompDie) (val : Word) (s : State) : Host.Outcome State Fault Refusal :=
  onMach s (fun s => writeReg s mid .ETR_PFRESP die 0 val)
def execEtrPfrespAbort (mid : Mid) (die : CompDie) (val : Word) (s : State) : Host.Outcome State Fault Refusal :=
  onMach s (fun s => writeReg s mid .ETR_PFRESP die 0 val)
def execInvalidateAll (mid : Mid) (die : CompDie) (val : Word) (s : State) : Host.Outcome State Fault Refusal :=
  onMach s (fun s => writeReg s mid .ETR_INV_CTL die 0 val)
def execInvalidateTid (mid : Mid) (die : CompDie) (val : Word) (s : State) : Host.Outcome State Fault Refusal :=
  onMach s (fun s => writeReg s mid .ETR_INV_CTL die 0 val)
def execInvalidateRange (mid : Mid) (die : CompDie) (val : Word) (s : State) : Host.Outcome State Fault Refusal :=
  onMach s (fun s => writeReg s mid .ETR_INV_CTL die 0 val)
def execCohLlcwayDisWrite (mid : Mid) (d : Fin 2) (val : Word) (s : State) : Host.Outcome State Fault Refusal :=
  onMach s (fun s => writeReg s mid .COH_LLCWAY (4 + d.val) 0 val)
def execVkCtlRetrain (mid : Mid) (p : PortNo) (val : Word) (s : State) : Host.Outcome State Fault Refusal :=
  onMach s (fun s => writeReg s mid .VK_CTL p 0 val)
def execVkCtlEnable (mid : Mid) (p : PortNo) (val : Word) (s : State) : Host.Outcome State Fault Refusal :=
  onMach s (fun s => writeReg s mid .VK_CTL p 0 val)
def execTenantCommit (mid : Mid) (t : Fin 1024) (val : Word) (s : State) : Host.Outcome State Fault Refusal :=
  onMach s (fun s => writeReg s mid .PRT_TEN_A 0 t val)
def execRekey (mid : Mid) (val : Word) (s : State) : Host.Outcome State Fault Refusal := onMach s (fun s => writeReg s mid .SEC_REKEY 0 0 val)
def execRngDbProd (mid : Mid) (r : RingNo) (w4 : Bool) (val : Word) (s : State) : Host.Outcome State Fault Refusal :=
  onMach s (fun s =>
    let (e, t) := cspWriteBase s mid (RegRef.addr { name := .RNG_DB_PROD, unit := r, idx := 0 }) (if w4 then 4 else 8) val
    { t with cspOut := (e.code, 0) })
def execRngDbCons (mid : Mid) (r : RingNo) (val : Word) (s : State) : Host.Outcome State Fault Refusal :=
  onMach s (fun s => writeReg s mid .RNG_DB_CONS r 0 val)
def execFlush (mid : Mid) (r : RingNo) (val : Word) (s : State) : Host.Outcome State Fault Refusal := onMach s (fun s => writeReg s mid .RNG_CTL r 0 val)
def execDiscard (mid : Mid) (r : RingNo) (val : Word) (s : State) : Host.Outcome State Fault Refusal := onMach s (fun s => writeReg s mid .RNG_CTL r 0 val)
def execRngCfgWrite (mid : Mid) (r : RingNo) (val : Word) (s : State) : Host.Outcome State Fault Refusal :=
  onMach s (fun s => writeReg s mid .RNG_CFG r 0 val)
def execPplWWrite (mid : Mid) (val : Word) (s : State) : Host.Outcome State Fault Refusal := onMach s (fun s => writeReg s mid .PWR_PPL 0 0 val)
def execAgeWrite (mid : Mid) (val : Word) (s : State) : Host.Outcome State Fault Refusal := onMach s (fun s => writeReg s mid .PWR_CFG 0 0 val)
def execFltLogctlTailWrite (mid : Mid) (val : Word) (s : State) : Host.Outcome State Fault Refusal :=
  onMach s (fun s => writeReg s mid .FLT_LOGCTL 0 0 val)
def execSnapshotArm (mid : Mid) (val : Word) (s : State) : Host.Outcome State Fault Refusal := onMach s (fun s => writeReg s mid .CNT_SNAPCTL 0 0 val)
def execIdeKeyWrite (mid : Mid) (q : Fin 4) (i : Fin 32) (val : Word) (s : State) : Host.Outcome State Fault Refusal :=
  onMach s (fun s => writeReg s mid .PCI_IDEKEY q i val)

/-! ### Writes that a debug requester makes (R551) -/

/-- A write of a hub register by a debug requester: from a core it is a write with its checks, from JTAG or management it
comes over the hub's own path. -/
def requesterWrite (s : Mach) (q : Requester) (n : RegName) (u : Nat) (act : Mach → Mach) (v : Word) : Mach :=
  let off := RegRef.addr { name := n, unit := u, idx := 0 }
  let mid := match q with | .core c => c.val + 1 | _ => 0
  if mid = 0 then if isDone s = false then { s with cspOut := (3, 0) } else { act (settleBlk s n.info.blk u) with cspOut := (0, 0) }
  else
    let (e, t) := cspWriteBy (fun s _ _ _ => act s) s mid off 8 v
    { t with cspOut := (e.code, 0) }

/-- SUBMIT: a debug token is submitted. Before bring-up completes JTAG and management are answered LOCKED_OUT (R478); a core
meets the busy error of R16. -/
def execSubmit (q : Requester) (val : Word) (s : State) : Host.Outcome State Fault Refusal :=
  onMach s (fun s =>
    if isDone s = false ∧ (q = .jtag ∨ q = .mgmt) then { onDbgCtl s val with cspOut := (0, 0) }
    else requesterWrite s q .SEC_DBG_CTL 0 (onDbgCtl · val) val)
def execRevoke (q : Requester) (val : Word) (s : State) : Host.Outcome State Fault Refusal :=
  onMach s (fun s => requesterWrite s q .SEC_DBG_CTL 0 (onDbgCtl · val) val)
def execPartitionHalt (q : Requester) (val : Word) (s : State) : Host.Outcome State Fault Refusal :=
  onMach s (fun s => requesterWrite s q .DBG_PHALT 0 (onPhalt · val) val)
def execPartitionResume (q : Requester) (val : Word) (s : State) : Host.Outcome State Fault Refusal :=
  onMach s (fun s => requesterWrite s q .DBG_PHALT 0 (onPhalt · val) val)
/-- TRESUME: from JTAG or management it is a poke of a bay block, so that it needs INVASIVE (R551). -/
def execTresume (q : Requester) (b : BayNo) (val : Word) (s : State) : Host.Outcome State Fault Refusal :=
  onMach s (fun s =>
    let may := match q with | .core _ => true | _ => (bayPid s b).any (grantInv s)
    requesterWrite s q .DBG_BCTL b (fun t => if may then onBctl t b val else t) val)
def execTrcCtlTrigger (q : Requester) (val : Word) (s : State) : Host.Outcome State Fault Refusal :=
  onMach s (fun s => requesterWrite s q .TRC_CTL 0 (onTrcCtl · val) val)
def execTrcCtlStop (q : Requester) (val : Word) (s : State) : Host.Outcome State Fault Refusal :=
  onMach s (fun s => requesterWrite s q .TRC_CTL 0 (onTrcCtl · val) val)
def execTrcCfgEnable (q : Requester) (val : Word) (s : State) : Host.Outcome State Fault Refusal :=
  onMach s (fun s => requesterWrite s q .TRC_CFG 0 (onTrcCfg · val) val)

end Sys2Proof.Machine
end

