-- ==== Sys2Proof/Machine/HartVec.lean ====
section
/-! DEFINITION. The vector extension of the host cores at VLEN = 256 and ELEN = 64 (R339): configuration, loads and stores, integer,
mask, permutation and floating-point arithmetic. Where an instruction leaves tail or masked-off elements agnostic, they keep
their values. The results of the fixed-point, narrowing-clip, conversion and estimate instructions are free values. -/

namespace Sys2Proof.Machine

/-! ### Type and registers -/

/-- LMUL in eighths by its code; none for the reserved code. -/
def lmul8 (vtype : Word) : Option Nat :=
  match fld vtype 2 0 with
  | 0 => some 8 | 1 => some 16 | 2 => some 32 | 3 => some 64 | 5 => some 1 | 6 => some 2 | 7 => some 4 | _ => none

def sewOf (vtype : Word) : Nat := 8 * 2 ^ fld vtype 5 3

/-- Whether a vtype is one that the hart supports. -/
def vtypeOk (v : Word) : Bool :=
  match lmul8 v with
  | some l => decide (fld v 63 8 = 0) && decide (fld v 5 3 ≤ 3) && decide (sewOf v * 8 ≤ l * 64)
  | none => false

def vlmax (v : Word) : Nat := (lmul8 v).getD 8 * 32 / sewOf v

/-- Element `i` of `eew` bits of the group that begins at register `r`. -/
def vGet (s : Mach) (c r eew i : Nat) : Nat :=
  let p := i * eew
  fld (smapGet 0 (getCore s c).v (r + p / 256)) (p % 256 + eew - 1) (p % 256)

def vPut (s : Mach) (c r eew i v : Nat) : Mach :=
  let p := i * eew
  modCore s c (fun x =>
    let k := r + p / 256
    { x with v := smapPut 0 x.v k (setFld (smapGet 0 x.v k) (p % 256 + eew - 1) (p % 256) v) })

def vBit (s : Mach) (c r i : Nat) : Bool := bit (smapGet 0 (getCore s c).v r) i

def vPutBit (s : Mach) (c r i : Nat) (b : Bool) : Mach :=
  modCore s c (fun x => { x with v := smapPut 0 x.v r (setBit (smapGet 0 x.v r) i b) })

def vlOf (s : Mach) (c : Nat) : Nat := (csrOf s c 0xC20).toNat
def vstartOf (s : Mach) (c : Nat) : Nat := (csrOf s c 0x008).toNat

/-- The end of a vector instruction: vstart is 0 and the context is dirty. -/
def vDone (s : Mach) (c len : Nat) : HartOut := .done (retire (ctxDirty (setCsr s c 0x008 0) c 9) c len)

/-- Elements that an instruction works on: from vstart to vl, unmasked. -/
def vActive (s : Mach) (c w : Nat) : List Nat :=
  (List.range (vlOf s c)).filter (fun i => decide (vstartOf s c ≤ i) && (decide (w / 2 ^ 25 % 2 = 1) || vBit s c 0 i))

/-- Registers of a group whose length is given in eighths of a register. -/
def groupRegs (m8 : Nat) : Nat := max 1 (m8 / 8)

/-- Whether a group may begin at a register. -/
def groupOk (r m8 : Nat) : Bool := decide (1 ≤ m8) && decide (m8 ≤ 64) && decide (r % groupRegs m8 = 0)

/-! ### Configuration -/

/-- VSETVLI, VSETIVLI and VSETVL. -/
def vSetvl (s : Mach) (c w len : Nat) : HartOut :=
  let rd := iRd w
  let imm := decide (w / 2 ^ 30 = 3)
  let byReg := decide (w / 2 ^ 31 = 1) && !imm
  if byReg ∧ iF7 w ≠ 0x40 then .fail (excIllegal w) s
  else
    let t : Word := if imm then BitVec.ofNat 64 (w / 2 ^ 20 % 2 ^ 10) else if byReg then BitVec.ofNat 64 (getXr s c (iRs2 w)) else BitVec.ofNat 64 (w / 2 ^ 20 % 2 ^ 11)
    let ok := vtypeOk t
    let m := vlmax t
    let avl := if imm then iRs1 w else if iRs1 w ≠ 0 then getXr s c (iRs1 w) else if rd ≠ 0 then m else vlOf s c
    let vl := if ok then min avl m else 0
    let s := setCsr (setCsr s c 0xC21 (if ok then t else 2 ^ 63)) c 0xC20 (BitVec.ofNat 64 vl)
    vDone (putXr s c rd vl) c len

/-! ### Loads and stores -/

/-- One element access of a vector load or store: element number, register and index in it, bits and address. -/
structure VAcc where
  el : Nat
  reg : Nat
  idx : Nat
  eew : Nat
  addr : Nat
  deriving DecidableEq, Repr

/-- The accesses run in order; at an exception vstart names the element. -/
def vRunMem (io : CspIo) (s : Mach) (c len : Nat) (storeOp ff : Bool) (l : List VAcc) : HartOut :=
  let r := l.foldl (fun (r : Except (HartExc × Nat) Unit × Mach) a =>
    match r with
    | (.error e, s) => (.error e, s)
    | (.ok _, s) =>
      if storeOp then
        match hartStore io s c (xmode s c 2) a.addr (a.eew / 8) (vGet s c a.reg a.eew a.idx) with
        | (.error e, s) => (.error (e, a.el), s)
        | (.ok _, s) => (.ok (), s)
      else match hartLoad s c 1 (xmode s c 1) a.addr (a.eew / 8) with
        | (.error e, s) => (.error (e, a.el), s)
        | (.ok v, s) => (.ok (), vPut s c a.reg a.eew a.idx v)) (.ok (), s)
  match r with
  | (.ok _, s) => vDone s c len
  | (.error (e, i), s) =>
    if ff ∧ 0 < i then vDone (setCsr s c 0xC20 (BitVec.ofNat 64 i)) c len
    else .fail e (setCsr s c 0x008 (BitVec.ofNat 64 i))

/-- A vector load or store. -/
def vMem (io : CspIo) (s : Mach) (c w len : Nat) : HartOut :=
  let storeOp := decide (iOp w = 0x27)
  let wid := match iF3 w with | 0 => 8 | 5 => 16 | 6 => 32 | _ => 64
  let vd := iRd w
  let nf := w / 2 ^ 29 % 8 + 1
  let mop := w / 2 ^ 26 % 4
  let um := iRs2 w
  let base := getXr s c (iRs1 w)
  let t := csrOf s c 0xC21
  let ill : HartOut := .fail (excIllegal w) s
  let l8 := (lmul8 t).getD 8
  let sew := sewOf t
  if w / 2 ^ 28 % 2 = 1 then ill
  else if mop = 0 ∧ um = 8 then
    -- whole registers
    if w / 2 ^ 25 % 2 = 0 ∨ ¬(nf = 1 ∨ nf = 2 ∨ nf = 4 ∨ nf = 8) ∨ vd % nf ≠ 0 ∨ (storeOp ∧ wid ≠ 8) then ill
    else
      let n := nf * 256 / wid
      vRunMem io s c len storeOp false (((List.range n).filter (fun i => decide (vstartOf s c ≤ i))).map (fun i =>
        { el := i, reg := vd, idx := i, eew := wid, addr := add64 base (i * wid / 8) }))
  else if bit t 63 then ill
  else if mop = 0 ∧ um = 0x0B then
    if w / 2 ^ 25 % 2 = 0 ∨ nf ≠ 1 ∨ wid ≠ 8 then ill
    else vRunMem io s c len storeOp false (((List.range (ceilDiv (vlOf s c) 8)).filter (fun i => decide (vstartOf s c ≤ i))).map (fun i =>
      { el := i, reg := vd, idx := i, eew := 8, addr := add64 base i }))
  else if mop = 0 ∧ um ≠ 0 ∧ ¬(um = 0x10 ∧ storeOp = false) then ill
  else
    let idxed := decide (mop % 2 = 1)
    let eew := if idxed then sew else wid
    let m8 := if idxed then l8 else wid * l8 / sew
    let i8 := wid * l8 / sew
    if groupOk vd m8 = false ∨ 64 < nf * max 8 m8 ∨ 32 < vd + nf * groupRegs m8 ∨ (idxed ∧ groupOk um i8 = false) ∨
        (w / 2 ^ 25 % 2 = 0 ∧ vd = 0 ∧ storeOp = false) then ill
    else
      let stride := if mop = 2 then getXr s c um else nf * eew / 8
      let l := (vActive s c w).flatMap (fun i => (List.range nf).map (fun f =>
        let off := if idxed then vGet s c um wid i else i * stride
        { el := i, reg := vd + f * groupRegs m8, idx := i, eew := eew, addr := add64 base (off + f * eew / 8) : VAcc }))
      vRunMem io s c len storeOp (decide (mop = 0 ∧ um = 0x10)) l

/-! ### Arithmetic on elements -/

/-- Single-width integer instructions of OPIVV, OPIVX and OPIVI: `a` from vs2, `b` from vs1, x[rs1] or the immediate. -/
def vIntOp (f n a b : Nat) : Option Nat :=
  let m := 2 ^ n
  let k := b % n
  match f with
  | 0x00 => some ((a + b) % m)
  | 0x01 => some (a &&& (m - 1 - b % m))
  | 0x02 => some ((a + m - b % m) % m)
  | 0x03 => some ((b % m + m - a) % m)
  | 0x04 => some (min a (b % m))
  | 0x05 => some (if sext n a < sext n (b % m) then a else b % m)
  | 0x06 => some (max a (b % m))
  | 0x07 => some (if sext n a < sext n (b % m) then b % m else a)
  | 0x09 => some (a &&& b % m)
  | 0x0A => some (a ||| b % m)
  | 0x0B => some (a ^^^ b % m)
  | 0x14 => some (ror n a k)
  | 0x15 => some (rol n a k)
  | 0x25 => some (a * 2 ^ k % m)
  | 0x28 => some (a / 2 ^ k)
  | 0x29 => some (sra n a k)
  | _ => none

/-- Comparisons, which write a mask. -/
def vCmpOp (f n a b : Nat) : Option Bool :=
  let b := b % 2 ^ n
  match f with
  | 0x18 => some (decide (a = b))
  | 0x19 => some (decide (a ≠ b))
  | 0x1A => some (decide (a < b))
  | 0x1B => some (decide (sext n a < sext n b))
  | 0x1C => some (decide (a ≤ b))
  | 0x1D => some (decide (sext n a ≤ sext n b))
  | 0x1E => some (decide (b < a))
  | 0x1F => some (decide (sext n b < sext n a))
  | _ => none

/-- Multiplications, divisions and multiply-adds of OPMVV and OPMVX: `d` is the old destination. -/
def vMulOp (f n a b d : Nat) : Option Nat :=
  let m := 2 ^ n
  let sub (x y : Nat) : Nat := (x % m + m - y % m) % m
  match f with
  | 0x20 => some (mulDiv n 5 a b)
  | 0x21 => some (mulDiv n 4 a b)
  | 0x22 => some (mulDiv n 7 a b)
  | 0x23 => some (mulDiv n 6 a b)
  | 0x24 => some (mulDiv n 3 a b)
  | 0x25 => some (mulDiv n 0 a b)
  | 0x26 => some (mulDiv n 2 a b)
  | 0x27 => some (mulDiv n 1 a b)
  | 0x29 => some ((d * b + a) % m)
  | 0x2B => some (sub a (d * b))
  | 0x2D => some ((d + a * b) % m)
  | 0x2F => some (sub d (a * b))
  | _ => none

/-- Widening instructions of OPMVV and OPMVX: the result of 2n bits. `wa` says that vs2 is 2n bits wide already. -/
def vWideOp (f n a b d : Nat) : Option Nat :=
  let m := 2 ^ (2 * n)
  let z (x : Nat) : Nat := x % 2 ^ n
  let g (x : Nat) : Nat := ofSigned (2 * n) (sext n (z x))
  match f with
  | 0x30 => some ((z a + z b) % m)
  | 0x31 => some ((g a + g b) % m)
  | 0x32 => some ((z a + m - z b) % m)
  | 0x33 => some ((g a + m - g b) % m)
  | 0x34 => some ((a + z b) % m)
  | 0x35 => some ((a + g b) % m)
  | 0x36 => some ((a + m - z b) % m)
  | 0x37 => some ((a + m - g b) % m)
  | 0x38 => some (z a * z b % m)
  | 0x3A => some (g a * z b % m)
  | 0x3B => some (g a * g b % m)
  | 0x3C => some ((d + z a * z b) % m)
  | 0x3D => some ((d + g a * g b) % m)
  | 0x3E => some ((d + g a * z b) % m)
  | 0x3F => some ((d + z a * g b) % m)
  | _ => none

/-- Reductions: the running value with one element. -/
def vRedOp (f n acc a : Nat) : Option Nat :=
  match f with
  | 0 => some ((acc + a) % 2 ^ n)
  | 1 => some (acc &&& a)
  | 2 => some (acc ||| a)
  | 3 => some (acc ^^^ a)
  | 4 => some (min acc a)
  | 5 => some (if sext n a < sext n acc then a else acc)
  | 6 => some (max acc a)
  | 7 => some (if sext n acc < sext n a then a else acc)
  | _ => none

/-- The format of an element for floating point. -/
def vFpKind (n : Nat) : Nat := if n = 32 then 0 else if n = 64 then 1 else 2

/-- Floating-point instructions of OPFVV and OPFVF on elements held as bits; answers bits and flags. -/
def vFpOp (f k : Nat) (r : Rnd) (a b d : Nat) : Option (Nat × Nat) :=
  let fm := fpFmt k
  let v (x : Nat) : Val := decodeFloat fm (x % 2 ^ fpBits k)
  let out (q : Val × Nat) : Option (Nat × Nat) := let e := encodeFloat fm r q.1; some (e.1, q.2 ||| e.2)
  let bx (x : Nat) : Nat := fpBox k x
  let sb : Nat := 2 ^ (fpBits k - 1)
  match f with
  | 0x00 => out (addVal r.rm (v a) (v b))
  | 0x02 => out (addVal r.rm (v a) (v b).negate)
  | 0x27 => out (addVal r.rm (v b) (v a).negate)
  | 0x04 => some (fpMinMax k false false (bx a) (bx b))
  | 0x06 => some (fpMinMax k true false (bx a) (bx b))
  | 0x08 => some (a % sb + b / sb % 2 * sb, 0)
  | 0x09 => some (a % sb + (1 - b / sb % 2) * sb, 0)
  | 0x0A => some (a % sb + (a / sb + b / sb) % 2 * sb, 0)
  | 0x20 => out (divVal (v a) (v b))
  | 0x21 => out (divVal (v b) (v a))
  | 0x24 => out (mulVal (v a) (v b))
  | 0x28 => out (fmaVal r.rm (v d) (v b) (v a))
  | 0x29 => out (fmaVal r.rm (v d).negate (v b) (v a).negate)
  | 0x2A => out (fmaVal r.rm (v d) (v b) (v a).negate)
  | 0x2B => out (fmaVal r.rm (v d).negate (v b) (v a))
  | 0x2C => out (fmaVal r.rm (v a) (v b) (v d))
  | 0x2D => out (fmaVal r.rm (v a).negate (v b) (v d).negate)
  | 0x2E => out (fmaVal r.rm (v a) (v b) (v d).negate)
  | 0x2F => out (fmaVal r.rm (v a).negate (v b) (v d))
  | _ => none

def vFpCmp (f k a b : Nat) : Option (Bool × Nat) :=
  let c (g x y : Nat) : Bool × Nat := let q := fpCmp k g (fpBox k x) (fpBox k y); (decide (q.1 = 1), q.2)
  match f with
  | 0x18 => some (c 2 a b)
  | 0x19 => some (c 0 a b)
  | 0x1B => some (c 1 a b)
  | 0x1C => some (let q := c 2 a b; (!q.1, q.2))
  | 0x1D => some (c 1 b a)
  | 0x1F => some (c 0 b a)
  | _ => none

/-! ### Arithmetic instructions -/

/-- Elements written one by one: `g i` is the value of element `i`. -/
def vEach (s : Mach) (c vd n : Nat) (l : List Nat) (g : Nat → Nat) : Mach :=
  l.foldl (fun t i => vPut t c vd n i (g i % 2 ^ n)) s

def vEachBit (s : Mach) (c vd : Nat) (l : List Nat) (g : Nat → Bool) : Mach := l.foldl (fun t i => vPutBit t c vd i (g i)) s

/-- Elements written with free values. -/
def vFree (s : Mach) (c vd n : Nat) (l : List Nat) : Mach :=
  l.foldl (fun t i => let (v, t) := drawWord t; vPut t c vd n i (v.toNat % 2 ^ n)) s

/-- OPIVV, OPIVX, OPIVI beyond the plain ones: carries, merges, gathers, slides, saturating and narrowing forms. -/
def vIntRest (s : Mach) (c w len f n : Nat) (b : Nat → Nat) (x : Nat) : HartOut :=
  let vd := iRd w
  let v2 := iRs2 w
  let vm := decide (w / 2 ^ 25 % 2 = 1)
  let act := vActive s c w
  let body := (List.range (vlOf s c)).filter (fun i => decide (vstartOf s c ≤ i))
  let a (i : Nat) : Nat := vGet s c v2 n i
  let m := 2 ^ n
  let car (i : Nat) : Nat := (vBit s c 0 i).toNat
  let ill : HartOut := .fail (excIllegal w) s
  let mx := vlmax (csrOf s c 0xC21)
  let f3 := iF3 w
  match f with
  | 0x0C =>
    let g (i : Nat) : Nat := if f3 = 0 then b i else x
    vDone (vEach s c vd n act (fun i => if g i < mx then a (g i) else 0)) c len
  | 0x0E =>
    if f3 = 0 then
      let g (i : Nat) : Nat := vGet s c (iRs1 w) 16 i
      vDone (vEach s c vd n act (fun i => if g i < mx then a (g i) else 0)) c len
    else vDone (vEach s c vd n (act.filter (fun i => decide (x ≤ i))) (fun i => a (i - x))) c len
  | 0x0F => if f3 = 0 then ill else vDone (vEach s c vd n act (fun i => if i + x < mx then a (i + x) else 0)) c len
  | 0x10 => if vm then ill else vDone (vEach s c vd n body (fun i => a i + b i % m + car i)) c len
  | 0x11 => vDone (vEachBit s c vd body (fun i => decide (m ≤ a i + b i % m + (if vm then 0 else car i)))) c len
  | 0x12 => if vm then ill else vDone (vEach s c vd n body (fun i => a i + 2 * m - b i % m - car i)) c len
  | 0x13 => vDone (vEachBit s c vd body (fun i => decide (a i < b i % m + (if vm then 0 else car i)))) c len
  | 0x17 =>
    if vm then (if v2 ≠ 0 then ill else vDone (vEach s c vd n body b) c len)
    else vDone (vEach s c vd n body (fun i => if vBit s c 0 i then b i else a i)) c len
  | 0x27 =>
    if f3 = 3 then
      let nr := iRs1 w + 1
      if vm = false ∨ ¬(nr = 1 ∨ nr = 2 ∨ nr = 4 ∨ nr = 8) ∨ vd % nr ≠ 0 ∨ v2 % nr ≠ 0 then ill
      else vDone (modCore s c (fun y => { y with v := (List.range nr).foldl (fun q k => smapPut 0 q (vd + k) (smapGet 0 y.v (v2 + k))) y.v })) c len
    else vDone (vFree s c vd n act) c len
  | 0x2C => vDone (vEach s c vd n act (fun i => vGet s c v2 (2 * n) i / 2 ^ (b i % (2 * n)))) c len
  | 0x2D => vDone (vEach s c vd n act (fun i => sra (2 * n) (vGet s c v2 (2 * n) i) (b i % (2 * n)))) c len
  | 0x35 => vDone (vEach s c vd (2 * n) act (fun i => a i * 2 ^ (b i % (2 * n)))) c len
  | 0x30 => if f3 ≠ 0 ∨ vlOf s c = 0 then vDone s c len
            else vDone (vPut s c vd (2 * n) 0 ((act.foldl (fun q i => q + a i) (vGet s c (iRs1 w) (2 * n) 0)) % 2 ^ (2 * n))) c len
  | 0x31 => if f3 ≠ 0 ∨ vlOf s c = 0 then vDone s c len
            else vDone (vPut s c vd (2 * n) 0 ((act.foldl (fun q i => q + ofSigned (2 * n) (sext n (a i))) (vGet s c (iRs1 w) (2 * n) 0)) % 2 ^ (2 * n))) c len
  | f => if f ∈ [0x20, 0x21, 0x22, 0x23, 0x2A, 0x2B, 0x2E, 0x2F] then vDone (vFree s c vd n act) c len else ill

/-- Mask instructions and the unary forms of OPMVV. -/
def vMaskOps (s : Mach) (c w len f n : Nat) : HartOut :=
  let vd := iRd w
  let v2 := iRs2 w
  let v1 := iRs1 w
  let act := vActive s c w
  let body := (List.range (vlOf s c)).filter (fun i => decide (vstartOf s c ≤ i))
  let ill : HartOut := .fail (excIllegal w) s
  let p (i : Nat) : Bool := vBit s c v2 i
  let q (i : Nat) : Bool := vBit s c v1 i
  match f with
  | 0x10 =>
    (match v1 with
     | 0 => vDone (putXr s c vd (sx n (vGet s c v2 n 0))) c len
     | 16 => vDone (putXr s c vd (act.filter p).length) c len
     | 17 => vDone (putXr s c vd ((act.find? p).getD (2 ^ 64 - 1))) c len
     | _ => ill)
  | 0x12 =>
    let ext (d : Nat) (sg : Bool) : HartOut :=
      let k := n / d
      if k < 8 then ill else vDone (vEach s c vd n act (fun i => let v := vGet s c v2 k i; if sg then ofSigned n (sext k v) else v)) c len
    let un (g : Nat → Nat) : HartOut := vDone (vEach s c vd n act (fun i => g (vGet s c v2 n i))) c len
    let revBits (k v : Nat) : Nat := ((List.range k).map (fun i => if v.testBit i then 2 ^ (k - 1 - i) else 0)).sum
    (match v1 with
     | 2 => ext 8 false | 3 => ext 8 true | 4 => ext 4 false | 5 => ext 4 true | 6 => ext 2 false | 7 => ext 2 true
     | 8 => un (fun v => ofBytes ((bytesOf (n / 8) v).map (fun y => BitVec.ofNat 8 (revBits 8 y.toNat))))
     | 9 => un (fun v => ofBytes (bytesOf (n / 8) v).reverse)
     | 10 => un (revBits n)
     | 12 => un (clz n)
     | 13 => un (ctz n)
     | 14 => un (popcount n)
     | _ => ill)
  | 0x14 =>
    let first := act.find? p
    (match v1 with
     | 1 => vDone (vEachBit s c vd act (fun i => match first with | some k => decide (i < k) | none => true)) c len
     | 2 => vDone (vEachBit s c vd act (fun i => decide (first = some i))) c len
     | 3 => vDone (vEachBit s c vd act (fun i => match first with | some k => decide (i ≤ k) | none => true)) c len
     | 16 => vDone (vEach s c vd n act (fun i => (act.filter (fun k => decide (k < i) && p k)).length)) c len
     | 17 => if v2 ≠ 0 then ill else vDone (vEach s c vd n act id) c len
     | _ => ill)
  | 0x17 =>
    let l := (List.range (vlOf s c)).filter q
    vDone (l.zipIdx.foldl (fun t k => vPut t c vd n k.2 (vGet s c v2 n k.1)) s) c len
  | 0x18 => vDone (vEachBit s c vd body (fun i => p i && !q i)) c len
  | 0x19 => vDone (vEachBit s c vd body (fun i => p i && q i)) c len
  | 0x1A => vDone (vEachBit s c vd body (fun i => p i || q i)) c len
  | 0x1B => vDone (vEachBit s c vd body (fun i => p i != q i)) c len
  | 0x1C => vDone (vEachBit s c vd body (fun i => p i || !q i)) c len
  | 0x1D => vDone (vEachBit s c vd body (fun i => !(p i && q i))) c len
  | 0x1E => vDone (vEachBit s c vd body (fun i => !(p i || q i))) c len
  | 0x1F => vDone (vEachBit s c vd body (fun i => p i == q i)) c len
  | _ => ill

/-- OPIVV, OPIVX and OPIVI. -/
def vOpI (s : Mach) (c w len : Nat) : HartOut :=
  let n := sewOf (csrOf s c 0xC21)
  let f := w / 2 ^ 26
  let f3 := iF3 w
  let vd := iRd w
  let x := getXr s c (iRs1 w)
  let simm := sx 5 (iRs1 w)
  let uns := decide (f ∈ [0x0C, 0x0E, 0x0F, 0x14, 0x15, 0x25, 0x28, 0x29, 0x2A, 0x2B, 0x2C, 0x2D, 0x2E, 0x2F, 0x35])
  let imm := if f = 0x14 ∨ f = 0x15 then iRs1 w + f % 2 * 32 else if uns then iRs1 w else simm
  let f' := if f3 = 3 ∧ f = 0x15 then 0x14 else f
  let b (i : Nat) : Nat := if f3 = 0 then vGet s c (iRs1 w) n i else if f3 = 4 then x else imm
  let act := vActive s c w
  match vIntOp f' n 0 0, vCmpOp f n 0 0 with
  | some _, _ => vDone (vEach s c vd n act (fun i => (vIntOp f' n (vGet s c (iRs2 w) n i) (b i)).getD 0)) c len
  | none, some _ => vDone (vEachBit s c vd act (fun i => (vCmpOp f n (vGet s c (iRs2 w) n i) (b i)).getD false)) c len
  | none, none => vIntRest s c w len f n b (if f3 = 4 then x else imm)

/-- OPMVV and OPMVX. -/
def vOpM (s : Mach) (c w len : Nat) : HartOut :=
  let n := sewOf (csrOf s c 0xC21)
  let f := w / 2 ^ 26
  let vv := decide (iF3 w = 2)
  let vd := iRd w
  let v2 := iRs2 w
  let x := getXr s c (iRs1 w)
  let b (i : Nat) : Nat := if vv then vGet s c (iRs1 w) n i else x
  let act := vActive s c w
  let vl := vlOf s c
  match vMulOp f n 0 0 0, vWideOp f n 0 0 0 with
  | some _, _ => vDone (vEach s c vd n act (fun i => (vMulOp f n (vGet s c v2 n i) (b i % 2 ^ n) (vGet s c vd n i)).getD 0)) c len
  | none, some _ =>
    let wa := decide (0x34 ≤ f ∧ f ≤ 0x37)
    vDone (vEach s c vd (2 * n) act (fun i =>
      (vWideOp f n (vGet s c v2 (if wa then 2 * n else n) i) (b i) (vGet s c vd (2 * n) i)).getD 0)) c len
  | none, none =>
    if f ≤ 7 ∧ vv then
      (if vl = 0 then vDone s c len
       else vDone (vPut s c vd n 0 (act.foldl (fun q i => (vRedOp f n q (vGet s c v2 n i)).getD 0) (vGet s c (iRs1 w) n 0))) c len)
    else if 8 ≤ f ∧ f ≤ 0x0B then vDone (vFree s c vd n act) c len
    else if f = 0x0E ∧ vv = false then vDone (vEach s c vd n act (fun i => if i = 0 then x else vGet s c v2 n (i - 1))) c len
    else if f = 0x0F ∧ vv = false then vDone (vEach s c vd n act (fun i => if i + 1 = vl then x else vGet s c v2 n (i + 1))) c len
    else if f = 0x10 ∧ vv = false then (if v2 ≠ 0 then .fail (excIllegal w) s else vDone (if vl = 0 then s else vPut s c vd n 0 (x % 2 ^ n)) c len)
    else if vv then vMaskOps s c w len f n
    else .fail (excIllegal w) s

/-- OPFVV and OPFVF: reductions, conversions, widening forms and estimates give free values. -/
def vOpF (s : Mach) (c w len : Nat) : HartOut :=
  let n := sewOf (csrOf s c 0xC21)
  let f := w / 2 ^ 26
  let vv := decide (iF3 w = 1)
  let vd := iRd w
  let v2 := iRs2 w
  let k := vFpKind n
  let sc := fpUnbox k (getFr s c (iRs1 w))
  let b (i : Nat) : Nat := if vv then vGet s c (iRs1 w) n i else sc
  let act := vActive s c w
  let frm := fld (csrOf s c 0x003) 7 5
  let r : Rnd := { rm := frm, sat := false, seed := 0, idx := 0 }
  let ill : HartOut := .fail (excIllegal w) s
  let flag (s : Mach) (fl : Nat) : Mach := if fl = 0 then s else ctxDirty (setCsr s c 0x003 (csrOf s c 0x003 ||| BitVec.ofNat 64 fl)) c 13
  let conv := decide (f = 0x12)
  if ctxOff s c 13 ∨ 5 ≤ frm ∨ n = 8 ∨ (n = 16 ∧ conv = false) then ill
  else match vFpOp f k r 0 0 0, vFpCmp f k 0 0 with
  | some _, _ =>
    let out (i : Nat) : Nat × Nat := (vFpOp f k r (vGet s c v2 n i) (b i) (vGet s c vd n i)).getD (0, 0)
    vDone (flag (vEach s c vd n act (fun i => (out i).1)) (act.foldl (fun q i => q ||| (out i).2) 0)) c len
  | none, some _ =>
    let out (i : Nat) : Bool × Nat := (vFpCmp f k (vGet s c v2 n i) (b i)).getD (false, 0)
    vDone (flag (vEachBit s c vd act (fun i => (out i).1)) (act.foldl (fun q i => q ||| (out i).2) 0)) c len
  | none, none =>
    if f = 0x10 ∧ vv then vDone (putFr s c vd (fpBox k (vGet s c v2 n 0))) c len
    else if f = 0x10 then vDone (if vlOf s c = 0 then s else vPut s c vd n 0 sc) c len
    else if f = 0x17 ∧ vv = false then
      let body := (List.range (vlOf s c)).filter (fun i => decide (vstartOf s c ≤ i))
      vDone (vEach s c vd n body (fun i => if w / 2 ^ 25 % 2 = 1 ∨ vBit s c 0 i = true then sc else vGet s c v2 n i)) c len
    else if f = 0x0E ∧ vv = false then vDone (vEach s c vd n act (fun i => if i = 0 then sc else vGet s c v2 n (i - 1))) c len
    else if f = 0x0F ∧ vv = false then vDone (vEach s c vd n act (fun i => if i + 1 = vlOf s c then sc else vGet s c v2 n (i + 1))) c len
    else if f ∈ [0x01, 0x03, 0x05, 0x07] ∧ vv then vDone (if vlOf s c = 0 then s else vFree s c vd n [0]) c len
    else if f ∈ [0x31, 0x33] ∧ vv then vDone (if vlOf s c = 0 then s else vFree s c vd (2 * n) [0]) c len
    else if f = 0x13 ∧ iRs1 w = 0 ∧ vv then
      let out (i : Nat) : Nat × Nat :=
        let q := sqrtVal (decodeFloat (fpFmt k) (vGet s c v2 n i)); let e := encodeFloat (fpFmt k) r q.1; (e.1, q.2 ||| e.2)
      vDone (flag (vEach s c vd n act (fun i => (out i).1)) (act.foldl (fun q i => q ||| (out i).2) 0)) c len
    else if f = 0x13 ∧ iRs1 w = 16 ∧ vv then vDone (vEach s c vd n act (fun i => fpClass k (fpBox k (vGet s c v2 n i)))) c len
    else if f = 0x13 ∧ vv then (let (x, s) := drawWord s; vDone (flag (vFree s c vd n act) (x.toNat % 32)) c len)
    else if f = 0x12 ∧ vv then
      let dn := if iRs1 w / 8 = 1 then 2 * n else n
      (let (x, s) := drawWord s; vDone (flag (vFree s c vd dn act) (x.toNat % 32)) c len)
    else if 0x30 ≤ f then (let (x, s) := drawWord s; vDone (flag (vFree s c vd (2 * n) act) (x.toNat % 32)) c len)
    else ill

/-- A vector instruction. -/
def vecExec (io : CspIo) (s : Mach) (c w len : Nat) : HartOut :=
  if ctxOff s c 9 then .fail (excIllegal w) s
  else if iOp w ≠ 0x57 then vMem io s c w len
  else if iF3 w = 7 then vSetvl s c w len
  else if bit (csrOf s c 0xC21) 63 then .fail (excIllegal w) s
  else match iF3 w with
    | 1 => vOpF s c w len
    | 5 => vOpF s c w len
    | 2 => vOpM s c w len
    | 6 => vOpM s c w len
    | _ => vOpI s c w len

end Sys2Proof.Machine
end

