-- ==== Sys2Proof/Machine/HartRun.lean ====
section
/-! DEFINITION. One step of a host core: an interrupt, a trigger, or the instruction at the pc (R339, R348, R353, R553). -/

namespace Sys2Proof.Machine

/-- An instruction of 32 bits (or what a compressed one stands for), with `len` the bytes it takes. -/
def hartInstr (io : CspIo) (s : Mach) (c w len : Nat) (dbg : Bool) (err : Option CmxHw) : HartOut :=
  match scalarExec io s c w len dbg with
  | some o => o
  | none =>
    if iOp w = 0x57 ∨ iOp w = 0x07 ∨ iOp w = 0x27 then vecExec io s c w len
    else if iOp w = 0x0B then cmxExec s c w len err
    else .fail (excIllegal w) s

/-- The instruction at the pc: its bits and its length. -/
def hartFetch (s : Mach) (c : Nat) : Except HartExc (Nat × Nat) × Mach :=
  let pc := (getCore s c).pc.toNat
  let m := xmode s c 0
  match hartLoad s c 0 m pc 2 with
  | (.error e, s) => (.error e, s)
  | (.ok lo, s) =>
    if lo % 4 ≠ 3 then (.ok (lo, 2), s)
    else match hartLoad s c 0 m (add64 pc 2) 2 with
      | (.error e, s) => (.error e, s)
      | (.ok hi, s) => (.ok (lo + hi * 65536, 4), s)

/-! ### Triggers (R553) -/

/-- Whether a trigger is enabled in the mode of the hart, from the bits that enable M, S, U, VS and VU. A trigger that raises
an exception does not match in M-mode while MIE is 0. -/
def trigMode (s : Mach) (c : Nat) (m sm u vs vu : Bool) (act : Nat) : Bool :=
  let x := getCore s c
  (if x.virt then (if x.priv = 1 then vs else vu) else match x.priv with | 3 => m | 1 => sm | _ => u) &&
  (decide (act = 1) || decide (x.priv ≠ 3) || bit (mstatus s c) 3)

/-- The action of the first mcontrol6 trigger that matches an access (0 fetch, 1 load, 2 store) to an address. -/
def trigAddr (s : Mach) (c kind a : Nat) : Option Nat :=
  (List.range 4).findSome? (fun i =>
    let t := csrOf s c (trigKey i 1)
    let act := fld t 15 12
    if fld t 63 60 = 6 ∧ bit t (2 - (if kind = 0 then 0 else if kind = 2 then 1 else 2)) ∧ (csrOf s c (trigKey i 2)).toNat = a ∧
        trigMode s c (bit t 6) (bit t 4) (bit t 3) (bit t 24) (bit t 23) act = true then some act else none)

/-- The icount trigger that is pending, and its action. -/
def trigCount (s : Mach) (c : Nat) : Option (Nat × Nat) :=
  (List.range 4).findSome? (fun i =>
    let t := csrOf s c (trigKey i 1)
    if fld t 63 60 = 3 ∧ bit t 8 ∧ trigMode s c (bit t 9) (bit t 7) (bit t 6) (bit t 26) (bit t 25) (fld t 5 0) = true then some (i, fld t 5 0) else none)

/-- An instruction done counts in the icount triggers of its mode. -/
def tickCount (s : Mach) (c : Nat) (at_ : Mach) : Mach :=
  foldS (List.range 4) (fun u i =>
    let t := csrOf u c (trigKey i 1)
    if fld t 63 60 = 3 ∧ fld t 23 10 ≠ 0 ∧ trigMode at_ c (bit t 9) (bit t 7) (bit t 6) (bit t 26) (bit t 25) (fld t 5 0) = true then
      let n := fld t 23 10 - 1
      setCsr u c (trigKey i 1) (setBit (setFld t 23 10 n) 8 (decide (n = 0)))
    else u) s

/-- A trigger fires: debug mode, or a breakpoint exception. -/
def trigFire (s : Mach) (c act a : Nat) : Mach :=
  if act = 1 then enterDebug s c 2 else trap s c { (exc 3 a) with gva := (getCore s c).virt }

/-- The address of a scalar access to memory, and its kind. -/
def dataAddr (s : Mach) (c w : Nat) : Option (Nat × Nat) :=
  match rvExec (hartIn s c) w with
  | .load _ _ a _ _ => some (1, a)
  | .store a _ _ => some (2, a)
  | .lr _ a _ => some (1, a)
  | .sc _ a _ _ => some (2, a)
  | .amo _ _ a _ _ => some (2, a)
  | _ => none

/-! ### A step -/

/-- The instruction at the pc is executed. -/
def hartBody (io : CspIo) (s : Mach) (c : Nat) (err : Option CmxHw) : Mach :=
  let pc := (getCore s c).pc.toNat
  match trigCount s c with
  | some (i, act) => trigFire (setCsr s c (trigKey i 1) (setBit (csrOf s c (trigKey i 1)) 8 false)) c act pc
  | none =>
    match trigAddr s c 0 pc with
    | some act => trigFire s c act pc
    | none =>
      match hartFetch s c with
      | (.error e, s) => trap s c e
      | (.ok (raw, len), s) =>
        match (if len = 2 then expandC raw else some raw) with
        | none => trap s c (excIllegal raw)
        | some w =>
          match (dataAddr s c w).bind (fun k => (trigAddr s c k.1 k.2).map (fun act => (act, k.2))) with
          | some (act, a) => trigFire s c act a
          | none =>
            match hartInstr io s c w len false err with
            | .done t => tickCount t c s
            | .fail e t => trap t c (if e.cause = 2 ∨ e.cause = 22 then { e with tval := raw } else e)
            | .debug t => enterDebug t c 1

/-- One step of a core that is released and not halted: the interrupt that is due, or an instruction; then a single step ends
in debug mode. -/
def hartStep (io : CspIo) (s : Mach) (c : Nat) (err : Option CmxHw) : Mach :=
  let x := getCore s c
  if x.released = false ∨ x.halted ∨ s.pins.thermtripN = false then s
  else
    let t := match (if x.haltReq ∧ bit (csrOf s c 0x7B0) 11 = false then none else dueInt s c) with
      | some (lvl, i) => takeInt s c lvl i
      | none => hartBody io s c err
    if x.haltReq ∧ (getCore t c).halted = false then enterDebug (modCore t c (fun x => { x with haltReq := false })) c 4 else t

end Sys2Proof.Machine
end

