-- ==== Sys2Proof/Machine/DebugPort.lean ====
section
/-! DEFINITION. The debug access path and the Debug Module (R551 to R553), and with them the whole effect of a write in
control space. -/

namespace Sys2Proof.Machine

/-! ### Scopes (R476, R551) -/

/-- Whether a peek or poke of a control-space offset needs no scope: the identity and status registers, the fault log, the
always-on counters and, DEDUCED from R477, the token window and its registers. -/
def scopeFree : Option RegName → Bool
  | some n => isStatus n || (match n with | .CNT_AOSH | .SEC_DBG_TOKEN | .SEC_DBG_CTL | .SEC_DBG_NONCE => true | _ => false)
  | none => false

/-- Whether the grant in force covers a peek (`v` none) or a poke of a control-space offset. -/
def scopeOk (s : Mach) (off : Nat) (v : Option Word) : Bool :=
  match regAt off with
  | none => grantPkg s
  | some (b, u, r) =>
    let name := r.map (fun r => r.name)
    let inv (o : Option Nat) : Bool := match o with | some p => grantInv s p | none => false
    let obs (o : Option Nat) : Bool := match o with | some p => grantObs s p | none => false
    if scopeFree name then true
    else match b with
      | .bcnt | .btrc => if v.isNone then obs (bayPid s u) else inv (bayPid s u)
      | .cluster | .rng | .door => inv (blkOwner s b u)
      | .prt => v.isNone && grantPkg s
      | .sec => v.isNone && grantPkg s
      | .dbgtrc =>
        (match name with
         | some .DBG_PHALT => grantInv s (match v with | some w => fld w 3 0 | none => rf s .DBG_PHALT 0 0 3 0)
         | some .DBG_PAT => decide (rg s .SEC_DBG_STATE 0 0 ≠ 0)
         | some .DBG_PSTAT => decide (rg s .SEC_DBG_STATE 0 0 ≠ 0)
         | some .TRC_SEL => grantObs s (match v with | some w => fld w 3 0 | none => trcSel s)
         | some .DBG_ACTL => grantPkg s
         | some .DBG_AADDR => grantPkg s
         | some .DBG_ADATA => grantPkg s
         | some .DBG_DMI => grantPkg s
         | some .DBG_LOCKST => grantPkg s
         | some _ => grantObs s (trcSel s)
         | none => grantPkg s)
      | .pci => (match name with | some .PCI_IDEKEY => false | _ => grantPkg s)
      | b => if (blkBay b u).isSome then inv (blkOwner s b u) else grantPkg s

/-! ### The debug access path (R552) -/

/-- The ERR codes of DBG_ACTL. -/
def errNotGranted : Nat := 1
def errAccess : Nat := 2
def errUnreachable : Nat := 3
def errBusy : Nat := 4
def errAlign : Nat := 5

/-- An access to control space through the debug access path: ERR, the value of a peek, and the state after. -/
def debugCsp (s : Mach) (off : Nat) (v : Option Word) : Nat × Word × Mach :=
  let free := match regAt off with | some (_, _, r) => scopeFree (r.map (fun r => r.name)) | none => false
  if isDone s = false ∧ free = false then (errBusy, 0, s)
  else if scopeOk s off v = false then (errNotGranted, 0, s)
  else if off % 8 ≠ 0 then (errAlign, 0, s)
  else
    let code (e : CspRes) : Nat := match e with | .ok => 0 | .busy => errBusy | _ => errAccess
    match v with
    | none =>
      let x := cspRead s 0 off 8 true
      (code x.1, x.2.1, x.2.2)
    | some w =>
      let x := cspWriteBase s 0 off 8 w
      (code x.1, 0, x.2)

/-- An access to memory through the debug access path, as a BOUND access of partition `p`. -/
def debugMem (s : Mach) (p a : Nat) (v : Option Word) : Nat × Word × Mach :=
  if isDone s = false then (errBusy, 0, s)
  else if grantInv s p = false then (errNotGranted, 0, s)
  else if a % 8 ≠ 0 then (errAlign, 0, s)
  else
    match region s a with
    | .aperture _ _ => (errUnreachable, 0, s)
    | .imsic _ _ _ => (errUnreachable, 0, s)
    | .csp _ => (errAccess, 0, s)
    | .none => (errAccess, 0, s)
    | _ =>
      match physDenied s (.part p) a 8 v.isSome with
      | some l => (errAccess, 0, physRefuse s 0 (.part p) 0 l v.isSome)
      | none =>
        match v with
        | none => (0, BitVec.ofNat 64 (ofBytes (physRead s a 8).1), s)
        | some w => (0, 0, physWrite s a (bytesOf 8 w.toNat) false)

/-- One access of the debug access path. -/
def debugAccess (s : Mach) (mem : Bool) (p a : Nat) (v : Option Word) : Nat × Word × Mach :=
  if mem then debugMem s p a v else debugCsp s a v

/-- A write of DBG_ACTL: GO performs the access, ERR tells how it ended, and DBG_ADATA takes the value of a peek. -/
def onActl (s : Mach) (v : Word) : Mach :=
  let s := plainWrite s { name := .DBG_ACTL, unit := 0, idx := 0 } v
  if bit v 62 = false then s
  else
    let data := rg s .DBG_ADATA 0 0
    let (e, d, s) := debugAccess s (bit v 60) (fld v 59 56) (rf s .DBG_AADDR 0 0 47 0) (if bit v 61 then some data else none)
    let s := wf s .DBG_ACTL 0 0 50 48 e
    if e = 0 ∧ bit v 61 = false then wr s .DBG_ADATA 0 0 d else s

/-! ### The Debug Module (R553) -/

def modDm (s : Mach) (f : Dm → Dm) : Mach := { s with dm := f s.dm }

/-- Whether a hart answers the Debug Module: it is released, and its partition holds an INVASIVE grant. -/
def hartAvail (s : Mach) (c : Nat) : Bool :=
  (getCore s c).released && (match corePid s c with | some p => grantInv s p | none => false)

/-- Whether a hart reads as halted: one whose halt is deferred reads as running. -/
def hartHalted (s : Mach) (c : Nat) : Bool := hartAvail s c && (getCore s c).halted

/-- A write of dmcontrol. -/
def dmControl (s : Mach) (v : Nat) : Mach :=
  if v.testBit 0 = false then { s with dm := Dm.zero }
  else
    let c := (v / 2 ^ 16 % 1024) % 128
    let s := modDm s (fun d => { d with active := true, hartsel := c, haltreq := smapPut false d.haltreq c (v.testBit 31) })
    let s := if v.testBit 28 then modDm s (fun d => { d with havereset := smapPut false d.havereset c false }) else s
    if 96 ≤ c ∨ hartAvail s c = false then s
    else if v.testBit 31 then haltCore s c 3
    else if v.testBit 30 then
      let s := modDm s (fun d => { d with resumeack := smapPut false d.resumeack c false })
      if (getCore s c).halted then modDm (leaveDebug s c) (fun d => { d with resumeack := smapPut false d.resumeack c true }) else s
    else s

/-- dmstatus of the hart selected. -/
def dmStatus (s : Mach) : Nat :=
  let c := s.dm.hartsel
  let gone := decide (96 ≤ c)
  let av := !gone && hartAvail s c
  let halted := av && (getCore s c).halted
  let running := av && !halted
  let two (b : Bool) (i : Nat) : Nat := if b then 3 * 2 ^ i else 0
  3 + 2 ^ 7 + two halted 8 + two running 10 + two (!gone && !av) 12 + two gone 14
    + two (!gone && smapGet false s.dm.resumeack c) 16 + two (!gone && smapGet false s.dm.havereset c) 18 + 2 ^ 22

/-- One instruction of the program buffer after another, until an EBREAK, the end of the buffer or an exception; the pc of
the hart stands for the place in the buffer. Answers whether it ended without an exception. -/
def progRun : Nat → Mach → Nat → Bool × Mach
  | 0, s, _ => (true, s)
  | n + 1, s, c =>
    let off := (getCore s c).pc.toNat
    if 32 ≤ off ∨ off % 2 ≠ 0 then (true, s)
    else
      let half (o : Nat) : Nat := ((s.dm.progbuf.getD (o / 4) 0).toNat >>> (8 * (o % 4))) % 65536
      let lo := half off
      let io : CspIo := cspWriteBase
      if lo % 4 = 3 then
        (match hartInstr io s c (lo + half (off + 2) * 65536) 4 true none with
         | .done t => progRun n t c
         | .fail _ t => (false, t)
         | .debug t => (true, t))
      else
        match expandC lo with
        | none => (false, s)
        | some w =>
          (match hartInstr io s c w 2 true none with
           | .done t => progRun n t c
           | .fail _ t => (false, t)
           | .debug t => (true, t))

/-- The program buffer of a halted hart is run. -/
def runProgbuf (s : Mach) (c : Nat) : Bool × Mach :=
  let pc := (getCore s c).pc
  let (ok, s) := progRun 64 (modCore s c (fun x => { x with pc := 0 })) c
  (ok, modCore s c (fun x => { x with pc := pc }))

/-- The register that an access-register command names: read, and the state with a value written. None where there is no
such register. -/
def dmReg (s : Mach) (c regno : Nat) : Option (Word × (Word → Mach)) :=
  if regno < 0x1000 then
    (match csrCheck s c regno 0 false true with
     | .error _ => none
     | .ok k => some ((csrView s c k).getD 0, fun v => if regno / 1024 = 3 then s else hartCsrPut s c k v))
  else if regno < 0x1020 then
    some (BitVec.ofNat 64 (getXr s c (regno - 0x1000)), fun v => putXr s c (regno - 0x1000) v.toNat)
  else if regno < 0x1040 then
    some (BitVec.ofNat 64 (getFr s c (regno - 0x1020)), fun v => putFr s c (regno - 0x1020) v.toNat)
  else none

/-- The 64 bits of data0 and data1. -/
def dmData (s : Mach) : Word := BitVec.ofNat 64 ((s.dm.data.getD 0 0).toNat + (s.dm.data.getD 1 0).toNat * 2 ^ 32)

def setCmderr (s : Mach) (e : Nat) : Mach := modDm s (fun d => { d with cmderr := e })

/-- The abstract command in `command` is carried out: cmderr 2 not supported, 3 exception, 4 the hart is not halted. -/
def dmCommand (s : Mach) : Mach :=
  let v := s.dm.command
  let c := s.dm.hartsel
  let size := v / 2 ^ 20 % 8
  let transfer := v.testBit 17
  if s.dm.cmderr ≠ 0 then s
  else if v / 2 ^ 24 ≠ 0 ∨ v.testBit 19 ∨ (transfer ∧ size ≠ 2 ∧ size ≠ 3) then setCmderr s 2
  else if 96 ≤ c ∨ hartHalted s c = false then setCmderr s 4
  else
    let moved : Option Mach :=
      if transfer = false then some s
      else match dmReg s c (v % 65536) with
        | none => none
        | some (old, put) =>
          some (if v.testBit 16 then
            put (if size = 3 then dmData s else (old &&& 0xFFFFFFFF00000000) ||| (dmData s &&& 0xFFFFFFFF))
          else modDm s (fun d =>
            let l := lset d.data 0 (BitVec.ofNat 32 old.toNat)
            { d with data := if size = 3 then lset l 1 (BitVec.ofNat 32 (old.toNat / 2 ^ 32)) else l }))
    match moved with
    | none => setCmderr s 3
    | some s =>
      if v.testBit 18 = false then s
      else
        let (ok, s) := runProgbuf s c
        if ok then s else setCmderr s 3

/-- haltsum0: the harts of the selected group of 32 that are halted. -/
def haltSum (s : Mach) : Nat :=
  let g := s.dm.hartsel / 32
  ((List.range 32).map (fun i => if 32 * g + i < 96 ∧ hartHalted s (32 * g + i) = true then 2 ^ i else 0)).sum

/-- A read of a register of the Debug Module. -/
def dmRead (s : Mach) (a : Nat) : Nat :=
  if s.dm.active = false then (if a = 0x11 then dmStatus s else 0)
  else if 4 ≤ a ∧ a < 0x10 then (s.dm.data.getD (a - 4) 0).toNat
  else if 0x20 ≤ a ∧ a < 0x28 then (s.dm.progbuf.getD (a - 0x20) 0).toNat
  else match a with
    | 0x10 => s.dm.hartsel * 2 ^ 16 + 1
    | 0x11 => dmStatus s
    | 0x13 => ((List.range 3).map (fun g =>
        if (List.range 32).any (fun i => hartHalted s (32 * g + i)) then 2 ^ g else 0)).sum
    | 0x16 => 8 * 2 ^ 24 + s.dm.cmderr * 2 ^ 8 + 12
    | 0x18 => s.dm.auto
    | 0x40 => haltSum s
    | _ => 0

/-- An access to a data or program-buffer word carries out the command again where abstractauto says so. -/
def dmAuto (s : Mach) (i : Nat) : Mach := if s.dm.auto.testBit i then dmCommand s else s

/-- A write of a register of the Debug Module. -/
def dmWrite (s : Mach) (a v : Nat) : Mach :=
  if a = 0x10 then dmControl s v
  else if s.dm.active = false then s
  else if 4 ≤ a ∧ a < 0x10 then dmAuto (modDm s (fun d => { d with data := lset d.data (a - 4) (BitVec.ofNat 32 v) })) (a - 4)
  else if 0x20 ≤ a ∧ a < 0x28 then
    dmAuto (modDm s (fun d => { d with progbuf := lset d.progbuf (a - 0x20) (BitVec.ofNat 32 v) })) (16 + (a - 0x20))
  else match a with
    | 0x16 => modDm s (fun d => { d with cmderr := d.cmderr &&& (7 ^^^ (v / 2 ^ 8 % 8)) })
    | 0x17 => if s.dm.cmderr ≠ 0 then s else dmCommand (modDm s (fun d => { d with command := v % 2 ^ 32 }))
    | 0x18 => modDm s (fun d => { d with auto := v % 2 ^ 12 + v / 2 ^ 16 % 2 ^ 8 * 2 ^ 16 })
    | _ => s

/-- One access of the Debug Module: the value read, 0 for a write. -/
def dmAccess (s : Mach) (a : Nat) (v : Option Nat) : Nat × Mach :=
  match v with
  | some v => (0, dmWrite s a v)
  | none =>
    let d := dmRead s a
    (d, if 4 ≤ a ∧ a < 0x10 then dmAuto s (a - 4) else if 0x20 ≤ a ∧ a < 0x28 then dmAuto s (16 + (a - 0x20)) else s)

/-- A write of DBG_DMI: GO performs the access, and DATA takes what is read. -/
def onDmi (s : Mach) (v : Word) : Mach :=
  let s := plainWrite s { name := .DBG_DMI, unit := 0, idx := 0 } v
  if bit v 31 = false then s
  else
    let (d, s) := dmAccess s (fld v 6 0) (if bit v 30 then some (fld v 63 32) else none)
    if bit v 30 then s else wf s .DBG_DMI 0 0 63 32 d

/-! ### The whole effect of a write in control space -/

def regWriteFull (s : Mach) (mid : Nat) (r : RegRef) (w4 : Bool) (v : Word) : Mach :=
  match r.name with
  | .DBG_ACTL => onActl s v
  | .DBG_DMI => onDmi s v
  | _ => regWrite s mid r w4 v

/-- A write by a master, with what the GO bits of the debug registers start. -/
def cspWrite (s : Mach) (mid off size : Nat) (v : Word) : CspRes × Mach :=
  cspWriteBy (fun s r w4 v => regWriteFull s mid r w4 v) s mid off size v

/-- REGISTER_WRITE: a write in control space. -/
def registerWrite (s : Mach) (mid off size : Nat) (v : Word) : Mach :=
  let (e, t) := cspWrite s mid off size v
  { t with cspOut := (e.code, 0) }

def execRegisterWrite (mid : Mid) (addr size : Nat) (val : Word) (s : State) : Host.Outcome State Fault Refusal :=
  onMach s (fun s => registerWrite s mid addr size val)

/-! ### Requests (R551) -/

/-- A write of DBG_ACTL or DBG_DMI by a requester: a core writes the register, JTAG and management reach it directly, before
bring-up completes too. -/
def debugRequest (s : Mach) (q : Requester) (n : RegName) (v : Word) : Mach :=
  let r : RegRef := { name := n, unit := 0, idx := 0 }
  match q with
  | .core c => registerWrite s (c.val + 1) r.addr 8 v
  | _ => { regWriteFull s 0 r false v with cspOut := (0, 0) }

def execPeek (q : Requester) (val : Word) (s : State) : Host.Outcome State Fault Refusal := onMach s (fun s => debugRequest s q .DBG_ACTL val)
def execPoke (q : Requester) (val : Word) (s : State) : Host.Outcome State Fault Refusal := onMach s (fun s => debugRequest s q .DBG_ACTL val)
def execDbgDmiAccess (q : Requester) (val : Word) (s : State) : Host.Outcome State Fault Refusal :=
  onMach s (fun s => debugRequest s q .DBG_DMI val)

end Sys2Proof.Machine
end

