-- ==== Sys2Proof/Machine/CoreRows.lean ====
section
/-! DEFINITION. The commands of the host cores (R339, R343, R351 to R366): one instruction of a core, a write of a custom CSR,
and one CMX instruction. -/

namespace Sys2Proof.Machine

/-- CORE_INSTRUCTION: a released core that is not halted takes the interrupt due or executes the instruction at its pc. -/
def coreInstruction (s : Mach) (c : Nat) : Mach := hartStep cspWrite s c none

def execCoreInstruction (c : CoreNo) (s : State) : Host.Outcome State Fault Refusal := onMach s (fun s => coreInstruction s c)

/-! ### The custom CSRs (R367)

Each command is the write itself, as a CSR instruction of the core would make it; the pc is not part of it. -/

/-- A write of a custom CSR by the program of a core: outside M-mode it is an illegal instruction. -/
def customWrite (s : Mach) (c : Nat) (f : Mach → Mach) : Mach :=
  let x := getCore s c
  if x.released = false ∨ x.halted then s
  else if x.priv = 3 then f s
  else trap s c (excIllegal 0)

def execPstateRequest (c : CoreNo) (val : Word) (s : State) : Host.Outcome State Fault Refusal :=
  onMach s (fun s => customWrite s c (onPstate · c val))
def execL2Disable (c : CoreNo) (val : Word) (s : State) : Host.Outcome State Fault Refusal :=
  onMach s (fun s => customWrite s c (onCachectl · c val))
def execCacheEnable (c : CoreNo) (val : Word) (s : State) : Host.Outcome State Fault Refusal :=
  onMach s (fun s => customWrite s c (onCachectl · c val))
def execInvL1i (c : CoreNo) (val : Word) (s : State) : Host.Outcome State Fault Refusal :=
  onMach s (fun s => customWrite s c (onCachectl · c val))
def execInvL1d (c : CoreNo) (val : Word) (s : State) : Host.Outcome State Fault Refusal :=
  onMach s (fun s => customWrite s c (onCachectl · c val))
def execInvL2 (c : CoreNo) (val : Word) (s : State) : Host.Outcome State Fault Refusal :=
  onMach s (fun s => customWrite s c (onCachectl · c val))
def execHd8Write (c : CoreNo) (val : Word) (s : State) : Host.Outcome State Fault Refusal :=
  onMach s (fun s => customWrite s c (onResv · c val))

/-! ### CMX instructions (R361) -/

/-- The funct7 of the custom-0 instruction at the pc of a core, if there is one. -/
def cmxAtPc (s : Mach) (c : Nat) : Option Nat :=
  match (hartFetch s c).1 with
  | .ok (w, 4) => if iOp w = 0x0B ∧ iF3 w = 0 then some (iF7 w) else none
  | _ => none

/-- The instruction at the pc of a core is executed when it is the CMX instruction named by its funct7. -/
def cmxStep (s : Mach) (c : Nat) (f7 : List Nat) (err : Option CmxHw) : Mach :=
  match cmxAtPc s c with
  | some f => if f7.contains f then hartStep cspWrite s c err else s
  | none => s

def execCmxCfg (c : CoreNo) (s : State) : Host.Outcome State Fault Refusal := onMach s (fun s => cmxStep s c [0] none)
def execCmxZero (c : CoreNo) (s : State) : Host.Outcome State Fault Refusal := onMach s (fun s => cmxStep s c [2, 3] none)
def execCmxMma (c : CoreNo) (err : Option CmxHw) (s : State) : Host.Outcome State Fault Refusal := onMach s (fun s => cmxStep s c [4, 5] err)
def execCmxSta (c : CoreNo) (err : Option CmxHw) (s : State) : Host.Outcome State Fault Refusal := onMach s (fun s => cmxStep s c [6, 7] err)
def execCmxWait (c : CoreNo) (s : State) : Host.Outcome State Fault Refusal := onMach s (fun s => cmxStep s c [8] none)
def execCmxLda (c : CoreNo) (s : State) : Host.Outcome State Fault Refusal := onMach s (fun s => cmxStep s c [0xA, 0xB] none)

end Sys2Proof.Machine
end

