-- ==== Sys2Proof/Machine/External.lean ====
section
/-! DEFINITION. External interfaces: PCI Express, DDR5 temperature, management and JTAG (R597 to R614), and the management
requests of other packages (R450). -/

namespace Sys2Proof.Machine

/-! ### PCI Express: links (R601, R605, R607) -/

def pcieWord (s : Mach) (q k : Nat) : Word := s.cfg.pcie.getD (5 * q + k) 0

/-- 0 disabled, 1 root, 2 endpoint (R602, R605). -/
def pcieMode (s : Mach) (q : Nat) : Nat := fld (pcieWord s q 0) 1 0

/-- Lanes of a link under the port's bifurcation; in endpoint mode link 0 alone trains. -/
def linkLanes (s : Mach) (q l : Nat) : Nat :=
  let n := match fld (pcieWord s q 0) 4 2 with
    | 0 => if l = 0 then 16 else 0
    | 1 => if l < 2 then 8 else 0
    | 2 => 4
    | _ => if l = 0 then 8 else if l < 3 then 4 else 0
  match pcieMode s q with
  | 1 => n
  | 2 => if l = 0 then n else 0
  | _ => 0

def linkUp (s : Mach) (q l : Nat) : Bool := rb s .PCI_LINK q l 0

/-- PCIE_LINK_TRAINING: a link comes up at a width and rate that its port allows. Flit mode is always used at 64 GT/s. -/
def pcieLinkTraining (s : Mach) (q l width rate : Nat) (flit reversed : Bool) : Mach :=
  if phase s = 0xF ∨ linkLanes s q l < width ∨ fld (pcieWord s q 0) 7 5 < rate then s
  else
    let v := setFld (rg s .PCI_LINK q l) 10 0 0
    wr s .PCI_LINK q l (v ||| packFlds [(10, 10, reversed.toNat), (9, 9, (flit || decide (rate = 5)).toNat), (8, 6, rate),
      (5, 1, width), (0, 0, 1)])

def execPcieLinkTraining (q l : Fin 4) (width : Nat) (rate : Fin 6) (flit reversed : Bool) (s : State) :
    Host.Outcome State Fault Refusal :=
  guarded (widthWf width) s (fun s => pcieLinkTraining s q l width rate flit reversed)

/-! ### PCI Express: device requests (R602 to R604) -/

/-- The function group of a device request: by bus number in root mode, the physical function in endpoint mode. -/
def pcieGroup (s : Mach) (q : Nat) (r : PcieReq) : Option Nat :=
  if pcieMode s q = 1 then
    (List.range 8).find? (fun k =>
      let w := pcieWord s q (2 + k / 4)
      let j := k % 4
      decide (fld w (16 * j + 7) (16 * j) ≤ r.busOrPf) && decide (r.busOrPf ≤ fld w (16 * j + 15) (16 * j + 8)))
  else if r.busOrPf < 8 ∧ bit (pcieWord s q 2) r.busOrPf then some r.busOrPf
  else none

/-- The local physical address of a device request: its own in root mode, through the BAR in endpoint mode. BAR0 is 16 MiB of
doorbell pages, BAR2 main memory. -/
def pcieAddr (s : Mach) (q : Nat) (r : PcieReq) : Option Nat :=
  if pcieMode s q = 1 then some r.addr
  else if r.bar = 0 then
    if 0x1000000 ≤ r.addr then none
    else some (cspAddr s (RegRef.addr { name := .RNG_DB_PROD, unit := r.addr / 0x1000, idx := 0 } + r.addr % 0x1000))
  else if r.bar = 2 ∧ r.addr < 2 ^ fld (pcieWord s q 2) 13 8 then some (fld (pcieWord s q 3) 47 0 + r.addr)
  else none

/-- Bytes that a request covers. -/
def PcieOp.len : PcieOp → Nat
  | .read n => n
  | .write d _ => d.length
  | .fetchAdd n _ => n
  | .swap n _ => n
  | .cas n _ _ => n

/-- A completion: its tag, status (0 successful, 1 Unsupported Request), data and poison. -/
def complete (s : Mach) (tag status : Nat) (d : List Byte) (p : Bool) : Mach := { s with pcieOut := some (tag, status, d, p) }

/-- A request refused with Unsupported Request status; a posted write is dropped. -/
def unsupported (s : Mach) (r : PcieReq) : Mach :=
  match r.op with
  | .write _ _ => s
  | _ => complete s r.tag 1 [] false

/-- A request to main memory or the loft window, checked as its function group. -/
def pcieMem (s : Mach) (mid a : Nat) (r : PcieReq) : Mach :=
  let atomic (n : Nat) (f : Nat → Nat) : Mach :=
    let c := checkedAs s mid none
    if isMain s a = false ∨ a % n ≠ 0 then unsupported s r
    else if (rightsAt s c a).atomic = false then unsupported (refuseMem s mid c 0 a) r
    else if writeLocked s c a then unsupported (physRefuse s mid c 0 a true) r
    else
      let old := cohNat s a n
      let s := countBytes s a n .write (ownerOf s mid none)
      complete (cohWrite s a (bytesOf n (f old.1 % 2 ^ (8 * n))) false) r.tag 0 (bytesOf n old.1) old.2
  match r.op with
  | .read n =>
    (match readAs s mid none 0 a n with
     | (none, s) => unsupported s r
     | (some (d, p), s) => complete s r.tag 0 d p)
  | .write d p => (writeAs s mid none 0 a d p).2
  | .fetchAdd n x => if n = 4 ∨ n = 8 then atomic n (· + x) else unsupported s r
  | .swap n x => if n = 4 ∨ n = 8 then atomic n (fun _ => x) else unsupported s r
  | .cas n x y => if n = 4 ∨ n = 8 ∨ n = 16 then atomic n (fun o => if o = x % 2 ^ (8 * n) then y else o) else unsupported s r

/-- A request to control space: a read, or a write of 4 or 8 bytes, under R466; any end but success is Unsupported Request. -/
def pcieCsp (s : Mach) (mid off : Nat) (r : PcieReq) : Mach :=
  match r.op with
  | .read n =>
    let (e, v, t) := cspRead s mid off n false
    if e = .ok then complete t r.tag 0 (bytesOf n v.toNat) false else unsupported t r
  | .write d _ => (cspWrite s mid off d.length (BitVec.ofNat 64 (ofBytes d))).2
  | _ => unsupported s r

/-- A write to an IMSIC file: delivered only if the core lies in the partition of the function group (R603). -/
def pcieMsi (s : Mach) (mid a core : Nat) (r : PcieReq) : Mach :=
  match r.op with
  | .write d _ =>
    if d.length = 4 ∧ (checkedAs s mid none).pid.isSome ∧ corePid s core = (checkedAs s mid none).pid then msiTo s a (ofBytes d) else s
  | _ => unsupported s r

/-- PCIE_DEVICE_REQUEST: a request of a device on a link that is up. -/
def pcieDeviceRequest (s : Mach) (q l : Nat) (r : PcieReq) : Mach :=
  if linkUp s q l = false then s
  else
    let die := barnDieId q
    let s := match r.op with
      | .write d _ => bumpAo s die 5 (ceilDiv d.length 64)
      | _ => s
    match pcieGroup s q r, pcieAddr s q r with
    | some k, some a =>
      let mid := 0x1C0 + 8 * q + k
      let t := match region s a with
        | .csp off => pcieCsp s mid off r
        | .imsic c _ _ => pcieMsi s mid a c r
        | .aperture _ _ => unsupported s r
        | .none => unsupported s r
        | _ => pcieMem s mid a r
      (match r.op, t.pcieOut with
       | .write _ _, _ => t
       | _, some (_, 0, d, _) => bumpAo t die 6 (ceilDiv d.length 64)
       | _, _ => t)
    | _, _ => unsupported s r

def execPcieDeviceRequest (q l : Fin 4) (r : PcieReq) (s : State) : Host.Outcome State Fault Refusal :=
  guarded r.op.wf s (fun s => pcieDeviceRequest s q l r)

/-- MSI: a device's memory write to an IMSIC file. -/
def pcieMsiWrite (s : Mach) (q l : Nat) (r : PcieReq) : Mach :=
  match (pcieAddr s q r).map (region s), r.op with
  | some (.imsic _ _ _), .write _ _ => pcieDeviceRequest s q l r
  | _, _ => s

def execMsi (q l : Fin 4) (r : PcieReq) (s : State) : Host.Outcome State Fault Refusal :=
  guarded r.op.wf s (fun s => pcieMsiWrite s q l r)

/-! ### Records to which the spec gives no class -/

/-- A record of a block whose CLASS, SUBCODE and REGION the spec does not state. -/
def classless (s : Mach) (blk die : Nat) : Mach :=
  let (w, s) := drawWord s
  raise s (mkRec s (1 + w.toNat % 19) (w.toNat / 2 ^ 8 % 2 ^ 8) blk 0x7F die 0 (w.toNat / 2 ^ 16 % 2 ^ 32))

/-- IDE_FAIL (R606): a link with IDE enabled meets a TLP that fails integrity. -/
def ideFail (s : Mach) (q l : Nat) : Mach :=
  if rb s .PCI_IDECTL q l 8 ∧ linkUp s q l = true then classless (wb s .PCI_LINK q l 11 true) 0xC (barnDieId q) else s

def execIdeFail (q l : Fin 4) (s : State) : Host.Outcome State Fault Refusal := onMach s (fun s => ideFail s q l)

/-! ### DDR5 (R598) -/

/-- DIMM_TEMPERATURE_REPORT: refresh doubles above 85 °C. -/
def dimmTemperatureReport (s : Mach) (ch : Nat) (t : Int) : Mach :=
  if rb s .DDR_STATUS ch 0 0 then wb s .DDR_STATUS ch 0 2 (decide (340 < t)) else s

def execDimmTemperatureReport (ch : Fin 16) (t : Int) (s : State) : Host.Outcome State Fault Refusal :=
  onMach s (fun s => dimmTemperatureReport s ch t)

/-! ### Management (R609 to R612) -/

def modMgt (s : Mach) (f : Mgt → Mgt) : Mach := { s with mgt := f s.mgt }

/-- SMBUS_FALLBACK (R610). -/
def smbusFallback (s : Mach) : Mach := classless (wb s .MGT_STATUS 0 0 16 true) 0x18 0

def execSmbusFallback (s : State) : Host.Outcome State Fault Refusal := onMach s (fun s => smbusFallback s)

/-- I3C_RETURN (R610): unless FORCE_SMBUS keeps the SMBus mode. -/
def i3cReturn (s : Mach) : Mach := if bit s.cfg.mgt 8 then s else wb s .MGT_STATUS 0 0 16 false

def execI3cReturn (s : State) : Host.Outcome State Fault Refusal := onMach s (fun s => i3cReturn s)

/-- DYNAMIC_ADDRESS_ASSIGNMENT (R609): an I3C address, so not in SMBus mode. -/
def dynamicAddress (s : Mach) (a : Nat) : Mach := if rb s .MGT_STATUS 0 0 16 then s else wf s .MGT_STATUS 0 0 6 0 a

def execDynamicAddressAssignment (a : Fin 128) (s : State) : Host.Outcome State Fault Refusal := onMach s (fun s => dynamicAddress s a)

/-- MCTP_CONTROL_MESSAGE (R609): Set Endpoint ID. The null and the broadcast EID are not assigned (DSP0236). -/
def mctpControl (s : Mach) (e : Nat) : Mach := if e = 0 ∨ e = 0xFF then s else modMgt s (fun m => { m with eid := e })

def execMctpControlMessage (e : Byte) (s : State) : Host.Outcome State Fault Refusal := onMach s (fun s => mctpControl s e.toNat)

/-- The reading of a sensor, in the unit of its register: none where there is no such die. -/
def pldmReading (s : Mach) : PldmReq → Option Int
  | .dieTemp d => if validDie d then some (sext 16 (rf s .PWR_TEMP 0 d 15 0)) else none
  | .stackTemp k => some (sext 16 (rf s .PWR_STEMP 0 k 15 0))
  | .pEst => some (rf s .PWR_EST 0 0 47 32)
  | .pplEff => some (rf s .PWR_PPL 0 0 59 48)
  | .phase => some (rf s .BOOT_STATUS 0 0 3 0)
  | .thermtrip => some (!s.pins.thermtripN).toNat
  | .capUnmet => some (rb s .PWR_STATUS 0 0 14).toNat
  | .getTid => some 0

/-- PLDM_REQUEST (R609). -/
def execPldmRequest (r : PldmReq) (s : State) : Host.Outcome State Fault Refusal :=
  onMach s (fun s => modMgt s (fun m => { m with reading := pldmReading s r }))

/-- MCTP_VENDOR_MESSAGE (R611): at the package's own node through the debug access path, elsewhere as MRD or MWR. The answer
is an ERR code of DBG_ACTL, or the STATUS of R446, with the value read. -/
def mctpVendor (s : Mach) (m : VendorMsg) : Mach :=
  if m.node = s.route.nodeId then
    let (e, d, s) := debugCsp s m.addr m.data
    modMgt s (fun g => { g with answer := some (e, d) })
  else
    let s := modMgt s (fun g => { g with answer := none })
    let r := match m.data with
      | none => vkRequest s 0 0 m.node ptMRD 0 (m.addr % 2 ^ 48) [] .mgmt none
      | some v => vkRequest s 0 0 m.node ptMWR 0 (m.addr % 2 ^ 48) [BitVec.ofNat 128 v.toNat] .mgmt none
    match r.1 with
    | .sent => r.2
    | .unroutable => modMgt (unroutable r.2 m.node) (fun g => { g with answer := some (7, 0) })
    | .noTag => r.2

def execMctpVendorMessage (m : VendorMsg) (s : State) : Host.Outcome State Fault Refusal := onMach s (fun s => mctpVendor s m)

/-! ### Requests of other packages (R450) -/

/-- STATUS of a control-space access (R446, R541). -/
def mrspStatus : CspRes → Nat
  | .ok => 0
  | .busy => 3
  | _ => 1

def mgtOkPkt (k : Pkt) (n : Nat) : Bool :=
  decide (k.mod_ = 0) && decide (k.addr < 2 ^ 27) && decide (k.data.length = n) && decide ((k.data.getD 0 0).toNat < 2 ^ 64)

def serveMrd (p : Nat) (k : Pkt) (s : Mach) : Mach :=
  let (e, v, s) := cspRead s (ingressMid p) k.addr 8 false
  respond s k (mrspStatus e) 0 0 [BitVec.ofNat 128 v.toNat]

def serveMwr (p : Nat) (k : Pkt) (s : Mach) : Mach :=
  let (e, s) := cspWrite s (ingressMid p) k.addr 8 (BitVec.ofNat 64 (k.data.getD 0 0).toNat)
  respond s k (mrspStatus e) 0 0 []

def execMrd (p : PortNo) (s : State) : Host.Outcome State Fault Refusal := onMach s (fun s => serveReq s p ptMRD (mgtOkPkt · 0) (serveMrd p))
def execMwr (p : PortNo) (s : State) : Host.Outcome State Fault Refusal := onMach s (fun s => serveReq s p ptMWR (mgtOkPkt · 1) (serveMwr p))

/-! ### JTAG (R613) -/

/-- A scan whose instruction register holds `ir`: the data register captures `dr` at its next scan. -/
def scan (s : Mach) (ir : Nat) (dr : Word) : Mach := modDbg s (fun d => { d with jtagIr := ir, jtagDr := dr })

/-- JTAG_INSTRUCTION: an instruction of the TAP is selected and `dr` shifted through its data register. The codes of R613 are
0x10 dtmcs, 0x11 dmi and 0x12 the debug access path; PRESUMED are 0x01 IDCODE, 0x02 SAMPLE/PRELOAD, 0x03 EXTEST, 0x04 CLAMP and
0x05 HIGHZ, and every other code is BYPASS. -/
def jtag (s : Mach) (ir : Nat) (dr : Word) : Mach :=
  match ir with
  | 0x01 => scan s ir 0x1D250B47
  | 0x02 | 0x03 | 0x04 | 0x05 =>
    if grantPkg s then
      let (w, s) := drawWord s
      scan s ir w
    else scan s 0xFF 0
  | 0x10 => scan s ir 0x71
  | 0x11 =>
    let a := fld dr 40 34
    (match fld dr 1 0 with
     | 1 =>
       let (d, s) := dmAccess s a none
       scan s ir (packFlds [(40, 34, a), (33, 2, d)])
     | 2 =>
       let (_, s) := dmAccess s a (some (fld dr 33 2))
       scan s ir (packFlds [(40, 34, a)])
     | _ => modDbg s (fun d => { d with jtagIr := ir }))
  | 0x12 =>
    let s := onActl (wf s .DBG_AADDR 0 0 47 0 (fld dr 47 0)) (setFld dr 47 0 0)
    scan s ir (rg s .DBG_ADATA 0 0)
  | _ => scan s 0xFF 0

def execJtagInstruction (ir : Byte) (dr : Word) (s : State) : Host.Outcome State Fault Refusal := onMach s (fun s => jtag s ir.toNat dr)

end Sys2Proof.Machine
end

