-- ==== Sys2Proof/Machine/Spdm.lean ====
section
/-! DEFINITION. The SPDM responder (R474, R475). The layout of requests and responses is that of DMTF DSP0274, PRESUMED: the
spec names the standard and does not restate it. -/

namespace Sys2Proof.Machine

/-! ### Measurements (R475) -/

def regBytes (s : Mach) (n : RegName) (u i : Nat) : List Byte := bytesOf 8 (regView s { name := n, unit := u, idx := i }).toNat

/-- SHA-384 of the accepted image's manifest: the Nutedex image digest (R583). -/
def bootDigest (s : Mach) : List Byte := imageDigest s.boot.image

/-- The digest of a measurement block. -/
def measBlock (s : Mach) (i : Nat) : List Byte :=
  let part (p : Nat) : List Byte := regBytes s .PRT_PART_A 0 p ++ regBytes s .PRT_PART_B 0 p ++ regBytes s .PRT_PART_C 0 p
  match i with
  | 1 => sha384 ((([.HUB_CAP0, .HUB_CAP1, .HUB_CAP2, .HUB_CAP3, .SEC_UID] : List RegName)).flatMap (fun n => regBytes s n 0 0))
  | 2 => bootDigest s
  | 3 => sha384 ((List.range 16).flatMap part ++ (List.range 512).flatMap (regBytes s .PRT_MID 0) ++
      (List.range 432).flatMap (regBytes s .PRT_GGRAN 0) ++ (List.range 4096).flatMap (regBytes s .PRT_HGRAN 0))
  | 4 => sha384 (regBytes s .SEC_DBG_STATE 0 0 ++ regBytes s .SEC_DBG_EXPIRY 0 0)
  | _ => sha384 ((List.range 16).flatMap (regBytes s .SEC_KEYEPOCH 0))

def measIndices : List Nat := [1, 2, 3, 4, 5, 0xFD]

def measValue (s : Mach) (i : Nat) : List Byte :=
  if i = 0xFD then sha384 ([1, 2, 3, 4, 5].flatMap (measBlock s)) else measBlock s i

/-- A block as DSP0274 frames it: index, specification, size, value type, value size, digest. -/
def measEntry (s : Mach) (i : Nat) : List Byte :=
  let ty := match i with | 1 => 2 | 2 => 1 | 0xFD => 4 | _ => 3
  bytesOf 1 i ++ bytesOf 1 1 ++ bytesOf 2 51 ++ bytesOf 1 ty ++ bytesOf 2 48 ++ measValue s i

/-! ### Messages -/

def modSpdm (s : Mach) (f : Spdm → Spdm) : Mach := { s with spdm := f s.spdm }

/-- A response is sent: it counts in SEC_STATUS.SPDM. -/
def spdmSend (s : Mach) (out : List Byte) : Mach := bump (modSpdm s (fun x => { x with out := out })) .SEC_STATUS 0 0 63 32 1

def spdmErr (s : Mach) (code : Nat) : Mach :=
  spdmSend s ((if s.spdm.ver = 0 then bytesOf 1 0x10 else bytesOf 1 s.spdm.ver) ++ bytesOf 1 0x7F ++ bytesOf 1 code ++ bytesOf 1 0)

def errInvalid : Nat := 1
def errBusyNow : Nat := 3
def errUnexpected : Nat := 4
def errVersion : Nat := 0x41

/-- A request of a row is answered: its code must be the row's. Before bring-up completes every request but GET_VERSION is
answered Busy; a request out of order UnexpectedRequest; one of another version VersionMismatch; one too short InvalidRequest. -/
def spdmServe (s : Mach) (req : List Byte) (code stage len : Nat) (f : Mach → Mach) : Mach :=
  if cutNat req 1 1 ≠ code ∨ req.length < 2 then s
  else if isDone s = false then spdmErr s errBusyNow
  else if s.spdm.stage < stage then spdmErr s errUnexpected
  else if cutNat req 0 1 ≠ s.spdm.ver then spdmErr s errVersion
  else if req.length < len then spdmErr s errInvalid
  else f s

/-- The transcript of measurements ends with any other request. -/
def notMeas (s : Mach) : Mach := modSpdm s (fun x => { x with meas := [] })

def head (s : Mach) (code p1 p2 : Nat) : List Byte := bytesOf 1 s.spdm.ver ++ bytesOf 1 code ++ bytesOf 1 p1 ++ bytesOf 1 p2

/-- GET_VERSION: versions 1.2 and 1.3, and the connection starts anew. -/
def getVersion (s : Mach) (req : List Byte) : Mach :=
  if cutNat req 1 1 ≠ 0x84 ∨ req.length < 4 then s
  else if cutNat req 0 1 ≠ 0x10 then spdmErr s errVersion
  else
    let out := bytesOf 6 0x020000000410 ++ bytesOf 2 0x1200 ++ bytesOf 2 0x1300
    spdmSend (modSpdm s (fun _ => { stage := 1, ver := 0, vca := req ++ out, certs := [], meas := [], out := [] })) out

def execGetVersion (req : List Byte) (s : State) : Host.Outcome State Fault Refusal := onMach s (fun s => getVersion s req)

/-- GET_CAPABILITIES: CERT_CAP, CHAL_CAP, MEAS_CAP with signatures and MEAS_FRESH_CAP. The exponent of the response time and the
sizes of transfers are free. -/
def getCapabilities (s : Mach) (req : List Byte) : Mach :=
  let v := cutNat req 0 1
  if cutNat req 1 1 ≠ 0xE1 ∨ req.length < 2 then s
  else if isDone s = false then spdmErr s errBusyNow
  else if s.spdm.stage ≠ 1 then spdmErr s errUnexpected
  else if v ≠ 0x12 ∧ v ≠ 0x13 then spdmErr s errVersion
  else if req.length < 20 then spdmErr s errInvalid
  else
    let (w, s) := drawWord s
    let (e, s) := drawWord s
    let s := modSpdm s (fun x => { x with ver := v, stage := 2 })
    let out := head s 0x61 0 0 ++ bytesOf 1 0 ++ bytesOf 1 (e.toNat % 256) ++ bytesOf 2 0 ++ bytesOf 4 0x36 ++ bytesOf 8 w.toNat
    spdmSend (modSpdm s (fun x => { x with vca := x.vca ++ req ++ out })) out

def execGetCapabilities (req : List Byte) (s : State) : Host.Outcome State Fault Refusal := onMach s (fun s => getCapabilities s req)

/-- NEGOTIATE_ALGORITHMS: ECDSA on P-384 and SHA-384, where the requester offers them. -/
def negotiateAlgorithms (s : Mach) (req : List Byte) : Mach :=
  spdmServe s req 0xE3 2 32 (fun s =>
    if s.spdm.stage ≠ 2 then spdmErr s errUnexpected
    else
      let asym := cutNat req 8 4 &&& 0x80
      let hash := cutNat req 12 4 &&& 0x2
      let out := head s 0x63 0 0 ++ bytesOf 2 36 ++ bytesOf 1 (cutNat req 6 1 &&& 1) ++ bytesOf 1 0 ++ bytesOf 4 4 ++
        bytesOf 4 asym ++ bytesOf 4 hash ++ bytesOf 16 0
      spdmSend (modSpdm s (fun x => { x with stage := 3, vca := x.vca ++ req ++ out })) out)

def execNegotiateAlgorithms (req : List Byte) (s : State) : Host.Outcome State Fault Refusal := onMach s (fun s => negotiateAlgorithms s req)

/-- The chain of slot 0 as CERTIFICATE carries it: its length, then the root digest and the certificates. -/
def slotChain (s : Mach) : List Byte :=
  let c := Config.certChain (BitVec.ofNat 384 (ofBytes (bootDigest s)))
  bytesOf 2 (4 + c.length) ++ bytesOf 2 0 ++ c

/-- GET_DIGESTS: slot 0 alone holds a chain. -/
def getDigests (s : Mach) (req : List Byte) : Mach :=
  spdmServe s req 0x81 3 4 (fun s =>
    let out := head s 0x01 (if s.spdm.ver = 0x13 then 1 else 0) 1 ++ sha384 (slotChain s)
    spdmSend (modSpdm (notMeas s) (fun x => { x with certs := x.certs ++ req ++ out })) out)

def execGetDigests (req : List Byte) (s : State) : Host.Outcome State Fault Refusal := onMach s (fun s => getDigests s req)

/-- GET_CERTIFICATE: a portion of the chain of slot 0. -/
def getCertificate (s : Mach) (req : List Byte) : Mach :=
  spdmServe s req 0x82 3 8 (fun s =>
    let chain := slotChain s
    let off := cutNat req 4 2
    if cutNat req 2 1 % 16 ≠ 0 ∨ chain.length ≤ off then spdmErr s errInvalid
    else
      let n := min (cutNat req 6 2) (chain.length - off)
      let out := head s 0x02 0 0 ++ bytesOf 2 n ++ bytesOf 2 (chain.length - off - n) ++ cutBytes chain off n
      spdmSend (modSpdm (notMeas s) (fun x => { x with certs := x.certs ++ req ++ out })) out)

def execGetCertificate (req : List Byte) (s : State) : Host.Outcome State Fault Refusal := onMach s (fun s => getCertificate s req)

/-- A signature of the alias key over a transcript, under the signing context of the response. -/
def spdmSign (s : Mach) (context : String) (msg : List Byte) : List Byte :=
  let ascii (t : String) : List Byte := t.toList.map (fun c => BitVec.ofNat 8 c.toNat)
  let pre := ascii (if s.spdm.ver = 0x13 then "dmtf-spdm-v1.3.*" else "dmtf-spdm-v1.2.*")
  let ctx := ascii context
  let m := pre ++ pre ++ pre ++ pre ++ List.replicate (36 - ctx.length) 0 ++ ctx ++ sha384 msg
  bytesOf 96 (Config.aliasSign (BitVec.ofNat 384 (ofBytes (bootDigest s))) (BitVec.ofNat 384 (ofBytes (sha384 m)))).toNat

/-- CHALLENGE: the responder's nonce is free. -/
def challenge (s : Mach) (req : List Byte) : Mach :=
  let v13 := decide (s.spdm.ver = 0x13)
  spdmServe s req 0x83 3 (if v13 then 44 else 36) (fun s =>
    if cutNat req 2 1 % 16 ≠ 0 then spdmErr s errInvalid
    else
      let (nonce, s) := drawBytes s 32
      let sum := if cutNat req 3 1 = 0 then [] else sha384 (measIndices.flatMap (measEntry s))
      let body := head s 0x03 0 1 ++ sha384 (slotChain s) ++ nonce ++ sum ++ bytesOf 2 0 ++ (if v13 then cutBytes req 36 8 else [])
      let sig := spdmSign s "responder-challenge_auth signing" (s.spdm.vca ++ s.spdm.certs ++ req ++ body)
      spdmSend (modSpdm (notMeas s) (fun x => { x with certs := [] })) (body ++ sig))

def execChallenge (req : List Byte) (s : State) : Host.Outcome State Fault Refusal := onMach s (fun s => challenge s req)

/-- GET_MEASUREMENTS: the number of blocks, all of them, or the one named; signed where asked. -/
def getMeasurements (s : Mach) (req : List Byte) : Mach :=
  let v13 := decide (s.spdm.ver = 0x13)
  let sign := cutNat req 2 1 % 2 = 1
  let len := (if sign then 37 else 4) + (if v13 then 8 else 0)
  spdmServe s req 0xE0 3 len (fun s =>
    let op := cutNat req 3 1
    if (op ≠ 0 ∧ op ≠ 0xFF ∧ measIndices.contains op = false) ∨ (sign ∧ cutNat req 36 1 % 16 ≠ 0) then spdmErr s errInvalid
    else
      let (nonce, s) := drawBytes s 32
      let ids := if op = 0 then [] else if op = 0xFF then measIndices else [op]
      let entries := ids.flatMap (measEntry s)
      let body := head s 0x60 (if op = 0 then measIndices.length else 0) 0 ++ bytesOf 1 ids.length ++ bytesOf 3 entries.length ++ entries ++
        nonce ++ bytesOf 2 0 ++ (if v13 then cutBytes req (len - 8) 8 else [])
      let log := s.spdm.meas ++ req ++ body
      if sign then
        let sig := spdmSign s "responder-measurements signing" (s.spdm.vca ++ log)
        spdmSend (modSpdm s (fun x => { x with meas := [], certs := [] })) (body ++ sig)
      else spdmSend (modSpdm s (fun x => { x with meas := log, certs := [] })) body)

def execGetMeasurements (req : List Byte) (s : State) : Host.Outcome State Fault Refusal := onMach s (fun s => getMeasurements s req)

end Sys2Proof.Machine
end

