-- ==== Sys2Proof/Machine/Dispatch.lean ====
section
/-! DEFINITION. The meaning of each command: one arm for every constructor. -/

namespace Sys2Proof.Machine

def exec (i : Instr) (s : State) : Host.Outcome State Fault Refusal :=
  match i with
  -- bring-up and resets
  | .pkgPwrokRise reports resetLow => Sys2Proof.Machine.execPkgPwrokRise reports resetLow s
  | .strapsPhaseTimeout down => Sys2Proof.Machine.execStrapsPhaseTimeout down s
  | .imageRead slot octal bytes => Sys2Proof.Machine.execImageRead slot octal bytes s
  | .flashTimeout present => Sys2Proof.Machine.execFlashTimeout present s
  | .slotFallback => Sys2Proof.Machine.execSlotFallback s
  | .auth => Sys2Proof.Machine.execAuth s
  | .config => Sys2Proof.Machine.execConfig s
  | .train => Sys2Proof.Machine.execTrain s
  | .ddrChannelTraining ch spd => Sys2Proof.Machine.execDdrChannelTraining ch spd s
  | .hbmStackTraining stack pcUp => Sys2Proof.Machine.execHbmStackTraining stack pcUp s
  | .trainTimeout => Sys2Proof.Machine.execTrainTimeout s
  | .fitCheck => Sys2Proof.Machine.execFitCheck s
  | .almwaitRelease => Sys2Proof.Machine.execAlmwaitRelease s
  | .pkgResetNLow ns => Sys2Proof.Machine.execPkgResetNLow ns s
  | .pkgResetNRise => Sys2Proof.Machine.execPkgResetNRise s
  | .pkgPwrokFall => Sys2Proof.Machine.execPkgPwrokFall s
  | .fltRstPackage mid val => Sys2Proof.Machine.execFltRstPackage mid val s
  | .fltRstDieRst mid val => Sys2Proof.Machine.execFltRstDieRst mid val s
  | .dieAlmanacReload die => Sys2Proof.Machine.execDieAlmanacReload die s
  | .fltPrstAssert mid val => Sys2Proof.Machine.execFltPrstAssert mid val s
  | .prstSettleTimeout => Sys2Proof.Machine.execPrstSettleTimeout s
  | .l2WritebackTimeout => Sys2Proof.Machine.execL2WritebackTimeout s
  | .fltPrstRelease mid val => Sys2Proof.Machine.execFltPrstRelease mid val s
  -- almanac
  | .almMark dt16 => Sys2Proof.Machine.execAlmMark dt16 s
  | .refLost => Sys2Proof.Machine.execRefLost s
  | .acqTimeout => Sys2Proof.Machine.execAcqTimeout s
  | .grandmasterListenEnd => Sys2Proof.Machine.execGrandmasterListenEnd s
  | .beacon p b dt16 => Sys2Proof.Machine.execBeacon p b dt16 s
  | .beaconLaunch p => Sys2Proof.Machine.execBeaconLaunch p s
  | .exchangeRequest p m dt16 => Sys2Proof.Machine.execExchangeRequest p m dt16 s
  | .exchangeSend p => Sys2Proof.Machine.execExchangeSend p s
  | .exchangeReply p m dt16 => Sys2Proof.Machine.execExchangeReply p m dt16 s
  | .acquireStart p => Sys2Proof.Machine.execAcquireStart p s
  | .frequencyLocked => Sys2Proof.Machine.execFrequencyLocked s
  | .countLoad => Sys2Proof.Machine.execCountLoad s
  | .declareLock => Sys2Proof.Machine.execDeclareLock s
  | .lockLost => Sys2Proof.Machine.execLockLost s
  | .holdBoundUpdate => Sys2Proof.Machine.execHoldBoundUpdate s
  | .parentReturn p => Sys2Proof.Machine.execParentReturn p s
  | .slewComplete => Sys2Proof.Machine.execSlewComplete s
  | .stepArm mid val => Sys2Proof.Machine.execStepArm mid val s
  | .stepApply => Sys2Proof.Machine.execStepApply s
  | .reacquire mid val => Sys2Proof.Machine.execReacquire mid val s
  -- furrow
  | .slotIssue b st => Sys2Proof.Machine.execSlotIssue b st s
  | .fetchStall b st => Sys2Proof.Machine.execFetchStall b st s
  | .fetchArrival b st fclk => Sys2Proof.Machine.execFetchArrival b st fclk s
  | .idle b st => Sys2Proof.Machine.execIdle b st s
  | .flex b => Sys2Proof.Machine.execFlex b s
  | .flexWindowEnd b => Sys2Proof.Machine.execFlexWindowEnd b s
  | .yield b => Sys2Proof.Machine.execYield b s
  | .furrowEnd b => Sys2Proof.Machine.execFurrowEnd b s
  | .mark b => Sys2Proof.Machine.execMark b s
  | .resume b => Sys2Proof.Machine.execResume b s
  | .rotaAnnounce p => Sys2Proof.Machine.execRotaAnnounce p s
  | .rotaGoRefuse p => Sys2Proof.Machine.execRotaGoRefuse p s
  | .sliceBegin p => Sys2Proof.Machine.execSliceBegin p s
  | .clearComplete b => Sys2Proof.Machine.execClearComplete b s
  | .sliceEnd p => Sys2Proof.Machine.execSliceEnd p s
  | .settlementComplete b => Sys2Proof.Machine.execSettlementComplete b s
  | .settleLimitExpiry b => Sys2Proof.Machine.execSettleLimitExpiry b s
  | .seqRotaCtlEnable mid b val => Sys2Proof.Machine.execSeqRotaCtlEnable mid b val s
  | .seqRotaCtlStop mid b val => Sys2Proof.Machine.execSeqRotaCtlStop mid b val s
  | .seqRotaCtlAbort mid b val => Sys2Proof.Machine.execSeqRotaCtlAbort mid b val s
  | .rotaEntryWrite mid b n val => Sys2Proof.Machine.execRotaEntryWrite mid b n val s
  -- tokens and deadlines
  | .tokenDelivery ix late => Sys2Proof.Machine.execTokenDelivery ix late s
  | .signal b st => Sys2Proof.Machine.execSignal b st s
  | .wait b st => Sys2Proof.Machine.execWait b st s
  | .waitRelease b st => Sys2Proof.Machine.execWaitRelease b st s
  | .br b st => Sys2Proof.Machine.execBr b st s
  | .loop b st => Sys2Proof.Machine.execLoop b st s
  | .dbr b st => Sys2Proof.Machine.execDbr b st s
  | .dbrDecide b st => Sys2Proof.Machine.execDbrDecide b st s
  | .settle b st => Sys2Proof.Machine.execSettle b st s
  | .settleRelease b st => Sys2Proof.Machine.execSettleRelease b st s
  | .rdv b st => Sys2Proof.Machine.execRdv b st s
  | .rdvCombine b ch => Sys2Proof.Machine.execRdvCombine b ch s
  | .rdvArr ix => Sys2Proof.Machine.execRdvArr ix s
  | .rdvRel ix => Sys2Proof.Machine.execRdvRel ix s
  | .rdvProceed b ch => Sys2Proof.Machine.execRdvProceed b ch s
  | .rdvAbandon b ch => Sys2Proof.Machine.execRdvAbandon b ch s
  | .gear b st => Sys2Proof.Machine.execGear b st s
  | .tbase b st => Sys2Proof.Machine.execTbase b st s
  | .seqToksigWrite mid b val => Sys2Proof.Machine.execSeqToksigWrite mid b val s
  -- matrix array
  | .prof b ue => Sys2Proof.Machine.execProf b ue s
  | .pass b err => Sys2Proof.Machine.execPass b err s
  | .drain b => Sys2Proof.Machine.execDrain b s
  | .mxaDrainComplete b bank => Sys2Proof.Machine.execMxaDrainComplete b bank s
  | .mxaFlexRequest b => Sys2Proof.Machine.execMxaFlexRequest b s
  -- vector engine
  | .setp b => Sys2Proof.Machine.execSetp b s
  | .sets b => Sys2Proof.Machine.execSets b s
  | .iota b => Sys2Proof.Machine.execIota b s
  | .mov b => Sys2Proof.Machine.execMov b s
  | .sel b => Sys2Proof.Machine.execSel b s
  | .cvt b => Sys2Proof.Machine.execCvt b s
  | .perm b => Sys2Proof.Machine.execPerm b s
  | .add b => Sys2Proof.Machine.execAdd b s
  | .sub b => Sys2Proof.Machine.execSub b s
  | .mul b => Sys2Proof.Machine.execMul b s
  | .fma b => Sys2Proof.Machine.execFma b s
  | .fms b => Sys2Proof.Machine.execFms b s
  | .fnma b => Sys2Proof.Machine.execFnma b s
  | .min b => Sys2Proof.Machine.execMin b s
  | .max b => Sys2Proof.Machine.execMax b s
  | .abs b => Sys2Proof.Machine.execAbs b s
  | .neg b => Sys2Proof.Machine.execNeg b s
  | .rint b => Sys2Proof.Machine.execRint b s
  | .div b => Sys2Proof.Machine.execDiv b s
  | .sqrt b => Sys2Proof.Machine.execSqrt b s
  | .rcp b => Sys2Proof.Machine.execRcp b s
  | .rsqrt b => Sys2Proof.Machine.execRsqrt b s
  | .exp2 b => Sys2Proof.Machine.execExp2 b s
  | .exp b => Sys2Proof.Machine.execExp b s
  | .log2 b => Sys2Proof.Machine.execLog2 b s
  | .log b => Sys2Proof.Machine.execLog b s
  | .tanh b => Sys2Proof.Machine.execTanh b s
  | .sigm b => Sys2Proof.Machine.execSigm b s
  | .erf b => Sys2Proof.Machine.execErf b s
  | .sin b => Sys2Proof.Machine.execSin b s
  | .cos b => Sys2Proof.Machine.execCos b s
  | .iadd b => Sys2Proof.Machine.execIadd b s
  | .isub b => Sys2Proof.Machine.execIsub b s
  | .imul b => Sys2Proof.Machine.execImul b s
  | .imin b => Sys2Proof.Machine.execImin b s
  | .imax b => Sys2Proof.Machine.execImax b s
  | .and b => Sys2Proof.Machine.execAnd b s
  | .or b => Sys2Proof.Machine.execOr b s
  | .xor b => Sys2Proof.Machine.execXor b s
  | .shl b => Sys2Proof.Machine.execShl b s
  | .shr b => Sys2Proof.Machine.execShr b s
  | .sra b => Sys2Proof.Machine.execSra b s
  | .cmp b => Sys2Proof.Machine.execCmp b s
  | .mlog b => Sys2Proof.Machine.execMlog b s
  | .winnow b => Sys2Proof.Machine.execWinnow b s
  | .resow b => Sys2Proof.Machine.execResow b s
  | .red b => Sys2Proof.Machine.execRed b s
  | .aadd b => Sys2Proof.Machine.execAadd b s
  | .amac b => Sys2Proof.Machine.execAmac b s
  | .ared b => Sys2Proof.Machine.execAred b s
  | .ald b => Sys2Proof.Machine.execAld b s
  | .ast b => Sys2Proof.Machine.execAst b s
  | .aout b => Sys2Proof.Machine.execAout b s
  | .aclr b => Sys2Proof.Machine.execAclr b s
  | .flags b => Sys2Proof.Machine.execFlags b s
  | .vxeResultWrite b err => Sys2Proof.Machine.execVxeResultWrite b err s
  -- sheaf engines
  | .sheafResident b e => Sys2Proof.Machine.execSheafResident b e s
  | .issueGroupSelect b e => Sys2Proof.Machine.execIssueGroupSelect b e s
  | .shfInstruction b e => Sys2Proof.Machine.execShfInstruction b e s
  | .shfMemoryAccess b e => Sys2Proof.Machine.execShfMemoryAccess b e s
  | .shfLoadResult b e => Sys2Proof.Machine.execShfLoadResult b e s
  | .lftLb b e => Sys2Proof.Machine.execLftLb b e s
  | .lftLh b e => Sys2Proof.Machine.execLftLh b e s
  | .lftLw b e => Sys2Proof.Machine.execLftLw b e s
  | .lftLd b e => Sys2Proof.Machine.execLftLd b e s
  | .lftLbu b e => Sys2Proof.Machine.execLftLbu b e s
  | .lftLhu b e => Sys2Proof.Machine.execLftLhu b e s
  | .lftLwu b e => Sys2Proof.Machine.execLftLwu b e s
  | .lftSb b e => Sys2Proof.Machine.execLftSb b e s
  | .lftSh b e => Sys2Proof.Machine.execLftSh b e s
  | .lftSw b e => Sys2Proof.Machine.execLftSw b e s
  | .lftSd b e => Sys2Proof.Machine.execLftSd b e s
  | .voteAny b e => Sys2Proof.Machine.execVoteAny b e s
  | .voteAll b e => Sys2Proof.Machine.execVoteAll b e s
  | .ballot b e => Sys2Proof.Machine.execBallot b e s
  | .bar b e => Sys2Proof.Machine.execBar b e s
  | .shflIdx b e => Sys2Proof.Machine.execShflIdx b e s
  | .shflUp b e => Sys2Proof.Machine.execShflUp b e s
  | .shflDown b e => Sys2Proof.Machine.execShflDown b e s
  | .shflXor b e => Sys2Proof.Machine.execShflXor b e s
  | .groupExecute b e => Sys2Proof.Machine.execGroupExecute b e s
  | .groupDiverge b e => Sys2Proof.Machine.execGroupDiverge b e s
  | .semAdd b e => Sys2Proof.Machine.execSemAdd b e s
  | .semSub b e => Sys2Proof.Machine.execSemSub b e s
  | .semWait b e => Sys2Proof.Machine.execSemWait b e s
  | .semWaitSatisfied b => Sys2Proof.Machine.execSemWaitSatisfied b s
  | .mxaIssue b e => Sys2Proof.Machine.execMxaIssue b e s
  | .baleIssue b e => Sys2Proof.Machine.execBaleIssue b e s
  | .tokSig b e => Sys2Proof.Machine.execTokSig b e s
  | .shfExit b e => Sys2Proof.Machine.execShfExit b e s
  | .ecall b e => Sys2Proof.Machine.execEcall b e s
  | .ebreak b e => Sys2Proof.Machine.execEbreak b e s
  | .windUp b e => Sys2Proof.Machine.execWindUp b e s
  -- bay semaphores
  | .sadd b => Sys2Proof.Machine.execSadd b s
  | .ssub b => Sys2Proof.Machine.execSsub b s
  | .sset b => Sys2Proof.Machine.execSset b s
  | .swait b => Sys2Proof.Machine.execSwait b s
  | .swaitRelease b => Sys2Proof.Machine.execSwaitRelease b s
  | .semPerform b => Sys2Proof.Machine.execSemPerform b s
  | .semCompletionAdd b => Sys2Proof.Machine.execSemCompletionAdd b s
  | .semArraySet mid b ix n => Sys2Proof.Machine.execSemArraySet mid b ix n s
  | .semArrayAdd mid b ix n => Sys2Proof.Machine.execSemArrayAdd mid b ix n s
  | .semArraySub mid b ix n => Sys2Proof.Machine.execSemArraySub mid b ix n s
  | .semPoolWrite mid b k val => Sys2Proof.Machine.execSemPoolWrite mid b k val s
  | .semXferSave mid b val => Sys2Proof.Machine.execSemXferSave mid b val s
  | .semXferLoad mid b val => Sys2Proof.Machine.execSemXferLoad mid b val s
  | .semXferComplete b => Sys2Proof.Machine.execSemXferComplete b s
  -- loft and granary
  | .loftAccess b err => Sys2Proof.Machine.execLoftAccess b err s
  | .flexTimeout b who => Sys2Proof.Machine.execFlexTimeout b who s
  | .lftSplitWrite mid b val => Sys2Proof.Machine.execLftSplitWrite mid b val s
  | .lftCctlFlush mid b val => Sys2Proof.Machine.execLftCctlFlush mid b val s
  | .lftCctlEnable mid b val => Sys2Proof.Machine.execLftCctlEnable mid b val s
  | .cacheFlushComplete b => Sys2Proof.Machine.execCacheFlushComplete b s
  | .cacheRegionLookup b => Sys2Proof.Machine.execCacheRegionLookup b s
  | .loftWindowAccess mid proxy addr op => Sys2Proof.Machine.execLoftWindowAccess mid proxy addr op s
  | .granaryRequest pc arrivals acyc => Sys2Proof.Machine.execGranaryRequest pc arrivals acyc s
  | .flexAgeExpiry pc => Sys2Proof.Machine.execFlexAgeExpiry pc s
  | .patrolScrub line ue => Sys2Proof.Machine.execPatrolScrub line ue s
  | .sharedRegionWrite mid barn n val => Sys2Proof.Machine.execSharedRegionWrite mid barn n val s
  -- movers
  | .move b m => Sys2Proof.Machine.execMove b m s
  | .moveLanding b ix => Sys2Proof.Machine.execMoveLanding b ix s
  | .moveSourceData b ix => Sys2Proof.Machine.execMoveSourceData b ix s
  | .moveCompletion b ix => Sys2Proof.Machine.execMoveCompletion b ix s
  | .nearMemoryAdd m => Sys2Proof.Machine.execNearMemoryAdd m s
  | .nmaRefused m => Sys2Proof.Machine.execNmaRefused m s
  | .flexQueueRoom b => Sys2Proof.Machine.execFlexQueueRoom b s
  | .movBsub mid barn val => Sys2Proof.Machine.execMovBsub mid barn val s
  | .barnMove barn k => Sys2Proof.Machine.execBarnMove barn k s
  -- engine translation: units 0 to 71 are bays, 72 to 75 barn dies; dies 0 to 5 are compute, 6 to 9 barn
  | .translationLookup u q => Sys2Proof.Machine.execTranslationLookup u q s
  | .walk die => Sys2Proof.Machine.execWalk die s
  | .walkReadReturn die ix => Sys2Proof.Machine.execWalkReadReturn die ix s
  | .faultRecordWrite die => Sys2Proof.Machine.execFaultRecordWrite die s
  | .etrPfrespRetry mid die val => Sys2Proof.Machine.execEtrPfrespRetry mid die val s
  | .etrPfrespAbort mid die val => Sys2Proof.Machine.execEtrPfrespAbort mid die val s
  | .pfTimeout die slot => Sys2Proof.Machine.execPfTimeout die slot s
  | .invalidateAll mid die val => Sys2Proof.Machine.execInvalidateAll mid die val s
  | .invalidateTid mid die val => Sys2Proof.Machine.execInvalidateTid mid die val s
  | .invalidateRange mid die val => Sys2Proof.Machine.execInvalidateRange mid die val s
  | .invalidationComplete die => Sys2Proof.Machine.execInvalidationComplete die s
  -- host cores
  | .coreInstruction c => Sys2Proof.Machine.execCoreInstruction c s
  | .storeBufferDrain c => Sys2Proof.Machine.execStoreBufferDrain c s
  | .tagLoss k line => Sys2Proof.Machine.execTagLoss k line s
  | .llcWayDisable d way => Sys2Proof.Machine.execLlcWayDisable d way s
  | .cohLlcwayDisWrite mid d val => Sys2Proof.Machine.execCohLlcwayDisWrite mid d val s
  | .pstateRequest c val => Sys2Proof.Machine.execPstateRequest c val s
  | .pstateChangeComplete cl => Sys2Proof.Machine.execPstateChangeComplete cl s
  | .l2Disable c val => Sys2Proof.Machine.execL2Disable c val s
  | .l2DisableComplete c => Sys2Proof.Machine.execL2DisableComplete c s
  | .cacheEnable c val => Sys2Proof.Machine.execCacheEnable c val s
  | .invL1i c val => Sys2Proof.Machine.execInvL1i c val s
  | .invL1d c val => Sys2Proof.Machine.execInvL1d c val s
  | .invL2 c val => Sys2Proof.Machine.execInvL2 c val s
  | .hd8Write c val => Sys2Proof.Machine.execHd8Write c val s
  | .reservationTimeout c => Sys2Proof.Machine.execReservationTimeout c s
  | .cmxCfg c => Sys2Proof.Machine.execCmxCfg c s
  | .cmxZero c => Sys2Proof.Machine.execCmxZero c s
  | .cmxMma c err => Sys2Proof.Machine.execCmxMma c err s
  | .cmxSta c err => Sys2Proof.Machine.execCmxSta c err s
  | .cmxWait c => Sys2Proof.Machine.execCmxWait c s
  | .cmxLda c => Sys2Proof.Machine.execCmxLda c s
  | .cmxSquash c => Sys2Proof.Machine.execCmxSquash c s
  | .cmxComplete c => Sys2Proof.Machine.execCmxComplete c s
  -- coherence
  | .readAllocating who line => Sys2Proof.Machine.execReadAllocating who line s
  | .readForOwnership who line => Sys2Proof.Machine.execReadForOwnership who line s
  | .nonAllocatingRead mid line => Sys2Proof.Machine.execNonAllocatingRead mid line s
  | .nonAllocatingFullWrite mid line data poisoned => Sys2Proof.Machine.execNonAllocatingFullWrite mid line data poisoned s
  | .nonAllocatingPartialWrite mid line data bytes poisoned => Sys2Proof.Machine.execNonAllocatingPartialWrite mid line data bytes poisoned s
  | .snoop pos line => Sys2Proof.Machine.execSnoop pos line s
  | .snoopResponse pos line => Sys2Proof.Machine.execSnoopResponse pos line s
  | .holdWindowEnd pos line => Sys2Proof.Machine.execHoldWindowEnd pos line s
  | .writeBack who line => Sys2Proof.Machine.execWriteBack who line s
  | .wbAck who line => Sys2Proof.Machine.execWbAck who line s
  | .completionAck line => Sys2Proof.Machine.execCompletionAck line s
  | .retry ix => Sys2Proof.Machine.execRetry ix s
  | .presenceTransfer coreDie line => Sys2Proof.Machine.execPresenceTransfer coreDie line s
  | .snoopTmo line => Sys2Proof.Machine.execSnoopTmo line s
  | .dirUe line => Sys2Proof.Machine.execDirUe line s
  | .depart core home => Sys2Proof.Machine.execDepart core home s
  | .departSweepComplete core home => Sys2Proof.Machine.execDepartSweepComplete core home s
  -- Vrelrek links
  | .vkDetect p tx rx => Sys2Proof.Machine.execVkDetect p tx rx s
  | .vkLock p num pol => Sys2Proof.Machine.execVkLock p num pol s
  | .vkMap p peer => Sys2Proof.Machine.execVkMap p peer s
  | .vkEqualise p => Sys2Proof.Machine.execVkEqualise p s
  | .ident p slot0 slot1 => Sys2Proof.Machine.execIdent p slot0 slot1 s
  | .trainingTimeout p => Sys2Proof.Machine.execTrainingTimeout p s
  | .vkRetrainTrigger p why => Sys2Proof.Machine.execVkRetrainTrigger p why s
  | .vkCtlRetrain mid p val => Sys2Proof.Machine.execVkCtlRetrain mid p val s
  | .vkCtlEnable mid p val => Sys2Proof.Machine.execVkCtlEnable mid p val s
  | .portFailed p => Sys2Proof.Machine.execPortFailed p s
  | .flitReceive p bytes corr ucw dt16 => Sys2Proof.Machine.execFlitReceive p bytes corr ucw dt16 s
  | .flitLaunch p => Sys2Proof.Machine.execFlitLaunch p s
  | .nak p => Sys2Proof.Machine.execNak p s
  | .ackTimeout p => Sys2Proof.Machine.execAckTimeout p s
  | .expressEntry p => Sys2Proof.Machine.execExpressEntry p s
  | .expressDue p => Sys2Proof.Machine.execExpressDue p s
  | .packetForward p => Sys2Proof.Machine.execPacketForward p s
  | .spill p => Sys2Proof.Machine.execSpill p s
  -- Vrelrek memory space
  | .rd p => Sys2Proof.Machine.execRd p s
  | .wr p => Sys2Proof.Machine.execWr p s
  | .wrm p => Sys2Proof.Machine.execWrm p s
  | .atom p => Sys2Proof.Machine.execAtom p s
  | .nadd p => Sys2Proof.Machine.execNadd p s
  | .lwr p => Sys2Proof.Machine.execLwr p s
  | .lrd p => Sys2Proof.Machine.execLrd p s
  | .stok p => Sys2Proof.Machine.execStok p s
  | .rdata p => Sys2Proof.Machine.execRdata p s
  | .wack p => Sys2Proof.Machine.execWack p s
  | .arsp p => Sys2Proof.Machine.execArsp p s
  | .swr p => Sys2Proof.Machine.execSwr p s
  | .slwr p => Sys2Proof.Machine.execSlwr p s
  | .scheduledLaunch p => Sys2Proof.Machine.execScheduledLaunch p s
  | .mrd p => Sys2Proof.Machine.execMrd p s
  | .mwr p => Sys2Proof.Machine.execMwr p s
  | .mrsp p => Sys2Proof.Machine.execMrsp p s
  | .remoteTimeout ix => Sys2Proof.Machine.execRemoteTimeout ix s
  | .pshift => Sys2Proof.Machine.execPshift s
  | .pshiftSend => Sys2Proof.Machine.execPshiftSend s
  | .leaseEnd => Sys2Proof.Machine.execLeaseEnd s
  -- protection and attestation
  | .tenantCommit mid t val => Sys2Proof.Machine.execTenantCommit mid t val s
  | .rekey mid val => Sys2Proof.Machine.execRekey mid val s
  | .rekeyComplete => Sys2Proof.Machine.execRekeyComplete s
  | .submit by_ val => Sys2Proof.Machine.execSubmit by_ val s
  | .revoke by_ val => Sys2Proof.Machine.execRevoke by_ val s
  | .grantExpiry => Sys2Proof.Machine.execGrantExpiry s
  | .getVersion req => Sys2Proof.Machine.execGetVersion req s
  | .getCapabilities req => Sys2Proof.Machine.execGetCapabilities req s
  | .negotiateAlgorithms req => Sys2Proof.Machine.execNegotiateAlgorithms req s
  | .getDigests req => Sys2Proof.Machine.execGetDigests req s
  | .getCertificate req => Sys2Proof.Machine.execGetCertificate req s
  | .challenge req => Sys2Proof.Machine.execChallenge req s
  | .getMeasurements req => Sys2Proof.Machine.execGetMeasurements req s
  -- work rings
  | .rngDbProd mid r w4 val => Sys2Proof.Machine.execRngDbProd mid r w4 val s
  | .rngDbCons mid r val => Sys2Proof.Machine.execRngDbCons mid r val s
  | .hwItem => Sys2Proof.Machine.execHwItem s
  | .hwItemRoom r => Sys2Proof.Machine.execHwItemRoom r s
  | .barnItemTake r => Sys2Proof.Machine.execBarnItemTake r s
  | .atomItemTake r => Sys2Proof.Machine.execAtomItemTake r s
  | .completionItem => Sys2Proof.Machine.execCompletionItem s
  | .flush mid r val => Sys2Proof.Machine.execFlush mid r val s
  | .discard mid r val => Sys2Proof.Machine.execDiscard mid r val s
  | .pendTimeout r => Sys2Proof.Machine.execPendTimeout r s
  | .ringMsi r => Sys2Proof.Machine.execRingMsi r s
  | .rngCfgWrite mid r val => Sys2Proof.Machine.execRngCfgWrite mid r val s
  -- power
  | .gearSelection t => Sys2Proof.Machine.execGearSelection t s
  | .gearRequestDecision => Sys2Proof.Machine.execGearRequestDecision s
  | .gearChange => Sys2Proof.Machine.execGearChange s
  | .surgeUpdate => Sys2Proof.Machine.execSurgeUpdate s
  | .peakHold => Sys2Proof.Machine.execPeakHold s
  | .holdEnd => Sys2Proof.Machine.execHoldEnd s
  | .fallowFrame => Sys2Proof.Machine.execFallowFrame s
  | .droopTrip d => Sys2Proof.Machine.execDroopTrip d s
  | .droopClear d => Sys2Proof.Machine.execDroopClear d s
  | .droopEsc d => Sys2Proof.Machine.execDroopEsc d s
  | .pwrAlert => Sys2Proof.Machine.execPwrAlert s
  | .alertClear dt16 => Sys2Proof.Machine.execAlertClear dt16 s
  | .reconcile meas => Sys2Proof.Machine.execReconcile meas s
  | .thermalTrip die => Sys2Proof.Machine.execThermalTrip die s
  | .pplWWrite mid val => Sys2Proof.Machine.execPplWWrite mid val s
  | .ageWrite mid val => Sys2Proof.Machine.execAgeWrite mid val s
  -- faults
  | .faultRecord src => Sys2Proof.Machine.execFaultRecord src s
  | .windowEndSummary => Sys2Proof.Machine.execWindowEndSummary s
  | .ringCopyTimeout => Sys2Proof.Machine.execRingCopyTimeout s
  | .repairRequest stack n line => Sys2Proof.Machine.execRepairRequest stack n line s
  | .repairReadReturn timedOut => Sys2Proof.Machine.execRepairReadReturn timedOut s
  | .repairRetry => Sys2Proof.Machine.execRepairRetry s
  | .repairReadback clean => Sys2Proof.Machine.execRepairReadback clean s
  | .linkRetryLimit die link retries inARow => Sys2Proof.Machine.execLinkRetryLimit die link retries inARow s
  | .bellPing answered => Sys2Proof.Machine.execBellPing answered s
  | .wedgeTimeout die => Sys2Proof.Machine.execWedgeTimeout die s
  | .bellBreak unreachable => Sys2Proof.Machine.execBellBreak unreachable s
  | .bellFrame crcOk => Sys2Proof.Machine.execBellFrame crcOk s
  | .fltLogctlTailWrite mid val => Sys2Proof.Machine.execFltLogctlTailWrite mid val s
  -- debug, trace and counters
  | .peek by_ val => Sys2Proof.Machine.execPeek by_ val s
  | .poke by_ val => Sys2Proof.Machine.execPoke by_ val s
  | .dbgDmiAccess by_ val => Sys2Proof.Machine.execDbgDmiAccess by_ val s
  | .partitionHalt by_ val => Sys2Proof.Machine.execPartitionHalt by_ val s
  | .partitionResume by_ val => Sys2Proof.Machine.execPartitionResume by_ val s
  | .bayHalt b => Sys2Proof.Machine.execBayHalt b s
  | .bayResume b => Sys2Proof.Machine.execBayResume b s
  | .haltDeferExpiry a => Sys2Proof.Machine.execHaltDeferExpiry a s
  | .lockedSequenceEnd a => Sys2Proof.Machine.execLockedSequenceEnd a s
  | .tresume by_ b val => Sys2Proof.Machine.execTresume by_ b val s
  | .pcSample b => Sys2Proof.Machine.execPcSample b s
  | .traceRecord => Sys2Proof.Machine.execTraceRecord s
  | .sinkWrite b => Sys2Proof.Machine.execSinkWrite b s
  | .trigger p => Sys2Proof.Machine.execTrigger p s
  | .trcCtlTrigger by_ val => Sys2Proof.Machine.execTrcCtlTrigger by_ val s
  | .trcCtlStop by_ val => Sys2Proof.Machine.execTrcCtlStop by_ val s
  | .trcCfgEnable by_ val => Sys2Proof.Machine.execTrcCfgEnable by_ val s
  | .snapshotArm mid val => Sys2Proof.Machine.execSnapshotArm mid val s
  | .snapshotTake u => Sys2Proof.Machine.execSnapshotTake u s
  -- external interfaces
  | .pcieDeviceRequest q l r => Sys2Proof.Machine.execPcieDeviceRequest q l r s
  | .msi q l r => Sys2Proof.Machine.execMsi q l r s
  | .ideFail q l => Sys2Proof.Machine.execIdeFail q l s
  | .ideKeyWrite mid q ix val => Sys2Proof.Machine.execIdeKeyWrite mid q ix val s
  | .smbusFallback => Sys2Proof.Machine.execSmbusFallback s
  | .i3cReturn => Sys2Proof.Machine.execI3cReturn s
  | .mctpVendorMessage m => Sys2Proof.Machine.execMctpVendorMessage m s
  | .jtagInstruction ir dr => Sys2Proof.Machine.execJtagInstruction ir dr s
  | .rcRead mid addr size => Sys2Proof.Machine.execRcRead mid addr size s
  | .registerWrite mid addr size val => Sys2Proof.Machine.execRegisterWrite mid addr size val s
  | .refclkLock => Sys2Proof.Machine.execRefclkLock s
  | .grant who line => Sys2Proof.Machine.execGrant who line s
  | .tagHoldbackExpiry mid tag => Sys2Proof.Machine.execTagHoldbackExpiry mid tag s
  | .flexQueueMoveStart b m => Sys2Proof.Machine.execFlexQueueMoveStart b m s
  | .pcieLinkTraining q l width rate flit reversed => Sys2Proof.Machine.execPcieLinkTraining q l width rate flit reversed s
  | .dimmTemperatureReport ch quarterDeg => Sys2Proof.Machine.execDimmTemperatureReport ch quarterDeg s
  | .dynamicAddressAssignment addr => Sys2Proof.Machine.execDynamicAddressAssignment addr s
  | .mctpControlMessage eid => Sys2Proof.Machine.execMctpControlMessage eid s
  | .pldmRequest r => Sys2Proof.Machine.execPldmRequest r s

end Sys2Proof.Machine
end

