-- ==== Sys2Proof/Machine/Step.lean ====
section
/-! DEFINITION. The step of the package: the command at the front of the queue is carried out; with none waiting, one
almanac cycle passes. -/

namespace Sys2Proof.Machine

/-- What a step does when no command waits: time moves on by one ACYC, and nothing else (DESIGN CHOICE, log entry 1). -/
def idleStep (s : Mach) : Mach := advanceTo s (s.now + Config.acyc)

/-- One step. -/
def step (s : State) : Host.Outcome State Fault Refusal :=
  match s.pending with
  | [] => onMach s idleStep
  | c :: rest => exec c { s with pending := rest }

/-- The state with the command that a word spells put at the front of its queue. -/
def State.withFetchWord (s : State) (nbits w : Nat) : State :=
  match decodeTableWord nbits w with
  | some c => { s with pending := c :: s.pending }
  | none => s

end Sys2Proof.Machine
end

