-- ==== Sys2Proof/Safety.lean ====
section
/-! DEFINITION. What a safe run is, in the terms that the statements use. -/

namespace Sys2Proof.Machine

/-- A command completes from a state: `exec` answers a next state, with the queue as it was, whose package satisfies `P`. -/
def Ends (c : Instr) (s : State) (P : Mach → Prop) : Prop :=
  ∃ m : Mach, exec c s = .next { s with mach := m } ∧ P m

/-- Every command that waits is well formed: its operands are within what the spec allows. -/
def QueueWf (s : State) : Prop := ∀ c ∈ s.pending, c.wf = true

/-- The stores of the package are in their one canonical form: keys strictly rising, no value equal to what an unlisted key
reads as. -/
def Mach.canon (s : Mach) : Prop :=
  smapWf csrReset s.csr = true ∧ smapWf (fun _ => (0 : Byte)) s.mem = true ∧ smapWf (fun _ => (0 : Byte)) s.loft = true

/-- The package without its clock, its registers, the wires and counters that record what happens, and booked energy: what is
left is what the units hold. -/
def Mach.units (s : Mach) : Mach :=
  { s with now := 0, csr := [], flt := Flt.zero, trcWire := [], sinks := Vector.replicate 16 Sink.zero,
           pwr := { s.pwr with events := [] }, bays := s.bays.map (fun x => { x with cnt := { edge := 0, skip := 0 } }) }

/-- The same without bay `b`: every other bay, all memory, the rotas, tokens in flight, links, rings, cores and power. -/
def Mach.apart (s : Mach) (b : Nat) : Mach := { s.units with bays := vmod s.units.bays b (fun _ => Bay.zero) }

/-- A safe state: its queue is well formed, so that no step from it faults. -/
def Safe (s : State) : Prop := QueueWf s

/-! ### Words of the vector engine -/

/-- A word of the vector engine in issue, with no result write in flight. -/
def VxeWord (s : Mach) (b op : Nat) (w : Slot) : Prop :=
  opReady s b 2 1 op = true ∧ (getStream s b 2).word = w ∧ (getVxe s b).flight = []

/-- The same for a word of the common layout (R193) that makes one iteration under the full mask and sends no token. -/
def VxeOne (s : Mach) (b op : Nat) (w : Slot) : Prop :=
  VxeWord s b op w ∧ wRep w = 0 ∧ wSig w = 0 ∧ wMsk w = 0

/-- The word has put one result write in flight, due `lat` FCLK after its issue, whose effects satisfy `P`; nothing apart from
the bay has changed, and of the engine only what is in flight and the count of words. -/
def VxePuts (s m : Mach) (b lat : Nat) (P : List VEff → Prop) : Prop :=
  m.apart b = s.apart b ∧ ∃ x : VWrite,
    getVxe m b = { getVxe s b with flight := [x], words := (getVxe s b).words + 1 } ∧
    x.edge = (getStream s b 2).issued + lat - 1 ∧ x.fin = true ∧ x.sig = none ∧ P x.effs

/-- Lane `l` of a register or scalar operand as a word reads it: 32 bits, and its poison. -/
def laneArg (x : Vxe) (o : VOp) (l : Nat) : Nat × Bool :=
  match o with
  | .reg n _ => ((vLane x n l).toNat, vLaneP x n l)
  | .scal k => ((vScal x k).toNat, vScalP x k)
  | _ => (0, false)

/-- The effects of an iteration that gives lane `l` of register `d` the bits, flags and poison of `f l`. -/
def laneEffs (d : Nat) (f : Nat → Nat × Nat × Bool) : List VEff :=
  (List.range 128).map (fun l => .lane d l (BitVec.ofNat 32 (f l).1) (BitVec.allOnes 32) (f l).2.2) ++
  ((List.range 128).filter (fun l => decide ((f l).2.1 ≠ 0))).map (fun l => .flags l (f l).2.1)

/-- A result of one, two and three operands lane by lane: poison follows every operand (R211). -/
def lanes1 (x : Vxe) (w : Slot) (f : Nat → Nat → Nat × Nat) (l : Nat) : Nat × Nat × Bool :=
  let a := laneArg x (opA w) l
  ((f l a.1).1, (f l a.1).2, a.2)
def lanes2 (x : Vxe) (w : Slot) (f : Nat → Nat → Nat → Nat × Nat) (l : Nat) : Nat × Nat × Bool :=
  let a := laneArg x (opA w) l
  let c := laneArg x (opB w) l
  ((f l a.1 c.1).1, (f l a.1 c.1).2, a.2 || c.2)
def lanes3 (x : Vxe) (w : Slot) (f : Nat → Nat → Nat → Nat → Nat × Nat) (l : Nat) : Nat × Nat × Bool :=
  let a := laneArg x (opA w) l
  let c := laneArg x (opB w) l
  let g := laneArg x (opC w) l
  ((f l a.1 c.1 g.1).1, (f l a.1 c.1 g.1).2, a.2 || c.2 || g.2)

/-- The form of a word that the lane statements take: 32-bit lanes, register and scalar operands, one destination register. -/
def VxeLanes (s : Mach) (b op : Nat) (w : Slot) (d ii : Nat) (legal : Bool) : Prop :=
  VxeOne s b op w ∧ is16 w = false ∧ opD w = .reg d false ∧ (opA w).isLoft = false ∧ (opB w).isLoft = false ∧
  (opC w).isLoft = false ∧ ii ≤ slotHold w + 1 ∧ legal = true

/-! ### Threads of a sheaf engine -/

/-- The engine has in issue the word `w` for a group of one thread `t`, at lane `l` of sheaf `k`. -/
def ShfOne (s : Mach) (b e k l w : Nat) (t : Thread) : Prop :=
  shfRuns s b e = true ∧ (getEng s b e).group = [(k, l)] ∧ (getEng s b e).word = w ∧ t.st = .ready ∧
  ∃ x, (getEng s b e).sheaf k = some x ∧ x.threads[l]? = some t

/-! ### Instructions of a host core -/

/-- The core runs, no interrupt, single step or trigger is due, and the 32-bit instruction at its pc is `w`; `t` is the package
once the instruction has been fetched. -/
def HartOne (s : Mach) (c w : Nat) (t : Mach) : Prop :=
  (getCore s c).released = true ∧ (getCore s c).halted = false ∧ (getCore s c).haltReq = false ∧ s.pins.thermtripN = true ∧
  dueInt s c = none ∧ trigCount s c = none ∧ trigAddr s c 0 (getCore s c).pc.toNat = none ∧ hartFetch s c = (.ok (w, 4), t) ∧
  dataAddr t c w = none

/-- The instruction at the pc is a CMX instruction of this funct7, with the CMX context on. -/
def CmxOne (s : Mach) (c f7 w : Nat) (t : Mach) : Prop :=
  HartOne s c w t ∧ iOp w = 0x0B ∧ iF3 w = 0 ∧ iF7 w = f7 ∧ ctxOff t c 15 = false

/-- A core's program may write its custom CSRs. -/
def CustomOk (s : Mach) (c : Nat) : Prop :=
  (getCore s c).released = true ∧ (getCore s c).halted = false ∧ (getCore s c).priv = 3

/-- No tile instruction is in work on any core, and the core's store buffer is empty. -/
def CmxIdle (s : Mach) (c : Nat) : Prop := (∀ k : CoreNo, (getCmx s k).work = []) ∧ (getCore s c).sb = []

/-! ### Writes of control space -/

/-- A write of a register is let through: the clocks run, bring-up is complete, the access tables allow it to the master, and the
unit is present (R7, R16, R466). -/
def CspOpen (s : Mach) (mid : Nat) (n : RegName) (u i : Nat) (v : Word) : Prop :=
  s.pins.thermtripN = true ∧ isDone s = true ∧ cspAllowed s mid (RegRef.addr { name := n, unit := u, idx := i }) (some v) = true ∧
  blkPresent s n.info.blk u = true

/-- A command that is the 8-byte write of one register ends, where the write is let through, without an error, and leaves the
package `m` in the relation `P` to the package `t` in which all that is due at the addressed bay has landed. -/
def CspEnds (c : Instr) (s : State) (mid : Nat) (n : RegName) (u i : Nat) (v : Word) (P : Mach → Mach → Prop) : Prop :=
  CspOpen s.mach mid n u i v → Ends c s (fun m => m.cspOut = (0, 0) ∧ P (settleBlk s.mach n.info.blk u) m)

/-- The semaphore block with a transfer begun. -/
def semXferOn (x : Sem) (first count : Nat) (load : Bool) (addr : Nat) : Sem :=
  { x with xfer := some { first := first, count := count, load := load, addr := addr, held := [] } }

/-- A debug requester's write is let through: a core's by the access tables, any other's once bring-up is complete (R551). -/
def ReqOpen (s : Mach) (q : Requester) (n : RegName) (u : Nat) (v : Word) : Prop :=
  match q with
  | .core c => CspOpen s (c.val + 1) n u 0 v
  | _ => isDone s = true

/-- The same for a write by a debug requester. -/
def ReqEnds (c : Instr) (s : State) (q : Requester) (n : RegName) (u : Nat) (v : Word) (P : Mach → Mach → Prop) : Prop :=
  ReqOpen s.mach q n u v → Ends c s (fun m => m.cspOut = (0, 0) ∧ P (settleBlk s.mach n.info.blk u) m)

/-- The units that a block has: one hub, 72 bays with 4 sheaf engines each, 6 compute dies, 4 barns with 3 stacks and 6 ports
each, 6 homes, 12 clusters, 16 channels, 4,096 rings, and an identity block on each of the 12 dies but the hub (R25, R33). -/
def Blk.hasUnit (b : Blk) (u : Nat) : Bool :=
  match b with
  | .hub | .boot | .alm | .pwr | .flt | .prt | .dbgtrc | .mgt | .cnt | .sec => decide (u = 0)
  | .rng | .door => decide (u < 4096)
  | .seq | .mxa | .vxe | .sem | .semarr | .mov | .lft | .etr | .bcnt | .btrc | .bdbg | .bflt => decide (u < 72)
  | .shf => decide (u < 288)
  | .alml | .pwrl | .fltd | .yard | .etrw | .lftc | .coha | .home => decide (u < 6)
  | .grn | .cluster => decide (u < 12)
  | .vk => decide (u < 24)
  | .pci | .movb => decide (u < 4)
  | .ddr => decide (u < 16)
  | .die => validDie u && decide (u ≠ 0)

/-- A register that exists: its unit, its place in the register's row, and presence as the register tables state it. -/
def RegRef.placed (r : RegRef) : Bool :=
  r.name.info.blk.hasUnit r.unit && regPresent r.name r.unit && decide (r.idx < r.name.info.count)

/-- The access tables allow a master every access, reading and writing, at an offset, the clocks run and bring-up is complete. -/
def CspLet (s : Mach) (mid off : Nat) : Prop :=
  s.pins.thermtripN = true ∧ isDone s = true ∧ ∀ v : Option Word, cspAllowed s mid off v = true

/-- An access ends with this answer (1 refused, 2 an access error) and no effect but one record, of class ACCESS (R465, R541). -/
def CspStops (s m : Mach) (e : Nat) : Prop :=
  m.cspOut = (e, 0) ∧ m.units = { s with cspOut := (e, 0) }.units ∧
  ∃ r, m.flt.wire = s.flt.wire ++ [r] ∧ r.cls = 1 ∧ r.sub = (if e = 1 then 2 else 0xF5)

/-- A read and a write at an offset both end so. -/
def CspQuiet (s : State) (mid : Mid) (off size : Nat) (e : Nat) : Prop :=
  Ends (.rcRead mid off size) s (fun m => CspStops s.mach m e) ∧
  ∀ v : Word, Ends (.registerWrite mid off size v) s (fun m => CspStops s.mach m e)

/-- A register whose write is an ordinary one: it has no effect of its own. -/
def plainReg (r : RegRef) : Prop := ∀ (s : Mach) (mid : Nat) (w4 : Bool) (v : Word), regWriteFull s mid r w4 v = plainWrite s r v

/-- A request packet has been answered from the package `u`: memory and lofts are as in `u`, and the response for the requester, with
its tag, STATUS and data, waits behind what the egress port had to send (R442, R443). -/
def Answered (u m : Mach) (k : Pkt) (status : Nat) (data : List (BitVec 128)) : Prop :=
  m.mem = u.mem ∧ m.loft = u.loft ∧ ∀ q : PortNo, routePort u k.snode = some q.val →
    ∃ x : TxPkt, (getPort m q).txq = (getPort u q).txq ++ [x] ∧ x.pkt.ptype = answerType k.ptype ∧ x.pkt.dnode = k.snode ∧
      x.pkt.mid = k.mid ∧ x.pkt.tag = k.tag ∧ x.pkt.addr % 256 = status ∧ x.pkt.data = data

/-- A request of type `pt` and of good form is the next to be served at a port, once bring-up is complete; its buffer is free in `t`. -/
def Serving (s : Mach) (p : PortNo) (pt : Nat) (ok : Pkt → Bool) (k : Pkt) (t : Mach) : Prop :=
  takeType s p pt = some (k, t) ∧ isDone t = true ∧ ok k = true

/-- A response of type `pt` is the next at a port, and answers the outstanding request `r`; `t` no longer holds that request. -/
def Returning (s : Mach) (p : PortNo) (pt : Nat) (k : Pkt) (r : VkReq) (t : Mach) : Prop :=
  ∃ u : Mach, takeType s p pt = some (k, u) ∧
    u.vkReqs.find? (fun r => decide (r.mid = k.mid) && decide (r.tag = k.tag) && !r.held) = some r ∧
    t = { u with vkReqs := u.vkReqs.filter (fun r => !(decide (r.mid = k.mid) && decide (r.tag = k.tag) && !r.held)) }

end Sys2Proof.Machine
end

