-- ==== Sys2Proof/Certificates/Slice0/Obligations.lean ====
section
/-! DEFINITION. The statements about the model. A statement that a command completes says so with `Ends`: exec answers a next
state whose queue is the one before, and what its package then holds follows. -/

open Sys2Proof Sys2Proof.Machine

/-! ### The block, its queue and control space (chapters 00 and 01; log entries 1 and 2) -/

/-- A step carries out the command at the front of the queue with the queue's rest; with none waiting, one ACYC passes (the
model's own choice, log entry 1). -/
def Obligations.StepTakesFront : Prop :=
  (∀ (c : Instr) (s : State), step { s with pending := c :: s.pending } = exec c s) ∧
  (∀ s : State, s.pending = [] → step s = .next { s with mach := idleStep s.mach })

/-- Every well-formed command completes, from every state, and leaves the queue as it is; one that is not well formed is no request
and faults (log entry 1). -/
def Obligations.WellFormedCompletes : Prop :=
  (∀ (c : Instr) (s : State), c.wf = true → ∃ m : Mach, exec c s = .next { s with mach := m }) ∧
  (∀ (c : Instr) (s : State), c.wf = false → exec c s = .fault .illFormed)

/-- The invariant that every step keeps: from a state whose waiting commands are all well formed, a step answers a next state, whose
queue has lost its first command and is well formed again. -/
def Obligations.QueueInvariant : Prop :=
  ∀ s : State, QueueWf s →
    ∃ t : State, step s = .next t ∧ t.pending = s.pending.tail ∧ QueueWf t

/-- The package after reset: an empty queue, stores in canonical form, every register at the value of its table, every byte of memory
and loft at 0 (log entry 3), no power, no bay with a tenant and no core released. -/
def Obligations.ResetState : Prop :=
  State.reset.pending = [] ∧ QueueWf State.reset ∧ State.reset.mach.canon ∧ State.reset.mach.pins.pwrok = false ∧
  (∀ (n : RegName) (u i : Nat), rg State.reset.mach n u i = csrReset (RegRef.addr { name := n, unit := u, idx := i })) ∧
  (∀ a : Nat, byteAt State.reset.mach.mem a = 0 ∧ byteAt State.reset.mach.loft a = 0) ∧
  (∀ b : BayNo, (getSeq State.reset.mach b).tid = none) ∧ (∀ c : CoreNo, (getCore State.reset.mach c).released = false)

/-- The encoding of control space: the offset of every register that exists names that register, its block and its unit, and no
other (R31 to R33 and the register tables). -/
def Obligations.RegisterAddressesDecode : Prop :=
  ∀ r : RegRef, r.placed = true →
    regAt r.addr = some (r.name.info.blk, r.unit, some r) ∧ r.addr % 8 = 0 ∧ r.addr < 0x8000000 ∧
    ∀ q : RegRef, q.placed = true → q.addr = r.addr → q = r

/-- R16: before bring-up completes, every access outside the identity and status registers completes with a busy error and does
nothing else. -/
def Obligations.BusyBeforeBringUp : Prop :=
  ∀ (s : State) (mid : Mid) (off size : Nat), s.mach.pins.thermtripN = true → isDone s.mach = false →
    (∀ (b : Blk) (u : Nat) (r : RegRef), regAt off = some (b, u, some r) → isStatus r.name = false) →
    Ends (.rcRead mid off size) s (fun m => m = { s.mach with cspOut := (3, 0) }) ∧
    ∀ v : Word, Ends (.registerWrite mid off size v) s (fun m => m = { s.mach with cspOut := (3, 0) })

/-- R32: an address that no block covers completes with an access error; inside a block, where no register stands, an offset reads
0 and ignores writes; registers of an absent unit read 0 and ignore writes without an error (R7). -/
def Obligations.UncoveredAddresses : Prop :=
  (∀ (s : State) (mid : Mid) (off size : Nat), CspLet s.mach mid off →
    (off < 0x4000000 ∧ validDie (off / 0x200000) = false ∨ 0x5000000 ≤ off ∨ blkAt off = none) → CspQuiet s mid off size 2) ∧
  (∀ (s : State) (mid : Mid) (off size : Nat) (b : Blk) (u : Nat), CspLet s.mach mid off → sizeOk off size = true →
    (regAt off = some (b, u, none) ∨ ∃ r, regAt off = some (b, u, r) ∧ blkPresent s.mach b u = false) →
    Ends (.rcRead mid off size) s (fun m => m = { s.mach with cspOut := (0, 0) }) ∧
    ∀ v : Word, Ends (.registerWrite mid off size v) s (fun m => m = { s.mach with cspOut := (0, 0) }))

/-- R13: a naturally aligned access of 4 or 8 bytes reads or writes the addressed bytes of its register, and the effects of W1C, W1S
and RC apply to those only; where fields act together a write of 4 bytes is an access error; so is any other size or alignment; what
the access tables refuse is a refusal, whatever its size and alignment. -/
def Obligations.AccessSizes : Prop :=
  (∀ (s : State) (mid : Mid) (off size : Nat), CspLet s.mach mid off → sizeOk off size = false → CspQuiet s mid off size 2) ∧
  (∀ (s : State) (mid : Mid) (off size : Nat), s.mach.pins.thermtripN = true → isDone s.mach = true →
    (∀ v : Option Word, cspAllowed s.mach mid off v = false) → CspQuiet s mid off size 1) ∧
  (∀ (s : State) (mid : Mid) (off : Nat) (b : Blk) (u : Nat) (r : RegRef) (v : Word), CspLet s.mach mid off →
    regAt off = some (b, u, some r) → off % 4 = 0 → blkPresent s.mach b u = true → only8 r.name = true →
    Ends (.registerWrite mid off 4 v) s (fun m => CspStops s.mach m 2)) ∧
  (∀ (s : State) (mid : Mid) (off size : Nat) (b : Blk) (u : Nat) (r : RegRef), CspLet s.mach mid off →
    regAt off = some (b, u, some r) → sizeOk off size = true → blkPresent s.mach b u = true →
    Ends (.rcRead mid off size) s (fun m =>
      let t := settleBlk s.mach b u
      m.cspOut = (0, BitVec.ofNat 64 ((regView t r).toNat / 2 ^ (8 * (off % 8)) % 2 ^ (8 * size))) ∧
      m.units = { t with cspOut := m.cspOut }.units ∧
      ∀ i, i < 64 → bit (rg m r.name r.unit r.idx) i =
        (bit (rg t r.name r.unit r.idx) i && !(bit (r.name.info.mask .rc) i && decide (8 * (off % 8) ≤ i) &&
          decide (i < 8 * (off % 8) + 8 * size))))) ∧
  (∀ (s : State) (mid : Mid) (off : Nat) (b : Blk) (u : Nat) (r : RegRef) (v : Word), CspLet s.mach mid off →
    regAt off = some (b, u, some r) → blkPresent s.mach b u = true → plainReg r → off % 8 = 0 →
    Ends (.registerWrite mid off 8 v) s (fun m => m = { plainWrite (settleBlk s.mach b u) r v with cspOut := (0, 0) })) ∧
  (∀ (s : State) (mid : Mid) (off : Nat) (b : Blk) (u : Nat) (r : RegRef) (v : Word), CspLet s.mach mid off →
    regAt off = some (b, u, some r) → blkPresent s.mach b u = true → plainReg r → only8 r.name = false → r.name ≠ .PRT_TEN_B → r.name ≠ .PRT_TEN_C → off % 4 = 0 →
    (∀ t : Mach, liveView t r = rg t r.name r.unit r.idx) →
    Ends (.registerWrite mid off 4 v) s (fun m => ∃ w : Word,
      let t := settleBlk s.mach b u
      m = { plainWrite t r w with cspOut := (0, 0) } ∧
      ∀ i, i < 64 → bit w i = (if 8 * (off % 8) ≤ i ∧ i < 8 * (off % 8) + 32 then bit v (i - 8 * (off % 8))
        else bit (rg t r.name r.unit r.idx) i && bit (r.name.info.mask .rw) i)))

/-- R11: what a read returns and what an ordinary write does for each access type. RW stores the value, RO and RC ignore it, each 1
clears a W1C bit and sets a W1S bit and each 0 leaves it, WO and RSV read as 0; a read of an RC field returns the value and then
clears it. -/
def Obligations.AccessTypes : Prop :=
  (∀ (s : Mach) (r : RegRef) (v : Word) (f : FieldSpec) (i : Nat), f ∈ r.name.info.fields → f.lo ≤ i → i ≤ f.hi →
    let old := bit (rg s r.name r.unit r.idx) i
    bit (rg (plainWrite s r v) r.name r.unit r.idx) i =
      (match f.ty with
       | .rw => bit v i
       | .w1c => old && !bit v i
       | .w1s => old || bit v i
       | _ => old)) ∧
  (∀ (s : Mach) (r q : RegRef) (v : Word), q.addr ≠ r.addr →
    rg (plainWrite s r v) q.name q.unit q.idx = rg s q.name q.unit q.idx) ∧
  (∀ (s : Mach) (r : RegRef) (i : Nat), (∀ f ∈ r.name.info.fields, f.lo ≤ i → i ≤ f.hi → f.ty = .wo) → bit (regView s r) i = false) ∧
  (∀ (s : State) (mid : Mid) (r : RegRef) (f : FieldSpec), CspLet s.mach mid r.addr →
    regAt r.addr = some (r.name.info.blk, r.unit, some r) → r.addr % 8 = 0 → blkPresent s.mach r.name.info.blk r.unit = true →
    f ∈ r.name.info.fields → f.ty = .rc →
    Ends (.rcRead mid r.addr 8) s (fun m => m.cspOut = (0, regView (settleBlk s.mach r.name.info.blk r.unit) r) ∧
      rf m r.name r.unit r.idx f.hi f.lo = 0))

/-! ### Bring-up, resets and the almanac (chapters 02 and 23) -/

/-- Bring-up runs its phases in order (R22, R577, R580 to R582, R587 to R591): the straps, the image, authentication,
configuration, training, the fit check and the wait for the almanac each end where the next begins. -/
def Obligations.BringUpAdvances : Prop :=
  (∀ (s : State) (reports : List StrapReport), s.mach.pins.pwrok = false → strapsGood reports = true →
    Ends (.pkgPwrokRise reports false) s (fun m => m.pins.pwrok = true ∧ m.pins.resetN = true ∧ phase m = 1 ∧
      m.boot.straps = reports ∧ m.boot.strapsOk = true)) ∧
  (∀ (s : State) (slot : Fin 2) (octal : Bool) (bytes : List Byte), imageOpen s.mach slot = true →
    Ends (.imageRead slot octal bytes) s (fun m => m.boot.buf = bytes.take (2 ^ 24) ∧ m.boot.read = true ∧ m.boot.octal = octal)) ∧
  (∀ s : State, s.mach.boot.fallback = true →
    Ends .slotFallback s (fun m => m.boot.slot = 1 ∧ m.boot.fallback = false ∧ phase m = 2)) ∧
  (∀ s : State, phase s.mach = 2 → s.mach.boot.read = true → authFail (nextPhase s.mach 3) s.mach.boot.buf = none →
    Ends .auth s (fun m => m.boot.authed = true ∧ phase m = 3)) ∧
  (∀ s : State, phase s.mach = 3 → s.mach.boot.authed = true → recordFail s.mach.boot.buf = none →
    configFail (nextPhase s.mach 4) s.mach.boot.buf = none →
    Ends .config s (fun m => m.cfg.cores = recWords (s.mach.boot.buf.take (hdrLen s.mach.boot.buf)) tCores)) ∧
  (∀ s : State, phase s.mach = 4 → s.mach.boot.loading = true →
    Ends .train s (fun m => phase m = 5 ∧ (isGm s.mach = true → almState m = aAcquire ∧ m.alm.listenFrom = some s.mach.now))) ∧
  (∀ (s : State) (c : Fin 16) (x : SpdReport), phase s.mach = 5 → ddrEnabled s.mach c = true →
    rb s.mach .BOOT_TRAIN 0 0 c = false → rb s.mach .BOOT_TRAIN 0 0 (16 + c) = false →
    x.dimm16 = fld s.mach.cfg.ddr 39 32 → fld s.mach.cfg.ddr 19 16 ≤ x.speed → x.x4 = true → x.listed = true → x.trained = true →
    Ends (.ddrChannelTraining c x) s (fun m => rb m .BOOT_TRAIN 0 0 c = true ∧ rb m .DDR_STATUS c 0 0 = true)) ∧
  (∀ (s : State) (k : Fin 12), phase s.mach = 5 → rb s.mach .BOOT_TRAIN 0 0 (36 + k) = false →
    rb s.mach .BOOT_TRAIN 0 0 (48 + k) = false →
    Ends (.hbmStackTraining k (BitVec.allOnes 32)) s (fun m => rb m .BOOT_TRAIN 0 0 (36 + k) = true ∧
      rb m .GRN_STATUS k 0 0 = true ∧ rf m .GRN_STATUS k 0 39 32 = 32)) ∧
  (∀ s : State, phase s.mach = 5 → stacksLeft s.mach = [] → chansLeft s.mach = [] → fitFail s.mach = none →
    Ends .fitCheck s (fun m => phase m = 6)) ∧
  (∀ s : State, phase s.mach = 6 → Ends .almwaitRelease s (fun m => m.pwr.started = true ∧ rb m .PRT_STATUS 0 0 0 = true))

/-- Bring-up that fails ends in FAILED or turns to slot 1 (R581, R592, R598, R608): a failure raises one record of class
BRINGUP with its code, and a flash that does not answer in slot 0 leaves slot 1 to be read. The pins and the levels of reset (R61, R542, R543, R578): PKG_RESET_N held low for 1 us enters HELD, its rise leaves it,
the fall of PKG_PWROK ends everything, a die reloads its almanac, and a partition reset ends with the partition held. -/
def Obligations.FailuresAndResets : Prop :=
  (∀ (s : State) (d : Fin 32) (l : List (Fin 32)), phase s.mach = 1 →
    Ends (.strapsPhaseTimeout (d :: l)) s (fun m => ∃ w r, m.flt.wire = w ++ [r] ∧ r.cls = 0x12 ∧ r.sub = bTrainD2d)) ∧
  (∀ (s : State) (present : Bool), imageOpen s.mach s.mach.boot.slot = true → s.mach.boot.slot = 0 → s.mach.boot.loading = false →
    s.mach.boot.accepted = false →
    Ends (.flashTimeout present) s (fun m => m.boot.fallback = true ∧
      rf m .BOOT_ERR 0 0 47 40 = (if present then bFlashIo else bNoImage))) ∧
  (∀ (s : State) (k : Nat) (l : List Nat), phase s.mach = 5 → stacksLeft s.mach = k :: l →
    Ends .trainTimeout s (fun m => ∃ w r, m.flt.wire = w ++ [r] ∧ r.cls = 0x12 ∧ r.sub = bTrainHbm)) ∧
  (∀ (s : State) (ns : Nat), s.mach.pins.pwrok = true → 1000 ≤ ns → phase s.mach ≠ 8 → strapFailed s.mach = false →
    Ends (.pkgResetNLow ns) s (fun m => phase m = 8 ∧ m.pins.resetN = false ∧ m.mem = s.mach.mem ∧ m.loft = s.mach.loft)) ∧
  (∀ s : State, phase s.mach = 8 →
    Ends .pkgResetNRise s (fun m => m.pins.resetN = true ∧ phase m = (if s.mach.boot.accepted then 4 else 2))) ∧
  (∀ s : State, s.mach.pins.pwrok = true → Ends .pkgPwrokFall s (fun m => m.pins.pwrok = false ∧ phase m = 0)) ∧
  (∀ (s : State) (d : CompDie), (getClk s.mach d).copyLost = true → s.mach.alm.running = true →
    Ends (.dieAlmanacReload d) s (fun m => (getClk m d).copyLost = false)) ∧
  (∀ (s : State) (p t : Nat), p < 16 → s.mach.flt.prst = some (p, t) →
    Ends .prstSettleTimeout s (fun m => m.flt.prst = none ∧ rb m .FLT_PRST 0 0 (16 + p) = true ∧ rb m .FLT_PRST 0 0 63 = false)) ∧
  (∀ (s : State) (p t : Nat), s.mach.flt.prst = some (p, t) →
    Ends .l2WritebackTimeout s (fun m => t + 65536 * Config.acyc ≤ m.now))

/-- The grandmaster (R41 to R44): the first mark after lock starts the count at ALM_START, as the timeout does without a
reference; the loss of the reference enters holdover, its lock leaves ACQUIRE, and one frame of listening may end in the
adoption of a neighbour's count. Beacons and exchanges (R49, R431, R433): a beacon of the own hall is kept, one is launched once a frame, a request is
answered with its own T1, and a reply gives one exchange. -/
def Obligations.GrandmasterAndExchanges : Prop :=
  (∀ (s : State) (dt : Nat), isGm s.mach = true → s.mach.alm.running = false → s.mach.alm.refLocked = true →
    Ends (.almMark dt) s (fun m => m.alm.running = true ∧ almState m = aLocked ∧ count m = (rg s.mach .ALM_START 0 0).toNat ∧
      m.now = s.mach.now + dt * Config.acyc / 16 + 16 * Config.acyc)) ∧
  (∀ s : State, isGm s.mach = true → s.mach.alm.running = false →
    Ends .acqTimeout s (fun m => m.alm.running = true ∧ almState m = aFree ∧ count m = (rg s.mach .ALM_START 0 0).toNat)) ∧
  (∀ s : State, isGm s.mach = true → s.mach.alm.refLocked = true → s.mach.alm.running = true →
    Ends .refLost s (fun m => m.alm.refLocked = false ∧ rb m .ALM_STATUS 0 0 16 = false ∧ almState m = aHoldover)) ∧
  (∀ s : State, isGm s.mach = true → almState s.mach = aAcquire →
    Ends .refclkLock s (fun m => almState m = aLocked ∧ m.alm.refLocked = true ∧ rb m .ALM_STATUS 0 0 16 = true)) ∧
  (∀ (s : State) (t p : Nat), isGm s.mach = true → s.mach.alm.running = false → s.mach.alm.listenFrom = some t →
    (List.range 24).find? (adoptable s.mach) = some p →
    Ends .grandmasterListenEnd s (fun m => m.alm.running = true ∧ m.alm.adopted = true ∧ almState m = aAcquire ∧
      m.alm.listenFrom = none)) ∧
  (∀ (s : State) (p : PortNo) (b : Beacon) (dt : Nat), b.wf = true → portTrained s.mach p = true →
    b.hallId = rf s.mach .ALM_CFG 0 0 55 40 → isGm s.mach = true → s.mach.alm.step ≠ 4 → s.mach.alm.slewing = false →
    Ends (.beacon p b dt) s (fun m => (getAlmPort m p).beacon = some (b, s.mach.now + dt * Config.acyc / 16))) ∧
  (∀ (s : State) (p : PortNo), portState s.mach p = vkActive → s.mach.alm.running = true →
    (getAlmPort s.mach p).lastBeacon ≠ some (frameNo s.mach) →
    Ends (.beaconLaunch p) s (fun m => (getPort m p).almq = (getPort s.mach p).almq ++ [.beacon (ownBeacon s.mach p)] ∧
      (getAlmPort m p).lastBeacon = some (frameNo s.mach))) ∧
  (∀ (s : State) (p : PortNo) (x : Exchange) (dt : Nat), x.wf = true → portTrained s.mach p = true →
    Ends (.exchangeRequest p x dt) s (fun m => ∃ t2 t3, (getPort m p).almq = (getPort s.mach p).almq ++ [.reply x.xseq x.t1 t2 t3] ∧
      t3 ≤ t2)) ∧
  (∀ (s : State) (p : PortNo), portTrained s.mach p = true → (getAlmPort s.mach p).sent = none →
    Ends (.exchangeSend p) s (fun m => (getAlmPort m p).xseq = ((getAlmPort s.mach p).xseq + 1) % 256 ∧
      (getAlmPort m p).sent.isSome = true)) ∧
  (∀ (s : State) (p : PortNo) (x : Exchange) (dt : Nat), x.wf = true → portTrained s.mach p = true →
    (getAlmPort s.mach p).sent = some (x.xseq, x.t1) → (getAlmPort s.mach p).exch.length < 63 →
    Ends (.exchangeReply p x dt) s (fun m => (getAlmPort m p).sent = none ∧
      (getAlmPort m p).exch.length = (getAlmPort s.mach p).exch.length + 1))

/-- A follower acquires, tracks, holds over and returns (R53 to R60): the steps of acquisition in their order, the loss of the
parent with no other candidate, the counts of holdover, the return of a reference, the end of a slew and the armed step. -/
def Obligations.FollowerTracks : Prop :=
  (∀ (s : State) (p : PortNo), isGm s.mach = false → (candidates s.mach).contains p.val = true → portTrained s.mach p = true →
    almState s.mach = aIdle →
    Ends (.acquireStart p) s (fun m => almState m = aAcquire ∧ m.alm.step = 1 ∧ m.alm.acqPort = p)) ∧
  (∀ s : State, s.mach.alm.step = 1 → s.mach.alm.acqPort ≠ 31 → Ends .frequencyLocked s (fun m => m.alm.step = 2)) ∧
  (∀ s : State, s.mach.alm.step = 2 → rb s.mach .ALM_PORT 0 s.mach.alm.acqPort 63 = true → s.mach.alm.running = false →
    Ends .countLoad s (fun m => m.alm.running = true ∧ m.alm.step = 4)) ∧
  (∀ (s : State) (b : Beacon) (t : Nat), s.mach.alm.step = 4 → 2 ≤ s.mach.alm.confirm →
    (getAlmPort s.mach s.mach.alm.acqPort).beacon = some (b, t) →
    Ends .declareLock s (fun m => m.alm.step = 0 ∧ m.alm.rootTaken = true)) ∧
  (∀ s : State, almState s.mach = aLocked → isGm s.mach = false → parentLost s.mach = true → candidates s.mach = [] →
    Ends .lockLost s (fun m => almState m = aHoldover)) ∧
  (∀ s : State, almState s.mach = aHoldover →
    Ends .holdBoundUpdate s (fun m => rf m .ALM_HOLD 0 0 31 0 = sat 32 (rf s.mach .ALM_HOLD 0 0 31 0 + 1))) ∧
  (∀ (s : State) (p : PortNo), almState s.mach = aHoldover → isGm s.mach = true →
    Ends (.parentReturn p) s (fun m => almState m = aAcquire ∧ m.alm.relock = true)) ∧
  (∀ (s : State) (b : Beacon) (t : Nat), s.mach.alm.slewing = true → 2 ≤ s.mach.alm.confirm →
    (getAlmPort s.mach s.mach.alm.acqPort).beacon = some (b, t) →
    Ends .slewComplete s (fun m => m.alm.slewing = false ∧ m.alm.rootTaken = true)) ∧
  (∀ s : State, s.mach.alm.stepArmed = true → noFurrow s.mach = true →
    Ends .stepApply s (fun m => m.alm.stepArmed = false ∧ m.alm.step = 4))


/-! ### Furrow programs (chapters 03 and 04) -/

/-- A stream issues, stalls and idles (R73, R74, R84). SLOT_ISSUE takes the word at the stream's next index and holds its unit
for HOLD + 1 FCLK; a fetch that is late stalls the stream alone and counts; nothing outside the bay changes. -/
def Obligations.StreamsIssueWords : Prop :=
  (∀ (s : State) (b : BayNo) (k : StreamNo) (x : Stream) (e w : Slot), mayIssue s.mach b k = true → getStream s.mach b k = x →
    streamEntry s.mach b (getSeq s.mach b).storeBase k = e → x.next < entLength e → x.busy ≤ x.last →
    BitVec.ofNat 128 (loftNat s.mach b ((getSeq s.mach b).storeBase + entOffset e + 16 * x.next) 16) = w →
    slotForm w = 1 ∨ slotForm w = 2 → legalOp k (slotForm w) (slotOp w) = true →
    Ends (.slotIssue b k) s (fun m => m.apart b = s.mach.apart b ∧ m.csr = s.mach.csr ∧ getStream m b k =
      { x with word := w, idx := x.next, issued := x.nextAt, last := x.nextAt + slotHold w, next := x.next + 1,
               nextAt := x.nextAt + slotHold w + 1, fresh := true })) ∧
  (∀ (s : State) (b : BayNo) (k : StreamNo), mayIssue s.mach b k = true →
    Ends (.fetchStall b k) s (fun m => m.apart b = s.mach.apart b ∧ (getStream m b k).hold = .fetch ∧
      rf m .SEQ_UNDERRUN b 0 63 0 = sat 64 (rf s.mach .SEQ_UNDERRUN b 0 63 0 + 1) ∧
      (∀ j : StreamNo, j ≠ k → getStream m b j = getStream s.mach b j))) ∧
  (∀ (s : State) (b : BayNo) (k : StreamNo) (n : Nat), (getStream s.mach b k).hold = .fetch → isHalted s.mach b = false →
    Ends (.fetchArrival b k n) s (fun m => m.apart b = s.mach.apart b ∧ (getStream m b k).hold = .none ∧
      (getStream s.mach b k).stallFrom + n ≤ (getStream m b k).nextAt)) ∧
  (∀ (s : State) (b : BayNo) (k : StreamNo), (getStream s.mach b k).run = true → slotForm (getStream s.mach b k).word = 0 →
    (getSeq s.mach b).st = .run →
    Ends (.idle b k) s (fun m => m = { s.mach with now := max s.mach.now (edgeTick (clkOf s.mach b) (getStream s.mach b k).last) }))

/-- The operations of the SEQ stream (R76, R94 to R96). END parks the bay with every stream stopped; a taken YIELD records its
section; MARK writes SEQ_MARK with the frame; RESUME redirects every present stream to the saved section of a suspended
tenant, and else to section 0, with its loop counters inactive. Decisions on deadlines (R119 to R121): DBR holds its stream to its test; with its tokens present and no poison to look at
it takes the main path, and latches that; SETTLE holds a stream while its channel owes debt and lets it go when it owes none. -/
def Obligations.SequencerOperates : Prop :=
  (∀ (s : State) (b : BayNo), opReady s.mach b 0 1 3 = true → slotBody (getStream s.mach b 0).word = 0 →
    Ends (.furrowEnd b) s (fun m => m.apart b = s.mach.apart b ∧ (getSeq m b).st = .parked ∧ (getSeq m b).park = .byEnd ∧
      (∀ k : StreamNo, (getStream m b k).run = false ∧ (getStream m b k).idx = (getStream s.mach b k).idx))) ∧
  (∀ (s : State) (b : BayNo) (p : Nat) (w : Slot), opReady s.mach b 0 1 2 = true → (getStream s.mach b 0).word = w →
    reservedClear w [(103, 72)] = true → (getSeq s.mach b).yielded = false → bayPid s.mach b = some p →
    ((getRota s.mach p).endFrame : Int) - countAt s.mach (edgeTick (clkOf s.mach b) (getStream s.mach b 0).issued) / 65536
      < fld w 103 88 →
    Ends (.yield b) s (fun m => m.apart b = s.mach.apart b ∧ (getSeq m b).section_ = fld w 87 72 ∧ (getSeq m b).yielded = true)) ∧
  (∀ (s : State) (b : BayNo) (w : Slot), opReady s.mach b 0 1 4 = true → (getStream s.mach b 0).word = w →
    reservedClear w [(31, 0)] = true →
    Ends (.mark b) s (fun m => m.apart b = s.mach.apart b ∧ m.now = s.mach.now ∧
      rg m .SEQ_MARK b 0 = packFlds [(63, 32, frameNo s.mach), (31, 0, fld w 31 0)])) ∧
  (∀ (s : State) (b : BayNo), opReady s.mach b 0 1 5 = true → slotBody (getStream s.mach b 0).word = 0 →
    (∀ k ∈ storeStreams s.mach b (getSeq s.mach b).storeBase, k ≠ 0 → (getStream s.mach b k).fresh = false ∧
      (getStream s.mach b k).hold = .none ∧ slotForm (getStream s.mach b k).word = 0) →
    Ends (.resume b) s (fun m => m.apart b = s.mach.apart b ∧ (∀ k : StreamNo,
      k.val ∈ storeStreams s.mach b (getSeq s.mach b).storeBase →
      (getStream m b k).next = sectionIdx s.mach b (getSeq s.mach b).storeBase
        (if (getSeq s.mach b).resume then (getSeq s.mach b).section_ else 0) k ∧
      (getStream m b k).nextAt = (getStream s.mach b 0).last + 1 ∧ (getStream m b k).loops = [0, 0, 0, 0]))) ∧
  (∀ (s : State) (b : BayNo) (k : StreamNo), opReady s.mach b k 2 5 = true → fld (getStream s.mach b k).word 97 90 ≠ 0 →
    reservedClear (getStream s.mach b k).word [(103, 101), (97, 56), (31, 0)] = true →
    Ends (.dbr b k) s (fun m => m.apart b = s.mach.apart b ∧ (getStream m b k).hold = .dbr)) ∧
  (∀ (s : State) (b : BayNo) (k : StreamNo) (w : Slot), (getStream s.mach b k).hold = .dbr → isHalted s.mach b = false →
    (getStream s.mach b k).word = w → (getChan s.mach b (fld w 89 80)).latch = none →
    fld w 97 90 ≤ (getChan s.mach b (fld w 89 80)).count → bit w 102 = false →
    Ends (.dbrDecide b k) s (fun m => m.apart b = s.mach.apart b ∧ (getStream m b k).hold = .none ∧
      (getStream m b k).next = (getStream s.mach b k).next ∧
      (getChan m b (fld w 89 80)).latch = some (deadline s.mach b k (fld w 31 0) % 2 ^ 32, false) ∧
      (getChan m b (fld w 89 80)).count =
        (getChan s.mach b (fld w 89 80)).count - (if bit w 103 then fld w 97 90 else 0))) ∧
  (∀ (s : State) (b : BayNo) (k : StreamNo), opReady s.mach b k 2 6 = true →
    reservedClear (getStream s.mach b k).word [(103, 103), (89, 80)] = true → bit (getStream s.mach b k).word 103 = false →
    Ends (.settle b k) s (fun m => m.apart b = s.mach.apart b ∧ (getStream m b k).hold = .settle)) ∧
  (∀ (s : State) (b : BayNo) (k : StreamNo), (getStream s.mach b k).hold = .settle → isHalted s.mach b = false →
    bit (getStream s.mach b k).word 103 = false → (getChan s.mach b (fld (getStream s.mach b k).word 89 80)).debt = 0 →
    Ends (.settleRelease b k) s (fun m => m.apart b = s.mach.apart b ∧ (getStream m b k).hold = .none ∧
      (getStream s.mach b k).last + 1 ≤ (getStream m b k).nextAt))

/-- Waits and branches of a stream (R115 to R117): WAIT holds it past its span; a channel that holds N tokens releases it and
CONS consumes them; BR with COND 0 redirects; LOOP decrements its counter and redirects while it is not 0; TBASE moves the
stream's base time and nothing else of the bay. -/
def Obligations.WaitsAndBranches : Prop :=
  (∀ (s : State) (b : BayNo) (k : StreamNo), opReady s.mach b k 2 2 = true → waitLegal (getStream s.mach b k).word = true →
    Ends (.wait b k) s (fun m => m.apart b = s.mach.apart b ∧ (getBay m b).chans = (getBay s.mach b).chans ∧
      (getStream m b k).hold = .wait)) ∧
  (∀ (s : State) (b : BayNo) (k : StreamNo) (w : Slot), (getStream s.mach b k).hold = .wait → isHalted s.mach b = false →
    (getStream s.mach b k).word = w → bit w 101 = false → fld w 97 90 ≤ (getChan s.mach b (fld w 89 80)).count →
    Ends (.waitRelease b k) s (fun m => m.apart b = s.mach.apart b ∧ (getStream m b k).hold = .none ∧
      (getStream s.mach b k).last + 1 ≤ (getStream m b k).nextAt ∧
      getChan m b (fld w 89 80) = (if bit w 103 then (getChan s.mach b (fld w 89 80)).consume (fld w 97 90)
        else getChan s.mach b (fld w 89 80)))) ∧
  (∀ (s : State) (b : BayNo) (k : StreamNo) (w : Slot), opReady s.mach b k 2 3 = true → (getStream s.mach b k).word = w →
    reservedClear w [(103, 101), (97, 56)] = true → fld w 103 101 = 0 → fld w 97 90 = 0 → fld w 89 80 = 0 →
    Ends (.br b k) s (fun m => m.apart b = s.mach.apart b ∧ (getStream m b k).next = fld w 79 56 ∧
      (getBay m b).chans = (getBay s.mach b).chans)) ∧
  (∀ (s : State) (b : BayNo) (k : StreamNo) (w : Slot) (c : Nat), opReady s.mach b k 2 4 = true → (getStream s.mach b k).word = w →
    reservedClear w [(103, 102), (79, 32)] = true → fld w 55 32 ≠ 0 → fld w 103 102 < (getStream s.mach b k).loops.length →
    (getStream s.mach b k).loops.getD (fld w 103 102) 0 = c →
    Ends (.loop b k) s (fun m => m.apart b = s.mach.apart b ∧
      (getStream m b k).loops.getD (fld w 103 102) 0 = (if c = 0 then fld w 55 32 else c) - 1 ∧
      ((if c = 0 then fld w 55 32 else c) ≠ 1 → (getStream m b k).next = fld w 79 56) ∧
      ((if c = 0 then fld w 55 32 else c) = 1 → (getStream m b k).next = (getStream s.mach b k).next))) ∧
  (∀ (s : State) (b : BayNo) (k : StreamNo) (w : Slot), opReady s.mach b k 2 9 = true → (getStream s.mach b k).word = w →
    reservedClear w [(103, 102), (31, 0)] = true → fld w 103 102 < 2 →
    Ends (.tbase b k) s (fun m => m.apart b = s.mach.apart b ∧ (getStream m b k).tb =
      (if fld w 103 102 = 0 then ((getSeq s.mach b).bnd + 65536 * (getSeq s.mach b).fallowed) % 2 ^ 64
       else (((getStream s.mach b k).tb + sext 32 (fld w 31 0)) % 2 ^ 64).toNat)))

/-- Tokens (R104, R107, R108, R114, R118, R131, R502): SIGNAL puts its tokens on their way with their due tick, a delivery pays
debt first and adds the rest to COUNT, a bay without a slice tenant drops and counts, and GEAR posts its request. -/
def Obligations.TokensAndGears : Prop :=
  (∀ (s : State) (b : BayNo) (k : StreamNo) (w : Slot) (d : Nat), opReady s.mach b k 2 1 = true → (getStream s.mach b k).word = w →
    reservedClear w [(97, 90), (63, 32), (31, 0)] = true → fld w 97 90 ≠ 0 → fld w 63 32 = tokNone → fld w 31 0 = d → d ≠ tokNone →
    tokIllegal d = false → tokLocal s.mach d = true → bayPresent s.mach (tokBay d) = true →
    bayPid s.mach (tokBay d) = bayPid s.mach b →
    Ends (.signal b k) s (fun m => m.csr = s.mach.csr ∧ m.toks = s.mach.toks ++
      [{ bay := tokBay d, ch := tokCh d, n := fld w 97 90, poison := false,
         due := tokenDue s.mach b (tokBay d) (getStream s.mach b k).issued, tid := (getSeq s.mach b).tid, port := none,
         cross := decide (dieOf b ≠ dieOf (tokBay d)) }])) ∧
  (∀ (s : State) (i late : Nat) (f : TokFlight) (c : Chan), s.mach.toks[i]? = some f → f.bay < 72 →
    tokAccepted s.mach f.bay f.tid f.port = true → getChan s.mach f.bay f.ch = c → c.count + f.n ≤ 255 →
    Ends (.tokenDelivery i late) s (fun m => m.toks = s.mach.toks.eraseIdx i ∧
      (getChan m f.bay f.ch).debt = c.debt - f.n ∧ (getChan m f.bay f.ch).count = c.count + (f.n - c.debt))) ∧
  (∀ (s : State) (i late : Nat) (f : TokFlight), s.mach.toks[i]? = some f → f.bay < 72 →
    tokAccepted s.mach f.bay f.tid f.port = false →
    Ends (.tokenDelivery i late) s (fun m => m.toks = s.mach.toks.eraseIdx i ∧ m.apart f.bay = { s.mach with toks := m.toks }.apart f.bay ∧
      rf m .SEQ_TOKSTAT f.bay 0 31 0 = sat 32 (rf s.mach .SEQ_TOKSTAT f.bay 0 31 0 + 1))) ∧
  (∀ (s : State) (b : BayNo) (k : StreamNo) (w : Slot), opReady s.mach b k 2 8 = true → (getStream s.mach b k).word = w →
    reservedClear w [(103, 98), (89, 80), (31, 0)] = true → 4 ≤ fld w 103 99 → fld w 103 99 ≤ 16 →
    (∀ x ∈ s.mach.pwr.gearReqs, x.bay ≠ b) →
    count (advanceEdge s.mach b (getStream s.mach b k).last) + 61440 < ceilDiv (deadline s.mach b k (fld w 31 0)) 65536 * 65536 →
    Ends (.gear b k) s (fun m => m.csr = s.mach.csr ∧ m.toks = s.mach.toks ∧ m.bays = (opDone s.mach b k).bays ∧
      m.pwr.gearReqs = s.mach.pwr.gearReqs ++
        [{ bay := b, gear := fld w 103 99, bnd := ceilDiv (deadline s.mach b k (fld w 31 0)) 65536, posted := count m,
           gch := if bit w 98 then some (fld w 89 80) else none, decided := false }]))

/-- Rendezvous (R122 to R125): an RDV whose record is inside the fence leaves its participant pending; the root without
children combines at once and is released; an arrival is held, a release lets the participant go on; and a LIMITED
participant that nobody released goes to ALT. -/
def Obligations.RendezvousRun : Prop :=
  (∀ (s : State) (b : BayNo) (k : StreamNo) (w : Slot) (r : Line), opReady s.mach b k 2 7 = true → (getStream s.mach b k).word = w →
    reservedClear w [(103, 101), (97, 94), (89, 32), (31, 0)] = true → bit w 51 = false → fld w 97 94 = 0 → fld w 55 52 = 0 →
    (bit w 101 = false → fld w 79 56 = 0) → (getStream s.mach b k).hold = .none → getChan s.mach b (fld w 89 80) = Chan.zero →
    fenceOk s.mach b (fld w 50 32 * 64) 64 = true → rdvRecord s.mach b (fld w 50 32 * 64) = r →
    (∀ i < 8, fld r (32 * i + 31) (32 * i) = tokNone) → fld r 511 480 = tokNone → fld r 415 384 = tokNone →
    Ends (.rdv b k) s (fun m => m.apart b = s.mach.apart b ∧ (getStream m b k).hold = .rdv ∧
      ∃ p, (getChan m b (fld w 89 80)).pend = some p ∧ p.stream = k ∧ p.root = bit w 103 ∧ p.group = fld r 431 416 ∧
        p.nchild = 0 ∧ p.combined = false)) ∧
  (∀ (s : State) (b : BayNo) (ch : Fin 1024) (r : RdvPend), (getChan s.mach b ch).pend = some r → r.combined = false →
    r.nchild = 0 → r.root = true → r.abandoned = false → r.children = [] →
    Ends (.rdvCombine b ch) s (fun m => m.apart b = s.mach.apart b ∧ ∃ pay t, (getChan m b ch).rel = some (pay, t) ∧
      pay.group = r.group ∧ pay.crit = tokAddr b ch ∧ t = r.atL)) ∧
  (∀ (s : State) (i : Nat) (f : RdvFlight), s.mach.rdvs[i]? = some f → f.rel = false → f.bay < 72 →
    tokAccepted s.mach f.bay f.tid f.port = true → arrMismatch (getChan s.mach f.bay f.ch) f.pay.group = false →
    Ends (.rdvArr i) s (fun m => m.rdvs = s.mach.rdvs.eraseIdx i ∧ m.csr = s.mach.csr ∧
      (getChan m f.bay f.ch).arr = (getChan s.mach f.bay f.ch).arr + 1 ∧ (getChan m f.bay f.ch).arrGroup = f.pay.group)) ∧
  (∀ (s : State) (i : Nat) (f : RdvFlight) (r : RdvPend), s.mach.rdvs[i]? = some f → f.rel = true → f.bay < 72 →
    tokAccepted s.mach f.bay f.tid f.port = true → (getChan s.mach f.bay f.ch).pend = some r → f.pay.group = r.group →
    r.abandoned = false → r.children = [] →
    Ends (.rdvRel i) s (fun m => m.rdvs = s.mach.rdvs.eraseIdx i ∧ (getChan m f.bay f.ch).rel = some (f.pay, m.now))) ∧
  (∀ (s : State) (b : BayNo) (ch : Fin 1024) (r : RdvPend) (pay : RdvPay) (t : Nat), (getChan s.mach b ch).pend = some r →
    (getChan s.mach b ch).rel = some (pay, t) → r.abandoned = false → isHalted s.mach b = false → r.loc = tokNone →
    r.rebase = false → r.stream < 6 →
    Ends (.rdvProceed b ch) s (fun m => m.toks = s.mach.toks ∧ (getChan m b ch).pend = none ∧ (getChan m b ch).rel = none ∧
      (getStream m b r.stream).hold = .none)) ∧
  (∀ (s : State) (b : BayNo) (ch : Fin 1024) (r : RdvPend), (getChan s.mach b ch).pend = some r → r.limited = true →
    r.abandoned = false → (getChan s.mach b ch).rel = none → isHalted s.mach b = false → r.stream < 6 →
    Ends (.rdvAbandon b ch) s (fun m => m.apart b = s.mach.apart b ∧ (getStream m b r.stream).next = r.alt ∧
      (getStream m b r.stream).hold = .none ∧ (getChan m b ch).pend = some { r with abandoned := true }))

/-- The rota (R89 to R93, R96 to R98, R129, R130, R637): the lead announces entry 0 of an enabled rota, sends GO or REFUSE by
what the bays answered, and begins the slice; a cleared bay runs every present stream from START, or from IN when its tenant
was suspended; the slice ends, and a bay that has settled goes IDLE, its debt written off at the limit. -/
def Obligations.RotaRuns : Prop :=
  (∀ (s : State) (p : PartNo) (lead : Nat) (r : Rota), leadBay s.mach p = some lead → getRota s.mach p = r → r.enabled = true →
    r.inSlice = false → r.ann = none → r.abortReq = false → r.stopReq = false → partHalted s.mach p = false →
    Ends (.rotaAnnounce p) s (fun m => (getRota m p).ann = some 0 ∧ (getRota m p).annCont = false ∧
      (getRota m p).annGo = !(entWorks (rotaA s.mach lead 0)) ∧ m.csr = s.mach.csr)) ∧
  (∀ (s : State) (p : PartNo) (lead k : Nat), leadBay s.mach p = some lead → (getRota s.mach p).ann = some k →
    (getRota s.mach p).annGo = false →
    Ends (.rotaGoRefuse p) s (fun m => (getRota m p).annGo = true ∧ (getRota m p).ann = some k ∧
      (getRota m p).annRefused = (partBays s.mach p).any (fun b => decide ((getSeq s.mach b).ready ≠ some 0)))) ∧
  (∀ (s : State) (p : PartNo) (lead k : Nat), leadBay s.mach p = some lead → (getRota s.mach p).ann = some k →
    (getRota s.mach p).annGo = true → (getRota s.mach p).annCont = false → (getRota s.mach p).inSlice = false →
    Ends (.sliceBegin p) s (fun m => (getRota m p).inSlice = true ∧ (getRota m p).cur = k ∧ (getRota m p).ann = none ∧
      (getRota m p).startFrame = (getRota s.mach p).entryEnd ∧
      (getRota m p).fallow = (!(entWorks (rotaA s.mach lead k)) || (getRota s.mach p).annRefused))) ∧
  (∀ (s : State) (b : BayNo) (q : Seq), getSeq s.mach b = q → q.st = .clear → isHalted s.mach b = false →
    Ends (.clearComplete b) s (fun m => m.apart b = s.mach.apart b ∧ (getSeq m b).st = .run ∧
      (∀ k : StreamNo, k.val ∈ storeStreams s.mach b q.storeBase → (getStream m b k).run = true ∧
        (getStream m b k).nextAt = q.clearEnd ∧ (getStream m b k).next =
          (if q.resume then entIn (streamEntry s.mach b q.storeBase k) else entStart (streamEntry s.mach b q.storeBase k))))) ∧
  (∀ (s : State) (p : PartNo) (lead : Nat) (r : Rota), leadBay s.mach p = some lead → getRota s.mach p = r → r.enabled = true →
    r.inSlice = true → r.annCont = false → r.abortReq = false → partHalted s.mach p = false →
    Ends (.sliceEnd p) s (fun m => (getRota m p).inSlice = false ∧ m.mem = s.mach.mem)) ∧
  (∀ (s : State) (b : BayNo), (getSeq s.mach b).st = .settle → unsettled s.mach b = false → isHalted s.mach b = false →
    (getSeq s.mach b).take = none →
    Ends (.settlementComplete b) s (fun m => (getSeq m b).st = .idle ∧ (getSeq m b).tid = none ∧ (getSeq m b).entry = none)) ∧
  (∀ (s : State) (b : BayNo), (getSeq s.mach b).st = .settle → noDebt s.mach b = false →
    Ends (.settleLimitExpiry b) s (fun m => m.apart b = s.mach.apart b ∧ noDebt m b = true))

/-! ### The matrix array (chapter 06) -/

/-- The matrix array (R169 to R174, R177, R183): PROF fills its slot with an accepted record; PASS streams for its time; DRAIN
starts after its issue and the terms of its bank; a drain that completes writes its rows and its flag word; a thread's request
leaves the queue when the array is idle. -/
def Obligations.MatrixArrayRuns : Prop :=
  (∀ (s : State) (b : BayNo) (w : Slot) (r : Line), opReady s.mach b 1 1 1 = true → (getStream s.mach b 1).word = w →
    reservedClear w [(103, 101), (18, 0)] = true → fenceOk s.mach b (fld w 18 0 * 64) 64 = true →
    BitVec.ofNat 512 (readNat s.mach.loft (loftIx b (fld w 18 0 * 64)) 64) = r → profOk r = true →
    Ends (.prof b none) s (fun m => m.apart b = s.mach.apart b ∧
      (getMxa m b).profs = (getMxa s.mach b).profs.set (fld w 103 101) (some r) ∧
      (getStream m b 1).busy = (getStream s.mach b 1).issued + 8)) ∧
  (∀ (s : State) (b : BayNo) (w : Slot) (r : Line), opReady s.mach b 1 1 2 = true → (getStream s.mach b 1).word = w →
    (getMxa s.mach b).drains = [] → wordProf s.mach b w = some r → passLegal r w = true → passDrains w = false →
    max (passStream r w) (passLoad r w) ≤ slotHold w + 1 → fenceRefused s.mach b (passReads r w) = none →
    Ends (.pass b none) s (fun m => m.loft = s.mach.loft ∧ m.mem = s.mach.mem ∧
      (getMxa m b).streamEnd = (getStream s.mach b 1).issued + passStream r w - 1 ∧ (getMxa m b).drains = [] ∧
      (getMxa m b).active = (if bit w 100 then 1 - (getMxa s.mach b).active else (getMxa s.mach b).active))) ∧
  (∀ (s : State) (b : BayNo) (w : Slot) (r : Line), opReady s.mach b 1 1 3 = true → (getStream s.mach b 1).word = w →
    (getMxa s.mach b).drains = [] → wordProf s.mach b w = some r → drainLegal w = true → bit w 96 = false →
    fenceRefused s.mach b (drainRanges r (passDaddr w) (passSteps w)) = none →
    Ends (.drain b) s (fun m => m.apart b = s.mach.apart b ∧ ∃ d, (getMxa m b).drains = [d] ∧ d.bank = passBank w ∧ d.rec_ = r ∧
      d.start = max (getStream s.mach b 1).issued ((getMxa s.mach b).termEnd.getD (passBank w) 0) + 1 ∧
      d.fin = d.start + drainFclk r (passSteps w) ∧ d.sig = false)) ∧
  (∀ (s : State) (b : BayNo) (bank : Fin 2) (d : Drain), (getMxa s.mach b).drains = [d] → d.bank = bank → d.sig = false →
    Ends (.mxaDrainComplete b bank) s (fun m => (getMxa m b).drains = [] ∧ m.mem = s.mach.mem ∧
      rg m .MXA_LASTFLAGS b 0 = BitVec.ofNat 64 ((drainWrites (getMxa s.mach b) d).2 ||| (getMxa s.mach b).accFlags.getD bank 0) ∧
      m.loft = (drainWrites (getMxa s.mach b) d).1.foldl
        (fun l x => writeMasked l (loftIx b x.1) (2 ^ x.2.1.length - 1) x.2.1) s.mach.loft)) ∧
  (∀ (s : State) (b : BayNo) (q : MxaReq) (rest : List MxaReq) (win : FlexWin), (getMxa s.mach b).flexq = q :: rest →
    (getMxa s.mach b).drains = [] → (getSeq s.mach b).win = some win →
    max (edgeOf s.mach b) (max (max (getMxa s.mach b).streamEnd (getMxa s.mach b).loadEnd)
      ((getMxa s.mach b).termEnd.foldl max 0) + 1) + 9 ≤ win.last →
    Ends (.mxaFlexRequest b) s (fun m => (getMxa m b).flexq = rest ∧ m.mem = s.mach.mem ∧ m.loft = s.mach.loft))

/-! ### The vector engine (chapter 07) -/

/-- Integer operations of the vector engine, lane by lane (R199): each writes what BitVec arithmetic on the lanes of A and B gives,
with no flag. Approximate functions of the vector engine in FP32, lane by lane (R207, R208): what a special operand gives is fixed, and
elsewhere the value is the free value of log entry 21. -/
def Obligations.VectorIntegerAndFunctionLanes : Prop :=
  (let lanes (c : BayNo → Instr) (op lat : Nat) (f : BitVec 32 → BitVec 32 → BitVec 32) : Prop :=
     ∀ (s : State) (b : BayNo) (w : Slot) (d : Nat),
       VxeLanes s.mach b op w d 1 (VUse.ok { fmt := true } w && fmtI w && aAndB w) →
       Ends (c b) s (fun m => VxePuts s.mach m b lat (fun es => es = laneEffs d (lanes2 (getVxe s.mach b) w
         (fun _ x y => ((f (BitVec.ofNat 32 x) (BitVec.ofNat 32 y)).toNat, 0)))))
   lanes .iadd 0x20 1 (fun a c => a + c) ∧ lanes .isub 0x21 1 (fun a c => a - c) ∧ lanes .imul 0x22 2 (fun a c => a * c) ∧
   lanes .imin 0x23 1 (fun a c => if a.toInt ≤ c.toInt then a else c) ∧
   lanes .imax 0x24 1 (fun a c => if a.toInt ≤ c.toInt then c else a) ∧
   lanes .and 0x25 1 (fun a c => a &&& c) ∧ lanes .or 0x26 1 (fun a c => a ||| c) ∧ lanes .xor 0x27 1 (fun a c => a ^^^ c) ∧
   lanes .shl 0x28 1 (fun a c => a <<< (c.toNat % 32)) ∧ lanes .shr 0x29 1 (fun a c => a >>> (c.toNat % 32)) ∧
   lanes .sra 0x2A 1 (fun a c => a.sshiftRight (c.toNat % 32))) ∧
  (let fn (c : BayNo → Instr) (op lat : Nat) : Prop :=
     ∀ (s : State) (b : BayNo) (w : Slot) (d : Nat),
       VxeLanes s.mach b op w d 1 (VUse.ok { fmt := true, rm := true } w && fmtF w && onlyA w) →
       Ends (c b) s (fun m => VxePuts s.mach m b lat (fun es => es = laneEffs d (lanes1 (getVxe s.mach b) w
         (fun l a => approxOp op w 0 l a))))
   fn .rcp 0x15 6 ∧ fn .rsqrt 0x16 6 ∧ fn .exp2 0x17 8 ∧ fn .exp 0x18 10 ∧ fn .log2 0x19 8 ∧ fn .log 0x1A 10 ∧
   fn .tanh 0x1B 12 ∧ fn .sigm 0x1C 12 ∧ fn .erf 0x1D 12 ∧ fn .sin 0x1E 14 ∧ fn .cos 0x1F 14)

/-- Floating-point operations of the vector engine in FP32, lane by lane (R199): the exact result rounded once with RM. MIN, MAX,
ABS and NEG work on the encodings, RINT rounds to an integral value, DIV and SQRT issue every 4 FCLK. -/
def Obligations.VectorFloatLanes : Prop :=
  let two (c : BayNo → Instr) (op lat ii : Nat) (f : Slot → Val → Val → Val × Nat) : Prop :=
    ∀ (s : State) (b : BayNo) (w : Slot) (d : Nat),
      VxeLanes s.mach b op w d ii (VUse.ok { fmt := true, rm := true } w && fmtF w && aAndB w) →
      Ends (c b) s (fun m => VxePuts s.mach m b lat (fun es => es = laneEffs d (lanes2 (getVxe s.mach b) w
        (fun l x y => rounded w 0 l (f w (fDec w x) (fDec w y))))))
  let three (c : BayNo → Instr) (op : Nat) (f : Slot → Val → Val → Val → Val × Nat) : Prop :=
    ∀ (s : State) (b : BayNo) (w : Slot) (d : Nat),
      VxeLanes s.mach b op w d 1 (VUse.ok { fmt := true, rm := true } w && fmtF w && (opA w).isSrc && (opB w).isSrc &&
        (opC w).isSrc && oneLoft w) →
      Ends (c b) s (fun m => VxePuts s.mach m b 4 (fun es => es = laneEffs d (lanes3 (getVxe s.mach b) w
        (fun l x y z => rounded w 0 l (f w (fDec w x) (fDec w y) (fDec w z))))))
  let one (c : BayNo → Instr) (op lat ii : Nat) (rm : Bool) (f : Slot → Nat → Nat → Nat × Nat) : Prop :=
    ∀ (s : State) (b : BayNo) (w : Slot) (d : Nat),
      VxeLanes s.mach b op w d ii (VUse.ok { fmt := true, rm := rm } w && fmtF w && onlyA w) →
      Ends (c b) s (fun m => VxePuts s.mach m b lat (fun es => es = laneEffs d (lanes1 (getVxe s.mach b) w (f w))))
  let pick (c : BayNo → Instr) (op : Nat) (big : Bool) : Prop :=
    ∀ (s : State) (b : BayNo) (w : Slot) (d : Nat),
      VxeLanes s.mach b op w d 1 (VUse.ok { fmt := true } w && fmtF w && aAndB w) →
      Ends (c b) s (fun m => VxePuts s.mach m b 2 (fun es => es = laneEffs d (lanes2 (getVxe s.mach b) w
        (fun _ x y => minMax (wFloat w) big x y))))
  two .add 0x08 3 1 (fun w a c => addVal (wRm w) a c) ∧ two .sub 0x09 3 1 (fun w a c => addVal (wRm w) a c.negate) ∧
  two .mul 0x0A 3 1 (fun _ a c => mulVal a c) ∧ two .div 0x13 14 4 (fun _ a c => divVal a c) ∧
  three .fma 0x0B (fun w a c g => fmaVal (wRm w) a c g) ∧ three .fms 0x0C (fun w a c g => fmaVal (wRm w) a c g.negate) ∧
  three .fnma 0x0D (fun w a c g => fmaVal (wRm w) a.negate c g) ∧
  pick .min 0x0E false ∧ pick .max 0x0F true ∧
  one .abs 0x10 1 1 false (fun w l a => signOp (fun _ => false) w 0 l a) ∧
  one .neg 0x11 1 1 false (fun w l a => signOp (fun v => !v.sign) w 0 l a) ∧
  one .rint 0x12 3 1 true (fun w l a => rintOp w 0 l a) ∧
  one .sqrt 0x14 14 4 true (fun w l a => rounded w 0 l (sqrtVal (fDec w a)))

/-- Moves of the vector engine on 32-bit lanes (R197 to R203): SETP and SETS set a pointer or a scalar; IOTA numbers the lanes;
MOV copies A; SEL under the full mask takes A; PERM takes the lane of A that B names; CVT between 32-bit formats; WINNOW and
RESOW under the full mask move every element, and WINNOW's scalar counts 128. -/
def Obligations.VectorMoves : Prop :=
  (∀ (s : State) (b : BayNo) (w : Slot), VxeWord s.mach b 0x01 w → reservedClear w [(103, 42)] = true →
    Ends (.setp b) s (fun m => VxePuts s.mach m b 1 (fun es => es =
      [.ptr (fld w 103 100) { base := fld w 99 81, stride := sext 20 (fld w 80 61), wrap := fld w 60 42, cursor := 0 }]))) ∧
  (∀ (s : State) (b : BayNo) (w : Slot), VxeWord s.mach b 0x02 w → reservedClear w [(103, 96), (52, 45), (38, 0)] = true →
    fld w 99 96 = 0 →
    Ends (.sets b) s (fun m => VxePuts s.mach m b 1 (fun es => es = [.scalar (fld w 103 100) (BitVec.ofNat 32 (fld w 31 0)) false]))) ∧
  (∀ (s : State) (b : BayNo) (w : Slot), VxeWord s.mach b 0x02 w → reservedClear w [(103, 96), (52, 45), (38, 0)] = true →
    fld w 99 96 = 1 → fld w 52 45 < 64 →
    Ends (.sets b) s (fun m => VxePuts s.mach m b 2 (fun es => es = [.scalar (fld w 103 100)
      (vLane (getVxe s.mach b) (fld w 52 45) (fld w 38 32)) (vLaneP (getVxe s.mach b) (fld w 52 45) (fld w 38 32))]))) ∧
  (∀ (s : State) (b : BayNo) (w : Slot), VxeWord s.mach b 0x02 w → reservedClear w [(103, 96), (52, 45), (38, 0)] = true →
    fld w 99 96 = 2 → fld w 103 100 < 4 →
    Ends (.sets b) s (fun m => VxePuts s.mach m b 1 (fun es => es =
      [.token (fld w 103 100) (BitVec.ofNat 32 (fld w 31 0))]))) ∧
  (∀ (s : State) (b : BayNo) (w : Slot) (d : Nat),
    VxeLanes s.mach b 0x03 w d 1 (VUse.ok { fmt := true, imm := 29 } w && fmtI w && noSrc w) →
    Ends (.iota b) s (fun m => VxePuts s.mach m b 1 (fun es => es = laneEffs d (fun l => ((wImm w + l) % 2 ^ 32, 0, false))))) ∧
  (∀ (s : State) (b : BayNo) (w : Slot) (d : Nat),
    VxeLanes s.mach b 0x04 w d 1 (VUse.ok { fmt := true } w && fmt32 w && onlyA w) →
    Ends (.mov b) s (fun m => VxePuts s.mach m b 1 (fun es => es = laneEffs d (lanes1 (getVxe s.mach b) w (fun _ a => (a, 0)))))) ∧
  (∀ (s : State) (b : BayNo) (w : Slot) (d : Nat),
    VxeLanes s.mach b 0x05 w d 1 (VUse.ok { fmt := true } w && fmt32 w && aAndB w && !wMz w) →
    Ends (.sel b) s (fun m => VxePuts s.mach m b 1 (fun es => es = laneEffs d (lanes1 (getVxe s.mach b) w (fun _ a => (a, 0)))))) ∧
  (∀ (s : State) (b : BayNo) (w : Slot) (d : Nat),
    VxeLanes s.mach b 0x07 w d 1 (VUse.ok { fmt := true } w && fmt32 w && aAndB w) →
    Ends (.perm b) s (fun m => VxePuts s.mach m b 2 (fun es => es = laneEffs d (fun l =>
      let c := laneArg (getVxe s.mach b) (opB w) l
      let a := laneArg (getVxe s.mach b) (opA w) (c.1 % 128)
      (a.1, 0, a.2 || c.2))))) ∧
  (∀ (s : State) (b : BayNo) (w : Slot) (d : Nat), VxeLanes s.mach b 0x06 w d 1 (cvtLegal w) → elemBits (wFmt w) = 32 →
    elemBits (wOfmt w) = 32 → opB w = .none →
    Ends (.cvt b) s (fun m => VxePuts s.mach m b 3 (fun es => es = laneEffs d (lanes1 (getVxe s.mach b) w
      (fun l a => encodeElem (wOfmt w) (cvtRnd w 0 l) (decodeElem (wFmt w) a)))))) ∧
  (∀ (s : State) (b : BayNo) (w : Slot) (d n : Nat), VxeOne s.mach b 0x2D w → opD w = .reg d true → opA w = .reg n false →
    (VUse.ok { fmt := true, sub := true, imm := 4 } w && fmt32 w && onlyA w) = true → wSub w = 0 →
    Ends (.winnow b) s (fun m => VxePuts s.mach m b 4 (fun es => es =
      laneEffs d (lanes1 (getVxe s.mach b) w (fun _ a => (a, 0))) ++ [.scalar (wImm w % 16) 128 false]))) ∧
  (∀ (s : State) (b : BayNo) (w : Slot) (d n : Nat), VxeOne s.mach b 0x2E w → opD w = .reg d false → opA w = .reg n true →
    (VUse.ok { fmt := true } w && fmt32 w && onlyA w) = true →
    Ends (.resow b) s (fun m => VxePuts s.mach m b 4 (fun es => es =
      laneEffs d (lanes1 (getVxe s.mach b) w (fun _ a => (a, 0))))))

/-- Masks, reductions and anchored accumulators (R199, R200, R204 to R206, R210): CMP and MLOG write a mask register, RED over
pairs adds two lanes, AADD, AMAC, ARED, ALD, AST, AOUT and ACLR work on the accumulator ACN, FLAGS reads the lane flags; a
result write puts its lane into the register. -/
def Obligations.VectorMasksAndAccumulators : Prop :=
  (∀ (s : State) (b : BayNo) (w : Slot), VxeOne s.mach b 0x2B w → (opA w).isLoft = false → (opB w).isLoft = false → wD w < 8 →
    (VUse.ok { fmt := true, sub := true } w && fmt32 w && aAndB w && maskLegal (wD w) true &&
      decide (wSub w ≤ (if fmtI w then 5 else 7))) = true →
    Ends (.cmp b) s (fun m => VxePuts s.mach m b 2 (fun es => ∃ v p, VEff.mask (wD w) v (BitVec.allOnes 128) p ∈ es ∧
      ∀ l < 128, v.getLsbD l = (cmpBit (wSub w) (fmtI w) (laneArg (getVxe s.mach b) (opA w) l).1
        (laneArg (getVxe s.mach b) (opB w) l).1).1))) ∧
  (∀ (s : State) (b : BayNo) (w : Slot), VxeOne s.mach b 0x2C w → wD w < 8 → wA w < 8 → wB w < 8 → wSub w = 0 →
    (VUse.ok { sub := true } w && maskLegal (wD w) true && unusedOp (wC w)) = true →
    Ends (.mlog b) s (fun m => VxePuts s.mach m b 1 (fun es => es =
      [.mask (wD w) (vMask (getVxe s.mach b) (wA w) &&& vMask (getVxe s.mach b) (wB w)) (BitVec.allOnes 128)
        (vMaskP (getVxe s.mach b) (wA w) || vMaskP (getVxe s.mach b) (wB w))]))) ∧
  (∀ (s : State) (b : BayNo) (w : Slot) (d : Nat), VxeLanes s.mach b 0x2F w d 1 (VUse.ok { fmt := true, sub := true, imm := 3 } w
      && fmtI w && onlyA w) → wSub w = 0 → wImm w = 0 →
    Ends (.red b) s (fun m => VxePuts s.mach m b 3 (fun es => ∀ g < 64, ∃ p, VEff.lane d g
      (BitVec.ofNat 32 ((laneArg (getVxe s.mach b) (opA w) (2 * g)).1 + (laneArg (getVxe s.mach b) (opA w) (2 * g + 1)).1))
      (BitVec.allOnes 32) p ∈ es))) ∧
  (∀ (s : State) (b : BayNo) (w : Slot), VxeOne s.mach b 0x30 w → (opA w).isLoft = false →
    (VUse.ok { fmt := true, acn := true, imm := 10 } w && fmt32 w && onlyA w && unusedOp (wD w)) = true →
    Ends (.aadd b) s (fun m => VxePuts s.mach m b 4 (fun es => es = (List.range 128).map (fun l =>
      let a := laneArg (getVxe s.mach b) (opA w) l
      .acAdd (wAcn w) l (ancTerm (sext 10 (wImm w)) (decodeElem (wFmt w) a.1)) a.2)))) ∧
  (∀ (s : State) (b : BayNo) (w : Slot), VxeOne s.mach b 0x31 w → (opA w).isLoft = false → (opB w).isLoft = false →
    (VUse.ok { fmt := true, acn := true, imm := 10 } w && fmt32 w && aAndB w && unusedOp (wD w)) = true →
    Ends (.amac b) s (fun m => VxePuts s.mach m b 4 (fun es => es = (List.range 128).map (fun l =>
      let a := laneArg (getVxe s.mach b) (opA w) l
      let c := laneArg (getVxe s.mach b) (opB w) l
      .acAdd (wAcn w) l (ancTerm (sext 10 (wImm w)) (mulVal (decodeElem (wFmt w) a.1) (decodeElem (wFmt w) c.1)).1)
        (a.2 || c.2))))) ∧
  (∀ (s : State) (b : BayNo) (w : Slot), VxeOne s.mach b 0x32 w → wImm w = 6 →
    (VUse.ok { acn := true, imm := 3 } w && noSrc w && unusedOp (wD w)) = true →
    Ends (.ared b) s (fun m => VxePuts s.mach m b 8 (fun es =>
      (∃ p, VEff.acSet (wAcn w) 0 ((List.range 128).foldl (fun c j => (ancAdd c (vAc (getVxe s.mach b) (wAcn w) j)).1) 0) p ∈ es) ∧
      ∀ l < 128, 1 ≤ l → VEff.acSet (wAcn w) l 0 false ∈ es))) ∧
  (∀ (s : State) (b : BayNo) (w : Slot) (q : Nat), VxeOne s.mach b 0x33 w → opA w = .loft q → wSub w = 0 →
    fenceOk s.mach b (ptrAddr (vPtr (getVxe s.mach b) q)) 2048 = true → 4 ≤ slotHold w + 1 →
    (VUse.ok { acn := true, sub := true } w && onlyA w && unusedOp (wD w)) = true →
    Ends (.ald b) s (fun m => m.loft = s.mach.loft ∧ ∃ x, (getVxe m b).flight = [x] ∧ x.edge = (getStream s.mach b 2).issued + 19 ∧
      ∀ l < 128, ∃ p, VEff.acSet (wAcn w) l (BitVec.ofNat 128 (readNat s.mach.loft
        (loftIx b (ptrAddr (vPtr (getVxe s.mach b) q) + 16 * l)) 16)) p ∈ x.effs)) ∧
  (∀ (s : State) (b : BayNo) (w : Slot) (q : Nat), VxeOne s.mach b 0x34 w → opD w = .loft q → wSub w = 0 →
    fenceOk s.mach b (ptrAddr (vPtr (getVxe s.mach b) q)) 2048 = true → 4 ≤ slotHold w + 1 →
    (VUse.ok { acn := true, sub := true } w && noSrc w) = true →
    Ends (.ast b) s (fun m => m.loft = s.mach.loft ∧ (getVxe m b).flight.map VWrite.edge =
      [(getStream s.mach b 2).issued, (getStream s.mach b 2).issued + 1, (getStream s.mach b 2).issued + 2,
       (getStream s.mach b 2).issued + 3])) ∧
  (∀ (s : State) (b : BayNo) (w : Slot) (d : Nat), VxeLanes s.mach b 0x35 w d 1
      (VUse.ok { ofmt := true, rm := true, sat := true, acn := true, sub := true } w && noSrc w) → wSub w = 0 → wOfmt w = 0 →
    Ends (.aout b) s (fun m => VxePuts s.mach m b 4 (fun es => es = laneEffs d (fun l =>
      let r := ancOut 0 { rm := wRm w, sat := wSat w, seed := wImm w, idx := l } (vAc (getVxe s.mach b) (wAcn w) l)
      (r.1, r.2, vAcP (getVxe s.mach b) (wAcn w) l))))) ∧
  (∀ (s : State) (b : BayNo) (w : Slot), VxeOne s.mach b 0x36 w →
    (VUse.ok { acn := true } w && noSrc w && unusedOp (wD w)) = true →
    Ends (.aclr b) s (fun m => VxePuts s.mach m b 1 (fun es => es = (List.range 128).map (fun l => .acSet (wAcn w) l 0 false)))) ∧
  (∀ (s : State) (b : BayNo) (w : Slot) (d : Nat), VxeLanes s.mach b 0x37 w d 1 (VUse.ok { sub := true } w && noSrc w) → wSub w = 0 →
    Ends (.flags b) s (fun m => m.apart b = s.mach.apart b ∧ ∃ x y, (getVxe m b).flight = [x, y] ∧ y.fin = true ∧
      x.edge = (getStream s.mach b 2).issued + 1 ∧ x.effs = laneEffs d (fun l => (vLf (getVxe s.mach b) l, 0, false)))) ∧
  (∀ (s : State) (b : BayNo) (x : VWrite) (r l : Nat) (v : BitVec 32) (p : Bool), (getVxe s.mach b).flight = [x] → x.sig = none →
    x.effs = [.lane r l v (BitVec.allOnes 32) p] →
    Ends (.vxeResultWrite b none) s (fun m => m.apart b = s.mach.apart b ∧ (getVxe m b).flight = [] ∧ vLane (getVxe m b) r l = v ∧
      vLaneP (getVxe m b) r l = p ∧ ∀ i, i ≠ 128 * r + l → smapGet 0 (getVxe m b).v i = smapGet 0 (getVxe s.mach b).v i))

/-- Every word of the vector engine in issue, in any form, runs or stops its bay (R74, R101, R193, R196): after the command of its
operation either the bay is stopped with a furrow error or the engine has counted the word. -/
def Obligations.EveryVectorWordRunsOrStops : Prop :=
  ∀ (s : State) (b : BayNo) (c : BayNo → Instr) (op : Nat), opReady s.mach b 2 1 op = true →
    (c, op) ∈ ([(.setp, 0x01), (.sets, 0x02), (.iota, 0x03), (.mov, 0x04), (.sel, 0x05), (.cvt, 0x06), (.perm, 0x07), (.add, 0x08),
      (.sub, 0x09), (.mul, 0x0A), (.fma, 0x0B), (.fms, 0x0C), (.fnma, 0x0D), (.min, 0x0E), (.max, 0x0F), (.abs, 0x10),
      (.neg, 0x11), (.rint, 0x12), (.div, 0x13), (.sqrt, 0x14), (.rcp, 0x15), (.rsqrt, 0x16), (.exp2, 0x17), (.exp, 0x18),
      (.log2, 0x19), (.log, 0x1A), (.tanh, 0x1B), (.sigm, 0x1C), (.erf, 0x1D), (.sin, 0x1E), (.cos, 0x1F), (.iadd, 0x20),
      (.isub, 0x21), (.imul, 0x22), (.imin, 0x23), (.imax, 0x24), (.and, 0x25), (.or, 0x26), (.xor, 0x27), (.shl, 0x28),
      (.shr, 0x29), (.sra, 0x2A), (.cmp, 0x2B), (.mlog, 0x2C), (.winnow, 0x2D), (.resow, 0x2E), (.red, 0x2F), (.aadd, 0x30),
      (.amac, 0x31), (.ared, 0x32), (.ald, 0x33), (.ast, 0x34), (.aout, 0x35), (.aclr, 0x36), (.flags, 0x37)]
      : List ((BayNo → Instr) × Nat)) →
    Ends (c b) s (fun m => (getSeq m b).st = .stopped ∨ (getVxe m b).words = (getVxe s.mach b).words + 1)

/-! ### Sheaf engines (chapter 08) -/

/-- A launch from FLEX to RESULT (R85 to R88, R218 to R221, R232, R240 to R242): FLEX opens its window and starts every engine
named; a queued sheaf becomes resident; the issue port selects the ready threads at the lowest PC; the window's end leaves no
live thread; and the engine that winds up writes its result word and is free. -/
def Obligations.LaunchesRun : Prop :=
  (∀ (s : State) (b : BayNo) (w : Slot) (d : Line), opReady s.mach b 0 1 1 = true → (getStream s.mach b 0).word = w →
    reservedClear w [(103, 91), (82, 64), (57, 48)] = true → fenceOk s.mach b (fld w 82 64 * 64) 64 = true →
    BitVec.ofNat 512 (readNat s.mach.loft (loftIx b (fld w 82 64 * 64)) 64) = d → launchOk w d = true →
    (∀ e ∈ bitList 4 (fxEng w), shfPresent s.mach b e = true ∧ (getEng s.mach b e).active = false) → (getSeq s.mach b).win = none →
    Ends (.flex b) s (fun m => m.apart b = s.mach.apart b ∧ m.csr = s.mach.csr ∧
      (∃ win, (getSeq m b).win = some win ∧ win.isOpen = true ∧ win.eng = fxEng w ∧ win.doneCh = fld w 57 48 ∧
        win.first = (getStream s.mach b 0).issued ∧ win.last = (getStream s.mach b 0).last) ∧
      ∀ e : Fin 4, e.val ∈ bitList 4 (fxEng w) → (getEng m b e).active = true ∧ (getEng m b e).desc = d ∧
        (getEng m b e).daddr = fld w 82 64 * 64 ∧ (getEng m b e).start = (getStream s.mach b 0).issued ∧
        (getEng m b e).total = ceilDiv (lNthr d) 32)) ∧
  (∀ (s : State) (b : BayNo) (win : FlexWin), (getSeq s.mach b).win = some win → win.isOpen = true → isHalted s.mach b = false →
    Ends (.flexWindowEnd b) s (fun m => (getSeq m b).win = some { win with isOpen := false } ∧ m.mem = s.mach.mem ∧
      ∀ e : Fin 4, (getEng s.mach b e).active = true → (getEng m b e).live = [])) ∧
  (∀ (s : State) (b : BayNo) (e : Fin 4) (x : Sheaf), (getEng s.mach b e).active = true →
    (getEng s.mach b e).next < (getEng s.mach b e).total →
    (getEng s.mach b e).sheaves.find? (fun y => y.liveLanes.isEmpty) = some x →
    Ends (.sheafResident b e) s (fun m => m.apart b = s.mach.apart b ∧ m.csr = s.mach.csr ∧
      (getEng m b e).next = (getEng s.mach b e).next + 1 ∧
      (getEng m b e).sheaves = (getEng s.mach b e).sheaves.filter (fun y => decide (y.no ≠ x.no)) ++
        [startSheaf (getEng s.mach b e).desc (getEng s.mach b e).rank (getEng s.mach b e).next (edgeOf m b)])) ∧
  (∀ (s : State) (b : BayNo) (e : Fin 4) (at_ w : Nat) (x : Sheaf), (getEng s.mach b e).fetch = none →
    shfRuns s.mach b e = true → (getEng s.mach b e).group = [] → lRepack (getEng s.mach b e).desc = false →
    nextReady (getEng s.mach b e) (max (edgeOf s.mach b) (getEng s.mach b e).free) = some at_ → at_ ≤ winLast s.mach b →
    (roundRobin (getEng s.mach b e).sheaves (getEng s.mach b e).last).find? (fun y => decide (readyLanes y at_ ≠ [])) = some x →
    cachedWord (getEng s.mach b e) (minPc x (readyLanes x at_)) = some w →
    Ends (.issueGroupSelect b e) s (fun m => m.apart b = s.mach.apart b ∧ (getEng m b e).word = w ∧ (getEng m b e).last = x.no ∧
      (getEng m b e).group = sortGroup (((readyLanes x at_).filter (fun l =>
        decide ((x.threads.getD l Thread.zero).pc = minPc x (readyLanes x at_)))).map (fun l => (x.no, l))) ∧
      (getEng m b e).free = at_ + portTime (((readyLanes x at_).filter (fun l =>
        decide ((x.threads.getD l Thread.zero).pc = minPc x (readyLanes x at_)))).map (fun l => (x.no, l))) w)) ∧
  (∀ (s : State) (b : BayNo) (e : Fin 4), mayWindUp s.mach b e = true →
    Ends (.windUp b e) s (fun m => getEng m b e = Eng.zero ∧ m.mem = s.mach.mem ∧
      m.loft = writeMasked s.mach.loft (loftIx b ((getEng s.mach b e).daddr + 8 * e.val)) 255
        (bytesOf 8 (resultWord (getEng s.mach b e)).toNat)))

/-- Instructions of a thread (R222 to R229, R236 to R239, R244, R245): a base instruction writes its result and retires; ECALL and
EBREAK fault, EBREAK stopping instead when a debugger claims it; SHF.EXIT ends the thread; semaphore, token, matrix and bale
requests are made; crop-range accesses ask for their translation and their data comes back to the register. -/
def Obligations.ThreadsExecute : Prop :=
  (∀ (s : State) (b : BayNo) (e : Fin 4) (k l w : Nat) (t : Thread) (fp : Bool) (rd v fl : Nat), ShfOne s.mach b e k l w t →
    shfRow w = 0 → iOp w ≠ 0x0B → iOp w ≠ 0x2B → iOp w ≠ 0x5B → iOp w ≠ 0x7B → (rvControl w).any t.poisoned = false →
    rvExec t.rv w = .result fp rd v fl →
    Ends (.shfInstruction b e) s (fun m => m.apart b = s.mach.apart b ∧ m.csr = s.mach.csr ∧ (getEng m b e).group = [] ∧
      getThread m b e k l = { (t.put fp rd v ((rvSrcs w).any t.poisoned)) with
        fcsr := t.fcsr ||| fl % 32, st := .ready, pc := (t.pc + 4) % 2 ^ 64, instret := t.instret + 1,
        readyAt := edgeOf s.mach b + (shfCost w).2 })) ∧
  (∀ (s : State) (b : BayNo) (e : Fin 4) (k l : Nat) (t : Thread), ShfOne s.mach b e k l 0x73 t →
    Ends (.ecall b e) s (fun m => (getThread m b e k l).st = .faulted ∧ (getThread m b e k l).pc = t.pc ∧
      (getEng m b e).faulted = (getEng s.mach b e).faulted + 1)) ∧
  (∀ (s : State) (b : BayNo) (e : Fin 4) (k l : Nat) (t : Thread), ShfOne s.mach b e k l 0x100073 t →
    Ends (.ebreak b e) s (fun m => (getThread m b e k l).st = (if rb s.mach .DBG_BCTL b 0 0 then .stopped else .faulted))) ∧
  (∀ (s : State) (b : BayNo) (e : Fin 4) (k l w : Nat) (t : Thread), ShfOne s.mach b e k l w t → shfRow w = 0x60 →
    Ends (.shfExit b e) s (fun m => m.csr = s.mach.csr ∧ (getThread m b e k l).st = .exited ∧
      (getEng m b e).exited = (getEng s.mach b e).exited + 1)) ∧
  (∀ (s : State) (b : BayNo) (e : Fin 4) (k l w p : Nat) (t : Thread), ShfOne s.mach b e k l w t → shfRow w = 0x40 →
    t.poisoned (iRs1 w) = false → t.poisoned (iRs2 w) = false → t.getX (iRs2 w) < 2 ^ 32 →
    (getSeq s.mach b).tid.bind (fun i => semPhys s.mach b i (t.getX (iRs1 w))) = some p →
    Ends (.semAdd b e) s (fun m => m.apart b = s.mach.apart b ∧ (getThread m b e k l).pc = (t.pc + 4) % 2 ^ 64 ∧
      (getSem m b).ops = (getSem s.mach b).ops ++
        [{ edge := edgeOf s.mach b + 8, src := .sheaf (e.val * 32 + l), kind := .add, phys := p, n := t.getX (iRs2 w) }])) ∧
  (∀ (s : State) (b : BayNo) (e : Fin 4) (k l w p : Nat) (t : Thread), ShfOne s.mach b e k l w t → shfRow w = 0x41 →
    t.poisoned (iRs1 w) = false → t.poisoned (iRs2 w) = false → t.getX (iRs2 w) < 2 ^ 32 →
    (getSeq s.mach b).tid.bind (fun i => semPhys s.mach b i (t.getX (iRs1 w))) = some p →
    Ends (.semSub b e) s (fun m => m.apart b = s.mach.apart b ∧ (getThread m b e k l).pc = (t.pc + 4) % 2 ^ 64 ∧
      (getSem m b).ops = (getSem s.mach b).ops ++
        [{ edge := edgeOf s.mach b + 8, src := .sheaf (e.val * 32 + l), kind := .sub, phys := p, n := t.getX (iRs2 w) }])) ∧
  (∀ (s : State) (b : BayNo) (e : Fin 4) (k l w p : Nat) (t : Thread), ShfOne s.mach b e k l w t → shfRow w = 0x42 →
    t.poisoned (iRs1 w) = false → t.poisoned (iRs2 w) = false → t.getX (iRs2 w) < 2 ^ 32 →
    (getSeq s.mach b).tid.bind (fun i => semPhys s.mach b i (t.getX (iRs1 w))) = some p →
    Ends (.semWait b e) s (fun m => m.apart b = s.mach.apart b ∧ (getThread m b e k l).st = .semWait ∧
      (getSem m b).waits = (getSem s.mach b).waits ++
        [{ eng := e, sheaf := k, lane := l, phys := p, n := t.getX (iRs2 w), from_ := edgeOf s.mach b + 8, got := none }])) ∧
  (∀ (s : State) (b : BayNo) (w : SemWait) (h : Nat), (getSem s.mach b).waits = [w] → w.got = some h →
    Ends (.semWaitSatisfied b) s (fun m => m.apart b = s.mach.apart b ∧ m.csr = s.mach.csr ∧ (getSem m b).waits = [] ∧
      m.now = max s.mach.now (edgeTick (clkOf s.mach b) (h + 2)))) ∧
  (∀ (s : State) (b : BayNo) (e : Fin 4) (k l w a n : Nat) (t : Thread), ShfOne s.mach b e k l w t → shfRow w = 0x52 →
    t.poisoned (iRs1 w) = false → t.poisoned (iRs2 w) = false → t.getX (iRs1 w) % 2 ^ 32 = a → t.getX (iRs2 w) % 256 = n →
    tokRem a = false → tokIllegal a = false → bayPresent s.mach (tokBay a) = true → tokForeign s.mach b a = false → n ≠ 0 →
    a ≠ tokNone →
    Ends (.tokSig b e) s (fun m => m.csr = s.mach.csr ∧ (getThread m b e k l).pc = (t.pc + 4) % 2 ^ 64 ∧
      ∃ f, m.toks = s.mach.toks ++ [f] ∧ f.bay = tokBay a ∧ f.ch = tokCh a ∧ f.n = n ∧ f.poison = false)) ∧
  (∀ (s : State) (b : BayNo) (e : Fin 4) (k l w : Nat) (t : Thread), ShfOne s.mach b e k l w t → shfRow w = 0x51 →
    (getEtr s.mach b).ans = [] → t.poisoned (iRs1 w) = false → t.getX (iRs1 w) % 64 = 0 →
    Ends (.baleIssue b e) s (fun m => m.apart b = s.mach.apart b ∧ (getThread m b e k l).st = .desc ∧
      (getEtr m b).reqs = (getEtr s.mach b).reqs ++
        [{ queue := 2, tid := (getEng s.mach b e).tid, va := t.getX (iRs1 w), len := 64, kind := 7, owner := .desc e k l }])) ∧
  (∀ (s : State) (b : BayNo) (e : Fin 4) (k l w a p : Nat) (t : Thread) (win : FlexWin) (q : MxaReq), ShfOne s.mach b e k l w t →
    shfRow w = 0x50 → (getEng s.mach b e).live = [(k, l)] → t.poisoned (iRs1 w) = false → t.getX (iRs1 w) = a → a % 32 = 0 →
    lftAllowed s.mach b a 32 = true → (getSeq s.mach b).win = some win → win.mxaLend = true → rangePois s.mach b a 32 = false →
    q = { prof := readNat s.mach.loft (loftIx b (a + 16)) 8, word := BitVec.ofNat 128 (readNat s.mach.loft (loftIx b a) 16),
          sem := readNat s.mach.loft (loftIx b (a + 24)) 8 } → q.prof < 2 ^ 19 → q.sem < 2 ^ 11 →
    (getSeq s.mach b).tid.bind (fun i => semPhys s.mach b i q.sem) = some p → reqOk s.mach b win.bankgrp q = true →
    (getMxa s.mach b).flexq.length < 3 →
    Ends (.mxaIssue b e) s (fun m => m.apart b = s.mach.apart b ∧ (getMxa m b).flexq = (getMxa s.mach b).flexq ++ [q] ∧
      (getThread m b e k l).pc = (t.pc + 4) % 2 ^ 64)) ∧
  (∀ (s : State) (b : BayNo) (e : Fin 4) (a : ShAcc), shfRuns s.mach b e = true → (getEng s.mach b e).acc = [a] → a.sent = false →
    a.kind = .load →
    edgeOf (advanceEdge s.mach b (max (edgeOf s.mach b) (getEng s.mach b e).memFree)) b ≤ winLast s.mach b →
    Ends (.shfMemoryAccess b e) s (fun m => m.apart b = s.mach.apart b ∧ (getEng m b e).acc = [{ a with sent := true }] ∧
      (getEtr m b).reqs = (getEtr s.mach b).reqs ++
        [{ queue := 3 + e.val, tid := (getEng s.mach b e).tid, va := a.a, len := a.size, kind := 0,
           owner := .thread e a.sheaf a.lane }])) ∧
  (∀ (s : State) (b : BayNo) (e : Fin 4) (a : ShAcc) (x : Sheaf) (t : Thread) (v : Nat) (p : Bool), (getEng s.mach b e).acc = [a] →
    a.data = some (v, p) → (getEng s.mach b e).sheaf a.sheaf = some x → x.threads[a.lane]? = some t →
    Ends (.shfLoadResult b e) s (fun m => m.apart b = s.mach.apart b ∧ m.csr = s.mach.csr ∧ (getEng m b e).acc = [] ∧
      getThread m b e a.sheaf a.lane = (t.put a.fp a.rd v p).retire (t.pc + 4) (edgeOf s.mach b)))

/-- LFT accesses of a thread (R227, R228): a load gives its register the bytes of the loft, sign-extended or not; a store writes its
bytes and changes nothing else of the lofts. -/
def Obligations.LoftLoadsAndStores : Prop :=
  let load (c : BayNo → Fin 4 → Instr) (f3 n : Nat) : Prop :=
    ∀ (s : State) (b : BayNo) (e : Fin 4) (k l w a : Nat) (t : Thread), ShfOne s.mach b e k l w t → iOp w = 0x0B → iF3 w = f3 →
      t.poisoned (iRs1 w) = false → lftAddr t w = a → a % n = 0 → lftAllowed s.mach b a n = true →
      max (edgeOf s.mach b) (getEng s.mach b e).memFree ≤ winLast s.mach b →
      Ends (c b e) s (fun m => m.apart b = s.mach.apart b ∧ getThread m b e k l =
        (t.put false (iRd w) (if f3 < 4 then sx (8 * n) (readNat s.mach.loft (loftIx b a) n) else readNat s.mach.loft (loftIx b a) n)
          (rangePois s.mach b a n)).retire (t.pc + 4) (max (edgeOf s.mach b) (getEng s.mach b e).memFree + 12))
  let store (c : BayNo → Fin 4 → Instr) (f3 n : Nat) : Prop :=
    ∀ (s : State) (b : BayNo) (e : Fin 4) (k l w a : Nat) (t : Thread), ShfOne s.mach b e k l w t → iOp w = 0x2B → iF3 w = f3 →
      t.poisoned (iRs1 w) = false → lftAddr t w = a → a % n = 0 → lftAllowed s.mach b a n = true →
      max (edgeOf s.mach b) (getEng s.mach b e).memFree ≤ winLast s.mach b →
      Ends (c b e) s (fun m => m.mem = s.mach.mem ∧ (getThread m b e k l).pc = (t.pc + 4) % 2 ^ 64 ∧
        m.loft = writeBytes s.mach.loft (loftIx b a) (bytesOf n (t.getX (iRs2 w))))
  load .lftLb 0 1 ∧ load .lftLh 1 2 ∧ load .lftLw 2 4 ∧ load .lftLd 3 8 ∧ load .lftLbu 4 1 ∧ load .lftLhu 5 2 ∧ load .lftLwu 6 4 ∧
  store .lftSb 0 1 ∧ store .lftSh 1 2 ∧ store .lftSw 2 4 ∧ store .lftSd 3 8

/-- Group instructions (R229 to R231), on a sheaf of one thread: VOTE and BALLOT tell of its own value, SHFL gives it its own
value whatever lane it names, BAR lets it go on, and it retires; a sheaf all of whose threads wait at one PC executes; threads that
wait at two PCs fault with DIVERGE. -/
def Obligations.GroupsExecute : Prop :=
  let one (s : Mach) (b e k w : Nat) (t : Thread) : Prop :=
    shfRuns s b e = true ∧ (getEng s b e).group = [(k, 0)] ∧ (getEng s b e).word = w ∧ (getEng s b e).last = k ∧ t.st = .ready ∧
    t.pc < 2 ^ 64 ∧
    ∃ x, (getEng s b e).sheaves = [x] ∧ x.no = k ∧ x.threads = [t]
  let runs (c : BayNo → Fin 4 → Instr) (row : Nat) (f : Nat → Nat) : Prop :=
    ∀ (s : State) (b : BayNo) (e : Fin 4) (k w : Nat) (t : Thread), one s.mach b e k w t → shfRow w = row →
      Ends (c b e) s (fun m => m.apart b = { s.mach with shfResv := m.shfResv }.apart b ∧ m.csr = s.mach.csr ∧ getThread m b e k 0 =
        (t.put false (iRd w) (f (t.getX (iRs1 w))) (t.poisoned (iRs1 w))).retire (t.pc + 4) (edgeOf s.mach b + 6))
  runs .voteAny 0x30 (fun v => if v = 0 then 0 else 1) ∧ runs .voteAll 0x31 (fun v => if v = 0 then 0 else 1) ∧
  runs .ballot 0x32 (fun v => if v = 0 then 0 else 1) ∧
  runs .shflIdx 0x34 id ∧ runs .shflUp 0x35 id ∧ runs .shflDown 0x36 id ∧ runs .shflXor 0x37 id ∧
  (∀ (s : State) (b : BayNo) (e : Fin 4) (k w : Nat) (t : Thread), one s.mach b e k w t → shfRow w = 0x33 →
    Ends (.bar b e) s (fun m => m.apart b = { s.mach with shfResv := m.shfResv }.apart b ∧ m.csr = s.mach.csr ∧
      getThread m b e k 0 = t.retire (t.pc + 4) (edgeOf s.mach b + 6))) ∧
  (∀ (s : State) (b : BayNo) (e : Fin 4) (x : Sheaf) (t : Thread), (getEng s.mach b e).sheaves = [x] → x.threads = [t] →
    t.st = .group → t.pc < 2 ^ 64 → isHalted s.mach b = false →
    Ends (.groupExecute b e) s (fun m => m.apart b = { s.mach with shfResv := m.shfResv }.apart b ∧ (getThread m b e x.no 0).st = .ready ∧
      (getThread m b e x.no 0).pc = (t.pc + 4) % 2 ^ 64)) ∧
  (∀ (s : State) (b : BayNo) (e : Fin 4) (x : Sheaf) (t u : Thread), (getEng s.mach b e).sheaves = [x] → x.threads = [t, u] →
    t.st = .group → u.st = .group → t.pc ≠ u.pc → isHalted s.mach b = false →
    Ends (.groupDiverge b e) s (fun m => (getThread m b e x.no 0).st = .faulted ∧ (getThread m b e x.no 1).st = .faulted ∧
      (getEng m b e).faulted = (getEng s.mach b e).faulted + 2))

/-! ### Bay semaphores (chapter 09) -/

/-- The SEM stream and the pending operations (R249 to R255, R258, R638): a word of the stream makes its operation 8 FCLK later,
SWAIT holds the stream until its condition has held; an operation alone adds, subtracts or sets its semaphore with saturation at
both ends; a completion adds 1; and a block transfer that completes leaves the block idle. -/
def Obligations.SemaphoresWork : Prop :=
  let word (c : BayNo → Instr) (op : Nat) (k : SemKind) : Prop :=
    ∀ (s : State) (b : BayNo) (w : Slot) (i : Nat), opReady s.mach b 5 1 op = true → (getStream s.mach b 5).word = w →
      reservedClear w [(103, 93), (31, 0)] = true →
      (getSeq s.mach b).tid.bind (fun t => semPhys s.mach b t (semWordIdx w)) = some i →
      Ends (c b) s (fun m => m.apart b = s.mach.apart b ∧ m.csr = s.mach.csr ∧ (getSem m b).ops = (getSem s.mach b).ops ++
        [{ edge := (getStream s.mach b 5).issued + 8, src := .stream, kind := k, phys := i, n := fld w 31 0 }])
  word .sadd 1 .add ∧ word .ssub 2 .sub ∧ word .sset 3 .set ∧
  (∀ (s : State) (b : BayNo) (w : Slot) (i : Nat), opReady s.mach b 5 1 4 = true → (getStream s.mach b 5).word = w →
    reservedClear w [(103, 92), (31, 0)] = true →
    (getSeq s.mach b).tid.bind (fun t => semPhys s.mach b t (semWordIdx w)) = some i →
    Ends (.swait b) s (fun m => m.apart b = s.mach.apart b ∧ m.csr = s.mach.csr ∧ (getStream m b 5).hold = .swait ∧
      (getSem m b).swait =
        some { phys := i, n := fld w 31 0, cons := bit w 92, from_ := (getStream s.mach b 5).issued + 8, got := none })) ∧
  (∀ (s : State) (b : BayNo) (x : SWait) (h : Nat), (getSem s.mach b).swait = some x → x.got = some h → isHalted s.mach b = false →
    Ends (.swaitRelease b) s (fun m => m.apart b = s.mach.apart b ∧ (getSem m b).swait = none ∧ (getStream m b 5).hold = .none ∧
      (getStream s.mach b 5).last + 1 ≤ (getStream m b 5).nextAt)) ∧
  (∀ (s : State) (b : BayNo) (o : SemOp), (getSem s.mach b).ops = [o] → (getSem s.mach b).dones = [] →
    (getSem s.mach b).waits = [] → (getSem s.mach b).swait = none → (getSem s.mach b).xfer = none →
    Ends (.semPerform b) s (fun m => m.apart b = s.mach.apart b ∧ (getSem m b).ops = [] ∧ semCount m b o.phys =
      (match o.kind with
       | .add => min (semCount s.mach b o.phys + o.n) 0xFFFFFFFF
       | .sub => semCount s.mach b o.phys - o.n
       | .set => o.n % 2 ^ 32) ∧ ∀ i, i ≠ o.phys → semCount m b i = semCount s.mach b i)) ∧
  (∀ (s : State) (b : BayNo) (d : SemDone) (i : Nat), (getSem s.mach b).ops = [] → (getSem s.mach b).dones = [d] →
    (getSem s.mach b).waits = [] → (getSem s.mach b).swait = none → (getSem s.mach b).xfer = none →
    semPhys s.mach b d.tid d.idx = some i →
    Ends (.semCompletionAdd b) s (fun m => m.apart b = s.mach.apart b ∧ (getSem m b).dones = [] ∧
      semCount m b i = min (semCount s.mach b i + 1) 0xFFFFFFFF)) ∧
  (∀ (s : State) (b : BayNo) (x : SemXfer), (getSem s.mach b).xfer = some x →
    Ends (.semXferComplete b) s (fun m => (getSem m b).xfer = none ∧ rb m .SEM_XFER_CTL b 0 63 = false))

/-! ### Memory tiers (chapter 10) -/

/-- The loft, its window and the granary controllers (R262 to R273, R279 to R282): an FCLK of the bank rule passes, a window read
changes no byte and a window write writes its own, a completed flush leaves the region empty, an access to the cache region's front
end without one waits, a controller that serves a read changes no byte, an aged request is marked, and a scrub of good data
changes nothing. -/
def Obligations.MemoryTiersServe : Prop :=
  (∀ (s : State) (b : BayNo), usesAt s.mach b (max (edgeOf s.mach b) (getBay s.mach b).served) = [] →
    Ends (.loftAccess b none) s (fun m => m.apart b = s.mach.apart b ∧ m.csr = s.mach.csr ∧
      (getBay m b).served = max (edgeOf s.mach b) (getBay s.mach b).served + 1)) ∧
  (∀ (s : State) (b : BayNo), Ends (.flexTimeout b .window) s (fun m => m.apart b = s.mach.apart b ∧
      ∃ r, m.flt.wire = s.mach.flt.wire ++ [r] ∧ r.cls = 8 ∧ r.sub = 4)) ∧
  (∀ (s : State) (b : BayNo), rb s.mach .LFT_CCTL b 0 1 = true →
    Ends (.cacheFlushComplete b) s (fun m => rb m .LFT_CCTL b 0 1 = false ∧ getCReg m b = CReg.zero)) ∧
  (∀ (s : State) (b : BayNo) (a : XAns) (e k l : Nat) (x : ShAcc), (getEtr s.mach b).ans = [a] → a.req.owner = .thread e k l →
    (getEng s.mach b e).acc.find? (fun y => decide (y.sheaf = k) && decide (y.lane = l) && y.sent && y.data.isNone) = some x →
    a.code ≠ 0 → e < 4 → (getThread s.mach b e k l).live = true →
    Ends (.cacheRegionLookup b) s (fun m => (getEtr m b).ans = [] ∧ (getEng m b e).faulted = (getEng s.mach b e).faulted + 1 ∧
      m.mem = s.mach.mem)) ∧
  (∀ (s : State) (mid : Mid) (proxy : Option PartNo) (a b off n : Nat), region s.mach a = .window b off →
    (WindowOp.read n).wf = true → (rightsAt s.mach (checkedAs s.mach mid (proxy.map Fin.val)) a).read = true → bayPresent s.mach b = true →
    off + n ≤ plannedSize s.mach b →
    Ends (.loftWindowAccess mid proxy a (.read n)) s (fun m => m.apart b = s.mach.apart b ∧ m.loft = s.mach.loft)) ∧
  (∀ (s : State) (mid : Mid) (proxy : Option PartNo) (a b off : Nat) (bs : List Byte) (p : Bool), region s.mach a = .window b off →
    (WindowOp.write bs p).wf = true → (rightsAt s.mach (checkedAs s.mach mid (proxy.map Fin.val)) a).write = true →
    bayPresent s.mach b = true → off + bs.length ≤ plannedSize s.mach b →
    Ends (.loftWindowAccess mid proxy a (.write bs p)) s (fun m => m.mem = s.mach.mem ∧
      m.loft = writeBytes s.mach.loft (loftIx b off) bs)) ∧
  (∀ (s : State) (pc : Fin 384) (x : GrnArrival) (n : Nat), s.mach.grnq = [] → x.off < granarySize s.mach → (pcOf x.off).pc = pc →
    x.op = .read → x.ue = false →
    Ends (.granaryRequest pc [x] n) s (fun m => m.grnq = [] ∧ m.mem = s.mach.mem ∧ m.bays = s.mach.bays ∧
      m.now = s.mach.now + n * Config.acyc)) ∧
  (∀ (s : State) (pc : Fin 384) (r : GrnReq),
    s.mach.grnq.find? (fun r => decide ((pcOf r.off).pc = pc) && !r.planned && !r.aged) = some r →
    Ends (.flexAgeExpiry pc) s (fun m => m.csr = s.mach.csr ∧ m.bays = s.mach.bays ∧ m.mem = s.mach.mem ∧
      m.grnq = s.mach.grnq.map (fun q => if q = r then { q with aged := true } else q))) ∧
  (∀ (s : State) (line : Nat), Ends (.patrolScrub line false) s (fun m => m = s.mach))

/-! ### Writes of control space (chapters 01 and the register tables) -/

/-- Resets and the almanac by register (R542, R543, R59, R60): FLT_RST with its key makes a package reset or the reset of a die
whose partitions are held; FLT_PRST holds the cores of a partition, or lets them start at its reset vector; ALM_CTL arms a pending
step and makes the hub acquire again. -/
def Obligations.ResetAndClockWrites : Prop :=
  (∀ (s : State) (mid : Mid) (v : Word), fld v 31 16 = 0xC0DE → bit v 0 = true →
    CspEnds (.fltRstPackage mid v) s mid .FLT_RST 0 0 v (fun t m =>
      phase m = (if t.boot.accepted then 4 else 2) ∧ m.mem = t.mem ∧ m.loft = t.loft ∧ m.now = t.now + 1600 * Config.acyc)) ∧
  (∀ (s : State) (mid : Mid) (v : Word) (d : CompDie), fld v 31 16 = 0xC0DE → bit v 0 = false → bit v 1 = true →
    fld v 12 8 = compDieId d → dieHeld s.mach d = true →
    CspEnds (.fltRstDieRst mid v) s mid .FLT_RST 0 0 v (fun t m => (getClk m d).copyLost = true ∧ m.mem = t.mem ∧
      ∀ b : BayNo, (dieOf b = d → getSeq m b = Bay.zero.seq ∧ (getBay m b).chans = Bay.zero.chans) ∧
        (dieOf b ≠ d → getBay m b = getBay t b))) ∧
  (∀ (s : State) (mid : Mid) (v : Word), rb s.mach .FLT_PRST 0 0 63 = false → bit v 62 = true → partValid s.mach (fld v 3 0) = true →
    CspEnds (.fltPrstAssert mid v) s mid .FLT_PRST 0 0 v (fun t m => m.flt.prst = some (fld v 3 0, t.now) ∧
      ∀ c ∈ partCores t (fld v 3 0), (getCore m c).released = false)) ∧
  (∀ (s : State) (mid : Mid) (v : Word), rb s.mach .FLT_PRST 0 0 63 = false → bit v 62 = false → bit v 61 = true →
    prstHeld s.mach (fld v 3 0) = true →
    CspEnds (.fltPrstRelease mid v) s mid .FLT_PRST 0 0 v (fun t m =>
      ∀ c ∈ partCores t (fld v 3 0), (getCore m c).released = true ∧
        (getCore m c).pc = BitVec.ofNat 64 ((resetVec t (fld v 3 0)).getD 0))) ∧
  (∀ (s : State) (mid : Mid) (v : Word), bit v 0 = true → bit v 1 = false → rb s.mach .ALM_STATUS 0 0 14 = true →
    noFurrow s.mach = true →
    CspEnds (.stepArm mid v) s mid .ALM_CTL 0 0 v (fun t m =>
      m = { t with alm := { t.alm with stepArmed := true }, cspOut := (0, 0) })) ∧
  (∀ (s : State) (mid : Mid) (v : Word), bit v 0 = false → bit v 1 = true → isGm s.mach = true → s.mach.alm.running = true →
    almState s.mach ≠ aFree →
    CspEnds (.reacquire mid v) s mid .ALM_CTL 0 0 v (fun _ m => almState m = aAcquire ∧ m.alm.relock = true)) ∧
  (∀ (s : State) (mid : Mid) (v : Word), bit v 0 = false → bit v 1 = true → isGm s.mach = false →
    CspEnds (.reacquire mid v) s mid .ALM_CTL 0 0 v (fun _ m => almState m = aAcquire ∧ m.alm.step = 1 ∧ m.alm.slewing = false))

/-- The registers of a bay's sequencer, semaphores and loft (R83, R99, R131, R249, R258, R260, R266, R273). The rota of a stopped
lead bay starts at SEQ_ROTA_START, two frames or more ahead; STOP and ABORT are requested of a running one; an entry that is neither
current nor announced takes its word; SEQ_TOKSIG delivers tokens to a channel of the current tenant; a write of the semaphore array
sets, adds or subtracts with saturation; a pool, a transfer, the split and the cache region take their fields. -/
def Obligations.BayRegisterWrites : Prop :=
  (∀ (s : State) (mid : Mid) (b : BayNo) (v : Word) (p : Fin 16), bayPid s.mach b = some p.val → isLead s.mach b = true →
    (getRota (settleBay s.mach b) p).enabled = false → bit v 7 = true →
    frameNo (settleBay s.mach b) + 2 ≤ rf (settleBay s.mach b) .SEQ_ROTA_START b 0 47 0 →
    CspEnds (.seqRotaCtlEnable mid b v) s mid .SEQ_ROTA_CTL b 0 v (fun t m => rb m .SEQ_ROTA_CTL b 0 7 = true ∧
      (getRota m p).enabled = true ∧ (getRota m p).startFrame = rf t .SEQ_ROTA_START b 0 47 0 ∧ m.bays = t.bays)) ∧
  (∀ (s : State) (mid : Mid) (b : BayNo) (v : Word) (p : Fin 16), bayPid s.mach b = some p.val → isLead s.mach b = true →
    (getRota (settleBay s.mach b) p).enabled = true → bit v 9 = false → bit v 8 = true →
    CspEnds (.seqRotaCtlStop mid b v) s mid .SEQ_ROTA_CTL b 0 v (fun t m =>
      getRota m p = { getRota t p with stopReq := true } ∧ m.bays = t.bays)) ∧
  (∀ (s : State) (mid : Mid) (b : BayNo) (v : Word) (p : Fin 16), bayPid s.mach b = some p.val → isLead s.mach b = true →
    (getRota (settleBay s.mach b) p).enabled = true → bit v 9 = true →
    CspEnds (.seqRotaCtlAbort mid b v) s mid .SEQ_ROTA_CTL b 0 v (fun t m =>
      getRota m p = { getRota t p with abortReq := true } ∧ m.bays = t.bays)) ∧
  (∀ (s : State) (mid : Mid) (b : BayNo) (n : Fin 64) (v : Word) (p : Fin 16), bayPid s.mach b = some p.val →
    isLead s.mach b = true → entryBusy (settleBay s.mach b) p n = false →
    CspEnds (.rotaEntryWrite mid b n v) s mid .SEQ_ROTA_A b n v (fun t m => rf m .SEQ_ROTA_A b n 63 40 = fld v 63 40 ∧
      rf m .SEQ_ROTA_A b n 12 0 = fld v 12 0 ∧ (bit v 63 = true → rf m .SEQ_ROTA_A b n 39 38 = eNew ∧ rf m .SEQ_ROTA_A b n 31 16 = 0) ∧
      m.units = { t with cspOut := (0, 0) }.units)) ∧
  (∀ (s : State) (mid : Mid) (b : BayNo) (v : Word), fld v 39 32 ≠ 0 → (getSeq (settleBay s.mach b) b).tid.isSome = true →
    CspEnds (.seqToksigWrite mid b v) s mid .SEQ_TOKSIG b 0 v (fun t m => m.mem = t.mem ∧
      getChan m b (fld v 9 0) = (getChan t b (fld v 9 0)).deliver (fld v 39 32) false t.now)) ∧
  (∀ (s : State) (mid : Mid) (b : BayNo) (v : Word), fld v 39 32 ≠ 0 → (getSeq (settleBay s.mach b) b).tid = none →
    CspEnds (.seqToksigWrite mid b v) s mid .SEQ_TOKSIG b 0 v (fun t m => m.units = { t with cspOut := (0, 0) }.units ∧
      rf m .SEQ_TOKSTAT b 0 31 0 = sat 32 (rf t .SEQ_TOKSTAT b 0 31 0 + 1))) ∧
  (let arr (c : Mid → BayNo → Fin 2048 → BitVec 32 → Instr) (op : Nat) (f : Nat → Nat → Nat) : Prop :=
     ∀ (s : State) (mid : Mid) (b : BayNo) (i : Fin 2048) (n : BitVec 32),
       (getSem (settleBay s.mach b) b).ops = [] → (getSem (settleBay s.mach b) b).dones = [] →
       (getSem (settleBay s.mach b) b).waits = [] → (getSem (settleBay s.mach b) b).swait = none →
       (getSem (settleBay s.mach b) b).xfer = none →
       CspEnds (c mid b i n) s mid .SEM_ARRAY b i (semWord op n) (fun t m => m.mem = t.mem ∧
         semCount m b i = f (semCount t b i) n.toNat ∧ ∀ j, j ≠ i.val → semCount m b j = semCount t b j)
   arr .semArraySet 0 (fun _ n => n) ∧ arr .semArrayAdd 1 (fun x n => min (x + n) 0xFFFFFFFF) ∧ arr .semArraySub 2 (fun x n => x - n)) ∧
  (∀ (s : State) (mid : Mid) (b : BayNo) (k : Fin 64) (v : Word), bit v 63 = true → fld v 7 0 ≠ 0 → fld v 22 16 + fld v 7 0 ≤ 128 →
    (∀ j : Fin 64, rb (settleBay s.mach b) .SEM_POOL b j 63 = false) → (getSeq (settleBay s.mach b) b).tid ≠ some (fld v 57 48) →
    CspEnds (.semPoolWrite mid b k v) s mid .SEM_POOL b k v (fun t m => m.units = { t with cspOut := (0, 0) }.units ∧
      rg m .SEM_POOL b k = packFlds [(63, 63, 1), (57, 48, fld v 57 48), (22, 16, fld v 22 16), (7, 0, fld v 7 0)])) ∧
  (let xfer (c : Mid → BayNo → Word → Instr) (load : Bool) : Prop :=
     ∀ (s : State) (mid : Mid) (b : BayNo) (v : Word), (getSem (settleBay s.mach b) b).xfer = none →
       (getSeq (settleBay s.mach b) b).tid = none → bit v 62 = true → bit v 61 = load → fld v 43 32 ≠ 0 →
       fld v 10 0 + fld v 43 32 ≤ 2048 →
       CspEnds (c mid b v) s mid .SEM_XFER_CTL b 0 v (fun t m => rb m .SEM_XFER_CTL b 0 63 = true ∧
         getSem m b = semXferOn (getSem t b) (fld v 10 0) (fld v 43 32) load (rf t .SEM_XFER_ADDR b 0 47 0))
   xfer .semXferSave false ∧ xfer .semXferLoad true) ∧
  (∀ (s : State) (mid : Mid) (b : BayNo) (v : Word) (p : Nat), bayPid s.mach b = some p → furrowRunning (settleBay s.mach b) p = false →
    fld v 2 0 < 5 → rg (settleBay s.mach b) .LFT_CCTL b 0 = 0 →
    CspEnds (.lftSplitWrite mid b v) s mid .LFT_SPLIT b 0 v (fun t m => rf m .LFT_SPLIT b 0 2 0 = fld v 2 0 ∧ m.mem = t.mem ∧
      getCReg m b = CReg.zero)) ∧
  (∀ (s : State) (mid : Mid) (b : BayNo) (v : Word), bit v 1 = true →
    CspEnds (.lftCctlFlush mid b v) s mid .LFT_CCTL b 0 v (fun t m => m.units = { t with cspOut := (0, 0) }.units ∧
      rb m .LFT_CCTL b 0 1 = true ∧ rb m .LFT_CCTL b 0 0 = bit v 0)) ∧
  (∀ (s : State) (mid : Mid) (b : BayNo) (v : Word), bit v 0 = true → bit v 1 = false →
    CspEnds (.lftCctlEnable mid b v) s mid .LFT_CCTL b 0 v (fun t m => m.units = { t with cspOut := (0, 0) }.units ∧
      rb m .LFT_CCTL b 0 0 = true ∧ rb m .LFT_CCTL b 0 1 = rb t .LFT_CCTL b 0 1))

/-- The registers of the package that commands write (R282, R350, R415, R467, R473, R485, R487, R495, R505, R512, R541, R571, R606).
Each has the effect of its table where its conditions hold. -/
def Obligations.PackageRegisterWrites : Prop :=
  (∀ (s : State) (mid : Mid) (barn : Fin 4) (n : Fin 32) (v : Word), bit v 63 = false →
    CspEnds (.sharedRegionWrite mid barn n v) s mid .GRN_SHR_A (3 * barn.val) n v (fun t m =>
      m.units = { t with cspOut := (0, 0) }.units ∧
      rg m .GRN_SHR_A 0 n = packFlds [(63, 60, fld v 63 60), (45, 0, fld v 45 0)])) ∧
  (∀ (s : State) (mid : Mid) (barn : Fin 4) (n : Fin 32) (v : Word), bit v 63 = true → fld v 61 60 ≠ 3 → fld v 45 23 ≠ 0 →
    (fld v 22 0 + fld v 45 23) * 65536 ≤ granarySize s.mach → (∀ k : Fin 32, bit (shrA s.mach k) 63 = false) →
    CspEnds (.sharedRegionWrite mid barn n v) s mid .GRN_SHR_A (3 * barn.val) n v (fun t m =>
      m.units = { t with cspOut := (0, 0) }.units ∧
      rg m .GRN_SHR_A 0 n = packFlds [(63, 60, fld v 63 60), (45, 0, fld v 45 0)])) ∧
  (∀ (s : State) (mid : Mid) (d : Fin 2) (v : Word) (i : Fin 16), rg s.mach .COH_LLCWAY (4 + d.val) 0 = 0 → bit v i = true →
    ((List.range 16).filter (fun k => bit v k)).length ≤ 12 →
    CspEnds (.cohLlcwayDisWrite mid d v) s mid .COH_LLCWAY (4 + d.val) 0 v (fun _ m =>
      rb m .COH_LLCWAY (4 + d.val) 0 (16 + i) = true)) ∧
  (∀ (s : State) (mid : Mid) (p : PortNo) (v : Word), bit v 0 = true → bit v 1 = true → portState s.mach p = vkActive →
    (getPort s.mach p).retrains = [] → rf s.mach .VK_CFG p 0 47 40 ≠ 0 →
    CspEnds (.vkCtlRetrain mid p v) s mid .VK_CTL p 0 v (fun t m => portState m p = vkRetrain ∧ (getPort m p).sub = 1 ∧
      (getPort m p).retrains = [frameNo t])) ∧
  (∀ (s : State) (mid : Mid) (p : PortNo) (v : Word), bit v 0 = true → portState s.mach p = 0 →
    CspEnds (.vkCtlEnable mid p v) s mid .VK_CTL p 0 v (fun _ m => portState m p = 1 ∧ (getPort m p).sub = 1 ∧
      rb m .VK_CTL p 0 0 = true)) ∧
  (∀ (s : State) (mid : Mid) (p : PortNo) (v : Word), bit v 0 = false → portState s.mach p ≠ 0 →
    CspEnds (.vkCtlEnable mid p v) s mid .VK_CTL p 0 v (fun _ m => portState m p = 0 ∧ (getPort m p).txq = [] ∧
      rb m .VK_CTL p 0 0 = false)) ∧
  (∀ (s : State) (mid : Mid) (t : Fin 1024) (v : Word), tenRejected s.mach v (stagedB s.mach t) (stagedC s.mach t) = false →
    tenBusy s.mach t = false →
    CspEnds (.tenantCommit mid t v) s mid .PRT_TEN_A 0 t v (fun u m => m.units = { u with cspOut := (0, 0) }.units ∧
      rg m .PRT_TEN_A 0 t = v ∧ rg m .PRT_TEN_B 0 t = stagedB u t ∧ rg m .PRT_TEN_C 0 t = stagedC u t)) ∧
  (∀ (s : State) (mid : Mid) (t : Fin 1024) (v : Word), tenRejected s.mach v (stagedB s.mach t) (stagedC s.mach t) = true →
    rb s.mach .PRT_ERR 0 0 63 = false →
    CspEnds (.tenantCommit mid t v) s mid .PRT_TEN_A 0 t v (fun u m => m.units = { u with cspOut := (0, 0) }.units ∧
      rg m .PRT_TEN_A 0 t = rg u .PRT_TEN_A 0 t ∧ rb m .PRT_ERR 0 0 63 = true ∧ rf m .PRT_ERR 0 0 55 48 = 3 ∧
      rf m .PRT_ERR 0 0 29 20 = t)) ∧
  (∀ (s : State) (mid : Mid) (v : Word), rb s.mach .SEC_REKEY 0 0 63 = false → bit v 62 = true → prstHeld s.mach (fld v 3 0) = true →
    CspEnds (.rekey mid v) s mid .SEC_REKEY 0 0 v (fun t m => rb m .SEC_REKEY 0 0 63 = true ∧ m.epochs = t.epochs + 1 ∧
      (∀ x ∈ m.held, x ∈ t.held) ∧ m.mem = t.mem ∧
      rf m .SEC_KEYEPOCH 0 (fld v 3 0) 31 0 = sat 32 (rf t .SEC_KEYEPOCH 0 (fld v 3 0) 31 0 + 1))) ∧
  (∀ (s : State) (mid : Mid) (r : RingNo) (v : Word), fld v 63 48 = ringEpoch s.mach r → 1 ≤ fld v 6 0 →
    pend s.mach r + fld v 6 0 ≤ 64 → bit v 16 = true → hwProduced (ringKind s.mach r) = false →
    ringOcc s.mach r + pend s.mach r + fld v 6 0 ≤ ringSize s.mach r →
    CspEnds (.rngDbProd mid r false v) s mid .RNG_DB_PROD r 0 v (fun t m => m.mem = t.mem ∧ pend m r = 0 ∧
      pidx m r = (pidx t r + (pend t r + fld v 6 0)) % 2 ^ 32)) ∧
  (∀ (s : State) (mid : Mid) (r : RingNo) (v : Word), hwConsumed (ringKind s.mach r) = false → bit v 63 = false →
    (fld v 31 0 + 2 ^ 32 - cidx s.mach r) % 2 ^ 32 ≤ ringOcc s.mach r →
    CspEnds (.rngDbCons mid r v) s mid .RNG_DB_CONS r 0 v (fun t m => m.units = { t with cspOut := (0, 0) }.units ∧
      cidx m r = fld v 31 0)) ∧
  (∀ (s : State) (mid : Mid) (r : RingNo) (v : Word), bit v 0 = true → bit v 1 = false →
    CspEnds (.flush mid r v) s mid .RNG_CTL r 0 v (fun t m => pend m r = 0 ∧ ringEpoch m r = (ringEpoch t r + 1) % 65536 ∧
      cidx m r = cidx t r ∧ pidx m r = pidx t r)) ∧
  (∀ (s : State) (mid : Mid) (r : RingNo) (v : Word), bit v 0 = true → bit v 1 = true →
    CspEnds (.discard mid r v) s mid .RNG_CTL r 0 v (fun t m => pend m r = 0 ∧ ringEpoch m r = (ringEpoch t r + 1) % 65536 ∧
      cidx m r = pidx t r ∧ ringOcc m r = 0)) ∧
  (∀ (s : State) (mid : Mid) (r : RingNo) (v : Word), ringOn s.mach r = false → bit v 63 = true → ringLegal s.mach r v = true →
    CspEnds (.rngCfgWrite mid r v) s mid .RNG_CFG r 0 v (fun t m => ringOn m r = true ∧ ringKind m r = fld v 62 60 ∧
      pidx m r = 0 ∧ cidx m r = 0 ∧ ringEpoch m r = (ringEpoch t r + 1) % 65536)) ∧
  (∀ (s : State) (mid : Mid) (v : Word), rf s.mach .PWR_PPL 0 0 35 24 ≤ fld v 11 0 → fld v 11 0 ≤ rf s.mach .PWR_PPL 0 0 47 36 →
    CspEnds (.pplWWrite mid v) s mid .PWR_PPL 0 0 v (fun t m => m.units = { t with cspOut := (0, 0) }.units ∧
      rf m .PWR_PPL 0 0 11 0 = fld v 11 0)) ∧
  (∀ (s : State) (mid : Mid) (v : Word), CspEnds (.ageWrite mid v) s mid .PWR_CFG 0 0 v (fun t m =>
      m.units = { t with cspOut := (0, 0) }.units ∧ rf m .PWR_CFG 0 0 63 56 = fld v 63 56 ∧
      rf m .PWR_CFG 0 0 35 32 = max (rf t .PWR_CFG 0 0 35 32) (fld v 35 32))) ∧
  (∀ (s : State) (mid : Mid) (v : Word),
    (fld v 8 0 + 512 - rf s.mach .FLT_LOGCTL 0 0 8 0) % 512 ≤
      (rf s.mach .FLT_LOGCTL 0 0 24 16 + 512 - rf s.mach .FLT_LOGCTL 0 0 8 0) % 512 →
    CspEnds (.fltLogctlTailWrite mid v) s mid .FLT_LOGCTL 0 0 v (fun t m => m.units = { t with cspOut := (0, 0) }.units ∧
      rf m .FLT_LOGCTL 0 0 8 0 = fld v 8 0 ∧ rf m .FLT_LOGCTL 0 0 24 16 = rf t .FLT_LOGCTL 0 0 24 16)) ∧
  (∀ (s : State) (mid : Mid) (v : Word), bit v 62 = true → rb s.mach .CNT_SNAPCTL 0 0 63 = false →
    CspEnds (.snapshotArm mid v) s mid .CNT_SNAPCTL 0 0 v (fun t m => rb m .CNT_SNAPCTL 0 0 63 = true ∧
      m.dbg.snapAt = some (rg t .CNT_SNAPAT 0 0).toNat ∧ m.bays = t.bays)) ∧
  (∀ (s : State) (mid : Mid) (q : Fin 4) (i : Fin 32) (v : Word), rb s.mach .PCI_IDECTL q (i.val / 8) 8 = false →
    CspEnds (.ideKeyWrite mid q i v) s mid .PCI_IDEKEY q i v (fun t m => m.csr = t.csr ∧
      smapGet 0 m.ideKeys (2048 * q.val + i.val) = v ∧
      ∀ j, j ≠ 2048 * q.val + i.val → smapGet 0 m.ideKeys j = smapGet 0 t.ideKeys j))

/-- What a debug requester commands (R477 to R479, R551, R556, R559, R563, R565), from JTAG, management or an allowed core: a
submission before bring-up completes is LOCKED_OUT, one that is not accepted counts and redraws the nonce; REVOKE takes grants away;
halts and resumes of a partition are armed at DBG_PAT under its INVASIVE grant; a stopped thread resumes; a sink starts, is
triggered and stops under the partition's OBSERVE grant. -/
def Obligations.DebugRequesterWrites : Prop :=
  (∀ (s : State) (v : Word), isDone s.mach = false → bit v 62 = true → bit v 61 = false →
    Ends (.submit .jtag v) s (fun m => m.units = { s.mach with cspOut := (0, 0) }.units ∧ rf m .SEC_DBG_CTL 0 0 43 40 = 9)) ∧
  (∀ (s : State) (q : Requester) (v : Word), isDone s.mach = true → bit v 62 = true → bit v 61 = false →
    rb s.mach .SEC_STATUS 0 0 2 = true →
    ReqEnds (.submit q v) s q .SEC_DBG_CTL 0 v (fun t m => rf m .SEC_DBG_CTL 0 0 43 40 = 9 ∧ m.freeCtr = t.freeCtr + 1 ∧
      rg m .SEC_DBG_NONCE 0 0 = Config.nonce t.freeCtr ∧ rg m .SEC_DBG_STATE 0 0 = rg t .SEC_DBG_STATE 0 0)) ∧
  (∀ (s : State) (q : Requester) (v : Word), bit v 62 = false → bit v 61 = true → fld v 15 0 = 0xFFFF → bit v 16 = true →
    ReqEnds (.revoke q v) s q .SEC_DBG_CTL 0 v (fun _ m => rf m .SEC_DBG_STATE 0 0 31 0 = 0 ∧ grantPkg m = false)) ∧
  (∀ (s : State) (q : Requester) (v : Word) (p : Fin 16), fld v 3 0 = p → fld v 63 62 = 1 → grantInv s.mach p = true →
    smapGet none s.mach.dbg.armHalt p = none → isPartHalted s.mach p = false → partBays s.mach p ≠ [] →
    ReqEnds (.partitionHalt q v) s q .DBG_PHALT 0 v (fun t m => m.bays = t.bays ∧ m.cores = t.cores ∧
      ∃ x, smapGet none m.dbg.armHalt p = some ((rg t .DBG_PAT 0 0).toNat, x) ∧ rb m .DBG_PSTAT 0 0 p = true)) ∧
  (∀ (s : State) (q : Requester) (v : Word) (p : Fin 16), fld v 3 0 = p → fld v 63 62 = 2 → grantInv s.mach p = true →
    smapGet none s.mach.dbg.armRes p = none → isPartHalted s.mach p = true →
    ReqEnds (.partitionResume q v) s q .DBG_PHALT 0 v (fun t m => m.bays = t.bays ∧ m.cores = t.cores ∧
      ∃ x, smapGet none m.dbg.armRes p = some ((rg t .DBG_PAT 0 0).toNat, x))) ∧
  (∀ (s : State) (b : BayNo) (v : Word) (e k l p : Nat) (x : Sheaf) (th : Thread), isDone s.mach = true → bit v 1 = true →
    bayPid s.mach b = some p → grantInv s.mach p = true → selThread (settleBay s.mach b) b = (e, k, l) → e < 4 →
    (getEng (settleBay s.mach b) b e).sheaf k = some x → x.threads[l]? = some th → th.st = .stopped →
    (getEng (settleBay s.mach b) b e).poked = [] →
    Ends (.tresume .jtag b v) s (fun m => getThread m b e k l =
      { th with st := .ready, pc := add64 th.pc 4, readyAt := edgeOf (settleBay s.mach b) b + 1 })) ∧
  (∀ (s : State) (q : Requester) (v : Word) (p : Fin 16), trcSel s.mach = p → grantObs s.mach p = true → bit v 0 = true →
    bit v 1 = false → mayFire (getSink s.mach p) = true → (getSink s.mach p).fire = none →
    ReqEnds (.trcCtlTrigger q v) s q .TRC_CTL 0 v (fun t m => m.csr = t.csr ∧ m.bays = t.bays ∧
      getSink m p = { getSink t p with fire := some (0, count t % 2 ^ 32, 0x7F) })) ∧
  (∀ (s : State) (q : Requester) (v : Word) (p : Fin 16), trcSel s.mach = p → grantObs s.mach p = true → bit v 0 = false →
    bit v 1 = true → fld (getSink s.mach p).stat 3 0 = 1 →
    ReqEnds (.trcCtlStop q v) s q .TRC_CTL 0 v (fun t m => m.csr = t.csr ∧ m.bays = t.bays ∧
      getSink m p = { getSink t p with stat := setFld (getSink t p).stat 3 0 2 })) ∧
  (∀ (s : State) (q : Requester) (v : Word) (p : Fin 16), trcSel s.mach = p → grantObs s.mach p = true → bit v 63 = true →
    bit (getSink s.mach p).cfg 63 = false → fld v 62 61 ≠ 3 → fld v 60 56 = 0 →
    sinkOwned s.mach p (fld (getSink s.mach p).base 47 12 * 4096) 4096 = true →
    ReqEnds (.trcCfgEnable q v) s q .TRC_CFG 0 v (fun t m => m.csr = t.csr ∧ m.bays = t.bays ∧ bit (getSink m p).cfg 63 = true ∧
      (getSink m p).wptr = 0 ∧ fld (getSink m p).stat 3 0 = 1))

/-! ### Bale moves (chapter 11) -/

/-- Moves run from issue to completion (R300, R302, R306 to R313): a MOVE word takes its descriptor into flight, the next beat of a
move lands in the loft and changes no byte outside its pieces, a source beat returns, a move that has landed whole ends, an anchored
add that is refused ends its move, and descriptors wait for, enter and leave the flex queue and the barn movers' queue. -/
def Obligations.MovesRun : Prop :=
  (∀ (s : State) (b : BayNo) (k : Fin 2) (w : Slot) (d : Line), opReady s.mach b (3 + k.val) 1 1 = true →
    (getStream s.mach b (3 + k.val)).word = w → reservedClear w [(18, 0)] = true → fenceOk s.mach b (fld w 18 0 * 64) 64 = true →
    BitVec.ofNat 512 (readNat s.mach.loft (loftIx b (fld w 18 0 * 64)) 64) = d →
    moveRefusal s.mach b k ((getSeq s.mach b).tid.getD 0) (slotHold w) d = none →
    Ends (.move b k) s (fun m => m.mem = s.mach.mem ∧ m.loft = s.mach.loft ∧ (getMov m b).nextId = (getMov s.mach b).nextId + 1 ∧
      ((getMov m b).moves.map (fun x => x.id)) = (getMov s.mach b).moves.map (fun x => x.id) ++ [(getMov s.mach b).nextId] ∧
      ((getMov m b).moves.getLast?.map (fun x => (x.mover, x.desc, x.p))) = some (k.val, d, (getStream s.mach b (3 + k.val)).issued))) ∧
  (∀ (s : State) (b : BayNo) (x : Move) (e blk : Nat), (getMov s.mach b).moves = [x] → (getEtr s.mach b).ans = [] →
    landEdge s.mach b x = some e → dOp x.desc = 0 → (dstBeats x.desc)[x.next]? = some blk → beatPlaced s.mach b x blk = true →
    Ends (.moveLanding b 0) s (fun m => (getMov m b).moves.map (fun y => (y.id, y.next)) = [(x.id, x.next + 1)] ∧
      max s.mach.now (edgeTick (clkOf s.mach b) e) ≤ m.now ∧
      ∀ i, (∀ r ∈ beatRows x.desc blk, ∀ q ∈ chunkPieces r.2.2.2.1 r.2.2.2.2, ∀ c off,
          baleAddr s.mach.route.nodeId q.1 = .loft c off → ¬ (loftIx c off ≤ i ∧ i < loftIx c off + q.2)) →
        (∀ r ∈ beatRows x.desc blk, ∀ q ∈ chunkPieces r.2.2.2.1 r.2.2.2.2, ∃ c off, baleAddr s.mach.route.nodeId q.1 = .loft c off) →
        byteAt m.loft i = byteAt s.mach.loft i)) ∧
  (∀ (s : State) (b : BayNo) (x : Move), (getMov s.mach b).moves = [x] → ownLoft s.mach b x = true →
    Ends (.moveSourceData b 0) s (fun m => m = s.mach)) ∧
  (∀ (s : State) (b : BayNo) (x : Move) (blk k n a : Nat), (getMov s.mach b).moves = [x] → (getEtr s.mach b).ans = [] →
    ownLoft s.mach b x = false → x.got = [] → (srcBeats x.desc).head? = some blk → blockPieces (srcRows x.desc) blk = [(k, n)] →
    linePieces k n = [(k, n)] → baleAddr s.mach.route.nodeId k = .phys a →
    Ends (.moveSourceData b 0) s (fun m => m.loft = s.mach.loft ∧
      (getMov m b).moves.map (fun y => y.got.map (fun g => (g.blk, g.left))) = [[(blk, 0)]])) ∧
  (∀ (s : State) (b : BayNo) (x : Move), (getMov s.mach b).moves = [x] → moveOver s.mach b x = true → dSigt x.desc = false →
    Ends (.moveCompletion b 0) s (fun m => m.mem = s.mach.mem ∧ m.loft = s.mach.loft ∧ (getMov m b).moves = [] ∧
      (getSem m b).dones.length = (getSem s.mach b).dones.length + (if dSigs x.desc && !x.cut then 1 else 0))) ∧
  (∀ (s : State) (b : BayNo) (x : Move) (blk k a l f : Nat) (v : Mach), let es := beatElems x blk
    (getMov s.mach b).moves = [x] → (getEtr s.mach b).ans = [] → (∀ w : Bool, pagesOf (aheadPieces x w) = []) →
    (dstBeats x.desc)[x.next]? = some blk → beatPlaced s.mach b x blk = true → dOp x.desc ≠ 0 → x.refused = false →
    ownLoft s.mach b x = false →
    (beatNeeds x.desc blk).all (fun k => x.got.any (fun g => decide (g.blk = k) && decide (g.left = 0))) = true →
    dedupBlocks (es.map (fun e => e.1 / 64)) = [l] → es.head?.map Prod.fst = some k → placeOf s.mach b x k true = .phys a →
    nmaAt s.mach (mvMid b x) x.proxy x.tid (dOp x.desc) (es.map (fun e => (a + (e.1 - k), e.2.bits, es.any (fun e => e.2.pois)))) =
      (.done f, v) →
    Ends (.nearMemoryAdd (.bay b 0)) s (fun m => m.mem = v.mem ∧ m.loft = v.loft ∧
      (getMov m b).moves.map (fun y => y.next) = [x.next + 1])) ∧
  (∀ (s : State) (b : BayNo) (x : Move), (getMov s.mach b).moves = [x] → x.refused = true → x.next < (dstBeats x.desc).length →
    Ends (.nmaRefused (.bay b 0)) s (fun m => m.mem = s.mach.mem ∧
      (getMov m b).moves.map (fun y => (y.next, y.pois)) = [((dstBeats x.desc).length, true)] ∧
      rb m .MOV_ERR b 0 63 = true)) ∧
  (∀ (s : State) (b : BayNo) (q : FlexMove) (l : List FlexMove), (getMov s.mach b).waiting = q :: l →
    (getMov s.mach b).flexq.length < 8 → baleRefused s.mach b (getEng s.mach b q.thread.1).tid q.desc = false →
    Ends (.flexQueueRoom b) s (fun m => m.apart b = s.mach.apart b ∧ (getMov m b).waiting = l ∧
      (getMov m b).flexq.length = (getMov s.mach b).flexq.length + 1)) ∧
  (∀ (s : State) (b : BayNo) (k : Fin 2) (q : FlexMove) (l : List FlexMove), (getMov s.mach b).flexq = q :: l →
    inFlight s.mach b k = 0 →
    Ends (.flexQueueMoveStart b k) s (fun m => m.apart b = s.mach.apart b ∧ (getMov m b).flexq = l ∧
      ((getMov m b).moves.getLast?.map (fun x => (x.mover, x.flex, x.desc))) = some (k.val, true, q.desc))) ∧
  (∀ (s : State) (mid : Mid) (d : Fin 4) (v : Word) (p : Nat) (desc : Line), midInfo s.mach mid = (.bound, some p) →
    (cohLine s.mach (fld v 47 6)).1 = desc → (getBarnMov s.mach d).queue.length < 64 → tenPid s.mach (dTid desc) = some p →
    malformed desc = false → dSigs desc = false → dHusk desc = false →
    CspEnds (.movBsub mid d v) s mid .MOV_BSUB d 0 v (fun t m => m.mem = t.mem ∧ (getBarnMov m d).queue =
      (getBarnMov t d).queue ++ [{ addr := fld v 47 6 * 64, desc := desc, item := none }])) ∧
  (∀ (s : State) (d : Fin 4) (k : Fin 8), (getBarnMov s.mach d).moves = [] → (getBarnMov s.mach d).queue = [] →
    Ends (.barnMove d k) s (fun m => m = s.mach)) ∧
  (∀ (s : State) (d : Fin 4) (k : Fin 8) (q : BarnDesc) (l : List BarnDesc), (getBarnMov s.mach d).moves = [] →
    (getBarnMov s.mach d).queue = q :: l →
    Ends (.barnMove d k) s (fun m => (getBarnMov m d).queue = l ∧ (getBarnMov m d).nextId = (getBarnMov s.mach d).nextId + 1))

/-! ### Engine translation (chapter 12) -/

/-- Translation (R317, R318, R321, R322, R331 to R336): a lookup answers by the entry that covers it or refuses an address outside the
crop range, a walker takes a miss, a valid leaf enters the cache and frees the walker, an invalid one raises a page fault, a fault's
record is written, answered or timed out, and an invalidation leaves no covered translation. -/
def Obligations.TranslationWorks : Prop :=
  (∀ (s : State) (u : Fin 76) (q : Fin 8) (r : XReq) (k : Nat) (e : TEnt),
    (getEtr s.mach u).reqs.find? (fun x => decide (x.queue = q.val)) = some r → inCrop s.mach r.tid r.va r.len = true →
    tlbFind (getEtr s.mach u) r.tid r.va = some (k, e) → e.rights &&& kindRight r.kind ≠ 0 →
    Ends (.translationLookup u q) s (fun m => m.mem = s.mach.mem ∧ (getEtr m u).reqs = (getEtr s.mach u).reqs.erase r ∧
      (getEtr m u).ans = (getEtr s.mach u).ans ++ [{ req := r, code := 0, pa := tePa e r.va }])) ∧
  (∀ (s : State) (u : Fin 76) (q : Fin 8) (r : XReq),
    (getEtr s.mach u).reqs.find? (fun x => decide (x.queue = q.val)) = some r → inCrop s.mach r.tid r.va r.len = false →
    Ends (.translationLookup u q) s (fun m => m.mem = s.mach.mem ∧
      (getEtr m u).ans = (getEtr s.mach u).ans ++ [{ req := r, code := 1, pa := 0 }])) ∧
  (∀ (s : State) (d : CompDie) (u : Nat) (x : Miss) (l a : Nat), (getEtrDie s.mach d).walks.length < 16 →
    pickMiss s.mach d = some (u, x) → walkStart s.mach d x.tid (match x.reqs with | r :: _ => r.va | [] => x.page * 65536) = some (l, a) →
    Ends (.walk (d.castLE (by decide))) s (fun m => m.csr = s.mach.csr ∧ m.mem = s.mach.mem ∧ (getEtrDie m d).walks = (getEtrDie s.mach d).walks ++
      [{ unit := u, queue := x.queue, tid := x.tid, page := x.page, level := l, entry := a, start := s.mach.now }])) ∧
  (∀ (s : State) (d : Fin 10) (w : Walk) (bs : List Byte) (t : Mach) (e : Word), (getEtrDie s.mach d).walks = [w] → w.unit < 76 →
    readAs s.mach (walkerMid d) (tenPid s.mach w.tid) w.tid w.entry 8 = (some (bs, false), t) →
    (getEtrDie t d).walks = [w] → BitVec.ofNat 64 (ofBytes bs) = e → bit e 0 = true → bit e 1 = true → badEntry w.level e = false →
    Ends (.walkReadReturn d 0) s (fun m => (getEtrDie m d).walks = [] ∧ ∃ x ∈ (getEtr m w.unit).tlb,
      x.2 = leafEnt w.level w.tid (match walkReqs s.mach w with | r :: _ => r.va | [] => w.page * 65536) e)) ∧
  (∀ (s : State) (d : Fin 10) (w : Walk) (bs : List Byte) (t : Mach) (r : XReq) (l : List XReq), (getEtrDie s.mach d).walks = [w] →
    readAs s.mach (walkerMid d) (tenPid s.mach w.tid) w.tid w.entry 8 = (some (bs, false), t) →
    bit (BitVec.ofNat 64 (ofBytes bs)) 0 = false → (getEtrDie t d).walks = [w] → (getEtrDie t d).faults = [] →
    walkReqs t w = r :: l → rb t .ETR_PFRING 0 ((tenPid t w.tid).getD 0) 63 = true →
    Ends (.walkReadReturn d 0) s (fun m => (getEtrDie m d).walks = [] ∧ ∃ f, (getEtrDie m d).faults = [f] ∧ f.slot = 0 ∧
      f.req = r ∧ f.level = w.level ∧ f.pte = w.entry ∧ f.written = none)) ∧
  (∀ (s : State) (d : Fin 10) (f : PFault) (g : Nat), (getEtrDie s.mach d).faults = [f] → f.written = none →
    rf s.mach .ETR_PFRING 0 ((tenPid s.mach f.req.tid).getD 0) 11 0 = g → takesItem s.mach g 4 = true →
    ringOcc s.mach g < ringSize s.mach g →
    Ends (.faultRecordWrite d) s (fun m => (getEtrDie m d).faults.map (fun q => (q.slot, q.written.isSome)) = [(f.slot, true)])) ∧
  (let answer (c : Mid → CompDie → Word → Instr) (action : Nat) : Prop :=
     ∀ (s : State) (mid : Mid) (d : CompDie) (v : Word) (k : Nat) (f : PFault), answered s.mach mid v = some (k, f) → fld v 18 17 = action →
       CspEnds (c mid d v) s mid .ETR_PFRESP d 0 v (fun t m => m.mem = t.mem ∧
         (getEtrDie m k).faults = (getEtrDie t k).faults.filter (fun g => decide (g.slot ≠ f.slot)))
   answer .etrPfrespRetry 0 ∧ answer .etrPfrespAbort 1) ∧
  (∀ (s : State) (d : Fin 10) (i : Fin 64) (f : PFault) (w n : Nat),
    (getEtrDie s.mach d).faults.find? (fun g => decide (g.slot = i.val)) = some f → f.written = some w →
    rf s.mach .ETR_PFCFG (if d.val < 6 then d.val else 0) 0 15 0 = n → n ≠ 0 →
    Ends (.pfTimeout d i) s (fun m => m.mem = s.mach.mem ∧ tickOf s.mach ((w + n) * 65536) ≤ m.now ∧
      (getEtrDie m d).faults = (getEtrDie s.mach d).faults.filter (fun g => decide (g.slot ≠ f.slot)))) ∧
  (let inval (c : Mid → CompDie → Word → Instr) (scope : Nat) (covers : Word → Nat → TEnt → Prop) : Prop :=
     ∀ (s : State) (mid : Mid) (d : CompDie) (v : Word), rb s.mach .ETR_INV_CTL d 0 63 = false → bit v 62 = true → fld v 61 60 = scope →
       CspEnds (c mid d v) s mid .ETR_INV_CTL d 0 v (fun t m => m.mem = t.mem ∧ rb m .ETR_INV_CTL d 0 63 = true ∧
         ∀ (u : Fin 76) (p : Nat × TEnt), p ∈ (getEtr m u).tlb → p ∈ (getEtr t u).tlb ∧
           ¬ covers v (rf t .ETR_INV_ADDR d 0 47 16 * 65536) p.2)
   inval .invalidateAll 0 (fun _ _ _ => True) ∧ inval .invalidateTid 1 (fun v _ e => e.tid = fld v 57 48) ∧
   inval .invalidateRange 2 (fun v lo e => e.tid = fld v 57 48 ∧ fld v 15 0 ≠ 0 ∧
     overlaps lo (fld v 15 0 * 65536) (e.vpn * 2 ^ teLog e.size) (2 ^ teLog e.size) = true)) ∧
  (∀ (s : State) (d : CompDie), Ends (.invalidationComplete d) s (fun m => m.units = s.mach.units ∧ rb m .ETR_INV_CTL d 0 63 = false))

/-! ### Host cores (chapter 13) -/

/-- Instructions of a core (R339): a core held in reset or halted does nothing; ADDI writes its sum and JAL its link, x0 stays 0, and
the pc moves on or to its target. -/
def Obligations.CoresExecute : Prop :=
  (∀ (s : State) (c : CoreNo), (getCore s.mach c).released = false → Ends (.coreInstruction c) s (fun m => m = s.mach)) ∧
  (∀ (s : State) (c : CoreNo), (getCore s.mach c).halted = true → Ends (.coreInstruction c) s (fun m => m = s.mach)) ∧
  (∀ (s : State) (c : CoreNo) (w : Nat) (t : Mach), HartOne s.mach c w t → iOp w = 0x13 → iF3 w = 0 →
    Ends (.coreInstruction c) s (fun m => m.mem = t.mem ∧ m.loft = t.loft ∧ m.bays = t.bays ∧ m.held = t.held ∧
      (getCore m c).pc = (getCore t c).pc + 4 ∧ getXr m c 0 = 0 ∧
      ∀ r, getXr m c r = if r = iRd w ∧ r ≠ 0 then add64 (getXr t c (iRs1 w)) (immI w) % 2 ^ 64 else getXr t c r)) ∧
  (∀ (s : State) (c : CoreNo) (w : Nat) (t : Mach), HartOne s.mach c w t → iOp w = 0x6F →
    Ends (.coreInstruction c) s (fun m => m.mem = t.mem ∧ m.loft = t.loft ∧ m.bays = t.bays ∧ m.held = t.held ∧
      (getCore m c).pc = BitVec.ofNat 64 (add64 (getCore t c).pc.toNat (immJ w)) ∧
      ∀ r, getXr m c r = if r = iRd w ∧ r ≠ 0 then ((getCore t c).pc + 4).toNat else getXr t c r))

/-- The caches, clocks and reservations of the cores (R343, R349 to R354, R359, R367, R385): the oldest store reaches the line that L2
owns, a lost tag loses its line, a pending way is disabled, the custom CSRs take their fields in M-mode, a disabled L2 departs from
every home, a cluster changes its P-state, and an HD8 reservation ends. -/
def Obligations.CoreCachesServe : Prop :=
  (∀ (s : State) (c : CoreNo) (e : SbEnt) (l : List SbEnt), (getCore s.mach c).sb = e :: l → l2On s.mach c = true →
    (getDir s.mach e.line).txn = none → 2 ≤ (getHeld s.mach c e.line).st → (getHeld s.mach c e.line).orphan = false →
    Ends (.storeBufferDrain c) s (fun m => m.mem = s.mach.mem ∧ (getCore m c).sb = l ∧ (getHeld m c e.line).st = 3 ∧
      (getHeld m c e.line).data = mergeLine (getHeld s.mach c e.line).data e.data e.mask)) ∧
  (∀ (s : State) (d : Fin 2) (set : Fin 65536) (way : Fin 16) (l : Fin (2 ^ 42)),
    Ends (.tagLoss (.llc d set way) (some l)) s (fun m => getHeld m (llcKey d) l = HLine.none ∧ m.mem = s.mach.mem ∧
      ∃ r, m.flt.wire = s.mach.flt.wire ++ [r] ∧ r.cls = 0xA ∧ r.sub = 2)) ∧
  (∀ (s : State) (c : CoreNo) (set : Fin 2048) (way : Fin 16) (l : Fin (2 ^ 42)),
    Ends (.tagLoss (.l2 c set way) (some l)) s (fun m => getHeld m c l = HLine.none ∧ m.mem = s.mach.mem ∧
      ∃ r, m.flt.wire = s.mach.flt.wire ++ [r] ∧ r.cls = 0xA)) ∧
  (∀ (s : State) (d : Fin 2) (way : Fin 16), rb s.mach .COH_LLCWAY (4 + d.val) 0 (16 + way.val) = true →
    Ends (.llcWayDisable d way) s (fun m => m.mem = s.mach.mem ∧ rb m .COH_LLCWAY (4 + d.val) 0 way = true ∧
      rb m .COH_LLCWAY (4 + d.val) 0 (16 + way.val) = false)) ∧
  (∀ (s : State) (c : CoreNo) (v : Word), CustomOk s.mach c → fld v 2 0 < 6 →
    Ends (.pstateRequest c v) s (fun m => m.csr = s.mach.csr ∧ m.mem = s.mach.mem ∧ fld (csrOf m c 0x7C2) 2 0 = fld v 2 0)) ∧
  (∀ (s : State) (cl : ClusterNo) (x : Clu) (p : Nat), vget Clu.zero s.mach.clus cl = x → x.target = some p →
    Ends (.pstateChangeComplete cl) s (fun m => m.csr = s.mach.csr ∧ m.cores = s.mach.cores ∧
      (vget Clu.zero m.clus cl).pst = p ∧ (vget Clu.zero m.clus cl).target = none)) ∧
  (∀ (s : State) (c : CoreNo) (v : Word), CustomOk s.mach c → bit v 3 = false → bit (csrOf s.mach c 0x7C0) 3 = true →
    bit (csrOf s.mach c 0x7C0) 4 = false →
    Ends (.l2Disable c v) s (fun m => m.held = s.mach.held ∧ bit (csrOf m c 0x7C0) 3 = false ∧ bit (csrOf m c 0x7C0) 4 = true ∧
      (getCore m c).resv = none)) ∧
  (∀ (s : State) (c : CoreNo), l2Disabling s.mach c = true → wbPending s.mach c = false →
    Ends (.l2DisableComplete c) s (fun m => m.mem = s.mach.mem ∧ l2Disabling m c = false ∧ ∀ h : Fin 6, departed m h c = true)) ∧
  (∀ (s : State) (c : CoreNo) (v : Word), CustomOk s.mach c → bit (csrOf s.mach c 0x7C0) 4 = false → fld v 3 1 = 7 → bit v 8 = false →
    Ends (.cacheEnable c v) s (fun m => m.held = s.mach.held ∧ fld (csrOf m c 0x7C0) 3 1 = 7)) ∧
  (∀ (s : State) (c : CoreNo) (v : Word), CustomOk s.mach c → bit v 6 = true → bit (csrOf s.mach c 0x7C0) 1 = false →
    Ends (.invL1i c v) s (fun m => (getCore m c).l1iStale = false)) ∧
  (∀ (s : State) (c : CoreNo) (v : Word), CustomOk s.mach c → bit v 7 = true → bit (csrOf s.mach c 0x7C0) 2 = false →
    Ends (.invL1d c v) s (fun m => (getCore m c).l1dStale = false)) ∧
  (∀ (s : State) (c : CoreNo) (v : Word), CustomOk s.mach c → bit v 8 = true → bit (csrOf s.mach c 0x7C0) 3 = false →
    bit (csrOf s.mach c 0x7C0) 4 = false →
    Ends (.invL2 c v) s (fun m => m.held = s.mach.held.filter (fun p => decide (p.1 / lineSpan ≠ c.val)))) ∧
  (∀ (s : State) (c : CoreNo) (v : Word), CustomOk s.mach c →
    Ends (.hd8Write c v) s (fun m => m.csr = s.mach.csr ∧ (getCore m c).resv = none ∧ bit (csrOf m c 0x7C1) 1 = bit v 1)) ∧
  (∀ (s : State) (c : CoreNo) (a n t0 : Nat), (getCore s.mach c).resv = some (a, n, t0, true) →
    Ends (.reservationTimeout c) s (fun m => (getCore m c).resv = none ∧ m.now = max s.mach.now (t0 + 4096 * cclk s.mach c) ∧
      fld (csrOf m c 0x7C1) 63 32 = sat 32 (fld (csrOf s.mach c 0x7C1) 63 32 + 1)))

/-- The tile unit of a cluster (R360 to R366, R368): CFG takes the word, ZERO empties an accumulator, MMA and LDA leave the other
accumulator as it was and wait for their completion, STA writes nothing before it completes, WAIT gives and clears the flags, the
oldest work completes and is counted, and so is a squashed instruction. -/
def Obligations.TileUnitsRun : Prop :=
  (∀ (s : State) (c : CoreNo) (w : Nat) (t : Mach), CmxOne s.mach c 0 w t → iRd w = 0 → iRs2 w = 0 →
    cmxCfgOk (BitVec.ofNat 64 (getXr t c (iRs1 w))) = true →
    Ends (.cmxCfg c) s (fun m => m.mem = t.mem ∧ (getCmx m c).cfg = BitVec.ofNat 64 (getXr t c (iRs1 w)) ∧
      (getCmx m c).acc = (getCmx t c).acc ∧ (getCore m c).pc = (getCore t c).pc + 4)) ∧
  (∀ (s : State) (c : CoreNo) (w : Nat) (t : Mach) (a : Fin 2), CmxOne s.mach c (2 + a.val) w t → iRd w = 0 → iRs1 w = 0 → iRs2 w = 0 →
    Ends (.cmxZero c) s (fun m => m.mem = t.mem ∧ (getCore m c).pc = (getCore t c).pc + 4 ∧
      (∀ i j : Fin 64, smapGet 0 (getCmx m c).acc (cmxIx a i j) = 0) ∧
      (∀ i j : Fin 64, smapGet 0 (getCmx m c).acc (cmxIx (1 - a.val) i j) = smapGet 0 (getCmx t c).acc (cmxIx (1 - a.val) i j)))) ∧
  (∀ (s : State) (c : CoreNo) (w : Nat) (t u v : Mach) (a : Fin 2) (ra rb : List (List (Nat × Nat))), CmxOne s.mach c (4 + a.val) w t →
    iRd w = 0 →
    cmxRows t c 1 (getXr t c (iRs1 w)) (cApitch (getCmx t c).cfg) (cRow (cAfmt (getCmx t c).cfg)) = (.ok ra, u) →
    cmxRows u c 1 (getXr t c (iRs2 w)) (cBpitch (getCmx t c).cfg) (cRow (cBfmt (getCmx t c).cfg)) = (.ok rb, v) → CmxIdle v c →
    Ends (.cmxMma c none) s (fun m => m.mem = v.mem ∧ (getCore m c).pc = (getCore v c).pc + 4 ∧
      (getCmx m c).work = [{ mma := true, writes := [] }] ∧
      (∀ i j : Fin 64, smapGet 0 (getCmx m c).acc (cmxIx (1 - a.val) i j) = smapGet 0 (getCmx v c).acc (cmxIx (1 - a.val) i j)))) ∧
  (∀ (s : State) (c : CoreNo) (w : Nat) (t u : Mach) (a : Fin 2) (rows : List (List (Nat × Nat))), CmxOne s.mach c (6 + a.val) w t →
    iRd w = 0 →
    cmxRows t c 2 (getXr t c (iRs1 w)) (getXr t c (iRs2 w)) (cRow (cOfmt (getCmx t c).cfg)) = (.ok rows, u) → CmxIdle u c →
    Ends (.cmxSta c none) s (fun m => m.mem = u.mem ∧ (getCore m c).pc = (getCore u c).pc + 4 ∧
      (getCmx m c).acc = (getCmx u c).acc ∧ ∃ l, (getCmx m c).work = [{ mma := false, writes := l }])) ∧
  (∀ (s : State) (c : CoreNo) (w : Nat) (t : Mach), CmxOne s.mach c 8 w t → iRs1 w = 0 → iRs2 w = 0 → CmxIdle t c →
    Ends (.cmxWait c) s (fun m => m.mem = t.mem ∧ (getCmx m c).flags = 0 ∧ (getCmx m c).pois = false ∧
      (getCore m c).pc = (getCore t c).pc + 4 ∧
      (iRd w ≠ 0 → getXr m c (iRd w) = (getCmx t c).flags % 2 ^ 16 + (if (getCmx t c).pois then 2 ^ 16 else 0)))) ∧
  (∀ (s : State) (c : CoreNo) (w : Nat) (t u : Mach) (a : Fin 2) (rows : List (List (Nat × Nat))), CmxOne s.mach c (0xA + a.val) w t →
    iRd w = 0 → cOfmt (getCmx t c).cfg = kFP32 ∨ cOfmt (getCmx t c).cfg = kANC80 →
    cmxRows t c 1 (getXr t c (iRs1 w)) (getXr t c (iRs2 w)) (cRow (cOfmt (getCmx t c).cfg)) = (.ok rows, u) → CmxIdle u c →
    rows.length = 64 →
    Ends (.cmxLda c) s (fun m => m.mem = u.mem ∧ (getCore m c).pc = (getCore u c).pc + 4 ∧
      (getCmx m c).work = [{ mma := false, writes := [] }] ∧
      (∀ i j : Fin 64, smapGet 0 (getCmx m c).acc (cmxIx (1 - a.val) i j) = smapGet 0 (getCmx u c).acc (cmxIx (1 - a.val) i j)))) ∧
  (∀ (s : State) (c : CoreNo) (l : List CmxWork), (getCmx s.mach c).work = { mma := true, writes := [] } :: l →
    Ends (.cmxComplete c) s (fun m => m.mem = s.mach.mem ∧ (getCmx m c).work = l ∧
      rf m .CMX_COUNT (c.val / 8) 0 63 32 = sat 32 (rf s.mach .CMX_COUNT (c.val / 8) 0 63 32 + 1))) ∧
  (∀ (s : State) (c : CoreNo), Ends (.cmxSquash c) s (fun m => m.units = s.mach.units ∧
      rf m .CMX_COUNT (c.val / 8) 0 31 0 = sat 32 (rf s.mach .CMX_COUNT (c.val / 8) 0 31 0 + 1)))

/-! ### Coherence (chapter 14) -/

/-- Transactions at the homes (R371 to R385): a read of a line that nobody holds is served Exclusive and one for ownership likewise; a
non-allocating read changes no byte and a write makes the line its own; a snoop is answered at once or at the end of the hold window;
the last response serves the request; the grant gives its state and data; the acknowledgement ends BUSY; a refused request is queued;
a write-back makes memory the line's value and is acknowledged; presence moves from a last-level cache; a snoop's time-out and a
directory error are recorded; and a departing cache is masked and swept. -/
def Obligations.HomesServe : Prop :=
  let free (s : Mach) (line : Nat) : Prop :=
    isMain s (line * 64) = true ∧ getDir s line = DirEnt.zero ∧ setLines s line = [] ∧ trackers s (homeOf s (line * 64)) < 504
  (∀ (s : State) (k : CoreNo) (line : Fin (2 ^ 42)), free s.mach line → mayAllocate s.mach k line = true → holds s.mach k line = false →
    llcServes s.mach k line = false →
    Ends (.readAllocating (k.castLE (by decide)) line) s (fun m => m.mem = s.mach.mem ∧ m.held = s.mach.held ∧
      ∃ t, (getDir m line).txn = some t ∧ t.req.who = k ∧ t.stage = 1 ∧ t.grant = 2 ∧ t.line = rawLine s.mach line)) ∧
  (∀ (s : State) (k : CoreNo) (line : Fin (2 ^ 42)), free s.mach line → mayAllocate s.mach k line = true → holds s.mach k line = false →
    Ends (.readForOwnership (k.castLE (by decide)) line) s (fun m => m.mem = s.mach.mem ∧ m.held = s.mach.held ∧
      ∃ t, (getDir m line).txn = some t ∧ t.req.who = k ∧ t.stage = 1 ∧ t.grant = 2 ∧ t.line = rawLine s.mach line)) ∧
  (∀ (s : State) (mid : Mid) (line : Fin (2 ^ 42)), free s.mach line →
    (rightsAt s.mach (checkedAs s.mach mid none) (line.val * 64)).read = true →
    Ends (.nonAllocatingRead mid line) s (fun m => m.mem = s.mach.mem ∧ m.held = s.mach.held ∧
      ∃ t, (getDir m line).txn = some t ∧ t.req.who = 256 + mid.val ∧ t.stage = 2)) ∧
  (∀ (s : State) (mid : Mid) (line : Fin (2 ^ 42)) (d : Line) (p : Bool), free s.mach line →
    (rightsAt s.mach (checkedAs s.mach mid none) (line.val * 64)).write = true →
    writeLocked s.mach (checkedAs s.mach mid none) (line.val * 64) = false →
    Ends (.nonAllocatingFullWrite mid line d p) s (fun m => rawLine m line = d ∧ linePois m line = p ∧
      (∀ a, a / 64 ≠ line.val → byteAt m.mem a = byteAt s.mach.mem a) ∧
      ∃ t, (getDir m line).txn = some t ∧ t.stage = 2)) ∧
  (∀ (s : State) (mid : Mid) (line : Fin (2 ^ 42)) (d : Line) (n : BitVec 64) (p : Bool), free s.mach line → n ≠ BitVec.allOnes 64 →
    (rightsAt s.mach (checkedAs s.mach mid none) (line.val * 64)).write = true →
    writeLocked s.mach (checkedAs s.mach mid none) (line.val * 64) = false →
    Ends (.nonAllocatingPartialWrite mid line d n p) s (fun m => rawLine m line = mergeLine (rawLine s.mach line) d n.toNat ∧
      (∀ a, a / 64 ≠ line.val → byteAt m.mem a = byteAt s.mach.mem a) ∧
      ∃ t, (getDir m line).txn = some t ∧ t.stage = 2)) ∧
  (∀ (s : State) (pos : Fin 108) (line : Fin (2 ^ 42)) (t : HomeTxn), (getDir s.mach line).txn = some t → t.snoops.contains pos.val = true →
    windowEnd s.mach pos line t.req.kind ≤ s.mach.now →
    Ends (.snoop pos line) s (fun m => m.mem = s.mach.mem ∧ ∃ u, (getDir m line).txn = some u ∧
      u.snoops = t.snoops.filter (fun p => decide (p ≠ pos.val)) ∧ u.resps.length = t.resps.length + 1)) ∧
  (∀ (s : State) (pos : Fin 108) (line : Fin (2 ^ 42)) (t : HomeTxn), (getDir s.mach line).txn = some t → t.snoops.contains pos.val = true →
    s.mach.now < windowEnd s.mach pos line t.req.kind →
    Ends (.snoop pos line) s (fun m => m.mem = s.mach.mem ∧ m.held = s.mach.held ∧ ∃ u, (getDir m line).txn = some u ∧
      u.delayed = t.delayed ++ [pos.val] ∧ u.resps = t.resps)) ∧
  (∀ (s : State) (pos : Fin 108) (line : Fin (2 ^ 42)) (t : HomeTxn), (getDir s.mach line).txn = some t → t.delayed.contains pos.val = true →
    Ends (.holdWindowEnd pos line) s (fun m => m.mem = s.mach.mem ∧ windowEnd s.mach pos line t.req.kind ≤ m.now ∧
      ∃ u, (getDir m line).txn = some u ∧ u.delayed = t.delayed.filter (fun p => decide (p ≠ pos.val)) ∧
        u.resps.length = t.resps.length + 1)) ∧
  (∀ (s : State) (pos : Fin 108) (line : Fin (2 ^ 42)) (t : HomeTxn), (getDir s.mach line).txn = some t → t.snoops = [] → t.delayed = [] →
    t.resps = [(pos.val, .miss)] → t.stage = 0 → (getDir s.mach line).owned = false → (getDir s.mach line).wbHeld = none →
    Ends (.snoopResponse pos line) s (fun m => ∃ u, (getDir m line).txn = some u ∧ u.resps = [] ∧
      u.stage = (match t.req.kind with | .readAlloc => 1 | .readOwn => 1 | _ => 2))) ∧
  (∀ (s : State) (k : Fin 200) (line : Fin (2 ^ 42)) (t : HomeTxn), (getDir s.mach line).txn = some t → t.stage = 1 → t.req.who = k →
    t.grant = 2 →
    Ends (.grant k line) s (fun m => m.mem = s.mach.mem ∧ (getHeld m k line).st = 2 ∧ (getHeld m k line).data = t.line ∧
      (getHeld m k line).wonUntil = s.mach.now + holdTicks s.mach k ∧ ∃ u, (getDir m line).txn = some u ∧ u.stage = 2)) ∧
  (∀ (s : State) (line : Fin (2 ^ 42)) (t : HomeTxn), (getDir s.mach line).txn = some t → t.stage = 2 → (getDir s.mach line).queue = [] →
    Ends (.completionAck line) s (fun m => m.mem = s.mach.mem ∧ m.held = s.mach.held ∧ m.csr = s.mach.csr ∧
      getDir m line = { getDir s.mach line with txn := none })) ∧
  (∀ (s : State) (q : HomeRetry) (t : HomeTxn), s.mach.retries = [q] → isMain s.mach (q.line * 64) = true →
    (getDir s.mach q.line).txn = some t → (getDir s.mach q.line).queue.length < 16 → q.req.aged = false → q.count < 8 →
    Ends (.retry 0) s (fun m => m.mem = s.mach.mem ∧ m.retries = [] ∧
      (getDir m q.line).queue = (getDir s.mach q.line).queue ++ [q.req])) ∧
  (∀ (s : State) (k : CoreNo) (line : Fin (2 ^ 42)), (getDir s.mach line).txn = none → (getHeld s.mach k line).st = 3 →
    (getHeld s.mach k line).orphan = false → (getHeld s.mach k line).acked = false → pinned s.mach k line = false →
    Ends (.writeBack (k.castLE (by decide)) line) s (fun m => rawLine m line = (getHeld s.mach k line).data ∧
      (getHeld m k line).wb = true ∧ (getHeld m k line).acked = true ∧ (getDir m line).owned = false ∧
      ∀ a, a / 64 ≠ line.val → byteAt m.mem a = byteAt s.mach.mem a)) ∧
  (∀ (s : State) (k : Fin 200) (line : Fin (2 ^ 42)), (getHeld s.mach k line).wb = true → (getHeld s.mach k line).acked = true →
    l2Disabling s.mach k = false →
    Ends (.wbAck k line) s (fun m => m = { s.mach with held := m.held } ∧ getHeld m k line = HLine.none ∧
      ∀ j : Fin 200, j ≠ k → getHeld m j line = getHeld s.mach j line)) ∧
  (∀ (s : State) (d : Fin 2) (line : Fin (2 ^ 42)), holds s.mach (llcKey d) line = true →
    Ends (.presenceTransfer d line) s (fun m => m.mem = s.mach.mem ∧ getHeld m (llcKey d) line = HLine.none ∧
      (getDir m line).pres = ((getDir s.mach line).pres &&& (2 ^ 128 - 1 - posBit (llcKey d))) |||
        (getHeld s.mach (llcKey d) line).mask * 2 ^ (48 * d.val))) ∧
  (∀ (s : State) (line : Fin (2 ^ 42)) (t : HomeTxn) (p n : Nat) (l : List Nat), (getDir s.mach line).txn = some t →
    t.snoops ++ t.delayed = p :: l → rf s.mach .COH_HCFG (homeOf s.mach (line.val * 64)) 0 15 0 = n → n ≠ 0 →
    Ends (.snoopTmo line) s (fun m => m.mem = s.mach.mem ∧ m.dir = s.mach.dir ∧ t.sentAt + n * 4096 * Config.acyc ≤ m.now ∧
      ∃ r, m.flt.wire = s.mach.flt.wire ++ [r] ∧ r.cls = 0xA ∧ r.sub = 2)) ∧
  (∀ (s : State) (line : Fin (2 ^ 42)), isMain s.mach (line.val * 64) = true →
    Ends (.dirUe line) s (fun m => m.mem = s.mach.mem ∧ linePois m line = true ∧ getDir m line = DirEnt.zero)) ∧
  (∀ (s : State) (c : CoreNo) (h : Fin 6), l2Disabling s.mach c = true → wbPending s.mach c = false →
    Ends (.depart c h) s (fun m => m.mem = s.mach.mem ∧ m.dir = s.mach.dir ∧ departed m h c = true)) ∧
  (∀ (s : State) (c : CoreNo) (h : Fin 6), departed s.mach h c = true →
    Ends (.departSweepComplete c h) s (fun m => m.mem = s.mach.mem ∧ departed m h c = false ∧
      ∀ line, homeOf s.mach (line * 64) = h → (getDir m line).pres.testBit c = false))
/-! ### Vrelrek links (chapter 16) -/

/-- Training (R415 to R419, R426): each state ends where the next begins. DETECT with a usable lane goes to LOCK and with none repeats
after 10 ms; LOCK goes to MAP, MAP to EQUALISE with the width of the lanes that both ends can use, EQUALISE to IDENTIFY, and IDENTIFY to
ACTIVE, or to HELD where the peer is not the one expected; a state that exceeds its limit fails the port, and a failed port has lost
its buffers. -/
def Obligations.PortsTrain : Prop :=
  (∀ (s : State) (p : PortNo) (tx rx : BitVec 8) (k : Fin 4), portPresent s.mach p = true → (getPort s.mach p).sub = 1 →
    fld tx (2 * k + 1) (2 * k) = 0 → fld rx (2 * k + 1) (2 * k) = 0 →
    Ends (.vkDetect p tx rx) s (fun m => (getPort m p).sub = 2 ∧ rf m .VK_LANES p 0 7 0 = tx.toNat ∧ rf m .VK_LANES p 0 15 8 = rx.toNat ∧
      bit (rg m .VK_LANES p 0) (16 + k) = false ∧ portState m p = (if portState s.mach p = vkRetrain then vkRetrain else 2) ∧
      m.now = s.mach.now)) ∧
  (∀ (s : State) (p : PortNo) (tx rx : BitVec 8), portPresent s.mach p = true → (getPort s.mach p).sub = 1 →
    (∀ k : Fin 4, fld tx (2 * k + 1) (2 * k) ≠ 0 ∨ fld rx (2 * k + 1) (2 * k) ≠ 0) →
    Ends (.vkDetect p tx rx) s (fun m => (getPort m p).sub = 1 ∧ rf m .VK_LANES p 0 19 16 = 15 ∧
      m.now = s.mach.now + 16000000 * Config.acyc)) ∧
  (∀ (s : State) (p : PortNo) (pol : BitVec 4), portPresent s.mach p = true → (getPort s.mach p).sub = 2 →
    rf s.mach .VK_LANES p 0 19 16 = 0 →
    Ends (.vkLock p [some 0, some 1, some 2, some 3] pol) s (fun m => (getPort m p).sub = 3 ∧ rf m .VK_LANES p 0 19 16 = 0 ∧
      rb m .VK_STATUS p 0 37 = false ∧ rf m .VK_STATUS p 0 35 32 = pol.toNat ∧ (getPort m p).usable = 15)) ∧
  (∀ (s : State) (p : PortNo) (pol : BitVec 4), portPresent s.mach p = true → (getPort s.mach p).sub = 2 →
    rf s.mach .VK_LANES p 0 19 16 = 0 →
    Ends (.vkLock p [some 3, some 2, some 1, some 0] pol) s (fun m => (getPort m p).sub = 3 ∧ rb m .VK_STATUS p 0 37 = true ∧
      (getPort m p).usable = 15)) ∧
  (∀ (s : State) (p : PortNo) (peer : BitVec 4) (w l : Nat), portPresent s.mach p = true → (getPort s.mach p).sub = 3 →
    widthOf ((getPort s.mach p).usable &&& peer.toNat) = some (w, l) →
    Ends (.vkMap p peer) s (fun m => (getPort m p).sub = 4 ∧ rf m .VK_STATUS p 0 43 40 = l ∧ rf m .VK_STATUS p 0 39 38 = w ∧
      (w ≠ 3 → rb m .VK_ERR p 0 63 = true))) ∧
  (∀ (s : State) (p : PortNo) (peer : BitVec 4), portPresent s.mach p = true → (getPort s.mach p).sub = 3 →
    widthOf ((getPort s.mach p).usable &&& peer.toNat) = none → Ends (.vkMap p peer) s (fun m => (getPort m p).sub = 1)) ∧
  (∀ (s : State) (p : PortNo), portPresent s.mach p = true → (getPort s.mach p).sub = 4 →
    Ends (.vkEqualise p) s (fun m => (getPort m p).sub = 5 ∧ (getPort m p).stateAt = s.mach.now)) ∧
  (∀ (s : State) (p : PortNo) (b0 b1 : BitVec 128), portPresent s.mach p = true → (getPort s.mach p).sub = 5 →
    portState s.mach p ≠ vkRetrain → identHeld s.mach p (fld b0 111 98) (fld b0 97 93) = none →
    Ends (.ident p b0 b1) s (fun m => portState m p = vkActive ∧ (getPort m p).sub = 0 ∧ (getPort m p).txSeq = 0 ∧
      (getPort m p).rxSeq = 4095 ∧ (getPort m p).peer = some (fld b0 127 112, fld b0 111 98, fld b0 97 93) ∧
      (getPort m p).granted = (List.range 6).map (fun v => fld b1 (12 * v + 11) (12 * v)) ∧ rb m .VK_PEERID p 0 63 = true ∧
      rf m .VK_PEERID p 0 29 16 = fld b0 111 98)) ∧
  (∀ (s : State) (p : PortNo) (b0 b1 : BitVec 128) (why : Nat), portPresent s.mach p = true → (getPort s.mach p).sub = 5 →
    portState s.mach p ≠ vkRetrain → identHeld s.mach p (fld b0 111 98) (fld b0 97 93) = some why →
    Ends (.ident p b0 b1) s (fun m => portState m p = vkHeld ∧ rf m .VK_STATUS p 0 15 12 = why ∧ (getPort m p).sub = 0)) ∧
  (∀ (s : State) (p : PortNo) (t why : Nat), portPresent s.mach p = true → (getPort s.mach p).sub ≠ 0 →
    trainLimit s.mach p = some (t, why) →
    Ends (.trainingTimeout p) s (fun m => portState m p = vkFailed ∧ rf m .VK_STATUS p 0 11 8 = why ∧ (getPort m p).sub = 0 ∧
      t ≤ m.now)) ∧
  (∀ (s : State) (p : PortNo), portPresent s.mach p = true → portState s.mach p = vkActive →
    (((getPort s.mach p).retrains ++ [frameNo s.mach]).filter (fun g => decide (frameNo s.mach < g + 4096))).length ≤
      rf s.mach .VK_CFG p 0 47 40 →
    Ends (.vkRetrainTrigger p (some .peer)) s (fun m => portState m p = vkRetrain ∧ (getPort m p).sub = 1 ∧
      rf m .VK_TRAIN p 0 63 32 = sat 32 (rf s.mach .VK_TRAIN p 0 63 32 + 1) ∧ (getPort m p).replay = (getPort s.mach p).replay)) ∧
  (∀ (s : State) (p : PortNo), portPresent s.mach p = true → portState s.mach p = vkFailed →
    Ends (.portFailed p) s (fun m => (getPort m p).replay = [] ∧ (getPort m p).spill = [] ∧ (getPort m p).expq = [] ∧
      (getPort m p).txq = [] ∧ (getPort m p).rxq = [])) ∧
  (∀ (s : State) (p : PortNo), portState s.mach p ≠ vkFailed → Ends (.portFailed p) s (fun m => m = s.mach))

/-- Flits (R420 to R426, R432): a flit that fails its check is discarded, and a DATA flit so lost asks for a replay; a NAK received or
a timeout of ACK replays from the oldest flit outstanding; a port in HELD launches NULL flits only, and a port in ACTIVE the oldest
flit of a replay first. -/
def Obligations.FlitsMove : Prop :=
  (∀ (s : State) (p : PortNo) (bs : List Byte) (corr dt : Nat) (ucw : Bool), bs.length = 640 → portState s.mach p ≠ vkActive →
    portState s.mach p ≠ vkHeld →
    Ends (.flitReceive p bs corr ucw dt) s (fun m => m = after16 s.mach dt)) ∧
  (∀ (s : State) (p : PortNo) (bs : List Byte) (dt : Nat), bs.length = 640 → portPresent s.mach p = true →
    portState s.mach p = vkActive → (getPort s.mach p).trig = false → (getPort s.mach p).awaitRpl = false →
    fld (BitVec.ofNat 128 (ofBytes (bs.take 16))) 127 124 = 1 →
    fld (BitVec.ofNat 128 (ofBytes (bs.take 16))) 31 0 ≠ flitCrc bs →
    Ends (.flitReceive p bs 0 false dt) s (fun m => (getPort m p).nak = true ∧ (getPort m p).awaitRpl = true ∧
      (getPort m p).rxq = (getPort s.mach p).rxq ∧ (getPort m p).rxSeq = (getPort s.mach p).rxSeq)) ∧
  (∀ (s : State) (p : PortNo), portPresent s.mach p = true → portState s.mach p = vkActive → (getPort s.mach p).nakRx = true →
    Ends (.nak p) s (fun m => (getPort m p).nakRx = false ∧ (getPort m p).rpl = true ∧
      (getPort m p).resend = (getPort s.mach p).replay.head?.map TxFlit.seq ∧ (getPort m p).replay = (getPort s.mach p).replay ∧
      m.csr = s.mach.csr)) ∧
  (∀ (s : State) (p : PortNo) (f : TxFlit) (l : List TxFlit), portPresent s.mach p = true → portState s.mach p = vkActive →
    (getPort s.mach p).replay = f :: l →
    Ends (.ackTimeout p) s (fun m => (getPort m p).resend = some f.seq ∧ (getPort m p).rpl = true ∧ (getPort m p).ackAt = m.now ∧
      s.mach.now ≤ m.now)) ∧
  (∀ (s : State) (p : PortNo), portPresent s.mach p = true → portState s.mach p = vkHeld → (getPort s.mach p).sub ≠ 5 →
    Ends (.flitLaunch p) s (fun m => (getPort m p).tx.length = 640 ∧ (getPort m p).replay = (getPort s.mach p).replay ∧
      (getPort m p).txSeq = (getPort s.mach p).txSeq ∧ (getPort m p).txq = (getPort s.mach p).txq ∧ (getPort m p).nak = false)) ∧
  (∀ (s : State) (p : PortNo) (f : TxFlit), portPresent s.mach p = true → portState s.mach p = vkActive → (getPort s.mach p).sub ≠ 5 →
    (getPort s.mach p).trig = false → (getPort s.mach p).nakRx = false → (getPort s.mach p).resend = some f.seq →
    (getPort s.mach p).replay.find? (fun g => decide (g.seq = f.seq)) = some f →
    Ends (.flitLaunch p) s (fun m => (getPort m p).replay = (getPort s.mach p).replay ∧ (getPort m p).rpl = false ∧
      rf m .VK_REPLAY p 0 31 0 = sat 32 (rf s.mach .VK_REPLAY p 0 31 0 + 1) ∧ (getPort m p).txSeq = (getPort s.mach p).txSeq)) ∧
  (∀ (s : State) (p : PortNo), portPresent s.mach p = true → portState s.mach p = vkActive → (getPort s.mach p).sub ≠ 5 →
    (getPort s.mach p).trig = false → (getPort s.mach p).nakRx = false → (getPort s.mach p).resend = none →
    512 ≤ (getPort s.mach p).replay.length →
    Ends (.flitLaunch p) s (fun m => (getPort m p).replay = (getPort s.mach p).replay ∧ (getPort m p).txSeq = (getPort s.mach p).txSeq ∧
      (getPort m p).txq = (getPort s.mach p).txq)) ∧
  (∀ (s : State) (p : PortNo) (x : TxPkt) (d : Nat), portPresent s.mach p = true → portState s.mach p = vkActive →
    (getPort s.mach p).txq.find? (fun x => x.due.isSome) = some x → x.due = some d → (getPort s.mach p).sub ≠ 5 →
    (getPort s.mach p).trig = true →
    Ends (.scheduledLaunch p) s (fun m => m = advanceTo s.mach (tick16 s.mach (d + wf16 s.mach p)))) ∧
  (∀ (s : State) (p : PortNo), (getPort s.mach p).txq.find? (fun x => x.due.isSome) = none →
    Ends (.scheduledLaunch p) s (fun m => m = s.mach)) ∧
  (∀ (s : State) (p : PortNo) (x : TxPkt) (d : Nat), portPresent s.mach p = true → portState s.mach p = vkActive →
    (getPort s.mach p).txq.find? (fun x => x.due.isSome) = some x → x.due = some d →
    Ends (.scheduledLaunch p) s (fun m => tick16 s.mach (d + wf16 s.mach p) ≤ m.now ∧
      Ends (.flitLaunch p) { s with mach := advanceTo s.mach (tick16 s.mach (d + wf16 s.mach p)) } (fun u => u = m)))

/-- What ports pass on (R427, R428, R438 to R441): an express entry for this package is held at its final ingress until its STAMP and
becomes a token for its bay there, or a power message; one for another node goes to its egress port with its STAMP increased; a packet
for another node goes to its egress port with HOPS raised, at most 7; and one that has found no credit is spilled. -/
def Obligations.PortsForward : Prop :=
  (∀ (s : State) (p : PortNo) (e : Express) (l : List Express), (getPort s.mach p).rxexp = e :: l → e.mtype ≤ 3 →
    tokLocal s.mach e.dest = true → isDone s.mach = true → count16 s.mach ≤ fullStamp s.mach e.stamp →
    Ends (.expressEntry p) s (fun m => (getPort m p).rxexp = l ∧
      (getPort m p).expHeld = (getPort s.mach p).expHeld ++ [(e, fullStamp s.mach e.stamp)] ∧ m.csr = s.mach.csr)) ∧
  (∀ (s : State) (p q : PortNo) (e : Express) (l : List Express), (getPort s.mach p).rxexp = e :: l → e.mtype ≤ 3 →
    tokLocal s.mach e.dest = false → count16 s.mach ≤ fullStamp s.mach e.stamp + 16 * 16384 →
    routePort s.mach (tokNode e.dest) = some q.val →
    Ends (.expressEntry p) s (fun m => (getPort m p).rxexp = l ∧
      let st := (fullStamp s.mach e.stamp + 16 * (fwdLat (portDie p) (portDie q) + linkLat s.mach q)) % 2 ^ 20
      (getPort m q).expq = (getPort s.mach q).expq ++ [{ e with stamp := st }])) ∧
  (∀ (s : State) (p : PortNo) (e : Express) (t : Nat), (getPort s.mach p).expHeld = [(e, t)] → e.mtype = 0 → tokBay e.dest < 72 →
    Ends (.expressDue p) s (fun m => (getPort m p).expHeld = [] ∧ tick16 s.mach t ≤ m.now ∧ ∃ x, m.toks = s.mach.toks ++ [x] ∧
      x.bay = tokBay e.dest ∧ x.ch = tokCh e.dest ∧ x.n = e.n ∧ x.poison = e.pois ∧ m.now ≤ x.due)) ∧
  (∀ (s : State) (p : PortNo) (e : Express) (t : Nat), (getPort s.mach p).expHeld = [(e, t)] → e.mtype = 3 →
    Ends (.expressDue p) s (fun m => (getPort m p).expHeld = [] ∧ m.toks = s.mach.toks ∧ m.pwr.shiftIn = s.mach.pwr.shiftIn ++
      [(e.body / 2 ^ 56 % 256, e.body / 2 ^ 48 % 256, e.body % 2 ^ 48)])) ∧
  (∀ (s : State) (p q : PortNo) (k : Pkt), (getPort s.mach p).rxq = [k] → k.dnode ≠ s.mach.route.nodeId → k.hops < 7 →
    routePort s.mach k.dnode = some q.val → (getPort s.mach q).spill = [] →
    Ends (.packetForward p) s (fun m => (getPort m p).rxq = [] ∧ ∃ x : TxPkt, (getPort m q).txq = (getPort s.mach q).txq ++ [x] ∧
      x.pkt = { k with hops := k.hops + 1 } ∧ x.from_ = some p.val)) ∧
  (∀ (s : State) (p : PortNo) (k : Pkt), (getPort s.mach p).rxq = [k] → k.dnode ≠ s.mach.route.nodeId → 7 ≤ k.hops →
    isRequest k.ptype = false →
    Ends (.packetForward p) s (fun m => (getPort m p).rxq = [] ∧ ∀ q : PortNo, q ≠ p → getPort m q = getPort s.mach q)) ∧
  (∀ (s : State) (q r : PortNo) (x : TxPkt) (l : List TxPkt), (getPort s.mach q).txq = x :: l → x.from_ = some r.val →
    x.pkt.vc ≠ 4 → creditOf (getPort s.mach q) x.pkt.vc < x.pkt.len →
    spillRoom (advanceTo s.mach (flitsAfter s.mach q x.since 64)) q x.pkt = true →
    Ends (.spill q) s (fun m => (getPort m q).txq = l ∧ (getPort m q).spill = (getPort s.mach q).spill ++ [{ x with from_ := none }] ∧
      flitsAfter s.mach q x.since 64 ≤ m.now))

/-! ### The Vrelrek memory space (chapter 17) -/

/-- Requests of other packages (R436, R437, R443 to R446, R450 to R454): a read returns its bytes, a write stores them line by line, a
masked write the bytes of its mask, an atomic returns the old value, an add is performed at its home, planned regions are written and
read through their window, a token reaches its bay, scheduled packets land at their time, and registers are read and written; a refused
access is answered with its STATUS. -/
def Obligations.RemoteRequestsServed : Prop :=
  (∀ (s : State) (p : PortNo) (k : Pkt) (t u : Mach) (d : List Byte × Bool), Serving s.mach p ptRD rdOk k t →
    reachable t k.addr = true → readAs t (ingressMid p) none 0 k.addr (readLen k) = (some d, u) →
    Ends (.rd p) s (fun m => Answered u m k 0 (slotsOf d.1))) ∧
  (∀ (s : State) (p : PortNo) (k : Pkt) (t u : Mach), Serving s.mach p ptRD rdOk k t →
    reachable t k.addr = true → readAs t (ingressMid p) none 0 k.addr (readLen k) = (none, u) →
    Ends (.rd p) s (fun m => Answered u m k 1 [])) ∧
  (∀ (s : State) (p : PortNo) (k : Pkt) (t u : Mach) (st : Nat), Serving s.mach p ptWR wrOk k t → reachable t k.addr = true →
    remoteStore t p k.addr (bytesOfSlots k.data) k.mod_ = (st, u) → st < 256 →
    Ends (.wr p) s (fun m => Answered u m k st [])) ∧
  (∀ (s : State) (p : PortNo) (k : Pkt) (t : Mach) (o : Nat), Serving s.mach p ptWRM wrmOk k t → region t k.addr = .granary o →
    reachable t k.addr = true → physDenied t (checkedAs t (ingressMid p) none) k.addr 64 true = none →
    Ends (.wrm p) s (fun m =>
      let v := countBytes t k.addr 64 .write (ownerOf t (ingressMid p) none)
      Answered (homeWrite v (k.addr / 64) (BitVec.ofNat 512 (ofBytes (bytesOfSlots (k.data.drop 1)))) (k.data.getD 0 0).toNat
        (decide (k.mod_ % 2 = 1))) m k 0 [])) ∧
  (∀ (s : State) (p : PortNo) (k : Pkt) (t : Mach), Serving s.mach p ptATOM atomOk k t → reachable t k.addr = true →
    (rightsAt t (checkedAs t (ingressMid p) none) k.addr).atomic = true →
    (rightsAt t (checkedAs t (ingressMid p) none) k.addr).write = true →
    writeLocked t (checkedAs t (ingressMid p) none) k.addr = false →
    Ends (.atom p) s (fun m =>
      let v := countBytes t k.addr 64 .write (ownerOf t (ingressMid p) none)
      let d := (k.data.getD 0 0).toNat
      let r := doAtomic v (k.mod_ % 16) (atomSize k) k.addr (d % 2 ^ 64) (d / 2 ^ 64)
      Answered r.2.2 m k 0 [BitVec.ofNat 128 r.1])) ∧
  (∀ (s : State) (p : PortNo) (k : Pkt) (t u : Mach) (f : Nat), Serving s.mach p ptNADD naddOk k t →
    (let n := nmaBytes (k.mod_ % 4)
     let v := ofBytes (bytesOfSlots k.data)
     nmaAt t (ingressMid p) none 0 (k.mod_ % 4)
       ((List.range (64 / n)).map (fun i => (k.addr + i * n, v / 2 ^ (8 * n * i) % 2 ^ (8 * n), k.mod_.testBit 2))) = (.done f, u)) →
    Ends (.nadd p) s (fun m => Answered u m k 0 [])) ∧
  (∀ (s : State) (p : PortNo) (k : Pkt) (t : Mach), Serving s.mach p ptLWR lwrOk k t →
    rloftCheck t p k (16 * k.data.length) true = none →
    Ends (.lwr p) s (fun m =>
      let n := 16 * k.data.length
      let b := rloftBay k.addr
      Answered (loftPut (countLoftWrite t b n) b (rloftOff k.addr) (bytesOfSlots k.data) (2 ^ n - 1) (k.mod_ % 16)) m k 0 [])) ∧
  (∀ (s : State) (p : PortNo) (k : Pkt) (t : Mach), Serving s.mach p ptLRD lrdOk k t → rloftCheck t p k (readLen k) false = none →
    Ends (.lrd p) s (fun m =>
      let b := rloftBay k.addr
      let u := countEv (countLoftRead t b (readLen k)) b 0x09 (ceilDiv (readLen k) 64)
      Answered u m k 0 (slotsOf ((List.range (readLen k)).map (fun i => loftByte u b (rloftOff k.addr + i)))))) ∧
  (∀ (s : State) (p : PortNo) (k : Pkt) (t : Mach), takeType s.mach p ptSTOK = some (k, t) → streamWaits s.mach p k = false →
    isDone t = true → stokOk k = true → tokBay (k.data.getD 0 0).toNat < 72 →
    Ends (.stok p) s (fun m => m.mem = t.mem ∧ ∃ x, m.toks = t.toks ++ [x] ∧ x.bay = tokBay (k.data.getD 0 0).toNat ∧
      x.ch = tokCh (k.data.getD 0 0).toNat ∧ x.n = (k.data.getD 0 0).toNat / 2 ^ 32 % 256 ∧
      x.poison = (k.data.getD 0 0).toNat.testBit 40 ∧ t.now ≤ x.due)) ∧
  (let sched (c : PortNo → Instr) (pt : Nat) (ok : Pkt → Bool) (P : Nat → Pkt → Mach → Mach → Prop) : Prop :=
     ∀ (s : State) (p : PortNo) (i d : Nat) (k : Pkt), firstSch s.mach p pt = some (i, k, d) → isDone s.mach = true →
       (schOk k && ok (unscheduled k)) = true →
       Ends (c p) s (fun m => ∃ t : Mach, tick16 s.mach d ≤ t.now ∧ s.mach.now ≤ t.now ∧ t.csr = s.mach.csr ∧ t.mem = s.mach.mem ∧
         t.loft = s.mach.loft ∧ P p (unscheduled k) t m)
   sched .swr ptSWR wrOk (fun p k t m => reachable t k.addr = true → ∀ u : Mach,
     remoteStore t p k.addr (bytesOfSlots k.data) k.mod_ = (0, u) → Answered u m k 0 []) ∧
   sched .slwr ptSLWR lwrOk (fun p k t m => rloftCheck t p k (16 * k.data.length) true = none →
     Answered (loftPut (countLoftWrite t (rloftBay k.addr) (16 * k.data.length)) (rloftBay k.addr) (rloftOff k.addr)
       (bytesOfSlots k.data) (2 ^ (16 * k.data.length) - 1) (k.mod_ % 16)) m k 0 [])) ∧
  (∀ (s : State) (p : PortNo) (k : Pkt) (t : Mach) (b : Blk) (u : Nat) (r : RegRef), Serving s.mach p ptMRD (mgtOkPkt · 0) k t →
    CspLet t (ingressMid p) k.addr → regAt k.addr = some (b, u, some r) → k.addr % 8 = 0 → blkPresent t b u = true →
    r.name.info.mask .rc = 0 →
    Ends (.mrd p) s (fun m => Answered (settleBlk t b u) m k 0 [BitVec.ofNat 128 (regView (settleBlk t b u) r).toNat])) ∧
  (∀ (s : State) (p : PortNo) (k : Pkt) (t : Mach) (b : Blk) (u : Nat) (r : RegRef), Serving s.mach p ptMWR (mgtOkPkt · 1) k t →
    CspLet t (ingressMid p) k.addr → regAt k.addr = some (b, u, some r) → k.addr % 8 = 0 → blkPresent t b u = true → plainReg r →
    Ends (.mwr p) s (fun m => Answered (plainWrite (settleBlk t b u) r (BitVec.ofNat 64 (k.data.getD 0 0).toNat)) m k 0
      (if answerType k.ptype = ptARSP ∨ answerType k.ptype = ptMRSP then [0] else [])))

/-- Responses, timeouts and tags (R443, R455): a response goes to the request that holds its tag and frees the tag, and one whose tag is
free is dropped with a record; a request unanswered for REMOTE_TMO completes as refused and its tag is held back for as long again. -/
def Obligations.RemoteAnswersTaken : Prop :=
  (∀ (s : State) (p : PortNo) (k : Pkt) (r : VkReq) (t : Mach), Returning s.mach p ptRDATA k r t → r.owner = .golden →
    Ends (.rdata p) s (fun m => m.vkReqs = t.vkReqs ∧ m.flt.repairs = t.flt.repairs.map (fun q => if q.reading then
      { q with answer := some (if k.addr % 256 = 0 ∧ k.mod_ = 0 then some (BitVec.ofNat 512 (ofBytes (bytesOfSlots k.data))) else none) }
      else q) ∧ m.mem = t.mem)) ∧
  (∀ (s : State) (p : PortNo) (k : Pkt) (r : VkReq) (t : Mach) (u id : Nat), Returning s.mach p ptWACK k r t → r.owner = .moveWrite u id →
    Ends (.wack p) s (fun m => m = moveRemoteAck t u id (k.addr % 256) (k.addr / 2 ^ 12 % 2 ^ 16))) ∧
  (∀ (s : State) (p : PortNo) (k : Pkt) (r : VkReq) (t : Mach) (ring idx : Nat), Returning s.mach p ptARSP k r t →
    r.owner = .atomItem ring idx →
    Ends (.arsp p) s (fun m => m.vkReqs = t.vkReqs ∧ ∃ x : RingDone, m.ringDone = t.ringDone ++ [x] ∧ x.ring = ring ∧ x.idx = idx ∧
      x.status = k.addr % 256 ∧ x.result = (if k.addr % 256 = 0 then (k.data.getD 0 0).toNat % 2 ^ 64 else 0))) ∧
  (∀ (s : State) (p : PortNo) (k : Pkt) (r : VkReq) (t : Mach), Returning s.mach p ptMRSP k r t → r.owner = .mgmt →
    Ends (.mrsp p) s (fun m => m = { t with mgt := { t.mgt with answer := some (k.addr % 256, BitVec.ofNat 64 (k.data.getD 0 0).toNat) } })) ∧
  (let stray (c : PortNo → Instr) (pt : Nat) : Prop := ∀ (s : State) (p : PortNo) (k : Pkt) (t : Mach), takeType s.mach p pt = some (k, t) →
     t.vkReqs.any (fun r => decide (r.mid = k.mid) && decide (r.tag = k.tag) && !r.held) = false →
     Ends (c p) s (fun m => m.vkReqs = t.vkReqs ∧ m.mem = t.mem ∧ ∃ r, m.flt.wire = t.flt.wire ++ [r] ∧ r.cls = 0xC)
   stray .rdata ptRDATA ∧ stray .wack ptWACK ∧ stray .arsp ptARSP ∧ stray .mrsp ptMRSP) ∧
  (∀ (s : State) (i : Nat) (r : VkReq), (s.mach.vkReqs.filter (fun r => !r.held))[i]? = some r → r.owner = .mgmt →
    Ends (.remoteTimeout i) s (fun m => r.sentAt + remoteTmo s.mach ≤ m.now ∧ m.mgt.answer = some (7, 0) ∧
      (∃ x ∈ m.vkReqs, x.mid = r.mid ∧ x.tag = r.tag ∧ x.held = true ∧ x.sentAt = m.now) ∧ m.vkReqs.length = s.mach.vkReqs.length)) ∧
  (∀ (s : State) (mid : Mid) (tag : Fin 1024) (r : VkReq),
    s.mach.vkReqs.find? (fun r => decide (r.mid = mid.val) && decide (r.tag = tag.val) && r.held) = some r →
    Ends (.tagHoldbackExpiry mid tag) s (fun m => r.sentAt + remoteTmo s.mach ≤ m.now ∧
      m.vkReqs = s.mach.vkReqs.filter (fun q => !(decide (q.mid = mid.val) && decide (q.tag = tag.val) && q.held)) ∧ m.mem = s.mach.mem))

/-! ### Debug, trace and counters (chapter 22) -/

/-- The debug access path (R15, R552, R553): a granted peek brings the register to DBG_ADATA with no side effect of reading; a granted
poke writes it; without the grant ERR is 1 and nothing else happens; a write of dmcontrol with dmactive 0 resets the Debug Module, a
halt request of an available hart halts it, and a read brings dmcontrol to DBG_DMI. -/
def Obligations.DebugAccesses : Prop :=
  let actl : RegRef := { name := .DBG_ACTL, unit := 0, idx := 0 }
  let dmi : RegRef := { name := .DBG_DMI, unit := 0, idx := 0 }
  (∀ (s : State) (q : Requester) (v : Word) (off : Nat) (b : Blk) (u : Nat) (r : RegRef), bit v 62 = true → bit v 61 = false →
    bit v 60 = false → isDone s.mach = true → rf s.mach .DBG_AADDR 0 0 47 0 = off → off % 8 = 0 → regAt off = some (b, u, some r) →
    blkPresent s.mach b u = true → scopeOk (plainWrite s.mach actl v) off none = true → CspLet (plainWrite s.mach actl v) 0 off →
    ReqEnds (.peek q v) s q .DBG_ACTL 0 v (fun t m =>
      let x := settleBlk (plainWrite t actl v) b u
      rg m .DBG_ADATA 0 0 = regView x r ∧ rf m .DBG_ACTL 0 0 50 48 = 0 ∧ m.units = { x with cspOut := (0, 0) }.units ∧
      (r.addr ≠ actl.addr → r.addr ≠ RegRef.addr { name := .DBG_ADATA, unit := 0, idx := 0 } →
        rg m r.name r.unit r.idx = rg x r.name r.unit r.idx))) ∧
  (∀ (s : State) (q : Requester) (v : Word) (off : Nat) (b : Blk) (u : Nat) (r : RegRef), bit v 62 = true → bit v 61 = true →
    bit v 60 = false → isDone s.mach = true → rf s.mach .DBG_AADDR 0 0 47 0 = off → off % 8 = 0 → regAt off = some (b, u, some r) →
    blkPresent s.mach b u = true → plainReg r →
    scopeOk (plainWrite s.mach actl v) off (some (rg s.mach .DBG_ADATA 0 0)) = true → CspLet (plainWrite s.mach actl v) 0 off →
    ReqEnds (.poke q v) s q .DBG_ACTL 0 v (fun t m =>
      let x := settleBlk (plainWrite t actl v) b u
      m = { wf (plainWrite x r (rg s.mach .DBG_ADATA 0 0)) .DBG_ACTL 0 0 50 48 0 with cspOut := (0, 0) })) ∧
  (∀ (s : State) (q : Requester) (v : Word), bit v 62 = true → bit v 61 = false → bit v 60 = false → isDone s.mach = true →
    scopeOk (plainWrite s.mach actl v) (rf s.mach .DBG_AADDR 0 0 47 0) none = false →
    ReqEnds (.peek q v) s q .DBG_ACTL 0 v (fun t m =>
      m = { wf (plainWrite t actl v) .DBG_ACTL 0 0 50 48 errNotGranted with cspOut := (0, 0) })) ∧
  (∀ (s : State) (q : Requester) (v : Word), bit v 31 = true → bit v 30 = true → fld v 6 0 = 0x10 → bit v 32 = false →
    ReqEnds (.dbgDmiAccess q v) s q .DBG_DMI 0 v (fun t m => m.dm = Dm.zero ∧
      m.units = { t with dm := Dm.zero, cspOut := (0, 0) }.units)) ∧
  (∀ (s : State) (q : Requester) (v : Word) (c : CoreNo), bit v 31 = true → bit v 30 = true → fld v 6 0 = 0x10 → bit v 32 = true →
    bit v 63 = true → fld v 57 48 = c.val → hartAvail (plainWrite s.mach dmi v) c = true → (getCore s.mach c).halted = false →
    smapGet none s.mach.dbg.coreDefer c = none → lockedRings (plainWrite s.mach dmi v) c = [] →
    ReqEnds (.dbgDmiAccess q v) s q .DBG_DMI 0 v (fun t m => (getCore m c).halted = true ∧ (getCore m c).resv = none ∧
      smapGet 0 (getCore m c).csr csrDpc = (getCore t c).pc ∧ m.dm.hartsel = c.val ∧ m.mem = t.mem ∧ m.bays = t.bays)) ∧
  (∀ (s : State) (q : Requester) (v : Word), bit v 31 = true → bit v 30 = false → fld v 6 0 = 0x10 → s.mach.dm.active = true →
    ReqEnds (.dbgDmiAccess q v) s q .DBG_DMI 0 v (fun t m => rf m .DBG_DMI 0 0 63 32 = (t.dm.hartsel * 2 ^ 16 + 1) % 2 ^ 32 ∧
      m.units = { t with cspOut := (0, 0) }.units))

/-- Halts and resumes (R554 to R558): an armed halt reaches a bay and stops it, unless its semaphore block runs a transfer, which
defers the halt by 1,024 FCLK; the end of the locked sequence, or the limit, halts it; an armed resume starts it again; a core whose
halt is deferred halts at the end of its sequence or at the limit. Rekey and grants (R473, R479): a rekey ends with BUSY clear; at the expiry of a grant every scope is revoked and the bays that it
held halted resume. -/
def Obligations.GrantsHaltsAndResumes : Prop :=
  (∀ (s : State) (b : BayNo) (p : Nat) (a : Nat × Bool), bayPid s.mach b = some p → smapGet none s.mach.dbg.armHalt p = some a →
    bayPresent s.mach b = true → isHalted s.mach b = false → (getBay s.mach b).dbg.defer = none → (getSem s.mach b).xfer = none →
    Ends (.bayHalt b) s (fun m => isHalted m b = true ∧ rb m .DBG_BSTAT b 0 0 = true ∧ m.mem = s.mach.mem ∧ m.loft = s.mach.loft ∧
      getSeq m b = getSeq s.mach b)) ∧
  (∀ (s : State) (b : BayNo) (p : Nat) (a : Nat × Bool), bayPid s.mach b = some p → smapGet none s.mach.dbg.armHalt p = some a →
    bayPresent s.mach b = true → isHalted s.mach b = false → (getBay s.mach b).dbg.defer = none → (getSem s.mach b).xfer.isSome = true →
    Ends (.bayHalt b) s (fun m => isHalted m b = false ∧ (getBay m b).dbg.defer = some (armedEdge s.mach b a + 1024) ∧
      rb m .DBG_BSTAT b 0 1 = true)) ∧
  (∀ (s : State) (b : BayNo) (p : Nat) (a : Nat × Bool), bayPid s.mach b = some p → smapGet none s.mach.dbg.armRes p = some a →
    isHalted s.mach b = true →
    Ends (.bayResume b) s (fun m => isHalted m b = false ∧ rb m .DBG_BSTAT b 0 0 = false ∧ m.mem = s.mach.mem)) ∧
  (∀ (s : State) (b : BayNo), (getBay s.mach b).dbg.defer.isSome = true → (getSem s.mach b).xfer = none →
    Ends (.lockedSequenceEnd (.bay b)) s (fun m => isHalted m b = true ∧ (getBay m b).dbg.defer = none)) ∧
  (∀ (s : State) (b : BayNo) (e : Nat), (getBay s.mach b).dbg.defer = some e →
    Ends (.haltDeferExpiry (.bay b)) s (fun m => isHalted m b = true ∧ (getBay m b).dbg.defer = none)) ∧
  (∀ (s : State) (c : CoreNo), (smapGet none s.mach.dbg.coreDefer c).isSome = true → lockedRings s.mach c = [] →
    Ends (.lockedSequenceEnd (.core c)) s (fun m => (getCore m c).halted = true ∧ (getCore m c).resv = none ∧
      smapGet 0 (getCore m c).csr csrDpc = (getCore s.mach c).pc ∧ m.mem = s.mach.mem)) ∧
  (∀ (s : State) (c : CoreNo) (t : Nat), smapGet none s.mach.dbg.coreDefer c = some t →
    Ends (.haltDeferExpiry (.core c)) s (fun m => (getCore m c).halted = true ∧ smapGet none m.dbg.coreDefer c = none)) ∧
  (∀ s : State, Ends .rekeyComplete s (fun m => rb m .SEC_REKEY 0 0 63 = false ∧ m.units = s.mach.units ∧
    ∀ (n : RegName) (u i : Nat), RegRef.addr { name := n, unit := u, idx := i } ≠ RegRef.addr { name := .SEC_REKEY, unit := 0, idx := 0 } →
      rg m n u i = rg s.mach n u i)) ∧
  (∀ s : State, rg s.mach .SEC_DBG_STATE 0 0 ≠ 0 → s.mach.alm.running = true →
    Ends .grantExpiry s (fun m => rg m .SEC_DBG_STATE 0 0 = 0 ∧ m.mem = s.mach.mem ∧
      ∀ (b : BayNo) (p : Fin 16), bayPid s.mach b = some p.val → bayPresent s.mach b = true → grantInv s.mach p = true →
        isHalted m b = false)) ∧
  (∀ s : State, rg s.mach .SEC_DBG_STATE 0 0 = 0 → Ends .grantExpiry s (fun m => m = s.mach))

/-- Trace (R561, R564 to R567): samples fall on counts whose low bits are 0; the oldest record on its way enters the buffer of its
bay, where at a full buffer a record of no higher class is lost; the oldest record of a buffer goes to the sink of its partition, and
is lost where the sink has stopped; a condition that has fired marks the sink as triggered, once. Snapshots (R568, R570): a unit that has not yet copied its counters does so, once; one that has changes nothing. -/
def Obligations.TraceAndSnapshots : Prop :=
  (∀ (s : State) (b : BayNo), rb s.mach .TRC_BCFG b 0 63 = true → s.mach.alm.running = true →
    Ends (.pcSample b) s (fun m => ∃ (c : Nat) (l : List TrcRec), (getBay m b).dbg.smpAt = c + 1 ∧
      c % 2 ^ (rf s.mach .TRC_BCFG b 0 43 40 + 10) = 0 ∧ m.trcWire = s.mach.trcWire ++ l ∧ m.mem = s.mach.mem ∧
      getSeq m b = getSeq s.mach b)) ∧
  (∀ (s : State) (r : TrcRec) (l : List TrcRec), s.mach.trcWire = r :: l → r.bay < 72 → (getBay s.mach r.bay).trc.buf.length < 64 →
    Ends .traceRecord s (fun m => m.trcWire = l ∧ (getBay m r.bay).trc.buf = (getBay s.mach r.bay).trc.buf ++ [r] ∧
      m.csr = s.mach.csr ∧ m.mem = s.mach.mem)) ∧
  (∀ (s : State) (r : TrcRec) (l : List TrcRec), s.mach.trcWire = r :: l → r.bay < 72 → r.cls = 0 →
    64 ≤ (getBay s.mach r.bay).trc.buf.length →
    Ends .traceRecord s (fun m => m.trcWire = l ∧ (getBay m r.bay).trc.buf = (getBay s.mach r.bay).trc.buf ∧
      rf m .TRC_BLOST r.bay 0 15 0 = sat 16 (rf s.mach .TRC_BLOST r.bay 0 15 0 + 1))) ∧
  (∀ (s : State) (b : BayNo) (p : Fin 16) (r : TrcRec) (l : List TrcRec), bayPid s.mach b = some p.val →
    (getBay s.mach b).trc.buf = r :: l → bit (getSink s.mach p).cfg 63 = true → fld (getSink s.mach p).stat 3 0 ≠ 1 → r.cls < 4 →
    (getBay s.mach b).trc.lost.all (fun n => decide (n = 0)) = true →
    Ends (.sinkWrite b) s (fun m => (getBay m b).trc.buf = l ∧ m.mem = s.mach.mem ∧
      fld (getSink m p).lost (16 * r.cls + 15) (16 * r.cls) = sat 16 (fld (getSink s.mach p).lost (16 * r.cls + 15) (16 * r.cls) + 1))) ∧
  (∀ (s : State) (b : BayNo) (p : Fin 16) (r : TrcRec) (l : List TrcRec) (t : Mach), bayPid s.mach b = some p.val →
    (getBay s.mach b).trc.buf = r :: l → bit (getSink s.mach p).cfg 63 = true → fld (getSink s.mach p).stat 3 0 = 1 →
    (getBay s.mach b).trc.lost.all (fun n => decide (n = 0)) = true →
    (let k := getSink s.mach p
     writeAs (modBay s.mach b (fun x => { x with trc := { x.trc with buf := l } })) 0 none 0
       (fld k.base 47 12 * 4096 + k.wptr % sinkLen k * 16) r.bytes false = (true, t)) →
    Ends (.sinkWrite b) s (fun m => m.mem = t.mem ∧ (getSink m p).wptr = ((getSink s.mach p).wptr + 1) % 2 ^ 32)) ∧
  (∀ (s : State) (p : PartNo) (x : Nat × Nat × Nat), (getSink s.mach p).fire = some x → mayFire (getSink s.mach p) = true →
    Ends (.trigger p) s (fun m => bit (getSink m p).stat 5 = true)) ∧
  (∀ (s : State) (p : PartNo) (x : Nat × Nat × Nat), (getSink s.mach p).fire = some x → mayFire (getSink s.mach p) = false →
    Ends (.trigger p) s (fun m => m = modSink s.mach p (fun k => { k with fire := none }))) ∧
  (∀ (s : State) (b : BayNo) (n : Nat), s.mach.dbg.snapAt = some n → s.mach.dbg.snapLeft.contains b.val = true →
    Ends (.snapshotTake (.bay b)) s (fun m => m.dbg.snapLeft = s.mach.dbg.snapLeft.erase b.val ∧ rb m .CNT_SHSTAT b 0 0 = true ∧
      rf m .CNT_SHSTAT b 0 63 32 = rf s.mach .CNT_SNAPCTL 0 0 31 0 ∧
      (∀ k, k < 8 → rg m .CNT_SH b k = rg m .CNT_EV b k) ∧
      (s.mach.dbg.snapLeft = [b.val] → m.dbg.snapAt = none ∧ rb m .CNT_SNAPCTL 0 0 63 = false))) ∧
  (∀ (s : State) (d : Fin 32) (n : Nat), s.mach.dbg.snapAt = some n → s.mach.dbg.snapLeft.contains (72 + d.val) = true →
    Ends (.snapshotTake (.die d)) s (fun m => m.dbg.snapLeft = s.mach.dbg.snapLeft.erase (72 + d.val) ∧ m.bays = s.mach.bays ∧
      m.mem = s.mach.mem)) ∧
  (∀ (s : State) (b : BayNo), s.mach.dbg.snapLeft.contains b.val = false →
    Ends (.snapshotTake (.bay b)) s (fun m => m = s.mach))

/-! ### Power, gears and thermal control (chapter 20) -/

/-- The power limit (R504 to R506, R519): at the end of a frame LEVEL takes the energy above PPL_EFF and is clamped to 0 and CAP, the
frames above 2,400 W are counted, the 244th enters HOLD for 2,196 frames, and HOLD ends when none remains. Gears (R64, R498, R500 to R502, R508 to R510, R521, R522): a selection takes the sensors' readings, caps a die at its threshold one
gear lower and never chooses a gear above a cap; every request for the next boundary is decided; at the boundary each die that is not
in emergency division runs at the gear chosen; and the effects of a fallow frame are applied once. -/
def Obligations.PowerAndGears : Prop :=
  (∀ s : State, powerOn s.mach = true →
    Ends .surgeUpdate s (fun m =>
      let t := atFrame s.mach s.mach.pwr.surgeAt
      m.pwr.level = min (capEnergy t) (t.pwr.level + m.pwr.est - pplEff t (frameNo t - 1) * wattFrame) ∧ m.pwr.events = [] ∧
      m.pwr.surgeAt = some (frameNo t) ∧ m.mem = s.mach.mem ∧
      rf m .PWR_SURGE 0 0 39 32 = (if 2400 * wattFrame < m.pwr.est then sat 8 (rf t .PWR_SURGE 0 0 39 32 + 1) else 0) ∧
      rf m .PWR_SURGE 0 0 55 40 = (if inHold t = false then rf t .PWR_SURGE 0 0 55 40
        else if 2400 * wattFrame < m.pwr.est then 2196 else rf t .PWR_SURGE 0 0 55 40 - 1))) ∧
  (∀ s : State, inHold s.mach = false → 244 ≤ rf s.mach .PWR_SURGE 0 0 39 32 →
    Ends .peakHold s (fun m => inHold m = true ∧ rf m .PWR_SURGE 0 0 55 40 = 2196 ∧ rb m .PWR_EVENTS 0 0 1 = true)) ∧
  (∀ s : State, (inHold s.mach = true ∨ rf s.mach .PWR_SURGE 0 0 39 32 < 244) → Ends .peakHold s (fun m => m = s.mach)) ∧
  (∀ s : State, inHold s.mach = true → rf s.mach .PWR_SURGE 0 0 55 40 = 0 →
    Ends .holdEnd s (fun m => inHold m = false ∧ m.units = s.mach.units)) ∧
  (∀ s : State, rf s.mach .PWR_SURGE 0 0 55 40 ≠ 0 → Ends .holdEnd s (fun m => m = s.mach)) ∧
  (∀ (s : State) (t : TempReport), t.wf = true → powerOn s.mach = true →
    Ends (.gearSelection t) s (fun m =>
      (∀ d ∈ dieIds, rf m .PWR_TEMP 0 d 15 0 = ofSigned 16 (t.die.getD d 0)) ∧
      (∀ k, k < 12 → rf m .PWR_STEMP 0 k 15 0 = ofSigned 16 (t.stack.getD k 0)) ∧
      (∀ d : CompDie, hotAt (t.die[compDieId d]?) (rf s.mach .PWR_CFG 0 0 55 48) = true →
        tcap m d = max 4 (gearOf s.mach d - 1)) ∧
      (∀ d : CompDie, inEmerg s.mach d = false → nextGear m d ≤ tcap m d) ∧
      (∀ d : CompDie, gearOf m d = gearOf s.mach d) ∧ m.mem = s.mach.mem ∧ m.bays = s.mach.bays)) ∧
  (∀ s : State, powerOn s.mach = true →
    Ends .gearRequestDecision s (fun m => ∃ f : Nat, m.pwr.decAt = some f ∧
      (∀ r ∈ m.pwr.gearReqs, r.bnd = f + 1 → r.decided = true) ∧ ∀ d : CompDie, gearOf m d = gearOf s.mach d)) ∧
  (∀ s : State, powerOn s.mach = true →
    Ends .gearChange s (fun m => m.pwr.chgAt = some (frameNo (atFrame s.mach s.mach.pwr.chgAt)) ∧
      (∀ d : CompDie, gearOf m d = (if inEmerg s.mach d then gearOf s.mach d else nextGear s.mach d)) ∧ m.mem = s.mach.mem)) ∧
  (∀ s : State, s.mach.alm.running = true → frameFallow s.mach (frameNo s.mach) = true → s.mach.pwr.fallowAt ≠ some (frameNo s.mach) →
    Ends .fallowFrame s (fun m => m.pwr.fallowAt = some (frameNo s.mach) ∧ m.now = s.mach.now ∧ m.mem = s.mach.mem))

/-- Droop, the alert, and the thermal trip (R512 to R515, R523): a trip suppresses edges and is counted, a clear ends it; a die that
suppressed more than DROOP_ESC edges in a frame divides its clock; the fall of PWR_ALERT_N divides every die, and after its rise every
divided die runs at gear 4; the thermal trip stops every clock. -/
def Obligations.EmergenciesHandled : Prop :=
  (∀ (s : State) (d : CompDie), (getClk s.mach d).droop = false → (getClk s.mach d).stopped = false →
    Ends (.droopTrip d) s (fun m => (getClk m d).droop = true ∧ m.now = s.mach.now ∧ m.mem = s.mach.mem ∧
      rf m .PWR_LDROOP d 0 31 16 = sat 16 (rf s.mach .PWR_LDROOP d 0 31 16 + 1) ∧
      ∀ e : CompDie, e ≠ d → getClk m e = getClk s.mach e)) ∧
  (∀ (s : State) (d : CompDie), (getClk s.mach d).droop = true →
    Ends (.droopClear d) s (fun m => (getClk m d).droop = false ∧ m.now = s.mach.now ∧ m.mem = s.mach.mem ∧
      ∀ e : CompDie, e ≠ d → getClk m e = getClk s.mach e)) ∧
  (∀ (s : State) (d : CompDie), let t := countDropped s.mach d false
    rf t .PWR_LCFG d 0 31 16 ≠ 0 → rf t .PWR_LCFG d 0 31 16 < (getClk t d).frameSupp → inEmerg t d = false →
    (getClk t d).stopped = false → (getClk t d).div = 0 → 4 < (getClk t d).gear →
    Ends (.droopEsc d) s (fun m => inEmerg m d = true ∧ (getClk m d).div = ceilDiv (getClk t d).gear 4 ∧
      rf m .PWR_LDROOP d 0 15 0 = sat 16 (rf t .PWR_LDROOP d 0 15 0 + 1) ∧ rb m .PWR_EVENTS 0 0 3 = true)) ∧
  (∀ s : State, s.mach.pins.alertN = true →
    Ends .pwrAlert s (fun m => m.pins.alertN = false ∧ rb m .PWR_STATUS 0 0 13 = true ∧ m.now = s.mach.now + 128 * Config.acyc ∧
      ∀ d : CompDie, inEmerg m d = true)) ∧
  (∀ (s : State) (dt : Nat), s.mach.alm.running = true → s.mach.pins.alertN = false →
    Ends (.alertClear dt) s (fun m => m.pins.alertN = true ∧ rb m .PWR_STATUS 0 0 13 = false ∧
      ∀ d : CompDie, inEmerg m d = false ∧ (inEmerg s.mach d = true → gearOf m d = 4 ∧ nextGear m d = 4))) ∧
  (∀ (s : State) (die : Fin 32), s.mach.pins.pwrok = true → s.mach.pins.thermtripN = true →
    Ends (.thermalTrip die) s (fun m => m.pins.thermtripN = false ∧ (∀ d : CompDie, (getClk m d).stopped = true) ∧
      (∃ r, m.flt.wire = s.mach.flt.wire ++ [r] ∧ r.cls = 0xF ∧ r.sev = 3 ∧ r.die = die.val) ∧ m.bays = s.mach.bays))

/-- Energy and leases (R516 to R520): the measured energy of 25 frames is reconciled; a PSHIFT of the own power group becomes a lease,
one of another group is counted and dropped; the most critical report of another node sends one; and an ended lease returns. -/
def Obligations.EnergyAndLeases : Prop :=
  (∀ (s : State) (x : Nat), powerOn s.mach = true →
    Ends (.reconcile (some x)) s (fun m => rb m .PWR_STATUS 0 0 12 = true ∧ rf m .PWR_RECON 0 0 63 32 = sat 32 (x / 10 ^ 6) ∧
      m.pwr.period = [] ∧ m.pwr.periodFrom = s.mach.pwr.periodFrom + 25)) ∧
  (∀ s : State, powerOn s.mach = true →
    Ends (.reconcile none) s (fun m => rb m .PWR_STATUS 0 0 12 = false ∧ rb m .PWR_EVENTS 0 0 6 = true ∧ m.pwr.period = [] ∧
      m.pwr.periodFrom = s.mach.pwr.periodFrom + 25 ∧ m.pwr.energy = s.mach.pwr.energy)) ∧
  (∀ (s : State) (g q f : Nat) (l : List (Nat × Nat × Nat)), s.mach.pwr.shiftIn = (g, q, f) :: l →
    rf s.mach .PWR_GRP 0 0 63 56 ≠ 0 → g = rf s.mach .PWR_GRP 0 0 63 56 →
    Ends .pshift s (fun m => m.pwr.shiftIn = l ∧ rf m .PWR_SHIFT 0 0 19 8 = sat 12 (rf s.mach .PWR_SHIFT 0 0 19 8 + 1) ∧
      ∃ x : Lease, m.pwr.leases = s.mach.pwr.leases ++ [x] ∧ x.recv = true ∧ x.quanta = q ∧
        x.stop = f + max 1 (rf s.mach .PWR_GRP 0 0 47 32) ∧ frameNo s.mach + 1 < x.start)) ∧
  (∀ (s : State) (g q f : Nat) (l : List (Nat × Nat × Nat)), s.mach.pwr.shiftIn = (g, q, f) :: l →
    (rf s.mach .PWR_GRP 0 0 63 56 = 0 ∨ g ≠ rf s.mach .PWR_GRP 0 0 63 56) →
    Ends .pshift s (fun m => m.pwr.shiftIn = l ∧ m.pwr.leases = s.mach.pwr.leases ∧ rb m .PWR_EVENTS 0 0 5 = true ∧
      rf m .PWR_SHIFT 0 0 7 0 = sat 8 (rf s.mach .PWR_SHIFT 0 0 7 0 + 1))) ∧
  (∀ s : State, powerOn s.mach = true → s.mach.pwr.reports = [] →
    Ends .pshiftSend s (fun m => m.pwr.leases = s.mach.pwr.leases ∧ m.toks = s.mach.toks ∧ m.ports = s.mach.ports)) ∧
  (∀ (s : State), let g := rg s.mach .PWR_GRP 0 0
    powerOn s.mach = true → s.mach.pwr.lastShift = none → fld g 63 56 ≠ 0 →
    rf s.mach .PWR_PPL 0 0 35 24 + 5 * fld g 55 48 ≤ pplEff s.mach (frameNo s.mach) → ∀ r, s.mach.pwr.reports = [r] →
    r.frame + 1 = frameNo s.mach → tokRem r.crit = true → tokNode r.crit ≠ s.mach.route.nodeId → r.slack < (16 * fld g 11 0 : Nat) →
    16 * fld g 23 12 ≤ r.wait →
    Ends .pshiftSend s (fun m => m.pwr.lastShift = some (frameNo s.mach) ∧ m.pwr.reports = [] ∧
      rf m .PWR_SHIFT 0 0 31 20 = sat 12 (rf s.mach .PWR_SHIFT 0 0 31 20 + 1) ∧
      let n := frameNo s.mach + 2
      m.pwr.leases = s.mach.pwr.leases ++ [{ recv := false, quanta := fld g 55 48, start := n, stop := n + max 1 (fld g 47 32) }])) ∧
  (∀ (s : State) (x : Lease) (l : List Lease), s.mach.pwr.leases = x :: l →
    Ends .leaseEnd s (fun m => m.pwr.leases = (x :: l).filter (fun y => decide (frameNo m < y.stop)) ∧ s.mach.now ≤ m.now ∧
      m.mem = s.mach.mem))

/-! ### Work rings (chapter 19) -/

/-- What the hub writes on rings (R488, R491, R538): the oldest item of a hardware producer is written whole at PIDX, waits while its
ring is full, or is dropped and counted where the ring does not take it; a waiting item is written once there is room; a completion
goes to the completion ring of its ring; a copy that has waited a frame is dropped. -/
def Obligations.RingProducersRun : Prop :=
  (∀ (s : State) (x : HwItem) (l : List HwItem), let t := { s.mach with hwItems := l }
    s.mach.hwItems = x :: l → x.waiting = false → takesItem s.mach x.ring x.need = true →
    l.any (fun y => decide (y.ring = x.ring) && y.waiting) = false → ringOcc s.mach x.ring < ringSize s.mach x.ring →
    let u := homeWrite t (ringAddr t x.ring (pidx t x.ring) / 64) x.line fullMask false
    Ends .hwItem s (fun m => m.hwItems = u.hwItems ∧ pidx m x.ring = (pidx u x.ring + 1) % 2 ^ 32 ∧ m.mem = u.mem)) ∧
  (∀ (s : State) (x : HwItem) (l : List HwItem), s.mach.hwItems = x :: l → x.waiting = false →
    takesItem s.mach x.ring x.need = true → ringSize s.mach x.ring ≤ ringOcc s.mach x.ring →
    Ends .hwItem s (fun m => m.hwItems = l ++ [{ x with waiting := true }] ∧ m.mem = s.mach.mem ∧
      pidx m x.ring = pidx s.mach x.ring ∧ rf m .RNG_STAT x.ring 0 15 8 = sat 8 (rf s.mach .RNG_STAT x.ring 0 15 8 + 1))) ∧
  (∀ (s : State) (x : HwItem) (l : List HwItem), s.mach.hwItems = x :: l → x.waiting = false → x.counts < 4096 →
    takesItem s.mach x.ring x.need = false →
    Ends .hwItem s (fun m => m.hwItems = l ∧ m.mem = s.mach.mem ∧
      rf m .RNG_STAT x.counts 0 7 0 = sat 8 (rf s.mach .RNG_STAT x.counts 0 7 0 + 1) ∧ rb m .RNG_ERR x.counts 0 63 = true)) ∧
  (∀ (s : State) (r : RingNo) (x : HwItem) (l : List HwItem), s.mach.hwItems = x :: l → x.waiting = true → x.ring = r.val →
    takesItem s.mach r x.need = true → ringOcc s.mach r < ringSize s.mach r →
    let t := { s.mach with hwItems := l }
    let u := homeWrite t (ringAddr t r (pidx t r) / 64) x.line fullMask false
    Ends (.hwItemRoom r) s (fun m => m.hwItems = u.hwItems ∧ pidx m r = (pidx u r + 1) % 2 ^ 32 ∧ m.mem = u.mem)) ∧
  (∀ (s : State) (d : RingDone) (l : List RingDone), let c := rf s.mach .RNG_CFG d.ring 0 43 32
    s.mach.ringDone = d :: l → takesItem s.mach c 3 = true → (ringPid s.mach c).isSome = true →
    ringPid s.mach c = ringPid s.mach d.ring → s.mach.hwItems = [] → ringOcc s.mach c < ringSize s.mach c →
    let t := { s.mach with ringDone := l }
    let line := itemLine (bytesOf 4 d.idx ++ bytesOf 2 d.ring ++ bytesOf 1 d.kind ++ bytesOf 1 d.status ++ bytesOf 8 d.result ++
      bytesOf 2 d.flags ++ bytesOf 1 d.pois.toNat)
    let u := homeWrite t (ringAddr t c (pidx t c) / 64) line fullMask false
    Ends .completionItem s (fun m => m.ringDone = u.ringDone ∧ pidx m c = (pidx u c + 1) % 2 ^ 32 ∧ m.mem = u.mem)) ∧
  (∀ (s : State) (d : RingDone) (l : List RingDone), s.mach.ringDone = d :: l →
    takesItem s.mach (rf s.mach .RNG_CFG d.ring 0 43 32) 3 = false →
    Ends .completionItem s (fun m => m.ringDone = l ∧ m.hwItems = s.mach.hwItems ∧ m.mem = s.mach.mem ∧
      rf m .RNG_STAT d.ring 0 7 0 = sat 8 (rf s.mach .RNG_STAT d.ring 0 7 0 + 1))) ∧
  (∀ (s : State) (x : HwItem) (l : List HwItem) (t : Nat), s.mach.hwItems = x :: l → x.waiting = true → x.until_ = some t →
    Ends .ringCopyTimeout s (fun m => m.hwItems = l ∧ t ≤ m.now ∧
      rf m .FLT_LOST 0 0 31 0 = sat 32 (rf s.mach .FLT_LOST 0 0 31 0 + 1) ∧ m.mem = s.mach.mem))

/-- What the hub takes from rings (R489, R490, R493, R494): a descriptor or an atomic item is taken and CIDX advances; a refused read
of a word stops its ring; a malformed atomic item completes with status 8; a ring whose PEND has stood too long is flushed, and its
EPOCH advances; an armed ring with items sends its interrupt once. -/
def Obligations.RingConsumersRun : Prop :=
  (∀ (s : State) (r : RingNo) (p i : Nat) (w : Line), (getBarnMov s.mach (rf s.mach .RNG_CFG r 0 31 30)).queue.length < 64 →
    takeWord s.mach r 1 = some (.ok (p, i, w)) →
    Ends (.barnItemTake r) s (fun m => cidx m r = (cidx s.mach r + 1) % 2 ^ 32 ∧ m.mem = s.mach.mem ∧
      ((getBarnMov m (rf s.mach .RNG_CFG r 0 31 30)).queue.length = (getBarnMov s.mach (rf s.mach .RNG_CFG r 0 31 30)).queue.length + 1 ∨
       m.ringDone.length = s.mach.ringDone.length + 1))) ∧
  (∀ (s : State) (r : RingNo) (t : Mach), (getBarnMov s.mach (rf s.mach .RNG_CFG r 0 31 30)).queue.length < 64 →
    takeWord s.mach r 1 = some (.error t) →
    Ends (.barnItemTake r) s (fun m => rb m .RNG_STATE r 0 39 = true ∧ cidx m r = cidx s.mach r ∧ m.mem = s.mach.mem)) ∧
  (∀ (s : State) (r : RingNo), 64 ≤ (getBarnMov s.mach (rf s.mach .RNG_CFG r 0 31 30)).queue.length →
    Ends (.barnItemTake r) s (fun m => m = s.mach)) ∧
  (∀ (s : State) (r : RingNo) (p i : Nat) (w : Line), s.mach.vkReqs = [] → takeWord s.mach r 2 = some (.ok (p, i, w)) →
    10 ≤ fld w 67 64 →
    Ends (.atomItemTake r) s (fun m => cidx m r = (cidx s.mach r + 1) % 2 ^ 32 ∧ m.mem = s.mach.mem ∧
      m.ringDone = s.mach.ringDone ++ [{ ring := r, idx := i, kind := 2, status := 8, result := 0, flags := 0, pois := false }])) ∧
  (∀ (s : State) (r : RingNo) (p i : Nat) (w : Line), s.mach.vkReqs = [] → takeWord s.mach r 2 = some (.ok (p, i, w)) →
    fld w 67 64 < 10 → fld w 63 62 = 0 → fld w 79 69 = 0 → fld w 127 92 = 0 → fld w 511 256 = 0 → fld w 2 0 = 0 →
    fld w 61 48 = s.mach.route.nodeId →
    Ends (.atomItemTake r) s (fun m =>
      let q := ownAtomic (takeDone s.mach r) p (fld w 67 64) (if bit w 68 then 8 else 4) (fld w 47 0) (fld w 191 128) (fld w 255 192)
      m = ringEnd q.2.2.2 r i 2 q.1 q.2.1 q.2.2.1)) ∧
  (∀ (s : State) (r : RingNo), rf s.mach .RNG_CFG r 0 15 0 ≠ 0 → pend s.mach r ≠ 0 →
    Ends (.pendTimeout r) s (fun m => pend m r = 0 ∧ ringEpoch m r = (ringEpoch s.mach r + 1) % 65536 ∧
      rf m .RNG_STAT r 0 31 16 = sat 16 (rf s.mach .RNG_STAT r 0 31 16 + pend s.mach r) ∧ pidx m r = pidx s.mach r ∧
      rb m .RNG_ERR r 0 63 = true ∧ m.mem = s.mach.mem)) ∧
  (∀ (s : State) (r : RingNo), (rf s.mach .RNG_CFG r 0 15 0 = 0 ∨ pend s.mach r = 0) →
    Ends (.pendTimeout r) s (fun m => m = s.mach)) ∧
  (∀ (s : State) (r : RingNo) (c : CoreNo) (f : Nat), ringOn s.mach r = true → rb s.mach .RNG_CFG r 0 55 = true →
    rb s.mach .RNG_CIDX r 0 63 = true → ringOcc s.mach r ≠ 0 → imsicFile s.mach (rf s.mach .RNG_MSI r 0 47 2 * 4) = some (c.val, f) →
    rf s.mach .RNG_MSI r 0 55 48 ≠ 0 → rf s.mach .RNG_MSI r 0 47 2 * 4 % 0x1000 = 0 →
    Ends (.ringMsi r) s (fun m => rb m .RNG_CIDX r 0 63 = false ∧ cidx m r = cidx s.mach r ∧
      smapGet false (getCore m c).eip (f * 256 + rf s.mach .RNG_MSI r 0 55 48) = true)) ∧
  (∀ (s : State) (r : RingNo), (ringOn s.mach r = false ∨ rb s.mach .RNG_CIDX r 0 63 = false ∨ ringOcc s.mach r = 0) →
    Ends (.ringMsi r) s (fun m => m = s.mach))

/-! ### Faults (chapter 21) -/

/-- Records (R528, R529, R538 to R540): a record of the hub whose key is not held enters the log at HEAD, or is lost and counted where
the log is full; one whose key is held is counted there; a source of records does what it does first; and the end of a window frees
the keys. -/
def Obligations.FaultsRecorded : Prop :=
  (∀ (s : State) (r : FltRec) (l : List FltRec), s.mach.flt.wire = r :: l → r.die = 0 → s.mach.flt.hubKeys.any (sameKey r) = false →
    logLen s.mach < 256 →
    Ends (.faultRecord .raised) s (fun m =>
      let h := rf s.mach .FLT_LOGCTL 0 0 24 16
      m.flt.wire = l ∧ rf m .FLT_LOGCTL 0 0 24 16 = (h + 1) % 512 ∧ m.flt.seqNo = (s.mach.flt.seqNo + 1) % 65536 ∧
      m.flt.lostSince = 0 ∧ m.mem = s.mach.mem ∧
      ∀ k, k < 4 → rg m .FLT_LOG 0 (4 * (h % 256) + k) = r.word s.mach.flt.seqNo s.mach.flt.lostSince k)) ∧
  (∀ (s : State) (r : FltRec) (l : List FltRec), s.mach.flt.wire = r :: l → r.die = 0 → s.mach.flt.hubKeys.any (sameKey r) = false →
    256 ≤ logLen s.mach →
    Ends (.faultRecord .raised) s (fun m => m.flt.wire = l ∧ rf m .FLT_LOGCTL 0 0 24 16 = rf s.mach .FLT_LOGCTL 0 0 24 16 ∧
      rf m .FLT_LOST 0 0 63 32 = sat 32 (rf s.mach .FLT_LOST 0 0 63 32 + 1) ∧ m.flt.lostSince = sat 16 (s.mach.flt.lostSince + 1))) ∧
  (∀ (s : State) (r : FltRec) (l : List FltRec), s.mach.flt.wire = r :: l → r.die = 0 → s.mach.flt.hubKeys.any (sameKey r) = true →
    Ends (.faultRecord .raised) s (fun m => m.flt.wire = l ∧ m.flt.hubKeys = addKey s.mach.flt.hubKeys r 1 ∧
      m.flt.seqNo = s.mach.flt.seqNo ∧ rg m .FLT_LOGCTL 0 0 = rg s.mach .FLT_LOGCTL 0 0)) ∧
  (∀ s : State, s.mach.flt.wire = [] → Ends (.faultRecord .raised) s (fun m => m = s.mach)) ∧
  (∀ (s : State) (b : BayNo) (i : Fin 2048), Ends (.faultRecord (.semLost b i)) s (fun m => semCount m b i = 0 ∧
    (∀ j, j ≠ i.val → semCount m b j = semCount s.mach b j) ∧ m.mem = s.mach.mem)) ∧
  (∀ (s : State) (b : BayNo) (c : Fin 1024), Ends (.faultRecord (.tokenLost b c)) s (fun m =>
    (getChan m b c).count = 0 ∧ (getChan m b c).debt = 0 ∧ m.mem = s.mach.mem)) ∧
  (∀ (s : State) (g : Fin 432), Ends (.faultRecord (.hubTable (.ggran g))) s (fun m => rb m .PRT_GGRAN 0 g 63 = false ∧
    m.mem = s.mach.mem)) ∧
  (∀ s : State, s.mach.alm.running = true →
    Ends .windowEndSummary s (fun m => m.flt.hubKeys = [] ∧ m.flt.dieKeys = [] ∧ m.flt.wire = s.mach.flt.wire ∧ m.mem = s.mach.mem))

/-- Repair of shared weights (R284, R532 to R534): a request for a poisoned line of a locked entry with a golden source is queued, at
most 32 of them; a golden read that fails is retried after REPAIR_RETRY frames, at most three times; one that succeeds writes the line
whole; and a clean readback ends the request. -/
def Obligations.RepairsRun : Prop :=
  (∀ (s : State) (k : Fin 12) (n : Fin 32) (line : Nat), let a := shrA s.mach n
    let off := fld a 22 0 * 65536 + line * 64
    bit a 63 = true → (fld a 61 60 = 1 ∨ fld a 61 60 = 2) → inShr s.mach n off = true → (pcOf off).stack = k.val →
    linePois s.mach ((s.mach.cfg.grnBase + off) / 64) = true → s.mach.flt.dead.contains ((s.mach.cfg.grnBase + off) / 64) = false →
    s.mach.flt.repairs.any (fun r => decide (r.line = (s.mach.cfg.grnBase + off) / 64)) = false → s.mach.flt.repairs.length < 32 →
    Ends (.repairRequest k n line) s (fun m => m.flt.repairs.length = s.mach.flt.repairs.length + 1 ∧
      rf m .FLT_REPAIR 0 0 63 48 = s.mach.flt.repairs.length + 1 ∧ m.mem = s.mach.mem ∧
      ∃ r ∈ m.flt.repairs, r.line = (s.mach.cfg.grnBase + off) / 64 ∧ r.gold = fld (shrB s.mach n) 61 0 + line * 64)) ∧
  (∀ (s : State) (k : Fin 12) (n : Fin 32) (line : Nat), bit (shrA s.mach n) 63 = false →
    Ends (.repairRequest k n line) s (fun m => m = s.mach)) ∧
  (∀ (s : State) (r : Repair) (l : List Repair), s.mach.flt.repairs = r :: l → r.reading = true → r.gkind = 1 → r.retries < 3 →
    Ends (.repairReadReturn true) s (fun m => m.mem = s.mach.mem ∧ ∃ q : Repair, m.flt.repairs = q :: l ∧ q.line = r.line ∧
      q.reading = false ∧ q.retries = r.retries + 1 ∧
      q.retryAt = some (s.mach.now + max 1 (rf s.mach .FLT_CFG 0 0 23 16) * 65536 * Config.acyc))) ∧
  (∀ (s : State) (r : Repair) (l : List Repair) (bs : List Byte) (t : Mach) (n : Fin 32), s.mach.flt.repairs = r :: l →
    r.reading = true → r.gkind = 1 → readAs s.mach 0x1BE none 0 (r.gold % 2 ^ 48) 64 = (some (bs, false), t) →
    shrOf t (r.line * 64 - t.cfg.grnBase) = some n.val → bit (shrA t n) 62 = true →
    Ends (.repairReadReturn false) s (fun m => m.flt.repairs = { r with reading := false, written := true, answer := none } :: l ∧
      m.mem = (homeWrite (countBytes t (r.line * 64) 64 .write ownPkg) r.line (itemLine bs) fullMask false).mem)) ∧
  (∀ (s : State) (r : Repair) (l : List Repair) (t : Nat), s.mach.flt.repairs = r :: l → r.retryAt = some t →
    Ends .repairRetry s (fun m => t ≤ m.now ∧ m.mem = s.mach.mem ∧ ∃ q : Repair, m.flt.repairs = q :: l ∧ q.line = r.line ∧
      q.reading = true ∧ q.retryAt = none)) ∧
  (∀ (s : State) (r : Repair) (l : List Repair), s.mach.flt.repairs = r :: l → r.written = true → l.length < 2 ^ 16 →
    Ends (.repairReadback true) s (fun m => m.flt.repairs.length = l.length ∧ rf m .FLT_REPAIR 0 0 63 48 = l.length ∧
      rf m .FLT_REPAIR 0 0 47 32 = sat 16 (rf s.mach .FLT_REPAIR 0 0 47 32 + 1) ∧ m.mem = s.mach.mem))

/-- Links and the bell path (R535, R544 to R547): retries above 1,024 in a frame raise a record; a die answers a ping and is ALIVE, the
fourth miss in a row clears it; a die without progress reports itself wedged; a break of the ring leaves the dies it cuts off not
alive; a frame with a bad CRC is resent and counted. -/
def Obligations.LinksAndBell : Prop :=
  (∀ (s : State) (die : Fin 32) (link : Fin 6) (n k : Nat), validDie die = true → n ≤ 1024 → k < 16 →
    Ends (.linkRetryLimit die link n k) s (fun m => m.flt.wire = s.mach.flt.wire ∧ m.mem = s.mach.mem)) ∧
  (∀ (s : State) (die : Fin 32) (link : Fin 6) (n k : Nat), validDie die = true → 1024 < n → k < 16 →
    Ends (.linkRetryLimit die link n k) s (fun m => ∃ r, m.flt.wire = s.mach.flt.wire ++ [r] ∧ r.cls = 0xB ∧ r.sev = 1 ∧
      r.region = die.val * 256 + link.val)) ∧
  (∀ (s : State) (a : BitVec 32), Ends (.bellPing a) s (fun m =>
    (∀ d ∈ dieIds, a.getLsbD d = true → rb m .FLT_BELL 0 0 d = true ∧ smapGet 0 m.flt.missed d = 0) ∧
    (∀ d ∈ dieIds, a.getLsbD d = false → smapGet 0 s.mach.flt.missed d = 3 → rb m .FLT_BELL 0 0 d = false) ∧
    (∀ d ∈ dieIds, a.getLsbD d = false → smapGet 0 s.mach.flt.missed d < 3 → rb m .FLT_BELL 0 0 d = rb s.mach .FLT_BELL 0 0 d) ∧
    rb m .FLT_STATUS 0 0 2 = dieIds.any (fun d => !(rb m .FLT_BELL 0 0 d)))) ∧
  (∀ (s : State) (die : Fin 32), rf s.mach .FLT_CFG 0 0 31 24 ≠ 0 → validDie die = true →
    Ends (.wedgeTimeout die) s (fun m => ∃ r, m.flt.wire = s.mach.flt.wire ++ [r] ∧ r.cls = 0x13 ∧ r.sub = 0xF3 ∧ r.die = die.val)) ∧
  (∀ (s : State) (die : Fin 32), rf s.mach .FLT_CFG 0 0 31 24 = 0 → Ends (.wedgeTimeout die) s (fun m => m = s.mach)) ∧
  (∀ (s : State) (u : BitVec 32), Ends (.bellBreak u) s (fun m => rb m .FLT_BELL 0 0 32 = true ∧
    (∀ d ∈ dieIds, rb m .FLT_BELL 0 0 d = (rb s.mach .FLT_BELL 0 0 d && !u.getLsbD d)) ∧
    ∃ r, m.flt.wire = s.mach.flt.wire ++ [r] ∧ r.cls = 0x13 ∧ r.sev = 1)) ∧
  (∀ s : State, Ends (.bellFrame true) s (fun m => m = s.mach)) ∧
  (∀ s : State, Ends (.bellFrame false) s (fun m => rg m .CNT_AO 0 5 = rg s.mach .CNT_AO 0 5 + 1 ∧ m.units = s.mach.units))

/-! ### Security: keys, grants and SPDM (chapter 18) -/

/-- The SPDM responder (R474, R475; the message layout is PRESUMED from DSP0274, see the log): a version request starts the connection
anew, capabilities and algorithms follow in their order, and the digests, the certificate chain, the challenge and the measurements
are answered after them; a request out of order is answered UnexpectedRequest; every response is counted. -/
def Obligations.SpdmAnswers : Prop :=
  let counted (s m : Mach) : Prop := rf m .SEC_STATUS 0 0 63 32 = sat 32 (rf s .SEC_STATUS 0 0 63 32 + 1) ∧ m.mem = s.mem
  let ready (s : Mach) (req : List Byte) (code len : Nat) : Prop := isDone s = true ∧ 3 ≤ s.spdm.stage ∧ cutNat req 1 1 = code ∧
    cutNat req 0 1 = s.spdm.ver ∧ len ≤ req.length
  (∀ (s : State) (req : List Byte), cutNat req 1 1 = 0x84 → 4 ≤ req.length → cutNat req 0 1 = 0x10 →
    Ends (.getVersion req) s (fun m => m.spdm.stage = 1 ∧ m.spdm.certs = [] ∧
      m.spdm.out = bytesOf 6 0x020000000410 ++ bytesOf 2 0x1200 ++ bytesOf 2 0x1300 ∧ counted s.mach m)) ∧
  (∀ (s : State) (req : List Byte), cutNat req 1 1 = 0xE1 → 20 ≤ req.length → isDone s.mach = true → s.mach.spdm.stage = 1 →
    (cutNat req 0 1 = 0x12 ∨ cutNat req 0 1 = 0x13) →
    Ends (.getCapabilities req) s (fun m => m.spdm.stage = 2 ∧ m.spdm.ver = cutNat req 0 1 ∧
      m.spdm.out.take 2 = bytesOf 1 (cutNat req 0 1) ++ bytesOf 1 0x61 ∧ counted s.mach m)) ∧
  (∀ (s : State) (req : List Byte), cutNat req 1 1 = 0xE3 → 32 ≤ req.length → isDone s.mach = true → s.mach.spdm.stage = 2 →
    cutNat req 0 1 = s.mach.spdm.ver →
    Ends (.negotiateAlgorithms req) s (fun m => m.spdm.stage = 3 ∧ counted s.mach m ∧
      m.spdm.out.take 8 = bytesOf 1 s.mach.spdm.ver ++ bytesOf 1 0x63 ++ bytesOf 1 0 ++ bytesOf 1 0 ++ bytesOf 2 36 ++
        bytesOf 1 (cutNat req 6 1 &&& 1) ++ bytesOf 1 0)) ∧
  (∀ (s : State) (req : List Byte), ready s.mach req 0x81 4 →
    Ends (.getDigests req) s (fun m => counted s.mach m ∧ m.spdm.meas = [] ∧
      m.spdm.out.drop 4 = sha384 (slotChain s.mach) ∧ m.spdm.stage = s.mach.spdm.stage)) ∧
  (∀ (s : State) (req : List Byte), ready s.mach req 0x82 8 → cutNat req 2 1 % 16 = 0 →
    cutNat req 4 2 < (slotChain s.mach).length →
    Ends (.getCertificate req) s (fun m => counted s.mach m ∧
      m.spdm.out.drop 8 = ((slotChain s.mach).drop (cutNat req 4 2)).take (cutNat req 6 2))) ∧
  (∀ (s : State) (req : List Byte), ready s.mach req 0x83 44 → cutNat req 2 1 % 16 = 0 →
    Ends (.challenge req) s (fun m => counted s.mach m ∧ m.spdm.meas = [] ∧ ∃ nonce rest : List Byte, nonce.length = 32 ∧
      m.spdm.out = bytesOf 1 s.mach.spdm.ver ++ bytesOf 1 0x03 ++ bytesOf 1 0 ++ bytesOf 1 1 ++ sha384 (slotChain s.mach) ++ nonce ++ rest)) ∧
  (∀ (s : State) (req : List Byte), ready s.mach req 0xE0 12 → cutNat req 2 1 % 2 = 0 → cutNat req 3 1 = 2 →
    Ends (.getMeasurements req) s (fun m => counted s.mach m ∧ ∃ rest : List Byte,
      m.spdm.out = bytesOf 1 s.mach.spdm.ver ++ bytesOf 1 0x60 ++ bytesOf 1 0 ++ bytesOf 1 0 ++ bytesOf 1 1 ++
        bytesOf 3 (measEntry s.mach 2).length ++ measEntry s.mach 2 ++ rest)) ∧
  (∀ (s : State) (req : List Byte), cutNat req 1 1 = 0xE0 → 2 ≤ req.length → isDone s.mach = true → s.mach.spdm.stage < 3 →
    Ends (.getMeasurements req) s (fun m => counted s.mach m ∧ m.spdm.stage = s.mach.spdm.stage ∧
      m.spdm.out.drop 1 = bytesOf 1 0x7F ++ bytesOf 1 4 ++ bytesOf 1 0))

/-! ### External interfaces (chapter 24) -/

/-- PCI Express (R601 to R606): a link comes up at a width and rate its port allows; a read and a write of main memory by a device on a
link that is up are served under the rights of its function group, and a request that no group covers is unsupported; a write to an
IMSIC file makes its identity pending; a TLP that fails integrity is reported. -/
def Obligations.PcieServes : Prop :=
  (∀ (s : State) (q l : Fin 4) (width : Nat) (rate : Fin 6) (flit rev : Bool), widthWf width = true → phase s.mach ≠ 0xF →
    width ≤ linkLanes s.mach q l → rate.val ≤ fld (pcieWord s.mach q 0) 7 5 →
    Ends (.pcieLinkTraining q l width rate flit rev) s (fun m => linkUp m q l = true ∧ rf m .PCI_LINK q l 5 1 = width ∧
      rf m .PCI_LINK q l 8 6 = rate.val ∧ rb m .PCI_LINK q l 9 = (flit || decide (rate.val = 5)) ∧ rb m .PCI_LINK q l 10 = rev ∧
      m.units = s.mach.units)) ∧
  (∀ (s : State) (q l : Fin 4) (width : Nat) (rate : Fin 6) (flit rev : Bool), widthWf width = true →
    (linkLanes s.mach q l < width ∨ fld (pcieWord s.mach q 0) 7 5 < rate.val) →
    Ends (.pcieLinkTraining q l width rate flit rev) s (fun m => m = s.mach)) ∧
  (∀ (s : State) (q l : Fin 4) (r : PcieReq) (n k a o : Nat) (d : List Byte) (p : Bool) (t : Mach), r.op = .read n → r.op.wf = true →
    linkUp s.mach q l = true → pcieGroup s.mach q r = some k → pcieAddr s.mach q r = some a → region s.mach a = .granary o →
    readAs s.mach (0x1C0 + 8 * q + k) none 0 a n = (some (d, p), t) →
    Ends (.pcieDeviceRequest q l r) s (fun m => m.pcieOut = some (r.tag, 0, d, p) ∧ m.mem = t.mem)) ∧
  (∀ (s : State) (q l : Fin 4) (r : PcieReq) (d : List Byte) (p : Bool) (k a o : Nat) (t : Mach), r.op = .write d p → r.op.wf = true →
    linkUp s.mach q l = true → pcieGroup s.mach q r = some k → pcieAddr s.mach q r = some a → region s.mach a = .granary o →
    writeAs (bumpAo s.mach (barnDieId q) 5 (ceilDiv d.length 64)) (0x1C0 + 8 * q + k) none 0 a d p = (true, t) →
    Ends (.pcieDeviceRequest q l r) s (fun m => m = t)) ∧
  (∀ (s : State) (q l : Fin 4) (r : PcieReq) (n : Nat), r.op = .read n → r.op.wf = true → linkUp s.mach q l = true →
    (pcieGroup s.mach q r = none ∨ pcieAddr s.mach q r = none) →
    Ends (.pcieDeviceRequest q l r) s (fun m => m = { s.mach with pcieOut := some (r.tag, 1, [], false) })) ∧
  (∀ (s : State) (q l : Fin 4) (r : PcieReq), r.op.wf = true → linkUp s.mach q l = false →
    Ends (.pcieDeviceRequest q l r) s (fun m => m = s.mach)) ∧
  (∀ (s : State) (q l : Fin 4) (r : PcieReq) (d : List Byte) (p : Bool) (k a x y : Nat) (z : Option Nat) (c : CoreNo) (f : Nat),
    r.op = .write d p → r.op.wf = true → d.length = 4 → linkUp s.mach q l = true → pcieGroup s.mach q r = some k →
    pcieAddr s.mach q r = some a → (∃ g h, region s.mach a = .imsic x g h) → z = (checkedAs s.mach (0x1C0 + 8 * q + k) none).pid →
    z.isSome = true → corePid s.mach x = z → imsicFile s.mach a = some (c.val, f) → y = ofBytes d → 0 < y → y ≤ 255 → a % 0x1000 = 0 →
    Ends (.msi q l r) s (fun m => smapGet false (getCore m c).eip (f * 256 + y) = true ∧ m.mem = s.mach.mem)) ∧
  (∀ (s : State) (q l : Fin 4), rb s.mach .PCI_IDECTL q l 8 = true → linkUp s.mach q l = true →
    Ends (.ideFail q l) s (fun m => rb m .PCI_LINK q l 11 = true ∧
      ∃ r, m.flt.wire = s.mach.flt.wire ++ [r] ∧ r.blk = 0xC ∧ r.die = barnDieId q)) ∧
  (∀ (s : State) (q l : Fin 4), linkUp s.mach q l = false → Ends (.ideFail q l) s (fun m => m = s.mach))

/-- Management, DDR5 temperature and JTAG (R598, R609 to R613): the SMBus fallback and the return to I3C, addresses and endpoint IDs,
sensor readings, vendor messages through the debug access path or unroutable, refresh above 85 °C, and the instructions of the TAP. -/
def Obligations.ManagementServes : Prop :=
  (∀ s : State, Ends .smbusFallback s (fun m => rb m .MGT_STATUS 0 0 16 = true ∧
    ∃ r, m.flt.wire = s.mach.flt.wire ++ [r] ∧ r.blk = 0x18)) ∧
  (∀ s : State, bit s.mach.cfg.mgt 8 = false → Ends .i3cReturn s (fun m => rb m .MGT_STATUS 0 0 16 = false ∧ m.units = s.mach.units)) ∧
  (∀ s : State, bit s.mach.cfg.mgt 8 = true → Ends .i3cReturn s (fun m => m = s.mach)) ∧
  (∀ (s : State) (a : Fin 128), rb s.mach .MGT_STATUS 0 0 16 = false →
    Ends (.dynamicAddressAssignment a) s (fun m => rf m .MGT_STATUS 0 0 6 0 = a.val ∧ rb m .MGT_STATUS 0 0 16 = false)) ∧
  (∀ (s : State) (e : Byte), e.toNat ≠ 0 → e.toNat ≠ 0xFF → Ends (.mctpControlMessage e) s (fun m =>
    m = { s.mach with mgt := { s.mach.mgt with eid := e.toNat } })) ∧
  (∀ (s : State) (k : Fin 12), Ends (.pldmRequest (.stackTemp k)) s (fun m =>
    m = { s.mach with mgt := { s.mach.mgt with reading := some (sext 16 (rf s.mach .PWR_STEMP 0 k 15 0)) } })) ∧
  (∀ s : State, Ends (.pldmRequest .phase) s (fun m => m.mgt.reading = some (phase s.mach : Int) ∧ m.csr = s.mach.csr)) ∧
  (∀ (s : State) (x : VendorMsg), x.node = s.mach.route.nodeId → isDone s.mach = true → scopeOk s.mach x.addr x.data = false →
    Ends (.mctpVendorMessage x) s (fun m => m = { s.mach with mgt := { s.mach.mgt with answer := some (errNotGranted, 0) } })) ∧
  (∀ (s : State) (x : VendorMsg) (b : Blk) (u : Nat) (r : RegRef), x.node = s.mach.route.nodeId → x.data = none →
    isDone s.mach = true → scopeOk s.mach x.addr none = true → x.addr % 8 = 0 → CspLet s.mach 0 x.addr →
    regAt x.addr = some (b, u, some r) → blkPresent s.mach b u = true →
    Ends (.mctpVendorMessage x) s (fun m => m.mgt.answer = some (0, regView (settleBlk s.mach b u) r) ∧ m.mem = (settleBlk s.mach b u).mem)) ∧
  (∀ (s : State) (ch : Fin 16) (t : Int), rb s.mach .DDR_STATUS ch 0 0 = true →
    Ends (.dimmTemperatureReport ch t) s (fun m => rb m .DDR_STATUS ch 0 2 = decide (340 < t) ∧ rb m .DDR_STATUS ch 0 0 = true ∧
      m.units = s.mach.units)) ∧
  (∀ (s : State) (dr : Word), Ends (.jtagInstruction 0x10 dr) s (fun m => m.dbg.jtagIr = 0x10 ∧ m.dbg.jtagDr = 0x71 ∧ m.dm = s.mach.dm)) ∧
  (∀ (s : State) (dr : Word), fld dr 1 0 = 2 → fld dr 40 34 = 0x10 → bit dr 2 = false →
    Ends (.jtagInstruction 0x11 dr) s (fun m => m.dm = Dm.zero ∧ m.mem = s.mach.mem ∧ m.csr = s.mach.csr)) ∧
  (∀ (s : State) (dr : Word), Ends (.jtagInstruction 0xFF dr) s (fun m => m.dbg.jtagIr = 0xFF ∧ m.csr = s.mach.csr ∧ m.dm = s.mach.dm))
end

