-- ==== Sys2Proof/Laws/Bits.lean ====
section
/-! SUPPORT. Laws of bit fields: a field reads what was set in it, and no other field changes. -/

namespace Sys2Proof.Machine

theorem maskOf_getLsbD (n hi lo i : Nat) (h : lo ≤ hi + 1) :
    (maskOf n hi lo).getLsbD i = (decide (i < n) && decide (lo ≤ i) && decide (i ≤ hi)) := by
  unfold maskOf
  rw [BitVec.getLsbD_ofNat, Nat.testBit_mul_two_pow, Nat.testBit_two_pow_sub_one]
  by_cases h1 : lo ≤ i <;> by_cases h2 : i ≤ hi <;> simp [h1, h2] <;> omega

/-- Bit `i` of a word after a field is set. -/
theorem setFld_getLsbD {n : Nat} (w : BitVec n) (hi lo v i : Nat) (h : lo ≤ hi + 1) :
    (setFld w hi lo v).getLsbD i = if lo ≤ i ∧ i ≤ hi ∧ i < n then v.testBit (i - lo) else w.getLsbD i := by
  unfold setFld
  rw [BitVec.getLsbD_or, BitVec.getLsbD_and, BitVec.getLsbD_not, maskOf_getLsbD n hi lo i h, BitVec.getLsbD_ofNat,
    Nat.testBit_mul_two_pow, Nat.testBit_mod_two_pow]
  by_cases h0 : i < n
  · by_cases h1 : lo ≤ i <;> by_cases h2 : i ≤ hi
    · have h3 : i - lo < hi + 1 - lo := by omega
      simp [h0, h1, h2, h3]
    · have h3 : ¬ (i - lo < hi + 1 - lo) := by omega
      simp [h0, h1, h2, h3]
    · simp [h0, h1]
    · simp [h0, h1]
  · have hw : w.getLsbD i = false := BitVec.getLsbD_of_ge w i (by omega)
    simp [h0, hw]

theorem fld_testBit {n : Nat} (w : BitVec n) (hi lo i : Nat) :
    (fld w hi lo).testBit i = (decide (i < hi + 1 - lo) && w.getLsbD (lo + i)) := by
  unfold fld
  rw [Nat.testBit_mod_two_pow, Nat.testBit_div_two_pow]
  rw [BitVec.getLsbD, Nat.add_comm i lo]

/-- A field reads the value that was set in it, cut to its width. -/
theorem fld_setFld_same {n : Nat} (w : BitVec n) (hi lo v : Nat) (h : lo ≤ hi + 1) (hn : hi < n) :
    fld (setFld w hi lo v) hi lo = v % 2 ^ (hi + 1 - lo) := by
  apply Nat.eq_of_testBit_eq
  intro i
  rw [fld_testBit, setFld_getLsbD w hi lo v (lo + i) h, Nat.testBit_mod_two_pow]
  by_cases hi' : i < hi + 1 - lo
  · rw [if_pos (by omega)]
    have e : lo + i - lo = i := by omega
    rw [e]
  · simp [hi']

/-- Setting a field leaves a field with no bit in common as it was. -/
theorem fld_setFld_other {n : Nat} (w : BitVec n) (hi lo v hi' lo' : Nat) (h : lo ≤ hi + 1) (hd : hi' < lo ∨ hi < lo') :
    fld (setFld w hi lo v) hi' lo' = fld w hi' lo' := by
  apply Nat.eq_of_testBit_eq
  intro i
  rw [fld_testBit, fld_testBit, setFld_getLsbD w hi lo v (lo' + i) h]
  by_cases hb : i < hi' + 1 - lo'
  · rw [if_neg (by omega)]
  · simp [hb]

theorem bit_setBit_same {n : Nat} (w : BitVec n) (i : Nat) (b : Bool) (h : i < n) : bit (setBit w i b) i = b := by
  unfold bit setBit
  rw [setFld_getLsbD w i i b.toNat i (by omega), if_pos (by omega)]
  cases b <;> simp

theorem bit_setBit_other {n : Nat} (w : BitVec n) (i j : Nat) (b : Bool) (h : i ≠ j) : bit (setBit w i b) j = bit w j := by
  unfold bit setBit
  rw [setFld_getLsbD w i i b.toNat j (by omega), if_neg (by omega)]

/-- Setting a field leaves a bit outside it as it was. -/
theorem bit_setFld_other {n : Nat} (w : BitVec n) (hi lo v j : Nat) (h : lo ≤ hi + 1) (hd : j < lo ∨ hi < j) :
    bit (setFld w hi lo v) j = bit w j := by
  unfold bit
  rw [setFld_getLsbD w hi lo v j h, if_neg (by omega)]

/-- A bit as a one-bit field. -/
theorem bit_eq_fld {n : Nat} (w : BitVec n) (i : Nat) : (bit w i).toNat = fld w i i := by
  apply Nat.eq_of_testBit_eq
  intro j
  rw [fld_testBit]
  unfold bit
  cases j with
  | zero => simp; cases w.getLsbD i <;> rfl
  | succ j => cases w.getLsbD i <;> simp [Nat.testBit_succ]

end Sys2Proof.Machine
end

