-- ==== Sys2Proof/Laws/Store.lean ====
section
/-! SUPPORT. Laws of the sparse stores: what a key reads as after a write or a clear, and that every operation keeps the
canonical form (keys strictly rising, no value equal to its default). -/

namespace Sys2Proof.Machine

theorem smapGet_filter {α : Type} (d : α) (m : SMap α) (f : Nat → Bool) (a : Nat) :
    smapGet d (m.filter (fun p => f p.1)) a = if f a then smapGet d m a else d := by
  induction m with
  | nil => simp [smapGet]
  | cons p m ih =>
    obtain ⟨k, w⟩ := p
    simp only [List.filter_cons, smapGet]
    by_cases hk : f k = true
    · simp only [hk, if_true, smapGet, ih]
      by_cases ha : a = k
      · subst ha; simp [hk]
      · simp [ha]
    · rw [if_neg hk, ih]
      by_cases ha : a = k
      · subst ha; rw [if_neg hk, if_neg hk]
      · rw [if_neg ha]

theorem smapGet_smapIns {α : Type} (d : α) (m : SMap α) (a b : Nat) (v : α) :
    smapGet d (smapIns m a v) b = if b = a then v else smapGet d m b := by
  induction m with
  | nil => simp only [smapIns, smapGet]
  | cons p m ih =>
    obtain ⟨k, w⟩ := p
    simp only [smapIns]
    split
    · simp only [smapGet]
    · split
      · rename_i h; subst h
        simp only [smapGet]
        split <;> rfl
      · rename_i hne
        simp only [smapGet, ih]
        by_cases hb : b = k
        · subst hb
          rw [if_pos rfl, if_neg (fun h => hne h.symm), if_pos rfl]
        · rw [if_neg hb, if_neg hb]

/-- What every key reads as after a write. -/
theorem smapGet_smapPut {α : Type} [DecidableEq α] (d : α) (m : SMap α) (a b : Nat) (v : α) :
    smapGet d (smapPut d m a v) b = if b = a then v else smapGet d m b := by
  unfold smapPut
  split
  · rename_i hv
    rw [smapGet_filter d m (fun k => !(decide (k = a))) b]
    by_cases hb : b = a <;> simp [hb, hv]
  · exact smapGet_smapIns d m a b v

@[simp] theorem smapGet_smapPut_same {α : Type} [DecidableEq α] (d : α) (m : SMap α) (a : Nat) (v : α) :
    smapGet d (smapPut d m a v) a = v := by rw [smapGet_smapPut, if_pos rfl]

/-- Another key reads as before, under whatever default. -/
theorem smapGet_smapPut_other {α : Type} [DecidableEq α] (d e : α) (m : SMap α) (a b : Nat) (v : α) (h : b ≠ a) :
    smapGet e (smapPut d m a v) b = smapGet e m b := by
  unfold smapPut
  split
  · rw [smapGet_filter e m (fun k => !(decide (k = a))) b, if_pos (by simp [h])]
  · rw [smapGet_smapIns, if_neg h]

/-- What every key reads as after a clear. -/
theorem smapGet_smapClear {α : Type} (d : α) (m : SMap α) (lo n a : Nat) :
    smapGet d (smapClear m lo n) a = if lo ≤ a ∧ a < lo + n then d else smapGet d m a := by
  unfold smapClear
  rw [smapGet_filter d m (fun k => !(decide (lo ≤ k) && decide (k < lo + n))) a]
  by_cases h : lo ≤ a ∧ a < lo + n
  · rw [if_pos h, if_neg (by simp [h.1, h.2])]
  · rw [if_neg h, if_pos]
    simp only [Bool.not_eq_true', Bool.and_eq_false_iff, decide_eq_false_iff_not]
    omega

/-! ### The canonical form -/

theorem smapIns_above {α : Type} (m : SMap α) (a n : Nat) (v : α) (hn : n < a) (h : ∀ p ∈ m, n < p.1) :
    ∀ p ∈ smapIns m a v, n < p.1 := by
  induction m with
  | nil => intro p hp; simp only [smapIns, List.mem_singleton] at hp; subst hp; exact hn
  | cons q m ih =>
    intro p hp
    have hm : ∀ r ∈ m, n < r.1 := fun r hr => h r (by simp [hr])
    simp only [smapIns] at hp
    split at hp
    · rcases List.mem_cons.1 hp with rfl | hp
      · exact hn
      · exact h p hp
    · split at hp
      · rcases List.mem_cons.1 hp with rfl | hp
        · exact hn
        · exact hm p hp
      · rcases List.mem_cons.1 hp with rfl | hp
        · exact h _ (by simp)
        · exact ih hm p hp

theorem smapIns_sorted {α : Type} (m : SMap α) (a : Nat) (v : α) (hw : m.Pairwise (fun p q => p.1 < q.1)) :
    (smapIns m a v).Pairwise (fun p q => p.1 < q.1) := by
  induction m with
  | nil => simp [smapIns]
  | cons p m ih =>
    obtain ⟨k, w⟩ := p
    have hw0 := hw
    rw [List.pairwise_cons] at hw
    simp only [smapIns]
    split
    · rename_i hlt
      rw [List.pairwise_cons]
      refine ⟨fun q hq => ?_, hw0⟩
      rcases List.mem_cons.1 hq with rfl | hq
      · exact hlt
      · have := hw.1 q hq; simp only at this ⊢; omega
    · split
      · rename_i heq
        subst heq
        rw [List.pairwise_cons]; exact ⟨hw.1, hw.2⟩
      · rw [List.pairwise_cons]
        exact ⟨smapIns_above m a k v (by omega) hw.1, ih hw.2⟩

theorem smapIns_values {α : Type} (d : Nat → α) (m : SMap α) (a : Nat) (v : α) (hv : v ≠ d a) (h : ∀ p ∈ m, p.2 ≠ d p.1) :
    ∀ p ∈ smapIns m a v, p.2 ≠ d p.1 := by
  induction m with
  | nil => intro p hp; simp only [smapIns, List.mem_singleton] at hp; subst hp; exact hv
  | cons q m ih =>
    intro p hp
    have hm : ∀ r ∈ m, r.2 ≠ d r.1 := fun r hr => h r (by simp [hr])
    simp only [smapIns] at hp
    split at hp
    · rcases List.mem_cons.1 hp with rfl | hp
      · exact hv
      · exact h p hp
    · split at hp
      · rcases List.mem_cons.1 hp with rfl | hp
        · exact hv
        · exact hm p hp
      · rcases List.mem_cons.1 hp with rfl | hp
        · exact h _ (by simp)
        · exact ih hm p hp

/-- The canonical form, spelled out. -/
theorem smapWf_iff {α : Type} [DecidableEq α] (d : Nat → α) (m : SMap α) :
    smapWf d m = true ↔ m.Pairwise (fun p q => p.1 < q.1) ∧ ∀ p ∈ m, p.2 ≠ d p.1 := by
  simp only [smapWf, Bool.and_eq_true, decide_eq_true_eq, List.all_eq_true, Bool.not_eq_true', decide_eq_false_iff_not,
    ne_eq]

/-- A write keeps the canonical form, with the default of the key written. -/
theorem smapWf_smapPut {α : Type} [DecidableEq α] (d : Nat → α) (m : SMap α) (a : Nat) (v : α)
    (h : smapWf d m = true) : smapWf d (smapPut (d a) m a v) = true := by
  rw [smapWf_iff] at h ⊢
  unfold smapPut
  split
  · exact ⟨h.1.filter _, fun p hp => h.2 p (List.mem_of_mem_filter hp)⟩
  · rename_i hv
    exact ⟨smapIns_sorted m a v h.1, smapIns_values d m a v hv h.2⟩

/-- A clear keeps the canonical form. -/
theorem smapWf_smapClear {α : Type} [DecidableEq α] (d : Nat → α) (m : SMap α) (lo n : Nat)
    (h : smapWf d m = true) : smapWf d (smapClear m lo n) = true := by
  rw [smapWf_iff] at h ⊢
  exact ⟨h.1.filter _, fun p hp => h.2 p (List.mem_of_mem_filter hp)⟩

/-! ### Bytes -/

theorem byteAt_putByte (m : SMap Byte) (a x : Nat) (b : Byte) :
    byteAt (putByte m a b) x = if x = a then b else byteAt m x := smapGet_smapPut 0#8 m a x b

/-- A byte written keeps the canonical form. -/
theorem smapWf_putByte (m : SMap Byte) (a : Nat) (b : Byte) (h : smapWf (fun _ => 0#8) m = true) :
    smapWf (fun _ => 0#8) (putByte m a b) = true := smapWf_smapPut (fun _ => 0#8) m a b h

/-- A row of bytes written keeps the canonical form. -/
theorem smapWf_writeBytes (m : SMap Byte) (a : Nat) (bs : List Byte) (h : smapWf (fun _ => 0#8) m = true) :
    smapWf (fun _ => 0#8) (writeBytes m a bs) = true := by
  induction bs generalizing m a with
  | nil => exact h
  | cons b bs ih => exact ih (putByte m a b) (a + 1) (smapWf_putByte m a b h)

/-- A masked row of bytes written keeps the canonical form. -/
theorem smapWf_writeMasked (m : SMap Byte) (a mask : Nat) (bs : List Byte) (h : smapWf (fun _ => 0#8) m = true) :
    smapWf (fun _ => 0#8) (writeMasked m a mask bs) = true := by
  induction bs generalizing m a mask with
  | nil => exact h
  | cons b bs ih =>
    simp only [writeMasked]
    split
    · exact ih _ _ _ (smapWf_putByte m a b h)
    · exact ih _ _ _ h

/-- What a byte reads as after a row of bytes is written. -/
theorem byteAt_writeBytes (m : SMap Byte) (a x : Nat) (bs : List Byte) :
    byteAt (writeBytes m a bs) x = if a ≤ x ∧ x < a + bs.length then bs.getD (x - a) 0 else byteAt m x := by
  induction bs generalizing m a with
  | nil => rw [if_neg (by simp)]; rfl
  | cons b bs ih =>
    simp only [writeBytes]
    rw [ih (putByte m a b) (a + 1), byteAt_putByte m a x b]
    simp only [List.length_cons]
    by_cases hx : x = a
    · subst hx
      rw [if_neg (by omega), if_pos rfl, if_pos (by omega)]
      simp
    · rw [if_neg hx]
      by_cases hr : a + 1 ≤ x ∧ x < a + 1 + bs.length
      · rw [if_pos hr, if_pos (by omega)]
        have e : x - a = (x - (a + 1)) + 1 := by omega
        rw [e]; simp
      · rw [if_neg hr, if_neg (by omega)]

/-- What a byte reads as after a masked row of bytes is written: a byte whose mask bit is 0 stays. -/
theorem byteAt_writeMasked (m : SMap Byte) (a x mask : Nat) (bs : List Byte) :
    byteAt (writeMasked m a mask bs) x =
      if a ≤ x ∧ x < a + bs.length ∧ mask.testBit (x - a) then bs.getD (x - a) 0 else byteAt m x := by
  induction bs generalizing m a mask with
  | nil => rw [if_neg (by simp; omega)]; rfl
  | cons b bs ih =>
    simp only [writeMasked]
    rw [ih]
    simp only [List.length_cons]
    by_cases hx : x = a
    · subst hx
      rw [if_neg (by omega)]
      have e : x - x = 0 := by omega
      rw [e, Nat.testBit_zero]
      by_cases hm : mask % 2 = 1
      · rw [if_pos hm, byteAt_putByte, if_pos rfl, if_pos (by simp [hm])]; simp
      · rw [if_neg hm, if_neg (by simp [hm])]
    · have hb : byteAt (if mask % 2 = 1 then putByte m a b else m) x = byteAt m x := by
        split
        · rw [byteAt_putByte, if_neg hx]
        · rfl
      rw [hb]
      by_cases ha : a + 1 ≤ x
      · have e : x - a = (x - (a + 1)) + 1 := by omega
        rw [e, Nat.testBit_succ]
        by_cases hr : x < a + 1 + bs.length ∧ (mask / 2).testBit (x - (a + 1)) = true
        · rw [if_pos ⟨ha, hr.1, hr.2⟩, if_pos ⟨by omega, by omega, hr.2⟩]; simp
        · rw [if_neg (fun h => hr ⟨h.2.1, h.2.2⟩), if_neg (fun h => hr ⟨by omega, h.2.2⟩)]
      · rw [if_neg (by omega), if_neg (by omega)]

end Sys2Proof.Machine
end

