-- ==== Sys2Proof/Laws/State.lean ====
section
/-! SUPPORT. Laws of the state's updates: what each field reads as after each named update, so that no later proof unfolds a
record update. -/

namespace Sys2Proof.Machine

/-! ### Vectors by number -/

theorem vget_vmod {α : Type} {n : Nat} (d : α) (v : Vector α n) (i j : Nat) (f : α → α) :
    vget d (vmod v i f) j = if j = i ∧ i < n then f (vget d v i) else vget d v j := by
  unfold vget vmod
  by_cases hi : i < n
  · by_cases hj : j < n
    · by_cases hij : j = i
      · subst hij; simp [hi]
      · have : ¬ (i = j) := fun h => hij h.symm
        simp [hi, hj, hij, Vector.getElem_set_ne _ _ this]
    · have hij : ¬ (j = i) := fun h => hj (h ▸ hi)
      simp [hi, hj, hij]
  · have : ¬ (j = i ∧ i < n) := fun h => hi h.2
    simp [hi]

theorem vget_vmod_same {α : Type} {n : Nat} (d : α) (v : Vector α n) (i : Nat) (f : α → α) (h : i < n) :
    vget d (vmod v i f) i = f (vget d v i) := by rw [vget_vmod, if_pos ⟨rfl, h⟩]

theorem vget_vmod_other {α : Type} {n : Nat} (d : α) (v : Vector α n) (i j : Nat) (f : α → α) (h : j ≠ i) :
    vget d (vmod v i f) j = vget d v j := by rw [vget_vmod, if_neg (fun x => h x.1)]

/-! ### Bays -/

theorem getBay_modBay (s : Mach) (b c : Nat) (f : Bay → Bay) :
    getBay (modBay s b f) c = if c = b ∧ b < 72 then f (getBay s b) else getBay s c := vget_vmod Bay.zero s.bays b c f

@[simp] theorem getBay_modBay_fin (s : Mach) (b : Fin 72) (f : Bay → Bay) :
    getBay (modBay s b f) b = f (getBay s b) := by rw [getBay_modBay, if_pos ⟨rfl, b.isLt⟩]

@[simp] theorem getSeq_modSeq_fin (s : Mach) (b : Fin 72) (f : Seq → Seq) :
    getSeq (modSeq s b f) b = f (getSeq s b) := by unfold getSeq modSeq; rw [getBay_modBay_fin]

theorem getStream_modStream (s : Mach) (b : Fin 72) (k : Fin 6) (f : Stream → Stream) :
    getStream (modStream s b k f) b k = f (getStream s b k) := by
  unfold getStream modStream; rw [getBay_modBay_fin]; exact vget_vmod_same _ _ _ _ k.isLt

theorem getChan_modChan (s : Mach) (b : Fin 72) (c : Nat) (f : Chan → Chan) :
    getChan (modChan s b c f) b c = f (getChan s b c) := by
  unfold getChan modChan; rw [getBay_modBay_fin]; exact smapGet_smapPut_same _ _ _ _

@[simp] theorem modBay_now (s : Mach) (b : Nat) (f : Bay → Bay) : (modBay s b f).now = s.now := rfl
@[simp] theorem modBay_csr (s : Mach) (b : Nat) (f : Bay → Bay) : (modBay s b f).csr = s.csr := rfl
@[simp] theorem modBay_clk (s : Mach) (b : Nat) (f : Bay → Bay) : (modBay s b f).clk = s.clk := rfl
@[simp] theorem modBay_alm (s : Mach) (b : Nat) (f : Bay → Bay) : (modBay s b f).alm = s.alm := rfl
@[simp] theorem modBay_toks (s : Mach) (b : Nat) (f : Bay → Bay) : (modBay s b f).toks = s.toks := rfl
@[simp] theorem modBay_flt (s : Mach) (b : Nat) (f : Bay → Bay) : (modBay s b f).flt = s.flt := rfl
@[simp] theorem modBay_rota (s : Mach) (b : Nat) (f : Bay → Bay) : (modBay s b f).rota = s.rota := rfl
@[simp] theorem modBay_mem (s : Mach) (b : Nat) (f : Bay → Bay) : (modBay s b f).mem = s.mem := rfl
@[simp] theorem modBay_loft (s : Mach) (b : Nat) (f : Bay → Bay) : (modBay s b f).loft = s.loft := rfl
@[simp] theorem modBay_fuses (s : Mach) (b : Nat) (f : Bay → Bay) : (modBay s b f).fuses = s.fuses := rfl
@[simp] theorem modBay_pins (s : Mach) (b : Nat) (f : Bay → Bay) : (modBay s b f).pins = s.pins := rfl
@[simp] theorem modBay_pwr (s : Mach) (b : Nat) (f : Bay → Bay) : (modBay s b f).pwr = s.pwr := rfl
@[simp] theorem modBay_cfg (s : Mach) (b : Nat) (f : Bay → Bay) : (modBay s b f).cfg = s.cfg := rfl
@[simp] theorem rg_modBay (s : Mach) (b : Nat) (f : Bay → Bay) (n : RegName) (u i : Nat) : rg (modBay s b f) n u i = rg s n u i := rfl

/-! ### Registers -/

@[simp] theorem csrAt_csrPut (s : Mach) (a b : Nat) (v : Word) : csrAt (csrPut s a v) b = if b = a then v else csrAt s b := by
  unfold csrAt csrPut
  simp only
  by_cases h : b = a
  · subst h; rw [if_pos rfl]; exact smapGet_smapPut_same _ _ _ _
  · rw [if_neg h, smapGet_smapPut_other _ _ _ _ _ _ h]

/-- A register reads what was stored in it. -/
@[simp] theorem rg_wr (s : Mach) (n : RegName) (u i : Nat) (v : Word) : rg (wr s n u i v) n u i = v := by
  unfold rg wr; rw [csrAt_csrPut, if_pos rfl]

/-- A register at another offset reads as before. -/
theorem rg_wr_other (s : Mach) (n m : RegName) (u i u' i' : Nat) (v : Word) (h : RegRef.addr ⟨m, u', i'⟩ ≠ RegRef.addr ⟨n, u, i⟩) :
    rg (wr s n u i v) m u' i' = rg s m u' i' := by unfold rg wr; rw [csrAt_csrPut, if_neg h]

/-- A field reads what a hardware update stored in it. -/
theorem rf_wf (s : Mach) (n : RegName) (u i hi lo v : Nat) (h : lo ≤ hi + 1) (hn : hi < 64) :
    rf (wf s n u i hi lo v) n u i hi lo = v % 2 ^ (hi + 1 - lo) := by
  unfold rf wf; rw [rg_wr]; exact fld_setFld_same _ _ _ _ h hn

/-- Another field of the same register reads as before. -/
theorem rf_wf_other (s : Mach) (n : RegName) (u i hi lo v hi' lo' : Nat) (h : lo ≤ hi + 1) (hd : hi' < lo ∨ hi < lo') :
    rf (wf s n u i hi lo v) n u i hi' lo' = rf s n u i hi' lo' := by
  unfold rf wf; rw [rg_wr]; exact fld_setFld_other _ _ _ _ _ _ h hd

/-- A bit reads what a hardware update stored in it. -/
theorem rb_wb (s : Mach) (n : RegName) (u i k : Nat) (v : Bool) (h : k < 64) : rb (wb s n u i k v) n u i k = v := by
  unfold rb wb wf; rw [rg_wr]; exact bit_setBit_same _ k v h

/-- Another bit of the same register reads as before. -/
theorem rb_wb_other (s : Mach) (n : RegName) (u i k j : Nat) (v : Bool) (h : k ≠ j) :
    rb (wb s n u i k v) n u i j = rb s n u i j := by
  unfold rb wb wf; rw [rg_wr]; exact bit_setBit_other _ k j v h

/-- A count that a field holds whole. -/
theorem rf_bump (s : Mach) (n : RegName) (u i hi lo k : Nat) (h : lo ≤ hi + 1) (hn : hi < 64) :
    rf (bump s n u i hi lo k) n u i hi lo = sat (hi + 1 - lo) (rf s n u i hi lo + k) := by
  unfold bump; rw [rf_wf _ _ _ _ _ _ _ h hn]
  apply Nat.mod_eq_of_lt
  unfold sat
  have : 0 < 2 ^ (hi + 1 - lo) := Nat.two_pow_pos _
  omega

/-- The first event is recorded with VALID. -/
theorem rg_recordFirst (s : Mach) (n : RegName) (u i : Nat) (v : Word) (h : rb s n u i 63 = false) :
    rg (recordFirst s n u i v) n u i = setBit v 63 true := by unfold recordFirst; rw [h]; exact rg_wr s n u i _

/-- A later event changes nothing. -/
theorem recordFirst_later (s : Mach) (n : RegName) (u i : Nat) (v : Word) (h : rb s n u i 63 = true) :
    recordFirst s n u i v = s := by unfold recordFirst; rw [h]; rfl

/-! What a store of a register leaves alone. -/

/-- Storing a register changes the register file only. -/
theorem csrPut_only (s : Mach) (a : Nat) (v : Word) : csrPut s a v = { s with csr := (csrPut s a v).csr } := rfl

@[simp] theorem wr_now (s : Mach) (n : RegName) (u i : Nat) (v : Word) : (wr s n u i v).now = s.now := rfl
@[simp] theorem wr_bays (s : Mach) (n : RegName) (u i : Nat) (v : Word) : (wr s n u i v).bays = s.bays := rfl
@[simp] theorem wr_mem (s : Mach) (n : RegName) (u i : Nat) (v : Word) : (wr s n u i v).mem = s.mem := rfl
@[simp] theorem wr_loft (s : Mach) (n : RegName) (u i : Nat) (v : Word) : (wr s n u i v).loft = s.loft := rfl
@[simp] theorem wr_flt (s : Mach) (n : RegName) (u i : Nat) (v : Word) : (wr s n u i v).flt = s.flt := rfl
@[simp] theorem wr_alm (s : Mach) (n : RegName) (u i : Nat) (v : Word) : (wr s n u i v).alm = s.alm := rfl
@[simp] theorem wr_clk (s : Mach) (n : RegName) (u i : Nat) (v : Word) : (wr s n u i v).clk = s.clk := rfl
@[simp] theorem wr_pwr (s : Mach) (n : RegName) (u i : Nat) (v : Word) : (wr s n u i v).pwr = s.pwr := rfl
@[simp] theorem wr_rota (s : Mach) (n : RegName) (u i : Nat) (v : Word) : (wr s n u i v).rota = s.rota := rfl
@[simp] theorem wr_toks (s : Mach) (n : RegName) (u i : Nat) (v : Word) : (wr s n u i v).toks = s.toks := rfl
@[simp] theorem wr_dir (s : Mach) (n : RegName) (u i : Nat) (v : Word) : (wr s n u i v).dir = s.dir := rfl
@[simp] theorem wr_ports (s : Mach) (n : RegName) (u i : Nat) (v : Word) : (wr s n u i v).ports = s.ports := rfl
@[simp] theorem wr_cores (s : Mach) (n : RegName) (u i : Nat) (v : Word) : (wr s n u i v).cores = s.cores := rfl

/-- A hardware update of a field changes the register file only. -/
theorem wf_only (s : Mach) (n : RegName) (u i hi lo v : Nat) : wf s n u i hi lo v = { s with csr := (wf s n u i hi lo v).csr } := rfl
theorem wb_only (s : Mach) (n : RegName) (u i k : Nat) (v : Bool) : wb s n u i k v = { s with csr := (wb s n u i k v).csr } := rfl
theorem bump_only (s : Mach) (n : RegName) (u i hi lo k : Nat) : bump s n u i hi lo k = { s with csr := (bump s n u i hi lo k).csr } := rfl

theorem recordFirst_only (s : Mach) (n : RegName) (u i : Nat) (v : Word) :
    recordFirst s n u i v = { s with csr := (recordFirst s n u i v).csr } := by unfold recordFirst; split <;> rfl

/-! ### Time -/

@[simp] theorem advanceTo_now (s : Mach) (t : Nat) : (advanceTo s t).now = max s.now t := rfl
@[simp] theorem advanceTo_csr (s : Mach) (t : Nat) : (advanceTo s t).csr = s.csr := rfl
@[simp] theorem advanceTo_bays (s : Mach) (t : Nat) : (advanceTo s t).bays = s.bays := rfl
@[simp] theorem advanceTo_alm (s : Mach) (t : Nat) : (advanceTo s t).alm = s.alm := rfl
@[simp] theorem advanceTo_clk (s : Mach) (t : Nat) : (advanceTo s t).clk = s.clk := rfl
@[simp] theorem advanceTo_mem (s : Mach) (t : Nat) : (advanceTo s t).mem = s.mem := rfl
@[simp] theorem advanceTo_loft (s : Mach) (t : Nat) : (advanceTo s t).loft = s.loft := rfl
@[simp] theorem advanceTo_flt (s : Mach) (t : Nat) : (advanceTo s t).flt = s.flt := rfl
@[simp] theorem rg_advanceTo (s : Mach) (t : Nat) (n : RegName) (u i : Nat) : rg (advanceTo s t) n u i = rg s n u i := rfl
@[simp] theorem getBay_advanceTo (s : Mach) (t b : Nat) : getBay (advanceTo s t) b = getBay s b := rfl

/-- Moving the clock changes the clock only. -/
theorem advanceTo_only (s : Mach) (t : Nat) : advanceTo s t = { s with now := (advanceTo s t).now } := rfl

theorem le_advanceTo (s : Mach) (t : Nat) : s.now ≤ (advanceTo s t).now := Nat.le_max_left _ _

/-! ### Other owners of state -/

@[simp] theorem modSeq_now (s : Mach) (b : Nat) (f : Seq → Seq) : (modSeq s b f).now = s.now := rfl
@[simp] theorem modSeq_csr (s : Mach) (b : Nat) (f : Seq → Seq) : (modSeq s b f).csr = s.csr := rfl
@[simp] theorem modPwr_pwr (s : Mach) (f : Pwr → Pwr) : (modPwr s f).pwr = f s.pwr := rfl
@[simp] theorem modPwr_csr (s : Mach) (f : Pwr → Pwr) : (modPwr s f).csr = s.csr := rfl
@[simp] theorem modFlt_flt (s : Mach) (f : Flt → Flt) : (modFlt s f).flt = f s.flt := rfl
@[simp] theorem modFlt_csr (s : Mach) (f : Flt → Flt) : (modFlt s f).csr = s.csr := rfl
@[simp] theorem modBoot_boot (s : Mach) (f : Boot → Boot) : (modBoot s f).boot = f s.boot := rfl
@[simp] theorem modBoot_csr (s : Mach) (f : Boot → Boot) : (modBoot s f).csr = s.csr := rfl
@[simp] theorem modAlm_alm (s : Mach) (f : Alm → Alm) : (modAlm s f).alm = f s.alm := rfl
@[simp] theorem modAlm_csr (s : Mach) (f : Alm → Alm) : (modAlm s f).csr = s.csr := rfl
@[simp] theorem modDbg_dbg (s : Mach) (f : DbgHub → DbgHub) : (modDbg s f).dbg = f s.dbg := rfl
@[simp] theorem modDbg_csr (s : Mach) (f : DbgHub → DbgHub) : (modDbg s f).csr = s.csr := rfl

theorem getRota_modRota (s : Mach) (p : Fin 16) (f : Rota → Rota) : getRota (modRota s p f) p = f (getRota s p) :=
  vget_vmod_same _ _ _ _ p.isLt

theorem getSink_modSink (s : Mach) (p : Fin 16) (f : Sink → Sink) : getSink (modSink s p f) p = f (getSink s p) :=
  vget_vmod_same _ _ _ _ p.isLt

theorem getClk_modClk (s : Mach) (d : Fin 6) (f : DieClk → DieClk) : getClk (modClk s d f) d = f (getClk s d) :=
  vget_vmod_same _ _ _ _ d.isLt

/-! ### Fault records -/

/-- A record raised waits at the end of the wire to the collectors (R538). -/
@[simp] theorem raise_wire (s : Mach) (r : FltRec) : (raise s r).flt.wire = s.flt.wire ++ [r] := by unfold raise; split <;> rfl

/-- Raising a record changes the register file (the die's record counter) and the wire only. -/
theorem raise_only (s : Mach) (r : FltRec) :
    raise s r = { s with csr := (raise s r).csr, flt := { s.flt with wire := s.flt.wire ++ [r] } } := by
  unfold raise; split <;> rfl

end Sys2Proof.Machine
end

