-- ==== Sys2Proof/Laws/Frame.lean ====
section
/-! SUPPORT. What the recording operations leave alone. Counting, tracing, slip, token errors and fault records touch registers,
the wires to the hub, the counters of a bay and energy only: `Mach.units` is the package without those, and every recording
operation keeps it. -/

namespace Sys2Proof.Machine

theorem foldS_keeps {α β : Type} (g : Mach → β) (l : List α) (f : Mach → α → Mach) (s : Mach)
    (h : ∀ t x, g (f t x) = g t) : g (foldS l f s) = g s := by
  unfold foldS
  induction l generalizing s with
  | nil => rfl
  | cons x l ih => rw [List.foldl_cons, ih, h]

/-! A change of one part that `units` leaves out is not seen, whatever it is. -/

theorem units_now (s : Mach) (x : Nat) : ({ s with now := x } : Mach).units = s.units := rfl
theorem units_csr (s : Mach) (x : SMap Word) : ({ s with csr := x } : Mach).units = s.units := rfl
theorem units_flt (s : Mach) (x : Flt) : ({ s with flt := x } : Mach).units = s.units := rfl
theorem units_trcWire (s : Mach) (x : List TrcRec) : ({ s with trcWire := x } : Mach).units = s.units := rfl
theorem units_sinks (s : Mach) (x : Vector Sink 16) : ({ s with sinks := x } : Mach).units = s.units := rfl
theorem units_events (s : Mach) (x : SMap Nat) : ({ s with pwr := { s.pwr with events := x } } : Mach).units = s.units := rfl

@[simp] theorem units_csrPut (s : Mach) (a : Nat) (v : Word) : (csrPut s a v).units = s.units := units_csr s _
@[simp] theorem units_advanceTo (s : Mach) (t : Nat) : (advanceTo s t).units = s.units := units_now s _
@[simp] theorem units_advanceEdge (s : Mach) (b k : Nat) : (advanceEdge s b k).units = s.units := units_now s _
@[simp] theorem units_wr (s : Mach) (n : RegName) (u i : Nat) (v : Word) : (wr s n u i v).units = s.units := units_csr s _
@[simp] theorem units_wf (s : Mach) (n : RegName) (u i hi lo v : Nat) : (wf s n u i hi lo v).units = s.units := units_csr s _
@[simp] theorem units_wb (s : Mach) (n : RegName) (u i k : Nat) (v : Bool) : (wb s n u i k v).units = s.units := units_csr s _
@[simp] theorem units_bump (s : Mach) (n : RegName) (u i hi lo k : Nat) : (bump s n u i hi lo k).units = s.units := units_csr s _
@[simp] theorem units_bumpWrap (s : Mach) (n : RegName) (u i k : Nat) : (bumpWrap s n u i k).units = s.units := units_csr s _
@[simp] theorem units_bumpAo (s : Mach) (d k n : Nat) : (bumpAo s d k n).units = s.units := units_csr s _
@[simp] theorem units_book (s : Mach) (p o k n : Nat) : (book s p o k n).units = s.units := units_events s _

@[simp] theorem units_recordFirst (s : Mach) (n : RegName) (u i : Nat) (v : Word) : (recordFirst s n u i v).units = s.units := by
  unfold recordFirst; rw [apply_ite Mach.units, units_wr, ite_self]

@[simp] theorem units_bookEv (s : Mach) (b ev n : Nat) : (bookEv s b ev n).units = s.units := by
  unfold bookEv
  simp only []
  split <;> simp only [units_book, units_bumpAo]

@[simp] theorem units_countEv (s : Mach) (b ev n : Nat) : (countEv s b ev n).units = s.units := by
  unfold countEv
  simp only []
  rw [foldS_keeps Mach.units _ _ _ (by intro t x; rw [apply_ite Mach.units, units_bumpWrap, ite_self]), units_bookEv]

/-- A change of a bay's counters alone is not seen. -/
theorem units_modBay_cnt (s : Mach) (b : Nat) (f : CntBay → CntBay) :
    (modBay s b (fun x => { x with cnt := f x.cnt })).units = s.units := by
  have h : (vmod s.bays b (fun x => { x with cnt := f x.cnt })).map (fun x => { x with cnt := { edge := 0, skip := 0 } })
      = s.bays.map (fun x => { x with cnt := ({ edge := 0, skip := 0 } : CntBay) }) := by
    unfold vmod
    split
    · ext1 i hi
      rw [Vector.getElem_map, Vector.getElem_map, Vector.getElem_set]
      split
      · rename_i h; subst h; rfl
      · rfl
    · rfl
  unfold Mach.units modBay
  simp only [h]

@[simp] theorem units_syncCnt (s : Mach) (b : Nat) : (syncCnt s b).units = s.units := by
  unfold syncCnt
  simp only []
  rw [units_modBay_cnt _ b (fun c => { edge := edgeOf s b, skip := c.skip - (edgeOf s b - (getBay s b).cnt.edge) }),
    units_countEv, units_countEv]

@[simp] theorem units_emitTrace (s : Mach) (b k c u d : Nat) : (emitTrace s b k c u d).units = s.units := by
  unfold emitTrace; rw [apply_ite Mach.units, units_trcWire, ite_self]

@[simp] theorem units_emitTraceIf (s : Mach) (b e k c u d : Nat) : (emitTraceIf s b e k c u d).units = s.units := by
  unfold emitTraceIf; rw [apply_ite Mach.units, units_emitTrace, ite_self]

@[simp] theorem units_modSink (s : Mach) (p : Nat) (f : Sink → Sink) : (modSink s p f).units = s.units := units_sinks s _

@[simp] theorem units_fireIf (s : Mach) (b src : Nat) (c : Sink → Bool) : (fireIf s b src c).units = s.units := by
  unfold fireIf
  split
  · rfl
  · simp only []
    rw [apply_ite Mach.units, units_modSink, ite_self]

@[simp] theorem units_raise (s : Mach) (r : FltRec) : (raise s r).units = s.units := by
  unfold raise
  simp only []
  rw [apply_ite Mach.units, units_bumpAo, units_flt, ite_self]

@[simp] theorem units_raiseBay (s : Mach) (b : Nat) (r : FltRec) : (raiseBay s b r).units = s.units := by
  unfold raiseBay
  simp only [units_raise, units_fireIf, units_emitTraceIf, units_bump]
  exact foldS_keeps Mach.units _ _ _ (fun _ _ => units_wr _ _ _ _ _)

@[simp] theorem units_recordSeqErr (s : Mach) (b k c : Nat) : (recordSeqErr s b k c).units = s.units := by
  unfold recordSeqErr; simp only [units_raiseBay, units_recordFirst]

@[simp] theorem units_tokErr (s : Mach) (b c a : Nat) : (tokErr s b c a).units = s.units := by
  unfold tokErr; simp only [units_raiseBay, units_recordFirst]
@[simp] theorem units_tokenDrop (s : Mach) (b : Nat) : (tokenDrop s b).units = s.units := units_bump _ _ _ _ _ _ _

@[simp] theorem units_slipEvent (s : Mach) (b k c n : Nat) : (slipEvent s b k c n).units = s.units := by
  unfold slipEvent
  simp only [apply_ite Mach.units, units_raiseBay, units_fireIf, units_emitTraceIf, units_wr, units_countEv, units_bumpAo,
    units_bump, ite_self]

@[simp] theorem units_slip (s : Mach) (b k c n : Nat) : (slip s b k c n).units = s.units := by
  unfold slip; rw [apply_ite Mach.units, units_slipEvent, ite_self]

@[simp] theorem units_lateArm (s : Mach) (b k f m : Nat) : (lateArm s b k f m).units = s.units := by
  unfold lateArm; simp only [units_slip, units_wf]

/-! What follows from equal units. -/

theorem getBay_units (s : Mach) (b : Nat) (h : b < 72) : getBay s.units b = { getBay s b with cnt := { edge := 0, skip := 0 } } := by
  unfold getBay vget Mach.units
  simp only [h, dif_pos, Vector.getElem_map]

theorem seq_of_units {s t : Mach} (h : s.units = t.units) (b : Fin 72) : getSeq s b = getSeq t b := by
  have e := congrArg (fun x => (getBay x b).seq) h
  simpa [getBay_units, getSeq] using e

theorem stream_of_units {s t : Mach} (h : s.units = t.units) (b : Fin 72) (k : Nat) : getStream s b k = getStream t b k := by
  have e := congrArg (fun x => vget Stream.zero (getBay x b).streams k) h
  simpa [getBay_units, getStream] using e

theorem chan_of_units {s t : Mach} (h : s.units = t.units) (b : Fin 72) (c : Nat) : getChan s b c = getChan t b c := by
  have e := congrArg (fun x => smapGet Chan.zero (getBay x b).chans c) h
  simpa [getBay_units, getChan] using e

theorem toks_of_units {s t : Mach} (h : s.units = t.units) : s.toks = t.toks := by
  have e := congrArg (fun x => Mach.toks x) h
  exact e
theorem loft_of_units {s t : Mach} (h : s.units = t.units) : s.loft = t.loft := by
  have e := congrArg (fun x => Mach.loft x) h
  exact e
theorem mem_of_units {s t : Mach} (h : s.units = t.units) : s.mem = t.mem := by
  have e := congrArg (fun x => Mach.mem x) h
  exact e
theorem rota_of_units {s t : Mach} (h : s.units = t.units) : s.rota = t.rota := by
  have e := congrArg (fun x => Mach.rota x) h
  exact e
theorem clk_of_units {s t : Mach} (h : s.units = t.units) : s.clk = t.clk := by
  have e := congrArg (fun x => Mach.clk x) h
  exact e

/-! The package apart from one bay. -/

theorem apart_of_units {s t : Mach} (h : s.units = t.units) (b : Nat) : s.apart b = t.apart b := by
  unfold Mach.apart; rw [h]

/-- A change of one bay is not seen apart from it. -/
theorem apart_modBay (s : Mach) (b : Nat) (f : Bay → Bay) : (modBay s b f).apart b = s.apart b := by
  have h : vmod ((vmod s.bays b f).map (fun x => { x with cnt := ({ edge := 0, skip := 0 } : CntBay) })) b (fun _ => Bay.zero)
      = vmod (s.bays.map (fun x => { x with cnt := ({ edge := 0, skip := 0 } : CntBay) })) b (fun _ => Bay.zero) := by
    unfold vmod
    split
    · ext1 i hi
      simp only [Vector.getElem_set, Vector.getElem_map]
      split <;> rfl
    · rfl
  unfold Mach.apart Mach.units modBay
  simp only [h]

theorem apart_modSeq (s : Mach) (b : Nat) (f : Seq → Seq) : (modSeq s b f).apart b = s.apart b := apart_modBay s b _
theorem apart_modStream (s : Mach) (b k : Nat) (f : Stream → Stream) : (modStream s b k f).apart b = s.apart b := apart_modBay s b _
theorem apart_modChan (s : Mach) (b c : Nat) (f : Chan → Chan) : (modChan s b c f).apart b = s.apart b := apart_modBay s b _

end Sys2Proof.Machine
end

