-- ==== Sys2Proof/Tests/Slice0.lean ====
section
/-! SUPPORT. Tests: the checks of WellFormed refuse what they should, and for the statements concrete states and operands that
meet their hypotheses. -/

namespace Sys2Proof.Tests

open Sys2Proof.Machine

/-! ### WellFormed -/

def beacon0 : Beacon :=
  { hallId := 1, srcNode := 2, srcPort := 3, state := 4, hops := 1, gm := false, pvalid := true, parent := 5, frame := 6, txoff := 7, root := 8 }
def exch0 : Exchange := { xseq := 1, t1 := 2, t2 := 3, t3 := 4 }
def temps0 : TempReport := { die := List.replicate 32 100, stack := List.replicate 12 100, cluster := List.replicate 12 100 }

theorem test_wf_beacon : Instr.wf (.beacon 0 beacon0 0) = true := by decide
theorem test_wf_beacon_hall : Instr.wf (.beacon 0 { beacon0 with hallId := 2 ^ 16 } 0) = false := by decide
theorem test_wf_beacon_frame : Instr.wf (.beacon 0 { beacon0 with frame := 2 ^ 48 } 0) = false := by decide
theorem test_wf_exchange_request : Instr.wf (.exchangeRequest 0 { exch0 with xseq := 256 } 0) = false := by decide
theorem test_wf_exchange_reply : Instr.wf (.exchangeReply 0 { exch0 with t3 := 2 ^ 64 } 0) = false := by decide
theorem test_wf_temperatures : Instr.wf (.gearSelection temps0) = true := by decide
theorem test_wf_temperatures_short : Instr.wf (.gearSelection { temps0 with stack := [] }) = false := by decide
theorem test_wf_window : Instr.wf (.loftWindowAccess 0 none 0 (.read 0)) = false := by decide
theorem test_wf_lock : Instr.wf (.vkLock 0 [some 0] 0) = false := by decide
theorem test_wf_flit : Instr.wf (.flitReceive 0 [] 0 false 0) = false := by decide
theorem test_wf_pcie_read : Instr.wf (.pcieDeviceRequest 0 0
    { busOrPf := 0, bar := 0, addr := 0, tclass := 0, relaxed := false, tag := 0, op := .read 4097 }) = false := by decide
theorem test_wf_msi : Instr.wf (.msi 0 0
    { busOrPf := 0, bar := 0, addr := 0, tclass := 0, relaxed := false, tag := 0, op := .fetchAdd 5 0 }) = false := by decide
theorem test_wf_link_width : Instr.wf (.pcieLinkTraining 0 0 3 0 false false) = false := by decide
theorem test_illformed_faults (s : State) : exec (.vkLock 0 [some 0] 0) s = .fault .illFormed := rfl

/-! ### States -/

/-- A command queue of none, and a package. -/
def at_ (m : Mach) : State := { pending := [], mach := m }

/-- The package with its almanac running from tick 0 and bring-up complete. -/
def live : Mach :=
  { wf Mach.reset .BOOT_STATUS 0 0 63 63 1 with
    pins := { Mach.reset.pins with pwrok := true }, alm := { Mach.reset.alm with running := true } }

end Sys2Proof.Tests
end

section
/-! The register table: every field lies within its register, the fields of one register share no bit, and so the bits of a
register are told apart by the types of their fields (R11). -/

namespace Sys2Proof.Machine

/-! ### Bits of words -/

@[simp] theorem bit_and {n : Nat} (x y : BitVec n) (i : Nat) : bit (x &&& y) i = (bit x i && bit y i) := BitVec.getLsbD_and
@[simp] theorem bit_or {n : Nat} (x y : BitVec n) (i : Nat) : bit (x ||| y) i = (bit x i || bit y i) := BitVec.getLsbD_or

theorem bit_not {n i : Nat} (x : BitVec n) (h : i < n) : bit (~~~ x) i = !bit x i := by
  simp [bit, h]

theorem bit_of_le {n i : Nat} (x : BitVec n) (h : n ≤ i) : bit x i = false := BitVec.getLsbD_of_ge x i h

/-- The bits of a field's mask, for a field of no bits too. -/
theorem bit_maskOf (n hi lo i : Nat) : bit (maskOf n hi lo) i = (decide (i < n) && decide (lo ≤ i) && decide (i ≤ hi)) := by
  by_cases h : lo ≤ hi + 1
  · exact maskOf_getLsbD n hi lo i h
  · have hw : hi + 1 - lo = 0 := by omega
    have hi' : lo ≤ i → ¬ i ≤ hi := by omega
    simp [bit, maskOf, hw]
    omega

/-- A union of masks has the bits that one of them has. -/
theorem bit_foldl_or {α : Type} {n : Nat} (g : α → BitVec n) (l : List α) (m : BitVec n) (i : Nat) :
    bit (l.foldl (fun m x => m ||| g x) m) i = (bit m i || l.any (fun x => bit (g x) i)) := by
  induction l generalizing m with
  | nil => simp
  | cons x l ih => rw [List.foldl_cons, ih, bit_or, List.any_cons, Bool.or_assoc]

/-! ### Masks of a register -/

theorem RegInfo.bit_mask_iff (r : RegInfo) (t : FieldTy) (i : Nat) :
    bit (r.mask t) i = true ↔ i < 64 ∧ ∃ f ∈ r.fields, f.ty = t ∧ f.lo ≤ i ∧ i ≤ f.hi := by
  have hfold : r.mask t = r.fields.foldl (fun m f => m ||| (if f.ty = t then maskOf 64 f.hi f.lo else 0)) 0 := by
    unfold RegInfo.mask
    congr 1
    funext m f
    split <;> simp
  have hbit (f : FieldSpec) : bit (if f.ty = t then maskOf 64 f.hi f.lo else 0) i =
      decide (i < 64 ∧ f.ty = t ∧ f.lo ≤ i ∧ i ≤ f.hi) := by
    by_cases ht : f.ty = t
    · simp [ht, bit_maskOf, Bool.and_assoc]
    · simp [ht, bit]
  have hnone : bit (0 : Word) i = false := BitVec.getLsbD_zero
  rw [hfold, bit_foldl_or, hnone, Bool.false_or, List.any_eq_true]
  simp only [hbit, decide_eq_true_eq]
  exact ⟨fun ⟨f, hf, hi, h⟩ => ⟨hi, f, hf, h⟩, fun ⟨hi, f, hf, h⟩ => ⟨f, hf, hi, h⟩⟩

theorem RegInfo.bit_defined_iff (r : RegInfo) (i : Nat) :
    bit r.defined i = true ↔ i < 64 ∧ ∃ f ∈ r.fields, f.lo ≤ i ∧ i ≤ f.hi := by
  have hnone : bit (0 : Word) i = false := BitVec.getLsbD_zero
  unfold RegInfo.defined
  rw [bit_foldl_or, hnone, Bool.false_or, List.any_eq_true]
  simp only [bit_maskOf, Bool.and_eq_true, decide_eq_true_eq, and_assoc]
  exact ⟨fun ⟨f, hf, hi, h⟩ => ⟨hi, f, hf, h⟩, fun ⟨hi, f, hf, h⟩ => ⟨f, hf, hi, h⟩⟩

/-! ### The fields of a register do not meet -/

/-- Two fields have no bit in common. -/
def FieldSpec.Apart (f g : FieldSpec) : Prop := f.hi < g.lo ∨ g.hi < f.lo

theorem fields_within (n : RegName) : ∀ f ∈ n.info.fields, f.lo ≤ f.hi ∧ f.hi < 64 := by
  cases n <;> decide

theorem fields_apart (n : RegName) : n.info.fields.Pairwise FieldSpec.Apart := by
  unfold FieldSpec.Apart
  cases n <;> decide

/-- A bit lies in one field at most. -/
theorem field_unique {n : RegName} {f g : FieldSpec} {i : Nat} (hf : f ∈ n.info.fields) (hg : g ∈ n.info.fields)
    (hfl : f.lo ≤ i) (hfh : i ≤ f.hi) (hgl : g.lo ≤ i) (hgh : i ≤ g.hi) : f = g := by
  by_contra hne
  have : Std.Symm FieldSpec.Apart := ⟨fun _ _ h => h.symm⟩
  have hapart : f.hi < g.lo ∨ g.hi < f.lo := (fields_apart n).forall hf hg hne
  omega

/-- The mask of a type has a bit of a field just when that is the field's type. -/
theorem bit_mask_of_field {n : RegName} {f : FieldSpec} {i : Nat} (hf : f ∈ n.info.fields) (hl : f.lo ≤ i) (hh : i ≤ f.hi)
    (t : FieldTy) : bit (n.info.mask t) i = decide (f.ty = t) := by
  have hi : i < 64 := Nat.lt_of_le_of_lt hh (fields_within n f hf).2
  rw [Bool.eq_iff_iff, RegInfo.bit_mask_iff, decide_eq_true_iff]
  constructor
  · rintro ⟨-, g, hg, ht, hgl, hgh⟩
    rw [field_unique hf hg hl hh hgl hgh, ht]
  · exact fun ht => ⟨hi, f, hf, ht, hl, hh⟩

/-- A bit that software may write at will is no RSV bit and no WO bit: a read shows it. -/
theorem rw_readable {n : RegName} {i : Nat} (h : bit (n.info.mask .rw) i = true) :
    bit n.info.defined i = true ∧ bit (n.info.mask .wo) i = false := by
  obtain ⟨hi, f, hf, ht, hl, hh⟩ := (RegInfo.bit_mask_iff _ _ _).1 h
  refine ⟨(RegInfo.bit_defined_iff _ _).2 ⟨hi, f, hf, hl, hh⟩, ?_⟩
  rw [bit_mask_of_field hf hl hh, ht]
  rfl

/-! ### What a register reads as, and an ordinary write of it (R11) -/

theorem bit_regView (s : Mach) (r : RegRef) {i : Nat} (hi : i < 64) :
    bit (regView s r) i = (bit (liveView (settleBlk s r.name.info.blk r.unit) r) i && bit r.name.info.defined i &&
      !bit (r.name.info.mask .wo) i) := by
  unfold regView
  rw [bit_and, bit_and, bit_not _ hi]

theorem bit_rg_plainWrite (s : Mach) (r : RegRef) (v : Word) {i : Nat} (hi : i < 64) :
    bit (rg (plainWrite s r v) r.name r.unit r.idx) i =
      ((bit (rg s r.name r.unit r.idx) i && !bit (r.name.info.mask .rw) i || bit v i && bit (r.name.info.mask .rw) i) &&
        !(bit v i && bit (r.name.info.mask .w1c) i) || bit v i && bit (r.name.info.mask .w1s) i) := by
  unfold plainWrite
  simp only [rg_wr, bit_or, bit_and, bit_not _ hi]

/-- What an ordinary write does to a bit, by the type of its field. -/
theorem bit_rg_plainWrite_field (s : Mach) (r : RegRef) (v : Word) {f : FieldSpec} {i : Nat} (hf : f ∈ r.name.info.fields)
    (hl : f.lo ≤ i) (hh : i ≤ f.hi) :
    bit (rg (plainWrite s r v) r.name r.unit r.idx) i =
      ((bit (rg s r.name r.unit r.idx) i && !decide (f.ty = .rw) || bit v i && decide (f.ty = .rw)) &&
        !(bit v i && decide (f.ty = .w1c)) || bit v i && decide (f.ty = .w1s)) := by
  have hi : i < 64 := Nat.lt_of_le_of_lt hh (fields_within r.name f hf).2
  rw [bit_rg_plainWrite s r v hi, bit_mask_of_field hf hl hh, bit_mask_of_field hf hl hh, bit_mask_of_field hf hl hh]

theorem rg_plainWrite_other (s : Mach) (r q : RegRef) (v : Word) (h : q.addr ≠ r.addr) :
    rg (plainWrite s r v) q.name q.unit q.idx = rg s q.name q.unit q.idx := rg_wr_other _ _ _ _ _ _ _ _ h

/-- A bit that no field covers, or only a WO field, reads 0. -/
theorem bit_regView_hidden (s : Mach) (r : RegRef) (i : Nat)
    (h : ∀ f ∈ r.name.info.fields, f.lo ≤ i → i ≤ f.hi → f.ty = .wo) : bit (regView s r) i = false := by
  by_cases hi : i < 64
  · rw [bit_regView s r hi]
    by_cases hd : bit r.name.info.defined i = true
    · obtain ⟨-, f, hf, hl, hh⟩ := (RegInfo.bit_defined_iff _ _).1 hd
      have hwo : bit (r.name.info.mask .wo) i = true := (RegInfo.bit_mask_iff _ _ _).2 ⟨hi, f, hf, h f hf hl hh, hl, hh⟩
      simp [hwo]
    · simp [hd]
  · exact bit_of_le _ (by omega)

end Sys2Proof.Machine
end

section
/-! An access to control space, by the way it ends (R13, R16, R32, R465). -/

namespace Sys2Proof.Machine

/-! ### The register at an offset -/

theorem blk_of_mem_regs (b : Blk) : ∀ n ∈ b.regs, n.info.blk = b := by
  cases b <;> decide

/-- The register at an offset stands in the block and unit found there. -/
theorem blk_unit_of_regAt {off u : Nat} {b : Blk} {r : RegRef} (h : regAt off = some (b, u, some r)) :
    r.name.info.blk = b ∧ r.unit = u := by
  unfold regAt at h
  obtain ⟨⟨b', u', o⟩, -, hx⟩ := Option.map_eq_some_iff.1 h
  simp only [Prod.mk.injEq] at hx
  obtain ⟨rfl, rfl, hreg⟩ := hx
  obtain ⟨n, hn, hr⟩ := List.exists_of_findSome?_eq_some hreg
  split at hr
  · split at hr
    · cases hr
      exact ⟨blk_of_mem_regs b' n hn, rfl⟩
    · cases hr
  · cases hr

/-! ### Sizes and the bits that an access covers (R13) -/

/-- An access of good form covers a register, its low half or its high half. -/
theorem sizeOk_iff (off size : Nat) :
    sizeOk off size = true ↔ (size = 8 ∧ off % 8 = 0) ∨ (size = 4 ∧ off % 8 = 0) ∨ (size = 4 ∧ off % 8 = 4) := by
  unfold sizeOk
  simp only [Bool.and_eq_true, Bool.or_eq_true, decide_eq_true_eq]
  constructor
  · rintro ⟨rfl | rfl, h⟩ <;> omega
  · rintro (⟨rfl, h⟩ | ⟨rfl, h⟩ | ⟨rfl, h⟩) <;> omega

theorem halfMask_eq {off size : Nat} (h : sizeOk off size = true) :
    halfMask off size = maskOf 64 (8 * (off % 8) + 8 * size - 1) (8 * (off % 8)) := by
  unfold halfMask
  rcases (sizeOk_iff off size).1 h with ⟨rfl, ho⟩ | ⟨rfl, ho⟩ | ⟨rfl, ho⟩ <;> rw [ho] <;> rfl

theorem bit_halfMask {off size : Nat} (h : sizeOk off size = true) {i : Nat} (hi : i < 64) :
    bit (halfMask off size) i = (decide (8 * (off % 8) ≤ i) && decide (i < 8 * (off % 8) + 8 * size)) := by
  have hsize : 0 < size := by rcases (sizeOk_iff off size).1 h with ⟨rfl, -⟩ | ⟨rfl, -⟩ | ⟨rfl, -⟩ <;> decide
  have hlast : i ≤ 8 * (off % 8) + 8 * size - 1 ↔ i < 8 * (off % 8) + 8 * size := by omega
  rw [halfMask_eq h, bit_maskOf]
  simp [hi, hlast]

/-- The value of an access is the bytes that it covers. -/
theorem cutValue_eq {off size : Nat} (h : sizeOk off size = true) (v : Word) :
    cutValue off size v = BitVec.ofNat 64 (v.toNat / 2 ^ (8 * (off % 8)) % 2 ^ (8 * size)) := by
  have hmask (x : Nat) : x &&& 4294967295 = x % 4294967296 := Nat.and_two_pow_sub_one_eq_mod x 32
  have hv : v.toNat < 18446744073709551616 := v.isLt
  unfold cutValue
  apply BitVec.eq_of_toNat_eq
  rcases (sizeOk_iff off size).1 h with ⟨rfl, ho⟩ | ⟨rfl, ho⟩ | ⟨rfl, ho⟩
  · simp [ho, Nat.mod_eq_of_lt hv]
  · simp [ho, hmask]
    omega
  · simp [ho, hmask, Nat.shiftRight_eq_div_pow]
    omega

/-- The 8 bytes that a write of 4 bytes gives a register: those written, beside what its RW fields hold. -/
theorem widen_four (s : Mach) (r : RegRef) (off : Nat) (v : Word) (hb : r.name ≠ .PRT_TEN_B) (hc : r.name ≠ .PRT_TEN_C) :
    widen s r off 4 v = (if off % 8 = 0 then v &&& halfMask off 4 else v <<< 32) |||
      (regView s r &&& r.name.info.mask .rw &&& ~~~ halfMask off 4) := by
  unfold widen
  rw [if_neg (by decide)]
  dsimp only
  congr 2
  split
  · next h => exact absurd h hb
  · next h => exact absurd h hc
  · rfl

/-- A write of 4 bytes gives a register those bytes; the other half keeps its RW bits and holds 0 elsewhere (log entry 86). -/
theorem bit_widen_four (s : Mach) (r : RegRef) {off : Nat} (v : Word) {i : Nat} (hoff : off % 4 = 0) (hi : i < 64)
    (hb : r.name ≠ .PRT_TEN_B) (hc : r.name ≠ .PRT_TEN_C) :
    bit (widen s r off 4 v) i = (if 8 * (off % 8) ≤ i ∧ i < 8 * (off % 8) + 32 then bit v (i - 8 * (off % 8))
      else bit (regView s r) i && bit (r.name.info.mask .rw) i) := by
  have hsize : sizeOk off 4 = true := by simp [sizeOk, hoff]
  have hmask := bit_halfMask hsize hi
  rw [widen_four s r off v hb hc, bit_or, bit_and, bit_and, bit_not _ hi, hmask]
  rcases (by omega : off % 8 = 0 ∨ off % 8 = 4) with ho | ho
  · rw [if_pos ho, bit_and, hmask]
    by_cases hlow : i < 32 <;> simp [ho, hlow]
  · have hshift : bit (v <<< 32) i = (decide (32 ≤ i) && bit v (i - 32)) := by
      simp only [bit, BitVec.getLsbD_shiftLeft, hi, decide_true, Bool.true_and, ← Nat.not_lt, decide_not]
    rw [if_neg (by omega), hshift]
    by_cases hlow : 32 ≤ i <;> simp [ho, hlow, hi]

/-! ### How an access is let in -/

theorem cspEnter_busy {s : Mach} {off : Nat} (hclk : s.pins.thermtripN = true) (hdone : isDone s = false)
    (hreg : ∀ (b : Blk) (u : Nat) (r : RegRef), regAt off = some (b, u, some r) → isStatus r.name = false)
    (mid size : Nat) (v : Option Word) : cspEnter s mid off size v = .error .busy := by
  unfold cspEnter
  rw [if_neg (by simp [hclk]), if_pos hdone]
  split
  · next b u r h => rw [if_pos (Or.inl (hreg b u r h))]
  · rfl

theorem cspEnter_refused {s : Mach} {mid off : Nat} {v : Option Word} (hclk : s.pins.thermtripN = true)
    (hdone : isDone s = true) (hall : cspAllowed s mid off v = false) (size : Nat) :
    cspEnter s mid off size v = .error .refused := by
  unfold cspEnter
  rw [if_neg (by simp [hclk]), if_neg (by simp [hdone]), if_pos hall]

theorem cspEnter_error {s : Mach} {mid off size : Nat} (hlet : CspLet s mid off) (hsize : sizeOk off size = false)
    (v : Option Word) : cspEnter s mid off size v = .error .error := by
  obtain ⟨hclk, hdone, hall⟩ := hlet
  unfold cspEnter
  rw [if_neg (by simp [hclk]), if_neg (by simp [hdone]), if_neg (by simp [hall])]
  split
  · rfl
  · rw [if_neg (by simp [hsize])]

theorem cspEnter_ok {s : Mach} {mid off size : Nat} {x : Blk × Nat × Option RegRef} (hlet : CspLet s mid off)
    (hreg : regAt off = some x) (hsize : sizeOk off size = true) (v : Option Word) :
    cspEnter s mid off size v = .ok x := by
  obtain ⟨hclk, hdone, hall⟩ := hlet
  unfold cspEnter
  rw [if_neg (by simp [hclk]), if_neg (by simp [hdone]), if_neg (by simp [hall]), hreg]
  simp [hsize]

/-! ### How a command ends -/

theorem Ends.mono {c : Instr} {s : State} {P Q : Mach → Prop} (h : Ends c s P) (hpq : ∀ m, P m → Q m) : Ends c s Q := by
  obtain ⟨m, he, hp⟩ := h
  exact ⟨m, he, hpq m hp⟩

theorem ends_rcRead {s : State} {mid : Mid} {off size : Nat} {e : CspRes} {v : Word} {t : Mach}
    (h : cspRead s.mach mid off size false = (e, v, t)) :
    Ends (.rcRead mid off size) s (fun m => m = { t with cspOut := (e.code, v) }) := by
  refine ⟨_, rfl, ?_⟩
  dsimp only
  rw [h]

theorem ends_registerWrite {s : State} {mid : Mid} {off size : Nat} {v : Word} {e : CspRes} {t : Mach}
    (h : cspWrite s.mach mid off size v = (e, t)) :
    Ends (.registerWrite mid off size v) s (fun m => m = { t with cspOut := (e.code, 0) }) := by
  refine ⟨_, rfl, ?_⟩
  dsimp only
  unfold registerWrite
  rw [h]

/-- A read that is not let in. -/
theorem ends_rcRead_stopped {s : State} {mid : Mid} {off size : Nat} {e : CspRes}
    (h : cspEnter s.mach mid off size none = .error e) :
    Ends (.rcRead mid off size) s (fun m => m = { cspEnd s.mach mid off e with cspOut := (e.code, 0) }) := by
  apply ends_rcRead
  unfold cspRead
  rw [h]

/-- A write that is not let in, whatever its value. -/
theorem ends_registerWrite_stopped {s : State} {mid : Mid} {off size : Nat} {e : CspRes}
    (h : ∀ w : Word, cspEnter s.mach mid off size (some w) = .error e) (v : Word) :
    Ends (.registerWrite mid off size v) s (fun m => m = { cspEnd s.mach mid off e with cspOut := (e.code, 0) }) := by
  apply ends_registerWrite
  unfold cspWrite cspWriteBy
  simp only [h]

/-! ### Refusals and access errors -/

theorem units_cspOut {s t : Mach} (h : t.units = s.units) (x : Nat × Word) :
    ({ t with cspOut := x } : Mach).units = { s with cspOut := x }.units :=
  congrArg (fun m : Mach => { m with cspOut := x }) h

@[simp] theorem forPart_cls (r : FltRec) (p : Option Nat) (t : Nat) : (r.forPart p t).cls = r.cls := by
  cases p <;> rfl
@[simp] theorem forPart_sub (r : FltRec) (p : Option Nat) (t : Nat) : (r.forPart p t).sub = r.sub := by
  cases p <;> rfl

theorem raise_wire_of_flt {s t : Mach} (h : t.flt = s.flt) (r : FltRec) : (raise t r).flt.wire = s.flt.wire ++ [r] := by
  rw [raise_wire, h]

/-- An access error raises one record and does nothing else. -/
theorem cspError_stops (s : Mach) (mid off : Nat) : CspStops s { cspError s mid off with cspOut := (2, 0) } 2 := by
  refine ⟨rfl, units_cspOut (units_raise _ _) _, _, raise_wire _ _, ?_⟩
  split
  · exact ⟨forPart_cls _ _ _, forPart_sub _ _ _⟩
  · split
    · split
      · exact ⟨forPart_cls _ _ _, forPart_sub _ _ _⟩
      · exact ⟨rfl, rfl⟩
    · split
      · exact ⟨forPart_cls _ _ _, forPart_sub _ _ _⟩
      · exact ⟨rfl, rfl⟩
  · exact ⟨rfl, rfl⟩

@[simp] theorem flt_bump (s : Mach) (n : RegName) (u i hi lo k : Nat) : (bump s n u i hi lo k).flt = s.flt := rfl

@[simp] theorem flt_recordFirst (s : Mach) (n : RegName) (u i : Nat) (v : Word) : (recordFirst s n u i v).flt = s.flt := by
  rw [recordFirst_only]

/-- A refusal counts and is recorded in registers, raises one record and does nothing else. -/
theorem cspRefuse_stops (s : Mach) (mid off : Nat) : CspStops s { cspRefuse s mid off with cspOut := (1, 0) } 1 := by
  have hflt (n : RegName) (v : Word) : (recordFirst (bump s .PRT_STATUS 0 0 63 32 1) n 0 0 v).flt = s.flt := by
    rw [flt_recordFirst, flt_bump]
  unfold cspRefuse refuseAccess
  refine ⟨rfl, units_cspOut ?_ _, _, raise_wire_of_flt (hflt _ _) _, forPart_cls _ _ _, forPart_sub _ _ _⟩
  rw [units_raise, units_recordFirst, units_bump]

/-! ### An access that is let in -/

/-- A register after a read: the RC bits that the access covers are cleared. -/
def clearRc (s : Mach) (r : RegRef) (off size : Nat) : Mach :=
  let rc := r.name.info.mask .rc &&& halfMask off size
  if rc = 0 then s else wr s r.name r.unit r.idx (rg s r.name r.unit r.idx &&& ~~~ rc)

@[simp] theorem units_clearRc (s : Mach) (r : RegRef) (off size : Nat) : (clearRc s r off size).units = s.units := by
  unfold clearRc
  dsimp only
  split
  · rfl
  · exact units_wr _ _ _ _ _

theorem bit_rg_clearRc (s : Mach) (r : RegRef) {off size i : Nat} (hsize : sizeOk off size = true) (hi : i < 64) :
    bit (rg (clearRc s r off size) r.name r.unit r.idx) i =
      (bit (rg s r.name r.unit r.idx) i && !(bit (r.name.info.mask .rc) i && decide (8 * (off % 8) ≤ i) &&
        decide (i < 8 * (off % 8) + 8 * size))) := by
  have hrc : bit (r.name.info.mask .rc &&& halfMask off size) i =
      (bit (r.name.info.mask .rc) i && decide (8 * (off % 8) ≤ i) && decide (i < 8 * (off % 8) + 8 * size)) := by
    rw [bit_and, bit_halfMask hsize hi, Bool.and_assoc]
  rw [← hrc]
  unfold clearRc
  dsimp only
  split
  · next h => rw [h]; simp [bit]
  · rw [rg_wr, bit_and, bit_not _ hi]

/-- A read of 8 bytes leaves every RC field at 0. -/
theorem rf_clearRc_of_rc (s : Mach) (r : RegRef) {off : Nat} {f : FieldSpec} (hoff : off % 8 = 0)
    (hf : f ∈ r.name.info.fields) (hrc : f.ty = .rc) :
    rf (clearRc s r off 8) r.name r.unit r.idx f.hi f.lo = 0 := by
  have hsize : sizeOk off 8 = true := (sizeOk_iff off 8).2 (Or.inl ⟨rfl, hoff⟩)
  have hhi : f.hi < 64 := (fields_within r.name f hf).2
  apply Nat.eq_of_testBit_eq
  intro i
  unfold rf
  rw [fld_testBit, Nat.zero_testBit]
  by_cases hi : i < f.hi + 1 - f.lo
  · have h64 : f.lo + i < 64 := by omega
    have hcover : f.lo + i < 8 * (off % 8) + 8 * 8 := by omega
    have hmask : bit (r.name.info.mask .rc) (f.lo + i) = true := by
      rw [bit_mask_of_field hf (by omega) (by omega), hrc]; rfl
    have hbit := bit_rg_clearRc s r hsize h64
    rw [hmask] at hbit
    unfold bit at hbit
    simp [hbit, hoff]
    omega
  · simp [hi]

theorem ends_rcRead_register {s : State} {mid : Mid} {off size u : Nat} {b : Blk} {r : RegRef}
    (hlet : CspLet s.mach mid off) (hreg : regAt off = some (b, u, some r)) (hsize : sizeOk off size = true)
    (hpres : blkPresent s.mach b u = true) :
    Ends (.rcRead mid off size) s (fun m => m = { clearRc (settleBlk s.mach b u) r off size with
      cspOut := (0, cutValue off size (regView (settleBlk s.mach b u) r)) }) := by
  have hr : cspRead s.mach mid off size false = (.ok, cutValue off size (regView (settleBlk s.mach b u) r),
      clearRc (settleBlk s.mach b u) r off size) := by
    unfold cspRead clearRc
    rw [cspEnter_ok hlet hreg hsize none]
    simp [hpres]
  exact ends_rcRead hr

theorem ends_registerWrite_register {s : State} {mid : Mid} {off size u : Nat} {b : Blk} {r : RegRef} (v : Word)
    (hlet : CspLet s.mach mid off) (hreg : regAt off = some (b, u, some r)) (hsize : sizeOk off size = true)
    (hpres : blkPresent s.mach b u = true) (hwhole : size = 4 → only8 r.name = false) :
    Ends (.registerWrite mid off size v) s (fun m => m =
      { regWriteFull (settleBlk s.mach b u) mid r (decide (size = 4)) (widen s.mach r off size v) with cspOut := (0, 0) }) := by
  have hw : cspWrite s.mach mid off size v =
      (.ok, regWriteFull (settleBlk s.mach b u) mid r (decide (size = 4)) (widen s.mach r off size v)) := by
    unfold cspWrite cspWriteBy
    simp only [hreg, cspEnter_ok hlet hreg hsize, hpres]
    rw [if_neg (by simp), if_neg (fun h => by simp [hwhole h.1] at h)]
  exact ends_registerWrite hw

/-- A write of 4 bytes to a register that is written whole only. -/
theorem ends_registerWrite_only8 {s : State} {mid : Mid} {off u : Nat} {b : Blk} {r : RegRef} (v : Word)
    (hlet : CspLet s.mach mid off) (hreg : regAt off = some (b, u, some r)) (hsize : sizeOk off 4 = true)
    (hpres : blkPresent s.mach b u = true) (hwhole : only8 r.name = true) :
    Ends (.registerWrite mid off 4 v) s (fun m => m = { cspError s.mach mid off with cspOut := (2, 0) }) := by
  have hw : cspWrite s.mach mid off 4 v = (.error, cspError s.mach mid off) := by
    unfold cspWrite cspWriteBy
    simp only [hreg, cspEnter_ok hlet hreg hsize, hpres, hwhole]
    rfl
  exact ends_registerWrite hw

end Sys2Proof.Machine
end

section
/-! Accesses to control space: before bring-up completes (R16), by size and alignment (R13), by the types of fields (R11). -/

namespace Sys2Proof.Machine

/-- Settles O6: the only access let in before DONE is one of an identity or status register, and a busy error leaves the
package as it is. -/
theorem busyBeforeBringUp : Obligations.BusyBeforeBringUp := by
  intro s mid off size hclk hdone hreg
  have hbusy := cspEnter_busy hclk hdone hreg mid size
  exact ⟨ends_rcRead_stopped (hbusy none), ends_registerWrite_stopped fun w => hbusy (some w)⟩

/-! ### Sizes and alignments (R13) -/

/-- An access that the checks end as an access error. -/
theorem cspQuiet_error {s : State} {mid : Mid} {off size : Nat}
    (h : ∀ v, cspEnter s.mach mid off size v = .error .error) : CspQuiet s mid off size 2 :=
  ⟨(ends_rcRead_stopped (h none)).mono fun _ hm => hm ▸ cspError_stops _ _ _,
   fun v => (ends_registerWrite_stopped (fun w => h (some w)) v).mono fun _ hm => hm ▸ cspError_stops _ _ _⟩

/-- An access that the access tables refuse. -/
theorem cspQuiet_refused {s : State} {mid : Mid} {off size : Nat}
    (h : ∀ v, cspEnter s.mach mid off size v = .error .refused) : CspQuiet s mid off size 1 :=
  ⟨(ends_rcRead_stopped (h none)).mono fun _ hm => hm ▸ cspRefuse_stops _ _ _,
   fun v => (ends_registerWrite_stopped (fun w => h (some w)) v).mono fun _ hm => hm ▸ cspRefuse_stops _ _ _⟩

/-- The half that a 4-byte write does not cover keeps the RW bits that stand in the register, where no live view hides them. -/
theorem regView_and_rw {s : Mach} {r : RegRef} {i : Nat} (hi : i < 64)
    (hlive : ∀ t : Mach, liveView t r = rg t r.name r.unit r.idx) :
    (bit (regView s r) i && bit (r.name.info.mask .rw) i) =
      (bit (rg (settleBlk s r.name.info.blk r.unit) r.name r.unit r.idx) i && bit (r.name.info.mask .rw) i) := by
  rw [bit_regView s r hi, hlive]
  by_cases hrw : bit (r.name.info.mask .rw) i = true
  · obtain ⟨hdef, hwo⟩ := rw_readable hrw
    simp [hdef, hwo]
  · simp [hrw]

/-- Settles O8: each clause is one way that an access ends, and the bits covered are those of `halfMask`. -/
theorem accessSizes : Obligations.AccessSizes := by
  refine ⟨?badSize, ?refused, ?whole, ?read, ?write8, ?write4⟩
  case badSize => exact fun s mid off size hlet hsize => cspQuiet_error (cspEnter_error hlet hsize)
  case refused =>
    exact fun s mid off size hclk hdone hall => cspQuiet_refused fun v => cspEnter_refused hclk hdone (hall v) size
  case whole =>
    intro s mid off b u r v hlet hreg hoff hpres hwhole
    have hsize : sizeOk off 4 = true := by simp [sizeOk, hoff]
    exact (ends_registerWrite_only8 v hlet hreg hsize hpres hwhole).mono fun _ hm => hm ▸ cspError_stops _ _ _
  case read =>
    intro s mid off size b u r hlet hreg hsize hpres
    refine (ends_rcRead_register hlet hreg hsize hpres).mono ?_
    rintro _ rfl
    refine ⟨?_, units_cspOut (units_clearRc _ _ _ _) _, fun i hi => bit_rg_clearRc _ r hsize hi⟩
    exact congrArg (Prod.mk 0) (cutValue_eq hsize _)
  case write8 =>
    intro s mid off b u r v hlet hreg hpres hplain hoff
    have hsize : sizeOk off 8 = true := by simp [sizeOk, hoff]
    refine (ends_registerWrite_register v hlet hreg hsize hpres (by simp)).mono ?_
    rintro _ rfl
    rw [hplain]
    rfl
  case write4 =>
    intro s mid off b u r v hlet hreg hpres hplain hwhole hb hc hoff hlive
    have hsize : sizeOk off 4 = true := by simp [sizeOk, hoff]
    obtain ⟨rfl, rfl⟩ := blk_unit_of_regAt hreg
    refine (ends_registerWrite_register v hlet hreg hsize hpres (fun _ => hwhole)).mono ?_
    rintro _ rfl
    refine ⟨widen s.mach r off 4 v, by rw [hplain], fun i hi => ?_⟩
    rw [bit_widen_four _ r v hoff hi hb hc, regView_and_rw hi hlive]

/-! ### Access types (R11) -/

/-- Settles O9: every bit of a register lies in one field at most, whose type alone says what a read and a write do to it. -/
theorem accessTypes : Obligations.AccessTypes := by
  refine ⟨?written, ?others, ?hidden, ?readClears⟩
  case written =>
    intro s r v f i hf hl hh
    dsimp only
    rw [bit_rg_plainWrite_field s r v hf hl hh]
    cases f.ty <;> simp
  case others => exact fun s r q v h => rg_plainWrite_other s r q v h
  case hidden => exact bit_regView_hidden
  case readClears =>
    intro s mid r f hlet hreg hoff hpres hf hrc
    have hsize : sizeOk r.addr 8 = true := by simp [sizeOk, hoff]
    refine (ends_rcRead_register hlet hreg hsize hpres).mono ?_
    rintro _ rfl
    exact ⟨rfl, rf_clearRc_of_rc _ r hoff hf hrc⟩

end Sys2Proof.Machine
end

section
/-! Concrete accesses that meet the hypotheses: before bring-up completes, and with it complete. -/

namespace Sys2Proof.Tests

open Sys2Proof.Machine

/-- With bring-up complete the hub's own accesses are let in at every offset. -/
theorem cspLet_live (off : Nat) : CspLet live 0 off :=
  ⟨rfl, rb_wb Mach.reset .BOOT_STATUS 0 0 63 true (by decide), fun _ => rfl⟩

theorem regAt_holdLimit : regAt 0x20030 = some (.alm, 0, some ⟨.ALM_HOLD_LIMIT, 0, 0⟩) := by decide

theorem plainReg_holdLimit : plainReg ⟨.ALM_HOLD_LIMIT, 0, 0⟩ := fun _ _ _ _ => rfl

/-- After reset, a read of ALM_HOLD_LIMIT is answered busy. -/
theorem busy_at_reset :
    Ends (.rcRead 0 0x20030 8) (at_ Mach.reset) (fun m => m = { Mach.reset with cspOut := (3, 0) }) := by
  refine (busyBeforeBringUp (at_ Mach.reset) 0 0x20030 8 rfl (by decide) ?_).1
  rintro b u r h
  rw [regAt_holdLimit] at h
  cases h
  rfl

/-- 8 bytes that start in the middle of a register are an access error. -/
theorem misaligned_is_error : CspQuiet (at_ live) 0 0x20034 8 2 := by
  obtain ⟨hsize, -⟩ := accessSizes
  exact hsize (at_ live) 0 0x20034 8 (cspLet_live _) rfl

/-- A master whose ID names nothing is refused. -/
theorem invalid_master_is_refused : CspQuiet (at_ live) 0x1FF 0x20030 8 1 := by
  obtain ⟨-, hrefused, -⟩ := accessSizes
  exact hrefused (at_ live) 0x1FF 0x20030 8 rfl (cspLet_live 0).2.1 (fun _ => rfl)

/-- A write of the low half of ALM_HOLD_LIMIT reaches its field. -/
theorem low_half_written (v : Word) : Ends (.registerWrite 0 0x20030 4 v) (at_ live) (fun m =>
    ∃ w : Word, m = { plainWrite live ⟨.ALM_HOLD_LIMIT, 0, 0⟩ w with cspOut := (0, 0) } ∧ bit w 15 = bit v 15) := by
  obtain ⟨-, -, -, -, -, hhalf⟩ := accessSizes
  refine (hhalf (at_ live) 0 0x20030 .alm 0 _ v (cspLet_live _) regAt_holdLimit rfl plainReg_holdLimit rfl (by decide)
    (by decide) rfl (fun _ => rfl)).mono ?_
  rintro m ⟨w, hm, hw⟩
  exact ⟨w, hm, hw 15 (by decide)⟩

/-- A read of SEQ_SLIPMAX of bay 0 clears its slip. -/
theorem slipMax_read_clears : Ends (.rcRead 0 0x800830 8) (at_ live) (fun m => rf m .SEQ_SLIPMAX 0 0 31 0 = 0) := by
  obtain ⟨-, -, -, hrc⟩ := accessTypes
  exact (hrc (at_ live) 0 ⟨.SEQ_SLIPMAX, 0, 0⟩ ⟨31, 0, .rc, 0⟩ (cspLet_live _) (by decide) rfl rfl (by decide) rfl).mono
    fun _ h => h.2

end Sys2Proof.Tests
end

section
/-! Offsets that no block covers, offsets without a register, and blocks of an absent unit (R7, R32). -/

namespace Sys2Proof.Machine

/-! ### Where no block lies -/

theorem blkAt_of_invalid_die {off : Nat} (hwin : off < 0x4000000) (hdie : validDie (off / 0x200000) = false) :
    blkAt off = none := by
  unfold blkAt
  rw [if_neg (by omega), if_neg (by omega)]
  exact if_pos hdie

theorem blkAt_of_beyond_doorbells {off : Nat} (h : 0x5000000 ≤ off) : blkAt off = none := by
  unfold blkAt
  rw [if_neg (by omega), if_pos (by omega)]

theorem regAt_of_blkAt_none {off : Nat} (h : blkAt off = none) : regAt off = none := by
  unfold regAt
  rw [h, Option.map_none]

theorem cspEnter_uncovered {s : Mach} {mid off : Nat} (hlet : CspLet s mid off) (hblk : blkAt off = none) (size : Nat)
    (v : Option Word) : cspEnter s mid off size v = .error .error := by
  obtain ⟨hclk, hdone, hall⟩ := hlet
  unfold cspEnter
  rw [if_neg (by simp [hclk]), if_neg (by simp [hdone]), if_neg (by simp [hall]), regAt_of_blkAt_none hblk]

/-! ### An access that is let in and meets no register -/

/-- An offset of a block answers for no register: its unit is absent, or no register stands there. -/
def NoRegister (s : Mach) (b : Blk) (u : Nat) (r : Option RegRef) : Prop := blkPresent s b u = false ∨ r = none

theorem cspRead_noRegister {s : Mach} {mid off size u : Nat} {b : Blk} {r : Option RegRef} (hlet : CspLet s mid off)
    (hreg : regAt off = some (b, u, r)) (hsize : sizeOk off size = true) (hno : NoRegister s b u r) (peek : Bool) :
    cspRead s mid off size peek = (.ok, 0, s) := by
  unfold cspRead
  rw [cspEnter_ok hlet hreg hsize none]
  rcases hno with habs | rfl
  · exact if_pos habs
  · exact ite_self _

theorem cspWrite_noRegister {s : Mach} {mid off size u : Nat} {b : Blk} {r : Option RegRef} (hlet : CspLet s mid off)
    (hreg : regAt off = some (b, u, r)) (hsize : sizeOk off size = true) (hno : NoRegister s b u r) (v : Word) :
    cspWrite s mid off size v = (.ok, s) := by
  unfold cspWrite cspWriteBy
  simp only [cspEnter_ok hlet hreg hsize]
  rcases hno with habs | rfl
  · exact if_pos habs
  · exact ite_self _

/-- Settles O7: a bad die ID and the range beyond the doorbells are offsets of no block, and an absent unit answers as an
offset without a register does. -/
theorem uncoveredAddresses : Obligations.UncoveredAddresses := by
  refine ⟨?uncovered, ?noRegister⟩
  case uncovered =>
    intro s mid off size hlet hwhere
    have hblk : blkAt off = none := by
      rcases hwhere with ⟨hwin, hdie⟩ | hbeyond | hnone
      · exact blkAt_of_invalid_die hwin hdie
      · exact blkAt_of_beyond_doorbells hbeyond
      · exact hnone
    exact cspQuiet_error (cspEnter_uncovered hlet hblk size)
  case noRegister =>
    intro s mid off size b u hlet hsize hwhere
    obtain ⟨r, hreg, hno⟩ : ∃ r, regAt off = some (b, u, r) ∧ NoRegister s.mach b u r := by
      rcases hwhere with hempty | ⟨r, hreg, habs⟩
      · exact ⟨none, hempty, Or.inr rfl⟩
      · exact ⟨r, hreg, Or.inl habs⟩
    exact ⟨ends_rcRead (cspRead_noRegister hlet hreg hsize hno false),
      fun v => ends_registerWrite (cspWrite_noRegister hlet hreg hsize hno v)⟩

end Sys2Proof.Machine
end

section
/-! Offsets that meet the hypotheses, at the edges of the ranges: of a die ID that is not valid, beyond the doorbells, between
blocks, without a register, and of an absent unit. -/

namespace Sys2Proof.Tests

open Sys2Proof.Machine

/-- The last byte of the die windows: die ID 0x1F is not valid. -/
theorem last_die_window_is_error (size : Nat) : CspQuiet (at_ live) 0 0x3FFFFFF size 2 := by
  obtain ⟨huncovered, -⟩ := uncoveredAddresses
  exact huncovered (at_ live) 0 0x3FFFFFF size (cspLet_live _) (Or.inl ⟨by decide, by decide⟩)

/-- The first byte beyond the doorbell pages. -/
theorem beyond_doorbells_is_error (size : Nat) : CspQuiet (at_ live) 0 0x5000000 size 2 := by
  obtain ⟨huncovered, -⟩ := uncoveredAddresses
  exact huncovered (at_ live) 0 0x5000000 size (cspLet_live _) (Or.inr (Or.inl (by decide)))

/-- The first byte behind the hub's last block. -/
theorem behind_hub_blocks_is_error (size : Nat) : CspQuiet (at_ live) 0 0x140000 size 2 := by
  obtain ⟨huncovered, -⟩ := uncoveredAddresses
  exact huncovered (at_ live) 0 0x140000 size (cspLet_live _) (Or.inr (Or.inr (by decide)))

/-- The last 8 bytes of the last doorbell page hold no register: they read 0 and ignore writes. -/
theorem end_of_doorbells_reads_zero :
    Ends (.rcRead 0 0x4FFFFF8 8) (at_ live) (fun m => m = { live with cspOut := (0, 0) }) ∧
    ∀ v : Word, Ends (.registerWrite 0 0x4FFFFF8 8 v) (at_ live) (fun m => m = { live with cspOut := (0, 0) }) := by
  obtain ⟨-, hnone⟩ := uncoveredAddresses
  exact hnone (at_ live) 0 0x4FFFFF8 8 .door 4095 (cspLet_live _) (by decide) (Or.inl (by decide))

/-- The package `live` as an HD25-E, whose barn dies have ports 0 to 2 only. -/
def liveE : Mach := { live with fuses := { live.fuses with variantE := true } }

theorem cspLet_liveE (off : Nat) : CspLet liveE 0 off := by
  obtain ⟨hclk, hdone, -⟩ := cspLet_live off
  exact ⟨hclk, hdone, fun _ => rfl⟩

/-- Port 3 of an HD25-E is absent: its VK_CTL reads 0 and ignores writes. -/
theorem absent_port_reads_zero :
    Ends (.rcRead 0 0x530008 8) (at_ liveE) (fun m => m = { liveE with cspOut := (0, 0) }) ∧
    ∀ v : Word, Ends (.registerWrite 0 0x530008 8 v) (at_ liveE) (fun m => m = { liveE with cspOut := (0, 0) }) := by
  obtain ⟨-, hnone⟩ := uncoveredAddresses
  have hreg : regAt 0x530008 = some (.vk, 3, some ⟨.VK_CTL, 3, 0⟩) := by decide
  exact hnone (at_ liveE) 0 0x530008 8 .vk 3 (cspLet_liveE _) (by decide) (Or.inr ⟨_, hreg, rfl⟩)

end Sys2Proof.Tests
end

section
/-! Where the registers of the power controller lie, and what stores elsewhere leave in them (chapter 20, R526, R527). -/

namespace Sys2Proof.Machine

/-! ### Registers at other offsets -/

theorem rg_wf_apart {n m : RegName} {u i u' i' : Nat} (h : RegRef.addr ⟨m, u', i'⟩ ≠ RegRef.addr ⟨n, u, i⟩)
    (s : Mach) (hi lo v : Nat) : rg (wf s n u i hi lo v) m u' i' = rg s m u' i' := rg_wr_other _ _ _ _ _ _ _ _ h

theorem rf_wf_apart {n m : RegName} {u i u' i' : Nat} (h : RegRef.addr ⟨m, u', i'⟩ ≠ RegRef.addr ⟨n, u, i⟩)
    (s : Mach) (hi lo v hi' lo' : Nat) : rf (wf s n u i hi lo v) m u' i' hi' lo' = rf s m u' i' hi' lo' := by
  unfold rf
  rw [rg_wf_apart h]

theorem rb_wf_apart {n m : RegName} {u i u' i' : Nat} (h : RegRef.addr ⟨m, u', i'⟩ ≠ RegRef.addr ⟨n, u, i⟩)
    (s : Mach) (hi lo v k : Nat) : rb (wf s n u i hi lo v) m u' i' k = rb s m u' i' k := by
  unfold rb
  rw [rg_wf_apart h]

/-- A field holds a value that fits in it. -/
theorem rf_wf_of_lt (s : Mach) (n : RegName) (u i : Nat) {hi lo v : Nat} (h : lo ≤ hi + 1) (hn : hi < 64)
    (hv : v < 2 ^ (hi + 1 - lo)) : rf (wf s n u i hi lo v) n u i hi lo = v := by
  rw [rf_wf _ _ _ _ _ _ _ h hn, Nat.mod_eq_of_lt hv]

theorem sat_lt (width v : Nat) : sat width v < 2 ^ width := by
  have : 0 < 2 ^ width := Nat.two_pow_pos width
  unfold sat
  omega

theorem rf_lt (s : Mach) (n : RegName) (u i hi lo : Nat) : rf s n u i hi lo < 2 ^ (hi + 1 - lo) :=
  Nat.mod_lt _ (Nat.two_pow_pos _)

/-! ### Time -/

/-- Moving to the frame of an event moves the clock only. -/
theorem atFrame_only (s : Mach) (last : Option Nat) : atFrame s last = { s with now := (atFrame s last).now } := by
  unfold atFrame toFrameBoundary
  cases last with
  | none => dsimp only; split <;> rfl
  | some f => dsimp only; split <;> rfl

@[simp] theorem atFrame_mem (s : Mach) (last : Option Nat) : (atFrame s last).mem = s.mem := by rw [atFrame_only]

end Sys2Proof.Machine
end

section
/-! The power limit (R504 to R506): what SURGE_UPDATE, PEAK_HOLD and HOLD_END leave in PWR_SURGE and PWR_STATUS. -/

namespace Sys2Proof.Machine

/-! ### The frame's energy is booked (R505, R519) -/

@[simp] theorem refreshEff_pwr (s : Mach) : (refreshEff s).pwr = s.pwr := rfl
@[simp] theorem refreshEff_mem (s : Mach) : (refreshEff s).mem = s.mem := rfl

theorem rg_refreshEff {n : RegName} {u i : Nat} (hshift : RegRef.addr ⟨n, u, i⟩ ≠ RegRef.addr ⟨.PWR_SHIFT, 0, 0⟩)
    (hppl : RegRef.addr ⟨n, u, i⟩ ≠ RegRef.addr ⟨.PWR_PPL, 0, 0⟩) (s : Mach) : rg (refreshEff s) n u i = rg s n u i := by
  unfold refreshEff
  dsimp only
  rw [rg_wf_apart hppl, rg_wf_apart hshift, rg_wf_apart hshift]

theorem csr_foldS_bookEnergy {α : Type} (l : List α) (o e : α → Nat) (s : Mach) :
    (foldS l (fun t x => bookEnergy t (o x) (e x)) s).csr = s.csr := foldS_keeps Mach.csr l _ s fun _ _ => rfl

theorem mem_foldS_bookEnergy {α : Type} (l : List α) (o e : α → Nat) (s : Mach) :
    (foldS l (fun t x => bookEnergy t (o x) (e x)) s).mem = s.mem := foldS_keeps Mach.mem l _ s fun _ _ => rfl

/-- The frame at whose end the surge bucket stands, its energy booked: LEVEL has taken the energy above PPL_EFF, clamped to 0
and CAP, and no register has changed (R505). -/
structure Booked (t u : Mach) : Prop where
  csr : u.csr = t.csr
  mem : u.mem = t.mem
  events : u.pwr.events = []
  surgeAt : u.pwr.surgeAt = some (frameNo t)
  level : u.pwr.level = min (capEnergy t) (t.pwr.level + u.pwr.est - pplEff t (frameNo t - 1) * wattFrame)

/-- The count of frames in a row above 2,400 W (R506). -/
def countAbove (s : Mach) (above : Bool) : Mach :=
  wf s .PWR_SURGE 0 0 39 32 (if above then sat 8 (rf s .PWR_SURGE 0 0 39 32 + 1) else 0)

/-- The count of frames that remain of HOLD (R506). -/
def countHold (s : Mach) (above : Bool) : Mach :=
  let left := rf s .PWR_SURGE 0 0 55 40
  if inHold s then wf s .PWR_SURGE 0 0 55 40 (if above then 2196 else left - 1) else s

/-- SURGE_UPDATE books the frame, shows its power and LEVEL, and then counts it. -/
theorem surgeUpdate_eq {s : Mach} (hon : powerOn s = true) :
    ∃ (u : Mach) (drawn dyn shown : Nat), Booked (atFrame s s.pwr.surgeAt) u ∧
      let v := wf (wf (wf u .PWR_EST 0 0 47 32 drawn) .PWR_EST 0 0 31 16 dyn) .PWR_SURGE 0 0 31 16 shown
      let above := decide (2400 * wattFrame < u.pwr.est)
      surgeUpdate s = refreshEff (countHold (countAbove v above) above) := by
  unfold surgeUpdate
  rw [if_neg (by simp [hon])]
  refine ⟨_, _, _, _, ⟨?csr, ?mem, rfl, rfl, rfl⟩, rfl⟩
  case csr => rw [modPwr_csr, csr_foldS_bookEnergy, csr_foldS_bookEnergy]
  case mem =>
    dsimp only [modPwr]
    rw [mem_foldS_bookEnergy, mem_foldS_bookEnergy]

/-! ### The frame is counted (R506) -/

theorem inHold_wf_surge (s : Mach) (hi lo v : Nat) : inHold (wf s .PWR_SURGE 0 0 hi lo v) = inHold s :=
  rb_wf_apart (by decide) s hi lo v 15

theorem countHold_only (s : Mach) (above : Bool) : countHold s above = { s with csr := (countHold s above).csr } := by
  unfold countHold
  dsimp only
  cases inHold s <;> rfl

theorem rf_countAbove (s : Mach) (above : Bool) : rf (countAbove s above) .PWR_SURGE 0 0 39 32 =
    if above then sat 8 (rf s .PWR_SURGE 0 0 39 32 + 1) else 0 := by
  refine rf_wf_of_lt s _ _ _ (by decide) (by decide) ?_
  split
  · exact sat_lt 8 _
  · decide

theorem rf_countHold_above (s : Mach) (above : Bool) :
    rf (countHold s above) .PWR_SURGE 0 0 39 32 = rf s .PWR_SURGE 0 0 39 32 := by
  unfold countHold
  dsimp only
  cases inHold s
  · rfl
  · exact rf_wf_other _ _ _ _ _ _ _ _ _ (by decide) (by decide)

theorem rf_countHold_left (s : Mach) (above : Bool) : rf (countHold s above) .PWR_SURGE 0 0 55 40 =
    if inHold s = false then rf s .PWR_SURGE 0 0 55 40 else if above then 2196 else rf s .PWR_SURGE 0 0 55 40 - 1 := by
  have hleft : rf s .PWR_SURGE 0 0 55 40 < 2 ^ 16 := rf_lt s .PWR_SURGE 0 0 55 40
  unfold countHold
  dsimp only
  cases inHold s
  · rfl
  · exact rf_wf_of_lt _ _ _ _ (by decide) (by decide) (by split <;> omega)

/-- SURGE_UPDATE at the end of a frame (R505, R506). -/
theorem ends_surgeUpdate {s : State} (hon : powerOn s.mach = true) :
    Ends .surgeUpdate s (fun m =>
      let t := atFrame s.mach s.mach.pwr.surgeAt
      m.pwr.level = min (capEnergy t) (t.pwr.level + m.pwr.est - pplEff t (frameNo t - 1) * wattFrame) ∧ m.pwr.events = [] ∧
      m.pwr.surgeAt = some (frameNo t) ∧ m.mem = s.mach.mem ∧
      rf m .PWR_SURGE 0 0 39 32 = (if 2400 * wattFrame < m.pwr.est then sat 8 (rf t .PWR_SURGE 0 0 39 32 + 1) else 0) ∧
      rf m .PWR_SURGE 0 0 55 40 = (if inHold t = false then rf t .PWR_SURGE 0 0 55 40
        else if 2400 * wattFrame < m.pwr.est then 2196 else rf t .PWR_SURGE 0 0 55 40 - 1)) := by
  obtain ⟨u, drawn, dyn, shown, hbooked, heq⟩ := surgeUpdate_eq hon
  refine ⟨_, rfl, ?_⟩
  have hsurge (w : Mach) (hi lo : Nat) : rf (refreshEff w) .PWR_SURGE 0 0 hi lo = rf w .PWR_SURGE 0 0 hi lo :=
    congrArg (fld · hi lo) (rg_refreshEff (by decide) (by decide) w)
  have hshown (hi lo : Nat) (hd : 31 < lo) : rf (wf (wf (wf u .PWR_EST 0 0 47 32 drawn) .PWR_EST 0 0 31 16 dyn)
      .PWR_SURGE 0 0 31 16 shown) .PWR_SURGE 0 0 hi lo = rf (atFrame s.mach s.mach.pwr.surgeAt) .PWR_SURGE 0 0 hi lo := by
    rw [rf_wf_other _ _ _ _ _ _ _ _ _ (by decide) (Or.inr hd), rf_wf_apart (by decide), rf_wf_apart (by decide)]
    unfold rf rg csrAt
    rw [hbooked.csr]
  have hhold : inHold (wf (wf (wf u .PWR_EST 0 0 47 32 drawn) .PWR_EST 0 0 31 16 dyn) .PWR_SURGE 0 0 31 16 shown) =
      inHold (atFrame s.mach s.mach.pwr.surgeAt) := by
    rw [inHold_wf_surge]
    unfold inHold
    rw [rb_wf_apart (by decide), rb_wf_apart (by decide)]
    unfold rb rg csrAt
    rw [hbooked.csr]
  have hpwr : (surgeUpdate s.mach).pwr = u.pwr := by rw [heq, refreshEff_pwr, countHold_only]; rfl
  dsimp only
  rw [hpwr]
  refine ⟨hbooked.level, hbooked.events, hbooked.surgeAt, ?mem, ?counted, ?left⟩
  case mem =>
    rw [heq, refreshEff_mem, countHold_only]
    exact hbooked.mem.trans (atFrame_mem _ _)
  case counted =>
    rw [heq, hsurge, rf_countHold_above, rf_countAbove, hshown 39 32 (by decide)]
    simp only [decide_eq_true_eq]
  case left =>
    rw [heq, hsurge, rf_countHold_left]
    unfold countAbove
    rw [inHold_wf_surge, hhold, rf_wf_other _ _ _ _ _ _ _ _ _ (by decide) (by decide), hshown 55 40 (by decide)]
    simp only [decide_eq_true_eq]

end Sys2Proof.Machine
end

section
/-! What the power controller shows of the package beside its own choices, and its events (R526), which leave it. -/

namespace Sys2Proof.Machine

/-! ### What is seen at an offset -/

/-- Memory, the bays, and the register at an offset of control space. -/
def Mach.seen (a : Nat) (s : Mach) : SMap Byte × Vector Bay 72 × Word := (s.mem, s.bays, csrAt s a)

theorem mem_of_seen {a : Nat} {s t : Mach} (h : s.seen a = t.seen a) : s.mem = t.mem := congrArg Prod.fst h
theorem bays_of_seen {a : Nat} {s t : Mach} (h : s.seen a = t.seen a) : s.bays = t.bays := congrArg (fun x => x.2.1) h
theorem csrAt_of_seen {a : Nat} {s t : Mach} (h : s.seen a = t.seen a) : csrAt s a = csrAt t a := congrArg (fun x => x.2.2) h

theorem rf_of_seen {n : RegName} {u i : Nat} {s t : Mach} (h : s.seen (RegRef.addr ⟨n, u, i⟩) = t.seen (RegRef.addr ⟨n, u, i⟩))
    (hi lo : Nat) : rf s n u i hi lo = rf t n u i hi lo := congrArg (fld · hi lo) (csrAt_of_seen h)

theorem seen_wr {a : Nat} {n : RegName} {u i : Nat} (h : a ≠ RegRef.addr ⟨n, u, i⟩) (s : Mach) (v : Word) :
    (wr s n u i v).seen a = s.seen a := by
  unfold Mach.seen wr
  rw [csrAt_csrPut, if_neg h]
  rfl

theorem seen_wf {a : Nat} {n : RegName} {u i : Nat} (h : a ≠ RegRef.addr ⟨n, u, i⟩) (s : Mach) (hi lo v : Nat) :
    (wf s n u i hi lo v).seen a = s.seen a := seen_wr h s _

theorem seen_atFrame (a : Nat) (s : Mach) (last : Option Nat) : (atFrame s last).seen a = s.seen a := by
  rw [atFrame_only]
  rfl

/-! ### Events and records -/

/-- An offset that no event of the controller stores at: neither PWR_EVENTS nor a die's count of records. -/
structure Eventless (a : Nat) : Prop where
  events : a ≠ RegRef.addr ⟨.PWR_EVENTS, 0, 0⟩
  records : ∀ die : Nat, a ≠ RegRef.addr ⟨.CNT_AO, 0, die * 8 + 7⟩

/-- The hub's power block lies below its counters. -/
theorem eventless_hub {a : Nat} (hne : a ≠ 0x30008) (hlt : a < 0x121000) : Eventless a :=
  ⟨hne, fun die => by simp only [RegRef.addr, RegName.info, Blk.base]; omega⟩

theorem seen_raise {a : Nat} (h : ∀ die : Nat, a ≠ RegRef.addr ⟨.CNT_AO, 0, die * 8 + 7⟩) (s : Mach) (r : FltRec) :
    (raise s r).seen a = s.seen a := by
  unfold raise
  dsimp only
  split
  · rfl
  · exact seen_wr (h r.die) _ _

theorem pwrEvent_of_set {s : Mach} {k : Nat} (h : rb s .PWR_EVENTS 0 0 k = true) (d : Option Nat) : pwrEvent s k d = s := by
  unfold pwrEvent
  rw [if_pos h]

/-- An event that becomes set raises a record and may send an item to its ring. -/
theorem pwrEvent_of_clear {s : Mach} {k : Nat} (h : rb s .PWR_EVENTS 0 0 k = false) (d : Option Nat) :
    ∃ (r : FltRec) (items : List HwItem), pwrEvent s k d =
      { raise { wb s .PWR_EVENTS 0 0 k true with freeCtr := s.freeCtr + 1 } r with hwItems := items } := by
  have hsend (t : Mach) (send : Bool) (ring : Nat) (line : Line) : ∃ items : List HwItem,
      (if send = true then sendItem t ring 5 line none else t) = { t with hwItems := items } := by
    cases send
    · exact ⟨t.hwItems, rfl⟩
    · exact ⟨_, rfl⟩
  unfold pwrEvent
  rw [if_neg (by simp [h])]
  exact ⟨_, hsend _ _ _ _⟩

theorem seen_pwrEvent {a : Nat} (h : Eventless a) (s : Mach) (k : Nat) (d : Option Nat) :
    (pwrEvent s k d).seen a = s.seen a := by
  cases hk : rb s .PWR_EVENTS 0 0 k
  · obtain ⟨r, items, heq⟩ := pwrEvent_of_clear hk d
    rw [heq]
    exact (seen_raise h.records _ r).trans (seen_wf h.events s k k 1)
  · rw [pwrEvent_of_set hk]

theorem seen_thermRecord {a : Nat} (h : Eventless a) (s : Mach) (die sev : Nat) :
    (thermRecord s die sev).seen a = s.seen a := seen_raise h.records _ _

/-- The bit of an event is set after it. -/
theorem rb_pwrEvent (s : Mach) {k : Nat} (hk : k < 64) (d : Option Nat) : rb (pwrEvent s k d) .PWR_EVENTS 0 0 k = true := by
  cases hset : rb s .PWR_EVENTS 0 0 k
  · obtain ⟨r, items, heq⟩ := pwrEvent_of_clear hset d
    have hrec (die : Nat) : RegRef.addr ⟨.PWR_EVENTS, 0, 0⟩ ≠ RegRef.addr ⟨.CNT_AO, 0, die * 8 + 7⟩ := by
      simp only [RegRef.addr, RegName.info, Blk.base]
      omega
    have hkeep := csrAt_of_seen (seen_raise hrec { wb s .PWR_EVENTS 0 0 k true with freeCtr := s.freeCtr + 1 } r)
    rw [heq]
    exact (congrArg (bit · k) hkeep).trans (rb_wb s .PWR_EVENTS 0 0 k true hk)
  · rw [pwrEvent_of_set hset, hset]

/-! ### HOLD (R506) -/

theorem ends_peakHold {s : State} (hnot : inHold s.mach = false) (hcount : 244 ≤ rf s.mach .PWR_SURGE 0 0 39 32) :
    Ends .peakHold s (fun m => inHold m = true ∧ rf m .PWR_SURGE 0 0 55 40 = 2196 ∧ rb m .PWR_EVENTS 0 0 1 = true) := by
  refine ⟨_, rfl, ?_⟩
  dsimp only
  have heq : peakHold s.mach =
      pwrEvent (wf (wb s.mach .PWR_STATUS 0 0 15 true) .PWR_SURGE 0 0 55 40 2196) 1 none := if_pos ⟨hnot, hcount⟩
  rw [heq]
  refine ⟨?_, ?_, rb_pwrEvent _ (by decide) none⟩
  · have hkeep := csrAt_of_seen (seen_pwrEvent (eventless_hub (a := RegRef.addr ⟨.PWR_STATUS, 0, 0⟩) (by decide) (by decide))
      (wf (wb s.mach .PWR_STATUS 0 0 15 true) .PWR_SURGE 0 0 55 40 2196) 1 none)
    calc inHold (pwrEvent (wf (wb s.mach .PWR_STATUS 0 0 15 true) .PWR_SURGE 0 0 55 40 2196) 1 none)
        = inHold (wf (wb s.mach .PWR_STATUS 0 0 15 true) .PWR_SURGE 0 0 55 40 2196) := congrArg (bit · 15) hkeep
      _ = inHold (wb s.mach .PWR_STATUS 0 0 15 true) := inHold_wf_surge _ _ _ _
      _ = true := rb_wb s.mach .PWR_STATUS 0 0 15 true (by decide)
  · rw [rf_of_seen (seen_pwrEvent (eventless_hub (by decide) (by decide)) _ 1 none)]
    exact rf_wf_of_lt _ _ _ _ (by decide) (by decide) (by decide)

theorem ends_peakHold_idle {s : State} (h : inHold s.mach = true ∨ rf s.mach .PWR_SURGE 0 0 39 32 < 244) :
    Ends .peakHold s (fun m => m = s.mach) := by
  refine ⟨_, rfl, if_neg ?_⟩
  rintro ⟨hnot, hcount⟩
  rcases h with hin | hlow
  · exact absurd hin (by simp [hnot])
  · omega

theorem ends_holdEnd {s : State} (hin : inHold s.mach = true) (hleft : rf s.mach .PWR_SURGE 0 0 55 40 = 0) :
    Ends .holdEnd s (fun m => inHold m = false ∧ m.units = s.mach.units) := by
  have heq : holdEnd s.mach = wb s.mach .PWR_STATUS 0 0 15 false := if_pos ⟨hin, hleft⟩
  refine ⟨_, rfl, ?_⟩
  dsimp only
  rw [heq]
  exact ⟨rb_wb s.mach .PWR_STATUS 0 0 15 false (by decide), units_wb _ _ _ _ _ _⟩

theorem ends_holdEnd_idle {s : State} (hleft : rf s.mach .PWR_SURGE 0 0 55 40 ≠ 0) : Ends .holdEnd s (fun m => m = s.mach) :=
  ⟨_, rfl, if_neg fun h => hleft h.2⟩

end Sys2Proof.Machine
end

section
/-! The state of a die's gear, PWR_LSTAT (R527): where it lies, and what a walk over the dies leaves in it. -/

namespace Sys2Proof.Machine

/-! ### PWR_LSTAT -/

/-- The gear, the caps and the emergency bit of a compute die: its PWR_LSTAT. -/
def lstat (s : Mach) (d : Nat) : Word := rg s .PWR_LSTAT d 0

theorem gearOf_eq (s : Mach) (d : Nat) : gearOf s d = fld (lstat s d) 4 0 := rfl
theorem nextGear_eq (s : Mach) (d : Nat) : nextGear s d = fld (lstat s d) 23 19 := rfl
theorem tcap_eq (s : Mach) (d : Nat) : tcap s d = fld (lstat s d) 18 14 := rfl
theorem inEmerg_eq (s : Mach) (d : Nat) : inEmerg s d = bit (lstat s d) 24 := rfl

/-- A die window holds PWR_LSTAT at one offset. -/
theorem addr_lstat_mod (d : Nat) : RegRef.addr ⟨.PWR_LSTAT, d, 0⟩ % 0x200000 = 0x102000 := by
  simp only [RegRef.addr, RegName.info, Blk.base, dieBase]
  omega

theorem addr_lstat_ge (d : Nat) : 0x800000 ≤ RegRef.addr ⟨.PWR_LSTAT, d, 0⟩ := by
  simp only [RegRef.addr, RegName.info, Blk.base, dieBase, compDieId]
  split <;> omega

theorem addr_lstat_inj {d e : Nat} (h : d ≠ e) : RegRef.addr ⟨.PWR_LSTAT, d, 0⟩ ≠ RegRef.addr ⟨.PWR_LSTAT, e, 0⟩ := by
  simp only [RegRef.addr, RegName.info, Blk.base, dieBase, compDieId]
  split <;> split <;> omega

/-- No register of the hub's power block is a PWR_LSTAT. -/
theorem addr_lstat_ne_hub (d : Nat) {a : Nat} (h : a < 0x800000) : RegRef.addr ⟨.PWR_LSTAT, d, 0⟩ ≠ a := by
  have := addr_lstat_ge d
  omega

/-- The registers of a bay lie in the first half of its die's window. -/
theorem addr_bay_window {n : RegName} {b i : Nat} (hblk : n.info.blk = .seq ∨ n.info.blk = .bcnt ∨ n.info.blk = .bflt)
    (hoff : n.info.off + i * n.info.stride < 0x1000) : RegRef.addr ⟨n, b, i⟩ % 0x200000 ≠ 0x102000 := by
  simp only [RegRef.addr]
  rcases hblk with h | h | h <;> simp only [h, Blk.base, dieBase] <;> omega

/-- PWR_LSTAT is the first register of its block. -/
theorem addr_power_window {n : RegName} {d : Nat} (hblk : n.info.blk = .pwrl) (hpos : 0 < n.info.off)
    (hlt : n.info.off < 0x1000) : RegRef.addr ⟨n, d, 0⟩ % 0x200000 ≠ 0x102000 := by
  simp only [RegRef.addr, hblk, Blk.base, dieBase]
  omega

theorem addr_almLstat_window (d : Nat) : RegRef.addr ⟨.ALM_LSTAT, d, 0⟩ % 0x200000 ≠ 0x102000 := by
  simp only [RegRef.addr, RegName.info, Blk.base, dieBase]
  omega

theorem eventless_lstat (d : Nat) : Eventless (RegRef.addr ⟨.PWR_LSTAT, d, 0⟩) := by
  have hmod := addr_lstat_mod d
  refine ⟨addr_lstat_ne_hub d (by decide), fun die => ?_⟩
  simp only [RegRef.addr, RegName.info, Blk.base] at hmod ⊢
  omega

theorem lstat_of_seen {s t : Mach} {d : Nat}
    (h : s.seen (RegRef.addr ⟨.PWR_LSTAT, d, 0⟩) = t.seen (RegRef.addr ⟨.PWR_LSTAT, d, 0⟩)) : lstat s d = lstat t d :=
  csrAt_of_seen h

theorem lstat_wf (s : Mach) (d hi lo v : Nat) : lstat (wf s .PWR_LSTAT d 0 hi lo v) d = setFld (lstat s d) hi lo v :=
  rg_wr _ _ _ _ _

theorem lstat_wf_other (s : Mach) {d e : Nat} (h : e ≠ d) (hi lo v : Nat) : lstat (wf s .PWR_LSTAT d 0 hi lo v) e = lstat s e :=
  rg_wf_apart (addr_lstat_inj h) s hi lo v

/-! ### A walk over the dies -/

theorem foldS_keeps_of_mem {α β : Type} (g : Mach → β) (l : List α) (f : Mach → α → Mach) (s : Mach)
    (h : ∀ t, ∀ x ∈ l, g (f t x) = g t) : g (foldS l f s) = g s := by
  induction l generalizing s with
  | nil => rfl
  | cons x l ih =>
    show g (foldS l f (f s x)) = g s
    rw [ih (f s x) fun t y hy => h t y (List.mem_cons_of_mem x hy), h s x List.mem_cons_self]

/-- A walk over dies of which each step changes one die's PWR_LSTAT only: each word stands after it as its own step leaves it. -/
theorem lstat_foldS {f : Mach → Nat → Mach} {Q : Nat → Word → Word → Prop}
    (hother : ∀ u d e, e ≠ d → lstat (f u d) e = lstat u e) (hat : ∀ u d, Q d (lstat u d) (lstat (f u d) d))
    {l : List Nat} (hl : l.Nodup) {d : Nat} (hd : d ∈ l) (s : Mach) : Q d (lstat s d) (lstat (foldS l f s) d) := by
  have hrest (l : List Nat) (hnot : d ∉ l) (u : Mach) : lstat (foldS l f u) d = lstat u d := by
    induction l generalizing u with
    | nil => rfl
    | cons e l ih =>
      rw [List.mem_cons, not_or] at hnot
      exact (ih hnot.2 (f u e)).trans (hother u e d hnot.1)
  induction l generalizing s with
  | nil => simp at hd
  | cons e l ih =>
    obtain ⟨hnot, hl⟩ := List.nodup_cons.1 hl
    show Q d (lstat s d) (lstat (foldS l f (f s e)) d)
    by_cases hde : d = e
    · subst hde
      rw [hrest l hnot]
      exact hat s d
    · rw [← hother s e d hde]
      exact ih hl ((List.mem_cons.1 hd).resolve_left hde) (f s e)

theorem mem_allDies (d : CompDie) : (d : Nat) ∈ allDies := List.mem_range.2 d.isLt

theorem nodup_allDies : allDies.Nodup := List.nodup_range

end Sys2Proof.Machine
end

section
/-! Gear selection (R501, R508, R509, R521, R522): the sensors read, the thermal caps moved, the gears chosen. -/

namespace Sys2Proof.Machine

/-! ### The sensors (R521) -/

theorem seen_readSensor {a : Nat} {n : RegName} {i : Nat} (h : a ≠ RegRef.addr ⟨n, 0, i⟩) (s : Mach) (t : Int) :
    (readSensor s n i t).seen a = s.seen a := by
  unfold readSensor
  dsimp only
  split
  · rw [seen_wf h, seen_wf h]
  · rw [seen_wf h]

theorem ofSigned_lt (w : Nat) (t : Int) : ofSigned w t < 2 ^ w := by
  have hpos : (0 : Int) < 2 ^ w := by positivity
  unfold ofSigned
  have hlt := Int.emod_lt_of_pos t hpos
  have hge := Int.emod_nonneg t (ne_of_gt hpos)
  zify
  rw [Int.toNat_of_nonneg hge]
  exact hlt

theorem rf_readSensor (s : Mach) (n : RegName) (i : Nat) (t : Int) : rf (readSensor s n i t) n 0 i 15 0 = ofSigned 16 t := by
  have hread : rf (wf s n 0 i 15 0 (ofSigned 16 t)) n 0 i 15 0 = ofSigned 16 t :=
    rf_wf_of_lt _ _ _ _ (by decide) (by decide) (ofSigned_lt 16 t)
  unfold readSensor
  dsimp only
  split
  · rw [rf_wf_other _ _ _ _ _ _ _ _ _ (by decide) (by decide), hread]
  · exact hread

/-- After a walk over sensors each one of them shows its reading. -/
theorem rf_foldS_readSensor {n : RegName} (hinj : ∀ i j : Nat, RegRef.addr ⟨n, 0, i⟩ = RegRef.addr ⟨n, 0, j⟩ → i = j)
    (g : Nat → Int) {i : Nat} (l : List Nat) (s : Mach) (h : i ∈ l ∨ rf s n 0 i 15 0 = ofSigned 16 (g i)) :
    rf (foldS l (fun u j => readSensor u n j (g j)) s) n 0 i 15 0 = ofSigned 16 (g i) := by
  induction l generalizing s with
  | nil => simpa [foldS] using h
  | cons j l ih =>
    refine ih (readSensor s n j (g j)) ?_
    by_cases hij : i = j
    · exact Or.inr (hij ▸ rf_readSensor s n i (g i))
    · refine h.imp (fun hi => (List.mem_cons.1 hi).resolve_left hij) fun hs => ?_
      rw [rf_of_seen (seen_readSensor (fun he => hij (hinj i j he)) s (g j)), hs]

/-- The package with every sensor read at the frame of the selection. -/
def readAll (s : Mach) (t : TempReport) : Mach :=
  foldS (List.range 12) (fun u k => readSensor u .PWR_STEMP k (t.stack.getD k 0))
    (foldS dieIds (fun u d => readSensor u .PWR_TEMP d (t.die.getD d 0)) (atFrame s s.pwr.selAt))

theorem addr_temp_inj (i j : Nat) (h : RegRef.addr ⟨.PWR_TEMP, 0, i⟩ = RegRef.addr ⟨.PWR_TEMP, 0, j⟩) : i = j := by
  simp only [RegRef.addr, RegName.info] at h
  omega

theorem addr_stemp_inj (i j : Nat) (h : RegRef.addr ⟨.PWR_STEMP, 0, i⟩ = RegRef.addr ⟨.PWR_STEMP, 0, j⟩) : i = j := by
  simp only [RegRef.addr, RegName.info] at h
  omega

theorem lt_of_mem_dieIds {d : Nat} (h : d ∈ dieIds) : d < 32 := by
  have hall : ∀ e ∈ dieIds, e < 32 := by decide
  exact hall d h

/-- The registers of the sensors lie at offsets 0x200 to 0x360 of the hub's power block: reading them changes none besides. -/
theorem seen_readAll {a : Nat} (h : a < 0x30200 ∨ 0x30360 ≤ a) (s : Mach) (t : TempReport) : (readAll s t).seen a = s.seen a := by
  have hstack (u : Mach) : ∀ k ∈ List.range 12, (readSensor u .PWR_STEMP k (t.stack.getD k 0)).seen a = u.seen a := by
    intro k hk
    have hlt : k < 12 := List.mem_range.1 hk
    exact seen_readSensor (by simp only [RegRef.addr, RegName.info, Blk.base]; omega) u _
  have hdie (u : Mach) : ∀ d ∈ dieIds, (readSensor u .PWR_TEMP d (t.die.getD d 0)).seen a = u.seen a := by
    intro d hd
    have hlt := lt_of_mem_dieIds hd
    exact seen_readSensor (by simp only [RegRef.addr, RegName.info, Blk.base]; omega) u _
  unfold readAll
  rw [foldS_keeps_of_mem (Mach.seen a) _ _ _ hstack, foldS_keeps_of_mem (Mach.seen a) _ _ _ hdie, seen_atFrame]

theorem rf_readAll_die (s : Mach) (t : TempReport) {d : Nat} (hd : d ∈ dieIds) :
    rf (readAll s t) .PWR_TEMP 0 d 15 0 = ofSigned 16 (t.die.getD d 0) := by
  have hlt := lt_of_mem_dieIds hd
  have hapart (k : Nat) : RegRef.addr ⟨.PWR_TEMP, 0, d⟩ ≠ RegRef.addr ⟨.PWR_STEMP, 0, k⟩ := by
    simp only [RegRef.addr, RegName.info]
    omega
  unfold readAll
  rw [rf_of_seen (foldS_keeps (Mach.seen _) _ _ _ fun u k => seen_readSensor (hapart k) u _)]
  exact rf_foldS_readSensor addr_temp_inj (fun d => t.die.getD d 0) dieIds _ (Or.inl hd)

theorem rf_readAll_stack (s : Mach) (t : TempReport) {k : Nat} (hk : k < 12) :
    rf (readAll s t) .PWR_STEMP 0 k 15 0 = ofSigned 16 (t.stack.getD k 0) :=
  rf_foldS_readSensor addr_stemp_inj (fun k => t.stack.getD k 0) _ _ (Or.inl (List.mem_range.2 hk))

/-! ### The thermal caps (R522) -/

/-- An offset that neither an event of the controller nor a store in a die's PWR_LSTAT reaches. -/
def Untouched (a : Nat) : Prop := Eventless a ∧ ∀ d : Nat, a ≠ RegRef.addr ⟨.PWR_LSTAT, d, 0⟩

theorem untouched_hub {a : Nat} (hne : a ≠ 0x30008) (hlt : a < 0x121000) : Untouched a :=
  ⟨eventless_hub hne hlt, fun d => (addr_lstat_ne_hub d (by omega)).symm⟩

/-- The cap of a die after a reading: a hot one is held one gear lower, and its event and record follow. -/
def capDie (u : Mach) (d : Nat) : Mach :=
  let u' := wf u .PWR_LSTAT d 0 18 14 (max 4 (gearOf u d - 1))
  if 4 < gearOf u d then thermRecord (pwrEvent u' 4 (some d)) (compDieId d) 1 else u'

theorem seen_capDie {a d : Nat} (he : Eventless a) (hd : a ≠ RegRef.addr ⟨.PWR_LSTAT, d, 0⟩) (u : Mach) :
    (capDie u d).seen a = u.seen a := by
  unfold capDie
  dsimp only
  split
  · rw [seen_thermRecord he, seen_pwrEvent he, seen_wf hd]
  · exact seen_wf hd _ _ _ _

theorem lstat_capDie (u : Mach) (d : Nat) : lstat (capDie u d) d = setFld (lstat u d) 18 14 (max 4 (fld (lstat u d) 4 0 - 1)) := by
  unfold capDie
  dsimp only
  split
  · rw [lstat_of_seen ((seen_thermRecord (eventless_lstat d) _ _ _).trans (seen_pwrEvent (eventless_lstat d) _ _ _)), lstat_wf]
    rfl
  · exact lstat_wf _ _ _ _ _

/-- The cap of a die moved after a reading: lowered when hot, raised below `low` degrees, kept between. -/
def moveCap (t : TempReport) (hot : List Nat) (low : Nat) (u : Mach) (d : Nat) : Mach :=
  if hot.contains d then capDie u d
  else if !hotAt (t.die[compDieId d]?) low then wf u .PWR_LSTAT d 0 18 14 (min 16 (tcap u d + 1))
  else u

/-- The cap of a cluster moved after a reading. -/
def moveClusterCap (t : TempReport) (high low : Nat) (u : Mach) (c : Nat) : Mach :=
  let p := (vget Clu.zero u.clus c).pst
  if hotAt (t.cluster[c]?) high then
    let u := modPwr u (fun w => { w with tpc := w.tpc.set c (min 5 (p + 1)) })
    if p < 5 then thermRecord (pwrEvent u 4 none) (coreDieId (c / 6)) 1 else u
  else if !hotAt (t.cluster[c]?) low then modPwr u (fun w => { w with tpc := w.tpc.set c (u.pwr.tpc.getD c 0 - 1) })
  else u

theorem thermalUpdate_eq (s : Mach) (t : TempReport) :
    let high := rf s .PWR_CFG 0 0 55 48
    let low := high - rf s .PWR_CFG 0 0 39 36
    (thermalUpdate s t).2 =
      foldS allClusters (moveClusterCap t high low) (foldS allDies (moveCap t (thermalUpdate s t).1 low) s) := by
  unfold thermalUpdate
  dsimp only
  refine congr (congrArg (foldS allClusters) ?_) (congrArg (foldS allDies · s) ?_)
  · rfl
  · rfl

theorem seen_moveCap {a d : Nat} (he : Eventless a) (hd : a ≠ RegRef.addr ⟨.PWR_LSTAT, d, 0⟩) (t : TempReport) (hot : List Nat)
    (low : Nat) (u : Mach) : (moveCap t hot low u d).seen a = u.seen a := by
  unfold moveCap
  split
  · exact seen_capDie he hd u
  · split
    · exact seen_wf hd _ _ _ _
    · rfl

theorem seen_moveClusterCap {a : Nat} (he : Eventless a) (t : TempReport) (high low : Nat) (u : Mach) (c : Nat) :
    (moveClusterCap t high low u c).seen a = u.seen a := by
  unfold moveClusterCap
  dsimp only
  split
  · split
    · rw [seen_thermRecord he, seen_pwrEvent he]
      rfl
    · rfl
  · split <;> rfl

theorem seen_thermalUpdate {a : Nat} (h : Untouched a) (s : Mach) (t : TempReport) : (thermalUpdate s t).2.seen a = s.seen a := by
  obtain ⟨he, hd⟩ := h
  rw [thermalUpdate_eq, foldS_keeps (Mach.seen a) _ _ _ fun u c => seen_moveClusterCap he t _ _ u c,
    foldS_keeps (Mach.seen a) _ _ _ fun u d => seen_moveCap he (hd d) t _ _ u]

/-- What a reading does to PWR_LSTAT of a die: the gear and the emergency bit stay, and the cap of a hot die falls one gear
below its gear, but not below gear 4. -/
structure Capped (hot : Prop) (w w' : Word) : Prop where
  gear : fld w' 4 0 = fld w 4 0
  emerg : bit w' 24 = bit w 24
  cap : hot → fld w' 18 14 = max 4 (fld w 4 0 - 1)

theorem capped_setFld (w : Word) {hot : Prop} {v : Nat} (h : hot → v = max 4 (fld w 4 0 - 1)) : Capped hot w (setFld w 18 14 v) where
  gear := fld_setFld_other _ _ _ _ _ _ (by decide) (by decide)
  emerg := bit_setFld_other _ _ _ _ _ (by decide) (by decide)
  cap hhot := by
    have hgear : fld w 4 0 < 2 ^ 5 := Nat.mod_lt _ (by decide)
    rw [fld_setFld_same _ _ _ _ (by decide) (by decide), h hhot]
    exact Nat.mod_eq_of_lt (by omega)

theorem capped_moveCap (t : TempReport) (hot : List Nat) (low : Nat) (u : Mach) (d : Nat) :
    Capped (d ∈ hot) (lstat u d) (lstat (moveCap t hot low u d) d) := by
  unfold moveCap
  by_cases hd : d ∈ hot
  · rw [if_pos (List.contains_iff_mem.2 hd), lstat_capDie]
    exact capped_setFld _ fun _ => rfl
  · rw [if_neg (fun h => hd (List.contains_iff_mem.1 h))]
    split
    · rw [lstat_wf]
      exact capped_setFld _ fun h => absurd h hd
    · exact ⟨rfl, rfl, fun h => absurd h hd⟩

theorem capped_thermalUpdate (s : Mach) (t : TempReport) (d : CompDie) :
    Capped ((d : Nat) ∈ (thermalUpdate s t).1) (lstat s d) (lstat (thermalUpdate s t).2 d) := by
  rw [thermalUpdate_eq, lstat_of_seen (foldS_keeps (Mach.seen _) _ _ _ fun u c => seen_moveClusterCap (eventless_lstat d) t _ _ u c)]
  exact lstat_foldS (Q := fun d w w' => Capped (d ∈ (thermalUpdate s t).1) w w')
    (fun u d e h => lstat_of_seen (seen_moveCap (eventless_lstat e) (addr_lstat_inj h) t _ _ u))
    (fun u d => capped_moveCap t _ _ u d) nodup_allDies (mem_allDies d) s

/-- A die whose own sensor reaches the threshold is hot. -/
theorem mem_hot {s : Mach} {t : TempReport} {d : CompDie} (h : hotAt (t.die[compDieId d]?) (rf s .PWR_CFG 0 0 55 48) = true) :
    (d : Nat) ∈ (thermalUpdate s t).1 := by
  unfold thermalUpdate
  exact List.mem_filter.2 ⟨mem_allDies d, by simp [h]⟩

/-! ### The gears chosen (R501, R508) -/

/-- A lower gear or a higher cluster cap: no gear rises. -/
theorem lowerStep_le {s : Mach} {g k g' k' : List Nat} (h : lowerStep s g k = some (g', k')) (d : Nat) :
    g'.getD d 4 ≤ g.getD d 4 := by
  unfold lowerStep at h
  split at h
  · next e _ =>
    simp only [Option.some.injEq, Prod.mk.injEq] at h
    obtain ⟨rfl, -⟩ := h
    simp only [List.getD_eq_getElem?_getD, List.getElem?_set]
    split
    · next hde =>
      subst hde
      split
      · next hlt => simp [hlt]
      · next hge => simp [hge]
    · exact le_rfl
  · split at h
    · simp only [Option.some.injEq, Prod.mk.injEq] at h
      rw [← h.1]
    · cases h

/-- The loop of R508 raises no gear. -/
theorem selectLoop_le (s : Mach) (den lim fuel : Nat) (g k : List Nat) (d : Nat) :
    (selectLoop s den lim fuel g k).1.getD d 4 ≤ g.getD d 4 := by
  induction fuel generalizing g k with
  | zero => exact le_rfl
  | succ fuel ih =>
    rw [selectLoop]
    split
    · exact le_rfl
    · split
      · next g' k' hstep => exact (ih g' k').trans (lowerStep_le hstep d)
      · exact le_rfl

/-- The gears that the loop starts from: what the bays want, cut to the caps; a die in emergency division keeps its gear. -/
def firstGears (s : Mach) (want : List Nat) : List Nat :=
  allDies.map (fun d => if inEmerg s d then gearOf s d else min (want.getD d 4) (tcap s d))

theorem firstGears_le {s : Mach} {d : CompDie} (h : inEmerg s d = false) (want : List Nat) :
    (firstGears s want).getD d 4 ≤ tcap s d := by
  have hget : (firstGears s want).getD d 4 = min (want.getD d 4) (tcap s d) := by
    have hlt : (d : Nat) < 6 := d.isLt
    simp [firstGears, allDies, hlt, h]
  rw [hget]
  exact Nat.min_le_right _ _

/-- The gears wanted and chosen are shown in PWR_LSTAT of each die. -/
def showGears (s : Mach) (want chosen : List Nat) : Mach :=
  foldS allDies (fun u d => wf (wf u .PWR_LSTAT d 0 9 5 (want.getD d 4)) .PWR_LSTAT d 0 23 19 (chosen.getD d 4)) s

theorem seen_showGears {a : Nat} (h : ∀ d, a ≠ RegRef.addr ⟨.PWR_LSTAT, d, 0⟩) (s : Mach) (want chosen : List Nat) :
    (showGears s want chosen).seen a = s.seen a :=
  foldS_keeps (Mach.seen a) _ _ _ fun u d => by rw [seen_wf (h d), seen_wf (h d)]

theorem lstat_showGears (s : Mach) (want chosen : List Nat) (d : CompDie) :
    lstat (showGears s want chosen) d = setFld (setFld (lstat s d) 9 5 (want.getD d 4)) 23 19 (chosen.getD d 4) :=
  lstat_foldS (Q := fun d w w' => w' = setFld (setFld w 9 5 (want.getD d 4)) 23 19 (chosen.getD d 4))
    (fun u d e h => by rw [lstat_wf_other _ h, lstat_wf_other _ h]) (fun u d => by rw [lstat_wf, lstat_wf])
    nodup_allDies (mem_allDies d) s

/-- The end of a selection: in the last frame of a group the fallow count of the next is chosen (R509). -/
def endSelection (s : Mach) (f : Nat) (hot : List Nat) (need : Option Nat) (meets : Bool) : Mach :=
  if f % 8 = 7 then
    let ft := rf s .PWR_STATUS 0 0 2 0
    let rise := s.pwr.hot && decide (ft < 7)
    let ft' := if s.pwr.hot then min 7 (ft + 1) else if hot = [] then ft - 1 else ft
    let s := if rise then pwrEvent s 7 none else s
    let s := if need.isNone ∧ rb s .PWR_STATUS 0 0 14 = false then pwrEvent s 0 none else s
    let s := wb s .PWR_STATUS 0 0 14 need.isNone
    let s := wf (wf s .PWR_STATUS 0 0 6 4 (need.getD 7)) .PWR_STATUS 0 0 2 0 ft'
    modPwr s (fun p => { p with hot := false, fNext := max (need.getD 7) ft' })
  else if meets then wb s .PWR_STATUS 0 0 14 false
  else s

theorem seen_modPwr (a : Nat) (s : Mach) (f : Pwr → Pwr) : (modPwr s f).seen a = s.seen a := rfl

theorem seen_endSelection {a : Nat} (he : Eventless a) (hstat : a ≠ RegRef.addr ⟨.PWR_STATUS, 0, 0⟩) (s : Mach) (f : Nat)
    (hot : List Nat) (need : Option Nat) (meets : Bool) : (endSelection s f hot need meets).seen a = s.seen a := by
  unfold endSelection
  split
  · simp only [seen_modPwr, seen_wf hstat, wb, apply_ite (Mach.seen a), seen_pwrEvent he, ite_self]
  · split
    · exact seen_wf hstat s _ _ _
    · rfl

/-- GEAR_SELECTION: the sensors are read, the caps move, and gears chosen from those wanted are shown. -/
theorem gearSelection_eq {s : Mach} (t : TempReport) (hon : powerOn s = true) :
    ∃ (p p' : Pwr → Pwr) (want : List Nat) (f lim est : Nat) (need : Option Nat) (meets : Bool),
      let u := modPwr (thermalUpdate (readAll s t) t).2 p
      let chosen := (selectLoop u (estDen u) lim 140 (firstGears u want) u.pwr.tpc).1
      gearSelection s t = endSelection (modPwr (wf (showGears u want chosen) .PWR_EST 0 0 63 48 est) p') f
        (thermalUpdate (readAll s t) t).1 need meets := by
  unfold gearSelection
  rw [if_neg (by simp [hon])]
  unfold readAll
  dsimp only
  generalize thermalUpdate _ t = x
  obtain ⟨hot, v⟩ := x
  exact ⟨_, _, _, _, _, _, _, _, rfl⟩

/-- GEAR_SELECTION (R501, R508, R509, R521, R522). -/
theorem ends_gearSelection {s : State} {t : TempReport} (hwf : t.wf = true) (hon : powerOn s.mach = true) :
    Ends (.gearSelection t) s (fun m =>
      (∀ d ∈ dieIds, rf m .PWR_TEMP 0 d 15 0 = ofSigned 16 (t.die.getD d 0)) ∧
      (∀ k, k < 12 → rf m .PWR_STEMP 0 k 15 0 = ofSigned 16 (t.stack.getD k 0)) ∧
      (∀ d : CompDie, hotAt (t.die[compDieId d]?) (rf s.mach .PWR_CFG 0 0 55 48) = true →
        tcap m d = max 4 (gearOf s.mach d - 1)) ∧
      (∀ d : CompDie, inEmerg s.mach d = false → nextGear m d ≤ tcap m d) ∧
      (∀ d : CompDie, gearOf m d = gearOf s.mach d) ∧ m.mem = s.mach.mem ∧ m.bays = s.mach.bays) := by
  obtain ⟨p, p', want, f, lim, est, need, meets, heq⟩ := gearSelection_eq t hon
  refine ⟨gearSelection s.mach t, if_pos hwf, ?_⟩
  dsimp only at heq
  generalize hu : modPwr (thermalUpdate (readAll s.mach t) t).2 p = u at heq
  generalize hchosen : (selectLoop u (estDen u) lim 140 (firstGears u want) u.pwr.tpc).1 = chosen at heq
  generalize hm : gearSelection s.mach t = m at heq
  have hshown {a : Nat} (he : Eventless a) (hest : a ≠ RegRef.addr ⟨.PWR_EST, 0, 0⟩)
      (hstat : a ≠ RegRef.addr ⟨.PWR_STATUS, 0, 0⟩) : m.seen a = (showGears u want chosen).seen a := by
    rw [heq, seen_endSelection he hstat, seen_modPwr, seen_wf hest]
  have hlstat (d : CompDie) : lstat m d = setFld (setFld (lstat u d) 9 5 (want.getD d 4)) 23 19 (chosen.getD d 4) := by
    rw [lstat_of_seen (hshown (eventless_lstat d) (addr_lstat_ne_hub d (by decide)) (addr_lstat_ne_hub d (by decide))),
      lstat_showGears]
  have hkept {a : Nat} (ha : Untouched a) (hest : a ≠ RegRef.addr ⟨.PWR_EST, 0, 0⟩)
      (hstat : a ≠ RegRef.addr ⟨.PWR_STATUS, 0, 0⟩) : m.seen a = (readAll s.mach t).seen a := by
    rw [hshown ha.1 hest hstat, seen_showGears ha.2, ← hu, seen_modPwr, seen_thermalUpdate ha]
  have hread (d : CompDie) : lstat (readAll s.mach t) d = lstat s.mach d := by
    have := addr_lstat_ge d
    exact lstat_of_seen (seen_readAll (Or.inr (by omega)) _ _)
  have hcapped (d : CompDie) : Capped ((d : Nat) ∈ (thermalUpdate (readAll s.mach t) t).1) (lstat s.mach d) (lstat u d) := by
    rw [← hread d, ← hu]
    exact capped_thermalUpdate _ t d
  have hgear (d : CompDie) : gearOf m d = gearOf s.mach d := by
    rw [gearOf_eq, hlstat d, fld_setFld_other _ _ _ _ _ _ (by decide) (by decide),
      fld_setFld_other _ _ _ _ _ _ (by decide) (by decide), (hcapped d).gear]
    rfl
  have htcap (d : CompDie) : tcap m d = tcap u d := by
    rw [tcap_eq, hlstat d, fld_setFld_other _ _ _ _ _ _ (by decide) (by decide),
      fld_setFld_other _ _ _ _ _ _ (by decide) (by decide)]
    rfl
  have hbeside := (hkept (untouched_hub (a := 0) (by decide) (by decide)) (by decide) (by decide)).trans
    (seen_readAll (Or.inl (by decide)) s.mach t)
  have hsensor {a : Nat} (hge : 0x30200 ≤ a) (hlt : a < 0x30360) : m.seen a = (readAll s.mach t).seen a :=
    hkept (untouched_hub (by omega) (by omega)) (Nat.lt_of_lt_of_le (by decide) hge).ne' (Nat.lt_of_lt_of_le (by decide) hge).ne'
  refine ⟨?die, ?stack, ?hotDie, ?below, hgear, mem_of_seen hbeside, bays_of_seen hbeside⟩
  case die =>
    intro d hd
    have hlt := lt_of_mem_dieIds hd
    rw [rf_of_seen (hsensor (by simp only [RegRef.addr, RegName.info, Blk.base]; omega)
      (by simp only [RegRef.addr, RegName.info, Blk.base]; omega)), rf_readAll_die _ t hd]
  case stack =>
    intro k hk
    rw [rf_of_seen (hsensor (by simp only [RegRef.addr, RegName.info, Blk.base]; omega)
      (by simp only [RegRef.addr, RegName.info, Blk.base]; omega)), rf_readAll_stack _ t hk]
  case hotDie =>
    intro d hhot
    have hconfig : rf (readAll s.mach t) .PWR_CFG 0 0 55 48 = rf s.mach .PWR_CFG 0 0 55 48 :=
      rf_of_seen (seen_readAll (Or.inl (by decide)) _ _) 55 48
    rw [htcap]
    exact (hcapped d).cap (mem_hot (hconfig ▸ hhot))
  case below =>
    intro d hd
    have hcalm : inEmerg u d = false := ((hcapped d).emerg).trans hd
    rw [htcap]
    calc nextGear m d = chosen.getD d 4 % 2 ^ 5 := by
          rw [nextGear_eq, hlstat d, fld_setFld_same _ _ _ _ (by decide) (by decide)]
      _ ≤ chosen.getD d 4 := Nat.mod_le _ _
      _ ≤ (firstGears u want).getD d 4 := hchosen ▸ selectLoop_le _ _ _ _ _ _ _
      _ ≤ tcap u d := firstGears_le hcalm want

end Sys2Proof.Machine
end

section
/-! The events that bays record reach no PWR_LSTAT: counters, traces, triggers, fault records and slip (R127, R536 to R569). -/

namespace Sys2Proof.Machine

theorem apply_seen_ite {c : Prop} [Decidable c] {a : Nat} {s t u : Mach} (ht : t.seen a = s.seen a) (hu : u.seen a = s.seen a) :
    (if c then t else u).seen a = s.seen a := by
  split
  · exact ht
  · exact hu

section

variable {a : Nat} (ha : a % 0x200000 = 0x102000)

include ha

/-- The blocks of a bay, and the other blocks of a die, lie at other offsets of the die window. -/
theorem seen_wr_window {n : RegName} {u i : Nat} (h : RegRef.addr ⟨n, u, i⟩ % 0x200000 ≠ 0x102000) (s : Mach) (v : Word) :
    (wr s n u i v).seen a = s.seen a := seen_wr (fun he => h (he ▸ ha)) s v

theorem seen_wf_window {n : RegName} {u i : Nat} (h : RegRef.addr ⟨n, u, i⟩ % 0x200000 ≠ 0x102000) (s : Mach) (hi lo v : Nat) :
    (wf s n u i hi lo v).seen a = s.seen a := seen_wr_window ha h s _

/-- Counter 0 of a die alone lies where the remainder by 64 is that of PWR_LSTAT. -/
theorem seen_bumpAo {k : Nat} (hk : k % 8 ≠ 0) (s : Mach) (die n : Nat) : (bumpAo s die k n).seen a = s.seen a :=
  seen_wr (by simp only [RegRef.addr, RegName.info, Blk.base]; omega) s _

theorem seen_bookEv (s : Mach) (b ev n : Nat) : (bookEv s b ev n).seen a = s.seen a := by
  have hbook (p o k m : Nat) : (book s p o k m).seen a = s.seen a := rfl
  have hmac := seen_bumpAo ha (k := 4) (by decide)
  have hmove := seen_bumpAo ha (k := 5) (by decide)
  unfold bookEv
  dsimp only
  split <;> simp only [hmac, hmove, hbook]

theorem seen_countEv (s : Mach) (b ev n : Nat) : (countEv s b ev n).seen a = s.seen a := by
  have hcount (t : Mach) (k : Nat) (hk : k ∈ List.range 8) : (bumpWrap t .CNT_EV b k n).seen a = t.seen a := by
    have hlt : k < 8 := List.mem_range.1 hk
    exact seen_wr_window ha (addr_bay_window (Or.inr (Or.inl rfl)) (by simp only [RegName.info]; omega)) t _
  unfold countEv
  exact (foldS_keeps_of_mem (Mach.seen a) _ _ _ fun t k hk => apply_seen_ite (hcount t k hk) rfl).trans (seen_bookEv ha s b ev n)

omit ha in
theorem seen_emitTraceIf (a : Nat) (s : Mach) (b e k c u d : Nat) : (emitTraceIf s b e k c u d).seen a = s.seen a :=
  apply_seen_ite (apply_seen_ite rfl rfl) rfl

omit ha in
theorem seen_fireIf (a : Nat) (s : Mach) (b src : Nat) (c : Sink → Bool) : (fireIf s b src c).seen a = s.seen a := by
  unfold fireIf
  split
  · rfl
  · exact apply_seen_ite rfl rfl

theorem seen_raiseBay (s : Mach) (b : Nat) (r : FltRec) : (raiseBay s b r).seen a = s.seen a := by
  have hlast (t : Mach) (k : Nat) (hk : k ∈ List.range 4) : (wr t .FLT_BLAST b k (r.word 0 0 k)).seen a = t.seen a := by
    have hlt : k < 4 := List.mem_range.1 hk
    exact seen_wr_window ha (addr_bay_window (Or.inr (Or.inr rfl)) (by simp only [RegName.info]; omega)) t _
  have hcount (t : Mach) : (bump t .FLT_BCOUNT b 0 63 0 1).seen a = t.seen a :=
    seen_wf_window ha (addr_bay_window (Or.inr (Or.inr rfl)) (by decide)) t _ _ _
  unfold raiseBay
  dsimp only
  rw [seen_raise (fun die => by simp only [RegRef.addr, RegName.info, Blk.base]; omega), seen_fireIf, seen_emitTraceIf, hcount,
    foldS_keeps_of_mem (Mach.seen a) _ _ _ hlast]

theorem seen_slipEvent {cause : Nat} (hc : cause < 8) (s : Mach) (b stream amount : Nat) :
    (slipEvent s b stream cause amount).seen a = s.seen a := by
  have hslip (t : Mach) (hi lo k : Nat) : (bump t .SEQ_SLIP b cause hi lo k).seen a = t.seen a :=
    seen_wf_window ha (addr_bay_window (Or.inl rfl) (by simp only [RegName.info]; omega)) t _ _ _
  have hmax (t : Mach) (v : Word) : (wr t .SEQ_SLIPMAX b 0 v).seen a = t.seen a :=
    seen_wr_window ha (addr_bay_window (Or.inl rfl) (by decide)) t _
  unfold slipEvent
  simp only [apply_ite (Mach.seen a), seen_raiseBay ha, seen_fireIf, seen_emitTraceIf, hmax, seen_countEv ha,
    seen_bumpAo ha (show 6 % 8 ≠ 0 by decide), hslip, ite_self]

theorem seen_countDropped (s : Mach) (d : Nat) (all : Bool) : (countDropped s d all).seen a = s.seen a := by
  have hdroop (t : Mach) (n : Nat) : (bump t .PWR_LDROOP d 0 63 32 n).seen a = t.seen a :=
    seen_wf_window ha (addr_power_window rfl (by decide) (by decide)) t _ _ _
  unfold countDropped
  dsimp only
  refine apply_seen_ite rfl ?_
  rw [foldS_keeps (Mach.seen a) _ _ _ fun t b => seen_countEv ha t b _ _, hdroop]
  rfl

/-- The slip of the frame just ended leaves memory and PWR_LSTAT of every die (R127). -/
theorem seen_frameSlip (s : Mach) (d : Nat) : (frameSlip s d).seen a = s.seen a := by
  unfold frameSlip
  dsimp only
  refine (apply_seen_ite rfl ?_ : _ = (countDropped s d false).seen a).trans (seen_countDropped ha s d false)
  exact foldS_keeps (Mach.seen a) _ _ _ fun t b => by rw [seen_slipEvent ha (by decide), seen_slipEvent ha (by decide)]

end

end Sys2Proof.Machine
end

section
/-! Requests for a gear decided, gears changed, and fallow frames (R64, R498, R500, R502, R510). -/

namespace Sys2Proof.Machine

/-! ### Requests (R500, R502) -/

@[simp] theorem gearToken_pwr (s : Mach) (r : GearReq) (due : Nat) (granted : Bool) : (gearToken s r due granted).pwr = s.pwr := by
  unfold gearToken
  cases r.gch <;> rfl

@[simp] theorem gearToken_csr (s : Mach) (r : GearReq) (due : Nat) (granted : Bool) : (gearToken s r due granted).csr = s.csr := by
  unfold gearToken
  cases r.gch <;> rfl

theorem bump_pwr (s : Mach) (n : RegName) (u i hi lo k : Nat) : (bump s n u i hi lo k).pwr = s.pwr := wr_pwr _ _ _ _ _

/-- A decision counts in PWR_LGRANT, sends its token, and marks its request or drops it. -/
theorem decideReq_eq (s : Mach) (r : GearReq) (f : Nat) : ∃ (hi due : Nat) (granted gone : Bool), decideReq s r f =
    modPwr (gearToken (bump s .PWR_LGRANT (dieOf r.bay) 0 hi (hi - 15) 1) r due granted) (fun p =>
      { p with gearReqs := (p.gearReqs.filter (fun x => !(decide (x = r) && gone))).map (fun x =>
          if x = r then { x with decided := true } else x) }) := by
  unfold decideReq
  exact ⟨_, _, _, _, rfl⟩

/-- What is undecided after a request is decided was so before, and is not that request. -/
theorem undecided_decideReq {s : Mach} {r x : GearReq} {f : Nat} (hmem : x ∈ (decideReq s r f).pwr.gearReqs)
    (hx : x.decided = false) : x ∈ s.pwr.gearReqs ∧ x ≠ r := by
  obtain ⟨hi, due, granted, gone, heq⟩ := decideReq_eq s r f
  rw [heq, modPwr_pwr, gearToken_pwr, bump_pwr, List.mem_map] at hmem
  obtain ⟨y, hy, hyx⟩ := hmem
  by_cases hyr : y = r
  · rw [if_pos hyr] at hyx
    rw [← hyx] at hx
    cases hx
  · rw [if_neg hyr] at hyx
    subst hyx
    exact ⟨List.mem_of_mem_filter hy, hyr⟩

theorem undecided_foldS_decideReq {x : GearReq} {f : Nat} (hx : x.decided = false) (l : List GearReq) (s : Mach)
    (hmem : x ∈ (foldS l (fun t r => decideReq t r f) s).pwr.gearReqs) : x ∈ s.pwr.gearReqs ∧ x ∉ l := by
  induction l generalizing s with
  | nil => exact ⟨hmem, List.not_mem_nil⟩
  | cons r l ih =>
    obtain ⟨hin, hnot⟩ := ih (decideReq s r f) hmem
    obtain ⟨hin, hne⟩ := undecided_decideReq hin hx
    exact ⟨hin, fun h => (List.mem_cons.1 h).elim hne hnot⟩

theorem lstat_of_csr {s t : Mach} (h : s.csr = t.csr) (d : Nat) : lstat s d = lstat t d := by
  unfold lstat rg csrAt
  rw [h]

theorem lstat_decideReq (s : Mach) (r : GearReq) (f d : Nat) : lstat (decideReq s r f) d = lstat s d := by
  have hgrant (hi lo : Nat) : lstat (bump s .PWR_LGRANT (dieOf r.bay) 0 hi lo 1) d = lstat s d :=
    lstat_of_seen (seen_wf_window (addr_lstat_mod d) (addr_power_window rfl (by decide) (by decide)) s _ _ _)
  obtain ⟨hi, due, granted, gone, heq⟩ := decideReq_eq s r f
  rw [heq, ← hgrant hi (hi - 15)]
  exact lstat_of_csr (gearToken_csr _ _ _ _) d

/-- The requests that wait for a decision on the boundary after a frame. -/
def waiting (s : Mach) (f : Nat) : List GearReq := s.pwr.gearReqs.filter (fun r => !r.decided && decide (r.bnd = f + 1))

/-- The voltages of rising gears are commanded (R499). -/
def raiseVolts (s : Mach) : Mach :=
  foldS allDies (fun t d => if inEmerg t d = false ∧ gearOf t d < nextGear t d then setVolt t d (nextGear t d) else t) s

theorem lstat_raiseVolts (s : Mach) (d : Nat) : lstat (raiseVolts s) d = lstat s d :=
  foldS_keeps (fun t => lstat t d) _ _ _ fun t e => by split <;> rfl

theorem gearReqs_raiseVolts (s : Mach) : (raiseVolts s).pwr.gearReqs = s.pwr.gearReqs :=
  foldS_keeps (fun t => t.pwr.gearReqs) _ _ _ fun t e => by split <;> rfl

theorem gearRequestDecision_eq {s : Mach} (hon : powerOn s = true) : ∃ (t : Mach) (f : Nat), t.csr = s.csr ∧
    gearRequestDecision s =
      modPwr (raiseVolts (foldS (waiting t f) (fun u r => decideReq u r f) t)) (fun p => { p with decAt := some f }) := by
  unfold gearRequestDecision
  rw [if_neg (by simp [hon])]
  refine ⟨_, _, ?_, rfl⟩
  rw [advanceTo_csr]
  split <;> rfl

theorem ends_gearRequestDecision {s : State} (hon : powerOn s.mach = true) :
    Ends .gearRequestDecision s (fun m => ∃ f : Nat, m.pwr.decAt = some f ∧
      (∀ r ∈ m.pwr.gearReqs, r.bnd = f + 1 → r.decided = true) ∧ ∀ d : CompDie, gearOf m d = gearOf s.mach d) := by
  obtain ⟨t, f, hcsr, heq⟩ := gearRequestDecision_eq hon
  refine ⟨_, rfl, f, ?_⟩
  dsimp only
  rw [heq]
  refine ⟨rfl, ?decided, ?gear⟩
  case decided =>
    intro r hr hbnd
    rw [modPwr_pwr, gearReqs_raiseVolts] at hr
    by_contra hopen
    rw [Bool.not_eq_true] at hopen
    obtain ⟨hin, hnot⟩ := undecided_foldS_decideReq hopen _ _ hr
    exact hnot (List.mem_filter.2 ⟨hin, by simp [hopen, hbnd]⟩)
  case gear =>
    intro d
    have hkeep : lstat (foldS (waiting t f) (fun u r => decideReq u r f) t) d = lstat t d :=
      foldS_keeps (fun u => lstat u d) _ _ _ fun u r => lstat_decideReq u r f d
    exact congrArg (fld · 4 0) ((lstat_raiseVolts _ d).trans (hkeep.trans (lstat_of_csr hcsr d)))

/-! ### The boundary (R64, R500) -/

/-- A die takes the gear chosen for it, unless it is in emergency division. -/
def takeGear (t : Mach) (d : Nat) : Mach :=
  if inEmerg t d then t
  else
    let t := if nextGear t d ≠ gearOf t d then runGear t d (nextGear t d) else t
    setVolt t d (gearOf t d)

theorem lstat_runGear (s : Mach) (d g : Nat) : lstat (runGear s d g) d = setFld (setFld (lstat s d) 4 0 g) 27 25 0 := by
  have halm (t : Mach) : lstat (wf t .ALM_LSTAT d 0 4 0 g) d = lstat t d :=
    lstat_of_seen (seen_wf_window (addr_lstat_mod d) (addr_almLstat_window d) t _ _ _)
  unfold runGear
  dsimp only
  rw [halm, lstat_wf, lstat_wf]
  rfl

theorem seen_runGear {a d : Nat} (ha : a % 0x200000 = 0x102000) (hd : a ≠ RegRef.addr ⟨.PWR_LSTAT, d, 0⟩) (s : Mach) (g : Nat) :
    (runGear s d g).seen a = s.seen a := by
  unfold runGear
  dsimp only
  rw [seen_wf_window ha (addr_almLstat_window d), seen_wf hd, seen_wf hd]
  rfl

theorem seen_takeGear {a d : Nat} (ha : a % 0x200000 = 0x102000) (hd : a ≠ RegRef.addr ⟨.PWR_LSTAT, d, 0⟩) (s : Mach) :
    (takeGear s d).seen a = s.seen a := by
  unfold takeGear
  dsimp only
  refine apply_seen_ite rfl ?_
  exact apply_seen_ite (seen_runGear ha hd s _) rfl

theorem takeGear_of_emerg {s : Mach} {d : Nat} (h : inEmerg s d = true) : takeGear s d = s := if_pos h

theorem lstat_takeGear_of_calm {s : Mach} {d : Nat} (h : inEmerg s d = false) : lstat (takeGear s d) d =
    lstat (if nextGear s d ≠ gearOf s d then runGear s d (nextGear s d) else s) d := by
  unfold takeGear
  rw [if_neg (by simp [h])]
  rfl

theorem gear_takeGear (s : Mach) (d : Nat) : fld (lstat (takeGear s d) d) 4 0 =
    if bit (lstat s d) 24 = true then fld (lstat s d) 4 0 else fld (lstat s d) 23 19 := by
  have hfits : nextGear s d < 2 ^ 5 := rf_lt s _ _ _ 23 19
  cases hd : inEmerg s d
  · rw [if_neg (by simp [← inEmerg_eq, hd]), lstat_takeGear_of_calm hd]
    by_cases hsame : nextGear s d = gearOf s d
    · rw [if_neg (not_not_intro hsame)]
      exact hsame.symm
    · rw [if_pos hsame, lstat_runGear, fld_setFld_other _ _ _ _ _ _ (by decide) (by decide),
        fld_setFld_same _ _ _ _ (by decide) (by decide)]
      exact Nat.mod_eq_of_lt hfits
  · rw [takeGear_of_emerg hd]
    exact (if_pos hd).symm

/-! What else happens at the boundary leaves PWR_LSTAT and memory. -/

section

variable {a : Nat} (ha : a % 0x200000 = 0x102000)

include ha

theorem seen_takeStanding (s : Mach) (f : Nat) : (takeStanding s f).seen a = s.seen a := by
  have hstand (t : Mach) (r : GearReq) : (setStanding t r.bay r.gear).seen a = t.seen a :=
    seen_wf_window ha (addr_power_window rfl (by decide) (by decide)) t _ _ _
  exact foldS_keeps (Mach.seen a) _ _ _ hstand

theorem seen_setCaps (s : Mach) (l : List Nat) : (setCaps s l).seen a = s.seen a := by
  have hcap (t : Mach) (c v : Nat) : (retarget (wf t .PWR_PCAP 0 0 (4 * c + 2) (4 * c) v) c).seen a = t.seen a :=
    seen_wf_window ha (by decide) t _ _ _
  exact foldS_keeps (Mach.seen a) _ _ _ fun t c => hcap t c _

theorem seen_refreshEff (s : Mach) : (refreshEff s).seen a = s.seen a := by
  unfold refreshEff
  dsimp only
  rw [seen_wf_window ha (by decide), seen_wf_window ha (by decide), seen_wf_window ha (by decide)]

end

/-- The dies have taken their gears, and the requests due have become standing ones. -/
def geared (s : Mach) : Mach :=
  takeStanding (foldS allDies takeGear (foldS allDies frameSlip (atFrame s s.pwr.chgAt))) (frameNo (atFrame s s.pwr.chgAt))

theorem chgAt_gearChange {s : Mach} (hon : powerOn s = true) :
    (gearChange s).pwr.chgAt = some (frameNo (atFrame s s.pwr.chgAt)) := by
  unfold gearChange
  rw [if_neg (by simp [hon])]
  rfl

/-- The fallow count of a new group and the caps of the clusters change no gear. -/
theorem seen_gearChange {a : Nat} (ha : a % 0x200000 = 0x102000) {s : Mach} (hon : powerOn s = true) :
    (gearChange s).seen a = (geared s).seen a := by
  have hfallow (c : Prop) [Decidable c] (t : Mach) (v : Nat) :
      (if c then wf t .PWR_STATUS 0 0 10 8 v else t).seen a = t.seen a :=
    apply_seen_ite (seen_wf_window ha (by decide) t _ _ _) rfl
  have hcaps (c : Bool) (t : Mach) (k : List Nat) : (if c then t else setCaps t k).seen a = t.seen a :=
    apply_seen_ite rfl (seen_setCaps ha t k)
  unfold gearChange
  rw [if_neg (by simp [hon])]
  dsimp only
  rw [seen_refreshEff ha, seen_modPwr, hcaps, hfallow]
  rfl

theorem seen_slipped {a : Nat} (ha : a % 0x200000 = 0x102000) (s : Mach) :
    (foldS allDies frameSlip (atFrame s s.pwr.chgAt)).seen a = s.seen a :=
  (foldS_keeps (Mach.seen a) _ _ _ (seen_frameSlip ha)).trans (seen_atFrame a s _)

theorem mem_geared (s : Mach) : (geared s).mem = s.mem := by
  have htake (t : Mach) (d : Nat) : (takeGear t d).mem = t.mem :=
    mem_of_seen (seen_takeGear (addr_lstat_mod (d + 1)) (addr_lstat_inj (by omega)) t)
  calc (geared s).mem = (foldS allDies takeGear (foldS allDies frameSlip (atFrame s s.pwr.chgAt))).mem :=
        mem_of_seen (seen_takeStanding (addr_lstat_mod 0) _ _)
    _ = (foldS allDies frameSlip (atFrame s s.pwr.chgAt)).mem := foldS_keeps Mach.mem _ _ _ htake
    _ = s.mem := mem_of_seen (seen_slipped (addr_lstat_mod 0) s)

theorem gearOf_geared (s : Mach) (d : CompDie) : gearOf (geared s) d = if inEmerg s d then gearOf s d else nextGear s d := by
  have hslip : lstat (foldS allDies frameSlip (atFrame s s.pwr.chgAt)) d = lstat s d :=
    lstat_of_seen (seen_slipped (addr_lstat_mod d) s)
  have htake := lstat_foldS (Q := fun _ w w' => fld w' 4 0 = if bit w 24 = true then fld w 4 0 else fld w 23 19)
    (fun u d e h => lstat_of_seen (seen_takeGear (addr_lstat_mod e) (addr_lstat_inj h) u)) gear_takeGear nodup_allDies
    (mem_allDies d) (foldS allDies frameSlip (atFrame s s.pwr.chgAt))
  rw [hslip] at htake
  exact (congrArg (fld · 4 0) (lstat_of_seen (seen_takeStanding (addr_lstat_mod d) _ _))).trans htake

theorem ends_gearChange {s : State} (hon : powerOn s.mach = true) :
    Ends .gearChange s (fun m => m.pwr.chgAt = some (frameNo (atFrame s.mach s.mach.pwr.chgAt)) ∧
      (∀ d : CompDie, gearOf m d = (if inEmerg s.mach d then gearOf s.mach d else nextGear s.mach d)) ∧ m.mem = s.mach.mem) := by
  refine ⟨_, rfl, chgAt_gearChange hon, fun d => ?_, ?_⟩
  · exact (rf_of_seen (seen_gearChange (addr_lstat_mod d) hon) 4 0).trans (gearOf_geared s.mach d)
  · exact (mem_of_seen (seen_gearChange (addr_lstat_mod 0) hon)).trans (mem_geared s.mach)

/-! ### Fallow frames (R510) -/

theorem now_bumpWrap (s : Mach) (n : RegName) (u i k : Nat) : (bumpWrap s n u i k).now = s.now := wr_now _ _ _ _ _

theorem now_bookEv (s : Mach) (b ev n : Nat) : (bookEv s b ev n).now = s.now := by
  have hbook (p o k m : Nat) : (book s p o k m).now = s.now := rfl
  have hcount (t : Mach) (die k m : Nat) : (bumpAo t die k m).now = t.now := now_bumpWrap _ _ _ _ _
  unfold bookEv
  dsimp only
  split <;> simp only [hcount, hbook]

theorem now_countEv (s : Mach) (b ev n : Nat) : (countEv s b ev n).now = s.now := by
  unfold countEv
  refine (foldS_keeps Mach.now _ _ _ fun t k => ?_).trans (now_bookEv s b ev n)
  rw [apply_ite Mach.now, now_bumpWrap, ite_self]

theorem now_fallowBay (s : Mach) (b e0 n : Nat) : (fallowBay s b e0 n).now = s.now := by
  have hsync : (syncCnt s b).now = s.now := by
    unfold syncCnt
    dsimp only
    rw [modBay_now, now_countEv, now_countEv]
  unfold fallowBay shiftUnits shiftSlots
  dsimp only
  rw [modBay_now, modSeq_now, modBay_now, apply_ite Mach.now, modBay_now, ite_self, hsync]

theorem mem_fallowBay (s : Mach) (b e0 n : Nat) : (fallowBay s b e0 n).mem = s.mem := by
  unfold fallowBay shiftUnits shiftSlots modSeq
  dsimp only
  rw [modBay_mem, modBay_mem, modBay_mem, apply_ite Mach.mem, modBay_mem, ite_self]
  exact mem_of_units (units_syncCnt s b)

@[simp] theorem modPwr_now (s : Mach) (f : Pwr → Pwr) : (modPwr s f).now = s.now := rfl
@[simp] theorem modPwr_mem (s : Mach) (f : Pwr → Pwr) : (modPwr s f).mem = s.mem := rfl

theorem now_foldS_modRota (l : List Nat) (r : Mach → Nat → Rota → Rota) (s : Mach) :
    (foldS l (fun t p => modRota t p (r t p)) s).now = s.now := foldS_keeps Mach.now l _ s fun _ _ => rfl

theorem mem_foldS_modRota (l : List Nat) (r : Mach → Nat → Rota → Rota) (s : Mach) :
    (foldS l (fun t p => modRota t p (r t p)) s).mem = s.mem := foldS_keeps Mach.mem l _ s fun _ _ => rfl

/-- The effects of a fallow frame, at the frame that has begun. -/
theorem fallowFrame_eq {s : Mach} (hrun : s.alm.running = true) (hfallow : frameFallow s (frameNo s) = true)
    (hnew : s.pwr.fallowAt ≠ some (frameNo s)) : ∃ (e n : Mach → Nat → Nat) (r : Mach → Nat → Rota → Rota),
    fallowFrame s = modPwr (foldS (List.range 16) (fun t p => modRota t p (r t p))
      (foldS allBays (fun t b => fallowBay t b (e t b) (n t b)) s)) (fun p => { p with fallowAt := some (frameNo s) }) := by
  have hhere : (if frameFallow s (frameNo s) ∧ s.pwr.fallowAt ≠ some (frameNo s) then s else advanceTo s (nextFrameTick s)) = s :=
    if_pos ⟨hfallow, hnew⟩
  unfold fallowFrame
  rw [if_neg (by simp [hrun])]
  dsimp only
  rw [hhere, if_neg (by simp [hfallow])]
  exact ⟨_, _, _, rfl⟩

theorem ends_fallowFrame {s : State} (hrun : s.mach.alm.running = true) (hfallow : frameFallow s.mach (frameNo s.mach) = true)
    (hnew : s.mach.pwr.fallowAt ≠ some (frameNo s.mach)) :
    Ends .fallowFrame s (fun m => m.pwr.fallowAt = some (frameNo s.mach) ∧ m.now = s.mach.now ∧ m.mem = s.mach.mem) := by
  obtain ⟨e, n, r, heq⟩ := fallowFrame_eq hrun hfallow hnew
  refine ⟨_, rfl, ?_⟩
  dsimp only
  rw [heq]
  refine ⟨rfl, ?_, ?_⟩
  · rw [modPwr_now, now_foldS_modRota, foldS_keeps Mach.now _ _ _ fun t b => now_fallowBay t b _ _]
  · rw [modPwr_mem, mem_foldS_modRota, foldS_keeps Mach.mem _ _ _ fun t b => mem_fallowBay t b _ _]

/-- Settles O50: each clause is one command of the controller, by what it leaves in PWR_SURGE, in the sensors' registers, in
PWR_LSTAT of each die and in the requests. -/
theorem powerAndGears : Obligations.PowerAndGears :=
  ⟨fun _ => ends_surgeUpdate, fun _ => ends_peakHold, fun _ => ends_peakHold_idle, fun _ => ends_holdEnd,
    fun _ => ends_holdEnd_idle, fun _ _ => ends_gearSelection, fun _ => ends_gearRequestDecision, fun _ => ends_gearChange,
    fun _ => ends_fallowFrame⟩

end Sys2Proof.Machine
end

section
/-! Packages that meet the hypotheses of the power limit and of gear changes, at the edges: the 243rd and the 244th frame above
2,400 W, HOLD with and without frames left, readings at the threshold, a request for the next boundary, a die in
emergency division, and a fallow frame. -/

namespace Sys2Proof.Tests

open Sys2Proof.Machine

/-- The package `live` with the power controller started. -/
def powered : Mach := { live with pwr := { live.pwr with started := true } }

theorem rg_powered {n : RegName} (h : RegRef.addr ⟨n, 0, 0⟩ ≠ RegRef.addr ⟨.BOOT_STATUS, 0, 0⟩) :
    rg powered n 0 0 = rg Mach.reset n 0 0 := rg_wf_apart h Mach.reset 63 63 1

/-- After the first frame nothing remains to be booked. -/
theorem surge_books_frame : Ends .surgeUpdate (at_ powered) (fun m => m.pwr.events = [] ∧ m.mem = powered.mem) := by
  obtain ⟨hsurge, -⟩ := powerAndGears
  exact (hsurge (at_ powered) rfl).mono fun _ ⟨_, hevents, _, hmem, _⟩ => ⟨hevents, hmem⟩

/-- The package after `n` frames in a row above 2,400 W. -/
def above (n : Nat) : Mach := wf powered .PWR_SURGE 0 0 39 32 n

theorem inHold_powered : inHold powered = false := by
  unfold inHold rb
  rw [rg_powered (by decide)]
  decide

theorem inHold_above (n : Nat) : inHold (above n) = false := (inHold_wf_surge powered 39 32 n).trans inHold_powered

/-- The 244th frame enters HOLD for 2,196 frames. -/
theorem frame_244_enters_hold : Ends .peakHold (at_ (above 244)) (fun m => inHold m = true ∧ rf m .PWR_SURGE 0 0 55 40 = 2196) := by
  obtain ⟨-, hpeak, -⟩ := powerAndGears
  have hcount : rf (above 244) .PWR_SURGE 0 0 39 32 = 244 := rf_wf_of_lt _ _ _ _ (by decide) (by decide) (by decide)
  exact (hpeak (at_ (above 244)) (inHold_above 244) hcount.ge).mono fun _ ⟨hin, hleft, _⟩ => ⟨hin, hleft⟩

/-- The 243rd does not. -/
theorem frame_243_passes : Ends .peakHold (at_ (above 243)) (fun m => m = above 243) := by
  obtain ⟨-, -, hidle, -⟩ := powerAndGears
  have hcount : rf (above 243) .PWR_SURGE 0 0 39 32 = 243 := rf_wf_of_lt _ _ _ _ (by decide) (by decide) (by decide)
  exact hidle (at_ (above 243)) (Or.inr (hcount.trans_lt (by decide)))

/-- The package in HOLD with `n` frames left. -/
def holding (n : Nat) : Mach := wf (wb powered .PWR_STATUS 0 0 15 true) .PWR_SURGE 0 0 55 40 n

theorem inHold_holding (n : Nat) : inHold (holding n) = true :=
  (inHold_wf_surge _ _ _ _).trans (rb_wb powered .PWR_STATUS 0 0 15 true (by decide))

theorem hold_ends_at_zero : Ends .holdEnd (at_ (holding 0)) (fun m => inHold m = false) := by
  obtain ⟨-, -, -, hend, -⟩ := powerAndGears
  have hleft : rf (holding 0) .PWR_SURGE 0 0 55 40 = 0 := rf_wf_of_lt _ _ _ _ (by decide) (by decide) (by decide)
  exact (hend (at_ (holding 0)) (inHold_holding 0) hleft).mono fun _ h => h.1

theorem hold_stands_at_one : Ends .holdEnd (at_ (holding 1)) (fun m => m = holding 1) := by
  obtain ⟨-, -, -, -, hidle, -⟩ := powerAndGears
  have hleft : rf (holding 1) .PWR_SURGE 0 0 55 40 = 1 := rf_wf_of_lt _ _ _ _ (by decide) (by decide) (by decide)
  exact hidle (at_ (holding 1)) (by rw [show (at_ (holding 1)).mach = holding 1 from rfl, hleft]; decide)

/-- Readings in quarters of a degree, the same of every die. -/
def dieTemps (q : Int) : TempReport := { temps0 with die := List.replicate 32 q }

theorem hot_threshold : rf powered .PWR_CFG 0 0 55 48 = 100 := by
  unfold rf
  rw [rg_powered (by decide)]
  decide

/-- A reading of 400 quarters of a degree reaches the threshold of 100 degrees: it is shown, and the cap of the die falls. -/
theorem hundred_degrees_cap (d : CompDie) : Ends (.gearSelection (dieTemps 400)) (at_ powered) (fun m =>
    tcap m d = max 4 (gearOf powered d - 1) ∧ rf m .PWR_TEMP 0 4 15 0 = 400) := by
  obtain ⟨-, -, -, -, -, hselect, -⟩ := powerAndGears
  refine (hselect (at_ powered) (dieTemps 400) (by decide) rfl).mono fun m ⟨hread, _, hcap, _⟩ => ⟨hcap d ?_, hread 4 (by decide)⟩
  rw [show (at_ powered).mach = powered from rfl, hot_threshold]
  revert d
  decide

/-- A request of bay 0 for the boundary after frame 0. -/
def request0 : GearReq := { bay := 0, gear := 9, bnd := 1, posted := 0, gch := none, decided := false }

/-- No request for the next boundary is left open. -/
theorem request_is_decided :
    Ends .gearRequestDecision (at_ { powered with pwr := { powered.pwr with gearReqs := [request0] } })
      (fun m => ∃ f : Nat, m.pwr.decAt = some f ∧ ∀ r ∈ m.pwr.gearReqs, r.bnd = f + 1 → r.decided = true) := by
  obtain ⟨-, -, -, -, -, -, hdecide, -⟩ := powerAndGears
  exact (hdecide (at_ { powered with pwr := { powered.pwr with gearReqs := [request0] } }) rfl).mono
    fun _ ⟨f, hat, hall, _⟩ => ⟨f, hat, hall⟩

/-- The package with gear 9 chosen for die 2, and with die 2 in emergency division or not. -/
def chosen9 (emerg : Bool) : Mach := wb (wf powered .PWR_LSTAT 2 0 23 19 9) .PWR_LSTAT 2 0 24 emerg

theorem inEmerg_chosen9 (emerg : Bool) : inEmerg (chosen9 emerg) 2 = emerg := rb_wb _ .PWR_LSTAT 2 0 24 emerg (by decide)

/-- A die runs at the gear chosen from the boundary on. -/
theorem die_takes_gear : Ends .gearChange (at_ (chosen9 false)) (fun m => gearOf m 2 = 9) := by
  obtain ⟨-, -, -, -, -, -, -, hchange, -⟩ := powerAndGears
  refine (hchange (at_ (chosen9 false)) rfl).mono fun m ⟨_, hgear, _⟩ => (hgear 2).trans ?_
  rw [if_neg (by simp [at_, inEmerg_chosen9])]
  refine (rf_wf_other _ _ _ _ _ _ _ _ _ (by decide) (by decide)).trans ?_
  exact rf_wf_of_lt _ _ _ _ (by decide) (by decide) (by decide)

/-- A die in emergency division keeps its gear. -/
theorem emergency_keeps_gear : Ends .gearChange (at_ (chosen9 true)) (fun m => gearOf m 2 = gearOf (chosen9 true) 2) := by
  obtain ⟨-, -, -, -, -, -, -, hchange, -⟩ := powerAndGears
  exact (hchange (at_ (chosen9 true)) rfl).mono fun m ⟨_, hgear, _⟩ => (hgear 2).trans (if_pos (inEmerg_chosen9 true))

/-- The package with one fallow frame in a group of eight: frame 0. -/
def fallow1 : Mach := wf powered .PWR_STATUS 0 0 10 8 1

theorem frameNo_fallow1 : frameNo fallow1 = 0 := rfl

theorem frame_0_is_fallow : Ends .fallowFrame (at_ fallow1) (fun m => m.pwr.fallowAt = some 0 ∧ m.now = 0) := by
  obtain ⟨-, -, -, -, -, -, -, -, hfallow⟩ := powerAndGears
  have hcount : rf fallow1 .PWR_STATUS 0 0 10 8 = 1 := rf_wf_of_lt _ _ _ _ (by decide) (by decide) (by decide)
  have hnow : frameFallow fallow1 (frameNo fallow1) = true := by
    unfold frameFallow
    rw [hcount, frameNo_fallow1]
    decide
  exact (hfallow (at_ fallow1) rfl hnow (fun h => by cases h)).mono fun _ ⟨hat, htime, _⟩ => ⟨hat, htime⟩

end Sys2Proof.Tests
end

section
/-! Links between dies and the bell path (R535, R544 to R547): retries of a frame, pings of the dies, wedges and breaks of the
ring. -/

namespace Sys2Proof.Machine

/-! ### Retries of a link (R535) -/

/-- A count in FLT_DLINK, which the first two links of a compute die have. -/
def bumpDlink (s : Mach) (die link hi lo k : Nat) : Mach :=
  if (decide (4 ≤ die % 16) && decide (link < 2)) = true then bump s .FLT_DLINK (compOrd die) link hi lo k else s

theorem bumpDlink_only (s : Mach) (die link hi lo k : Nat) :
    bumpDlink s die link hi lo k = { s with csr := (bumpDlink s die link hi lo k).csr } := by
  unfold bumpDlink
  split <;> rfl

/-- The package with a frame's retries counted and the SUBCODE of its record drawn. -/
def countRetries (s : Mach) (die link n : Nat) : Mach :=
  { bumpDlink s die link 63 32 n with freeCtr := (bumpDlink s die link 63 32 n).freeCtr + 1 }

theorem countRetries_only (s : Mach) (die link n : Nat) : countRetries s die link n =
    { s with csr := (countRetries s die link n).csr, freeCtr := (countRetries s die link n).freeCtr } := by
  unfold countRetries
  rw [bumpDlink_only]

/-- With no flit at its limit the retries are counted, and above 1,024 of them a record of class LINK_D2D is raised. -/
theorem linkRetryLimit_eq (s : Mach) {die k : Nat} (link n : Nat) (hdie : validDie die = true) (hk : k < 16) :
    ∃ sub : Nat, linkRetryLimit s die link n k =
      if 1024 < n then
        raise (bumpDlink (countRetries s die link n) die link 31 0 1)
          { mkRec (countRetries s die link n) 0xB sub 0x11 0x7F die 0 (die * 256 + link) with sev := 1 }
      else countRetries s die link n := by
  refine ⟨(Config.freeWord (bumpDlink s die link 63 32 n).freeCtr).toNat % 256, ?_⟩
  unfold linkRetryLimit
  rw [if_neg (by simp [hdie])]
  exact if_neg (Nat.not_le.2 hk)

theorem ends_linkRetryLimit_within {s : State} {die : Fin 32} {link : Fin 6} {n k : Nat} (hdie : validDie die = true)
    (hn : n ≤ 1024) (hk : k < 16) :
    Ends (.linkRetryLimit die link n k) s (fun m => m.flt.wire = s.mach.flt.wire ∧ m.mem = s.mach.mem) := by
  obtain ⟨sub, heq⟩ := linkRetryLimit_eq s.mach link n hdie hk
  refine ⟨_, rfl, ?_⟩
  dsimp only
  rw [heq, if_neg (Nat.not_lt.2 hn), countRetries_only]
  exact ⟨rfl, rfl⟩

theorem ends_linkRetryLimit_above {s : State} {die : Fin 32} {link : Fin 6} {n k : Nat} (hdie : validDie die = true)
    (hn : 1024 < n) (hk : k < 16) :
    Ends (.linkRetryLimit die link n k) s (fun m => ∃ r, m.flt.wire = s.mach.flt.wire ++ [r] ∧ r.cls = 0xB ∧ r.sev = 1 ∧
      r.region = die.val * 256 + link.val) := by
  obtain ⟨sub, heq⟩ := linkRetryLimit_eq s.mach link n hdie hk
  have hflt : (bumpDlink (countRetries s.mach die link n) die link 31 0 1).flt = s.mach.flt := by
    rw [bumpDlink_only, countRetries_only]
  refine ⟨_, rfl, ?_⟩
  dsimp only
  rw [heq, if_pos hn]
  exact ⟨_, raise_wire_of_flt hflt _, rfl, rfl, rfl⟩

/-! ### What the hub holds of a die: its ALIVE bit and the pings missed in a row -/

theorem rb_of_seen {n : RegName} {u i : Nat} {s t : Mach} (h : s.seen (RegRef.addr ⟨n, u, i⟩) = t.seen (RegRef.addr ⟨n, u, i⟩))
    (k : Nat) : rb s n u i k = rb t n u i k := congrArg (bit · k) (csrAt_of_seen h)

/-- The ALIVE bit of a die and the pings that it has missed in a row. -/
def bellView (s : Mach) (d : Nat) : Bool × Nat := (rb s .FLT_BELL 0 0 d, smapGet 0 s.flt.missed d)

/-- What a ping makes of the two: an answer sets ALIVE and ends the row, the fourth miss in a row clears ALIVE. -/
def afterPing (ok : Bool) (v : Bool × Nat) : Bool × Nat :=
  if ok then (true, 0) else (if v.2 = 3 then false else v.1, min (v.2 + 1) 5)

/-- The package with the row of misses of a die. -/
def setMissed (s : Mach) (d n : Nat) : Mach := modFlt s (fun f => { f with missed := smapPut 0 f.missed d n })

theorem bellView_setMissed_same (s : Mach) (d n : Nat) : bellView (setMissed s d n) d = (rb s .FLT_BELL 0 0 d, n) :=
  congrArg (Prod.mk _) (smapGet_smapPut_same 0 s.flt.missed d n)

theorem bellView_setMissed_other (s : Mach) {d e : Nat} (h : e ≠ d) (n : Nat) : bellView (setMissed s d n) e = bellView s e :=
  congrArg (Prod.mk _) (smapGet_smapPut_other 0 0 s.flt.missed d e n h)

theorem bellView_wb_same (s : Mach) {d : Nat} (hd : d < 32) (v : Bool) :
    bellView (wb s .FLT_BELL 0 0 d v) d = (v, (bellView s d).2) :=
  congrArg (·, (bellView s d).2) (rb_wb s .FLT_BELL 0 0 d v (by omega))

theorem bellView_wb_other (s : Mach) {d e : Nat} (h : e ≠ d) (v : Bool) :
    bellView (wb s .FLT_BELL 0 0 d v) e = bellView s e :=
  congrArg (·, (bellView s e).2) (rb_wb_other s .FLT_BELL 0 0 d e v h.symm)

/-- A record about a die leaves FLT_BELL, which lies below the counters. -/
theorem rb_bell_wedgeRecord (s : Mach) (die sub sev k : Nat) :
    rb (wedgeRecord s die sub sev) .FLT_BELL 0 0 k = rb s .FLT_BELL 0 0 k :=
  rb_of_seen (seen_raise (eventless_hub (by decide) (by decide)).records s _) k

theorem bellView_wedgeRecord (s : Mach) (die sub sev d : Nat) : bellView (wedgeRecord s die sub sev) d = bellView s d := by
  refine Prod.ext (rb_bell_wedgeRecord s die sub sev d) ?_
  unfold bellView wedgeRecord
  rw [raise_only]

/-! ### WEDGE follows the ALIVE bits -/

theorem rb_bell_setWedge (s : Mach) (k : Nat) : rb (setWedge s) .FLT_BELL 0 0 k = rb s .FLT_BELL 0 0 k :=
  rb_wf_apart (by decide) s _ _ _ _

theorem bellView_setWedge (s : Mach) (d : Nat) : bellView (setWedge s) d = bellView s d :=
  congrArg (·, (bellView s d).2) (rb_bell_setWedge s d)

theorem rb_wedge_setWedge (s : Mach) :
    rb (setWedge s) .FLT_STATUS 0 0 2 = dieIds.any (fun d => !(rb (setWedge s) .FLT_BELL 0 0 d)) := by
  simp only [rb_bell_setWedge]
  exact rb_wb s .FLT_STATUS 0 0 2 _ (by decide)

/-! ### Pings (R547) -/

theorem pingDie_answered (s : Mach) (d : Nat) : pingDie s d true = wb (setMissed s d 0) .FLT_BELL 0 0 d true := if_pos rfl

theorem pingDie_missed (s : Mach) (d : Nat) : pingDie s d false =
    if (bellView s d).2 = 3 then
      wedgeRecord (wb (setMissed s d (min ((bellView s d).2 + 1) 5)) .FLT_BELL 0 0 d false) d 0xF2 3
    else setMissed s d (min ((bellView s d).2 + 1) 5) :=
  (if_neg Bool.false_ne_true).trans (if_congr Nat.succ_inj rfl rfl)

theorem bellView_pingDie_same (s : Mach) {d : Nat} (hd : d < 32) (ok : Bool) :
    bellView (pingDie s d ok) d = afterPing ok (bellView s d) := by
  cases ok
  · rw [pingDie_missed]
    by_cases h3 : (bellView s d).2 = 3
    · rw [if_pos h3, bellView_wedgeRecord, bellView_wb_same _ hd, bellView_setMissed_same]
      simp [afterPing, h3]
    · rw [if_neg h3, bellView_setMissed_same, afterPing, if_neg Bool.false_ne_true, if_neg h3]
      rfl
  · rw [pingDie_answered, bellView_wb_same _ hd, bellView_setMissed_same]
    rfl

theorem bellView_pingDie_other (s : Mach) {d e : Nat} (h : e ≠ d) (ok : Bool) :
    bellView (pingDie s d ok) e = bellView s e := by
  cases ok
  · rw [pingDie_missed]
    split
    · rw [bellView_wedgeRecord, bellView_wb_other _ h, bellView_setMissed_other _ h]
    · exact bellView_setMissed_other _ h _
  · rw [pingDie_answered, bellView_wb_other _ h, bellView_setMissed_other _ h]

/-- A walk of which each step changes what is viewed at its own item only: at each item the view after it is what the item's own
step makes of the view before. -/
theorem view_foldS {β : Type} {g : Mach → Nat → β} {f : Mach → Nat → Mach} {F : Nat → β → β}
    (hother : ∀ u d e, e ≠ d → g (f u d) e = g u e) {d : Nat} (hat : ∀ u, g (f u d) d = F d (g u d))
    {l : List Nat} (hl : l.Nodup) (hd : d ∈ l) (s : Mach) : g (foldS l f s) d = F d (g s d) := by
  have hrest {l : List Nat} (hnot : d ∉ l) (u : Mach) : g (foldS l f u) d = g u d :=
    foldS_keeps_of_mem (g · d) l f u fun t e he => hother t e d fun hde => hnot (hde ▸ he)
  obtain ⟨front, back, rfl⟩ := List.append_of_mem hd
  obtain ⟨-, hnotBack, hdisj⟩ := List.nodup_append.1 hl
  have hfront : d ∉ front := fun h => hdisj d h d List.mem_cons_self rfl
  have hback : d ∉ back := (List.nodup_cons.1 hnotBack).1
  calc g (foldS (front ++ d :: back) f s) d
      = g (foldS back f (f (foldS front f s) d)) d := by unfold foldS; rw [List.foldl_append, List.foldl_cons]
    _ = F d (g (foldS front f s) d) := (hrest hback _).trans (hat _)
    _ = F d (g s d) := by rw [hrest hfront]

theorem bellView_toFrameBoundary (s : Mach) (d : Nat) : bellView (toFrameBoundary s) d = bellView s d := by
  have honly : toFrameBoundary s = { s with now := (toFrameBoundary s).now } := atFrame_only s none
  rw [honly]
  rfl

/-- A frame's pings: each die is pinged once. -/
theorem bellView_bellPing (s : Mach) (a : BitVec 32) {d : Nat} (hd : d ∈ dieIds) :
    bellView (bellPing s a) d = afterPing (a.getLsbD d) (bellView s d) := by
  have hwalk := view_foldS (F := fun d => afterPing (a.getLsbD d)) (fun u d e h => bellView_pingDie_other u h (a.getLsbD d))
    (fun u => bellView_pingDie_same u (lt_of_mem_dieIds hd) _) (by decide : dieIds.Nodup) hd (toFrameBoundary s)
  rw [bellView_toFrameBoundary] at hwalk
  exact (bellView_setWedge _ d).trans hwalk

theorem ends_bellPing (s : State) (a : BitVec 32) : Ends (.bellPing a) s (fun m =>
    (∀ d ∈ dieIds, a.getLsbD d = true → rb m .FLT_BELL 0 0 d = true ∧ smapGet 0 m.flt.missed d = 0) ∧
    (∀ d ∈ dieIds, a.getLsbD d = false → smapGet 0 s.mach.flt.missed d = 3 → rb m .FLT_BELL 0 0 d = false) ∧
    (∀ d ∈ dieIds, a.getLsbD d = false → smapGet 0 s.mach.flt.missed d < 3 → rb m .FLT_BELL 0 0 d = rb s.mach .FLT_BELL 0 0 d) ∧
    rb m .FLT_STATUS 0 0 2 = dieIds.any (fun d => !(rb m .FLT_BELL 0 0 d))) := by
  refine ⟨_, rfl, fun d hd hans => ?_, fun d hd hmiss hthree => ?_, fun d hd hmiss hfew => ?_, rb_wedge_setWedge _⟩
  · have hview := bellView_bellPing s.mach a hd
    rw [hans] at hview
    exact Prod.ext_iff.1 hview
  · have halive := congrArg Prod.fst (bellView_bellPing s.mach a hd)
    rw [hmiss] at halive
    exact halive.trans (if_pos hthree)
  · have halive := congrArg Prod.fst (bellView_bellPing s.mach a hd)
    rw [hmiss] at halive
    exact halive.trans (if_neg hfew.ne)

/-! ### Wedges (R547) and breaks of the ring (R546) -/

theorem ends_wedgeTimeout {s : State} {die : Fin 32} (htmo : rf s.mach .FLT_CFG 0 0 31 24 ≠ 0) (hdie : validDie die = true) :
    Ends (.wedgeTimeout die) s (fun m =>
      ∃ r, m.flt.wire = s.mach.flt.wire ++ [r] ∧ r.cls = 0x13 ∧ r.sub = 0xF3 ∧ r.die = die.val) := by
  have heq : wedgeTimeout s.mach die = wedgeRecord s.mach die 0xF3 3 := if_neg (by simp [htmo, hdie])
  refine ⟨_, rfl, ?_⟩
  dsimp only
  rw [heq]
  exact ⟨_, raise_wire _ _, rfl, rfl, rfl⟩

theorem ends_wedgeTimeout_never {s : State} {die : Fin 32} (htmo : rf s.mach .FLT_CFG 0 0 31 24 = 0) :
    Ends (.wedgeTimeout die) s (fun m => m = s.mach) := ⟨_, rfl, if_pos (Or.inl htmo)⟩

/-- The dies cut off are not alive; the bits of the others stand. -/
def cutOff (s : Mach) (l : List Nat) : Mach := foldS l (fun t d => wb t .FLT_BELL 0 0 d false) s

theorem rb_bell_cutOff (l : List Nat) (s : Mach) {k : Nat} (hk : k < 64) :
    rb (cutOff s l) .FLT_BELL 0 0 k = (rb s .FLT_BELL 0 0 k && !decide (k ∈ l)) := by
  induction l generalizing s with
  | nil => simp [cutOff, foldS]
  | cons d l ih =>
    refine (ih (wb s .FLT_BELL 0 0 d false)).trans ?_
    by_cases hkd : k = d
    · subst hkd
      rw [rb_wb _ _ _ _ _ _ hk]
      simp
    · rw [rb_wb_other _ _ _ _ _ _ _ (Ne.symm hkd)]
      simp [hkd]

theorem flt_cutOff (s : Mach) (l : List Nat) : (cutOff s l).flt = s.flt :=
  foldS_keeps Mach.flt _ _ _ fun _ _ => wr_flt _ _ _ _ _

/-- A break sets SPLIT, raises one record, and cuts off the dies that neither direction reaches. -/
theorem bellBreak_eq (s : Mach) (u : BitVec 32) : ∃ sub : Nat, bellBreak s u =
    setWedge (cutOff (wedgeRecord { wb s .FLT_BELL 0 0 32 true with freeCtr := s.freeCtr + 1 } 0 sub 1)
      (dieIds.filter (fun d => u.getLsbD d))) := ⟨_, rfl⟩

theorem ends_bellBreak (s : State) (u : BitVec 32) : Ends (.bellBreak u) s (fun m => rb m .FLT_BELL 0 0 32 = true ∧
    (∀ d ∈ dieIds, rb m .FLT_BELL 0 0 d = (rb s.mach .FLT_BELL 0 0 d && !u.getLsbD d)) ∧
    ∃ r, m.flt.wire = s.mach.flt.wire ++ [r] ∧ r.cls = 0x13 ∧ r.sev = 1) := by
  obtain ⟨sub, heq⟩ := bellBreak_eq s.mach u
  have hbit {k : Nat} (hk : k < 64) : rb (bellBreak s.mach u) .FLT_BELL 0 0 k =
      (rb (wb s.mach .FLT_BELL 0 0 32 true) .FLT_BELL 0 0 k && !decide (k ∈ dieIds.filter (fun d => u.getLsbD d))) := by
    rw [heq, rb_bell_setWedge, rb_bell_cutOff _ _ hk, rb_bell_wedgeRecord]
    rfl
  refine ⟨_, rfl, ?_, fun d hd => ?_, ?_⟩
  · refine (hbit (by decide)).trans ?_
    have hring : 32 ∉ dieIds := by decide
    rw [rb_wb _ _ _ _ _ _ (by decide)]
    simp [hring]
  · have hlt := lt_of_mem_dieIds hd
    refine (hbit (by omega)).trans ?_
    rw [rb_wb_other _ _ _ _ _ _ _ (by omega)]
    simp [hd]
  · dsimp only
    rw [heq]
    exact ⟨_, (congrArg Flt.wire (flt_cutOff _ _)).trans (raise_wire _ _), rfl, rfl⟩

/-! ### Frames of the bell path (R544, R568) -/

theorem ends_bellFrame_bad (s : State) :
    Ends (.bellFrame false) s (fun m => rg m .CNT_AO 0 5 = rg s.mach .CNT_AO 0 5 + 1 ∧ m.units = s.mach.units) :=
  ⟨_, rfl, rg_wr _ _ _ _ _, units_bumpAo _ _ _ _⟩

/-- Settles O57: each clause is one command of the links or of the bell path, by the record that it raises and by what it leaves in
FLT_BELL and in the rows of missed pings. -/
theorem linksAndBell : Obligations.LinksAndBell :=
  ⟨fun _ _ _ _ _ => ends_linkRetryLimit_within, fun _ _ _ _ _ => ends_linkRetryLimit_above, ends_bellPing,
    fun _ _ => ends_wedgeTimeout, fun _ _ => ends_wedgeTimeout_never, ends_bellBreak, fun _ => ⟨_, rfl, rfl⟩, ends_bellFrame_bad⟩

end Sys2Proof.Machine
end

section
/-! Packages and operands that meet the hypotheses of the links and of the bell path, at the edges: 1,024 and 1,025 retries, the
third and the fourth miss in a row, the reset value of WEDGE_TMO and 0, and a break that cuts one die off. -/

namespace Sys2Proof.Tests

open Sys2Proof.Machine

/-- 1,024 retries in a frame raise nothing. -/
theorem retries_1024_pass : Ends (.linkRetryLimit 4 1 1024 15) (at_ live) (fun m => m.flt.wire = []) := by
  obtain ⟨hwithin, -⟩ := linksAndBell
  exact (hwithin (at_ live) 4 1 1024 15 rfl le_rfl (by decide)).mono fun _ h => h.1

/-- The 1,025th raises a record that names die 4 and link 1. -/
theorem retries_1025_record : Ends (.linkRetryLimit 4 1 1025 15) (at_ live) (fun m => ∃ r, m.flt.wire = [r] ∧ r.region = 0x401) := by
  obtain ⟨-, habove, -⟩ := linksAndBell
  exact (habove (at_ live) 4 1 1025 15 rfl (by decide) (by decide)).mono fun _ ⟨r, hwire, _, _, hregion⟩ => ⟨r, hwire, hregion⟩

/-- The package with die 5 alive after `n` pings missed in a row. -/
def missing (n : Nat) : Mach := setMissed (wb live .FLT_BELL 0 0 5 true) 5 n

theorem bellView_missing (n : Nat) : bellView (missing n) 5 = (true, n) := by
  unfold missing
  rw [bellView_setMissed_same, rb_wb _ _ _ _ _ _ (by decide)]

/-- The fourth miss in a row clears ALIVE. -/
theorem fourth_miss_clears : Ends (.bellPing 0) (at_ (missing 3)) (fun m => rb m .FLT_BELL 0 0 5 = false) := by
  obtain ⟨-, -, hping, -⟩ := linksAndBell
  exact (hping (at_ (missing 3)) 0).mono fun _ ⟨_, hfourth, _⟩ =>
    hfourth 5 (by decide) rfl (congrArg Prod.snd (bellView_missing 3))

/-- The third does not. -/
theorem third_miss_passes : Ends (.bellPing 0) (at_ (missing 2)) (fun m => rb m .FLT_BELL 0 0 5 = true) := by
  obtain ⟨-, -, hping, -⟩ := linksAndBell
  refine (hping (at_ (missing 2)) 0).mono fun _ ⟨_, _, hfew, _⟩ => ?_
  have hcount : smapGet 0 (missing 2).flt.missed 5 = 2 := congrArg Prod.snd (bellView_missing 2)
  exact (hfew 5 (by decide) rfl (hcount.trans_lt (by decide))).trans (congrArg Prod.fst (bellView_missing 2))

/-- An answer ends the row. -/
theorem answer_ends_row : Ends (.bellPing (1 <<< 5)) (at_ (missing 3)) (fun m =>
    rb m .FLT_BELL 0 0 5 = true ∧ smapGet 0 m.flt.missed 5 = 0) := by
  obtain ⟨-, -, hping, -⟩ := linksAndBell
  exact (hping (at_ (missing 3)) (1 <<< 5)).mono fun _ ⟨hanswer, _⟩ => hanswer 5 (by decide) (by decide)

/-- At the reset value of WEDGE_TMO, 16 frames, a die reports itself wedged. -/
theorem wedge_reported : Ends (.wedgeTimeout 5) (at_ powered) (fun m => ∃ r, m.flt.wire = [r] ∧ r.sub = 0xF3 ∧ r.die = 5) := by
  obtain ⟨-, -, -, hwedge, -⟩ := linksAndBell
  have htmo : rf powered .FLT_CFG 0 0 31 24 = 16 := by
    unfold rf
    rw [rg_powered (by decide)]
    decide
  exact (hwedge (at_ powered) 5 (htmo.trans_ne (by decide)) rfl).mono fun _ ⟨r, hwire, _, hsub, hdie⟩ => ⟨r, hwire, hsub, hdie⟩

/-- With WEDGE_TMO at 0 it never does. -/
theorem wedge_never : Ends (.wedgeTimeout 5) (at_ (wf live .FLT_CFG 0 0 31 24 0)) (fun m => m.flt.wire = []) := by
  obtain ⟨-, -, -, -, hnever, -⟩ := linksAndBell
  have htmo : rf (wf live .FLT_CFG 0 0 31 24 0) .FLT_CFG 0 0 31 24 = 0 := rf_wf_of_lt _ _ _ _ (by decide) (by decide) (by decide)
  refine (hnever (at_ (wf live .FLT_CFG 0 0 31 24 0)) 5 htmo).mono ?_
  rintro m rfl
  rfl

/-- A break that cuts die 5 off leaves it not alive, with SPLIT set. -/
theorem break_cuts_off : Ends (.bellBreak (1 <<< 5)) (at_ (missing 0)) (fun m =>
    rb m .FLT_BELL 0 0 32 = true ∧ rb m .FLT_BELL 0 0 5 = false) := by
  obtain ⟨-, -, -, -, -, hbreak, -⟩ := linksAndBell
  refine (hbreak (at_ (missing 0)) (1 <<< 5)).mono fun _ ⟨hsplit, halive, _⟩ => ⟨hsplit, (halive 5 (by decide)).trans ?_⟩
  rw [show (1 <<< 5 : BitVec 32).getLsbD 5 = true by decide, Bool.not_true, Bool.and_false]

/-- A break that cuts no die off leaves die 5 alive. -/
theorem break_keeps_alive : Ends (.bellBreak 0) (at_ (missing 0)) (fun m => rb m .FLT_BELL 0 0 5 = true) := by
  obtain ⟨-, -, -, -, -, hbreak, -⟩ := linksAndBell
  refine (hbreak (at_ (missing 0)) 0).mono fun _ ⟨_, halive, _⟩ => (halive 5 (by decide)).trans ?_
  have hbefore : rb (missing 0) .FLT_BELL 0 0 5 = true := congrArg Prod.fst (bellView_missing 0)
  rw [show (at_ (missing 0)).mach = missing 0 from rfl, hbefore]
  rfl

end Sys2Proof.Tests
end

section
/-! The queue of commands: every command that is well formed completes, and no step spoils the queue (log entries 1, 2, 107). -/

namespace Sys2Proof.Machine

/-- A command whose operands are checked changes the package alone, or is no request. -/
theorem guarded_completes {s : State} {wf : Bool} (f : Mach → Mach) (h : wf = true) :
    ∃ m : Mach, guarded wf s f = .next { s with mach := m } := ⟨f s.mach, if_pos h⟩

theorem exec_completes (c : Instr) (s : State) (h : c.wf = true) : ∃ m : Mach, exec c s = .next { s with mach := m } := by
  cases c
  case beacon | exchangeRequest | exchangeReply | gearSelection | loftWindowAccess | vkLock | flitReceive | pcieDeviceRequest | msi |
      pcieLinkTraining => exact guarded_completes _ h
  all_goals exact ⟨_, rfl⟩

theorem exec_illFormed (c : Instr) (s : State) (h : c.wf = false) : exec c s = .fault .illFormed := by
  have hfault (f : Mach → Mach) : guarded c.wf s f = .fault .illFormed := if_neg (by simp [h])
  cases c
  case beacon | exchangeRequest | exchangeReply | gearSelection | loftWindowAccess | vkLock | flitReceive | pcieDeviceRequest | msi |
      pcieLinkTraining => exact hfault _
  all_goals exact Bool.noConfusion (h : true = false)

/-- Settles O2. -/
theorem wellFormedCompletes : Obligations.WellFormedCompletes := ⟨exec_completes, exec_illFormed⟩

/-- Settles O1: `step` splits on the queue. -/
theorem stepTakesFront : Obligations.StepTakesFront := by
  refine ⟨fun _ _ => rfl, fun s h => ?_⟩
  obtain ⟨pending, mach⟩ := s
  subst h
  rfl

/-- Settles O3: what waits behind the first command was well formed before, and carrying a command out adds none. -/
theorem queueInvariant : Obligations.QueueInvariant := by
  intro s hwf
  unfold step
  cases hq : s.pending with
  | nil => exact ⟨_, rfl, hq, hwf⟩
  | cons c rest =>
    have hrest : ∀ d ∈ rest, d.wf = true := fun d hd => hwf d (hq ▸ List.mem_cons_of_mem c hd)
    obtain ⟨m, hm⟩ := exec_completes c { s with pending := rest } (hwf c (hq ▸ List.mem_cons_self))
    exact ⟨_, hm, rfl, hrest⟩

end Sys2Proof.Machine
end

section
/-! The encoding of control space: blocks lie apart (R31, R33), and the registers of a block lie apart (the register tables). -/

namespace Sys2Proof.Machine

/-! ### Registers within their block -/

/-- The bytes of control space that a unit of a block has. -/
def Blk.size (b : Blk) (u : Nat) : Nat :=
  match b with
  | .hub | .boot | .alm | .pwr | .flt | .dbgtrc | .mgt | .cnt | .sec | .vk => 0x10000
  | .prt => 0x30000
  | .rng => 0x80
  | .shf => 0x400
  | .semarr => 0x4000
  | .grn => 0x40000
  | .cluster | .pci => 0x20000
  | .home => if 4 ≤ u then 0x40000 else 0x20000
  | .movb => 0x30000
  | _ => 0x1000

/-- No register of one row lies at a register of the other: one ends before the other begins, or they interleave. -/
def RegInfo.Apart (r q : RegInfo) : Prop :=
  r.off + (r.count - 1) * r.stride < q.off ∨ q.off + (q.count - 1) * q.stride < r.off ∨
    (r.stride = q.stride ∧ r.off % r.stride ≠ q.off % r.stride)

theorem info_layout (n : RegName) : n ∈ n.info.blk.regs ∧ 0 < n.info.count ∧ 0 < n.info.stride ∧ n.info.off % 8 = 0 ∧
    n.info.stride % 8 = 0 := by
  cases n <;> decide

/-- The registers of the last-level cache lie past what the home of a barn die has (R369). -/
theorem place_lt_size {n : RegName} {u : Nat} (hp : regPresent n u = true) :
    n.info.off + (n.info.count - 1) * n.info.stride < n.info.blk.size u := by
  have hfour (h : 4 ≤ u) : Blk.home.size u = 0x40000 := if_pos h
  have hhome : 0x20000 ≤ Blk.home.size u := by show 0x20000 ≤ if 4 ≤ u then 0x40000 else 0x20000; split <;> decide
  cases n
  case COH_LLCWAY | COH_LLCECC | COH_LLCERR => exact (hfour (of_decide_eq_true hp)).symm ▸ (by decide)
  case COH_HSTATUS | COH_HCFG | COH_HERR | COH_DIRSTAT | COH_DEPART0 | COH_DEPART1 | COH_AGED | COH_CROSS | COH_DIRECC =>
    exact Nat.lt_of_lt_of_le (by decide) hhome
  all_goals exact of_decide_eq_true rfl

theorem regs_apart (b : Blk) : b.regs.Pairwise (fun n m => n.info.Apart m.info) := by
  unfold RegInfo.Apart
  cases b <;> decide

/-- A register of a row lies at its own place only. -/
theorem index_place (r : RegInfo) {i : Nat} (hs : 0 < r.stride) (hi : i < r.count) : r.index (r.off + i * r.stride) = some i := by
  unfold RegInfo.index
  rw [Nat.add_sub_cancel_left, Nat.mul_mod_left, Nat.mul_div_cancel _ hs, if_pos ⟨by omega, rfl, hi⟩]

theorem index_apart {r q : RegInfo} (h : r.Apart q ∨ q.Apart r) {i : Nat} (hi : i < r.count) :
    q.index (r.off + i * r.stride) = none := by
  unfold RegInfo.index
  refine if_neg ?_
  rintro ⟨hge, hmod, hlt⟩
  have hlast : i * r.stride ≤ (r.count - 1) * r.stride := Nat.mul_le_mul_right _ (by omega)
  have hdiv := Nat.div_add_mod (r.off + i * r.stride - q.off) q.stride
  have hle : q.stride * ((r.off + i * r.stride - q.off) / q.stride) ≤ (q.count - 1) * q.stride := by
    rw [Nat.mul_comm]
    exact Nat.mul_le_mul_right _ (by omega)
  have hsame (he : r.stride = q.stride) : r.off % q.stride = q.off % q.stride := by
    have hsplit : r.off + i * r.stride = q.off + q.stride * ((r.off + i * r.stride - q.off) / q.stride) := by omega
    calc r.off % q.stride = (r.off + i * q.stride) % q.stride := (Nat.add_mul_mod_self_right _ _ _).symm
      _ = (q.off + q.stride * ((r.off + i * r.stride - q.off) / q.stride)) % q.stride := by rw [← hsplit, he]
      _ = q.off % q.stride := Nat.add_mul_mod_self_left _ _ _
  unfold RegInfo.Apart at h
  rcases h with (h | h | ⟨he, hne⟩) | (h | h | ⟨he, hne⟩)
  · omega
  · omega
  · exact hne (he ▸ hsame he)
  · omega
  · omega
  · exact hne (hsame he.symm).symm

theorem findSome_of_unique {α β : Type} {l : List α} {f : α → Option β} {a : α} {b : β} (hmem : a ∈ l) (ha : f a = some b)
    (hrest : ∀ x ∈ l, x ≠ a → f x = none) : l.findSome? f = some b := by
  induction l with
  | nil => cases hmem
  | cons x l ih =>
    rw [List.findSome?_cons]
    by_cases hx : x = a
    · rw [hx, ha]
    · rw [hrest x List.mem_cons_self hx]
      exact ih ((List.mem_cons.1 hmem).resolve_left (Ne.symm hx)) fun y hy => hrest y (List.mem_cons_of_mem x hy)

/-- A register is found at its own offset in its block. -/
theorem regIn_place {n : RegName} {u i : Nat} (hp : regPresent n u = true) (hi : i < n.info.count) :
    regIn n.info.blk u (n.info.off + i * n.info.stride) = some ⟨n, u, i⟩ := by
  obtain ⟨hmem, -, hs, -⟩ := info_layout n
  unfold regIn
  refine findSome_of_unique hmem ?_ fun m hm hne => ?_
  · rw [index_place _ hs hi]
    exact if_pos hp
  · have hsym : Std.Symm (fun n m : RegName => n.info.Apart m.info ∨ m.info.Apart n.info) := ⟨fun _ _ h => h.symm⟩
    have hapart := ((regs_apart n.info.blk).imp (fun h => Or.inl h) :
      n.info.blk.regs.Pairwise (fun n m => n.info.Apart m.info ∨ m.info.Apart n.info)).forall hmem hm (Ne.symm hne)
    rw [index_apart hapart hi]

/-! ### Blocks within control space -/

/-- A die window lies below the doorbells, and holds its own offsets. -/
theorem die_window {a d o : Nat} (hd : validDie d = true) (ha : a = dieBase d + o) (ho : o < 0x200000) :
    ¬ (0x4000000 ≤ a ∧ a < 0x5000000) ∧ ¬ 0x4000000 ≤ a ∧ a / 0x200000 = d ∧ a % 0x200000 = o := by
  unfold validDie at hd
  unfold dieBase at ha
  simp only [Bool.or_eq_true, Bool.and_eq_true, decide_eq_true_eq] at hd
  omega

/-- The windows of compute dies are neither the hub's, nor a core die's, nor a barn die's (R25). -/
theorem compDie_window {c : Nat} (h : c < 6) : validDie (compDieId c) = true ∧ compDieId c ≠ 0 ∧ compDieId c % 16 ≠ 1 ∧
    ¬ compDieId c % 16 ≤ 3 ∧ compOrd (compDieId c) = c := by
  have hall : ∀ c < 6, validDie (compDieId c) = true ∧ compDieId c ≠ 0 ∧ compDieId c % 16 ≠ 1 ∧ ¬ compDieId c % 16 ≤ 3 ∧
      compOrd (compDieId c) = c := by decide
  exact hall c h

theorem barnDie_window {c : Nat} (h : c < 4) : validDie (barnDieId c) = true ∧ barnDieId c ≠ 0 ∧ barnDieId c % 16 ≠ 1 ∧
    barnDieId c % 16 ≤ 3 ∧ barnOrd (barnDieId c) = c := by
  have hall : ∀ c < 4, validDie (barnDieId c) = true ∧ barnDieId c ≠ 0 ∧ barnDieId c % 16 ≠ 1 ∧ barnDieId c % 16 ≤ 3 ∧
      barnOrd (barnDieId c) = c := by decide
  exact hall c h

theorem coreDie_window {c : Nat} (h : c < 2) : validDie (coreDieId c) = true ∧ coreDieId c ≠ 0 ∧ coreDieId c % 16 = 1 ∧
    coreDieId c / 16 = c := by
  have hall : ∀ c < 2, validDie (coreDieId c) = true ∧ coreDieId c ≠ 0 ∧ coreDieId c % 16 = 1 ∧ coreDieId c / 16 = c := by decide
  exact hall c h

/-- The doorbell pages (R31). -/
theorem blkAt_door {u x : Nat} (hu : Blk.door.hasUnit u = true) (hx : x < Blk.door.size u) :
    blkAt (Blk.door.base u + x) = some (.door, u, x) := by
  generalize ha : Blk.door.base u + x = a
  simp only [Blk.hasUnit, Blk.size, decide_eq_true_eq] at hu hx
  simp only [Blk.base] at ha
  have hin : 0x4000000 ≤ a ∧ a < 0x5000000 := by omega
  unfold blkAt
  rw [if_pos hin]
  simp only [Option.some.injEq, Prod.mk.injEq, true_and]
  omega

/-- The hub's blocks (R31). -/
theorem blkAt_hub {b : Blk} {u x : Nat} (hb : b = .hub ∨ b = .boot ∨ b = .alm ∨ b = .pwr ∨ b = .flt ∨ b = .prt ∨ b = .rng ∨ b = .dbgtrc ∨ b = .mgt ∨ b = .cnt ∨ b = .sec)
    (hu : b.hasUnit u = true) (hx : x < b.size u) : blkAt (b.base u + x) = some (b, u, x) := by
  generalize ha : b.base u + x = a
  rcases hb with rfl | rfl | rfl | rfl | rfl | rfl | rfl | rfl | rfl | rfl | rfl
  all_goals
    simp only [Blk.hasUnit, Blk.size, decide_eq_true_eq] at hu hx
    simp only [Blk.base] at ha
    obtain ⟨hdoor, hend, hd, ho⟩ := die_window (a := a) (d := 0) (o := a) (by decide) (by simp [dieBase]) (by omega)
    unfold blkAt
    rw [if_neg hdoor, if_neg hend]
    dsimp only
    rw [hd, ho, if_neg (show validDie 0 ≠ false by decide), if_pos rfl]
    repeat rw [if_neg (by omega)]
    rw [if_pos (by omega)]
    simp only [Option.some.injEq, Prod.mk.injEq, true_and]
    omega

/-- The blocks of a bay but its last (R33). -/
theorem blkAt_bay {b : Blk} {u x : Nat} (hb : b = .seq ∨ b = .mxa ∨ b = .vxe ∨ b = .sem ∨ b = .mov ∨ b = .lft ∨ b = .etr ∨ b = .semarr ∨ b = .bcnt ∨ b = .btrc ∨ b = .bdbg)
    (hu : b.hasUnit u = true) (hx : x < b.size u) : blkAt (b.base u + x) = some (b, u, x) := by
  generalize ha : b.base u + x = a
  rcases hb with rfl | rfl | rfl | rfl | rfl | rfl | rfl | rfl | rfl | rfl | rfl
  all_goals
    simp only [Blk.hasUnit, Blk.size, decide_eq_true_eq] at hu hx
    simp only [Blk.base] at ha
    obtain ⟨hdie, hz, hcore, hbarn, hord⟩ := compDie_window (c := u / 12) (by omega)
    obtain ⟨hdoor, hend, hd, ho⟩ := die_window (a := a) (o := a - dieBase (compDieId (u / 12))) hdie (by omega) (by omega)
    unfold blkAt
    rw [if_neg hdoor, if_neg hend]
    simp only [hd, ho, hdie, hz, hcore, hbarn, hord, if_false, Bool.true_eq_false]
    rw [if_pos (by omega)]
    repeat rw [if_neg (by omega)]
    rw [if_pos (by omega)]
    simp only [Option.some.injEq, Prod.mk.injEq, true_and]
    omega

/-- The last block of a bay (R33). -/
theorem blkAt_bflt {b : Blk} {u x : Nat} (hb : b = .bflt)
    (hu : b.hasUnit u = true) (hx : x < b.size u) : blkAt (b.base u + x) = some (b, u, x) := by
  generalize ha : b.base u + x = a
  subst hb
  simp only [Blk.hasUnit, Blk.size, decide_eq_true_eq] at hu hx
  simp only [Blk.base] at ha
  obtain ⟨hdie, hz, hcore, hbarn, hord⟩ := compDie_window (c := u / 12) (by omega)
  obtain ⟨hdoor, hend, hd, ho⟩ := die_window (a := a) (o := a - dieBase (compDieId (u / 12))) hdie (by omega) (by omega)
  unfold blkAt
  rw [if_neg hdoor, if_neg hend]
  simp only [hd, ho, hdie, hz, hcore, hbarn, hord, if_false, Bool.true_eq_false]
  rw [if_pos (by omega)]
  repeat rw [if_neg (by omega)]
  simp only [Option.some.injEq, Prod.mk.injEq, true_and]
  omega

/-- A sheaf engine's quarter of its block (R33). -/
theorem blkAt_shf {b : Blk} {u x : Nat} (hb : b = .shf)
    (hu : b.hasUnit u = true) (hx : x < b.size u) : blkAt (b.base u + x) = some (b, u, x) := by
  generalize ha : b.base u + x = a
  subst hb
  simp only [Blk.hasUnit, Blk.size, decide_eq_true_eq] at hu hx
  simp only [Blk.base] at ha
  obtain ⟨hdie, hz, hcore, hbarn, hord⟩ := compDie_window (c := u / 4 / 12) (by omega)
  obtain ⟨hdoor, hend, hd, ho⟩ := die_window (a := a) (o := a - dieBase (compDieId (u / 4 / 12))) hdie (by omega) (by omega)
  unfold blkAt
  rw [if_neg hdoor, if_neg hend]
  simp only [hd, ho, hdie, hz, hcore, hbarn, hord, if_false, Bool.true_eq_false]
  rw [if_pos (by omega)]
  repeat rw [if_neg (by omega)]
  rw [if_pos (by omega)]
  simp only [Option.some.injEq, Prod.mk.injEq, true_and]
  omega

/-- The blocks of a compute die beside its bays (R33). -/
theorem blkAt_comp {b : Blk} {u x : Nat} (hb : b = .alml ∨ b = .pwrl ∨ b = .fltd ∨ b = .yard ∨ b = .etrw ∨ b = .lftc ∨ b = .coha)
    (hu : b.hasUnit u = true) (hx : x < b.size u) : blkAt (b.base u + x) = some (b, u, x) := by
  generalize ha : b.base u + x = a
  rcases hb with rfl | rfl | rfl | rfl | rfl | rfl | rfl
  all_goals
    simp only [Blk.hasUnit, Blk.size, decide_eq_true_eq] at hu hx
    simp only [Blk.base] at ha
    obtain ⟨hdie, hz, hcore, hbarn, hord⟩ := compDie_window (c := u) hu
    obtain ⟨hdoor, hend, hd, ho⟩ := die_window (a := a) (o := a - dieBase (compDieId (u))) hdie (by omega) (by omega)
    unfold blkAt
    rw [if_neg hdoor, if_neg hend]
    simp only [hd, ho, hdie, hz, hcore, hbarn, hord, if_false, Bool.true_eq_false]
    repeat rw [if_neg (by omega)]
    rw [if_pos (by omega)]
    simp only [Option.some.injEq, Prod.mk.injEq, true_and]
    omega

/-- A stack's block (R33). -/
theorem blkAt_grn {b : Blk} {u x : Nat} (hb : b = .grn)
    (hu : b.hasUnit u = true) (hx : x < b.size u) : blkAt (b.base u + x) = some (b, u, x) := by
  generalize ha : b.base u + x = a
  subst hb
  simp only [Blk.hasUnit, Blk.size, decide_eq_true_eq] at hu hx
  simp only [Blk.base] at ha
  obtain ⟨hdie, hz, hcore, hbarn, hord⟩ := barnDie_window (c := u / 3) (by omega)
  obtain ⟨hdoor, hend, hd, ho⟩ := die_window (a := a) (o := a - dieBase (barnDieId (u / 3))) hdie (by omega) (by omega)
  unfold blkAt
  rw [if_neg hdoor, if_neg hend]
  simp only [hd, ho, hdie, hz, hcore, hbarn, hord, if_false, if_true, Bool.true_eq_false]
  rw [if_pos (by omega)]
  simp only [Option.some.injEq, Prod.mk.injEq, true_and]
  omega

/-- A port's block (R33). -/
theorem blkAt_vk {b : Blk} {u x : Nat} (hb : b = .vk)
    (hu : b.hasUnit u = true) (hx : x < b.size u) : blkAt (b.base u + x) = some (b, u, x) := by
  generalize ha : b.base u + x = a
  subst hb
  simp only [Blk.hasUnit, Blk.size, decide_eq_true_eq] at hu hx
  simp only [Blk.base] at ha
  obtain ⟨hdie, hz, hcore, hbarn, hord⟩ := barnDie_window (c := u / 6) (by omega)
  obtain ⟨hdoor, hend, hd, ho⟩ := die_window (a := a) (o := a - dieBase (barnDieId (u / 6))) hdie (by omega) (by omega)
  unfold blkAt
  rw [if_neg hdoor, if_neg hend]
  simp only [hd, ho, hdie, hz, hcore, hbarn, hord, if_false, if_true, Bool.true_eq_false]
  repeat rw [if_neg (by omega)]
  rw [if_pos (by omega)]
  simp only [Option.some.injEq, Prod.mk.injEq, true_and]
  omega

/-- The other blocks of a barn die (R33). -/
theorem blkAt_barn {b : Blk} {u x : Nat} (hb : b = .pci ∨ b = .movb)
    (hu : b.hasUnit u = true) (hx : x < b.size u) : blkAt (b.base u + x) = some (b, u, x) := by
  generalize ha : b.base u + x = a
  rcases hb with rfl | rfl
  all_goals
    simp only [Blk.hasUnit, Blk.size, decide_eq_true_eq] at hu hx
    simp only [Blk.base] at ha
    obtain ⟨hdie, hz, hcore, hbarn, hord⟩ := barnDie_window (c := u) hu
    obtain ⟨hdoor, hend, hd, ho⟩ := die_window (a := a) (o := a - dieBase (barnDieId (u))) hdie (by omega) (by omega)
    unfold blkAt
    rw [if_neg hdoor, if_neg hend]
    simp only [hd, ho, hdie, hz, hcore, hbarn, hord, if_false, if_true, Bool.true_eq_false]
    repeat rw [if_neg (by omega)]
    rw [if_pos (by omega)]
    simp only [Option.some.injEq, Prod.mk.injEq, true_and]
    omega

/-- A cluster's block (R33). -/
theorem blkAt_cluster {b : Blk} {u x : Nat} (hb : b = .cluster)
    (hu : b.hasUnit u = true) (hx : x < b.size u) : blkAt (b.base u + x) = some (b, u, x) := by
  generalize ha : b.base u + x = a
  subst hb
  simp only [Blk.hasUnit, Blk.size, decide_eq_true_eq] at hu hx
  simp only [Blk.base] at ha
  obtain ⟨hdie, hz, hcore, hord⟩ := coreDie_window (c := u / 6) (by omega)
  obtain ⟨hdoor, hend, hd, ho⟩ := die_window (a := a) (o := a - dieBase (coreDieId (u / 6))) hdie (by omega) (by omega)
  unfold blkAt
  rw [if_neg hdoor, if_neg hend]
  simp only [hd, ho, hdie, hz, hcore, hord, if_false, if_true, Bool.true_eq_false]
  rw [if_pos (by omega)]
  simp only [Option.some.injEq, Prod.mk.injEq, true_and]
  omega

/-- A channel's block (R33). -/
theorem blkAt_ddr {b : Blk} {u x : Nat} (hb : b = .ddr)
    (hu : b.hasUnit u = true) (hx : x < b.size u) : blkAt (b.base u + x) = some (b, u, x) := by
  generalize ha : b.base u + x = a
  subst hb
  simp only [Blk.hasUnit, Blk.size, decide_eq_true_eq] at hu hx
  simp only [Blk.base] at ha
  obtain ⟨hdie, hz, hcore, hord⟩ := coreDie_window (c := u / 8) (by omega)
  obtain ⟨hdoor, hend, hd, ho⟩ := die_window (a := a) (o := a - dieBase (coreDieId (u / 8))) hdie (by omega) (by omega)
  unfold blkAt
  rw [if_neg hdoor, if_neg hend]
  simp only [hd, ho, hdie, hz, hcore, hord, if_false, if_true, Bool.true_eq_false]
  repeat rw [if_neg (by omega)]
  rw [if_pos (by omega)]
  simp only [Option.some.injEq, Prod.mk.injEq, true_and]
  omega

/-- The home of a barn die, and the home and last-level cache of a core die (R33, R369). -/
theorem blkAt_home {u x : Nat} (hu : Blk.home.hasUnit u = true) (hx : x < Blk.home.size u) :
    blkAt (Blk.home.base u + x) = some (.home, u, x) := by
  generalize ha : Blk.home.base u + x = a
  simp only [Blk.hasUnit, Blk.size, decide_eq_true_eq] at hu hx
  simp only [Blk.base] at ha
  by_cases hbarnHome : u < 4
  · rw [if_pos hbarnHome] at ha
    rw [if_neg (by omega)] at hx
    obtain ⟨hdie, hz, hcore, hbarn, hord⟩ := barnDie_window hbarnHome
    obtain ⟨hdoor, hend, hd, ho⟩ := die_window (a := a) (o := a - dieBase (barnDieId u)) hdie (by omega) (by omega)
    unfold blkAt
    rw [if_neg hdoor, if_neg hend]
    simp only [hd, ho, hdie, hz, hcore, hbarn, hord, if_false, if_true, Bool.true_eq_false]
    repeat rw [if_neg (by omega)]
    rw [if_pos (by omega)]
    simp only [Option.some.injEq, Prod.mk.injEq, true_and]
    omega
  · rw [if_neg hbarnHome] at ha
    rw [if_pos (by omega)] at hx
    obtain ⟨hdie, hz, hcore, hord⟩ := coreDie_window (c := u - 4) (by omega)
    obtain ⟨hdoor, hend, hd, ho⟩ := die_window (a := a) (o := a - dieBase (coreDieId (u - 4))) hdie (by omega) (by omega)
    unfold blkAt
    rw [if_neg hdoor, if_neg hend]
    simp only [hd, ho, hdie, hz, hcore, hord, if_false, if_true, Bool.true_eq_false]
    repeat rw [if_neg (by omega)]
    rw [if_pos (by omega)]
    simp only [Option.some.injEq, Prod.mk.injEq, true_and]
    omega

/-- The identity block of a die (R33, R34). -/
theorem blkAt_identity {u x : Nat} (hu : Blk.die.hasUnit u = true) (hx : x < Blk.die.size u) :
    blkAt (Blk.die.base u + x) = some (.die, u, x) := by
  generalize ha : Blk.die.base u + x = a
  simp only [Blk.hasUnit, Blk.size, Bool.and_eq_true, decide_eq_true_eq] at hu hx
  simp only [Blk.base] at ha
  obtain ⟨hdie, hz⟩ := hu
  have hbase : a - dieBase u < 0x200000 ∧ a = dieBase u + (a - dieBase u) := by split at ha <;> omega
  obtain ⟨hdoor, hend, hd, ho⟩ := die_window hdie hbase.2 hbase.1
  unfold blkAt
  rw [if_neg hdoor, if_neg hend]
  simp only [hd, ho, hdie, hz, if_false, Bool.true_eq_false]
  by_cases hcore : u % 16 = 1
  · rw [if_pos (Or.inr hcore)] at ha
    rw [if_pos hcore]
    repeat rw [if_neg (by omega)]
    rw [if_pos (by omega)]
    simp only [Option.some.injEq, Prod.mk.injEq, true_and]
    omega
  · rw [if_neg hcore]
    by_cases hbarn : u % 16 ≤ 3
    · have hlow : 2 ≤ u % 16 := by
        unfold validDie at hdie
        simp only [Bool.or_eq_true, Bool.and_eq_true, decide_eq_true_eq] at hdie
        omega
      rw [if_pos (Or.inl ⟨hlow, hbarn⟩)] at ha
      rw [if_pos hbarn]
      repeat rw [if_neg (by omega)]
      simp only [Option.some.injEq, Prod.mk.injEq, true_and]
      omega
    · rw [if_neg (by omega)] at ha
      rw [if_neg hbarn]
      repeat rw [if_neg (by omega)]
      rw [if_pos (by omega)]
      simp only [Option.some.injEq, Prod.mk.injEq, true_and]
      omega

/-- A block lies where R31 and R33 place it, and no other there. -/
theorem blkAt_base {b : Blk} {u x : Nat} (hu : b.hasUnit u = true) (hx : x < b.size u) : blkAt (b.base u + x) = some (b, u, x) := by
  cases b
  case hub | boot | alm | pwr | flt | prt | rng | dbgtrc | mgt | cnt | sec => exact blkAt_hub (by decide) hu hx
  case seq | mxa | vxe | sem | mov | lft | etr | semarr | bcnt | btrc | bdbg => exact blkAt_bay (by decide) hu hx
  case bflt => exact blkAt_bflt rfl hu hx
  case shf => exact blkAt_shf rfl hu hx
  case alml | pwrl | fltd | yard | etrw | lftc | coha => exact blkAt_comp (by decide) hu hx
  case grn => exact blkAt_grn rfl hu hx
  case vk => exact blkAt_vk rfl hu hx
  case pci | movb => exact blkAt_barn (by decide) hu hx
  case cluster => exact blkAt_cluster rfl hu hx
  case ddr => exact blkAt_ddr rfl hu hx
  case home => exact blkAt_home hu hx
  case die => exact blkAt_identity hu hx
  case door => exact blkAt_door hu hx

/-! ### Registers within control space -/

theorem base_aligned (b : Blk) (u : Nat) : b.base u % 8 = 0 := by
  unfold Blk.base dieBase
  cases b
  case home | die => dsimp only; split <;> omega
  all_goals dsimp only <;> omega

/-- The offset of a register that exists names it. -/
theorem regAt_addr {r : RegRef} (h : r.placed = true) : regAt r.addr = some (r.name.info.blk, r.unit, some r) := by
  unfold RegRef.placed at h
  simp only [Bool.and_eq_true, decide_eq_true_eq] at h
  obtain ⟨⟨hunit, hpres⟩, hidx⟩ := h
  have hlast : r.idx * r.name.info.stride ≤ (r.name.info.count - 1) * r.name.info.stride := Nat.mul_le_mul_right _ (by omega)
  have hfit := place_lt_size hpres
  have hblk := blkAt_base (x := r.name.info.off + r.idx * r.name.info.stride) hunit (by omega)
  unfold regAt RegRef.addr
  dsimp only
  have hwhole : (r.name.info.off + r.idx * r.name.info.stride) / 8 * 8 = r.name.info.off + r.idx * r.name.info.stride := by
    obtain ⟨-, -, -, hoff, hstride⟩ := info_layout r.name
    have hplace : r.idx * r.name.info.stride % 8 = 0 := by rw [Nat.mul_mod, hstride, Nat.mul_zero, Nat.zero_mod]
    omega
  rw [Nat.add_assoc, hblk]
  simp only [Option.map_some, hwhole, regIn_place hpres hidx]

/-- Settles O5: an offset names one block (R31, R33), and of its registers the one placed there. -/
theorem registerAddressesDecode : Obligations.RegisterAddressesDecode := by
  intro r hr
  have hat := regAt_addr hr
  refine ⟨hat, ?aligned, ?below, fun q hq haddr => ?same⟩
  case aligned =>
    obtain ⟨-, -, -, hoff, hstride⟩ := info_layout r.name
    have hbase := base_aligned r.name.info.blk r.unit
    have hplace : r.idx * r.name.info.stride % 8 = 0 := by rw [Nat.mul_mod, hstride, Nat.mul_zero, Nat.zero_mod]
    unfold RegRef.addr
    dsimp only
    omega
  case below =>
    by_contra hge
    have hnone := regAt_of_blkAt_none (blkAt_of_beyond_doorbells (off := r.addr) (by omega))
    rw [hat] at hnone
    cases hnone
  case same =>
    have hq := regAt_addr hq
    rw [haddr, hat] at hq
    simp only [Option.some.injEq, Prod.mk.injEq] at hq
    exact hq.2.2.symm

end Sys2Proof.Machine
end

section
/-! The package after reset: empty stores read their defaults, and every element of a vector is the reset one. -/

namespace Sys2Proof.Machine

theorem vget_replicate {α : Type} {n : Nat} (d a : α) {i : Nat} (h : i < n) : vget d (Vector.replicate n a) i = a := by
  simp [vget, h]

/-- Settles O4. -/
theorem resetState : Obligations.ResetState := by
  refine ⟨rfl, fun c hc => ?_, ⟨rfl, rfl, rfl⟩, rfl, fun _ _ _ => rfl, fun _ => ⟨rfl, rfl⟩, fun b => ?_, fun c => ?_⟩
  · cases hc
  · exact congrArg (fun x : Bay => x.seq.tid) (vget_replicate Bay.zero Bay.zero b.isLt)
  · exact congrArg Core.released (vget_replicate Core.zero Core.zero c.isLt)

end Sys2Proof.Machine
end

section
/-! What the operations on bays leave of a bay and apart from it: the clock, records and counts leave all of it, a change of one part
leaves the others. -/

namespace Sys2Proof.Machine

/-! ### Apart from the bay -/

section
variable (s : Mach) (b : Nat)

@[simp] theorem apart_advanceTo (t : Nat) : (advanceTo s t).apart b = s.apart b := apart_of_units (units_advanceTo s t) b
@[simp] theorem apart_advanceEdge (c k : Nat) : (advanceEdge s c k).apart b = s.apart b := apart_of_units (units_advanceEdge s c k) b
@[simp] theorem apart_wr (n : RegName) (u i : Nat) (v : Word) : (wr s n u i v).apart b = s.apart b := rfl
@[simp] theorem apart_wf (n : RegName) (u i hi lo v : Nat) : (wf s n u i hi lo v).apart b = s.apart b := rfl
@[simp] theorem apart_wb (n : RegName) (u i k : Nat) (v : Bool) : (wb s n u i k v).apart b = s.apart b := rfl
@[simp] theorem apart_bump (n : RegName) (u i hi lo k : Nat) : (bump s n u i hi lo k).apart b = s.apart b := rfl
@[simp] theorem apart_slip (c k x n : Nat) : (slip s c k x n).apart b = s.apart b := apart_of_units (units_slip s c k x n) b
@[simp] theorem apart_lateArm (c k x n : Nat) : (lateArm s c k x n).apart b = s.apart b := apart_of_units (units_lateArm s c k x n) b
@[simp] theorem apart_countEv (c e n : Nat) : (countEv s c e n).apart b = s.apart b := apart_of_units (units_countEv s c e n) b
@[simp] theorem apart_syncCnt (c : Nat) : (syncCnt s c).apart b = s.apart b := apart_of_units (units_syncCnt s c) b
@[simp] theorem apart_tokErr (c e a : Nat) : (tokErr s c e a).apart b = s.apart b := apart_of_units (units_tokErr s c e a) b
@[simp] theorem apart_recordSeqErr (c k e : Nat) : (recordSeqErr s c k e).apart b = s.apart b :=
  apart_of_units (units_recordSeqErr s c k e) b
@[simp] theorem apart_emitTrace (c k e u d : Nat) : (emitTrace s c k e u d).apart b = s.apart b :=
  apart_of_units (units_emitTrace s c k e u d) b
@[simp] theorem apart_emitTraceIf (c i k e u d : Nat) : (emitTraceIf s c i k e u d).apart b = s.apart b :=
  apart_of_units (units_emitTraceIf s c i k e u d) b
@[simp] theorem apart_fireIf (c i : Nat) (f : Sink → Bool) : (fireIf s c i f).apart b = s.apart b :=
  apart_of_units (units_fireIf s c i f) b
@[simp] theorem apart_raise (r : FltRec) : (raise s r).apart b = s.apart b := apart_of_units (units_raise s r) b
@[simp] theorem apart_raiseBay (c : Nat) (r : FltRec) : (raiseBay s c r).apart b = s.apart b := apart_of_units (units_raiseBay s c r) b

@[simp] theorem apart_modBay_self (f : Bay → Bay) : (modBay s b f).apart b = s.apart b := apart_modBay s b f
@[simp] theorem apart_modSeq_self (f : Seq → Seq) : (modSeq s b f).apart b = s.apart b := apart_modSeq s b f
@[simp] theorem apart_modStream_self (k : Nat) (f : Stream → Stream) : (modStream s b k f).apart b = s.apart b := apart_modStream s b k f
@[simp] theorem apart_modChan_self (c : Nat) (f : Chan → Chan) : (modChan s b c f).apart b = s.apart b := apart_modChan s b c f
@[simp] theorem apart_releaseAt (k m : Nat) : (releaseAt s b k m).apart b = s.apart b := apart_modStream s b k _
@[simp] theorem apart_holdStream (k : Nat) (h : StreamHold) : (holdStream s b k h).apart b = s.apart b := apart_modStream s b k _
@[simp] theorem apart_redirect (k n : Nat) : (redirect s b k n).apart b = s.apart b := apart_modStream s b k _
@[simp] theorem apart_opDone (k : Nat) : (opDone s b k).apart b = s.apart b := apart_modStream s b k _

@[simp] theorem apart_stopStreams : (stopStreams s b).apart b = s.apart b := by
  unfold stopStreams
  rw [apart_modBay, apart_syncCnt]

end

/-! ### Streams, channels and the sequencer of a bay -/

section
variable (s : Mach) (b : Fin 72)

theorem getStream_modStream_same (k : Fin 6) (f : Stream → Stream) : getStream (modStream s b k f) b k = f (getStream s b k) :=
  getStream_modStream s b k f

theorem getStream_modStream_other {k j : Nat} (h : j ≠ k) (f : Stream → Stream) : getStream (modStream s b k f) b j = getStream s b j := by
  unfold getStream modStream
  rw [getBay_modBay_fin]
  exact vget_vmod_other _ _ _ _ _ h

@[simp] theorem getSeq_modStream (k : Nat) (f : Stream → Stream) : getSeq (modStream s b k f) b = getSeq s b := by
  unfold getSeq modStream; rw [getBay_modBay_fin]
@[simp] theorem getChan_modStream (k c : Nat) (f : Stream → Stream) : getChan (modStream s b k f) b c = getChan s b c := by
  unfold getChan modStream; rw [getBay_modBay_fin]
@[simp] theorem getStream_modSeq (k : Nat) (f : Seq → Seq) : getStream (modSeq s b f) b k = getStream s b k := by
  unfold getStream modSeq; rw [getBay_modBay_fin]
@[simp] theorem getChan_modSeq (c : Nat) (f : Seq → Seq) : getChan (modSeq s b f) b c = getChan s b c := by
  unfold getChan modSeq; rw [getBay_modBay_fin]
@[simp] theorem getStream_modChan (c k : Nat) (f : Chan → Chan) : getStream (modChan s b c f) b k = getStream s b k := by
  unfold getStream modChan; rw [getBay_modBay_fin]
@[simp] theorem getSeq_modChan (c : Nat) (f : Chan → Chan) : getSeq (modChan s b c f) b = getSeq s b := by
  unfold getSeq modChan; rw [getBay_modBay_fin]

theorem getStream_releaseAt (k : Fin 6) (m : Nat) :
    getStream (releaseAt s b k m) b k = { getStream s b k with hold := .none, nextAt := m } := getStream_modStream s b k _

theorem getStream_holdStream (k : Fin 6) (h : StreamHold) :
    getStream (holdStream s b k h) b k = { getStream s b k with hold := h } := getStream_modStream s b k _

theorem getStream_opDone (k : Fin 6) : getStream (opDone s b k) b k = { getStream s b k with fresh := false } :=
  getStream_modStream s b k _

theorem getStream_redirect (k : Fin 6) (n : Nat) : getStream (redirect s b k n) b k = { getStream s b k with next := n } :=
  getStream_modStream s b k _

end

/-! ### The operation in issue -/

/-- An operation in issue is carried out on the package in which its word is no longer fresh. -/
theorem onSlot_of_ready {s : Mach} {b k form op : Nat} (h : opReady s b k form op = true) (f : Slot → Mach → Mach) :
    onSlot s b k form op f = f (getStream s b k).word (opDone s b k) := if_pos h

/-- Carrying an operation out leaves of a stream all but that its word is fresh. -/
theorem getStream_opDone_mod (s : Mach) (b : Fin 72) (k : Fin 6) (j : Nat) : ∃ f : Bool,
    getStream (opDone s b k) b j = { getStream s b j with fresh := f } := by
  by_cases hj : j = k.val
  · subst hj
    exact ⟨false, getStream_opDone s b k⟩
  · exact ⟨(getStream s b j).fresh, getStream_modStream_other s b hj _⟩

theorem idx_opDone (s : Mach) (b : Fin 72) (k : Fin 6) (j : Nat) : (getStream (opDone s b k) b j).idx = (getStream s b j).idx := by
  obtain ⟨f, hf⟩ := getStream_opDone_mod s b k j
  rw [hf]

theorem last_opDone (s : Mach) (b : Fin 72) (k : Fin 6) (j : Nat) : (getStream (opDone s b k) b j).last = (getStream s b j).last := by
  obtain ⟨f, hf⟩ := getStream_opDone_mod s b k j
  rw [hf]

theorem issued_opDone (s : Mach) (b : Fin 72) (k : Fin 6) (j : Nat) : (getStream (opDone s b k) b j).issued = (getStream s b j).issued := by
  obtain ⟨f, hf⟩ := getStream_opDone_mod s b k j
  rw [hf]

theorem tb_opDone (s : Mach) (b : Fin 72) (k : Fin 6) (j : Nat) : (getStream (opDone s b k) b j).tb = (getStream s b j).tb := by
  obtain ⟨f, hf⟩ := getStream_opDone_mod s b k j
  rw [hf]

/-! ### Halts -/

theorem le_runEdge (s : Mach) (b m : Nat) : m ≤ runEdge s b m := by
  unfold runEdge
  dsimp only
  split
  · exact Nat.le_max_left _ _
  · exact Nat.le_refl _


/-! ### Ownership (R459, R461) -/

/-- Two packages with the same partition table. -/
def SameParts (s t : Mach) : Prop :=
  ∀ p < 16, rg s .PRT_PART_A 0 p = rg t .PRT_PART_A 0 p ∧ rg s .PRT_PART_B 0 p = rg t .PRT_PART_B 0 p ∧
    rg s .PRT_PART_C 0 p = rg t .PRT_PART_C 0 p

section
variable {s t : Mach} (h : SameParts s t)
include h

theorem ownerBy_of_parts {f g : Nat → Nat} (hfg : ∀ p < 16, f p = g p) (k : Nat) : ownerBy s f k = ownerBy t g k := by
  refine List.find?_congr fun p hp => ?_
  have hlt : p < 16 := List.mem_range.1 hp
  unfold partValid rb
  rw [(h p hlt).1, hfg p hlt]

theorem bayPid_of_parts (b : Nat) : bayPid s b = bayPid t b :=
  ownerBy_of_parts h (fun p hp => congrArg (fld · 17 0) (h p hp).1) _

theorem clusterPid_of_parts (c : Nat) : clusterPid s c = clusterPid t c :=
  ownerBy_of_parts h (fun p hp => congrArg (fld · 43 32) (h p hp).1) _

theorem portPid_of_parts (q : Nat) : portPid s q = portPid t q :=
  ownerBy_of_parts h (fun p hp => congrArg (fld · 55 32) (h p hp).2.1) _

theorem pciPid_of_parts (q k : Nat) : pciPid s q k = pciPid t q k :=
  ownerBy_of_parts h (fun p hp => congrArg (fld · 31 0) (h p hp).2.1) _

end

/-- A store outside the partition table leaves it. -/
theorem sameParts_wr {n : RegName} {u i : Nat} (h : RegRef.addr ⟨n, u, i⟩ < 0x50000 ∨ 0x51000 ≤ RegRef.addr ⟨n, u, i⟩) (s : Mach)
    (v : Word) : SameParts (wr s n u i v) s := by
  intro p hp
  refine ⟨rg_wr_other _ _ _ _ _ _ _ _ ?_, rg_wr_other _ _ _ _ _ _ _ _ ?_, rg_wr_other _ _ _ _ _ _ _ _ ?_⟩
  all_goals
    generalize RegRef.addr ⟨n, u, i⟩ = a at h
    simp only [RegRef.addr, RegName.info, Blk.base]
    omega

end Sys2Proof.Machine
end

section
/-! Slot streams issue, stall, fetch and idle (R73, R74, R84). -/

namespace Sys2Proof.Machine

/-- SLOT_ISSUE of a word of forms 1 and 2 (R74). -/
theorem slotIssue_eq {s : Mach} {b k : Nat} {w : Slot} (hmay : mayIssue s b k = true)
    (hnext : (getStream s b k).next < entLength (streamEntry s b (getSeq s b).storeBase k))
    (hbusy : (getStream s b k).busy ≤ (getStream s b k).last)
    (hw : BitVec.ofNat 128 (loftNat s b ((getSeq s b).storeBase + entOffset (streamEntry s b (getSeq s b).storeBase k) +
      16 * (getStream s b k).next) 16) = w)
    (hform : slotForm w = 1 ∨ slotForm w = 2) (hop : legalOp k (slotForm w) (slotOp w) = true) :
    slotIssue s b k = modStream (advanceEdge s b (getStream s b k).nextAt) b k (fun y =>
      { y with word := w, idx := (getStream s b k).next, issued := (getStream s b k).nextAt,
               last := (getStream s b k).nextAt + slotHold w, next := (getStream s b k).next + 1,
               nextAt := (getStream s b k).nextAt + slotHold w + 1, fresh := true }) := by
  have hw' : BitVec.ofNat 128 (loftNat (advanceEdge s b (getStream s b k).nextAt) b ((getSeq s b).storeBase +
      entOffset (streamEntry s b (getSeq s b).storeBase k) + 16 * (getStream s b k).next) 16) = w := hw
  unfold slotIssue
  rw [if_neg (by simp [hmay])]
  dsimp only
  rw [if_neg (by omega), if_neg (by omega), hw', if_neg (by omega), if_neg (by omega), if_pos hop, decide_eq_true hform]

theorem ends_slotIssue {s : State} {b : BayNo} {k : StreamNo} {x : Stream} {e w : Slot} (hmay : mayIssue s.mach b k = true)
    (hx : getStream s.mach b k = x) (he : streamEntry s.mach b (getSeq s.mach b).storeBase k = e) (hnext : x.next < entLength e)
    (hbusy : x.busy ≤ x.last)
    (hw : BitVec.ofNat 128 (loftNat s.mach b ((getSeq s.mach b).storeBase + entOffset e + 16 * x.next) 16) = w)
    (hform : slotForm w = 1 ∨ slotForm w = 2) (hop : legalOp k (slotForm w) (slotOp w) = true) :
    Ends (.slotIssue b k) s (fun m => m.apart b = s.mach.apart b ∧ m.csr = s.mach.csr ∧ getStream m b k =
      { x with word := w, idx := x.next, issued := x.nextAt, last := x.nextAt + slotHold w, next := x.next + 1,
               nextAt := x.nextAt + slotHold w + 1, fresh := true }) := by
  subst hx he
  refine ⟨_, rfl, ?_⟩
  dsimp only
  rw [slotIssue_eq hmay hnext hbusy hw hform hop]
  refine ⟨?_, rfl, ?_⟩
  · rw [apart_modStream, apart_advanceEdge]
  · exact getStream_modStream _ b k _

/-- FETCH_STALL (R84). -/
theorem ends_fetchStall {s : State} {b : BayNo} {k : StreamNo} (hmay : mayIssue s.mach b k = true) :
    Ends (.fetchStall b k) s (fun m => m.apart b = s.mach.apart b ∧ (getStream m b k).hold = .fetch ∧
      rf m .SEQ_UNDERRUN b 0 63 0 = sat 64 (rf s.mach .SEQ_UNDERRUN b 0 63 0 + 1) ∧
      (∀ j : StreamNo, j ≠ k → getStream m b j = getStream s.mach b j)) := by
  have heq : fetchStall s.mach b k = modStream (bump (advanceEdge s.mach b (getStream s.mach b k).nextAt) .SEQ_UNDERRUN b 0 63 0 1) b k
      (fun y => { y with hold := .fetch, stallFrom := (getStream s.mach b k).nextAt }) := if_pos hmay
  refine ⟨_, rfl, ?_⟩
  dsimp only
  rw [heq]
  refine ⟨?_, ?_, ?_, fun j hj => ?_⟩
  · rw [apart_modStream, apart_bump, apart_advanceEdge]
  · rw [getStream_modStream]
  · exact rf_bump (advanceEdge s.mach b (getStream s.mach b k).nextAt) .SEQ_UNDERRUN b 0 63 0 1 (by decide) (by decide)
  · exact getStream_modStream_other _ b (fun h => hj (Fin.ext h)) _

/-- FETCH_ARRIVAL (R84). -/
theorem ends_fetchArrival {s : State} {b : BayNo} {k : StreamNo} (n : Nat) (hfetch : (getStream s.mach b k).hold = .fetch)
    (hrun : isHalted s.mach b = false) :
    Ends (.fetchArrival b k n) s (fun m => m.apart b = s.mach.apart b ∧ (getStream m b k).hold = .none ∧
      (getStream s.mach b k).stallFrom + n ≤ (getStream m b k).nextAt) := by
  refine ⟨_, rfl, ?_⟩
  dsimp only
  unfold fetchArrival
  dsimp only
  rw [if_pos ⟨hfetch, hrun⟩]
  refine ⟨?_, ?_, ?_⟩
  · rw [apart_releaseAt, apart_slip, apart_advanceEdge]
  · rw [getStream_releaseAt]
  · rw [getStream_releaseAt]
    exact le_runEdge _ _ _

/-- Settles O14. -/
theorem streamsIssueWords : Obligations.StreamsIssueWords := by
  refine ⟨fun _ _ _ _ _ _ hmay hx he hnext hbusy hw hform hop => ends_slotIssue hmay hx he hnext hbusy hw hform hop,
    fun _ _ _ hmay => ends_fetchStall hmay, fun _ _ _ n hfetch hrun => ends_fetchArrival n hfetch hrun, ?_⟩
  intro s b k hrun hidle hslice
  exact ⟨_, rfl, if_pos ⟨hrun, hidle, hslice⟩⟩

end Sys2Proof.Machine
end

section
/-! The operations of the SEQ stream (R76, R94 to R96), decisions on deadlines and settling (R119 to R121). -/

namespace Sys2Proof.Machine

/-! ### Stopping and redirecting the streams of a bay -/

theorem getStream_stopStreams (s : Mach) (b : Fin 72) (k : Fin 6) : getStream (stopStreams s b) b k =
    { getStream s b k with run := false, hold := .none, fresh := false } := by
  have hsync : getStream (syncCnt s b) b k = getStream s b k := stream_of_units (units_syncCnt s b) b k
  unfold stopStreams
  rw [← hsync]
  unfold getStream
  rw [getBay_modBay_fin]
  simp [vget]

theorem getSeq_stopStreams (s : Mach) (b : Fin 72) : getSeq (stopStreams s b) b = getSeq s b := by
  have hsync : getSeq (syncCnt s b) b = getSeq s b := seq_of_units (units_syncCnt s b) b
  unfold stopStreams
  rw [← hsync]
  unfold getSeq
  rw [getBay_modBay_fin]

@[simp] theorem apart_furrowErr (s : Mach) (b k c : Nat) : (furrowErr s b k c).apart b = s.apart b := by
  unfold furrowErr
  dsimp only
  split
  · rw [apart_modSeq, apart_stopStreams, apart_recordSeqErr]
  · rw [apart_recordSeqErr]

/-- A furrow error leaves the sections of a slice as they were. -/
theorem section_furrowErr (s : Mach) (b : Fin 72) (k c : Nat) : (getSeq (furrowErr s b k c) b).section_ = (getSeq s b).section_ ∧
    (getSeq (furrowErr s b k c) b).yielded = (getSeq s b).yielded := by
  have hrec : getSeq (recordSeqErr s b k c) b = getSeq s b := seq_of_units (units_recordSeqErr s b k c) b
  unfold furrowErr
  dsimp only
  split
  · rw [getSeq_modSeq_fin, getSeq_stopStreams, hrec]
    exact ⟨rfl, rfl⟩
  · rw [hrec]
    exact ⟨rfl, rfl⟩

theorem getSeq_foldS_modStream (l : List Nat) (b : Fin 72) (f : Nat → Stream → Stream) (s : Mach) :
    getSeq (foldS l (fun t k => modStream t b k (f k)) s) b = getSeq s b :=
  foldS_keeps (fun t => getSeq t b) l _ s fun t k => getSeq_modStream t b k _

theorem apart_foldS_modStream (l : List Nat) (b : Fin 72) (f : Nat → Stream → Stream) (s : Mach) :
    (foldS l (fun t k => modStream t b k (f k)) s).apart b = s.apart b :=
  foldS_keeps (Mach.apart · b) l _ s fun t k => apart_modStream t b k _

/-- Of a walk over streams, each stream named satisfies what every change of it brings about. -/
theorem stream_foldS_modStream {P : Stream → Prop} {b : Fin 72} {k : Fin 6} {f : Nat → Stream → Stream} (hf : ∀ x, P (f k x))
    (l : List Nat) (s : Mach) (h : k.val ∈ l ∨ P (getStream s b k)) :
    P (getStream (foldS l (fun t j => modStream t b j (f j)) s) b k) := by
  induction l generalizing s with
  | nil => simpa [foldS] using h
  | cons j l ih =>
    refine ih (modStream s b j (f j)) ?_
    by_cases hj : k.val = j
    · subst hj
      exact Or.inr (getStream_modStream s b k _ ▸ hf _)
    · rw [getStream_modStream_other s b hj]
      exact h.imp (fun hmem => (List.mem_cons.1 hmem).resolve_left hj) id

/-- Where no stream is caught in a word, every present stream redirects (R94). -/
theorem redirectAll_free {s : Mach} {b l : Nat} {target : Nat → Nat} {clear : Bool}
    (h : ∀ k ∈ storeStreams s b (getSeq s b).storeBase, k ≠ 0 → (getStream s b k).fresh = false ∧
      (getStream s b k).hold = .none ∧ slotForm (getStream s b k).word = 0) :
    redirectAll s b l target clear = foldS (storeStreams s b (getSeq s b).storeBase) (fun t k => modStream t b k (fun x =>
      { x with last := l, next := target k, nextAt := l + 1, loops := if clear then [0, 0, 0, 0] else x.loops })) s := by
  have hnone : (storeStreams s b (getSeq s b).storeBase).find? (fun k =>
      decide (k ≠ 0) && ((getStream s b k).fresh || decide ((getStream s b k).hold ≠ .none)
        || decide (slotForm (getStream s b k).word ≠ 0))) = none := by
    rw [List.find?_eq_none]
    intro k hk
    by_cases hz : k = 0
    · simp [hz]
    · obtain ⟨hfresh, hhold, hform⟩ := h k hk hz
      simp [hfresh, hhold, hform]
  unfold redirectAll
  dsimp only
  rw [hnone]

/-- Streams redirected or caught, what the sequencer holds of sections stays. -/
theorem section_redirectAll (s : Mach) (b : Fin 72) (l : Nat) (target : Nat → Nat) (clear : Bool) :
    (redirectAll s b l target clear).apart b = s.apart b ∧
    (getSeq (redirectAll s b l target clear) b).section_ = (getSeq s b).section_ ∧
    (getSeq (redirectAll s b l target clear) b).yielded = (getSeq s b).yielded := by
  unfold redirectAll
  dsimp only
  split
  · exact ⟨apart_furrowErr _ _ _ _, section_furrowErr _ b _ _⟩
  · rw [apart_foldS_modStream, getSeq_foldS_modStream]
    exact ⟨rfl, rfl, rfl⟩

/-! ### The SEQ stream -/

theorem ends_furrowEnd {s : State} {b : BayNo} (hop : opReady s.mach b 0 1 3 = true) (hbody : slotBody (getStream s.mach b 0).word = 0) :
    Ends (.furrowEnd b) s (fun m => m.apart b = s.mach.apart b ∧ (getSeq m b).st = .parked ∧ (getSeq m b).park = .byEnd ∧
      (∀ k : StreamNo, (getStream m b k).run = false ∧ (getStream m b k).idx = (getStream s.mach b k).idx)) := by
  refine ⟨_, rfl, ?_⟩
  dsimp only
  rw [onSlot_of_ready hop]
  unfold doEnd parkBay
  rw [if_pos hbody]
  refine ⟨?_, ?_, ?_, fun k => ?_⟩
  · rw [apart_modSeq, apart_stopStreams, apart_advanceEdge, apart_opDone]
  · rw [getSeq_modSeq_fin]
  · rw [getSeq_modSeq_fin]
  · rw [getStream_modSeq, getStream_stopStreams]
    refine ⟨rfl, ?_⟩
    exact idx_opDone s.mach b 0 k

theorem ends_yield {s : State} {b : BayNo} {p : Nat} {w : Slot} (hop : opReady s.mach b 0 1 2 = true)
    (hw : (getStream s.mach b 0).word = w) (hres : reservedClear w [(103, 72)] = true) (hfirst : (getSeq s.mach b).yielded = false)
    (hpid : bayPid s.mach b = some p)
    (hneed : ((getRota s.mach p).endFrame : Int) - countAt s.mach (edgeTick (clkOf s.mach b) (getStream s.mach b 0).issued) / 65536
      < fld w 103 88) :
    Ends (.yield b) s (fun m => m.apart b = s.mach.apart b ∧ (getSeq m b).section_ = fld w 87 72 ∧ (getSeq m b).yielded = true) := by
  subst hw
  have hseq : getSeq (opDone s.mach b 0) b = getSeq s.mach b := getSeq_modStream s.mach b 0 _
  have hissued : (getStream (opDone s.mach b 0) b 0).issued = (getStream s.mach b 0).issued := issued_opDone s.mach b 0 0
  have hpid' : bayPid (opDone s.mach b 0) b = some p := hpid
  refine ⟨_, rfl, ?_⟩
  dsimp only
  rw [onSlot_of_ready hop]
  unfold doYield
  rw [if_neg (by simp [hres])]
  dsimp only
  rw [hseq, if_neg (by simp [hfirst]), hpid', hissued]
  dsimp only
  split
  case isFalse hnot => exact absurd hneed hnot
  case isTrue =>
    refine ⟨(section_redirectAll _ b _ _ _).1.trans ?_, (section_redirectAll _ b _ _ _).2.1.trans ?_,
      (section_redirectAll _ b _ _ _).2.2.trans ?_⟩
    · rw [apart_modSeq, apart_advanceEdge, apart_opDone]
    · rw [getSeq_modSeq_fin]
    · rw [getSeq_modSeq_fin]

@[simp] theorem csr_emitTrace (s : Mach) (b k c u d : Nat) : (emitTrace s b k c u d).csr = s.csr := by
  unfold emitTrace; split <;> rfl

@[simp] theorem now_emitTrace (s : Mach) (b k c u d : Nat) : (emitTrace s b k c u d).now = s.now := by
  unfold emitTrace; split <;> rfl

@[simp] theorem csr_fireIf (s : Mach) (b src : Nat) (c : Sink → Bool) : (fireIf s b src c).csr = s.csr := by
  unfold fireIf
  split
  · rfl
  · exact ite_self s.csr ▸ apply_ite Mach.csr _ _ _

@[simp] theorem now_fireIf (s : Mach) (b src : Nat) (c : Sink → Bool) : (fireIf s b src c).now = s.now := by
  unfold fireIf
  split
  · rfl
  · exact ite_self s.now ▸ apply_ite Mach.now _ _ _

theorem rg_of_csr {s t : Mach} (h : s.csr = t.csr) (n : RegName) (u i : Nat) : rg s n u i = rg t n u i := by
  unfold rg csrAt; rw [h]

theorem ends_mark {s : State} {b : BayNo} {w : Slot} (hop : opReady s.mach b 0 1 4 = true) (hw : (getStream s.mach b 0).word = w)
    (hres : reservedClear w [(31, 0)] = true) :
    Ends (.mark b) s (fun m => m.apart b = s.mach.apart b ∧ m.now = s.mach.now ∧
      rg m .SEQ_MARK b 0 = packFlds [(63, 32, frameNo s.mach), (31, 0, fld w 31 0)]) := by
  subst hw
  refine ⟨_, rfl, ?_⟩
  dsimp only
  rw [onSlot_of_ready hop]
  unfold doMark
  dsimp only
  have hframe : frameNo (opDone s.mach b 0) = frameNo s.mach := rfl
  rw [if_neg (by simp [hres]), hframe]
  refine ⟨?_, ?_, ?_⟩
  · rw [apart_fireIf, apart_emitTrace, apart_wr, apart_opDone]
  · rw [now_fireIf, now_emitTrace, wr_now]
    rfl
  · rw [rg_of_csr (csr_fireIf _ _ _ _), rg_of_csr (csr_emitTrace _ _ _ _ _ _), rg_wr]

/-- What RESUME makes of a stream: its index in the section, the FCLK after the word of SEQ, and inactive loop counters. -/
def Stream.resumed (x : Stream) (l idx : Nat) : Stream := { x with last := l, next := idx, nextAt := l + 1, loops := [0, 0, 0, 0] }

theorem doResume_free {s : Mach} {b : Nat} {w : Slot} (hbody : slotBody w = 0)
    (hfree : ∀ k ∈ storeStreams s b (getSeq s b).storeBase, k ≠ 0 → (getStream s b k).fresh = false ∧
      (getStream s b k).hold = .none ∧ slotForm (getStream s b k).word = 0) :
    doResume b w s = foldS (storeStreams s b (getSeq s b).storeBase) (fun t k => modStream t b k (fun x =>
      x.resumed (getStream s b 0).last (sectionIdx s b (getSeq s b).storeBase (if (getSeq s b).resume then (getSeq s b).section_ else 0) k)))
      (advanceEdge s b (getStream s b 0).last) := by
  unfold doResume
  rw [if_pos hbody]
  dsimp only
  exact redirectAll_free (s := advanceEdge s b _) hfree

theorem ends_resume {s : State} {b : BayNo} (hop : opReady s.mach b 0 1 5 = true) (hbody : slotBody (getStream s.mach b 0).word = 0)
    (hfree : ∀ k ∈ storeStreams s.mach b (getSeq s.mach b).storeBase, k ≠ 0 → (getStream s.mach b k).fresh = false ∧
      (getStream s.mach b k).hold = .none ∧ slotForm (getStream s.mach b k).word = 0) :
    Ends (.resume b) s (fun m => m.apart b = s.mach.apart b ∧ (∀ k : StreamNo,
      k.val ∈ storeStreams s.mach b (getSeq s.mach b).storeBase →
      (getStream m b k).next = sectionIdx s.mach b (getSeq s.mach b).storeBase
        (if (getSeq s.mach b).resume then (getSeq s.mach b).section_ else 0) k ∧
      (getStream m b k).nextAt = (getStream s.mach b 0).last + 1 ∧ (getStream m b k).loops = [0, 0, 0, 0])) := by
  have hseq : getSeq (opDone s.mach b 0) b = getSeq s.mach b := getSeq_modStream s.mach b 0 _
  have hlast : (getStream (opDone s.mach b 0) b 0).last = (getStream s.mach b 0).last := last_opDone s.mach b 0 0
  have hstore : storeStreams (opDone s.mach b 0) b (getSeq s.mach b).storeBase = storeStreams s.mach b (getSeq s.mach b).storeBase := rfl
  have hfree' : ∀ k ∈ storeStreams (opDone s.mach b 0) b (getSeq (opDone s.mach b 0) b).storeBase, k ≠ 0 →
      (getStream (opDone s.mach b 0) b k).fresh = false ∧ (getStream (opDone s.mach b 0) b k).hold = .none ∧
        slotForm (getStream (opDone s.mach b 0) b k).word = 0 := by
    intro k hk hz
    have hsame : getStream (opDone s.mach b 0) b k = getStream s.mach b k := getStream_modStream_other s.mach b hz _
    rw [hseq, hstore] at hk
    rw [hsame]
    exact hfree k hk hz
  refine ⟨_, rfl, ?_⟩
  dsimp only
  rw [onSlot_of_ready hop, doResume_free hbody hfree', hseq, hlast, hstore]
  refine ⟨?_, fun k hk => ?_⟩
  · rw [apart_foldS_modStream, apart_advanceEdge, apart_opDone]
  · exact stream_foldS_modStream (P := fun x => x.next = sectionIdx s.mach b (getSeq s.mach b).storeBase
        (if (getSeq s.mach b).resume then (getSeq s.mach b).section_ else 0) k ∧
      x.nextAt = (getStream s.mach b 0).last + 1 ∧ x.loops = [0, 0, 0, 0]) (fun _ => ⟨rfl, rfl, rfl⟩) _ _ (Or.inl hk)

/-! ### Decisions and settling -/

theorem ends_dbr {s : State} {b : BayNo} {k : StreamNo} (hop : opReady s.mach b k 2 5 = true)
    (hn : fld (getStream s.mach b k).word 97 90 ≠ 0)
    (hres : reservedClear (getStream s.mach b k).word [(103, 101), (97, 56), (31, 0)] = true) :
    Ends (.dbr b k) s (fun m => m.apart b = s.mach.apart b ∧ (getStream m b k).hold = .dbr) := by
  refine ⟨_, rfl, ?_⟩
  dsimp only
  rw [onSlot_of_ready hop]
  unfold doDbr
  rw [if_neg (by simp [hres, hn])]
  refine ⟨?_, ?_⟩
  · rw [apart_holdStream, apart_advanceEdge, apart_opDone]
  · rw [getStream_holdStream]

/-- What a decision for the main path leaves of a channel (R119, R120): its latch, and the tokens that CONS has not consumed. -/
def Chan.decidedMain (c : Chan) (stamp n : Nat) (cons : Bool) : Chan :=
  { (if cons then c.consume n else c) with latch := some (stamp, false) }

theorem count_decidedMain (c : Chan) (stamp n : Nat) (cons : Bool) :
    (c.decidedMain stamp n cons).count = c.count - (if cons then n else 0) := by
  cases cons <;> rfl

/-- The channel's two stores of a decision for the main path. -/
def takeMain (s : Mach) (b ch stamp n : Nat) (cons : Bool) : Mach :=
  let s := modChan s b ch (fun c => { c with latch := some (stamp, false) })
  if cons then modChan s b ch (fun c => c.decide_ n false) else s

theorem getChan_takeMain (s : Mach) (b : Fin 72) (ch stamp n : Nat) (cons : Bool) :
    getChan (takeMain s b ch stamp n cons) b ch = (getChan s b ch).decidedMain stamp n cons := by
  unfold takeMain
  dsimp only
  split
  · next h => rw [getChan_modChan, getChan_modChan, h]; rfl
  · next h => rw [getChan_modChan, Bool.eq_false_iff.2 h]; rfl

theorem getStream_takeMain (s : Mach) (b : Fin 72) (ch stamp n k : Nat) (cons : Bool) :
    getStream (takeMain s b ch stamp n cons) b k = getStream s b k := by
  unfold takeMain
  dsimp only
  split
  · rw [getStream_modChan, getStream_modChan]
  · rw [getStream_modChan]

theorem apart_takeMain (s : Mach) (b ch stamp n : Nat) (cons : Bool) : (takeMain s b ch stamp n cons).apart b = s.apart b := by
  unfold takeMain
  dsimp only
  split
  · rw [apart_modChan, apart_modChan]
  · rw [apart_modChan]

/-- DBR_DECIDE on the main path: no decision latched, the tokens present, POISON not looked at. -/
theorem dbrDecide_main {s : Mach} {b : Fin 72} {k : Fin 6} {w : Slot} (hhold : (getStream s b k).hold = .dbr)
    (hrun : isHalted s b = false) (hw : (getStream s b k).word = w) (hlatch : (getChan s b (fld w 89 80)).latch = none)
    (hn : fld w 97 90 ≤ (getChan s b (fld w 89 80)).count) (hlate : bit w 102 = false) :
    ∃ (t : Mach) (m d : Nat), t.units = s.units ∧ dbrDecide s b k = releaseAt (emitTraceIf (takeMain t b (fld w 89 80)
      (deadline s b k (fld w 31 0) % 2 ^ 32) (fld w 97 90) (bit w 103)) b 59 5 1 k d) b k m := by
  unfold dbrDecide takeMain
  rw [if_neg (by simp [hhold, hrun])]
  dsimp only
  rw [hw, hlatch]
  simp only [hlate, hn, decide_true, Bool.false_and, Bool.not_false, Bool.and_true, Bool.not_true, Bool.false_eq_true, if_false]
  refine ⟨_, _, _, ?_, rfl⟩
  rw [units_lateArm, units_advanceEdge]

theorem ends_dbrDecide {s : State} {b : BayNo} {k : StreamNo} {w : Slot} (hhold : (getStream s.mach b k).hold = .dbr)
    (hrun : isHalted s.mach b = false) (hw : (getStream s.mach b k).word = w) (hlatch : (getChan s.mach b (fld w 89 80)).latch = none)
    (hn : fld w 97 90 ≤ (getChan s.mach b (fld w 89 80)).count) (hlate : bit w 102 = false) :
    Ends (.dbrDecide b k) s (fun m => m.apart b = s.mach.apart b ∧ (getStream m b k).hold = .none ∧
      (getStream m b k).next = (getStream s.mach b k).next ∧
      (getChan m b (fld w 89 80)).latch = some (deadline s.mach b k (fld w 31 0) % 2 ^ 32, false) ∧
      (getChan m b (fld w 89 80)).count =
        (getChan s.mach b (fld w 89 80)).count - (if bit w 103 then fld w 97 90 else 0)) := by
  obtain ⟨t, e, d, hunits, heq⟩ := dbrDecide_main hhold hrun hw hlatch hn hlate
  have hchan : getChan (dbrDecide s.mach b k) b (fld w 89 80) =
      (getChan s.mach b (fld w 89 80)).decidedMain (deadline s.mach b k (fld w 31 0) % 2 ^ 32) (fld w 97 90) (bit w 103) := by
    rw [heq, releaseAt, getChan_modStream, chan_of_units (units_emitTraceIf _ _ _ _ _ _ _), getChan_takeMain, chan_of_units hunits]
  refine ⟨_, rfl, ?_⟩
  dsimp only
  rw [hchan, count_decidedMain, heq]
  refine ⟨?_, ?_, ?_, rfl, rfl⟩
  · rw [apart_releaseAt, apart_emitTraceIf, apart_takeMain, apart_of_units hunits]
  · rw [getStream_releaseAt]
  · rw [getStream_releaseAt, stream_of_units (units_emitTraceIf _ _ _ _ _ _ _), getStream_takeMain, stream_of_units hunits]

theorem ends_settle {s : State} {b : BayNo} {k : StreamNo} (hop : opReady s.mach b k 2 6 = true)
    (hres : reservedClear (getStream s.mach b k).word [(103, 103), (89, 80)] = true) (hone : bit (getStream s.mach b k).word 103 = false) :
    Ends (.settle b k) s (fun m => m.apart b = s.mach.apart b ∧ (getStream m b k).hold = .settle) := by
  refine ⟨_, rfl, ?_⟩
  dsimp only
  rw [onSlot_of_ready hop]
  unfold doSettle
  rw [if_neg (by simp [hres, hone])]
  refine ⟨?_, ?_⟩
  · rw [apart_holdStream, apart_advanceEdge, apart_opDone]
  · rw [getStream_holdStream]

theorem ends_settleRelease {s : State} {b : BayNo} {k : StreamNo} (hhold : (getStream s.mach b k).hold = .settle)
    (hrun : isHalted s.mach b = false) (hone : bit (getStream s.mach b k).word 103 = false)
    (hdebt : (getChan s.mach b (fld (getStream s.mach b k).word 89 80)).debt = 0) :
    Ends (.settleRelease b k) s (fun m => m.apart b = s.mach.apart b ∧ (getStream m b k).hold = .none ∧
      (getStream s.mach b k).last + 1 ≤ (getStream m b k).nextAt) := by
  refine ⟨_, rfl, ?_⟩
  dsimp only
  unfold settleRelease
  dsimp only
  rw [hone, if_pos ⟨hhold, hrun, hdebt⟩]
  refine ⟨?_, ?_, ?_⟩
  · rw [apart_releaseAt, apart_slip, apart_advanceEdge]
  · rw [getStream_releaseAt]
  · rw [getStream_releaseAt]
    exact (Nat.le_max_left _ _).trans (le_runEdge _ _ _)

/-- Settles O15. -/
theorem sequencerOperates : Obligations.SequencerOperates :=
  ⟨fun _ _ hop hbody => ends_furrowEnd hop hbody,
   fun _ _ _ _ hop hw hres hfirst hpid hneed => ends_yield hop hw hres hfirst hpid hneed,
   fun _ _ _ hop hw hres => ends_mark hop hw hres,
   fun _ _ hop hbody hfree => ends_resume hop hbody hfree,
   fun _ _ _ hop hn hres => ends_dbr hop hn hres,
   fun _ _ _ _ hhold hrun hw hlatch hn hlate => ends_dbrDecide hhold hrun hw hlatch hn hlate,
   fun _ _ _ hop hres hone => ends_settle hop hres hone,
   fun _ _ _ hhold hrun hone hdebt => ends_settleRelease hhold hrun hone hdebt⟩

end Sys2Proof.Machine
end

section
/-! Tokens sent, delivered and dropped (R104 to R108, R114), and gear requests posted (R118, R502). -/

namespace Sys2Proof.Machine

/-! ### Sending -/

theorem destErr_none_of_local {s : Mach} {d : Nat} (hd : d ≠ tokNone) (hill : tokIllegal d = false)
    (hpres : bayPresent s (tokBay d) = true) : destErr s d = none := by
  unfold destErr tokAbsent
  rw [if_neg hd, if_neg (by simp [hill]), if_neg (by simp [hpres])]

theorem destErr_tokNone (s : Mach) : destErr s tokNone = none := if_pos rfl

theorem sendToken_tokNone (s : Mach) (b e n : Nat) (p : Bool) : sendToken s b e n p tokNone = s := if_pos rfl

/-- A token to a bay of the sender's partition is on its way, with its due tick (R107). -/
theorem sendToken_local {s : Mach} {b d : Nat} (e n : Nat) (p : Bool) (hd : d ≠ tokNone) (hloc : tokLocal s d = true)
    (hpid : bayPid s (tokBay d) = bayPid s b) : sendToken s b e n p d = { s with toks := s.toks ++
      [{ bay := tokBay d, ch := tokCh d, n := n, poison := p, due := tokenDue s b (tokBay d) e, tid := (getSeq s b).tid, port := none,
         cross := decide (dieOf b ≠ dieOf (tokBay d)) }] } := by
  unfold sendToken tokForeign
  rw [if_neg hd, if_pos hloc, if_neg (by simp [hpid])]

theorem ends_signal {s : State} {b : BayNo} {k : StreamNo} {w : Slot} {d : Nat} (hop : opReady s.mach b k 2 1 = true)
    (hw : (getStream s.mach b k).word = w) (hres : reservedClear w [(97, 90), (63, 32), (31, 0)] = true) (hn : fld w 97 90 ≠ 0)
    (hsecond : fld w 63 32 = tokNone) (hdest : fld w 31 0 = d) (hd : d ≠ tokNone) (hill : tokIllegal d = false)
    (hloc : tokLocal s.mach d = true) (hpres : bayPresent s.mach (tokBay d) = true)
    (hpid : bayPid s.mach (tokBay d) = bayPid s.mach b) :
    Ends (.signal b k) s (fun m => m.csr = s.mach.csr ∧ m.toks = s.mach.toks ++
      [{ bay := tokBay d, ch := tokCh d, n := fld w 97 90, poison := false,
         due := tokenDue s.mach b (tokBay d) (getStream s.mach b k).issued, tid := (getSeq s.mach b).tid, port := none,
         cross := decide (dieOf b ≠ dieOf (tokBay d)) }]) := by
  have hissued : (getStream (opDone s.mach b k) b k).issued = (getStream s.mach b k).issued := by rw [getStream_opDone]
  have hseq : getSeq (opDone s.mach b k) b = getSeq s.mach b := getSeq_modStream s.mach b k _
  have hnone : destErr (opDone s.mach b k) d = none := destErr_none_of_local hd hill hpres
  have hsend := sendToken_local (s := opDone s.mach b k) (getStream s.mach b k).issued (fld w 97 90) false hd hloc hpid
  refine ⟨_, rfl, ?_⟩
  dsimp only
  rw [onSlot_of_ready hop, hw]
  unfold doSignal
  dsimp only
  rw [if_neg (by simp [hres, hn]), hdest, hsecond, hnone, destErr_tokNone, hissued, sendToken_tokNone, hsend, hseq]
  exact ⟨rfl, rfl⟩

/-! ### Delivery -/

theorem toks_deliver (s : Mach) (b ch n : Nat) (p : Bool) : (deliver s b ch n p).toks = s.toks := by
  unfold deliver
  dsimp only
  split
  · rw [toks_of_units (units_tokErr _ _ _ _), toks_of_units (units_countEv _ _ _ _)]
    rfl
  · rw [toks_of_units (units_countEv _ _ _ _)]
    rfl

/-- A delivery that COUNT holds pays debt first, and adds the rest (R104). -/
theorem getChan_deliver {s : Mach} {b : Fin 72} {ch n : Nat} (p : Bool) (hfit : (getChan s b ch).count + n ≤ 255) :
    (getChan (deliver s b ch n p) b ch).debt = (getChan s b ch).debt - n ∧
    (getChan (deliver s b ch n p) b ch).count = (getChan s b ch).count + (n - (getChan s b ch).debt) := by
  have hover : (getChan s b ch).overflows n = false := by
    unfold Chan.overflows
    rw [decide_eq_false_iff_not]
    omega
  unfold deliver
  dsimp only
  rw [if_neg (by simp [hover]), chan_of_units (units_countEv _ _ _ _), getChan_modChan]
  unfold Chan.deliver
  dsimp only
  omega

/-- The edge at which a token in flight is delivered (R107, R110). -/
def arriveEdge (s : Mach) (late : Nat) (f : TokFlight) : Nat :=
  edgeAfter (clkOf s f.bay) (f.due + (if f.cross then late * Config.acyc else 0))

/-- The package in which a token in flight has arrived, its lateness counted. -/
def arriveToken (s : Mach) (i late : Nat) (f : TokFlight) : Mach :=
  let s' := advanceTo { s with toks := s.toks.eraseIdx i } (edgeTick (clkOf s f.bay) (arriveEdge s late f))
  if f.cross ∧ edgeAfter (clkOf s f.bay) f.due < arriveEdge s late f then bump s' .SEQ_DTOK_LATE (dieOf f.bay) 0 63 0 1 else s'

theorem units_arriveToken (s : Mach) (i late : Nat) (f : TokFlight) :
    (arriveToken s i late f).units = { s with toks := s.toks.eraseIdx i }.units := by
  unfold arriveToken
  dsimp only
  split
  · rw [units_bump, units_advanceTo]
  · rw [units_advanceTo]

theorem rf_tokstat_arriveToken (s : Mach) (i late : Nat) (f : TokFlight) :
    rf (arriveToken s i late f) .SEQ_TOKSTAT f.bay 0 31 0 = rf s .SEQ_TOKSTAT f.bay 0 31 0 := by
  have hapart : RegRef.addr ⟨.SEQ_TOKSTAT, f.bay, 0⟩ ≠ RegRef.addr ⟨.SEQ_DTOK_LATE, dieOf f.bay, 0⟩ := by
    simp only [RegRef.addr, RegName.info, Blk.base, dieBase]
    omega
  unfold arriveToken
  dsimp only
  split
  · exact rf_wf_apart hapart _ _ _ _ _ _
  · rfl

theorem sameParts_arriveToken (s : Mach) (i late : Nat) (f : TokFlight) : SameParts (arriveToken s i late f) s := by
  have hlate : 0x51000 ≤ RegRef.addr ⟨.SEQ_DTOK_LATE, dieOf f.bay, 0⟩ := by
    simp only [RegRef.addr, RegName.info, Blk.base]
    omega
  unfold arriveToken
  dsimp only
  split
  · exact sameParts_wr (Or.inr hlate) _ _
  · exact fun _ _ => ⟨rfl, rfl, rfl⟩

theorem tokAccepted_congr {s t : Mach} {b : Fin 72} (hseq : getSeq s b = getSeq t b) (hparts : SameParts s t) (tid port : Option Nat) :
    tokAccepted s b tid port = tokAccepted t b tid port := by
  have hport (p : Nat) : portPid s p = portPid t p := portPid_of_parts hparts p
  unfold tokAccepted
  simp only [hseq, hport, bayPid_of_parts hparts]

theorem tokenDelivery_eq {s : Mach} {i : Nat} {f : TokFlight} (late : Nat) (hf : s.toks[i]? = some f) (hb : f.bay < 72) :
    tokenDelivery s i late = if tokAccepted s f.bay f.tid f.port
      then deliver (arriveToken s i late f) f.bay f.ch f.n f.poison else tokenDrop (arriveToken s i late f) f.bay := by
  have hseq : getSeq (arriveToken s i late f) f.bay = getSeq s f.bay := seq_of_units (units_arriveToken s i late f) ⟨f.bay, hb⟩
  have hacc := tokAccepted_congr (b := ⟨f.bay, hb⟩) hseq (sameParts_arriveToken s i late f) f.tid f.port
  dsimp only at hacc
  rw [← hacc]
  unfold tokenDelivery
  rw [hf]
  rfl

theorem ends_tokenDelivery {s : State} {i : Nat} (late : Nat) {f : TokFlight} {c : Chan} (hf : s.mach.toks[i]? = some f)
    (hb : f.bay < 72) (hacc : tokAccepted s.mach f.bay f.tid f.port = true) (hc : getChan s.mach f.bay f.ch = c)
    (hfit : c.count + f.n ≤ 255) :
    Ends (.tokenDelivery i late) s (fun m => m.toks = s.mach.toks.eraseIdx i ∧
      (getChan m f.bay f.ch).debt = c.debt - f.n ∧ (getChan m f.bay f.ch).count = c.count + (f.n - c.debt)) := by
  subst hc
  have hunits := units_arriveToken s.mach i late f
  have hchan : getChan (arriveToken s.mach i late f) f.bay f.ch = getChan s.mach f.bay f.ch := chan_of_units hunits ⟨f.bay, hb⟩ f.ch
  refine ⟨_, rfl, ?_⟩
  dsimp only
  rw [tokenDelivery_eq late hf hb, if_pos hacc, toks_deliver, toks_of_units hunits, ← hchan]
  exact ⟨rfl, getChan_deliver (b := ⟨f.bay, hb⟩) f.poison (hchan ▸ hfit)⟩

theorem ends_tokenDelivery_dropped {s : State} {i : Nat} (late : Nat) {f : TokFlight} (hf : s.mach.toks[i]? = some f)
    (hb : f.bay < 72) (hacc : tokAccepted s.mach f.bay f.tid f.port = false) :
    Ends (.tokenDelivery i late) s (fun m => m.toks = s.mach.toks.eraseIdx i ∧ m.apart f.bay = { s.mach with toks := m.toks }.apart f.bay ∧
      rf m .SEQ_TOKSTAT f.bay 0 31 0 = sat 32 (rf s.mach .SEQ_TOKSTAT f.bay 0 31 0 + 1)) := by
  have hunits : (tokenDrop (arriveToken s.mach i late f) f.bay).units = { s.mach with toks := s.mach.toks.eraseIdx i }.units := by
    rw [units_tokenDrop, units_arriveToken]
  have htoks := toks_of_units hunits
  refine ⟨_, rfl, ?_⟩
  dsimp only
  rw [tokenDelivery_eq late hf hb, if_neg (by simp [hacc])]
  refine ⟨htoks, ?_, ?_⟩
  · rw [htoks]
    exact apart_of_units hunits f.bay
  · unfold tokenDrop
    rw [rf_bump _ _ _ _ _ _ _ (by decide) (by decide), rf_tokstat_arriveToken]

/-! ### Gear requests -/

/-- A request in time of a bay with none pending is posted (R118, R502). -/
theorem postGear_first {s : Mach} {r : GearReq} (hnone : ∀ x ∈ s.pwr.gearReqs, x.bay ≠ r.bay)
    (htime : r.posted + 61440 < r.bnd * 65536) :
    postGear s r = modPwr s (fun p => { p with gearReqs := p.gearReqs ++ [r] }) := by
  have hold : s.pwr.gearReqs.filter (fun x => decide (x.bay = r.bay) && !x.decided) = [] :=
    List.filter_eq_nil_iff.2 fun x hx => by simp [hnone x hx]
  have hkeep : s.pwr.gearReqs.filter (fun x => !(decide (x.bay = r.bay) && !x.decided)) = s.pwr.gearReqs :=
    List.filter_eq_self.2 fun x hx => by simp [hnone x hx]
  unfold postGear
  dsimp only
  rw [hold, if_neg (by omega)]
  unfold modPwr foldS
  dsimp only [List.foldl_nil]
  rw [hkeep]

theorem ends_gear {s : State} {b : BayNo} {k : StreamNo} {w : Slot} (hop : opReady s.mach b k 2 8 = true)
    (hw : (getStream s.mach b k).word = w) (hres : reservedClear w [(103, 98), (89, 80), (31, 0)] = true)
    (hlow : 4 ≤ fld w 103 99) (hhigh : fld w 103 99 ≤ 16) (hnone : ∀ x ∈ s.mach.pwr.gearReqs, x.bay ≠ b)
    (htime : count (advanceEdge s.mach b (getStream s.mach b k).last) + 61440 <
      ceilDiv (deadline s.mach b k (fld w 31 0)) 65536 * 65536) :
    Ends (.gear b k) s (fun m => m.csr = s.mach.csr ∧ m.toks = s.mach.toks ∧ m.bays = (opDone s.mach b k).bays ∧
      m.pwr.gearReqs = s.mach.pwr.gearReqs ++
        [{ bay := b, gear := fld w 103 99, bnd := ceilDiv (deadline s.mach b k (fld w 31 0)) 65536, posted := count m,
           gch := if bit w 98 then some (fld w 89 80) else none, decided := false }]) := by
  have hlast : (getStream (opDone s.mach b k) b k).last = (getStream s.mach b k).last := by rw [getStream_opDone]
  have hdead : deadline (advanceEdge (opDone s.mach b k) b (getStream s.mach b k).last) b k (fld w 31 0) =
      deadline s.mach b k (fld w 31 0) := by
    have htb : (getStream (advanceEdge (opDone s.mach b k) b (getStream s.mach b k).last) b k).tb = (getStream s.mach b k).tb :=
      tb_opDone s.mach b k k
    unfold deadline
    rw [htb]
  refine ⟨_, rfl, ?_⟩
  dsimp only
  rw [onSlot_of_ready hop, hw]
  unfold doGear
  dsimp only
  rw [if_neg (by simp [hres]; omega), hlast, hdead, postGear_first]
  · exact ⟨rfl, rfl, rfl, rfl⟩
  · exact hnone
  · exact htime

/-- Settles O17. -/
theorem tokensAndGears : Obligations.TokensAndGears :=
  ⟨fun _ _ _ _ _ hop hw hres hn hsecond hdest hd hill hloc hpres hpid =>
     ends_signal hop hw hres hn hsecond hdest hd hill hloc hpres hpid,
   fun _ _ late _ _ hf hb hacc hc hfit => ends_tokenDelivery late hf hb hacc hc hfit,
   fun _ _ late _ hf hb hacc => ends_tokenDelivery_dropped late hf hb hacc,
   fun _ _ _ _ hop hw hres hlow hhigh hnone htime => ends_gear hop hw hres hlow hhigh hnone htime⟩

end Sys2Proof.Machine
end

section
/-! Rendezvous (R122 to R125): a participant without addresses waits, a root without children combines at once, an arrival is held, a
release is taken, and a participant goes on or to ALT. -/

namespace Sys2Proof.Machine

theorem sendRdvAll_nil (s : Mach) (b e : Nat) (rel : Bool) (pay : RdvPay) (refused : List Nat) :
    sendRdvAll s b e rel pay refused [] = s := rfl

theorem dropHeld_none {s : Mach} {b ch : Nat} (h : (getChan s b ch).arr = 0) (group nchild : Nat) : dropHeld s b ch group nchild = s :=
  if_pos h

/-! ### A participant waits -/

/-- A record whose eight addresses are all none names no child. -/
theorem kids_none {r : Line} (h : ∀ i < 8, fld r (32 * i + 31) (32 * i) = tokNone) :
    ((List.range 8).map (fun i => fld r (32 * i + 31) (32 * i))).filter (fun a => decide (a ≠ tokNone)) = [] := by
  rw [List.filter_eq_nil_iff]
  intro a ha
  obtain ⟨i, hi, rfl⟩ := List.mem_map.1 ha
  simp [h i (List.mem_range.1 hi)]

theorem doRdv_alone {s : Mach} {b : Fin 72} {k : Fin 6} {w : Slot} {r : Line}
    (hres : reservedClear w [(103, 101), (97, 94), (89, 32), (31, 0)] = true) (h51 : bit w 51 = false) (hn : fld w 97 94 = 0)
    (h52 : fld w 55 52 = 0) (halt : bit w 101 = false → fld w 79 56 = 0) (hhold : (getStream s b k).hold = .none)
    (hchan : getChan s b (fld w 89 80) = Chan.zero) (hfence : fenceOk s b (fld w 50 32 * 64) 64 = true)
    (hr : rdvRecord s b (fld w 50 32 * 64) = r) (hkids : ∀ i < 8, fld r (32 * i + 31) (32 * i) = tokNone)
    (hup : fld r 511 480 = tokNone) (hloc : fld r 415 384 = tokNone) :
    ∃ p : RdvPend, (p.stream = k ∧ p.root = bit w 103 ∧ p.group = fld r 431 416 ∧ p.nchild = 0 ∧ p.combined = false) ∧
      doRdv b k w s = modChan (holdStream (advanceEdge s b (getStream s b k).last) b k .rdv) b (fld w 89 80)
        (fun c => { c with pend := some p }) := by
  have hhold' : (getStream (advanceEdge s b (getStream s b k).last) b k).hold = .none := hhold
  have hchan' : getChan (advanceEdge s b (getStream s b k).last) b (fld w 89 80) = Chan.zero := hchan
  have hfence' : fenceOk (advanceEdge s b (getStream s b k).last) b (fld w 50 32 * 64) 64 = true := hfence
  have hr' : rdvRecord (advanceEdge s b (getStream s b k).last) b (fld w 50 32 * 64) = r := hr
  have hnames : List.findSome? (destErr (advanceEdge s b (getStream s b k).last)) [tokNone, tokNone] = none := by
    simp [destErr_tokNone]
  have hforeign : [tokNone, tokNone].filter (fun a => decide (a ≠ tokNone) &&
      tokForeign (advanceEdge s b (getStream s b k).last) b a) = [] := by simp
  unfold doRdv
  dsimp only
  rw [if_neg (by simp [hres, h51, hn, h52]; exact halt), hchan', if_neg (by decide), if_neg (by simp [hfence']), hr', kids_none hkids,
    if_neg (by simp [hn]), hup, hloc, hnames]
  dsimp only
  rw [hforeign, hhold, if_neg (by decide)]
  simp only [List.head?_nil, dropHeld_none (congrArg Chan.arr hchan')]
  exact ⟨_, ⟨rfl, rfl, rfl, hn, rfl⟩, rfl⟩

theorem ends_rdv {s : State} {b : BayNo} {k : StreamNo} {w : Slot} {r : Line} (hop : opReady s.mach b k 2 7 = true)
    (hw : (getStream s.mach b k).word = w) (hres : reservedClear w [(103, 101), (97, 94), (89, 32), (31, 0)] = true)
    (h51 : bit w 51 = false) (hn : fld w 97 94 = 0) (h52 : fld w 55 52 = 0) (halt : bit w 101 = false → fld w 79 56 = 0)
    (hhold : (getStream s.mach b k).hold = .none) (hchan : getChan s.mach b (fld w 89 80) = Chan.zero)
    (hfence : fenceOk s.mach b (fld w 50 32 * 64) 64 = true) (hr : rdvRecord s.mach b (fld w 50 32 * 64) = r)
    (hkids : ∀ i < 8, fld r (32 * i + 31) (32 * i) = tokNone) (hup : fld r 511 480 = tokNone) (hloc : fld r 415 384 = tokNone) :
    Ends (.rdv b k) s (fun m => m.apart b = s.mach.apart b ∧ (getStream m b k).hold = .rdv ∧
      ∃ p, (getChan m b (fld w 89 80)).pend = some p ∧ p.stream = k ∧ p.root = bit w 103 ∧ p.group = fld r 431 416 ∧
        p.nchild = 0 ∧ p.combined = false) := by
  have hhold' : (getStream (opDone s.mach b k) b k).hold = .none := by rw [getStream_opDone, hhold]
  have hchan' : getChan (opDone s.mach b k) b (fld w 89 80) = Chan.zero := (getChan_modStream _ _ _ _ _).trans hchan
  have hfence' : fenceOk (opDone s.mach b k) b (fld w 50 32 * 64) 64 = true := by
    have hseq : getSeq (opDone s.mach b k) b = getSeq s.mach b := getSeq_modStream _ _ _ _
    have hstore : storeSize (opDone s.mach b k) b = storeSize s.mach b := by unfold storeSize; rw [hseq]; rfl
    have hplan : plannedSize (opDone s.mach b k) b = plannedSize s.mach b := rfl
    unfold fenceOk at hfence ⊢
    rw [hseq, hstore, hplan]
    exact hfence
  obtain ⟨p, hp, heq⟩ := doRdv_alone hres h51 hn h52 halt hhold' hchan' hfence' hr hkids hup hloc
  refine ⟨_, rfl, ?_⟩
  dsimp only
  rw [onSlot_of_ready hop, hw, heq]
  refine ⟨?_, ?_, p, ?_, hp⟩
  · rw [apart_modChan, apart_holdStream, apart_advanceEdge, apart_opDone]
  · rw [getStream_modChan, getStream_holdStream]
  · rw [getChan_modChan]

/-! ### Combining, arrivals and releases -/

theorem ends_rdvCombine {s : State} {b : BayNo} {ch : Fin 1024} {r : RdvPend} (hpend : (getChan s.mach b ch).pend = some r)
    (hcomb : r.combined = false) (hn : r.nchild = 0) (hroot : r.root = true) (hstay : r.abandoned = false) (hkids : r.children = []) :
    Ends (.rdvCombine b ch) s (fun m => m.apart b = s.mach.apart b ∧ ∃ pay t, (getChan m b ch).rel = some (pay, t) ∧
      pay.group = r.group ∧ pay.crit = tokAddr b ch ∧ t = r.atL) := by
  refine ⟨_, rfl, ?_⟩
  dsimp only
  unfold rdvCombine
  dsimp only
  rw [hpend]
  dsimp only
  rw [if_neg (by simp [hcomb, hn]), if_pos hn, if_pos (Or.inl hn), if_pos hroot, hkids, sendRdvAll_nil, if_neg (by simp [hstay]),
    if_neg (by simp [hstay])]
  refine ⟨?_, _, _, congrArg Chan.rel (getChan_modChan _ _ _ _), rfl, rfl, rfl⟩
  rw [apart_modChan, apart_modChan, apart_slip, apart_advanceTo]

theorem ends_rdvArr {s : State} {i : Nat} {f : RdvFlight} (hf : s.mach.rdvs[i]? = some f) (hrel : f.rel = false) (hb : f.bay < 72)
    (hacc : tokAccepted s.mach f.bay f.tid f.port = true) (hmatch : arrMismatch (getChan s.mach f.bay f.ch) f.pay.group = false) :
    Ends (.rdvArr i) s (fun m => m.rdvs = s.mach.rdvs.eraseIdx i ∧ m.csr = s.mach.csr ∧
      (getChan m f.bay f.ch).arr = (getChan s.mach f.bay f.ch).arr + 1 ∧ (getChan m f.bay f.ch).arrGroup = f.pay.group) := by
  have hacc' : tokAccepted (takeRdv s.mach i f) f.bay f.tid f.port = true := hacc
  have hmatch' : arrMismatch (getChan (takeRdv s.mach i f) f.bay f.ch) f.pay.group = false := hmatch
  have hchan : getChan (takeRdv s.mach i f) f.bay f.ch = getChan s.mach f.bay f.ch := rfl
  have hput (g : Chan → Chan) : getChan (modChan (takeRdv s.mach i f) f.bay f.ch g) f.bay f.ch = g (getChan s.mach f.bay f.ch) :=
    hchan ▸ getChan_modChan (takeRdv s.mach i f) ⟨f.bay, hb⟩ f.ch g
  refine ⟨_, rfl, ?_⟩
  dsimp only
  unfold rdvArr
  rw [hf]
  dsimp only
  rw [if_neg (by simp [hrel]), if_neg (by simp [hacc']), if_neg (by simp [hmatch']), hput]
  exact ⟨rfl, rfl, rfl, rfl⟩

theorem ends_rdvRel {s : State} {i : Nat} {f : RdvFlight} {r : RdvPend} (hf : s.mach.rdvs[i]? = some f) (hrel : f.rel = true)
    (hb : f.bay < 72) (hacc : tokAccepted s.mach f.bay f.tid f.port = true) (hpend : (getChan s.mach f.bay f.ch).pend = some r)
    (hgroup : f.pay.group = r.group) (hstay : r.abandoned = false) (hkids : r.children = []) :
    Ends (.rdvRel i) s (fun m => m.rdvs = s.mach.rdvs.eraseIdx i ∧ (getChan m f.bay f.ch).rel = some (f.pay, m.now)) := by
  have hacc' : tokAccepted (takeRdv s.mach i f) f.bay f.tid f.port = true := hacc
  have hpend' : (getChan (takeRdv s.mach i f) f.bay f.ch).pend = some r := hpend
  refine ⟨_, rfl, ?_⟩
  dsimp only
  unfold rdvRel
  rw [hf]
  dsimp only
  rw [if_neg (by simp [hrel]), if_neg (by simp [hacc']), hpend']
  dsimp only
  rw [if_neg (by simp [hgroup]), hkids, sendRdvAll_nil, if_neg (by simp [hstay])]
  refine ⟨rfl, ?_⟩
  have hput := getChan_modChan (takeRdv s.mach i f) ⟨f.bay, hb⟩ f.ch (fun c => { c with rel := some (f.pay, (takeRdv s.mach i f).now) })
  exact congrArg Chan.rel hput

/-! ### The participant goes on -/

/-- A token to no address is none, whether refused or not. -/
theorem refused_or_tokNone (s : Mach) (b e n : Nat) (p : Bool) (l : List Nat) :
    (if l.contains tokNone then s else sendToken s b e n p tokNone) = s := by
  rw [sendToken_tokNone, ite_self]

theorem toks_releaseAt (s : Mach) (b k m : Nat) : (releaseAt s b k m).toks = s.toks := rfl
theorem toks_modChan (s : Mach) (b c : Nat) (f : Chan → Chan) : (modChan s b c f).toks = s.toks := rfl
theorem toks_modPwr (s : Mach) (f : Pwr → Pwr) : (modPwr s f).toks = s.toks := rfl

theorem ends_rdvProceed {s : State} {b : BayNo} {ch : Fin 1024} {r : RdvPend} {pay : RdvPay} {t : Nat}
    (hpend : (getChan s.mach b ch).pend = some r) (hrel : (getChan s.mach b ch).rel = some (pay, t)) (hstay : r.abandoned = false)
    (hrun : isHalted s.mach b = false) (hloc : r.loc = tokNone) (hbase : r.rebase = false) (hstr : r.stream < 6) :
    Ends (.rdvProceed b ch) s (fun m => m.toks = s.mach.toks ∧ (getChan m b ch).pend = none ∧ (getChan m b ch).rel = none ∧
      (getStream m b r.stream).hold = .none) := by
  refine ⟨_, rfl, ?_⟩
  dsimp only
  unfold rdvProceed
  dsimp only
  rw [hpend, hrel]
  dsimp only
  rw [if_neg (by simp [hstay, hrun]), hloc, refused_or_tokNone, if_neg (by simp [hbase])]
  refine ⟨?_, ?_, ?_, ?_⟩
  · rw [toks_releaseAt, toks_modChan, toks_modPwr, toks_of_units (units_emitTraceIf _ _ _ _ _ _ _), wr_toks, wr_toks,
      toks_of_units (units_slip _ _ _ _ _), toks_of_units (units_slip _ _ _ _ _), toks_of_units (units_advanceEdge _ _ _)]
  · rw [releaseAt, getChan_modStream, getChan_modChan]
  · rw [releaseAt, getChan_modStream, getChan_modChan]
  · exact congrArg Stream.hold (getStream_releaseAt _ b ⟨r.stream, hstr⟩ _)

theorem ends_rdvAbandon {s : State} {b : BayNo} {ch : Fin 1024} {r : RdvPend} (hpend : (getChan s.mach b ch).pend = some r)
    (hlim : r.limited = true) (hstay : r.abandoned = false) (hrel : (getChan s.mach b ch).rel = none)
    (hrun : isHalted s.mach b = false) (hstr : r.stream < 6) :
    Ends (.rdvAbandon b ch) s (fun m => m.apart b = s.mach.apart b ∧ (getStream m b r.stream).next = r.alt ∧
      (getStream m b r.stream).hold = .none ∧ (getChan m b ch).pend = some { r with abandoned := true }) := by
  refine ⟨_, rfl, ?_⟩
  dsimp only
  unfold rdvAbandon
  dsimp only
  rw [hpend]
  dsimp only
  rw [if_neg (by simp [hlim, hstay, hrel, hrun])]
  have hrelease (u : Mach) (m : Nat) : getStream (releaseAt (redirect u b r.stream r.alt) b r.stream m) b r.stream =
      { getStream u b r.stream with next := r.alt, hold := .none, nextAt := m } := by
    have h := getStream_releaseAt (redirect u b r.stream r.alt) b ⟨r.stream, hstr⟩ m
    have h' := getStream_redirect u b ⟨r.stream, hstr⟩ r.alt
    dsimp only at h h'
    rw [h, h']
  rw [hrelease]
  refine ⟨?_, rfl, rfl, ?_⟩
  · rw [apart_releaseAt, apart_redirect, apart_modChan, apart_wr, apart_slip, apart_advanceEdge]
  · rw [releaseAt, getChan_modStream, redirect, getChan_modStream, getChan_modChan]

/-- Settles O18. -/
theorem rendezvousRun : Obligations.RendezvousRun :=
  ⟨fun _ _ _ _ _ hop hw hres h51 hn h52 halt hhold hchan hfence hr hkids hup hloc =>
     ends_rdv hop hw hres h51 hn h52 halt hhold hchan hfence hr hkids hup hloc,
   fun _ _ _ _ hpend hcomb hn hroot hstay hkids => ends_rdvCombine hpend hcomb hn hroot hstay hkids,
   fun _ _ _ hf hrel hb hacc hmatch => ends_rdvArr hf hrel hb hacc hmatch,
   fun _ _ _ _ hf hrel hb hacc hpend hgroup hstay hkids => ends_rdvRel hf hrel hb hacc hpend hgroup hstay hkids,
   fun _ _ _ _ _ _ hpend hrel hstay hrun hloc hbase hstr => ends_rdvProceed hpend hrel hstay hrun hloc hbase hstr,
   fun _ _ _ _ hpend hlim hstay hrel hrun hstr => ends_rdvAbandon hpend hlim hstay hrel hrun hstr⟩

end Sys2Proof.Machine
end

section
/-! What the operations on bays and lofts leave of the rest of the package: a part that recording does not touch and that lies
outside the bays, the lofts, the ports and the tokens in flight. -/

namespace Sys2Proof.Machine

/-- A part of the package that loft reads of moves leave: outside the movers, and outside all that recording changes. -/
structure OffMov {β : Type} (g : Mach → β) : Prop where
  of_units : ∀ {s t : Mach}, s.units = t.units → g s = g t
  modMov : ∀ (s : Mach) (b : Nat) (f : Mov → Mov), g (modMov s b f) = g s

theorem getMxa_modBay (s : Mach) (b : Fin 72) (c : Nat) (f : Bay → Bay) (hf : ∀ x, (f x).mxa = x.mxa) :
    getMxa (modBay s c f) b = getMxa s b := by
  unfold getMxa
  rw [getBay_modBay]
  split
  case isTrue hc => rw [hf, hc.1]
  case isFalse => rfl

theorem mxa_of_units {s t : Mach} (h : s.units = t.units) (b : Fin 72) : getMxa s b = getMxa t b := by
  have e := congrArg (fun x => (getBay x b).mxa) h
  simpa [getBay_units, getMxa] using e

theorem offMov_getMxa (b : Fin 72) : OffMov (getMxa · b) :=
  ⟨fun h => mxa_of_units h b, fun s c _ => getMxa_modBay s b c _ fun _ => rfl⟩

namespace OffMov

variable {β : Type} {g : Mach → β} (h : OffMov g)
include h

theorem modMove (s : Mach) (b i : Nat) (f : Move → Move) : g (modMove s b i f) = g s := h.modMov s b _
theorem countLoftRead (s : Mach) (b n : Nat) : g (countLoftRead s b n) = g s :=
  h.of_units (by unfold Machine.countLoftRead; rw [units_bumpAo, units_countEv])
theorem countLoftWrite (s : Mach) (b n : Nat) : g (countLoftWrite s b n) = g s :=
  h.of_units (by unfold Machine.countLoftWrite; rw [units_bumpAo, units_countEv])


theorem lftErr (s : Mach) (b c o t : Nat) (r : Bool) : g (lftErr s b c o t r) = g s := by
  refine h.of_units ?_
  unfold Machine.lftErr
  simp only [apply_ite Mach.units, units_raiseBay, units_bump, units_recordFirst, ite_self]

theorem movErr (s : Mach) (b : Nat) (m : Move) (c : Nat) : g (movErr s b m c) = g s := by
  unfold Machine.movErr
  dsimp only
  rw [h.of_units (units_raiseBay _ _ _), h.modMove, apply_ite g, h.of_units (units_wr _ _ _ _ _), ite_self,
    h.of_units (units_recordFirst _ _ _ _ _)]

theorem cutMove (s : Mach) (b : Nat) (m : Move) : g (cutMove s b m) = g s := by
  unfold Machine.cutMove
  split
  · rfl
  · rw [h.movErr, h.modMove, h.of_units (units_bump _ _ _ _ _ _ _)]

theorem readLoftBeat (s : Mach) (b : Nat) (m : Move) (k : Nat) : g (readLoftBeat s b m k) = g s := by
  unfold Machine.readLoftBeat
  split
  · rfl
  · dsimp only
    split
    · rw [h.modMove, h.of_units (units_countEv _ _ _ _), h.countLoftRead]
    · split
      · rw [h.cutMove, h.modMove, h.of_units (units_countEv _ _ _ _), h.countLoftRead]
      · rw [h.movErr, h.lftErr, h.modMove, h.of_units (units_countEv _ _ _ _), h.countLoftRead]

theorem catchUp (s : Mach) (b : Nat) : g (catchUp s b) = g s := by
  unfold Machine.catchUp
  refine foldS_keeps g _ _ _ fun t m => ?_
  split
  · refine foldS_keeps g _ _ _ fun u k => ?_
    split
    · exact h.readLoftBeat u b _ k
    · rfl
  · rfl

end OffMov

/-- A record of class VRELREK draws a free value and records. -/
theorem vkRecord_keeps {β : Type} {g : Mach → β} (hu : ∀ {s t : Mach}, s.units = t.units → g s = g t)
    (hf : ∀ (s : Mach) (x : Nat), g { s with freeCtr := x } = g s) (s : Mach) (p : Option Nat) (n : Nat) :
    g (vkRecord s p n) = g s := by
  unfold vkRecord drawWord
  dsimp only
  rw [hu (units_raise _ _), hf]

/-- A part of the package that the matrix array and the writes of lofts leave: outside the array, the movers, the semaphores and
the flags of bays, the lofts, the ports and the tokens in flight, and outside all that recording and free values change. -/
structure OffArray {β : Type} (g : Mach → β) : Prop extends OffMov g where
  freeCtr : ∀ (s : Mach) (x : Nat), g { s with freeCtr := x } = g s
  loft : ∀ (s : Mach) (x : SMap Byte), g { s with loft := x } = g s
  loftPois : ∀ (s : Mach) (x : SMap Bool), g { s with loftPois := x } = g s
  modPort : ∀ (s : Mach) (p : Nat) (f : Port → Port), g (modPort s p f) = g s
  toks : ∀ (s : Mach) (x : List TokFlight), g { s with toks := x } = g s
  modMxa : ∀ (s : Mach) (b : Nat) (f : Mxa → Mxa), g (modMxa s b f) = g s
  modSem : ∀ (s : Mach) (b : Nat) (f : Sem → Sem), g (modSem s b f) = g s
  orTflags : ∀ (s : Mach) (b t f : Nat), g (orTflags s b t f) = g s

namespace OffArray

variable {β : Type} {g : Mach → β} (h : OffArray g)
include h

theorem sendExpress (s : Mach) (d t n : Nat) (e : Express) : g (sendExpress s d t n e) = g s := by
  unfold Machine.sendExpress
  split
  · exact vkRecord_keeps h.of_units h.freeCtr s none n
  · exact h.modPort s _ _

theorem sendToken (s : Mach) (b e n : Nat) (p : Bool) (a : Nat) : g (sendToken s b e n p a) = g s := by
  unfold Machine.sendToken
  split
  · rfl
  · split
    · split
      · exact h.of_units (units_tokErr s b 3 a)
      · exact h.toks s _
    · exact h.sendExpress s _ _ _ _

theorem loftPut (s : Mach) (b o : Nat) (bs : List Byte) (m p : Nat) : g (loftPut s b o bs m p) = g s := by
  unfold Machine.loftPut
  dsimp only
  rw [foldS_keeps g _ _ _ fun t x => by split; exacts [rfl, h.loftPois t _], h.loft, apply_ite g, h.toOffMov.catchUp, ite_self]

theorem loftWrite (s : Mach) (b o : Nat) (bs : List Byte) (p : Bool) : g (loftWrite s b o bs p) = g s := h.loftPut s b o bs _ _

theorem drainPut (s : Mach) (b : Nat) (ws : List (Nat × List Byte × Bool)) (n : Nat) : g (drainPut s b ws n) = g s := by
  unfold Machine.drainPut
  exact (foldS_keeps g _ _ _ fun t (w : Nat × List Byte × Bool) => h.loftWrite t b w.1 w.2.1 w.2.2).trans (h.toOffMov.countLoftWrite s b _)

theorem finishDrain (s : Mach) (b : Nat) (d : Drain) : g (finishDrain s b d) = g s := by
  have hput (t : Mach) (w : Word) (ws : List (Nat × List Byte × Bool)) (n : Nat) (f : Mxa → Mxa) :
      g (Machine.modMxa (bump (wr (Machine.drainPut t b ws n) .MXA_LASTFLAGS b 0 w) .MXA_PASSES b 0 63 0 1) b f) = g t := by
    rw [h.modMxa, h.of_units (units_bump _ _ _ _ _ _ _), h.of_units (units_wr _ _ _ _ _), h.drainPut]
  have hadv : g (advanceEdge s b d.fin) = g s := h.of_units (units_advanceEdge _ _ _)
  unfold Machine.finishDrain
  dsimp only
  generalize (getSeq _ b).tid = o
  cases o with
  | none =>
    split
    · exact (hput _ _ _ _ _).trans hadv
    · split
      · exact (h.sendToken _ b _ _ _ _).trans ((hput _ _ _ _ _).trans hadv)
      · exact (hput _ _ _ _ _).trans hadv
      · exact (h.modSem _ b (fun y => { y with dones := y.dones ++ [_] })).trans ((hput _ _ _ _ _).trans hadv)
  | some i =>
    have hflags (t : Mach) (w : Word) (ws : List (Nat × List Byte × Bool)) (n : Nat) (f : Mxa → Mxa) (x : Nat) :
        g (Machine.orTflags (Machine.modMxa (bump (wr (Machine.drainPut t b ws n) .MXA_LASTFLAGS b 0 w) .MXA_PASSES b 0 63 0 1) b f)
          b i x) = g t := (h.orTflags _ b i x).trans (hput t w ws n f)
    dsimp only
    split
    · exact (hflags _ _ _ _ _ _).trans hadv
    · split
      · exact (h.sendToken _ b _ _ _ _).trans ((hflags _ _ _ _ _ _).trans hadv)
      · exact (hflags _ _ _ _ _ _).trans hadv
      · exact (h.modSem _ b (fun y => { y with dones := y.dones ++ [_] })).trans ((hflags _ _ _ _ _ _).trans hadv)

theorem cutDrain (s : Mach) (b e : Nat) (d : Drain) : g (cutDrain s b e d) = g s := h.drainPut s b _ _

theorem flushDrains (s : Mach) (b e : Nat) : g (flushDrains s b e) = g s := foldS_keeps g _ _ _ fun t d => h.finishDrain t b d

end OffArray

/-- A part of the package outside all bays, and outside all that recording and the drawing of free values change. -/
structure OffBay {β : Type} (g : Mach → β) : Prop where
  of_units : ∀ {s t : Mach}, s.units = t.units → g s = g t
  modBay : ∀ (s : Mach) (b : Nat) (f : Bay → Bay), g (modBay s b f) = g s
  freeCtr : ∀ (s : Mach) (x : Nat), g { s with freeCtr := x } = g s
  macs : ∀ (s : Mach) (x : SMap Nat), g { s with macs := x } = g s

/-- The same, and outside the lofts, the ports and the tokens in flight. -/
structure Outer {β : Type} (g : Mach → β) : Prop extends OffBay g where
  loft : ∀ (s : Mach) (x : SMap Byte), g { s with loft := x } = g s
  loftPois : ∀ (s : Mach) (x : SMap Bool), g { s with loftPois := x } = g s
  modPort : ∀ (s : Mach) (p : Nat) (f : Port → Port), g (modPort s p f) = g s
  toks : ∀ (s : Mach) (x : List TokFlight), g { s with toks := x } = g s

theorem offBay_loft : OffBay Mach.loft := ⟨loft_of_units, fun _ _ _ => rfl, fun _ _ => rfl, fun _ _ => rfl⟩
theorem offBay_toks : OffBay Mach.toks := ⟨toks_of_units, fun _ _ _ => rfl, fun _ _ => rfl, fun _ _ => rfl⟩
theorem outer_mem : Outer Mach.mem :=
  ⟨⟨mem_of_units, fun _ _ _ => rfl, fun _ _ => rfl, fun _ _ => rfl⟩, fun _ _ => rfl, fun _ _ => rfl, fun _ _ _ => rfl, fun _ _ => rfl⟩
theorem outer_getRota (p : Nat) : Outer (getRota · p) :=
  ⟨⟨fun h => congrArg (vget Rota.zero · p) (rota_of_units h), fun _ _ _ => rfl, fun _ _ => rfl, fun _ _ => rfl⟩, fun _ _ => rfl,
    fun _ _ => rfl, fun _ _ _ => rfl, fun _ _ => rfl⟩

namespace OffBay

variable {β : Type} {g : Mach → β} (h : OffBay g)
include h

theorem modSeq (s : Mach) (b : Nat) (f : Seq → Seq) : g (modSeq s b f) = g s := h.modBay s b _
theorem modStream (s : Mach) (b k : Nat) (f : Stream → Stream) : g (modStream s b k f) = g s := h.modBay s b _
theorem modMxa (s : Mach) (b : Nat) (f : Mxa → Mxa) : g (modMxa s b f) = g s := h.modBay s b _
theorem modVxe (s : Mach) (b : Nat) (f : Vxe → Vxe) : g (modVxe s b f) = g s := h.modBay s b _
theorem orTflags (s : Mach) (b t f : Nat) : g (orTflags s b t f) = g s := h.modBay s b _

theorem stopStreams (s : Mach) (b : Nat) : g (stopStreams s b) = g s := by
  unfold Machine.stopStreams
  rw [h.modBay, h.of_units (units_syncCnt s b)]

theorem vkRecord (s : Mach) (p : Option Nat) (n : Nat) : g (vkRecord s p n) = g s := vkRecord_keeps h.of_units h.freeCtr s p n

theorem loftUse (s : Mach) (b : Nat) (u : LoftUse) : g (loftUse s b u) = g s := by
  unfold Machine.loftUse
  split
  · rfl
  · exact h.modBay s b _

theorem goIdle (s : Mach) (b : Nat) : g (goIdle s b) = g s := h.modSeq s b _

theorem offMov : OffMov g := ⟨h.of_units, fun s b _ => h.modBay s b _⟩
theorem countLoftRead (s : Mach) (b n : Nat) : g (countLoftRead s b n) = g s := h.offMov.countLoftRead s b n
theorem countLoftWrite (s : Mach) (b n : Nat) : g (countLoftWrite s b n) = g s := h.offMov.countLoftWrite s b n
theorem catchUp (s : Mach) (b : Nat) : g (catchUp s b) = g s := h.offMov.catchUp s b

theorem vRaise (s : Mach) (b w l f : Nat) : g (vRaise s b w l f) = g s := by
  unfold Machine.vRaise
  split
  · rfl
  · dsimp only
    split
    · rw [h.orTflags, h.of_units (units_wf _ _ _ _ _ _ _), h.modVxe]
    · rw [h.of_units (units_wf _ _ _ _ _ _ _), h.modVxe]

end OffBay

namespace Outer

variable {β : Type} {g : Mach → β} (h : Outer g)
include h

theorem offArray : OffArray g :=
  ⟨⟨h.of_units, fun s b _ => h.modBay s b _⟩, h.freeCtr, h.loft, h.loftPois, h.modPort, h.toks, fun s b _ => h.modBay s b _,
    fun s b _ => h.modBay s b _, fun s b _ _ => h.modBay s b _⟩

theorem sendExpress (s : Mach) (d t n : Nat) (e : Express) : g (sendExpress s d t n e) = g s := h.offArray.sendExpress s d t n e
theorem sendToken (s : Mach) (b e n : Nat) (p : Bool) (a : Nat) : g (sendToken s b e n p a) = g s := h.offArray.sendToken s b e n p a
theorem loftPut (s : Mach) (b o : Nat) (bs : List Byte) (m p : Nat) : g (loftPut s b o bs m p) = g s := h.offArray.loftPut s b o bs m p
theorem loftWrite (s : Mach) (b o : Nat) (bs : List Byte) (p : Bool) : g (loftWrite s b o bs p) = g s := h.offArray.loftWrite s b o bs p
theorem drainPut (s : Mach) (b : Nat) (ws : List (Nat × List Byte × Bool)) (n : Nat) : g (drainPut s b ws n) = g s :=
  h.offArray.drainPut s b ws n
theorem finishDrain (s : Mach) (b : Nat) (d : Drain) : g (finishDrain s b d) = g s := h.offArray.finishDrain s b d
theorem cutDrain (s : Mach) (b e : Nat) (d : Drain) : g (cutDrain s b e d) = g s := h.offArray.cutDrain s b e d
theorem flushDrains (s : Mach) (b e : Nat) : g (flushDrains s b e) = g s := h.offArray.flushDrains s b e

/-! ### The units of a bay -/

theorem mxaPreempt (s : Mach) (b e : Nat) : g (mxaPreempt s b e) = g s := by
  unfold Machine.mxaPreempt
  dsimp only
  rw [h.modMxa, foldS_keeps g _ _ _ fun t d => h.cutDrain t b _ d, h.flushDrains]

theorem vApply (b w : Nat) (s : Mach) (e : VEff) : g (vApply b w s e) = g s := by
  unfold Machine.vApply
  cases e with
  | lane | mask | scalar | token | ptr | acSet | clearFlags => exact h.modVxe s b _
  | acAdd a l c p => dsimp only; rw [h.vRaise, h.modVxe]
  | loft o bs m p => dsimp only; rw [h.loftPut, h.countLoftWrite]
  | flags l f => exact h.vRaise s b w l f

theorem applyWrite (s : Mach) (b : Nat) (w : VWrite) : g (applyWrite s b w) = g s := by
  have hput (t : Mach) : g (foldS w.effs (Machine.vApply b w.word) t) = g t :=
    foldS_keeps g _ _ _ fun t e => h.vApply b _ t e
  have hstart (n : Nat) (f : Vxe → Vxe) : g (bump (Machine.modVxe s b f) .VXE_COUNT b 0 31 0 n) = g s :=
    (h.of_units (units_bump _ _ _ _ _ _ _)).trans (h.modVxe s b f)
  have hcount (t : Mach) : g (bump t .VXE_OPS b 0 63 0 1) = g t := h.of_units (units_bump _ _ _ _ _ _ _)
  unfold Machine.applyWrite
  dsimp only
  split
  · split
    · exact (h.sendToken _ b _ _ _ _).trans ((hcount _).trans ((hput _).trans (hstart _ _)))
    · exact (hcount _).trans ((hput _).trans (hstart _ _))
  · exact (hput _).trans (hstart _ _)

theorem vFlushN (n : Nat) (s : Mach) (b t : Nat) : g (vFlushN s b t n) = g s := by
  induction n generalizing s with
  | zero => rfl
  | succ n ih =>
    unfold Machine.vFlushN
    split
    · split
      · rw [ih, h.applyWrite]
      · rfl
    · rfl

theorem vxePreempt (s : Mach) (b e : Nat) : g (vxePreempt s b e) = g s := (h.modVxe _ b _).trans (h.vFlushN _ s b e)

theorem preempt (s : Mach) (b : Nat) : g (preempt s b) = g s := by
  unfold Machine.preempt
  dsimp only
  rw [h.modSeq, h.vxePreempt, h.mxaPreempt, h.stopStreams, apply_ite g, h.of_units (units_recordSeqErr _ _ _ _), ite_self]

end Outer

end Sys2Proof.Machine
end

section
/-! The rota of a partition (R89 to R98, R129, R130, R637): announcement, GO or REFUSE, the slice's begin and end, the clear and
settlement. -/

namespace Sys2Proof.Machine

/-! ### Announcement -/

theorem csr_foldS_modSeq {α : Type} (l : List α) (b : α → Nat) (f : Mach → α → Seq → Seq) (s : Mach) :
    (foldS l (fun t x => modSeq t (b x) (f t x)) s).csr = s.csr := foldS_keeps Mach.csr l _ s fun _ _ => rfl

theorem ends_rotaAnnounce {s : State} {p : PartNo} {lead : Nat} {r : Rota} (hlead : leadBay s.mach p = some lead)
    (hr : getRota s.mach p = r) (hen : r.enabled = true) (hslice : r.inSlice = false) (hann : r.ann = none) (habort : r.abortReq = false)
    (hstop : r.stopReq = false) (hrun : partHalted s.mach p = false) :
    Ends (.rotaAnnounce p) s (fun m => (getRota m p).ann = some 0 ∧ (getRota m p).annCont = false ∧
      (getRota m p).annGo = !(entWorks (rotaA s.mach lead 0)) ∧ m.csr = s.mach.csr) := by
  have hcont (k : Nat) : continues s.mach lead r k = false := by unfold continues; rw [hslice]; rfl
  refine ⟨_, rfl, ?_⟩
  dsimp only
  unfold rotaAnnounce
  rw [hlead]
  dsimp only
  rw [hr, if_neg (by simp [hen, hann, habort, hstop, hrun]), getRota_modRota, hcont, hslice]
  refine ⟨rfl, rfl, rfl, ?_⟩
  exact iteInduction (motive := fun m : Mach => m.csr = s.mach.csr) (fun _ => rfl) fun _ => csr_foldS_modSeq _ (fun b => b) _ _

/-! ### GO and REFUSE -/

theorem outer_refuseStore {β : Type} {g : Mach → β} (h : Outer g) (s : Mach) (b t c : Nat) : g (refuseStore s b t c) = g s :=
  h.of_units (by unfold refuseStore; rw [units_raiseBay, units_recordFirst])

theorem outer_setEstate {β : Type} {g : Mach → β} (h : Outer g) (s : Mach) (l t st : Nat) (o : Option Nat) :
    g (setEstate s l t st o) = g s := by
  refine foldS_keeps g _ _ _ fun u n => ?_
  split
  · cases o with
    | none => exact h.of_units (units_wf _ _ _ _ _ _ _)
    | some k => exact h.of_units ((units_wf _ _ _ _ _ _ _).trans (units_wf _ _ _ _ _ _ _))
  · rfl

theorem outer_foldS_modSeq {β : Type} {g : Mach → β} (h : Outer g) (l : List Nat) (f : Seq → Seq) (s : Mach) :
    g (foldS l (fun t b => modSeq t b f) s) = g s := foldS_keeps g l _ s fun t b => h.modSeq t b f

theorem ends_rotaGoRefuse {s : State} {p : PartNo} {lead k : Nat} (hlead : leadBay s.mach p = some lead)
    (hann : (getRota s.mach p).ann = some k) (hgo : (getRota s.mach p).annGo = false) :
    Ends (.rotaGoRefuse p) s (fun m => (getRota m p).annGo = true ∧ (getRota m p).ann = some k ∧
      (getRota m p).annRefused = (partBays s.mach p).any (fun b => decide ((getSeq s.mach b).ready ≠ some 0))) := by
  have h := outer_getRota p
  refine ⟨_, rfl, ?_⟩
  dsimp only
  unfold rotaGoRefuse
  rw [hlead, hann]
  dsimp only
  rw [if_neg (by simp [hgo]), getRota_modRota]
  refine ⟨rfl, ?_, rfl⟩
  dsimp only
  rw [apply_ite (getRota · p), outer_setEstate h, ite_self, outer_foldS_modSeq h, foldS_keeps (getRota · p)]
  · exact hann
  · intro t b
    split
    · split
      · rfl
      · exact outer_refuseStore h _ _ _ _
    · rfl

/-! ### The slice begins -/

namespace Outer

variable {β : Type} {g : Mach → β} (h : Outer g)
include h

theorem lofts (s : Mach) (x : SMap Byte) (y : SMap Bool) : g { s with loft := x, loftPois := y } = g s :=
  (h.loftPois { s with loft := x } y).trans (h.loft s x)

theorem startClear (s : Mach) (b : Nat) : g (startClear s b) = g s := by
  unfold Machine.startClear vxeClear mxaClear
  dsimp only
  rw [h.modSeq, h.modVxe, h.modMxa, h.lofts, h.of_units (units_slip _ _ _ _ _)]

theorem enterEntry (s : Mach) (l b k : Nat) (v : Bool) : g (enterEntry s l b k v) = g s := by
  have hchans : g (resetChans (syncCnt s b) b) = g s := (h.modBay _ b _).trans (h.of_units (units_syncCnt s b))
  unfold Machine.enterEntry
  dsimp only
  split
  · rw [h.startClear, h.modSeq, hchans]
  · rw [h.modSeq, hchans]

theorem fallowBay (s : Mach) (b e n : Nat) : g (fallowBay s b e n) = g s := by
  unfold Machine.fallowBay shiftUnits shiftSlots
  dsimp only
  rw [h.modBay, h.modSeq, h.modBay, apply_ite g, h.modBay, ite_self, h.of_units (units_syncCnt s b)]

theorem takeEntry (s : Mach) (l b k d : Nat) (v : Bool) : g (takeEntry s l b k d v) = g s := by
  have hbegin (t : Mach) : g (if (getSeq t b).st = .settle ∨ (getBay t b).dbg.halted = true
      then Machine.modSeq t b (fun q => { q with st := .settle, take := some (k, v) }) else Machine.enterEntry t l b k v) = g t :=
    iteInduction (motive := fun m : Mach => g m = g t) (fun _ => h.modSeq t b _) fun _ => h.enterEntry t l b k v
  unfold Machine.takeEntry setStanding
  dsimp only
  refine iteInduction (motive := fun m : Mach => g m = g s) (fun _ => ?_) fun _ => ?_
  · rw [h.fallowBay, hbegin, h.modBay, h.modSeq, h.of_units (units_wf _ _ _ _ _ _ _)]
  · rw [hbegin, h.modBay, h.modSeq, h.of_units (units_wf _ _ _ _ _ _ _)]

end Outer

theorem ends_sliceBegin {s : State} {p : PartNo} {lead k : Nat} (hlead : leadBay s.mach p = some lead)
    (hann : (getRota s.mach p).ann = some k) (hgo : (getRota s.mach p).annGo = true) (hcont : (getRota s.mach p).annCont = false)
    (hslice : (getRota s.mach p).inSlice = false) :
    Ends (.sliceBegin p) s (fun m => (getRota m p).inSlice = true ∧ (getRota m p).cur = k ∧ (getRota m p).ann = none ∧
      (getRota m p).startFrame = (getRota s.mach p).entryEnd ∧
      (getRota m p).fallow = (!(entWorks (rotaA s.mach lead k)) || (getRota s.mach p).annRefused)) := by
  refine ⟨_, rfl, ?_⟩
  dsimp only
  unfold sliceBegin
  rw [hlead, hann]
  dsimp only
  rw [if_neg (by simp [hgo]), if_neg (by simp [hcont]), if_neg (by simp [hslice]),
    foldS_keeps (getRota · p) _ _ _ fun t b => (outer_getRota p).takeEntry t lead b k _ _, getRota_modRota]
  exact ⟨rfl, rfl, rfl, rfl, by simp⟩

/-! ### The clear is complete -/

/-- Of a walk over streams whose changes look at the lofts only, each stream named satisfies what every change of it brings about. -/
theorem stream_foldS_loft {P : Stream → Prop} {b : Fin 72} {k : Fin 6} {f : Mach → Nat → Stream → Stream} {lo : SMap Byte}
    (hf : ∀ t x, t.loft = lo → P (f t k x)) (l : List Nat) (s : Mach) (hlo : s.loft = lo) (h : k.val ∈ l ∨ P (getStream s b k)) :
    P (getStream (foldS l (fun t j => modStream t b j (f t j)) s) b k) := by
  induction l generalizing s with
  | nil => simpa [foldS] using h
  | cons j l ih =>
    refine ih (modStream s b j (f s j)) hlo ?_
    by_cases hj : k.val = j
    · subst hj
      exact Or.inr (getStream_modStream s b k _ ▸ hf s _ hlo)
    · rw [getStream_modStream_other s b hj]
      exact h.imp (fun hmem => (List.mem_cons.1 hmem).resolve_left hj) id

theorem ends_clearComplete {s : State} {b : BayNo} {q : Seq} (hq : getSeq s.mach b = q) (hst : q.st = .clear)
    (hrun : isHalted s.mach b = false) :
    Ends (.clearComplete b) s (fun m => m.apart b = s.mach.apart b ∧ (getSeq m b).st = .run ∧
      (∀ k : StreamNo, k.val ∈ storeStreams s.mach b q.storeBase → (getStream m b k).run = true ∧
        (getStream m b k).nextAt = q.clearEnd ∧ (getStream m b k).next =
          (if q.resume then entIn (streamEntry s.mach b q.storeBase k) else entStart (streamEntry s.mach b q.storeBase k)))) := by
  have hstore (t : Mach) (k : Nat) (ht : t.loft = s.mach.loft) : streamEntry t b q.storeBase k = streamEntry s.mach b q.storeBase k := by
    unfold streamEntry loftNat
    rw [ht]
  have hloft : (syncCnt (advanceEdge s.mach b q.clearEnd) b).loft = s.mach.loft :=
    loft_of_units ((units_syncCnt _ _).trans (units_advanceEdge _ _ _))
  refine ⟨_, rfl, ?_⟩
  dsimp only
  unfold clearComplete
  dsimp only
  rw [hq, if_neg (not_or.2 ⟨not_not.2 hst, by rw [← isHalted, hrun]; decide⟩)]
  refine ⟨?_, ?_, fun k hk => ?_⟩
  · rw [foldS_keeps (Mach.apart · b) _ _ _ fun t k => apart_modStream t b k _, apart_modSeq, apart_syncCnt, apart_advanceEdge]
  · rw [foldS_keeps (getSeq · b) _ _ _ fun t k => getSeq_modStream t b k _, getSeq_modSeq_fin]
  · refine stream_foldS_loft (P := fun x => x.run = true ∧ x.nextAt = q.clearEnd ∧ x.next = (if q.resume then
      entIn (streamEntry s.mach b q.storeBase k) else entStart (streamEntry s.mach b q.storeBase k))) (fun t x ht => ?_) _ _ hloft (Or.inl ?_)
    · rw [hstore t k ht]
      exact ⟨rfl, rfl, rfl⟩
    · unfold storeStreams storeHdr loftNat at hk ⊢
      rw [show (modSeq (syncCnt (advanceEdge s.mach b q.clearEnd) b) b _).loft = s.mach.loft from hloft]
      exact hk

/-! ### The slice ends -/

theorem mem_rotaOver (s : Mach) (p : Nat) : (rotaOver s p).mem = s.mem := by
  unfold rotaOver
  dsimp only
  split
  · split
    · exact (mem_of_units (units_wb _ _ _ _ _ _)).trans rfl
    · rfl
  · rfl

theorem getSeq_rotaOver (s : Mach) (p : Nat) (b : BayNo) : getSeq (rotaOver s p) b = getSeq s b := by
  unfold rotaOver
  dsimp only
  split
  · split
    · exact seq_of_units (units_wb _ _ _ _ _ _) b
    · rfl
  · rfl

theorem inSlice_rotaOver (s : Mach) (p : PartNo) : (getRota (rotaOver s p) p).inSlice = (getRota s p).inSlice := by
  have h (f : Rota → Rota) (hf : ∀ r, (f r).inSlice = r.inSlice) : (getRota (modRota s p f) p).inSlice = (getRota s p).inSlice := by
    rw [getRota_modRota, hf]
  unfold rotaOver
  dsimp only
  split
  · split
    · exact (congrArg Rota.inSlice ((outer_getRota p).of_units (units_wb _ _ _ _ _ _))).trans (h _ fun _ => rfl)
    · exact h _ fun _ => rfl
  · rfl

theorem ends_sliceEnd {s : State} {p : PartNo} {lead : Nat} {r : Rota} (hlead : leadBay s.mach p = some lead)
    (hr : getRota s.mach p = r) (hen : r.enabled = true) (hslice : r.inSlice = true) (hcont : r.annCont = false)
    (habort : r.abortReq = false) (hrun : partHalted s.mach p = false) :
    Ends (.sliceEnd p) s (fun m => (getRota m p).inSlice = false ∧ m.mem = s.mach.mem) := by
  have hbay (t : Mach) (b : Nat) :
      (if unsettled t b = true then modSeq t b (fun q => { q with st := .settle, settleFrom := edgeAfter (clkOf t b) t.now, take := none })
        else goIdle t b).mem = t.mem :=
    iteInduction (motive := fun m : Mach => m.mem = t.mem) (fun _ => rfl) fun _ => rfl
  have hpark (t : Mach) (b : Nat) (c : Prop) [Decidable c] : (if c then stopStreams t b else preempt t b).mem = t.mem :=
    iteInduction (motive := fun m : Mach => m.mem = t.mem) (fun _ => outer_mem.stopStreams t b) fun _ => outer_mem.preempt t b
  refine ⟨_, rfl, ?_⟩
  dsimp only
  unfold sliceEnd
  rw [hlead]
  dsimp only
  rw [hr, if_neg (by simp [hen, hcont, hrun]), if_neg (by simp [hslice]), if_neg (by simp [habort])]
  refine ⟨?_, ?_⟩
  · rw [inSlice_rotaOver, getRota_modRota]
  · rw [mem_rotaOver]
    refine (foldS_keeps Mach.mem _ _ _ fun t b => ?_).trans ?_
    · exact (hbay _ b).trans (hpark _ b _)
    · exact iteInduction (motive := fun m : Mach => m.mem = s.mach.mem) (fun _ => rfl) fun _ => outer_setEstate outer_mem _ _ _ _ _

theorem ends_settlementComplete {s : State} {b : BayNo} (hst : (getSeq s.mach b).st = .settle) (hset : unsettled s.mach b = false)
    (hrun : isHalted s.mach b = false) (htake : (getSeq s.mach b).take = none) :
    Ends (.settlementComplete b) s (fun m => (getSeq m b).st = .idle ∧ (getSeq m b).tid = none ∧ (getSeq m b).entry = none) := by
  have hidle (t : Nat) : settled (advanceTo s.mach t) b = goIdle (advanceTo s.mach t) b := by
    have htake' : (getSeq (advanceTo s.mach t) b).take = none := htake
    unfold settled
    rw [htake']
  refine ⟨_, rfl, ?_⟩
  dsimp only
  unfold settlementComplete
  dsimp only
  rw [if_pos ⟨hst, hset, hrun⟩, hidle]
  have hend (t : Mach) : (getSeq (goIdle t b) b).st = .idle ∧ (getSeq (goIdle t b) b).tid = none ∧ (getSeq (goIdle t b) b).entry = none := by
    unfold goIdle
    rw [getSeq_modSeq_fin]
    exact ⟨rfl, rfl, rfl⟩
  split
  · rw [getSeq_rotaOver]
    exact hend _
  · exact hend _

theorem ends_settleLimitExpiry {s : State} {b : BayNo} (hst : (getSeq s.mach b).st = .settle) (hdebt : noDebt s.mach b = false) :
    Ends (.settleLimitExpiry b) s (fun m => m.apart b = s.mach.apart b ∧ noDebt m b = true) := by
  refine ⟨_, rfl, ?_⟩
  dsimp only
  unfold settleLimitExpiry
  dsimp only
  rw [if_pos ⟨hst, hdebt⟩]
  refine ⟨?_, ?_⟩
  · rw [apart_modBay, apart_tokErr, apart_advanceEdge]
  · unfold noDebt
    rw [getBay_modBay_fin]
    simp

/-- Settles O19. -/
theorem rotaRuns : Obligations.RotaRuns :=
  ⟨fun _ _ _ _ hlead hr hen hslice hann habort hstop hrun => ends_rotaAnnounce hlead hr hen hslice hann habort hstop hrun,
   fun _ _ _ _ hlead hann hgo => ends_rotaGoRefuse hlead hann hgo,
   fun _ _ _ _ hlead hann hgo hcont hslice => ends_sliceBegin hlead hann hgo hcont hslice,
   fun _ _ _ hq hst hrun => ends_clearComplete hq hst hrun,
   fun _ _ _ _ hlead hr hen hslice hcont habort hrun => ends_sliceEnd hlead hr hen hslice hcont habort hrun,
   fun _ _ hst hset hrun htake => ends_settlementComplete hst hset hrun htake,
   fun _ _ hst hdebt => ends_settleLimitExpiry hst hdebt⟩

end Sys2Proof.Machine
end

section
/-! The matrix array (R169 to R174, R177, R183): profiles, passes, drains and thread-issued requests. -/

namespace Sys2Proof.Machine

/-! ### The array of a bay -/

theorem getMxa_modMxa (s : Mach) (b : Fin 72) (f : Mxa → Mxa) : getMxa (modMxa s b f) b = f (getMxa s b) := by
  unfold getMxa modMxa
  rw [getBay_modBay_fin]

theorem getMxa_modStream (s : Mach) (b : Fin 72) (k : Nat) (f : Stream → Stream) : getMxa (modStream s b k f) b = getMxa s b :=
  getMxa_modBay s b b _ fun _ => rfl

theorem getMxa_opDone (s : Mach) (b : Fin 72) (k : Nat) : getMxa (opDone s b k) b = getMxa s b := getMxa_modStream s b k _

theorem getMxa_loftUse (s : Mach) (b : Fin 72) (u : LoftUse) : getMxa (loftUse s b u) b = getMxa s b := by
  unfold loftUse
  split
  · rfl
  · exact getMxa_modBay s b b _ fun _ => rfl

theorem getStream_modMxa (s : Mach) (b : Fin 72) (k : Nat) (f : Mxa → Mxa) : getStream (modMxa s b f) b k = getStream s b k := by
  unfold getStream modMxa
  rw [getBay_modBay_fin]

/-- The fence looks at the sequencer, the split and the store. -/
theorem fenceOk_opDone (s : Mach) (b : Fin 72) (k off n : Nat) : fenceOk (opDone s b k) b off n = fenceOk s b off n := by
  have hseq : getSeq (opDone s b k) b = getSeq s b := getSeq_modStream _ _ _ _
  have hstore : storeSize (opDone s b k) b = storeSize s b := by unfold storeSize; rw [hseq]; rfl
  have hplan : plannedSize (opDone s b k) b = plannedSize s b := rfl
  unfold fenceOk
  rw [hseq, hstore, hplan]

theorem fenceRefused_opDone (s : Mach) (b : Fin 72) (k : Nat) (l : List (Nat × Nat)) :
    fenceRefused (opDone s b k) b l = fenceRefused s b l := by
  unfold fenceRefused
  simp only [fenceOk_opDone]

theorem flushDrains_none {s : Mach} {b : Nat} (h : (getMxa s b).drains = []) (e : Nat) : flushDrains s b e = s := by
  unfold flushDrains
  rw [h]
  rfl

theorem draining_none {s : Mach} {b : Nat} (h : (getMxa s b).drains = []) (bank : Nat) : draining s b bank = false := by
  unfold draining
  rw [h]
  rfl

/-! ### PROF -/

theorem ends_prof {s : State} {b : BayNo} {w : Slot} {r : Line} (hop : opReady s.mach b 1 1 1 = true)
    (hw : (getStream s.mach b 1).word = w) (hres : reservedClear w [(103, 101), (18, 0)] = true)
    (hfence : fenceOk s.mach b (fld w 18 0 * 64) 64 = true)
    (hr : BitVec.ofNat 512 (readNat s.mach.loft (loftIx b (fld w 18 0 * 64)) 64) = r) (hok : profOk r = true) :
    Ends (.prof b none) s (fun m => m.apart b = s.mach.apart b ∧
      (getMxa m b).profs = (getMxa s.mach b).profs.set (fld w 103 101) (some r) ∧
      (getStream m b 1).busy = (getStream s.mach b 1).issued + 8) := by
  have hunits (t : Mach) : (countLoftRead t b 64).units = t.units := by unfold countLoftRead; rw [units_bumpAo, units_countEv]
  have hloft (t : Mach) : (countLoftRead t b 64).loft = t.loft := loft_of_units (hunits t)
  refine ⟨_, rfl, ?_⟩
  dsimp only
  rw [onSlot_of_ready hop, hw]
  unfold doProf
  dsimp only
  rw [if_neg (by simp [hres]), if_neg (by simp [fenceOk_opDone, hfence]), hloft,
    show (modStream (opDone s.mach b 1) b 1 _).loft = s.mach.loft from rfl, hr, if_pos hok]
  refine ⟨?_, ?_, ?_⟩
  · rw [modMxa, apart_modBay, apart_of_units (hunits _), apart_modStream, apart_opDone]
  · rw [getMxa_modMxa, mxa_of_units (hunits _), getMxa_modStream, getMxa_opDone]
    rfl
  · rw [getStream_modMxa, stream_of_units (hunits _)]
    have h := getStream_modStream (opDone s.mach b 1) b (1 : Fin 6) (fun x => { x with busy := x.issued + 8 })
    exact (congrArg Stream.busy h).trans (congrArg (· + 8) (issued_opDone s.mach b 1 1))

/-! ### PASS -/

/-- The drains of an array, which of its stationary banks is active, and the requests of threads. -/
def Mxa.course (m : Mxa) : List Drain × Nat × List MxaReq := (m.drains, m.active, m.flexq)

section
variable (s : Mach) (b : Fin 72)

theorem course_modMxa (f : Mxa → Mxa) (hf : ∀ m, (f m).course = m.course) :
    (getMxa (modMxa s b f) b).course = (getMxa s b).course := by rw [getMxa_modMxa, hf]

theorem course_foldl {α : Type} (l : List α) (f : Mxa → α → Mxa) (hf : ∀ m x, (f m x).course = m.course) (m : Mxa) :
    (l.foldl f m).course = m.course := by
  induction l generalizing m with
  | nil => rfl
  | cons x l ih => exact (ih _).trans (hf m x)

theorem course_passMath (r : Line) (w : Slot) : (getMxa (passMath s b r w) b).course = (getMxa s b).course := by
  unfold passMath
  dsimp only
  rw [getMxa_modMxa]
  refine (course_foldl _ _ (fun m p => ?_) _).trans ?_
  · rfl
  · split <;> rfl

theorem course_loadStat (o n : Nat) : (getMxa (loadStat s b o n) b).course = (getMxa s b).course := by
  have h (t : Mach) (x : Nat) : getMxa { t with freeCtr := x } b = getMxa t b := rfl
  unfold loadStat
  dsimp only
  refine (course_modMxa _ b _ fun m => ?_).trans ?_
  · rfl
  · rw [h, (offMov_getMxa b).countLoftRead]

theorem getMxa_countMacs (ev n : Nat) : getMxa (countMacs s b ev n) b = getMxa s b := by
  have h (t : Mach) (x : SMap Nat) : getMxa { t with macs := x } b = getMxa t b := rfl
  unfold countMacs
  dsimp only
  rw [mxa_of_units (units_bumpAo _ _ _ _), h, mxa_of_units (units_countEv _ _ _ _)]

end

/-- What a pass does before its times are set: the bytes it reads, its terms and the load of the shadow bank, its counts. -/
def passWork (s : Mach) (b p : Nat) (r : Line) (w : Slot) (flex : Option (Option Nat)) : Mach :=
  let s := foldS (passReads r w |>.take (if pMode r = 2 then 2 else 1)) (fun t g => countLoftRead t b g.2) s
  let s := bump s .MXA_COUNT b 0 63 32 (metaBad (getMxa s b) r)
  let use (path : Nat) (l : List (Nat × Nat)) (at_ : Nat) : LoftUse :=
    { path := path, wrt := false, ownBay := b, stream := 1, op := p, beats := l, start := at_, late := 0 }
  let s := if flex.isSome then s else
    let l := passReads r w |>.take (if pMode r = 2 then 2 else 1)
    let s := loftUse s b (use 0 (l.flatMap (fun g => rowBeats g.1 g.2)) p)
    if passLoads r w then loftUse s b (use 1 (rowBeats (passNext w * 64) (statTile r).size) p) else s
  let s := passMath s b r w
  let s := if passLoads r w then loadStat s b (passNext w * 64) (statTile r).size else s
  bump (countMacs s b (macEvent r) (passMacs r w)) .MXA_PASSES b 0 63 0 1

/-- The times of an array that a pass has begun to stream. -/
def Mxa.timed (p : Nat) (r : Line) (w : Slot) (flex : Option (Option Nat)) (m : Mxa) : Mxa :=
  { m with streamEnd := p + passStream r w - 1,
           loadEnd := if passLoads r w then p + passLoad r w - 1 else m.loadEnd,
           termEnd := lset m.termEnd (passBank w) (max (m.termEnd.getD (passBank w) 0) (p + passTail r w)),
           flexEnd := if flex.isSome then p + passTail r w else m.flexEnd }

/-- The array with FLIP carried out. -/
def Mxa.flipped (w : Slot) (m : Mxa) : Mxa := { m with active := if bit w 100 then 1 - m.active else m.active }

/-- A pass flips, works, and sets its times; with DRAIN it starts the drain. -/
theorem runPass_eq (s : Mach) (b p : Nat) (r : Line) (w : Slot) (flex : Option (Option Nat)) :
    runPass s b p r w flex =
      (let t := modMxa (passWork (modMxa s b (Mxa.flipped w)) b p r w flex) b (Mxa.timed p r w flex)
       if passDrains w then startDrain t b r w (passRows r w) ((getMxa t b).termEnd.getD (passBank w) 0 + 1) flex else t) := rfl

theorem OffBay.passWork {β : Type} {g : Mach → β} (h : OffBay g) (s : Mach) (b p : Nat) (r : Line) (w : Slot)
    (flex : Option (Option Nat)) : g (passWork s b p r w flex) = g s := by
  have huse (t : Mach) (u v : LoftUse) (c d : Prop) [Decidable c] [Decidable d] :
      g (if c then t else if d then Machine.loftUse (Machine.loftUse t b u) b v else Machine.loftUse t b u) = g t := by
    split
    · rfl
    · split
      · rw [h.loftUse, h.loftUse]
      · rw [h.loftUse]
  have hload (t : Mach) (o n : Nat) : g (loadStat t b o n) = g t := by
    unfold loadStat
    dsimp only
    rw [h.modMxa, h.freeCtr, h.countLoftRead]
  have hmacs (t : Mach) (ev n : Nat) : g (countMacs t b ev n) = g t := by
    unfold countMacs
    dsimp only
    rw [h.of_units (units_bumpAo _ _ _ _), h.macs, h.of_units (units_countEv _ _ _ _)]
  unfold Machine.passWork
  dsimp only
  rw [h.of_units (units_bump _ _ _ _ _ _ _), hmacs, apply_ite g, hload, ite_self, passMath, h.modMxa, huse,
    h.of_units (units_bump _ _ _ _ _ _ _), foldS_keeps g _ _ _ fun t x => h.countLoftRead t b _]

theorem course_passWork (s : Mach) (b : Fin 72) (p : Nat) (r : Line) (w : Slot) (flex : Option (Option Nat)) :
    (getMxa (passWork s b p r w flex) b).course = (getMxa s b).course := by
  have huse (t : Mach) (u v : LoftUse) (c d : Prop) [Decidable c] [Decidable d] :
      getMxa (if c then t else if d then loftUse (loftUse t b u) b v else loftUse t b u) b = getMxa t b := by
    split
    · rfl
    · split
      · rw [getMxa_loftUse, getMxa_loftUse]
      · rw [getMxa_loftUse]
  have hload (t : Mach) (c : Prop) [Decidable c] (o n : Nat) :
      (getMxa (if c then loadStat t b o n else t) b).course = (getMxa t b).course := by
    split
    · exact course_loadStat t b o n
    · rfl
  unfold passWork
  dsimp only
  rw [mxa_of_units (units_bump _ _ _ _ _ _ _), getMxa_countMacs, hload, course_passMath, huse, mxa_of_units (units_bump _ _ _ _ _ _ _),
    foldS_keeps (getMxa · b) _ _ _ fun t x => (offMov_getMxa b).countLoftRead t b _]

theorem OffBay.startDrain {β : Type} {g : Mach → β} (h : OffBay g) (s : Mach) (b : Nat) (r : Line) (w : Slot) (n e : Nat)
    (flex : Option (Option Nat)) : g (startDrain s b r w n e flex) = g s := by
  unfold Machine.startDrain
  dsimp only
  rw [h.modMxa, apply_ite g, h.loftUse, ite_self]

theorem OffBay.runPass {β : Type} {g : Mach → β} (h : OffBay g) (s : Mach) (b p : Nat) (r : Line) (w : Slot)
    (flex : Option (Option Nat)) : g (runPass s b p r w flex) = g s := by
  rw [runPass_eq]
  dsimp only
  rw [apply_ite g, h.startDrain, ite_self, h.modMxa, h.passWork, h.modMxa]

theorem ends_pass {s : State} {b : BayNo} {w : Slot} {r : Line} (hop : opReady s.mach b 1 1 2 = true)
    (hw : (getStream s.mach b 1).word = w) (hdrains : (getMxa s.mach b).drains = []) (hprof : wordProf s.mach b w = some r)
    (hlegal : passLegal r w = true) (hnodrain : passDrains w = false) (hhold : max (passStream r w) (passLoad r w) ≤ slotHold w + 1)
    (hfence : fenceRefused s.mach b (passReads r w) = none) :
    Ends (.pass b none) s (fun m => m.loft = s.mach.loft ∧ m.mem = s.mach.mem ∧
      (getMxa m b).streamEnd = (getStream s.mach b 1).issued + passStream r w - 1 ∧ (getMxa m b).drains = [] ∧
      (getMxa m b).active = (if bit w 100 then 1 - (getMxa s.mach b).active else (getMxa s.mach b).active)) := by
  have hdrains' : (getMxa (opDone s.mach b 1) b).drains = [] := by rw [getMxa_opDone]; exact hdrains
  have hprof' : wordProf (opDone s.mach b 1) b w = some r := by unfold wordProf; rw [getMxa_opDone]; exact hprof
  have hissued : (getStream (opDone s.mach b 1) b 1).issued = (getStream s.mach b 1).issued := issued_opDone s.mach b 1 1
  refine ⟨_, rfl, ?_⟩
  dsimp only
  rw [onSlot_of_ready hop, hw]
  unfold doPass
  dsimp only
  rw [flushDrains_none hdrains', hprof']
  dsimp only
  rw [if_neg (by simp [hlegal]), draining_none hdrains', if_neg (by decide), if_neg (by omega), hnodrain]
  rw [if_neg (by simp)]
  dsimp only
  rw [if_neg (by decide), List.append_nil, fenceRefused_opDone, hfence]
  dsimp only
  have hcourse (p : Nat) : (getMxa (runPass (opDone s.mach b 1) b p r w none) b).course =
      ((getMxa s.mach b).flipped w).course ∧ (getMxa (runPass (opDone s.mach b 1) b p r w none) b).streamEnd = p + passStream r w - 1 := by
    rw [runPass_eq]
    dsimp only
    rw [if_neg (by simp [hnodrain]), getMxa_modMxa]
    refine ⟨?_, rfl⟩
    calc _ = (getMxa (passWork (modMxa (opDone s.mach b 1) b (Mxa.flipped w)) b p r w none) b).course := rfl
      _ = _ := by rw [course_passWork, getMxa_modMxa, getMxa_opDone]
  obtain ⟨hcourse, hend⟩ := hcourse (getStream (opDone s.mach b 1) b 1).issued
  refine ⟨?_, ?_, ?_, ?_, ?_⟩
  · rw [offBay_loft.runPass]
    rfl
  · rw [outer_mem.runPass]
    rfl
  · rw [hend, hissued]
  · exact (congrArg Prod.fst hcourse).trans hdrains
  · exact congrArg (fun x => x.2.1) hcourse

/-! ### DRAIN -/

theorem apart_loftUse (s : Mach) (b : Nat) (u : LoftUse) : (loftUse s b u).apart b = s.apart b := by
  unfold loftUse
  split
  · rfl
  · exact apart_modBay s b _

theorem ends_drain {s : State} {b : BayNo} {w : Slot} {r : Line} (hop : opReady s.mach b 1 1 3 = true)
    (hw : (getStream s.mach b 1).word = w) (hdrains : (getMxa s.mach b).drains = []) (hprof : wordProf s.mach b w = some r)
    (hlegal : drainLegal w = true) (hsig : bit w 96 = false)
    (hfence : fenceRefused s.mach b (drainRanges r (passDaddr w) (passSteps w)) = none) :
    Ends (.drain b) s (fun m => m.apart b = s.mach.apart b ∧ ∃ d, (getMxa m b).drains = [d] ∧ d.bank = passBank w ∧ d.rec_ = r ∧
      d.start = max (getStream s.mach b 1).issued ((getMxa s.mach b).termEnd.getD (passBank w) 0) + 1 ∧
      d.fin = d.start + drainFclk r (passSteps w) ∧ d.sig = false) := by
  have hdrains' : (getMxa (opDone s.mach b 1) b).drains = [] := by rw [getMxa_opDone]; exact hdrains
  have hprof' : wordProf (opDone s.mach b 1) b w = some r := by unfold wordProf; rw [getMxa_opDone]; exact hprof
  have hissued : (getStream (opDone s.mach b 1) b 1).issued = (getStream s.mach b 1).issued := issued_opDone s.mach b 1 1
  refine ⟨_, rfl, ?_⟩
  dsimp only
  rw [onSlot_of_ready hop, hw]
  unfold doDrain
  dsimp only
  rw [flushDrains_none hdrains', hprof']
  dsimp only
  rw [if_neg (by simp [hlegal]), draining_none hdrains', if_neg (by decide), hsig, if_neg (by decide)]
  dsimp only
  rw [fenceRefused_opDone, hfence]
  dsimp only
  unfold startDrain
  dsimp only
  refine ⟨?_, ?_⟩
  · rw [modMxa, apart_modBay, if_neg (by decide), apart_loftUse, apart_opDone]
  · rw [getMxa_modMxa, if_neg (by decide), getMxa_loftUse, hdrains', hissued, getMxa_opDone]
    exact ⟨_, rfl, rfl, rfl, rfl, rfl, hsig⟩

/-! ### A drain completes -/

theorem loft_loftPut (s : Mach) (b o : Nat) (bs : List Byte) (m p : Nat) :
    (loftPut s b o bs m p).loft = writeMasked s.loft (loftIx b o) m bs := by
  have hdue : (if (getMov s b).moves = [] then s else catchUp s b).loft = s.loft :=
    iteInduction (motive := fun t : Mach => t.loft = s.loft) (fun _ => rfl) fun _ => offBay_loft.catchUp s b
  have hpois (t : Mach) (x : Nat × Nat) (c : Prop) [Decidable c] (o : Nat) (p : Bool) :
      (if c then t else setGranPois t b o p).loft = t.loft :=
    iteInduction (motive := fun u : Mach => u.loft = t.loft) (fun _ => rfl) fun _ => rfl
  unfold loftPut
  dsimp only
  rw [foldS_keeps Mach.loft _ _ _ fun t x => hpois t x _ _ _]
  exact congrArg (writeMasked · (loftIx b o) m bs) hdue

/-- The lofts after rows have been written one after another. -/
theorem loft_foldS_loftWrite (b : Nat) (ws : List (Nat × List Byte × Bool)) (s : Mach) :
    (foldS ws (fun t w => loftWrite t b w.1 w.2.1 w.2.2) s).loft =
      ws.foldl (fun l x => writeMasked l (loftIx b x.1) (2 ^ x.2.1.length - 1) x.2.1) s.loft := by
  induction ws generalizing s with
  | nil => rfl
  | cons w ws ih =>
    refine (ih (loftWrite s b w.1 w.2.1 w.2.2)).trans ?_
    rw [loftWrite, loft_loftPut, List.foldl_cons]

theorem loft_drainPut (s : Mach) (b : Nat) (ws : List (Nat × List Byte × Bool)) : (drainPut s b ws ws.length).loft =
    ws.foldl (fun l x => writeMasked l (loftIx b x.1) (2 ^ x.2.1.length - 1) x.2.1) s.loft := by
  unfold drainPut
  dsimp only
  rw [List.take_length, loft_foldS_loftWrite, offBay_loft.countLoftWrite]

theorem getMxa_drainPut (s : Mach) (b : Fin 72) (ws : List (Nat × List Byte × Bool)) (n : Nat) :
    getMxa (drainPut s b ws n) b = getMxa s b := by
  have hpois (t : Mach) (c : Prop) [Decidable c] (o : Nat) (p : Bool) :
      getMxa (if c then t else setGranPois t b o p) b = getMxa t b := by split <;> rfl
  have hput (t : Mach) (o : Nat) (bs : List Byte) (p : Bool) : getMxa (loftWrite t b o bs p) b = getMxa t b := by
    unfold loftWrite loftPut
    dsimp only
    rw [foldS_keeps (getMxa · b) _ _ _ fun t x => hpois t _ _ _]
    show getMxa (if (getMov t b).moves = [] then t else catchUp t b) b = getMxa t b
    rw [apply_ite (getMxa · b), (offMov_getMxa b).catchUp, ite_self]
  unfold drainPut
  dsimp only
  rw [foldS_keeps (getMxa · b) _ _ _ fun t w => hput t _ _ _, (offMov_getMxa b).countLoftWrite]

theorem getMxa_orTflags (s : Mach) (b : Fin 72) (t f : Nat) : getMxa (orTflags s b t f) b = getMxa s b :=
  getMxa_modBay s b b _ fun _ => rfl

/-- What a drain without a token leaves when it completes. -/
theorem finishDrain_silent {s : Mach} {b : Nat} {d : Drain} (hsig : d.sig = false) : ∃ u : Mach,
    u = modMxa (bump (wr (drainPut (advanceEdge s b d.fin) b (drainWrites (getMxa s b) d).1 (drainWrites (getMxa s b) d).1.length)
      .MXA_LASTFLAGS b 0 (BitVec.ofNat 64 ((drainWrites (getMxa s b) d).2 ||| (getMxa s b).accFlags.getD d.bank 0)))
      .MXA_PASSES b 0 63 0 1) b (fun m => { m with drains := m.drains.filter (fun x => decide (x ≠ d)) }) ∧
    (finishDrain s b d = u ∨ ∃ t f, finishDrain s b d = orTflags u b t f) := by
  refine ⟨_, rfl, ?_⟩
  unfold finishDrain
  dsimp only
  rw [if_pos hsig]
  generalize (getSeq _ b).tid = o
  cases o with
  | none => exact Or.inl rfl
  | some t => exact Or.inr ⟨t, _, rfl⟩

theorem ends_mxaDrainComplete {s : State} {b : BayNo} {bank : Fin 2} {d : Drain} (hdrains : (getMxa s.mach b).drains = [d])
    (hbank : d.bank = bank) (hsig : d.sig = false) :
    Ends (.mxaDrainComplete b bank) s (fun m => (getMxa m b).drains = [] ∧ m.mem = s.mach.mem ∧
      rg m .MXA_LASTFLAGS b 0 = BitVec.ofNat 64 ((drainWrites (getMxa s.mach b) d).2 ||| (getMxa s.mach b).accFlags.getD bank 0) ∧
      m.loft = (drainWrites (getMxa s.mach b) d).1.foldl
        (fun l x => writeMasked l (loftIx b x.1) (2 ^ x.2.1.length - 1) x.2.1) s.mach.loft) := by
  refine ⟨_, rfl, ?_⟩
  dsimp only
  unfold drainComplete
  rw [hdrains, List.find?_cons_of_pos (by simp [hbank])]
  dsimp only
  obtain ⟨u, hu, hd⟩ := finishDrain_silent (s := s.mach) (b := b) hsig
  have hmem : (finishDrain s.mach b d).mem = s.mach.mem := outer_mem.finishDrain _ _ _
  have hurest : getMxa (finishDrain s.mach b d) b = getMxa u b ∧ (finishDrain s.mach b d).csr = u.csr ∧
      (finishDrain s.mach b d).loft = u.loft := by
    rcases hd with hd | ⟨t, f, hd⟩
    · rw [hd]
      exact ⟨rfl, rfl, rfl⟩
    · rw [hd]
      exact ⟨getMxa_orTflags u b t f, rfl, rfl⟩
  obtain ⟨hmxa, hcsr, hloft⟩ := hurest
  refine ⟨?_, hmem, ?_, ?_⟩
  · rw [hmxa, hu, getMxa_modMxa, mxa_of_units (units_bump _ _ _ _ _ _ _), mxa_of_units (units_wr _ _ _ _ _), getMxa_drainPut]
    show (getMxa s.mach b).drains.filter _ = []
    rw [hdrains]
    simp
  · rw [rg_of_csr hcsr, hu, modMxa, rg_modBay, bump, rg_wf_apart, rg_wr, hbank]
    simp only [RegRef.addr, RegName.info, Blk.base]
    omega
  · rw [hloft, hu, offBay_loft.modMxa, loft_of_units (units_bump _ _ _ _ _ _ _), wr_loft, loft_drainPut]
    rfl

/-! ### Requests of threads -/

theorem ends_mxaFlexRequest {s : State} {b : BayNo} {q : MxaReq} {rest : List MxaReq} {win : FlexWin}
    (hq : (getMxa s.mach b).flexq = q :: rest) (hdrains : (getMxa s.mach b).drains = []) (hwin : (getSeq s.mach b).win = some win)
    (hfit : max (edgeOf s.mach b) (max (max (getMxa s.mach b).streamEnd (getMxa s.mach b).loadEnd)
      ((getMxa s.mach b).termEnd.foldl max 0) + 1) + 9 ≤ win.last) :
    Ends (.mxaFlexRequest b) s (fun m => (getMxa m b).flexq = rest ∧ m.mem = s.mach.mem ∧ m.loft = s.mach.loft) := by
  have hrefused {β : Type} {g : Mach → β} (h : ∀ {s t : Mach}, s.units = t.units → g s = g t) (u : Mach) :
      g (reqRefused u b) = g u := h (by unfold reqRefused mxaErr; rw [units_raiseBay, units_recordFirst])
  have hflex (u : Mach) (p : Nat) (r : Line) (w : Slot) (x : Option (Option Nat)) :
      (getMxa (startDrain u b r w (passSteps w) p x) b).flexq = (getMxa u b).flexq := by
    unfold startDrain
    dsimp only
    rw [getMxa_modMxa, apply_ite (getMxa · b), getMxa_loftUse, ite_self]
  have hpass (u : Mach) (p : Nat) (r : Line) (w : Slot) (x : Option (Option Nat)) :
      (getMxa (runPass u b p r w x) b).flexq = (getMxa u b).flexq := by
    have hcourse (t : Mach) : (getMxa (modMxa (passWork (modMxa t b (Mxa.flipped w)) b p r w x) b (Mxa.timed p r w x)) b).flexq =
        (getMxa t b).flexq := by
      rw [getMxa_modMxa]
      calc _ = (getMxa (passWork (modMxa t b (Mxa.flipped w)) b p r w x) b).course.2.2 := rfl
        _ = _ := by rw [course_passWork, getMxa_modMxa]; rfl
    have hstart (t : Mach) (e : Nat) : (getMxa (startDrain t b r w (passRows r w) e x) b).flexq = (getMxa t b).flexq := by
      unfold startDrain
      dsimp only
      rw [getMxa_modMxa, apply_ite (getMxa · b), getMxa_loftUse, ite_self]
    rw [runPass_eq]
    dsimp only
    split
    · rw [hstart, hcourse]
    · exact hcourse u
  refine ⟨_, rfl, ?_⟩
  dsimp only
  unfold flexRequest
  dsimp only
  rw [hq, hwin]
  dsimp only
  rw [if_neg (by simp [hdrains]), if_neg (by omega)]
  split
  · refine ⟨?_, hrefused mem_of_units _, hrefused loft_of_units _⟩
    rw [hrefused (fun h => mxa_of_units h b), getMxa_modMxa]
  · split
    · refine ⟨?_, outer_mem.runPass _ _ _ _ _ _, offBay_loft.runPass _ _ _ _ _ _⟩
      rw [hpass, getMxa_modMxa]
    · refine ⟨?_, outer_mem.startDrain _ _ _ _ _ _ _, offBay_loft.startDrain _ _ _ _ _ _ _⟩
      rw [hflex, getMxa_modMxa]

/-- Settles O20. -/
theorem matrixArrayRuns : Obligations.MatrixArrayRuns :=
  ⟨fun _ _ _ _ hop hw hres hfence hr hok => ends_prof hop hw hres hfence hr hok,
   fun _ _ _ _ hop hw hdrains hprof hlegal hnodrain hhold hfence => ends_pass hop hw hdrains hprof hlegal hnodrain hhold hfence,
   fun _ _ _ _ hop hw hdrains hprof hlegal hsig hfence => ends_drain hop hw hdrains hprof hlegal hsig hfence,
   fun _ _ _ _ hdrains hbank hsig => ends_mxaDrainComplete hdrains hbank hsig,
   fun _ _ _ _ _ hq hdrains hwin hfit => ends_mxaFlexRequest hq hdrains hwin hfit⟩

end Sys2Proof.Machine
end

section
/-! The registers of the vector engine as units of 4,096 bits: the lanes read from a unit, and a result packed into one (R187, R189). -/

namespace Sys2Proof.Machine

/-! ### Digits of a packed unit -/

/-- Digit `l` of a number packed in base `n` from digit `k` on. -/
theorem digit_foldr_range' {n : Nat} {f : Nat → Nat} (hf : ∀ l, f l < n) (len k l : Nat) (hl : l < len) :
    (List.range' k len).foldr (fun l acc => acc * n + f l) 0 / n ^ l % n = f (k + l) := by
  have hn : 0 < n := Nat.lt_of_le_of_lt (Nat.zero_le _) (hf 0)
  induction len generalizing k l with
  | zero => omega
  | succ len ih =>
    rw [List.range'_succ, List.foldr_cons]
    cases l with
    | zero => rw [Nat.pow_zero, Nat.div_one, Nat.add_comm, Nat.add_mul_mod_self_right, Nat.mod_eq_of_lt (hf k), Nat.add_zero]
    | succ l =>
      have hdiv (x : Nat) : (x * n + f k) / n = x := by
        rw [Nat.mul_comm, Nat.mul_add_div hn, Nat.div_eq_of_lt (hf k), Nat.add_zero]
      rw [Nat.pow_succ', ← Nat.div_div_eq_div_mul, hdiv, ih (k + 1) l (by omega)]
      congr 1
      omega

theorem digit_foldr {n : Nat} {f : Nat → Nat} (hf : ∀ l, f l < n) (len l : Nat) (hl : l < len) :
    (List.range len).foldr (fun l acc => acc * n + f l) 0 / n ^ l % n = f l := by
  rw [List.range_eq_range', digit_foldr_range' hf len 0 l hl, Nat.zero_add]

/-- Lane `l` of a register read as a unit. -/
theorem lane_unit (x : Vxe) (r l : Nat) (hl : l < 128) :
    (List.range 128).foldr (fun l acc => acc * 2 ^ 32 + (vLane x r l).toNat) 0 / 2 ^ (l * 32) % 2 ^ 32 = (vLane x r l).toNat := by
  rw [Nat.mul_comm l, Nat.pow_mul]
  exact digit_foldr (fun l => (vLane x r l).isLt) 128 l hl

theorem poison_unit (x : Vxe) (r l : Nat) (hl : l < 128) :
    ((List.range 128).foldr (fun l acc => acc * 2 + (vLaneP x r l).toNat) 0).testBit l = vLaneP x r l := by
  rw [Nat.testBit_eq_decide_div_mod_eq, digit_foldr (f := fun l => (vLaneP x r l).toNat) (fun l => by cases vLaneP x r l <;> decide) 128 l hl]
  cases vLaneP x r l <;> rfl

/-! ### Operands -/

/-- What an operand specifier can name. -/
theorem vOp_cases (f : Nat) : (∃ n st, n < 64 ∧ vOp f = .reg n st) ∨ (∃ p, vOp f = .loft p) ∨ (∃ k, vOp f = .scal k) ∨
    vOp f = .none ∨ vOp f = .bad := by
  have h64 : f % 64 < 64 := Nat.mod_lt _ (by decide)
  unfold vOp
  split
  · exact Or.inl ⟨_, _, h64, rfl⟩
  · exact Or.inl ⟨_, _, h64, rfl⟩
  · split
    · exact Or.inr (Or.inl ⟨_, rfl⟩)
    · split
      · exact Or.inr (Or.inr (Or.inl ⟨_, rfl⟩))
      · exact Or.inr (Or.inr (Or.inr (Or.inr rfl)))
  · split
    · exact Or.inr (Or.inr (Or.inr (Or.inl rfl)))
    · exact Or.inr (Or.inr (Or.inr (Or.inr rfl)))

/-- A word's operand that is no loft pointer reads lane by lane. -/
theorem arg_eq {w : Slot} (h16 : is16 w = false) {f : Nat} (hf : (vOp f).isLoft = false) (s : Mach) (b l : Nat) (hl : l < 128) :
    arg s b w (vOp f) 0 l = laneArg (getVxe s b) (vOp f) l := by
  have hwidth : (if is16 w = true then 16 else 32) = 32 := if_neg (by simp [h16])
  have hreg (n : Nat) (st : Bool) (hn : n < 64) : arg s b w (.reg n st) 0 l = laneArg (getVxe s b) (.reg n st) l := by
    have hn' : (if st = true then (n + 0) % 64 else n) = n := by split <;> omega
    have hlane : (0 * 128 * 32 + l * 32) / 32 = l := by omega
    have hlane' : (0 * 128 * 32 + l * 32 + 32 - 1) / 32 = l := by omega
    unfold arg srcElem readUnit laneArg
    dsimp only
    rw [hwidth, hn', hlane, hlane', show 0 * 128 * 32 + l * 32 = l * 32 by omega, lane_unit _ _ _ hl,
      poison_unit _ _ _ hl, Bool.or_self]
  have hscal (k : Nat) : arg s b w (.scal k) 0 l = laneArg (getVxe s b) (.scal k) l := by
    unfold arg srcElem laneArg
    dsimp only
    rw [hwidth, Nat.mod_eq_of_lt (vScal _ k).isLt]
  have hempty (o : VOp) (ho : o = .none ∨ o = .bad) : arg s b w o 0 l = laneArg (getVxe s b) o l := by
    rcases ho with rfl | rfl <;> simp [arg, srcElem, readUnit, laneArg]
  rcases vOp_cases f with ⟨n, st, hn, ho⟩ | ⟨p, ho⟩ | ⟨k, ho⟩ | ho | ho
  · rw [ho]
    exact hreg n st hn
  · rw [ho] at hf
    cases hf
  · rw [ho]
    exact hscal k
  · exact hempty _ (Or.inl ho)
  · exact hempty _ (Or.inr ho)

/-! ### Packing -/

/-- Bit `k` of a unit into which one 32-bit element a lane has been packed. -/
structure Packed (n : Nat) (v : Nat → Nat) (p : Nat → Bool) (u : Nat × Nat × Nat) : Prop where
  bits : ∀ k, u.1.testBit k = (decide (k / 32 < n) && (v (k / 32)).testBit (k % 32))
  mask : ∀ k, u.2.1.testBit k = decide (k / 32 < n)
  pois : ∀ k, u.2.2.testBit k = (decide (k < n) && p k)

/-- The elements of a result, one a lane. -/
def laneEls (n : Nat) (v : Nat → Nat) (p : Nat → Bool) : List (Nat × Nat × Bool) := (List.range n).map (fun l => (l, v l, p l))

theorem testBit_field (x l k : Nat) : ((x % 2 ^ 32) * 2 ^ (32 * l)).testBit k = (decide (k / 32 = l) && x.testBit (k % 32)) := by
  rw [Nat.testBit_mul_two_pow, Nat.testBit_mod_two_pow]
  by_cases hk : k / 32 = l
  · have hle : 32 * l ≤ k := by omega
    have hsub : k - 32 * l = k % 32 := by omega
    have hlt : k % 32 < 32 := by omega
    simp [hk, hle, hsub, hlt]
  · by_cases hle : 32 * l ≤ k
    · have hge : ¬ k - 32 * l < 32 := by omega
      simp [hk, hge]
    · simp [hk, hle]

theorem packed_packEls (n : Nat) (v : Nat → Nat) (p : Nat → Bool) : Packed n v p (packEls 32 0 (laneEls n v p)) := by
  induction n with
  | zero => exact ⟨fun k => by simp [packEls, laneEls], fun k => by simp [packEls, laneEls], fun k => by simp [packEls, laneEls]⟩
  | succ n ih =>
    obtain ⟨hbits, hmask, hpois⟩ := ih
    have hstep : packEls 32 0 (laneEls (n + 1) v p) =
        ((packEls 32 0 (laneEls n v p)).1 ||| (v n % 2 ^ 32) * 2 ^ (32 * n),
         (packEls 32 0 (laneEls n v p)).2.1 ||| (2 ^ 32 - 1) * 2 ^ (32 * n),
         if p n then (packEls 32 0 (laneEls n v p)).2.2 ||| 2 ^ n else (packEls 32 0 (laneEls n v p)).2.2) := by
      have hpos : (0 + n * 32) / 32 = n := by omega
      have hpos' : (0 + n * 32 + 32 - 1) / 32 = n := by omega
      unfold packEls laneEls
      rw [List.range_succ, List.map_append, List.foldl_append, List.map_cons, List.map_nil, List.foldl_cons, List.foldl_nil]
      dsimp only
      rw [hpos, hpos', Nat.or_assoc, Nat.or_self, show 0 + n * 32 = 32 * n by omega]
    rw [hstep]
    refine ⟨fun k => ?_, fun k => ?_, fun k => ?_⟩
    · rw [Nat.testBit_or, hbits, testBit_field]
      by_cases hk : k / 32 = n
      · simp [hk]
      · have : (k / 32 < n + 1) = (k / 32 < n) := by apply propext; omega
        simp [hk, this]
    · have hfield : ((2 ^ 32 - 1) * 2 ^ (32 * n)).testBit k = _ := testBit_field (2 ^ 32 - 1) n k
      rw [Nat.testBit_or, hmask, hfield, Nat.testBit_two_pow_sub_one]
      by_cases hk : k / 32 = n
      · have : k % 32 < 32 := by omega
        simp [hk, this]
      · have : (k / 32 < n + 1) = (k / 32 < n) := by apply propext; omega
        simp [hk, this]
    · dsimp only
      by_cases hk : k = n
      · subst hk
        split <;> simp_all
      · have hk' : (k < n + 1) = (k < n) := by apply propext; omega
        have hne : ¬ n = k := fun h => hk h.symm
        split <;> simp [hpois, hk', hne]

/-- A packed lane read back. -/
theorem Packed.lane {n : Nat} {v : Nat → Nat} {p : Nat → Bool} {u : Nat × Nat × Nat} (h : Packed n v p u) {l : Nat} (hl : l < n) :
    BitVec.ofNat 32 (u.2.1 / 2 ^ (32 * l)) = BitVec.allOnes 32 ∧ BitVec.ofNat 32 (u.1 / 2 ^ (32 * l)) = BitVec.ofNat 32 (v l) ∧
      u.2.2.testBit l = p l := by
  obtain ⟨hbits, hmask, hpois⟩ := h
  have hfield (j : Nat) (hj : j < 32) : (32 * l + j) / 32 = l ∧ (32 * l + j) % 32 = j := by omega
  refine ⟨?_, ?_, ?_⟩
  · apply BitVec.eq_of_getLsbD_eq
    intro j hj
    obtain ⟨hd, -⟩ := hfield j hj
    rw [BitVec.getLsbD_ofNat, Nat.testBit_div_two_pow, hmask, Nat.add_comm, hd, BitVec.getLsbD_allOnes]
    simp [hl]
  · apply BitVec.eq_of_getLsbD_eq
    intro j hj
    obtain ⟨hd, hm⟩ := hfield j hj
    rw [BitVec.getLsbD_ofNat, Nat.testBit_div_two_pow, hbits, Nat.add_comm, hd, hm, BitVec.getLsbD_ofNat]
    simp [hl]
  · simp [hpois, hl]

/-- The lanes that a whole result writes. -/
theorem regEffs_packEls (r : Nat) (v : Nat → Nat) (p : Nat → Bool) : regEffs r (packEls 32 0 (laneEls 128 v p)) =
    (List.range 128).map (fun l => .lane r l (BitVec.ofNat 32 (v l)) (BitVec.allOnes 32) (p l)) := by
  unfold regEffs
  rw [← List.filterMap_eq_map]
  refine List.filterMap_congr fun l hl => ?_
  obtain ⟨hm, hv, hp⟩ := (packed_packEls 128 v p).lane (List.mem_range.1 hl)
  dsimp only
  rw [hm, hv, if_neg (by decide), hp]
  rfl

/-- A lane that a partial result writes. -/
theorem mem_regEffs_packEls (r : Nat) {n : Nat} (v : Nat → Nat) (p : Nat → Bool) {l : Nat} (hn : n ≤ 128) (hl : l < n) :
    VEff.lane r l (BitVec.ofNat 32 (v l)) (BitVec.allOnes 32) (p l) ∈ regEffs r (packEls 32 0 (laneEls n v p)) := by
  obtain ⟨hm, hv, hp⟩ := (packed_packEls n v p).lane hl
  refine List.mem_filterMap.2 ⟨l, List.mem_range.2 (by omega), ?_⟩
  dsimp only
  rw [hm, hv, if_neg (by decide), hp]

end Sys2Proof.Machine
end

section
/-! The frame of a word of the vector engine that makes one iteration under the full mask (R194 to R196): what stands in flight after
it. -/

namespace Sys2Proof.Machine

/-! ### The engine of a bay -/

theorem getVxe_modBay (s : Mach) (b : Fin 72) (c : Nat) (f : Bay → Bay) (hf : ∀ x, (f x).vxe = x.vxe) :
    getVxe (modBay s c f) b = getVxe s b := by
  unfold getVxe
  rw [getBay_modBay]
  split
  case isTrue hc => rw [hf, hc.1]
  case isFalse => rfl

theorem getVxe_modVxe (s : Mach) (b : Fin 72) (f : Vxe → Vxe) : getVxe (modVxe s b f) b = f (getVxe s b) := by
  unfold getVxe modVxe
  rw [getBay_modBay_fin]

theorem vxe_of_units {s t : Mach} (h : s.units = t.units) (b : Fin 72) : getVxe s b = getVxe t b := by
  have e := congrArg (fun x => (getBay x b).vxe) h
  simpa [getBay_units, getVxe] using e

theorem offMov_getVxe (b : Fin 72) : OffMov (getVxe · b) :=
  ⟨fun h => vxe_of_units h b, fun s c _ => getVxe_modBay s b c _ fun _ => rfl⟩

theorem getVxe_opDone (s : Mach) (b : Fin 72) (k : Nat) : getVxe (opDone s b k) b = getVxe s b := getVxe_modBay s b b _ fun _ => rfl

theorem getVxe_loftUse (s : Mach) (b : Fin 72) (u : LoftUse) : getVxe (loftUse s b u) b = getVxe s b := by
  unfold loftUse
  split
  · rfl
  · exact getVxe_modBay s b b _ fun _ => rfl

/-- With nothing in flight nothing lands. -/
theorem vFlush_none {s : Mach} {b : Nat} (h : (getVxe s b).flight = []) (t : Nat) : vFlush s b t = s := by
  unfold vFlush
  rw [h]
  rfl

/-! ### What a word leaves but its writes -/

theorem OffBay.vxeUses {β : Type} {g : Mach → β} (h : OffBay g) (s : Mach) (b p : Nat) (l : List (Nat × Nat)) (ws : List VWrite) :
    g (vxeUses s b p l ws) = g s := by
  unfold Machine.vxeUses
  dsimp only
  rw [foldS_keeps g _ _ _ fun t w => foldS_keeps g _ _ _ fun u e => by split; exacts [h.loftUse u b _, rfl], h.loftUse]

theorem getVxe_vxeUses (s : Mach) (b : Fin 72) (p : Nat) (l : List (Nat × Nat)) (ws : List VWrite) :
    getVxe (vxeUses s b p l ws) b = getVxe s b := by
  unfold vxeUses
  dsimp only
  rw [foldS_keeps (getVxe · b) _ _ _ fun t w => foldS_keeps (getVxe · b) _ _ _ fun u e => by
    split; exacts [getVxe_loftUse u b _, rfl], getVxe_loftUse]

theorem apart_vxeUses (s : Mach) (b p : Nat) (l : List (Nat × Nat)) (ws : List VWrite) : (vxeUses s b p l ws).apart b = s.apart b := by
  unfold vxeUses
  dsimp only
  rw [foldS_keeps (Mach.apart · b) _ _ _ fun t w => foldS_keeps (Mach.apart · b) _ _ _ fun u e => by
    split; exacts [apart_loftUse u b _, rfl], apart_loftUse]

theorem units_vCount (s : Mach) (b n i : Nat) : (vCount s b n i).units = s.units := by
  unfold vCount
  rw [units_bumpAo, units_countEv]

/-- The package in which a word has been counted, its loft accesses noted, and the poison of its masks in VXE_STATUS. -/
def vNoted (b : Nat) (w : Slot) (n : Nat) (r : VRun) (ws : List VWrite) (p : Bool) (s : Mach) : Mach :=
  let t := vCount s b n (wRep w + 1)
  let t := if r.rd = 0 then t else countLoftRead t b r.rd
  let t := vxeUses t b (getStream s b 2).issued r.reads ws
  wb t .VXE_STATUS b 0 2 p

section
variable (b : Fin 72) (w : Slot) (n : Nat) (r : VRun) (ws : List VWrite) (p : Bool) (s : Mach)

theorem apart_vNoted : (vNoted b w n r ws p s).apart b = s.apart b := by
  have hread (t : Mach) : (if r.rd = 0 then t else countLoftRead t b r.rd).apart b = t.apart b := by
    split
    · rfl
    · exact apart_of_units (by unfold countLoftRead; rw [units_bumpAo, units_countEv]) b
  unfold vNoted
  dsimp only
  rw [apart_wb, apart_vxeUses, hread, apart_of_units (units_vCount _ _ _ _)]

theorem getVxe_vNoted : getVxe (vNoted b w n r ws p s) b = getVxe s b := by
  have hread (t : Mach) : getVxe (if r.rd = 0 then t else countLoftRead t b r.rd) b = getVxe t b := by
    split
    · rfl
    · exact (offMov_getVxe b).countLoftRead t b _
  unfold vNoted
  dsimp only
  rw [vxe_of_units (units_wb _ _ _ _ _ _), getVxe_vxeUses, hread, vxe_of_units (units_vCount _ _ _ _)]

theorem loft_vNoted : (vNoted b w n r ws p s).loft = s.loft := by
  have hread (t : Mach) : (if r.rd = 0 then t else countLoftRead t b r.rd).loft = t.loft := by
    split
    · rfl
    · exact offBay_loft.countLoftRead t b _
  unfold vNoted
  dsimp only
  rw [loft_of_units (units_wb _ _ _ _ _ _), offBay_loft.vxeUses, hread, loft_of_units (units_vCount _ _ _ _)]

end

/-! ### The frame -/

/-- The engine once a word of these writes is in flight. -/
def Vxe.launched (ws : List VWrite) (x : Vxe) : Vxe := { x with flight := ws, words := x.words + 1 }

/-- A legal word of one iteration that no token awaits, with nothing in flight, the span long enough and its run not refused. -/
theorem vWord_eq {s : Mach} {b : Fin 72} {op : Nat} {w : Slot} {legal : Bool} {ii : Nat} {lanes : Mach → Nat}
    {body : Mach → Nat → Nat → VRun} {r : VRun} (hw : VxeOne s b op w) (hlegal : legal = true) (hspan : ii ≤ slotHold w + 1)
    (hr : body (opDone s b 2) ((getVxe s b).words + 1) (getStream s b 2).issued = r) (hbad : r.bad = none) :
    ∃ p, vWord b w legal ii lanes body (opDone s b 2) =
      modVxe (vNoted b w (lanes (opDone s b 2)) r (closeWord r.writes none) p (opDone s b 2)) b (fun x =>
        { x with flight := x.flight ++ closeWord r.writes none, words := (getVxe s b).words + 1, ptr := (getVxe r.view b).ptr }) := by
  obtain ⟨⟨hop, hword, hflight⟩, hrep, hsig, hmsk⟩ := hw
  have hflight' : (getVxe (opDone s b 2) b).flight = [] := by rw [getVxe_opDone]; exact hflight
  have hissued : (getStream (opDone s b 2) b 2).issued = (getStream s b 2).issued := issued_opDone s b 2 2
  unfold vWord
  dsimp only
  rw [vFlush_none hflight', hlegal, hsig, if_neg (by decide), hrep, if_neg (by omega), if_pos rfl, getVxe_opDone, hissued, hr]
  dsimp only
  rw [hbad, hflight]
  dsimp only
  rw [if_neg (by simp [loftEdges]), if_pos rfl]
  unfold vNoted
  dsimp only
  rw [hissued, hrep]
  exact ⟨_, rfl⟩

/-- What the state then holds: nothing apart from the bay changes, and the engine has the word's writes in flight. -/
theorem vWord_launches {s : Mach} {b : Fin 72} {op : Nat} {w : Slot} {legal : Bool} {ii : Nat} {lanes : Mach → Nat}
    {body : Mach → Nat → Nat → VRun} {r : VRun} (hw : VxeOne s b op w) (hlegal : legal = true) (hspan : ii ≤ slotHold w + 1)
    (hr : body (opDone s b 2) ((getVxe s b).words + 1) (getStream s b 2).issued = r) (hbad : r.bad = none) :
    (vWord b w legal ii lanes body (opDone s b 2)).apart b = s.apart b ∧
    (vWord b w legal ii lanes body (opDone s b 2)).loft = s.loft ∧
    getVxe (vWord b w legal ii lanes body (opDone s b 2)) b = { getVxe s b with
      flight := closeWord r.writes none, words := (getVxe s b).words + 1, ptr := (getVxe r.view b).ptr } := by
  obtain ⟨p, hp⟩ := vWord_eq (lanes := lanes) hw hlegal hspan hr hbad
  rw [hp]
  refine ⟨?_, ?_, ?_⟩
  · rw [modVxe, apart_modBay, apart_vNoted, apart_opDone]
  · rw [offBay_loft.modVxe, loft_vNoted]
    rfl
  · rw [getVxe_modVxe, getVxe_vNoted, getVxe_opDone, hw.1.2.2, List.nil_append]

/-- The only write of a word is its last. -/
theorem closeWord_single (x : VWrite) (sig : Option Nat) :
    closeWord [x] sig = [{ x with fin := true, sig := sig, pois := x.effs.any VEff.isPois }] := by
  unfold closeWord
  simp [List.range_succ]

/-- A word of one write puts it. -/
theorem vWord_puts {s : Mach} {b : Fin 72} {op lat : Nat} {w : Slot} {legal : Bool} {ii : Nat} {lanes : Mach → Nat}
    {body : Mach → Nat → Nat → VRun} {r : VRun} {effs : List VEff} {P : List VEff → Prop} (hw : VxeOne s b op w) (hlegal : legal = true)
    (hspan : ii ≤ slotHold w + 1) (hr : body (opDone s b 2) ((getVxe s b).words + 1) (getStream s b 2).issued = r) (hbad : r.bad = none)
    (hwrites : r.writes = [vWrite ((getVxe s b).words + 1) ((getStream s b 2).issued + lat - 1) effs])
    (hptr : (getVxe r.view b).ptr = (getVxe s b).ptr) (hP : P effs) :
    VxePuts s (vWord b w legal ii lanes body (opDone s b 2)) b lat P := by
  obtain ⟨hapart, -, hvxe⟩ := vWord_launches (lanes := lanes) hw hlegal hspan hr hbad
  rw [hwrites, closeWord_single, hptr] at hvxe
  exact ⟨hapart, _, hvxe, rfl, rfl, rfl, hP⟩

/-! ### Runs of one iteration -/

/-- No operand of the word is in the loft. -/
def NoLoft (srcs : List (VOp × Nat × Nat)) : Prop := ∀ o ∈ srcs, o.1.isLoft = false

theorem source_of_notLoft {o : VOp} (h : o.isLoft = false) (r : VRun) (b n : Nat) : r.source b o n = r := by
  cases o with
  | loft p => cases h
  | reg | scal | none | bad => rfl

theorem step_of_notLoft {o : VOp} (h : o.isLoft = false) (r : VRun) (b P i : Nat) : r.step b o P i = r := by
  cases o with
  | loft p => cases h
  | reg | scal | none | bad => exact ite_self _

theorem foldl_eq_self {α β : Type} {f : β → α → β} {l : List α} (h : ∀ r, ∀ x ∈ l, f r x = r) (r : β) : l.foldl f r = r := by
  induction l with
  | nil => rfl
  | cons x l ih => rw [List.foldl_cons, h r x List.mem_cons_self, ih fun r y hy => h r y (List.mem_cons_of_mem x hy)]

/-- The run of a word of one iteration without loft operands delivers what the iteration computes from the state as it stands. -/
theorem iterRun_one {b : Nat} {w : Slot} {lat ii : Nat} {srcs : List (VOp × Nat × Nat)} {d : VOp} {out : Mach → Nat → IterOut} {s : Mach}
    {word p : Nat} (hrep : wRep w = 0) (hsrcs : NoLoft srcs) (hd : d.isLoft = false) (hflight : (getVxe s b).flight = []) :
    iterRun b w lat ii srcs d out s word p = (vRun0 s).deliver b word (p + lat - 1) d (out s 0) 0 true := by
  have hany : anyLoft srcs = false := by
    unfold anyLoft
    rw [List.any_eq_false]
    exact fun o ho => by simp [hsrcs o ho]
  have hsource (r : VRun) : srcs.foldl (fun r o => if 0 % o.2.1 = 0 then r.source b o.1 o.2.2 else r) r = r :=
    foldl_eq_self (fun r o ho => by rw [source_of_notLoft (hsrcs o ho), ite_self]) r
  have hstep (r : VRun) : srcs.foldl (fun r x => r.step b x.1 x.2.1 0) r = r :=
    foldl_eq_self (fun r o ho => step_of_notLoft (hsrcs o ho) r b _ _) r
  have hview : ({ vRun0 s with view := vFlush (vRun0 s).view b (iterAt p ii 0) } : VRun) = vRun0 s := by
    rw [show vFlush (vRun0 s).view b (iterAt p ii 0) = s from vFlush_none hflight _]
    rfl
  unfold iterRun
  rw [hrep]
  show List.foldl _ _ [0] = _
  rw [List.foldl_cons, List.foldl_nil]
  dsimp only
  rw [hview, hsource, hstep, step_of_notLoft hd, hany, if_neg (by decide), show iterAt p ii 0 = p by simp [iterAt]]
  rfl

/-- What a run gains when an iteration of 32-bit elements goes to one register. -/
theorem deliver_reg (r : VRun) (b word edge d : Nat) (st : Bool) (hd : st = true → d < 64) (o : IterOut) (hw : o.w = 32) (hq : o.q = 0) :
    ∃ q, r.deliver b word edge (.reg d st) o 0 true = q ∧ q.bad = r.bad ∧
      q.writes = r.writes ++ [vWrite word edge (regEffs d (packEls 32 0 o.els) ++ (o.effs ++ o.flags.map (fun f => VEff.flags f.1 f.2)))] ∧
      ∃ l, q.view = modVxe r.view b (fun x => { x with flight := x.flight ++ l }) := by
  have hreg : (if st = true then (d + 0 / o.P) % 64 else d) = d := by
    split
    case isTrue h => rw [Nat.zero_div, Nat.add_zero, Nat.mod_eq_of_lt (hd h)]
    case isFalse => rfl
  refine ⟨_, rfl, ?_⟩
  unfold VRun.deliver
  dsimp only
  rw [hreg, hw, hq, if_neg (by decide), Nat.zero_mul]
  exact ⟨rfl, rfl, _, rfl⟩

/-- The effects of an iteration without a destination register. -/
theorem deliver_none (s : Mach) (b word edge : Nat) (o : IterOut) :
    ∃ r, (vRun0 s).deliver b word edge .none o 0 true = r ∧ r.bad = none ∧
      r.writes = [vWrite word edge (o.effs ++ o.flags.map (fun f => VEff.flags f.1 f.2))] ∧
      r.view = modVxe s b (fun x => { x with flight := x.flight ++ [vWrite word edge (o.effs ++
        o.flags.map (fun f => VEff.flags f.1 f.2))] }) := ⟨_, rfl, rfl, rfl, rfl⟩

/-- A word of one iteration into a register, without loft operands. -/
theorem vWord_reg {s : Mach} {b : Fin 72} {op lat d : Nat} {w : Slot} {legal : Bool} {ii : Nat} {lanes : Mach → Nat}
    {srcs : List (VOp × Nat × Nat)} {out : Mach → Nat → IterOut} {P : List VEff → Prop} (hw : VxeOne s b op w) (hlegal : legal = true)
    (hspan : ii ≤ slotHold w + 1) (hsrcs : NoLoft srcs) (how : (out (opDone s b 2) 0).w = 32) (hoq : (out (opDone s b 2) 0).q = 0)
    (hP : P (regEffs d (packEls 32 0 (out (opDone s b 2) 0).els) ++ ((out (opDone s b 2) 0).effs ++
      (out (opDone s b 2) 0).flags.map (fun f => VEff.flags f.1 f.2)))) :
    VxePuts s (vWord b w legal ii lanes (iterRun b w lat ii srcs (.reg d false) out) (opDone s b 2)) b lat P := by
  obtain ⟨⟨hop, hword, hflight⟩, hrep, hsig, hmsk⟩ := id hw
  have hflight' : (getVxe (opDone s b 2) b).flight = [] := by rw [getVxe_opDone]; exact hflight
  obtain ⟨r, hr, hbad, hwrites, l, hview⟩ := deliver_reg (vRun0 (opDone s b 2)) b ((getVxe s b).words + 1)
    ((getStream s b 2).issued + lat - 1) d false (fun h => absurd h (by decide)) (out (opDone s b 2) 0) how hoq
  refine vWord_puts hw hlegal hspan ((iterRun_one hrep hsrcs rfl hflight').trans hr) hbad hwrites ?_ hP
  rw [hview, getVxe_modVxe]
  show (getVxe (opDone s b 2) b).ptr = _
  rw [getVxe_opDone]

/-- The same for a word without a destination register. -/
theorem vWord_none {s : Mach} {b : Fin 72} {op lat : Nat} {w : Slot} {legal : Bool} {ii : Nat} {lanes : Mach → Nat}
    {srcs : List (VOp × Nat × Nat)} {out : Mach → Nat → IterOut} {P : List VEff → Prop} (hw : VxeOne s b op w) (hlegal : legal = true)
    (hspan : ii ≤ slotHold w + 1) (hsrcs : NoLoft srcs)
    (hP : P ((out (opDone s b 2) 0).effs ++ (out (opDone s b 2) 0).flags.map (fun f => VEff.flags f.1 f.2))) :
    VxePuts s (vWord b w legal ii lanes (iterRun b w lat ii srcs .none out) (opDone s b 2)) b lat P := by
  obtain ⟨⟨hop, hword, hflight⟩, hrep, hsig, hmsk⟩ := id hw
  have hflight' : (getVxe (opDone s b 2) b).flight = [] := by rw [getVxe_opDone]; exact hflight
  obtain ⟨r, hr, hbad, hwrites, hview⟩ := deliver_none (opDone s b 2) b ((getVxe s b).words + 1) ((getStream s b 2).issued + lat - 1)
    (out (opDone s b 2) 0)
  refine vWord_puts hw hlegal hspan ((iterRun_one hrep hsrcs rfl hflight').trans hr) hbad hwrites ?_ hP
  rw [hview, getVxe_modVxe, getVxe_opDone]

/-! ### Elements under the full mask -/

theorem readMask_full (x : Vxe) (i : Nat) : readMask x 0 i = (BitVec.allOnes 128, false) := rfl

theorem getLsbD_full {l : Nat} (h : l < 128) : (BitVec.allOnes 128).getLsbD l = true := by
  rw [BitVec.getLsbD_allOnes, decide_eq_true h]

theorem zipIdx_map_range {α : Type} (f : Nat → α) (n : Nat) : ((List.range n).map f).zipIdx = (List.range n).map (fun l => (f l, l)) := by
  apply List.ext_getElem
  · simp
  · intro i h h'
    simp

/-- Under the full mask an iteration of 32-bit elements gives each lane its element. -/
theorem maskedOut_full {w : Slot} (hmsk : wMsk w = 0) (s : Mach) (b : Nat) (el : Nat → ERes) :
    maskedOut s b w 0 1 32 0 1 el =
    { w := 32, q := 0, P := 1, els := laneEls 128 (fun l => (el l).1) (fun l => (el l).2.2),
      flags := ((List.range 128).filter (fun l => decide ((el l).2.1 ≠ 0))).map (fun l => (l, (el l).2.1)), effs := [] } := by
  have hlanes : (List.range 128).map (fun l =>
      if (BitVec.allOnes 128).getLsbD l then
        let es := (List.range 1).map (fun h => let e := 1 * l + h; (e, el e))
        (es.map (fun e => (e.1, e.2.1, e.2.2.2 || false)), es.foldl (fun f e => f ||| e.2.2.1) 0)
      else if wMz w then ((List.range 1).map (fun h => (1 * l + h, 0, false)), 0)
      else ([], 0)) = (List.range 128).map (fun l => ([(l, (el l).1, (el l).2.2)], (el l).2.1)) := by
    refine List.map_congr_left fun l hl => ?_
    rw [if_pos (getLsbD_full (List.mem_range.1 hl))]
    simp [List.range_succ]
  unfold maskedOut
  rw [hmsk, readMask_full]
  dsimp only
  rw [hlanes, zipIdx_map_range, List.filter_map, List.map_map, List.flatMap_map]
  simp only [Function.comp_def, ← List.map_eq_flatMap, laneEls]

/-- The lanes that an iteration under the full mask gives a register. -/
theorem lanes_of_maskedOut {w : Slot} (hmsk : wMsk w = 0) (s : Mach) (b d : Nat) (el : Nat → ERes) {f : Nat → Nat × Nat × Bool}
    (hf : ∀ l < 128, el l = f l) : regEffs d (packEls 32 0 (maskedOut s b w 0 1 32 0 1 el).els) ++ ((maskedOut s b w 0 1 32 0 1 el).effs ++
      (maskedOut s b w 0 1 32 0 1 el).flags.map (fun f => VEff.flags f.1 f.2)) = laneEffs d f := by
  rw [maskedOut_full hmsk]
  dsimp only
  rw [regEffs_packEls, List.nil_append, List.map_map]
  unfold laneEffs
  congr 1
  · exact List.map_congr_left fun l hl => by rw [hf l (List.mem_range.1 hl)]
  · rw [List.filter_congr (q := fun l => decide ((f l).2.1 ≠ 0)) fun l hl => by rw [hf l (List.mem_range.1 hl)]]
    refine List.map_congr_left fun l hl => ?_
    rw [Function.comp_apply, hf l (List.mem_range.1 (List.mem_filter.1 hl).1)]

end Sys2Proof.Machine
end

section
/-! Words of the vector engine that compute lane by lane: integer operations, approximate functions and floating-point arithmetic
(R199, R207, R208). -/

namespace Sys2Proof.Machine

/-! ### Words of the elementwise kind -/

/-- A command that carries out a word of the engine in issue. -/
theorem ends_onVxe {c : Instr} {s : State} {b : BayNo} {op : Nat} {w : Slot} {f : Slot → Mach → Mach} {P : Mach → Prop}
    (hc : exec c s = onMach s (fun s => onSlot s b 2 1 op f)) (hw : VxeWord s.mach b op w) (hP : P (f w (opDone s.mach b 2))) :
    Ends c s P := by
  obtain ⟨hop, hword, -⟩ := hw
  refine ⟨_, hc, ?_⟩
  dsimp only
  rw [onSlot_of_ready hop, hword]
  exact hP

theorem noLoft_srcs32 {l : List VOp} (h : ∀ o ∈ l, o.isLoft = false) : NoLoft (srcs32 l) := by
  intro o ho
  obtain ⟨x, hx, rfl⟩ := List.mem_map.1 ho
  exact h x hx

/-- A word of 32-bit lanes in issue gives each lane of its register what it computes there. -/
theorem elemWord_puts {s : Mach} {b : Fin 72} {op lat d ii : Nat} {w : Slot} {legal : Bool} {srcs : List VOp}
    {el : Mach → Nat → (Nat → ERes)} {f : Nat → Nat × Nat × Bool} (h : VxeLanes s b op w d ii legal)
    (hsrcs : ∀ o ∈ srcs, o.isLoft = false) (hel : ∀ l < 128, el (opDone s b 2) 0 l = f l) :
    VxePuts s (elemWord b w legal lat ii srcs el (opDone s b 2)) b lat (fun es => es = laneEffs d f) := by
  obtain ⟨hw, h16, hd, -, -, -, hspan, hlegal⟩ := h
  have hmsk : wMsk w = 0 := hw.2.2.2
  unfold elemWord
  rw [h16]
  dsimp only
  rw [if_neg (by decide), if_neg (by decide), hd]
  refine vWord_reg hw (by rw [hlegal]; rfl) hspan (noLoft_srcs32 hsrcs) ?_ ?_ (lanes_of_maskedOut hmsk _ _ _ _ hel)
  · rw [maskedOut_full hmsk]
  · rw [maskedOut_full hmsk]

section
variable {s : Mach} {b : Fin 72} {op lat d ii : Nat} {w : Slot} {legal : Bool} (h : VxeLanes s b op w d ii legal)
include h

theorem arg_opA (l : Nat) (hl : l < 128) : arg (opDone s b 2) b w (opA w) 0 l = laneArg (getVxe s b) (opA w) l := by
  obtain ⟨-, h16, -, hA, -⟩ := h
  exact (arg_eq h16 hA _ _ _ hl).trans (by rw [getVxe_opDone]; rfl)

theorem arg_opB (l : Nat) (hl : l < 128) : arg (opDone s b 2) b w (opB w) 0 l = laneArg (getVxe s b) (opB w) l := by
  obtain ⟨-, h16, -, -, hB, -⟩ := h
  exact (arg_eq h16 hB _ _ _ hl).trans (by rw [getVxe_opDone]; rfl)

theorem arg_opC (l : Nat) (hl : l < 128) : arg (opDone s b 2) b w (opC w) 0 l = laneArg (getVxe s b) (opC w) l := by
  obtain ⟨-, h16, -, -, -, hC, -⟩ := h
  exact (arg_eq h16 hC _ _ _ hl).trans (by rw [getVxe_opDone]; rfl)

theorem elemWord_el1 (f : Nat → Nat → Nat → Nat × Nat) :
    VxePuts s (elemWord b w legal lat ii [opA w] (fun u i => el1 b w (f i) u i) (opDone s b 2)) b lat
      (fun es => es = laneEffs d (lanes1 (getVxe s b) w (f 0))) := by
  have hA : (opA w).isLoft = false := h.2.2.2.1
  refine elemWord_puts h (by simpa using hA) fun l hl => ?_
  unfold el1 lanes1
  dsimp only
  rw [arg_opA h l hl]

theorem elemWord_el2 (f : Nat → Nat → Nat → Nat → Nat × Nat) :
    VxePuts s (elemWord b w legal lat ii [opA w, opB w] (fun u i => el2 b w (f i) u i) (opDone s b 2)) b lat
      (fun es => es = laneEffs d (lanes2 (getVxe s b) w (f 0))) := by
  have hA : (opA w).isLoft = false := h.2.2.2.1
  have hB : (opB w).isLoft = false := h.2.2.2.2.1
  refine elemWord_puts h (by simpa using ⟨hA, hB⟩) fun l hl => ?_
  unfold el2 lanes2
  dsimp only
  rw [arg_opA h l hl, arg_opB h l hl]

theorem elemWord_el3 (f : Nat → Nat → Nat → Nat → Nat → Nat × Nat) :
    VxePuts s (elemWord b w legal lat ii [opA w, opB w, opC w] (fun u i => el3 b w (f i) u i) (opDone s b 2)) b lat
      (fun es => es = laneEffs d (lanes3 (getVxe s b) w (f 0))) := by
  have hA : (opA w).isLoft = false := h.2.2.2.1
  have hB : (opB w).isLoft = false := h.2.2.2.2.1
  have hC : (opC w).isLoft = false := h.2.2.2.2.2.1
  refine elemWord_puts h (by simpa using ⟨hA, hB, hC⟩) fun l hl => ?_
  unfold el3 lanes3
  dsimp only
  rw [arg_opA h l hl, arg_opB h l hl, arg_opC h l hl]

end

/-! ### Integer operations and approximate functions -/

theorem ends_doInt {c : Instr} {s : State} {b : BayNo} {op lat d : Nat} {w : Slot} {f : BitVec 32 → BitVec 32 → BitVec 32}
    (hc : exec c s = onMach s (fun s => onSlot s b 2 1 op (doInt b lat f)))
    (h : VxeLanes s.mach b op w d 1 (VUse.ok { fmt := true } w && fmtI w && aAndB w)) :
    Ends c s (fun m => VxePuts s.mach m b lat (fun es => es = laneEffs d (lanes2 (getVxe s.mach b) w
      (fun _ x y => ((f (BitVec.ofNat 32 x) (BitVec.ofNat 32 y)).toNat, 0))))) :=
  ends_onVxe hc h.1.1 (elemWord_el2 h fun _ _ x y => ((f (BitVec.ofNat 32 x) (BitVec.ofNat 32 y)).toNat, 0))

/-- The issue interval of a function of 32-bit lanes. -/
theorem iiFun_32 {w : Slot} (h : is16 w = false) : iiFun w = 1 := by unfold iiFun; rw [h]; rfl

theorem iiDiv_32 {w : Slot} (h : is16 w = false) : iiDiv w = 4 := by unfold iiDiv; rw [h]; rfl

theorem ends_doFun {c : Instr} {s : State} {b : BayNo} {op lat d : Nat} {w : Slot}
    (hc : exec c s = onMach s (fun s => onSlot s b 2 1 op (doFun b op lat)))
    (h : VxeLanes s.mach b op w d 1 (VUse.ok { fmt := true, rm := true } w && fmtF w && onlyA w)) :
    Ends c s (fun m => VxePuts s.mach m b lat (fun es => es = laneEffs d (lanes1 (getVxe s.mach b) w
      (fun l a => approxOp op w 0 l a)))) := by
  refine ends_onVxe hc h.1.1 ?_
  unfold doFun doArith1
  rw [iiFun_32 h.2.1]
  exact elemWord_el1 h (approxOp op w)

/-- Settles O21. -/
theorem vectorIntegerAndFunctionLanes : Obligations.VectorIntegerAndFunctionLanes := by
  unfold Obligations.VectorIntegerAndFunctionLanes
  have hint (c : BayNo → Instr) (op lat : Nat) (f : BitVec 32 → BitVec 32 → BitVec 32)
      (hc : ∀ b s, exec (c b) s = onMach s (fun s => onSlot s b 2 1 op (doInt b lat f))) (s : State) (b : BayNo) (w : Slot) (d : Nat)
      (h : VxeLanes s.mach b op w d 1 (VUse.ok { fmt := true } w && fmtI w && aAndB w)) :
      Ends (c b) s (fun m => VxePuts s.mach m b lat (fun es => es = laneEffs d (lanes2 (getVxe s.mach b) w
        (fun _ x y => ((f (BitVec.ofNat 32 x) (BitVec.ofNat 32 y)).toNat, 0))))) := ends_doInt (hc b s) h
  have hfun (c : BayNo → Instr) (op lat : Nat) (hc : ∀ b s, exec (c b) s = onMach s (fun s => onSlot s b 2 1 op (doFun b op lat)))
      (s : State) (b : BayNo) (w : Slot) (d : Nat)
      (h : VxeLanes s.mach b op w d 1 (VUse.ok { fmt := true, rm := true } w && fmtF w && onlyA w)) :
      Ends (c b) s (fun m => VxePuts s.mach m b lat (fun es => es = laneEffs d (lanes1 (getVxe s.mach b) w
        (fun l a => approxOp op w 0 l a)))) := ends_doFun (hc b s) h
  exact ⟨⟨hint .iadd 0x20 1 (fun a c => a + c) fun _ _ => rfl,
    hint .isub 0x21 1 (fun a c => a - c) fun _ _ => rfl,
    hint .imul 0x22 2 (fun a c => a * c) fun _ _ => rfl,
    hint .imin 0x23 1 (fun a c => if a.toInt ≤ c.toInt then a else c) fun _ _ => rfl,
    hint .imax 0x24 1 (fun a c => if a.toInt ≤ c.toInt then c else a) fun _ _ => rfl,
    hint .and 0x25 1 (fun a c => a &&& c) fun _ _ => rfl,
    hint .or 0x26 1 (fun a c => a ||| c) fun _ _ => rfl,
    hint .xor 0x27 1 (fun a c => a ^^^ c) fun _ _ => rfl,
    hint .shl 0x28 1 (fun a c => a <<< (c.toNat % 32)) fun _ _ => rfl,
    hint .shr 0x29 1 (fun a c => a >>> (c.toNat % 32)) fun _ _ => rfl,
    hint .sra 0x2A 1 (fun a c => a.sshiftRight (c.toNat % 32)) fun _ _ => rfl⟩,
    hfun .rcp 0x15 6 fun _ _ => rfl,
    hfun .rsqrt 0x16 6 fun _ _ => rfl,
    hfun .exp2 0x17 8 fun _ _ => rfl,
    hfun .exp 0x18 10 fun _ _ => rfl,
    hfun .log2 0x19 8 fun _ _ => rfl,
    hfun .log 0x1A 10 fun _ _ => rfl,
    hfun .tanh 0x1B 12 fun _ _ => rfl,
    hfun .sigm 0x1C 12 fun _ _ => rfl,
    hfun .erf 0x1D 12 fun _ _ => rfl,
    hfun .sin 0x1E 14 fun _ _ => rfl,
    hfun .cos 0x1F 14 fun _ _ => rfl⟩

/-! ### Floating-point arithmetic -/

theorem ends_doArith2 {c : Instr} {s : State} {b : BayNo} {op lat ii d : Nat} {w : Slot} {f : Slot → Val → Val → Val × Nat}
    {g : Slot → Nat} (hc : exec c s = onMach s (fun s => onSlot s b 2 1 op (fun w => doArith2 b lat (g w) f w)))
    (hg : is16 w = false → g w = ii)
    (h : VxeLanes s.mach b op w d ii (VUse.ok { fmt := true, rm := true } w && fmtF w && aAndB w)) :
    Ends c s (fun m => VxePuts s.mach m b lat (fun es => es = laneEffs d (lanes2 (getVxe s.mach b) w
      (fun l x y => rounded w 0 l (f w (fDec w x) (fDec w y)))))) := by
  refine ends_onVxe hc h.1.1 ?_
  unfold doArith2
  rw [hg h.2.1]
  exact elemWord_el2 h fun i => arith2 w i (f w)

theorem ends_doArith3 {c : Instr} {s : State} {b : BayNo} {op d : Nat} {w : Slot} {f : Slot → Val → Val → Val → Val × Nat}
    (hc : exec c s = onMach s (fun s => onSlot s b 2 1 op (doArith3 b f)))
    (h : VxeLanes s.mach b op w d 1 (VUse.ok { fmt := true, rm := true } w && fmtF w && (opA w).isSrc && (opB w).isSrc &&
        (opC w).isSrc && oneLoft w)) :
    Ends c s (fun m => VxePuts s.mach m b 4 (fun es => es = laneEffs d (lanes3 (getVxe s.mach b) w
      (fun l x y z => rounded w 0 l (f w (fDec w x) (fDec w y) (fDec w z)))))) :=
  ends_onVxe hc h.1.1 (elemWord_el3 h fun i e a c g => rounded w i e (f w (fDec w a) (fDec w c) (fDec w g)))

theorem ends_doArith1 {c : Instr} {s : State} {b : BayNo} {op lat ii d : Nat} {w : Slot} {rm : Bool}
    {f : Slot → Nat → Nat → Nat → Nat × Nat} {g : Slot → Nat}
    (hc : exec c s = onMach s (fun s => onSlot s b 2 1 op (fun w => doArith1 b rm lat (g w) f w))) (hg : is16 w = false → g w = ii)
    (h : VxeLanes s.mach b op w d ii (VUse.ok { fmt := true, rm := rm } w && fmtF w && onlyA w)) :
    Ends c s (fun m => VxePuts s.mach m b lat (fun es => es = laneEffs d (lanes1 (getVxe s.mach b) w (f w 0)))) := by
  refine ends_onVxe hc h.1.1 ?_
  unfold doArith1
  rw [hg h.2.1]
  exact elemWord_el1 h (f w)

theorem ends_doMinMax {c : Instr} {s : State} {b : BayNo} {op d : Nat} {w : Slot} {big : Bool}
    (hc : exec c s = onMach s (fun s => onSlot s b 2 1 op (doMinMax b big)))
    (h : VxeLanes s.mach b op w d 1 (VUse.ok { fmt := true } w && fmtF w && aAndB w)) :
    Ends c s (fun m => VxePuts s.mach m b 2 (fun es => es = laneEffs d (lanes2 (getVxe s.mach b) w
      (fun _ x y => minMax (wFloat w) big x y)))) :=
  ends_onVxe hc h.1.1 (elemWord_el2 h fun _ _ a c => minMax (wFloat w) big a c)

/-- Settles O22. -/
theorem vectorFloatLanes : Obligations.VectorFloatLanes := by
  unfold Obligations.VectorFloatLanes
  have htwo (c : BayNo → Instr) (op lat ii : Nat) (f : Slot → Val → Val → Val × Nat) (g : Slot → Nat)
      (hc : ∀ b s, exec (c b) s = onMach s (fun s => onSlot s b 2 1 op (fun w => doArith2 b lat (g w) f w)))
      (hg : ∀ w, is16 w = false → g w = ii) (s : State) (b : BayNo) (w : Slot) (d : Nat)
      (h : VxeLanes s.mach b op w d ii (VUse.ok { fmt := true, rm := true } w && fmtF w && aAndB w)) :
      Ends (c b) s (fun m => VxePuts s.mach m b lat (fun es => es = laneEffs d (lanes2 (getVxe s.mach b) w
        (fun l x y => rounded w 0 l (f w (fDec w x) (fDec w y)))))) := ends_doArith2 (hc b s) (hg w) h
  have hthree (c : BayNo → Instr) (op : Nat) (f : Slot → Val → Val → Val → Val × Nat)
      (hc : ∀ b s, exec (c b) s = onMach s (fun s => onSlot s b 2 1 op (doArith3 b f))) (s : State) (b : BayNo) (w : Slot) (d : Nat)
      (h : VxeLanes s.mach b op w d 1 (VUse.ok { fmt := true, rm := true } w && fmtF w && (opA w).isSrc && (opB w).isSrc &&
        (opC w).isSrc && oneLoft w)) :
      Ends (c b) s (fun m => VxePuts s.mach m b 4 (fun es => es = laneEffs d (lanes3 (getVxe s.mach b) w
        (fun l x y z => rounded w 0 l (f w (fDec w x) (fDec w y) (fDec w z)))))) := ends_doArith3 (hc b s) h
  have hone (c : BayNo → Instr) (op lat ii : Nat) (rm : Bool) (f : Slot → Nat → Nat → Nat → Nat × Nat) (g : Slot → Nat)
      (hc : ∀ b s, exec (c b) s = onMach s (fun s => onSlot s b 2 1 op (fun w => doArith1 b rm lat (g w) f w)))
      (hg : ∀ w, is16 w = false → g w = ii) (s : State) (b : BayNo) (w : Slot) (d : Nat)
      (h : VxeLanes s.mach b op w d ii (VUse.ok { fmt := true, rm := rm } w && fmtF w && onlyA w)) :
      Ends (c b) s (fun m => VxePuts s.mach m b lat (fun es => es = laneEffs d (lanes1 (getVxe s.mach b) w (f w 0)))) :=
    ends_doArith1 (hc b s) (hg w) h
  have hpick (c : BayNo → Instr) (op : Nat) (big : Bool)
      (hc : ∀ b s, exec (c b) s = onMach s (fun s => onSlot s b 2 1 op (doMinMax b big))) (s : State) (b : BayNo) (w : Slot) (d : Nat)
      (h : VxeLanes s.mach b op w d 1 (VUse.ok { fmt := true } w && fmtF w && aAndB w)) :
      Ends (c b) s (fun m => VxePuts s.mach m b 2 (fun es => es = laneEffs d (lanes2 (getVxe s.mach b) w
        (fun _ x y => minMax (wFloat w) big x y)))) := ends_doMinMax (hc b s) h
  exact ⟨htwo .add 0x08 3 1 (fun w a c => addVal (wRm w) a c) (fun _ => 1) (fun _ _ => rfl) fun _ _ => rfl,
    htwo .sub 0x09 3 1 (fun w a c => addVal (wRm w) a c.negate) (fun _ => 1) (fun _ _ => rfl) fun _ _ => rfl,
    htwo .mul 0x0A 3 1 (fun _ a c => mulVal a c) (fun _ => 1) (fun _ _ => rfl) fun _ _ => rfl,
    htwo .div 0x13 14 4 (fun _ a c => divVal a c) iiDiv (fun _ _ => rfl) fun _ => iiDiv_32,
    hthree .fma 0x0B (fun w a c g => fmaVal (wRm w) a c g) fun _ _ => rfl,
    hthree .fms 0x0C (fun w a c g => fmaVal (wRm w) a c g.negate) fun _ _ => rfl,
    hthree .fnma 0x0D (fun w a c g => fmaVal (wRm w) a.negate c g) fun _ _ => rfl,
    hpick .min 0x0E false fun _ _ => rfl,
    hpick .max 0x0F true fun _ _ => rfl,
    hone .abs 0x10 1 1 false (signOp (fun _ => false)) (fun _ => 1) (fun _ _ => rfl) fun _ _ => rfl,
    hone .neg 0x11 1 1 false (signOp (fun v => !v.sign)) (fun _ => 1) (fun _ _ => rfl) fun _ _ => rfl,
    hone .rint 0x12 3 1 true rintOp (fun _ => 1) (fun _ _ => rfl) fun _ _ => rfl,
    hone .sqrt 0x14 14 4 true (fun w i e a => rounded w i e (sqrtVal (fDec w a))) iiDiv (fun _ _ => rfl) fun _ => iiDiv_32⟩

end Sys2Proof.Machine
end

section
/-! Words of the vector engine that move data (R197 to R203). -/

namespace Sys2Proof.Machine

/-! ### Words without iterations -/

theorem singleWord_puts {s : Mach} {b : Fin 72} {op lat : Nat} {w : Slot} {effs : Vxe → List VEff} {P : List VEff → Prop}
    (hw : VxeWord s b op w) (hP : P (effs (getVxe s b))) : VxePuts s (singleWord b lat effs (opDone s b 2)) b lat P := by
  obtain ⟨-, -, hflight⟩ := hw
  have hflight' : (getVxe (opDone s b 2) b).flight = [] := by rw [getVxe_opDone]; exact hflight
  have hissued : (getStream (opDone s b 2) b 2).issued = (getStream s b 2).issued := issued_opDone s b 2 2
  unfold singleWord
  dsimp only
  rw [vFlush_none hflight', hissued, getVxe_opDone]
  refine ⟨?_, ?_⟩
  · rw [modVxe, apart_modBay, apart_opDone]
  · rw [getVxe_modVxe, getVxe_opDone, hflight]
    exact ⟨_, rfl, rfl, rfl, rfl, hP⟩

theorem ends_setp {s : State} {b : BayNo} {w : Slot} (hw : VxeWord s.mach b 0x01 w) (hres : reservedClear w [(103, 42)] = true) :
    Ends (.setp b) s (fun m => VxePuts s.mach m b 1 (fun es => es =
      [.ptr (fld w 103 100) { base := fld w 99 81, stride := sext 20 (fld w 80 61), wrap := fld w 60 42, cursor := 0 }])) := by
  refine ends_onVxe (f := doSetp b) rfl hw ?_
  unfold doSetp
  rw [if_neg (by simp [hres])]
  exact singleWord_puts hw rfl

theorem ends_sets_value {s : State} {b : BayNo} {w : Slot} (hw : VxeWord s.mach b 0x02 w)
    (hres : reservedClear w [(103, 96), (52, 45), (38, 0)] = true) (hkind : fld w 99 96 = 0) :
    Ends (.sets b) s (fun m => VxePuts s.mach m b 1 (fun es => es = [.scalar (fld w 103 100) (BitVec.ofNat 32 (fld w 31 0)) false])) := by
  refine ends_onVxe (f := doSets b) rfl hw ?_
  unfold doSets
  dsimp only
  rw [if_neg (by simp [hres]), hkind]
  exact singleWord_puts hw rfl

theorem ends_sets_lane {s : State} {b : BayNo} {w : Slot} (hw : VxeWord s.mach b 0x02 w)
    (hres : reservedClear w [(103, 96), (52, 45), (38, 0)] = true) (hkind : fld w 99 96 = 1) (hreg : fld w 52 45 < 64) :
    Ends (.sets b) s (fun m => VxePuts s.mach m b 2 (fun es => es = [.scalar (fld w 103 100)
      (vLane (getVxe s.mach b) (fld w 52 45) (fld w 38 32)) (vLaneP (getVxe s.mach b) (fld w 52 45) (fld w 38 32))])) := by
  refine ends_onVxe (f := doSets b) rfl hw ?_
  unfold doSets
  dsimp only
  rw [if_neg (by simp [hres]), hkind, if_pos hreg]
  exact singleWord_puts hw rfl

theorem ends_sets_token {s : State} {b : BayNo} {w : Slot} (hw : VxeWord s.mach b 0x02 w)
    (hres : reservedClear w [(103, 96), (52, 45), (38, 0)] = true) (hkind : fld w 99 96 = 2) (hreg : fld w 103 100 < 4) :
    Ends (.sets b) s (fun m => VxePuts s.mach m b 1 (fun es => es =
      [.token (fld w 103 100) (BitVec.ofNat 32 (fld w 31 0))])) := by
  refine ends_onVxe (f := doSets b) rfl hw ?_
  unfold doSets
  dsimp only
  rw [if_neg (by simp [hres]), hkind, if_pos hreg]
  exact singleWord_puts hw rfl

/-! ### Moves lane by lane -/

theorem ends_iota {s : State} {b : BayNo} {w : Slot} {d : Nat}
    (h : VxeLanes s.mach b 0x03 w d 1 (VUse.ok { fmt := true, imm := 29 } w && fmtI w && noSrc w)) :
    Ends (.iota b) s (fun m => VxePuts s.mach m b 1 (fun es => es = laneEffs d (fun l => ((wImm w + l) % 2 ^ 32, 0, false)))) :=
  ends_onVxe (f := doIota b) rfl h.1.1 (elemWord_puts h (by simp) fun _ _ => by simp)

theorem ends_mov {s : State} {b : BayNo} {w : Slot} {d : Nat}
    (h : VxeLanes s.mach b 0x04 w d 1 (VUse.ok { fmt := true } w && fmt32 w && onlyA w)) :
    Ends (.mov b) s (fun m => VxePuts s.mach m b 1 (fun es => es = laneEffs d (lanes1 (getVxe s.mach b) w (fun _ a => (a, 0))))) :=
  ends_onVxe (f := doMov b) rfl h.1.1 (elemWord_el1 h fun _ _ a => (a, 0))

theorem ends_perm {s : State} {b : BayNo} {w : Slot} {d : Nat}
    (h : VxeLanes s.mach b 0x07 w d 1 (VUse.ok { fmt := true } w && fmt32 w && aAndB w)) :
    Ends (.perm b) s (fun m => VxePuts s.mach m b 2 (fun es => es = laneEffs d (fun l =>
      let c := laneArg (getVxe s.mach b) (opB w) l
      let a := laneArg (getVxe s.mach b) (opA w) (c.1 % 128)
      (a.1, 0, a.2 || c.2)))) := by
  have hA : (opA w).isLoft = false := h.2.2.2.1
  have hB : (opB w).isLoft = false := h.2.2.2.2.1
  refine ends_onVxe (f := doPerm b) rfl h.1.1 (elemWord_puts h (by simpa using ⟨hA, hB⟩) fun l hl => ?_)
  dsimp only
  rw [arg_opB h l hl, arg_opA h _ (Nat.mod_lt _ (by decide))]

/-- A result that gives each lane of a unit its element, raising no flag, under the full mask. -/
theorem lanes_of_els (d : Nat) (f : Nat → Nat × Bool) (effs : List VEff) :
    regEffs d (packEls 32 0 ((List.range 128).map (fun l => (l, f l)))) ++ (effs ++ ([] : List (Nat × Nat)).map (fun f => VEff.flags f.1 f.2)) =
      laneEffs d (fun l => ((f l).1, 0, (f l).2)) ++ effs := by
  have hels : (List.range 128).map (fun l => (l, f l)) = laneEls 128 (fun l => (f l).1) (fun l => (f l).2) := rfl
  have hflags : (List.range 128).filter (fun _ => decide ((0 : Nat) ≠ 0)) = [] := by simp
  unfold laneEffs
  dsimp only
  rw [hels, regEffs_packEls, hflags, List.map_nil, List.map_nil, List.append_nil, List.append_nil]

theorem ends_sel {s : State} {b : BayNo} {w : Slot} {d : Nat}
    (h : VxeLanes s.mach b 0x05 w d 1 (VUse.ok { fmt := true } w && fmt32 w && aAndB w && !wMz w)) :
    Ends (.sel b) s (fun m => VxePuts s.mach m b 1 (fun es => es = laneEffs d (lanes1 (getVxe s.mach b) w (fun _ a => (a, 0))))) := by
  obtain ⟨hw, -, hd, hA, hB, -, hspan, hlegal⟩ := id h
  have hmsk : wMsk w = 0 := hw.2.2.2
  refine ends_onVxe (f := doSel b) rfl hw.1 ?_
  unfold doSel
  rw [hd]
  refine vWord_reg hw (by rw [hlegal]; rfl) hspan (noLoft_srcs32 (by simpa using ⟨hA, hB⟩)) rfl rfl ?_
  have hels : (List.range 128).map (fun l =>
      let e := if (BitVec.allOnes 128).getLsbD l then arg (opDone s.mach b 2) b w (opA w) 0 l else arg (opDone s.mach b 2) b w (opB w) 0 l
      (l, e.1, e.2 || false)) = (List.range 128).map (fun l => (l, laneArg (getVxe s.mach b) (opA w) l)) := by
    refine List.map_congr_left fun l hl => ?_
    have hl : l < 128 := List.mem_range.1 hl
    dsimp only
    rw [if_pos (getLsbD_full hl), arg_opA h l hl, Bool.or_false]
  dsimp only
  rw [hmsk, readMask_full]
  dsimp only at hels ⊢
  rw [hels, List.nil_append]
  exact lanes_of_els d _ []

/-! ### Conversion -/

/-- A format of 32-bit elements has no shared scale. -/
theorem notMX_of_bits {c : Nat} (h : elemBits c = 32) : isMX c = false := by
  by_contra hmx
  obtain ⟨h8, h13⟩ : 8 ≤ c ∧ c ≤ 13 := by simpa [isMX] using hmx
  interval_cases c <;> exact absurd h (by decide)

theorem ends_cvt {s : State} {b : BayNo} {w : Slot} {d : Nat} (h : VxeLanes s.mach b 0x06 w d 1 (cvtLegal w))
    (hin : elemBits (wFmt w) = 32) (hout : elemBits (wOfmt w) = 32) (hB : opB w = .none) :
    Ends (.cvt b) s (fun m => VxePuts s.mach m b 3 (fun es => es = laneEffs d (lanes1 (getVxe s.mach b) w
      (fun l a => encodeElem (wOfmt w) (cvtRnd w 0 l) (decodeElem (wFmt w) a))))) := by
  obtain ⟨hw, h16, hd, hA, -, -, hspan, hlegal⟩ := id h
  have hmsk : wMsk w = 0 := hw.2.2.2
  have hval (l : Nat) (hl : l < 128) : cvtVal (opDone s.mach b 2) b w 0 l =
      ((decodeElem (wFmt w) (laneArg (getVxe s.mach b) (opA w) l).1, 0), (laneArg (getVxe s.mach b) (opA w) l).2) := by
    have harg : srcElem (opDone s.mach b 2) b (opA w) 0 32 0 l = laneArg (getVxe s.mach b) (opA w) l := by
      rw [← arg_opA h l hl]
      unfold arg
      rw [h16]
      rfl
    unfold cvtVal
    dsimp only
    rw [hin, notMX_of_bits hin, if_pos hB, show vP 32 = 1 from rfl, harg]
    simp
  refine ends_onVxe (f := doCvt b) rfl hw.1 ?_
  unfold doCvt
  dsimp only
  rw [hd, notMX_of_bits hout, if_neg (by decide), hin]
  have hel (l : Nat) (hl : l < 128) : (fun l =>
      let x := cvtVal (opDone s.mach b 2) b w 0 l
      let o := encodeElem (wOfmt w) (cvtRnd w 0 l) x.1.1
      ((o.1, x.1.2 ||| o.2, x.2) : ERes)) l = lanes1 (getVxe s.mach b) w
        (fun l a => encodeElem (wOfmt w) (cvtRnd w 0 l) (decodeElem (wFmt w) a)) l := by
    dsimp only
    rw [hval l hl, Nat.zero_or]
    rfl
  have hcvt : cvtOut b w (opDone s.mach b 2) 0 = maskedOut (opDone s.mach b 2) b w 0 1 32 0 1 (fun l =>
      let x := cvtVal (opDone s.mach b 2) b w 0 l
      let o := encodeElem (wOfmt w) (cvtRnd w 0 l) x.1.1
      (o.1, x.1.2 ||| o.2, x.2)) := by
    unfold cvtOut
    dsimp only
    rw [hout]
    rfl
  refine vWord_reg hw hlegal hspan ?_ ?_ ?_ ?_
  · intro o ho
    rcases List.mem_cons.1 ho with rfl | ho
    · exact hA
    · obtain rfl := List.mem_singleton.1 ho
      rw [hB]
      rfl
  · rw [hcvt, maskedOut_full hmsk]
  · rw [hcvt, maskedOut_full hmsk]
  · rw [hcvt]
    exact lanes_of_maskedOut hmsk _ _ _ _ hel

/-! ### WINNOW and RESOW -/

theorem is16_of_fmt32 {w : Slot} (h : fmt32 w = true) : is16 w = false := by
  unfold fmt32 kINT32 at h
  unfold is16
  simp at h ⊢
  omega

/-- A register that a specifier names. -/
theorem reg_lt {f n : Nat} {st : Bool} (h : vOp f = .reg n st) : n < 64 := by
  rcases vOp_cases f with ⟨m, q, hm, ho⟩ | ⟨p, ho⟩ | ⟨k, ho⟩ | ho | ho
  · rw [ho] at h
    cases h
    exact hm
  all_goals
    rw [ho] at h
    cases h

theorem ends_winnow {s : State} {b : BayNo} {w : Slot} {d n : Nat} (hw : VxeOne s.mach b 0x2D w) (hd : opD w = .reg d true)
    (ha : opA w = .reg n false) (hlegal : (VUse.ok { fmt := true, sub := true, imm := 4 } w && fmt32 w && onlyA w) = true)
    (hsub : wSub w = 0) :
    Ends (.winnow b) s (fun m => VxePuts s.mach m b 4 (fun es => es =
      laneEffs d (lanes1 (getVxe s.mach b) w (fun _ a => (a, 0))) ++ [.scalar (wImm w % 16) 128 false])) := by
  obtain ⟨⟨hop, hword, hflight⟩, hrep, hsig, hmsk⟩ := id hw
  have hflight' : (getVxe (opDone s.mach b 2) b).flight = [] := by rw [getVxe_opDone]; exact hflight
  have h16 : is16 w = false := is16_of_fmt32 (by simp only [Bool.and_eq_true] at hlegal; exact hlegal.1.2)
  have hA : (opA w).isLoft = false := by rw [ha]; rfl
  have harg (l : Nat) (hl : l < 128) : arg (opDone s.mach b 2) b w (opA w) 0 l = laneArg (getVxe s.mach b) (opA w) l :=
    (arg_eq h16 hA _ _ _ hl).trans (by rw [getVxe_opDone]; rfl)
  have htake : winnowTake b w (opDone s.mach b 2) (getStream s.mach b 2).issued =
      { vRun0 (opDone s.mach b 2) with elems := (List.range 128).map (laneArg (getVxe s.mach b) (opA w)) } := by
    have hes : ((List.range 128).filter (fun l => (BitVec.allOnes 128).getLsbD l)).map (fun l =>
        (if wSub w = 1 then (128 * 0 + l) % 2 ^ 32 else (arg (opDone s.mach b 2) b w (opA w) 0 l).1,
          (arg (opDone s.mach b 2) b w (opA w) 0 l).2 || false)) = (List.range 128).map (laneArg (getVxe s.mach b) (opA w)) := by
      rw [List.filter_eq_self.2 fun l hl => getLsbD_full (List.mem_range.1 hl)]
      refine List.map_congr_left fun l hl => ?_
      rw [harg l (List.mem_range.1 hl), hsub, if_neg (by decide), Bool.or_false]
    unfold winnowTake
    rw [hrep]
    show List.foldl _ _ [0] = _
    rw [List.foldl_cons, List.foldl_nil]
    dsimp only
    rw [step_of_notLoft hA, source_of_notLoft hA, show (vRun0 (opDone s.mach b 2)).view = opDone s.mach b 2 from rfl,
      vFlush_none hflight', hmsk, readMask_full]
    dsimp only at hes ⊢
    rw [hes]
    rfl
  have hels (F : Nat → Option (Nat × Nat × Bool)) (hF : ∀ j < 128, F j = some (j, laneArg (getVxe s.mach b) (opA w) j)) :
      (List.range 128).filterMap F = (List.range 128).map (fun l => (l, laneArg (getVxe s.mach b) (opA w) l)) :=
    (List.filterMap_congr (g := some ∘ fun l => (l, laneArg (getVxe s.mach b) (opA w) l)) fun j hj => hF j (List.mem_range.1 hj)).trans
      (congrFun List.filterMap_eq_map _)
  refine ends_onVxe (f := doWinnow b) rfl hw.1 ?_
  unfold doWinnow
  have hrun : winnowRun b w (opDone s.mach b 2) ((getVxe s.mach b).words + 1) (getStream s.mach b 2).issued =
      ({ vRun0 (opDone s.mach b 2) with elems := (List.range 128).map (laneArg (getVxe s.mach b) (opA w)) } : VRun).deliver b
        ((getVxe s.mach b).words + 1) ((getStream s.mach b 2).issued + 4 - 1) (.reg d true)
        { IterOut.none with els := (List.range 128).map (fun l => (l, laneArg (getVxe s.mach b) (opA w) l)),
                            effs := [.scalar (wImm w % 16) 128 false] } 0 true := by
    have hmask : (List.range 1).any (fun i => (readMask (getVxe (opDone s.mach b 2) b) 0 i).2) = false := by simp [readMask_full]
    unfold winnowRun
    dsimp only
    rw [htake, hrep, ha, hmsk, hmask, hd]
    show List.foldl _ _ [0] = _
    rw [List.foldl_cons, List.foldl_nil]
    dsimp only
    rw [step_of_notLoft rfl]
    rw [ha] at hels
    rw [hels _ fun j hj => by simp [hj]]
    simp [VOp.isLoft]
  obtain ⟨q, hq, hbad, hwrites, l, hview⟩ := deliver_reg
    ({ vRun0 (opDone s.mach b 2) with elems := (List.range 128).map (laneArg (getVxe s.mach b) (opA w)) } : VRun) b
    ((getVxe s.mach b).words + 1) ((getStream s.mach b 2).issued + 4 - 1) d true (fun _ => reg_lt hd)
    { IterOut.none with els := (List.range 128).map (fun l => (l, laneArg (getVxe s.mach b) (opA w) l)),
                        effs := [.scalar (wImm w % 16) 128 false] } rfl rfl
  refine vWord_puts hw (by rw [hlegal, hd, hsub]; rfl) (by omega) (hrun.trans hq) hbad hwrites ?_ (lanes_of_els d _ _)
  rw [hview, getVxe_modVxe]
  show (getVxe (opDone s.mach b 2) b).ptr = _
  rw [getVxe_opDone]

/-- Positions that each take the next element, all of them unmasked. -/
theorem resow_full (es : List (Nat × Bool)) (m : BitVec 128) (mz : Bool) (n : Nat) (hm : ∀ l < n, m.getLsbD l = true) :
    (List.range n).foldl (fun (acc : Nat × List (Nat × Nat × Bool)) l =>
      if m.getLsbD l then
        let e := es.getD acc.1 (0, false)
        (acc.1 + 1, acc.2 ++ [(l, e.1, e.2 || false)])
      else (acc.1, if mz then acc.2 ++ [(l, 0, false)] else acc.2)) (0, []) =
    (n, (List.range n).map (fun l => (l, es.getD l (0, false)))) := by
  induction n with
  | zero => rfl
  | succ n ih =>
    rw [List.range_succ, List.foldl_append, ih fun l hl => hm l (by omega), List.map_append, List.foldl_cons, List.foldl_nil,
      if_pos (hm n (by omega))]
    simp

theorem ends_resow {s : State} {b : BayNo} {w : Slot} {d n : Nat} (hw : VxeOne s.mach b 0x2E w) (hd : opD w = .reg d false)
    (ha : opA w = .reg n true) (hlegal : (VUse.ok { fmt := true } w && fmt32 w && onlyA w) = true) :
    Ends (.resow b) s (fun m => VxePuts s.mach m b 4 (fun es => es =
      laneEffs d (lanes1 (getVxe s.mach b) w (fun _ a => (a, 0))))) := by
  obtain ⟨⟨hop, hword, hflight⟩, hrep, hsig, hmsk⟩ := id hw
  have hflight' : (getVxe (opDone s.mach b 2) b).flight = [] := by rw [getVxe_opDone]; exact hflight
  have h16 : is16 w = false := is16_of_fmt32 (by simp only [Bool.and_eq_true] at hlegal; exact hlegal.1.2)
  have hA : (opA w).isLoft = false := by rw [ha]; rfl
  have hunit : (List.range 128).map (arg (opDone s.mach b 2) b w (opA w) 0) = (List.range 128).map (laneArg (getVxe s.mach b) (opA w)) :=
    List.map_congr_left fun l hl => (arg_eq h16 hA _ _ _ (List.mem_range.1 hl)).trans (by rw [getVxe_opDone]; rfl)
  have hels : (List.range 128).map (fun l => (l, ((List.range 128).map (laneArg (getVxe s.mach b) (opA w))).getD l (0, false))) =
      (List.range 128).map (fun l => (l, laneArg (getVxe s.mach b) (opA w) l)) :=
    List.map_congr_left fun l hl => by simp [List.mem_range.1 hl]
  refine ends_onVxe (f := doResow b) rfl hw.1 ?_
  unfold doResow
  have hrun : resowRun b w (opDone s.mach b 2) ((getVxe s.mach b).words + 1) (getStream s.mach b 2).issued =
      ({ vRun0 (opDone s.mach b 2) with elems := (List.range 128).map (laneArg (getVxe s.mach b) (opA w)), used := 128 } : VRun).deliver b
        ((getVxe s.mach b).words + 1) ((getStream s.mach b 2).issued + 4 - 1) (.reg d false)
        { IterOut.none with els := (List.range 128).map (fun l => (l, laneArg (getVxe s.mach b) (opA w) l)) } 0 true := by
    unfold resowRun
    dsimp only
    rw [hrep]
    show List.foldl _ _ [0] = _
    rw [List.foldl_cons, List.foldl_nil]
    rw [hd, step_of_notLoft rfl, step_of_notLoft hA, source_of_notLoft hA,
      show (vRun0 (opDone s.mach b 2)).view = opDone s.mach b 2 from rfl, vFlush_none hflight', hmsk, readMask_full]
    rw [hunit, hA]
    dsimp only [vRun0]
    rw [List.nil_append, resow_full _ _ _ _ fun l => getLsbD_full]
    dsimp only
    rw [hels]
    simp
  obtain ⟨q, hq, hbad, hwrites, l, hview⟩ := deliver_reg
    ({ vRun0 (opDone s.mach b 2) with elems := (List.range 128).map (laneArg (getVxe s.mach b) (opA w)), used := 128 } : VRun) b
    ((getVxe s.mach b).words + 1) ((getStream s.mach b 2).issued + 4 - 1) d false (fun h => absurd h (by decide))
    { IterOut.none with els := (List.range 128).map (fun l => (l, laneArg (getVxe s.mach b) (opA w) l)) } rfl rfl
  refine vWord_puts hw (by rw [hlegal, hd, ha]; rfl) (by omega) (hrun.trans hq) hbad hwrites ?_
    ((lanes_of_els d _ _).trans (List.append_nil _))
  rw [hview, getVxe_modVxe]
  show (getVxe (opDone s.mach b 2) b).ptr = _
  rw [getVxe_opDone]

/-- Settles O23. -/
theorem vectorMoves : Obligations.VectorMoves :=
  ⟨fun _ _ _ hw hres => ends_setp hw hres, fun _ _ _ hw hres hkind => ends_sets_value hw hres hkind,
   fun _ _ _ hw hres hkind hreg => ends_sets_lane hw hres hkind hreg, fun _ _ _ hw hres hkind hreg => ends_sets_token hw hres hkind hreg,
   fun _ _ _ _ h => ends_iota h, fun _ _ _ _ h => ends_mov h, fun _ _ _ _ h => ends_sel h, fun _ _ _ _ h => ends_perm h,
   fun _ _ _ _ h hin hout hB => ends_cvt h hin hout hB, fun _ _ _ _ _ hw hd ha hlegal hsub => ends_winnow hw hd ha hlegal hsub,
   fun _ _ _ _ _ hw hd ha hlegal => ends_resow hw hd ha hlegal⟩

end Sys2Proof.Machine
end

section
/-! Masks, reductions and anchored accumulators of the vector engine (R199, R200, R204 to R206, R210). -/

namespace Sys2Proof.Machine

/-! ### Operands of words without a destination register -/

/-- Lane `l` of an operand of a word of one iteration in issue. -/
theorem arg_one {s : Mach} {b : Fin 72} {w : Slot} (h16 : is16 w = false) {f l : Nat} (hf : (vOp f).isLoft = false) (hl : l < 128) :
    arg (opDone s b 2) b w (vOp f) 0 l = laneArg (getVxe s b) (vOp f) l :=
  (arg_eq h16 hf _ _ _ hl).trans (by rw [getVxe_opDone])

theorem noLoft_nil : NoLoft [] := fun _ ho => absurd ho List.not_mem_nil

/-! ### Masks -/

theorem writeMask_reg {d : Nat} (hd : d < 8) (v m : BitVec 128) (p : Bool) : writeMask d 0 v m p = [.mask d v m p] := by
  unfold writeMask
  rw [if_pos (by omega), Nat.mod_eq_of_lt hd]

/-- Under the full mask a mask register takes every bit. -/
theorem maskResult_full {w : Slot} (hd : wD w < 8) (v : BitVec 128) (p : Bool) :
    maskResult w 0 (BitVec.allOnes 128, false) v p = [.mask (wD w) v (BitVec.allOnes 128) p] := by
  unfold maskResult
  dsimp only
  rw [ite_self, writeMask_reg hd, BitVec.and_allOnes, Bool.or_false]

theorem readMask_reg (x : Vxe) {f : Nat} (hf : f < 8) : readMask x f 0 = (vMask x f, vMaskP x f) := by
  unfold readMask
  rw [if_pos (by omega), Nat.mod_eq_of_lt hf]

theorem maskLegal_reg {f : Nat} (hf : f < 8) : maskLegal f false = true := by
  unfold maskLegal
  rw [if_pos hf]
  rfl

/-- Bits summed one after another. -/
theorem bits_foldl (g : Nat → Bool) (n : Nat) : (List.range n).foldl (fun v l => if g l then v + 2 ^ l else v) 0 < 2 ^ n ∧
    ∀ l, ((List.range n).foldl (fun v l => if g l then v + 2 ^ l else v) 0).testBit l = (decide (l < n) && g l) := by
  induction n with
  | zero => exact ⟨by simp, fun l => by simp⟩
  | succ n ih =>
    obtain ⟨hlt, hbits⟩ := ih
    rw [List.range_succ, List.foldl_append, List.foldl_cons, List.foldl_nil]
    generalize (List.range n).foldl (fun v l => if g l then v + 2 ^ l else v) 0 = x at hlt hbits
    refine ⟨?_, fun l => ?_⟩
    · split <;> omega
    · by_cases hl : l = n
      · subst hl
        cases hg : g l with
        | true => simp [Nat.add_comm x, Nat.testBit_two_pow_add_eq, Nat.testBit_lt_two_pow hlt]
        | false => simp [Nat.testBit_lt_two_pow hlt]
      · have hrange : (l < n + 1) = (l < n) := by apply propext; omega
        split
        · by_cases hlow : l < n
          · rw [Nat.add_comm, Nat.testBit_two_pow_add_gt hlow, hbits]
            simp [hlow, show l < n + 1 by omega]
          · have hhigh : x + 2 ^ n < 2 ^ l := by
              have : 2 ^ (n + 1) ≤ 2 ^ l := Nat.pow_le_pow_right (by decide) (by omega)
              omega
            simp [hrange, hlow, Nat.testBit_lt_two_pow hhigh]
        · simp [hbits, hrange]

theorem ends_cmp {s : State} {b : BayNo} {w : Slot} (hw : VxeOne s.mach b 0x2B w) (hA : (opA w).isLoft = false)
    (hB : (opB w).isLoft = false) (hd : wD w < 8) (hlegal : (VUse.ok { fmt := true, sub := true } w && fmt32 w && aAndB w &&
      maskLegal (wD w) true && decide (wSub w ≤ (if fmtI w then 5 else 7))) = true) :
    Ends (.cmp b) s (fun m => VxePuts s.mach m b 2 (fun es => ∃ v p, VEff.mask (wD w) v (BitVec.allOnes 128) p ∈ es ∧
      ∀ l < 128, v.getLsbD l = (cmpBit (wSub w) (fmtI w) (laneArg (getVxe s.mach b) (opA w) l).1
        (laneArg (getVxe s.mach b) (opB w) l).1).1)) := by
  have hmsk : wMsk w = 0 := hw.2.2.2
  have h16 : is16 w = false := is16_of_fmt32 (by simp only [Bool.and_eq_true] at hlegal; exact hlegal.1.1.1.2)
  have hone : 1 ≤ slotHold w + 1 := by omega
  refine ends_onVxe (f := doCmp b) rfl hw.1 (vWord_none hw hlegal hone (noLoft_srcs32 (by simpa using ⟨hA, hB⟩)) ?_)
  dsimp only
  rw [hmsk, readMask_full, maskResult_full hd]
  refine ⟨_, _, List.mem_append_left _ List.mem_cons_self, fun l hl => ?_⟩
  rw [List.filter_eq_self.2 fun l hl => getLsbD_full (List.mem_range.1 hl), List.foldl_map, BitVec.getLsbD_ofNat]
  refine (congrArg (decide (l < 128) && ·) ((bits_foldl (fun l => (cmpBit (wSub w) (fmtI w)
    (arg (opDone s.mach b 2) b w (opA w) 0 l).1 (arg (opDone s.mach b 2) b w (opB w) 0 l).1).1) 128).2 l)).trans ?_
  rw [opA, opB, arg_one h16 hA hl, arg_one h16 hB hl]
  simp [hl]

theorem ends_mlog {s : State} {b : BayNo} {w : Slot} (hw : VxeOne s.mach b 0x2C w) (hd : wD w < 8) (ha : wA w < 8) (hb : wB w < 8)
    (hsub : wSub w = 0) (hlegal : (VUse.ok { sub := true } w && maskLegal (wD w) true && unusedOp (wC w)) = true) :
    Ends (.mlog b) s (fun m => VxePuts s.mach m b 1 (fun es => es =
      [.mask (wD w) (vMask (getVxe s.mach b) (wA w) &&& vMask (getVxe s.mach b) (wB w)) (BitVec.allOnes 128)
        (vMaskP (getVxe s.mach b) (wA w) || vMaskP (getVxe s.mach b) (wB w))])) := by
  have hmsk : wMsk w = 0 := hw.2.2.2
  simp only [Bool.and_eq_true] at hlegal
  obtain ⟨⟨hok, hdst⟩, hunused⟩ := hlegal
  have hone : 1 ≤ slotHold w + 1 := by omega
  refine ends_onVxe (f := doMlog b) rfl hw.1 (vWord_none hw ?_ hone noLoft_nil ?_)
  · simp [hok, hdst, hunused, hsub, maskLegal_reg ha, maskLegal_reg hb]
  · dsimp only
    rw [hmsk, readMask_full, maskResult_full hd, hsub, if_neg (by decide), readMask_reg _ ha, readMask_reg _ hb, getVxe_opDone]
    rfl

/-! ### Reductions over pairs -/

/-- The sum of a pair of INT32 lanes, both unmasked. -/
theorem redTree_pair {w : Slot} (hsub : wSub w = 0) (hfmt : fmtI w = true) (g : Nat) (a c : Nat × Bool) :
    redTree w 0 g 1 [some (a.1, a.2, 0), some (c.1, c.2, 0)] = some ((a.1 + c.1) % 2 ^ 32, a.2 || c.2, 0) := by
  show redJoin w 0 g (some (a.1, a.2, 0)) (some (c.1, c.2, 0)) = _
  simp [redJoin, redOp, hsub, hfmt]

/-- The sums of the pairs of lanes of a word of one iteration. -/
theorem redGroups_pairs {w : Slot} (hmsk : wMsk w = 0) (hsub : wSub w = 0) (hfmt : fmtI w = true) (himm : wImm w = 0) (s : Mach) (b : Nat) :
    redGroups b w s 0 = (List.range 64).map (fun g =>
      (((arg s b w (opA w) 0 (2 * g)).1 + (arg s b w (opA w) 0 (2 * g + 1)).1) % 2 ^ 32,
        (arg s b w (opA w) 0 (2 * g)).2 || (arg s b w (opA w) 0 (2 * g + 1)).2, 0)) := by
  have hlog : redLog w = 1 := by unfold redLog; rw [himm]
  unfold redGroups
  rw [hmsk, readMask_full]
  dsimp only
  rw [hlog]
  refine List.map_congr_left fun g hg => ?_
  have hg : g < 64 := by simpa using hg
  have hleaves : (List.range (2 ^ 1)).map (fun j => if (BitVec.allOnes 128).getLsbD (2 ^ 1 * g + j) then
      some ((arg s b w (opA w) 0 (2 ^ 1 * g + j)).1, (arg s b w (opA w) 0 (2 ^ 1 * g + j)).2, 0) else none) =
      [some ((arg s b w (opA w) 0 (2 * g)).1, (arg s b w (opA w) 0 (2 * g)).2, 0),
       some ((arg s b w (opA w) 0 (2 * g + 1)).1, (arg s b w (opA w) 0 (2 * g + 1)).2, 0)] := by
    show [ite _ _ _, ite _ _ _] = _
    rw [if_pos (getLsbD_full (l := 2 ^ 1 * g + 0) (by omega)), if_pos (getLsbD_full (l := 2 ^ 1 * g + 1) (by omega))]
    rfl
  rw [hleaves, redTree_pair hsub hfmt]
  dsimp only
  rw [Bool.or_false]

/-- The results of pairs, written to the lanes from 0 on. -/
theorem redEls_pairs {w : Slot} {gs : List (Nat × Bool × Nat)} {v : Nat → Nat} (hlen : gs.length = 64)
    (hv : ∀ g (h : g < gs.length), gs[g].1 = v g) :
    ∃ n v' p, redEls w gs = laneEls n v' p ∧ 64 ≤ n ∧ n ≤ 128 ∧ ∀ g < 64, v' g = v g := by
  have hhead : gs.zipIdx.map (fun g => (g.2, g.1.1, g.1.2.1)) = laneEls 64 v (fun g => (gs.getD g (0, false, 0)).2.1) := by
    apply List.ext_getElem
    · simp [laneEls, hlen]
    · intro g h h'
      have hg : g < gs.length := by simpa using h
      simp [laneEls, hv g hg, List.getD_eq_getElem?_getD, hg]
  unfold redEls
  rw [hhead, hlen]
  split
  · refine ⟨128, fun g => if g < 64 then v g else 0, fun g => if g < 64 then (gs.getD g (0, false, 0)).2.1 else false, ?_, by decide,
      by decide, fun g hg => if_pos hg⟩
    apply List.ext_getElem
    · simp [laneEls]
    · intro g h h'
      by_cases hg : g < 64
      · simp [laneEls, hg]
      · simp [laneEls, hg, List.getElem_append]
        omega
  · exact ⟨64, v, _, List.append_nil _, Nat.le_refl _, by decide, fun _ _ => rfl⟩

theorem ends_red {s : State} {b : BayNo} {w : Slot} {d : Nat} (h : VxeLanes s.mach b 0x2F w d 1
    (VUse.ok { fmt := true, sub := true, imm := 3 } w && fmtI w && onlyA w)) (hsub : wSub w = 0) (himm : wImm w = 0) :
    Ends (.red b) s (fun m => VxePuts s.mach m b 3 (fun es => ∀ g < 64, ∃ p, VEff.lane d g
      (BitVec.ofNat 32 ((laneArg (getVxe s.mach b) (opA w) (2 * g)).1 + (laneArg (getVxe s.mach b) (opA w) (2 * g + 1)).1))
      (BitVec.allOnes 32) p ∈ es)) := by
  obtain ⟨hw, h16, hd, hA, -, -, hspan, hlegal⟩ := id h
  obtain ⟨⟨hop, hword, hflight⟩, hrep, hsig, hmsk⟩ := id hw
  have hflight' : (getVxe (opDone s.mach b 2) b).flight = [] := by rw [getVxe_opDone]; exact hflight
  simp only [Bool.and_eq_true] at hlegal
  obtain ⟨⟨hok, hfmt⟩, honly⟩ := hlegal
  have hfmt' : ¬ wFmt w = 0 := by
    have : wFmt w = 14 := of_decide_eq_true hfmt
    omega
  have hX : redX w = false := by unfold redX; rw [hsub]; rfl
  have hlog : redLog w = 1 := by unfold redLog; rw [himm]
  have hlat : redLat w = 3 := by unfold redLat; rw [hlog, if_neg (fun h => hfmt' h.2)]
  have hii : redIi w = 1 := by unfold redIi; rw [hX]; rfl
  have h32 : fmt32 w = true := by unfold fmt32; unfold fmtI at hfmt; rw [hfmt, Bool.or_true]
  have hgroups := redGroups_pairs hmsk hsub hfmt himm (opDone s.mach b 2) b
  have hlen : (redGroups b w (opDone s.mach b 2) 0).length = 64 := by rw [hgroups]; simp
  have hval (g : Nat) (hg : g < (redGroups b w (opDone s.mach b 2) 0).length) : (redGroups b w (opDone s.mach b 2) 0)[g].1 =
      ((laneArg (getVxe s.mach b) (opA w) (2 * g)).1 + (laneArg (getVxe s.mach b) (opA w) (2 * g + 1)).1) % 2 ^ 32 := by
    rw [← arg_opA h (2 * g) (by omega), ← arg_opA h (2 * g + 1) (by omega)]
    simp [hgroups]
  obtain ⟨n, v, p, hels, hn, hn', hv⟩ := redEls_pairs (w := w) hlen hval
  have hrun : ∃ fl, redRun b w (opDone s.mach b 2) ((getVxe s.mach b).words + 1) (getStream s.mach b 2).issued =
      (vRun0 (opDone s.mach b 2)).deliver b ((getVxe s.mach b).words + 1) ((getStream s.mach b 2).issued + 3 - 1) (.reg d false)
        { IterOut.none with els := laneEls n v p, flags := fl } 0 true := by
    refine ⟨(redGroups b w (opDone s.mach b 2) 0).zipIdx.map (fun g => (g.2, g.1.2.2)), ?_⟩
    unfold redRun
    rw [hrep]
    show List.foldl _ _ [0] = _
    rw [List.foldl_cons, List.foldl_nil]
    dsimp only
    rw [hX, hd, hii, hlat, step_of_notLoft hA, source_of_notLoft hA, show (vRun0 (opDone s.mach b 2)).view = opDone s.mach b 2 from rfl,
      vFlush_none hflight', hels, hA, if_neg (by decide), if_neg (by decide), if_neg (by decide), step_of_notLoft rfl]
    rfl
  obtain ⟨fl, hrun⟩ := hrun
  obtain ⟨q, hq, hbad, hwrites, l, hview⟩ := deliver_reg (vRun0 (opDone s.mach b 2)) b ((getVxe s.mach b).words + 1)
    ((getStream s.mach b 2).issued + 3 - 1) d false (fun h => absurd h (by decide))
    { IterOut.none with els := laneEls n v p, flags := fl } rfl rfl
  refine ends_onVxe (f := doRed b) rfl hw.1 ?_
  unfold doRed
  dsimp only
  refine vWord_puts hw ?_ (by rw [hii]; omega) (hrun.trans hq) hbad hwrites ?_ fun g hg => ⟨p g, List.mem_append_left _ ?_⟩
  · simp [hok, h32, honly, hd, himm, hsub, hX, hfmt', VOp.isDst]
  · rw [hview, getVxe_modVxe]
    show (getVxe (opDone s.mach b 2) b).ptr = _
    rw [getVxe_opDone]
  · have hmem := mem_regEffs_packEls d v p hn' (Nat.lt_of_lt_of_le hg hn)
    rw [hv g hg] at hmem
    have hmod (x : Nat) : BitVec.ofNat 32 (x % 2 ^ 32) = BitVec.ofNat 32 x := by
      apply BitVec.eq_of_toNat_eq
      simp
    rw [hmod] at hmem
    exact hmem

/-! ### Anchored accumulators -/

theorem acEffs_full {w : Slot} (hmsk : wMsk w = 0) (s : Mach) (b : Nat) (f : Nat → Bool → VEff) :
    acEffs s b w 0 f = (List.range 128).map (fun l => f l false) := by
  unfold acEffs
  rw [hmsk, readMask_full]
  dsimp only
  rw [← List.filterMap_eq_map]
  exact List.filterMap_congr fun l hl => if_pos (getLsbD_full (List.mem_range.1 hl))

theorem ends_aadd {s : State} {b : BayNo} {w : Slot} (hw : VxeOne s.mach b 0x30 w) (hA : (opA w).isLoft = false)
    (hlegal : (VUse.ok { fmt := true, acn := true, imm := 10 } w && fmt32 w && onlyA w && unusedOp (wD w)) = true) :
    Ends (.aadd b) s (fun m => VxePuts s.mach m b 4 (fun es => es = (List.range 128).map (fun l =>
      let a := laneArg (getVxe s.mach b) (opA w) l
      .acAdd (wAcn w) l (ancTerm (sext 10 (wImm w)) (decodeElem (wFmt w) a.1)) a.2))) := by
  have hmsk : wMsk w = 0 := hw.2.2.2
  have h16 : is16 w = false := is16_of_fmt32 (by simp only [Bool.and_eq_true] at hlegal; exact hlegal.1.1.2)
  have hone : 1 ≤ slotHold w + 1 := by omega
  refine ends_onVxe (f := doAadd b) rfl hw.1 (vWord_none hw hlegal hone (noLoft_srcs32 (by simpa using hA)) ?_)
  unfold acTerms
  dsimp only [IterOut.none]
  rw [acEffs_full hmsk, List.map_nil, List.append_nil]
  refine List.map_congr_left fun l hl => ?_
  rw [if_neg (by decide), opA, arg_one h16 hA (List.mem_range.1 hl)]
  simp

theorem ends_amac {s : State} {b : BayNo} {w : Slot} (hw : VxeOne s.mach b 0x31 w) (hA : (opA w).isLoft = false)
    (hB : (opB w).isLoft = false)
    (hlegal : (VUse.ok { fmt := true, acn := true, imm := 10 } w && fmt32 w && aAndB w && unusedOp (wD w)) = true) :
    Ends (.amac b) s (fun m => VxePuts s.mach m b 4 (fun es => es = (List.range 128).map (fun l =>
      let a := laneArg (getVxe s.mach b) (opA w) l
      let c := laneArg (getVxe s.mach b) (opB w) l
      .acAdd (wAcn w) l (ancTerm (sext 10 (wImm w)) (mulVal (decodeElem (wFmt w) a.1) (decodeElem (wFmt w) c.1)).1)
        (a.2 || c.2)))) := by
  have hmsk : wMsk w = 0 := hw.2.2.2
  have h16 : is16 w = false := is16_of_fmt32 (by simp only [Bool.and_eq_true] at hlegal; exact hlegal.1.1.2)
  have hone : 1 ≤ slotHold w + 1 := by omega
  refine ends_onVxe (f := doAmac b) rfl hw.1 (vWord_none hw hlegal hone (noLoft_srcs32 (by simpa using ⟨hA, hB⟩)) ?_)
  unfold acTerms
  dsimp only [IterOut.none]
  rw [acEffs_full hmsk, List.map_nil, List.append_nil]
  refine List.map_congr_left fun l hl => ?_
  rw [if_pos rfl, opA, opB, arg_one h16 hA (List.mem_range.1 hl), arg_one h16 hB (List.mem_range.1 hl)]
  simp

theorem ends_aclr {s : State} {b : BayNo} {w : Slot} (hw : VxeOne s.mach b 0x36 w)
    (hlegal : (VUse.ok { acn := true } w && noSrc w && unusedOp (wD w)) = true) :
    Ends (.aclr b) s (fun m => VxePuts s.mach m b 1 (fun es => es = (List.range 128).map (fun l => .acSet (wAcn w) l 0 false))) := by
  have hone : 1 ≤ slotHold w + 1 := by omega
  refine ends_onVxe (f := doAclr b) rfl hw.1 (vWord_none hw hlegal hone noLoft_nil ?_)
  dsimp only [IterOut.none]
  rw [acEffs_full hw.2.2.2, List.map_nil, List.append_nil]

end Sys2Proof.Machine
end

section
/-! Anchored accumulators of the vector engine and the loft, lane flags, and the write of a result (R195, R205, R206, R210). -/

namespace Sys2Proof.Machine

/-! ### Sums over all lanes -/

/-- What ARED makes of the lanes of an accumulator: their sum, and the poison and flags met on the way. -/
def aredSum (x : Vxe) (k : Nat) (m : BitVec 128 × Bool) : Anc × Bool × Nat :=
  (List.range 128).foldl (fun (acc : Anc × Bool × Nat) j =>
    if m.1.getLsbD j then
      let q := ancAdd acc.1 (vAc x k j)
      (q.1, acc.2.1 || vAcP x k j, acc.2.2 ||| q.2)
    else acc) (0, m.2, 0)

theorem aredSum_full (x : Vxe) (k : Nat) : (aredSum x k (BitVec.allOnes 128, false)).1 =
    (List.range 128).foldl (fun c j => (ancAdd c (vAc x k j)).1) 0 := by
  have h (n : Nat) (hn : n ≤ 128) : ((List.range n).foldl (fun (acc : Anc × Bool × Nat) j =>
      if (BitVec.allOnes 128).getLsbD j then
        let q := ancAdd acc.1 (vAc x k j)
        (q.1, acc.2.1 || vAcP x k j, acc.2.2 ||| q.2)
      else acc) (0, false, 0)).1 = (List.range n).foldl (fun c j => (ancAdd c (vAc x k j)).1) 0 := by
    induction n with
    | zero => rfl
    | succ n ih =>
      rw [List.range_succ, List.foldl_append, List.foldl_append, ← ih (by omega), List.foldl_cons, List.foldl_nil, List.foldl_cons,
        List.foldl_nil, if_pos (getLsbD_full (by omega))]
  exact h 128 (Nat.le_refl _)

theorem ends_ared {s : State} {b : BayNo} {w : Slot} (hw : VxeOne s.mach b 0x32 w) (himm : wImm w = 6)
    (hlegal : (VUse.ok { acn := true, imm := 3 } w && noSrc w && unusedOp (wD w)) = true) :
    Ends (.ared b) s (fun m => VxePuts s.mach m b 8 (fun es =>
      (∃ p, VEff.acSet (wAcn w) 0 ((List.range 128).foldl (fun c j => (ancAdd c (vAc (getVxe s.mach b) (wAcn w) j)).1) 0) p ∈ es) ∧
      ∀ l < 128, 1 ≤ l → VEff.acSet (wAcn w) l 0 false ∈ es)) := by
  obtain ⟨-, hrep, -, hmsk⟩ := id hw
  have hone : 1 ≤ slotHold w + 1 := by omega
  have hlog : redLog w = 7 := by unfold redLog; rw [himm]
  have hout : (aredOut b w (opDone s.mach b 2) 0).effs = (List.range 128).map (fun l =>
      if l = 0 then .acSet (wAcn w) 0 (aredSum (getVxe s.mach b) (wAcn w) (BitVec.allOnes 128, false)).1
        (aredSum (getVxe s.mach b) (wAcn w) (BitVec.allOnes 128, false)).2.1 else .acSet (wAcn w) l 0 false) := by
    unfold aredOut
    dsimp only [IterOut.none]
    rw [hmsk, readMask_full, hlog, getVxe_opDone]
    refine List.map_congr_left fun l hl => ?_
    cases l with
    | zero => simp [aredSum, List.range_succ (n := 0)]
    | succ l => simp [List.range_succ (n := 0)]
  refine ends_onVxe (f := doAred b) rfl hw.1 (vWord_none hw ?_ hone noLoft_nil ?_)
  · simp [hlegal, hrep, himm]
  · rw [hout]
    refine ⟨⟨(aredSum (getVxe s.mach b) (wAcn w) (BitVec.allOnes 128, false)).2.1, List.mem_append_left _ ?_⟩, fun l hl hpos =>
      List.mem_append_left _ ?_⟩
    · rw [← aredSum_full]
      exact List.mem_map.2 ⟨0, List.mem_range.2 (by decide), if_pos rfl⟩
    · exact List.mem_map.2 ⟨l, List.mem_range.2 hl, if_neg (by omega)⟩

/-! ### Reading an accumulator out -/

theorem ends_aout {s : State} {b : BayNo} {w : Slot} {d : Nat} (h : VxeLanes s.mach b 0x35 w d 1
      (VUse.ok { ofmt := true, rm := true, sat := true, acn := true, sub := true } w && noSrc w)) (hsub : wSub w = 0)
    (hofmt : wOfmt w = 0) :
    Ends (.aout b) s (fun m => VxePuts s.mach m b 4 (fun es => es = laneEffs d (fun l =>
      let r := ancOut 0 { rm := wRm w, sat := wSat w, seed := wImm w, idx := l } (vAc (getVxe s.mach b) (wAcn w) l)
      (r.1, r.2, vAcP (getVxe s.mach b) (wAcn w) l)))) := by
  obtain ⟨hw, -, hd, -, -, -, hspan, hlegal⟩ := id h
  obtain ⟨-, hrep, -, hmsk⟩ := id hw
  have hout : aoutOut b w (opDone s.mach b 2) 0 = maskedOut (opDone s.mach b 2) b w 0 1 32 0 1 (fun l =>
      let r := ancOut 0 { rm := wRm w, sat := wSat w, seed := wImm w, idx := 128 * 0 + l } (vAc (getVxe s.mach b) (wAcn w) l)
      (r.1, r.2, vAcP (getVxe s.mach b) (wAcn w) l)) := by
    unfold aoutOut
    dsimp only
    rw [hsub, if_neg (by decide), hofmt, getVxe_opDone]
    rfl
  refine ends_onVxe (f := doAout b) rfl hw.1 ?_
  unfold doAout
  rw [hd]
  refine vWord_reg hw ?_ hspan noLoft_nil ?_ ?_ ?_
  · simp [hlegal, hrep, hsub, hofmt, VOp.isDst]
  · rw [hout, maskedOut_full hmsk]
  · rw [hout, maskedOut_full hmsk]
  · rw [hout]
    exact lanes_of_maskedOut hmsk _ _ _ _ fun l _ => by simp

/-! ### Accumulators and the loft -/

/-- An access that the fence lets through is not refused. -/
theorem access_fenced {s : Mach} {b q n : Nat} (h : fenceOk s b (ptrAddr (vPtr (getVxe s b) q)) n = true) :
    (vRun0 s).access b (.loft q) n = vRun0 s := by
  show (if _ then _ else _) = _
  rw [if_neg (by simp [vRun0, h])]

theorem view_vRun0 {s : Mach} {b : Nat} (h : (getVxe s b).flight = []) (t : Nat) :
    ({ vRun0 s with view := vFlush (vRun0 s).view b t } : VRun) = vRun0 s := by
  rw [show vFlush (vRun0 s).view b t = s from vFlush_none h t]
  rfl

theorem ends_ald {s : State} {b : BayNo} {w : Slot} {q : Nat} (hw : VxeOne s.mach b 0x33 w) (ha : opA w = .loft q) (hsub : wSub w = 0)
    (hfence : fenceOk s.mach b (ptrAddr (vPtr (getVxe s.mach b) q)) 2048 = true) (hspan : 4 ≤ slotHold w + 1)
    (hlegal : (VUse.ok { acn := true, sub := true } w && onlyA w && unusedOp (wD w)) = true) :
    Ends (.ald b) s (fun m => m.loft = s.mach.loft ∧ ∃ x, (getVxe m b).flight = [x] ∧ x.edge = (getStream s.mach b 2).issued + 19 ∧
      ∀ l < 128, ∃ p, VEff.acSet (wAcn w) l (BitVec.ofNat 128 (readNat s.mach.loft
        (loftIx b (ptrAddr (vPtr (getVxe s.mach b) q) + 16 * l)) 16)) p ∈ x.effs) := by
  obtain ⟨⟨hop, hword, hflight⟩, hrep, hsig, hmsk⟩ := id hw
  have hflight' : (getVxe (opDone s.mach b 2) b).flight = [] := by rw [getVxe_opDone]; exact hflight
  have hfence' : fenceOk (opDone s.mach b 2) b (ptrAddr (vPtr (getVxe (opDone s.mach b 2) b) q)) 2048 = true := by
    rw [getVxe_opDone, fenceOk_opDone, hfence]
  simp only [Bool.and_eq_true] at hlegal
  obtain ⟨⟨hok, honly⟩, hunused⟩ := hlegal
  have heffs : (aldOut b w (opDone s.mach b 2) 0).effs = (List.range 128).map (fun l =>
      .acSet (wAcn w) l (BitVec.ofNat 128 (readNat s.mach.loft (loftIx b (ptrAddr (vPtr (getVxe s.mach b) q) + 16 * l)) 16))
        (granPois s.mach b (ptrAddr (vPtr (getVxe s.mach b) q) + 16 * l) || false)) := by
    unfold aldOut
    rw [ha, hsub, getVxe_opDone]
    dsimp only
    rw [acEffs_full hmsk]
    exact List.map_congr_left fun l _ => if_pos ⟨rfl, rfl⟩
  have hrun : ∃ r, iterRun b w 12 4 [(opA w, 1, 2048)] .none (aldOut b w) (opDone s.mach b 2) ((getVxe s.mach b).words + 1)
      (getStream s.mach b 2).issued = r ∧ r.bad = none ∧ r.writes = [vWrite ((getVxe s.mach b).words + 1)
        ((getStream s.mach b 2).issued + 19) ((aldOut b w (opDone s.mach b 2) 0).effs)] := by
    have hedge : iterAt (getStream s.mach b 2).issued 4 0 + 12 - 1 + 8 = (getStream s.mach b 2).issued + 19 := by
      unfold iterAt
      omega
    refine ⟨_, rfl, ?_⟩
    unfold iterRun
    rw [hrep]
    show VRun.bad (List.foldl _ _ [0]) = _ ∧ VRun.writes (List.foldl _ _ [0]) = _
    rw [List.foldl_cons, List.foldl_nil]
    simp only [List.foldl_cons, List.foldl_nil]
    rw [view_vRun0 hflight', if_pos trivial, ha, VRun.source, access_fenced hfence', show anyLoft [(VOp.loft q, 1, 2048)] = true from rfl,
      if_pos rfl, hedge]
    refine ⟨rfl, ?_⟩
    exact congrArg (fun es => [vWrite _ _ es]) (List.append_nil _)
  obtain ⟨r, hr, hbad, hwrites⟩ := hrun
  obtain ⟨-, hloft, hvxe⟩ := vWord_launches (lanes := unmasked b w)
    (legal := VUse.ok { acn := true, sub := true } w && onlyA w && (opA w).isLoft && unusedOp (wD w) && decide (wSub w ≤ 1)) hw
    (by simp [hok, honly, hunused, ha, hsub, VOp.isLoft]) hspan hr hbad
  rw [hwrites, closeWord_single] at hvxe
  refine ends_onVxe (f := doAld b) rfl hw.1 ⟨hloft, _, congrArg Vxe.flight hvxe, rfl, fun l hl =>
    ⟨granPois s.mach b (ptrAddr (vPtr (getVxe s.mach b) q) + 16 * l) || false, ?_⟩⟩
  dsimp only [vWrite]
  rw [heffs]
  exact List.mem_map.2 ⟨l, List.mem_range.2 hl, rfl⟩

/-- Closing a word leaves its edges. -/
theorem edges_closeWord (ws : List VWrite) (sig : Option Nat) : (closeWord ws sig).map VWrite.edge = ws.map VWrite.edge := by
  unfold closeWord
  dsimp only
  rw [List.map_map]
  apply List.ext_getElem
  · simp
  · intro i h h'
    simp only [List.getElem_map, Function.comp_apply, List.getElem_zipIdx]
    split <;> rfl

theorem ends_ast {s : State} {b : BayNo} {w : Slot} {q : Nat} (hw : VxeOne s.mach b 0x34 w) (hd : opD w = .loft q) (hsub : wSub w = 0)
    (hfence : fenceOk s.mach b (ptrAddr (vPtr (getVxe s.mach b) q)) 2048 = true) (hspan : 4 ≤ slotHold w + 1)
    (hlegal : (VUse.ok { acn := true, sub := true } w && noSrc w) = true) :
    Ends (.ast b) s (fun m => m.loft = s.mach.loft ∧ (getVxe m b).flight.map VWrite.edge =
      [(getStream s.mach b 2).issued, (getStream s.mach b 2).issued + 1, (getStream s.mach b 2).issued + 2,
       (getStream s.mach b 2).issued + 3]) := by
  obtain ⟨-, hrep, -, -⟩ := id hw
  have hfence' : fenceOk (opDone s.mach b 2) b (ptrAddr (vPtr (getVxe (opDone s.mach b 2) b) q)) 2048 = true := by
    rw [getVxe_opDone, fenceOk_opDone, hfence]
  have hrun : ∃ r, astRun b w (opDone s.mach b 2) ((getVxe s.mach b).words + 1) (getStream s.mach b 2).issued = r ∧ r.bad = none ∧
      r.writes.map VWrite.edge = [(getStream s.mach b 2).issued, (getStream s.mach b 2).issued + 1, (getStream s.mach b 2).issued + 2,
        (getStream s.mach b 2).issued + 3] := by
    refine ⟨_, rfl, ?_⟩
    unfold astRun
    rw [hd, access_fenced hfence']
    exact ⟨rfl, rfl⟩
  obtain ⟨r, hr, hbad, hwrites⟩ := hrun
  obtain ⟨-, hloft, hvxe⟩ := vWord_launches (lanes := unmasked b w)
    (legal := VUse.ok { acn := true, sub := true } w && noSrc w && (opD w).isLoft && decide (wRep w = 0) && decide (wSub w ≤ 1)) hw
    (by simp [hlegal, hd, hrep, hsub, VOp.isLoft]) hspan hr hbad
  refine ends_onVxe (f := doAst b) rfl hw.1 ⟨hloft, ?_⟩
  unfold doAst
  rw [hvxe]
  exact (edges_closeWord _ _).trans hwrites

/-! ### Lane flags -/

theorem ends_flags {s : State} {b : BayNo} {w : Slot} {d : Nat} (h : VxeLanes s.mach b 0x37 w d 1 (VUse.ok { sub := true } w && noSrc w))
    (hsub : wSub w = 0) :
    Ends (.flags b) s (fun m => m.apart b = s.mach.apart b ∧ ∃ x y, (getVxe m b).flight = [x, y] ∧ y.fin = true ∧
      x.edge = (getStream s.mach b 2).issued + 1 ∧ x.effs = laneEffs d (fun l => (vLf (getVxe s.mach b) l, 0, false))) := by
  obtain ⟨hw, -, hd, -, -, -, hspan, hlegal⟩ := id h
  obtain ⟨-, hrep, -, hmsk⟩ := id hw
  have hclose (x y : VWrite) (he : x.edge = y.edge) : ∃ y', closeWord [x, y] none = [x, y'] ∧ y'.fin = true := by
    refine ⟨{ y with fin := true, sig := none, pois := [x, y].any (fun w => w.effs.any VEff.isPois) }, ?_, rfl⟩
    unfold closeWord
    simp [List.range_succ, he]
  have hrun : ∃ r, flagsRun b w (opDone s.mach b 2) ((getVxe s.mach b).words + 1) (getStream s.mach b 2).issued = r ∧ r.bad = none ∧
      r.writes = [vWrite ((getVxe s.mach b).words + 1) ((getStream s.mach b 2).issued + 1)
        (laneEffs d (fun l => (vLf (getVxe s.mach b) l, 0, false))),
        vWrite ((getVxe s.mach b).words + 1) ((getStream s.mach b 2).issued + 1) []] := by
    obtain ⟨q, hq, hbad, hwrites, l, hview⟩ := deliver_reg (vRun0 (opDone s.mach b 2)) b ((getVxe s.mach b).words + 1)
      ((getStream s.mach b 2).issued + 1) d false (fun h => absurd h (by decide))
      (maskedOut (opDone s.mach b 2) b w 0 1 32 0 1 (fun l => (vLf (getVxe (opDone s.mach b 2) b) l, 0, false)))
      (by rw [maskedOut_full hmsk]) (by rw [maskedOut_full hmsk])
    rw [lanes_of_maskedOut hmsk (f := fun l => (vLf (getVxe s.mach b) l, 0, false)) _ _ _ _ fun l _ => by rw [getVxe_opDone]] at hwrites
    refine ⟨_, rfl, ?_⟩
    unfold flagsRun
    dsimp only
    rw [hd, hq, step_of_notLoft rfl, hsub, if_neg (by decide)]
    exact ⟨hbad, congrArg (· ++ _) hwrites⟩
  obtain ⟨r, hr, hbad, hwrites⟩ := hrun
  obtain ⟨hapart, -, hvxe⟩ := vWord_launches (lanes := unmasked b w)
    (legal := VUse.ok { sub := true } w && noSrc w && (opD w).isDst && decide (wRep w = 0) && decide (wSub w ≤ 1)) hw
    (by simp [hlegal, hd, hrep, hsub, VOp.isDst]) hspan hr hbad
  obtain ⟨y, hy, hfin⟩ := hclose (vWrite ((getVxe s.mach b).words + 1) ((getStream s.mach b 2).issued + 1)
    (laneEffs d (fun l => (vLf (getVxe s.mach b) l, 0, false)))) (vWrite ((getVxe s.mach b).words + 1) ((getStream s.mach b 2).issued + 1) []) rfl
  rw [hwrites, hy] at hvxe
  exact ends_onVxe (f := doFlags b) rfl hw.1 ⟨hapart, _, y, congrArg Vxe.flight hvxe, hfin, rfl, rfl⟩

/-! ### A result write -/

/-- The engine once a whole lane of a register has been written. -/
def landLane (r l : Nat) (v : BitVec 32) (p : Bool) (x : Vxe) : Vxe :=
  { x with v := smapPut 0 x.v (128 * r + l) v, vp := smapPut false x.vp (128 * r + l) p }

theorem landLane_eq (r l : Nat) (v : BitVec 32) (p : Bool) (x : Vxe) :
    { x with v := smapPut 0 x.v (128 * r + l) ((vLane x r l &&& ~~~(BitVec.allOnes 32)) ||| (v &&& BitVec.allOnes 32)),
             vp := smapPut false x.vp (128 * r + l) (p || (decide (BitVec.allOnes 32 ≠ BitVec.allOnes 32) && vLaneP x r l)) } =
      landLane r l v p x := by
  have hv : (vLane x r l &&& ~~~(BitVec.allOnes 32)) ||| (v &&& BitVec.allOnes 32) = v := by
    rw [BitVec.not_allOnes, BitVec.and_zero, BitVec.zero_or, BitVec.and_allOnes]
  have hp : (p || (decide (BitVec.allOnes 32 ≠ BitVec.allOnes 32) && vLaneP x r l)) = p := by simp
  rw [hv, hp]
  rfl

theorem ends_vxeResultWrite {s : State} {b : BayNo} {x : VWrite} {r l : Nat} {v : BitVec 32} {p : Bool}
    (hflight : (getVxe s.mach b).flight = [x]) (hsig : x.sig = none) (heffs : x.effs = [.lane r l v (BitVec.allOnes 32) p]) :
    Ends (.vxeResultWrite b none) s (fun m => m.apart b = s.mach.apart b ∧ (getVxe m b).flight = [] ∧ vLane (getVxe m b) r l = v ∧
      vLaneP (getVxe m b) r l = p ∧ ∀ i, i ≠ 128 * r + l → smapGet 0 (getVxe m b).v i = smapGet 0 (getVxe s.mach b).v i) := by
  have hlands (t : Mach) (n : Nat) : getVxe (vApply b x.word (bump (modVxe t b (fun y => { y with flight := y.flight.erase x }))
      .VXE_COUNT b 0 31 0 n) (.lane r l v (BitVec.allOnes 32) p)) b = landLane r l v p { getVxe t b with flight := (getVxe t b).flight.erase x } := by
    refine (getVxe_modVxe _ b _).trans ?_
    rw [vxe_of_units (units_bump _ _ _ _ _ _ _), getVxe_modVxe, landLane_eq]
  have hapart (t : Mach) (n : Nat) : (vApply b x.word (bump (modVxe t b (fun y => { y with flight := y.flight.erase x }))
      .VXE_COUNT b 0 31 0 n) (.lane r l v (BitVec.allOnes 32) p)).apart b = t.apart b := by
    refine (apart_modBay _ b _).trans ?_
    rw [apart_bump, modVxe, apart_modBay]
  have hdone (t : Mach) (c : Prop) [Decidable c] : (if c then bump t .VXE_OPS b 0 63 0 1 else t).apart b = t.apart b ∧
      getVxe (if c then bump t .VXE_OPS b 0 63 0 1 else t) b = getVxe t b := by
    split
    · exact ⟨apart_bump _ _ _ _ _ _ _ _, vxe_of_units (units_bump _ _ _ _ _ _ _) b⟩
    · exact ⟨rfl, rfl⟩
  have heq : ∃ n, vResultWrite s.mach b none = (if x.fin = true then bump (vApply b x.word (bump (modVxe (advanceEdge s.mach b x.edge) b
      (fun y => { y with flight := y.flight.erase x })) .VXE_COUNT b 0 31 0 n) (.lane r l v (BitVec.allOnes 32) p)) .VXE_OPS b 0 63 0 1
      else vApply b x.word (bump (modVxe (advanceEdge s.mach b x.edge) b
      (fun y => { y with flight := y.flight.erase x })) .VXE_COUNT b 0 31 0 n) (.lane r l v (BitVec.allOnes 32) p)) := by
    refine ⟨(getVxe (modVxe (advanceEdge s.mach b x.edge) b (fun y => { y with flight := y.flight.erase x })) b).flight.countP
      (fun y => x.clash y), ?_⟩
    unfold vResultWrite
    rw [hflight]
    show applyWrite _ _ _ = _
    unfold applyWrite
    dsimp only
    rw [hsig, heffs]
    rfl
  obtain ⟨n, heq⟩ := heq
  obtain ⟨hkeep, hvxe⟩ := hdone (vApply b x.word (bump (modVxe (advanceEdge s.mach b x.edge) b
      (fun y => { y with flight := y.flight.erase x })) .VXE_COUNT b 0 31 0 n) (.lane r l v (BitVec.allOnes 32) p)) (x.fin = true)
  rw [hlands, show getVxe (advanceEdge s.mach b x.edge) b = getVxe s.mach b from rfl, hflight] at hvxe
  refine ⟨_, rfl, ?_⟩
  dsimp only
  rw [heq, hvxe]
  refine ⟨?_, ?_, smapGet_smapPut_same _ _ _ _, smapGet_smapPut_same _ _ _ _, fun i hi => smapGet_smapPut_other _ _ _ _ _ _ hi⟩
  · rw [hkeep, hapart, apart_advanceEdge]
  · simp [landLane]

/-- Settles O24. -/
theorem vectorMasksAndAccumulators : Obligations.VectorMasksAndAccumulators :=
  ⟨fun _ _ _ hw hA hB hd hlegal => ends_cmp hw hA hB hd hlegal, fun _ _ _ hw hd ha hb hsub hlegal => ends_mlog hw hd ha hb hsub hlegal,
   fun _ _ _ _ h hsub himm => ends_red h hsub himm, fun _ _ _ hw hA hlegal => ends_aadd hw hA hlegal,
   fun _ _ _ hw hA hB hlegal => ends_amac hw hA hB hlegal, fun _ _ _ hw himm hlegal => ends_ared hw himm hlegal,
   fun _ _ _ _ hw ha hsub hfence hspan hlegal => ends_ald hw ha hsub hfence hspan hlegal,
   fun _ _ _ _ hw hd hsub hfence hspan hlegal => ends_ast hw hd hsub hfence hspan hlegal,
   fun _ _ _ _ h hsub hofmt => ends_aout h hsub hofmt, fun _ _ _ hw hlegal => ends_aclr hw hlegal,
   fun _ _ _ _ h hsub => ends_flags h hsub, fun _ _ _ _ _ _ _ hflight hsig heffs => ends_vxeResultWrite hflight hsig heffs⟩

end Sys2Proof.Machine
end

section
/-! Sheaf engines and their threads: what a change of one leaves, and what counting and recording leave of a bay's units. -/

namespace Sys2Proof.Machine

/-! ### Parts of a bay -/

/-- What a part of a bay other than its counters shows is the same in packages with equal units. -/
theorem part_of_units {α : Type} {s t : Mach} (h : s.units = t.units) (b : Fin 72) (v : Bay → α)
    (hv : ∀ x c, v { x with cnt := c } = v x) : v (getBay s b) = v (getBay t b) := by
  have e := congrArg (fun x => v (getBay x b)) h
  simpa only [getBay_units _ _ b.isLt, hv] using e

theorem part_modBay {α : Type} (s : Mach) (b : Fin 72) (c : Nat) (f : Bay → Bay) (v : Bay → α) (hv : ∀ x, v (f x) = v x) :
    v (getBay (modBay s c f) b) = v (getBay s b) := by
  rw [getBay_modBay]
  split
  case isTrue hc => rw [hv, hc.1]
  case isFalse => rfl

theorem eng_of_units {s t : Mach} (h : s.units = t.units) (b : Fin 72) (e : Nat) : getEng s b e = getEng t b e :=
  part_of_units h b (fun x => vget Eng.zero x.engs e) fun _ _ => rfl
theorem sem_of_units {s t : Mach} (h : s.units = t.units) (b : Fin 72) : getSem s b = getSem t b :=
  part_of_units h b Bay.sem fun _ _ => rfl
theorem mov_of_units {s t : Mach} (h : s.units = t.units) (b : Fin 72) : getMov s b = getMov t b :=
  part_of_units h b Bay.mov fun _ _ => rfl
theorem dbg_of_units {s t : Mach} (h : s.units = t.units) (b : Fin 72) : (getBay s b).dbg = (getBay t b).dbg :=
  part_of_units h b Bay.dbg fun _ _ => rfl
theorem loftPois_of_units {s t : Mach} (h : s.units = t.units) : s.loftPois = t.loftPois := by
  have e := congrArg Mach.loftPois h
  exact e

theorem alm_of_units {s t : Mach} (h : s.units = t.units) : s.alm = t.alm := by
  have e := congrArg Mach.alm h
  exact e

theorem getEtr_fin (s : Mach) (b : Fin 72) : getEtr s b = (getBay s b).etr := if_pos b.isLt
theorem modEtr_fin (s : Mach) (b : Fin 72) (f : Etr → Etr) : modEtr s b f = modBay s b (fun x => { x with etr := f x.etr }) :=
  if_pos b.isLt

theorem etr_of_units {s t : Mach} (h : s.units = t.units) (b : Fin 72) : getEtr s b = getEtr t b := by
  rw [getEtr_fin, getEtr_fin]
  exact part_of_units h b Bay.etr fun _ _ => rfl

theorem offMov_getEng (b : Fin 72) (e : Nat) : OffMov (getEng · b e) :=
  ⟨fun h => eng_of_units h b e, fun s c _ => part_modBay s b c _ (fun x => vget Eng.zero x.engs e) fun _ => rfl⟩

theorem edgeOf_of_units {s t : Mach} (h : s.units = t.units) (hnow : s.now = t.now) (b : Nat) : edgeOf s b = edgeOf t b := by
  unfold edgeOf clkOf getClk
  rw [clk_of_units h, hnow]

/-! ### Counters of events (R568, R569) -/

/-- An offset of control space at which no counter of events lies. -/
def Uncounted (a : Nat) : Prop := (a % 0x10000 < 0xC040 ∨ 0xC080 ≤ a % 0x10000) ∧ (a < 0x121000 ∨ 0x121800 ≤ a)

theorem rg_bumpAo_of_uncounted {n : RegName} {u i : Nat} (h : Uncounted (RegRef.addr ⟨n, u, i⟩)) {die k : Nat} (hd : die < 32)
    (hk : k < 8) (s : Mach) (m : Nat) : rg (bumpAo s die k m) n u i = rg s n u i := by
  refine rg_wr_other _ _ _ _ _ _ _ _ fun he => ?_
  rw [he] at h
  obtain ⟨_, h⟩ := h
  simp only [RegRef.addr, RegName.info, Blk.base] at h
  omega

theorem compDieId_lt (b : Fin 72) : compDieId (dieOf b) < 32 := by
  unfold compDieId dieOf
  split <;> omega

theorem rg_bookEv_of_uncounted {n : RegName} {u i : Nat} (h : Uncounted (RegRef.addr ⟨n, u, i⟩)) (s : Mach) (b : Fin 72) (ev m : Nat) :
    rg (bookEv s b ev m) n u i = rg s n u i := by
  have hbook (p o k m : Nat) : rg (book s p o k m) n u i = rg s n u i := rfl
  have hmove := rg_bumpAo_of_uncounted h (compDieId_lt b) (k := 4) (by decide)
  have hmac := rg_bumpAo_of_uncounted h (compDieId_lt b) (k := 5) (by decide)
  unfold bookEv
  dsimp only
  split <;> simp only [hmac, hmove, hbook]

theorem rg_countEv_of_uncounted {n : RegName} {u i : Nat} (h : Uncounted (RegRef.addr ⟨n, u, i⟩)) (s : Mach) (b : Fin 72) (ev m : Nat) :
    rg (countEv s b ev m) n u i = rg s n u i := by
  have hcount (t : Mach) (k : Nat) (hk : k ∈ List.range 8) : rg (bumpWrap t .CNT_EV b k m) n u i = rg t n u i := by
    have hlt : k < 8 := List.mem_range.1 hk
    refine rg_wr_other _ _ _ _ _ _ _ _ fun he => ?_
    rw [he] at h
    obtain ⟨h, _⟩ := h
    simp only [RegRef.addr, RegName.info, Blk.base, dieBase] at h
    omega
  unfold countEv
  refine (foldS_keeps_of_mem (fun t => rg t n u i) _ _ _ fun t k hk => ?_).trans (rg_bookEv_of_uncounted h s b ev m)
  rw [apply_ite (rg · n u i), hcount t k hk, ite_self]

theorem now_raise (s : Mach) (r : FltRec) : (raise s r).now = s.now := by
  rw [raise_only]

theorem now_bump (s : Mach) (n : RegName) (u i hi lo k : Nat) : (bump s n u i hi lo k).now = s.now := by
  rw [bump_only]

theorem now_raiseBay (s : Mach) (b : Nat) (r : FltRec) : (raiseBay s b r).now = s.now := by
  have hlast (t : Mach) (k : Nat) : (wr t .FLT_BLAST b k (r.word 0 0 k)).now = t.now := wr_now _ _ _ _ _
  unfold raiseBay emitTraceIf
  dsimp only
  rw [now_raise, now_fireIf, apply_ite Mach.now, now_emitTrace, ite_self, now_bump]
  exact foldS_keeps Mach.now _ _ _ hlast

theorem now_countLoftRead (s : Mach) (b n : Nat) : (countLoftRead s b n).now = s.now := by
  unfold countLoftRead bumpAo
  rw [now_bumpWrap, now_countEv]
theorem now_countLoftWrite (s : Mach) (b n : Nat) : (countLoftWrite s b n).now = s.now := by
  unfold countLoftWrite bumpAo
  rw [now_bumpWrap, now_countEv]

/-! ### Engines -/

section
variable (s : Mach) (b : Fin 72)

theorem getEng_modEng (e : Fin 4) (f : Eng → Eng) : getEng (modEng s b e f) b e = f (getEng s b e) := by
  unfold getEng modEng
  rw [getBay_modBay_fin]
  exact vget_vmod_same _ _ _ _ e.isLt

theorem getEng_modEng_other {e j : Nat} (h : j ≠ e) (f : Eng → Eng) : getEng (modEng s b e f) b j = getEng s b j := by
  unfold getEng modEng
  rw [getBay_modBay_fin]
  exact vget_vmod_other _ _ _ _ _ h

theorem getEng_modSeq (e : Nat) (f : Seq → Seq) : getEng (modSeq s b f) b e = getEng s b e :=
  part_modBay s b b _ (fun x => vget Eng.zero x.engs e) fun _ => rfl
theorem getEng_modSem (e : Nat) (f : Sem → Sem) : getEng (modSem s b f) b e = getEng s b e :=
  part_modBay s b b _ (fun x => vget Eng.zero x.engs e) fun _ => rfl
theorem getEng_modMxa (e : Nat) (f : Mxa → Mxa) : getEng (modMxa s b f) b e = getEng s b e :=
  part_modBay s b b _ (fun x => vget Eng.zero x.engs e) fun _ => rfl
theorem getEng_modMov (e : Nat) (f : Mov → Mov) : getEng (modMov s b f) b e = getEng s b e :=
  part_modBay s b b _ (fun x => vget Eng.zero x.engs e) fun _ => rfl
theorem getEng_modStream (e k : Nat) (f : Stream → Stream) : getEng (modStream s b k f) b e = getEng s b e :=
  part_modBay s b b _ (fun x => vget Eng.zero x.engs e) fun _ => rfl
theorem getEng_modEtr (e : Nat) (f : Etr → Etr) : getEng (modEtr s b f) b e = getEng s b e := by
  rw [modEtr_fin]
  exact part_modBay s b b _ (fun x => vget Eng.zero x.engs e) fun _ => rfl

theorem getSeq_modEng (e : Nat) (f : Eng → Eng) : getSeq (modEng s b e f) b = getSeq s b := part_modBay s b b _ Bay.seq fun _ => rfl
theorem getSem_modEng (e : Nat) (f : Eng → Eng) : getSem (modEng s b e f) b = getSem s b := part_modBay s b b _ Bay.sem fun _ => rfl
theorem getMxa_modEng (e : Nat) (f : Eng → Eng) : getMxa (modEng s b e f) b = getMxa s b := part_modBay s b b _ Bay.mxa fun _ => rfl
theorem getMov_modEng (e : Nat) (f : Eng → Eng) : getMov (modEng s b e f) b = getMov s b := part_modBay s b b _ Bay.mov fun _ => rfl
theorem getEtr_modEng (e : Nat) (f : Eng → Eng) : getEtr (modEng s b e f) b = getEtr s b := by
  rw [getEtr_fin, getEtr_fin]
  exact part_modBay s b b _ Bay.etr fun _ => rfl
theorem dbg_modEng (e : Nat) (f : Eng → Eng) : (getBay (modEng s b e f) b).dbg = (getBay s b).dbg :=
  part_modBay s b b _ Bay.dbg fun _ => rfl
theorem getSem_modSem (f : Sem → Sem) : getSem (modSem s b f) b = f (getSem s b) := by
  unfold getSem modSem
  rw [getBay_modBay_fin]
theorem getMov_modMov (f : Mov → Mov) : getMov (modMov s b f) b = f (getMov s b) := by
  unfold getMov modMov
  rw [getBay_modBay_fin]
theorem getEtr_modEtr (f : Etr → Etr) : getEtr (modEtr s b f) b = f (getEtr s b) := by
  rw [getEtr_fin, getEtr_fin, modEtr_fin, getBay_modBay_fin]

@[simp] theorem apart_modEng (e : Nat) (f : Eng → Eng) : (modEng s b e f).apart b = s.apart b := apart_modBay s b _
@[simp] theorem apart_modThread (e k l : Nat) (f : Thread → Thread) : (modThread s b e k l f).apart b = s.apart b :=
  apart_modBay s b _
@[simp] theorem apart_modSem (f : Sem → Sem) : (modSem s b f).apart b = s.apart b := apart_modBay s b _
@[simp] theorem apart_modMxa (f : Mxa → Mxa) : (modMxa s b f).apart b = s.apart b := apart_modBay s b _
@[simp] theorem apart_modMov (f : Mov → Mov) : (modMov s b f).apart b = s.apart b := apart_modBay s b _
@[simp] theorem apart_modEtr (f : Etr → Etr) : (modEtr s b f).apart b = s.apart b := by
  rw [modEtr_fin]
  exact apart_modBay s b _
@[simp] theorem apart_sawPoison (e : Nat) (p : Bool) : (sawPoison s b e p).apart b = s.apart b := by
  unfold sawPoison
  split
  · exact apart_modEng s b e _
  · rfl

theorem now_modEng (e : Nat) (f : Eng → Eng) : (modEng s b e f).now = s.now := rfl
theorem clk_modEng (e : Nat) (f : Eng → Eng) : (modEng s b e f).clk = s.clk := rfl
theorem alm_modEng (e : Nat) (f : Eng → Eng) : (modEng s b e f).alm = s.alm := rfl
theorem loftPois_modEng (e : Nat) (f : Eng → Eng) : (modEng s b e f).loftPois = s.loftPois := rfl
theorem edgeOf_modBay (f : Bay → Bay) : edgeOf (modBay s b f) b = edgeOf s b := rfl
theorem edgeOf_modEng (e : Nat) (f : Eng → Eng) : edgeOf (modEng s b e f) b = edgeOf s b := rfl

end

/-- What lets an engine issue: its launch, its window, the halt of its bay, the time, and the frames that are fallow. -/
theorem shfRuns_congr {s t : Mach} {b e : Nat} (ha : (getEng s b e).active = (getEng t b e).active)
    (hd : (getBay s b).dbg = (getBay t b).dbg) (hq : (getSeq s b).win = (getSeq t b).win) (hnow : s.now = t.now) (hclk : s.clk = t.clk)
    (halm : s.alm = t.alm) (hp : rg s .PWR_STATUS 0 0 = rg t .PWR_STATUS 0 0) : shfRuns s b e = shfRuns t b e := by
  unfold shfRuns frameFallow frameNo count almTicks edgeOf clkOf getClk rf
  rw [ha, hd, hq, hnow, hclk, halm, hp]

theorem shfRuns_modEng (s : Mach) (b : Fin 72) (e : Fin 4) (f : Eng → Eng) (hf : (f (getEng s b e)).active = (getEng s b e).active) :
    shfRuns (modEng s b e f) b e = shfRuns s b e := by
  refine shfRuns_congr ?_ (dbg_modEng s b e f) (congrArg Seq.win (getSeq_modEng s b e f)) rfl rfl rfl rfl
  rw [getEng_modEng, hf]

/-! ### Threads -/

/-- Thread `l` of sheaf `k` of an engine is `t`. -/
def Eng.Has (g : Eng) (k l : Nat) (t : Thread) : Prop := ∃ x, g.sheaf k = some x ∧ x.threads[l]? = some t

theorem Eng.Has.thread {g : Eng} {k l : Nat} {t : Thread} (h : g.Has k l t) : g.thread k l = t := by
  obtain ⟨x, hx, ht⟩ := h
  simp [Eng.thread, hx, List.getD_eq_getElem?_getD, ht]

theorem Eng.Has.of_sheaves {g g' : Eng} {k l : Nat} {t : Thread} (h : g.Has k l t) (hs : g'.sheaves = g.sheaves) : g'.Has k l t := by
  unfold Eng.Has Eng.sheaf at *
  rwa [hs]

theorem threads_modSheaf (x : Sheaf) (l : Nat) (f : Thread → Thread) : (x.mod l f).threads[l]? = x.threads[l]?.map f := by
  simp only [Sheaf.mod, List.getElem?_map, List.getElem?_zipIdx, Option.map_map, Nat.zero_add]
  cases x.threads[l]? <;> simp

/-- An engine with one thread changed. -/
def Eng.modThread (g : Eng) (k l : Nat) (f : Thread → Thread) : Eng :=
  { g with sheaves := g.sheaves.map (fun x => if x.no = k then x.mod l f else x) }

theorem Eng.sheaf_modThread (g : Eng) (k l : Nat) (f : Thread → Thread) :
    (g.modThread k l f).sheaf k = (g.sheaf k).map (fun x => x.mod l f) := by
  unfold Eng.modThread Eng.sheaf
  induction g.sheaves with
  | nil => rfl
  | cons x xs ih =>
    by_cases h : x.no = k
    · simp [h, Sheaf.mod]
    · simpa [List.find?_cons, h] using ih

theorem Eng.Has.modThread {g : Eng} {k l : Nat} {t : Thread} (h : g.Has k l t) (f : Thread → Thread) :
    (g.modThread k l f).Has k l (f t) := by
  obtain ⟨x, hx, ht⟩ := h
  exact ⟨x.mod l f, by rw [Eng.sheaf_modThread, hx]; rfl, by rw [threads_modSheaf, ht]; rfl⟩

theorem getEng_modThread (s : Mach) (b : Fin 72) (e : Fin 4) (k l : Nat) (f : Thread → Thread) :
    getEng (modThread s b e k l f) b e = (getEng s b e).modThread k l f := getEng_modEng s b e _

theorem getThread_modThread {s : Mach} {b : Fin 72} {e : Fin 4} {k l : Nat} {t : Thread} (h : (getEng s b e).Has k l t)
    (f : Thread → Thread) : getThread (modThread s b e k l f) b e k l = f t := by
  unfold getThread
  rw [getEng_modThread]
  exact (h.modThread f).thread

/-- Retiring sets the state and the pc of a thread whatever they were. -/
theorem Thread.retire_pc (t : Thread) (p a : Nat) : (t.retire p a).pc = p % 2 ^ 64 := rfl

theorem Thread.put_pc (t : Thread) (fp : Bool) (r v : Nat) (p : Bool) : (t.put fp r v p).pc = t.pc := by
  unfold Thread.put
  split
  · rfl
  · split <;> rfl

theorem Thread.put_instret (t : Thread) (fp : Bool) (r v : Nat) (p : Bool) : (t.put fp r v p).instret = t.instret := by
  unfold Thread.put
  split
  · rfl
  · split <;> rfl

theorem Thread.put_fcsr (t : Thread) (fp : Bool) (r v : Nat) (p : Bool) : (t.put fp r v p).fcsr = t.fcsr := by
  unfold Thread.put
  split
  · rfl
  · split <;> rfl

/-! ### The group in issue -/

/-- The engine as its group leaves the issue port. -/
def takeGroup (s : Mach) (b e : Nat) : Mach := modEng s b e (fun g => { g with group := [] })

/-- A group of one thread is carried out on the package in which it has left the issue port. -/
theorem onGroup_one {s : Mach} {b e row k l : Nat} (hr : shfRuns s b e = true) (hg : (getEng s b e).group = [(k, l)])
    (hw : shfRow (getEng s b e).word = row) (f : Nat → Nat → Nat → Mach → Mach) :
    onGroup s b e row f = f (getEng s b e).word k l (takeGroup s b e) := by
  unfold onGroup
  dsimp only
  rw [if_neg (by simp [hr, hg, hw]), hg]
  rfl

theorem getEng_takeGroup (s : Mach) (b : Fin 72) (e : Fin 4) : getEng (takeGroup s b e) b e = { getEng s b e with group := [] } :=
  getEng_modEng s b e _

/-- The memory port taken for as many FCLK as the group has threads. -/
def takePort (s : Mach) (b e : Nat) : Mach :=
  modEng s b e (fun g => { g with memFree := max (edgeOf s b) (getEng s b e).memFree + g.group.length })

/-- An issue instruction of a group of one thread is carried out once the group has left the issue port. -/
theorem onIssue_one {s : Mach} {b : Fin 72} {e : Fin 4} {row k l : Nat} (hr : shfRuns s b e = true) (hg : (getEng s b e).group = [(k, l)])
    (hw : shfRow (getEng s b e).word = row) (f : Nat → Nat → Nat → Mach → Mach) :
    onIssue s b e row f = f (getEng s b e).word k l (takeGroup (takePort s b e) b e) := by
  have hport : getEng (takePort s b e) b e =
      { getEng s b e with memFree := max (edgeOf s b) (getEng s b e).memFree + (getEng s b e).group.length } := getEng_modEng s b e _
  unfold onIssue
  dsimp only
  rw [if_neg (by simp [hr, hg, hw])]
  refine (onGroup_one (s := takePort s b e) (b := b) (e := e) (k := k) (l := l) ?_ ?_ ?_ f).trans ?_
  · rw [takePort, shfRuns_modEng s b e _ (by rfl), hr]
  · rw [hport, hg]
  · rw [hport, hw]
  · rw [hport]

end Sys2Proof.Machine
end

section
/-! Loads and stores of threads on the loft (R227, R228). -/

namespace Sys2Proof.Machine

section
variable {s : Mach} {b : Fin 72} {e : Fin 4}

/-- The engine while its memory port serves `n` sectors. -/
theorem getEng_portServe (n : Nat) : getEng (portServe s b e n).2 b e =
    { getEng s b e with memFree := max (edgeOf s b) (getEng s b e).memFree + max 1 n } := by
  unfold portServe
  dsimp only
  rw [eng_of_units (units_countEv _ _ _ _), eng_of_units (units_bump _ _ _ _ _ _ _), getEng_modEng]

theorem rg_portServe {n : RegName} {u i : Nat} (h : Uncounted (RegRef.addr ⟨n, u, i⟩))
    (hs : RegRef.addr ⟨n, u, i⟩ ≠ RegRef.addr ⟨.SHF_SECTORS, 4 * b + e, 0⟩) (m : Nat) :
    rg (portServe s b e m).2 n u i = rg s n u i := by
  unfold portServe
  dsimp only
  rw [rg_countEv_of_uncounted h, bump, rg_wf_apart hs, modEng, rg_modBay]

theorem portServe_snd (n : Nat) : (portServe s b e n).2 = countEv (bump (modEng s b e (fun g =>
    { g with memFree := max (edgeOf s b) (getEng s b e).memFree + max 1 n })) .SHF_SECTORS (4 * b + e) 0 63 0 n) b 0x0F n := rfl

theorem now_portServe (n : Nat) : (portServe s b e n).2.now = s.now := by
  rw [portServe_snd, now_countEv, now_bump, now_modEng]

/-- The memory port changes of the units its own engine alone. -/
theorem units_portServe (n : Nat) : (portServe s b e n).2.units =
    (modEng s b e (fun g => { g with memFree := max (edgeOf s b) (getEng s b e).memFree + max 1 n })).units := by
  unfold portServe
  dsimp only
  rw [units_countEv, units_bump]

theorem seq_portServe (n : Nat) : getSeq (portServe s b e n).2 b = getSeq s b :=
  (seq_of_units (units_portServe n) b).trans (getSeq_modEng s b e _)

theorem shfRuns_portServe (n : Nat) : shfRuns (portServe s b e n).2 b e = shfRuns s b e := by
  have hu := units_portServe (s := s) (b := b) (e := e) n
  refine shfRuns_congr ?_ ((dbg_of_units hu b).trans (dbg_modEng s b e _)) (congrArg Seq.win (seq_portServe n)) (now_portServe n)
    ((clk_of_units hu).trans (clk_modEng s b e _)) ((alm_of_units hu).trans (alm_modEng s b e _)) (rg_portServe ?_ ?_ n)
  · rw [getEng_portServe]
  · exact ⟨Or.inl (by decide), Or.inl (by decide)⟩
  · simp only [RegRef.addr, RegName.info, Blk.base, dieBase]
    omega

/-- A write of the loft leaves the engines. -/
theorem getEng_loftWrite (o : Nat) (bs : List Byte) (p : Bool) : getEng (loftWrite s b o bs p) b e = getEng s b e := by
  have hpois (t : Mach) (c : Prop) [Decidable c] (o : Nat) (p : Bool) :
      getEng (if c then t else setGranPois t b o p) b e = getEng t b e := by split <;> rfl
  unfold loftWrite loftPut
  dsimp only
  rw [foldS_keeps (getEng · b e) _ _ _ fun t x => hpois t _ _ _]
  show getEng (if (getMov s b).moves = [] then s else catchUp s b) b e = getEng s b e
  rw [apply_ite (getEng · b e), (offMov_getEng b e).catchUp, ite_self]

/-! ### What an access is served from -/

/-- The package in which the group of one thread is served. -/
def served (s : Mach) (b e : Nat) : Mach := takeGroup (portServe s b e 1).2 b e

theorem getEng_served : getEng (served s b e) b e =
    { getEng s b e with memFree := max (edgeOf s b) (getEng s b e).memFree + 1, group := [] } := by
  unfold served
  rw [getEng_takeGroup, getEng_portServe]
  simp

theorem apart_served : (served s b e).apart b = s.apart b := by
  unfold served takeGroup
  rw [apart_modEng, apart_of_units (units_portServe 1), apart_modEng]

theorem loft_served : (served s b e).loft = s.loft := by
  unfold served takeGroup
  exact (offBay_loft.modBay _ _ _).trans ((loft_of_units (units_portServe 1)).trans (offBay_loft.modBay _ _ _))

theorem mem_served : (served s b e).mem = s.mem := by
  unfold served takeGroup
  exact (outer_mem.modBay _ _ _).trans ((mem_of_units (units_portServe 1)).trans (outer_mem.modBay _ _ _))

theorem loftPois_served : (served s b e).loftPois = s.loftPois := by
  rw [served, takeGroup, loftPois_modEng, loftPois_of_units (units_portServe 1), loftPois_modEng]

theorem seq_served : getSeq (served s b e) b = getSeq s b := (getSeq_modEng _ b e _).trans (seq_portServe 1)

theorem rangePois_served (a n : Nat) : rangePois (served s b e) b a n = rangePois s b a n := by
  unfold rangePois granPois
  rw [loftPois_served]

theorem split_served : rg (served s b e) .LFT_SPLIT b 0 = rg s .LFT_SPLIT b 0 := by
  refine (rg_modBay _ _ _ _ _ _).trans (rg_portServe ⟨Or.inl ?_, ?_⟩ ?_ 1)
  all_goals
    simp only [RegRef.addr, RegName.info, Blk.base, dieBase, compDieId]
    omega

/-- Whether an access is allowed looks at the sequencer, the lofts and the split. -/
theorem lftAllowed_congr {s t : Mach} {b : Nat} (hq : getSeq s b = getSeq t b) (hl : s.loft = t.loft)
    (hp : rg s .LFT_SPLIT b 0 = rg t .LFT_SPLIT b 0) (a n : Nat) : lftAllowed s b a n = lftAllowed t b a n := by
  unfold lftAllowed lentBank fenceOk plannedSize storeSize rf
  rw [hq, hl, hp]

/-- A loft instruction of a group of one thread: its one sector is served at once. -/
theorem lft_one {k l w row : Nat} {t : Thread} (h : ShfOne s b e k l w t) (hrow : shfRow w = row) :
    lft s b e row = lftOne b e w k l (max (edgeOf s b) (getEng s b e).memFree) (served s b e) := by
  obtain ⟨hr, hg, hw, -, hx⟩ := h
  have ht : (getEng s b e).thread k l = t := Eng.Has.thread hx
  have hsecs (p : Nat) : sectorsOf [(p, 1)] = [p / 32] := rfl
  unfold lft
  dsimp only
  rw [if_neg (by simp [hr, hg, hw, hrow]), hg, hw]
  simp only [List.map_cons, List.map_nil, hsecs, List.length_singleton, ht]
  have hone := onGroup_one (s := (portServe s b e 1).2) (b := b) (e := e) (row := row) (k := k) (l := l)
    (by rw [shfRuns_portServe, hr]) (by rw [getEng_portServe, hg]) (by rw [getEng_portServe, hw, hrow])
  rw [hone]
  have hthread : getThread (served s b e) b e k l = t := by
    unfold getThread
    rw [getEng_served]
    exact Eng.Has.thread (Eng.Has.of_sheaves hx rfl)
  have hword : (getEng (portServe s b e 1).2 b e).word = w := by rw [getEng_portServe, hw]
  rw [hword]
  show lftOne b e w k l (_ + [lftAddr t w / 32].idxOf (lftAddr (getThread (served s b e) b e k l) w / 32)) (served s b e) = _
  rw [hthread, List.idxOf_cons_self]
  rfl

theorem Has_served {k l : Nat} {t : Thread} (h : (getEng s b e).Has k l t) : (getEng (served s b e) b e).Has k l t := by
  rw [getEng_served]
  exact h.of_sheaves rfl

theorem has_sawPoison {k l : Nat} {t : Thread} (h : (getEng s b e).Has k l t) (p : Bool) :
    (getEng (sawPoison s b e p) b e).Has k l t := by
  unfold sawPoison
  split
  · rw [getEng_modEng]
    exact h.of_sheaves rfl
  · exact h

theorem winLast_of_seq {t : Mach} (h : getSeq s b = getSeq t b) : winLast s b = winLast t b := by
  unfold winLast
  rw [h]

theorem length_bytesOf (n v : Nat) : (bytesOf n v).length = n := by
  induction n generalizing v with
  | zero => rfl
  | succ n ih => simp [bytesOf, ih]

/-- A mask of all its bytes writes a row whole. -/
theorem writeMasked_full (bs : List Byte) (m : SMap Byte) (a : Nat) :
    writeMasked m a (2 ^ bs.length - 1) bs = writeBytes m a bs := by
  induction bs generalizing m a with
  | nil => rfl
  | cons x xs ih =>
    have hodd : (2 ^ (xs.length + 1) - 1) % 2 = 1 := by
      have := Nat.pow_pos (n := xs.length) (show 0 < 2 by decide)
      omega
    have hhalf : (2 ^ (xs.length + 1) - 1) / 2 = 2 ^ xs.length - 1 := by omega
    rw [writeMasked, writeBytes, List.length_cons, if_pos hodd, hhalf, ih]

/-! ### One access -/

section
variable {k l w at_ a n : Nat} {t : Thread} (ht : (getEng s b e).Has k l t) (hp : t.poisoned (iRs1 w) = false) (ha : lftAddr t w = a)
  (hn : 2 ^ (iF3 w % 4) = n) (hal : a % n = 0) (hall : lftAllowed s b a n = true) (hlast : at_ ≤ winLast s b)
include ht hp ha hn hal hall hlast

theorem lftOne_load (hop : iOp w = 0x0B) : (lftOne b e w k l at_ s).apart b = s.apart b ∧
    getThread (lftOne b e w k l at_ s) b e k l =
      (t.put false (iRd w) (if iF3 w < 4 then sx (8 * n) (readNat s.loft (loftIx b a) n) else readNat s.loft (loftIx b a) n)
        (rangePois s b a n)).retire (t.pc + 4) (at_ + 12) := by
  have hthread : getThread s b e k l = t := ht.thread
  unfold lftOne
  dsimp only
  rw [hthread, ha, hn, if_neg (by simp [hp]), if_neg (by simp [hal]), if_neg (by simp [hall]), if_neg (by omega), if_neg (by simp [hop])]
  refine ⟨?_, ?_⟩
  · rw [apart_modThread, apart_sawPoison, apart_countEv, apart_of_units (t := s)]
    unfold countLoftRead
    rw [units_bumpAo, units_countEv]
  · refine getThread_modThread (has_sawPoison ?_ _) _
    rw [eng_of_units (units_countEv _ _ _ _), (offMov_getEng b e).countLoftRead]
    exact ht

/-- A store changes of the lofts its bytes alone. -/
theorem lftOne_store (hop : iOp w = 0x2B) : (lftOne b e w k l at_ s).mem = s.mem ∧
    (getThread (lftOne b e w k l at_ s) b e k l).pc = (t.pc + 4) % 2 ^ 64 ∧
    (lftOne b e w k l at_ s).loft = writeMasked s.loft (loftIx b a) (2 ^ n - 1) (bytesOf n (t.getX (iRs2 w))) := by
  have hthread : getThread s b e k l = t := ht.thread
  have hcount : ∀ {β : Type} (g : Mach → β), OffMov g → g (countEv (countLoftWrite s b n) b 0x09 1) = g s := fun g h => by
    rw [h.of_units (units_countEv _ _ _ _), h.countLoftWrite]
  unfold lftOne
  dsimp only
  rw [hthread, ha, hn, if_neg (by simp [hp]), if_neg (by simp [hal]), if_neg (by simp [hall]), if_neg (by omega), if_pos (by simp [hop])]
  refine ⟨?_, ?_, ?_⟩
  · exact (outer_mem.modBay _ _ _).trans ((outer_mem.loftWrite _ _ _ _ _).trans (hcount _ outer_mem.offMov))
  · unfold retireNext
    rw [getThread_modThread (t := t)]
    · rfl
    · rw [getEng_loftWrite, hcount _ (offMov_getEng b e)]
      exact ht
  · refine (offBay_loft.modBay _ _ _).trans ?_
    unfold loftWrite
    rw [loft_loftPut, hcount _ offBay_loft.offMov, length_bytesOf]

end

/-! ### The instructions -/

theorem shfRow_load {w f3 : Nat} (hop : iOp w = 0x0B) (h3 : iF3 w = f3) (h : f3 < 7) : shfRow w = 0x10 + f3 := by
  unfold shfRow
  rw [hop, h3]
  exact if_pos h

theorem shfRow_store {w f3 : Nat} (hop : iOp w = 0x2B) (h3 : iF3 w = f3) (h : f3 < 4) : shfRow w = 0x20 + f3 := by
  unfold shfRow
  rw [hop, h3]
  exact if_pos h

end

section
variable {c : BayNo → Fin 4 → Instr} {f3 n : Nat} {s : State} {b : BayNo} {e : Fin 4} {k l w a : Nat} {t : Thread}
  (h : ShfOne s.mach b e k l w t) (h3 : iF3 w = f3) (hp : t.poisoned (iRs1 w) = false) (ha : lftAddr t w = a) (hal : a % n = 0)
  (hall : lftAllowed s.mach b a n = true) (hlast : max (edgeOf s.mach b) (getEng s.mach b e).memFree ≤ winLast s.mach b)
include h h3 hp ha hal hall hlast

theorem ends_lftLoad (hf : f3 < 7) (hn : 2 ^ (f3 % 4) = n) (hop : iOp w = 0x0B)
    (hc : exec (c b e) s = onMach s (fun s => lft s b e (0x10 + f3))) :
    Ends (c b e) s (fun m => m.apart b = s.mach.apart b ∧ getThread m b e k l =
      (t.put false (iRd w) (if f3 < 4 then sx (8 * n) (readNat s.mach.loft (loftIx b a) n) else readNat s.mach.loft (loftIx b a) n)
        (rangePois s.mach b a n)).retire (t.pc + 4) (max (edgeOf s.mach b) (getEng s.mach b e).memFree + 12)) := by
  obtain ⟨-, -, -, -, hx⟩ := id h
  subst h3
  have hl : max (edgeOf s.mach b) (getEng s.mach b e).memFree ≤ winLast (served s.mach b e) b := by
    rwa [winLast_of_seq seq_served]
  have hall' : lftAllowed (served s.mach b e) b a n = true := by rw [lftAllowed_congr seq_served loft_served split_served, hall]
  obtain ⟨hapart, hthread⟩ := lftOne_load (Has_served hx) hp ha hn hal hall' hl hop
  refine ⟨_, hc, ?_⟩
  dsimp only
  rw [lft_one h (shfRow_load hop rfl hf)]
  exact ⟨hapart.trans apart_served, by rw [hthread, loft_served, rangePois_served]⟩

theorem ends_lftStore (hf : f3 < 4) (hn : 2 ^ (f3 % 4) = n) (hop : iOp w = 0x2B)
    (hc : exec (c b e) s = onMach s (fun s => lft s b e (0x20 + f3))) :
    Ends (c b e) s (fun m => m.mem = s.mach.mem ∧ (getThread m b e k l).pc = (t.pc + 4) % 2 ^ 64 ∧
      m.loft = writeBytes s.mach.loft (loftIx b a) (bytesOf n (t.getX (iRs2 w)))) := by
  obtain ⟨-, -, -, -, hx⟩ := id h
  subst h3
  have hl : max (edgeOf s.mach b) (getEng s.mach b e).memFree ≤ winLast (served s.mach b e) b := by
    rwa [winLast_of_seq seq_served]
  have hall' : lftAllowed (served s.mach b e) b a n = true := by rw [lftAllowed_congr seq_served loft_served split_served, hall]
  obtain ⟨hmem, hpc, hloft⟩ := lftOne_store (Has_served hx) hp ha hn hal hall' hl hop
  have hbytes := writeMasked_full (bytesOf n (t.getX (iRs2 w)))
  rw [length_bytesOf] at hbytes
  refine ⟨_, hc, ?_⟩
  dsimp only
  rw [lft_one h (shfRow_store hop rfl hf)]
  exact ⟨hmem.trans mem_served, hpc, by rw [hloft, loft_served, hbytes]⟩

end

/-- Settles O28. -/
theorem loftLoadsAndStores : Obligations.LoftLoadsAndStores :=
  ⟨fun _ _ _ _ _ _ _ _ h hop h3 hp ha hal hall hl => ends_lftLoad h h3 hp ha hal hall hl (by decide) rfl hop rfl,
    fun _ _ _ _ _ _ _ _ h hop h3 hp ha hal hall hl => ends_lftLoad h h3 hp ha hal hall hl (by decide) rfl hop rfl,
    fun _ _ _ _ _ _ _ _ h hop h3 hp ha hal hall hl => ends_lftLoad h h3 hp ha hal hall hl (by decide) rfl hop rfl,
    fun _ _ _ _ _ _ _ _ h hop h3 hp ha hal hall hl => ends_lftLoad h h3 hp ha hal hall hl (by decide) rfl hop rfl,
    fun _ _ _ _ _ _ _ _ h hop h3 hp ha hal hall hl => ends_lftLoad h h3 hp ha hal hall hl (by decide) rfl hop rfl,
    fun _ _ _ _ _ _ _ _ h hop h3 hp ha hal hall hl => ends_lftLoad h h3 hp ha hal hall hl (by decide) rfl hop rfl,
    fun _ _ _ _ _ _ _ _ h hop h3 hp ha hal hall hl => ends_lftLoad h h3 hp ha hal hall hl (by decide) rfl hop rfl,
    fun _ _ _ _ _ _ _ _ h hop h3 hp ha hal hall hl => ends_lftStore h h3 hp ha hal hall hl (by decide) rfl hop rfl,
    fun _ _ _ _ _ _ _ _ h hop h3 hp ha hal hall hl => ends_lftStore h h3 hp ha hal hall hl (by decide) rfl hop rfl,
    fun _ _ _ _ _ _ _ _ h hop h3 hp ha hal hall hl => ends_lftStore h h3 hp ha hal hall hl (by decide) rfl hop rfl,
    fun _ _ _ _ _ _ _ _ h hop h3 hp ha hal hall hl => ends_lftStore h h3 hp ha hal hall hl (by decide) rfl hop rfl⟩

end Sys2Proof.Machine
end

section
/-! Instructions of sheaf threads (R222 to R229, R236 to R239, R244, R245). -/

namespace Sys2Proof.Machine

/-! ### The package in which a group of one thread is carried out -/

/-- The package in which an issue instruction of the group is carried out. -/
def issued (s : Mach) (b e : Nat) : Mach := takeGroup (takePort s b e) b e

section
variable {s : Mach} {b : Fin 72} {e : Fin 4} {k l w row : Nat} {t : Thread}

theorem has_takeGroup (h : (getEng s b e).Has k l t) : (getEng (takeGroup s b e) b e).Has k l t := by
  rw [getEng_takeGroup]
  exact h.of_sheaves rfl

theorem has_issued (h : (getEng s b e).Has k l t) : (getEng (issued s b e) b e).Has k l t := by
  refine has_takeGroup ?_
  rw [takePort, getEng_modEng]
  exact h.of_sheaves rfl

theorem apart_issued : (issued s b e).apart b = s.apart b := by
  unfold issued takeGroup takePort
  rw [apart_modEng, apart_modEng]

theorem seq_issued : getSeq (issued s b e) b = getSeq s b := (getSeq_modEng _ b e _).trans (getSeq_modEng _ b e _)
theorem sem_issued : getSem (issued s b e) b = getSem s b := (getSem_modEng _ b e _).trans (getSem_modEng _ b e _)
theorem etr_issued : getEtr (issued s b e) b = getEtr s b := (getEtr_modEng _ b e _).trans (getEtr_modEng _ b e _)
theorem mxa_issued : getMxa (issued s b e) b = getMxa s b := (getMxa_modEng _ b e _).trans (getMxa_modEng _ b e _)
theorem csr_issued : (issued s b e).csr = s.csr := rfl
theorem toks_issued : (issued s b e).toks = s.toks := rfl
theorem loft_issued : (issued s b e).loft = s.loft := rfl
theorem loftPois_issued : (issued s b e).loftPois = s.loftPois := rfl
theorem edgeOf_issued : edgeOf (issued s b e) b = edgeOf s b := rfl

theorem tid_issued : (getEng (issued s b e) b e).tid = (getEng s b e).tid := by
  rw [issued, getEng_takeGroup, takePort, getEng_modEng]

/-- A group of one thread is carried out once it has left the issue port. -/
theorem onGroup_of_one (h : ShfOne s b e k l w t) (hrow : shfRow w = row) (f : Nat → Nat → Nat → Mach → Mach) :
    onGroup s b e row f = f w k l (takeGroup s b e) := by
  obtain ⟨hr, hg, hw, -, -⟩ := h
  rw [onGroup_one hr hg (by rw [hw, hrow]), hw]

theorem onIssue_of_one (h : ShfOne s b e k l w t) (hrow : shfRow w = row) (f : Nat → Nat → Nat → Mach → Mach) :
    onIssue s b e row f = f w k l (issued s b e) := by
  obtain ⟨hr, hg, hw, -, -⟩ := h
  rw [onIssue_one hr hg (by rw [hw, hrow]), hw, issued]

theorem ShfOne.has (h : ShfOne s b e k l w t) : (getEng s b e).Has k l t := by
  obtain ⟨-, -, -, -, hx⟩ := h
  exact hx

theorem ShfOne.live (h : ShfOne s b e k l w t) : t.live = true := by
  obtain ⟨-, -, -, hst, -⟩ := h
  unfold Thread.live
  rw [hst]

/-! ### Base instructions -/

/-- A group of one thread does not split. -/
theorem splits_one (h : (getEng s b e).group = [(k, l)]) : splits s b e = false := by
  unfold splits
  dsimp only
  rw [h]
  simp only [List.filterMap_cons, List.filterMap_nil]
  split
  · rfl
  · next taken _ => cases taken <;> rfl

theorem retire_put_eq (t : Thread) (fp : Bool) (rd v fl at_ : Nat) (p : Bool) :
    Thread.retire { (t.put fp rd v p) with fcsr := fl } (t.pc + 4) at_ =
      { (t.put fp rd v p) with
        fcsr := fl, st := .ready, pc := (t.pc + 4) % 2 ^ 64, instret := t.instret + 1, readyAt := at_ } := by
  simp only [Thread.retire, Thread.put_instret]

end

section
variable {s : State} {b : BayNo} {e : Fin 4} {k l w : Nat} {t : Thread}

theorem ends_shfInstruction {fp : Bool} {rd v fl : Nat} (h : ShfOne s.mach b e k l w t) (hrow : shfRow w = 0) (h1 : iOp w ≠ 0x0B)
    (h2 : iOp w ≠ 0x2B) (h3 : iOp w ≠ 0x5B) (h4 : iOp w ≠ 0x7B) (hc : (rvControl w).any t.poisoned = false)
    (hexec : rvExec t.rv w = .result fp rd v fl) :
    Ends (.shfInstruction b e) s (fun m => m.apart b = s.mach.apart b ∧ m.csr = s.mach.csr ∧ (getEng m b e).group = [] ∧
      getThread m b e k l = { (t.put fp rd v ((rvSrcs w).any t.poisoned)) with
        fcsr := t.fcsr ||| fl % 32, st := .ready, pc := (t.pc + 4) % 2 ^ 64, instret := t.instret + 1,
        readyAt := edgeOf s.mach b + (shfCost w).2 }) := by
  have hx := has_takeGroup h.has
  have hthread : getThread (takeGroup s.mach b e) b e k l = t := hx.thread
  obtain ⟨-, hg, -, -, -⟩ := id h
  refine ⟨_, rfl, ?_⟩
  dsimp only
  unfold shfInstruction
  dsimp only
  rw [splits_one hg, Bool.and_false, if_neg (by simp), onGroup_of_one h hrow]
  unfold baseInsn
  dsimp only
  rw [hthread, if_neg (by simp [h1, h2, h3, h4]), if_neg (by simp [hc]), hexec]
  refine ⟨?_, rfl, ?_, ?_⟩
  · rw [apart_modThread, takeGroup, apart_modEng]
  · dsimp only
    rw [getEng_modThread, getEng_takeGroup]
    rfl
  · exact (getThread_modThread hx _).trans (retire_put_eq t fp rd v _ _ _)

end

/-! ### Faults -/

section
variable {s : Mach} {b : Fin 72} {e : Fin 4} {k l : Nat} {t : Thread}

/-- The first fault of a launch raises a record, a later one does not. -/
theorem getEng_raiseFirst (s : Mach) (r : FltRec) : getEng (if (getEng s b e).raised then s
    else raiseBay (modEng s b e (fun g => { g with raised := true })) b r) b e = { getEng s b e with raised := true } := by
  by_cases h : (getEng s b e).raised = true
  · rw [if_pos h, ← h]
  · rw [if_neg h, eng_of_units (units_raiseBay _ _ _), getEng_modEng]

/-- A fault stops its thread and counts it, whatever it records. -/
theorem getEng_threadFault (ht : (getEng s b e).Has k l t) (hl : t.live = true) (code addr : Nat) :
    getEng (threadFault s b e k l code addr) b e =
      { (getEng s b e).modThread k l (fun t => { t with st := .faulted }) with
        faulted := (getEng s b e).faulted + 1, raised := true,
        acc := (getEng s b e).acc.filter (fun a => !(decide (a.sheaf = k) && decide (a.lane = l))) } := by
  have hthread : getThread s b e k l = t := ht.thread
  have hrec (u : Mach) (c : Prop) [Decidable c] (v x y : Word) : getEng (if c then u else
      wr (wr (recordFirst u .SHF_FAULT (4 * b + e) 0 v) .SHF_FAULTPC (4 * b + e) 0 x) .SHF_FAULTADDR (4 * b + e) 0 y) b e =
        getEng u b e := by
    rw [apply_ite (getEng · b e), eng_of_units (units_wr _ _ _ _ _), eng_of_units (units_wr _ _ _ _ _),
      eng_of_units (units_recordFirst _ _ _ _ _), ite_self]
  unfold threadFault
  dsimp only
  rw [hthread, if_neg (by simp [hl])]
  refine (getEng_raiseFirst _ _).trans ?_
  rw [hrec, getEng_modEng, getEng_modThread]
  rfl

theorem has_threadFault (ht : (getEng s b e).Has k l t) (hl : t.live = true) (code addr : Nat) :
    (getEng (threadFault s b e k l code addr) b e).Has k l { t with st := .faulted } := by
  rw [getEng_threadFault ht hl]
  exact (ht.modThread _).of_sheaves rfl

end

section
variable {s : State} {b : BayNo} {e : Fin 4} {k l : Nat} {t : Thread}

theorem ends_ecall (h : ShfOne s.mach b e k l 0x73 t) : Ends (.ecall b e) s (fun m => (getThread m b e k l).st = .faulted ∧
    (getThread m b e k l).pc = t.pc ∧ (getEng m b e).faulted = (getEng s.mach b e).faulted + 1) := by
  have hx := has_takeGroup h.has
  have hthread := (has_threadFault hx h.live tEcall 0).thread
  refine ⟨_, rfl, ?_⟩
  dsimp only
  rw [onGroup_of_one h (by decide)]
  unfold getThread
  rw [hthread, getEng_threadFault hx h.live, getEng_takeGroup]
  exact ⟨rfl, rfl, rfl⟩

theorem ends_ebreak (h : ShfOne s.mach b e k l 0x100073 t) : Ends (.ebreak b e) s (fun m =>
    (getThread m b e k l).st = (if rb s.mach .DBG_BCTL b 0 0 then .stopped else .faulted)) := by
  have hx := has_takeGroup h.has
  have hclaim : rb (takeGroup s.mach b e) .DBG_BCTL b 0 0 = rb s.mach .DBG_BCTL b 0 0 := rfl
  refine ⟨_, rfl, ?_⟩
  dsimp only
  rw [onGroup_of_one h (by decide)]
  unfold doEbreak
  rw [hclaim]
  split
  · unfold getThread
    rw [eng_of_units (units_wb _ _ _ _ _ _), getEng_modThread]
    exact congrArg Thread.st (hx.modThread _).thread
  · exact congrArg Thread.st (has_threadFault hx h.live tBreak 0).thread

theorem ends_shfExit {w : Nat} (h : ShfOne s.mach b e k l w t) (hrow : shfRow w = 0x60) : Ends (.shfExit b e) s (fun m =>
    m.csr = s.mach.csr ∧ (getThread m b e k l).st = .exited ∧ (getEng m b e).exited = (getEng s.mach b e).exited + 1) := by
  have hx := has_takeGroup h.has
  refine ⟨_, rfl, ?_⟩
  dsimp only
  rw [onGroup_of_one h hrow]
  unfold exitThread
  refine ⟨rfl, ?_, ?_⟩
  · unfold getThread
    rw [getEng_modEng, getEng_modThread]
    exact congrArg Thread.st ((hx.modThread _).of_sheaves rfl).thread
  · rw [getEng_modEng, getEng_modThread]
    show (getEng (takeGroup s.mach b e) b e).exited + 1 = _
    rw [getEng_takeGroup]

end

end Sys2Proof.Machine
end

section
/-! Requests of sheaf threads: semaphores, tokens, bales, the matrix array, and crop-range accesses (R229, R236 to R239, R253, R271). -/

namespace Sys2Proof.Machine

/-! ### Semaphores -/

section
variable {s : Mach} {b : Fin 72} {e : Fin 4} {k l w p : Nat} {t : Thread}

theorem semPhys_congr {s t : Mach} {b : Nat} (h : ∀ k < 64, rg s .SEM_POOL b k = rg t .SEM_POOL b k) (i n : Nat) :
    semPhys s b i n = semPhys t b i n := by
  have hfind : (List.range 64).find? (fun k => rb s .SEM_POOL b k 63 && decide (rf s .SEM_POOL b k 57 48 = i)) =
      (List.range 64).find? (fun k => rb t .SEM_POOL b k 63 && decide (rf t .SEM_POOL b k 57 48 = i)) := by
    refine List.find?_congr fun k hk => ?_
    unfold rb rf
    rw [h k (List.mem_range.1 hk)]
  have hpool : semPool s b i = semPool t b i := by
    unfold semPool
    rw [hfind]
    cases hk : (List.range 64).find? (fun k => rb t .SEM_POOL b k 63 && decide (rf t .SEM_POOL b k 57 48 = i)) with
    | none => rfl
    | some k =>
      have hlt : k < 64 := List.mem_range.1 (List.mem_of_find?_eq_some hk)
      simp only [Option.map_some, rf, h k hlt]
  unfold semPhys
  rw [hpool]

theorem semPhys_of_csr {s t : Mach} (h : s.csr = t.csr) (b i n : Nat) : semPhys s b i n = semPhys t b i n :=
  semPhys_congr (fun _ _ => rg_of_csr h _ _ _) i n

/-- An operation whose operands are in order is carried out on the physical semaphore. -/
theorem semOperand_of_some (ht : (getEng s b e).Has k l t) (h1 : t.poisoned (iRs1 w) = false) (h2 : t.poisoned (iRs2 w) = false)
    (hn : t.getX (iRs2 w) < 2 ^ 32) (hp : (getSeq s b).tid.bind (fun i => semPhys s b i (t.getX (iRs1 w))) = some p)
    (f : Nat → Nat → Mach) : semOperand b e w k l s f = f p (t.getX (iRs2 w)) := by
  have hthread : getThread s b e k l = t := ht.thread
  unfold semOperand
  dsimp only
  rw [hthread, if_neg (by simp [h1, h2]), if_pos hn, hp]

theorem semPhys_issued (i n : Nat) : semPhys (issued s b e) b i n = semPhys s b i n := semPhys_of_csr csr_issued b i n

/-- The bay's semaphores hold one operation more, and the thread goes on. -/
theorem semThread_of_some (kind : SemKind) (ht : (getEng s b e).Has k l t) (h1 : t.poisoned (iRs1 w) = false)
    (h2 : t.poisoned (iRs2 w) = false) (hn : t.getX (iRs2 w) < 2 ^ 32)
    (hp : (getSeq s b).tid.bind (fun i => semPhys s b i (t.getX (iRs1 w))) = some p) :
    (semThread kind b e w k l (issued s b e)).apart b = s.apart b ∧
    (getThread (semThread kind b e w k l (issued s b e)) b e k l).pc = (t.pc + 4) % 2 ^ 64 ∧
    (getSem (semThread kind b e w k l (issued s b e)) b).ops = (getSem s b).ops ++
      [{ edge := edgeOf s b + 8, src := .sheaf (e.val * 32 + l), kind := kind, phys := p, n := t.getX (iRs2 w) }] := by
  have hp' : (getSeq (issued s b e) b).tid.bind (fun i => semPhys (issued s b e) b i (t.getX (iRs1 w))) = some p := by
    simp only [seq_issued, semPhys_issued, hp]
  have hmod (f : Sem → Sem) : (getEng (modSem (issued s b e) b f) b e).Has k l t := by
    rw [getEng_modSem]
    exact has_issued ht
  unfold semThread
  rw [semOperand_of_some (has_issued ht) h1 h2 hn hp']
  refine ⟨?_, ?_, ?_⟩
  · unfold retireNext
    rw [apart_modThread, apart_modSem, apart_issued]
  · unfold retireNext
    rw [getThread_modThread (hmod _)]
    rfl
  · unfold retireNext modThread
    rw [getSem_modEng, getSem_modSem, sem_issued]
    rfl

end

section
variable {s : State} {b : BayNo} {e : Fin 4} {k l w p : Nat} {t : Thread}

theorem ends_semOp {c : Instr} (kind : SemKind) {row : Nat} (h : ShfOne s.mach b e k l w t) (hrow : shfRow w = row)
    (h1 : t.poisoned (iRs1 w) = false) (h2 : t.poisoned (iRs2 w) = false) (hn : t.getX (iRs2 w) < 2 ^ 32)
    (hp : (getSeq s.mach b).tid.bind (fun i => semPhys s.mach b i (t.getX (iRs1 w))) = some p)
    (hc : exec c s = onMach s (fun s => onIssue s b e row (semThread kind b e))) :
    Ends c s (fun m => m.apart b = s.mach.apart b ∧ (getThread m b e k l).pc = (t.pc + 4) % 2 ^ 64 ∧
      (getSem m b).ops = (getSem s.mach b).ops ++
        [{ edge := edgeOf s.mach b + 8, src := .sheaf (e.val * 32 + l), kind := kind, phys := p, n := t.getX (iRs2 w) }]) := by
  refine ⟨_, hc, ?_⟩
  dsimp only
  rw [onIssue_of_one h hrow]
  exact semThread_of_some kind h.has h1 h2 hn hp

theorem ends_semWait (h : ShfOne s.mach b e k l w t) (hrow : shfRow w = 0x42) (h1 : t.poisoned (iRs1 w) = false)
    (h2 : t.poisoned (iRs2 w) = false) (hn : t.getX (iRs2 w) < 2 ^ 32)
    (hp : (getSeq s.mach b).tid.bind (fun i => semPhys s.mach b i (t.getX (iRs1 w))) = some p) :
    Ends (.semWait b e) s (fun m => m.apart b = s.mach.apart b ∧ (getThread m b e k l).st = .semWait ∧
      (getSem m b).waits = (getSem s.mach b).waits ++
        [{ eng := e, sheaf := k, lane := l, phys := p, n := t.getX (iRs2 w), from_ := edgeOf s.mach b + 8, got := none }]) := by
  have hp' : (getSeq (issued s.mach b e) b).tid.bind (fun i => semPhys (issued s.mach b e) b i (t.getX (iRs1 w))) = some p := by
    simp only [seq_issued, semPhys_issued, hp]
  have hmod (f : Sem → Sem) : (getEng (modSem (issued s.mach b e) b f) b e).Has k l t := by
    rw [getEng_modSem]
    exact has_issued h.has
  refine ⟨_, rfl, ?_⟩
  dsimp only
  rw [onIssue_of_one h hrow]
  unfold semWaitThread
  rw [semOperand_of_some (has_issued h.has) h1 h2 hn hp']
  refine ⟨?_, ?_, ?_⟩
  · dsimp only
    rw [apart_modThread, apart_modSem, apart_issued]
  · exact congrArg Thread.st (getThread_modThread (hmod _) _)
  · unfold modThread
    dsimp only
    rw [getSem_modEng, getSem_modSem, sem_issued]
    rfl

theorem ends_semWaitSatisfied {x : SemWait} {h : Nat} (hw : (getSem s.mach b).waits = [x]) (hgot : x.got = some h) :
    Ends (.semWaitSatisfied b) s (fun m => m.apart b = s.mach.apart b ∧ m.csr = s.mach.csr ∧ (getSem m b).waits = [] ∧
      m.now = max s.mach.now (edgeTick (clkOf s.mach b) (h + 2))) := by
  have hnone : (getSem s.mach b).waits.find? (fun w => w.got.isNone && decide (w.n ≤ semCount s.mach b w.phys)) = none := by
    rw [hw]
    simp [hgot]
  have hsome : (getSem s.mach b).waits.find? (fun w => w.got.isSome) = some x := by
    rw [hw]
    simp [hgot]
  refine ⟨_, rfl, ?_⟩
  dsimp only
  unfold semWaitSatisfied
  dsimp only
  rw [hnone]
  dsimp only
  rw [hsome]
  dsimp only
  refine ⟨?_, rfl, ?_, ?_⟩
  · unfold retireNext modThread
    rw [modEng, apart_modBay, apart_modSem, apart_advanceEdge]
  · unfold retireNext modThread
    rw [getSem_modEng, getSem_modSem]
    show (getSem s.mach b).waits.erase x = []
    rw [hw, List.erase_cons_head]
  · show max s.mach.now (edgeTick _ (x.got.getD 0 + 2)) = _
    rw [hgot]
    rfl

/-! ### Tokens -/

/-- A token to a bay of the sender's partition is on its way, one more. -/
theorem sendToken_flight {s : Mach} {b a : Nat} (edge n : Nat) (hd : a ≠ tokNone) (hloc : tokLocal s a = true)
    (hfor : tokForeign s b a = false) : ∃ (u : Mach) (f : TokFlight), sendToken s b edge n false a = u ∧ u.csr = s.csr ∧
      u.bays = s.bays ∧ u.toks = s.toks ++ [f] ∧ f.bay = tokBay a ∧ f.ch = tokCh a ∧ f.n = n ∧ f.poison = false := by
  unfold sendToken
  rw [if_neg hd, if_pos hloc, if_neg (by simp [hfor])]
  exact ⟨_, _, rfl, rfl, rfl, rfl, rfl, rfl, rfl, rfl⟩

theorem ends_tokSig {a n : Nat} (h : ShfOne s.mach b e k l w t) (hrow : shfRow w = 0x52) (h1 : t.poisoned (iRs1 w) = false)
    (h2 : t.poisoned (iRs2 w) = false) (ha : t.getX (iRs1 w) % 2 ^ 32 = a) (hn : t.getX (iRs2 w) % 256 = n) (hrem : tokRem a = false)
    (hill : tokIllegal a = false) (hpres : bayPresent s.mach (tokBay a) = true) (hfor : tokForeign s.mach b a = false) (h0 : n ≠ 0)
    (hd : a ≠ tokNone) :
    Ends (.tokSig b e) s (fun m => m.csr = s.mach.csr ∧ (getThread m b e k l).pc = (t.pc + 4) % 2 ^ 64 ∧
      ∃ f, m.toks = s.mach.toks ++ [f] ∧ f.bay = tokBay a ∧ f.ch = tokCh a ∧ f.n = n ∧ f.poison = false) := by
  have hx := has_issued h.has
  have hthread : getThread (issued s.mach b e) b e k l = t := hx.thread
  have hloc : tokLocal (issued s.mach b e) a = true := by simp [tokLocal, hrem]
  have hfor' : tokForeign (issued s.mach b e) b a = false := hfor
  have hpres' : bayPresent (issued s.mach b e) (tokBay a) = true := hpres
  refine ⟨_, rfl, ?_⟩
  dsimp only
  rw [onIssue_of_one h hrow]
  unfold tokThread
  dsimp only
  rw [hthread, ha, hn, if_neg (by simp [h1, h2]), if_neg (by simp [hrem, hill, hpres', hfor', h0])]
  obtain ⟨u, f, hu, hcsr, hbays, htoks, hf⟩ := sendToken_flight (edgeOf (issued s.mach b e) b) n hd hloc hfor'
  have hx' : (getEng u b e).Has k l t := by
    unfold getEng getBay at hx ⊢
    rwa [hbays]
  rw [hu]
  exact ⟨hcsr, congrArg Thread.pc (getThread_modThread (e := e) hx' _), f, htoks, hf⟩

/-! ### Bales -/

theorem baleIssue_none {s : Mach} {b e : Nat} (h : (getEtr s b).ans = []) : baleIssue s b e = onIssue s b e 0x51 (baleAsk b e) := by
  unfold baleIssue
  dsimp only
  rw [h]
  show onIssue (if shfRuns s b e then s else s) b e 0x51 (baleAsk b e) = _
  rw [ite_self]

theorem ends_baleIssue (h : ShfOne s.mach b e k l w t) (hrow : shfRow w = 0x51) (hans : (getEtr s.mach b).ans = [])
    (h1 : t.poisoned (iRs1 w) = false) (hal : t.getX (iRs1 w) % 64 = 0) :
    Ends (.baleIssue b e) s (fun m => m.apart b = s.mach.apart b ∧ (getThread m b e k l).st = .desc ∧
      (getEtr m b).reqs = (getEtr s.mach b).reqs ++
        [{ queue := 2, tid := (getEng s.mach b e).tid, va := t.getX (iRs1 w), len := 64, kind := 7, owner := .desc e k l }]) := by
  have hx := has_issued h.has
  have hthread : getThread (issued s.mach b e) b e k l = t := hx.thread
  have hreq (f : Etr → Etr) : (getEng (modEtr (issued s.mach b e) b f) b e).Has k l t := by
    rw [getEng_modEtr]
    exact hx
  refine ⟨_, rfl, ?_⟩
  dsimp only
  rw [baleIssue_none hans, onIssue_of_one h hrow]
  unfold baleAsk
  dsimp only
  rw [hthread, if_neg (by simp [h1]), if_neg (by simp [hal]), tid_issued]
  refine ⟨?_, ?_, ?_⟩
  · rw [apart_modThread, apart_modEtr, apart_issued]
  · rw [getThread_modThread (hreq _)]
  · unfold modThread
    rw [getEtr_modEng, getEtr_modEtr, etr_issued]

/-! ### The matrix array -/

/-- No thread waits for room at the array when the one live thread is ready. -/
theorem threadsAt_none {s : Mach} {b e row : Nat} (hlive : (getEng s b e).live = [(k, l)])
    (ht : (getEng s b e).thread k l = t) (hst : t.st = .ready) : threadsAt s b e .room row = [] := by
  unfold threadsAt
  dsimp only
  rw [hlive]
  simp only [List.filterMap_cons, List.filterMap_nil, ht]
  cases cachedWord (getEng s b e) t.pc with
  | none => rfl
  | some w => simp [hst]

theorem mxaIssue_none {s : Mach} {b e : Nat} (hlive : (getEng s b e).live = [(k, l)]) (ht : (getEng s b e).thread k l = t)
    (hst : t.st = .ready) : mxaIssue s b e = onIssue s b e 0x50 (mxaThread b e) := by
  unfold mxaIssue
  rw [threadsAt_none hlive ht hst]
  show onIssue (if shfRuns s b e then s else s) b e 0x50 (mxaThread b e) = _
  rw [ite_self]

theorem uncounted_semPool (b : Fin 72) {k : Nat} (hk : k < 64) : Uncounted (RegRef.addr ⟨.SEM_POOL, b, k⟩) := by
  unfold Uncounted
  simp only [RegRef.addr, RegName.info, Blk.base, dieBase, compDieId]
  constructor <;> omega

theorem uncounted_lftSplit (b : Fin 72) : Uncounted (RegRef.addr ⟨.LFT_SPLIT, b, 0⟩) := by
  unfold Uncounted
  simp only [RegRef.addr, RegName.info, Blk.base, dieBase, compDieId]
  constructor <;> omega

theorem rg_countLoftRead_of_uncounted {n : RegName} {u i : Nat} (h : Uncounted (RegRef.addr ⟨n, u, i⟩)) (s : Mach) (b : Fin 72) (m : Nat) :
    rg (countLoftRead s b m) n u i = rg s n u i := by
  unfold countLoftRead
  rw [rg_bumpAo_of_uncounted h (compDieId_lt b) (by decide), rg_countEv_of_uncounted h]

/-- A read of the loft counted as a thread's. -/
def countRead (s : Mach) (b n : Nat) : Mach := countEv (countLoftRead s b n) b 0x09 1

theorem units_countRead (s : Mach) (b n : Nat) : (countRead s b n).units = s.units := by
  unfold countRead countLoftRead
  rw [units_countEv, units_bumpAo, units_countEv]

theorem rg_countRead {n : RegName} {u i : Nat} (h : Uncounted (RegRef.addr ⟨n, u, i⟩)) (s : Mach) (b : Fin 72) (m : Nat) :
    rg (countRead s b m) n u i = rg s n u i := by
  unfold countRead
  rw [rg_countEv_of_uncounted h, rg_countLoftRead_of_uncounted h]

theorem reqOk_congr {s t : Mach} {b : Nat} (hl : s.loft = t.loft) (hp : rg s .LFT_SPLIT b 0 = rg t .LFT_SPLIT b 0) (g : Nat) (q : MxaReq) :
    reqOk s b g q = reqOk t b g q := by
  have hin : inBanks s b g = inBanks t b g := by
    funext x
    unfold inBanks plannedSize rf
    rw [hp]
  unfold reqOk reqProf
  rw [hl, hin]

theorem ends_mxaIssue {a p : Nat} {win : FlexWin} {q : MxaReq} (h : ShfOne s.mach b e k l w t) (hrow : shfRow w = 0x50)
    (hlive : (getEng s.mach b e).live = [(k, l)]) (h1 : t.poisoned (iRs1 w) = false) (ha : t.getX (iRs1 w) = a) (hal : a % 32 = 0)
    (hall : lftAllowed s.mach b a 32 = true) (hwin : (getSeq s.mach b).win = some win) (hlend : win.mxaLend = true)
    (hpois : rangePois s.mach b a 32 = false)
    (hq : q = { prof := readNat s.mach.loft (loftIx b (a + 16)) 8, word := BitVec.ofNat 128 (readNat s.mach.loft (loftIx b a) 16),
                sem := readNat s.mach.loft (loftIx b (a + 24)) 8 }) (hprof : q.prof < 2 ^ 19) (hsem : q.sem < 2 ^ 11)
    (hp : (getSeq s.mach b).tid.bind (fun i => semPhys s.mach b i q.sem) = some p) (hok : reqOk s.mach b win.bankgrp q = true)
    (hroom : (getMxa s.mach b).flexq.length < 3) :
    Ends (.mxaIssue b e) s (fun m => m.apart b = s.mach.apart b ∧ (getMxa m b).flexq = (getMxa s.mach b).flexq ++ [q] ∧
      (getThread m b e k l).pc = (t.pc + 4) % 2 ^ 64) := by
  have hx := has_issued h.has
  have hthread : getThread (issued s.mach b e) b e k l = t := hx.thread
  have hu := units_countRead (issued s.mach b e) b 32
  have hsplit : rg (issued s.mach b e) .LFT_SPLIT b 0 = rg s.mach .LFT_SPLIT b 0 := rg_of_csr csr_issued _ _ _
  have hall' : lftAllowed (issued s.mach b e) b a 32 = true := by rw [lftAllowed_congr seq_issued loft_issued hsplit, hall]
  have hloft : (countRead (issued s.mach b e) b 32).loft = s.mach.loft := (loft_of_units hu).trans loft_issued
  have hpois' : rangePois (countRead (issued s.mach b e) b 32) b a 32 = false := by
    unfold rangePois granPois at hpois ⊢
    rwa [loftPois_of_units hu, loftPois_issued]
  have hseq : getSeq (countRead (issued s.mach b e) b 32) b = getSeq s.mach b := (seq_of_units hu b).trans seq_issued
  have hphys (i n : Nat) : semPhys (countRead (issued s.mach b e) b 32) b i n = semPhys s.mach b i n :=
    (semPhys_congr (fun k hk => rg_countRead (uncounted_semPool b hk) _ b 32) i n).trans (semPhys_issued i n)
  have hok' : reqOk (countRead (issued s.mach b e) b 32) b win.bankgrp q = true := by
    rw [reqOk_congr hloft ((rg_countRead (uncounted_lftSplit b) _ b 32).trans hsplit), hok]
  have hmxa : getMxa (countRead (issued s.mach b e) b 32) b = getMxa s.mach b := (mxa_of_units hu b).trans mxa_issued
  have hx' : (getEng (countRead (issued s.mach b e) b 32) b e).Has k l t := by rwa [eng_of_units hu]
  obtain ⟨-, -, -, hst, -⟩ := id h
  have hprof' : readNat s.mach.loft (loftIx b (a + 16)) 8 = q.prof := by rw [hq]
  have hsem' : readNat s.mach.loft (loftIx b (a + 24)) 8 = q.sem := by rw [hq]
  have hword : BitVec.ofNat 128 (readNat s.mach.loft (loftIx b a) 16) = q.word := by rw [hq]
  have hread : countEv (countLoftRead (issued s.mach b e) b 32) b 0x09 1 = countRead (issued s.mach b e) b 32 := rfl
  refine ⟨_, rfl, ?_⟩
  dsimp only
  rw [mxaIssue_none hlive h.has.thread hst, onIssue_of_one h hrow]
  unfold mxaThread
  dsimp only
  rw [hthread, ha, seq_issued, hwin, if_neg (by simp [h1]), if_neg (by simp [hal]), if_neg (by simp [hall']), if_neg (by simp [hlend]),
    hread, hloft, hpois', hprof', hsem', hword, if_neg (show ¬ (2 ^ 63 ≤ q.sem) by omega), Nat.mod_eq_of_lt hprof, hseq,
    if_neg Bool.false_ne_true, if_neg (by omega)]
  simp only [hphys, hp]
  rw [if_neg (by simp), if_neg (by rw [hok']; decide), hmxa, if_neg (by split <;> omega)]
  refine ⟨?_, ?_, ?_⟩
  · rw [apart_modThread, apart_modMxa, apart_of_units hu, apart_issued]
  · unfold modThread
    rw [getMxa_modEng, getMxa_modMxa, hmxa]
  · rw [getThread_modThread (t := t)]
    · rw [Thread.retire_pc]
    · rwa [getEng_modMxa]

end

/-! ### Crop-range accesses -/

theorem edgeOf_advanceEdge_congr {s t : Mach} (hclk : s.clk = t.clk) (hnow : s.now = t.now) (b n : Nat) :
    edgeOf (advanceEdge s b n) b = edgeOf (advanceEdge t b n) b := by
  unfold edgeOf advanceEdge clkOf getClk
  rw [advanceTo_clk, advanceTo_clk, advanceTo_now, advanceTo_now, hclk, hnow]

theorem portServe_fst (s : Mach) (b e n : Nat) : (portServe s b e n).1 = max (edgeOf s b) (getEng s b e).memFree := by
  unfold portServe
  rfl

section
variable {s : State} {b : BayNo} {e : Fin 4}

theorem ends_shfMemoryAccess {a : ShAcc} (hr : shfRuns s.mach b e = true) (hacc : (getEng s.mach b e).acc = [a]) (hsent : a.sent = false)
    (hkind : a.kind = .load)
    (hlast : edgeOf (advanceEdge s.mach b (max (edgeOf s.mach b) (getEng s.mach b e).memFree)) b ≤ winLast s.mach b) :
    Ends (.shfMemoryAccess b e) s (fun m => m.apart b = s.mach.apart b ∧ (getEng m b e).acc = [{ a with sent := true }] ∧
      (getEtr m b).reqs = (getEtr s.mach b).reqs ++
        [{ queue := 3 + e.val, tid := (getEng s.mach b e).tid, va := a.a, len := a.size, kind := 0,
           owner := .thread e a.sheaf a.lane }]) := by
  have hu := units_portServe (s := s.mach) (b := b) (e := e) 1
  have hfilter : (getEng s.mach b e).acc.filter (fun a => !a.sent) = [a] := by
    rw [hacc]
    simp [hsent]
  have hedge (n : Nat) : edgeOf (advanceEdge (portServe s.mach b e 1).2 b n) b = edgeOf (advanceEdge s.mach b n) b :=
    edgeOf_advanceEdge_congr ((clk_of_units hu).trans (clk_modEng _ b e _)) (now_portServe 1) b n
  have hwin (n : Nat) : winLast (advanceEdge (portServe s.mach b e 1).2 b n) b = winLast s.mach b :=
    winLast_of_seq ((seq_of_units (units_advanceEdge _ _ _) b).trans (seq_portServe 1))
  have hall : [a].all (fun a => decide (a.kind = .load ∨ a.kind = .store)) = true := by simp [hkind]
  have hsecs : (sectorsOf ([a].map (fun a => (a.a, a.size)))).length = 1 := rfl
  have hk : accKind a.kind = 0 := by rw [hkind]; rfl
  refine ⟨_, rfl, ?_⟩
  dsimp only
  unfold shfMemoryAccess
  dsimp only
  rw [hfilter, if_neg (by simp [hr]), if_pos hall, hsecs, portServe_fst]
  rw [hwin, hedge, if_neg (by simpa using hlast)]
  unfold foldS
  rw [List.foldl_cons, List.foldl_nil, hk]
  refine ⟨?_, ?_, ?_⟩
  · rw [apart_modEtr, apart_modEng, apart_advanceEdge, apart_of_units hu, apart_modEng]
  · rw [getEng_modEtr, getEng_modEng, eng_of_units (units_advanceEdge _ _ _), getEng_portServe]
    show (getEng s.mach b e).acc.map _ = _
    rw [hacc]
    rfl
  · rw [getEtr_modEtr, getEtr_modEng, etr_of_units (units_advanceEdge _ _ _), etr_of_units hu, getEtr_modEng]

theorem ends_shfLoadResult {a : ShAcc} {x : Sheaf} {t : Thread} {v : Nat} {p : Bool} (hacc : (getEng s.mach b e).acc = [a])
    (hdata : a.data = some (v, p)) (hx : (getEng s.mach b e).sheaf a.sheaf = some x) (ht : x.threads[a.lane]? = some t) :
    Ends (.shfLoadResult b e) s (fun m => m.apart b = s.mach.apart b ∧ m.csr = s.mach.csr ∧ (getEng m b e).acc = [] ∧
      getThread m b e a.sheaf a.lane = (t.put a.fp a.rd v p).retire (t.pc + 4) (edgeOf s.mach b)) := by
  have hhas : (getEng s.mach b e).Has a.sheaf a.lane t := ⟨x, hx, ht⟩
  have hfind : (getEng s.mach b e).acc.find? (fun y => y.data.isSome) = some a := by
    rw [hacc]
    simp [hdata]
  have herase : (getEng (modEng s.mach b e (fun g => { g with acc := g.acc.erase a })) b e).acc = [] := by
    rw [getEng_modEng]
    show (getEng s.mach b e).acc.erase a = []
    rw [hacc, List.erase_cons_head]
  refine ⟨_, rfl, ?_⟩
  dsimp only
  unfold shfLoadResult
  rw [hfind]
  dsimp only
  rw [hdata]
  refine ⟨?_, rfl, ?_, ?_⟩
  · rw [apart_modThread, apart_modEng]
  · rw [getEng_modThread]
    exact herase
  · rw [getThread_modThread (t := t)]
    · rfl
    · rw [getEng_modEng]
      exact hhas.of_sheaves rfl

end

/-- Settles O27. -/
theorem threadsExecute : Obligations.ThreadsExecute :=
  ⟨fun _ _ _ _ _ _ _ _ _ _ _ h hrow h1 h2 h3 h4 hc hx => ends_shfInstruction h hrow h1 h2 h3 h4 hc hx,
    fun _ _ _ _ _ _ h => ends_ecall h,
    fun _ _ _ _ _ _ h => ends_ebreak h,
    fun _ _ _ _ _ _ _ h hrow => ends_shfExit h hrow,
    fun _ _ _ _ _ _ _ _ h hrow h1 h2 hn hp => ends_semOp .add h hrow h1 h2 hn hp rfl,
    fun _ _ _ _ _ _ _ _ h hrow h1 h2 hn hp => ends_semOp .sub h hrow h1 h2 hn hp rfl,
    fun _ _ _ _ _ _ _ _ h hrow h1 h2 hn hp => ends_semWait h hrow h1 h2 hn hp,
    fun _ _ _ _ hw hgot => ends_semWaitSatisfied hw hgot,
    fun _ _ _ _ _ _ _ _ _ h hrow h1 h2 ha hn hrem hill hpres hfor h0 hd =>
      ends_tokSig h hrow h1 h2 ha hn hrem hill hpres hfor h0 hd,
    fun _ _ _ _ _ _ _ h hrow hans h1 hal => ends_baleIssue h hrow hans h1 hal,
    fun _ _ _ _ _ _ _ _ _ _ _ h hrow hlive h1 ha hal hall hwin hlend hpois hq hprof hsem hp hok hroom =>
      ends_mxaIssue h hrow hlive h1 ha hal hall hwin hlend hpois hq hprof hsem hp hok hroom,
    fun _ _ _ _ hr hacc hsent hkind hlast => ends_shfMemoryAccess hr hacc hsent hkind hlast,
    fun _ _ _ _ _ _ _ _ hacc hdata hx ht => ends_shfLoadResult hacc hdata hx ht⟩

end Sys2Proof.Machine
end

section
/-! A launch from FLEX to RESULT (R85 to R88, R218 to R221, R232, R240 to R242). -/

namespace Sys2Proof.Machine

theorem offArray_getEng (b : Fin 72) (e : Nat) : OffArray (getEng · b e) :=
  ⟨offMov_getEng b e, fun _ _ => rfl, fun _ _ => rfl, fun _ _ => rfl, fun _ _ _ => rfl, fun _ _ => rfl,
    fun s c _ => part_modBay s b c _ (fun x => vget Eng.zero x.engs e) fun _ => rfl,
    fun s c _ => part_modBay s b c _ (fun x => vget Eng.zero x.engs e) fun _ => rfl,
    fun s c _ _ => part_modBay s b c _ (fun x => vget Eng.zero x.engs e) fun _ => rfl⟩

theorem offArray_getSeq (b : Fin 72) : OffArray (getSeq · b) :=
  ⟨⟨fun h => seq_of_units h b, fun s c _ => part_modBay s b c _ Bay.seq fun _ => rfl⟩, fun _ _ => rfl, fun _ _ => rfl, fun _ _ => rfl,
    fun _ _ _ => rfl, fun _ _ => rfl, fun s c _ => part_modBay s b c _ Bay.seq fun _ => rfl,
    fun s c _ => part_modBay s b c _ Bay.seq fun _ => rfl, fun s c _ _ => part_modBay s b c _ Bay.seq fun _ => rfl⟩

/-! ### FLEX -/

/-- Every engine of a list takes the launch, in turn. -/
def launchAll (b : Nat) (d : Line) (off : Nat) (rank : Nat → Nat) (n : Nat) (l : List Nat) (s : Mach) : Mach :=
  foldS l (fun t e => modEng t b e (fun _ => launchEng d off (rank e) n ((getSeq t b).tid.getD 0))) s

section
variable {s : Mach} {b : Fin 72} {d : Line} {off n : Nat} {rank : Nat → Nat}

theorem apart_launchAll (l : List Nat) : (launchAll b d off rank n l s).apart b = s.apart b :=
  foldS_keeps (Mach.apart · b) _ _ _ fun t e => apart_modEng t b e _

theorem csr_launchAll (l : List Nat) : (launchAll b d off rank n l s).csr = s.csr := foldS_keeps Mach.csr _ _ _ fun _ _ => rfl

theorem seq_launchAll (l : List Nat) : getSeq (launchAll b d off rank n l s) b = getSeq s b :=
  foldS_keeps (getSeq · b) _ _ _ fun t e => getSeq_modEng t b e _

/-- An engine that has taken the launch keeps it, whichever take it after. -/
theorem getEng_launchAll_of_mem (e : Fin 4) (l : List Nat) (h : e.val ∈ l ∨ ∃ tid, getEng s b e = launchEng d off (rank e) n tid) :
    ∃ tid, getEng (launchAll b d off rank n l s) b e = launchEng d off (rank e) n tid := by
  induction l generalizing s with
  | nil => exact h.resolve_left List.not_mem_nil
  | cons x xs ih =>
    refine ih (s := modEng s b x (fun _ => launchEng d off (rank x) n ((getSeq s b).tid.getD 0))) ?_
    by_cases hx : e.val = x
    · subst hx
      exact Or.inr ⟨_, getEng_modEng s b e _⟩
    · rcases h with h | ⟨tid, h⟩
      · exact Or.inl ((List.mem_cons.1 h).resolve_left hx)
      · exact Or.inr ⟨tid, (getEng_modEng_other s b hx _).trans h⟩

end

/-- The window that FLEX opens over the FCLK of its word. -/
def flexWin (w : Slot) (first last : Nat) : FlexWin :=
  { eng := fxEng w, bankgrp := fld w 99 92, mxaLend := bit w 91, doneCh := fld w 57 48, first := first, last := last,
    isOpen := true, pois := false, signalled := false }

theorem doFlex_eq {s : Mach} {b : Nat} {w : Slot} {d : Line} (hres : reservedClear w [(103, 91), (82, 64), (57, 48)] = true)
    (hfence : fenceOk s b (fld w 82 64 * 64) 64 = true)
    (hd : BitVec.ofNat 512 (readNat s.loft (loftIx b (fld w 82 64 * 64)) 64) = d) (hok : launchOk w d = true)
    (hengs : ∀ e ∈ bitList 4 (fxEng w), shfPresent s b e = true ∧ (getEng s b e).active = false) (hwin : (getSeq s b).win = none) :
    doFlex b w s = launchAll b d (fld w 82 64 * 64) (popcount · (fxEng w)) (getStream s b 0).issued (bitList 4 (fxEng w))
      (modSeq s b (fun q => { q with win := some (flexWin w (getStream s b 0).issued (getStream s b 0).last) })) := by
  have habsent : (bitList 4 (fxEng w)).any (fun e => !shfPresent s b e) = false := by
    rw [List.any_eq_false]
    intro e he
    simp [(hengs e he).1]
  have hbusy : (bitList 4 (fxEng w)).any (fun e => (getEng s b e).active) = false := by
    rw [List.any_eq_false]
    intro e he
    simp [(hengs e he).2]
  unfold doFlex
  dsimp only
  rw [if_neg (by simp [hres]), if_neg (by simp [hfence]), hd, if_neg (by simp [hok]), habsent, hbusy, hwin,
    if_neg Bool.false_ne_true, if_neg (by simp)]
  rfl

section
variable {s : State} {b : BayNo}

theorem ends_flex {w : Slot} {d : Line} (hop : opReady s.mach b 0 1 1 = true) (hw : (getStream s.mach b 0).word = w)
    (hres : reservedClear w [(103, 91), (82, 64), (57, 48)] = true) (hfence : fenceOk s.mach b (fld w 82 64 * 64) 64 = true)
    (hd : BitVec.ofNat 512 (readNat s.mach.loft (loftIx b (fld w 82 64 * 64)) 64) = d) (hok : launchOk w d = true)
    (hengs : ∀ e ∈ bitList 4 (fxEng w), shfPresent s.mach b e = true ∧ (getEng s.mach b e).active = false)
    (hwin : (getSeq s.mach b).win = none) :
    Ends (.flex b) s (fun m => m.apart b = s.mach.apart b ∧ m.csr = s.mach.csr ∧
      (∃ win, (getSeq m b).win = some win ∧ win.isOpen = true ∧ win.eng = fxEng w ∧ win.doneCh = fld w 57 48 ∧
        win.first = (getStream s.mach b 0).issued ∧ win.last = (getStream s.mach b 0).last) ∧
      ∀ e : Fin 4, e.val ∈ bitList 4 (fxEng w) → (getEng m b e).active = true ∧ (getEng m b e).desc = d ∧
        (getEng m b e).daddr = fld w 82 64 * 64 ∧ (getEng m b e).start = (getStream s.mach b 0).issued ∧
        (getEng m b e).total = ceilDiv (lNthr d) 32) := by
  have hseq : getSeq (opDone s.mach b 0) b = getSeq s.mach b := getSeq_modStream s.mach b 0 _
  have hfence' : fenceOk (opDone s.mach b 0) b (fld w 82 64 * 64) 64 = true := by rw [fenceOk_opDone, hfence]
  have hengs' (e : Nat) (he : e ∈ bitList 4 (fxEng w)) :
      shfPresent (opDone s.mach b 0) b e = true ∧ (getEng (opDone s.mach b 0) b e).active = false :=
    ⟨(hengs e he).1, by rw [opDone, getEng_modStream, (hengs e he).2]⟩
  have hissued : (getStream (opDone s.mach b 0) b 0).issued = (getStream s.mach b 0).issued := issued_opDone s.mach b 0 0
  have hlast : (getStream (opDone s.mach b 0) b 0).last = (getStream s.mach b 0).last := last_opDone s.mach b 0 0
  refine ⟨_, rfl, ?_⟩
  dsimp only
  rw [onSlot_of_ready hop, hw, doFlex_eq hres hfence' hd hok hengs' (by rw [hseq, hwin]), hissued, hlast]
  refine ⟨?_, ?_, ⟨flexWin w (getStream s.mach b 0).issued (getStream s.mach b 0).last, ?_, rfl, rfl, rfl, rfl, rfl⟩, fun e he => ?_⟩
  · rw [apart_launchAll, apart_modSeq_self, apart_opDone]
  · rw [csr_launchAll]
    rfl
  · rw [seq_launchAll, getSeq_modSeq_fin]
  · obtain ⟨tid, h⟩ := getEng_launchAll_of_mem e (bitList 4 (fxEng w)) (Or.inl he)
    rw [h]
    exact ⟨rfl, rfl, rfl, rfl, rfl⟩

end

/-! ### The end of the window -/

theorem mem_modEtr (s : Mach) (u : Nat) (f : Etr → Etr) : (modEtr s u f).mem = s.mem := by
  unfold modEtr
  split <;> rfl

theorem Thread.live_cut (t : Thread) : Thread.live (if t.live then { t with st := .cut } else t) = false := by
  split
  · rfl
  · next h => exact Bool.eq_false_iff.2 h

/-- Threads that are all cut are none of them live. -/
theorem liveLanes_cut (x : Sheaf) :
    Sheaf.liveLanes { x with threads := x.threads.map (fun t => if t.live then { t with st := .cut } else t) } = [] := by
  unfold Sheaf.liveLanes
  rw [List.map_eq_nil_iff, List.filter_eq_nil_iff]
  rintro ⟨t, i⟩ hp
  obtain ⟨u, -, rfl⟩ := List.mem_map.1 (List.fst_mem_of_mem_zipIdx hp)
  simp [Thread.live_cut]

section
variable (s : Mach) (b : Fin 72)

theorem mem_cutEng (e : Nat) : (cutEng s b e).mem = s.mem := by
  unfold cutEng
  dsimp only
  refine iteInduction (motive := fun m : Mach => m.mem = s.mem) (fun _ => rfl) fun _ => ?_
  refine iteInduction (motive := fun m : Mach => m.mem = s.mem) (fun _ => ?_) fun _ => ?_
  · exact mem_modEtr s b _
  · rw [mem_of_units (units_bump _ _ _ _ _ _ _), mem_of_units (units_bump _ _ _ _ _ _ _)]
    exact mem_modEtr s b _

/-- The units of a bay but its engines, with what belongs to the cut threads of one taken out. -/
theorem getEng_cutUnits (j : Nat) (f : Etr → Etr) (g : Sem → Sem) (h : Mov → Mov) (r : List ShfResv) :
    getEng { modMov (modSem (modEtr s b f) b g) b h with shfResv := r } b j = getEng s b j := by
  show getEng (modMov (modSem (modEtr s b f) b g) b h) b j = getEng s b j
  rw [getEng_modMov, getEng_modSem, getEng_modEtr]

theorem getEng_cutEng_other {e j : Nat} (h : j ≠ e) : getEng (cutEng s b e) b j = getEng s b j := by
  unfold cutEng
  dsimp only
  refine iteInduction (motive := fun m : Mach => getEng m b j = getEng s b j) (fun _ => rfl) fun _ => ?_
  refine iteInduction (motive := fun m : Mach => getEng m b j = getEng s b j) (fun _ => ?_) fun _ => ?_
  · rw [getEng_modEng_other _ _ h]
    exact getEng_cutUnits s b j _ _ _ _
  · rw [eng_of_units (units_bump _ _ _ _ _ _ _), eng_of_units (units_bump _ _ _ _ _ _ _), getEng_modEng_other _ _ h]
    exact getEng_cutUnits s b j _ _ _ _

/-- An active engine that is cut stays active, with no live thread. -/
theorem getEng_cutEng_same (e : Fin 4) (h : (getEng s b e).active = true) :
    (getEng (cutEng s b e) b e).active = true ∧ (getEng (cutEng s b e) b e).live = [] := by
  have hcut (g : Eng) : Eng.live { g with sheaves := g.sheaves.map (fun x =>
      { x with threads := x.threads.map (fun t => if t.live then { t with st := .cut } else t) }) } = [] := by
    unfold Eng.live
    rw [List.flatMap_map]
    refine List.flatMap_eq_nil_iff.2 fun x _ => ?_
    rw [liveLanes_cut, List.map_nil]
  unfold cutEng
  dsimp only
  rw [if_neg (by simp [h])]
  refine iteInduction (motive := fun m : Mach => (getEng m b e).active = true ∧ (getEng m b e).live = []) (fun _ => ?_) fun _ => ?_
  · rw [getEng_modEng, getEng_cutUnits]
    exact ⟨h, hcut (getEng s b e)⟩
  · rw [eng_of_units (units_bump _ _ _ _ _ _ _), eng_of_units (units_bump _ _ _ _ _ _ _), getEng_modEng, getEng_cutUnits]
    exact ⟨h, hcut (getEng s b e)⟩

end

/-- Once its turn has come, an active engine has no live thread. -/
theorem live_cutAll {b : Fin 72} (e : Fin 4) (l : List Nat) {s : Mach} (hact : (getEng s b e).active = true)
    (h : e.val ∈ l ∨ (getEng s b e).live = []) : (getEng (foldS l (fun t e => cutEng t b e) s) b e).live = [] := by
  induction l generalizing s with
  | nil => exact h.resolve_left List.not_mem_nil
  | cons x xs ih =>
    show (getEng (foldS xs (fun t e => cutEng t b e) (cutEng s b x)) b e).live = []
    by_cases hx : e.val = x
    · subst hx
      obtain ⟨hact', hlive⟩ := getEng_cutEng_same s b e hact
      exact ih hact' (Or.inr hlive)
    · rw [← getEng_cutEng_other s b hx] at hact h
      exact ih hact (h.imp_left fun h => (List.mem_cons.1 h).resolve_left hx)

theorem OffArray.mxaWindowEnd {β : Type} {g : Mach → β} (h : OffArray g) (s : Mach) (b e : Nat) : g (mxaWindowEnd s b e) = g s := by
  unfold Machine.mxaWindowEnd mxaUndefine
  dsimp only
  rw [h.modMxa, h.freeCtr, h.of_units (units_bump _ _ _ _ _ _ _), h.modMxa, foldS_keeps g _ _ _ fun t d => h.cutDrain t b e d,
    h.flushDrains]

/-- What precedes the cut at the end of a window. -/
theorem OffArray.lendEnd {β : Type} {g : Mach → β} (h : OffArray g) (s : Mach) (b : Nat) (w : FlexWin) :
    g (if w.mxaLend then Machine.mxaWindowEnd (advanceEdge s b w.last) b w.last else advanceEdge s b w.last) = g s := by
  rw [apply_ite g, h.mxaWindowEnd, h.of_units (units_advanceEdge _ _ _), ite_self]

section
variable {s : State} {b : BayNo}

theorem ends_flexWindowEnd {win : FlexWin} (hwin : (getSeq s.mach b).win = some win) (hopen : win.isOpen = true)
    (hhalt : isHalted s.mach b = false) :
    Ends (.flexWindowEnd b) s (fun m => (getSeq m b).win = some { win with isOpen := false } ∧ m.mem = s.mach.mem ∧
      ∀ e : Fin 4, (getEng s.mach b e).active = true → (getEng m b e).live = []) := by
  refine ⟨_, rfl, ?_⟩
  dsimp only
  unfold flexWindowEnd
  rw [hwin]
  dsimp only
  rw [if_neg (by simp [hopen, hhalt])]
  refine ⟨?_, ?_, fun e he => ?_⟩
  · rw [getSeq_modSeq_fin]
  · refine (outer_mem.modSeq _ _ _).trans ((foldS_keeps Mach.mem _ _ _ fun t e => mem_cutEng t b e).trans ?_)
    exact outer_mem.offArray.lendEnd s.mach b win
  · rw [getEng_modSeq]
    refine live_cutAll e _ ?_ (Or.inl (List.mem_range.2 e.isLt))
    rw [(offArray_getEng b e).lendEnd, he]

/-! ### Sheaves -/

theorem ends_sheafResident {e : Fin 4} {x : Sheaf} (hact : (getEng s.mach b e).active = true)
    (hnext : (getEng s.mach b e).next < (getEng s.mach b e).total)
    (hx : (getEng s.mach b e).sheaves.find? (fun y => y.liveLanes.isEmpty) = some x) :
    Ends (.sheafResident b e) s (fun m => m.apart b = s.mach.apart b ∧ m.csr = s.mach.csr ∧
      (getEng m b e).next = (getEng s.mach b e).next + 1 ∧
      (getEng m b e).sheaves = (getEng s.mach b e).sheaves.filter (fun y => decide (y.no ≠ x.no)) ++
        [startSheaf (getEng s.mach b e).desc (getEng s.mach b e).rank (getEng s.mach b e).next (edgeOf m b)]) := by
  have heng (n : Nat) : getEng (advanceEdge s.mach b n) b e = getEng s.mach b e := eng_of_units (units_advanceEdge _ _ _) b e
  refine ⟨_, rfl, ?_⟩
  dsimp only
  unfold sheafResident
  dsimp only
  rw [if_neg (by simp [hact, hnext]), hx]
  dsimp only
  rw [getEng_modEng, heng]
  refine ⟨?_, rfl, rfl, rfl⟩
  rw [apart_modEng, apart_advanceEdge]

/-! ### The issue port -/

theorem ends_issueGroupSelect {e : Fin 4} {at_ w : Nat} {x : Sheaf} (hfetch : (getEng s.mach b e).fetch = none)
    (hr : shfRuns s.mach b e = true) (hgroup : (getEng s.mach b e).group = []) (hpack : lRepack (getEng s.mach b e).desc = false)
    (hready : nextReady (getEng s.mach b e) (max (edgeOf s.mach b) (getEng s.mach b e).free) = some at_)
    (hat : at_ ≤ winLast s.mach b)
    (hx : (roundRobin (getEng s.mach b e).sheaves (getEng s.mach b e).last).find? (fun y => decide (readyLanes y at_ ≠ [])) = some x)
    (hw : cachedWord (getEng s.mach b e) (minPc x (readyLanes x at_)) = some w) :
    Ends (.issueGroupSelect b e) s (fun m => m.apart b = s.mach.apart b ∧ (getEng m b e).word = w ∧ (getEng m b e).last = x.no ∧
      (getEng m b e).group = sortGroup (((readyLanes x at_).filter (fun l =>
        decide ((x.threads.getD l Thread.zero).pc = minPc x (readyLanes x at_)))).map (fun l => (x.no, l))) ∧
      (getEng m b e).free = at_ + portTime (((readyLanes x at_).filter (fun l =>
        decide ((x.threads.getD l Thread.zero).pc = minPc x (readyLanes x at_)))).map (fun l => (x.no, l))) w) := by
  have htake : takeFetch s.mach b e = s.mach := by
    unfold takeFetch
    rw [hfetch]
  refine ⟨_, rfl, ?_⟩
  dsimp only
  unfold issueGroupSelect
  dsimp only
  rw [htake, if_neg (by simp [hr, hgroup]), hready]
  dsimp only
  rw [if_neg (by omega), hx]
  dsimp only
  rw [hw]
  dsimp only
  rw [hpack, Bool.false_and, if_neg Bool.false_ne_true, if_neg (by simp)]
  rw [eng_of_units (units_countEv _ _ _ _), eng_of_units (units_countEv _ _ _ _), eng_of_units (units_book _ _ _ _ _),
    eng_of_units (units_bump _ _ _ _ _ _ _), getEng_modEng, eng_of_units (units_advanceEdge _ _ _)]
  refine ⟨?_, rfl, rfl, rfl, rfl⟩
  rw [apart_countEv, apart_countEv, apart_of_units (units_book _ _ _ _ _), apart_bump, apart_modEng, apart_advanceEdge]

end

/-! ### The end of a launch -/

/-- The package in which an engine has written its result and is free. -/
def woundUp (s : Mach) (b e : Nat) : Mach :=
  let g := getEng s b e
  let s := loftWrite s b (g.daddr + 8 * e) (bytesOf 8 (resultWord g).toNat) false
  let fl := (g.sheaves.flatMap Sheaf.threads).foldl (fun f t => f ||| t.fcsr % 32) g.fl
  let s := if fl = 0 then s else orTflags s b ((getSeq s b).tid.getD g.tid) fl
  modEng s b e (fun _ => Eng.zero)

/-- What marking the window and sending its token leave, the whole wind-up leaves but for the result. -/
theorem windUp_keeps {β : Type} {g : Mach → β} {s : Mach} {b e : Nat} (h : mayWindUp s b e = true)
    (hseq : ∀ (t : Mach) (f : Seq → Seq), g (modSeq t b f) = g t)
    (htok : ∀ (t : Mach) (k n : Nat) (p : Bool) (a : Nat), g (sendToken t b k n p a) = g t) :
    g (windUp s b e) = g (woundUp s b e) := by
  have htail (u : Mach) (pois : Bool) (c : FlexWin → Bool) (k : Nat) : g (match (getSeq u b).win with
      | none => u
      | some w =>
        let w := { w with pois := w.pois || pois }
        if c w then signalOwn (modSeq u b (fun q => { q with win := some { w with signalled := true } })) b k 1 w.pois w.doneCh
        else modSeq u b (fun q => { q with win := some w })) = g u := by
    split
    · rfl
    · dsimp only
      split
      · exact (htok _ _ _ _ _).trans (hseq _ _)
      · exact hseq _ _
  unfold windUp
  rw [if_neg (by simp [h])]
  exact htail (woundUp s b e) _ (fun w => (bitList 4 w.eng).all (fun i => !(getEng (woundUp s b e) b i).active) && !w.signalled) _

theorem loft_sendToken (s : Mach) (b k n : Nat) (p : Bool) (a : Nat) : (sendToken s b k n p a).loft = s.loft := by
  unfold sendToken sendExpress
  split
  · rfl
  · split
    · split
      · exact loft_of_units (units_tokErr s b 3 a)
      · rfl
    · split
      · exact offBay_loft.vkRecord s none _
      · rfl

theorem ends_windUp {s : State} {b : BayNo} {e : Fin 4} (h : mayWindUp s.mach b e = true) :
    Ends (.windUp b e) s (fun m => getEng m b e = Eng.zero ∧ m.mem = s.mach.mem ∧
      m.loft = writeMasked s.mach.loft (loftIx b ((getEng s.mach b e).daddr + 8 * e.val)) 255
        (bytesOf 8 (resultWord (getEng s.mach b e)).toNat)) := by
  have hloft (o : Nat) (bs : List Byte) : (loftWrite s.mach b o bs false).loft = writeMasked s.mach.loft (loftIx b o) (2 ^ bs.length - 1) bs :=
    loft_loftPut _ _ _ _ _ _
  refine ⟨_, rfl, ?_, ?_, ?_⟩
  · refine (windUp_keeps (g := (getEng · b e)) h (fun t f => getEng_modSeq t b e f) fun t => (offArray_getEng b e).sendToken t b).trans ?_
    exact getEng_modEng _ b e _
  · refine (windUp_keeps (g := Mach.mem) h (fun t f => outer_mem.modSeq t b f) fun t => outer_mem.sendToken t b).trans ?_
    unfold woundUp
    dsimp only
    refine (outer_mem.modBay _ _ _).trans ?_
    rw [apply_ite Mach.mem, outer_mem.orTflags, ite_self, outer_mem.loftWrite]
  · refine (windUp_keeps (g := Mach.loft) h (fun t f => offBay_loft.modSeq t b f) fun t => loft_sendToken t b).trans ?_
    unfold woundUp
    dsimp only
    refine (offBay_loft.modBay _ _ _).trans ?_
    rw [apply_ite Mach.loft, offBay_loft.orTflags, ite_self, hloft, length_bytesOf]
    rfl

/-- Settles O26. -/
theorem launchesRun : Obligations.LaunchesRun :=
  ⟨fun _ _ _ _ hop hw hres hfence hd hok hengs hwin => ends_flex hop hw hres hfence hd hok hengs hwin,
    fun _ _ _ hwin hopen hhalt => ends_flexWindowEnd hwin hopen hhalt,
    fun _ _ _ _ hact hnext hx => ends_sheafResident hact hnext hx,
    fun _ _ _ _ _ _ hfetch hr hgroup hpack hready hat hx hw => ends_issueGroupSelect hfetch hr hgroup hpack hready hat hx hw,
    fun _ _ _ h => ends_windUp h⟩

end Sys2Proof.Machine
end

section
/-! Bay semaphores: the words of the SEM stream, and the operations that fall due (R249 to R255, R258, R638). -/

namespace Sys2Proof.Machine

/-! ### The semaphore block -/

theorem units_semErr (s : Mach) (b src code phys : Nat) : (semErr s b src code phys).units = s.units := by
  unfold semErr
  dsimp only
  rw [units_raiseBay, units_recordFirst]
  split
  · exact units_bump _ _ _ _ _ _ _
  · exact units_bump _ _ _ _ _ _ _
  · rfl

section
variable (s : Mach) (b : Fin 72)

theorem getSem_modStream (k : Nat) (f : Stream → Stream) : getSem (modStream s b k f) b = getSem s b :=
  part_modBay s b b _ Bay.sem fun _ => rfl

/-- The COUNT of a semaphore after an operation (R251). -/
def semResult (c n : Nat) : SemKind → Nat
  | .add => min (c + n) 0xFFFFFFFF
  | .sub => c - n
  | .set => n

/-- The block after an operation. -/
def Sem.after (x : Sem) (o : SemOp) : Sem :=
  { x with count := smapPut 0 x.count o.phys (BitVec.ofNat 32 (semResult (smapGet 0 x.count o.phys).toNat o.n o.kind)) }

theorem semCount_countEv (e n i : Nat) : semCount (countEv s b e n) b i = semCount s b i := by
  unfold semCount
  rw [sem_of_units (units_countEv s b e n)]

/-- An operation changes of the semaphore block the COUNT that it names, whatever it records. -/
theorem getSem_semApply (o : SemOp) : getSem (semApply s b o) b = (getSem s b).after o := by
  have hput (n : Nat) : getSem (setSemCount (countEv s b 0x16 1) b o.phys n) b =
      { getSem s b with count := smapPut 0 (getSem s b).count o.phys (BitVec.ofNat 32 n) } := by
    unfold setSemCount
    rw [getSem_modSem, sem_of_units (units_countEv s b _ _)]
  unfold semApply Sem.after
  dsimp only
  rw [semCount_countEv]
  cases o.kind with
  | add => rw [apply_ite (getSem · b), sem_of_units (units_semErr _ _ _ _ _), ite_self, hput]; rfl
  | sub => rw [apply_ite (getSem · b), sem_of_units (units_semErr _ _ _ _ _), ite_self, hput]; rfl
  | set => exact hput _

@[simp] theorem apart_semErr (src code phys : Nat) : (semErr s b src code phys).apart b = s.apart b :=
  apart_of_units (units_semErr s b src code phys) b

@[simp] theorem apart_semApply (o : SemOp) : (semApply s b o).apart b = s.apart b := by
  have hput (n : Nat) : (setSemCount (countEv s b 0x16 1) b o.phys n).apart b = s.apart b := by
    unfold setSemCount
    rw [apart_modSem, apart_countEv]
  unfold semApply
  dsimp only
  cases o.kind with
  | add => rw [apply_ite (Mach.apart · b), apart_semErr, ite_self, hput]
  | sub => rw [apply_ite (Mach.apart · b), apart_semErr, ite_self, hput]
  | set => exact hput _

/-- Where nothing waits, evaluating the waits changes nothing. -/
theorem evalWaits_none {s : Mach} (hw : (getSem s b).waits = []) (hs : (getSem s b).swait = none) (e : Nat) (first : Bool) :
    getSem (evalWaits s b e first) b = getSem s b ∧ (evalWaits s b e first).apart b = s.apart b ∧
      (evalWaits s b e first).csr = s.csr := by
  unfold evalWaits
  dsimp only
  rw [hs, hw]
  dsimp only
  refine ⟨?_, apart_modSem s b _, rfl⟩
  rw [getSem_modSem]
  cases hx : getSem s b
  rw [hx] at hw
  dsimp only at hw
  rw [hw]
  rfl

/-- The block at rest but for what is to be done. -/
def Sem.Still (x : Sem) : Prop := x.waits = [] ∧ x.swait = none ∧ x.xfer = none

/-- The operations due at an FCLK, and then the waits. -/
def semDue (s : Mach) (b e : Nat) : Mach :=
  let ops := (getSem s b).ops.filter (fun o => decide (o.edge ≤ e))
  let s := modSem s b (fun x => { x with ops := x.ops.filter (fun o => !decide (o.edge ≤ e)) })
  evalWaits (foldS (ops.foldr insertOp []) (semArrive b) s) b e false

theorem semAt_eq (e : Nat) : semAt s b e = semDue (takeDones (evalWaits (advanceEdge s b e) b e true) b e) b e := rfl

/-- One operation alone is performed. -/
theorem semDue_one {s : Mach} {o : SemOp} {e : Nat} (hops : (getSem s b).ops = [o]) (he : o.edge ≤ e) (h : (getSem s b).Still) :
    getSem (semDue s b e) b = ({ getSem s b with ops := [] } : Sem).after o ∧ (semDue s b e).apart b = s.apart b := by
  obtain ⟨hw, hs, hx⟩ := h
  have hdue : (getSem s b).ops.filter (fun o => decide (o.edge ≤ e)) = [o] := by simp [hops, he]
  have hrest : (getSem s b).ops.filter (fun o => !decide (o.edge ≤ e)) = [] := by simp [hops, he]
  have htake : getSem (modSem s b (fun x => { x with ops := x.ops.filter (fun o => !decide (o.edge ≤ e)) })) b =
      { getSem s b with ops := [] } := by
    rw [getSem_modSem, hrest]
  have hhold : xferHolds (getSem (modSem s b (fun x => { x with ops := x.ops.filter (fun o => !decide (o.edge ≤ e)) })) b) o.phys =
      false := by
    rw [htake]
    unfold xferHolds
    rw [hx]
  unfold semDue
  dsimp only
  have hfold (t : Mach) : foldS ([o].foldr insertOp []) (semArrive b) t = semArrive b t o := rfl
  rw [hdue, hfold]
  unfold semArrive
  rw [hhold, if_neg Bool.false_ne_true]
  have happly := getSem_semApply (modSem s b (fun x => { x with ops := x.ops.filter (fun o => !decide (o.edge ≤ e)) })) b o
  rw [htake] at happly
  obtain ⟨h1, h2, -⟩ := evalWaits_none b (s := semApply (modSem s b _) b o) (by rw [happly]; exact hw) (by rw [happly]; exact hs) e false
  refine ⟨h1.trans happly, h2.trans ?_⟩
  rw [apart_semApply, apart_modSem]

/-- With no addition due, none is taken. -/
theorem takeDones_none {s : Mach} (h : (getSem s b).dones = []) (e : Nat) :
    getSem (takeDones s b e) b = getSem s b ∧ (takeDones s b e).apart b = s.apart b := by
  unfold takeDones foldS
  dsimp only
  rw [h, List.filter_nil, List.foldl_nil]
  refine ⟨(getSem_modSem s b _).trans ?_, apart_modSem s b _⟩
  cases hx : getSem s b
  rw [hx] at h
  dsimp only at h
  rw [h]
  rfl

/-- The one addition due becomes the one operation. -/
theorem takeDones_one {s : Mach} {d : SemDone} {i e : Nat} (h : (getSem s b).dones = [d]) (he : d.edge + 8 ≤ e)
    (hi : semPhys s b d.tid d.idx = some i) : ∃ src, getSem (takeDones s b e) b =
      { getSem s b with dones := [], ops := (getSem s b).ops ++ [{ edge := d.edge + 8, src := src, kind := .add, phys := i, n := 1 }] } ∧
      (takeDones s b e).apart b = s.apart b := by
  have hdue : (getSem s b).dones.filter (fun d => decide (d.edge + 8 ≤ e)) = [d] := by simp [h, he]
  have hrest : (getSem s b).dones.filter (fun d => !decide (d.edge + 8 ≤ e)) = [] := by simp [h, he]
  have hphys (f : Sem → Sem) : semPhys (modSem s b f) b d.tid d.idx = some i := (semPhys_of_csr rfl b _ _).trans hi
  refine ⟨if d.mover then .mover else .mxa, ?_⟩
  unfold takeDones foldS
  dsimp only
  rw [hdue, List.foldl_cons, List.foldl_nil, hphys]
  refine ⟨?_, ?_⟩
  · rw [getSem_modSem, getSem_modSem, hrest]
  · rw [apart_modSem, apart_modSem]

/-- A block with one operation to do performs it. -/
theorem semAt_op {s : Mach} {o : SemOp} (hops : (getSem s b).ops = [o]) (hdones : (getSem s b).dones = []) (h : (getSem s b).Still) :
    getSem (semAt s b o.edge) b = ({ getSem s b with ops := [] } : Sem).after o ∧ (semAt s b o.edge).apart b = s.apart b := by
  have h0 : getSem (advanceEdge s b o.edge) b = getSem s b := sem_of_units (units_advanceEdge s b _) b
  obtain ⟨hw, hs, -⟩ := id h
  obtain ⟨h1, a1, -⟩ := evalWaits_none b (s := advanceEdge s b o.edge) (by rw [h0, hw]) (by rw [h0, hs]) o.edge true
  rw [h0] at h1
  obtain ⟨h2, a2⟩ := takeDones_none b (s := evalWaits (advanceEdge s b o.edge) b o.edge true) (by rw [h1, hdones]) o.edge
  rw [h1] at h2
  obtain ⟨h3, a3⟩ := semDue_one b (s := takeDones (evalWaits (advanceEdge s b o.edge) b o.edge true) b o.edge) (by rw [h2, hops])
    (Nat.le_refl _) (by rw [h2]; exact h)
  rw [h2] at h3
  exact ⟨h3, a3.trans (a2.trans (a1.trans (apart_advanceEdge s b b o.edge)))⟩

/-- A block with one completion addition to do makes it. -/
theorem semAt_done {s : Mach} {d : SemDone} {i : Nat} (hops : (getSem s b).ops = []) (hdones : (getSem s b).dones = [d])
    (h : (getSem s b).Still) (hi : semPhys s b d.tid d.idx = some i) : ∃ src,
    getSem (semAt s b (d.edge + 8)) b = ({ getSem s b with ops := [], dones := [] } : Sem).after
      { edge := d.edge + 8, src := src, kind := .add, phys := i, n := 1 } ∧ (semAt s b (d.edge + 8)).apart b = s.apart b := by
  have h0 : getSem (advanceEdge s b (d.edge + 8)) b = getSem s b := sem_of_units (units_advanceEdge s b _) b
  obtain ⟨hw, hs, -⟩ := id h
  obtain ⟨h1, a1, c1⟩ := evalWaits_none b (s := advanceEdge s b (d.edge + 8)) (by rw [h0, hw]) (by rw [h0, hs]) (d.edge + 8) true
  rw [h0] at h1
  obtain ⟨src, h2, a2⟩ := takeDones_one b (s := evalWaits (advanceEdge s b (d.edge + 8)) b (d.edge + 8) true) (by rw [h1, hdones])
    (Nat.le_refl _) ((semPhys_of_csr (c1.trans rfl) b _ _).trans hi)
  rw [h1, hops] at h2
  obtain ⟨h3, a3⟩ := semDue_one b (s := takeDones (evalWaits (advanceEdge s b (d.edge + 8)) b (d.edge + 8) true) b (d.edge + 8))
    (o := { edge := d.edge + 8, src := src, kind := .add, phys := i, n := 1 }) (by rw [h2]; rfl) (Nat.le_refl _) (by rw [h2]; exact h)
  rw [h2] at h3
  exact ⟨src, h3, a3.trans (a2.trans (a1.trans (apart_advanceEdge s b b _)))⟩

end

theorem semCount_of_after {s : Mach} {b : Nat} {x : Sem} {o : SemOp} (h : getSem s b = x.after o) (i : Nat) :
    semCount s b i = if i = o.phys then semResult (smapGet 0 x.count o.phys).toNat o.n o.kind % 2 ^ 32
      else (smapGet 0 x.count i).toNat := by
  unfold semCount
  rw [h]
  unfold Sem.after
  dsimp only
  rw [smapGet_smapPut]
  split
  · exact BitVec.toNat_ofNat _ _
  · rfl

/-! ### The SEM stream -/

section
variable {s : State} {b : BayNo}

theorem ends_semWord {c : Instr} {op : Nat} {k : SemKind} {w : Slot} {i : Nat} (hop : opReady s.mach b 5 1 op = true)
    (hw : (getStream s.mach b 5).word = w) (hres : reservedClear w [(103, 93), (31, 0)] = true)
    (hi : (getSeq s.mach b).tid.bind (fun t => semPhys s.mach b t (semWordIdx w)) = some i)
    (hc : exec c s = onMach s (fun s => onSlot s b 5 1 op (semOpWord b k))) :
    Ends c s (fun m => m.apart b = s.mach.apart b ∧ m.csr = s.mach.csr ∧ (getSem m b).ops = (getSem s.mach b).ops ++
      [{ edge := (getStream s.mach b 5).issued + 8, src := .stream, kind := k, phys := i, n := fld w 31 0 }]) := by
  have hseq : getSeq (opDone s.mach b 5) b = getSeq s.mach b := getSeq_modStream s.mach b 5 _
  have hphys (t n : Nat) : semPhys (opDone s.mach b 5) b t n = semPhys s.mach b t n := semPhys_of_csr rfl b t n
  have hissued : (getStream (opDone s.mach b 5) b 5).issued = (getStream s.mach b 5).issued := issued_opDone s.mach b 5 5
  have hsem : getSem (opDone s.mach b 5) b = getSem s.mach b := getSem_modStream s.mach b 5 _
  refine ⟨_, hc, ?_⟩
  dsimp only
  rw [onSlot_of_ready hop, hw]
  unfold semOpWord onSem
  simp only [Bool.false_eq_true, if_false, hres, Bool.true_eq_false, hseq, hphys, hi, hissued]
  refine ⟨?_, rfl, ?_⟩
  · rw [apart_modSem, apart_opDone]
  · rw [getSem_modSem, hsem]

theorem ends_swait {w : Slot} {i : Nat} (hop : opReady s.mach b 5 1 4 = true) (hw : (getStream s.mach b 5).word = w)
    (hres : reservedClear w [(103, 92), (31, 0)] = true)
    (hi : (getSeq s.mach b).tid.bind (fun t => semPhys s.mach b t (semWordIdx w)) = some i) :
    Ends (.swait b) s (fun m => m.apart b = s.mach.apart b ∧ m.csr = s.mach.csr ∧ (getStream m b 5).hold = .swait ∧
      (getSem m b).swait =
        some { phys := i, n := fld w 31 0, cons := bit w 92, from_ := (getStream s.mach b 5).issued + 8, got := none }) := by
  have hseq : getSeq (opDone s.mach b 5) b = getSeq s.mach b := getSeq_modStream s.mach b 5 _
  have hphys (t n : Nat) : semPhys (opDone s.mach b 5) b t n = semPhys s.mach b t n := semPhys_of_csr rfl b t n
  have hissued : (getStream (opDone s.mach b 5) b 5).issued = (getStream s.mach b 5).issued := issued_opDone s.mach b 5 5
  have hhold (t : Mach) (x : Sem → Sem) : getSem (holdStream (modSem t b x) b 5 .swait) b = x (getSem t b) :=
    (getSem_modStream _ b 5 _).trans (getSem_modSem t b x)
  refine ⟨_, rfl, ?_⟩
  dsimp only
  rw [onSlot_of_ready hop, hw]
  unfold doSwait onSem
  simp only [if_true, hres, Bool.true_eq_false, if_false, hseq, hphys, hi, hissued]
  refine ⟨?_, rfl, ?_, ?_⟩
  · rw [apart_holdStream, apart_modSem, apart_opDone]
  · exact congrArg Stream.hold (getStream_holdStream _ b 5 .swait)
  · rw [hhold]

theorem ends_swaitRelease {x : SWait} {h : Nat} (hs : (getSem s.mach b).swait = some x) (hgot : x.got = some h)
    (hhalt : isHalted s.mach b = false) :
    Ends (.swaitRelease b) s (fun m => m.apart b = s.mach.apart b ∧ (getSem m b).swait = none ∧ (getStream m b 5).hold = .none ∧
      (getStream s.mach b 5).last + 1 ≤ (getStream m b 5).nextAt) := by
  refine ⟨_, rfl, ?_⟩
  dsimp only
  unfold swaitRelease
  rw [hs]
  dsimp only
  rw [if_neg (by simp [hhalt]), hgot, Option.isNone_some, if_neg Bool.false_ne_true, hs, Option.bind_some, hgot]
  dsimp only
  refine ⟨?_, ?_, ?_, ?_⟩
  · rw [apart_releaseAt, apart_slip, apart_modSem, apart_advanceEdge]
  · have hrel (t : Mach) (m : Nat) : getSem (releaseAt t b 5 m) b = getSem t b := getSem_modStream t b 5 _
    rw [hrel, sem_of_units (units_slip _ _ _ _ _), getSem_modSem]
  · exact congrArg Stream.hold (getStream_releaseAt _ b 5 _)
  · refine Nat.le_trans ?_ (Nat.le_of_eq (congrArg Stream.nextAt (getStream_releaseAt _ b 5 _)).symm)
    exact Nat.le_trans (Nat.le_max_left _ _) (le_runEdge _ _ _)

/-! ### Operations that fall due -/

theorem ends_semPerform {o : SemOp} (hops : (getSem s.mach b).ops = [o]) (hdones : (getSem s.mach b).dones = [])
    (hw : (getSem s.mach b).waits = []) (hs : (getSem s.mach b).swait = none) (hx : (getSem s.mach b).xfer = none) :
    Ends (.semPerform b) s (fun m => m.apart b = s.mach.apart b ∧ (getSem m b).ops = [] ∧ semCount m b o.phys =
      (match o.kind with
       | .add => min (semCount s.mach b o.phys + o.n) 0xFFFFFFFF
       | .sub => semCount s.mach b o.phys - o.n
       | .set => o.n % 2 ^ 32) ∧ ∀ i, i ≠ o.phys → semCount m b i = semCount s.mach b i) := by
  obtain ⟨hsem, hapart⟩ := semAt_op b hops hdones ⟨hw, hs, hx⟩
  have hnext : semNext (getSem s.mach b) = some o.edge := by
    unfold semNext
    rw [hops, hdones]
    rfl
  have hlt : semCount s.mach b o.phys < 2 ^ 32 := (smapGet 0 (getSem s.mach b).count o.phys).isLt
  refine ⟨_, rfl, ?_⟩
  dsimp only
  unfold semPerform
  rw [hnext]
  refine ⟨hapart, by rw [hsem]; rfl, ?_, fun i hi => ?_⟩
  · rw [semCount_of_after hsem, if_pos rfl]
    show semResult (semCount s.mach b o.phys) o.n o.kind % 2 ^ 32 = _
    unfold semResult
    cases o.kind <;> dsimp only <;> omega
  · rw [semCount_of_after hsem, if_neg hi]
    rfl

theorem ends_semCompletionAdd {d : SemDone} {i : Nat} (hops : (getSem s.mach b).ops = []) (hdones : (getSem s.mach b).dones = [d])
    (hw : (getSem s.mach b).waits = []) (hs : (getSem s.mach b).swait = none) (hx : (getSem s.mach b).xfer = none)
    (hi : semPhys s.mach b d.tid d.idx = some i) :
    Ends (.semCompletionAdd b) s (fun m => m.apart b = s.mach.apart b ∧ (getSem m b).dones = [] ∧
      semCount m b i = min (semCount s.mach b i + 1) 0xFFFFFFFF) := by
  obtain ⟨src, hsem, hapart⟩ := semAt_done b hops hdones ⟨hw, hs, hx⟩ hi
  have hnext : semNext (getSem s.mach b) = some (d.edge + 8) := by
    unfold semNext
    rw [hops, hdones]
    rfl
  have hrun : semCompletionAdd s.mach b = semAt s.mach b (d.edge + 8) := by
    unfold semCompletionAdd semRun
    rw [hdones, hops]
    show semRunN s.mach b (d.edge + 8) 1 = _
    unfold semRunN
    rw [hnext]
    exact if_pos (Nat.le_refl _)
  have hlt : semCount s.mach b i < 2 ^ 32 := (smapGet 0 (getSem s.mach b).count i).isLt
  refine ⟨_, rfl, ?_⟩
  dsimp only
  rw [hrun]
  refine ⟨hapart, by rw [hsem]; rfl, ?_⟩
  rw [semCount_of_after hsem, if_pos rfl]
  show min (semCount s.mach b i + 1) 0xFFFFFFFF % 2 ^ 32 = _
  omega

/-! ### Block transfers -/

theorem xfer_evalWaits (s : Mach) (b : Fin 72) (e : Nat) (first : Bool) : (getSem (evalWaits s b e first) b).xfer = (getSem s b).xfer := by
  have hwaits (t : Mach) (l : List SemWait) : (getSem (modSem t b (fun x => { x with waits := l })) b).xfer = (getSem t b).xfer := by
    rw [getSem_modSem]
  have hswait (t : Mach) (w : SWait) : (getSem (modSem t b (fun x => { x with swait := some w })) b).xfer = (getSem t b).xfer := by
    rw [getSem_modSem]
  have hcount (t : Mach) (i n : Nat) : (getSem (setSemCount t b i n) b).xfer = (getSem t b).xfer := by
    unfold setSemCount
    rw [getSem_modSem]
  unfold evalWaits
  dsimp only
  generalize (getSem s b).swait = o
  cases o with
  | none => exact hwaits _ _
  | some w =>
    refine iteInduction (motive := fun m : Mach => (getSem m b).xfer = (getSem s b).xfer) (fun _ => ?_) fun _ => hwaits _ _
    refine (hswait _ _).trans ?_
    exact iteInduction (motive := fun m : Mach => (getSem m b).xfer = (getSem s b).xfer)
      (fun _ => (hcount _ _ _).trans (hwaits _ _)) fun _ => hwaits _ _

theorem ends_semXferComplete {x : SemXfer} (hx : (getSem s.mach b).xfer = some x) :
    Ends (.semXferComplete b) s (fun m => (getSem m b).xfer = none ∧ rb m .SEM_XFER_CTL b 0 63 = false) := by
  refine ⟨_, rfl, ?_⟩
  dsimp only
  unfold semXferComplete
  rw [hx]
  refine ⟨?_, rb_wb _ _ _ _ _ _ (by decide)⟩
  rw [sem_of_units (units_wb _ _ _ _ _ _), xfer_evalWaits]
  refine (foldS_keeps (fun t => (getSem t b).xfer) _ _ _ fun t o => ?_).trans ?_
  · rw [getSem_semApply]
    rfl
  · rw [getSem_modSem]

end

/-- Settles O30. -/
theorem semaphoresWork : Obligations.SemaphoresWork :=
  ⟨fun _ _ _ _ hop hw hres hi => ends_semWord hop hw hres hi rfl,
    fun _ _ _ _ hop hw hres hi => ends_semWord hop hw hres hi rfl,
    fun _ _ _ _ hop hw hres hi => ends_semWord hop hw hres hi rfl,
    fun _ _ _ _ hop hw hres hi => ends_swait hop hw hres hi,
    fun _ _ _ _ hs hgot hhalt => ends_swaitRelease hs hgot hhalt,
    fun _ _ _ hops hdones hw hs hx => ends_semPerform hops hdones hw hs hx,
    fun _ _ _ _ hops hdones hw hs hx hi => ends_semCompletionAdd hops hdones hw hs hx hi,
    fun _ _ _ hx => ends_semXferComplete hx⟩

end Sys2Proof.Machine
end

section
/-! Writes of control space that are let through (R7, R11, R13, R16, R466). -/

namespace Sys2Proof.Machine

/-- A write that is let through does what its register does on the package in which all that is due at its bay has landed. -/
theorem writeReg_of_open {s : Mach} {mid : Nat} {r : RegRef} {v : Word} (hr : r.placed = true)
    (h : CspOpen s mid r.name r.unit r.idx v) :
    writeReg s mid r.name r.unit r.idx v =
      { regWrite (settleBlk s r.name.info.blk r.unit) mid r false v with cspOut := (0, 0) } := by
  obtain ⟨hclk, hdone, hall, hpres⟩ := h
  have hat := regAt_addr hr
  obtain ⟨-, halign, -, -⟩ := registerAddressesDecode r hr
  have hsize : sizeOk r.addr 8 = true := (sizeOk_iff _ _).2 (Or.inl ⟨rfl, halign⟩)
  have hwiden : widen s r r.addr 8 v = v := rfl
  have henter : cspEnter s mid r.addr 8 (some v) = .ok (r.name.info.blk, r.unit, some r) := by
    unfold cspEnter
    rw [if_neg (by simp [hclk]), if_neg (by simp [hdone]), if_neg (by simp [hall]), hat]
    simp [hsize]
  unfold writeReg cspWriteBase cspWriteBy
  dsimp only
  rw [hat]
  dsimp only
  rw [hwiden, henter]
  dsimp only
  rw [if_neg (by simp [hpres]), if_neg (by simp)]
  rfl

/-- How a command that is the 8-byte write of a register that exists ends, where the write is let through. -/
theorem cspEnds_of_write {c : Instr} {s : State} {mid : Nat} {n : RegName} {u i : Nat} {v : Word} {P : Mach → Mach → Prop}
    (hr : RegRef.placed { name := n, unit := u, idx := i } = true)
    (hc : exec c s = onMach s (fun s => writeReg s mid n u i v))
    (hP : P (settleBlk s.mach n.info.blk u)
      { regWrite (settleBlk s.mach n.info.blk u) mid { name := n, unit := u, idx := i } false v with cspOut := (0, 0) }) :
    CspEnds c s mid n u i v P := by
  intro h
  refine ⟨_, hc, ?_⟩
  have hw := writeReg_of_open hr h
  dsimp only at hw ⊢
  rw [hw]
  exact ⟨rfl, hP⟩

/-- The same for a register of a block that lies outside the bays: nothing lands first. -/
theorem cspEnds_outside {c : Instr} {s : State} {mid : Nat} {n : RegName} {u i : Nat} {v : Word} {P : Mach → Mach → Prop} {m : Mach}
    (hr : RegRef.placed { name := n, unit := u, idx := i } = true) (hb : blkBay n.info.blk u = none)
    (hc : exec c s = onMach s (fun s => writeReg s mid n u i v))
    (hm : regWrite s.mach mid { name := n, unit := u, idx := i } false v = m) (hP : P s.mach { m with cspOut := (0, 0) }) :
    CspEnds c s mid n u i v P := by
  have hsettle : settleBlk s.mach n.info.blk u = s.mach := by
    unfold settleBlk
    rw [hb]
  refine cspEnds_of_write hr hc ?_
  rw [hsettle, hm]
  exact hP

theorem rg_cspOut (s : Mach) (x : Nat × Word) (n : RegName) (u i : Nat) : rg { s with cspOut := x } n u i = rg s n u i := rfl
theorem getBay_cspOut (s : Mach) (x : Nat × Word) (b : Nat) : getBay { s with cspOut := x } b = getBay s b := rfl
theorem getClk_cspOut (s : Mach) (x : Nat × Word) (d : Nat) : getClk { s with cspOut := x } d = getClk s d := rfl
theorem getCore_cspOut (s : Mach) (x : Nat × Word) (c : Nat) : getCore { s with cspOut := x } c = getCore s c := rfl
theorem getRota_cspOut (s : Mach) (x : Nat × Word) (p : Nat) : getRota { s with cspOut := x } p = getRota s p := rfl
theorem getPort_cspOut (s : Mach) (x : Nat × Word) (p : Nat) : getPort { s with cspOut := x } p = getPort s p := rfl
theorem rf_cspOut (s : Mach) (x : Nat × Word) (n : RegName) (u i hi lo : Nat) : rf { s with cspOut := x } n u i hi lo = rf s n u i hi lo :=
  rfl
theorem rb_cspOut (s : Mach) (x : Nat × Word) (n : RegName) (u i k : Nat) : rb { s with cspOut := x } n u i k = rb s n u i k := rfl

/-- A register of a block with one unit exists where its row has a place for it. -/
theorem placed_single {n : RegName} {i : Nat} (hu : n.info.blk.hasUnit 0 = true) (hp : regPresent n 0 = true) (hi : i < n.info.count) :
    RegRef.placed { name := n, unit := 0, idx := i } = true := by
  unfold RegRef.placed
  simp [hu, hp, hi]

end Sys2Proof.Machine
end

section
/-! Writes that reset the package or arm its clock (R542, R543, R59, R60). -/

namespace Sys2Proof.Machine

/-! ### Package reset -/

/-- A part of the package outside the registers. -/
def OffCsr {β : Type} (g : Mach → β) : Prop := ∀ (s : Mach) (x : SMap Word), g { s with csr := x } = g s

namespace OffCsr
variable {β : Type} {g : Mach → β} (h : OffCsr g)
include h

theorem wr (s : Mach) (n : RegName) (u i : Nat) (v : Word) : g (wr s n u i v) = g s := h s _
theorem wf (s : Mach) (n : RegName) (u i hi lo v : Nat) : g (wf s n u i hi lo v) = g s := h s _
theorem wb (s : Mach) (n : RegName) (u i k : Nat) (v : Bool) : g (wb s n u i k v) = g s := h s _
theorem bump (s : Mach) (n : RegName) (u i hi lo k : Nat) : g (bump s n u i hi lo k) = g s := h s _
theorem csrPut (s : Mach) (a : Nat) (v : Word) : g (csrPut s a v) = g s := h s _

theorem loadFuses (hpwr : ∀ (s : Mach) (f : Pwr → Pwr), g (modPwr s f) = g s) (s : Mach) (up : Bool) : g (loadFuses s up) = g s := by
  unfold Machine.loadFuses setVolt
  dsimp only
  rw [foldS_keeps g _ _ _ fun t d => hpwr t _, h.wr, h.wf, h.wf, foldS_keeps g _ _ _ fun t k => h.wr t _ _ _ _,
    foldS_keeps g _ _ _ fun t k => h.wf t _ _ _ _ _ _, h.wf, h.wf,
    foldS_keeps g _ _ _ fun t k => (h.wf _ _ _ _ _ _ _).trans (h.wf t _ _ _ _ _ _), foldS_keeps g _ _ _ fun t b => h.wr t _ _ _ _,
    foldS_keeps g _ _ _ fun t b => h.wr t _ _ _ _, foldS_keeps g _ _ _ fun t d => (h.wr _ _ _ _ _).trans (h.wr t _ _ _ _), h.wr,
    h.wf, h.wf, h.wf, h.wf, h.wf, h.wf, h.wf, h.wf, h.wf, h.wf]

end OffCsr

/-- What a package reset starts from. -/
def resetStart (s : Mach) : Mach :=
  { freshState s with
    boot := { s.boot with buf := [], read := false, authed := false, loading := false, fallback := false,
                          slot := if s.boot.accepted then s.boot.slot else 0 },
    pwr := { (freshState s).pwr with energy := s.pwr.energy } }

theorem packageReset_keeps {β : Type} {g : Mach → β} (h : OffCsr g) (hpwr : ∀ (s : Mach) (f : Pwr → Pwr), g (modPwr s f) = g s)
    (hphase : ∀ (s : Mach) (x : Nat), g (modBoot s (fun b => { b with phaseAt := x })) = g s) (s : Mach) :
    g (packageReset s) = g (resetStart s) := by
  unfold packageReset setPhase
  dsimp only
  rw [hphase, h.wf, h.wf, h.wf, h.wf, foldS_keeps g _ _ _ fun t r => h.csrPut t _ _, h.loadFuses hpwr]
  rfl

theorem phase_setPhase (s : Mach) (p : Nat) : phase (setPhase s p) = p % 16 := rf_wf s _ _ _ _ _ _ (by decide) (by decide)

theorem phase_packageReset (s : Mach) : phase (packageReset s) = 8 := phase_setPhase _ 8

theorem pkgResetNRise_held {s : Mach} (h : phase s = 8) : phase (pkgResetNRise s) = (if s.boot.accepted then 4 else 2) ∧
    (pkgResetNRise s).mem = s.mem ∧ (pkgResetNRise s).loft = s.loft ∧ (pkgResetNRise s).now = s.now := by
  have hheld : phase { s with pins := { s.pins with resetN := true } } = 8 := h
  unfold pkgResetNRise
  dsimp only
  rw [if_neg (by simp [hheld])]
  refine ⟨?_, rfl, rfl, rfl⟩
  rw [phase_setPhase]
  split <;> rfl

section
variable {s : State} {mid : Mid} {v : Word}

theorem ends_fltRstPackage (hkey : fld v 31 16 = 0xC0DE) (h0 : bit v 0 = true) :
    CspEnds (.fltRstPackage mid v) s mid .FLT_RST 0 0 v (fun t m =>
      phase m = (if t.boot.accepted then 4 else 2) ∧ m.mem = t.mem ∧ m.loft = t.loft ∧ m.now = t.now + 1600 * Config.acyc) := by
  have hact : regWrite s.mach mid { name := .FLT_RST, unit := 0, idx := 0 } false v =
      pkgResetNRise (packageReset (advanceTo s.mach (s.mach.now + 1600 * Config.acyc))) := by
    show onFltRst s.mach v = _
    unfold onFltRst
    rw [if_neg (by simp [hkey]), if_pos h0]
  obtain ⟨hphase, hmem, hloft, hnow⟩ := pkgResetNRise_held (phase_packageReset (advanceTo s.mach (s.mach.now + 1600 * Config.acyc)))
  have hboot := packageReset_keeps (g := fun m => m.boot.accepted) (fun _ _ => rfl) (fun _ _ => rfl) (fun _ _ => rfl)
    (advanceTo s.mach (s.mach.now + 1600 * Config.acyc))
  refine cspEnds_outside (by decide) rfl rfl hact ⟨?_, ?_, ?_, ?_⟩
  · exact hphase.trans (by rw [hboot]; rfl)
  · exact hmem.trans (packageReset_keeps (g := Mach.mem) (fun _ _ => rfl) (fun _ _ => rfl) (fun _ _ => rfl) _)
  · exact hloft.trans (packageReset_keeps (g := Mach.loft) (fun _ _ => rfl) (fun _ _ => rfl) (fun _ _ => rfl) _)
  · refine hnow.trans ((packageReset_keeps (g := Mach.now) (fun _ _ => rfl) (fun _ _ => rfl) (fun _ _ => rfl) _).trans ?_)
    exact Nat.max_eq_right (Nat.le_add_right _ _)

end

/-! ### Reset of a die -/

theorem dieRegs_keeps {β : Type} {g : Mach → β} (h : OffCsr g) (s : Mach) (d : Nat) : g (dieRegs s d) = g s := by
  unfold dieRegs
  dsimp only
  rw [foldS_keeps g _ _ _ fun t b => (h.wb _ _ _ _ _ _).trans ((h.wf _ _ _ _ _ _ _).trans (h.wr t _ _ _ _)),
    foldS_keeps g _ _ _ fun t y => h.wr t _ _ _ _, h]

/-- The bays of a die at their start, one after the other. -/
def clearBays (l : List Nat) (s : Mach) : Mach :=
  foldS l (fun t b => modBay t b (fun _ => { Bay.zero with cnt := { edge := edgeOf t b, skip := 0 } })) s

theorem getBay_clearBays_of_notMem (b : Fin 72) {l : List Nat} (h : b.val ∉ l) (s : Mach) :
    getBay (clearBays l s) b = getBay s b := by
  induction l generalizing s with
  | nil => rfl
  | cons x xs ih =>
    refine (ih (fun hm => h (List.mem_cons_of_mem _ hm)) _).trans ?_
    rw [getBay_modBay, if_neg fun hc : b.val = x ∧ _ => h (hc.1 ▸ List.mem_cons_self)]

theorem getBay_clearBays_of_mem (b : Fin 72) {l : List Nat} {s : Mach}
    (h : b.val ∈ l ∨ (getBay s b).seq = Bay.zero.seq ∧ (getBay s b).chans = Bay.zero.chans) :
    (getBay (clearBays l s) b).seq = Bay.zero.seq ∧ (getBay (clearBays l s) b).chans = Bay.zero.chans := by
  induction l generalizing s with
  | nil => exact h.resolve_left List.not_mem_nil
  | cons x xs ih =>
    refine ih ?_
    rw [getBay_modBay]
    split
    · exact Or.inr ⟨rfl, rfl⟩
    · next hc =>
      refine h.imp_left fun hm => (List.mem_cons.1 hm).resolve_left fun he => hc ?_
      exact ⟨he, he ▸ b.isLt⟩

theorem mem_dieBays (b : Fin 72) (d : Nat) : b.val ∈ dieBays d ↔ dieOf b = d := by
  unfold dieBays dieOf
  rw [List.mem_map]
  constructor
  · rintro ⟨i, hi, he⟩
    have := List.mem_range.1 hi
    omega
  · intro h
    exact ⟨b.val % 12, List.mem_range.2 (by omega), by omega⟩

theorem compDieId_ordinal (d : Fin 6) : validDie (compDieId d) = true ∧ 4 ≤ compDieId d % 16 ∧ compOrd (compDieId d) = d := by
  revert d
  decide

/-- What belongs to the bays of a die outside them, taken away with it. -/
def dropDie (s : Mach) (d : Nat) : Mach :=
  { s with held := s.held.filter (fun x => !(decide (128 + 12 * d ≤ x.1 / lineSpan) && decide (x.1 / lineSpan < 140 + 12 * d))),
           toks := s.toks.filter (fun t => decide (dieOf t.bay ≠ d)), rdvs := s.rdvs.filter (fun t => decide (dieOf t.bay ≠ d)),
           trcWire := s.trcWire.filter (fun t => decide (dieOf t.bay ≠ d)),
           shfResv := s.shfResv.filter (fun r => decide (dieOf r.bay ≠ d)),
           etrDies := vmod s.etrDies d (fun _ => EtrDie.zero) }

/-- The package of a die reset before its registers are set. -/
def dieCleared (s : Mach) (d : Nat) : Mach :=
  modFlt (dropDie (clearBays (dieBays d) s) d) (fun f => { f with dieKeys := smapPut [] f.dieKeys (compDieId d) [] })

theorem dieReset_eq (s : Mach) (d : Nat) : dieReset s d =
    wb (modClk (dieRegs (dieCleared s d) d) d (fun c => { c with copyLost := true })) .ALM_LSTAT d 0 5 false := rfl

theorem dieReset_keeps {β : Type} {g : Mach → β} (h : OffCsr g) (hclk : ∀ (s : Mach) (d : Nat) (f : DieClk → DieClk), g (modClk s d f) = g s)
    (hflt : ∀ (s : Mach) (f : Flt → Flt), g (modFlt s f) = g s)
    (hdrop : ∀ (s : Mach) (a : SMap HLine) (b : List TokFlight) (c : List RdvFlight) (e : List TrcRec) (f : List ShfResv)
      (x : Vector EtrDie 10), g { s with held := a, toks := b, rdvs := c, trcWire := e, shfResv := f, etrDies := x } = g s)
    (s : Mach) (d : Nat) : g (dieReset s d) = g (clearBays (dieBays d) s) := by
  rw [dieReset_eq, h.wb, hclk, dieRegs_keeps h, dieCleared, hflt]
  exact hdrop _ _ _ _ _ _ _

theorem getClk_wb (s : Mach) (n : RegName) (u i k : Nat) (v : Bool) (d : Nat) : getClk (wb s n u i k v) d = getClk s d := rfl

theorem copyLost_dieReset (s : Mach) (d : Fin 6) : (getClk (dieReset s d) d).copyLost = true := by
  rw [dieReset_eq, getClk_wb, getClk_modClk]

theorem ends_fltRstDieRst {s : State} {mid : Mid} {v : Word} {d : CompDie} (hkey : fld v 31 16 = 0xC0DE) (h0 : bit v 0 = false)
    (h1 : bit v 1 = true) (hd : fld v 12 8 = compDieId d) (hheld : dieHeld s.mach d = true) :
    CspEnds (.fltRstDieRst mid v) s mid .FLT_RST 0 0 v (fun t m => (getClk m d).copyLost = true ∧ m.mem = t.mem ∧
      ∀ b : BayNo, (dieOf b = d → getSeq m b = Bay.zero.seq ∧ (getBay m b).chans = Bay.zero.chans) ∧
        (dieOf b ≠ d → getBay m b = getBay t b)) := by
  have hdie : validDie (compDieId d) = true ∧ 4 ≤ compDieId d % 16 ∧ compOrd (compDieId d) = d := compDieId_ordinal d
  have hact : regWrite s.mach mid { name := .FLT_RST, unit := 0, idx := 0 } false v = dieReset s.mach d := by
    show onFltRst s.mach v = _
    unfold onFltRst
    rw [hd, if_neg (by simp [hkey]), if_neg (by simp [h0]), if_pos ⟨h1, hdie.1, hdie.2.1⟩]
    dsimp only
    rw [hdie.2.2, if_pos hheld]
  have hbays : (dieReset s.mach d).bays = (clearBays (dieBays d) s.mach).bays :=
    dieReset_keeps (g := Mach.bays) (fun _ _ => rfl) (fun _ _ _ => rfl) (fun _ _ => rfl) (fun _ _ _ _ _ _ _ => rfl) s.mach d
  have hmem : (dieReset s.mach d).mem = (clearBays (dieBays d) s.mach).mem :=
    dieReset_keeps (g := Mach.mem) (fun _ _ => rfl) (fun _ _ _ => rfl) (fun _ _ => rfl) (fun _ _ _ _ _ _ _ => rfl) s.mach d
  have hget (b : BayNo) : getBay { dieReset s.mach d with cspOut := (0, 0) } b = getBay (clearBays (dieBays d) s.mach) b := by
    rw [getBay_cspOut, getBay, hbays]
    rfl
  refine cspEnds_outside (m := dieReset s.mach d) (by decide) rfl rfl hact ?_
  refine ⟨?_, ?_, fun b => ⟨fun hb => ?_, fun hb => ?_⟩⟩
  · rw [getClk_cspOut]
    exact copyLost_dieReset s.mach d
  · dsimp only
    exact hmem.trans (foldS_keeps Mach.mem _ _ _ fun _ _ => rfl)
  · unfold getSeq
    rw [hget]
    exact getBay_clearBays_of_mem b (Or.inl ((mem_dieBays b d).2 hb))
  · rw [hget]
    exact getBay_clearBays_of_notMem b (fun h => hb ((mem_dieBays b d).1 h)) s.mach

/-! ### Partition reset -/

/-- A part of the package that stopping bays, walks and rings leaves: outside the registers, the bays, translation, the rings, the
reservations of threads, and what records. -/
structure Aside {β : Type} (g : Mach → β) : Prop where
  csr : OffCsr g
  modBay : ∀ (s : Mach) (b : Nat) (f : Bay → Bay), g (modBay s b f) = g s
  barnEtr : ∀ (s : Mach) (x : Vector Etr 4), g { s with barnEtr := x } = g s
  etrDies : ∀ (s : Mach) (x : Vector EtrDie 10), g { s with etrDies := x } = g s
  shfResv : ∀ (s : Mach) (x : List ShfResv), g { s with shfResv := x } = g s
  wire : ∀ (s : Mach) (x : SMap Word) (l : List FltRec), g { s with csr := x, flt := { s.flt with wire := l } } = g s
  trcWire : ∀ (s : Mach) (x : List TrcRec), g { s with trcWire := x } = g s
  sinks : ∀ (s : Mach) (x : Vector Sink 16), g { s with sinks := x } = g s
  rings : ∀ (s : Mach) (x : SMap Nat) (y : SMap Nat), g { s with ringBy := x, ringAt := y } = g s

namespace Aside
variable {β : Type} {g : Mach → β} (h : Aside g)
include h

theorem modEtr (s : Mach) (u : Nat) (f : Etr → Etr) : g (modEtr s u f) = g s := by
  unfold Machine.modEtr
  split
  · exact h.modBay s u _
  · exact h.barnEtr s _

theorem cutEng (s : Mach) (b e : Nat) : g (cutEng s b e) = g s := by
  have hunits (t : Mach) (x : List ShfResv) (f : Etr → Etr) (k : Sem → Sem) (v : Mov → Mov) (n : Eng → Eng) :
      g (modEng { modMov (modSem (Machine.modEtr t b f) b k) b v with shfResv := x } b e n) = g t :=
    (h.modBay _ _ _).trans ((h.shfResv _ _).trans ((h.modBay _ _ _).trans ((h.modBay _ _ _).trans (h.modEtr t b f))))
  unfold Machine.cutEng
  dsimp only
  refine iteInduction (motive := fun m : Mach => g m = g s) (fun _ => rfl) fun _ => ?_
  refine iteInduction (motive := fun m : Mach => g m = g s) (fun _ => hunits _ _ _ _ _ _) fun _ => ?_
  rw [h.csr.bump, h.csr.bump]
  exact hunits _ _ _ _ _ _

theorem raise (s : Mach) (r : FltRec) : g (raise s r) = g s := by
  rw [raise_only]
  exact h.wire s _ _

theorem emitTraceIf (s : Mach) (b e k c u d : Nat) : g (emitTraceIf s b e k c u d) = g s := by
  unfold Machine.emitTraceIf emitTrace
  split
  · split
    · exact h.trcWire s _
    · rfl
  · rfl

theorem fireIf (s : Mach) (b src : Nat) (c : Sink → Bool) : g (fireIf s b src c) = g s := by
  unfold Machine.fireIf
  split
  · rfl
  · dsimp only
    split
    · exact h.sinks s _
    · rfl

theorem raiseBay (s : Mach) (b : Nat) (r : FltRec) : g (raiseBay s b r) = g s := by
  unfold Machine.raiseBay
  dsimp only
  rw [h.raise, h.fireIf, h.emitTraceIf, h.csr.bump, foldS_keeps g _ _ _ fun t k => h.csr.wr t _ _ _ _]

theorem recordFirst (s : Mach) (n : RegName) (u i : Nat) (v : Word) : g (recordFirst s n u i v) = g s := by
  rw [recordFirst_only]
  exact h.csr s _

theorem etrRefuse (s : Mach) (u : Nat) (r : XReq) (code : Nat) : g (etrRefuse s u r code) = g s := by
  have hrec (t : Mach) (c d : Prop) [Decidable c] [Decidable d] (v w : Word) : g (if c then if d then t
      else wr (Machine.recordFirst t .ETR_ERR u 0 v) .ETR_ERRVA u 0 w else t) = g t := by
    rw [apply_ite g, apply_ite g, h.csr.wr, h.recordFirst, ite_self, ite_self]
  have hans : g (xAnswer s u r code 0) = g s := h.modEtr s u _
  unfold Machine.etrRefuse
  dsimp only
  refine iteInduction (motive := fun m : Mach => g m = g s) (fun _ => (hrec _ _ _ _ _).trans hans) fun _ => ?_
  refine iteInduction (motive := fun m : Mach => g m = g s) (fun _ => ?_) fun _ => ?_
  · exact (h.raiseBay _ _ _).trans ((hrec _ _ _ _ _).trans hans)
  · exact (h.raise _ _).trans ((hrec _ _ _ _ _).trans hans)

theorem faultAbort (s : Mach) (d : Nat) (f : PFault) (code : Nat) : g (faultAbort s d f code) = g s := by
  unfold Machine.faultAbort refuseMiss endMiss
  refine (foldS_keeps g _ _ _ fun t u => foldS_keeps g _ _ _ fun v m => ?_).trans (h.etrDies s _)
  exact (foldS_keeps g _ _ _ fun w q => h.etrRefuse w u q code).trans (h.modEtr v u _)

theorem setPend (s : Mach) (r n mid : Nat) : g (setPend s r n mid) = g s := (h.csr.wf _ _ _ _ _ _ _).trans (h.rings s _ _)

end Aside

/-- The cores of a list at their start, held. -/
def holdCores (l : List Nat) (s : Mach) : Mach :=
  foldS l (fun t c => modCore t c (fun _ => { Core.zero with csr := smapPut 0 Core.zero.csr 0x7C2 (smapGet 0 (getCore t c).csr 0x7C2) })) s

theorem getCore_modCore (s : Mach) (c d : Nat) (f : Core → Core) :
    getCore (modCore s c f) d = if d = c ∧ c < 96 then f (getCore s c) else getCore s d := vget_vmod _ _ _ _ _

theorem released_holdCores {c : Nat} {l : List Nat} {s : Mach} (hlt : c < 96) (h : c ∈ l ∨ (getCore s c).released = false) :
    (getCore (holdCores l s) c).released = false := by
  induction l generalizing s with
  | nil => exact h.resolve_left List.not_mem_nil
  | cons x xs ih =>
    refine ih ?_
    rw [getCore_modCore]
    split
    · exact Or.inr rfl
    · next hc => exact h.imp_left fun hm => (List.mem_cons.1 hm).resolve_left fun he => hc ⟨he, he ▸ hlt⟩

theorem prst_holdCores (l : List Nat) (s : Mach) : (holdCores l s).flt.prst = s.flt.prst := by
  unfold holdCores
  exact foldS_keeps (fun m : Mach => m.flt.prst) l _ s fun _ _ => rfl

theorem mem_partCores {s : Mach} {p c : Nat} (h : c ∈ partCores s p) : c < 96 := List.mem_range.1 (List.mem_filter.1 h).1

theorem partCores_of_parts {s t : Mach} (h : SameParts s t) (p : Nat) : partCores s p = partCores t p := by
  unfold partCores corePid
  simp only [clusterPid_of_parts h]

/-- A partition reset begun: its partition noted, its rota told to abort. -/
def prstBegun (s : Mach) (p : Nat) : Mach :=
  let t := modFlt (wb (wf s .FLT_PRST 0 0 3 0 p) .FLT_PRST 0 0 63 true) (fun f => { f with prst := some (p, s.now) })
  if (getRota t p).enabled then modRota t p (fun r => { r with abortReq := true }) else t

/-- What a partition reset leaves after the cores are held. -/
theorem prstAssert_keeps {β : Type} {g : Mach → β} (h : Aside g) (s : Mach) (p : Nat) :
    g (prstAssert s p) = g (holdCores (partCores (prstBegun s p) p) (prstBegun s p)) := by
  have htail (t : Mach) (l : List Nat) (m : Mach → List Nat) (k : Mach → Nat → List PFault) :
      g (foldS (List.range 10) (fun u d => foldS (k u d) (fun w f => faultAbort w d f 7) u)
        (foldS (m (foldS l (fun u b => foldS (List.range 4) (fun w e => cutEng w b e) u) t)) (fun u r =>
          wb (setPend u r 0 0) .RNG_CFG r 0 63 false) (foldS l (fun u b => foldS (List.range 4) (fun w e => cutEng w b e) u) t))) = g t := by
    rw [foldS_keeps g _ _ _ fun u d => foldS_keeps g _ _ _ fun w f => h.faultAbort w d f 7,
      foldS_keeps g _ _ _ fun u r => (h.csr.wb _ _ _ _ _ _).trans (h.setPend u r 0 0),
      foldS_keeps g _ _ _ fun u b => foldS_keeps g _ _ _ fun w e => h.cutEng w b e]
  exact htail _ _ (fun u => (List.range 4096).filter (fun r => decide (ringPid u r = some p) && ringOn u r))
    (fun u d => (getEtrDie u d).faults.filter (fun f => decide (tenPid u f.req.tid = some p)))

theorem aside_cores : Aside Mach.cores :=
  ⟨fun _ _ => rfl, fun _ _ _ => rfl, fun _ _ => rfl, fun _ _ => rfl, fun _ _ => rfl, fun _ _ _ => rfl, fun _ _ => rfl, fun _ _ => rfl,
    fun _ _ _ => rfl⟩

theorem aside_prst : Aside (fun m => m.flt.prst) :=
  ⟨fun _ _ => rfl, fun _ _ _ => rfl, fun _ _ => rfl, fun _ _ => rfl, fun _ _ => rfl, fun _ _ _ => rfl, fun _ _ => rfl, fun _ _ => rfl,
    fun _ _ _ => rfl⟩

theorem sameParts_of_csr {s t : Mach} (h : s.csr = t.csr) : SameParts s t := fun _ _ => ⟨rg_of_csr h _ _ _, rg_of_csr h _ _ _, rg_of_csr h _ _ _⟩

theorem SameParts.trans {s t u : Mach} (h : SameParts s t) (k : SameParts t u) : SameParts s u := fun p hp =>
  ⟨(h p hp).1.trans (k p hp).1, (h p hp).2.1.trans (k p hp).2.1, (h p hp).2.2.trans (k p hp).2.2⟩

theorem sameParts_prstBegun (s : Mach) (p : Nat) : SameParts (prstBegun s p) s := by
  have hregs : SameParts (wb (wf s .FLT_PRST 0 0 3 0 p) .FLT_PRST 0 0 63 true) s :=
    (sameParts_wr (Or.inl (by decide)) _ _).trans (sameParts_wr (Or.inl (by decide)) _ _)
  unfold prstBegun
  dsimp only
  refine iteInduction (motive := fun m : Mach => SameParts m s) (fun _ => ?_) fun _ => ?_
  · exact SameParts.trans (fun _ _ => ⟨rfl, rfl, rfl⟩) hregs
  · exact SameParts.trans (fun _ _ => ⟨rfl, rfl, rfl⟩) hregs

section
variable {s : State} {mid : Mid} {v : Word}

theorem ends_fltPrstAssert (hbusy : rb s.mach .FLT_PRST 0 0 63 = false) (h62 : bit v 62 = true)
    (hvalid : partValid s.mach (fld v 3 0) = true) :
    CspEnds (.fltPrstAssert mid v) s mid .FLT_PRST 0 0 v (fun t m => m.flt.prst = some (fld v 3 0, t.now) ∧
      ∀ c ∈ partCores t (fld v 3 0), (getCore m c).released = false) := by
  have hact : regWrite s.mach mid { name := .FLT_PRST, unit := 0, idx := 0 } false v = prstAssert s.mach (fld v 3 0) := by
    show onFltPrst s.mach v = _
    unfold onFltPrst
    dsimp only
    rw [if_neg (by simp [hbusy]), if_pos h62, if_pos hvalid]
  have hcores := prstAssert_keeps aside_cores s.mach (fld v 3 0)
  have hprst := prstAssert_keeps aside_prst s.mach (fld v 3 0)
  refine cspEnds_outside (by decide) rfl rfl hact ?_
  dsimp only
  refine ⟨?_, fun c hc => ?_⟩
  · rw [hprst]
    refine (prst_holdCores _ _).trans ?_
    unfold prstBegun
    dsimp only
    exact iteInduction (motive := fun m : Mach => m.flt.prst = some (fld v 3 0, s.mach.now)) (fun _ => rfl) fun _ => rfl
  · rw [getCore_cspOut, getCore, hcores]
    refine released_holdCores (mem_partCores hc) (Or.inl ?_)
    rwa [partCores_of_parts (sameParts_prstBegun s.mach _)]

end

/-! ### The end of a partition reset -/

/-- A field of a register rewritten leaves its bits above as they were. -/
theorem rb_wf_above (s : Mach) (n : RegName) (u i hi lo v j : Nat) (h : lo ≤ hi + 1) (hd : hi < j) :
    rb (wf s n u i hi lo v) n u i j = rb s n u i j := by
  unfold rb wf
  rw [rg_wr]
  exact bit_setFld_other _ _ _ _ _ h (Or.inr hd)

/-- The cores of a list started at their partition's reset vector. -/
def startAll (p : Nat) (l : List Nat) (s : Mach) : Mach :=
  foldS l (fun t c =>
    let q := fld (t.cfg.cores.getD 16 0) (3 * (c / 8) + 2) (3 * (c / 8))
    let cur := fld (smapGet 0 (getCore t c).csr 0x7C2) 10 8
    modCore t c (fun _ =>
      { Core.zero with
        released := true, pc := BitVec.ofNat 64 ((resetVec t p).getD 0),
        x := smapPut 0 (smapPut 0 [] 10 (BitVec.ofNat 64 c)) 11 (BitVec.ofNat 64 p),
        csr := smapPut 0 Core.zero.csr 0x7C2 (packFlds [(10, 8, cur), (2, 0, q)]) })) s

/-- A core started at a vector. -/
def Core.At (x : Core) (v : Nat) : Prop := x.released = true ∧ x.pc = BitVec.ofNat 64 v

theorem at_startAll {p c v : Nat} {l : List Nat} {s : Mach} (hlt : c < 96) (hv : (resetVec s p).getD 0 = v)
    (h : c ∈ l ∨ (getCore s c).At v) : (getCore (startAll p l s) c).At v := by
  induction l generalizing s with
  | nil => exact h.resolve_left List.not_mem_nil
  | cons x xs ih =>
    refine ih hv ?_
    dsimp only
    rw [getCore_modCore, hv]
    split
    · exact Or.inr ⟨rfl, rfl⟩
    · next hc => exact h.imp_left fun hm => (List.mem_cons.1 hm).resolve_left fun he => hc ⟨he, he ▸ hlt⟩

theorem ends_fltPrstRelease {s : State} {mid : Mid} {v : Word} (hbusy : rb s.mach .FLT_PRST 0 0 63 = false) (h62 : bit v 62 = false)
    (h61 : bit v 61 = true) (hheld : prstHeld s.mach (fld v 3 0) = true) :
    CspEnds (.fltPrstRelease mid v) s mid .FLT_PRST 0 0 v (fun t m => ∀ c ∈ partCores t (fld v 3 0), (getCore m c).released = true ∧
      (getCore m c).pc = BitVec.ofNat 64 ((resetVec t (fld v 3 0)).getD 0)) := by
  have hheld' : prstHeld (wf s.mach .FLT_PRST 0 0 3 0 (fld v 3 0)) (fld v 3 0) = true := by
    unfold prstHeld at hheld ⊢
    rw [rb_wf_above _ _ _ _ _ _ _ _ (by omega) (by omega), hheld]
  have hact : regWrite s.mach mid { name := .FLT_PRST, unit := 0, idx := 0 } false v = foldS (List.range 12) retarget
      (startCores (wb (wf s.mach .FLT_PRST 0 0 3 0 (fld v 3 0)) .FLT_PRST 0 0 (16 + fld v 3 0) false) (fld v 3 0)) := by
    show onFltPrst s.mach v = _
    unfold onFltPrst
    dsimp only
    rw [if_neg (by simp [hbusy]), if_neg (by simp [h62]), if_pos ⟨h61, hheld'⟩]
  have hparts : SameParts (wb (wf s.mach .FLT_PRST 0 0 3 0 (fld v 3 0)) .FLT_PRST 0 0 (16 + fld v 3 0) false) s.mach :=
    (sameParts_wr (Or.inl (by decide)) _ _).trans (sameParts_wr (Or.inl (by decide)) _ _)
  refine cspEnds_outside (by decide) rfl rfl hact fun c hc => ?_
  rw [getCore_cspOut, getCore, foldS_keeps Mach.cores (List.range 12) retarget _ fun _ _ => rfl]
  refine at_startAll (v := (resetVec s.mach (fld v 3 0)).getD 0) (mem_partCores hc) ?_ (Or.inl ?_)
  · rfl
  · rwa [partCores_of_parts hparts]

/-! ### The almanac -/

section
variable {s : State} {mid : Mid} {v : Word}

theorem ends_stepArm (h0 : bit v 0 = true) (h1 : bit v 1 = false) (hpend : rb s.mach .ALM_STATUS 0 0 14 = true)
    (hidle : noFurrow s.mach = true) : CspEnds (.stepArm mid v) s mid .ALM_CTL 0 0 v (fun t m =>
      m = { t with alm := { t.alm with stepArmed := true }, cspOut := (0, 0) }) := by
  have hact : regWrite s.mach mid { name := .ALM_CTL, unit := 0, idx := 0 } false v =
      modAlm s.mach (fun a => { a with stepArmed := true }) := by
    show onAlmCtl s.mach v = _
    unfold onAlmCtl onStepArm
    dsimp only
    rw [if_neg (by simp [h1]), if_pos h0, if_pos ⟨hpend, hidle⟩]
  exact cspEnds_outside (by decide) rfl rfl hact rfl

theorem onAlmCtl_of_reacquire (s : Mach) (h0 : bit v 0 = false) (h1 : bit v 1 = true) : onAlmCtl s v = onReacquire s := by
  unfold onAlmCtl
  simp only [h0, h1, Bool.false_eq_true, if_true, if_false]

/-- What an acquisition begun anew leaves of the almanac. -/
def Reacquired (m : Mach) : Prop := almState m = aAcquire ∧ m.alm.step = 1 ∧ m.alm.slewing = false

theorem reacquired_setAlmState (t : Mach) (p : Nat) : Reacquired (modAlm (setAlmState t aAcquire) fun a =>
    { a with step := 1, acqPort := p, confirm := 0, slewing := false, rootTaken := false, stepArmed := false }) :=
  ⟨rf_wf t _ _ _ _ _ _ (by decide) (by decide), rfl, rfl⟩

theorem reacquired_onReacquire (s : Mach) (hgm : isGm s = false) : Reacquired (onReacquire s) := by
  unfold onReacquire
  rw [if_neg (by simp [hgm])]
  exact reacquired_setAlmState _ _

theorem ends_reacquire_gm (h0 : bit v 0 = false) (h1 : bit v 1 = true) (hgm : isGm s.mach = true) (hrun : s.mach.alm.running = true)
    (hfree : almState s.mach ≠ aFree) : CspEnds (.reacquire mid v) s mid .ALM_CTL 0 0 v (fun _ m =>
      almState m = aAcquire ∧ m.alm.relock = true) := by
  have hact : regWrite s.mach mid { name := .ALM_CTL, unit := 0, idx := 0 } false v =
      modAlm (setAlmState s.mach aAcquire) (fun a => { a with relock := true }) := by
    show onAlmCtl s.mach v = _
    rw [onAlmCtl_of_reacquire _ h0 h1]
    unfold onReacquire
    rw [if_pos hgm, if_neg (by simp [hfree]), if_pos hrun]
  refine cspEnds_outside (by decide) rfl rfl hact ⟨?_, rfl⟩
  exact rf_wf s.mach _ _ _ _ _ _ (by decide) (by decide)

theorem ends_reacquire_follower (h0 : bit v 0 = false) (h1 : bit v 1 = true) (hgm : isGm s.mach = false) :
    CspEnds (.reacquire mid v) s mid .ALM_CTL 0 0 v (fun _ m => almState m = aAcquire ∧ m.alm.step = 1 ∧ m.alm.slewing = false) := by
  have hact : regWrite s.mach mid { name := .ALM_CTL, unit := 0, idx := 0 } false v = onReacquire s.mach :=
    onAlmCtl_of_reacquire _ h0 h1
  obtain ⟨hstate, hstep, hslew⟩ := reacquired_onReacquire s.mach hgm
  exact cspEnds_outside (by decide) rfl rfl hact ⟨hstate, hstep, hslew⟩

end

/-- Settles O32. -/
theorem resetAndClockWrites : Obligations.ResetAndClockWrites :=
  ⟨fun _ _ _ hkey h0 => ends_fltRstPackage hkey h0,
    fun _ _ _ _ hkey h0 h1 hd hheld => ends_fltRstDieRst hkey h0 h1 hd hheld,
    fun _ _ _ hbusy h62 hvalid => ends_fltPrstAssert hbusy h62 hvalid,
    fun _ _ _ hbusy h62 h61 hheld => ends_fltPrstRelease hbusy h62 h61 hheld,
    fun _ _ _ h0 h1 hpend hidle => ends_stepArm h0 h1 hpend hidle,
    fun _ _ _ h0 h1 hgm hrun hfree => ends_reacquire_gm h0 h1 hgm hrun hfree,
    fun _ _ _ h0 h1 hgm => ends_reacquire_follower h0 h1 hgm⟩

end Sys2Proof.Machine
end


section
/-! The SPDM responder (R474, R475): each request answered in its order, and every response counted. -/

namespace Sys2Proof.Machine

/-- What every response leaves: it is counted in SEC_STATUS.SPDM, and memory stands. -/
def Counted (s m : Mach) : Prop := rf m .SEC_STATUS 0 0 63 32 = sat 32 (rf s .SEC_STATUS 0 0 63 32 + 1) ∧ m.mem = s.mem

/-- A request whose version, length and order are right, of a connection whose algorithms are agreed. -/
def Ready (s : Mach) (req : List Byte) (code len : Nat) : Prop :=
  isDone s = true ∧ 3 ≤ s.spdm.stage ∧ cutNat req 1 1 = code ∧ cutNat req 0 1 = s.spdm.ver ∧ len ≤ req.length

theorem spdm_spdmSend (s : Mach) (out : List Byte) : (spdmSend s out).spdm = { s.spdm with out := out } := by
  unfold spdmSend
  rw [bump_only]
  rfl

theorem mem_spdmSend (s : Mach) (out : List Byte) : (spdmSend s out).mem = s.mem := by
  unfold spdmSend
  rw [bump_only]
  rfl

theorem counted_spdmSend {s t : Mach} (hcsr : t.csr = s.csr) (hmem : t.mem = s.mem) (out : List Byte) : Counted s (spdmSend t out) := by
  refine ⟨?_, (mem_spdmSend t out).trans hmem⟩
  refine (rf_bump _ _ _ _ _ _ _ (by decide) (by decide)).trans ?_
  exact congrArg (fun w : Word => sat 32 (fld w 63 32 + 1)) (rg_of_csr hcsr _ _ _)

/-- A response sent after the connection's state has moved on. -/
theorem counted_modSpdm {s t : Mach} (hcsr : t.csr = s.csr) (hmem : t.mem = s.mem) (f : Spdm → Spdm) (out : List Byte) :
    Counted s (spdmSend (modSpdm t f) out) := counted_spdmSend (t := modSpdm t f) hcsr hmem out

theorem csr_notMeas (s : Mach) : (notMeas s).csr = s.csr := rfl
theorem mem_notMeas (s : Mach) : (notMeas s).mem = s.mem := rfl

theorem length_head (s : Mach) (code p1 p2 : Nat) : (head s code p1 p2).length = 4 := by
  simp only [head, List.length_append, length_bytesOf]

/-- A request that nothing stops is answered by its row. -/
theorem spdmServe_of_open {s : Mach} {req : List Byte} {code stage len : Nat} (f : Mach → Mach) (hdone : isDone s = true)
    (hstage : stage ≤ s.spdm.stage) (hcode : cutNat req 1 1 = code) (hver : cutNat req 0 1 = s.spdm.ver) (hlen : len ≤ req.length)
    (htwo : 2 ≤ len) : spdmServe s req code stage len f = f s := by
  unfold spdmServe
  rw [if_neg (by omega), if_neg (by simp [hdone]), if_neg (by omega), if_neg (by simp [hver]), if_neg (by omega)]

/-- A draw changes neither the image's digest nor what follows from it. -/
theorem bootDigest_drawBytes (s : Mach) (n : Nat) : bootDigest (drawBytes s n).2 = bootDigest s := rfl

theorem slotChain_drawBytes (s : Mach) (n : Nat) : slotChain (drawBytes s n).2 = slotChain s := by
  unfold slotChain
  rw [bootDigest_drawBytes]

theorem measEntry_drawBytes (s : Mach) (n : Nat) : measEntry (drawBytes s n).2 2 = measEntry s 2 := by
  have hboot (t : Mach) : measEntry t 2 = bytesOf 1 2 ++ bytesOf 1 1 ++ bytesOf 2 51 ++ bytesOf 1 1 ++ bytesOf 2 48 ++ bootDigest t := by
    simp only [measEntry, measValue, measBlock, Nat.reduceEqDiff, if_false]
  rw [hboot, hboot, bootDigest_drawBytes]

/-- An answer to a challenge, after its nonce. -/
theorem exists_rest_challenge {h c n : List Byte} (a b d e : List Byte) (hn : n.length = 32) : ∃ nonce rest : List Byte,
    nonce.length = 32 ∧ h ++ c ++ n ++ a ++ b ++ d ++ e = h ++ c ++ nonce ++ rest :=
  ⟨n, a ++ b ++ d ++ e, hn, by simp only [List.append_assoc]⟩

/-- An answer with measurements, after its entries. -/
theorem exists_rest_measurements {h i l m : List Byte} (a b d : List Byte) : ∃ rest : List Byte,
    h ++ i ++ l ++ m ++ a ++ b ++ d = h ++ i ++ l ++ m ++ rest :=
  ⟨a ++ b ++ d, by simp only [List.append_assoc]⟩

section
variable {s : State} {req : List Byte}

theorem ends_getVersion (hcode : cutNat req 1 1 = 0x84) (hlen : 4 ≤ req.length) (hver : cutNat req 0 1 = 0x10) :
    Ends (.getVersion req) s (fun m => m.spdm.stage = 1 ∧ m.spdm.certs = [] ∧
      m.spdm.out = bytesOf 6 0x020000000410 ++ bytesOf 2 0x1200 ++ bytesOf 2 0x1300 ∧ Counted s.mach m) := by
  refine ⟨_, rfl, ?_⟩
  dsimp only
  unfold getVersion
  rw [if_neg (by omega), if_neg (by simp [hver])]
  dsimp only
  rw [spdm_spdmSend]
  exact ⟨rfl, rfl, rfl, counted_modSpdm rfl rfl _ _⟩

theorem ends_getCapabilities (hcode : cutNat req 1 1 = 0xE1) (hlen : 20 ≤ req.length) (hdone : isDone s.mach = true)
    (hstage : s.mach.spdm.stage = 1) (hver : cutNat req 0 1 = 0x12 ∨ cutNat req 0 1 = 0x13) :
    Ends (.getCapabilities req) s (fun m => m.spdm.stage = 2 ∧ m.spdm.ver = cutNat req 0 1 ∧
      m.spdm.out.take 2 = bytesOf 1 (cutNat req 0 1) ++ bytesOf 1 0x61 ∧ Counted s.mach m) := by
  refine ⟨_, rfl, ?_⟩
  dsimp only
  unfold getCapabilities
  dsimp only
  rw [if_neg (by omega), if_neg (by simp [hdone]), if_neg (by simp [hstage]), if_neg (by omega), if_neg (by omega)]
  rw [spdm_spdmSend]
  exact ⟨rfl, rfl, rfl, counted_modSpdm rfl rfl _ _⟩

theorem ends_negotiateAlgorithms (hcode : cutNat req 1 1 = 0xE3) (hlen : 32 ≤ req.length) (hdone : isDone s.mach = true)
    (hstage : s.mach.spdm.stage = 2) (hver : cutNat req 0 1 = s.mach.spdm.ver) :
    Ends (.negotiateAlgorithms req) s (fun m => m.spdm.stage = 3 ∧ Counted s.mach m ∧
      m.spdm.out.take 8 = bytesOf 1 s.mach.spdm.ver ++ bytesOf 1 0x63 ++ bytesOf 1 0 ++ bytesOf 1 0 ++ bytesOf 2 36 ++
        bytesOf 1 (cutNat req 6 1 &&& 1) ++ bytesOf 1 0) := by
  refine ⟨_, rfl, ?_⟩
  dsimp only
  unfold negotiateAlgorithms
  rw [spdmServe_of_open _ hdone (by omega) hcode hver hlen (by decide), if_neg (by simp [hstage])]
  dsimp only
  rw [spdm_spdmSend]
  exact ⟨rfl, counted_modSpdm rfl rfl _ _, rfl⟩

theorem ends_getDigests (h : Ready s.mach req 0x81 4) : Ends (.getDigests req) s (fun m => Counted s.mach m ∧ m.spdm.meas = [] ∧
    m.spdm.out.drop 4 = sha384 (slotChain s.mach) ∧ m.spdm.stage = s.mach.spdm.stage) := by
  obtain ⟨hdone, hstage, hcode, hver, hlen⟩ := h
  refine ⟨_, rfl, ?_⟩
  dsimp only
  unfold getDigests
  rw [spdmServe_of_open _ hdone hstage hcode hver hlen (by decide)]
  dsimp only
  rw [spdm_spdmSend]
  refine ⟨counted_modSpdm (csr_notMeas _) (mem_notMeas _) _ _, rfl, ?_, rfl⟩
  dsimp only
  exact List.drop_left' (length_head _ _ _ _)

theorem ends_getCertificate (h : Ready s.mach req 0x82 8) (hslot : cutNat req 2 1 % 16 = 0)
    (hoff : cutNat req 4 2 < (slotChain s.mach).length) : Ends (.getCertificate req) s (fun m => Counted s.mach m ∧
      m.spdm.out.drop 8 = ((slotChain s.mach).drop (cutNat req 4 2)).take (cutNat req 6 2)) := by
  obtain ⟨hdone, hstage, hcode, hver, hlen⟩ := h
  refine ⟨_, rfl, ?_⟩
  dsimp only
  unfold getCertificate
  rw [spdmServe_of_open _ hdone hstage hcode hver hlen (by decide)]
  dsimp only
  rw [if_neg (by omega), spdm_spdmSend]
  refine ⟨counted_modSpdm (csr_notMeas _) (mem_notMeas _) _ _, ?_⟩
  dsimp only
  rw [List.drop_left' (by simp only [List.length_append, length_head, length_bytesOf])]
  unfold cutBytes
  rw [← List.length_drop, List.take_eq_take_iff]
  omega

theorem ends_challenge (h : Ready s.mach req 0x83 44) (hslot : cutNat req 2 1 % 16 = 0) :
    Ends (.challenge req) s (fun m => Counted s.mach m ∧ m.spdm.meas = [] ∧ ∃ nonce rest : List Byte, nonce.length = 32 ∧
      m.spdm.out = bytesOf 1 s.mach.spdm.ver ++ bytesOf 1 0x03 ++ bytesOf 1 0 ++ bytesOf 1 1 ++ sha384 (slotChain s.mach) ++ nonce ++
        rest) := by
  obtain ⟨hdone, hstage, hcode, hver, hlen⟩ := h
  refine ⟨_, rfl, ?_⟩
  dsimp only
  unfold challenge
  dsimp only
  rw [spdmServe_of_open _ hdone hstage hcode hver (by split <;> omega) (by split <;> decide)]
  rw [if_neg (by omega), spdm_spdmSend]
  refine ⟨counted_modSpdm (csr_notMeas _) (mem_notMeas _) _ _, rfl, ?_⟩
  dsimp only
  rw [slotChain_drawBytes]
  exact exists_rest_challenge _ _ _ _ (by simp [drawBytes])

theorem ends_getMeasurements_boot (h : Ready s.mach req 0xE0 12) (hsign : cutNat req 2 1 % 2 = 0) (hop : cutNat req 3 1 = 2) :
    Ends (.getMeasurements req) s (fun m => Counted s.mach m ∧ ∃ rest : List Byte,
      m.spdm.out = bytesOf 1 s.mach.spdm.ver ++ bytesOf 1 0x60 ++ bytesOf 1 0 ++ bytesOf 1 0 ++ bytesOf 1 1 ++
        bytesOf 3 (measEntry s.mach 2).length ++ measEntry s.mach 2 ++ rest) := by
  obtain ⟨hdone, hstage, hcode, hver, hlen⟩ := h
  refine ⟨_, rfl, ?_⟩
  dsimp only
  unfold getMeasurements
  dsimp only
  have hodd : ¬ cutNat req 2 1 % 2 = 1 := by omega
  rw [spdmServe_of_open _ hdone hstage hcode hver (by rw [if_neg hodd]; split <;> omega)
    (by rw [if_neg hodd]; split <;> decide)]
  rw [if_neg (by rw [hop]; simp [hodd, measIndices]), if_neg hodd, spdm_spdmSend]
  refine ⟨counted_modSpdm rfl rfl _ _, ?_⟩
  have hids : (if cutNat req 3 1 = 0 then [] else if cutNat req 3 1 = 0xFF then measIndices else [cutNat req 3 1]) = [2] := by
    rw [hop]
    rfl
  dsimp only
  rw [hids, List.flatMap_singleton, measEntry_drawBytes, if_neg (show ¬ cutNat req 3 1 = 0 by omega)]
  exact exists_rest_measurements _ _ _

theorem ends_getMeasurements_early (hcode : cutNat req 1 1 = 0xE0) (hlen : 2 ≤ req.length) (hdone : isDone s.mach = true)
    (hstage : s.mach.spdm.stage < 3) : Ends (.getMeasurements req) s (fun m => Counted s.mach m ∧
      m.spdm.stage = s.mach.spdm.stage ∧ m.spdm.out.drop 1 = bytesOf 1 0x7F ++ bytesOf 1 4 ++ bytesOf 1 0) := by
  refine ⟨_, rfl, ?_⟩
  dsimp only
  unfold getMeasurements
  dsimp only
  unfold spdmServe
  rw [if_neg (by omega), if_neg (by simp [hdone]), if_pos hstage]
  unfold spdmErr
  rw [spdm_spdmSend]
  refine ⟨counted_spdmSend rfl rfl _, rfl, ?_⟩
  dsimp only
  split <;> rfl

end

/-- Settles O58. -/
theorem spdmAnswers : Obligations.SpdmAnswers :=
  ⟨fun _ _ hcode hlen hver => ends_getVersion hcode hlen hver,
    fun _ _ hcode hlen hdone hstage hver => ends_getCapabilities hcode hlen hdone hstage hver,
    fun _ _ hcode hlen hdone hstage hver => ends_negotiateAlgorithms hcode hlen hdone hstage hver,
    fun _ _ h => ends_getDigests h,
    fun _ _ h hslot hoff => ends_getCertificate h hslot hoff,
    fun _ _ h hslot => ends_challenge h hslot,
    fun _ _ h hsign hop => ends_getMeasurements_boot h hsign hop,
    fun _ _ hcode hlen hdone hstage => ends_getMeasurements_early hcode hlen hdone hstage⟩

end Sys2Proof.Machine
end

section
/-! The debug access path and the Debug Module (R551 to R553): accesses that are let through, and how a debug requester's write ends. -/

namespace Sys2Proof.Machine

/-- Presence is fused: no register write changes it. -/
theorem blkPresent_plainWrite (s : Mach) (r : RegRef) (v : Word) (b : Blk) (u : Nat) :
    blkPresent (plainWrite s r v) b u = blkPresent s b u := by
  unfold blkPresent
  cases b <;> rfl

theorem isDone_plainWrite {r : RegRef} (h : RegRef.addr ⟨.BOOT_STATUS, 0, 0⟩ ≠ r.addr) (s : Mach) (v : Word) :
    isDone (plainWrite s r v) = isDone s :=
  congrArg (fun w : Word => bit w 63) (rg_plainWrite_other s r ⟨.BOOT_STATUS, 0, 0⟩ v h)

theorem units_plainWrite (s : Mach) (r : RegRef) (v : Word) : (plainWrite s r v).units = s.units := units_wr _ _ _ _ _

/-- A peek that is granted and let through: the register's value, and the package in which all that is due at its bay has landed. -/
theorem debugCsp_peek {s : Mach} {off u : Nat} {b : Blk} {r : RegRef} (hdone : isDone s = true) (hscope : scopeOk s off none = true)
    (halign : off % 8 = 0) (hreg : regAt off = some (b, u, some r)) (hpres : blkPresent s b u = true) (hlet : CspLet s 0 off) :
    debugCsp s off none = (0, regView (settleBlk s b u) r, settleBlk s b u) := by
  have hread : cspRead s 0 off 8 true = (.ok, regView (settleBlk s b u) r, settleBlk s b u) := by
    unfold cspRead
    rw [cspEnter_ok hlet hreg ((sizeOk_iff _ _).2 (Or.inl ⟨rfl, halign⟩)) none]
    simp [hpres, cutValue]
  unfold debugCsp
  dsimp only
  rw [if_neg (by simp [hdone]), if_neg (by simp [hscope]), if_neg (by simp [halign]), hread]

/-- What a write of an ordinary register does, by any path. -/
theorem regWrite_of_plainReg {r : RegRef} (h : plainReg r) (s : Mach) (mid : Nat) (w4 : Bool) (v : Word) :
    regWrite s mid r w4 v = plainWrite s r v := by
  have hfull := h s mid w4 v
  unfold regWriteFull at hfull
  obtain ⟨n, u, i⟩ := r
  cases n
  case DBG_ACTL => rfl
  case DBG_DMI => rfl
  all_goals exact hfull

/-- A poke of an ordinary register that is granted and let through. -/
theorem debugCsp_poke {s : Mach} {off u : Nat} {b : Blk} {r : RegRef} {w : Word} (hdone : isDone s = true)
    (hscope : scopeOk s off (some w) = true) (halign : off % 8 = 0) (hreg : regAt off = some (b, u, some r))
    (hpres : blkPresent s b u = true) (hplain : plainReg r) (hlet : CspLet s 0 off) :
    debugCsp s off (some w) = (0, 0, plainWrite (settleBlk s b u) r w) := by
  have hwrite : cspWriteBase s 0 off 8 w = (.ok, plainWrite (settleBlk s b u) r w) := by
    unfold cspWriteBase cspWriteBy
    rw [hreg]
    dsimp only
    rw [cspEnter_ok hlet hreg ((sizeOk_iff _ _).2 (Or.inl ⟨rfl, halign⟩)) _]
    dsimp only
    rw [if_neg (by simp [hpres]), if_neg (by simp), regWrite_of_plainReg hplain]
    rfl
  unfold debugCsp
  dsimp only
  rw [if_neg (by simp [hdone]), if_neg (by simp [hscope]), if_neg (by simp [halign]), hwrite]

theorem debugCsp_notGranted {s : Mach} {off : Nat} {v : Option Word} (hdone : isDone s = true) (hscope : scopeOk s off v = false) :
    debugCsp s off v = (errNotGranted, 0, s) := by
  unfold debugCsp
  dsimp only
  rw [if_neg (by simp [hdone]), if_pos hscope]

/-- A debug requester's write of a register of the hub that is let through does what its register does. -/
theorem debugRequest_of_open {s m : Mach} {q : Requester} {n : RegName} {v : Word} (hr : RegRef.placed { name := n, unit := 0, idx := 0 } = true)
    (hb : blkBay n.info.blk 0 = none) (hopen : ReqOpen s q n 0 v)
    (hm : ∀ mid, regWriteFull s mid { name := n, unit := 0, idx := 0 } false v = m) :
    debugRequest s q n v = { m with cspOut := (0, 0) } := by
  cases q
  case core c =>
    obtain ⟨hclk, hdone, hall, hpres⟩ := hopen
    have hat := regAt_addr hr
    obtain ⟨-, halign, -, -⟩ := registerAddressesDecode _ hr
    have henter : cspEnter s (c.val + 1) (RegRef.addr { name := n, unit := 0, idx := 0 }) 8 (some v) =
        .ok (n.info.blk, 0, some { name := n, unit := 0, idx := 0 }) := by
      unfold cspEnter
      rw [if_neg (by simp [hclk]), if_neg (by simp [hdone]), if_neg (by simp [hall]), hat]
      simp [(sizeOk_iff _ _).2 (Or.inl ⟨rfl, halign⟩)]
    have hwiden : widen s { name := n, unit := 0, idx := 0 } (RegRef.addr { name := n, unit := 0, idx := 0 }) 8 v = v := rfl
    have hsettle : settleBlk s n.info.blk 0 = s := by
      unfold settleBlk
      rw [hb]
    show registerWrite s (c.val + 1) _ 8 v = _
    unfold registerWrite cspWrite cspWriteBy
    dsimp only
    rw [hat]
    dsimp only
    rw [hwiden, henter]
    dsimp only
    rw [if_neg (by simp [hpres]), if_neg (by simp), hsettle]
    exact congrArg (fun t : Mach => { t with cspOut := (0, 0) }) (hm _)
  case jtag => exact congrArg (fun t : Mach => { t with cspOut := (0, 0) }) (hm 0)
  case mgmt => exact congrArg (fun t : Mach => { t with cspOut := (0, 0) }) (hm 0)

/-- How a command that is such a write ends. -/
theorem reqEnds_of_write {c : Instr} {s : State} {q : Requester} {n : RegName} {v : Word} {m : Mach} {P : Mach → Mach → Prop}
    (hr : RegRef.placed { name := n, unit := 0, idx := 0 } = true) (hb : blkBay n.info.blk 0 = none)
    (hc : exec c s = onMach s (fun s => debugRequest s q n v))
    (hm : ∀ mid, regWriteFull s.mach mid { name := n, unit := 0, idx := 0 } false v = m) (hP : P s.mach { m with cspOut := (0, 0) }) :
    ReqEnds c s q n 0 v P := by
  intro hopen
  refine ⟨_, hc, ?_⟩
  have hsettle : settleBlk s.mach n.info.blk 0 = s.mach := by
    unfold settleBlk
    rw [hb]
  dsimp only
  rw [debugRequest_of_open hr hb hopen hm, hsettle]
  exact ⟨rfl, hP⟩

/-- The package once DBG_ACTL holds what was written. -/
def actlWritten (s : Mach) (v : Word) : Mach := plainWrite s { name := .DBG_ACTL, unit := 0, idx := 0 } v

theorem onActl_of_access {s t : Mach} {v d : Word} {e : Nat} (hgo : bit v 62 = true)
    (h : debugAccess (actlWritten s v) (bit v 60) (fld v 59 56) (rf (actlWritten s v) .DBG_AADDR 0 0 47 0)
      (if bit v 61 then some (rg (actlWritten s v) .DBG_ADATA 0 0) else none) = (e, d, t)) :
    onActl s v = if e = 0 ∧ bit v 61 = false then wr (wf t .DBG_ACTL 0 0 50 48 e) .DBG_ADATA 0 0 d else wf t .DBG_ACTL 0 0 50 48 e := by
  unfold actlWritten at h
  unfold onActl
  dsimp only
  rw [if_neg (by simp [hgo]), h]

theorem aaddr_actlWritten (s : Mach) (v : Word) (hi lo : Nat) : rf (actlWritten s v) .DBG_AADDR 0 0 hi lo = rf s .DBG_AADDR 0 0 hi lo :=
  congrArg (fun w : Word => fld w hi lo) (rg_plainWrite_other s ⟨.DBG_ACTL, 0, 0⟩ ⟨.DBG_AADDR, 0, 0⟩ v (by decide))

theorem adata_actlWritten (s : Mach) (v : Word) : rg (actlWritten s v) .DBG_ADATA 0 0 = rg s .DBG_ADATA 0 0 :=
  rg_plainWrite_other s ⟨.DBG_ACTL, 0, 0⟩ ⟨.DBG_ADATA, 0, 0⟩ v (by decide)

theorem isDone_actlWritten (s : Mach) (v : Word) : isDone (actlWritten s v) = isDone s := isDone_plainWrite (by decide) s v

section
variable {s : State} {q : Requester} {v : Word}

theorem reqEnds_peek {off u : Nat} {b : Blk} {r : RegRef} (hgo : bit v 62 = true) (hread : bit v 61 = false) (hcsp : bit v 60 = false)
    (hdone : isDone s.mach = true) (hoff : rf s.mach .DBG_AADDR 0 0 47 0 = off) (halign : off % 8 = 0)
    (hreg : regAt off = some (b, u, some r)) (hpres : blkPresent s.mach b u = true) (hscope : scopeOk (actlWritten s.mach v) off none = true)
    (hlet : CspLet (actlWritten s.mach v) 0 off) : ReqEnds (.peek q v) s q .DBG_ACTL 0 v (fun t m =>
      let x := settleBlk (actlWritten t v) b u
      rg m .DBG_ADATA 0 0 = regView x r ∧ rf m .DBG_ACTL 0 0 50 48 = 0 ∧ m.units = { x with cspOut := (0, 0) }.units ∧
      (r.addr ≠ RegRef.addr { name := .DBG_ACTL, unit := 0, idx := 0 } → r.addr ≠ RegRef.addr { name := .DBG_ADATA, unit := 0, idx := 0 } →
        rg m r.name r.unit r.idx = rg x r.name r.unit r.idx)) := by
  have hacc : debugAccess (actlWritten s.mach v) (bit v 60) (fld v 59 56) (rf (actlWritten s.mach v) .DBG_AADDR 0 0 47 0)
      (if bit v 61 then some (rg (actlWritten s.mach v) .DBG_ADATA 0 0) else none) =
      (0, regView (settleBlk (actlWritten s.mach v) b u) r, settleBlk (actlWritten s.mach v) b u) := by
    rw [hcsp, hread, aaddr_actlWritten, hoff]
    exact debugCsp_peek ((isDone_actlWritten _ _).trans hdone) hscope halign hreg ((blkPresent_plainWrite _ _ _ _ _).trans hpres) hlet
  refine reqEnds_of_write (by decide) rfl rfl (fun _ => (onActl_of_access hgo hacc).trans (if_pos ⟨rfl, hread⟩)) ?_
  dsimp only
  generalize settleBlk (actlWritten s.mach v) b u = x
  refine ⟨?_, ?_, ?_, fun hactl hadata => ?_⟩
  · rw [rg_cspOut, rg_wr]
  · rw [rf_cspOut, rf, rg_wr_other _ _ _ _ _ _ _ _ (by decide)]
    exact rf_wf x .DBG_ACTL 0 0 50 48 0 (by decide) (by decide)
  · exact units_cspOut ((units_wr _ _ _ _ _).trans (units_wf _ _ _ _ _ _ _)) _
  · rw [rg_cspOut, rg_wr_other _ _ _ _ _ _ _ _ hadata]
    exact rg_wr_other _ _ _ _ _ _ _ _ hactl

theorem reqEnds_poke {off u : Nat} {b : Blk} {r : RegRef} (hgo : bit v 62 = true) (hwrite : bit v 61 = true) (hcsp : bit v 60 = false)
    (hdone : isDone s.mach = true) (hoff : rf s.mach .DBG_AADDR 0 0 47 0 = off) (halign : off % 8 = 0)
    (hreg : regAt off = some (b, u, some r)) (hpres : blkPresent s.mach b u = true) (hplain : plainReg r)
    (hscope : scopeOk (actlWritten s.mach v) off (some (rg s.mach .DBG_ADATA 0 0)) = true) (hlet : CspLet (actlWritten s.mach v) 0 off) :
    ReqEnds (.poke q v) s q .DBG_ACTL 0 v (fun t m =>
      let x := settleBlk (actlWritten t v) b u
      m = { wf (plainWrite x r (rg s.mach .DBG_ADATA 0 0)) .DBG_ACTL 0 0 50 48 0 with cspOut := (0, 0) }) := by
  have hacc : debugAccess (actlWritten s.mach v) (bit v 60) (fld v 59 56) (rf (actlWritten s.mach v) .DBG_AADDR 0 0 47 0)
      (if bit v 61 then some (rg (actlWritten s.mach v) .DBG_ADATA 0 0) else none) =
      (0, 0, plainWrite (settleBlk (actlWritten s.mach v) b u) r (rg s.mach .DBG_ADATA 0 0)) := by
    rw [hcsp, hwrite, aaddr_actlWritten, adata_actlWritten, hoff]
    exact debugCsp_poke ((isDone_actlWritten _ _).trans hdone) hscope halign hreg ((blkPresent_plainWrite _ _ _ _ _).trans hpres) hplain hlet
  exact reqEnds_of_write (by decide) rfl rfl (fun _ => (onActl_of_access hgo hacc).trans (if_neg (by simp [hwrite]))) rfl

theorem reqEnds_peek_notGranted (hgo : bit v 62 = true) (hread : bit v 61 = false) (hcsp : bit v 60 = false) (hdone : isDone s.mach = true)
    (hscope : scopeOk (actlWritten s.mach v) (rf s.mach .DBG_AADDR 0 0 47 0) none = false) :
    ReqEnds (.peek q v) s q .DBG_ACTL 0 v (fun t m =>
      m = { wf (actlWritten t v) .DBG_ACTL 0 0 50 48 errNotGranted with cspOut := (0, 0) }) := by
  have hacc : debugAccess (actlWritten s.mach v) (bit v 60) (fld v 59 56) (rf (actlWritten s.mach v) .DBG_AADDR 0 0 47 0)
      (if bit v 61 then some (rg (actlWritten s.mach v) .DBG_ADATA 0 0) else none) = (errNotGranted, 0, actlWritten s.mach v) := by
    rw [hcsp, hread, aaddr_actlWritten]
    exact debugCsp_notGranted ((isDone_actlWritten _ _).trans hdone) hscope
  exact reqEnds_of_write (by decide) rfl rfl (fun _ => (onActl_of_access hgo hacc).trans (if_neg (by simp [errNotGranted]))) rfl

end

/-! ### The Debug Module -/

/-- The package once DBG_DMI holds what was written. -/
def dmiWritten (s : Mach) (v : Word) : Mach := plainWrite s { name := .DBG_DMI, unit := 0, idx := 0 } v

/-- A bit of a field. -/
theorem testBit_fld (v : Word) {hi lo i : Nat} (h : i < hi + 1 - lo) : (fld v hi lo).testBit i = bit v (lo + i) := by
  rw [fld_testBit, decide_eq_true h, Bool.true_and]
  rfl

/-- The package with another Debug Module. -/
def setDm (s : Mach) (d : Dm) : Mach := { s with dm := d }

theorem units_setDm {s t : Mach} (h : t.units = s.units) (d : Dm) (x : Nat × Word) :
    ({ setDm t d with cspOut := x } : Mach).units = { s with dm := d, cspOut := x }.units :=
  congrArg (fun m : Mach => { m with dm := d, cspOut := x }) h

theorem dmControl_reset (s : Mach) {v : Word} (h32 : bit v 32 = false) : dmControl s (fld v 63 32) = setDm s Dm.zero :=
  if_pos ((testBit_fld v (by decide)).trans h32)

theorem haltCore_of_free {s : Mach} {c : Nat} (hrel : (getCore s c).released = true) (hrun : (getCore s c).halted = false)
    (hdefer : smapGet none s.dbg.coreDefer c = none) (hfree : lockedRings s c = []) (cause : Nat) :
    haltCore s c cause = enterDebug s c cause := by
  unfold haltCore
  dsimp only
  rw [if_neg (by simp [hrel, hrun, hdefer]), if_pos (by simp [hfree])]

/-- A halt request of an available hart in no locked sequence halts it. -/
theorem dmControl_halt {s : Mach} {v : Word} {c : CoreNo} (h32 : bit v 32 = true) (h63 : bit v 63 = true) (hsel : fld v 57 48 = c.val)
    (hav : hartAvail s c = true) (hrun : (getCore s c).halted = false) (hdefer : smapGet none s.dbg.coreDefer c = none)
    (hfree : lockedRings s c = []) : ∃ d : Dm, d.hartsel = c.val ∧ dmControl s (fld v 63 32) = enterDebug (setDm s d) c 3 := by
  have h0 : (fld v 63 32).testBit 0 = true := (testBit_fld v (by decide)).trans h32
  have h31 : (fld v 63 32).testBit 31 = true := (testBit_fld v (by decide)).trans h63
  have hc : fld v 63 32 / 2 ^ 16 % 1024 % 128 = c.val := by
    have hlt := c.isLt
    have hpart : fld v 63 32 / 2 ^ 16 % 1024 = fld v 57 48 := by
      unfold fld
      omega
    rw [hpart, hsel]
    omega
  have hrel : (getCore s c).released = true := by
    unfold hartAvail at hav
    exact (Bool.and_eq_true_iff.1 hav).1
  have hend (d : Dm) : haltCore (setDm s d) c 3 = enterDebug (setDm s d) c 3 :=
    haltCore_of_free (s := setDm s d) hrel hrun hdefer hfree 3
  have hgate : ¬ (96 ≤ c.val ∨ hartAvail s c = false) := by
    rintro (h | h)
    · exact absurd c.isLt (by omega)
    · rw [hav] at h
      cases h
  unfold dmControl
  rw [if_neg (by simp [h0])]
  dsimp only
  rw [hc, h31]
  by_cases h28 : (fld v 63 32).testBit 28 = true
  · rw [if_pos h28]
    exact ⟨_, rfl, (if_neg hgate).trans ((if_pos rfl).trans (hend _))⟩
  · rw [if_neg h28]
    exact ⟨_, rfl, (if_neg hgate).trans ((if_pos rfl).trans (hend _))⟩

section
variable {s : State} {q : Requester} {v : Word}

theorem reqEnds_dmi_reset (hgo : bit v 31 = true) (hwr : bit v 30 = true) (haddr : fld v 6 0 = 0x10) (h32 : bit v 32 = false) :
    ReqEnds (.dbgDmiAccess q v) s q .DBG_DMI 0 v (fun t m => m.dm = Dm.zero ∧ m.units = { t with dm := Dm.zero, cspOut := (0, 0) }.units) := by
  have hact (mid : Nat) : regWriteFull s.mach mid { name := .DBG_DMI, unit := 0, idx := 0 } false v =
      setDm (dmiWritten s.mach v) Dm.zero := by
    show onDmi s.mach v = _
    unfold onDmi dmAccess dmWrite
    dsimp only
    rw [if_neg (by simp [hgo]), hwr, haddr]
    exact dmControl_reset _ h32
  refine reqEnds_of_write (by decide) rfl rfl hact ⟨rfl, ?_⟩
  exact units_setDm (units_plainWrite s.mach _ v) _ _

theorem reqEnds_dmi_halt {c : CoreNo} (hgo : bit v 31 = true) (hwr : bit v 30 = true) (haddr : fld v 6 0 = 0x10) (h32 : bit v 32 = true)
    (h63 : bit v 63 = true) (hsel : fld v 57 48 = c.val) (hav : hartAvail (dmiWritten s.mach v) c = true)
    (hrun : (getCore s.mach c).halted = false) (hdefer : smapGet none s.mach.dbg.coreDefer c = none)
    (hfree : lockedRings (dmiWritten s.mach v) c = []) :
    ReqEnds (.dbgDmiAccess q v) s q .DBG_DMI 0 v (fun t m => (getCore m c).halted = true ∧ (getCore m c).resv = none ∧
      smapGet 0 (getCore m c).csr csrDpc = (getCore t c).pc ∧ m.dm.hartsel = c.val ∧ m.mem = t.mem ∧ m.bays = t.bays) := by
  obtain ⟨d, hd, hctl⟩ := dmControl_halt (s := dmiWritten s.mach v) h32 h63 hsel hav hrun hdefer hfree
  have hact (mid : Nat) : regWriteFull s.mach mid { name := .DBG_DMI, unit := 0, idx := 0 } false v =
      enterDebug (setDm (dmiWritten s.mach v) d) c 3 := by
    show onDmi s.mach v = _
    unfold onDmi dmAccess dmWrite
    dsimp only
    rw [if_neg (by simp [hgo]), hwr, haddr]
    exact hctl
  refine reqEnds_of_write (by decide) rfl rfl hact ?_
  have hcore (t : Mach) : getCore (enterDebug t c 3) c = _ := (getCore_modCore _ _ _ _).trans (if_pos ⟨rfl, c.isLt⟩)
  dsimp only
  rw [getCore_cspOut, hcore]
  refine ⟨rfl, rfl, ?_, hd, rfl, rfl⟩
  exact (smapGet_smapPut _ _ _ _ _).trans (if_pos rfl)

theorem reqEnds_dmi_read (hgo : bit v 31 = true) (hrd : bit v 30 = false) (haddr : fld v 6 0 = 0x10) (hact : s.mach.dm.active = true) :
    ReqEnds (.dbgDmiAccess q v) s q .DBG_DMI 0 v (fun t m => rf m .DBG_DMI 0 0 63 32 = (t.dm.hartsel * 2 ^ 16 + 1) % 2 ^ 32 ∧
      m.units = { t with cspOut := (0, 0) }.units) := by
  have hread : dmRead (dmiWritten s.mach v) 0x10 = s.mach.dm.hartsel * 2 ^ 16 + 1 := by
    unfold dmRead
    rw [if_neg (by rw [show (dmiWritten s.mach v).dm = s.mach.dm from rfl, hact]; decide), if_neg (by decide), if_neg (by decide)]
    rfl
  have hw (mid : Nat) : regWriteFull s.mach mid { name := .DBG_DMI, unit := 0, idx := 0 } false v =
      wf (dmiWritten s.mach v) .DBG_DMI 0 0 63 32 (s.mach.dm.hartsel * 2 ^ 16 + 1) := by
    show onDmi s.mach v = _
    unfold onDmi dmAccess
    dsimp only
    rw [if_neg (by simp [hgo]), hrd, haddr]
    exact congrArg (fun n => wf (dmiWritten s.mach v) .DBG_DMI 0 0 63 32 n) hread
  refine reqEnds_of_write (by decide) rfl rfl hw ⟨?_, ?_⟩
  · rw [rf_cspOut]
    exact rf_wf _ _ _ _ _ _ _ (by decide) (by decide)
  · exact units_cspOut ((units_wf _ _ _ _ _ _ _).trans (units_plainWrite _ _ _)) _

end

/-- Settles O47. -/
theorem debugAccesses : Obligations.DebugAccesses :=
  ⟨fun _ _ _ _ _ _ _ hgo hread hcsp hdone hoff halign hreg hpres hscope hlet =>
      reqEnds_peek hgo hread hcsp hdone hoff halign hreg hpres hscope hlet,
    fun _ _ _ _ _ _ _ hgo hwrite hcsp hdone hoff halign hreg hpres hplain hscope hlet =>
      reqEnds_poke hgo hwrite hcsp hdone hoff halign hreg hpres hplain hscope hlet,
    fun _ _ _ hgo hread hcsp hdone hscope => reqEnds_peek_notGranted hgo hread hcsp hdone hscope,
    fun _ _ _ hgo hwr haddr h32 => reqEnds_dmi_reset hgo hwr haddr h32,
    fun _ _ _ _ hgo hwr haddr h32 h63 hsel hav hrun hdefer hfree => reqEnds_dmi_halt hgo hwr haddr h32 h63 hsel hav hrun hdefer hfree,
    fun _ _ _ hgo hrd haddr hact => reqEnds_dmi_read hgo hrd haddr hact⟩

end Sys2Proof.Machine
end

section
/-! Management, DDR5 temperature and JTAG (R598, R609 to R613). -/

namespace Sys2Proof.Machine

/-- A record of a block to which the spec gives no class: it waits behind the others, and no register of the hub's management block
changes. -/
theorem wire_classless {s t : Mach} (h : t.flt = s.flt) (blk die : Nat) :
    ∃ r, (classless t blk die).flt.wire = s.flt.wire ++ [r] ∧ r.blk = blk ∧ r.die = die :=
  ⟨_, raise_wire_of_flt (t := (drawWord t).2) h _, rfl, rfl⟩

theorem flt_wb (s : Mach) (n : RegName) (u i k : Nat) (v : Bool) : (wb s n u i k v).flt = s.flt := wr_flt _ _ _ _ _

/-- A register other than the always-on counters reads as before when such a record is raised. -/
theorem rg_classless {n : RegName} {u i die : Nat} (h : RegRef.addr ⟨n, u, i⟩ ≠ RegRef.addr ⟨.CNT_AO, 0, die * 8 + 7⟩) (s : Mach) (blk : Nat) :
    rg (classless s blk die) n u i = rg s n u i := by
  unfold classless raise
  dsimp only
  split
  · rfl
  · exact rg_wr_other _ _ _ _ _ _ _ _ h

theorem ends_smbusFallback (s : State) : Ends .smbusFallback s (fun m => rb m .MGT_STATUS 0 0 16 = true ∧
    ∃ r, m.flt.wire = s.mach.flt.wire ++ [r] ∧ r.blk = 0x18) := by
  obtain ⟨r, hwire, hblk, -⟩ :=
    wire_classless (flt_wb s.mach .MGT_STATUS 0 0 16 true) 0x18 0
  have hreg : rg (smbusFallback s.mach) .MGT_STATUS 0 0 = rg (wb s.mach .MGT_STATUS 0 0 16 true) .MGT_STATUS 0 0 :=
    rg_classless (by decide) _ _
  refine ⟨_, rfl, ?_, r, hwire, hblk⟩
  dsimp only
  unfold rb
  rw [hreg]
  exact rb_wb s.mach .MGT_STATUS 0 0 16 true (by decide)

theorem ends_i3cReturn {s : State} (h : bit s.mach.cfg.mgt 8 = false) :
    Ends .i3cReturn s (fun m => rb m .MGT_STATUS 0 0 16 = false ∧ m.units = s.mach.units) := by
  have heq : i3cReturn s.mach = wb s.mach .MGT_STATUS 0 0 16 false := if_neg (by simp [h])
  refine ⟨_, rfl, ?_⟩
  dsimp only
  rw [heq]
  exact ⟨rb_wb _ _ _ _ _ _ (by decide), units_wb _ _ _ _ _ _⟩

theorem ends_i3cReturn_forced {s : State} (h : bit s.mach.cfg.mgt 8 = true) : Ends .i3cReturn s (fun m => m = s.mach) :=
  ⟨_, rfl, if_pos h⟩

theorem ends_dynamicAddress {s : State} {a : Fin 128} (h : rb s.mach .MGT_STATUS 0 0 16 = false) :
    Ends (.dynamicAddressAssignment a) s (fun m => rf m .MGT_STATUS 0 0 6 0 = a.val ∧ rb m .MGT_STATUS 0 0 16 = false) := by
  have heq : dynamicAddress s.mach a = wf s.mach .MGT_STATUS 0 0 6 0 a := if_neg (by simp [h])
  refine ⟨_, rfl, ?_⟩
  dsimp only
  rw [heq, rf_wf _ _ _ _ _ _ _ (by decide) (by decide), rb_wf_above _ _ _ _ _ _ _ _ (by decide) (by decide)]
  exact ⟨Nat.mod_eq_of_lt a.isLt, h⟩

theorem ends_mctpControl {s : State} {e : Byte} (hnull : e.toNat ≠ 0) (hall : e.toNat ≠ 0xFF) :
    Ends (.mctpControlMessage e) s (fun m => m = { s.mach with mgt := { s.mach.mgt with eid := e.toNat } }) :=
  ⟨_, rfl, if_neg (by omega)⟩

theorem mctpVendor_own {s t : Mach} {x : VendorMsg} {e : Nat} {d : Word} (hnode : x.node = s.route.nodeId)
    (h : debugCsp s x.addr x.data = (e, d, t)) : mctpVendor s x = modMgt t (fun g => { g with answer := some (e, d) }) := by
  unfold mctpVendor
  rw [if_pos hnode, h]

theorem ends_mctpVendor_notGranted {s : State} {x : VendorMsg} (hnode : x.node = s.mach.route.nodeId) (hdone : isDone s.mach = true)
    (hscope : scopeOk s.mach x.addr x.data = false) : Ends (.mctpVendorMessage x) s (fun m =>
      m = { s.mach with mgt := { s.mach.mgt with answer := some (errNotGranted, 0) } }) :=
  ⟨_, rfl, mctpVendor_own hnode (debugCsp_notGranted hdone hscope)⟩

theorem ends_mctpVendor_peek {s : State} {x : VendorMsg} {b : Blk} {u : Nat} {r : RegRef} (hnode : x.node = s.mach.route.nodeId)
    (hdata : x.data = none) (hdone : isDone s.mach = true) (hscope : scopeOk s.mach x.addr none = true) (halign : x.addr % 8 = 0)
    (hlet : CspLet s.mach 0 x.addr) (hreg : regAt x.addr = some (b, u, some r)) (hpres : blkPresent s.mach b u = true) :
    Ends (.mctpVendorMessage x) s (fun m => m.mgt.answer = some (0, regView (settleBlk s.mach b u) r) ∧
      m.mem = (settleBlk s.mach b u).mem) := by
  have hpeek := debugCsp_peek hdone hscope halign hreg hpres hlet
  rw [← hdata] at hpeek
  refine ⟨_, rfl, ?_⟩
  dsimp only
  rw [mctpVendor_own hnode hpeek]
  exact ⟨rfl, rfl⟩

theorem ends_dimmTemperature {s : State} {ch : Fin 16} {t : Int} (h : rb s.mach .DDR_STATUS ch 0 0 = true) :
    Ends (.dimmTemperatureReport ch t) s (fun m => rb m .DDR_STATUS ch 0 2 = decide (340 < t) ∧ rb m .DDR_STATUS ch 0 0 = true ∧
      m.units = s.mach.units) := by
  have heq : dimmTemperatureReport s.mach ch t = wb s.mach .DDR_STATUS ch 0 2 (decide (340 < t)) := if_pos h
  refine ⟨_, rfl, ?_⟩
  dsimp only
  rw [heq, rb_wb _ _ _ _ _ _ (by decide), rb_wb_other _ _ _ _ _ _ _ (by decide)]
  exact ⟨rfl, h, units_wb _ _ _ _ _ _⟩

/-- A scan of the Debug Module's data register that writes dmcontrol with dmactive 0. -/
theorem ends_jtag_dmReset {s : State} {dr : Word} (hop : fld dr 1 0 = 2) (haddr : fld dr 40 34 = 0x10) (hactive : bit dr 2 = false) :
    Ends (.jtagInstruction 0x11 dr) s (fun m => m.dm = Dm.zero ∧ m.mem = s.mach.mem ∧ m.csr = s.mach.csr) := by
  have hctl : dmControl s.mach (fld dr 33 2) = setDm s.mach Dm.zero := if_pos ((testBit_fld dr (by decide)).trans hactive)
  have heq : jtag s.mach 0x11 dr = scan (setDm s.mach Dm.zero) 0x11 (packFlds [(40, 34, 0x10)]) := by
    unfold jtag dmAccess dmWrite
    rw [hop, haddr]
    dsimp only
    rw [if_pos rfl, hctl]
    rfl
  refine ⟨_, rfl, ?_⟩
  show (jtag s.mach 0x11 dr).dm = Dm.zero ∧ (jtag s.mach 0x11 dr).mem = s.mach.mem ∧ (jtag s.mach 0x11 dr).csr = s.mach.csr
  rw [heq]
  exact ⟨rfl, rfl, rfl⟩

/-- Settles O60. -/
theorem managementServes : Obligations.ManagementServes :=
  ⟨fun s => ends_smbusFallback s,
    fun _ h => ends_i3cReturn h,
    fun _ h => ends_i3cReturn_forced h,
    fun _ _ h => ends_dynamicAddress h,
    fun _ _ hnull hall => ends_mctpControl hnull hall,
    fun _ _ => ⟨_, rfl, rfl⟩,
    fun _ => ⟨_, rfl, rfl, rfl⟩,
    fun _ _ hnode hdone hscope => ends_mctpVendor_notGranted hnode hdone hscope,
    fun _ _ _ _ _ hnode hdata hdone hscope halign hlet hreg hpres =>
      ends_mctpVendor_peek hnode hdata hdone hscope halign hlet hreg hpres,
    fun _ _ _ h => ends_dimmTemperature h,
    fun _ _ => ⟨_, rfl, rfl, rfl, rfl⟩,
    fun _ _ hop haddr hactive => ends_jtag_dmReset hop haddr hactive,
    fun _ _ => ⟨_, rfl, rfl, rfl, rfl⟩⟩

end Sys2Proof.Machine
end

section
/-! PCI Express (R601 to R606). -/

namespace Sys2Proof.Machine

/-! ### Who a master is, by the partition table -/

theorem midInfo_of_parts {s t : Mach} (h : SameParts s t) (hf : s.fuses = t.fuses) (mid : Nat) : midInfo s mid = midInfo t mid := by
  have hbay (b : Nat) : bayPresent s b = bayPresent t b := by
    unfold bayPresent
    rw [hf]
  have hport (p : Nat) : portPresent s p = portPresent t p := by
    unfold portPresent
    rw [hf]
  unfold midInfo corePid
  simp only [clusterPid_of_parts h, bayPid_of_parts h, pciPid_of_parts h, portPid_of_parts h, hbay, hport]

theorem checkedAs_of_parts {s t : Mach} (h : SameParts s t) (hf : s.fuses = t.fuses) (mid : Nat) (proxy : Option Nat) :
    checkedAs s mid proxy = checkedAs t mid proxy := by
  unfold checkedAs
  rw [midInfo_of_parts h hf]

theorem sameParts_bumpAo (s : Mach) (d k n : Nat) : SameParts (bumpAo s d k n) s :=
  sameParts_wr (Or.inr (by simp only [RegRef.addr, RegName.info, Blk.base]; omega)) _ _

theorem corePid_of_parts {s t : Mach} (h : SameParts s t) (c : Nat) : corePid s c = corePid t c := clusterPid_of_parts h _

/-- The always-on counters play no part in how a device request is addressed. -/
theorem pcieGroup_bumpAo (s : Mach) (d k n q : Nat) (r : PcieReq) : pcieGroup (bumpAo s d k n) q r = pcieGroup s q r := rfl
theorem pcieAddr_bumpAo (s : Mach) (d k n q : Nat) (r : PcieReq) : pcieAddr (bumpAo s d k n) q r = pcieAddr s q r := rfl
theorem region_bumpAo (s : Mach) (d k n a : Nat) : region (bumpAo s d k n) a = region s a := rfl
theorem imsicFile_bumpAo (s : Mach) (d k n a : Nat) : imsicFile (bumpAo s d k n) a = imsicFile s a := rfl

/-! ### Links -/

/-- What a link that has come up shows: its width and rate, whether flit mode is in use, and whether its lanes are reversed. -/
def linkWord (width rate : Nat) (flit reversed : Bool) : Word :=
  packFlds [(10, 10, reversed.toNat), (9, 9, (flit || decide (rate = 5)).toNat), (8, 6, rate), (5, 1, width), (0, 0, 1)]

/-- The lowest fields of a register replaced by another word's. -/
theorem fld_low_or (w x : Word) {hi lo : Nat} (h : hi ≤ 10) : fld (setFld w 10 0 0 ||| x) hi lo = fld x hi lo := by
  refine Nat.eq_of_testBit_eq fun i => ?_
  rw [fld_testBit, fld_testBit]
  by_cases hi' : i < hi + 1 - lo
  · rw [BitVec.getLsbD_or, setFld_getLsbD w 10 0 0 (lo + i) (by decide), if_pos (by omega), Nat.zero_testBit, Bool.false_or]
  · rw [decide_eq_false hi', Bool.false_and, Bool.false_and]

theorem bit_low_or (w x : Word) {k : Nat} (h : k ≤ 10) : bit (setFld w 10 0 0 ||| x) k = bit x k := by
  unfold bit
  rw [BitVec.getLsbD_or, setFld_getLsbD w 10 0 0 k (by decide), if_pos (by omega), Nat.zero_testBit, Bool.false_or]

theorem linkWord_fields : ∀ width ∈ [1, 2, 4, 8, 16], ∀ (rate : Fin 6) (flit reversed : Bool), let w := linkWord width rate flit reversed
    bit w 0 = true ∧ fld w 5 1 = width ∧ fld w 8 6 = rate.val ∧ bit w 9 = (flit || decide (rate.val = 5)) ∧ bit w 10 = reversed := by
  decide

section
variable {s : State} {q l : Fin 4}

theorem ends_pcieLinkTraining {width : Nat} {rate : Fin 6} {flit reversed : Bool} (hwf : widthWf width = true) (hphase : phase s.mach ≠ 0xF)
    (hlanes : width ≤ linkLanes s.mach q l) (hrate : rate.val ≤ fld (pcieWord s.mach q 0) 7 5) :
    Ends (.pcieLinkTraining q l width rate flit reversed) s (fun m => linkUp m q l = true ∧ rf m .PCI_LINK q l 5 1 = width ∧
      rf m .PCI_LINK q l 8 6 = rate.val ∧ rb m .PCI_LINK q l 9 = (flit || decide (rate.val = 5)) ∧ rb m .PCI_LINK q l 10 = reversed ∧
      m.units = s.mach.units) := by
  have heq : pcieLinkTraining s.mach q l width rate flit reversed =
      wr s.mach .PCI_LINK q l (setFld (rg s.mach .PCI_LINK q l) 10 0 0 ||| linkWord width rate flit reversed) := by
    unfold pcieLinkTraining
    rw [if_neg (by omega)]
    rfl
  have hw : width ∈ [1, 2, 4, 8, 16] := List.contains_iff_mem.1 hwf
  obtain ⟨h0, h1, h6, h9, h10⟩ := linkWord_fields width hw rate flit reversed
  refine ⟨pcieLinkTraining s.mach q l width rate flit reversed, if_pos hwf, ?_⟩
  rw [heq]
  unfold linkUp rb rf
  dsimp only
  rw [rg_wr, bit_low_or _ _ (by decide), bit_low_or _ _ (by decide), bit_low_or _ _ (by decide), fld_low_or _ _ (by decide),
    fld_low_or _ _ (by decide)]
  exact ⟨h0, h1, h6, h9, h10, units_wr _ _ _ _ _⟩

theorem ends_pcieLinkTraining_beyond {width : Nat} {rate : Fin 6} {flit reversed : Bool} (hwf : widthWf width = true)
    (h : linkLanes s.mach q l < width ∨ fld (pcieWord s.mach q 0) 7 5 < rate.val) :
    Ends (.pcieLinkTraining q l width rate flit reversed) s (fun m => m = s.mach) :=
  ⟨pcieLinkTraining s.mach q l width rate flit reversed, if_pos hwf, if_pos (Or.inr h)⟩

/-! ### Device requests -/

/-- The package in which a device request has been counted. -/
def pcieCounted (s : Mach) (q : Nat) (r : PcieReq) : Mach :=
  match r.op with
  | .write d _ => bumpAo s (barnDieId q) 5 (ceilDiv d.length 64)
  | _ => s

variable {r : PcieReq}

theorem ends_pcieDeviceRequest {m : Mach} {P : Mach → Prop} (hwf : r.op.wf = true) (h : pcieDeviceRequest s.mach q l r = m) (hP : P m) :
    Ends (.pcieDeviceRequest q l r) s P :=
  ⟨pcieDeviceRequest s.mach q l r, if_pos hwf, h ▸ hP⟩

theorem ends_pcieRead {n k a o : Nat} {d : List Byte} {p : Bool} {t : Mach} (hop : r.op = .read n) (hwf : r.op.wf = true)
    (hup : linkUp s.mach q l = true) (hgroup : pcieGroup s.mach q r = some k) (haddr : pcieAddr s.mach q r = some a)
    (hreg : region s.mach a = .granary o) (hread : readAs s.mach (0x1C0 + 8 * q + k) none 0 a n = (some (d, p), t)) :
    Ends (.pcieDeviceRequest q l r) s (fun m => m.pcieOut = some (r.tag, 0, d, p) ∧ m.mem = t.mem) := by
  have hmem : pcieMem s.mach (0x1C0 + 8 * q + k) a r = complete t r.tag 0 d p := by
    unfold pcieMem
    dsimp only
    rw [hop]
    dsimp only
    rw [hread]
  refine ends_pcieDeviceRequest hwf (m := bumpAo (complete t r.tag 0 d p) (barnDieId q) 6 (ceilDiv d.length 64)) ?_ ⟨rfl, rfl⟩
  unfold pcieDeviceRequest
  rw [if_neg (by simp [hup])]
  dsimp only
  simp only [hop, hgroup, haddr, hreg, hmem]
  rfl

theorem ends_pcieWrite {d : List Byte} {p : Bool} {k a o : Nat} {t : Mach} (hop : r.op = .write d p) (hwf : r.op.wf = true)
    (hup : linkUp s.mach q l = true) (hgroup : pcieGroup s.mach q r = some k) (haddr : pcieAddr s.mach q r = some a)
    (hreg : region s.mach a = .granary o)
    (hwrite : writeAs (bumpAo s.mach (barnDieId q) 5 (ceilDiv d.length 64)) (0x1C0 + 8 * q + k) none 0 a d p = (true, t)) :
    Ends (.pcieDeviceRequest q l r) s (fun m => m = t) := by
  have hmem : pcieMem (bumpAo s.mach (barnDieId q) 5 (ceilDiv d.length 64)) (0x1C0 + 8 * q + k) a r = t := by
    unfold pcieMem
    dsimp only
    rw [hop]
    dsimp only
    rw [hwrite]
  refine ends_pcieDeviceRequest hwf (m := t) ?_ rfl
  unfold pcieDeviceRequest
  rw [if_neg (by simp [hup])]
  dsimp only
  simp only [hop, pcieGroup_bumpAo, pcieAddr_bumpAo, region_bumpAo, hgroup, haddr, hreg, hmem]

theorem ends_pcieRead_unsupported {n : Nat} (hop : r.op = .read n) (hwf : r.op.wf = true) (hup : linkUp s.mach q l = true)
    (hnone : pcieGroup s.mach q r = none ∨ pcieAddr s.mach q r = none) :
    Ends (.pcieDeviceRequest q l r) s (fun m => m = { s.mach with pcieOut := some (r.tag, 1, [], false) }) := by
  have hun : unsupported s.mach r = complete s.mach r.tag 1 [] false := by
    unfold unsupported
    rw [hop]
  refine ends_pcieDeviceRequest hwf (m := complete s.mach r.tag 1 [] false) ?_ rfl
  unfold pcieDeviceRequest
  rw [if_neg (by simp [hup])]
  dsimp only
  simp only [hop]
  rw [← hun]
  obtain hnone | hnone := hnone
  · rw [hnone]
  · cases pcieGroup s.mach q r
    · rfl
    · rw [hnone]

theorem ends_pcieDeviceRequest_down (hwf : r.op.wf = true) (hup : linkUp s.mach q l = false) :
    Ends (.pcieDeviceRequest q l r) s (fun m => m = s.mach) := ends_pcieDeviceRequest hwf (if_pos hup) rfl

theorem ends_msi {d : List Byte} {p : Bool} {k a x y : Nat} {z : Option Nat} {c : CoreNo} {f : Nat} (hop : r.op = .write d p)
    (hwf : r.op.wf = true) (hlen : d.length = 4) (hup : linkUp s.mach q l = true) (hgroup : pcieGroup s.mach q r = some k)
    (haddr : pcieAddr s.mach q r = some a) (hreg : ∃ g h, region s.mach a = .imsic x g h)
    (hz : z = (checkedAs s.mach (0x1C0 + 8 * q + k) none).pid) (hsome : z.isSome = true) (hcore : corePid s.mach x = z)
    (hfile : imsicFile s.mach a = some (c.val, f)) (hy : y = ofBytes d) (hpos : 0 < y) (hle : y ≤ 255) (hpage : a % 0x1000 = 0) :
    Ends (.msi q l r) s (fun m => smapGet false (getCore m c).eip (f * 256 + y) = true ∧ m.mem = s.mach.mem) := by
  obtain ⟨g, h, hreg⟩ := hreg
  have hcounted : ∃ t : Mach, t = bumpAo s.mach (barnDieId q) 5 (ceilDiv d.length 64) := ⟨_, rfl⟩
  obtain ⟨t, ht⟩ := hcounted
  have hmsi : msiTo t a y = modCore t c (fun x => { x with eip := smapPut false x.eip (f * 256 + y) true }) := by
    unfold msiTo
    rw [ht, imsicFile_bumpAo, hfile]
    dsimp only
    rw [if_neg (by omega)]
  have hdeliver : pcieMsi t (0x1C0 + 8 * q + k) a x r = msiTo t a y := by
    have hparts : SameParts t s.mach := ht ▸ sameParts_bumpAo _ _ _ _
    have hfuses : t.fuses = s.mach.fuses := by
      rw [ht]
      rfl
    unfold pcieMsi
    rw [hop]
    dsimp only
    rw [checkedAs_of_parts hparts hfuses, corePid_of_parts hparts, ← hz, if_pos ⟨hlen, hsome, hcore⟩, hy]
  have heq : pcieMsiWrite s.mach q l r = msiTo t a y := by
    unfold pcieMsiWrite pcieDeviceRequest
    rw [haddr, hop, if_neg (by simp [hup])]
    dsimp only [Option.map]
    rw [hreg]
    dsimp only
    rw [← ht]
    subst ht
    simp only [pcieGroup_bumpAo, pcieAddr_bumpAo, region_bumpAo, hgroup, haddr, hreg, hdeliver]
  refine ⟨pcieMsiWrite s.mach q l r, if_pos hwf, ?_⟩
  rw [heq, hmsi]
  refine ⟨?_, ?_⟩
  · rw [getCore_modCore, if_pos ⟨rfl, c.isLt⟩]
    dsimp only
    rw [smapGet_smapPut, if_pos rfl]
  · rw [ht]
    rfl

theorem ends_ideFail (hide : rb s.mach .PCI_IDECTL q l 8 = true) (hup : linkUp s.mach q l = true) :
    Ends (.ideFail q l) s (fun m => rb m .PCI_LINK q l 11 = true ∧
      ∃ r, m.flt.wire = s.mach.flt.wire ++ [r] ∧ r.blk = 0xC ∧ r.die = barnDieId q) := by
  have heq : ideFail s.mach q l = classless (wb s.mach .PCI_LINK q l 11 true) 0xC (barnDieId q) := if_pos ⟨hide, hup⟩
  obtain ⟨r, hwire, hblk, hdie⟩ := wire_classless (flt_wb s.mach .PCI_LINK q l 11 true) 0xC (barnDieId q)
  have hapart : ∀ q l : Fin 4, RegRef.addr ⟨.PCI_LINK, q, l⟩ ≠ RegRef.addr ⟨.CNT_AO, 0, barnDieId q * 8 + 7⟩ := by decide
  refine ⟨_, rfl, ?_⟩
  dsimp only
  rw [heq]
  refine ⟨?_, r, hwire, hblk, hdie⟩
  unfold rb
  rw [rg_classless (hapart q l)]
  exact rb_wb s.mach .PCI_LINK q l 11 true (by decide)

theorem ends_ideFail_down (hup : linkUp s.mach q l = false) : Ends (.ideFail q l) s (fun m => m = s.mach) :=
  ⟨_, rfl, if_neg (by simp [hup])⟩

end

/-- Settles O59. -/
theorem pcieServes : Obligations.PcieServes :=
  ⟨fun _ _ _ _ _ _ _ hwf hphase hlanes hrate => ends_pcieLinkTraining hwf hphase hlanes hrate,
    fun _ _ _ _ _ _ _ hwf h => ends_pcieLinkTraining_beyond hwf h,
    fun _ _ _ _ _ _ _ _ _ _ _ hop hwf hup hgroup haddr hreg hread => ends_pcieRead hop hwf hup hgroup haddr hreg hread,
    fun _ _ _ _ _ _ _ _ _ _ hop hwf hup hgroup haddr hreg hwrite => ends_pcieWrite hop hwf hup hgroup haddr hreg hwrite,
    fun _ _ _ _ _ hop hwf hup hnone => ends_pcieRead_unsupported hop hwf hup hnone,
    fun _ _ _ _ hwf hup => ends_pcieDeviceRequest_down hwf hup,
    fun _ _ _ _ _ _ _ _ _ _ _ _ _ hop hwf hlen hup hgroup haddr hreg hz hsome hcore hfile hy hpos hle hpage =>
      ends_msi hop hwf hlen hup hgroup haddr hreg hz hsome hcore hfile hy hpos hle hpage,
    fun _ _ _ hide hup => ends_ideFail hide hup,
    fun _ _ _ hup => ends_ideFail_down hup⟩

end Sys2Proof.Machine
end

section
/-! Work rings: what the operations on a ring's registers leave (R484 to R496). -/

namespace Sys2Proof.Machine

/-! ### Fields of the package that recording leaves -/

theorem hwItems_of_units {s t : Mach} (h : s.units = t.units) : s.hwItems = t.hwItems := by
  show s.units.hwItems = t.units.hwItems
  rw [h]

theorem ringDone_of_units {s t : Mach} (h : s.units = t.units) : s.ringDone = t.ringDone := by
  show s.units.ringDone = t.units.ringDone
  rw [h]

theorem barnMov_of_units {s t : Mach} (h : s.units = t.units) : s.barnMov = t.barnMov := by
  show s.units.barnMov = t.units.barnMov
  rw [h]

theorem cores_of_units {s t : Mach} (h : s.units = t.units) : s.cores = t.cores := by
  show s.units.cores = t.units.cores
  rw [h]

/-- A record of the hub itself changes no register. -/
theorem rg_raise_hub (s : Mach) {r : FltRec} (h : r.die = 0) (n : RegName) (u i : Nat) : rg (raise s r) n u i = rg s n u i := by
  unfold raise
  rw [if_pos h]
  rfl

theorem rg_recordFirst_other {n m : RegName} {u i u' i' : Nat} (h : RegRef.addr ⟨m, u', i'⟩ ≠ RegRef.addr ⟨n, u, i⟩) (s : Mach) (v : Word) :
    rg (recordFirst s n u i v) m u' i' = rg s m u' i' := by
  unfold recordFirst
  split
  · rfl
  · exact rg_wr_other _ _ _ _ _ _ _ _ h

theorem rb_recordFirst (s : Mach) (n : RegName) (u i : Nat) (v : Word) : rb (recordFirst s n u i v) n u i 63 = true := by
  by_cases h : rb s n u i 63 = true
  · rw [recordFirst_later _ _ _ _ _ h]
    exact h
  · have hv := rg_recordFirst s n u i v (by simpa using h)
    unfold rb
    rw [hv]
    exact bit_setBit_same _ _ _ (by decide)

theorem rg_bumpAo_other {n : RegName} {u i d k : Nat} (h : RegRef.addr ⟨n, u, i⟩ ≠ RegRef.addr ⟨.CNT_AO, 0, d * 8 + k⟩) (s : Mach) (x : Nat) :
    rg (bumpAo s d k x) n u i = rg s n u i := rg_wr_other _ _ _ _ _ _ _ _ h

/-! ### Errors of a ring, and PIDX -/

theorem forPart_die (r : FltRec) (p : Option Nat) (t : Nat) : (r.forPart p t).die = r.die := by
  cases p <;> rfl

theorem units_ringErr (s : Mach) (r code : Nat) : (ringErr s r code).units = s.units := by
  unfold ringErr
  dsimp only
  rw [units_raise, units_recordFirst]

theorem rg_ringErr {n : RegName} {u i r : Nat} (h : RegRef.addr ⟨n, u, i⟩ ≠ RegRef.addr ⟨.RNG_ERR, r, 0⟩) (s : Mach) (code : Nat) :
    rg (ringErr s r code) n u i = rg s n u i := by
  unfold ringErr
  dsimp only
  rw [rg_raise_hub _ (forPart_die _ _ _), rg_recordFirst_other h]

theorem valid_ringErr (s : Mach) (r code : Nat) : rb (ringErr s r code) .RNG_ERR r 0 63 = true := by
  have hraise (t : Mach) (x : FltRec) (h : x.die = 0) : rb (raise t x) .RNG_ERR r 0 63 = rb t .RNG_ERR r 0 63 :=
    congrArg (fun w : Word => bit w 63) (rg_raise_hub t h _ _ _)
  unfold ringErr
  dsimp only
  rw [hraise _ _ (forPart_die _ _ _)]
  exact rb_recordFirst _ _ _ _ _

theorem units_dropItem (s : Mach) (r : Nat) : (dropItem s r).units = s.units := (units_ringErr _ _ _).trans (units_bump _ _ _ _ _ _ _)

/-- A dropped item is counted in DROPPED of RNG_STAT. -/
theorem dropped_dropItem (s : Mach) (r : Nat) : rf (dropItem s r) .RNG_STAT r 0 7 0 = sat 8 (rf s .RNG_STAT r 0 7 0 + 1) := by
  have hstat : rg (dropItem s r) .RNG_STAT r 0 = rg (bump s .RNG_STAT r 0 7 0 1) .RNG_STAT r 0 :=
    rg_ringErr (by simp only [RegRef.addr, RegName.info, Blk.base]; omega) _ _
  unfold rf
  rw [hstat]
  exact rf_bump s .RNG_STAT r 0 7 0 1 (by decide) (by decide)

theorem units_advancePidx (s : Mach) (r n : Nat) : (advancePidx s r n).units = s.units := by
  unfold advancePidx
  rw [units_bumpAo, units_wf]

/-- No register of a ring is an always-on counter. -/
theorem ring_addr_ne_ao {r : Nat} (hr : r < 4096) (d : Nat) : RegRef.addr ⟨.RNG_STATE, r, 0⟩ ≠ RegRef.addr ⟨.CNT_AO, 0, d⟩ := by
  simp only [RegRef.addr, RegName.info, Blk.base]
  omega

theorem pidx_advancePidx {r : Nat} (hr : r < 4096) (s : Mach) (n : Nat) : pidx (advancePidx s r n) r = (pidx s r + n) % 2 ^ 32 := by
  unfold advancePidx pidx rf
  rw [rg_bumpAo_other (ring_addr_ne_ao hr _)]
  exact (rf_wf s .RNG_STATE r 0 31 0 _ (by decide) (by decide)).trans (Nat.mod_mod _ _)

/-- The item written into memory, before PIDX advances. -/
def itemWritten (s : Mach) (r : Nat) (d : Line) : Mach := homeWrite s (ringAddr s r (pidx s r) / 64) d fullMask false

/-- What the writing of an item leaves: PIDX advanced by one, the rest as the write to memory left it. -/
theorem putItem_spec {s : Mach} {r : Nat} (hr : r < 4096) (d : Line) :
    pidx (putItem s r d) r = (pidx (itemWritten s r d) r + 1) % 2 ^ 32 ∧ (putItem s r d).units = (itemWritten s r d).units :=
  ⟨pidx_advancePidx hr _ _, units_advancePidx _ _ _⟩

theorem lt_of_takesItem {s : Mach} {r need : Nat} (h : takesItem s r need = true) : r < 4096 := by
  unfold takesItem at h
  simp only [Bool.and_eq_true, decide_eq_true_eq] at h
  exact h.1.1

/-! ### Items offered to a ring -/

/-- The package with these items of hardware producers, and with these completions still to write. -/
def withItems (s : Mach) (l : List HwItem) : Mach := { s with hwItems := l }
def withDone (s : Mach) (l : List RingDone) : Mach := { s with ringDone := l }


theorem offerItem_room {s : Mach} {x : HwItem} (htake : takesItem s x.ring x.need = true)
    (hnone : s.hwItems.any (fun y => decide (y.ring = x.ring) && y.waiting) = false) (hroom : ringOcc s x.ring < ringSize s x.ring) :
    offerItem s x = putItem s x.ring x.line := by
  unfold offerItem
  rw [if_neg (by simp [htake]), if_neg (by simp only [hnone, Bool.false_or, decide_eq_true_eq]; omega)]

theorem offerItem_full {s : Mach} {x : HwItem} (htake : takesItem s x.ring x.need = true) (hfull : ringSize s x.ring ≤ ringOcc s x.ring) :
    offerItem s x = { bump s .RNG_STAT x.ring 0 15 8 1 with hwItems := s.hwItems ++ [{ x with waiting := true }] } := by
  unfold offerItem
  rw [if_neg (by simp [htake]), if_pos (by simp [hfull])]
  rfl

theorem offerItem_refused {s : Mach} {x : HwItem} (htake : takesItem s x.ring x.need = false) (hc : x.counts < 4096) :
    offerItem s x = dropItem s x.counts := by
  unfold offerItem
  rw [if_pos htake, Nat.mod_eq_of_lt hc]

theorem hwItem_of_cons {s : Mach} {x : HwItem} {l : List HwItem} (h : s.hwItems = x :: l) (hw : x.waiting = false) :
    hwItem s = offerItem (withItems s l) x := by
  unfold hwItem
  rw [h]
  simp only [List.findIdx?_cons, hw, Bool.not_false, if_true, List.getElem?_cons_zero, List.eraseIdx_zero, List.tail_cons]
  rfl

section
variable {s : State} {x : HwItem} {l : List HwItem}

theorem ends_hwItem_room (hitems : s.mach.hwItems = x :: l) (hw : x.waiting = false) (htake : takesItem s.mach x.ring x.need = true)
    (hnone : l.any (fun y => decide (y.ring = x.ring) && y.waiting) = false) (hroom : ringOcc s.mach x.ring < ringSize s.mach x.ring) :
    let u := itemWritten (withItems s.mach l) x.ring x.line
    Ends .hwItem s (fun m => m.hwItems = u.hwItems ∧ pidx m x.ring = (pidx u x.ring + 1) % 2 ^ 32 ∧ m.mem = u.mem) := by
  have heq : hwItem s.mach = putItem (withItems s.mach l) x.ring x.line :=
    (hwItem_of_cons hitems hw).trans (offerItem_room (s := withItems s.mach l) htake hnone hroom)
  obtain ⟨hpidx, hunits⟩ := putItem_spec (s := withItems s.mach l) (lt_of_takesItem htake) x.line
  refine ⟨_, rfl, ?_⟩
  dsimp only
  rw [heq]
  exact ⟨hwItems_of_units hunits, hpidx, mem_of_units hunits⟩

theorem ends_hwItem_full (hitems : s.mach.hwItems = x :: l) (hw : x.waiting = false) (htake : takesItem s.mach x.ring x.need = true)
    (hfull : ringSize s.mach x.ring ≤ ringOcc s.mach x.ring) :
    Ends .hwItem s (fun m => m.hwItems = l ++ [{ x with waiting := true }] ∧ m.mem = s.mach.mem ∧
      pidx m x.ring = pidx s.mach x.ring ∧ rf m .RNG_STAT x.ring 0 15 8 = sat 8 (rf s.mach .RNG_STAT x.ring 0 15 8 + 1)) := by
  have heq := (hwItem_of_cons hitems hw).trans (offerItem_full (s := withItems s.mach l) htake hfull)
  refine ⟨_, rfl, ?_⟩
  dsimp only
  rw [heq]
  refine ⟨rfl, rfl, ?_, ?_⟩
  · exact congrArg (fun w : Word => fld w 31 0) (rg_wr_other _ _ _ _ _ _ _ _ (by simp only [RegRef.addr, RegName.info, Blk.base]; omega))
  · exact rf_bump (withItems s.mach l) .RNG_STAT x.ring 0 15 8 1 (by decide) (by decide)

theorem ends_hwItem_refused (hitems : s.mach.hwItems = x :: l) (hw : x.waiting = false) (hc : x.counts < 4096)
    (htake : takesItem s.mach x.ring x.need = false) :
    Ends .hwItem s (fun m => m.hwItems = l ∧ m.mem = s.mach.mem ∧
      rf m .RNG_STAT x.counts 0 7 0 = sat 8 (rf s.mach .RNG_STAT x.counts 0 7 0 + 1) ∧ rb m .RNG_ERR x.counts 0 63 = true) := by
  have heq := (hwItem_of_cons hitems hw).trans (offerItem_refused (s := withItems s.mach l) htake hc)
  have hunits := units_dropItem (withItems s.mach l) x.counts
  refine ⟨_, rfl, ?_⟩
  dsimp only
  rw [heq]
  exact ⟨hwItems_of_units hunits, (mem_of_units hunits).trans rfl, dropped_dropItem _ _, valid_ringErr _ _ _⟩

theorem ends_hwItemRoom {r : RingNo} (hitems : s.mach.hwItems = x :: l) (hw : x.waiting = true) (hring : x.ring = r.val)
    (htake : takesItem s.mach r x.need = true) (hroom : ringOcc s.mach r < ringSize s.mach r) :
    let u := itemWritten (withItems s.mach l) r x.line
    Ends (.hwItemRoom r) s (fun m => m.hwItems = u.hwItems ∧ pidx m r = (pidx u r + 1) % 2 ^ 32 ∧ m.mem = u.mem) := by
  have heq : hwItemRoom s.mach r = putItem (withItems s.mach l) r x.line := by
    unfold hwItemRoom
    rw [hitems]
    simp only [List.findIdx?_cons, hw, hring, decide_true, Bool.and_self, if_true, List.getElem?_cons_zero, List.eraseIdx_zero,
      List.tail_cons]
    rw [if_neg (by simp [htake]), if_pos hroom]
    rfl
  obtain ⟨hpidx, hunits⟩ := putItem_spec (s := withItems s.mach l) (lt_of_takesItem htake) x.line
  refine ⟨_, rfl, ?_⟩
  dsimp only
  rw [heq]
  exact ⟨hwItems_of_units hunits, hpidx, mem_of_units hunits⟩

/-! ### Completions -/

theorem ends_completionItem {d : RingDone} {l : List RingDone} (hdone : s.mach.ringDone = d :: l)
    (htake : takesItem s.mach (rf s.mach .RNG_CFG d.ring 0 43 32) 3 = true)
    (hsome : (ringPid s.mach (rf s.mach .RNG_CFG d.ring 0 43 32)).isSome = true)
    (hpid : ringPid s.mach (rf s.mach .RNG_CFG d.ring 0 43 32) = ringPid s.mach d.ring) (hitems : s.mach.hwItems = [])
    (hroom : ringOcc s.mach (rf s.mach .RNG_CFG d.ring 0 43 32) < ringSize s.mach (rf s.mach .RNG_CFG d.ring 0 43 32)) :
    let c := rf s.mach .RNG_CFG d.ring 0 43 32
    let u := itemWritten (withDone s.mach l) c (itemLine (bytesOf 4 d.idx ++ bytesOf 2 d.ring ++ bytesOf 1 d.kind ++
      bytesOf 1 d.status ++ bytesOf 8 d.result ++ bytesOf 2 d.flags ++ bytesOf 1 d.pois.toNat))
    Ends .completionItem s (fun m => m.ringDone = u.ringDone ∧ pidx m c = (pidx u c + 1) % 2 ^ 32 ∧ m.mem = u.mem) := by
  dsimp only
  generalize hline : itemLine _ = line
  have heq : completionItem s.mach = putItem (withDone s.mach l) (rf s.mach .RNG_CFG d.ring 0 43 32) line := by
    rw [← hline]
    unfold completionItem
    rw [hdone]
    refine (if_neg ?_).trans (offerItem_room (s := withDone s.mach l) htake ?_ hroom)
    · rintro (h | h | h)
      · exact absurd (h.symm.trans htake) (by decide)
      · exact h hpid
      · rw [Option.isNone_iff_eq_none] at h
        exact absurd (Option.isSome_iff_ne_none.1 hsome) (not_not_intro h)
    · show s.mach.hwItems.any _ = false
      rw [hitems]
      rfl
  obtain ⟨hpidx, hunits⟩ := putItem_spec (s := withDone s.mach l) (lt_of_takesItem htake) line
  refine ⟨_, rfl, ?_⟩
  dsimp only
  rw [heq]
  exact ⟨ringDone_of_units hunits, hpidx, mem_of_units hunits⟩

theorem ends_completionItem_refused {d : RingDone} {l : List RingDone} (hdone : s.mach.ringDone = d :: l)
    (htake : takesItem s.mach (rf s.mach .RNG_CFG d.ring 0 43 32) 3 = false) :
    Ends .completionItem s (fun m => m.ringDone = l ∧ m.hwItems = s.mach.hwItems ∧ m.mem = s.mach.mem ∧
      rf m .RNG_STAT d.ring 0 7 0 = sat 8 (rf s.mach .RNG_STAT d.ring 0 7 0 + 1)) := by
  have heq : completionItem s.mach = dropItem (withDone s.mach l) d.ring := by
    unfold completionItem
    rw [hdone]
    exact if_pos (Or.inl htake)
  have hunits := units_dropItem (withDone s.mach l) d.ring
  refine ⟨_, rfl, ?_⟩
  dsimp only
  rw [heq]
  exact ⟨ringDone_of_units hunits, (hwItems_of_units hunits).trans rfl, (mem_of_units hunits).trans rfl, dropped_dropItem _ _⟩

theorem ends_ringCopyTimeout {t : Nat} (hitems : s.mach.hwItems = x :: l) (hw : x.waiting = true) (huntil : x.until_ = some t) :
    Ends .ringCopyTimeout s (fun m => m.hwItems = l ∧ t ≤ m.now ∧
      rf m .FLT_LOST 0 0 31 0 = sat 32 (rf s.mach .FLT_LOST 0 0 31 0 + 1) ∧ m.mem = s.mach.mem) := by
  have heq : ringCopyTimeout s.mach = bump (advanceTo (withItems s.mach l) t) .FLT_LOST 0 0 31 0 1 := by
    unfold ringCopyTimeout
    rw [hitems]
    simp only [List.findIdx?_cons, hw, huntil, Option.isSome_some, Bool.and_self, if_true, List.getElem?_cons_zero, List.eraseIdx_zero,
      List.tail_cons, Option.getD_some]
    rfl
  have hunits := units_bump (advanceTo (withItems s.mach l) t) .FLT_LOST 0 0 31 0 1
  have hcount := rf_bump (advanceTo (withItems s.mach l) t) .FLT_LOST 0 0 31 0 1 (by decide) (by decide)
  refine ⟨_, rfl, ?_⟩
  dsimp only
  rw [heq, now_bump]
  exact ⟨hwItems_of_units hunits, Nat.le_max_right _ _, hcount, (mem_of_units hunits).trans rfl⟩

end

/-- Settles O53. -/
theorem ringProducersRun : Obligations.RingProducersRun :=
  ⟨fun _ _ _ hitems hw htake hnone hroom => ends_hwItem_room hitems hw htake hnone hroom,
    fun _ _ _ hitems hw htake hfull => ends_hwItem_full hitems hw htake hfull,
    fun _ _ _ hitems hw hc htake => ends_hwItem_refused hitems hw hc htake,
    fun _ _ _ _ hitems hw hring htake hroom => ends_hwItemRoom hitems hw hring htake hroom,
    fun _ _ _ hdone htake hsome hpid hitems hroom => ends_completionItem hdone htake hsome hpid hitems hroom,
    fun _ _ _ hdone htake => ends_completionItem_refused hdone htake,
    fun _ _ _ _ hitems hw huntil => ends_ringCopyTimeout hitems hw huntil⟩

end Sys2Proof.Machine
end

section
/-! What the hub takes from work rings (R489, R490, R493, R494). -/

namespace Sys2Proof.Machine

/-! ### Registers below the always-on counters -/

/-- A fault record changes no register below the always-on counters. -/
theorem rg_raise_below {n : RegName} {u i : Nat} (h : RegRef.addr ⟨n, u, i⟩ < 0x120000) (s : Mach) (r : FltRec) :
    rg (raise s r) n u i = rg s n u i := by
  unfold raise
  dsimp only
  split
  · rfl
  · exact rg_wr_other _ _ _ _ _ _ _ _ (by
      generalize RegRef.addr ⟨n, u, i⟩ = a at h
      simp only [RegRef.addr, RegName.info, Blk.base]
      omega)

/-- A refused access of memory is told in PRT_STATUS and PRT_ERR. -/
theorem rg_refuseMem {n : RegName} {u i : Nat} (h : RegRef.addr ⟨n, u, i⟩ < 0x120000)
    (hstat : RegRef.addr ⟨n, u, i⟩ ≠ RegRef.addr ⟨.PRT_STATUS, 0, 0⟩) (herr : RegRef.addr ⟨n, u, i⟩ ≠ RegRef.addr ⟨.PRT_ERR, 0, 0⟩)
    (s : Mach) (mid : Nat) (c : Checked) (tid a : Nat) : rg (refuseMem s mid c tid a) n u i = rg s n u i := by
  unfold refuseMem refuseAccess
  dsimp only
  rw [rg_raise_below h, rg_recordFirst_other herr]
  exact rg_wr_other _ _ _ _ _ _ _ _ hstat

theorem units_refuseMem (s : Mach) (mid : Nat) (c : Checked) (tid a : Nat) : (refuseMem s mid c tid a).units = s.units := by
  unfold refuseMem refuseAccess
  dsimp only
  rw [units_raise, units_recordFirst, units_bump]

theorem addr_rng_lt {r : Nat} (hr : r < 4096) : RegRef.addr ⟨.RNG_CIDX, r, 0⟩ < 0x120000 := by
  simp only [RegRef.addr, RegName.info, Blk.base]
  omega

/-- The registers of a barn's movers lie above those of the hub. -/
theorem le_addr_movb (d : Nat) : 0x120000 ≤ RegRef.addr ⟨.MOV_BERR, d, 0⟩ ∧ 0x120000 ≤ RegRef.addr ⟨.MOV_BERRDESC, d, 0⟩ := by
  simp only [RegRef.addr, RegName.info, Blk.base, dieBase, barnDieId]
  omega

theorem rg_barnErr {n : RegName} {u i : Nat} (h : RegRef.addr ⟨n, u, i⟩ < 0x120000) (s : Mach) (d k tid : Nat) (pid : Option Nat)
    (at_ code : Nat) : rg (barnErr s d k tid pid at_ code) n u i = rg s n u i := by
  obtain ⟨hfirst, hdesc⟩ := le_addr_movb d
  unfold barnErr
  dsimp only
  rw [rg_raise_below h]
  split
  · rw [rg_wr_other _ _ _ _ _ _ _ _ (by omega), rg_recordFirst_other (by omega)]
  · rw [rg_recordFirst_other (by omega)]

theorem units_barnErr (s : Mach) (d k tid : Nat) (pid : Option Nat) (at_ code : Nat) :
    (barnErr s d k tid pid at_ code).units = s.units := by
  unfold barnErr
  dsimp only
  rw [units_raise]
  split
  · rw [units_wr, units_recordFirst]
  · rw [units_recordFirst]

theorem getBarnMov_modBarnMov {d : Nat} (h : d < 4) (s : Mach) (f : BarnMov → BarnMov) :
    getBarnMov (modBarnMov s d f) d = f (getBarnMov s d) := vget_vmod_same _ _ _ _ h

/-- An identity that an IMSIC file takes becomes pending. -/
theorem msiTo_of_file {s : Mach} {a y c f : Nat} (h : imsicFile s a = some (c, f)) (hpos : 0 < y) (hle : y ≤ 255) (hpage : a % 0x1000 = 0) :
    msiTo s a y = modCore s c (fun x => { x with eip := smapPut false x.eip (f * 256 + y) true }) := by
  unfold msiTo
  rw [h]
  exact if_neg (by omega)

/-! ### Flushes -/

/-- What a flush leaves: no word is pending, the epoch is the next, PIDX and CIDX stand, and what was pending is counted. -/
structure Flushed (s m : Mach) (r : Nat) : Prop where
  pend : pend m r = 0
  epoch : ringEpoch m r = (ringEpoch s r + 1) % 65536
  pidx : pidx m r = pidx s r
  cidx : cidx m r = cidx s r
  counted : rf m .RNG_STAT r 0 31 16 = sat 16 (rf s .RNG_STAT r 0 31 16 + Machine.pend s r)
  mem : m.mem = s.mem

/-- Two registers of a unit that stand at different offsets of its block. -/
theorem addr_ne_of_off (n m : RegName) (hb : n.info.blk = m.info.blk) (ho : n.info.off ≠ m.info.off) (u : Nat) :
    RegRef.addr ⟨n, u, 0⟩ ≠ RegRef.addr ⟨m, u, 0⟩ := by
  unfold RegRef.addr
  dsimp only
  rw [hb]
  omega

theorem rg_setPend {n : RegName} {u i r : Nat} (h : RegRef.addr ⟨n, u, i⟩ ≠ RegRef.addr ⟨.RNG_STATE, r, 0⟩) (s : Mach) (k mid : Nat) :
    rg (setPend s r k mid) n u i = rg s n u i := rg_wr_other _ _ _ _ _ _ _ _ h

theorem rf_setPend_other {r hi lo : Nat} (h : hi < 32 ∨ 38 < lo) (s : Mach) (k mid : Nat) :
    rf (setPend s r k mid) .RNG_STATE r 0 hi lo = rf s .RNG_STATE r 0 hi lo := by
  unfold setPend
  dsimp only
  exact rf_wf_other _ _ _ _ _ _ _ _ _ (by decide) h

theorem pend_setPend (s : Mach) (r k mid : Nat) : pend (setPend s r k mid) r = k % 128 := by
  unfold setPend pend
  dsimp only
  exact rf_wf _ _ _ _ _ _ _ (by decide) (by decide)

/-- A flush writes RNG_STAT and RNG_STATE of its ring alone. -/
theorem rg_flushRing {n : RegName} {u i r : Nat} (hstat : RegRef.addr ⟨n, u, i⟩ ≠ RegRef.addr ⟨.RNG_STAT, r, 0⟩)
    (hstate : RegRef.addr ⟨n, u, i⟩ ≠ RegRef.addr ⟨.RNG_STATE, r, 0⟩) (s : Mach) : rg (flushRing s r) n u i = rg s n u i :=
  (rg_wr_other _ _ _ _ _ _ _ _ hstate).trans ((rg_setPend hstate _ _ _).trans (rg_wr_other _ _ _ _ _ _ _ _ hstat))

theorem flushed_flushRing (s : Mach) (r : Nat) : Flushed s (flushRing s r) r := by
  have hstate (n : RegName) (hn : RegRef.addr ⟨n, r, 0⟩ ≠ RegRef.addr ⟨.RNG_STAT, r, 0⟩) (k hi lo : Nat) :
      rg (bump s .RNG_STAT r 0 hi lo k) n r 0 = rg s n r 0 := rg_wr_other _ _ _ _ _ _ _ _ hn
  have hs := hstate .RNG_STATE (addr_ne_of_off .RNG_STATE .RNG_STAT rfl (by decide) _) (Machine.pend s r) 31 16
  have hc := hstate .RNG_CIDX (addr_ne_of_off .RNG_CIDX .RNG_STAT rfl (by decide) _) (Machine.pend s r) 31 16
  have hcount := rf_bump s .RNG_STAT r 0 31 16 (Machine.pend s r) (by decide) (by decide)
  have hmem : (bump s .RNG_STAT r 0 31 16 (Machine.pend s r)).mem = s.mem := mem_of_units (units_bump _ _ _ _ _ _ _)
  unfold flushRing
  dsimp only
  generalize bump s .RNG_STAT r 0 31 16 (Machine.pend s r) = t at hs hc hcount hmem ⊢
  have hother {hi lo : Nat} (h : hi < 48) (k : Nat) : rf (wf (setPend t r 0 0) .RNG_STATE r 0 63 48 k) .RNG_STATE r 0 hi lo =
      rf (setPend t r 0 0) .RNG_STATE r 0 hi lo := rf_wf_other _ _ _ _ _ _ _ _ _ (by decide) (Or.inl h)
  have houter (n : RegName) (hn : RegRef.addr ⟨n, r, 0⟩ ≠ RegRef.addr ⟨.RNG_STATE, r, 0⟩) (k : Nat) :
      rg (wf (setPend t r 0 0) .RNG_STATE r 0 63 48 k) n r 0 = rg t n r 0 :=
    (rg_wr_other _ _ _ _ _ _ _ _ hn).trans (rg_setPend hn _ _ _)
  refine ⟨?_, ?_, ?_, ?_, ?_, ?_⟩
  · exact (hother (by decide) _).trans (pend_setPend _ _ _ _)
  · refine (rf_wf _ _ _ _ _ _ _ (by decide) (by decide)).trans ?_
    refine (Nat.mod_mod _ 65536).trans ?_
    exact congrArg (fun w : Word => (fld w 63 48 + 1) % 65536) hs
  · exact (hother (by decide) _).trans ((rf_setPend_other (Or.inl (by decide)) _ _ _).trans (congrArg (fun w : Word => fld w 31 0) hs))
  · exact congrArg (fun w : Word => fld w 31 0) ((houter .RNG_CIDX (addr_ne_of_off .RNG_CIDX .RNG_STATE rfl (by decide) _) _).trans hc)
  · rw [← hcount]
    exact congrArg (fun w : Word => fld w 31 16) (houter .RNG_STAT (addr_ne_of_off .RNG_STAT .RNG_STATE rfl (by decide) _) _)
  · exact ((mem_of_units (units_wf _ _ _ _ _ _ _)).trans (mem_of_units (units_wf _ _ _ _ _ _ _))).trans hmem

section
variable {s : State} {r : RingNo}

theorem cidx_takeDone (s : Mach) (r : Nat) : cidx (takeDone s r) r = (cidx s r + 1) % 2 ^ 32 :=
  (rf_wf _ _ _ _ _ _ _ (by decide) (by decide)).trans (Nat.mod_mod _ _)

theorem units_takeDone (s : Mach) (r : Nat) : (takeDone s r).units = s.units := units_wf _ _ _ _ _ _ _

/-- A descriptor taken from a ring: queued at the barn, or refused with an error of the barn's movers. -/
theorem barnSubmit_cases (s : Mach) (d : Nat) (who : Option Nat) (a : Nat) (w : Line) (item : Option (Nat × Nat)) :
    (∃ x, barnSubmit s d who a w item = (true, modBarnMov s d (fun y => { y with queue := y.queue ++ [x] }))) ∨
    ∃ tid pid, barnSubmit s d who a w item = (false, barnErr s d 0 tid pid a 1) := by
  unfold barnSubmit
  dsimp only
  generalize (_ || (dHusk w && s.fuses.variantE)) = refused
  cases refused
  · exact Or.inl ⟨_, rfl⟩
  · exact Or.inr ⟨_, _, rfl⟩

theorem ends_barnItemTake {p i : Nat} {w : Line} (hroom : (getBarnMov s.mach (rf s.mach .RNG_CFG r 0 31 30)).queue.length < 64)
    (htake : takeWord s.mach r 1 = some (.ok (p, i, w))) :
    Ends (.barnItemTake r) s (fun m => cidx m r = (cidx s.mach r + 1) % 2 ^ 32 ∧ m.mem = s.mach.mem ∧
      ((getBarnMov m (rf s.mach .RNG_CFG r 0 31 30)).queue.length = (getBarnMov s.mach (rf s.mach .RNG_CFG r 0 31 30)).queue.length + 1 ∨
       m.ringDone.length = s.mach.ringDone.length + 1)) := by
  have hd : rf s.mach .RNG_CFG r 0 31 30 < 4 := Nat.mod_lt _ (by decide)
  have hunits := units_takeDone s.mach r
  have hcidx := cidx_takeDone s.mach r
  have heq {ok : Bool} {t : Mach} (hq : barnSubmit (takeDone s.mach r) (rf s.mach .RNG_CFG r 0 31 30) (some p)
      (ringAddr (takeDone s.mach r) r i) w (some (r.val, i)) = (ok, t)) :
      barnItemTake s.mach r = if ok then t else ringEnd t r i 1 1 0 false := by
    unfold barnItemTake
    rw [if_neg (by omega), htake]
    dsimp only
    rw [hq]
  refine ⟨_, rfl, ?_⟩
  dsimp only
  obtain ⟨x, hq⟩ | ⟨tid, pid, hq⟩ := barnSubmit_cases (takeDone s.mach r) (rf s.mach .RNG_CFG r 0 31 30) (some p)
    (ringAddr (takeDone s.mach r) r i) w (some (r.val, i))
  · rw [heq hq, if_pos rfl]
    refine ⟨hcidx, (show (takeDone s.mach r).mem = _ from mem_of_units hunits), Or.inl ?_⟩
    rw [getBarnMov_modBarnMov hd, List.length_append]
    unfold getBarnMov
    rw [barnMov_of_units hunits]
    rfl
  · have herr := (units_barnErr (takeDone s.mach r) (rf s.mach .RNG_CFG r 0 31 30) 0 tid pid (ringAddr (takeDone s.mach r) r i) 1).trans
      hunits
    have hreg := rg_barnErr (addr_rng_lt r.isLt) (takeDone s.mach r) (rf s.mach .RNG_CFG r 0 31 30) 0 tid pid
      (ringAddr (takeDone s.mach r) r i) 1
    rw [heq hq, if_neg (by decide)]
    generalize barnErr (takeDone s.mach r) (rf s.mach .RNG_CFG r 0 31 30) 0 tid pid (ringAddr (takeDone s.mach r) r i) 1 = t at herr hreg ⊢
    refine ⟨?_, (show t.mem = _ from mem_of_units herr), Or.inr ?_⟩
    · exact (congrArg (fun w : Word => fld w 31 0) hreg).trans hcidx
    · show (t.ringDone ++ [_]).length = _
      rw [List.length_append, ringDone_of_units herr]
      rfl

theorem ends_barnItemTake_refused {t : Mach} (hroom : (getBarnMov s.mach (rf s.mach .RNG_CFG r 0 31 30)).queue.length < 64)
    (htake : takeWord s.mach r 1 = some (.error t)) :
    Ends (.barnItemTake r) s (fun m => rb m .RNG_STATE r 0 39 = true ∧ cidx m r = cidx s.mach r ∧ m.mem = s.mach.mem) := by
  have heq : barnItemTake s.mach r = t := by
    unfold barnItemTake
    rw [if_neg (by omega), htake]
  have hrefused : ∃ (c : Checked) (a : Nat), t = ringErr (wb (refuseMem s.mach 0 c 0 a) .RNG_STATE r 0 39 true) r 5 := by
    unfold takeWord at htake
    split at htake
    · cases htake
    split at htake
    · cases htake
    dsimp only at htake
    split at htake
    · cases htake
      exact ⟨_, _, rfl⟩
    · cases htake
  obtain ⟨c, a, ht⟩ := hrefused
  have hunits : t.units = s.mach.units := by
    rw [ht, units_ringErr, units_wb, units_refuseMem]
  refine ⟨_, rfl, ?_⟩
  dsimp only
  rw [heq]
  refine ⟨?_, ?_, mem_of_units hunits⟩
  · rw [ht]
    unfold rb
    rw [rg_ringErr (addr_ne_of_off .RNG_STATE .RNG_ERR rfl (by decide) _)]
    exact rb_wb _ .RNG_STATE r 0 39 true (by decide)
  · have hlt := addr_rng_lt r.isLt
    have hother (n : RegName) (h : 0x50000 ≤ RegRef.addr ⟨n, 0, 0⟩ ∧ RegRef.addr ⟨n, 0, 0⟩ < 0x80000) :
        RegRef.addr ⟨.RNG_CIDX, r, 0⟩ ≠ RegRef.addr ⟨n, 0, 0⟩ := by
      have : 0x80000 ≤ RegRef.addr ⟨.RNG_CIDX, r, 0⟩ := by
        simp only [RegRef.addr, RegName.info, Blk.base]
        omega
      omega
    have hreg : rg t .RNG_CIDX r 0 = rg s.mach .RNG_CIDX r 0 := by
      rw [ht, rg_ringErr (addr_ne_of_off .RNG_CIDX .RNG_ERR rfl (by decide) _)]
      refine (rg_wr_other _ _ _ _ _ _ _ _ (addr_ne_of_off .RNG_CIDX .RNG_STATE rfl (by decide) _)).trans ?_
      exact rg_refuseMem hlt (hother _ (by decide)) (hother _ (by decide)) _ _ _ _ _
    exact congrArg (fun w : Word => fld w 31 0) hreg

theorem ends_barnItemTake_wait (hfull : 64 ≤ (getBarnMov s.mach (rf s.mach .RNG_CFG r 0 31 30)).queue.length) :
    Ends (.barnItemTake r) s (fun m => m = s.mach) := ⟨_, rfl, if_pos hfull⟩

/-! ### Atomic items -/

theorem ends_atomItemTake_malformed {p i : Nat} {w : Line} (hreqs : s.mach.vkReqs = [])
    (htake : takeWord s.mach r 2 = some (.ok (p, i, w))) (hop : 10 ≤ fld w 67 64) :
    Ends (.atomItemTake r) s (fun m => cidx m r = (cidx s.mach r + 1) % 2 ^ 32 ∧ m.mem = s.mach.mem ∧
      m.ringDone = s.mach.ringDone ++ [{ ring := r, idx := i, kind := 2, status := 8, result := 0, flags := 0, pois := false }]) := by
  have heq : atomItemTake s.mach r = ringEnd (takeDone s.mach r) r i 2 8 0 false := by
    unfold atomItemTake
    rw [hreqs, if_neg (by simp), htake]
    exact if_pos (Or.inl hop)
  have hunits := units_takeDone s.mach r
  refine ⟨_, rfl, ?_⟩
  dsimp only
  rw [heq]
  refine ⟨cidx_takeDone s.mach r, (show (takeDone s.mach r).mem = _ from mem_of_units hunits), ?_⟩
  exact congrArg (· ++ _) (ringDone_of_units hunits)

theorem ends_atomItemTake_own {p i : Nat} {w : Line} (hreqs : s.mach.vkReqs = [])
    (htake : takeWord s.mach r 2 = some (.ok (p, i, w))) (hop : fld w 67 64 < 10) (h62 : fld w 63 62 = 0) (h69 : fld w 79 69 = 0)
    (h92 : fld w 127 92 = 0) (h256 : fld w 511 256 = 0) (halign : fld w 2 0 = 0) (hnode : fld w 61 48 = s.mach.route.nodeId) :
    Ends (.atomItemTake r) s (fun m =>
      let q := ownAtomic (takeDone s.mach r) p (fld w 67 64) (if bit w 68 then 8 else 4) (fld w 47 0) (fld w 191 128) (fld w 255 192)
      m = ringEnd q.2.2.2 r i 2 q.1 q.2.1 q.2.2.1) := by
  have haddr : fld w 61 0 % 2 ^ 48 = fld w 47 0 := by
    unfold fld
    omega
  have hpart : fld w 61 0 / 2 ^ 48 = fld w 61 48 := by
    unfold fld
    omega
  have height : fld w 47 0 % 8 = 0 := by
    unfold fld at halign ⊢
    omega
  have hsize : fld w 47 0 % (if bit w 68 then 8 else 4) = 0 := by
    split <;> omega
  refine ⟨_, rfl, ?_⟩
  dsimp only
  unfold atomItemTake
  rw [hreqs, if_neg (by simp), htake]
  dsimp only
  rw [haddr, hpart]
  rw [if_neg (by simp only [h62, h69, h92, h256, hsize, ne_eq, not_true_eq_false, or_false]; omega), if_pos hnode]

/-! ### Time-outs and interrupts -/

theorem ends_pendTimeout (htmo : rf s.mach .RNG_CFG r 0 15 0 ≠ 0) (hpend : pend s.mach r ≠ 0) :
    Ends (.pendTimeout r) s (fun m => pend m r = 0 ∧ ringEpoch m r = (ringEpoch s.mach r + 1) % 65536 ∧
      rf m .RNG_STAT r 0 31 16 = sat 16 (rf s.mach .RNG_STAT r 0 31 16 + pend s.mach r) ∧ pidx m r = pidx s.mach r ∧
      rb m .RNG_ERR r 0 63 = true ∧ m.mem = s.mach.mem) := by
  obtain ⟨t, ht, heq⟩ : ∃ t, t = ringErr (advanceTo s.mach (smapGet 0 s.mach.ringAt r - 1 + rf s.mach .RNG_CFG r 0 15 0 * 65536 *
      Config.acyc)) r 4 ∧ pendTimeout s.mach r = flushRing t r := ⟨_, rfl, if_neg (by omega)⟩
  have hreg (n : RegName) (hn : RegRef.addr ⟨n, r, 0⟩ ≠ RegRef.addr ⟨.RNG_ERR, r, 0⟩) : rg t n r 0 = rg s.mach n r 0 := by
    rw [ht, rg_ringErr hn, rg_advanceTo]
  have hstate := hreg .RNG_STATE (addr_ne_of_off .RNG_STATE .RNG_ERR rfl (by decide) _)
  have hstat := hreg .RNG_STAT (addr_ne_of_off .RNG_STAT .RNG_ERR rfl (by decide) _)
  have hvalid : rb t .RNG_ERR r 0 63 = true := ht ▸ valid_ringErr _ _ _
  have hmem : t.mem = s.mach.mem := by
    rw [ht]
    exact mem_of_units ((units_ringErr _ _ _).trans (units_advanceTo _ _))
  have hp : pend t r = pend s.mach r := congrArg (fun w : Word => fld w 38 32) hstate
  obtain ⟨hpend', hepoch, hpidx, -, hcount, hkeep⟩ := flushed_flushRing t r
  refine ⟨_, rfl, ?_⟩
  dsimp only
  rw [heq]
  refine ⟨hpend', ?_, ?_, ?_, ?_, hkeep.trans hmem⟩
  · exact hepoch.trans (congrArg (fun w : Word => (fld w 63 48 + 1) % 65536) hstate)
  · rw [hcount, hp]
    exact congrArg (fun w : Word => sat 16 (fld w 31 16 + pend s.mach r)) hstat
  · exact hpidx.trans (congrArg (fun w : Word => fld w 31 0) hstate)
  · exact (congrArg (fun w : Word => bit w 63) (rg_flushRing (addr_ne_of_off .RNG_ERR .RNG_STAT rfl (by decide) _) (addr_ne_of_off .RNG_ERR .RNG_STATE rfl (by decide) _) t)).trans
      hvalid

theorem ends_pendTimeout_none (h : rf s.mach .RNG_CFG r 0 15 0 = 0 ∨ pend s.mach r = 0) :
    Ends (.pendTimeout r) s (fun m => m = s.mach) := ⟨_, rfl, if_pos h⟩

theorem ends_ringMsi {c : CoreNo} {f : Nat} (hon : ringOn s.mach r = true) (hen : rb s.mach .RNG_CFG r 0 55 = true)
    (harmed : rb s.mach .RNG_CIDX r 0 63 = true) (hocc : ringOcc s.mach r ≠ 0)
    (hfile : imsicFile s.mach (rf s.mach .RNG_MSI r 0 47 2 * 4) = some (c.val, f)) (hid : rf s.mach .RNG_MSI r 0 55 48 ≠ 0)
    (hpage : rf s.mach .RNG_MSI r 0 47 2 * 4 % 0x1000 = 0) :
    Ends (.ringMsi r) s (fun m => rb m .RNG_CIDX r 0 63 = false ∧ cidx m r = cidx s.mach r ∧
      smapGet false (getCore m c).eip (f * 256 + rf s.mach .RNG_MSI r 0 55 48) = true) := by
  have hlt : rf s.mach .RNG_MSI r 0 55 48 < 256 := Nat.mod_lt _ (by decide)
  have hmsi := msiTo_of_file (s := wb s.mach .RNG_CIDX r 0 63 false) hfile (Nat.pos_of_ne_zero hid) (by omega) hpage
  have heq : ringMsi s.mach r = _ := (if_pos ⟨hon, hen, harmed, hocc⟩).trans hmsi
  refine ⟨_, rfl, ?_⟩
  dsimp only
  rw [heq]
  refine ⟨?_, ?_, ?_⟩
  · exact rb_wb s.mach .RNG_CIDX r 0 63 false (by decide)
  · exact rf_wf_other s.mach .RNG_CIDX r 0 63 63 _ 31 0 (by decide) (Or.inl (by decide))
  · rw [getCore_modCore, if_pos ⟨rfl, c.isLt⟩]
    dsimp only
    rw [smapGet_smapPut, if_pos rfl]

theorem ends_ringMsi_none (h : ringOn s.mach r = false ∨ rb s.mach .RNG_CIDX r 0 63 = false ∨ ringOcc s.mach r = 0) :
    Ends (.ringMsi r) s (fun m => m = s.mach) := by
  refine ⟨_, rfl, if_neg ?_⟩
  rintro ⟨hon, -, harmed, hocc⟩
  obtain h | h | h := h
  · exact absurd (h.symm.trans hon) (by decide)
  · exact absurd (h.symm.trans harmed) (by decide)
  · exact hocc h

end

/-- Settles O54. -/
theorem ringConsumersRun : Obligations.RingConsumersRun :=
  ⟨fun _ _ _ _ _ hroom htake => ends_barnItemTake hroom htake,
    fun _ _ _ hroom htake => ends_barnItemTake_refused hroom htake,
    fun _ _ hfull => ends_barnItemTake_wait hfull,
    fun _ _ _ _ _ hreqs htake hop => ends_atomItemTake_malformed hreqs htake hop,
    fun _ _ _ _ _ hreqs htake hop h62 h69 h92 h256 halign hnode => ends_atomItemTake_own hreqs htake hop h62 h69 h92 h256 halign hnode,
    fun _ _ htmo hpend => ends_pendTimeout htmo hpend,
    fun _ _ h => ends_pendTimeout_none h,
    fun _ _ _ _ hon hen harmed hocc hfile hid hpage => ends_ringMsi hon hen harmed hocc hfile hid hpage,
    fun _ _ h => ends_ringMsi_none h⟩

end Sys2Proof.Machine
end

section
/-! Fault records on their way to the log (R528, R529, R538 to R540). -/

namespace Sys2Proof.Machine

/-! ### What the collectors and the log leave -/

/-- A view of the package that the collectors and the log leave: no register of the protection block, no record on its way, nothing
but what they themselves hold. -/
structure OffLog {β : Type} (g : Mach → β) : Prop where
  wr : ∀ {n : RegName} {u i : Nat}, (RegRef.addr ⟨n, u, i⟩ < 0x50000 ∨ 0x80000 ≤ RegRef.addr ⟨n, u, i⟩) →
    ∀ (s : Mach) (v : Word), g (wr s n u i v) = g s
  keys : ∀ (s : Mach) (f : Flt → Flt), (∀ x, (f x).wire = x.wire) → g (modFlt s f) = g s
  items : ∀ (s : Mach) (q : List HwItem), g (withItems s q) = g s

/-- Copies for rings are items that wait for the hub. -/
theorem exists_items_ringCopy (s : Mach) (reg : Word) (w : BitVec 256) : ∃ q, ringCopy s reg w = withItems s q := by
  unfold ringCopy
  split
  · exact ⟨_, rfl⟩
  · exact ⟨s.hwItems, rfl⟩

theorem exists_items_foldS {α : Type} {f : Mach → α → Mach} (h : ∀ t a, ∃ q, f t a = withItems t q) (l : List α) (s : Mach) :
    ∃ q, foldS l f s = withItems s q := by
  induction l generalizing s with
  | nil => exact ⟨s.hwItems, rfl⟩
  | cons a l ih =>
    obtain ⟨p, hp⟩ := h s a
    obtain ⟨q, hq⟩ := ih (f s a)
    refine ⟨q, hq.trans ?_⟩
    rw [hp]
    rfl

/-- The words of a record in the log. -/
def logWords (s : Mach) (r : FltRec) : Mach :=
  foldS (List.range 4) (fun t k =>
    wr t .FLT_LOG 0 (4 * (rf s .FLT_LOGCTL 0 0 24 16 % 256) + k) (r.word s.flt.seqNo s.flt.lostSince k)) s

/-- A record in the log, before its copies. -/
def logged (s : Mach) (r : FltRec) : Mach :=
  modFlt (wf (logWords s r) .FLT_LOGCTL 0 0 24 16 ((rf s .FLT_LOGCTL 0 0 24 16 + 1) % 512))
    (fun f => { f with seqNo := (s.flt.seqNo + 1) % 65536, lostSince := 0 })

/-- A record that finds the log full, before its copies. -/
def unlogged (s : Mach) : Mach :=
  modFlt (bump s .FLT_LOST 0 0 63 32 1)
    (fun f => { f with seqNo := (s.flt.seqNo + 1) % 65536, lostSince := sat 16 (f.lostSince + 1) })

/-- The copies of a record for the rings. -/
theorem exists_items_copies (s : Mach) (r : FltRec) (seq lost : Nat) : ∃ q,
    (let t := ringCopy s (rg s .FLT_SYSRING 0 0) (r.bits seq lost)
     if r.cls = 5 then
       foldS (granuleParts t r.addr) (fun t p => ringCopy t (rg t .FLT_PRING 0 p) ((r.forPart (some p) 0).bits seq lost)) t
     else if r.pidv then ringCopy t (rg t .FLT_PRING 0 r.pid) (r.bits seq lost) else t) = withItems s q := by
  dsimp only
  obtain ⟨p, hp⟩ := exists_items_ringCopy s (rg s .FLT_SYSRING 0 0) (r.bits seq lost)
  rw [hp]
  split
  · exact exists_items_foldS (fun t p => exists_items_ringCopy _ _ _) _ (withItems s p)
  split
  · exact exists_items_ringCopy (withItems s p) _ _
  · exact ⟨p, rfl⟩

theorem logRecord_room {s : Mach} (h : logLen s < 256) (r : FltRec) : ∃ q, logRecord s r = withItems (logged s r) q := by
  obtain ⟨q, hq⟩ := exists_items_copies (logged s r) r s.flt.seqNo s.flt.lostSince
  refine ⟨q, Eq.trans ?_ hq⟩
  unfold logRecord
  simp only [h, decide_true, if_true]
  rfl

theorem logRecord_full {s : Mach} (h : 256 ≤ logLen s) (r : FltRec) : ∃ q, logRecord s r = withItems (unlogged s) q := by
  obtain ⟨q, hq⟩ := exists_items_copies (unlogged s) r s.flt.seqNo 0
  refine ⟨q, Eq.trans ?_ hq⟩
  unfold logRecord
  simp only [Nat.not_lt.2 h, decide_false, Bool.false_eq_true, if_false]
  rfl

namespace OffLog

variable {β : Type} {g : Mach → β} (h : OffLog g)
include h

theorem mod {s : Mach} {f : Flt → Flt} {b : β} (hf : ∀ x, (f x).wire = x.wire) (hs : g s = b) : g (modFlt s f) = b :=
  (h.keys s f hf).trans hs

theorem wf {n : RegName} {u i : Nat} (ha : RegRef.addr ⟨n, u, i⟩ < 0x50000 ∨ 0x80000 ≤ RegRef.addr ⟨n, u, i⟩) (s : Mach) (hi lo v : Nat) :
    g (wf s n u i hi lo v) = g s := h.wr ha _ _

theorem wb {n : RegName} {u i : Nat} (ha : RegRef.addr ⟨n, u, i⟩ < 0x50000 ∨ 0x80000 ≤ RegRef.addr ⟨n, u, i⟩) (s : Mach) (k : Nat)
    (v : Bool) : g (wb s n u i k v) = g s := h.wr ha _ _

theorem bumpAo (s : Mach) (d k n : Nat) : g (bumpAo s d k n) = g s :=
  h.wr (Or.inr (by simp only [RegRef.addr, RegName.info, Blk.base]; omega)) _ _

theorem logRecord (s : Mach) (r : FltRec) : g (logRecord s r) = g s := by
  by_cases hroom : logLen s < 256
  · obtain ⟨q, hq⟩ := logRecord_room hroom r
    rw [hq, h.items]
    unfold logged
    refine h.mod (fun _ => rfl) ((h.wf (n := .FLT_LOGCTL) (Or.inl (by decide)) _ _ _ _).trans ?_)
    refine foldS_keeps_of_mem g _ _ _ fun t k hk => h.wr (Or.inl ?_) _ _
    have hlt : k < 4 := List.mem_range.1 hk
    simp only [RegRef.addr, RegName.info, Blk.base]
    omega
  · obtain ⟨q, hq⟩ := logRecord_full (Nat.not_lt.1 hroom) r
    rw [hq, h.items]
    unfold unlogged
    exact h.mod (fun _ => rfl) (h.wf (n := .FLT_LOST) (Or.inl (by decide)) _ _ _ _)

theorem stormMark (s : Mach) (c : Prop) [Decidable c] : g (if c then Machine.wb s .FLT_STATUS 0 0 0 true else s) = g s :=
  iteInduction (motive := fun m : Mach => g m = g s) (fun _ => h.wb (Or.inl (by decide)) _ _ _) fun _ => rfl

theorem hubTake (s : Mach) (r : FltRec) : g (hubTake s r) = g s := by
  unfold Machine.hubTake
  dsimp only
  split
  · exact (h.stormMark _ _).trans (h.mod (fun _ => rfl) (h.bumpAo _ _ _ _))
  · rw [h.logRecord]
    split
    · exact h.mod (fun _ => rfl) (h.bumpAo _ _ _ _)
    · exact h.bumpAo _ _ _ _

theorem hubSummary (s : Mach) (r : FltRec) : g (hubSummary s r) = g s := by
  unfold Machine.hubSummary
  dsimp only
  split
  · exact (h.stormMark _ _).trans (h.mod (fun _ => rfl) (h.bumpAo _ _ _ _))
  · rw [h.stormMark, h.logRecord, h.bumpAo]

theorem dieTake (s : Mach) (r : FltRec) : g (dieTake s r) = g s := by
  unfold Machine.dieTake
  dsimp only
  split
  · refine iteInduction (motive := fun m : Mach => g m = g s) (fun _ => ?_) fun _ => h.keys _ _ fun _ => rfl
    exact (h.wb (Or.inr (by simp only [RegRef.addr, RegName.info, Blk.base, dieBase, compDieId]; omega)) _ _ _).trans (h.keys _ _ fun _ => rfl)
  · rw [h.hubTake]
    exact iteInduction (motive := fun m : Mach => g m = g s) (fun _ => h.keys _ _ fun _ => rfl) fun _ => rfl

theorem openWindow (s : Mach) : g (openWindow s) = g s :=
  iteInduction (motive := fun m : Mach => g m = g s) (fun _ => h.keys _ _ fun _ => rfl) fun _ => rfl

theorem collect (s : Mach) (r : FltRec) : g (collect s r) = g s := by
  unfold Machine.collect
  dsimp only
  split
  · rw [h.hubTake, h.openWindow]
  · rw [h.dieTake, h.openWindow]

/-- The oldest record passed on changes no such view, if taking it off the wire changes none. -/
theorem collectNext (hwire : ∀ (s : Mach) (l : List FltRec), g (modFlt s (fun f => { f with wire := l })) = g s) (s : Mach) :
    g (collectNext s) = g s := by
  unfold Machine.collectNext
  split
  · rfl
  · rw [h.collect, hwire]

end OffLog

theorem offLog_mem : OffLog Mach.mem := ⟨fun _ _ _ => rfl, fun _ _ _ => rfl, fun _ _ => rfl⟩
theorem offLog_bay (b : Nat) : OffLog (getBay · b) := ⟨fun _ _ _ => rfl, fun _ _ _ => rfl, fun _ _ => rfl⟩
theorem offLog_wire : OffLog (fun s : Mach => s.flt.wire) := ⟨fun _ _ _ => rfl, fun _ _ hf => hf _, fun _ _ => rfl⟩

/-- A register of the protection block. -/
theorem offLog_rg {n : RegName} {u i : Nat} (h : 0x50000 ≤ RegRef.addr ⟨n, u, i⟩) (h' : RegRef.addr ⟨n, u, i⟩ < 0x80000) :
    OffLog (rg · n u i) :=
  ⟨fun ha _ _ => rg_wr_other _ _ _ _ _ _ _ _ (by omega), fun _ _ _ => rfl, fun _ _ => rfl⟩

end Sys2Proof.Machine
end

section
/-! How records reach the log, and the sources that raise them (R528, R529, R538 to R540). -/

namespace Sys2Proof.Machine

/-- A row of registers written one by one holds what was written. -/
theorem rg_foldS_wr {n : RegName} {u : Nat} {f : Nat → Nat} {w : Nat → Word} (hf : ∀ a b, RegRef.addr ⟨n, u, f a⟩ = RegRef.addr ⟨n, u, f b⟩ → a = b)
    (l : List Nat) (s : Mach) {k : Nat} (hk : k ∈ l ∨ rg s n u (f k) = w k) :
    rg (foldS l (fun t k => wr t n u (f k) (w k)) s) n u (f k) = w k := by
  induction l generalizing s with
  | nil => exact hk.resolve_left List.not_mem_nil
  | cons a l ih =>
    refine ih (wr s n u (f a) (w a)) ?_
    by_cases h : k = a
    · subst h
      exact Or.inr (rg_wr _ _ _ _ _)
    · rw [rg_wr_other _ _ _ _ _ _ _ _ fun ha => h (hf _ _ ha)]
      exact hk.imp_left fun hm => (List.mem_cons.1 hm).resolve_left h

/-- The log's words after a record: those of its place hold the record. -/
theorem rg_logWords (s : Mach) (r : FltRec) {k : Nat} (hk : k < 4) :
    rg (logWords s r) .FLT_LOG 0 (4 * (rf s .FLT_LOGCTL 0 0 24 16 % 256) + k) = r.word s.flt.seqNo s.flt.lostSince k := by
  refine rg_foldS_wr (f := fun k => 4 * (rf s .FLT_LOGCTL 0 0 24 16 % 256) + k) (fun a b h => ?_) _ _ (Or.inl (List.mem_range.2 hk))
  simp only [RegRef.addr, RegName.info, Blk.base] at h
  omega

theorem flt_logWords (s : Mach) (r : FltRec) : (logWords s r).flt = s.flt := by
  unfold logWords
  exact foldS_keeps Mach.flt _ _ _ fun t _ => wr_flt t _ _ _ _

theorem mem_logWords (s : Mach) (r : FltRec) : (logWords s r).mem = s.mem := by
  unfold logWords
  exact foldS_keeps Mach.mem _ _ _ fun t _ => wr_mem t _ _ _ _

theorem flt_logged (s : Mach) (r : FltRec) :
    (logged s r).flt = { s.flt with seqNo := (s.flt.seqNo + 1) % 65536, lostSince := 0 } := by
  unfold logged wf
  rw [modFlt_flt, wr_flt, flt_logWords]

theorem flt_unlogged (s : Mach) :
    (unlogged s).flt = { s.flt with seqNo := (s.flt.seqNo + 1) % 65536, lostSince := sat 16 (s.flt.lostSince + 1) } := by
  unfold unlogged
  rw [modFlt_flt, flt_bump]

theorem mem_modFlt (s : Mach) (f : Flt → Flt) : (modFlt s f).mem = s.mem := rfl
theorem mem_withItems (s : Mach) (q : List HwItem) : (withItems s q).mem = s.mem := rfl
theorem flt_withItems (s : Mach) (q : List HwItem) : (withItems s q).flt = s.flt := rfl

theorem mem_logged (s : Mach) (r : FltRec) : (logged s r).mem = s.mem := by
  unfold logged wf
  rw [mem_modFlt, wr_mem, mem_logWords]

theorem rg_withItems (s : Mach) (q : List HwItem) (n : RegName) (u i : Nat) : rg (withItems s q) n u i = rg s n u i := rfl
theorem rg_modFlt (s : Mach) (f : Flt → Flt) (n : RegName) (u i : Nat) : rg (modFlt s f) n u i = rg s n u i := rfl

theorem rg_logged (s : Mach) (r : FltRec) (n : RegName) (u i : Nat) : rg (logged s r) n u i =
    rg (wf (logWords s r) .FLT_LOGCTL 0 0 24 16 ((rf s .FLT_LOGCTL 0 0 24 16 + 1) % 512)) n u i := rg_modFlt _ _ _ _ _

/-- The package as the collectors see it: the oldest record taken off the wire, and a window opened where no key is held. -/
def takenOff (s : Mach) (l : List FltRec) : Mach := openWindow (modFlt s (fun f => { f with wire := l }))

theorem csr_takenOff (s : Mach) (l : List FltRec) : (takenOff s l).csr = s.csr :=
  iteInduction (motive := fun m : Mach => m.csr = s.csr) (fun _ => rfl) fun _ => rfl

theorem mem_takenOff (s : Mach) (l : List FltRec) : (takenOff s l).mem = s.mem :=
  iteInduction (motive := fun m : Mach => m.mem = s.mem) (fun _ => rfl) fun _ => rfl

/-- Of the fault state, only the wire and the window have moved. -/
theorem flt_takenOff (s : Mach) (l : List FltRec) : ∃ n, (takenOff s l).flt = { s.flt with wire := l, winFrom := n } :=
  iteInduction (motive := fun m : Mach => ∃ n, m.flt = { s.flt with wire := l, winFrom := n }) (fun _ => ⟨_, rfl⟩)
    fun _ => ⟨s.flt.winFrom, rfl⟩

theorem collectNext_of_cons {s : Mach} {r : FltRec} {l : List FltRec} (hwire : s.flt.wire = r :: l) (hdie : r.die = 0) :
    collectNext s = hubTake (takenOff s l) r := by
  unfold collectNext
  rw [hwire]
  exact if_pos (Or.inl hdie)

/-- The package in which a new record has been counted, its key held where there is room. -/
def keyed (s : Mach) (r : FltRec) : Mach :=
  let s := bumpAo s 0 1 1
  if s.flt.hubKeys.length < 256 then modFlt s (fun f => { f with hubKeys := f.hubKeys ++ [{ first := r, count := 0 }] }) else s

theorem hubTake_new {s : Mach} {r : FltRec} (h : s.flt.hubKeys.any (sameKey r) = false) : hubTake s r = logRecord (keyed s r) r :=
  if_neg (fun ht => absurd (h.symm.trans ht) (by decide))

theorem csr_keyed (s : Mach) (r : FltRec) : (keyed s r).csr = (bumpAo s 0 1 1).csr :=
  iteInduction (motive := fun m : Mach => m.csr = (bumpAo s 0 1 1).csr) (fun _ => rfl) fun _ => rfl

theorem mem_keyed (s : Mach) (r : FltRec) : (keyed s r).mem = s.mem :=
  iteInduction (motive := fun m : Mach => m.mem = s.mem) (fun _ => mem_of_units (units_bumpAo s 0 1 1)) fun _ =>
    mem_of_units (units_bumpAo s 0 1 1)

theorem flt_bumpAo (s : Mach) (d k n : Nat) : (bumpAo s d k n).flt = s.flt := wr_flt _ _ _ _ _

theorem flt_keyed (s : Mach) (r : FltRec) : ∃ l, (keyed s r).flt = { s.flt with hubKeys := l } := by
  have h := flt_bumpAo s 0 1 1
  refine iteInduction (motive := fun m : Mach => ∃ l, m.flt = { s.flt with hubKeys := l }) (fun _ => ?_) fun _ => ?_
  · refine ⟨(bumpAo s 0 1 1).flt.hubKeys ++ [{ first := r, count := 0 }], ?_⟩
    rw [← h]
    rfl
  · exact ⟨s.flt.hubKeys, h⟩

/-- A register below the always-on counters, once a record has been taken off the wire and its key held. -/
theorem rg_keyed {n : RegName} {i : Nat} (h : RegRef.addr ⟨n, 0, i⟩ < 0x120000) (s : Mach) (l : List FltRec) (r : FltRec) :
    rg (keyed (takenOff s l) r) n 0 i = rg s n 0 i := by
  rw [rg_of_csr (csr_keyed _ r), rg_bumpAo_other (by
    have : 0x120000 ≤ RegRef.addr ⟨.CNT_AO, 0, 0 * 8 + 1⟩ := by decide
    omega), rg_of_csr (csr_takenOff s l)]

section
variable {s : State} {r : FltRec} {l : List FltRec}

theorem ends_faultRecord_new (hwire : s.mach.flt.wire = r :: l) (hdie : r.die = 0) (hkey : s.mach.flt.hubKeys.any (sameKey r) = false) :
    ∃ t : Mach, faultRecord s.mach .raised = logRecord t r ∧ (∃ keys n, t.flt = { s.mach.flt with wire := l, hubKeys := keys, winFrom := n }) ∧
      t.mem = s.mach.mem ∧ ∀ (n : RegName) (i : Nat), RegRef.addr ⟨n, 0, i⟩ < 0x120000 → rg t n 0 i = rg s.mach n 0 i := by
  obtain ⟨n, hflt⟩ := flt_takenOff s.mach l
  obtain ⟨keys, hkeyed⟩ := flt_keyed (takenOff s.mach l) r
  have hnew : (takenOff s.mach l).flt.hubKeys.any (sameKey r) = false := by
    rw [hflt]
    exact hkey
  have hmem : (keyed (takenOff s.mach l) r).mem = s.mach.mem :=
    (mem_keyed _ _).trans (mem_takenOff _ _)
  refine ⟨keyed (takenOff s.mach l) r, (collectNext_of_cons hwire hdie).trans (hubTake_new hnew), ⟨keys, n, ?_⟩, hmem,
    fun n i h => rg_keyed h s.mach l r⟩
  rw [hkeyed, hflt]

/-- The length of the log follows FLT_LOGCTL. -/
theorem logLen_of_rg {s t : Mach} (h : rg t .FLT_LOGCTL 0 0 = rg s .FLT_LOGCTL 0 0) : logLen t = logLen s :=
  congrArg (fun w : Word => (fld w 24 16 + 512 - fld w 8 0) % 512) h

theorem ends_faultRecord_logged (hwire : s.mach.flt.wire = r :: l) (hdie : r.die = 0)
    (hkey : s.mach.flt.hubKeys.any (sameKey r) = false) (hroom : logLen s.mach < 256) :
    Ends (.faultRecord .raised) s (fun m =>
      let h := rf s.mach .FLT_LOGCTL 0 0 24 16
      m.flt.wire = l ∧ rf m .FLT_LOGCTL 0 0 24 16 = (h + 1) % 512 ∧ m.flt.seqNo = (s.mach.flt.seqNo + 1) % 65536 ∧
      m.flt.lostSince = 0 ∧ m.mem = s.mach.mem ∧
      ∀ k, k < 4 → rg m .FLT_LOG 0 (4 * (h % 256) + k) = r.word s.mach.flt.seqNo s.mach.flt.lostSince k) := by
  obtain ⟨t, heq, ⟨keys, n, hflt⟩, hmem, hreg⟩ := ends_faultRecord_new hwire hdie hkey
  have hctl := hreg .FLT_LOGCTL 0 (by decide)
  have hh : rf t .FLT_LOGCTL 0 0 24 16 = rf s.mach .FLT_LOGCTL 0 0 24 16 := congrArg (fun w : Word => fld w 24 16) hctl
  have hseq : t.flt.seqNo = s.mach.flt.seqNo := (congrArg Flt.seqNo hflt).trans rfl
  have hlost : t.flt.lostSince = s.mach.flt.lostSince := (congrArg Flt.lostSince hflt).trans rfl
  have hwl : t.flt.wire = l := (congrArg Flt.wire hflt).trans rfl
  have hwords (k : Nat) (hk : k < 4) := rg_logWords t r hk
  obtain ⟨q, hq⟩ := logRecord_room ((logLen_of_rg hctl).trans_lt hroom) r
  refine ⟨_, rfl, ?_⟩
  dsimp only
  rw [heq, hq]
  rw [flt_withItems, flt_logged, mem_withItems, mem_logged]
  refine ⟨hwl, ?_, ?_, rfl, ?_, fun k hk => ?_⟩
  · unfold rf
    rw [rg_withItems, rg_logged]
    refine (rf_wf (logWords t r) .FLT_LOGCTL 0 0 24 16 _ (by decide) (by decide)).trans ?_
    rw [hh]
    exact Nat.mod_mod _ 512
  · exact congrArg (fun n => (n + 1) % 65536) hseq
  · exact hmem
  · rw [← hh, ← hseq, ← hlost, ← hwords k hk, rg_withItems, rg_logged]
    exact rg_wr_other _ _ _ _ _ _ _ _ (by simp only [RegRef.addr, RegName.info, Blk.base]; omega)

theorem ends_faultRecord_lost (hwire : s.mach.flt.wire = r :: l) (hdie : r.die = 0)
    (hkey : s.mach.flt.hubKeys.any (sameKey r) = false) (hfull : 256 ≤ logLen s.mach) :
    Ends (.faultRecord .raised) s (fun m => m.flt.wire = l ∧ rf m .FLT_LOGCTL 0 0 24 16 = rf s.mach .FLT_LOGCTL 0 0 24 16 ∧
      rf m .FLT_LOST 0 0 63 32 = sat 32 (rf s.mach .FLT_LOST 0 0 63 32 + 1) ∧
      m.flt.lostSince = sat 16 (s.mach.flt.lostSince + 1)) := by
  obtain ⟨t, heq, ⟨keys, n, hflt⟩, -, hreg⟩ := ends_faultRecord_new hwire hdie hkey
  have hctl := hreg .FLT_LOGCTL 0 (by decide)
  have hlost := hreg .FLT_LOST 0 (by decide)
  obtain ⟨q, hq⟩ := logRecord_full (hfull.trans (logLen_of_rg hctl).ge) r
  refine ⟨_, rfl, ?_⟩
  dsimp only
  rw [heq, hq]
  rw [flt_withItems, flt_unlogged, hflt]
  refine ⟨rfl, ?_, ?_, rfl⟩
  · unfold rf
    rw [rg_withItems]
    refine congrArg (fun w : Word => fld w 24 16) (Eq.trans ?_ hctl)
    exact rg_wr_other t .FLT_LOST .FLT_LOGCTL 0 0 0 0 _ (by decide)
  · unfold rf
    rw [rg_withItems]
    refine (rf_bump t .FLT_LOST 0 0 63 32 1 (by decide) (by decide)).trans ?_
    exact congrArg (fun w : Word => sat 32 (fld w 63 32 + 1)) hlost

theorem ends_faultRecord_held (hwire : s.mach.flt.wire = r :: l) (hdie : r.die = 0)
    (hkey : s.mach.flt.hubKeys.any (sameKey r) = true) :
    Ends (.faultRecord .raised) s (fun m => m.flt.wire = l ∧ m.flt.hubKeys = addKey s.mach.flt.hubKeys r 1 ∧
      m.flt.seqNo = s.mach.flt.seqNo ∧ rg m .FLT_LOGCTL 0 0 = rg s.mach .FLT_LOGCTL 0 0) := by
  obtain ⟨n, hflt⟩ := flt_takenOff s.mach l
  have hheld : (bumpAo (takenOff s.mach l) 0 1 1).flt = { s.mach.flt with wire := l, winFrom := n } := (flt_bumpAo _ _ _ _).trans hflt
  have hctl : rg (bumpAo (takenOff s.mach l) 0 1 1) .FLT_LOGCTL 0 0 = rg s.mach .FLT_LOGCTL 0 0 :=
    (rg_bumpAo_other (by decide) _ _).trans (rg_of_csr (csr_takenOff _ _) _ _ _)
  have heq : faultRecord s.mach .raised = hubTake (takenOff s.mach l) r := collectNext_of_cons hwire hdie
  refine ⟨_, rfl, ?_⟩
  dsimp only
  rw [heq]
  unfold hubTake
  dsimp only
  generalize bumpAo (takenOff s.mach l) 0 1 1 = t at hheld hctl ⊢
  rw [if_pos (by rw [hheld]; exact hkey)]
  have hkeys : (modFlt t (fun f => { f with hubKeys := addKey f.hubKeys r 1 })).flt =
      { s.mach.flt with wire := l, winFrom := n, hubKeys := addKey s.mach.flt.hubKeys r 1 } :=
    congrArg (fun f : Flt => { f with hubKeys := addKey f.hubKeys r 1 }) hheld
  have hcsr : rg (modFlt t (fun f => { f with hubKeys := addKey f.hubKeys r 1 })) .FLT_LOGCTL 0 0 = rg s.mach .FLT_LOGCTL 0 0 := hctl
  generalize modFlt t (fun f => { f with hubKeys := addKey f.hubKeys r 1 }) = u at hkeys hcsr ⊢
  have hmark : (if stormy u u.flt.hubKeys r then wb u .FLT_STATUS 0 0 0 true else u).flt = u.flt :=
    iteInduction (motive := fun m : Mach => m.flt = u.flt) (fun _ => flt_wb _ _ _ _ _ _) fun _ => rfl
  have hlog : rg (if stormy u u.flt.hubKeys r then wb u .FLT_STATUS 0 0 0 true else u) .FLT_LOGCTL 0 0 = rg u .FLT_LOGCTL 0 0 :=
    iteInduction (motive := fun m : Mach => rg m .FLT_LOGCTL 0 0 = rg u .FLT_LOGCTL 0 0)
      (fun _ => rg_wr_other _ _ _ _ _ _ _ _ (by decide)) fun _ => rfl
  rw [hmark, hlog, hkeys]
  exact ⟨rfl, rfl, rfl, hcsr⟩

theorem ends_faultRecord_none (hwire : s.mach.flt.wire = []) : Ends (.faultRecord .raised) s (fun m => m = s.mach) := by
  refine ⟨_, rfl, ?_⟩
  dsimp only
  unfold faultRecord sourceEvent collectNext
  rw [hwire]

end

/-! ### Sources -/

theorem collectNext_keeps {β : Type} {g : Mach → β} (h : OffLog g)
    (hwire : ∀ (s : Mach) (l : List FltRec), g (modFlt s (fun f => { f with wire := l })) = g s) (s : Mach) : g (collectNext s) = g s :=
  h.collectNext hwire s

theorem getBay_collectNext (s : Mach) (b : Nat) : getBay (collectNext s) b = getBay s b := (offLog_bay b).collectNext (fun _ _ => rfl) s
theorem mem_collectNext (s : Mach) : (collectNext s).mem = s.mem := offLog_mem.collectNext (fun _ _ => rfl) s

theorem ends_faultRecord_semLost (s : State) (b : BayNo) (i : Fin 2048) : Ends (.faultRecord (.semLost b i)) s (fun m =>
    semCount m b i = 0 ∧ (∀ j, j ≠ i.val → semCount m b j = semCount s.mach b j) ∧ m.mem = s.mach.mem) := by
  have hunits (t : Mach) (x : FltRec) := units_raiseBay t b x
  have hsem : getSem (faultRecord s.mach (.semLost b i)) b = { getSem s.mach b with count := smapPut 0 (getSem s.mach b).count i 0 } := by
    refine (congrArg Bay.sem (getBay_collectNext _ b)).trans ((sem_of_units (hunits _ _) b).trans ?_)
    exact getSem_modSem _ _ _
  have hcount (j : Nat) : semCount (faultRecord s.mach (.semLost b i)) b j =
      (if j = i.val then 0 else smapGet 0 (getSem s.mach b).count j).toNat := by
    unfold semCount
    rw [hsem]
    dsimp only
    rw [smapGet_smapPut]
  refine ⟨_, rfl, ?_⟩
  dsimp only
  refine ⟨(hcount i).trans (by rw [if_pos rfl]; rfl), fun j hj => (hcount j).trans (by rw [if_neg hj]; rfl), ?_⟩
  exact (mem_collectNext _).trans ((mem_of_units (hunits (modSem s.mach b fun x => { x with count := smapPut 0 x.count i 0 }) _)).trans rfl)

theorem ends_faultRecord_tokenLost (s : State) (b : BayNo) (c : Fin 1024) : Ends (.faultRecord (.tokenLost b c)) s (fun m =>
    (getChan m b c).count = 0 ∧ (getChan m b c).debt = 0 ∧ m.mem = s.mach.mem) := by
  have hunits (t : Mach) (x : FltRec) := units_raiseBay t b x
  have hchan : getChan (faultRecord s.mach (.tokenLost b c)) b c = { getChan s.mach b c with count := 0, debt := 0 } := by
    refine (congrArg (fun x : Bay => smapGet Chan.zero x.chans c) (getBay_collectNext _ b)).trans ((chan_of_units (hunits _ _) b c).trans ?_)
    exact getChan_modChan _ _ _ _
  refine ⟨_, rfl, ?_⟩
  dsimp only
  rw [hchan]
  refine ⟨rfl, rfl, (mem_collectNext _).trans ?_⟩
  exact (mem_of_units (hunits (modChan s.mach b c fun x => { x with count := 0, debt := 0 }) _)).trans rfl

theorem ends_faultRecord_ggran (s : State) (g : Fin 432) : Ends (.faultRecord (.hubTable (.ggran g))) s (fun m =>
    rb m .PRT_GGRAN 0 g 63 = false ∧ m.mem = s.mach.mem) := by
  have haddr : 0x50000 ≤ RegRef.addr ⟨.PRT_GGRAN, 0, g⟩ ∧ RegRef.addr ⟨.PRT_GGRAN, 0, g⟩ < 0x80000 := by
    have := g.isLt
    simp only [RegRef.addr, RegName.info, Blk.base]
    omega
  have hreg : rg (faultRecord s.mach (.hubTable (.ggran g))) .PRT_GGRAN 0 g = rg (wb s.mach .PRT_GGRAN 0 g 63 false) .PRT_GGRAN 0 g :=
    ((offLog_rg haddr.1 haddr.2).collectNext (fun _ _ => rfl) _).trans (rg_raise_hub _ rfl _ _ _)
  refine ⟨_, rfl, ?_⟩
  dsimp only
  refine ⟨?_, (mem_collectNext _).trans ((mem_of_units (units_raise _ _)).trans (mem_of_units (units_wb _ _ _ _ _ _)))⟩
  unfold rb
  rw [hreg]
  exact rb_wb s.mach .PRT_GGRAN 0 g 63 false (by decide)

/-! ### The end of a window -/

theorem windowEndSummary_keeps {β : Type} {g : Mach → β} (h : OffLog g) (hnow : ∀ (s : Mach) (t : Nat), g (advanceTo s t) = g s)
    (s : Mach) : g (windowEndSummary s) = g s := by
  unfold windowEndSummary
  dsimp only
  refine iteInduction (motive := fun m : Mach => g m = g s) (fun _ => rfl) fun _ => ?_
  refine h.mod (fun _ => rfl) ?_
  refine (foldS_keeps g _ _ _ fun t _ => h.logRecord t _).trans ?_
  exact (foldS_keeps g _ _ _ fun t _ => h.hubSummary t _).trans (hnow _ _)

theorem ends_windowEndSummary {s : State} (hrun : s.mach.alm.running = true) : Ends .windowEndSummary s (fun m =>
    m.flt.hubKeys = [] ∧ m.flt.dieKeys = [] ∧ m.flt.wire = s.mach.flt.wire ∧ m.mem = s.mach.mem) := by
  have hwire := windowEndSummary_keeps offLog_wire (fun _ _ => rfl) s.mach
  have hmem := windowEndSummary_keeps offLog_mem (fun _ _ => rfl) s.mach
  have hkeys : (windowEndSummary s.mach).flt.hubKeys = [] ∧ (windowEndSummary s.mach).flt.dieKeys = [] := by
    unfold windowEndSummary
    rw [if_neg (by simp [hrun])]
    exact ⟨rfl, rfl⟩
  exact ⟨_, rfl, hkeys.1, hkeys.2, hwire, hmem⟩

/-- Settles O55. -/
theorem faultsRecorded : Obligations.FaultsRecorded :=
  ⟨fun _ _ _ hwire hdie hkey hroom => ends_faultRecord_logged hwire hdie hkey hroom,
    fun _ _ _ hwire hdie hkey hfull => ends_faultRecord_lost hwire hdie hkey hfull,
    fun _ _ _ hwire hdie hkey => ends_faultRecord_held hwire hdie hkey,
    fun _ hwire => ends_faultRecord_none hwire,
    fun s b i => ends_faultRecord_semLost s b i,
    fun s b c => ends_faultRecord_tokenLost s b c,
    fun s g => ends_faultRecord_ggran s g,
    fun _ hrun => ends_windowEndSummary hrun⟩

end Sys2Proof.Machine
end

section
/-! Repair of shared weights (R284, R532 to R534). -/

namespace Sys2Proof.Machine

/-! ### Requests to other nodes -/

/-- The package with these requests outstanding at other nodes. -/
def withReqs (s : Mach) (l : List VkReq) : Mach := { s with vkReqs := l }

/-- A request to another node changes its egress port and the list of requests outstanding. -/
theorem vkRequest_keeps {β : Type} {g : Mach → β} (hport : ∀ (s : Mach) (q : Nat) (f : Port → Port), g (modPort s q f) = g s)
    (hreqs : ∀ (s : Mach) (l : List VkReq), g (withReqs s l) = g s) (s : Mach) (mid sid node pt mod_ addr : Nat)
    (data : List (BitVec 128)) (owner : VkOwner) (due : Option Nat) :
    g (vkRequest s mid sid node pt mod_ addr data owner due).2 = g s := by
  unfold vkRequest
  split
  · rfl
  · next t _ =>
    dsimp only
    unfold sendPkt
    cases routePort s node
    · rfl
    · exact (hreqs _ _).trans (hport _ _ _)

/-! ### The queue of requests -/

theorem mem_setRepairs (s : Mach) (l : List Repair) : (setRepairs s l).mem = s.mem := by
  unfold setRepairs wf
  rw [wr_mem, mem_modFlt]

theorem now_modFlt (s : Mach) (f : Flt → Flt) : (modFlt s f).now = s.now := rfl

theorem now_setRepairs (s : Mach) (l : List Repair) : (setRepairs s l).now = s.now := by
  unfold setRepairs wf
  rw [wr_now, now_modFlt]

theorem repairs_setRepairs (s : Mach) (l : List Repair) : (setRepairs s l).flt.repairs = l := by
  unfold setRepairs wf
  rw [wr_flt, modFlt_flt]

/-- QUEUED of FLT_REPAIR follows the queue. -/
theorem queued_setRepairs (s : Mach) (l : List Repair) : rf (setRepairs s l) .FLT_REPAIR 0 0 63 48 = l.length % 2 ^ 16 :=
  rf_wf _ _ _ _ _ _ _ (by decide) (by decide)

theorem rf_setRepairs_below (s : Mach) (l : List Repair) {hi lo : Nat} (h : hi < 48) :
    rf (setRepairs s l) .FLT_REPAIR 0 0 hi lo = rf s .FLT_REPAIR 0 0 hi lo :=
  (rf_wf_other (modFlt s _) .FLT_REPAIR 0 0 63 48 _ hi lo (by decide) (Or.inl h)).trans (congrArg (fld · hi lo) (rg_modFlt s _ _ _ _))

/-- A golden read begun: the request at the head is being read. -/
theorem readGolden_eq (s : Mach) (r : Repair) (l : List Repair) : ∃ (t : Mach) (a : Option (Option Line)),
    readGolden s r l = setRepairs t ({ r with reading := true, answer := a } :: l) ∧ t.csr = s.csr ∧ t.mem = s.mem ∧ t.now = s.now := by
  unfold readGolden
  split
  · exact ⟨_, _, rfl, vkRequest_keeps (fun _ _ _ => rfl) (fun _ _ => rfl) _ _ _ _ _ _ _ _ _ _,
      vkRequest_keeps (fun _ _ _ => rfl) (fun _ _ => rfl) _ _ _ _ _ _ _ _ _ _,
      vkRequest_keeps (fun _ _ _ => rfl) (fun _ _ => rfl) _ _ _ _ _ _ _ _ _ _⟩
  · exact ⟨s, none, rfl, rfl, rfl, rfl⟩

/-- What a request of the queue asks for: the line, and where its golden copy stands. -/
def asked (s : Mach) : List (Nat × Nat) := s.flt.repairs.map (fun r => (r.line, r.gold))

/-- The queue as FLT_REPAIR shows it, with the memory. -/
structure RepairsKept (s m : Mach) : Prop where
  asked : asked m = asked s
  mem : m.mem = s.mem
  done : rf m .FLT_REPAIR 0 0 47 32 = rf s .FLT_REPAIR 0 0 47 32
  queued : rf m .FLT_REPAIR 0 0 63 48 = rf s .FLT_REPAIR 0 0 63 48

/-- The hub's work on the head of its queue takes no request from it and adds none. -/
theorem repairsKept_repairGo {s : Mach} (h : rf s .FLT_REPAIR 0 0 63 48 = s.flt.repairs.length % 2 ^ 16) : RepairsKept s (repairGo s) := by
  unfold repairGo
  split
  · next r l hl =>
    split
    · exact ⟨rfl, rfl, rfl, rfl⟩
    · obtain ⟨t, a, heq, hcsr, hmem, -⟩ := readGolden_eq s r l
      rw [heq]
      refine ⟨?_, (mem_setRepairs _ _).trans hmem, ?_, ?_⟩
      · unfold Machine.asked
        rw [repairs_setRepairs, hl]
        rfl
      · exact (rf_setRepairs_below _ _ (by decide)).trans (congrArg (fld · 47 32) (rg_of_csr hcsr _ _ _))
      · rw [queued_setRepairs, h, hl]
        rfl
  · exact ⟨rfl, rfl, rfl, rfl⟩

theorem length_of_asked {s m : Mach} (h : asked m = asked s) : m.flt.repairs.length = s.flt.repairs.length := by
  have hlen := congrArg List.length h
  unfold asked at hlen
  rwa [List.length_map, List.length_map] at hlen

section
variable {s : State} {r : Repair} {l : List Repair}

/-- A new request for a line. -/
def newRepair (line gold kind : Nat) : Repair :=
  { line := line, gold := gold, gkind := kind, retries := 0, reading := false, written := false, retryAt := none, answer := none }

theorem ends_repairRequest {k : Fin 12} {n : Fin 32} {line : Nat}
    (hon : bit (shrA s.mach n) 63 = true) (hkind : fld (shrA s.mach n) 61 60 = 1 ∨ fld (shrA s.mach n) 61 60 = 2)
    (hin : inShr s.mach n (fld (shrA s.mach n) 22 0 * 65536 + line * 64) = true)
    (hstack : (pcOf (fld (shrA s.mach n) 22 0 * 65536 + line * 64)).stack = k.val)
    (hpois : linePois s.mach ((s.mach.cfg.grnBase + (fld (shrA s.mach n) 22 0 * 65536 + line * 64)) / 64) = true)
    (hdead : s.mach.flt.dead.contains ((s.mach.cfg.grnBase + (fld (shrA s.mach n) 22 0 * 65536 + line * 64)) / 64) = false)
    (hnew : s.mach.flt.repairs.any (fun r => decide (r.line = (s.mach.cfg.grnBase + (fld (shrA s.mach n) 22 0 * 65536 + line * 64)) / 64)) =
      false) (hroom : s.mach.flt.repairs.length < 32) :
    Ends (.repairRequest k n line) s (fun m => m.flt.repairs.length = s.mach.flt.repairs.length + 1 ∧
      rf m .FLT_REPAIR 0 0 63 48 = s.mach.flt.repairs.length + 1 ∧ m.mem = s.mach.mem ∧
      ∃ r ∈ m.flt.repairs, r.line = (s.mach.cfg.grnBase + (fld (shrA s.mach n) 22 0 * 65536 + line * 64)) / 64 ∧
        r.gold = fld (shrB s.mach n) 61 0 + line * 64) := by
  have heq : repairRequest s.mach k n line = repairGo (setRepairs (bumpAo s.mach 0 4 1) ((bumpAo s.mach 0 4 1).flt.repairs ++
      [newRepair ((s.mach.cfg.grnBase + (fld (shrA s.mach n) 22 0 * 65536 + line * 64)) / 64)
        (fld (shrB (bumpAo s.mach 0 4 1) n) 61 0 + line * 64) (fld (shrA s.mach n) 61 60)])) := by
    unfold repairRequest
    dsimp only
    rw [if_neg, flt_bumpAo, if_neg (by simp [hnew]), if_neg (by omega)]
    · rfl
    · simp only [hon, hin, hstack, hpois, hdead, Bool.true_eq_false, Bool.false_eq_true, ne_eq, not_true_eq_false, or_false, false_or]
      omega
  have hshr : shrB (bumpAo s.mach 0 4 1) n = shrB s.mach n := by
    refine rg_bumpAo_other ?_ _ _
    have := n.isLt
    simp only [RegRef.addr, RegName.info, Blk.base, dieBase, barnDieId]
    omega
  have hkept := repairsKept_repairGo (s := setRepairs (bumpAo s.mach 0 4 1) ((bumpAo s.mach 0 4 1).flt.repairs ++
      [newRepair ((s.mach.cfg.grnBase + (fld (shrA s.mach n) 22 0 * 65536 + line * 64)) / 64)
        (fld (shrB (bumpAo s.mach 0 4 1) n) 61 0 + line * 64) (fld (shrA s.mach n) 61 60)]))
    (by rw [queued_setRepairs, repairs_setRepairs])
  rw [← heq, flt_bumpAo, hshr] at hkept
  obtain ⟨hasked, hmem, -, hqueued⟩ := hkept
  have hlen := length_of_asked hasked
  rw [repairs_setRepairs, List.length_append, List.length_singleton] at hlen
  rw [queued_setRepairs, List.length_append, List.length_singleton, Nat.mod_eq_of_lt (by omega)] at hqueued
  refine ⟨_, rfl, hlen, hqueued, hmem.trans ((mem_setRepairs _ _).trans (mem_of_units (units_bumpAo _ _ _ _))), ?_⟩
  have hlast : ((s.mach.cfg.grnBase + (fld (shrA s.mach n) 22 0 * 65536 + line * 64)) / 64, fld (shrB s.mach n) 61 0 + line * 64) ∈
      asked (repairRequest s.mach k n line) := by
    rw [hasked]
    unfold asked
    rw [repairs_setRepairs, List.map_append]
    exact List.mem_append_right _ (List.mem_singleton.2 rfl)
  obtain ⟨x, hx, hpair⟩ := List.mem_map.1 hlast
  exact ⟨x, hx, congrArg Prod.fst hpair, congrArg Prod.snd hpair⟩

theorem ends_repairRequest_off {k : Fin 12} {n : Fin 32} {line : Nat} (hoff : bit (shrA s.mach n) 63 = false) :
    Ends (.repairRequest k n line) s (fun m => m = s.mach) := ⟨_, rfl, if_pos (Or.inl hoff)⟩

/-- A request whose golden read failed, to be read again at `t` (R533). -/
def Repair.retried (r : Repair) (t : Nat) : Repair :=
  { r with reading := false, answer := none, retries := r.retries + 1, retryAt := some t }

/-- A request whose golden copy is not at another node. -/
theorem away_false (s : Mach) (h : r.gkind = 1) : (decide (r.gkind = 2) && decide (r.gold / 2 ^ 48 ≠ s.route.nodeId)) = false := by
  rw [h]
  rfl

theorem ends_repairRead_failed (hq : s.mach.flt.repairs = r :: l) (hreading : r.reading = true) (hkind : r.gkind = 1)
    (hretries : r.retries < 3) :
    Ends (.repairReadReturn true) s (fun m => m.mem = s.mach.mem ∧ ∃ q : Repair, m.flt.repairs = q :: l ∧ q.line = r.line ∧
      q.reading = false ∧ q.retries = r.retries + 1 ∧
      q.retryAt = some (s.mach.now + max 1 (rf s.mach .FLT_CFG 0 0 23 16) * 65536 * Config.acyc)) := by
  have heq : repairReadReturn s.mach true = setRepairs s.mach
      (r.retried (s.mach.now + max 1 (rf s.mach .FLT_CFG 0 0 23 16) * 65536 * Config.acyc) :: l) := by
    unfold repairReadReturn
    rw [hq]
    dsimp only
    rw [if_neg (by simp [hreading]), away_false _ hkind]
    exact if_pos hretries
  refine ⟨_, rfl, ?_⟩
  dsimp only
  rw [heq, mem_setRepairs, repairs_setRepairs]
  exact ⟨rfl, _, rfl, rfl, rfl, rfl, rfl⟩

theorem ends_repairRead {bs : List Byte} {t : Mach} {n : Fin 32} (hq : s.mach.flt.repairs = r :: l) (hreading : r.reading = true)
    (hkind : r.gkind = 1) (hread : readAs s.mach 0x1BE none 0 (r.gold % 2 ^ 48) 64 = (some (bs, false), t))
    (hshr : shrOf t (r.line * 64 - t.cfg.grnBase) = some n.val) (hlocked : bit (shrA t n) 62 = true) :
    Ends (.repairReadReturn false) s (fun m => m.flt.repairs = { r with reading := false, written := true, answer := none } :: l ∧
      m.mem = (homeWrite (countBytes t (r.line * 64) 64 .write ownPkg) r.line (itemLine bs) fullMask false).mem) := by
  have heq : repairReadReturn s.mach false = setRepairs (homeWrite (countBytes t (r.line * 64) 64 .write ownPkg) r.line (itemLine bs) fullMask
      false) ({ r with reading := false, written := true, answer := none } :: l) := by
    unfold repairReadReturn
    rw [hq]
    dsimp only
    rw [if_neg (by simp [hreading]), away_false _ hkind, hread]
    show writeGolden t r l (itemLine bs) = _
    unfold writeGolden
    dsimp only
    rw [hshr]
    exact if_pos hlocked
  refine ⟨_, rfl, ?_⟩
  dsimp only
  rw [heq, mem_setRepairs, repairs_setRepairs]
  exact ⟨rfl, rfl⟩

theorem ends_repairRetry {t : Nat} (hq : s.mach.flt.repairs = r :: l) (hat : r.retryAt = some t) :
    Ends .repairRetry s (fun m => t ≤ m.now ∧ m.mem = s.mach.mem ∧ ∃ q : Repair, m.flt.repairs = q :: l ∧ q.line = r.line ∧
      q.reading = true ∧ q.retryAt = none) := by
  obtain ⟨u, a, heq, -, hmem, hnow⟩ := readGolden_eq (advanceTo s.mach t) { r with retryAt := none } l
  have hretry : repairRetry s.mach = readGolden (advanceTo s.mach t) { r with retryAt := none } l := by
    unfold repairRetry
    rw [hq]
    dsimp only
    rw [hat]
  refine ⟨_, rfl, ?_⟩
  dsimp only
  rw [hretry, heq, mem_setRepairs, now_setRepairs, repairs_setRepairs, hnow, hmem]
  exact ⟨Nat.le_max_right _ _, rfl, _, rfl, rfl, rfl, rfl⟩

theorem ends_repairReadback (hq : s.mach.flt.repairs = r :: l) (hwritten : r.written = true) (hlen : l.length < 2 ^ 16) :
    Ends (.repairReadback true) s (fun m => m.flt.repairs.length = l.length ∧ rf m .FLT_REPAIR 0 0 63 48 = l.length ∧
      rf m .FLT_REPAIR 0 0 47 32 = sat 16 (rf s.mach .FLT_REPAIR 0 0 47 32 + 1) ∧ m.mem = s.mach.mem) := by
  obtain ⟨t, ht, heq⟩ : ∃ t, t = raise (bump (setRepairs s.mach l) .FLT_REPAIR 0 0 47 32 1)
      (mkRec (bump (setRepairs s.mach l) .FLT_REPAIR 0 0 47 32 1) 5 1 0x11 0x7F 0 (r.line * 64) (r.line * 64 / 2 ^ 16)) ∧
      repairReadback s.mach true = repairGo t := by
    refine ⟨_, rfl, ?_⟩
    unfold repairReadback
    rw [hq]
    dsimp only
    rw [if_neg (by simp [hwritten]), if_pos rfl]
    rfl
  have hreg : rg t .FLT_REPAIR 0 0 = rg (bump (setRepairs s.mach l) .FLT_REPAIR 0 0 47 32 1) .FLT_REPAIR 0 0 := by
    rw [ht]
    exact rg_raise_hub _ rfl _ _ _
  have hrepairs : t.flt.repairs = l := by
    rw [ht, raise_only]
    dsimp only
    rw [flt_bump, repairs_setRepairs]
  have hqueued : rf t .FLT_REPAIR 0 0 63 48 = l.length % 2 ^ 16 := by
    unfold rf
    rw [hreg]
    exact (rf_wf_other _ .FLT_REPAIR 0 0 47 32 _ 63 48 (by decide) (Or.inr (by decide))).trans (queued_setRepairs _ _)
  have hdone : rf t .FLT_REPAIR 0 0 47 32 = sat 16 (rf s.mach .FLT_REPAIR 0 0 47 32 + 1) := by
    unfold rf
    rw [hreg]
    refine (rf_bump (setRepairs s.mach l) .FLT_REPAIR 0 0 47 32 1 (by decide) (by decide)).trans ?_
    rw [rf_setRepairs_below _ _ (by decide)]
    rfl
  have hmem : t.mem = s.mach.mem := by
    rw [ht]
    exact (mem_of_units ((units_raise _ _).trans (units_bump _ _ _ _ _ _ _))).trans (mem_setRepairs _ _)
  have hkept := repairsKept_repairGo (s := t) (by rw [hqueued, hrepairs])
  obtain ⟨hasked, hmem', hdone', hqueued'⟩ := hkept
  refine ⟨_, rfl, ?_⟩
  dsimp only
  rw [heq, length_of_asked hasked, hrepairs, hqueued', hqueued, hdone', hdone, hmem', hmem]
  exact ⟨rfl, Nat.mod_eq_of_lt hlen, rfl, rfl⟩

end

/-- Settles O56. -/
theorem repairsRun : Obligations.RepairsRun :=
  ⟨fun _ _ _ _ hon hkind hin hstack hpois hdead hnew hroom => ends_repairRequest hon hkind hin hstack hpois hdead hnew hroom,
    fun _ _ _ _ hoff => ends_repairRequest_off hoff,
    fun _ _ _ hq hreading hkind hretries => ends_repairRead_failed hq hreading hkind hretries,
    fun _ _ _ _ _ _ hq hreading hkind hread hshr hlocked => ends_repairRead hq hreading hkind hread hshr hlocked,
    fun _ _ _ _ hq hat => ends_repairRetry hq hat,
    fun _ _ _ hq hwritten hlen => ends_repairReadback hq hwritten hlen⟩

end Sys2Proof.Machine
end

section
/-! Droop, the power alert and the thermal trip (R512 to R515, R523). -/

namespace Sys2Proof.Machine

/-! ### Clocks of dies changed -/

theorem getClk_modClk_other (s : Mach) {d e : Nat} (h : e ≠ d) (f : DieClk → DieClk) : getClk (modClk s d f) e = getClk s e :=
  vget_vmod_other _ _ _ _ _ h

theorem getClk_of_clk {s t : Mach} (h : s.clk = t.clk) (d : Nat) : getClk s d = getClk t d := by
  unfold getClk
  rw [h]

theorem getClk_of_units {s t : Mach} (h : s.units = t.units) (d : Nat) : getClk s d = getClk t d := getClk_of_clk (clk_of_units h) d

theorem now_modBay (s : Mach) (b : Nat) (f : Bay → Bay) : (modBay s b f).now = s.now := modBay_now s b f

theorem shift_keeps {β : Type} {g : Mach → β} (hbay : ∀ (s : Mach) (b : Nat) (f : Bay → Bay), g (modBay s b f) = g s)
    (s : Mach) (b k : Nat) (n : Int) : g (shiftUnits (shiftSlots s b k n) b k n) = g s := (hbay _ _ _).trans (hbay _ _ _)

/-- A change of a die's clock, and in a fallow frame of what its bays do next, leaves the rest. -/
theorem reclock_keeps {β : Type} {g : Mach → β} (hbay : ∀ (s : Mach) (b : Nat) (f : Bay → Bay), g (modBay s b f) = g s)
    (s : Mach) (d : Nat) (f : DieClk → DieClk) : g (reclock s d f) = g (modClk s d f) := by
  unfold reclock
  dsimp only
  exact iteInduction (motive := fun m : Mach => g m = g (modClk s d f))
    (fun _ => foldS_keeps g _ _ _ fun t b => shift_keeps hbay t b _ _) fun _ => rfl

theorem getClk_reclock (s : Mach) (d : CompDie) (f : DieClk → DieClk) : getClk (reclock s d f) d = f (getClk s d) :=
  (reclock_keeps (g := (getClk · d)) (fun _ _ _ => rfl) s d f).trans (getClk_modClk s d f)

theorem getClk_reclock_other (s : Mach) {d e : Nat} (h : e ≠ d) (f : DieClk → DieClk) : getClk (reclock s d f) e = getClk s e :=
  (reclock_keeps (g := (getClk · e)) (fun _ _ _ => rfl) s d f).trans (getClk_modClk_other s h f)

theorem csr_reclock (s : Mach) (d : Nat) (f : DieClk → DieClk) : (reclock s d f).csr = s.csr :=
  reclock_keeps (g := Mach.csr) (fun _ _ _ => rfl) s d f
theorem now_reclock (s : Mach) (d : Nat) (f : DieClk → DieClk) : (reclock s d f).now = s.now :=
  reclock_keeps (g := Mach.now) (fun _ _ _ => rfl) s d f
theorem mem_reclock (s : Mach) (d : Nat) (f : DieClk → DieClk) : (reclock s d f).mem = s.mem :=
  reclock_keeps (g := Mach.mem) (fun _ _ _ => rfl) s d f
theorem pins_reclock (s : Mach) (d : Nat) (f : DieClk → DieClk) : (reclock s d f).pins = s.pins :=
  reclock_keeps (g := Mach.pins) (fun _ _ _ => rfl) s d f

/-! ### Suppressed edges counted (R512) -/

/-- Edges counted as suppressed on a die: its clock's counts, PWR_LDROOP, and the event of each bay there. -/
def dropsCounted (s : Mach) (d n : Nat) : Mach :=
  let t := bump (modClk s d (fun c => { c with dropped := c.dropped + n, frameSupp := c.frameSupp + n })) .PWR_LDROOP d 0 63 32 n
  foldS ((dieBays d).filter (bayPresent t)) (fun t b => countEv t b 0x18 n) t

theorem pins_of_units {s t : Mach} (h : s.units = t.units) : s.pins = t.pins := by
  have e := congrArg Mach.pins h
  exact e

theorem countDropped_cases (s : Mach) (d : Nat) (all : Bool) : countDropped s d all = s ∨ ∃ n, countDropped s d all = dropsCounted s d n := by
  unfold countDropped
  dsimp only
  generalize (if all = true then (getClk s d).supp else min (getClk s d).supp ((s.now - (getClk s d).epoch) / period (getClk s d))) -
    (getClk s d).dropped = n
  split
  · exact Or.inl rfl
  · exact Or.inr ⟨n, rfl⟩

/-- What neither a clock's counts nor an event changes stays. -/
theorem countDropped_keeps {β : Type} {g : Mach → β} {d : Nat} (hclk : ∀ (s : Mach) (f : DieClk → DieClk), g (modClk s d f) = g s)
    (hdroop : ∀ (s : Mach) (n : Nat), g (bump s .PWR_LDROOP d 0 63 32 n) = g s)
    (hev : ∀ (s : Mach) (b n : Nat), b ∈ dieBays d → g (countEv s b 0x18 n) = g s) (s : Mach) (all : Bool) :
    g (countDropped s d all) = g s := by
  rcases countDropped_cases s d all with h | ⟨n, h⟩
  · rw [h]
  · rw [h]
    unfold dropsCounted
    dsimp only
    rw [foldS_keeps_of_mem g _ _ _ fun t b hb => hev t b n (List.mem_of_mem_filter hb), hdroop, hclk]

theorem now_countDropped (s : Mach) (d : Nat) (all : Bool) : (countDropped s d all).now = s.now :=
  countDropped_keeps (g := Mach.now) (fun _ _ => rfl) (fun s _ => now_bump s _ _ _ _ _ _) (fun s b n _ => now_countEv s b _ n) s all

theorem pins_countDropped (s : Mach) (d : Nat) (all : Bool) : (countDropped s d all).pins = s.pins :=
  countDropped_keeps (g := Mach.pins) (fun _ _ => rfl) (fun s _ => pins_of_units (units_bump s _ _ _ _ _ _))
    (fun s b n _ => pins_of_units (units_countEv s b _ n)) s all

theorem mem_countDropped (s : Mach) (d : Nat) (all : Bool) : (countDropped s d all).mem = s.mem :=
  mem_of_seen (seen_countDropped (addr_lstat_mod 0) s d all)

theorem getClk_countDropped_other (s : Mach) {d e : Nat} (h : e ≠ d) (all : Bool) : getClk (countDropped s d all) e = getClk s e :=
  countDropped_keeps (g := (getClk · e)) (fun s f => getClk_modClk_other s h f) (fun s _ => getClk_of_units (units_bump s _ _ _ _ _ _) e)
    (fun s b n _ => getClk_of_units (units_countEv s b _ n) e) s all

theorem lt_of_mem_dieBays {d : CompDie} {b : Nat} (h : b ∈ dieBays d) : b < 72 := by
  obtain ⟨i, hi, rfl⟩ := List.mem_map.1 h
  have := List.mem_range.1 hi
  have := d.isLt
  omega

/-- A register that counts no event stays but for PWR_LDROOP of the die. -/
theorem rg_countDropped {n : RegName} {u i : Nat} (h : Uncounted (RegRef.addr ⟨n, u, i⟩)) {d : CompDie}
    (hne : RegRef.addr ⟨n, u, i⟩ ≠ RegRef.addr ⟨.PWR_LDROOP, d, 0⟩) (s : Mach) (all : Bool) : rg (countDropped s d all) n u i = rg s n u i :=
  countDropped_keeps (g := (rg · n u i)) (fun _ _ => rfl) (fun _ _ => rg_wr_other _ _ _ _ _ _ _ _ hne)
    (fun s b m hb => rg_countEv_of_uncounted h s ⟨b, lt_of_mem_dieBays hb⟩ _ m) s all

theorem addr_ldroop_mod (d : Nat) : RegRef.addr ⟨.PWR_LDROOP, d, 0⟩ % 0x200000 = 0x102020 := by
  simp only [RegRef.addr, RegName.info, Blk.base, dieBase]
  omega

theorem addr_ldroop_ge (d : Nat) : 0x800000 ≤ RegRef.addr ⟨.PWR_LDROOP, d, 0⟩ := by
  simp only [RegRef.addr, RegName.info, Blk.base, dieBase, compDieId]
  split <;> omega

theorem addr_almLstat_ge (d : Nat) : 0x800000 ≤ RegRef.addr ⟨.ALM_LSTAT, d, 0⟩ := by
  simp only [RegRef.addr, RegName.info, Blk.base, dieBase, compDieId]
  split <;> omega

theorem addr_almLstat_mod (d : Nat) : RegRef.addr ⟨.ALM_LSTAT, d, 0⟩ % 0x200000 ≠ 0x102020 := by
  simp only [RegRef.addr, RegName.info, Blk.base, dieBase]
  omega

theorem uncounted_ldroop (d : Nat) : Uncounted (RegRef.addr ⟨.PWR_LDROOP, d, 0⟩) := by
  have := addr_ldroop_mod d
  have := addr_ldroop_ge d
  constructor <;> omega

theorem eventless_ldroop (d : Nat) : Eventless (RegRef.addr ⟨.PWR_LDROOP, d, 0⟩) := by
  have hmod := addr_ldroop_mod d
  have hge := addr_ldroop_ge d
  refine ⟨fun h => ?_, fun die h => ?_⟩
  · rw [h] at hge
    exact absurd hge (by decide)
  · rw [h] at hmod
    simp only [RegRef.addr, RegName.info, Blk.base] at hmod
    omega

/-- The counts of trips and escalations share PWR_LDROOP with the count of edges. -/
theorem rf_countDropped (s : Mach) (d : CompDie) (all : Bool) (hi lo : Nat) (h : hi < 32) :
    rf (countDropped s d all) .PWR_LDROOP d 0 hi lo = rf s .PWR_LDROOP d 0 hi lo :=
  countDropped_keeps (g := (rf · .PWR_LDROOP d 0 hi lo)) (fun _ _ => rfl)
    (fun s _ => rf_wf_other _ _ _ _ _ _ _ _ _ (by decide) (Or.inl h))
    (fun s b m hb => congrArg (fld · hi lo) (rg_countEv_of_uncounted (uncounted_ldroop d) s ⟨b, lt_of_mem_dieBays hb⟩ _ m)) s all

/-! ### Droop (R512) -/

/-- The clock of a die that has just tripped, at its edge `j` after the epoch. -/
def DieClk.tripped (j : Nat) (c : DieClk) : DieClk :=
  if c.supp ≤ j then
    { c with epoch := c.epoch + (j + 1) * period c, edges0 := c.edges0 + (j + 1 - c.supp), supp := 64, dropped := 0, droop := true }
  else { c with supp := max c.supp (j + 65), droop := true }

theorem DieClk.droop_tripped (j : Nat) (c : DieClk) : (c.tripped j).droop = true := by
  unfold DieClk.tripped
  split <;> rfl

theorem ends_droopTrip {s : State} {d : CompDie} (hdroop : (getClk s.mach d).droop = false) (hstop : (getClk s.mach d).stopped = false) :
    Ends (.droopTrip d) s (fun m => (getClk m d).droop = true ∧ m.now = s.mach.now ∧ m.mem = s.mach.mem ∧
      rf m .PWR_LDROOP d 0 31 16 = sat 16 (rf s.mach .PWR_LDROOP d 0 31 16 + 1) ∧
      ∀ e : CompDie, e ≠ d → getClk m e = getClk s.mach e) := by
  let j := (s.mach.now - (getClk s.mach d).epoch) / period (getClk s.mach d)
  have heq : droopTrip s.mach d = reclock (countDropped (bump s.mach .PWR_LDROOP d 0 31 16 1) d true) d (DieClk.tripped j) :=
    if_neg (by simp [hdroop, hstop])
  refine ⟨_, rfl, ?_⟩
  dsimp only
  rw [heq]
  refine ⟨?_, ?_, ?_, ?_, fun e he => ?_⟩
  · rw [getClk_reclock, DieClk.droop_tripped]
  · rw [now_reclock, now_countDropped, now_bump]
  · rw [mem_reclock, mem_countDropped]
    exact mem_of_units (units_bump _ _ _ _ _ _ _)
  · have hrf : rf (reclock (countDropped (bump s.mach .PWR_LDROOP d 0 31 16 1) d true) d (DieClk.tripped j)) .PWR_LDROOP d 0 31 16 =
        rf (countDropped (bump s.mach .PWR_LDROOP d 0 31 16 1) d true) .PWR_LDROOP d 0 31 16 :=
      congrArg (fld · 31 16) (rg_of_csr (csr_reclock _ _ _) _ _ _)
    rw [hrf, rf_countDropped _ _ _ _ _ (by decide)]
    exact rf_bump _ _ _ _ _ _ _ (by decide) (by decide)
  · have hne : e.val ≠ d.val := fun h => he (Fin.ext h)
    rw [getClk_reclock_other _ hne, getClk_countDropped_other _ hne]
    exact getClk_of_units (units_bump _ _ _ _ _ _ _) e

/-- The counts of a clock leave whether its die is tripped. -/
theorem droop_countDropped (s : Mach) (d : CompDie) (all : Bool) : (getClk (countDropped s d all) d).droop = (getClk s d).droop :=
  countDropped_cases s d all |>.elim (fun h => by rw [h]) fun ⟨n, h⟩ => by
    rw [h]
    unfold dropsCounted
    dsimp only
    rw [foldS_keeps (getClk · d) _ _ _ fun t b => getClk_of_units (units_countEv t b _ n) d,
      getClk_of_units (units_bump _ _ _ _ _ _ _) d, getClk_modClk]

theorem ends_droopClear {s : State} {d : CompDie} (hdroop : (getClk s.mach d).droop = true) :
    Ends (.droopClear d) s (fun m => (getClk m d).droop = false ∧ m.now = s.mach.now ∧ m.mem = s.mach.mem ∧
      ∀ e : CompDie, e ≠ d → getClk m e = getClk s.mach e) := by
  have heq : ∃ j, droopClear s.mach d = countDropped (reclock s.mach d (fun c => { c with supp := min c.supp j, droop := false })) d true :=
    ⟨_, if_neg (by simp [hdroop])⟩
  obtain ⟨j, heq⟩ := heq
  refine ⟨_, rfl, ?_⟩
  dsimp only
  rw [heq]
  refine ⟨?_, ?_, ?_, fun e he => ?_⟩
  · rw [droop_countDropped, getClk_reclock]
  · rw [now_countDropped, now_reclock]
  · rw [mem_countDropped, mem_reclock]
  · have hne : e.val ≠ d.val := fun h => he (Fin.ext h)
    rw [getClk_countDropped_other _ hne, getClk_reclock_other _ hne]

/-! ### Emergency division (R65, R514) -/

/-- A die's clock divided by `k` from its next edge on, and the registers that show it. -/
def divided (s : Mach) (d : Nat) (c : DieClk) : Mach :=
  let e := edgeAfter c (countDropped s d true).now
  let k := ceilDiv c.gear 4
  let t := reclock (countDropped s d true) d (fun x => { x with epoch := edgeTick x e, edges0 := e, div := k, supp := 0, dropped := 0 })
  bump (wb (wb (wf t .PWR_LSTAT d 0 27 25 k) .ALM_LSTAT d 0 5 false) .ALM_LSTAT d 0 6 true) .ALM_LSTAT d 0 31 16 1

theorem divide_eq (s : Mach) (d : Nat) : divide s d = (if (getClk s d).stopped ∨ (getClk s d).div ≠ 0 ∨ (getClk s d).gear ≤ 4 then
    wb s .PWR_LSTAT d 0 24 true else divided (wb s .PWR_LSTAT d 0 24 true) d (getClk s d)) := by
  unfold divide divided
  rfl

/-- What no clock, event or register of the die changes is not changed by its division. -/
theorem divide_keeps {β : Type} {g : Mach → β} (hcsr : OffCsr g) (hclk : ∀ (s : Mach) (d : Nat) (f : DieClk → DieClk), g (modClk s d f) = g s)
    (hbay : ∀ (s : Mach) (b : Nat) (f : Bay → Bay), g (modBay s b f) = g s) (hev : ∀ (s : Mach) (b n : Nat), g (countEv s b 0x18 n) = g s)
    (s : Mach) (d : Nat) : g (divide s d) = g s := by
  rw [divide_eq]
  refine iteInduction (motive := fun m : Mach => g m = g s) (fun _ => hcsr.wb _ _ _ _ _ _) fun _ => ?_
  unfold divided
  dsimp only
  rw [hcsr.bump, hcsr.wb, hcsr.wb, hcsr.wf, reclock_keeps hbay, hclk,
    countDropped_keeps (fun s f => hclk s d f) (fun s n => hcsr.bump s _ _ _ _ _ _) (fun s b n _ => hev s b n), hcsr.wb]

theorem now_divide (s : Mach) (d : Nat) : (divide s d).now = s.now :=
  divide_keeps (g := Mach.now) (fun _ _ => rfl) (fun _ _ _ => rfl) (fun _ _ _ => rfl) (fun s b n => now_countEv s b _ n) s d
theorem pins_divide (s : Mach) (d : Nat) : (divide s d).pins = s.pins :=
  divide_keeps (g := Mach.pins) (fun _ _ => rfl) (fun _ _ _ => rfl) (fun _ _ _ => rfl) (fun s b n => pins_of_units (units_countEv s b _ n)) s d

theorem rg_reclock (s : Mach) (d : Nat) (f : DieClk → DieClk) (n : RegName) (u i : Nat) : rg (reclock s d f) n u i = rg s n u i :=
  rg_of_csr (csr_reclock s d f) n u i

/-- A register of no die, and no counter, stays when a die is divided. -/
theorem rg_divide {n : RegName} {u i : Nat} (h : Uncounted (RegRef.addr ⟨n, u, i⟩)) (hhub : RegRef.addr ⟨n, u, i⟩ < 0x800000) (s : Mach)
    (d : CompDie) : rg (divide s d) n u i = rg s n u i := by
  have hl (t : Mach) (hi lo v : Nat) : rg (wf t .PWR_LSTAT d 0 hi lo v) n u i = rg t n u i :=
    rg_wf_apart (addr_lstat_ne_hub d hhub).symm t hi lo v
  have ha (t : Mach) (hi lo v : Nat) : rg (wf t .ALM_LSTAT d 0 hi lo v) n u i = rg t n u i :=
    rg_wf_apart (by have := addr_almLstat_ge d; omega) t hi lo v
  have hwb (t : Mach) (v : Bool) : rg (wb t .PWR_LSTAT d 0 24 v) n u i = rg t n u i := hl t 24 24 _
  rw [divide_eq]
  refine iteInduction (motive := fun m : Mach => rg m n u i = rg s n u i) (fun _ => hwb s true) fun _ => ?_
  unfold divided bump wb
  dsimp only
  rw [ha, ha, ha, hl, rg_reclock, rg_countDropped h (by have := addr_ldroop_ge d; omega), hl]

theorem lstat_reclock (s : Mach) (d : Nat) (f : DieClk → DieClk) (e : Nat) : lstat (reclock s d f) e = lstat s e := rg_reclock s d f _ _ _

theorem lstat_countDropped (s : Mach) (d : Nat) (all : Bool) (e : Nat) : lstat (countDropped s d all) e = lstat s e :=
  lstat_of_seen (seen_countDropped (addr_lstat_mod e) s d all)

theorem lstat_wf_alm (s : Mach) (d hi lo v e : Nat) : lstat (wf s .ALM_LSTAT d 0 hi lo v) e = lstat s e :=
  lstat_of_seen (seen_wf_window (addr_lstat_mod e) (addr_almLstat_window d) s hi lo v)

theorem lstat_divided (s : Mach) (d : Nat) (c : DieClk) : lstat (divided s d c) d = setFld (lstat s d) 27 25 (ceilDiv c.gear 4) := by
  unfold divided bump wb
  dsimp only
  rw [lstat_wf_alm, lstat_wf_alm, lstat_wf_alm, lstat_wf, lstat_reclock, lstat_countDropped]

theorem lstat_divide_other (s : Mach) {d e : Nat} (h : e ≠ d) : lstat (divide s d) e = lstat s e := by
  have hwb : lstat (wb s .PWR_LSTAT d 0 24 true) e = lstat s e := lstat_wf_other s h 24 24 _
  rw [divide_eq]
  refine iteInduction (motive := fun m : Mach => lstat m e = lstat s e) (fun _ => hwb) fun _ => ?_
  unfold divided bump
  dsimp only
  rw [lstat_wf_alm, wb, lstat_wf_alm, wb, lstat_wf_alm, lstat_wf_other _ h, lstat_reclock, lstat_countDropped, hwb]

theorem emerg_divide (s : Mach) (d : Nat) : bit (lstat (divide s d) d) 24 = true := by
  have hset : bit (lstat (wb s .PWR_LSTAT d 0 24 true) d) 24 = true := rb_wb s .PWR_LSTAT d 0 24 true (by decide)
  rw [divide_eq]
  refine iteInduction (motive := fun m : Mach => bit (lstat m d) 24 = true) (fun _ => hset) fun _ => ?_
  rw [lstat_divided, bit_setFld_other _ _ _ _ _ (by decide) (by decide), hset]

theorem emerg_divideAll (s : Mach) (d : CompDie) : bit (lstat (foldS allDies divide s) d) 24 = true :=
  lstat_foldS (Q := fun _ _ w => bit w 24 = true) (fun u _ _ h => lstat_divide_other u h) emerg_divide nodup_allDies (mem_allDies d) s

theorem rf_divide (s : Mach) (d : CompDie) (hi lo : Nat) (h : hi < 32) : rf (divide s d) .PWR_LDROOP d 0 hi lo = rf s .PWR_LDROOP d 0 hi lo := by
  have hmod := addr_ldroop_mod d
  have hl (t : Mach) (h' l v : Nat) : rf (wf t .PWR_LSTAT d 0 h' l v) .PWR_LDROOP d 0 hi lo = rf t .PWR_LDROOP d 0 hi lo :=
    congrArg (fld · hi lo) (rg_wf_apart (by have := addr_lstat_mod d; omega) t h' l v)
  have ha (t : Mach) (h' l v : Nat) : rf (wf t .ALM_LSTAT d 0 h' l v) .PWR_LDROOP d 0 hi lo = rf t .PWR_LDROOP d 0 hi lo :=
    congrArg (fld · hi lo) (rg_wf_apart (by have := addr_almLstat_mod d; omega) t h' l v)
  have hr (t : Mach) (f : DieClk → DieClk) : rf (reclock t d f) .PWR_LDROOP d 0 hi lo = rf t .PWR_LDROOP d 0 hi lo :=
    congrArg (fld · hi lo) (rg_reclock t d f _ _ _)
  rw [divide_eq]
  refine iteInduction (motive := fun m : Mach => rf m .PWR_LDROOP d 0 hi lo = rf s .PWR_LDROOP d 0 hi lo) (fun _ => hl _ _ _ _) fun _ => ?_
  unfold divided bump wb
  dsimp only
  rw [ha, ha, ha, hl, hr, rf_countDropped _ _ _ _ _ h, hl]

theorem div_divide (s : Mach) (d : CompDie) (hstop : (getClk s d).stopped = false) (hdiv : (getClk s d).div = 0) (hgear : 4 < (getClk s d).gear) :
    (getClk (divide s d) d).div = ceilDiv (getClk s d).gear 4 := by
  rw [divide_eq, if_neg (by simp only [hstop, hdiv]; simp; omega)]
  unfold divided
  dsimp only
  rw [getClk_of_units (units_bump _ _ _ _ _ _ _), getClk_wb, getClk_wb, getClk_of_units (units_wf _ _ _ _ _ _ _), getClk_reclock]

/-! ### Escalation (R513) -/

theorem clk_pwrEvent (s : Mach) (k : Nat) (d : Option Nat) : (pwrEvent s k d).clk = s.clk := by
  cases hk : rb s .PWR_EVENTS 0 0 k
  · obtain ⟨r, items, heq⟩ := pwrEvent_of_clear hk d
    rw [heq, raise_only, wb, wf, wr]
    rfl
  · rw [pwrEvent_of_set hk]

/-- The tick of an escalation is kept until the die leaves it (R515). -/
def escalated (s : Mach) (d : Nat) : Mach := modPwr s (fun p => { p with emerg := smapPut none p.emerg d (some s.now) })

theorem rg_escalated (s : Mach) (d : Nat) (n : RegName) (u i : Nat) : rg (escalated s d) n u i = rg s n u i := rfl
theorem getClk_escalated (s : Mach) (d e : Nat) : getClk (escalated s d) e = getClk s e := rfl

theorem ends_droopEsc {s : State} {d : CompDie} {t : Mach} (ht : countDropped s.mach d false = t)
    (hn : rf t .PWR_LCFG d 0 31 16 ≠ 0) (hlt : rf t .PWR_LCFG d 0 31 16 < (getClk t d).frameSupp) (hemerg : inEmerg t d = false)
    (hstop : (getClk t d).stopped = false) (hdiv : (getClk t d).div = 0) (hgear : 4 < (getClk t d).gear) :
    Ends (.droopEsc d) s (fun m => inEmerg m d = true ∧ (getClk m d).div = ceilDiv (getClk t d).gear 4 ∧
      rf m .PWR_LDROOP d 0 15 0 = sat 16 (rf t .PWR_LDROOP d 0 15 0 + 1) ∧ rb m .PWR_EVENTS 0 0 3 = true) := by
  have heq : droopEsc s.mach d = escalated (pwrEvent (bump (divide t d) .PWR_LDROOP d 0 15 0 1) 3 (some d)) d := by
    unfold droopEsc
    rw [ht]
    exact if_pos ⟨hn, hlt, hemerg⟩
  refine ⟨_, rfl, ?_⟩
  dsimp only
  rw [heq]
  generalize hu : bump (divide t d) .PWR_LDROOP d 0 15 0 1 = u
  have hlstat : lstat u d = lstat (divide t d) d := by
    rw [← hu]
    exact rg_wf_apart (by have := addr_lstat_mod d; have := addr_ldroop_mod d; omega) _ _ _ _
  refine ⟨?_, ?_, ?_, (congrArg (bit · 3) (rg_escalated _ _ _ _ _)).trans (rb_pwrEvent u (by decide) _)⟩
  · exact (congrArg (bit · 24) ((rg_escalated _ _ _ _ _).trans <| (lstat_of_seen (seen_pwrEvent (eventless_lstat d) u 3 _)).trans hlstat)).trans (emerg_divide t d)
  · rw [getClk_escalated, getClk_of_clk (clk_pwrEvent u 3 _), ← hu, getClk_of_units (units_bump _ _ _ _ _ _ _), div_divide t d hstop hdiv hgear]
  · refine (congrArg (fld · 15 0) (rg_escalated _ _ _ _ _)).trans <| (rf_of_seen (seen_pwrEvent (eventless_ldroop d) u 3 _) 15 0).trans ?_
    rw [← hu, rf_bump _ _ _ _ _ _ _ (by decide) (by decide), rf_divide _ _ _ _ (by decide)]

/-! ### The alert (R514) -/

theorem now_pwrEvent (s : Mach) (k : Nat) (d : Option Nat) : (pwrEvent s k d).now = s.now := by
  cases hk : rb s .PWR_EVENTS 0 0 k
  · obtain ⟨r, items, heq⟩ := pwrEvent_of_clear hk d
    rw [heq, raise_only, wb, wf, wr]
    rfl
  · rw [pwrEvent_of_set hk]

theorem pins_pwrEvent (s : Mach) (k : Nat) (d : Option Nat) : (pwrEvent s k d).pins = s.pins := by
  cases hk : rb s .PWR_EVENTS 0 0 k
  · obtain ⟨r, items, heq⟩ := pwrEvent_of_clear hk d
    rw [heq, raise_only, wb, wf, wr]
    rfl
  · rw [pwrEvent_of_set hk]

theorem setCaps_keeps {β : Type} {g : Mach → β} (hcsr : OffCsr g) (hclus : ∀ (s : Mach) (x : Vector Clu 12), g { s with clus := x } = g s)
    (s : Mach) (l : List Nat) : g (setCaps s l) = g s :=
  foldS_keeps g _ _ _ fun t _ => (hclus _ _).trans (hcsr.wf t _ _ _ _ _ _)

theorem rg_setCaps {n : RegName} {u i : Nat} (h : RegRef.addr ⟨n, u, i⟩ ≠ RegRef.addr ⟨.PWR_PCAP, 0, 0⟩) (s : Mach) (l : List Nat) :
    rg (setCaps s l) n u i = rg s n u i := by
  have hcap (t : Mach) (c hi lo v : Nat) : rg (retarget (wf t .PWR_PCAP 0 0 hi lo v) c) n u i = rg t n u i := rg_wf_apart h t _ _ v
  exact foldS_keeps (rg · n u i) _ _ _ fun t c => hcap t c _ _ _

/-- The regulators of all dies commanded to gear-4 voltage, and no die left to a droop escalation. -/
def regulated (s : Mach) : Mach := modPwr (foldS allDies (fun t d => setVolt t d 4) s) (fun p => { p with emerg := [] })

theorem regulated_keeps {β : Type} {g : Mach → β} (hpwr : ∀ (s : Mach) (f : Pwr → Pwr), g (modPwr s f) = g s) (s : Mach) :
    g (regulated s) = g s := (hpwr _ _).trans (foldS_keeps g _ _ _ fun t _ => hpwr t _)

/-- The alert has fallen and reached the alarm line. -/
def alerted (s : Mach) : Mach :=
  let t := { s with pins := { s.pins with alertN := false } }
  advanceTo (pwrEvent (wb (advanceTo t (t.now + 16 * Config.acyc)) .PWR_STATUS 0 0 13 true) 2 none) (s.now + 128 * Config.acyc)

theorem pins_alerted (s : Mach) : (alerted s).pins.alertN = false := by
  show (pwrEvent _ 2 none).pins.alertN = false
  rw [pins_pwrEvent]
  rfl

theorem now_wb (s : Mach) (n : RegName) (u i k : Nat) (v : Bool) : (wb s n u i k v).now = s.now := wr_now _ _ _ _ _

theorem now_alerted (s : Mach) : (alerted s).now = s.now + 128 * Config.acyc := by
  unfold alerted
  dsimp only
  rw [advanceTo_now, now_pwrEvent, now_wb, advanceTo_now]
  show max (max s.now (s.now + 16 * Config.acyc)) (s.now + 128 * Config.acyc) = _
  omega

theorem status_alerted (s : Mach) : bit (rg (alerted s) .PWR_STATUS 0 0) 13 = true := by
  have hkeep := csrAt_of_seen (seen_pwrEvent (eventless_hub (a := RegRef.addr ⟨.PWR_STATUS, 0, 0⟩) (by decide) (by decide))
    (wb (advanceTo { s with pins := { s.pins with alertN := false } } (s.now + 16 * Config.acyc)) .PWR_STATUS 0 0 13 true) 2 none)
  exact (congrArg (bit · 13) hkeep).trans (rb_wb _ .PWR_STATUS 0 0 13 true (by decide))

theorem pwrAlert_eq {s : Mach} (h : s.pins.alertN = true) :
    pwrAlert s = regulated (setCaps (foldS allDies divide (alerted s)) (List.replicate 12 5)) := by
  have hnow : (pwrEvent (wb (advanceTo { s with pins := { s.pins with alertN := false } } (s.now + 16 * Config.acyc)) .PWR_STATUS 0 0 13 true) 2
      none).now + 112 * Config.acyc = s.now + 128 * Config.acyc := by
    rw [now_pwrEvent, now_wb, advanceTo_now]
    show max s.now (s.now + 16 * Config.acyc) + 112 * Config.acyc = _
    omega
  unfold pwrAlert
  rw [if_neg (by simp [h])]
  unfold regulated alerted
  dsimp only
  rw [hnow]

theorem mem_allDies_lt {d : Nat} (h : d ∈ allDies) : d < 6 := List.mem_range.1 h

theorem ends_pwrAlert {s : State} (h : s.mach.pins.alertN = true) :
    Ends .pwrAlert s (fun m => m.pins.alertN = false ∧ rb m .PWR_STATUS 0 0 13 = true ∧ m.now = s.mach.now + 128 * Config.acyc ∧
      ∀ d : CompDie, inEmerg m d = true) := by
  refine ⟨_, rfl, ?_⟩
  dsimp only
  rw [pwrAlert_eq h]
  refine ⟨?_, ?_, ?_, fun d => ?_⟩
  · rw [regulated_keeps (g := Mach.pins) (fun _ _ => rfl), setCaps_keeps (g := Mach.pins) (fun _ _ => rfl) (fun _ _ => rfl),
      foldS_keeps Mach.pins _ _ _ pins_divide, pins_alerted]
  · have hrg : rg (regulated (setCaps (foldS allDies divide (alerted s.mach)) (List.replicate 12 5))) .PWR_STATUS 0 0 =
        rg (alerted s.mach) .PWR_STATUS 0 0 := by
      rw [regulated_keeps (g := (rg · .PWR_STATUS 0 0)) (fun _ _ => rfl), rg_setCaps (by decide)]
      exact foldS_keeps_of_mem (rg · .PWR_STATUS 0 0) _ _ _ fun t d hd =>
        rg_divide ⟨by decide, by decide⟩ (by decide) t ⟨d, mem_allDies_lt hd⟩
    exact (congrArg (bit · 13) hrg).trans (status_alerted s.mach)
  · rw [regulated_keeps (g := Mach.now) (fun _ _ => rfl), setCaps_keeps (g := Mach.now) (fun _ _ => rfl) (fun _ _ => rfl),
      foldS_keeps Mach.now _ _ _ now_divide, now_alerted]
  · have hl : lstat (regulated (setCaps (foldS allDies divide (alerted s.mach)) (List.replicate 12 5))) d =
        lstat (foldS allDies divide (alerted s.mach)) d := by
      rw [regulated_keeps (g := (lstat · d)) (fun _ _ => rfl)]
      exact lstat_of_seen (seen_setCaps (addr_lstat_mod d) _ _)
    exact (congrArg (bit · 24) hl).trans (emerg_divideAll _ d)

/-! ### Its end (R515) -/

theorem pins_raiseBay (s : Mach) (b : Nat) (r : FltRec) : (raiseBay s b r).pins = s.pins := pins_of_units (units_raiseBay s b r)

theorem pins_frameSlip (s : Mach) (d : Nat) : (frameSlip s d).pins = s.pins := by
  unfold frameSlip
  dsimp only
  refine (iteInduction (motive := fun m : Mach => m.pins = (countDropped s d false).pins) (fun _ => rfl) fun _ => ?_).trans (pins_countDropped s d false)
  exact foldS_keeps Mach.pins _ _ _ fun t b => pins_of_units ((units_slipEvent _ _ _ _ _).trans (units_slipEvent _ _ _ _ _))

theorem pins_modPwr (s : Mach) (f : Pwr → Pwr) : (modPwr s f).pins = s.pins := rfl
theorem lstat_modPwr (s : Mach) (f : Pwr → Pwr) (d : Nat) : lstat (modPwr s f) d = lstat s d := rfl
theorem pins_wf (s : Mach) (n : RegName) (u i hi lo v : Nat) : (wf s n u i hi lo v).pins = s.pins := pins_of_units (units_wf s n u i hi lo v)
theorem pins_wb (s : Mach) (n : RegName) (u i k : Nat) (v : Bool) : (wb s n u i k v).pins = s.pins := pins_of_units (units_wb s n u i k v)

theorem pins_runGear (s : Mach) (d g : Nat) : (runGear s d g).pins = s.pins := by
  unfold runGear
  dsimp only
  rw [pins_wf, pins_wf, pins_wf]
  rfl

theorem pins_reenter (s : Mach) (d : Nat) : (reenter s d).pins = s.pins := by
  unfold reenter setVolt
  dsimp only
  rw [pins_modPwr, pins_wb, pins_wb, pins_modPwr, pins_wf, pins_wb, pins_runGear, pins_frameSlip]

theorem lstat_frameSlip (s : Mach) (d e : Nat) : lstat (frameSlip s d) e = lstat s e := lstat_of_seen (seen_frameSlip (addr_lstat_mod e) s d)

theorem lstat_wb_alm (s : Mach) (d k : Nat) (v : Bool) (e : Nat) : lstat (wb s .ALM_LSTAT d 0 k v) e = lstat s e := lstat_wf_alm s d k k _ e

theorem lstat_reenter_other (s : Mach) {d e : Nat} (h : e ≠ d) : lstat (reenter s d) e = lstat s e := by
  unfold reenter setVolt
  dsimp only
  rw [lstat_modPwr, lstat_wb_alm, lstat_wb_alm, lstat_modPwr, lstat_wf_other _ h, wb, lstat_wf_other _ h]
  exact (lstat_of_seen (seen_runGear (addr_lstat_mod e) (addr_lstat_inj h) _ _)).trans (lstat_frameSlip s d e)

/-- PWR_LSTAT of a die that runs at gear 4 and is out of emergency division. -/
structure AtFour (w : Word) : Prop where
  gear : fld w 4 0 = 4
  next : fld w 23 19 = 4
  calm : bit w 24 = false

theorem atFour_reenter (s : Mach) (d : Nat) : AtFour (lstat (reenter s d) d) := by
  have heq : lstat (reenter s d) d =
      setFld (setFld (setFld (setFld (lstat s d) 4 0 4) 27 25 0) 24 24 0) 23 19 4 := by
    unfold reenter setVolt
    dsimp only
    rw [lstat_modPwr, lstat_wb_alm, lstat_wb_alm, lstat_modPwr, lstat_wf, wb, lstat_wf, lstat_runGear, lstat_frameSlip]
    rfl
  rw [heq]
  refine ⟨?_, ?_, ?_⟩
  · rw [fld_setFld_other _ _ _ _ _ _ (by decide) (by decide), fld_setFld_other _ _ _ _ _ _ (by decide) (by decide),
      fld_setFld_other _ _ _ _ _ _ (by decide) (by decide), fld_setFld_same _ _ _ _ (by decide) (by decide)]
    rfl
  · exact fld_setFld_same _ _ _ _ (by decide) (by decide)
  · rw [bit_setFld_other _ _ _ _ _ (by decide) (by decide)]
    exact bit_setBit_same _ 24 false (by decide)

/-- The dies of a list re-enter gear 4; the others stay. -/
theorem lstat_reenterAll (s : Mach) {l : List Nat} (hl : l.Nodup) (d : Nat) :
    (d ∈ l → AtFour (lstat (foldS l reenter s) d)) ∧ (d ∉ l → lstat (foldS l reenter s) d = lstat s d) :=
  ⟨fun h => lstat_foldS (Q := fun _ _ w => AtFour w) (fun u _ _ h => lstat_reenter_other u h) atFour_reenter hl h s,
    fun h => foldS_keeps_of_mem (lstat · d) _ _ _ fun t _ he => lstat_reenter_other t fun hde => h (hde ▸ he)⟩

theorem ends_alertClear {s : State} {dt : Nat} (hrun : s.mach.alm.running = true) (hlow : s.mach.pins.alertN = false) :
    Ends (.alertClear dt) s (fun m => m.pins.alertN = true ∧ rb m .PWR_STATUS 0 0 13 = false ∧
      ∀ d : CompDie, inEmerg m d = false ∧ (inEmerg s.mach d = true → gearOf m d = 4 ∧ nextGear m d = 4)) := by
  have heq : ∃ t : Mach, t.csr = s.mach.csr ∧ t.pins.alertN = true ∧
      alertClear s.mach dt = wb (foldS (allDies.filter (inEmerg t)) reenter t) .PWR_STATUS 0 0 13 false := by
    unfold alertClear
    rw [if_neg (by simp [hrun]), if_pos hlow]
    refine ⟨_, ?_, ?_, rfl⟩
    · split
      · unfold toFrameBoundary
        split <;> rfl
      · rfl
    · split
      · unfold toFrameBoundary
        split <;> rfl
      · rfl
  obtain ⟨t, hcsr, hpins, heq⟩ := heq
  refine ⟨_, rfl, ?_⟩
  dsimp only
  rw [heq]
  refine ⟨?_, rb_wb _ .PWR_STATUS 0 0 13 false (by decide), fun d => ?_⟩
  · rw [pins_wb, foldS_keeps Mach.pins _ _ _ pins_reenter, hpins]
  · have hl : lstat (wb (foldS (allDies.filter (inEmerg t)) reenter t) .PWR_STATUS 0 0 13 false) d =
        lstat (foldS (allDies.filter (inEmerg t)) reenter t) d := rg_wf_apart (addr_lstat_ne_hub d (by decide)) _ _ _ _
    have hbefore : lstat t d = lstat s.mach d := lstat_of_csr hcsr d
    obtain ⟨hin, hout⟩ := lstat_reenterAll t (nodup_allDies.filter (inEmerg t)) d
    rw [inEmerg_eq, gearOf_eq, nextGear_eq, inEmerg_eq, hl, ← hbefore]
    by_cases hd : inEmerg t d = true
    · obtain ⟨hgear, hnext, hcalm⟩ := hin (List.mem_filter.2 ⟨mem_allDies d, hd⟩)
      exact ⟨hcalm, fun _ => ⟨hgear, hnext⟩⟩
    · rw [hout fun h => hd (List.of_mem_filter h)]
      exact ⟨Bool.not_eq_true _ ▸ hd, fun h => absurd h hd⟩

/-! ### The thermal trip (R523) -/

/-- Every clock of a list of dies stopped. -/
def stopAll (l : List Nat) (s : Mach) : Mach := foldS l (fun t d => modClk t d (fun c => { c with stopped := true })) s

theorem stopped_modClk (s : Mach) (d e : CompDie) (h : d = e ∨ (getClk s e).stopped = true) :
    (getClk (modClk s d (fun c => { c with stopped := true })) e).stopped = true := by
  by_cases hde : e = d
  · subst hde
    rw [getClk_modClk]
  · rw [getClk_modClk_other s (fun hv => hde (Fin.ext hv))]
    exact h.resolve_left fun he => hde he.symm

theorem stopped_stopAll {l : List CompDie} {e : CompDie} {s : Mach} (h : e ∈ l ∨ (getClk s e).stopped = true) :
    (getClk (stopAll (l.map Fin.val) s) e).stopped = true := by
  induction l generalizing s with
  | nil => exact h.resolve_left List.not_mem_nil
  | cons d l ih =>
    refine ih (s := modClk s d (fun c => { c with stopped := true })) ?_
    rcases h with h | h
    · rcases List.mem_cons.1 h with h | h
      · exact Or.inr (stopped_modClk s d e (Or.inl h.symm))
      · exact Or.inl h
    · exact Or.inr (stopped_modClk s d e (Or.inr h))

theorem stopAll_keeps {β : Type} {g : Mach → β} (hclk : ∀ (s : Mach) (d : Nat) (f : DieClk → DieClk), g (modClk s d f) = g s) (l : List Nat)
    (s : Mach) : g (stopAll l s) = g s := foldS_keeps g _ _ _ fun t d => hclk t d _

theorem ends_thermalTrip {s : State} {die : Fin 32} (hok : s.mach.pins.pwrok = true) (hnot : s.mach.pins.thermtripN = true) :
    Ends (.thermalTrip die) s (fun m => m.pins.thermtripN = false ∧ (∀ d : CompDie, (getClk m d).stopped = true) ∧
      (∃ r, m.flt.wire = s.mach.flt.wire ++ [r] ∧ r.cls = 0xF ∧ r.sev = 3 ∧ r.die = die.val) ∧ m.bays = s.mach.bays) := by
  have heq : ∃ r : FltRec, r.cls = 0xF ∧ r.sev = 3 ∧ r.die = die.val ∧ thermalTrip s.mach die = stopAll allDies
      (raise { s.mach with pins := { s.mach.pins with thermtripN := false }, freeCtr := s.mach.freeCtr + 1 } r) := by
    unfold thermalTrip
    rw [if_neg (by simp [hok, hnot])]
    exact ⟨_, rfl, rfl, rfl, rfl⟩
  obtain ⟨r, hcls, hsev, hdie, heq⟩ := heq
  have hmap : allDies = (List.finRange 6).map Fin.val := by decide
  refine ⟨_, rfl, ?_⟩
  dsimp only
  rw [heq]
  refine ⟨?_, fun d => ?_, ⟨r, ?_, hcls, hsev, hdie⟩, ?_⟩
  · rw [stopAll_keeps (g := Mach.pins) (fun _ _ _ => rfl), raise_only]
  · rw [hmap]
    exact stopped_stopAll (Or.inl (List.mem_finRange d))
  · rw [stopAll_keeps (g := Mach.flt) (fun _ _ _ => rfl), raise_wire]
  · rw [stopAll_keeps (g := Mach.bays) (fun _ _ _ => rfl), raise_only]

/-- Settles O51. -/
theorem emergenciesHandled : Obligations.EmergenciesHandled :=
  ⟨fun _ _ => ends_droopTrip, fun _ _ => ends_droopClear, fun _ _ => ends_droopEsc rfl, fun _ => ends_pwrAlert, fun _ _ => ends_alertClear,
    fun _ _ => ends_thermalTrip⟩

end Sys2Proof.Machine
end

section
/-! Responses to this node's requests, timeouts and tags held back (R443, R455). -/

namespace Sys2Proof.Machine

variable {s : State} {p : PortNo} {k : Pkt} {r : VkReq} {t : Mach}

theorem response_of_returning {pt : Nat} (h : Returning s.mach p pt k r t) :
    response s.mach p pt = giveAnswer t r (k.addr % 256) (k.addr / 2 ^ 12 % 2 ^ 16) k.mod_ k.data := by
  obtain ⟨u, hu, hfind, rfl⟩ := h
  unfold response
  rw [hu]
  dsimp only
  rw [hfind]

/-- The answer to a golden read goes to the repair that waits for it. -/
theorem giveAnswer_golden (h : r.owner = .golden) (status flags pois : Nat) (data : List (BitVec 128)) :
    giveAnswer t r status flags pois data = modFlt t (fun f => { f with repairs := f.repairs.map (fun q =>
      if q.reading then { q with answer := some (if status = 0 ∧ pois = 0 then some (BitVec.ofNat 512 (ofBytes (bytesOfSlots data))) else none) }
      else q) }) := by
  unfold giveAnswer
  rw [h]

theorem giveAnswer_moveWrite {u id : Nat} (h : r.owner = .moveWrite u id) (status flags pois : Nat) (data : List (BitVec 128)) :
    giveAnswer t r status flags pois data = moveRemoteAck t u id status flags := by
  unfold giveAnswer
  rw [h]

/-- The completion of an ATOM item waits to be written. -/
def atomDone (ring idx status result : Nat) (pois : Bool) : RingDone :=
  { ring := ring, idx := idx, kind := 2, status := status, result := result, flags := 0, pois := pois }

theorem giveAnswer_atomItem {ring idx : Nat} (h : r.owner = .atomItem ring idx) (status flags pois : Nat) (data : List (BitVec 128)) :
    giveAnswer t r status flags pois data = withDone t (t.ringDone ++
      [atomDone ring idx status (if status = 0 then (data.getD 0 0).toNat % 2 ^ 64 else 0) (decide (pois % 2 = 1))]) := by
  unfold giveAnswer
  rw [h]
  rfl

theorem giveAnswer_mgmt (h : r.owner = .mgmt) (status flags pois : Nat) (data : List (BitVec 128)) :
    giveAnswer t r status flags pois data =
      { t with mgt := { t.mgt with answer := some (status, BitVec.ofNat 64 (data.getD 0 0).toNat) } } := by
  unfold giveAnswer
  rw [h]

theorem ends_rdata (h : Returning s.mach p ptRDATA k r t) (howner : r.owner = .golden) :
    Ends (.rdata p) s (fun m => m.vkReqs = t.vkReqs ∧ m.flt.repairs = t.flt.repairs.map (fun q => if q.reading then
      { q with answer := some (if k.addr % 256 = 0 ∧ k.mod_ = 0 then some (BitVec.ofNat 512 (ofBytes (bytesOfSlots k.data))) else none) }
      else q) ∧ m.mem = t.mem) := by
  refine ⟨_, rfl, ?_⟩
  dsimp only
  rw [response_of_returning h, giveAnswer_golden howner]
  exact ⟨rfl, rfl, rfl⟩

theorem ends_wack {u id : Nat} (h : Returning s.mach p ptWACK k r t) (howner : r.owner = .moveWrite u id) :
    Ends (.wack p) s (fun m => m = moveRemoteAck t u id (k.addr % 256) (k.addr / 2 ^ 12 % 2 ^ 16)) :=
  ⟨_, rfl, (response_of_returning h).trans (giveAnswer_moveWrite howner _ _ _ _)⟩

theorem ends_arsp {ring idx : Nat} (h : Returning s.mach p ptARSP k r t) (howner : r.owner = .atomItem ring idx) :
    Ends (.arsp p) s (fun m => m.vkReqs = t.vkReqs ∧ ∃ x : RingDone, m.ringDone = t.ringDone ++ [x] ∧ x.ring = ring ∧ x.idx = idx ∧
      x.status = k.addr % 256 ∧ x.result = (if k.addr % 256 = 0 then (k.data.getD 0 0).toNat % 2 ^ 64 else 0)) := by
  refine ⟨_, rfl, ?_⟩
  dsimp only
  rw [response_of_returning h, giveAnswer_atomItem howner]
  exact ⟨rfl, _, rfl, rfl, rfl, rfl, rfl⟩

theorem ends_mrsp (h : Returning s.mach p ptMRSP k r t) (howner : r.owner = .mgmt) :
    Ends (.mrsp p) s (fun m => m = { t with mgt := { t.mgt with answer := some (k.addr % 256, BitVec.ofNat 64 (k.data.getD 0 0).toNat) } }) :=
  ⟨_, rfl, (response_of_returning h).trans (giveAnswer_mgmt howner _ _ _ _)⟩

/-! ### Stray responses -/

theorem wire_vkRecord (s : Mach) (p : Option Nat) (n : Nat) : ∃ r, (vkRecord s p n).flt.wire = s.flt.wire ++ [r] ∧ r.cls = 0xC := by
  unfold vkRecord drawWord
  dsimp only
  refine ⟨_, raise_wire_of_flt rfl _, ?_⟩
  cases p with
  | none => rfl
  | some p => rw [forPart_cls]; rfl

theorem vkReqs_of_units {s t : Mach} (h : s.units = t.units) : s.vkReqs = t.vkReqs := by
  have e := congrArg Mach.vkReqs h
  exact e

theorem vkReqs_vkRecord (s : Mach) (p : Option Nat) (n : Nat) : (vkRecord s p n).vkReqs = s.vkReqs :=
  vkRecord_keeps (g := Mach.vkReqs) vkReqs_of_units (fun _ _ => rfl) s p n
theorem mem_vkRecord (s : Mach) (p : Option Nat) (n : Nat) : (vkRecord s p n).mem = s.mem :=
  vkRecord_keeps (g := Mach.mem) mem_of_units (fun _ _ => rfl) s p n

theorem now_vkRecord (s : Mach) (p : Option Nat) (n : Nat) : (vkRecord s p n).now = s.now := by
  unfold vkRecord drawWord
  dsimp only
  rw [now_raise]

/-- A response whose tag no request holds is dropped with a record. -/
theorem ends_stray {c : PortNo → Instr} {pt : Nat} (hexec : exec (c p) s = onMach s (fun m => response m p pt))
    (htake : takeType s.mach p pt = some (k, t))
    (hfree : t.vkReqs.any (fun r => decide (r.mid = k.mid) && decide (r.tag = k.tag) && !r.held) = false) :
    Ends (c p) s (fun m => m.vkReqs = t.vkReqs ∧ m.mem = t.mem ∧ ∃ r, m.flt.wire = t.flt.wire ++ [r] ∧ r.cls = 0xC) := by
  have hnone : t.vkReqs.find? (fun r => decide (r.mid = k.mid) && decide (r.tag = k.tag) && !r.held) = none := by
    rw [List.find?_eq_none]
    exact List.any_eq_false.1 hfree
  have heq : response s.mach p pt = vkRecord t (some p) k.snode := by
    unfold response
    rw [htake]
    dsimp only
    rw [hnone]
  refine ⟨_, hexec, ?_⟩
  dsimp only
  rw [heq]
  exact ⟨vkReqs_vkRecord _ _ _, mem_vkRecord _ _ _, wire_vkRecord _ _ _⟩

/-! ### Timeouts (R455) -/

/-- The tag of a request held back from a tick on. -/
def holdTag (r : VkReq) (now : Nat) (l : List VkReq) : List VkReq :=
  l.map (fun q => if q.mid = r.mid ∧ q.tag = r.tag then { q with held := true, sentAt := now } else q)

theorem mem_holdTag {r : VkReq} {now : Nat} {l : List VkReq} (h : r ∈ l) :
    ∃ x ∈ holdTag r now l, x.mid = r.mid ∧ x.tag = r.tag ∧ x.held = true ∧ x.sentAt = now :=
  ⟨{ r with held := true, sentAt := now }, List.mem_map.2 ⟨r, h, if_pos ⟨rfl, rfl⟩⟩, rfl, rfl, rfl, rfl⟩

/-- The package with a management request answered. -/
def mgtAnswered (s : Mach) (status : Nat) (v : Word) : Mach := { s with mgt := { s.mgt with answer := some (status, v) } }

theorem ends_remoteTimeout {i : Nat} (hi : (s.mach.vkReqs.filter (fun r => !r.held))[i]? = some r) (howner : r.owner = .mgmt) :
    Ends (.remoteTimeout i) s (fun m => r.sentAt + remoteTmo s.mach ≤ m.now ∧ m.mgt.answer = some (7, 0) ∧
      (∃ x ∈ m.vkReqs, x.mid = r.mid ∧ x.tag = r.tag ∧ x.held = true ∧ x.sentAt = m.now) ∧ m.vkReqs.length = s.mach.vkReqs.length) := by
  have hmem : r ∈ s.mach.vkReqs := List.mem_of_mem_filter (List.mem_of_getElem? hi)
  have heq : ∃ t : Mach, remoteTimeout s.mach i = mgtAnswered (drawWord (vkRecord t none r.node)).2 7 0 ∧
      t.now = max s.mach.now (r.sentAt + remoteTmo s.mach) ∧ t.vkReqs = holdTag r t.now s.mach.vkReqs := by
    unfold remoteTimeout
    rw [hi]
    dsimp only
    rw [giveAnswer_mgmt howner, howner]
    exact ⟨_, rfl, rfl, rfl⟩
  obtain ⟨t, heq, hnow, hreqs⟩ := heq
  generalize hu : (drawWord (vkRecord t none r.node)).2 = u at heq
  have hnow' : u.now = t.now := by
    rw [← hu]
    exact now_vkRecord t none r.node
  have hreqs' : u.vkReqs = holdTag r u.now s.mach.vkReqs := by
    rw [hnow', ← hreqs, ← hu]
    exact vkReqs_vkRecord t none r.node
  refine ⟨_, rfl, ?_⟩
  dsimp only
  rw [heq]
  show r.sentAt + remoteTmo s.mach ≤ u.now ∧ some ((7 : Nat), (0 : Word)) = some (7, 0) ∧
    (∃ x ∈ u.vkReqs, x.mid = r.mid ∧ x.tag = r.tag ∧ x.held = true ∧ x.sentAt = u.now) ∧ u.vkReqs.length = s.mach.vkReqs.length
  rw [hreqs']
  refine ⟨?_, rfl, mem_holdTag hmem, List.length_map _⟩
  rw [hnow', hnow]
  exact Nat.le_max_right _ _

theorem ends_tagHoldbackExpiry {mid : Mid} {tag : Fin 1024}
    (hfind : s.mach.vkReqs.find? (fun r => decide (r.mid = mid.val) && decide (r.tag = tag.val) && r.held) = some r) :
    Ends (.tagHoldbackExpiry mid tag) s (fun m => r.sentAt + remoteTmo s.mach ≤ m.now ∧
      m.vkReqs = s.mach.vkReqs.filter (fun q => !(decide (q.mid = mid.val) && decide (q.tag = tag.val) && q.held)) ∧ m.mem = s.mach.mem) := by
  have heq : tagHoldbackExpiry s.mach mid tag = withReqs (advanceTo s.mach (r.sentAt + remoteTmo s.mach))
      (s.mach.vkReqs.filter (fun q => !(decide (q.mid = mid.val) && decide (q.tag = tag.val) && q.held))) := by
    unfold tagHoldbackExpiry
    rw [hfind]
    rfl
  refine ⟨_, rfl, ?_⟩
  dsimp only
  rw [heq]
  exact ⟨Nat.le_max_right _ _, rfl, rfl⟩

/-- Settles O46. -/
theorem remoteAnswersTaken : Obligations.RemoteAnswersTaken :=
  ⟨fun _ _ _ _ _ => ends_rdata, fun _ _ _ _ _ _ _ => ends_wack, fun _ _ _ _ _ _ _ => ends_arsp, fun _ _ _ _ _ => ends_mrsp,
    ⟨fun _ _ _ _ => ends_stray rfl, fun _ _ _ _ => ends_stray rfl, fun _ _ _ _ => ends_stray rfl, fun _ _ _ _ => ends_stray rfl⟩,
    fun _ _ _ => ends_remoteTimeout, fun _ _ _ _ => ends_tagHoldbackExpiry⟩

end Sys2Proof.Machine
end

section
/-! What accesses to memory leave alone: homes (R376, R377), the lofts behind their window (R263), records and counts. -/

namespace Sys2Proof.Machine

/-- An event counts in registers and in the energy of a frame. -/
theorem countEv_keeps {β : Type} {g : Mach → β} (hcsr : OffCsr g)
    (hevents : ∀ (s : Mach) (x : SMap Nat), g { s with pwr := { s.pwr with events := x } } = g s) (s : Mach) (b ev n : Nat) :
    g (countEv s b ev n) = g s := by
  have hao (t : Mach) (d k n : Nat) : g (bumpAo t d k n) = g t := hcsr.wr t _ _ _ _
  have hat (t : Mach) (p o k n : Nat) : g (book t p o k n) = g t := hevents t _
  have hbook : g (bookEv s b ev n) = g s := by
    unfold bookEv
    dsimp only
    split <;> simp only [hao, hat]
  unfold countEv
  dsimp only
  refine (foldS_keeps g _ _ _ fun t k => ?_).trans hbook
  exact iteInduction (motive := fun m : Mach => g m = g t) (fun _ => hcsr.wr t _ _ _ _) fun _ => rfl

/-- What a move is and how far it has come: what errors, source data and a cut leave of it. -/
structure Course where
  id : Nat
  mover : Nat
  flex : Bool
  desc : Line
  p : Nat
  next : Nat
  refused : Bool

def Move.course (m : Move) : Course :=
  { id := m.id, mover := m.mover, flex := m.flex, desc := m.desc, p := m.p, next := m.next, refused := m.refused }

/-- A part of the package outside the registers, memory, caches, homes, lofts, cores and records, and outside all of the moves but
their courses. -/
structure OffTxn {β : Type} (g : Mach → β) : Prop where
  csr : OffCsr g
  wire : ∀ (s : Mach) (x : SMap Word) (l : List FltRec), g { s with csr := x, flt := { s.flt with wire := l } } = g s
  events : ∀ (s : Mach) (x : SMap Nat), g { s with pwr := { s.pwr with events := x } } = g s
  memory : ∀ (s : Mach) (x : SMap Byte) (y : SMap Nat), g { s with mem := x, lineKey := y } = g s
  memPois : ∀ (s : Mach) (x : SMap Bool), g { s with memPois := x } = g s
  held : ∀ (s : Mach) (x : SMap HLine), g { s with held := x } = g s
  dir : ∀ (s : Mach) (x : SMap DirEnt), g { s with dir := x } = g s
  cores : ∀ (s : Mach) (x : Vector Core 96), g { s with cores := x } = g s
  shfResv : ∀ (s : Mach) (x : List ShfResv), g { s with shfResv := x } = g s
  loft : ∀ (s : Mach) (x : SMap Byte), g { s with loft := x } = g s
  loftPois : ∀ (s : Mach) (x : SMap Bool), g { s with loftPois := x } = g s
  move : ∀ (s : Mach) (b i : Nat) (f : Move → Move), (∀ m, (f m).course = m.course) → g (modMove s b i f) = g s
  trcWire : ∀ (s : Mach) (x : List TrcRec), g { s with trcWire := x } = g s
  fireIf : ∀ (s : Mach) (b src : Nat) (c : Sink → Bool), g (fireIf s b src c) = g s

/-- The same, and outside the package's time. -/
structure OffHome {β : Type} (g : Mach → β) : Prop extends OffTxn g where
  now : ∀ (s : Mach) (x : Nat), g { s with now := x } = g s

namespace OffTxn
variable {β : Type} {g : Mach → β} (h : OffTxn g)
include h

/-! ### Records and counts -/

theorem raise (s : Mach) (r : FltRec) : g (raise s r) = g s := by
  rw [raise_only]
  exact h.wire s _ _

theorem recordFirst (s : Mach) (n : RegName) (u i : Nat) (v : Word) : g (recordFirst s n u i v) = g s := by
  rw [recordFirst_only]
  exact h.csr s _

theorem emitTraceIf (s : Mach) (b e k c u d : Nat) : g (emitTraceIf s b e k c u d) = g s := by
  unfold Machine.emitTraceIf emitTrace
  refine iteInduction (motive := fun m : Mach => g m = g s) (fun _ => ?_) fun _ => rfl
  exact iteInduction (motive := fun m : Mach => g m = g s) (fun _ => h.trcWire s _) fun _ => rfl

theorem raiseBay (s : Mach) (b : Nat) (r : FltRec) : g (raiseBay s b r) = g s := by
  unfold Machine.raiseBay
  dsimp only
  rw [h.raise, h.fireIf, h.emitTraceIf, h.csr.bump, foldS_keeps g _ _ _ fun t k => h.csr.wr t _ _ _ _]

theorem bumpAo (s : Mach) (d k n : Nat) : g (bumpAo s d k n) = g s := h.csr.wr s _ _ _ _

theorem book (s : Mach) (p o k n : Nat) : g (book s p o k n) = g s := h.events s _

theorem countEv (s : Mach) (b ev n : Nat) : g (countEv s b ev n) = g s := countEv_keeps h.csr h.events s b ev n

theorem countBytes (s : Mach) (a n : Nat) (use : MemUse) (o : Nat) : g (countBytes s a n use o) = g s := by
  unfold Machine.countBytes
  dsimp only
  split
  · rw [h.book, h.bumpAo, h.csr.bump]
  · rw [h.book, h.bumpAo]
  · rfl

theorem countLoftRead (s : Mach) (b n : Nat) : g (countLoftRead s b n) = g s := (h.bumpAo _ _ _ _).trans (h.countEv s b _ n)
theorem countLoftWrite (s : Mach) (b n : Nat) : g (countLoftWrite s b n) = g s := (h.bumpAo _ _ _ _).trans (h.countEv s b _ n)

/-! ### Refusals and errors -/

theorem refuseMem (s : Mach) (mid : Nat) (c : Checked) (tid a : Nat) : g (refuseMem s mid c tid a) = g s := by
  unfold Machine.refuseMem refuseAccess
  dsimp only
  rw [h.raise, h.recordFirst, h.csr.bump]

theorem grnErr (s : Mach) (off code : Nat) : g (grnErr s off code) = g s := by
  unfold Machine.grnErr
  dsimp only
  rw [h.raise]
  split
  · rw [h.csr.bump, h.recordFirst]
  · rw [h.csr.bump, h.recordFirst]
  · rw [h.csr.bump, h.recordFirst]
  · rw [h.recordFirst]

theorem physRefuse (s : Mach) (mid : Nat) (c : Checked) (tid a : Nat) (wrt : Bool) : g (physRefuse s mid c tid a wrt) = g s := by
  unfold Machine.physRefuse
  dsimp only
  refine iteInduction (motive := fun m : Mach => g m = g s) (fun _ => ?_) fun _ => h.refuseMem s _ _ _ _
  split
  · exact h.grnErr s _ _
  · rfl

theorem homeErr (s : Mach) (line code pos : Nat) : g (homeErr s line code pos) = g s := by
  unfold Machine.homeErr
  dsimp only
  rw [h.raise, h.recordFirst]

/-! ### Lines, directories and caches -/

theorem setLinePois (s : Mach) (line : Nat) (p : Bool) : g (setLinePois s line p) = g s := h.memPois s _
theorem modDir (s : Mach) (line : Nat) (f : DirEnt → DirEnt) : g (modDir s line f) = g s := h.dir s _
theorem putHeld (s : Mach) (k line : Nat) (x : HLine) : g (putHeld s k line x) = g s := h.held s _
theorem modCore (s : Mach) (c : Nat) (f : Core → Core) : g (modCore s c f) = g s := h.cores s _

theorem rawWrite (s : Mach) (line : Nat) (d : Line) (mask : Nat) (p : Bool) : g (rawWrite s line d mask p) = g s := by
  unfold Machine.rawWrite
  dsimp only
  rw [h.setLinePois]
  exact h.memory s _ _

theorem breakResv (s : Mach) (line mask : Nat) (e : Option Nat) : g (breakResv s line mask e) = g s := by
  unfold Machine.breakResv
  refine (h.cores (breakShf s line mask) _).trans ?_
  unfold breakShf
  exact h.shfResv s _

theorem snoopKey (s : Mach) (k line : Nat) (kind : HomeKind) : g (snoopKey s k line kind) = g s := by
  unfold Machine.snoopKey
  dsimp only
  refine iteInduction (motive := fun m : Mach => g m = g s) (fun _ => rfl) fun _ => ?_
  split
  · rfl
  · exact h.putHeld s _ _ _
  · exact h.putHeld s _ _ _

theorem snoopMasked (s : Mach) (pos line : Nat) (kind : HomeKind) (who : Nat) : g (snoopMasked s pos line kind who) = g s := by
  unfold Machine.snoopMasked
  exact iteInduction (motive := fun m : Mach => g m = g s) (fun _ => foldS_keeps g _ _ _ fun t c => h.snoopKey t _ _ _) fun _ => rfl

theorem answerSnoop (s : Mach) (pos line : Nat) (kind : HomeKind) (who : Nat) : g (answerSnoop s pos line kind who).2 = g s := by
  have hresv (t : Mach) (c : Prop) [Decidable c] (f : Core → Core) : g (if c then Machine.modCore t pos f else t) = g t :=
    iteInduction (motive := fun m : Mach => g m = g t) (fun _ => h.modCore t _ _) fun _ => rfl
  have hcount (t : Mach) (c : Prop) [Decidable c] (n : RegName) (u i hi lo k : Nat) : g (if c then Machine.bump t n u i hi lo k else t) = g t :=
    iteInduction (motive := fun m : Mach => g m = g t) (fun _ => h.csr.bump t _ _ _ _ _ _) fun _ => rfl
  unfold Machine.answerSnoop
  dsimp only
  rw [hresv, hcount]
  have hkeys : g (foldS ((keysOf pos).filter (fun k => holds s k line)) (fun t k => Machine.snoopKey t k line kind)
      (Machine.snoopMasked s pos line kind who)) = g s :=
    (foldS_keeps g _ _ _ fun t k => h.snoopKey t _ _ _).trans (h.snoopMasked s pos line kind who)
  split
  · exact (h.csr.bump _ _ _ _ _ _ _).trans hkeys
  · exact hkeys

/-! ### Transactions (R376, R377) -/

theorem serve (s : Mach) (line : Nat) (t : HomeTxn) : g (serve s line t) = g s := by
  have hraw (u : Mach) (c : Prop) [Decidable c] (d : Line) (m : Nat) (p : Bool) : g (if c then Machine.rawWrite u line d m p else u) = g u :=
    iteInduction (motive := fun x : Mach => g x = g u) (fun _ => h.rawWrite u _ _ _ _) fun _ => rfl
  unfold Machine.serve
  dsimp only
  split
  · rw [h.modDir, hraw]
  · exact h.modDir s _ _
  · exact h.modDir s _ _
  · rw [h.modDir, h.breakResv, h.rawWrite]
  · rw [h.modDir, h.breakResv, h.rawWrite, hraw]

theorem enterHome (s : Mach) (line : Nat) (r : HomeReq) : g (enterHome s line r) = g s := by
  unfold Machine.enterHome
  dsimp only
  exact iteInduction (motive := fun m : Mach => g m = g s) (fun _ => (h.serve _ _ _).trans (h.modDir s _ _)) fun _ => h.modDir s _ _

theorem answerTxn (s : Mach) (pos line : Nat) : g (answerTxn s pos line) = g s := by
  unfold Machine.answerTxn
  split
  · rfl
  · exact (h.modDir _ _ _).trans (h.answerSnoop s _ _ _ _)

theorem staleWb (s : Mach) (line : Nat) : g (staleWb s line) = g s := by
  unfold Machine.staleWb
  split
  · rfl
  · exact (h.modDir _ _ _).trans (h.putHeld s _ _ _)

theorem takeResponse (s : Mach) (pos line : Nat) : g (takeResponse s pos line) = g s := by
  have hlost (c : Prop) [Decidable c] : g (if c then Machine.homeErr (Machine.setLinePois s line true) line 1 pos else s) = g s :=
    iteInduction (motive := fun m : Mach => g m = g s) (fun _ => (h.homeErr _ _ _ _).trans (h.setLinePois s _ _)) fun _ => rfl
  unfold Machine.takeResponse
  split
  · rfl
  split
  · rfl
  dsimp only
  refine iteInduction (motive := fun m : Mach => g m = g s) (fun _ => ?_) fun _ => (h.modDir _ _ _).trans (hlost _)
  rw [h.staleWb, h.serve, h.modDir, hlost]

theorem dropMates (s : Mach) (k line : Nat) : g (dropMates s k line) = g s := by
  unfold Machine.dropMates
  exact iteInduction (motive := fun m : Mach => g m = g s) (fun _ => foldS_keeps g _ _ _ fun t j => h.putHeld t _ _ _) fun _ => rfl

theorem grant (s : Mach) (k line : Nat) : g (grant s k line) = g s := by
  have hmates (c : Prop) [Decidable c] : g (if c then Machine.dropMates s k line else s) = g s :=
    iteInduction (motive := fun m : Mach => g m = g s) (fun _ => h.dropMates s _ _) fun _ => rfl
  have hfill (t : Mach) (c : Prop) [Decidable c] (l : Nat) (x : HLine) : g (if c then Machine.putHeld t l line x else t) = g t :=
    iteInduction (motive := fun m : Mach => g m = g t) (fun _ => h.putHeld t _ _ _) fun _ => rfl
  unfold Machine.grant
  split
  · rfl
  refine iteInduction (motive := fun m : Mach => g m = g s) (fun _ => rfl) fun _ => ?_
  dsimp only
  rw [h.modDir, hfill, h.putHeld, hmates]

theorem completionAck (s : Mach) (line : Nat) : g (completionAck s line) = g s := by
  unfold Machine.completionAck
  split
  · rfl
  refine iteInduction (motive := fun m : Mach => g m = g s) (fun _ => rfl) fun _ => ?_
  dsimp only
  split
  · exact h.modDir s _ _
  · exact (h.enterHome _ _ _).trans (h.modDir s _ _)

/-! ### The lofts (R263, R269) -/

theorem movErr (s : Mach) (b : Nat) (m : Move) (code : Nat) : g (movErr s b m code) = g s := by
  have hdesc (t : Mach) (c : Prop) [Decidable c] (v : Word) : g (if c then Machine.wr t .MOV_ERRDESC b 0 v else t) = g t :=
    iteInduction (motive := fun m : Mach => g m = g t) (fun _ => h.csr.wr t _ _ _ _) fun _ => rfl
  unfold Machine.movErr
  dsimp only
  rw [h.raiseBay, h.move, hdesc, h.recordFirst]
  exact fun _ => rfl

theorem cutMove (s : Mach) (b : Nat) (m : Move) : g (cutMove s b m) = g s := by
  unfold Machine.cutMove
  dsimp only
  refine iteInduction (motive := fun m : Mach => g m = g s) (fun _ => rfl) fun _ => ?_
  rw [h.movErr, h.move, h.csr.bump]
  exact fun _ => rfl

theorem lftErr_unraised (s : Mach) (b code off tid : Nat) : g (lftErr s b code off tid false) = g s := by
  unfold Machine.lftErr
  dsimp only
  rw [if_neg Bool.false_ne_true]
  exact iteInduction (motive := fun m : Mach => g m = g s) (fun _ => (h.csr.bump _ _ _ _ _ _ _).trans (h.recordFirst s _ _ _ _))
    fun _ => h.recordFirst s _ _ _ _

theorem readLoftBeat (s : Mach) (b : Nat) (m : Move) (blk : Nat) : g (readLoftBeat s b m blk) = g s := by
  unfold Machine.readLoftBeat
  dsimp only
  refine iteInduction (motive := fun m : Mach => g m = g s) (fun _ => rfl) fun _ => ?_
  split
  · rw [h.move, h.countEv, h.countLoftRead]
    exact fun _ => rfl
  · refine iteInduction (motive := fun m : Mach => g m = g s) (fun _ => ?_) fun _ => ?_
    · rw [h.cutMove, h.move, h.countEv, h.countLoftRead]
      exact fun _ => rfl
    · rw [h.movErr, h.lftErr_unraised, h.move, h.countEv, h.countLoftRead]
      exact fun _ => rfl

theorem catchUp (s : Mach) (b : Nat) : g (catchUp s b) = g s := by
  unfold Machine.catchUp
  dsimp only
  refine foldS_keeps g _ _ _ fun t m => ?_
  split
  · refine foldS_keeps g _ _ _ fun u blk => ?_
    split
    · exact h.readLoftBeat u _ _ _
    · rfl
  · rfl

theorem loftPut (s : Mach) (b off : Nat) (bs : List Byte) (mask pois : Nat) : g (loftPut s b off bs mask pois) = g s := by
  have hcatch (c : Prop) [Decidable c] : g (if c then s else Machine.catchUp s b) = g s :=
    iteInduction (motive := fun m : Mach => g m = g s) (fun _ => rfl) fun _ => h.catchUp s b
  unfold Machine.loftPut
  dsimp only
  refine (foldS_keeps g _ _ _ fun t x => ?_).trans ((h.loft _ _).trans (hcatch _))
  exact iteInduction (motive := fun m : Mach => g m = g t) (fun _ => rfl) fun _ => h.loftPois t _

theorem loftWrite (s : Mach) (b off : Nat) (bs : List Byte) (p : Bool) : g (loftWrite s b off bs p) = g s := h.loftPut s _ _ _ _ _

end OffTxn

namespace OffHome
variable {β : Type} {g : Mach → β} (h : OffHome g)
include h

/-! ### Transactions that take time -/

theorem advanceTo (s : Mach) (t : Nat) : g (advanceTo s t) = g s := h.now s _

theorem finishTxn (s : Mach) (line : Nat) : g (finishTxn s line) = g s := by
  unfold Machine.finishTxn
  split
  · rfl
  dsimp only
  rw [h.completionAck, h.grant, foldS_keeps g _ _ _ fun t p => h.takeResponse t _ _,
    foldS_keeps g _ _ _ fun t p => (h.answerTxn _ _ _).trans (h.advanceTo t _)]

theorem settleLine (s : Mach) (line : Nat) : g (settleLine s line) = g s :=
  foldS_keeps g (List.range 17) (fun t _ => Machine.finishTxn t line) s fun t _ => h.finishTxn t line

theorem homeWrite (s : Mach) (line : Nat) (d : Line) (mask : Nat) (p : Bool) : g (homeWrite s line d mask p) = g s := by
  have hraw (u : Mach) (c : Prop) [Decidable c] (d : Line) (m : Nat) (p : Bool) : g (if c then Machine.rawWrite u line d m p else u) = g u :=
    iteInduction (motive := fun x : Mach => g x = g u) (fun _ => h.rawWrite u _ _ _ _) fun _ => rfl
  unfold Machine.homeWrite
  dsimp only
  rw [h.breakResv, h.rawWrite, h.modDir, hraw, foldS_keeps g _ _ _ fun t q => h.answerSnoop t _ _ _ _, h.settleLine]

theorem cohWrite (s : Mach) (a : Nat) (bs : List Byte) (p : Bool) : g (cohWrite s a bs p) = g s := by
  unfold Machine.cohWrite
  dsimp only
  exact iteInduction (motive := fun m : Mach => g m = g s) (fun _ => rfl) fun _ => foldS_keeps g _ _ _ fun t l => h.homeWrite t _ _ _ _

/-! ### Accesses by address -/

theorem physWrite (s : Mach) (a : Nat) (bs : List Byte) (p : Bool) : g (physWrite s a bs p) = g s := by
  unfold Machine.physWrite
  split
  · exact iteInduction (motive := fun m : Mach => g m = g s) (fun _ => (h.loftWrite _ _ _ _ _).trans (h.countLoftWrite s _ _)) fun _ => rfl
  · exact iteInduction (motive := fun m : Mach => g m = g s) (fun _ => h.cohWrite s _ _ _) fun _ => rfl

theorem writeAs (s : Mach) (mid : Nat) (proxy : Option Nat) (tid a : Nat) (bs : List Byte) (p : Bool) :
    g (writeAs s mid proxy tid a bs p).2 = g s := by
  unfold Machine.writeAs
  dsimp only
  split
  · exact h.physRefuse s _ _ _ _ _
  · exact (h.physWrite _ _ _ _).trans (foldS_keeps g _ _ _ fun t l => h.countBytes t _ _ _ _)

end OffHome

end Sys2Proof.Machine
end

section
/-! Trace records, sinks and snapshots (R561, R564 to R568, R570). -/

namespace Sys2Proof.Machine

/-! ### Samples (R561) -/

/-- From one state to another, records only joined the wire of trace records, and of bay `b` what comes next of samples and
the sequencer stay. -/
structure Sampled (b : BayNo) (s m : Mach) : Prop where
  wire : ∃ l, m.trcWire = s.trcWire ++ l
  smpAt : (getBay m b).dbg.smpAt = (getBay s b).dbg.smpAt
  mem : m.mem = s.mem
  seq : getSeq m b = getSeq s b

theorem Sampled.rfl {b : BayNo} {s : Mach} : Sampled b s s := ⟨⟨[], (List.append_nil _).symm⟩, Eq.refl _, Eq.refl _, Eq.refl _⟩

theorem Sampled.trans {b : BayNo} {s t m : Mach} (h : Sampled b s t) (k : Sampled b t m) : Sampled b s m := by
  obtain ⟨⟨l, hl⟩, hat, hmem, hseq⟩ := h
  obtain ⟨⟨l', hl'⟩, hat', hmem', hseq'⟩ := k
  exact ⟨⟨l ++ l', by rw [hl', hl, List.append_assoc]⟩, hat'.trans hat, hmem'.trans hmem, hseq'.trans hseq⟩

theorem sampled_emitTrace (b : BayNo) (s : Mach) (k c u d : Nat) : Sampled b s (emitTrace s b k c u d) := by
  unfold emitTrace
  split
  · exact ⟨⟨_, rfl⟩, rfl, rfl, rfl⟩
  · exact Sampled.rfl

theorem sampled_foldS {b : BayNo} {f : Mach → Nat → Mach} (h : ∀ s k, Sampled b s (f s k)) (l : List Nat) (s : Mach) :
    Sampled b s (foldS l f s) := by
  induction l generalizing s with
  | nil => exact Sampled.rfl
  | cons k l ih => exact (h s k).trans (ih (f s k))

/-- The sheaf that an engine samples next time. -/
def sampledLast (s : Mach) (b e no : Nat) : Mach := modBay s b (fun y => { y with dbg := { y.dbg with smpRr := y.dbg.smpRr.set e (no + 1) } })

theorem sampled_sampledLast (b : BayNo) (s : Mach) (e no : Nat) : Sampled b s (sampledLast s b e no) :=
  ⟨⟨[], (List.append_nil _).symm⟩, by unfold sampledLast; rw [getBay_modBay_fin], rfl,
    by unfold sampledLast getSeq; rw [getBay_modBay_fin]⟩

theorem sampled_sampleEng (b : BayNo) (s : Mach) (e : Nat) : Sampled b s (sampleEng b s e) := by
  unfold sampleEng
  dsimp only
  split
  · exact Sampled.rfl
  · exact (sampled_sampledLast b s e _).trans (sampled_emitTrace b _ _ _ _ _)

/-- A bay at the count of its next sample. -/
def atSample (s : Mach) (b e c : Nat) : Mach :=
  modBay (advanceEdge s b e) b (fun x => { x with dbg := { x.dbg with smpAt := c + 1 } })

/-- The samples of the streams of a bay that TRC_BCFG asks for, and those of its engines. -/
def sampledStreams (b : Nat) (s : Mach) : Mach :=
  if rb s .TRC_BCFG b 0 62 then
    foldS (bitList 6 (rf s .TRC_BCFG b 0 53 48)) (fun t k => emitTrace t b 2 0 k ((getStream t b k).idx % 2 ^ 24 + sstate t b k * 2 ^ 24)) s
  else s

def sampledEngines (b : Nat) (s : Mach) : Mach :=
  if rb s .TRC_BCFG b 0 61 then foldS ((bitList 4 (rf s .TRC_BCFG b 0 47 44)).filter (shfPresent s b)) (sampleEng b) s else s

theorem sampled_sampledStreams (b : BayNo) (s : Mach) : Sampled b s (sampledStreams b s) := by
  unfold sampledStreams
  split
  · exact sampled_foldS (fun u k => sampled_emitTrace b u _ _ _ _) _ s
  · exact Sampled.rfl

theorem sampled_sampledEngines (b : BayNo) (s : Mach) : Sampled b s (sampledEngines b s) := by
  unfold sampledEngines
  split
  · exact sampled_foldS (sampled_sampleEng b) _ s
  · exact Sampled.rfl

theorem pcSample_eq {s : Mach} {b : BayNo} (hon : rb s .TRC_BCFG b 0 63 = true) (hrun : s.alm.running = true) :
    ∃ c e : Nat, c % 2 ^ (rf s .TRC_BCFG b 0 43 40 + 10) = 0 ∧ pcSample s b = sampledEngines b (sampledStreams b (atSample s b e c)) := by
  unfold pcSample
  rw [if_neg (by simp [hon, hrun])]
  dsimp only
  split
  · exact ⟨_, _, Nat.mul_mod_left _ _, rfl⟩
  · exact ⟨_, _, (Nat.add_mod_right _ _).trans (Nat.mul_mod_left _ _), rfl⟩

theorem ends_pcSample {s : State} {b : BayNo} (hon : rb s.mach .TRC_BCFG b 0 63 = true) (hrun : s.mach.alm.running = true) :
    Ends (.pcSample b) s (fun m => ∃ (c : Nat) (l : List TrcRec), (getBay m b).dbg.smpAt = c + 1 ∧
      c % 2 ^ (rf s.mach .TRC_BCFG b 0 43 40 + 10) = 0 ∧ m.trcWire = s.mach.trcWire ++ l ∧ m.mem = s.mach.mem ∧
      getSeq m b = getSeq s.mach b) := by
  obtain ⟨c, e, hc, heq⟩ := pcSample_eq hon hrun
  obtain ⟨⟨l, hl⟩, hat, hmem, hseq⟩ := (sampled_sampledStreams b (atSample s.mach b e c)).trans (sampled_sampledEngines b _)
  rw [← heq] at hl hat hmem hseq
  refine ⟨_, rfl, c, l, ?_, hc, hl, hmem, ?_⟩
  · rw [hat]
    unfold atSample
    rw [getBay_modBay_fin]
  · rw [hseq]
    unfold atSample getSeq
    rw [getBay_modBay_fin]
    rfl

/-! ### The buffer of a bay (R564) -/

/-- The package with trace records on their way. -/
def withTrace (s : Mach) (l : List TrcRec) : Mach := { s with trcWire := l }

theorem traceRecord_of_wire {s : Mach} {r : TrcRec} {l : List TrcRec} (h : s.trcWire = r :: l) :
    traceRecord s = bufferTrace (withTrace s l) r := by
  unfold traceRecord
  rw [h]
  rfl

theorem ends_traceRecord_room {s : State} {r : TrcRec} {l : List TrcRec} (h : s.mach.trcWire = r :: l) (hb : r.bay < 72)
    (hroom : (getBay s.mach r.bay).trc.buf.length < 64) :
    Ends .traceRecord s (fun m => m.trcWire = l ∧ (getBay m r.bay).trc.buf = (getBay s.mach r.bay).trc.buf ++ [r] ∧
      m.csr = s.mach.csr ∧ m.mem = s.mach.mem) := by
  have heq : traceRecord s.mach = putTrace (withTrace s.mach l) r.bay r := by
    rw [traceRecord_of_wire h]
    exact if_pos hroom
  refine ⟨_, rfl, ?_⟩
  dsimp only
  rw [heq]
  refine ⟨rfl, ?_, rfl, rfl⟩
  unfold putTrace
  rw [getBay_modBay_fin _ ⟨r.bay, hb⟩]
  rfl

theorem uncounted_trcBlost (b : Fin 72) : Uncounted (RegRef.addr ⟨.TRC_BLOST, b, 0⟩) := by
  constructor <;> simp only [RegRef.addr, RegName.info, Blk.base, dieBase] <;> omega

/-- One more record of a class lost at a bay, as the bay keeps it for its LOST record. -/
def noteLost (s : Mach) (b cls : Nat) : Mach :=
  modBay s b (fun x => { x with trc := { x.trc with lost := x.trc.lost.modify cls (fun n => sat 16 (n + 1)) } })

theorem rg_noteLost (s : Mach) (b cls : Nat) (n : RegName) (u i : Nat) : rg (noteLost s b cls) n u i = rg s n u i := rfl
theorem trcWire_noteLost (s : Mach) (b cls : Nat) : (noteLost s b cls).trcWire = s.trcWire := rfl

theorem trcWire_loseTrace (s : Mach) (b cls : Nat) : (loseTrace s b cls).trcWire = s.trcWire :=
  (countEv_keeps (g := Mach.trcWire) (fun _ _ => rfl) (fun _ _ => rfl) _ _ _ _).trans
    ((trcWire_noteLost _ _ _).trans (OffCsr.bump (g := Mach.trcWire) (fun _ _ => rfl) s _ _ _ _ _ _))

theorem buf_loseTrace (s : Mach) (b : Fin 72) (cls : Nat) : (getBay (loseTrace s b cls) b).trc.buf = (getBay s b).trc.buf := by
  have hbuf (t : Mach) : (getBay (noteLost t b cls) b).trc.buf = (getBay t b).trc.buf := by
    unfold noteLost
    rw [getBay_modBay_fin]
  calc (getBay (loseTrace s b cls) b).trc.buf = (getBay (noteLost (bump s .TRC_BLOST b 0 (16 * cls + 15) (16 * cls) 1) b cls) b).trc.buf :=
        part_of_units (units_countEv _ _ _ _) b (fun x => x.trc.buf) fun _ _ => rfl
    _ = (getBay (bump s .TRC_BLOST b 0 (16 * cls + 15) (16 * cls) 1) b).trc.buf := hbuf _
    _ = (getBay s b).trc.buf := part_of_units (units_bump _ _ _ _ _ _ _) b (fun x => x.trc.buf) fun _ _ => rfl

theorem rg_loseTrace (s : Mach) (b : Fin 72) (cls : Nat) :
    rg (loseTrace s b cls) .TRC_BLOST b 0 = rg (bump s .TRC_BLOST b 0 (16 * cls + 15) (16 * cls) 1) .TRC_BLOST b 0 :=
  (rg_countEv_of_uncounted (uncounted_trcBlost b) _ b _ _).trans (rg_noteLost _ _ _ _ _ _)

theorem ends_traceRecord_full {s : State} {r : TrcRec} {l : List TrcRec} (h : s.mach.trcWire = r :: l) (hb : r.bay < 72) (hcls : r.cls = 0)
    (hfull : 64 ≤ (getBay s.mach r.bay).trc.buf.length) :
    Ends .traceRecord s (fun m => m.trcWire = l ∧ (getBay m r.bay).trc.buf = (getBay s.mach r.bay).trc.buf ∧
      rf m .TRC_BLOST r.bay 0 15 0 = sat 16 (rf s.mach .TRC_BLOST r.bay 0 15 0 + 1)) := by
  have hlen : ¬(getBay (withTrace s.mach l) r.bay).trc.buf.length < 64 := Nat.not_lt.2 hfull
  have heq : traceRecord s.mach = loseTrace (withTrace s.mach l) r.bay 0 := by
    rw [traceRecord_of_wire h]
    unfold bufferTrace
    dsimp only
    rw [if_neg hlen, hcls]
    exact if_neg (Nat.not_lt_zero _)
  refine ⟨_, rfl, ?_⟩
  dsimp only
  rw [heq]
  refine ⟨trcWire_loseTrace _ _ _, buf_loseTrace (withTrace s.mach l) ⟨r.bay, hb⟩ 0, ?_⟩
  refine (congrArg (fld · 15 0) (rg_loseTrace (withTrace s.mach l) ⟨r.bay, hb⟩ 0)).trans ?_
  exact rf_bump (withTrace s.mach l) .TRC_BLOST r.bay 0 15 0 1 (by decide) (by decide)

/-! ### The sinks (R565) -/

/-- A bay without the oldest records of its buffer. -/
def withBuf (s : Mach) (b : Nat) (l : List TrcRec) : Mach := modBay s b (fun x => { x with trc := { x.trc with buf := l } })

theorem getBay_withBuf (s : Mach) (b : Fin 72) (l : List TrcRec) :
    getBay (withBuf s b l) b = { getBay s b with trc := { (getBay s b).trc with buf := l } } := getBay_modBay_fin s b _

theorem getSink_withBuf (s : Mach) (b : Nat) (l : List TrcRec) (p : Nat) : getSink (withBuf s b l) p = getSink s p := rfl
theorem mem_withBuf (s : Mach) (b : Nat) (l : List TrcRec) : (withBuf s b l).mem = s.mem := rfl

theorem lostRecord_none {s : Mach} {b : Nat} (h : (getBay s b).trc.lost.all (fun n => decide (n = 0)) = true) : lostRecord s b = s :=
  if_pos (Or.inl h)

section
variable {s : State} {b : BayNo} {p : Fin 16} {r : TrcRec} {l : List TrcRec}

theorem sinkWrite_of_enabled (hp : bayPid s.mach b = some p.val) (hbuf : (getBay s.mach b).trc.buf = r :: l)
    (hon : bit (getSink s.mach p).cfg 63 = true) (hlost : (getBay s.mach b).trc.lost.all (fun n => decide (n = 0)) = true) :
    sinkWrite s.mach b = (if fld (getSink s.mach p).stat 3 0 = 1 then sinkPut (withBuf s.mach b l) p r else loseAtSink (withBuf s.mach b l) p r.cls) := by
  have hnone : lostRecord (withBuf s.mach b l) b = withBuf s.mach b l := lostRecord_none (by rw [getBay_withBuf]; exact hlost)
  unfold sinkWrite
  rw [hp, hbuf]
  dsimp only
  rw [if_neg (by simp [hon])]
  show (if _ then sinkPut (lostRecord (withBuf s.mach b l) b) p r else loseAtSink (lostRecord (withBuf s.mach b l) b) p r.cls) = _
  rw [hnone]

/-- The sink with one more record of a class lost. -/
def Sink.losing (k : Sink) (cls : Nat) : Sink :=
  { k with lost := setFld k.lost (16 * cls + 15) (16 * cls) (sat 16 (fld k.lost (16 * cls + 15) (16 * cls) + 1)) }

theorem getSink_of_csr (s : Mach) (x : SMap Word) (p : Nat) : getSink { s with csr := x } p = getSink s p := rfl
theorem getSink_bumpAo (s : Mach) (d k n p : Nat) : getSink (bumpAo s d k n) p = getSink s p := getSink_of_csr s _ p
theorem bumpAo_bays (s : Mach) (d k n : Nat) : (bumpAo s d k n).bays = s.bays := wr_bays _ _ _ _ _
theorem getBay_bumpAo (s : Mach) (d k n b : Nat) : getBay (bumpAo s d k n) b = getBay s b := by
  unfold getBay
  rw [bumpAo_bays]
theorem getBay_modSink (s : Mach) (p : Nat) (f : Sink → Sink) (b : Nat) : getBay (modSink s p f) b = getBay s b := rfl
theorem mem_modSink (s : Mach) (p : Nat) (f : Sink → Sink) : (modSink s p f).mem = s.mem := rfl

theorem ends_sinkWrite_stopped (hp : bayPid s.mach b = some p.val) (hbuf : (getBay s.mach b).trc.buf = r :: l)
    (hon : bit (getSink s.mach p).cfg 63 = true) (hstop : fld (getSink s.mach p).stat 3 0 ≠ 1) (hcls : r.cls < 4)
    (hlost : (getBay s.mach b).trc.lost.all (fun n => decide (n = 0)) = true) :
    Ends (.sinkWrite b) s (fun m => (getBay m b).trc.buf = l ∧ m.mem = s.mach.mem ∧
      fld (getSink m p).lost (16 * r.cls + 15) (16 * r.cls) = sat 16 (fld (getSink s.mach p).lost (16 * r.cls + 15) (16 * r.cls) + 1)) := by
  have heq : sinkWrite s.mach b = bumpAo (modSink (withBuf s.mach b l) p (fun k => k.losing r.cls)) 0 7 1 := by
    rw [sinkWrite_of_enabled hp hbuf hon hlost, if_neg hstop]
    rfl
  have hwidth : 16 * r.cls + 15 + 1 - 16 * r.cls = 16 := by omega
  refine ⟨_, rfl, ?_⟩
  dsimp only
  rw [heq]
  refine ⟨?_, ?_, ?_⟩
  · rw [getBay_bumpAo, getBay_modSink, getBay_withBuf]
  · exact (mem_of_units (units_bumpAo _ _ _ _)).trans (mem_modSink _ _ _)
  · rw [getSink_bumpAo, getSink_modSink, getSink_withBuf]
    unfold Sink.losing
    dsimp only
    rw [fld_setFld_same _ _ _ _ (by omega) (by omega), hwidth]
    refine Nat.mod_eq_of_lt ?_
    unfold sat
    omega

theorem ends_sinkWrite_running {t : Mach} (hp : bayPid s.mach b = some p.val) (hbuf : (getBay s.mach b).trc.buf = r :: l)
    (hon : bit (getSink s.mach p).cfg 63 = true) (hrun : fld (getSink s.mach p).stat 3 0 = 1)
    (hlost : (getBay s.mach b).trc.lost.all (fun n => decide (n = 0)) = true)
    (hwrite : writeAs (withBuf s.mach b l) 0 none 0
      (fld (getSink s.mach p).base 47 12 * 4096 + (getSink s.mach p).wptr % sinkLen (getSink s.mach p) * 16) r.bytes false = (true, t)) :
    Ends (.sinkWrite b) s (fun m => m.mem = t.mem ∧ (getSink m p).wptr = ((getSink s.mach p).wptr + 1) % 2 ^ 32) := by
  have heq : ∃ f : Sink → Word, sinkWrite s.mach b = modSink (bumpAo t 0 6 1) p (fun k =>
      { k with wptr := ((getSink s.mach p).wptr + 1) % 2 ^ 32, stat := f k }) := by
    rw [sinkWrite_of_enabled hp hbuf hon hlost, if_pos hrun]
    unfold sinkPut
    dsimp only
    rw [getSink_withBuf, hwrite]
    exact ⟨_, rfl⟩
  obtain ⟨f, heq⟩ := heq
  refine ⟨_, rfl, ?_⟩
  dsimp only
  rw [heq]
  refine ⟨(mem_modSink _ _ _).trans (mem_of_units (units_bumpAo _ _ _ _)), ?_⟩
  rw [getSink_modSink]

end

/-! ### Triggers (R567) -/

/-- The condition that fires at a sink leaves its status. -/
theorem stat_modSink (s : Mach) (p q : Nat) (f : Sink → Sink) (hf : ∀ k, (f k).stat = k.stat) : (getSink (modSink s q f) p).stat = (getSink s p).stat := by
  unfold getSink modSink
  dsimp only
  rw [vget_vmod]
  split
  · next h => rw [hf, h.1]
  · rfl

theorem offHome_stat (p : Nat) : OffHome (fun m => (getSink m p).stat) where
  csr _ _ := rfl
  wire _ _ _ := rfl
  now _ _ := rfl
  events _ _ := rfl
  memory _ _ _ := rfl
  memPois _ _ := rfl
  held _ _ := rfl
  dir _ _ := rfl
  cores _ _ := rfl
  shfResv _ _ := rfl
  loft _ _ := rfl
  loftPois _ _ := rfl
  move _ _ _ _ _ := rfl
  trcWire _ _ := rfl
  fireIf s b src c := by
    unfold fireIf
    split
    · rfl
    · exact iteInduction (motive := fun m : Mach => (getSink m p).stat = (getSink s p).stat) (fun _ => stat_modSink s p _ _ fun _ => rfl) fun _ => rfl

/-- A record written to a sink leaves its bits above [4]. -/
theorem bit_sinkPut (s : Mach) (p : Fin 16) (r : TrcRec) {j : Nat} (hj : 4 < j) :
    bit (getSink (sinkPut s p r) p).stat j = bit (getSink s p).stat j := by
  have hwrite (a : Nat) (bs : List Byte) : (getSink (writeAs s 0 none 0 a bs false).2 p).stat = (getSink s p).stat :=
    (offHome_stat p).writeAs s _ _ _ _ _ _
  have hfld (w : Word) (v : Nat) : bit (setFld w 3 0 v) j = bit w j := bit_setFld_other _ _ _ _ _ (by decide) (Or.inr (by omega))
  have hbit (w : Word) : bit (setBit w 4 true) j = bit w j := bit_setBit_other _ _ _ _ (by omega)
  unfold sinkPut
  dsimp only
  split
  · rw [getSink_modSink]
    exact (hfld _ _).trans (congrArg (bit · j) (hwrite _ _))
  · rw [getSink_modSink, getSink_bumpAo]
    dsimp only
    rw [← hwrite (fld (getSink s p).base 47 12 * 4096 + (getSink s p).wptr % sinkLen (getSink s p) * 16) r.bytes]
    split <;> split <;> simp only [hfld, hbit]

section
variable {s : State} {p : PartNo} {x : Nat × Nat × Nat}

theorem almFire_of_fired (hfire : (getSink s.mach p).fire = some x) : almFire s.mach p = s.mach := by
  unfold almFire
  dsimp only
  exact if_neg (by simp [hfire])

theorem ends_trigger (hfire : (getSink s.mach p).fire = some x) (hmay : mayFire (getSink s.mach p) = true) :
    Ends (.trigger p) s (fun m => bit (getSink m p).stat 5 = true) := by
  have heq : ∃ (r : TrcRec) (v : Nat) (f : Sink → Option Nat), trigger s.mach p = sinkPut (modSink s.mach p (fun k =>
      { k with fire := none, stat := setFld (setBit k.stat 5 true) 59 32 v, stopAt := f k })) p r := by
    unfold trigger
    dsimp only
    rw [almFire_of_fired hfire, hfire]
    dsimp only
    rw [if_neg (by simp [hmay])]
    exact ⟨_, _, _, rfl⟩
  obtain ⟨r, v, f, heq⟩ := heq
  refine ⟨_, rfl, ?_⟩
  dsimp only
  rw [heq, bit_sinkPut _ _ _ (by decide), getSink_modSink]
  dsimp only
  rw [bit_setFld_other _ _ _ _ _ (by decide) (by decide)]
  exact bit_setBit_same _ _ _ (by decide)

theorem ends_trigger_idle (hfire : (getSink s.mach p).fire = some x) (hmay : mayFire (getSink s.mach p) = false) :
    Ends (.trigger p) s (fun m => m = modSink s.mach p (fun k => { k with fire := none })) := by
  refine ⟨_, rfl, ?_⟩
  show trigger s.mach p = _
  unfold trigger
  dsimp only
  rw [almFire_of_fired hfire, hfire]
  dsimp only
  rw [if_pos hmay]

end

/-! ### Snapshots (R568, R570) -/

/-- A unit's copy noted: late copies are counted, and the unit is done. -/
def snapNoted (x : Mach × Bool) (i : Nat) : Mach :=
  let t := if x.2 then bump x.1 .CNT_SNAPST 0 0 63 32 1 else x.1
  modDbg t (fun d => { d with snapLeft := t.dbg.snapLeft.erase i })

/-- With the last copy the snapshot is done. -/
def snapDone (t : Mach) : Mach :=
  if t.dbg.snapLeft.isEmpty then
    let u := modDbg t (fun d => { d with snapAt := none })
    wf (wb u .CNT_SNAPCTL 0 0 63 false) .CNT_SNAPST 0 0 31 0 (rf u .CNT_SNAPCTL 0 0 31 0)
  else t

theorem snapshotTake_eq {s : Mach} {u : SnapUnit} {i n : Nat} (hi : (match u with | .bay b => b.val | .die d => 72 + d.val) = i)
    (hat : s.dbg.snapAt = some n) (hleft : s.dbg.snapLeft.contains i = true) : snapshotTake s u = snapDone (snapNoted (snapUnit s u n) i) := by
  subst hi
  unfold snapshotTake
  cases u
  all_goals
    dsimp only at hleft ⊢
    rw [hat]
    dsimp only
    rw [if_neg (by simp only [hleft, Bool.true_eq_false, not_false_eq_true])]
    rfl

theorem snapDone_keeps {β : Type} {g : Mach → β} (hcsr : OffCsr g) (hat : ∀ s : Mach, g (modDbg s (fun d => { d with snapAt := none })) = g s)
    (t : Mach) : g (snapDone t) = g t := by
  unfold snapDone
  exact iteInduction (motive := fun m : Mach => g m = g t) (fun _ => (hcsr.wf _ _ _ _ _ _ _).trans ((hcsr.wb _ _ _ _ _ _).trans (hat t))) fun _ => rfl

theorem snapNoted_keeps {β : Type} {g : Mach → β} (hcsr : OffCsr g)
    (hleft : ∀ (s : Mach) (l : List Nat), g (modDbg s (fun d => { d with snapLeft := l })) = g s) (x : Mach × Bool) (i : Nat) :
    g (snapNoted x i) = g x.1 := by
  unfold snapNoted
  dsimp only
  rw [hleft]
  exact iteInduction (motive := fun m : Mach => g m = g x.1) (fun _ => hcsr.bump _ _ _ _ _ _ _) fun _ => rfl

theorem snapLeft_snapNoted (x : Mach × Bool) (i : Nat) : (snapNoted x i).dbg.snapLeft = x.1.dbg.snapLeft.erase i := by
  have hlate (c : Prop) [Decidable c] (t : Mach) : (if c then bump t .CNT_SNAPST 0 0 63 32 1 else t).dbg.snapLeft = t.dbg.snapLeft :=
    iteInduction (motive := fun m : Mach => m.dbg.snapLeft = t.dbg.snapLeft)
      (fun _ => OffCsr.bump (g := fun m => m.dbg.snapLeft) (fun _ _ => rfl) t _ _ _ _ _ _) fun _ => rfl
  exact congrArg (fun l : List Nat => l.erase i) (hlate _ x.1)

theorem snapLeft_snapDone (t : Mach) : (snapDone t).dbg.snapLeft = t.dbg.snapLeft :=
  snapDone_keeps (g := fun m => m.dbg.snapLeft) (fun _ _ => rfl) (fun _ => rfl) t

/-- Neither notes a register of a unit. -/
theorem rg_snapDone {n : RegName} {u i : Nat} (h : 0x800000 ≤ RegRef.addr ⟨n, u, i⟩) (t : Mach) : rg (snapDone t) n u i = rg t n u i := by
  have hst (t : Mach) (hi lo v : Nat) : rg (wf t .CNT_SNAPST 0 0 hi lo v) n u i = rg t n u i :=
    rg_wf_apart (fun he => by rw [he] at h; exact absurd h (by decide)) t hi lo v
  have hctl (t : Mach) (hi lo v : Nat) : rg (wf t .CNT_SNAPCTL 0 0 hi lo v) n u i = rg t n u i :=
    rg_wf_apart (fun he => by rw [he] at h; exact absurd h (by decide)) t hi lo v
  unfold snapDone wb
  exact iteInduction (motive := fun m : Mach => rg m n u i = rg t n u i) (fun _ => (hst _ _ _ _).trans (hctl _ _ _ _)) fun _ => rfl

theorem rg_snapNoted {n : RegName} {u i : Nat} (h : 0x800000 ≤ RegRef.addr ⟨n, u, i⟩) (x : Mach × Bool) (k : Nat) :
    rg (snapNoted x k) n u i = rg x.1 n u i := by
  have hst (t : Mach) (hi lo v : Nat) : rg (wf t .CNT_SNAPST 0 0 hi lo v) n u i = rg t n u i :=
    rg_wf_apart (fun he => by rw [he] at h; exact absurd h (by decide)) t hi lo v
  have hdbg (t : Mach) (f : DbgHub → DbgHub) : rg (modDbg t f) n u i = rg t n u i := rfl
  unfold snapNoted bump
  dsimp only
  rw [hdbg]
  exact iteInduction (motive := fun m : Mach => rg m n u i = rg x.1 n u i) (fun _ => hst _ _ _ _) fun _ => rfl

theorem snapAt_snapDone {t : Mach} (h : t.dbg.snapLeft = []) : (snapDone t).dbg.snapAt = none ∧ rb (snapDone t) .CNT_SNAPCTL 0 0 63 = false := by
  have heq : snapDone t = wf (wb (modDbg t (fun d => { d with snapAt := none })) .CNT_SNAPCTL 0 0 63 false) .CNT_SNAPST 0 0 31 0
      (rf (modDbg t (fun d => { d with snapAt := none })) .CNT_SNAPCTL 0 0 31 0) := if_pos (by rw [h]; rfl)
  rw [heq]
  refine ⟨?_, ?_⟩
  · exact (OffCsr.wf (g := fun m => m.dbg.snapAt) (fun _ _ => rfl) _ _ _ _ _ _ _).trans
      (OffCsr.wb (g := fun m => m.dbg.snapAt) (fun _ _ => rfl) _ _ _ _ _ _)
  · exact (congrArg (bit · 63) (rg_wf_apart (by decide) _ _ _ _)).trans (rb_wb _ .CNT_SNAPCTL 0 0 63 false (by decide))

/-- A counter of a bay copied to its shadow, and the counters of a list. -/
def shadow (s : Mach) (b k : Nat) : Mach := wr s .CNT_SH b k (rg s .CNT_EV b k)

def shadowed (b : Nat) (l : List Nat) (s : Mach) : Mach := foldS l (fun t k => shadow t b k) s

theorem shadowed_cons (b k : Nat) (l : List Nat) (s : Mach) : shadowed b (k :: l) s = shadowed b l (shadow s b k) := by
  unfold shadowed foldS
  rw [List.foldl_cons]

theorem counter_shadow (s : Mach) (b : Nat) {j k : Nat} (hj : j < 8) (hk : k < 8) : rg (shadow s b j) .CNT_EV b k = rg s .CNT_EV b k := by
  refine rg_wr_other _ _ _ _ _ _ _ _ ?_
  simp only [RegRef.addr, RegName.info, Blk.base]
  omega

theorem shadow_same (s : Mach) (b k : Nat) : rg (shadow s b k) .CNT_SH b k = rg s .CNT_EV b k := rg_wr _ _ _ _ _

theorem shadow_other (s : Mach) (b : Nat) {j k : Nat} (h : k ≠ j) : rg (shadow s b j) .CNT_SH b k = rg s .CNT_SH b k := by
  refine rg_wr_other _ _ _ _ _ _ _ _ ?_
  simp only [RegRef.addr, RegName.info, Blk.base]
  omega

theorem shadow_of_mem {b : Nat} {l : List Nat} (hl : ∀ j ∈ l, j < 8) {k : Nat} (hk : k < 8) {s : Mach}
    (h : k ∈ l ∨ rg s .CNT_SH b k = rg s .CNT_EV b k) : rg (shadowed b l s) .CNT_SH b k = rg (shadowed b l s) .CNT_EV b k := by
  induction l generalizing s with
  | nil => exact h.resolve_left List.not_mem_nil
  | cons j l ih =>
    have hj : j < 8 := hl j List.mem_cons_self
    rw [shadowed_cons]
    refine ih (fun i hi => hl i (List.mem_cons_of_mem j hi)) ?_
    rw [counter_shadow s b hj hk]
    by_cases hkj : k = j
    · subst hkj
      exact Or.inr (shadow_same s b k)
    · rw [shadow_other s b hkj]
      exact h.imp (fun hm => (List.mem_cons.1 hm).resolve_left hkj) id

theorem dbgHub_of_units {s t : Mach} (h : s.units = t.units) : s.dbg = t.dbg := by
  have e := congrArg Mach.dbg h
  exact e

/-- The word of CNT_SHSTAT after a copy. -/
theorem snapUnit_bay (s : Mach) (b : BayNo) (n : Nat) : ∃ (t : Mach) (late : Bool), t.dbg = s.dbg ∧
    snapUnit s (.bay b) n = (wr (shadowed b (List.range 8) t) .CNT_SHSTAT b 0
      (packFlds [(63, 32, rf s .CNT_SNAPCTL 0 0 31 0), (1, 1, late.toNat), (0, 0, 1)]), late) := by
  unfold snapUnit
  dsimp only
  refine ⟨_, _, ?_, rfl⟩
  rw [dbgHub_of_units (units_syncCnt _ _)]
  split <;> rfl

theorem addr_shstat_ge (b i : Nat) : 0x800000 ≤ RegRef.addr ⟨.CNT_SHSTAT, b, i⟩ ∧ 0x800000 ≤ RegRef.addr ⟨.CNT_SH, b, i⟩ ∧
    0x800000 ≤ RegRef.addr ⟨.CNT_EV, b, i⟩ := by
  simp only [RegRef.addr, RegName.info, Blk.base, dieBase, compDieId]
  refine ⟨?_, ?_, ?_⟩ <;> split <;> omega

theorem fld_packed_seq (seq late : Nat) (h : seq < 2 ^ 32) : fld (packFlds [(63, 32, seq), (1, 1, late), (0, 0, 1)]) 63 32 = seq := by
  show fld (setFld (setFld (setFld (0 : Word) 63 32 seq) 1 1 late) 0 0 1) 63 32 = seq
  rw [fld_setFld_other _ _ _ _ _ _ (by decide) (by decide), fld_setFld_other _ _ _ _ _ _ (by decide) (by decide),
    fld_setFld_same _ _ _ _ (by decide) (by decide)]
  exact Nat.mod_eq_of_lt h

section
variable {s : State} {n : Nat}

theorem ends_snapshotTake_bay {b : BayNo} (hat : s.mach.dbg.snapAt = some n) (hleft : s.mach.dbg.snapLeft.contains b.val = true) :
    Ends (.snapshotTake (.bay b)) s (fun m => m.dbg.snapLeft = s.mach.dbg.snapLeft.erase b.val ∧ rb m .CNT_SHSTAT b 0 0 = true ∧
      rf m .CNT_SHSTAT b 0 63 32 = rf s.mach .CNT_SNAPCTL 0 0 31 0 ∧
      (∀ k, k < 8 → rg m .CNT_SH b k = rg m .CNT_EV b k) ∧
      (s.mach.dbg.snapLeft = [b.val] → m.dbg.snapAt = none ∧ rb m .CNT_SNAPCTL 0 0 63 = false)) := by
  obtain ⟨t, late, hdbg, hunit⟩ := snapUnit_bay s.mach b n
  have heq := snapshotTake_eq (u := .bay b) rfl hat hleft
  rw [hunit] at heq
  generalize hv : shadowed b (List.range 8) t = v at heq
  generalize hw : wr v .CNT_SHSTAT b 0 (packFlds [(63, 32, rf s.mach .CNT_SNAPCTL 0 0 31 0), (1, 1, late.toNat), (0, 0, 1)]) = w at heq
  have hkept {n : RegName} {i : Nat} (h : 0x800000 ≤ RegRef.addr ⟨n, b, i⟩) :
      rg (snapDone (snapNoted (w, late) b)) n b i = rg w n b i := (rg_snapDone h _).trans (rg_snapNoted h _ _)
  have hstat : rg w .CNT_SHSTAT b 0 = packFlds [(63, 32, rf s.mach .CNT_SNAPCTL 0 0 31 0), (1, 1, late.toNat), (0, 0, 1)] := by
    rw [← hw, rg_wr]
  have hdbgv : v.dbg = s.mach.dbg := by
    rw [← hv, ← hdbg]
    exact foldS_keeps Mach.dbg _ _ _ fun u k => OffCsr.wr (g := Mach.dbg) (fun _ _ => rfl) u _ _ _ _
  have hdbgw : w.dbg = s.mach.dbg := by
    rw [← hw, ← hdbgv]
    exact OffCsr.wr (g := Mach.dbg) (fun _ _ => rfl) v _ _ _ _
  have hleft' : (snapNoted (w, late) b).dbg.snapLeft = s.mach.dbg.snapLeft.erase b.val := by
    rw [snapLeft_snapNoted, hdbgw]
  refine ⟨_, rfl, ?_⟩
  dsimp only
  rw [heq]
  refine ⟨?_, ?_, ?_, fun k hk => ?_, fun hlast => snapAt_snapDone ?_⟩
  · rw [snapLeft_snapDone, hleft']
  · refine (congrArg (bit · 0) ((hkept (addr_shstat_ge b 0).1).trans hstat)).trans ?_
    exact bit_setBit_same _ 0 true (by decide)
  · exact (congrArg (fld · 63 32) ((hkept (addr_shstat_ge b 0).1).trans hstat)).trans (fld_packed_seq _ _ (rf_lt s.mach _ _ _ 31 0))
  · have hapart (n : RegName) (hn : RegRef.addr ⟨n, b, k⟩ ≠ RegRef.addr ⟨.CNT_SHSTAT, b, 0⟩) : rg w n b k = rg v n b k := by
      rw [← hw]
      exact rg_wr_other _ _ _ _ _ _ _ _ hn
    rw [hkept (addr_shstat_ge b k).2.1, hkept (addr_shstat_ge b k).2.2,
      hapart .CNT_SH (by simp only [RegRef.addr, RegName.info, Blk.base]; omega),
      hapart .CNT_EV (by simp only [RegRef.addr, RegName.info, Blk.base]; omega), ← hv]
    exact shadow_of_mem (fun j hj => List.mem_range.1 hj) hk (Or.inl (List.mem_range.2 hk))
  · rw [hleft', hlast, List.erase_cons_head]

theorem ends_snapshotTake_die {d : Fin 32} (hat : s.mach.dbg.snapAt = some n) (hleft : s.mach.dbg.snapLeft.contains (72 + d.val) = true) :
    Ends (.snapshotTake (.die d)) s (fun m => m.dbg.snapLeft = s.mach.dbg.snapLeft.erase (72 + d.val) ∧ m.bays = s.mach.bays ∧
      m.mem = s.mach.mem) := by
  have hunit {β : Type} {g : Mach → β} (hcsr : OffCsr g) (hnow : ∀ (s : Mach) (x : Nat), g { s with now := x } = g s) :
      g (snapUnit s.mach (.die d) n).1 = g s.mach := by
    unfold snapUnit
    dsimp only
    rw [foldS_keeps g _ _ _ fun t k => hcsr.wr t _ _ _ _]
    exact iteInduction (motive := fun m : Mach => g m = g s.mach) (fun _ => rfl) fun _ => hnow _ _
  refine ⟨_, rfl, ?_⟩
  dsimp only
  rw [snapshotTake_eq (u := .die d) rfl hat hleft]
  refine ⟨?_, ?_, ?_⟩
  · rw [snapLeft_snapDone, snapLeft_snapNoted, hunit (g := Mach.dbg) (fun _ _ => rfl) (fun _ _ => rfl)]
  · rw [snapDone_keeps (g := Mach.bays) (fun _ _ => rfl) (fun _ => rfl), snapNoted_keeps (g := Mach.bays) (fun _ _ => rfl) (fun _ _ => rfl),
      hunit (g := Mach.bays) (fun _ _ => rfl) (fun _ _ => rfl)]
  · rw [snapDone_keeps (g := Mach.mem) (fun _ _ => rfl) (fun _ => rfl), snapNoted_keeps (g := Mach.mem) (fun _ _ => rfl) (fun _ _ => rfl),
      hunit (g := Mach.mem) (fun _ _ => rfl) (fun _ _ => rfl)]

theorem ends_snapshotTake_done {b : BayNo} (hleft : s.mach.dbg.snapLeft.contains b.val = false) :
    Ends (.snapshotTake (.bay b)) s (fun m => m = s.mach) := by
  refine ⟨_, rfl, ?_⟩
  show snapshotTake s.mach (.bay b) = s.mach
  unfold snapshotTake
  dsimp only
  split
  · rfl
  · exact if_pos hleft

end

/-- Settles O49. -/
theorem traceAndSnapshots : Obligations.TraceAndSnapshots :=
  ⟨fun _ _ => ends_pcSample, fun _ _ _ => ends_traceRecord_room, fun _ _ _ => ends_traceRecord_full, fun _ _ _ _ _ => ends_sinkWrite_stopped,
    fun _ _ _ _ _ _ => ends_sinkWrite_running, fun _ _ _ => ends_trigger, fun _ _ _ => ends_trigger_idle,
    fun _ _ _ => ends_snapshotTake_bay, fun _ _ _ => ends_snapshotTake_die, fun _ _ => ends_snapshotTake_done⟩

end Sys2Proof.Machine
end

section
/-! Halts and resumes of bays and cores, and the end of grants (R554 to R558, R473, R479). -/

namespace Sys2Proof.Machine

/-! ### What a halt and a resume change of the package -/

/-- A bay at the edge of its halt. -/
def haltedAt (s : Mach) (b e : Nat) : Mach :=
  let t := syncCnt (advanceEdge s b e) b
  modBay t b (fun x => { x with dbg := { x.dbg with halted := true, haltEdge := workEdge t b e, defer := none } })

/-- The HALT record of a bay, and its status. -/
def haltShown (s : Mach) (b data : Nat) : Mach :=
  emitTrace (bump (wb (wb s .DBG_BSTAT b 0 1 false) .DBG_BSTAT b 0 0 true) .DBG_BSTAT b 0 63 32 1) b 7 1 7 data

/-- A bay at the edge of its resume: what the halt delayed is moved. -/
def resumedAt (s : Mach) (b e : Nat) : Mach :=
  let t := syncCnt (advanceEdge s b e) b
  let r := workEdge t b e
  let h := (getBay t b).dbg.haltEdge
  modBay (shiftHalt t b h (r - h)) b (fun x => { x with dbg := { x.dbg with halted := false, resEdge := r } })

def resumeShown (s : Mach) (b data : Nat) : Mach := emitTrace (wb s .DBG_BSTAT b 0 0 false) b 7 1 7 data

section
variable {β : Type} {g : Mach → β} (hpstat : ∀ (s : Mach) (p lo : Nat) (v : Bool), g (setPstat s p lo v) = g s)
  (hdbg : ∀ (s : Mach) (f : DbgHub → DbgHub), g (modDbg s f) = g s)
include hpstat hdbg

/-- Beside the bay, a halt is noted in DBG_PSTAT and the hub's debug state only. The body is opened under its binders and the bay's
state then taken as it is, so that nothing looks the bay's partition up in the registers just written. -/
theorem haltBay_keeps (s : Mach) (b e : Nat) (forced late : Bool) :
    g (haltBay s b e forced late) = g (haltShown (haltedAt s b e) b (1 + 2 * forced.toNat + 4 * late.toNat)) := by
  generalize hx : g (haltShown (haltedAt s b e) b (1 + 2 * forced.toNat + 4 * late.toNat)) = x
  have hlate (c : Prop) [Decidable c] (t : Mach) (p lo : Nat) (v : Bool) : g (if c then setPstat t p lo v else t) = g t :=
    iteInduction (motive := fun m : Mach => g m = g t) (fun _ => hpstat t _ _ _) fun _ => rfl
  have hfrom (c : Prop) [Decidable c] (t : Mach) (f : DbgHub → DbgHub) : g (if c then t else modDbg t f) = g t :=
    iteInduction (motive := fun m : Mach => g m = g t) (fun _ => rfl) fun _ => hdbg t _
  have hnoted (t : Mach) (c : Prop) [Decidable c] (p q lo hi : Nat) (v w : Bool) (f : DbgHub → DbgHub) :
      g (if c then setPstat (setPstat (modDbg t f) p lo v) q hi w else t) = g t :=
    iteInduction (motive := fun m : Mach => g m = g t) (fun _ => by rw [hpstat, hpstat, hdbg]) fun _ => rfl
  suffices h : ∀ f, f = haltBay → g (f s b e forced late) = x from h _ rfl
  intro f hf
  delta haltBay at hf
  subst hf
  beta_reduce
  extract_lets t u v w
  have hw : g w = x := hx
  clear_value w
  split
  · exact hw
  · dsimp only
    rw [hnoted, hfrom, hlate, hw]

/-- Beside the bay, a resume is noted in DBG_PSTAT, the hub's debug state and the rota only. -/
theorem resumeBay_keeps (hrota : ∀ (s : Mach) (p : Nat) (f : Rota → Rota), g (modRota s p f) = g s) (s : Mach) (b e : Nat) (late : Bool) :
    g (resumeBay s b e late) = g (resumeShown (resumedAt s b e) b (4 * late.toNat)) := by
  generalize hx : g (resumeShown (resumedAt s b e) b (4 * late.toNat)) = x
  have hlate (c : Prop) [Decidable c] (t : Mach) (p lo : Nat) (v : Bool) : g (if c then setPstat t p lo v else t) = g t :=
    iteInduction (motive := fun m : Mach => g m = g t) (fun _ => hpstat t _ _ _) fun _ => rfl
  have hextend (t : Mach) (p : Nat) : g (extendRota t p) = g t := by
    unfold extendRota
    split
    · rfl
    · exact (hrota _ _ _).trans (hdbg _ _)
  have hnoted (t : Mach) (c : Prop) [Decidable c] (p q r lo hi : Nat) (v w : Bool) (f : DbgHub → DbgHub) :
      g (if c then t else extendRota (setPstat (setPstat (modDbg t f) p lo v) q hi w) r) = g t :=
    iteInduction (motive := fun m : Mach => g m = g t) (fun _ => rfl) fun _ => by rw [hextend, hpstat, hpstat, hdbg]
  suffices h : ∀ f, f = resumeBay → g (f s b e late) = x from h _ rfl
  intro f hf
  delta resumeBay at hf
  subst hf
  beta_reduce
  extract_lets t r k u v w
  have hw : g w = x := hx
  clear_value w
  split
  · exact hw
  · dsimp only
    rw [hnoted, hlate, hw]

end

section
variable {β : Type} {g : Mach → β}

theorem emitTrace_keeps (htrc : ∀ (s : Mach) (l : List TrcRec), g { s with trcWire := l } = g s) (s : Mach) (b k c u d : Nat) :
    g (emitTrace s b k c u d) = g s := by
  unfold emitTrace
  exact iteInduction (motive := fun m : Mach => g m = g s) (fun _ => htrc s _) fun _ => rfl

end

/-- A part of the package that halts and resumes of bays leave. -/
structure OffHalt {β : Type} (g : Mach → β) : Prop where
  csr : OffCsr g
  now : ∀ (s : Mach) (x : Nat), g { s with now := x } = g s
  events : ∀ (s : Mach) (x : SMap Nat), g { s with pwr := { s.pwr with events := x } } = g s
  bay : ∀ (s : Mach) (b : Nat) (f : Bay → Bay), g (modBay s b f) = g s
  trcWire : ∀ (s : Mach) (l : List TrcRec), g { s with trcWire := l } = g s
  dbg : ∀ (s : Mach) (f : DbgHub → DbgHub), g (modDbg s f) = g s
  rota : ∀ (s : Mach) (p : Nat) (f : Rota → Rota), g (modRota s p f) = g s

namespace OffHalt
variable {β : Type} {g : Mach → β} (h : OffHalt g)
include h

theorem syncCnt (s : Mach) (b : Nat) : g (syncCnt s b) = g s :=
  (h.bay _ _ _).trans ((countEv_keeps h.csr h.events _ _ _ _).trans (countEv_keeps h.csr h.events s _ _ _))

theorem pstat (s : Mach) (p lo : Nat) (v : Bool) : g (setPstat s p lo v) = g s := h.csr.wb s _ _ _ _ _

theorem haltBay (s : Mach) (b e : Nat) (forced late : Bool) : g (haltBay s b e forced late) = g s := by
  rw [haltBay_keeps h.pstat h.dbg]
  unfold haltShown haltedAt
  dsimp only
  rw [emitTrace_keeps h.trcWire, h.csr.bump, h.csr.wb, h.csr.wb, h.bay, h.syncCnt]
  exact h.now s _

theorem resumeBay (s : Mach) (b e : Nat) (late : Bool) : g (resumeBay s b e late) = g s := by
  rw [resumeBay_keeps h.pstat h.dbg h.rota]
  unfold resumeShown resumedAt shiftHalt
  dsimp only
  rw [emitTrace_keeps h.trcWire, h.csr.wb, h.bay, h.bay, h.syncCnt]
  exact h.now s _

end OffHalt

theorem offHalt_mem : OffHalt Mach.mem :=
  ⟨fun _ _ => rfl, fun _ _ => rfl, fun _ _ => rfl, fun _ _ _ => rfl, fun _ _ => rfl, fun _ _ => rfl, fun _ _ _ => rfl⟩
theorem offHalt_loft : OffHalt Mach.loft :=
  ⟨fun _ _ => rfl, fun _ _ => rfl, fun _ _ => rfl, fun _ _ _ => rfl, fun _ _ => rfl, fun _ _ => rfl, fun _ _ _ => rfl⟩

/-! ### The bay -/

theorem offCsr_getBay (b : Nat) : OffCsr (getBay · b) := fun _ _ => rfl

theorem getBay_emitTrace (s : Mach) (b k c u d e : Nat) : getBay (emitTrace s b k c u d) e = getBay s e :=
  emitTrace_keeps (g := (getBay · e)) (fun _ _ => rfl) s b k c u d

theorem getBay_haltShown (s : Mach) (b data c : Nat) : getBay (haltShown s b data) c = getBay s c := by
  unfold haltShown
  rw [getBay_emitTrace, (offCsr_getBay c).bump, (offCsr_getBay c).wb, (offCsr_getBay c).wb]

theorem getBay_resumeShown (s : Mach) (b data c : Nat) : getBay (resumeShown s b data) c = getBay s c := by
  unfold resumeShown
  rw [getBay_emitTrace, (offCsr_getBay c).wb]

theorem getBay_setPstat (s : Mach) (p lo : Nat) (v : Bool) (b : Nat) : getBay (setPstat s p lo v) b = getBay s b :=
  (offCsr_getBay b).wb s _ _ _ _ _

theorem getBay_haltBay (s : Mach) (b e : Nat) (forced late : Bool) (c : Nat) : getBay (haltBay s b e forced late) c = getBay (haltedAt s b e) c :=
  (haltBay_keeps (g := (getBay · c)) (fun s p lo v => getBay_setPstat s p lo v c) (fun _ _ => rfl) s b e forced late).trans
    (getBay_haltShown _ _ _ _)

theorem getBay_resumeBay (s : Mach) (b e : Nat) (late : Bool) (c : Nat) : getBay (resumeBay s b e late) c = getBay (resumedAt s b e) c :=
  (resumeBay_keeps (g := (getBay · c)) (fun s p lo v => getBay_setPstat s p lo v c) (fun _ _ => rfl) (fun _ _ _ => rfl) s b e late).trans
    (getBay_resumeShown _ _ _ _)

/-- A halted bay is halted, with no halt deferred. -/
theorem dbg_haltBay (s : Mach) (b : BayNo) (e : Nat) (forced late : Bool) :
    isHalted (haltBay s b e forced late) b = true ∧ (getBay (haltBay s b e forced late) b).dbg.defer = none := by
  unfold isHalted
  rw [getBay_haltBay]
  unfold haltedAt
  dsimp only
  rw [getBay_modBay_fin]
  exact ⟨rfl, rfl⟩

theorem getSeq_haltBay (s : Mach) (b : BayNo) (e : Nat) (forced late : Bool) : getSeq (haltBay s b e forced late) b = getSeq s b := by
  have hsync : getSeq (syncCnt (advanceEdge s b e) b) b = getSeq s b := seq_of_units ((units_syncCnt _ _).trans (units_advanceEdge _ _ _)) b
  have hseq {t u : Mach} (h : getBay t b = getBay u b) : getSeq t b = getSeq u b := congrArg Bay.seq h
  rw [hseq (getBay_haltBay _ _ _ _ _ _), ← hsync]
  unfold haltedAt getSeq
  dsimp only
  rw [getBay_modBay_fin]

/-- A resume of one bay: it is not halted after, and the others stay. -/
theorem isHalted_resumeBay (s : Mach) (b c : BayNo) (e : Nat) (late : Bool) :
    isHalted (resumeBay s b e late) c = (if c = b then false else isHalted s c) := by
  have hsync : isHalted (syncCnt (advanceEdge s b e) b) c = isHalted s c :=
    congrArg DbgBay.halted (dbg_of_units ((units_syncCnt _ _).trans (units_advanceEdge _ _ _)) c)
  rw [← hsync]
  unfold isHalted
  rw [getBay_resumeBay]
  unfold resumedAt shiftHalt
  dsimp only
  by_cases hcb : c = b
  · subst hcb
    rw [if_pos rfl, getBay_modBay_fin]
  · have hne : c.val ≠ b.val := fun hv => hcb (Fin.ext hv)
    rw [if_neg hcb, getBay_modBay, if_neg (fun hv => hne hv.1), getBay_modBay, if_neg (fun hv => hne hv.1)]

/-! ### Registers -/

theorem rg_setPstat {n : RegName} {u i : Nat} (h : RegRef.addr ⟨n, u, i⟩ ≠ RegRef.addr ⟨.DBG_PSTAT, 0, 0⟩) (s : Mach) (p lo : Nat) (v : Bool) :
    rg (setPstat s p lo v) n u i = rg s n u i := rg_wf_apart h s _ _ _

theorem rg_emitTrace (s : Mach) (b k c u d : Nat) (n : RegName) (v i : Nat) : rg (emitTrace s b k c u d) n v i = rg s n v i :=
  rg_of_csr (csr_emitTrace s b k c u d) n v i

theorem rg_haltBay {n : RegName} {u i : Nat} (h : RegRef.addr ⟨n, u, i⟩ ≠ RegRef.addr ⟨.DBG_PSTAT, 0, 0⟩) (s : Mach) (b e : Nat)
    (forced late : Bool) : rg (haltBay s b e forced late) n u i =
      rg (bump (wb (wb (haltedAt s b e) .DBG_BSTAT b 0 1 false) .DBG_BSTAT b 0 0 true) .DBG_BSTAT b 0 63 32 1) n u i :=
  (haltBay_keeps (g := (rg · n u i)) (rg_setPstat h) (fun _ _ => rfl) s b e forced late).trans (rg_emitTrace _ _ _ _ _ _ _ _ _)

theorem rg_resumeBay {n : RegName} {u i : Nat} (h : RegRef.addr ⟨n, u, i⟩ ≠ RegRef.addr ⟨.DBG_PSTAT, 0, 0⟩) (s : Mach) (b e : Nat)
    (late : Bool) : rg (resumeBay s b e late) n u i = rg (wb (resumedAt s b e) .DBG_BSTAT b 0 0 false) n u i :=
  (resumeBay_keeps (g := (rg · n u i)) (rg_setPstat h) (fun _ _ => rfl) (fun _ _ _ => rfl) s b e late).trans (rg_emitTrace _ _ _ _ _ _ _ _ _)

theorem addr_bstat_ge (b : Nat) : 0x800000 ≤ RegRef.addr ⟨.DBG_BSTAT, b, 0⟩ := by
  simp only [RegRef.addr, RegName.info, Blk.base, dieBase, compDieId]
  split <;> omega

theorem addr_bstat_ne (b : Nat) {a : Nat} (h : a < 0x800000) : RegRef.addr ⟨.DBG_BSTAT, b, 0⟩ ≠ a := by
  have := addr_bstat_ge b
  omega

theorem shown_haltBay (s : Mach) (b : BayNo) (e : Nat) (forced late : Bool) : rb (haltBay s b e forced late) .DBG_BSTAT b 0 0 = true := by
  refine (congrArg (bit · 0) (rg_haltBay (addr_bstat_ne b (by decide)) s b e forced late)).trans ?_
  refine (congrArg (bit · 0) (rg_wr _ _ _ _ _)).trans ?_
  rw [bit_setFld_other _ _ _ _ _ (by decide) (by decide)]
  exact rb_wb _ .DBG_BSTAT b 0 0 true (by decide)

theorem shown_resumeBay (s : Mach) (b : BayNo) (e : Nat) (late : Bool) : rb (resumeBay s b e late) .DBG_BSTAT b 0 0 = false := by
  refine (congrArg (bit · 0) (rg_resumeBay (addr_bstat_ne b (by decide)) s b e late)).trans ?_
  exact rb_wb _ .DBG_BSTAT b 0 0 false (by decide)

/-! ### Halts and resumes armed (R554 to R557) -/

section
variable {s : State} {b : BayNo} {p : Nat} {a : Nat × Bool}

theorem bayHalt_of_armed (hp : bayPid s.mach b = some p) (harm : smapGet none s.mach.dbg.armHalt p = some a)
    (hpres : bayPresent s.mach b = true) (hrun : isHalted s.mach b = false) (hdefer : (getBay s.mach b).dbg.defer = none) :
    bayHalt s.mach b = (if (getSem s.mach b).xfer.isSome then
      bump (wb (modBay (advanceEdge s.mach b (armedEdge s.mach b a)) b
        (fun x => { x with dbg := { x.dbg with defer := some (armedEdge s.mach b a + 1024) } })) .DBG_BSTAT b 0 1 true) .DBG_LOCKST 0 0 63 32 1
      else haltBay s.mach b (armedEdge s.mach b a) false a.2) := by
  unfold bayHalt
  rw [hp, Option.bind_some, harm]
  dsimp only
  rw [if_neg (by simp [hpres, hrun, hdefer])]

theorem ends_bayHalt (hp : bayPid s.mach b = some p) (harm : smapGet none s.mach.dbg.armHalt p = some a)
    (hpres : bayPresent s.mach b = true) (hrun : isHalted s.mach b = false) (hdefer : (getBay s.mach b).dbg.defer = none)
    (hxfer : (getSem s.mach b).xfer = none) :
    Ends (.bayHalt b) s (fun m => isHalted m b = true ∧ rb m .DBG_BSTAT b 0 0 = true ∧ m.mem = s.mach.mem ∧ m.loft = s.mach.loft ∧
      getSeq m b = getSeq s.mach b) := by
  refine ⟨_, rfl, ?_⟩
  dsimp only
  rw [bayHalt_of_armed hp harm hpres hrun hdefer, if_neg (by simp [hxfer])]
  exact ⟨(dbg_haltBay _ _ _ _ _).1, shown_haltBay _ _ _ _ _, offHalt_mem.haltBay _ _ _ _ _, offHalt_loft.haltBay _ _ _ _ _, getSeq_haltBay _ _ _ _ _⟩

theorem ends_bayHalt_deferred (hp : bayPid s.mach b = some p) (harm : smapGet none s.mach.dbg.armHalt p = some a)
    (hpres : bayPresent s.mach b = true) (hrun : isHalted s.mach b = false) (hdefer : (getBay s.mach b).dbg.defer = none)
    (hxfer : (getSem s.mach b).xfer.isSome = true) :
    Ends (.bayHalt b) s (fun m => isHalted m b = false ∧ (getBay m b).dbg.defer = some (armedEdge s.mach b a + 1024) ∧
      rb m .DBG_BSTAT b 0 1 = true) := by
  refine ⟨_, rfl, ?_⟩
  dsimp only
  rw [bayHalt_of_armed hp harm hpres hrun hdefer, if_pos hxfer]
  have hbay : getBay (bump (wb (modBay (advanceEdge s.mach b (armedEdge s.mach b a)) b
      (fun x => { x with dbg := { x.dbg with defer := some (armedEdge s.mach b a + 1024) } })) .DBG_BSTAT b 0 1 true) .DBG_LOCKST 0 0 63 32 1) b =
      { getBay s.mach b with dbg := { (getBay s.mach b).dbg with defer := some (armedEdge s.mach b a + 1024) } } := by
    rw [(offCsr_getBay b).bump, (offCsr_getBay b).wb, getBay_modBay_fin]
    rfl
  refine ⟨?_, ?_, ?_⟩
  · unfold isHalted
    rw [hbay]
    exact hrun
  · rw [hbay]
  · exact (congrArg (bit · 1) (rg_wf_apart (addr_bstat_ne b (by decide)) _ _ _ _)).trans (rb_wb _ .DBG_BSTAT b 0 1 true (by decide))

theorem ends_bayResume (hp : bayPid s.mach b = some p) (harm : smapGet none s.mach.dbg.armRes p = some a) (hhalt : isHalted s.mach b = true) :
    Ends (.bayResume b) s (fun m => isHalted m b = false ∧ rb m .DBG_BSTAT b 0 0 = false ∧ m.mem = s.mach.mem) := by
  have heq : bayResume s.mach b = resumeBay s.mach b (armedEdge s.mach b a) a.2 := by
    unfold bayResume
    rw [hp, Option.bind_some, harm]
    exact if_pos hhalt
  refine ⟨_, rfl, ?_⟩
  dsimp only
  rw [heq]
  exact ⟨by rw [isHalted_resumeBay, if_pos rfl], shown_resumeBay _ _ _ _, offHalt_mem.resumeBay _ _ _ _⟩

theorem ends_lockedSequenceEnd_bay (hdefer : (getBay s.mach b).dbg.defer.isSome = true) (hxfer : (getSem s.mach b).xfer = none) :
    Ends (.lockedSequenceEnd (.bay b)) s (fun m => isHalted m b = true ∧ (getBay m b).dbg.defer = none) := by
  have heq : lockedSequenceEnd s.mach (.bay b) = haltBay s.mach b (edgeAfter (clkOf s.mach b) s.mach.now) false false :=
    if_pos ⟨hdefer, by rw [hxfer]; rfl⟩
  refine ⟨_, rfl, ?_⟩
  dsimp only
  rw [heq]
  exact dbg_haltBay _ _ _ _ _

theorem ends_haltDeferExpiry_bay {e : Nat} (hdefer : (getBay s.mach b).dbg.defer = some e) :
    Ends (.haltDeferExpiry (.bay b)) s (fun m => isHalted m b = true ∧ (getBay m b).dbg.defer = none) := by
  have heq : ∃ (t : Mach) (k : Nat), haltDeferExpiry s.mach (.bay b) = haltBay t b k true false := by
    unfold haltDeferExpiry
    dsimp only
    rw [hdefer]
    exact ⟨_, _, rfl⟩
  obtain ⟨t, k, heq⟩ := heq
  refine ⟨_, rfl, ?_⟩
  dsimp only
  rw [heq]
  exact dbg_haltBay _ _ _ _ _

end

/-! ### Cores (R553, R554) -/

theorem getCore_enterDebug (s : Mach) (c : CoreNo) (cause : Nat) : (getCore (enterDebug s c cause) c).halted = true ∧
    (getCore (enterDebug s c cause) c).resv = none ∧ smapGet 0 (getCore (enterDebug s c cause) c).csr csrDpc = (getCore s c).pc := by
  unfold enterDebug
  dsimp only
  rw [getCore_modCore, if_pos ⟨rfl, c.isLt⟩]
  exact ⟨rfl, rfl, smapGet_smapPut_same _ _ _ _⟩

theorem coreDefer_enterDebug (s : Mach) (c : CoreNo) (cause : Nat) : smapGet none (enterDebug s c cause).dbg.coreDefer c = none :=
  smapGet_smapPut_same none s.dbg.coreDefer c none

theorem mem_enterDebug (s : Mach) (c cause : Nat) : (enterDebug s c cause).mem = s.mem := rfl

section
variable {s : State} {c : CoreNo}

theorem ends_lockedSequenceEnd_core (hdefer : (smapGet none s.mach.dbg.coreDefer c).isSome = true) (hfree : lockedRings s.mach c = []) :
    Ends (.lockedSequenceEnd (.core c)) s (fun m => (getCore m c).halted = true ∧ (getCore m c).resv = none ∧
      smapGet 0 (getCore m c).csr csrDpc = (getCore s.mach c).pc ∧ m.mem = s.mach.mem) := by
  have heq : lockedSequenceEnd s.mach (.core c) = enterDebug s.mach c 3 := if_pos ⟨hdefer, by rw [hfree]; rfl⟩
  obtain ⟨hhalt, hresv, hpc⟩ := getCore_enterDebug s.mach c 3
  refine ⟨_, rfl, ?_⟩
  dsimp only
  rw [heq]
  exact ⟨hhalt, hresv, hpc, mem_enterDebug _ _ _⟩

theorem ends_haltDeferExpiry_core {t : Nat} (hdefer : smapGet none s.mach.dbg.coreDefer c = some t) :
    Ends (.haltDeferExpiry (.core c)) s (fun m => (getCore m c).halted = true ∧ smapGet none m.dbg.coreDefer c = none) := by
  have heq : ∃ t : Mach, haltDeferExpiry s.mach (.core c) = enterDebug t c 3 := by
    unfold haltDeferExpiry
    dsimp only
    rw [hdefer]
    exact ⟨_, rfl⟩
  obtain ⟨t, heq⟩ := heq
  refine ⟨_, rfl, ?_⟩
  dsimp only
  rw [heq]
  exact ⟨(getCore_enterDebug t c 3).1, coreDefer_enterDebug t c 3⟩

end

/-! ### Grants and keys (R473, R479) -/

theorem ends_rekeyComplete {s : State} : Ends .rekeyComplete s (fun m => rb m .SEC_REKEY 0 0 63 = false ∧ m.units = s.mach.units ∧
    ∀ (n : RegName) (u i : Nat), RegRef.addr { name := n, unit := u, idx := i } ≠ RegRef.addr { name := .SEC_REKEY, unit := 0, idx := 0 } →
      rg m n u i = rg s.mach n u i) :=
  ⟨_, rfl, rb_wb s.mach .SEC_REKEY 0 0 63 false (by decide), units_wb _ _ _ _ _ _, fun _ _ _ h => rg_wf_apart h s.mach 63 63 _⟩

/-- A bay of a partition that lost its grant: a deferred halt is withdrawn, and a halted bay resumes. -/
def freeBay (t : Mach) (b : Nat) : Mach :=
  let t := modBay t b (fun x => { x with dbg := { x.dbg with defer := none } })
  let t := wb t .DBG_BSTAT b 0 1 false
  if isHalted t b then resumeBay t b (edgeOf t b + 1) false else t

/-- A core of a partition that lost its grant. -/
def freeCore (t : Mach) (c : Nat) : Mach :=
  let t := modDbg t (fun d => { d with coreDefer := smapPut none d.coreDefer c none })
  if (getCore t c).halted then leaveDebug t c else t

theorem endInvasive_eq (s : Mach) (p : Nat) :
    let t := setPstat (modDbg s (fun d => { d with armHalt := smapPut none d.armHalt p none })) p 0 false
    endInvasive s p = foldS (partCores (foldS (partBays t p) freeBay t) p) freeCore (foldS (partBays t p) freeBay t) := rfl

theorem isHalted_freeBay (s : Mach) (b c : BayNo) (h : c = b ∨ isHalted s c = false) : isHalted (freeBay s b) c = false := by
  have hsame : isHalted (wb (modBay s b (fun x => { x with dbg := { x.dbg with defer := none } })) .DBG_BSTAT b 0 1 false) c = isHalted s c := by
    unfold isHalted
    rw [(offCsr_getBay c).wb, getBay_modBay]
    split
    · next hc => rw [hc.1]
    · rfl
  unfold freeBay
  dsimp only
  generalize wb (modBay s b (fun x => { x with dbg := { x.dbg with defer := none } })) .DBG_BSTAT b 0 1 false = t at hsame
  split
  · rw [isHalted_resumeBay, hsame]
    split
    · rfl
    · next hne => exact h.resolve_left hne
  · next hrun =>
    rcases h with rfl | h
    · exact Bool.not_eq_true _ ▸ hrun
    · rw [hsame, h]

/-! What the end of a grant leaves. -/

namespace OffHalt
variable {β : Type} {g : Mach → β} (h : OffHalt g)
include h

theorem freeBay (s : Mach) (b : Nat) : g (freeBay s b) = g s := by
  have hwithdrawn : g (wb (modBay s b (fun x => { x with dbg := { x.dbg with defer := none } })) .DBG_BSTAT b 0 1 false) = g s :=
    (h.csr.wb _ _ _ _ _ _).trans (h.bay s b _)
  unfold Machine.freeBay
  dsimp only
  exact iteInduction (motive := fun m : Mach => g m = g s) (fun _ => (h.resumeBay _ _ _ _).trans hwithdrawn) fun _ => hwithdrawn

theorem endInvasive (hcores : ∀ (s : Mach) (x : Vector Core 96), g { s with cores := x } = g s) (s : Mach) (p : Nat) :
    g (endInvasive s p) = g s := by
  have hcore (t : Mach) (c : Nat) : g (freeCore t c) = g t := by
    unfold freeCore
    dsimp only
    exact iteInduction (motive := fun m : Mach => g m = g t) (fun _ => (hcores _ _).trans (h.dbg t _)) fun _ => h.dbg t _
  rw [endInvasive_eq, foldS_keeps g _ _ _ hcore, foldS_keeps g _ _ _ h.freeBay, h.pstat, h.dbg]

end OffHalt

theorem offHalt_fuses : OffHalt Mach.fuses :=
  ⟨fun _ _ => rfl, fun _ _ => rfl, fun _ _ => rfl, fun _ _ _ => rfl, fun _ _ => rfl, fun _ _ => rfl, fun _ _ _ => rfl⟩

theorem lt_of_mem_partBays {s : Mach} {p b : Nat} (h : b ∈ partBays s p) : b < 72 := List.mem_range.1 (List.mem_filter.1 h).1

/-- A register of the hub that counts no event, beside DBG_PSTAT. -/
structure HubReg (n : RegName) (u i : Nat) : Prop where
  quiet : Uncounted (RegRef.addr ⟨n, u, i⟩)
  hub : RegRef.addr ⟨n, u, i⟩ < 0x800000
  beside : RegRef.addr ⟨n, u, i⟩ ≠ RegRef.addr ⟨.DBG_PSTAT, 0, 0⟩

namespace HubReg
variable {n : RegName} {u i : Nat} (h : HubReg n u i)
include h

theorem resumedAt (s : Mach) (b : BayNo) (e : Nat) : rg (resumedAt s b e) n u i = rg s n u i := by
  have hbay (t : Mach) (f : Bay → Bay) : rg (modBay t b f) n u i = rg t n u i := rfl
  unfold Machine.resumedAt shiftHalt syncCnt
  dsimp only
  rw [hbay, hbay, hbay, rg_countEv_of_uncounted h.quiet, rg_countEv_of_uncounted h.quiet]
  rfl

theorem bstat (s : Mach) (b k : Nat) (v : Bool) : rg (wb s .DBG_BSTAT b 0 k v) n u i = rg s n u i :=
  rg_wf_apart (addr_bstat_ne b h.hub).symm s _ _ _

theorem freeBay (s : Mach) (b : BayNo) : rg (freeBay s b) n u i = rg s n u i := by
  have hbay (t : Mach) (f : Bay → Bay) : rg (modBay t b f) n u i = rg t n u i := rfl
  have hwithdrawn : rg (wb (modBay s b (fun x => { x with dbg := { x.dbg with defer := none } })) .DBG_BSTAT b 0 1 false) n u i = rg s n u i :=
    (h.bstat _ _ _ _).trans (hbay s _)
  unfold Machine.freeBay
  dsimp only
  refine iteInduction (motive := fun m : Mach => rg m n u i = rg s n u i) (fun _ => ?_) fun _ => hwithdrawn
  rw [rg_resumeBay h.beside, h.bstat, h.resumedAt, hwithdrawn]

theorem endInvasive (s : Mach) (p : Nat) : rg (endInvasive s p) n u i = rg s n u i := by
  have hdbg (t : Mach) (f : DbgHub → DbgHub) : rg (modDbg t f) n u i = rg t n u i := rfl
  have hleave (t : Mach) (c : Nat) : rg (leaveDebug t c) n u i = rg t n u i := rfl
  have hcore (t : Mach) (c : Nat) : rg (freeCore t c) n u i = rg t n u i := by
    unfold freeCore
    dsimp only
    exact iteInduction (motive := fun m : Mach => rg m n u i = rg t n u i) (fun _ => (hleave _ _).trans (hdbg _ _)) fun _ => hdbg _ _
  rw [endInvasive_eq, foldS_keeps (rg · n u i) _ _ _ hcore,
    foldS_keeps_of_mem (rg · n u i) _ _ _ fun t b hb => h.freeBay t ⟨b, lt_of_mem_partBays hb⟩, rg_setPstat h.beside, hdbg]

end HubReg

/-- The partition table lies in one block of the hub. -/
theorem hubReg_prt {n : RegName} {p : Nat} (hn : n.info.blk = .prt) (hp : n.info.off + p * n.info.stride < 0x1000) : HubReg n 0 p := by
  have hlo : 0x50000 ≤ RegRef.addr ⟨n, 0, p⟩ := by
    simp only [RegRef.addr, hn, Blk.base]
    omega
  have hhi : RegRef.addr ⟨n, 0, p⟩ < 0x51000 := by
    simp only [RegRef.addr, hn, Blk.base]
    omega
  refine ⟨⟨by omega, by omega⟩, by omega, fun he => ?_⟩
  rw [he] at hhi
  exact absurd hhi (by decide)

theorem sameParts_of_hub {s t : Mach} (h : ∀ {n : RegName} {u i : Nat}, HubReg n u i → rg s n u i = rg t n u i) : SameParts s t := fun p hp =>
  ⟨h (hubReg_prt rfl (by simp only [RegName.info]; omega)), h (hubReg_prt rfl (by simp only [RegName.info]; omega)),
    h (hubReg_prt rfl (by simp only [RegName.info]; omega))⟩

theorem bayPresent_of_fuses {s t : Mach} (h : s.fuses = t.fuses) (b : Nat) : bayPresent s b = bayPresent t b := by
  unfold bayPresent
  rw [h]

theorem mem_partBays {s : Mach} {p : Nat} {b : BayNo} (hp : bayPid s b = some p) (hpres : bayPresent s b = true) : b.val ∈ partBays s p :=
  List.mem_filter.2 ⟨List.mem_range.2 b.isLt, by rw [hpres, decide_eq_true hp]; rfl⟩

theorem partBays_of_parts {s t : Mach} (h : SameParts s t) (hf : s.fuses = t.fuses) (p : Nat) : partBays s p = partBays t p := by
  unfold partBays
  refine List.filter_congr fun b _ => ?_
  rw [bayPresent_of_fuses hf, bayPid_of_parts h]

/-- The bays of a list freed: those of it run, and no other halts. -/
theorem isHalted_freeAll {l : List Nat} (hl : ∀ b ∈ l, b < 72) {c : BayNo} {s : Mach} (h : c.val ∈ l ∨ isHalted s c = false) :
    isHalted (foldS l freeBay s) c = false := by
  induction l generalizing s with
  | nil => exact h.resolve_left List.not_mem_nil
  | cons b l ih =>
    have hb : b < 72 := hl b List.mem_cons_self
    unfold foldS
    rw [List.foldl_cons]
    refine ih (fun i hi => hl i (List.mem_cons_of_mem b hi)) ?_
    by_cases hcb : c.val = b
    · exact Or.inr (isHalted_freeBay s ⟨b, hb⟩ c (Or.inl (Fin.ext hcb)))
    · exact h.imp (fun hm => (List.mem_cons.1 hm).resolve_left hcb) fun hc => isHalted_freeBay s ⟨b, hb⟩ c (Or.inr hc)

theorem isHalted_endInvasive {s : Mach} {p : Nat} {c : BayNo} (h : c.val ∈ partBays s p ∨ isHalted s c = false) :
    isHalted (endInvasive s p) c = false := by
  have hcore (t : Mach) (k : Nat) : isHalted (freeCore t k) c = isHalted t c := by
    unfold freeCore
    dsimp only
    exact iteInduction (motive := fun m : Mach => isHalted m c = isHalted t c) (fun _ => rfl) fun _ => rfl
  have hbegun : isHalted (setPstat (modDbg s (fun d => { d with armHalt := smapPut none d.armHalt p none })) p 0 false) c = isHalted s c :=
    congrArg (fun x : Bay => x.dbg.halted) (getBay_setPstat _ _ _ _ _)
  have hbays : partBays (setPstat (modDbg s (fun d => { d with armHalt := smapPut none d.armHalt p none })) p 0 false) p = partBays s p :=
    partBays_of_parts (sameParts_of_hub fun hn => rg_setPstat hn.beside _ _ _ _) (OffCsr.wb (g := Mach.fuses) (fun _ _ => rfl) _ _ _ _ _ _) p
  rw [endInvasive_eq, foldS_keeps (isHalted · c) _ _ _ hcore, hbays]
  exact isHalted_freeAll (fun _ => lt_of_mem_partBays) (h.imp_right fun hc => hbegun.trans hc)

/-- The partitions of a list without their grant: none of their bays is halted. -/
theorem isHalted_endAll {l : List Nat} {c : BayNo} {s : Mach} (h : (∃ p ∈ l, c.val ∈ partBays s p) ∨ isHalted s c = false) :
    isHalted (foldS l endInvasive s) c = false := by
  induction l generalizing s with
  | nil =>
    rcases h with ⟨p, hp, -⟩ | h
    · exact absurd hp List.not_mem_nil
    · exact h
  | cons q l ih =>
    unfold foldS
    rw [List.foldl_cons]
    refine ih ?_
    have hkept (p : Nat) : partBays (endInvasive s q) p = partBays s p :=
      partBays_of_parts (sameParts_of_hub fun hn => hn.endInvasive s q) (offHalt_fuses.endInvasive (fun _ _ => rfl) s q) p
    rcases h with ⟨p, hp, hc⟩ | h
    · rcases List.mem_cons.1 hp with rfl | hp
      · exact Or.inr (isHalted_endInvasive (Or.inl hc))
      · exact Or.inl ⟨p, hp, by rw [hkept]; exact hc⟩
    · exact Or.inr (isHalted_endInvasive (Or.inr h))

/-- No scope granted. -/
def ungranted (s : Mach) : Mach := wr s .SEC_DBG_STATE 0 0 (packFlds [(32, 32, 0), (31, 16, 0), (15, 0, 0)])

theorem grantExpiry_eq {s : Mach} (hstate : rg s .SEC_DBG_STATE 0 0 ≠ 0) (hrun : s.alm.running = true) :
    grantExpiry s = foldS ((List.range 16).filter (fun p => grantInv s p && !(0 : Nat).testBit p)) endInvasive
      (ungranted (advanceTo s (frameTick s (rf s .SEC_DBG_EXPIRY 0 0 47 0)))) := by
  unfold grantExpiry
  rw [if_neg (not_or.2 ⟨hstate, by rw [hrun]; decide⟩)]
  rfl

theorem ends_grantExpiry {s : State} (hstate : rg s.mach .SEC_DBG_STATE 0 0 ≠ 0) (hrun : s.mach.alm.running = true) :
    Ends .grantExpiry s (fun m => rg m .SEC_DBG_STATE 0 0 = 0 ∧ m.mem = s.mach.mem ∧
      ∀ (b : BayNo) (p : Fin 16), bayPid s.mach b = some p.val → bayPresent s.mach b = true → grantInv s.mach p = true →
        isHalted m b = false) := by
  have hreg : HubReg .SEC_DBG_STATE 0 0 := ⟨⟨by decide, by decide⟩, by decide, by decide⟩
  refine ⟨_, rfl, ?_⟩
  dsimp only
  rw [grantExpiry_eq hstate hrun]
  generalize hu : advanceTo s.mach (frameTick s.mach (rf s.mach .SEC_DBG_EXPIRY 0 0 47 0)) = u
  have hparts : SameParts (ungranted u) s.mach := by
    rw [← hu]
    exact sameParts_wr (Or.inr (by decide)) _ _
  have hfuses : (ungranted u).fuses = s.mach.fuses := by
    rw [← hu]
    exact OffCsr.wr (g := Mach.fuses) (fun _ _ => rfl) _ _ _ _ _
  refine ⟨?_, ?_, fun b p hp hpres hinv => isHalted_endAll (Or.inl ⟨p.val, ?_, ?_⟩)⟩
  · rw [foldS_keeps (rg · .SEC_DBG_STATE 0 0) _ _ _ hreg.endInvasive]
    exact rg_wr _ _ _ _ _
  · rw [foldS_keeps Mach.mem _ _ _ (offHalt_mem.endInvasive fun _ _ => rfl)]
    refine (OffCsr.wr (g := Mach.mem) (fun _ _ => rfl) u _ _ _ _).trans ?_
    rw [← hu]
    rfl
  · exact List.mem_filter.2 ⟨List.mem_range.2 p.isLt, by rw [hinv, Nat.zero_testBit]; rfl⟩
  · rw [partBays_of_parts hparts hfuses]
    exact mem_partBays hp hpres

/-- Settles O48. -/
theorem grantsHaltsAndResumes : Obligations.GrantsHaltsAndResumes :=
  ⟨fun _ _ _ _ => ends_bayHalt, fun _ _ _ _ => ends_bayHalt_deferred, fun _ _ _ _ => ends_bayResume, fun _ _ => ends_lockedSequenceEnd_bay,
    fun _ _ _ => ends_haltDeferExpiry_bay, fun _ _ => ends_lockedSequenceEnd_core, fun _ _ _ => ends_haltDeferExpiry_core,
    fun _ => ends_rekeyComplete, fun _ => ends_grantExpiry, fun _ h => ⟨_, rfl, if_pos (Or.inl h)⟩⟩

end Sys2Proof.Machine
end

section
/-! The state of a Vrelrek port: what its own changes, its registers and its records leave (R415 to R426, R435). -/

namespace Sys2Proof.Machine

/-! ### The port -/

theorem getPort_modPort (s : Mach) (p : PortNo) (f : Port → Port) : getPort (modPort s p f) p = f (getPort s p) :=
  vget_vmod_same _ _ _ _ p.isLt

theorem getPort_modPort_other (s : Mach) {p q : Nat} (h : q ≠ p) (f : Port → Port) : getPort (modPort s p f) q = getPort s q :=
  vget_vmod_other _ _ _ _ _ h

theorem getPort_of_units {s t : Mach} (h : s.units = t.units) (p : Nat) : getPort s p = getPort t p := by
  have e := congrArg Mach.ports h
  exact congrArg (vget Port.zero · p) e

theorem getPort_wf (s : Mach) (n : RegName) (u i hi lo v p : Nat) : getPort (wf s n u i hi lo v) p = getPort s p :=
  getPort_of_units (units_wf s n u i hi lo v) p
theorem getPort_wb (s : Mach) (n : RegName) (u i k : Nat) (v : Bool) (p : Nat) : getPort (wb s n u i k v) p = getPort s p :=
  getPort_of_units (units_wb s n u i k v) p
theorem getPort_wr (s : Mach) (n : RegName) (u i : Nat) (v : Word) (p : Nat) : getPort (wr s n u i v) p = getPort s p :=
  getPort_of_units (units_wr s n u i v) p
theorem getPort_bump (s : Mach) (n : RegName) (u i hi lo k p : Nat) : getPort (bump s n u i hi lo k) p = getPort s p :=
  getPort_of_units (units_bump s n u i hi lo k) p
theorem getPort_advanceTo (s : Mach) (t p : Nat) : getPort (advanceTo s t) p = getPort s p := getPort_of_units (units_advanceTo s t) p
theorem getPort_modAlmPort (s : Mach) (q : Nat) (f : AlmPort → AlmPort) (p : Nat) : getPort (modAlmPort s q f) p = getPort s p := rfl

theorem rg_modPort (s : Mach) (q : Nat) (f : Port → Port) (n : RegName) (u i : Nat) : rg (modPort s q f) n u i = rg s n u i := rfl
theorem now_modPort (s : Mach) (q : Nat) (f : Port → Port) : (modPort s q f).now = s.now := rfl

theorem units_vkEvent (s : Mach) (p code : Nat) : (vkEvent s p code).units = s.units := by
  unfold vkEvent
  dsimp only
  rw [units_raise, units_recordFirst]

theorem getPort_vkEvent (s : Mach) (p code q : Nat) : getPort (vkEvent s p code) q = getPort s q := getPort_of_units (units_vkEvent s p code) q

theorem now_recordFirst (s : Mach) (n : RegName) (u i : Nat) (v : Word) : (recordFirst s n u i v).now = s.now := by
  rw [recordFirst_only]

theorem now_vkEvent (s : Mach) (p code : Nat) : (vkEvent s p code).now = s.now := by
  unfold vkEvent
  dsimp only
  rw [now_raise, now_recordFirst]

/-! ### Its registers -/

theorem barnDieId_bounds (p : PortNo) : 1 ≤ barnDieId (p / 6) ∧ barnDieId (p / 6) < 32 := by
  have := p.isLt
  unfold barnDieId
  split <;> omega

/-- A register of the block of a port. -/
structure VkReg (n : RegName) : Prop where
  blk : n.info.blk = .vk
  low : n.info.off < 0x1000

theorem VkReg.addr_ge {n : RegName} (h : VkReg n) (p : PortNo) : 0x300000 ≤ RegRef.addr ⟨n, p, 0⟩ := by
  have := barnDieId_bounds p
  simp only [RegRef.addr, h.blk, Blk.base, dieBase]
  omega

theorem VkReg.quiet {n : RegName} (h : VkReg n) (p : PortNo) : Uncounted (RegRef.addr ⟨n, p, 0⟩) := by
  have hge := h.addr_ge p
  have hlow := h.low
  have hlt := p.isLt
  refine ⟨Or.inl ?_, Or.inr (by omega)⟩
  simp only [RegRef.addr, h.blk, Blk.base, dieBase, barnDieId]
  omega

/-- Another register of the port, or one of the hub. -/
theorem VkReg.ne_hub {n : RegName} (h : VkReg n) (p : PortNo) {a : Nat} (ha : a < 0x300000) : RegRef.addr ⟨n, p, 0⟩ ≠ a := by
  have := h.addr_ge p
  omega

theorem VkReg.ne {n m : RegName} (h : VkReg n) (hm : VkReg m) (hne : n.info.off ≠ m.info.off) (p : Nat) :
    RegRef.addr ⟨n, p, 0⟩ ≠ RegRef.addr ⟨m, p, 0⟩ := addr_ne_of_off n m (h.blk.trans hm.blk.symm) hne p

theorem vkStatus : VkReg .VK_STATUS := ⟨rfl, by decide⟩
theorem vkErr : VkReg .VK_ERR := ⟨rfl, by decide⟩
theorem vkLanes : VkReg .VK_LANES := ⟨rfl, by decide⟩
theorem vkPeerid : VkReg .VK_PEERID := ⟨rfl, by decide⟩
theorem vkTrain : VkReg .VK_TRAIN := ⟨rfl, by decide⟩
theorem vkExp : VkReg .VK_EXP := ⟨rfl, by decide⟩
theorem vkCfg : VkReg .VK_CFG := ⟨rfl, by decide⟩
theorem vkPeer : VkReg .VK_PEER := ⟨rfl, by decide⟩

theorem rg_raise_of_uncounted {n : RegName} {u i : Nat} (h : Uncounted (RegRef.addr ⟨n, u, i⟩)) (s : Mach) {r : FltRec} (hd : r.die < 32) :
    rg (raise s r) n u i = rg s n u i := by
  unfold raise
  dsimp only
  exact iteInduction (motive := fun m : Mach => rg m n u i = rg s n u i) (fun _ => rfl) fun _ => rg_bumpAo_of_uncounted h hd (by decide) _ _

theorem rg_vkEvent {n : RegName} (h : VkReg n) (hne : n.info.off ≠ 0x30) (s : Mach) (p : PortNo) (code : Nat) :
    rg (vkEvent s p code) n p 0 = rg s n p 0 := by
  have hd : barnDieId (p / 6) < 32 := (barnDieId_bounds p).2
  unfold vkEvent
  dsimp only
  rw [rg_raise_of_uncounted (h.quiet p) _ (by rw [forPart_die]; exact hd), rg_recordFirst_other (h.ne vkErr hne p)]

/-- After an event VK_ERR is valid. -/
theorem valid_vkEvent (s : Mach) (p : PortNo) (code : Nat) : rb (vkEvent s p code) .VK_ERR p 0 63 = true := by
  have hd : barnDieId (p / 6) < 32 := (barnDieId_bounds p).2
  have hrec : rb (recordFirst s .VK_ERR p 0 (packFlds [(39, 8, count s % 2 ^ 32), (7, 0, code)])) .VK_ERR p 0 63 = true := by
    unfold recordFirst
    split
    · next hset => exact hset
    · exact (congrArg (bit · 63) (rg_wr _ _ _ _ _)).trans (bit_setBit_same _ 63 true (by decide))
  unfold vkEvent
  dsimp only
  exact (congrArg (bit · 63) (rg_raise_of_uncounted (vkErr.quiet p) _ (by rw [forPart_die]; exact hd))).trans hrec

/-! ### Its state -/

theorem portState_setPortState (s : Mach) (p st : Nat) : portState (setPortState s p st) p = st % 16 :=
  rf_wf s .VK_STATUS p 0 3 0 st (by decide) (by decide)

/-- A field of VK_STATUS above STATE. -/
theorem rf_setPortState (s : Mach) (p st : Nat) {hi lo : Nat} (h : 3 < lo) : rf (setPortState s p st) .VK_STATUS p 0 hi lo = rf s .VK_STATUS p 0 hi lo :=
  rf_wf_other _ _ _ _ _ _ _ _ _ (by decide) (Or.inr h)

theorem portState_wf (s : Mach) (p : Nat) {hi lo : Nat} (v : Nat) (h : 3 < lo) (hle : lo ≤ hi + 1) :
    portState (wf s .VK_STATUS p 0 hi lo v) p = portState s p := rf_wf_other _ _ _ _ _ _ _ _ _ hle (Or.inl h)

theorem portState_of_rg {s t : Mach} {p : Nat} (h : rg s .VK_STATUS p 0 = rg t .VK_STATUS p 0) : portState s p = portState t p :=
  congrArg (fld · 3 0) h

/-! ### Training states taken up -/

theorem getPort_enterSub (s : Mach) (p : PortNo) (n : Nat) : getPort (enterSub s p n) p = { getPort s p with sub := n, stateAt := s.now } := by
  unfold enterSub setPortState
  dsimp only
  refine (iteInduction (motive := fun m : Mach => getPort m p = getPort (modPort s p (fun q => { q with sub := n, stateAt := s.now })) p)
    (fun _ => rfl) fun _ => getPort_wf _ _ _ _ _ _ _ _).trans (getPort_modPort s p _)

theorem portState_enterSub (s : Mach) (p : PortNo) (n : Nat) :
    portState (enterSub s p n) p = if portState s p = vkRetrain then vkRetrain else n % 16 := by
  have hsame : portState (modPort s p (fun q => { q with sub := n, stateAt := s.now })) p = portState s p := rfl
  unfold enterSub
  dsimp only
  rw [hsame]
  split
  · next h => exact hsame.trans h
  · exact portState_setPortState _ _ _

theorem rg_enterSub {n : RegName} (h : VkReg n) (hne : n.info.off ≠ 0x0) (s : Mach) (p : PortNo) (k : Nat) :
    rg (enterSub s p k) n p 0 = rg s n p 0 := by
  unfold enterSub setPortState
  exact iteInduction (motive := fun m : Mach => rg m n p 0 = rg s n p 0) (fun _ => rfl) fun _ => rg_wf_apart (h.ne vkStatus hne p) _ _ _ _

theorem rf_enterSub (s : Mach) (p : PortNo) (n : Nat) {hi lo : Nat} (h : 3 < lo) :
    rf (enterSub s p n) .VK_STATUS p 0 hi lo = rf s .VK_STATUS p 0 hi lo := by
  unfold enterSub
  exact iteInduction (motive := fun m : Mach => rf m .VK_STATUS p 0 hi lo = rf s .VK_STATUS p 0 hi lo) (fun _ => rfl)
    fun _ => rf_setPortState _ _ _ h

theorem now_enterSub (s : Mach) (p n : Nat) : (enterSub s p n).now = s.now := by
  unfold enterSub setPortState
  exact iteInduction (motive := fun m : Mach => m.now = s.now) (fun _ => rfl) fun _ => OffCsr.wf (g := Mach.now) (fun _ _ => rfl) _ _ _ _ _ _ _

/-! ### Buffers lost (R426, R457) -/

/-- A port with its buffers lost. -/
def Port.discarded (q : Port) : Port :=
  { Port.zero with sub := q.sub, stateAt := q.stateAt, retrainAt := q.retrainAt, retrains := q.retrains, nextTx := q.nextTx,
                   usable := q.usable, peer := q.peer }

/-- No packet is spilled from a port any more. -/
def unspill (p : Nat) (l : List Nat) (s : Mach) : Mach :=
  foldS l (fun t k => modPort t k (fun q =>
    { q with txq := q.txq.map (fun x => if x.from_ = some p then { x with from_ := none } else x) })) s

theorem unspill_keeps {β : Type} {g : Mach → β} (hg : ∀ (s : Mach) (k : Nat) (f : Port → Port), g (modPort s k f) = g s) (p : Nat)
    (l : List Nat) (s : Mach) : g (unspill p l s) = g s := foldS_keeps g _ _ _ fun t k => hg t k _

/-- A port whose packets are gone stays as it is. -/
theorem getPort_unspill (r : Nat) (l : List Nat) (s : Mach) (p : PortNo) (h : (getPort s p).txq = []) : getPort (unspill r l s) p = getPort s p := by
  induction l generalizing s with
  | nil => rfl
  | cons k l ih =>
    have hstep : getPort (modPort s k (fun q => { q with txq := q.txq.map (fun x => if x.from_ = some r then { x with from_ := none } else x) })) p =
        getPort s p := by
      by_cases hk : p.val = k
      · subst hk
        rw [getPort_modPort, h, List.map_nil, ← h]
      · exact getPort_modPort_other s hk _
    unfold unspill foldS
    rw [List.foldl_cons]
    exact (ih _ (by rw [hstep, h])).trans hstep

theorem discardPort_eq (s : Mach) (p : Nat) : ∃ n : Nat,
    discardPort s p = unspill p (List.range 24) (modPort (bump s .VK_EXP p 0 31 0 n) p Port.discarded) := ⟨_, rfl⟩

theorem getPort_discardPort (s : Mach) (p : PortNo) : getPort (discardPort s p) p = (getPort s p).discarded := by
  obtain ⟨n, heq⟩ := discardPort_eq s p
  have hport : getPort (modPort (bump s .VK_EXP p 0 31 0 n) p Port.discarded) p = (getPort s p).discarded := by
    rw [getPort_modPort, getPort_bump]
  rw [heq, getPort_unspill _ _ _ _ (by rw [hport]; rfl), hport]

theorem rg_discardPort {n : RegName} (h : VkReg n) (hne : n.info.off ≠ 0x48) (s : Mach) (p : PortNo) :
    rg (discardPort s p) n p 0 = rg s n p 0 := by
  obtain ⟨k, heq⟩ := discardPort_eq s p
  rw [heq, unspill_keeps (g := (rg · n p 0)) (fun _ _ _ => rfl), rg_modPort]
  exact rg_wf_apart (h.ne vkExp hne p) s _ _ _

theorem now_discardPort (s : Mach) (p : Nat) : (discardPort s p).now = s.now := by
  obtain ⟨k, heq⟩ := discardPort_eq s p
  rw [heq, unspill_keeps (g := Mach.now) (fun _ _ _ => rfl), now_modPort, now_bump]

/-! ### The almanac's measure of a port ended -/

theorem getPort_endMeasure (s : Mach) (p q : Nat) : getPort (endMeasure s p) q = getPort s q := by
  unfold endMeasure
  dsimp only
  rw [getPort_modAlmPort, getPort_wb]

theorem now_modAlmPort (s : Mach) (q : Nat) (f : AlmPort → AlmPort) : (modAlmPort s q f).now = s.now := rfl
theorem rg_modAlmPort (s : Mach) (q : Nat) (f : AlmPort → AlmPort) (n : RegName) (u i : Nat) : rg (modAlmPort s q f) n u i = rg s n u i := rfl

theorem now_endMeasure (s : Mach) (p : Nat) : (endMeasure s p).now = s.now := by
  unfold endMeasure
  dsimp only
  rw [now_modAlmPort, now_wb]

theorem rg_endMeasure {n : RegName} (h : VkReg n) (s : Mach) (p : PortNo) : rg (endMeasure s p) n p 0 = rg s n p 0 := by
  have hport : RegRef.addr ⟨.ALM_PORT, 0, p⟩ < 0x300000 := by
    have := p.isLt
    simp only [RegRef.addr, RegName.info, Blk.base]
    omega
  unfold endMeasure
  dsimp only
  rw [rg_modAlmPort]
  exact rg_wf_apart (h.ne_hub p hport) s _ _ _

/-! ### Failure (R415, R426) -/

/-- A failed port: its state, why, and that it does not train. -/
theorem failPort_spec (s : Mach) (p : PortNo) (why : Nat) : portState (failPort s p why) p = vkFailed ∧
    rf (failPort s p why) .VK_STATUS p 0 11 8 = why % 16 ∧ (getPort (failPort s p why) p).sub = 0 ∧ (failPort s p why).now = s.now := by
  have hrg : rg (failPort s p why) .VK_STATUS p 0 =
      rg (wf (wf (setPortState (vkEvent s p 7) p vkFailed) .VK_STATUS p 0 11 8 why) .VK_STATUS p 0 43 32 0) .VK_STATUS p 0 := by
    unfold failPort
    dsimp only
    rw [rg_discardPort vkStatus (by decide), rg_modPort, rg_endMeasure vkStatus]
  refine ⟨?_, ?_, ?_, ?_⟩
  · rw [portState_of_rg hrg, portState_wf _ _ _ (by decide) (by decide), portState_wf _ _ _ (by decide) (by decide), portState_setPortState]
    rfl
  · refine (congrArg (fld · 11 8) hrg).trans ((rf_wf_other _ _ _ _ _ _ _ _ _ (by decide) (by decide)).trans ?_)
    exact rf_wf _ _ _ _ _ _ _ (by decide) (by decide)
  · unfold failPort
    dsimp only
    rw [getPort_discardPort, getPort_modPort]
    rfl
  · unfold failPort setPortState
    dsimp only
    have hwf (t : Mach) (hi lo v : Nat) : (wf t .VK_STATUS p 0 hi lo v).now = t.now := OffCsr.wf (g := Mach.now) (fun _ _ => rfl) t _ _ _ _ _ _
    rw [now_discardPort, now_modPort, now_endMeasure, hwf, hwf, hwf, now_vkEvent]

end Sys2Proof.Machine
end

section
/-! Training of a Vrelrek port (R415 to R419, R426). -/

namespace Sys2Proof.Machine

/-! ### Detection (R416) -/

/-- The lanes that a check does not pass, one bit each. -/
def isolated (w : Fin 4 → Bool) : Nat := (List.finRange 4).foldl (fun a j => if w j then a else a + 2 ^ j.val) 0

theorem testBit_isolated : ∀ (w : Fin 4 → Bool) (k : Fin 4), (isolated w).testBit k = !w k := by decide

theorem isolated_lt : ∀ w : Fin 4 → Bool, isolated w < 16 := by decide

theorem testBit_fifteen : ∀ k : Fin 4, Nat.testBit 15 k = true := by decide

theorem isolated_none : ∀ w : Fin 4 → Bool, (∀ k, w k = false) → isolated w = 15 := by decide

/-- Whether a lane is usable both ways. -/
def laneGood (tx rx : BitVec 8) (k : Fin 4) : Bool := decide (fld tx (2 * k + 1) (2 * k) = 0) && decide (fld rx (2 * k + 1) (2 * k) = 0)

theorem isolated_lanes (tx rx : BitVec 8) : (List.range 4).foldl (fun a k =>
      if fld tx (2 * k + 1) (2 * k) = 0 ∧ fld rx (2 * k + 1) (2 * k) = 0 then a else a + 2 ^ k) 0 = isolated (laneGood tx rx) := by
  have hrange : List.range 4 = (List.finRange 4).map Fin.val := by decide
  rw [hrange, List.foldl_map]
  unfold isolated laneGood
  simp only [Bool.and_eq_true, decide_eq_true_eq]

/-- VK_LANES after a check of the lanes. -/
def lanesWord (tx rx : BitVec 8) : Word := packFlds [(19, 16, isolated (laneGood tx rx)), (15, 8, rx.toNat), (7, 0, tx.toNat)]

theorem lanesWord_eq (tx rx : BitVec 8) :
    lanesWord tx rx = setFld (setFld (setFld 0 19 16 (isolated (laneGood tx rx))) 15 8 rx.toNat) 7 0 tx.toNat := rfl

theorem fld_lanesWord_tx (tx rx : BitVec 8) : fld (lanesWord tx rx) 7 0 = tx.toNat := by
  rw [lanesWord_eq, fld_setFld_same _ _ _ _ (by decide) (by decide)]
  exact Nat.mod_eq_of_lt tx.isLt

theorem fld_lanesWord_rx (tx rx : BitVec 8) : fld (lanesWord tx rx) 15 8 = rx.toNat := by
  rw [lanesWord_eq, fld_setFld_other _ _ _ _ _ _ (by decide) (by decide), fld_setFld_same _ _ _ _ (by decide) (by decide)]
  exact Nat.mod_eq_of_lt rx.isLt

theorem fld_lanesWord_isolated (tx rx : BitVec 8) : fld (lanesWord tx rx) 19 16 = isolated (laneGood tx rx) := by
  rw [lanesWord_eq, fld_setFld_other _ _ _ _ _ _ (by decide) (by decide), fld_setFld_other _ _ _ _ _ _ (by decide) (by decide),
    fld_setFld_same _ _ _ _ (by decide) (by decide)]
  exact Nat.mod_eq_of_lt (isolated_lt _)

theorem bit_lanesWord (tx rx : BitVec 8) (k : Fin 4) : bit (lanesWord tx rx) (16 + k) = !laneGood tx rx k := by
  have hk := k.isLt
  rw [lanesWord_eq, bit_setFld_other _ _ _ _ _ (by decide) (by omega), bit_setFld_other _ _ _ _ _ (by decide) (by omega), ← testBit_isolated]
  unfold bit
  rw [setFld_getLsbD _ _ _ _ _ (by decide), if_pos ⟨by omega, by omega, by omega⟩, Nat.add_sub_cancel_left]

theorem vkDetect_eq {s : Mach} {p : PortNo} (tx rx : BitVec 8) (hpres : portPresent s p = true) (hsub : (getPort s p).sub = 1) :
    vkDetect s p tx rx =
      let t := wr s .VK_LANES p 0 (lanesWord tx rx)
      if isolated (laneGood tx rx) = 15 then
        advanceTo (modPort t p (fun q => { q with stateAt := t.now + 16000000 * Config.acyc })) (t.now + 16000000 * Config.acyc)
      else enterSub t p 2 := by
  unfold vkDetect
  rw [if_pos ⟨hpres, hsub⟩]
  dsimp only
  rw [isolated_lanes]
  rfl

section
variable {s : State} {p : PortNo}

theorem ends_vkDetect {tx rx : BitVec 8} {k : Fin 4} (hpres : portPresent s.mach p = true) (hsub : (getPort s.mach p).sub = 1)
    (htx : fld tx (2 * k + 1) (2 * k) = 0) (hrx : fld rx (2 * k + 1) (2 * k) = 0) :
    Ends (.vkDetect p tx rx) s (fun m => (getPort m p).sub = 2 ∧ rf m .VK_LANES p 0 7 0 = tx.toNat ∧ rf m .VK_LANES p 0 15 8 = rx.toNat ∧
      bit (rg m .VK_LANES p 0) (16 + k) = false ∧ portState m p = (if portState s.mach p = vkRetrain then vkRetrain else 2) ∧
      m.now = s.mach.now) := by
  have hgood : laneGood tx rx k = true := by
    unfold laneGood
    rw [htx, hrx]
    rfl
  have hnot : isolated (laneGood tx rx) ≠ 15 := by
    intro h
    have hbit := testBit_isolated (laneGood tx rx) k
    rw [h, hgood, testBit_fifteen k] at hbit
    cases hbit
  have hlanes : rg (enterSub (wr s.mach .VK_LANES p 0 (lanesWord tx rx)) p 2) .VK_LANES p 0 = lanesWord tx rx :=
    (rg_enterSub vkLanes (by decide) _ p 2).trans (rg_wr _ _ _ _ _)
  have hstate : portState (wr s.mach .VK_LANES p 0 (lanesWord tx rx)) p = portState s.mach p :=
    portState_of_rg (rg_wr_other _ _ _ _ _ _ _ _ (vkStatus.ne vkLanes (by decide) p))
  refine ⟨_, rfl, ?_⟩
  dsimp only
  rw [vkDetect_eq tx rx hpres hsub]
  dsimp only
  rw [if_neg hnot]
  refine ⟨?_, ?_, ?_, ?_, ?_, ?_⟩
  · rw [getPort_enterSub]
  · exact (congrArg (fld · 7 0) hlanes).trans (fld_lanesWord_tx tx rx)
  · exact (congrArg (fld · 15 8) hlanes).trans (fld_lanesWord_rx tx rx)
  · rw [hlanes, bit_lanesWord, hgood]
    rfl
  · rw [portState_enterSub, hstate]
  · rw [now_enterSub, wr_now]

theorem ends_vkDetect_none {tx rx : BitVec 8} (hpres : portPresent s.mach p = true) (hsub : (getPort s.mach p).sub = 1)
    (hbad : ∀ k : Fin 4, fld tx (2 * k + 1) (2 * k) ≠ 0 ∨ fld rx (2 * k + 1) (2 * k) ≠ 0) :
    Ends (.vkDetect p tx rx) s (fun m => (getPort m p).sub = 1 ∧ rf m .VK_LANES p 0 19 16 = 15 ∧
      m.now = s.mach.now + 16000000 * Config.acyc) := by
  have hnone : isolated (laneGood tx rx) = 15 := isolated_none _ fun k => by
    unfold laneGood
    rcases hbad k with h | h <;> simp only [h, decide_false, Bool.false_and, Bool.and_false]
  refine ⟨_, rfl, ?_⟩
  dsimp only
  rw [vkDetect_eq tx rx hpres hsub]
  dsimp only
  rw [if_pos hnone]
  refine ⟨?_, ?_, ?_⟩
  · rw [getPort_advanceTo, getPort_modPort, getPort_wr]
    exact hsub
  · exact (congrArg (fld · 19 16) (rg_wr s.mach .VK_LANES p 0 (lanesWord tx rx))).trans ((fld_lanesWord_isolated tx rx).trans hnone)
  · rw [advanceTo_now, now_modPort, wr_now]
    omega

/-! ### Lock and map (R417, R418) -/

theorem rf_modPort (s : Mach) (q : Nat) (f : Port → Port) (n : RegName) (u i hi lo : Nat) : rf (modPort s q f) n u i hi lo = rf s n u i hi lo :=
  congrArg (fld · hi lo) (rg_modPort s q f n u i)
theorem portState_modPort (s : Mach) (q : Nat) (f : Port → Port) (p : Nat) : portState (modPort s q f) p = portState s p :=
  portState_of_rg (rg_modPort s q f _ _ _)

theorem now_wf (s : Mach) (n : RegName) (u i hi lo v : Nat) : (wf s n u i hi lo v).now = s.now := wr_now _ _ _ _ _

/-- The lanes of a port that has locked: those isolated, whether they are reversed, the inverted ones, and those usable. -/
def locked (s : Mach) (p iso : Nat) (r : Bool) (pol usable : Nat) : Mach :=
  let s := wf s .VK_LANES p 0 19 16 iso
  let s := wf (wb s .VK_STATUS p 0 37 r) .VK_STATUS p 0 35 32 pol
  enterSub (modPort s p (fun q => { q with usable := usable })) p 3

/-- What `locked` shows. -/
theorem locked_spec (s : Mach) (p : PortNo) (r : Bool) {iso pol usable : Nat} (hiso : iso < 16) (hpol : pol < 16) :
    (getPort (locked s p iso r pol usable) p).sub = 3 ∧ rf (locked s p iso r pol usable) .VK_LANES p 0 19 16 = iso ∧
    rb (locked s p iso r pol usable) .VK_STATUS p 0 37 = r ∧ rf (locked s p iso r pol usable) .VK_STATUS p 0 35 32 = pol ∧
    (getPort (locked s p iso r pol usable) p).usable = usable := by
  have hport : getPort (locked s p iso r pol usable) p = { getPort s p with usable := usable, sub := 3, stateAt := s.now } := by
    unfold locked
    dsimp only
    rw [getPort_enterSub, getPort_modPort, getPort_wf, getPort_wb, getPort_wf, now_modPort, now_wf, now_wb, now_wf]
  have hbits (w : Mach) : rb (enterSub (modPort w p (fun q => { q with usable := usable })) p 3) .VK_STATUS p 0 37 = rb w .VK_STATUS p 0 37 := by
    unfold enterSub
    exact iteInduction (motive := fun m : Mach => rb m .VK_STATUS p 0 37 = rb w .VK_STATUS p 0 37) (fun _ => rfl)
      fun _ => rb_wf_above _ .VK_STATUS p 0 3 0 _ 37 (by decide) (by decide)
  refine ⟨by rw [hport], ?_, ?_, ?_, by rw [hport]⟩
  · have hlanes : rg (locked s p iso r pol usable) .VK_LANES p 0 = rg (wf s .VK_LANES p 0 19 16 iso) .VK_LANES p 0 := by
      unfold locked
      dsimp only
      rw [rg_enterSub vkLanes (by decide), rg_modPort]
      refine (rg_wf_apart (vkLanes.ne vkStatus (by decide) p) _ _ _ _).trans ?_
      exact rg_wf_apart (vkLanes.ne vkStatus (by decide) p) _ _ _ _
    refine (congrArg (fld · 19 16) hlanes).trans ?_
    exact rf_wf_of_lt s .VK_LANES p 0 (by decide) (by decide) hiso
  · unfold locked
    dsimp only
    rw [hbits]
    generalize wf s .VK_LANES p 0 19 16 iso = t
    exact (rb_wf_above _ .VK_STATUS p 0 35 32 pol 37 (by decide) (by decide)).trans (rb_wb t .VK_STATUS p 0 37 r (by decide))
  · unfold locked
    dsimp only
    rw [rf_enterSub _ p 3 (by decide), rf_modPort]
    generalize wb (wf s .VK_LANES p 0 19 16 iso) .VK_STATUS p 0 37 r = t
    exact rf_wf_of_lt t .VK_STATUS p 0 (by decide) (by decide) hpol

theorem sum_pol : ∀ pol : BitVec 4, ([0, 1, 2, 3].map (fun k => if bit pol k then 2 ^ k else 0)).sum = pol.toNat := by decide

theorem vkLock_same (pol : BitVec 4) (hpres : portPresent s.mach p = true) (hsub : (getPort s.mach p).sub = 2)
    (hiso : rf s.mach .VK_LANES p 0 19 16 = 0) :
    vkLock s.mach p [some 0, some 1, some 2, some 3] pol = locked s.mach p 0 false pol.toNat 15 := by
  rw [← sum_pol pol]
  unfold vkLock
  rw [if_pos ⟨hpres, hsub⟩, hiso]
  rfl

theorem vkLock_reversed (pol : BitVec 4) (hpres : portPresent s.mach p = true) (hsub : (getPort s.mach p).sub = 2)
    (hiso : rf s.mach .VK_LANES p 0 19 16 = 0) :
    vkLock s.mach p [some 3, some 2, some 1, some 0] pol =
      locked s.mach p 0 true ([0, 1, 2, 3].map (fun k => if bit pol k then 2 ^ (3 - k) else 0)).sum 15 := by
  unfold vkLock
  rw [if_pos ⟨hpres, hsub⟩, hiso]
  rfl

theorem ends_vkLock {pol : BitVec 4} (hpres : portPresent s.mach p = true) (hsub : (getPort s.mach p).sub = 2)
    (hiso : rf s.mach .VK_LANES p 0 19 16 = 0) :
    Ends (.vkLock p [some 0, some 1, some 2, some 3] pol) s (fun m => (getPort m p).sub = 3 ∧ rf m .VK_LANES p 0 19 16 = 0 ∧
      rb m .VK_STATUS p 0 37 = false ∧ rf m .VK_STATUS p 0 35 32 = pol.toNat ∧ (getPort m p).usable = 15) := by
  have hwf : lockWf [some 0, some 1, some 2, some 3] = true := rfl
  refine ⟨vkLock s.mach p [some 0, some 1, some 2, some 3] pol, if_pos (e := .fault .illFormed) hwf, ?_⟩
  rw [vkLock_same pol hpres hsub hiso]
  exact locked_spec _ _ _ (by decide) pol.isLt

theorem polarity_lt : ∀ pol : BitVec 4, ([0, 1, 2, 3].map (fun k => if bit pol k then 2 ^ (3 - k) else 0)).sum < 16 := by decide

theorem ends_vkLock_reversed {pol : BitVec 4} (hpres : portPresent s.mach p = true) (hsub : (getPort s.mach p).sub = 2)
    (hiso : rf s.mach .VK_LANES p 0 19 16 = 0) :
    Ends (.vkLock p [some 3, some 2, some 1, some 0] pol) s (fun m => (getPort m p).sub = 3 ∧ rb m .VK_STATUS p 0 37 = true ∧
      (getPort m p).usable = 15) := by
  obtain ⟨hsub', -, hrev, -, husable⟩ := locked_spec s.mach p true (iso := 0) (usable := 15) (by decide) (polarity_lt pol)
  have hwf : lockWf [some 3, some 2, some 1, some 0] = true := rfl
  refine ⟨vkLock s.mach p [some 3, some 2, some 1, some 0] pol, if_pos (e := .fault .illFormed) hwf, ?_⟩
  rw [vkLock_reversed pol hpres hsub hiso]
  exact ⟨hsub', hrev, husable⟩

theorem widthOf_lt {m w l : Nat} (h : widthOf m = some (w, l)) : w < 4 ∧ l < 16 := by
  unfold widthOf at h
  split at h
  · cases h; decide
  split at h
  · cases h; decide
  split at h
  · cases h; decide
  split at h
  · cases h
  · obtain ⟨k, hk, heq⟩ := Option.map_eq_some_iff.1 h
    have hlt : k < 4 := List.mem_range.1 (List.mem_of_find?_eq_some hk)
    cases heq
    interval_cases k <;> decide

theorem ends_vkMap {peer : BitVec 4} {w l : Nat} (hpres : portPresent s.mach p = true) (hsub : (getPort s.mach p).sub = 3)
    (hwidth : widthOf ((getPort s.mach p).usable &&& peer.toNat) = some (w, l)) :
    Ends (.vkMap p peer) s (fun m => (getPort m p).sub = 4 ∧ rf m .VK_STATUS p 0 43 40 = l ∧ rf m .VK_STATUS p 0 39 38 = w ∧
      (w ≠ 3 → rb m .VK_ERR p 0 63 = true)) := by
  obtain ⟨hw, hl⟩ := widthOf_lt hwidth
  have heq : vkMap s.mach p peer =
      let t := wf (wf s.mach .VK_STATUS p 0 43 40 l) .VK_STATUS p 0 39 38 w
      enterSub (if w = 3 then t else vkEvent t p 3) p 4 := by
    unfold vkMap
    rw [if_pos ⟨hpres, hsub⟩, hwidth]
  refine ⟨_, rfl, ?_⟩
  dsimp only
  rw [heq]
  dsimp only
  generalize ht : wf (wf s.mach .VK_STATUS p 0 43 40 l) .VK_STATUS p 0 39 38 w = t
  have hstatus : rg (if w = 3 then t else vkEvent t p 3) .VK_STATUS p 0 = rg t .VK_STATUS p 0 :=
    iteInduction (motive := fun m : Mach => rg m .VK_STATUS p 0 = rg t .VK_STATUS p 0) (fun _ => rfl)
      fun _ => rg_vkEvent vkStatus (by decide) t p 3
  refine ⟨?_, ?_, ?_, fun hw3 => ?_⟩
  · rw [getPort_enterSub]
  · refine (rf_enterSub _ p 4 (by decide)).trans ((congrArg (fld · 43 40) hstatus).trans ?_)
    rw [← ht]
    exact (rf_wf_other _ _ _ _ _ _ _ _ _ (by decide) (by decide)).trans (rf_wf_of_lt _ .VK_STATUS p 0 (by decide) (by decide) hl)
  · refine (rf_enterSub _ p 4 (by decide)).trans ((congrArg (fld · 39 38) hstatus).trans ?_)
    rw [← ht]
    exact rf_wf_of_lt _ .VK_STATUS p 0 (by decide) (by decide) hw
  · rw [if_neg hw3]
    exact (congrArg (bit · 63) (rg_enterSub vkErr (by decide) _ p 4)).trans (valid_vkEvent t p 3)

theorem ends_vkMap_none {peer : BitVec 4} (hpres : portPresent s.mach p = true) (hsub : (getPort s.mach p).sub = 3)
    (hwidth : widthOf ((getPort s.mach p).usable &&& peer.toNat) = none) : Ends (.vkMap p peer) s (fun m => (getPort m p).sub = 1) := by
  have heq : vkMap s.mach p peer = enterSub (startDetect s.mach p) p 1 := by
    unfold vkMap
    rw [if_pos ⟨hpres, hsub⟩, hwidth]
  refine ⟨_, rfl, ?_⟩
  dsimp only
  rw [heq, getPort_enterSub]

theorem ends_vkEqualise (hpres : portPresent s.mach p = true) (hsub : (getPort s.mach p).sub = 4) :
    Ends (.vkEqualise p) s (fun m => (getPort m p).sub = 5 ∧ (getPort m p).stateAt = s.mach.now) := by
  have heq : vkEqualise s.mach p = enterSub s.mach p 5 := if_pos ⟨hpres, hsub⟩
  refine ⟨_, rfl, ?_⟩
  dsimp only
  rw [heq, getPort_enterSub]
  exact ⟨rfl, rfl⟩

/-! ### Identification (R419) -/

/-- VK_PEERID once the peer is known. -/
def peerWord (b0 : BitVec 128) : Word :=
  packFlds [(63, 63, 1), (47, 32, fld b0 127 112), (29, 16, fld b0 111 98), (4, 0, fld b0 97 93)]

theorem peerWord_eq (b0 : BitVec 128) : peerWord b0 =
    setFld (setFld (setFld (setFld 0 63 63 1) 47 32 (fld b0 127 112)) 29 16 (fld b0 111 98)) 4 0 (fld b0 97 93) := rfl

theorem valid_peerWord (b0 : BitVec 128) : bit (peerWord b0) 63 = true := by
  rw [peerWord_eq, bit_setFld_other _ _ _ _ _ (by decide) (by decide), bit_setFld_other _ _ _ _ _ (by decide) (by decide),
    bit_setFld_other _ _ _ _ _ (by decide) (by decide)]
  exact bit_setBit_same 0 63 true (by decide)

theorem node_peerWord (b0 : BitVec 128) : fld (peerWord b0) 29 16 = fld b0 111 98 := by
  rw [peerWord_eq, fld_setFld_other _ _ _ _ _ _ (by decide) (by decide), fld_setFld_same _ _ _ _ (by decide) (by decide)]
  exact Nat.mod_eq_of_lt (Nat.mod_lt _ (by decide))

theorem route_wr (s : Mach) (n : RegName) (u i : Nat) (v : Word) : (wr s n u i v).route = s.route := by
  have e := congrArg Mach.route (units_wr s n u i v)
  exact e

/-- The package with the peer of a port known. -/
def peerKnown (s : Mach) (p : Nat) (b0 : BitVec 128) : Mach := wr s .VK_PEERID p 0 (peerWord b0)

theorem peerKnown_eq (s : Mach) (p : Nat) (b0 : BitVec 128) : peerKnown s p b0 =
    wr s .VK_PEERID p 0 (packFlds [(63, 63, 1), (47, 32, fld b0 127 112), (29, 16, fld b0 111 98), (4, 0, fld b0 97 93)]) := rfl

theorem portState_peerKnown (s : Mach) (p : PortNo) (b0 : BitVec 128) : portState (peerKnown s p b0) p = portState s p :=
  portState_of_rg (rg_wr_other _ _ _ _ _ _ _ _ (vkStatus.ne vkPeerid (by decide) p))

theorem identHeld_peerKnown (s : Mach) (p : PortNo) (b0 : BitVec 128) (node port : Nat) :
    identHeld (peerKnown s p b0) p node port = identHeld s p node port := by
  have hpeer : rg (peerKnown s p b0) .VK_PEER p 0 = rg s .VK_PEER p 0 := rg_wr_other _ _ _ _ _ _ _ _ (vkPeer.ne vkPeerid (by decide) p)
  have hnode : (peerKnown s p b0).route = s.route := route_wr s .VK_PEERID p 0 _
  unfold identHeld rf
  rw [hpeer, hnode]

theorem identHeld_lt {s : Mach} {p node port why : Nat} (h : identHeld s p node port = some why) : why < 16 := by
  unfold identHeld at h
  dsimp only at h
  split at h
  · cases h; decide
  split at h
  · cases h; decide
  split at h
  · cases h; decide
  · cases h

theorem ends_ident_active {b0 b1 : BitVec 128} (hpres : portPresent s.mach p = true) (hsub : (getPort s.mach p).sub = 5)
    (hnew : portState s.mach p ≠ vkRetrain) (hident : identHeld s.mach p (fld b0 111 98) (fld b0 97 93) = none) :
    Ends (.ident p b0 b1) s (fun m => portState m p = vkActive ∧ (getPort m p).sub = 0 ∧ (getPort m p).txSeq = 0 ∧
      (getPort m p).rxSeq = 4095 ∧ (getPort m p).peer = some (fld b0 127 112, fld b0 111 98, fld b0 97 93) ∧
      (getPort m p).granted = (List.range 6).map (fun v => fld b1 (12 * v + 11) (12 * v)) ∧ rb m .VK_PEERID p 0 63 = true ∧
      rf m .VK_PEERID p 0 29 16 = fld b0 111 98) := by
  have hfirst : portState (peerKnown s.mach p b0) p ≠ vkRetrain := by rwa [portState_peerKnown]
  have hheld := (identHeld_peerKnown s.mach p b0 (fld b0 111 98) (fld b0 97 93)).trans hident
  have heq : identRx s.mach p b0 b1 =
      let t := bump (wf (setPortState (peerKnown s.mach p b0) p vkActive) .VK_STATUS p 0 15 12 0) .VK_TRAIN p 0 31 0 1
      modPort t p (fun q => { q with sub := 0, nextTx := t.now * 5, ackAt := t.now, peer := some (fld b0 127 112, fld b0 111 98, fld b0 97 93),
                                     txSeq := 0, rxSeq := 4095, granted := (List.range 6).map (fun v => fld b1 (12 * v + 11) (12 * v)) }) := by
    unfold identRx
    rw [if_pos ⟨hpres, hsub⟩]
    dsimp only
    rw [← peerKnown_eq]
    generalize peerKnown s.mach p b0 = k at hfirst hheld ⊢
    rw [decide_eq_false hfirst, Bool.false_and, if_neg Bool.false_ne_true, hheld]
    exact if_neg Bool.false_ne_true
  refine ⟨_, rfl, ?_⟩
  dsimp only
  rw [heq]
  dsimp only
  generalize ht : bump (wf (setPortState (peerKnown s.mach p b0) p vkActive) .VK_STATUS p 0 15 12 0) .VK_TRAIN p 0 31 0 1 = t
  have hstatus : portState t p = vkActive := by
    rw [← ht]
    refine (portState_of_rg (rg_wf_apart (vkStatus.ne vkTrain (by decide) p) _ _ _ _)).trans ?_
    rw [portState_wf _ _ _ (by decide) (by decide), portState_setPortState]
    rfl
  have hpeer : rg t .VK_PEERID p 0 = peerWord b0 := by
    rw [← ht]
    refine (rg_wf_apart (vkPeerid.ne vkTrain (by decide) p) _ _ _ _).trans ?_
    refine (rg_wf_apart (vkPeerid.ne vkStatus (by decide) p) _ _ _ _).trans ((rg_wf_apart (vkPeerid.ne vkStatus (by decide) p) _ _ _ _).trans ?_)
    exact rg_wr _ _ _ _ _
  rw [getPort_modPort]
  refine ⟨(portState_modPort t p _ p).trans hstatus, rfl, rfl, rfl, rfl, rfl, ?_, ?_⟩
  · exact (congrArg (bit · 63) ((rg_modPort _ _ _ _ _ _).trans hpeer)).trans (valid_peerWord b0)
  · exact (congrArg (fld · 29 16) ((rg_modPort _ _ _ _ _ _).trans hpeer)).trans (node_peerWord b0)

theorem ends_ident_held {b0 b1 : BitVec 128} {why : Nat} (hpres : portPresent s.mach p = true) (hsub : (getPort s.mach p).sub = 5)
    (hnew : portState s.mach p ≠ vkRetrain) (hident : identHeld s.mach p (fld b0 111 98) (fld b0 97 93) = some why) :
    Ends (.ident p b0 b1) s (fun m => portState m p = vkHeld ∧ rf m .VK_STATUS p 0 15 12 = why ∧ (getPort m p).sub = 0) := by
  have hfirst : portState (peerKnown s.mach p b0) p ≠ vkRetrain := by rwa [portState_peerKnown]
  have hheld := (identHeld_peerKnown s.mach p b0 (fld b0 111 98) (fld b0 97 93)).trans hident
  have heq : identRx s.mach p b0 b1 =
      let t := wf (setPortState (peerKnown s.mach p b0) p vkHeld) .VK_STATUS p 0 15 12 why
      vkEvent (modPort t p (fun q => { q with sub := 0, nextTx := t.now * 5 })) p (why + 4) := by
    unfold identRx
    rw [if_pos ⟨hpres, hsub⟩]
    dsimp only
    rw [← peerKnown_eq]
    generalize peerKnown s.mach p b0 = k at hfirst hheld ⊢
    rw [decide_eq_false hfirst, Bool.false_and, if_neg Bool.false_ne_true, hheld]
  refine ⟨_, rfl, ?_⟩
  dsimp only
  rw [heq]
  dsimp only
  generalize ht : wf (setPortState (peerKnown s.mach p b0) p vkHeld) .VK_STATUS p 0 15 12 why = t
  have hrg : rg (vkEvent (modPort t p (fun q => { q with sub := 0, nextTx := t.now * 5 })) p (why + 4)) .VK_STATUS p 0 = rg t .VK_STATUS p 0 :=
    (rg_vkEvent vkStatus (by decide) _ p _).trans (rg_modPort _ _ _ _ _ _)
  refine ⟨?_, ?_, ?_⟩
  · rw [portState_of_rg hrg, ← ht, portState_wf _ _ _ (by decide) (by decide), portState_setPortState]
    rfl
  · refine (congrArg (fld · 15 12) hrg).trans ?_
    rw [← ht]
    exact rf_wf_of_lt _ .VK_STATUS p 0 (by decide) (by decide) (identHeld_lt hident)
  · rw [getPort_vkEvent, getPort_modPort]

/-! ### Failure and retraining (R415, R426) -/

/-- The limit of a training state, and the reason. -/
def stepLimit (q : Port) : Option (Nat × Nat) :=
  match q.sub with
  | 2 => some (q.stateAt + 5 * (1600000 * Config.acyc), 1)
  | 3 => some (q.stateAt + 1600000 * Config.acyc, 2)
  | 4 => some (q.stateAt + 50 * (1600000 * Config.acyc), 3)
  | 5 => some (q.stateAt + 1600000 * Config.acyc, 4)
  | _ => none

theorem stepLimit_lt {q : Port} {t why : Nat} (h : stepLimit q = some (t, why)) : why < 16 := by
  unfold stepLimit at h
  split at h <;> simp only [Option.some.injEq, Prod.mk.injEq, reduceCtorEq] at h <;> omega

theorem trainLimit_lt {s : Mach} {p t why : Nat} (h : trainLimit s p = some (t, why)) : why < 16 := by
  obtain ⟨whole, heq⟩ : ∃ whole : Nat, trainLimit s p =
      if portState s p = vkRetrain then
        match stepLimit (getPort s p) with
        | some (t, w) => if t < whole then some (t, w) else some (whole, 5)
        | none => some (whole, 5)
      else stepLimit (getPort s p) := ⟨_, rfl⟩
  rw [heq] at h
  split at h
  · split at h
    · next hstep =>
      split at h
      · cases h
        exact stepLimit_lt hstep
      · cases h
        decide
    · cases h
      decide
  · exact stepLimit_lt h

theorem ends_trainingTimeout {t why : Nat} (hpres : portPresent s.mach p = true) (hsub : (getPort s.mach p).sub ≠ 0)
    (hlimit : trainLimit s.mach p = some (t, why)) :
    Ends (.trainingTimeout p) s (fun m => portState m p = vkFailed ∧ rf m .VK_STATUS p 0 11 8 = why ∧ (getPort m p).sub = 0 ∧ t ≤ m.now) := by
  have heq : trainingTimeout s.mach p = failPort (advanceTo s.mach t) p why := by
    unfold trainingTimeout
    rw [if_pos ⟨hpres, hsub⟩, hlimit]
  obtain ⟨hstate, hwhy, hidle, hnow⟩ := failPort_spec (advanceTo s.mach t) p why
  refine ⟨_, rfl, ?_⟩
  dsimp only
  rw [heq]
  refine ⟨hstate, hwhy.trans (Nat.mod_eq_of_lt (trainLimit_lt hlimit)), hidle, ?_⟩
  rw [hnow]
  exact Nat.le_max_right _ _

/-- A port that begins to retrain. -/
def Port.retraining (l : List Nat) (now : Nat) (q : Port) : Port := { q with retrains := l, retrainAt := now }

theorem retrain_eq (s : Mach) (p : Nat) : retrain s p =
    let l := ((getPort s p).retrains ++ [frameNo s]).filter (fun g => decide (frameNo s < g + 4096))
    let t := bump (endMeasure s p) .VK_TRAIN p 0 63 32 1
    let u := modPort t p (Port.retraining l t.now)
    if rf u .VK_CFG p 0 47 40 < l.length then failPort u p 6 else startDetect (setPortState u p vkRetrain) p := by
  unfold retrain Port.retraining
  rfl

theorem ends_retrain (hpres : portPresent s.mach p = true) (hactive : portState s.mach p = vkActive)
    (hmax : (((getPort s.mach p).retrains ++ [frameNo s.mach]).filter (fun g => decide (frameNo s.mach < g + 4096))).length ≤
      rf s.mach .VK_CFG p 0 47 40) :
    Ends (.vkRetrainTrigger p (some .peer)) s (fun m => portState m p = vkRetrain ∧ (getPort m p).sub = 1 ∧
      rf m .VK_TRAIN p 0 63 32 = sat 32 (rf s.mach .VK_TRAIN p 0 63 32 + 1) ∧ (getPort m p).replay = (getPort s.mach p).replay) := by
  have heq : ∃ (t : Mach) (f : Port → Port), t = bump (endMeasure s.mach p) .VK_TRAIN p 0 63 32 1 ∧ (∀ q, (f q).replay = q.replay) ∧
      retrainTrigger s.mach p (some .peer) = startDetect (setPortState (modPort t p f) p vkRetrain) p := by
    obtain ⟨l, hl⟩ : ∃ l, l = ((getPort s.mach p).retrains ++ [frameNo s.mach]).filter (fun g => decide (frameNo s.mach < g + 4096)) := ⟨_, rfl⟩
    refine ⟨bump (endMeasure s.mach p) .VK_TRAIN p 0 63 32 1, Port.retraining l (bump (endMeasure s.mach p) .VK_TRAIN p 0 63 32 1).now, rfl,
      fun q => rfl, ?_⟩
    have hcfg : rf (modPort (bump (endMeasure s.mach p) .VK_TRAIN p 0 63 32 1) p
        (Port.retraining l (bump (endMeasure s.mach p) .VK_TRAIN p 0 63 32 1).now)) .VK_CFG p 0 47 40 = rf s.mach .VK_CFG p 0 47 40 := by
      refine congrArg (fld · 47 40) ((rg_modPort _ _ _ _ _ _).trans ?_)
      exact (rg_wf_apart (vkCfg.ne vkTrain (by decide) p) _ _ _ _).trans (rg_endMeasure vkCfg _ _)
    rw [← hl] at hmax
    unfold retrainTrigger
    rw [if_pos ⟨hpres, hactive⟩]
    dsimp only
    rw [retrain_eq, ← hl, if_neg (by rw [hcfg]; exact Nat.not_lt.2 hmax)]
  obtain ⟨t, f, ht, hf, heq⟩ := heq
  have hrg {n : RegName} (hn : VkReg n) (hs : n.info.off ≠ 0x0) (hp : n.info.off ≠ 0x20) :
      rg (startDetect (setPortState (modPort t p f) p vkRetrain) p) n p 0 = rg t n p 0 := by
    unfold startDetect setPortState
    dsimp only
    refine (rg_modPort _ _ _ _ _ _).trans ((rg_wf_apart (hn.ne vkPeerid hp p) _ _ _ _).trans ((rg_wf_apart (hn.ne vkStatus hs p) _ _ _ _).trans ?_))
    exact (rg_wf_apart (hn.ne vkStatus hs p) _ _ _ _).trans (rg_modPort _ _ _ _ _ _)
  have hport : getPort (startDetect (setPortState (modPort t p f) p vkRetrain) p) p =
      { f (getPort s.mach p) with sub := 1, stateAt := t.now, trig := false, nakRx := false } := by
    unfold startDetect setPortState
    dsimp only
    rw [getPort_modPort, getPort_wb, getPort_wf, getPort_wf, getPort_modPort, now_wb, now_wf, now_wf, now_modPort, ht, getPort_bump, getPort_endMeasure]
  refine ⟨_, rfl, ?_⟩
  dsimp only
  rw [heq]
  refine ⟨?_, by rw [hport], ?_, by rw [hport]; exact hf _⟩
  · have hstate : portState (startDetect (setPortState (modPort t p f) p vkRetrain) p) p = portState (setPortState (modPort t p f) p vkRetrain) p := by
      unfold startDetect
      dsimp only
      refine (portState_of_rg ((rg_modPort _ _ _ _ _ _).trans (rg_wf_apart (vkStatus.ne vkPeerid (by decide) p) _ _ _ _))).trans ?_
      exact portState_wf _ _ _ (by decide) (by decide)
    rw [hstate, portState_setPortState]
    rfl
  · refine (congrArg (fld · 63 32) (hrg vkTrain (by decide) (by decide))).trans ?_
    rw [ht]
    refine (rf_bump _ _ _ _ _ _ _ (by decide) (by decide)).trans ?_
    exact congrArg (fun w : Word => sat 32 (fld w 63 32 + 1)) (rg_endMeasure vkTrain _ _)

theorem ends_portFailed (hpres : portPresent s.mach p = true) (hfailed : portState s.mach p = vkFailed) :
    Ends (.portFailed p) s (fun m => (getPort m p).replay = [] ∧ (getPort m p).spill = [] ∧ (getPort m p).expq = [] ∧
      (getPort m p).txq = [] ∧ (getPort m p).rxq = []) := by
  have heq : portFailed s.mach p = discardPort s.mach p := if_pos ⟨hpres, hfailed⟩
  refine ⟨_, rfl, ?_⟩
  dsimp only
  rw [heq, getPort_discardPort]
  exact ⟨rfl, rfl, rfl, rfl, rfl⟩

end

/-- Settles O42. -/
theorem portsTrain : Obligations.PortsTrain :=
  ⟨fun _ _ _ _ _ => ends_vkDetect, fun _ _ _ _ => ends_vkDetect_none, fun _ _ _ => ends_vkLock, fun _ _ _ => ends_vkLock_reversed,
    fun _ _ _ _ _ => ends_vkMap, fun _ _ _ => ends_vkMap_none, fun _ _ => ends_vkEqualise, fun _ _ _ _ => ends_ident_active,
    fun _ _ _ _ _ => ends_ident_held, fun _ _ _ _ => ends_trainingTimeout, fun _ _ => ends_retrain, fun _ _ => ends_portFailed,
    fun _ _ h => ⟨_, rfl, if_neg fun hc => h hc.2⟩⟩

end Sys2Proof.Machine
end

section
/-! Reconciliation of measured energy and leases of power (R503, R516 to R520). -/

namespace Sys2Proof.Machine

theorem onMach_of_eq {s : State} {f : Mach → Mach} {m : Mach} (h : f s.mach = m) : onMach s f = .next { s with mach := m } := by
  subst h
  rfl

/-! ### The power record -/

theorem pwr_wr (s : Mach) (n : RegName) (u i : Nat) (v : Word) : (wr s n u i v).pwr = s.pwr := OffCsr.wr (g := Mach.pwr) (fun _ _ => rfl) s n u i v
theorem pwr_wf (s : Mach) (n : RegName) (u i hi lo v : Nat) : (wf s n u i hi lo v).pwr = s.pwr := pwr_wr s n u i _
theorem pwr_wb (s : Mach) (n : RegName) (u i k : Nat) (v : Bool) : (wb s n u i k v).pwr = s.pwr := pwr_wr s n u i _
theorem pwr_bump (s : Mach) (n : RegName) (u i hi lo k : Nat) : (bump s n u i hi lo k).pwr = s.pwr := pwr_wr s n u i _
theorem pwr_modPwr (s : Mach) (f : Pwr → Pwr) : (modPwr s f).pwr = f s.pwr := rfl
theorem pwr_advanceTo (s : Mach) (t : Nat) : (advanceTo s t).pwr = s.pwr := rfl

theorem pwr_pwrEvent (s : Mach) (k : Nat) (d : Option Nat) : (pwrEvent s k d).pwr = s.pwr := by
  cases hk : rb s .PWR_EVENTS 0 0 k
  · obtain ⟨r, items, heq⟩ := pwrEvent_of_clear hk d
    rw [heq, raise_only, wb, wf, wr]
    rfl
  · rw [pwrEvent_of_set hk]

theorem pwr_refreshEff (s : Mach) : (refreshEff s).pwr = s.pwr := by
  unfold refreshEff
  dsimp only
  rw [pwr_wf, pwr_wf, pwr_wf]

theorem rg_modPwr (s : Mach) (f : Pwr → Pwr) (n : RegName) (u i : Nat) : rg (modPwr s f) n u i = rg s n u i := rfl
theorem rf_modPwr (s : Mach) (f : Pwr → Pwr) (n : RegName) (u i hi lo : Nat) : rf (modPwr s f) n u i hi lo = rf s n u i hi lo := rfl

theorem frameNo_modPwr (s : Mach) (f : Pwr → Pwr) : frameNo (modPwr s f) = frameNo s := rfl

theorem alm_wf (s : Mach) (n : RegName) (u i hi lo v : Nat) : (wf s n u i hi lo v).alm = s.alm :=
  OffCsr.wf (g := Mach.alm) (fun _ _ => rfl) s n u i hi lo v

theorem frameNo_congr {s t : Mach} (hnow : s.now = t.now) (halm : s.alm = t.alm) : frameNo s = frameNo t := by
  unfold frameNo count almTicks
  rw [hnow, halm]

/-! ### Reconciliation (R520) -/

/-- A period closed, with the model's energy shown. -/
def closePeriod (s : Mach) : Mach :=
  let s := advanceTo s (frameTick s (s.pwr.periodFrom + 25))
  let per := s.pwr.period
  let mod_ := per.foldl (fun n x => n + x.2) 0
  let s := modPwr s (fun p => { p with period := [], periodFrom := p.periodFrom + 25 })
  wf s .PWR_RECON 0 0 31 0 (sat 32 (mod_ / (4096 * 10 ^ 12)))

theorem pwr_closePeriod (s : Mach) : (closePeriod s).pwr = { s.pwr with period := [], periodFrom := s.pwr.periodFrom + 25 } := by
  unfold closePeriod
  dsimp only
  rw [pwr_wf, pwr_modPwr, pwr_advanceTo]

/-- A measurement shown. -/
def measured (s : Mach) (x : Nat) : Mach := wf (wb (closePeriod s) .PWR_STATUS 0 0 12 true) .PWR_RECON 0 0 63 32 (sat 32 (x / 10 ^ 6))

/-- A measurement leaves what its shares and the ratio do not touch. -/
theorem reconcile_some_keeps {β : Type} {g : Mach → β} (hshare : ∀ (s : Mach) (o : Nat) (x : Int), g (modPwr s (fun p => { p with energy := smapPut 0 p.energy o (smapGet 0 p.energy o + x) })) = g s)
    (hfree : ∀ s : Mach, g (drawWord s).2 = g s) (hest : ∀ (s : Mach) (v : Nat), g (wf s .PWR_EST 0 0 15 0 v) = g s) {s : Mach}
    (hon : powerOn s = true) (x : Nat) : g (reconcile s (some x)) = g (measured s x) := by
  have hoff : ¬ powerOn s = false := by simp only [hon, Bool.true_eq_false, not_false_eq_true]
  unfold reconcile
  rw [if_neg hoff]
  dsimp only
  refine iteInduction (motive := fun m : Mach => g m = g (measured s x)) (fun _ => ?_) fun _ => ?_
  · rw [hest, hfree, hshare]
    exact foldS_keeps g _ _ _ fun t p => hshare t _ _
  · rw [hest, hshare]
    exact foldS_keeps g _ _ _ fun t p => hshare t _ _

section
variable {s : State}

theorem ends_reconcile_some {x : Nat} (hon : powerOn s.mach = true) :
    Ends (.reconcile (some x)) s (fun m => rb m .PWR_STATUS 0 0 12 = true ∧ rf m .PWR_RECON 0 0 63 32 = sat 32 (x / 10 ^ 6) ∧
      m.pwr.period = [] ∧ m.pwr.periodFrom = s.mach.pwr.periodFrom + 25) := by
  have hpwr : (measured s.mach x).pwr = { s.mach.pwr with period := [], periodFrom := s.mach.pwr.periodFrom + 25 } := by
    unfold measured
    rw [pwr_wf, pwr_wb, pwr_closePeriod]
  have hstat : rg (reconcile s.mach (some x)) .PWR_STATUS 0 0 = rg (measured s.mach x) .PWR_STATUS 0 0 :=
    reconcile_some_keeps (g := (rg · .PWR_STATUS 0 0)) (fun _ _ _ => rfl) (fun _ => rfl) (fun _ _ => rg_wf_apart (by decide) _ _ _ _) hon x
  have hrecon : rg (reconcile s.mach (some x)) .PWR_RECON 0 0 = rg (measured s.mach x) .PWR_RECON 0 0 :=
    reconcile_some_keeps (g := (rg · .PWR_RECON 0 0)) (fun _ _ _ => rfl) (fun _ => rfl) (fun _ _ => rg_wf_apart (by decide) _ _ _ _) hon x
  have hper : (reconcile s.mach (some x)).pwr.period = (measured s.mach x).pwr.period :=
    reconcile_some_keeps (g := (·.pwr.period)) (fun _ _ _ => rfl) (fun _ => rfl) (fun _ _ => congrArg Pwr.period (pwr_wf _ _ _ _ _ _ _)) hon x
  have hfrom : (reconcile s.mach (some x)).pwr.periodFrom = (measured s.mach x).pwr.periodFrom :=
    reconcile_some_keeps (g := (·.pwr.periodFrom)) (fun _ _ _ => rfl) (fun _ => rfl) (fun _ _ => congrArg Pwr.periodFrom (pwr_wf _ _ _ _ _ _ _)) hon x
  refine ⟨_, rfl, ?_, ?_, by rw [hper, hpwr], by rw [hfrom, hpwr]⟩
  · refine (congrArg (bit · 12) (hstat.trans (rg_wf_apart (by decide) _ _ _ _))).trans ?_
    exact rb_wb _ .PWR_STATUS 0 0 12 true (by decide)
  · refine (congrArg (fld · 63 32) hrecon).trans ?_
    exact rf_wf_of_lt _ .PWR_RECON 0 0 (by decide) (by decide) (sat_lt _ _)

theorem ends_reconcile_none (hon : powerOn s.mach = true) :
    Ends (.reconcile none) s (fun m => rb m .PWR_STATUS 0 0 12 = false ∧ rb m .PWR_EVENTS 0 0 6 = true ∧ m.pwr.period = [] ∧
      m.pwr.periodFrom = s.mach.pwr.periodFrom + 25 ∧ m.pwr.energy = s.mach.pwr.energy) := by
  have hoff : ¬ powerOn s.mach = false := by simp only [hon, Bool.true_eq_false, not_false_eq_true]
  have heq : reconcile s.mach none = pwrEvent (wb (closePeriod s.mach) .PWR_STATUS 0 0 12 false) 6 none := if_neg hoff
  have hstat := csrAt_of_seen (seen_pwrEvent (eventless_hub (a := RegRef.addr ⟨.PWR_STATUS, 0, 0⟩) (by decide) (by decide))
    (wb (closePeriod s.mach) .PWR_STATUS 0 0 12 false) 6 none)
  refine ⟨_, rfl, ?_⟩
  dsimp only
  rw [heq, pwr_pwrEvent, pwr_wb, pwr_closePeriod]
  exact ⟨(congrArg (bit · 12) hstat).trans (rb_wb _ .PWR_STATUS 0 0 12 false (by decide)), rb_pwrEvent _ (by decide) _, rfl, rfl, rfl⟩

/-! ### Leases (R516 to R518) -/

/-- A field of PWR_SHIFT below those of the current frame. -/
theorem rf_shift_refreshEff (s : Mach) {hi lo : Nat} (h : hi < 40) : rf (refreshEff s) .PWR_SHIFT 0 0 hi lo = rf s .PWR_SHIFT 0 0 hi lo := by
  unfold refreshEff
  dsimp only
  refine (congrArg (fld · hi lo) (rg_wf_apart (by decide) _ _ _ _)).trans ?_
  exact (rf_wf_other _ .PWR_SHIFT 0 0 _ _ _ _ _ (by decide) (Or.inl h)).trans (rf_wf_other _ .PWR_SHIFT 0 0 _ _ _ _ _ (by decide) (Or.inl (by omega)))

theorem frameNo_refreshEff (s : Mach) : frameNo (refreshEff s) = frameNo s := by
  unfold refreshEff
  dsimp only
  exact frameNo_congr (by rw [now_wf, now_wf, now_wf]) (by rw [alm_wf, alm_wf, alm_wf])

theorem ends_pshift {g q f : Nat} {l : List (Nat × Nat × Nat)} (hin : s.mach.pwr.shiftIn = (g, q, f) :: l)
    (hgrp : rf s.mach .PWR_GRP 0 0 63 56 ≠ 0) (hown : g = rf s.mach .PWR_GRP 0 0 63 56) :
    Ends .pshift s (fun m => m.pwr.shiftIn = l ∧ rf m .PWR_SHIFT 0 0 19 8 = sat 12 (rf s.mach .PWR_SHIFT 0 0 19 8 + 1) ∧
      ∃ x : Lease, m.pwr.leases = s.mach.pwr.leases ++ [x] ∧ x.recv = true ∧ x.quanta = q ∧
        x.stop = f + max 1 (rf s.mach .PWR_GRP 0 0 47 32) ∧ frameNo s.mach + 1 < x.start) := by
  obtain ⟨start, hstart, heq⟩ : ∃ start, frameNo s.mach + 1 < start ∧ pshift s.mach =
      let t := modPwr s.mach (fun p => { p with shiftIn := l })
      refreshEff (modPwr (bump t .PWR_SHIFT 0 0 19 8 1) (fun p => { p with leases := p.leases ++
        [{ recv := true, quanta := q, start := start, stop := f + max 1 (rf s.mach .PWR_GRP 0 0 47 32) }] })) := by
    refine ⟨if f ≤ frameNo s.mach + 1 then frameNo s.mach + 2 else f, by split <;> omega, ?_⟩
    unfold pshift
    rw [hin]
    dsimp only
    rw [rf_modPwr, if_neg (by rintro (h | h); exacts [hgrp h, h hown]), rf_modPwr, frameNo_modPwr]
  refine ⟨_, rfl, ?_⟩
  dsimp only
  rw [heq]
  dsimp only
  rw [pwr_refreshEff, pwr_modPwr, pwr_bump, pwr_modPwr]
  refine ⟨rfl, ?_, _, rfl, rfl, rfl, rfl, hstart⟩
  rw [rf_shift_refreshEff _ (by decide), rf_modPwr, rf_bump _ _ _ _ _ _ _ (by decide) (by decide), rf_modPwr]

theorem ends_pshift_foreign {g q f : Nat} {l : List (Nat × Nat × Nat)} (hin : s.mach.pwr.shiftIn = (g, q, f) :: l)
    (hgrp : rf s.mach .PWR_GRP 0 0 63 56 = 0 ∨ g ≠ rf s.mach .PWR_GRP 0 0 63 56) :
    Ends .pshift s (fun m => m.pwr.shiftIn = l ∧ m.pwr.leases = s.mach.pwr.leases ∧ rb m .PWR_EVENTS 0 0 5 = true ∧
      rf m .PWR_SHIFT 0 0 7 0 = sat 8 (rf s.mach .PWR_SHIFT 0 0 7 0 + 1)) := by
  have heq : pshift s.mach = pwrEvent (bump (modPwr s.mach (fun p => { p with shiftIn := l })) .PWR_SHIFT 0 0 7 0 1) 5 none := by
    unfold pshift
    rw [hin]
    dsimp only
    rw [rf_modPwr, if_pos hgrp]
  refine ⟨_, rfl, ?_⟩
  dsimp only
  rw [heq, pwr_pwrEvent, pwr_bump, pwr_modPwr]
  refine ⟨rfl, rfl, rb_pwrEvent _ (by decide) _, ?_⟩
  rw [rf_of_seen (seen_pwrEvent (eventless_hub (by decide) (by decide)) _ 5 none), rf_bump _ _ _ _ _ _ _ (by decide) (by decide), rf_modPwr]

theorem ends_leaseEnd {x : Lease} {l : List Lease} (hl : s.mach.pwr.leases = x :: l) :
    Ends .leaseEnd s (fun m => m.pwr.leases = (x :: l).filter (fun y => decide (frameNo m < y.stop)) ∧ s.mach.now ≤ m.now ∧
      m.mem = s.mach.mem) := by
  obtain ⟨n, heq⟩ : ∃ n, leaseEnd s.mach =
      let t := advanceTo s.mach n
      refreshEff (modPwr t (fun p => { p with leases := p.leases.filter (fun y => decide (frameNo t < y.stop)) })) := by
    refine ⟨frameTick s.mach (l.foldl (fun m y => min m y.stop) x.stop), ?_⟩
    unfold leaseEnd
    rw [hl]
  refine ⟨_, onMach_of_eq heq, ?_⟩
  dsimp only
  rw [pwr_refreshEff, pwr_modPwr, pwr_advanceTo, frameNo_refreshEff, frameNo_modPwr, hl]
  refine ⟨rfl, ?_, ?_⟩
  · unfold refreshEff
    dsimp only
    rw [now_wf, now_wf, now_wf]
    exact Nat.le_max_left _ _
  · unfold refreshEff
    dsimp only
    have hwf (t : Mach) (n : RegName) (hi lo v : Nat) : (wf t n 0 0 hi lo v).mem = t.mem := OffCsr.wf (g := Mach.mem) (fun _ _ => rfl) t _ _ _ _ _ _
    rw [hwf, hwf, hwf]
    rfl

/-! ### Messages sent (R517) -/

theorem sendExpress_keeps {β : Type} {g : Mach → β} (hrec : ∀ (s : Mach) (p : Option Nat) (n : Nat), g (vkRecord s p n) = g s)
    (hport : ∀ (s : Mach) (p : Nat) (f : Port → Port), g (modPort s p f) = g s) (s : Mach) (d t n : Nat) (e : Express) :
    g (sendExpress s d t n e) = g s := by
  unfold sendExpress
  split
  · exact hrec s none n
  · exact hport s _ _

theorem pwr_vkRecord (s : Mach) (p : Option Nat) (n : Nat) : (vkRecord s p n).pwr = s.pwr := by
  unfold vkRecord
  dsimp only
  rw [raise_only]
  rfl

theorem seen_vkRecord {a : Nat} (h : Eventless a) (s : Mach) (p : Option Nat) (n : Nat) : (vkRecord s p n).seen a = s.seen a :=
  seen_raise h.records _ _

theorem ends_pshiftSend_quiet (hon : powerOn s.mach = true) (hnone : s.mach.pwr.reports = []) :
    Ends .pshiftSend s (fun m => m.pwr.leases = s.mach.pwr.leases ∧ m.toks = s.mach.toks ∧ m.ports = s.mach.ports) := by
  have hoff : ¬ powerOn s.mach = false := by simp only [hon, Bool.true_eq_false, not_false_eq_true]
  obtain ⟨t, ht⟩ : ∃ t, (if s.mach.pwr.lastShift = some (frameNo s.mach) then advanceTo s.mach (nextFrameTick s.mach) else s.mach) = t := ⟨_, rfl⟩
  have hstep : t.pwr = s.mach.pwr ∧ t.toks = s.mach.toks ∧ t.ports = s.mach.ports := by
    rw [← ht]
    split <;> exact ⟨rfl, rfl, rfl⟩
  obtain ⟨hpwr, htoks, hports⟩ := hstep
  have heq : pshiftSend s.mach = modPwr t (fun p => { p with reports := p.reports.filter (fun r => decide (frameNo t ≤ r.frame)) }) := by
    unfold pshiftSend
    rw [if_neg hoff, ht]
    dsimp only
    rw [hpwr, hnone]
    rfl
  refine ⟨_, onMach_of_eq heq, ?_⟩
  have hleases : t.pwr.leases = s.mach.pwr.leases := by rw [hpwr]
  exact ⟨hleases, htoks, hports⟩

theorem pplEff_filterReports (s : Mach) (f : List RdvReport → List RdvReport) (n : Nat) :
    pplEff (modPwr s (fun p => { p with reports := f p.reports })) n = pplEff s n := rfl

/-- A lease given, at its frame. -/
def Pwr.leasing (n : Nat) (x : Lease) (p : Pwr) : Pwr := { p with lastShift := some n, leases := p.leases ++ [x] }

theorem ends_pshiftSend (hon : powerOn s.mach = true) (hlast : s.mach.pwr.lastShift = none) (hgrp : fld (rg s.mach .PWR_GRP 0 0) 63 56 ≠ 0)
    (hpower : rf s.mach .PWR_PPL 0 0 35 24 + 5 * fld (rg s.mach .PWR_GRP 0 0) 55 48 ≤ pplEff s.mach (frameNo s.mach)) (r : RdvReport)
    (hrep : s.mach.pwr.reports = [r]) (hframe : r.frame + 1 = frameNo s.mach) (hrem : tokRem r.crit = true)
    (hnode : tokNode r.crit ≠ s.mach.route.nodeId) (hslack : r.slack < (16 * fld (rg s.mach .PWR_GRP 0 0) 11 0 : Nat))
    (hwait : 16 * fld (rg s.mach .PWR_GRP 0 0) 23 12 ≤ r.wait) :
    Ends .pshiftSend s (fun m => m.pwr.lastShift = some (frameNo s.mach) ∧ m.pwr.reports = [] ∧
      rf m .PWR_SHIFT 0 0 31 20 = sat 12 (rf s.mach .PWR_SHIFT 0 0 31 20 + 1) ∧
      let n := frameNo s.mach + 2
      m.pwr.leases = s.mach.pwr.leases ++ [{ recv := false, quanta := fld (rg s.mach .PWR_GRP 0 0) 55 48, start := n,
                                             stop := n + max 1 (fld (rg s.mach .PWR_GRP 0 0) 47 32) }]) := by
  have hoff : ¬ powerOn s.mach = false := by simp only [hon, Bool.true_eq_false, not_false_eq_true]
  have hcons : ((s.mach.pwr.reports.filter (fun r => decide (r.frame + 1 = frameNo s.mach))).filter
      (fun r => tokRem r.crit && decide (tokNode r.crit ≠ s.mach.route.nodeId))) = [r] := by
    rw [hrep]
    simp only [List.filter_cons, List.filter_nil, hframe, decide_true, if_true, hrem, Bool.true_and, decide_eq_true hnode]
  obtain ⟨e, heq⟩ : ∃ e : Express, pshiftSend s.mach =
      let t := modPwr s.mach (fun p => { p with reports := p.reports.filter (fun r => decide (frameNo s.mach ≤ r.frame)) })
      modPwr (bump (sendExpress t 0 t.now (tokNode r.crit) e) .PWR_SHIFT 0 0 31 20 1)
        (Pwr.leasing (frameNo s.mach) { recv := false, quanta := fld (rg s.mach .PWR_GRP 0 0) 55 48, start := frameNo s.mach + 2,
                                        stop := frameNo s.mach + 2 + max 1 (fld (rg s.mach .PWR_GRP 0 0) 47 32) }) := by
    refine ⟨{ mtype := 3, pois := false, n := 0, stamp := 0, dest := r.crit, xf := 0,
              body := fld (rg s.mach .PWR_GRP 0 0) 63 56 * 2 ^ 56 + fld (rg s.mach .PWR_GRP 0 0) 55 48 * 2 ^ 48 + (frameNo s.mach + 2) % 2 ^ 48 }, ?_⟩
    have hall : [r].all (fun r => decide (16 * fld (rg s.mach .PWR_GRP 0 0) 23 12 ≤ r.wait)) = true := by
      simp only [List.all_cons, List.all_nil, decide_eq_true hwait, Bool.and_true]
    unfold pshiftSend
    rw [if_neg hoff, hlast, if_neg (by simp only [reduceCtorEq, not_false_eq_true])]
    dsimp only
    rw [hcons]
    dsimp only [List.foldl]
    have hsince : (match (modPwr s.mach (fun p => { p with reports := p.reports.filter (fun r => decide (frameNo s.mach ≤ r.frame)) })).pwr.lastShift with
        | some f => decide (f + max 1 (fld (rg s.mach .PWR_GRP 0 0) 31 24) ≤ frameNo s.mach)
        | none => true) = true := by
      show (match s.mach.pwr.lastShift with | some f => _ | none => _) = true
      rw [hlast]
    rw [pplEff_filterReports]
    exact if_pos ⟨hgrp, hslack, hall, hsince, hpower⟩
  generalize ht : modPwr s.mach (fun p => { p with reports := p.reports.filter (fun r => decide (frameNo s.mach ≤ r.frame)) }) = t at heq
  have hpwr : t.pwr = { s.mach.pwr with reports := s.mach.pwr.reports.filter (fun r => decide (frameNo s.mach ≤ r.frame)) } := by rw [← ht]; rfl
  have hshift : rf t .PWR_SHIFT 0 0 31 20 = rf s.mach .PWR_SHIFT 0 0 31 20 := by rw [← ht, rf_modPwr]
  have hsent : (sendExpress t 0 t.now (tokNode r.crit) e).pwr = t.pwr := sendExpress_keeps (g := Mach.pwr) pwr_vkRecord (fun _ _ _ => rfl) _ _ _ _ _
  have hseen := sendExpress_keeps (g := Mach.seen (RegRef.addr ⟨.PWR_SHIFT, 0, 0⟩)) (seen_vkRecord (eventless_hub (by decide) (by decide)))
    (fun _ _ _ => rfl) t 0 t.now (tokNode r.crit) e
  have hnone : s.mach.pwr.reports.filter (fun r => decide (frameNo s.mach ≤ r.frame)) = [] := by
    rw [hrep]
    simp only [List.filter_cons, List.filter_nil, ite_eq_right_iff, decide_eq_true_eq, reduceCtorEq, imp_false, Nat.not_le]
    omega
  refine ⟨_, onMach_of_eq heq, ?_⟩
  dsimp only
  rw [pwr_modPwr, pwr_bump, hsent, hpwr, hnone]
  refine ⟨rfl, rfl, ?_, rfl⟩
  rw [rf_modPwr, rf_bump _ _ _ _ _ _ _ (by decide) (by decide), rf_of_seen hseen, hshift]

end

/-- Settles O52. -/
theorem energyAndLeases : Obligations.EnergyAndLeases :=
  ⟨fun _ _ => ends_reconcile_some, fun _ => ends_reconcile_none, fun _ _ _ _ _ => ends_pshift, fun _ _ _ _ _ => ends_pshift_foreign,
    fun _ => ends_pshiftSend_quiet, fun _ => ends_pshiftSend, fun _ _ _ => ends_leaseEnd⟩

end Sys2Proof.Machine
end

section
/-! Flits of a Vrelrek port: their launch, their replay and their loss (R420 to R426, R432). -/

namespace Sys2Proof.Machine

theorem vkReplay : VkReg .VK_REPLAY := ⟨rfl, by decide⟩
theorem vkFec : VkReg .VK_FEC := ⟨rfl, by decide⟩

theorem guarded_of_eq {s : State} {wf : Bool} {f : Mach → Mach} {m : Mach} (hwf : wf = true) (h : f s.mach = m) :
    guarded wf s f = .next { s with mach := m } := by
  subst h hwf
  rfl

/-! ### The bytes of a flit (R421) -/

theorem length_bytesOfSlots (l : List (BitVec 128)) : (bytesOfSlots l).length = 16 * l.length := by
  unfold bytesOfSlots
  rw [List.length_flatMap]
  simp only [length_bytesOf, List.map_const', List.sum_replicate, smul_eq_mul, Nat.mul_comm]

/-- A flit without packets has 640 bytes. -/
theorem length_flitBytes_null (hdr exp : Nat) : (flitBytes hdr exp []).length = 640 := by
  unfold flitBytes
  simp only [List.nil_append, List.length_append, List.length_drop, length_bytesOf, length_bytesOfSlots, List.length_replicate, List.length_nil]

/-! ### What a launch leaves -/

/-- A port after its flit. -/
def Port.launched (bs : List Byte) (q : Port) : Port :=
  { q with tx := bs, nak := false, rot := if q.rot = 5 then 2 else if q.rot = 4 then 1 else q.rot + 2 }

theorem sendFlit_eq (s : Mach) (p ftype seq first : Nat) (rpl : Bool) (exps : List Express) (body : List (BitVec 128)) :
    sendFlit s p ftype seq first rpl exps body = modPort (if (getPort s p).nak then bump s .VK_REPLAY p 0 63 32 1 else s) p
      (Port.launched (flitBytes (flitHeader (getPort s p) ftype seq first rpl) (expSlot exps) body)) := rfl

theorem getPort_sendFlit (s : Mach) (p : PortNo) (ftype seq first : Nat) (rpl : Bool) (exps : List Express) (body : List (BitVec 128)) :
    getPort (sendFlit s p ftype seq first rpl exps body) p =
      (getPort s p).launched (flitBytes (flitHeader (getPort s p) ftype seq first rpl) (expSlot exps) body) := by
  have hport : getPort (if (getPort s p).nak then bump s .VK_REPLAY p 0 63 32 1 else s) p = getPort s p :=
    iteInduction (motive := fun m : Mach => getPort m p = getPort s p) (fun _ => getPort_bump _ _ _ _ _ _ _ _) fun _ => rfl
  rw [sendFlit_eq, getPort_modPort, hport]

/-- VK_REPLAY counts a NAK in its upper half alone. -/
theorem rf_replay_sendFlit (s : Mach) (p ftype seq first : Nat) (rpl : Bool) (exps : List Express) (body : List (BitVec 128)) :
    rf (sendFlit s p ftype seq first rpl exps body) .VK_REPLAY p 0 31 0 = rf s .VK_REPLAY p 0 31 0 := by
  rw [sendFlit_eq, rf_modPort]
  split
  · unfold bump
    exact rf_wf_other _ _ _ _ _ _ _ _ _ (by decide) (by decide)
  · rfl

theorem now_sendFlit (s : Mach) (p ftype seq first : Nat) (rpl : Bool) (exps : List Express) (body : List (BitVec 128)) :
    (sendFlit s p ftype seq first rpl exps body).now = s.now := by
  rw [sendFlit_eq, now_modPort]
  exact iteInduction (motive := fun m : Mach => m.now = s.now) (fun _ => now_bump _ _ _ _ _ _ _) fun _ => rfl

/-- The launch times of the exchange requests in a flit, its energy and its count. -/
def dataBooked (s : Mach) (p : Nat) (t : TxFlit) (l16 : Nat) : Mach :=
  let s := foldS t.alms (fun s a => match a.2 with
    | .request x _ => modAlmPort s p (fun m =>
        match m.sent with
        | some (y, _) => if x = y then { m with sent := some (x, l16) } else m
        | none => m)
    | _ => s) s
  bumpAo (book s 18 (ownOverhead (portPid s p)) 11 1) (barnDieId (p / 6)) 3 1

theorem sendData_eq (s : Mach) (p : Nat) (t : TxFlit) (l16 : Nat) (rpl : Bool) :
    sendData s p t l16 rpl = sendFlit (dataBooked s p t l16) p 1 t.seq t.first rpl t.exps (launchBody t l16) := rfl

theorem dataBooked_keeps {β : Type} {g : Mach → β} (halm : ∀ (s : Mach) (p : Nat) (f : AlmPort → AlmPort), g (modAlmPort s p f) = g s)
    (hbook : ∀ (s : Mach) (o k n : Nat), g (book s 18 o k n) = g s) {p : Nat}
    (hcount : ∀ s : Mach, g (bumpAo s (barnDieId (p / 6)) 3 1) = g s) (s : Mach) (t : TxFlit) (l16 : Nat) : g (dataBooked s p t l16) = g s := by
  unfold dataBooked
  dsimp only
  refine (hcount _).trans ((hbook _ _ _ _).trans (foldS_keeps g _ _ _ fun u a => ?_))
  split
  · exact halm u p _
  · rfl

theorem getPort_dataBooked (s : Mach) (p : PortNo) (t : TxFlit) (l16 : Nat) (q : Nat) : getPort (dataBooked s p t l16) q = getPort s q :=
  dataBooked_keeps (g := (getPort · q)) (fun _ _ _ => rfl) (fun _ _ _ _ => rfl) (fun u => getPort_of_units (units_bumpAo u _ _ _) q) s t l16

theorem now_dataBooked (s : Mach) (p : Nat) (t : TxFlit) (l16 : Nat) : (dataBooked s p t l16).now = s.now :=
  dataBooked_keeps (g := Mach.now) (fun _ _ _ => rfl) (fun _ _ _ _ => rfl) (fun u => by unfold bumpAo; exact wr_now _ _ _ _ _) s t l16

theorem rg_dataBooked {n : RegName} (h : VkReg n) (s : Mach) (p : PortNo) (t : TxFlit) (l16 : Nat) :
    rg (dataBooked s p t l16) n p 0 = rg s n p 0 :=
  dataBooked_keeps (g := (rg · n p 0)) (fun _ _ _ => rfl) (fun _ _ _ _ => rfl)
    (fun u => rg_bumpAo_of_uncounted (h.quiet p) (barnDieId_bounds p).2 (by decide) _ _) s t l16

/-! ### The next flit period -/

/-- A port whose next flit period is known. -/
def Port.next (v : Nat) (q : Port) : Port := { q with nextTx := v }

theorem nextPeriod_eq (s : Mach) (p : Nat) : ∃ v t : Nat, nextPeriod s p = advanceTo (modPort s p (Port.next v)) t := ⟨_, _, rfl⟩

theorem nextPeriod_spec (s : Mach) (p : PortNo) : ∃ v, getPort (nextPeriod s p) p = (getPort s p).next v ∧ (nextPeriod s p).csr = s.csr ∧
    s.now ≤ (nextPeriod s p).now := by
  obtain ⟨v, t, heq⟩ := nextPeriod_eq s p
  refine ⟨v, ?_, ?_, ?_⟩
  · rw [heq, getPort_advanceTo, getPort_modPort]
  · rw [heq]
    rfl
  · rw [heq, advanceTo_now, now_modPort]
    exact Nat.le_max_left _ _

/-- A flit launched at the period that has come (R425, R432). -/
def launchAt (s : Mach) (p : Nat) : Mach :=
  let l16 := loc16 s - wf16 s p
  let q := getPort s p
  match q.resend with
  | some n =>
    (match q.replay.find? (fun f => decide (f.seq = n)) with
     | some f =>
       let s := sendData (bump s .VK_REPLAY p 0 31 0 1) p f l16 q.rpl
       let more := (getPort s p).replay.any (fun g => decide (g.seq = (n + 1) % 4096))
       modPort s p (fun q => { q with rpl := false, resend := if more then some ((n + 1) % 4096) else none })
     | none => sendFlit (modPort s p (fun q => { q with resend := none, rpl := false })) p 0 0 0 false [] [])
  | none => if 512 ≤ q.replay.length then sendFlit s p 0 0 0 false [] [] else launchNew s p l16

theorem flitLaunch_eq (s : Mach) (p : Nat) : flitLaunch s p =
    if portPresent s p = false then s
    else if (getPort s p).sub = 5 then sendIdent (nextPeriod s p) p
    else if portState s p = vkHeld then sendFlit (nextPeriod s p) p 0 0 0 false [] []
    else if portState s p ≠ vkActive ∨ (getPort s p).trig then s
    else launchAt (nextPeriod (if (getPort s p).nakRx then startReplay s p else s) p) p := rfl

/-! ### Time -/

section
variable {β : Type} {g : Mach → β} (hg : ∀ (s : Mach) (p : Nat) (f : Port → Port), g (modPort s p f) = g s)
include hg

theorem putPkt_keeps {s t : Mach} {p v l16 : Nat} {f f' : Filling} (h : putPkt s p v l16 f = some (t, f')) : g t = g s := by
  unfold putPkt at h
  split at h
  · cases h
  split at h
  · cases h
  cases h
  split
  · exact iteInduction (motive := fun m : Mach => g m = g s) (fun _ => hg s p _) fun _ => (hg _ _ _).trans (hg s p _)
  · exact hg s p _

theorem putAll_keeps (fuel : Nat) (s : Mach) (p v l16 : Nat) (f : Filling) : g (putAll fuel s p v l16 f).1 = g s := by
  induction fuel generalizing s f with
  | zero => rfl
  | succ fuel ih =>
    unfold putAll
    split
    · next hput => exact (ih _ _).trans (putPkt_keeps hg hput)
    · rfl

theorem fillBody_keeps (s : Mach) (p l16 : Nat) : g (fillBody s p l16).1 = g s := by
  unfold fillBody
  dsimp only
  rw [putAll_keeps hg, putAll_keeps hg, putAll_keeps hg]
  refine (iteInduction (motive := fun m : Mach × Filling => g m.1 = g s) (fun _ => (putAll_keeps hg _ _ _ _ _ _).trans ?_) fun _ => ?_)
  all_goals
    rw [putAll_keeps hg]
    exact (hg _ _ _).trans (hg s p _)

end

theorem now_launchNew (s : Mach) (p l16 : Nat) : (launchNew s p l16).now = s.now := by
  unfold launchNew
  dsimp only
  refine iteInduction (motive := fun m : Mach => m.now = s.now) (fun _ => now_sendFlit _ _ _ _ _ _ _ _) fun _ => ?_
  rw [sendData_eq, now_sendFlit, now_dataBooked, now_modPort]
  exact fillBody_keeps (g := Mach.now) (fun _ _ _ => rfl) s p l16

theorem now_launchAt (s : Mach) (p : Nat) : (launchAt s p).now = s.now := by
  unfold launchAt
  dsimp only
  split
  · split
    · rw [now_modPort, sendData_eq, now_sendFlit, now_dataBooked, now_bump]
    · rw [now_sendFlit, now_modPort]
  · split
    · exact now_sendFlit _ _ _ _ _ _ _ _
    · exact now_launchNew _ _ _

theorem now_sendIdent (s : Mach) (p : Nat) : (sendIdent s p).now = s.now := now_sendFlit _ _ _ _ _ _ _ _

/-- A launch takes no time back. -/
theorem now_le_flitLaunch (s : Mach) (p : PortNo) : s.now ≤ (flitLaunch s p).now := by
  obtain ⟨-, -, -, hnext⟩ := nextPeriod_spec s p
  rw [flitLaunch_eq]
  split
  · exact Nat.le_refl _
  split
  · rw [now_sendIdent]
    exact hnext
  split
  · rw [now_sendFlit]
    exact hnext
  split
  · exact Nat.le_refl _
  rw [now_launchAt]
  split
  · obtain ⟨-, -, -, hreplay⟩ := nextPeriod_spec (startReplay s p) p
    exact hreplay
  · exact hnext

/-! ### Receiving -/

section
variable {s : State} {p : PortNo}

theorem ends_flitReceive_down {bs : List Byte} {corr dt : Nat} {ucw : Bool} (hlen : bs.length = 640) (hactive : portState s.mach p ≠ vkActive)
    (hheld : portState s.mach p ≠ vkHeld) : Ends (.flitReceive p bs corr ucw dt) s (fun m => m = after16 s.mach dt) := by
  have hwf : flitWf bs = true := decide_eq_true hlen
  have heq : flitReceive s.mach p bs corr ucw dt = after16 s.mach dt := by
    unfold flitReceive
    exact if_pos (Or.inr ⟨hactive, hheld⟩)
  exact ⟨_, guarded_of_eq (f := fun t => flitReceive t p bs corr ucw dt) hwf heq, rfl⟩

theorem ends_flitReceive_lost {bs : List Byte} {dt : Nat} (hlen : bs.length = 640) (hpres : portPresent s.mach p = true)
    (hactive : portState s.mach p = vkActive) (htrig : (getPort s.mach p).trig = false) (hfirst : (getPort s.mach p).awaitRpl = false)
    (hdata : fld (BitVec.ofNat 128 (ofBytes (bs.take 16))) 127 124 = 1)
    (hcrc : fld (BitVec.ofNat 128 (ofBytes (bs.take 16))) 31 0 ≠ flitCrc bs) :
    Ends (.flitReceive p bs 0 false dt) s (fun m => (getPort m p).nak = true ∧ (getPort m p).awaitRpl = true ∧
      (getPort m p).rxq = (getPort s.mach p).rxq ∧ (getPort m p).rxSeq = (getPort s.mach p).rxSeq) := by
  have hwf : flitWf bs = true := decide_eq_true hlen
  obtain ⟨t, ht⟩ : ∃ t, t = countFec (after16 s.mach dt) p 0 false := ⟨_, rfl⟩
  have hport : getPort t p = getPort s.mach p := by
    rw [ht]
    exact (getPort_bump _ _ _ _ _ _ _ _).trans (getPort_advanceTo _ _ _)
  have hstate : portState t p = vkActive := by
    rw [ht]
    exact (portState_of_rg (rg_wf_apart (vkStatus.ne vkFec (by decide) p) _ _ _ _)).trans hactive
  have heq : flitReceive s.mach p bs 0 false dt = modPort t p (fun q => { q with nak := true, awaitRpl := true }) := by
    have hup : ¬ (portPresent (after16 s.mach dt) p = false ∨
        (portState (after16 s.mach dt) p ≠ vkActive ∧ portState (after16 s.mach dt) p ≠ vkHeld)) := by
      rintro (h | ⟨h, -⟩)
      · exact absurd (hpres.symm.trans h) (by decide)
      · exact h hactive
    unfold flitReceive
    dsimp only
    rw [if_neg hup, ← ht, if_neg (by rw [hstate, hport, htrig]; decide), if_pos (Or.inr (Or.inr (Or.inr hcrc)))]
    exact if_pos ⟨decide_eq_true hdata, by rw [hport, hfirst]⟩
  refine ⟨_, guarded_of_eq (f := fun t => flitReceive t p bs 0 false dt) hwf heq, ?_⟩
  dsimp only
  rw [getPort_modPort, hport]
  exact ⟨rfl, rfl, rfl, rfl⟩

/-! ### Replay (R425) -/

theorem getPort_startReplay (s : Mach) (p : PortNo) : getPort (startReplay s p) p =
    { getPort s p with nakRx := false, resend := (getPort s p).replay.head?.map TxFlit.seq, rpl := true, ackAt := s.now } :=
  getPort_modPort s p _

theorem ends_nak (hpres : portPresent s.mach p = true) (hactive : portState s.mach p = vkActive) (hnak : (getPort s.mach p).nakRx = true) :
    Ends (.nak p) s (fun m => (getPort m p).nakRx = false ∧ (getPort m p).rpl = true ∧
      (getPort m p).resend = (getPort s.mach p).replay.head?.map TxFlit.seq ∧ (getPort m p).replay = (getPort s.mach p).replay ∧
      m.csr = s.mach.csr) := by
  have heq : onNak s.mach p = startReplay s.mach p := if_pos ⟨hpres, hactive, hnak⟩
  refine ⟨_, onMach_of_eq heq, ?_⟩
  dsimp only
  rw [getPort_startReplay]
  exact ⟨rfl, rfl, rfl, rfl, rfl⟩

theorem ends_ackTimeout {f : TxFlit} {l : List TxFlit} (hpres : portPresent s.mach p = true) (hactive : portState s.mach p = vkActive)
    (hout : (getPort s.mach p).replay = f :: l) :
    Ends (.ackTimeout p) s (fun m => (getPort m p).resend = some f.seq ∧ (getPort m p).rpl = true ∧ (getPort m p).ackAt = m.now ∧
      s.mach.now ≤ m.now) := by
  obtain ⟨n, heq⟩ : ∃ n, ackTimeout s.mach p = startReplay (advanceTo s.mach n) p :=
    ⟨_, if_pos ⟨hpres, hactive, by rw [hout]; exact List.cons_ne_nil _ _⟩⟩
  refine ⟨_, onMach_of_eq (f := fun t => ackTimeout t p) heq, ?_⟩
  dsimp only
  rw [getPort_startReplay, getPort_advanceTo, hout]
  exact ⟨rfl, rfl, rfl, Nat.le_max_left _ _⟩

/-! ### Launches (R423, R425, R432) -/

theorem ends_flitLaunch_held (hpres : portPresent s.mach p = true) (hheld : portState s.mach p = vkHeld) (hsub : (getPort s.mach p).sub ≠ 5) :
    Ends (.flitLaunch p) s (fun m => (getPort m p).tx.length = 640 ∧ (getPort m p).replay = (getPort s.mach p).replay ∧
      (getPort m p).txSeq = (getPort s.mach p).txSeq ∧ (getPort m p).txq = (getPort s.mach p).txq ∧ (getPort m p).nak = false) := by
  obtain ⟨v, hport, -, -⟩ := nextPeriod_spec s.mach p
  have heq : flitLaunch s.mach p = sendFlit (nextPeriod s.mach p) p 0 0 0 false [] [] := by
    rw [flitLaunch_eq, if_neg (by rw [hpres]; decide), if_neg hsub, if_pos hheld]
  refine ⟨_, onMach_of_eq (f := fun t => flitLaunch t p) heq, ?_⟩
  dsimp only
  rw [getPort_sendFlit, hport]
  dsimp only [Port.launched, Port.next]
  exact ⟨length_flitBytes_null _ _, rfl, rfl, rfl, rfl⟩

theorem flitLaunch_active (hpres : portPresent s.mach p = true) (hactive : portState s.mach p = vkActive) (hsub : (getPort s.mach p).sub ≠ 5)
    (htrig : (getPort s.mach p).trig = false) (hnak : (getPort s.mach p).nakRx = false) :
    flitLaunch s.mach p = launchAt (nextPeriod s.mach p) p := by
  rw [flitLaunch_eq, if_neg (by rw [hpres]; decide), if_neg hsub, if_neg (by rw [hactive]; decide),
    if_neg (by rw [hactive, htrig]; decide), if_neg (by rw [hnak]; decide)]

/-- A port that replays: the flit that goes next. -/
def Port.replaying (r : Option Nat) (q : Port) : Port := { q with rpl := false, resend := r }

theorem ends_flitLaunch_replay {f : TxFlit} (hpres : portPresent s.mach p = true) (hactive : portState s.mach p = vkActive)
    (hsub : (getPort s.mach p).sub ≠ 5) (htrig : (getPort s.mach p).trig = false) (hnak : (getPort s.mach p).nakRx = false)
    (hresend : (getPort s.mach p).resend = some f.seq)
    (hfind : (getPort s.mach p).replay.find? (fun g => decide (g.seq = f.seq)) = some f) :
    Ends (.flitLaunch p) s (fun m => (getPort m p).replay = (getPort s.mach p).replay ∧ (getPort m p).rpl = false ∧
      rf m .VK_REPLAY p 0 31 0 = sat 32 (rf s.mach .VK_REPLAY p 0 31 0 + 1) ∧ (getPort m p).txSeq = (getPort s.mach p).txSeq) := by
  obtain ⟨v, hport, hcsr, -⟩ := nextPeriod_spec s.mach p
  have hreplay : rf (nextPeriod s.mach p) .VK_REPLAY p 0 31 0 = rf s.mach .VK_REPLAY p 0 31 0 := congrArg (fld · 31 0) (rg_of_csr hcsr _ _ _)
  have heq := flitLaunch_active hpres hactive hsub htrig hnak
  generalize nextPeriod s.mach p = t at hport hreplay heq
  obtain ⟨u, hu⟩ : ∃ u, u = sendData (bump t .VK_REPLAY p 0 31 0 1) p f (loc16 t - wf16 t p) (getPort t p).rpl := ⟨_, rfl⟩
  have hlaunch : ∃ r, launchAt t p = modPort u p (Port.replaying r) := by
    unfold launchAt
    dsimp only
    rw [hport]
    dsimp only [Port.next]
    rw [hresend]
    dsimp only
    rw [hfind]
    dsimp only
    rw [hu, hport]
    exact ⟨_, rfl⟩
  obtain ⟨r, hlaunch⟩ := hlaunch
  have hsent : ∃ bs, getPort u p = ((getPort s.mach p).next v).launched bs := by
    rw [hu, sendData_eq, getPort_sendFlit, getPort_dataBooked, getPort_bump, hport]
    exact ⟨_, rfl⟩
  obtain ⟨bs, hsent⟩ := hsent
  refine ⟨_, onMach_of_eq (f := fun t => flitLaunch t p) (heq.trans hlaunch), ?_⟩
  dsimp only
  rw [getPort_modPort, hsent, rf_modPort]
  dsimp only [Port.launched, Port.next, Port.replaying]
  refine ⟨rfl, rfl, ?_, rfl⟩
  rw [hu, sendData_eq, rf_replay_sendFlit]
  unfold rf
  rw [rg_dataBooked vkReplay]
  exact (rf_bump t .VK_REPLAY p 0 31 0 1 (by decide) (by decide)).trans (congrArg (fun n => sat 32 (n + 1)) hreplay)

theorem ends_flitLaunch_full (hpres : portPresent s.mach p = true) (hactive : portState s.mach p = vkActive) (hsub : (getPort s.mach p).sub ≠ 5)
    (htrig : (getPort s.mach p).trig = false) (hnak : (getPort s.mach p).nakRx = false) (hresend : (getPort s.mach p).resend = none)
    (hfull : 512 ≤ (getPort s.mach p).replay.length) :
    Ends (.flitLaunch p) s (fun m => (getPort m p).replay = (getPort s.mach p).replay ∧ (getPort m p).txSeq = (getPort s.mach p).txSeq ∧
      (getPort m p).txq = (getPort s.mach p).txq) := by
  obtain ⟨v, hport, -, -⟩ := nextPeriod_spec s.mach p
  have heq := flitLaunch_active hpres hactive hsub htrig hnak
  generalize nextPeriod s.mach p = t at hport heq
  have hlaunch : launchAt t p = sendFlit t p 0 0 0 false [] [] := by
    unfold launchAt
    dsimp only
    rw [hport]
    dsimp only [Port.next]
    rw [hresend]
    exact if_pos hfull
  refine ⟨_, onMach_of_eq (f := fun t => flitLaunch t p) (heq.trans hlaunch), ?_⟩
  dsimp only
  rw [getPort_sendFlit, hport]
  dsimp only [Port.launched, Port.next]
  exact ⟨rfl, rfl, rfl⟩

/-! ### Scheduled launches (R452) -/

theorem scheduledLaunch_of_find {x : TxPkt} {d : Nat} (hpres : portPresent s.mach p = true) (hactive : portState s.mach p = vkActive)
    (hfind : (getPort s.mach p).txq.find? (fun x => x.due.isSome) = some x) (hdue : x.due = some d) :
    scheduledLaunch s.mach p = flitLaunch (advanceTo s.mach (tick16 s.mach (d + wf16 s.mach p))) p := by
  unfold scheduledLaunch
  rw [hfind]
  dsimp only
  rw [if_pos ⟨hpres, hactive⟩, hdue]
  rfl

theorem ends_scheduledLaunch_retraining {x : TxPkt} {d : Nat} (hpres : portPresent s.mach p = true) (hactive : portState s.mach p = vkActive)
    (hfind : (getPort s.mach p).txq.find? (fun x => x.due.isSome) = some x) (hdue : x.due = some d) (hsub : (getPort s.mach p).sub ≠ 5)
    (htrig : (getPort s.mach p).trig = true) :
    Ends (.scheduledLaunch p) s (fun m => m = advanceTo s.mach (tick16 s.mach (d + wf16 s.mach p))) := by
  generalize hn : tick16 s.mach (d + wf16 s.mach p) = n
  have heq : scheduledLaunch s.mach p = advanceTo s.mach n := by
    rw [scheduledLaunch_of_find hpres hactive hfind hdue, hn, flitLaunch_eq, getPort_advanceTo]
    have hpres' : ¬ portPresent (advanceTo s.mach n) p = false := by
      show ¬ portPresent s.mach p = false
      rw [hpres]
      decide
    have hstate : portState (advanceTo s.mach n) p = vkActive := hactive
    rw [if_neg hpres', if_neg hsub, if_neg (by rw [hstate]; decide), if_pos (Or.inr htrig)]
  exact ⟨_, onMach_of_eq (f := fun t => scheduledLaunch t p) heq, rfl⟩

theorem ends_scheduledLaunch {x : TxPkt} {d : Nat} (hpres : portPresent s.mach p = true) (hactive : portState s.mach p = vkActive)
    (hfind : (getPort s.mach p).txq.find? (fun x => x.due.isSome) = some x) (hdue : x.due = some d) :
    Ends (.scheduledLaunch p) s (fun m => tick16 s.mach (d + wf16 s.mach p) ≤ m.now ∧
      Ends (.flitLaunch p) { s with mach := advanceTo s.mach (tick16 s.mach (d + wf16 s.mach p)) } (fun u => u = m)) := by
  have heq := scheduledLaunch_of_find hpres hactive hfind hdue
  generalize tick16 s.mach (d + wf16 s.mach p) = n at heq ⊢
  refine ⟨_, onMach_of_eq (f := fun t => scheduledLaunch t p) heq, ?_, _, rfl, rfl⟩
  exact (Nat.le_max_right _ _).trans (now_le_flitLaunch (advanceTo s.mach n) p)

theorem ends_scheduledLaunch_none (hnone : (getPort s.mach p).txq.find? (fun x => x.due.isSome) = none) :
    Ends (.scheduledLaunch p) s (fun m => m = s.mach) := by
  have heq : scheduledLaunch s.mach p = s.mach := by
    unfold scheduledLaunch
    rw [hnone]
  exact ⟨_, onMach_of_eq (f := fun t => scheduledLaunch t p) heq, rfl⟩

end

/-- Settles O43. -/
theorem flitsMove : Obligations.FlitsMove :=
  ⟨fun _ _ _ _ _ _ => ends_flitReceive_down, fun _ _ _ _ => ends_flitReceive_lost, fun _ _ => ends_nak, fun _ _ _ _ => ends_ackTimeout,
    fun _ _ => ends_flitLaunch_held, fun _ _ _ => ends_flitLaunch_replay, fun _ _ => ends_flitLaunch_full,
    fun _ _ _ _ => ends_scheduledLaunch_retraining, fun _ _ => ends_scheduledLaunch_none, fun _ _ _ _ => ends_scheduledLaunch⟩

end Sys2Proof.Machine
end

section
/-! What a Vrelrek port passes on: express entries, packets for other nodes, and those that find no credit (R427, R428, R438 to R441). -/

namespace Sys2Proof.Machine

/-! ### Parts of a port -/

/-- A part of every port that a change of one leaves. -/
theorem part_modPort {α : Type} {g : Port → α} {f : Port → Port} (h : ∀ x, g (f x) = g x) (s : Mach) (p q : PortNo) :
    g (getPort (modPort s p f) q) = g (getPort s q) := by
  by_cases hq : q.val = p.val
  · rw [Fin.ext hq, getPort_modPort, h]
  · rw [getPort_modPort_other s hq]

theorem part_freeRx {α : Type} {g : Port → α} (h : ∀ (x : Port) (held freed : List Nat), g { x with held := held, freed := freed } = g x)
    (s : Mach) (p q : PortNo) (v n : Nat) : g (getPort (freeRx s p v n) q) = g (getPort s q) := part_modPort (fun x => h x _ _) s p q

section
variable {s : State} {p q : PortNo}

/-! ### Express entries (R427, R428) -/

/-- An entry taken from the row that a port has received. -/
def entryTaken (s : Mach) (p : Nat) (e : Express) : Mach :=
  freeRx (modPort s p (fun q => { q with rxexp := q.rxexp.drop 1 })) p 1 (expUnits [e])

theorem expressEntry_of_cons {s : Mach} {p : Nat} {e : Express} {l : List Express} (h : (getPort s p).rxexp = e :: l) (hm : e.mtype ≤ 3) :
    expressEntry s p =
      let t := entryTaken s p e
      let full := fullStamp s e.stamp
      if tokLocal s e.dest then
        if isDone s = false then t
        else modPort (if decide (full < count16 s) = true then bump t .VK_EXP p 0 63 32 1 else t) p
          (fun q => { q with expHeld := q.expHeld ++ [(e, max full (count16 (if decide (full < count16 s) = true then bump t .VK_EXP p 0 63 32 1 else t)))] })
      else if full + 16 * 16384 < count16 s then bump t .VK_EXP p 0 31 0 1
      else match routePort s (tokNode e.dest) with
        | none => unroutable t (tokNode e.dest)
        | some q => modPort t q (fun x => { x with expq := x.expq ++
            [{ e with stamp := (full + 16 * (fwdLat (portDie p) (portDie q) + linkLat t q)) % 2 ^ 20 }] }) := by
  unfold expressEntry
  rw [h]
  dsimp only
  rw [if_neg (Nat.not_lt.2 hm)]
  rfl

theorem part_entryTaken {α : Type} {g : Port → α} (hrx : ∀ (x : Port) (l : List Express), g { x with rxexp := l } = g x)
    (hfree : ∀ (x : Port) (held freed : List Nat), g { x with held := held, freed := freed } = g x) (s : Mach) (p q : PortNo) (e : Express) :
    g (getPort (entryTaken s p e) q) = g (getPort s q) := (part_freeRx hfree _ p q _ _).trans (part_modPort (fun x => hrx x _) s p q)

theorem rxexp_entryTaken {s : Mach} {e : Express} {l : List Express} (h : (getPort s p).rxexp = e :: l) :
    (getPort (entryTaken s p e) p).rxexp = l := by
  refine (part_freeRx (g := Port.rxexp) (fun _ _ _ => rfl) _ p p _ _).trans ?_
  rw [getPort_modPort]
  exact congrArg (List.drop 1) h

theorem csr_modPort (s : Mach) (p : Nat) (f : Port → Port) : (modPort s p f).csr = s.csr := rfl
theorem csr_entryTaken (s : Mach) (p : Nat) (e : Express) : (entryTaken s p e).csr = s.csr := rfl

theorem ends_expressEntry_held {e : Express} {l : List Express} (hrx : (getPort s.mach p).rxexp = e :: l) (hm : e.mtype ≤ 3)
    (hlocal : tokLocal s.mach e.dest = true) (hdone : isDone s.mach = true) (htime : count16 s.mach ≤ fullStamp s.mach e.stamp) :
    Ends (.expressEntry p) s (fun m => (getPort m p).rxexp = l ∧
      (getPort m p).expHeld = (getPort s.mach p).expHeld ++ [(e, fullStamp s.mach e.stamp)] ∧ m.csr = s.mach.csr) := by
  have hcount : count16 (entryTaken s.mach p e) = count16 s.mach := rfl
  have heq : expressEntry s.mach p = modPort (entryTaken s.mach p e) p
      (fun q => { q with expHeld := q.expHeld ++ [(e, fullStamp s.mach e.stamp)] }) := by
    rw [expressEntry_of_cons hrx hm]
    dsimp only
    rw [if_pos hlocal, if_neg (by rw [hdone]; decide), decide_eq_false (Nat.not_lt.2 htime), if_neg Bool.false_ne_true, hcount,
      Nat.max_eq_left htime]
  refine ⟨_, onMach_of_eq (f := fun t => expressEntry t p) heq, ?_⟩
  dsimp only
  rw [getPort_modPort]
  dsimp only
  refine ⟨rxexp_entryTaken hrx, ?_, (csr_modPort _ _ _).trans (csr_entryTaken _ _ _)⟩
  exact congrArg (· ++ _) (part_entryTaken (g := Port.expHeld) (fun _ _ => rfl) (fun _ _ _ => rfl) s.mach p p e)

theorem ends_expressEntry_forward {e : Express} {l : List Express} (hrx : (getPort s.mach p).rxexp = e :: l) (hm : e.mtype ≤ 3)
    (hfar : tokLocal s.mach e.dest = false) (htime : count16 s.mach ≤ fullStamp s.mach e.stamp + 16 * 16384)
    (hroute : routePort s.mach (tokNode e.dest) = some q.val) :
    Ends (.expressEntry p) s (fun m => (getPort m p).rxexp = l ∧
      let st := (fullStamp s.mach e.stamp + 16 * (fwdLat (portDie p) (portDie q) + linkLat s.mach q)) % 2 ^ 20
      (getPort m q).expq = (getPort s.mach q).expq ++ [{ e with stamp := st }]) := by
  have hlat : linkLat (entryTaken s.mach p e) q = linkLat s.mach q := rfl
  have heq : expressEntry s.mach p = modPort (entryTaken s.mach p e) q (fun x => { x with expq := x.expq ++
      [{ e with stamp := (fullStamp s.mach e.stamp + 16 * (fwdLat (portDie p) (portDie q) + linkLat s.mach q)) % 2 ^ 20 }] }) := by
    rw [expressEntry_of_cons hrx hm]
    dsimp only
    rw [if_neg (by rw [hfar]; decide), if_neg (Nat.not_lt.2 htime), hroute]
    dsimp only
    rw [hlat]
  refine ⟨_, onMach_of_eq (f := fun t => expressEntry t p) heq, ?_, ?_⟩
  · exact (part_modPort (g := Port.rxexp) (by intro x; rfl) _ q p).trans (rxexp_entryTaken hrx)
  · dsimp only
    rw [getPort_modPort]
    exact congrArg (· ++ _) (part_entryTaken (g := Port.expq) (fun _ _ => rfl) (fun _ _ _ => rfl) s.mach p q e)

/-- The only entry of a port at its STAMP. -/
def entryOut (s : Mach) (p t : Nat) : Mach := advanceTo (modPort s p (fun q => { q with expHeld := q.expHeld.eraseIdx 0 })) (tick16 s t)

theorem expHeld_entryOut {s : Mach} {e : Express} {t : Nat} (h : (getPort s p).expHeld = [(e, t)]) :
    (getPort (entryOut s p t) p).expHeld = [] := by
  unfold entryOut
  rw [getPort_advanceTo, getPort_modPort]
  exact congrArg (List.eraseIdx · 0) h

theorem ends_expressDue_token {e : Express} {t : Nat} (hheld : (getPort s.mach p).expHeld = [(e, t)]) (hm : e.mtype = 0)
    (hbay : tokBay e.dest < 72) :
    Ends (.expressDue p) s (fun m => (getPort m p).expHeld = [] ∧ tick16 s.mach t ≤ m.now ∧ ∃ x, m.toks = s.mach.toks ++ [x] ∧
      x.bay = tokBay e.dest ∧ x.ch = tokCh e.dest ∧ x.n = e.n ∧ x.poison = e.pois ∧ m.now ≤ x.due) := by
  obtain ⟨due, hdue, heq⟩ : ∃ due, (entryOut s.mach p t).now ≤ due ∧ expressDue s.mach p =
      { entryOut s.mach p t with toks := (entryOut s.mach p t).toks ++
          [{ bay := tokBay e.dest, ch := tokCh e.dest, n := e.n, poison := e.pois, due := due, tid := none, port := some p.val, cross := true }] } := by
    refine ⟨max (entryOut s.mach p t).now (tick16 (entryOut s.mach p t) t) + dieLat (portDie p) (compDieId (dieOf (tokBay e.dest))) * Config.acyc,
      (Nat.le_max_left _ _).trans (Nat.le_add_right _ _), ?_⟩
    unfold expressDue
    rw [hheld]
    dsimp only [firstDue, List.zipIdx, List.foldl]
    rw [if_neg (by rw [hm]; decide), if_neg (Nat.not_le.2 hbay), if_pos hm]
    rfl
  refine ⟨_, onMach_of_eq (f := fun t => expressDue t p) heq, expHeld_entryOut hheld, Nat.le_max_right _ _, _, rfl, rfl, rfl, rfl, rfl, hdue⟩

theorem ends_expressDue_power {e : Express} {t : Nat} (hheld : (getPort s.mach p).expHeld = [(e, t)]) (hm : e.mtype = 3) :
    Ends (.expressDue p) s (fun m => (getPort m p).expHeld = [] ∧ m.toks = s.mach.toks ∧ m.pwr.shiftIn = s.mach.pwr.shiftIn ++
      [(e.body / 2 ^ 56 % 256, e.body / 2 ^ 48 % 256, e.body % 2 ^ 48)]) := by
  have heq : expressDue s.mach p = modPwr (entryOut s.mach p t) (fun w => { w with shiftIn := w.shiftIn ++
      [(e.body / 2 ^ 56 % 256, e.body / 2 ^ 48 % 256, e.body % 2 ^ 48)] }) := by
    unfold expressDue
    rw [hheld]
    dsimp only [firstDue, List.zipIdx, List.foldl]
    rw [if_pos hm]
    rfl
  exact ⟨_, onMach_of_eq (f := fun t => expressDue t p) heq, expHeld_entryOut hheld, rfl, rfl⟩

/-! ### Packets for other nodes (R439 to R441) -/

/-- The only packet of a port taken. -/
def pktTaken (s : Mach) (p : Nat) : Mach := modPort s p (fun q => { q with rxq := q.rxq.eraseIdx 0 })

theorem rxq_pktTaken {s : Mach} {k : Pkt} (h : (getPort s p).rxq = [k]) : (getPort (pktTaken s p) p).rxq = [] := by
  unfold pktTaken
  rw [getPort_modPort]
  exact congrArg (List.eraseIdx · 0) h

theorem headPkt_of_single {s : Mach} {p : Nat} {k : Pkt} {f : Pkt → Bool} (h : (getPort s p).rxq = [k]) (hf : f k = true) :
    headPkt s p f = some (0, k) := by
  unfold headPkt
  rw [h]
  simp only [List.zipIdx_cons, List.zipIdx_nil, List.take_zero, List.any_nil, Bool.not_false, Bool.or_true, Bool.and_true, hf, List.find?_cons_of_pos,
    Option.map_some]

theorem ends_packetForward {k : Pkt} (hrx : (getPort s.mach p).rxq = [k]) (hnode : k.dnode ≠ s.mach.route.nodeId) (hhops : k.hops < 7)
    (hroute : routePort s.mach k.dnode = some q.val) (hspill : (getPort s.mach q).spill = []) :
    Ends (.packetForward p) s (fun m => (getPort m p).rxq = [] ∧ ∃ x : TxPkt, (getPort m q).txq = (getPort s.mach q).txq ++ [x] ∧
      x.pkt = { k with hops := k.hops + 1 } ∧ x.from_ = some p.val) := by
  have hspill' : (getPort (pktTaken s.mach p) q).spill = [] := (part_modPort (g := Port.spill) (by intro x; rfl) _ p q).trans hspill
  have hroute' : routePort (pktTaken s.mach p) k.dnode = some q.val := hroute
  have heq : packetForward s.mach p = modPort (pktTaken s.mach p) q (fun y => { y with txq := y.txq ++
      [{ pkt := { k with hops := k.hops + 1 }, from_ := some p.val, due := none, since := s.mach.now }] }) := by
    unfold packetForward
    rw [headPkt_of_single hrx (decide_eq_true hnode)]
    dsimp only
    rw [if_neg (Nat.not_le.2 hhops)]
    show (match routePort (pktTaken s.mach p) k.dnode with | none => _ | some q => _) = _
    rw [hroute']
    dsimp only
    exact if_neg fun h => h.2.1 hspill'
  refine ⟨_, onMach_of_eq (f := fun t => packetForward t p) heq, ?_, { pkt := { k with hops := k.hops + 1 }, from_ := some p.val, due := none, since := s.mach.now }, ?_, rfl, rfl⟩
  · exact (part_modPort (g := Port.rxq) (by intro x; rfl) _ q p).trans (rxq_pktTaken hrx)
  · rw [getPort_modPort]
    exact congrArg (· ++ _) (part_modPort (g := Port.txq) (by intro x; rfl) _ p q)

theorem getPort_vkRecord (s : Mach) (p : Option Nat) (n q : Nat) : getPort (vkRecord s p n) q = getPort s q :=
  vkRecord_keeps (g := (getPort · q)) (fun h => getPort_of_units h q) (fun _ _ => rfl) s p n

theorem ends_packetForward_hops {k : Pkt} (hrx : (getPort s.mach p).rxq = [k]) (hnode : k.dnode ≠ s.mach.route.nodeId) (hhops : 7 ≤ k.hops)
    (hreq : isRequest k.ptype = false) :
    Ends (.packetForward p) s (fun m => (getPort m p).rxq = [] ∧ ∀ q : PortNo, q ≠ p → getPort m q = getPort s.mach q) := by
  have heq : packetForward s.mach p = vkRecord (freeRx (pktTaken s.mach p) p k.vc k.len) none k.dnode := by
    unfold packetForward
    rw [headPkt_of_single hrx (decide_eq_true hnode)]
    dsimp only
    rw [if_pos hhops]
    unfold refuseRoute
    rw [if_neg (by rw [hreq]; decide)]
    rfl
  refine ⟨_, onMach_of_eq (f := fun t => packetForward t p) heq, ?_, fun q hq => ?_⟩
  · rw [getPort_vkRecord]
    exact (part_freeRx (g := Port.rxq) (fun _ _ _ => rfl) _ p p _ _).trans (rxq_pktTaken hrx)
  · have hval : q.val ≠ p.val := fun h => hq (Fin.ext h)
    rw [getPort_vkRecord]
    exact (getPort_modPort_other _ hval _).trans (getPort_modPort_other _ hval _)

theorem ends_spill {r : PortNo} {x : TxPkt} {l : List TxPkt} (htx : (getPort s.mach q).txq = x :: l) (hfrom : x.from_ = some r.val)
    (hvc : x.pkt.vc ≠ 4) (hcredit : creditOf (getPort s.mach q) x.pkt.vc < x.pkt.len)
    (hroom : spillRoom (advanceTo s.mach (flitsAfter s.mach q x.since 64)) q x.pkt = true) :
    Ends (.spill q) s (fun m => (getPort m q).txq = l ∧ (getPort m q).spill = (getPort s.mach q).spill ++ [{ x with from_ := none }] ∧
      flitsAfter s.mach q x.since 64 ≤ m.now) := by
  have hfind : (getPort s.mach q).txq.zipIdx.find? (fun y => y.1.from_.isSome && decide (y.1.pkt.vc ≠ 4) &&
      decide (creditOf (getPort s.mach q) y.1.pkt.vc < y.1.pkt.len)) = some (x, 0) := by
    rw [htx, List.zipIdx_cons]
    refine List.find?_cons_of_pos ?_
    simp only [hfrom, Option.isSome_some, decide_eq_true hvc, decide_eq_true hcredit, Bool.and_self]
  obtain ⟨n, hn⟩ : ∃ n, n = flitsAfter s.mach q x.since 64 := ⟨_, rfl⟩
  rw [← hn] at hroom ⊢
  obtain ⟨t, ht⟩ : ∃ t, t = modPort (advanceTo s.mach n) q (fun y => { y with txq := y.txq.eraseIdx 0 }) := ⟨_, rfl⟩
  have heq : spill s.mach q = modPort (freeRx t r x.pkt.vc x.pkt.len) q (fun y => { y with spill := y.spill ++ [{ x with from_ := none }] }) := by
    unfold spill
    dsimp only
    rw [hfind]
    dsimp only
    rw [← hn, if_pos hroom, ← ht]
    unfold toSpill
    rw [hfrom]
  have htail : (getPort t q).txq = l := by
    rw [ht, getPort_modPort, getPort_advanceTo]
    exact congrArg (List.eraseIdx · 0) htx
  have hspill : (getPort t q).spill = (getPort s.mach q).spill := by rw [ht, getPort_modPort, getPort_advanceTo]
  refine ⟨_, onMach_of_eq (f := fun t => Sys2Proof.Machine.spill t q) heq, ?_, ?_, ?_⟩
  · rw [getPort_modPort]
    exact (part_freeRx (g := Port.txq) (fun _ _ _ => rfl) t r q _ _).trans htail
  · rw [getPort_modPort]
    exact congrArg (· ++ _) ((part_freeRx (g := Port.spill) (fun _ _ _ => rfl) t r q _ _).trans hspill)
  · rw [ht]
    exact Nat.le_max_right _ _

end

/-- Settles O44. -/
theorem portsForward : Obligations.PortsForward :=
  ⟨fun _ _ _ _ => ends_expressEntry_held, fun _ _ _ _ _ => ends_expressEntry_forward, fun _ _ _ _ => ends_expressDue_token,
    fun _ _ _ _ => ends_expressDue_power, fun _ _ _ _ => ends_packetForward, fun _ _ _ => ends_packetForward_hops,
    fun _ _ _ _ _ => ends_spill⟩

end Sys2Proof.Machine
end

section
/-! Writes of the package's registers by commands (R282, R350, R415, R467, R473, R485, R487, R495, R505, R512, R541, R571, R606). -/

namespace Sys2Proof.Machine

theorem placed_of {n : RegName} {u i : Nat} (hu : n.info.blk.hasUnit u = true) (hp : regPresent n u = true) (hi : i < n.info.count) :
    RegRef.placed { name := n, unit := u, idx := i } = true := by
  unfold RegRef.placed
  simp [hu, hp, hi]

section
variable {s : State} {mid : Mid} {v : Word}

/-! ### Shared regions (R282) -/

theorem ends_shrA {barn : Fin 4} {n : Fin 32}
    (hok : ¬ (bit v 63 = true ∧ (granarySize s.mach < (fld v 22 0 + fld v 45 23) * 65536 ∨ ((List.range 32).any (fun k =>
      decide (k ≠ n.val) && bit (shrA s.mach k) 63 && overlaps (fld (shrA s.mach k) 22 0) (fld (shrA s.mach k) 45 23) (fld v 22 0) (fld v 45 23))) = true ∨
      fld v 45 23 = 0 ∨ fld v 61 60 = 3))) :
    CspEnds (.sharedRegionWrite mid barn n v) s mid .GRN_SHR_A (3 * barn.val) n v (fun t m =>
      m.units = { t with cspOut := (0, 0) }.units ∧ rg m .GRN_SHR_A 0 n = packFlds [(63, 60, fld v 63 60), (45, 0, fld v 45 0)]) := by
  have hact : regWrite s.mach mid { name := .GRN_SHR_A, unit := 3 * barn.val, idx := n } false v =
      wr s.mach .GRN_SHR_A 0 n (packFlds [(63, 60, fld v 63 60), (45, 0, fld v 45 0)]) := by
    show onShrA s.mach (3 * barn.val / 3) n v = _
    unfold onShrA
    exact if_neg hok
  have hplace : RegRef.placed { name := .GRN_SHR_A, unit := 3 * barn.val, idx := n.val } = true :=
    placed_of (decide_eq_true (by omega)) (decide_eq_true (by omega)) n.isLt
  exact cspEnds_outside hplace rfl rfl hact ⟨units_cspOut (units_wr _ _ _ _ _) _, (rg_cspOut _ _ _ _ _).trans (rg_wr _ _ _ _ _)⟩

theorem ends_sharedRegionWrite_invalid {barn : Fin 4} {n : Fin 32} (h : bit v 63 = false) :
    CspEnds (.sharedRegionWrite mid barn n v) s mid .GRN_SHR_A (3 * barn.val) n v (fun t m =>
      m.units = { t with cspOut := (0, 0) }.units ∧ rg m .GRN_SHR_A 0 n = packFlds [(63, 60, fld v 63 60), (45, 0, fld v 45 0)]) :=
  ends_shrA fun hv => absurd (h.symm.trans hv.1) (by decide)

theorem ends_sharedRegionWrite_valid {barn : Fin 4} {n : Fin 32} (hkind : fld v 61 60 ≠ 3) (hsize : fld v 45 23 ≠ 0)
    (hroom : (fld v 22 0 + fld v 45 23) * 65536 ≤ granarySize s.mach) (hfree : ∀ k : Fin 32, bit (shrA s.mach k) 63 = false) :
    CspEnds (.sharedRegionWrite mid barn n v) s mid .GRN_SHR_A (3 * barn.val) n v (fun t m =>
      m.units = { t with cspOut := (0, 0) }.units ∧ rg m .GRN_SHR_A 0 n = packFlds [(63, 60, fld v 63 60), (45, 0, fld v 45 0)]) := by
  refine ends_shrA ?_
  rintro ⟨-, hbig | hclash | h0 | h3⟩
  · exact Nat.not_lt.2 hroom hbig
  · obtain ⟨k, hk, hover⟩ := List.any_eq_true.1 hclash
    rw [hfree ⟨k, List.mem_range.1 hk⟩] at hover
    simp only [Bool.and_false, Bool.false_and, Bool.false_eq_true] at hover
  · exact hsize h0
  · exact hkind h3

/-! ### Ways of the last-level cache (R350) -/

/-- A way named by software. -/
def disableWay (h i : Nat) (t : Mach) : Mach :=
  { wb t .COH_LLCWAY h 0 (16 + i) true with llcSoft := smapPut false t.llcSoft (16 * (h - 4) + i) true }

theorem rg_llcSoft (s : Mach) (x : SMap Bool) (n : RegName) (u i : Nat) : rg { s with llcSoft := x } n u i = rg s n u i := rfl

theorem rg_disableWay (h i : Nat) (t : Mach) : rg (disableWay h i t) .COH_LLCWAY h 0 = setBit (rg t .COH_LLCWAY h 0) (16 + i) true := by
  unfold disableWay
  rw [rg_llcSoft]
  exact rg_wr _ _ _ _ _

theorem rb_disableWay_same (h i : Nat) (t : Mach) (hi : i < 16) : rb (disableWay h i t) .COH_LLCWAY h 0 (16 + i) = true :=
  (congrArg (bit · (16 + i)) (rg_disableWay h i t)).trans (bit_setBit_same _ _ true (by omega))

/-- A way disabled stays so while others are. -/
theorem rb_disableWay (h i : Nat) (t : Mach) (hi : i < 16) {k : Nat} (hk : rb t .COH_LLCWAY h 0 (16 + k) = true) :
    rb (disableWay h i t) .COH_LLCWAY h 0 (16 + k) = true := by
  by_cases hki : k = i
  · rw [hki]
    exact rb_disableWay_same h i t hi
  · unfold rb
    rw [rg_disableWay]
    exact (bit_setFld_other _ _ _ _ _ (by omega) (by omega)).trans hk

theorem rb_foldS_disableWay (h k : Nat) (l : List Nat) (hl : ∀ i ∈ l, i < 16) (s : Mach)
    (hk : k ∈ l ∨ rb s .COH_LLCWAY h 0 (16 + k) = true) : rb (foldS l (fun t i => disableWay h i t) s) .COH_LLCWAY h 0 (16 + k) = true := by
  induction l generalizing s with
  | nil => exact hk.resolve_left List.not_mem_nil
  | cons i l ih =>
    unfold foldS
    rw [List.foldl_cons]
    refine ih (fun j hj => hl j (List.mem_cons_of_mem i hj)) _ ?_
    have hi := hl i List.mem_cons_self
    rcases hk with hmem | hset
    · rcases List.mem_cons.1 hmem with rfl | hmem
      · exact Or.inr (rb_disableWay_same h k s hi)
      · exact Or.inl hmem
    · exact Or.inr (rb_disableWay h i s hi hset)

theorem placed_llcway : ∀ d : Fin 2, RegRef.placed { name := .COH_LLCWAY, unit := 4 + d.val, idx := 0 } = true := by decide

theorem ends_cohLlcwayDisWrite {d : Fin 2} {i : Fin 16} (hclear : rg s.mach .COH_LLCWAY (4 + d.val) 0 = 0) (hi : bit v i = true)
    (hfew : ((List.range 16).filter (fun k => bit v k)).length ≤ 12) :
    CspEnds (.cohLlcwayDisWrite mid d v) s mid .COH_LLCWAY (4 + d.val) 0 v (fun _ m => rb m .COH_LLCWAY (4 + d.val) 0 (16 + i) = true) := by
  have hfresh : (List.range 16).filter (fun k => bit v k && !(fld (0 : Word) 15 0 ||| fld (0 : Word) 31 16).testBit k) =
      (List.range 16).filter (fun k => bit v k) := List.filter_congr fun k hk => by
    have hzero : (fld (0 : Word) 15 0 ||| fld (0 : Word) 31 16) = 0 := by decide
    rw [hzero, Nat.zero_testBit, Bool.not_false, Bool.and_true]
  have hmem : i.val ∈ (List.range 16).filter (fun k => bit v k) := List.mem_filter.2 ⟨List.mem_range.2 i.isLt, hi⟩
  have hact : regWrite s.mach mid { name := .COH_LLCWAY, unit := 4 + d.val, idx := 0 } false v =
      foldS ((List.range 16).filter (fun k => bit v k)) (fun t k => disableWay (4 + d.val) k t) s.mach := by
    show onLlcway s.mach (4 + d.val) v = _
    unfold onLlcway
    dsimp only
    rw [hclear, hfresh]
    refine if_neg ?_
    rintro (hnil | hmany)
    · rw [List.isEmpty_iff.1 hnil] at hmem
      exact absurd hmem List.not_mem_nil
    · have hpop : popcount 16 (fld (0 : Word) 15 0 ||| fld (0 : Word) 31 16) = 0 := by decide
      rw [hpop] at hmany
      omega
  refine cspEnds_outside (placed_llcway d) rfl rfl hact ?_
  rw [rb_cspOut]
  exact rb_foldS_disableWay _ _ _ (fun k hk => List.mem_range.1 (List.mem_filter.1 hk).1) _ (Or.inl hmem)

/-! ### The control of a port (R415, R419, R426) -/

theorem vkCtl : VkReg .VK_CTL := ⟨rfl, by decide⟩

theorem placed_vkCtl : ∀ p : PortNo, RegRef.placed { name := .VK_CTL, unit := p.val, idx := 0 } = true := by decide

/-- The low part of a field that is 0. -/
theorem fld_zero_of_wider {w : Word} (h : fld w 15 0 = 0) : fld w 3 0 = 0 := by
  unfold fld at h ⊢
  omega

theorem portState_cspOut (s : Mach) (x : Nat × Word) (p : Nat) : portState { s with cspOut := x } p = portState s p := rfl

/-- Its enabling written, its state read. -/
theorem portState_enabled (s : Mach) (p : PortNo) (x : Bool) : portState (wb s .VK_CTL p 0 0 x) p = portState s p :=
  portState_of_rg (rg_wf_apart (vkStatus.ne vkCtl (by decide) p) _ _ _ _)

theorem ends_vkCtl_start {p : PortNo} (h0 : bit v 0 = true) (hidle : portState s.mach p = 0) :
    CspEnds (.vkCtlEnable mid p v) s mid .VK_CTL p 0 v (fun _ m => portState m p = 1 ∧ (getPort m p).sub = 1 ∧ rb m .VK_CTL p 0 0 = true) := by
  obtain ⟨t, ht⟩ : ∃ t, t = wb s.mach .VK_CTL p 0 0 true := ⟨_, rfl⟩
  obtain ⟨u, hu⟩ : ∃ u, u = discardPort (wf t .VK_STATUS p 0 15 0 0) p := ⟨_, rfl⟩
  have hact : regWrite s.mach mid { name := .VK_CTL, unit := p, idx := 0 } false v = enterSub (startDetect u p) p 1 := by
    have hidle' : portState t p = 0 := by rw [ht, portState_enabled, hidle]
    show onVkCtl s.mach p v = _
    unfold onVkCtl
    rw [h0, ← ht, if_neg (by decide), if_pos hidle']
    rw [hu]
    rfl
  have hdetect {n : RegName} (hn : VkReg n) (hp : n.info.off ≠ 0x20) (hs : n.info.off ≠ 0x0) : rg (startDetect u p) n p 0 = rg u n p 0 := by
    unfold startDetect
    dsimp only
    rw [rg_modPort]
    exact (rg_wf_apart (hn.ne vkPeerid hp p) _ _ _ _).trans (rg_wf_apart (hn.ne vkStatus hs p) _ _ _ _)
  have hstate : portState (startDetect u p) p = 0 := by
    unfold startDetect
    dsimp only
    rw [portState_modPort]
    refine (portState_of_rg (rg_wf_apart (vkStatus.ne vkPeerid (by decide) p) _ _ _ _)).trans ?_
    rw [portState_wf _ _ _ (by decide) (by decide), hu, portState_of_rg (rg_discardPort vkStatus (by decide) _ p)]
    have hwhole : rf (wf t .VK_STATUS p 0 15 0 0) .VK_STATUS p 0 15 0 = 0 := rf_wf_of_lt t .VK_STATUS p 0 (by decide) (by decide) (by decide)
    exact fld_zero_of_wider hwhole
  have hctl : rb (startDetect u p) .VK_CTL p 0 0 = true := by
    refine (congrArg (bit · 0) (hdetect vkCtl (by decide) (by decide))).trans ?_
    rw [hu, rg_discardPort vkCtl (by decide), rg_wf_apart (vkCtl.ne vkStatus (by decide) p), ht]
    exact rb_wb s.mach .VK_CTL p 0 0 true (by decide)
  refine cspEnds_outside (placed_vkCtl p) rfl rfl hact ?_
  rw [portState_cspOut, getPort_cspOut, rb_cspOut, portState_enterSub, getPort_enterSub, hstate]
  exact ⟨rfl, rfl, (congrArg (bit · 0) (rg_enterSub vkCtl (by decide) _ p 1)).trans hctl⟩

theorem ends_vkCtl_stop {p : PortNo} (h0 : bit v 0 = false) (hup : portState s.mach p ≠ 0) :
    CspEnds (.vkCtlEnable mid p v) s mid .VK_CTL p 0 v (fun _ m => portState m p = 0 ∧ (getPort m p).txq = [] ∧ rb m .VK_CTL p 0 0 = false) := by
  obtain ⟨t, ht⟩ : ∃ t, t = wb s.mach .VK_CTL p 0 0 false := ⟨_, rfl⟩
  obtain ⟨u, hu⟩ : ∃ u, u = endMeasure (wr t .VK_STATUS p 0 0) p := ⟨_, rfl⟩
  have hact : regWrite s.mach mid { name := .VK_CTL, unit := p, idx := 0 } false v =
      discardPort (modPort u p (fun q => { q with sub := 0, peer := none })) p := by
    have hup' : portState t p ≠ 0 := by rwa [ht, portState_enabled]
    show onVkCtl s.mach p v = _
    unfold onVkCtl
    rw [h0, ← ht]
    dsimp only
    rw [if_pos rfl, if_neg hup', hu]
  have hreg {n : RegName} (hn : VkReg n) (he : n.info.off ≠ 0x48) :
      rg (discardPort (modPort u p (fun q => { q with sub := 0, peer := none })) p) n p 0 = rg (wr t .VK_STATUS p 0 0) n p 0 := by
    rw [rg_discardPort hn he, rg_modPort, hu, rg_endMeasure hn]
  refine cspEnds_outside (placed_vkCtl p) rfl rfl hact ?_
  rw [portState_cspOut, getPort_cspOut, rb_cspOut, portState_of_rg (hreg vkStatus (by decide)), getPort_discardPort]
  refine ⟨congrArg (fld · 3 0) (rg_wr _ _ _ _ _), rfl, ?_⟩
  refine (congrArg (bit · 0) ((hreg vkCtl (by decide)).trans (rg_wr_other _ _ _ _ _ _ _ _ (vkCtl.ne vkStatus (by decide) p)))).trans ?_
  rw [ht]
  exact rb_wb s.mach .VK_CTL p 0 0 false (by decide)

theorem ends_vkCtl_retrain {p : PortNo} (h0 : bit v 0 = true) (h1 : bit v 1 = true) (hactive : portState s.mach p = vkActive)
    (hnone : (getPort s.mach p).retrains = []) (hmax : rf s.mach .VK_CFG p 0 47 40 ≠ 0) :
    CspEnds (.vkCtlRetrain mid p v) s mid .VK_CTL p 0 v (fun t m => portState m p = vkRetrain ∧ (getPort m p).sub = 1 ∧
      (getPort m p).retrains = [frameNo t]) := by
  obtain ⟨t, ht⟩ : ∃ t, t = wb s.mach .VK_CTL p 0 0 true := ⟨_, rfl⟩
  obtain ⟨u, hu⟩ : ∃ u, u = bump (endMeasure t p) .VK_TRAIN p 0 63 32 1 := ⟨_, rfl⟩
  obtain ⟨x, hx⟩ : ∃ x, x = modPort u p (Port.retraining [frameNo s.mach] u.now) := ⟨_, rfl⟩
  have hframe : frameNo t = frameNo s.mach := by
    rw [ht]
    exact frameNo_congr (now_wb _ _ _ _ _ _) (alm_wf _ _ _ _ _ _ _)
  have hretrains : (getPort t p).retrains = [] := by rw [ht, getPort_wb, hnone]
  have hlist : ((getPort t p).retrains ++ [frameNo t]).filter (fun g => decide (frameNo t < g + 4096)) = [frameNo s.mach] := by
    rw [hretrains, hframe, List.nil_append, List.filter_cons_of_pos (by simp only [decide_eq_true_eq]; omega), List.filter_nil]
  have hcfg : rf x .VK_CFG p 0 47 40 = rf s.mach .VK_CFG p 0 47 40 := by
    rw [hx, rf_modPort, hu]
    refine congrArg (fld · 47 40) ((rg_wf_apart (vkCfg.ne vkTrain (by decide) p) _ _ _ _).trans ?_)
    rw [rg_endMeasure vkCfg, ht]
    exact rg_wf_apart (vkCfg.ne vkCtl (by decide) p) _ _ _ _
  have hact : regWrite s.mach mid { name := .VK_CTL, unit := p, idx := 0 } false v = startDetect (setPortState x p vkRetrain) p := by
    have hactive' : portState t p = vkActive := by rw [ht, portState_enabled, hactive]
    show onVkCtl s.mach p v = _
    unfold onVkCtl
    rw [h0, h1, ← ht]
    dsimp only
    rw [if_neg (by decide), if_neg (by rw [hactive']; decide), if_neg (by decide), if_pos hactive', retrain_eq, hlist]
    dsimp only
    rw [← hu, ← hx, hcfg]
    exact if_neg (by simp only [List.length_singleton]; omega)
  have hport : getPort (startDetect (setPortState x p vkRetrain) p) p = { getPort x p with sub := 1, stateAt := x.now, trig := false, nakRx := false } := by
    unfold startDetect setPortState
    dsimp only
    rw [getPort_modPort, getPort_wb, getPort_wf, getPort_wf, now_wb, now_wf, now_wf]
  have hstate : portState (startDetect (setPortState x p vkRetrain) p) p = vkRetrain := by
    unfold startDetect
    dsimp only
    rw [portState_modPort]
    refine (portState_of_rg (rg_wf_apart (vkStatus.ne vkPeerid (by decide) p) _ _ _ _)).trans ?_
    rw [portState_wf _ _ _ (by decide) (by decide), portState_setPortState]
    rfl
  refine cspEnds_outside (placed_vkCtl p) rfl rfl hact ?_
  rw [portState_cspOut, getPort_cspOut, hport]
  refine ⟨hstate, rfl, ?_⟩
  rw [hx, getPort_modPort]
  rfl

/-! ### Tenants (R467, R469) -/

theorem placed_tenA : ∀ t : Fin 1024, RegRef.placed { name := .PRT_TEN_A, unit := 0, idx := t.val } = true :=
  fun t => placed_of rfl rfl t.isLt

theorem ends_tenantCommit {t : Fin 1024} (hok : tenRejected s.mach v (stagedB s.mach t) (stagedC s.mach t) = false)
    (hfree : tenBusy s.mach t = false) :
    CspEnds (.tenantCommit mid t v) s mid .PRT_TEN_A 0 t v (fun u m => m.units = { u with cspOut := (0, 0) }.units ∧
      rg m .PRT_TEN_A 0 t = v ∧ rg m .PRT_TEN_B 0 t = stagedB u t ∧ rg m .PRT_TEN_C 0 t = stagedC u t) := by
  have hact : regWrite s.mach mid { name := .PRT_TEN_A, unit := 0, idx := t } false v =
      wr (wr (wr s.mach .PRT_TEN_A 0 t v) .PRT_TEN_B 0 t (stagedB s.mach t)) .PRT_TEN_C 0 t (stagedC s.mach t) := by
    show onTenA s.mach mid t v = _
    unfold onTenA
    dsimp only
    rw [hok, hfree, if_neg Bool.false_ne_true, if_neg Bool.false_ne_true]
  have hlt := t.isLt
  refine cspEnds_outside (placed_tenA t) rfl rfl hact ⟨units_cspOut ?_ _, ?_, ?_, ?_⟩
  · rw [units_wr, units_wr, units_wr]
  · rw [rg_cspOut, rg_wr_other _ _ _ _ _ _ _ _ (by simp only [RegRef.addr, RegName.info, Blk.base]; omega),
      rg_wr_other _ _ _ _ _ _ _ _ (by simp only [RegRef.addr, RegName.info, Blk.base]; omega), rg_wr]
  · rw [rg_cspOut, rg_wr_other _ _ _ _ _ _ _ _ (by simp only [RegRef.addr, RegName.info, Blk.base]; omega), rg_wr]
  · rw [rg_cspOut, rg_wr]

theorem ends_tenantCommit_rejected {t : Fin 1024} (hrej : tenRejected s.mach v (stagedB s.mach t) (stagedC s.mach t) = true)
    (hclear : rb s.mach .PRT_ERR 0 0 63 = false) :
    CspEnds (.tenantCommit mid t v) s mid .PRT_TEN_A 0 t v (fun u m => m.units = { u with cspOut := (0, 0) }.units ∧
      rg m .PRT_TEN_A 0 t = rg u .PRT_TEN_A 0 t ∧ rb m .PRT_ERR 0 0 63 = true ∧ rf m .PRT_ERR 0 0 55 48 = 3 ∧
      rf m .PRT_ERR 0 0 29 20 = t) := by
  have hact : regWrite s.mach mid { name := .PRT_TEN_A, unit := 0, idx := t } false v = tenErr s.mach mid t 3 := by
    show onTenA s.mach mid t v = _
    unfold onTenA
    dsimp only
    rw [hrej, if_pos rfl]
  obtain ⟨w, hw⟩ : ∃ w, w = packFlds [(55, 48, 3), (42, 34, mid.val), (33, 30, (midInfo s.mach mid).2.getD 0), (29, 20, t.val)] := ⟨_, rfl⟩
  have herr : ∃ r : FltRec, r.die = 0 ∧ tenErr s.mach mid t 3 = raise (recordFirst s.mach .PRT_ERR 0 0 w) r := by
    rw [hw]
    exact ⟨_, forPart_die _ _ _, rfl⟩
  obtain ⟨r, hdie, herr⟩ := herr
  have hlt := t.isLt
  have hrec : rg (recordFirst s.mach .PRT_ERR 0 0 w) .PRT_ERR 0 0 = setBit w 63 true := rg_recordFirst _ _ _ _ _ hclear
  have hfld : fld w 55 48 = 3 ∧ fld w 29 20 = t.val := by
    have hpack : w = setFld (setFld (setFld (setFld 0 55 48 3) 42 34 mid.val) 33 30 ((midInfo s.mach mid).2.getD 0)) 29 20 t.val := hw
    rw [hpack]
    refine ⟨?_, ?_⟩
    · rw [fld_setFld_other _ _ _ _ _ _ (by decide) (by decide), fld_setFld_other _ _ _ _ _ _ (by decide) (by decide),
        fld_setFld_other _ _ _ _ _ _ (by decide) (by decide), fld_setFld_same _ _ _ _ (by decide) (by decide)]
      rfl
    · rw [fld_setFld_same _ _ _ _ (by decide) (by decide)]
      omega
  have herr' : rg { raise (recordFirst s.mach .PRT_ERR 0 0 w) r with cspOut := (0, 0) } .PRT_ERR 0 0 = setBit w 63 true := by
    rw [rg_cspOut, rg_raise_hub _ hdie, hrec]
  rw [herr] at hact
  refine cspEnds_outside (placed_tenA t) rfl rfl hact ⟨units_cspOut ?_ _, ?_, ?_, ?_, ?_⟩
  · rw [units_raise, units_recordFirst]
  · rw [rg_cspOut, rg_raise_hub _ hdie, rg_recordFirst_other (by simp only [RegRef.addr, RegName.info, Blk.base]; omega)]
  · exact (congrArg (bit · 63) herr').trans (bit_setBit_same _ _ _ (by decide))
  · exact (congrArg (fld · 55 48) herr').trans ((fld_setFld_other _ _ _ _ _ _ (by decide) (by decide)).trans hfld.1)
  · exact (congrArg (fld · 29 20) herr').trans ((fld_setFld_other _ _ _ _ _ _ (by decide) (by decide)).trans hfld.2)

/-! ### Rekey (R473) -/

/-- The lines of a partition left and its granules given a new key. -/
def rekeyed (s : Mach) (p : Nat) : Mach :=
  let s := { s with held := s.held.filter (fun x => !lineOwnedBy s p (x.1 % lineSpan)), dir := s.dir.filter (fun x => !lineOwnedBy s p x.1),
                    epochs := s.epochs + 1, granKey := (granulesOf s p).foldl (fun m g => smapPut 0 m g (s.epochs + 1)) s.granKey }
  modBoot s (fun b => { b with keys := smapPut 0 b.keys p (Config.drbgKey b.keyDraws), keyDraws := b.keyDraws + 1 })

theorem rg_rekeyed (s : Mach) (p : Nat) (n : RegName) (u i : Nat) : rg (rekeyed s p) n u i = rg s n u i := rfl
theorem epochs_rekeyed (s : Mach) (p : Nat) : (rekeyed s p).epochs = s.epochs + 1 := rfl
theorem mem_rekeyed (s : Mach) (p : Nat) : (rekeyed s p).mem = s.mem := rfl
theorem held_rekeyed (s : Mach) (p : Nat) : (rekeyed s p).held = s.held.filter (fun x => !lineOwnedBy s p (x.1 % lineSpan)) := rfl

theorem ends_rekey (hidle : rb s.mach .SEC_REKEY 0 0 63 = false) (hstart : bit v 62 = true) (hheld : prstHeld s.mach (fld v 3 0) = true) :
    CspEnds (.rekey mid v) s mid .SEC_REKEY 0 0 v (fun t m => rb m .SEC_REKEY 0 0 63 = true ∧ m.epochs = t.epochs + 1 ∧
      (∀ x ∈ m.held, x ∈ t.held) ∧ m.mem = t.mem ∧
      rf m .SEC_KEYEPOCH 0 (fld v 3 0) 31 0 = sat 32 (rf t .SEC_KEYEPOCH 0 (fld v 3 0) 31 0 + 1)) := by
  have hp : fld v 3 0 < 16 := Nat.mod_lt _ (by decide)
  generalize hpdef : fld v 3 0 = p at hheld hp ⊢
  obtain ⟨t, ht⟩ : ∃ t, t = wb (wf s.mach .SEC_REKEY 0 0 3 0 p) .SEC_REKEY 0 0 63 true := ⟨_, rfl⟩
  have hheld' : prstHeld (wf s.mach .SEC_REKEY 0 0 3 0 p) p = true := by
    unfold prstHeld rb
    rw [rg_wf_apart (by decide)]
    exact hheld
  have hact : regWrite s.mach mid { name := .SEC_REKEY, unit := 0, idx := 0 } false v = bump (rekeyed t p) .SEC_KEYEPOCH 0 p 31 0 1 := by
    show onRekey s.mach v = _
    unfold onRekey
    rw [hpdef]
    dsimp only
    rw [if_neg (by rw [hidle]; decide), if_neg (by rw [hstart]; decide), if_neg (by rw [hheld']; decide), ← ht]
    rfl
  have hkept {β : Type} {g : Mach → β} (hcsr : OffCsr g) : g t = g s.mach := by
    rw [ht]
    exact (hcsr.wb _ _ _ _ _ _).trans (hcsr.wf _ _ _ _ _ _ _)
  have hadr : RegRef.addr ⟨.SEC_KEYEPOCH, 0, p⟩ ≠ RegRef.addr ⟨.SEC_REKEY, 0, 0⟩ := by
    simp only [RegRef.addr, RegName.info, Blk.base]
    omega
  refine cspEnds_outside (placed_of rfl rfl (by decide)) rfl rfl hact ?_
  dsimp only
  rw [rb_cspOut, rf_cspOut]
  refine ⟨?_, ?_, ?_, ?_, ?_⟩
  · refine (congrArg (bit · 63) ((rg_wf_apart hadr.symm _ _ _ _).trans (rg_rekeyed _ _ _ _ _))).trans ?_
    rw [ht]
    exact rb_wb _ .SEC_REKEY 0 0 63 true (by decide)
  · exact (OffCsr.bump (g := Mach.epochs) (fun _ _ => rfl) _ _ _ _ _ _ _).trans
      ((epochs_rekeyed t p).trans (congrArg (· + 1) (hkept (g := Mach.epochs) fun _ _ => rfl)))
  · have hlines : (bump (rekeyed t p) .SEC_KEYEPOCH 0 p 31 0 1).held = t.held.filter (fun x => !lineOwnedBy t p (x.1 % lineSpan)) :=
      (OffCsr.bump (g := Mach.held) (fun _ _ => rfl) _ _ _ _ _ _ _).trans (held_rekeyed t p)
    have hsame : t.held = s.mach.held := hkept (g := Mach.held) fun _ _ => rfl
    intro x hx
    rw [hlines, hsame] at hx
    exact (List.mem_filter.1 hx).1
  · exact (OffCsr.bump (g := Mach.mem) (fun _ _ => rfl) _ _ _ _ _ _ _).trans ((mem_rekeyed t p).trans (hkept (g := Mach.mem) fun _ _ => rfl))
  · rw [rf_bump _ _ _ _ _ _ _ (by decide) (by decide)]
    have hreg : rg (rekeyed t p) .SEC_KEYEPOCH 0 p = rg s.mach .SEC_KEYEPOCH 0 p := by
      rw [rg_rekeyed, ht]
      exact (rg_wf_apart hadr _ _ _ _).trans (rg_wf_apart hadr _ _ _ _)
    exact congrArg (fun w : Word => sat 32 (fld w 31 0 + 1)) hreg

/-! ### Rings (R485, R487, R493, R495) -/

theorem placed_door {n : RegName} (hb : n.info.blk = .door ∨ n.info.blk = .rng) (hp : ∀ u, regPresent n u = true) (hc : 0 < n.info.count)
    (r : RingNo) : RegRef.placed { name := n, unit := r.val, idx := 0 } = true := by
  refine placed_of ?_ (hp _) hc
  rcases hb with h | h
  all_goals
    rw [h]
    exact decide_eq_true r.isLt

theorem cidx_addr_ne_ao (r : RingNo) (d : Nat) : RegRef.addr ⟨.RNG_CIDX, r, 0⟩ ≠ RegRef.addr ⟨.CNT_AO, 0, d⟩ := by
  have := addr_rng_lt r.isLt
  simp only [RegRef.addr, RegName.info, Blk.base] at this ⊢
  omega

theorem pend_cspOut (s : Mach) (x : Nat × Word) (r : Nat) : pend { s with cspOut := x } r = pend s r := rfl
theorem pidx_cspOut (s : Mach) (x : Nat × Word) (r : Nat) : pidx { s with cspOut := x } r = pidx s r := rfl
theorem cidx_cspOut (s : Mach) (x : Nat × Word) (r : Nat) : cidx { s with cspOut := x } r = cidx s r := rfl
theorem ringEpoch_cspOut (s : Mach) (x : Nat × Word) (r : Nat) : ringEpoch { s with cspOut := x } r = ringEpoch s r := rfl
theorem ringOcc_cspOut (s : Mach) (x : Nat × Word) (r : Nat) : ringOcc { s with cspOut := x } r = ringOcc s r := rfl
theorem ringOn_cspOut (s : Mach) (x : Nat × Word) (r : Nat) : ringOn { s with cspOut := x } r = ringOn s r := rfl
theorem ringKind_cspOut (s : Mach) (x : Nat × Word) (r : Nat) : ringKind { s with cspOut := x } r = ringKind s r := rfl

theorem mem_advancePidx (s : Mach) (r n : Nat) : (advancePidx s r n).mem = s.mem := mem_of_units (units_advancePidx s r n)

theorem mem_setPend (s : Mach) (r n k : Nat) : (setPend s r n k).mem = s.mem := by
  unfold setPend
  dsimp only
  exact OffCsr.wf (g := Mach.mem) (fun _ _ => rfl) _ _ _ _ _ _ _

theorem pend_advancePidx {r : Nat} (hr : r < 4096) (s : Mach) (n : Nat) : pend (advancePidx s r n) r = pend s r := by
  unfold advancePidx pend rf
  rw [rg_bumpAo_other (ring_addr_ne_ao hr _)]
  exact rf_wf_other _ _ _ _ _ _ _ _ _ (by decide) (by decide)

theorem ends_rngDbProd {r : RingNo} (hepoch : fld v 63 48 = ringEpoch s.mach r) (hwords : 1 ≤ fld v 6 0) (hsum : pend s.mach r + fld v 6 0 ≤ 64)
    (hend : bit v 16 = true) (hkind : hwProduced (ringKind s.mach r) = false)
    (hroom : ringOcc s.mach r + pend s.mach r + fld v 6 0 ≤ ringSize s.mach r) :
    CspEnds (.rngDbProd mid r false v) s mid .RNG_DB_PROD r 0 v (fun t m => m.mem = t.mem ∧ pend m r = 0 ∧
      pidx m r = (pidx t r + (pend t r + fld v 6 0)) % 2 ^ 32) := by
  obtain ⟨t, ht⟩ : ∃ t, t = bumpAo s.mach 0 2 1 := ⟨_, rfl⟩
  have hidle : ¬ (fld v 6 0 = 0 ∨ 64 < fld v 6 0 ∨ 64 < pend s.mach r + fld v 6 0 ∨ (pend s.mach r + fld v 6 0 = 64 ∧ bit v 16 = false) ∨
      (bit v 16 = false ∧ hwConsumed (ringKind s.mach r) = true) ∨ hwProduced (ringKind s.mach r) = true) := by
    rw [hend, hkind]
    rintro (h | h | h | ⟨-, h⟩ | ⟨h, -⟩ | h)
    · omega
    · omega
    · omega
    · cases h
    · cases h
    · cases h
  have hact : regWrite s.mach mid { name := .RNG_DB_PROD, unit := r, idx := 0 } false v =
      advancePidx (setPend t r 0 mid) r (pend s.mach r + fld v 6 0) := by
    show onDbProd s.mach mid r false v = _
    unfold onDbProd
    dsimp only
    rw [if_neg Bool.false_ne_true, if_neg (not_not_intro hepoch), if_neg hidle, if_neg (by omega), if_pos hend, ← ht]
  refine cspEnds_outside (placed_door (Or.inl rfl) (fun _ => rfl) (by decide) r) rfl rfl hact ?_
  dsimp only
  rw [pend_cspOut (advancePidx _ _ _), pidx_cspOut (advancePidx _ _ _)]
  refine ⟨?_, ?_, ?_⟩
  · exact (mem_advancePidx _ _ _).trans ((mem_setPend _ _ _ _).trans (by rw [ht]; exact mem_of_units (units_bumpAo _ _ _ _)))
  · rw [pend_advancePidx r.isLt, pend_setPend]
  · have hpidx : pidx (setPend t r 0 mid) r = pidx s.mach r := by
      refine (rf_setPend_other (hi := 31) (lo := 0) (Or.inl (by decide)) t 0 mid).trans ?_
      rw [ht]
      exact congrArg (fld · 31 0) (rg_bumpAo_other (ring_addr_ne_ao r.isLt _) _ _)
    rw [pidx_advancePidx r.isLt, hpidx]

theorem ends_rngDbCons {r : RingNo} (hkind : hwConsumed (ringKind s.mach r) = false) (h63 : bit v 63 = false)
    (hin : (fld v 31 0 + 2 ^ 32 - cidx s.mach r) % 2 ^ 32 ≤ ringOcc s.mach r) :
    CspEnds (.rngDbCons mid r v) s mid .RNG_DB_CONS r 0 v (fun t m => m.units = { t with cspOut := (0, 0) }.units ∧ cidx m r = fld v 31 0) := by
  have hact : regWrite s.mach mid { name := .RNG_DB_CONS, unit := r, idx := 0 } false v =
      bumpAo (wf s.mach .RNG_CIDX r 0 31 0 (fld v 31 0)) 0 2 1 := by
    show onDbCons s.mach r v = _
    unfold onDbCons
    dsimp only
    rw [if_neg ?_, h63]
    · rfl
    · rintro (h | h)
      · rw [hkind] at h
        cases h
      · exact Nat.not_lt.2 hin h
  refine cspEnds_outside (placed_door (Or.inl rfl) (fun _ => rfl) (by decide) r) rfl rfl hact ⟨units_cspOut ?_ _, ?_⟩
  · rw [units_bumpAo, units_wf]
  · rw [cidx_cspOut]
    refine (congrArg (fld · 31 0) (rg_bumpAo_other (cidx_addr_ne_ao r _) _ _)).trans ?_
    exact rf_wf_of_lt s.mach .RNG_CIDX r 0 (by decide) (by decide) (Nat.mod_lt _ (by decide))

theorem ends_flush {r : RingNo} (h0 : bit v 0 = true) (h1 : bit v 1 = false) :
    CspEnds (.flush mid r v) s mid .RNG_CTL r 0 v (fun t m => pend m r = 0 ∧ ringEpoch m r = (ringEpoch t r + 1) % 65536 ∧
      cidx m r = cidx t r ∧ pidx m r = pidx t r) := by
  have hact : regWrite s.mach mid { name := .RNG_CTL, unit := r, idx := 0 } false v = flushRing s.mach r := by
    show onRngCtl s.mach r v = _
    unfold onRngCtl
    rw [h0, h1]
    rfl
  have hf := flushed_flushRing s.mach r
  refine cspEnds_outside (placed_door (Or.inr rfl) (fun _ => rfl) (by decide) r) rfl rfl hact ?_
  rw [pend_cspOut, ringEpoch_cspOut, cidx_cspOut, pidx_cspOut]
  exact ⟨hf.pend, hf.epoch, hf.cidx, hf.pidx⟩

theorem ends_discard {r : RingNo} (h0 : bit v 0 = true) (h1 : bit v 1 = true) :
    CspEnds (.discard mid r v) s mid .RNG_CTL r 0 v (fun t m => pend m r = 0 ∧ ringEpoch m r = (ringEpoch t r + 1) % 65536 ∧
      cidx m r = pidx t r ∧ ringOcc m r = 0) := by
  obtain ⟨t, ht⟩ : ∃ t, t = flushRing s.mach r := ⟨_, rfl⟩
  have hf : Flushed s.mach t r := ht ▸ flushed_flushRing s.mach r
  obtain ⟨u, hu⟩ : ∃ u, u = bump t .RNG_STAT r 0 31 16 (ringOcc t r) := ⟨_, rfl⟩
  have hact : regWrite s.mach mid { name := .RNG_CTL, unit := r, idx := 0 } false v = wf u .RNG_CIDX r 0 31 0 (pidx t r) := by
    show onRngCtl s.mach r v = _
    unfold onRngCtl
    rw [h0, h1, ← ht]
    dsimp only
    rw [← hu, if_neg (by decide), if_pos rfl]
  have hstate : rg (wf u .RNG_CIDX r 0 31 0 (pidx t r)) .RNG_STATE r 0 = rg t .RNG_STATE r 0 := by
    rw [rg_wf_apart (addr_ne_of_off .RNG_STATE .RNG_CIDX rfl (by decide) _), hu]
    exact rg_wf_apart (addr_ne_of_off .RNG_STATE .RNG_STAT rfl (by decide) _) _ _ _ _
  have hcidx : cidx (wf u .RNG_CIDX r 0 31 0 (pidx t r)) r = pidx s.mach r :=
    (rf_wf_of_lt u .RNG_CIDX r 0 (by decide) (by decide) (Nat.mod_lt _ (by decide))).trans hf.pidx
  have hpidx : pidx (wf u .RNG_CIDX r 0 31 0 (pidx t r)) r = pidx s.mach r := (congrArg (fld · 31 0) hstate).trans hf.pidx
  refine cspEnds_outside (placed_door (Or.inr rfl) (fun _ => rfl) (by decide) r) rfl rfl hact ?_
  rw [pend_cspOut, ringEpoch_cspOut, cidx_cspOut, ringOcc_cspOut]
  refine ⟨?_, ?_, hcidx, ?_⟩
  · exact (congrArg (fld · 38 32) hstate).trans hf.pend
  · exact (congrArg (fld · 63 48) hstate).trans hf.epoch
  · unfold ringOcc
    rw [hcidx, hpidx, Nat.add_sub_cancel_left, Nat.mod_self]

/-- RNG_CFG of a ring that is being enabled. -/
def ringKept (v : Word) : Word :=
  packFlds [(62, 60, fld v 62 60), (59, 56, fld v 59 56), (55, 55, (bit v 55).toNat), (43, 32, fld v 43 32), (31, 30, fld v 31 30), (15, 0, fld v 15 0)]

theorem kind_ringKept (v : Word) : fld (setBit (ringKept v) 63 true) 62 60 = fld v 62 60 := by
  have hkept : ringKept v = setFld (setFld (setFld (setFld (setFld (setFld 0 62 60 (fld v 62 60)) 59 56 (fld v 59 56)) 55 55 (bit v 55).toNat)
      43 32 (fld v 43 32)) 31 30 (fld v 31 30)) 15 0 (fld v 15 0) := rfl
  have hlt : fld v 62 60 < 8 := Nat.mod_lt _ (by decide)
  rw [hkept, setBit, fld_setFld_other _ _ _ _ _ _ (by decide) (by decide), fld_setFld_other _ _ _ _ _ _ (by decide) (by decide),
    fld_setFld_other _ _ _ _ _ _ (by decide) (by decide), fld_setFld_other _ _ _ _ _ _ (by decide) (by decide),
    fld_setFld_other _ _ _ _ _ _ (by decide) (by decide), fld_setFld_other _ _ _ _ _ _ (by decide) (by decide),
    fld_setFld_same _ _ _ _ (by decide) (by decide)]
  exact Nat.mod_eq_of_lt hlt

/-- A ring enabled: its configuration kept, its next epoch, and its indices at 0. -/
def ringEnabled (s : Mach) (r : Nat) (v : Word) : Mach :=
  let t := wb (wr s .RNG_CFG r 0 (ringKept v)) .RNG_CFG r 0 63 true
  wr (wr t .RNG_STATE r 0 (packFlds [(63, 48, (ringEpoch t r + 1) % 65536)])) .RNG_CIDX r 0 (packFlds [(63, 63, 1)])

theorem state_ringEnabled (s : Mach) (r : Nat) (v : Word) :
    rg (ringEnabled s r v) .RNG_STATE r 0 = setFld 0 63 48 ((ringEpoch s r + 1) % 65536) := by
  have hepoch : ringEpoch (wb (wr s .RNG_CFG r 0 (ringKept v)) .RNG_CFG r 0 63 true) r = ringEpoch s r := by
    have hcfg := addr_ne_of_off .RNG_STATE .RNG_CFG rfl (by decide) r
    exact congrArg (fld · 63 48) ((rg_wf_apart hcfg _ _ _ _).trans (rg_wr_other _ _ _ _ _ _ _ _ hcfg))
  unfold ringEnabled
  dsimp only
  rw [rg_wr_other _ _ _ _ _ _ _ _ (addr_ne_of_off .RNG_STATE .RNG_CIDX rfl (by decide) r), rg_wr, hepoch]
  rfl

theorem cidx_ringEnabled (s : Mach) (r : Nat) (v : Word) : cidx (ringEnabled s r v) r = 0 := by
  have hzero : fld (packFlds [(63, 63, 1)]) 31 0 = 0 := by decide
  unfold ringEnabled
  dsimp only
  exact (congrArg (fld · 31 0) (rg_wr _ _ _ _ _)).trans hzero

theorem cfg_ringEnabled (s : Mach) (r : Nat) (v : Word) : rg (ringEnabled s r v) .RNG_CFG r 0 = setBit (ringKept v) 63 true := by
  unfold ringEnabled
  dsimp only
  rw [rg_wr_other _ _ _ _ _ _ _ _ (addr_ne_of_off .RNG_CFG .RNG_CIDX rfl (by decide) r),
    rg_wr_other _ _ _ _ _ _ _ _ (addr_ne_of_off .RNG_CFG .RNG_STATE rfl (by decide) r)]
  refine (rg_wr _ _ _ _ _).trans ?_
  rw [rg_wr]
  rfl

theorem ringLegal_cfg (r : Nat) (s : Mach) (w v : Word) : ringLegal (wr s .RNG_CFG r 0 w) r v = ringLegal s r v := by
  obtain ⟨t, ht⟩ : ∃ t, t = wr s .RNG_CFG r 0 w := ⟨_, rfl⟩
  have hring : 0x80000 ≤ RegRef.addr ⟨.RNG_CFG, r, 0⟩ := by
    simp only [RegRef.addr, RegName.info, Blk.base]
    omega
  have hpart {n : RegName} {i : Nat} (hlt : RegRef.addr ⟨n, 0, i⟩ < 0x80000) : rg t n 0 i = rg s n 0 i := by
    rw [ht]
    exact rg_wr_other _ _ _ _ _ _ _ _ (by omega)
  have hpid : ringPid t r = ringPid s r := by
    unfold ringPid
    refine List.find?_congr fun p hp => ?_
    have hp16 := List.mem_range.1 hp
    unfold partValid rb rf
    rw [hpart (by simp only [RegRef.addr, RegName.info, Blk.base]; omega), hpart (by simp only [RegRef.addr, RegName.info, Blk.base]; omega)]
  have hbase : rf t .RNG_BASE r 0 47 10 = rf s .RNG_BASE r 0 47 10 := by
    rw [ht]
    exact congrArg (fld · 47 10) (rg_wr_other _ _ _ _ _ _ _ _ (addr_ne_of_off .RNG_BASE .RNG_CFG rfl (by decide) r))
  rw [← ht]
  unfold ringLegal
  rw [hpid, hbase]

theorem onRngCfg_enable {s : Mach} {r : Nat} {v : Word} (hoff : ringOn s r = false) (h63 : bit v 63 = true)
    (hlegal : ringLegal (wr s .RNG_CFG r 0 (ringKept v)) r v = true) : ∃ x : SMap Nat, onRngCfg s r v = { ringEnabled s r v with ringBy := x } := by
  have hkept : packFlds [(62, 60, fld v 62 60), (59, 56, fld v 59 56), (55, 55, (bit v 55).toNat), (43, 32, fld v 43 32), (31, 30, fld v 31 30),
      (15, 0, fld v 15 0)] = ringKept v := rfl
  unfold onRngCfg
  dsimp only
  rw [hoff, if_neg Bool.false_ne_true, if_neg (by rw [h63]; decide), hkept, hlegal, if_neg (by decide)]
  exact ⟨_, rfl⟩

theorem rg_ringBy (s : Mach) (x : SMap Nat) (n : RegName) (u i : Nat) : rg { s with ringBy := x } n u i = rg s n u i := rfl

theorem ends_rngCfgWrite {r : RingNo} (hoff : ringOn s.mach r = false) (h63 : bit v 63 = true) (hlegal : ringLegal s.mach r v = true) :
    CspEnds (.rngCfgWrite mid r v) s mid .RNG_CFG r 0 v (fun t m => ringOn m r = true ∧ ringKind m r = fld v 62 60 ∧
      pidx m r = 0 ∧ cidx m r = 0 ∧ ringEpoch m r = (ringEpoch t r + 1) % 65536) := by
  obtain ⟨x, hx⟩ := onRngCfg_enable hoff h63 ((ringLegal_cfg r s.mach (ringKept v) v).trans hlegal)
  have hact : ∃ m : Mach, (∀ n u i, rg m n u i = rg (ringEnabled s.mach r v) n u i) ∧
      regWrite s.mach mid { name := .RNG_CFG, unit := r, idx := 0 } false v = m := ⟨_, rg_ringBy (ringEnabled s.mach r v) x, hx⟩
  obtain ⟨m, hm, hact⟩ := hact
  have hstate := (hm .RNG_STATE r 0).trans (state_ringEnabled s.mach r v)
  have hcfg := (hm .RNG_CFG r 0).trans (cfg_ringEnabled s.mach r v)
  refine cspEnds_outside (placed_door (Or.inr rfl) (fun _ => rfl) (by decide) r) rfl rfl hact ?_
  rw [ringOn_cspOut m, ringKind_cspOut m, pidx_cspOut m, cidx_cspOut m, ringEpoch_cspOut m]
  refine ⟨?_, ?_, ?_, ?_, ?_⟩
  · exact (congrArg (bit · 63) hcfg).trans (bit_setBit_same _ _ _ (by decide))
  · exact (congrArg (fld · 62 60) hcfg).trans (kind_ringKept v)
  · exact (congrArg (fld · 31 0) hstate).trans ((fld_setFld_other _ _ _ _ _ _ (by decide) (by decide)).trans rfl)
  · exact (congrArg (fld · 31 0) (hm .RNG_CIDX r 0)).trans (cidx_ringEnabled s.mach r v)
  · refine (congrArg (fld · 63 48) hstate).trans ((fld_setFld_same _ _ _ _ (by decide) (by decide)).trans ?_)
    exact Nat.mod_mod _ _

/-! ### Power, the log, snapshots and keys (R505, R512, R541, R571, R606) -/

theorem ends_pplWWrite (hlow : rf s.mach .PWR_PPL 0 0 35 24 ≤ fld v 11 0) (hhigh : fld v 11 0 ≤ rf s.mach .PWR_PPL 0 0 47 36) :
    CspEnds (.pplWWrite mid v) s mid .PWR_PPL 0 0 v (fun t m => m.units = { t with cspOut := (0, 0) }.units ∧ rf m .PWR_PPL 0 0 11 0 = fld v 11 0) := by
  obtain ⟨t, ht⟩ : ∃ t, t = wf s.mach .PWR_PPL 0 0 11 0 (fld v 11 0) := ⟨_, rfl⟩
  have hact : regWrite s.mach mid { name := .PWR_PPL, unit := 0, idx := 0 } false v = refreshEff t := by
    show onPpl s.mach v = _
    rw [ht]
    exact if_pos ⟨hlow, hhigh⟩
  refine cspEnds_outside (placed_of rfl rfl (by decide)) rfl rfl hact ⟨units_cspOut ?_ _, ?_⟩
  · unfold refreshEff
    dsimp only
    rw [units_wf, units_wf, units_wf, ht, units_wf]
  · rw [rf_cspOut]
    unfold refreshEff
    dsimp only
    refine (rf_wf_other _ .PWR_PPL 0 0 _ _ _ _ _ (by decide) (by decide)).trans ?_
    refine (congrArg (fld · 11 0) ((rg_wf_apart (by decide) _ _ _ _).trans (rg_wf_apart (by decide) _ _ _ _))).trans ?_
    rw [ht]
    exact rf_wf_of_lt s.mach .PWR_PPL 0 0 (by decide) (by decide) (Nat.mod_lt _ (by decide))

/-- A field of a register that a conditional write of a lower one leaves. -/
theorem rf_wfIf_below (s : Mach) (n : RegName) (u i : Nat) {hi lo hi' lo' : Nat} (v : Word) (ok : Nat → Bool) (h : lo ≤ hi + 1)
    (hd : hi' < lo ∨ hi < lo') : rf (wfIf s n u i hi lo v ok) n u i hi' lo' = rf s n u i hi' lo' := by
  unfold wfIf
  split
  · exact rf_wf_other _ _ _ _ _ _ _ _ _ h hd
  · rfl

theorem units_wfIf (s : Mach) (n : RegName) (u i hi lo : Nat) (v : Word) (ok : Nat → Bool) : (wfIf s n u i hi lo v ok).units = s.units := by
  unfold wfIf
  rw [apply_ite Mach.units, units_wf, ite_self]

theorem ends_ageWrite : CspEnds (.ageWrite mid v) s mid .PWR_CFG 0 0 v (fun t m =>
    m.units = { t with cspOut := (0, 0) }.units ∧ rf m .PWR_CFG 0 0 63 56 = fld v 63 56 ∧
    rf m .PWR_CFG 0 0 35 32 = max (rf t .PWR_CFG 0 0 35 32) (fld v 35 32)) := by
  obtain ⟨t, ht⟩ : ∃ t, t = wf (wf s.mach .PWR_CFG 0 0 63 56 (fld v 63 56)) .PWR_CFG 0 0 12 0 (fld v 12 0) := ⟨_, rfl⟩
  obtain ⟨u, hu⟩ : ∃ u, u = wfIf (wfIf (wfIf t .PWR_CFG 0 0 55 48 v (fun x => decide (70 ≤ x) && decide (x ≤ 105))) .PWR_CFG 0 0 47 40 v
      (fun x => decide (70 ≤ x) && decide (x ≤ 105))) .PWR_CFG 0 0 39 36 v (fun x => decide (1 ≤ x)) := ⟨_, rfl⟩
  have hact : regWrite s.mach mid { name := .PWR_CFG, unit := 0, idx := 0 } false v =
      wfIf u .PWR_CFG 0 0 35 32 v (fun x => decide (rf u .PWR_CFG 0 0 35 32 ≤ x)) := by
    rw [hu, ht]
    rfl
  have hhold : rf u .PWR_CFG 0 0 63 56 = fld v 63 56 := by
    rw [hu, rf_wfIf_below _ _ _ _ _ _ (by decide) (by decide), rf_wfIf_below _ _ _ _ _ _ (by decide) (by decide),
      rf_wfIf_below _ _ _ _ _ _ (by decide) (by decide), ht]
    refine (rf_wf_other _ .PWR_CFG 0 0 _ _ _ _ _ (by decide) (by decide)).trans ?_
    exact rf_wf_of_lt s.mach .PWR_CFG 0 0 (by decide) (by decide) (Nat.mod_lt _ (by decide))
  have hage : rf u .PWR_CFG 0 0 35 32 = rf s.mach .PWR_CFG 0 0 35 32 := by
    rw [hu, rf_wfIf_below _ _ _ _ _ _ (by decide) (by decide), rf_wfIf_below _ _ _ _ _ _ (by decide) (by decide),
      rf_wfIf_below _ _ _ _ _ _ (by decide) (by decide), ht]
    exact (rf_wf_other _ .PWR_CFG 0 0 _ _ _ _ _ (by decide) (by decide)).trans (rf_wf_other _ .PWR_CFG 0 0 _ _ _ _ _ (by decide) (by decide))
  refine cspEnds_outside (placed_of rfl rfl (by decide)) rfl rfl hact ⟨units_cspOut ?_ _, ?_, ?_⟩
  · rw [units_wfIf, hu, units_wfIf, units_wfIf, units_wfIf, ht, units_wf, units_wf]
  · rw [rf_cspOut, rf_wfIf_below _ _ _ _ _ _ (by decide) (by decide), hhold]
  · rw [rf_cspOut, ← hage]
    unfold wfIf
    dsimp only
    by_cases hle : rf u .PWR_CFG 0 0 35 32 ≤ fld v 35 32
    · rw [if_pos (decide_eq_true hle), Nat.max_eq_right hle]
      exact rf_wf_of_lt u .PWR_CFG 0 0 (by decide) (by decide) (Nat.mod_lt _ (by decide))
    · rw [if_neg (by simpa using hle), Nat.max_eq_left (Nat.le_of_not_le hle)]

theorem ends_fltLogctlTailWrite (hin : (fld v 8 0 + 512 - rf s.mach .FLT_LOGCTL 0 0 8 0) % 512 ≤
      (rf s.mach .FLT_LOGCTL 0 0 24 16 + 512 - rf s.mach .FLT_LOGCTL 0 0 8 0) % 512) :
    CspEnds (.fltLogctlTailWrite mid v) s mid .FLT_LOGCTL 0 0 v (fun t m => m.units = { t with cspOut := (0, 0) }.units ∧
      rf m .FLT_LOGCTL 0 0 8 0 = fld v 8 0 ∧ rf m .FLT_LOGCTL 0 0 24 16 = rf t .FLT_LOGCTL 0 0 24 16) := by
  have hact : regWrite s.mach mid { name := .FLT_LOGCTL, unit := 0, idx := 0 } false v = wf s.mach .FLT_LOGCTL 0 0 8 0 (fld v 8 0) := by
    show onLogctl s.mach v = _
    exact if_neg (Nat.not_lt.2 hin)
  refine cspEnds_outside (placed_of rfl rfl (by decide)) rfl rfl hact ⟨units_cspOut (units_wf _ _ _ _ _ _ _) _, ?_, ?_⟩
  · rw [rf_cspOut]
    exact rf_wf_of_lt s.mach .FLT_LOGCTL 0 0 (by decide) (by decide) (Nat.mod_lt _ (by decide))
  · rw [rf_cspOut]
    exact rf_wf_other _ .FLT_LOGCTL 0 0 _ _ _ _ _ (by decide) (by decide)

theorem ends_snapshotArm (harm : bit v 62 = true) (hidle : rb s.mach .CNT_SNAPCTL 0 0 63 = false) :
    CspEnds (.snapshotArm mid v) s mid .CNT_SNAPCTL 0 0 v (fun t m => rb m .CNT_SNAPCTL 0 0 63 = true ∧
      m.dbg.snapAt = some (rg t .CNT_SNAPAT 0 0).toNat ∧ m.bays = t.bays) := by
  obtain ⟨w, hw⟩ : ∃ w : Word, w = packFlds [(63, 63, 1), (31, 0, rf s.mach .CNT_SNAPCTL 0 0 31 0 + 1)] := ⟨_, rfl⟩
  obtain ⟨t, ht⟩ : ∃ t, t = wr s.mach .CNT_SNAPCTL 0 0 w := ⟨_, rfl⟩
  have hbit : bit w 63 = true := by
    rw [hw]
    show bit (setFld (setFld 0 63 63 1) 31 0 (rf s.mach .CNT_SNAPCTL 0 0 31 0 + 1)) 63 = true
    rw [bit_setFld_other _ _ _ _ _ (by decide) (by decide)]
    exact bit_setBit_same 0 63 true (by decide)
  have hact : ∃ l, regWrite s.mach mid { name := .CNT_SNAPCTL, unit := 0, idx := 0 } false v =
      modDbg t (fun d => { d with snapAt := some (rg t .CNT_SNAPAT 0 0).toNat, snapLeft := l }) := by
    refine ⟨allBays.filter (bayPresent t) ++ dieIds.map (72 + ·), ?_⟩
    show onSnapctl s.mach v = _
    rw [ht, hw]
    refine if_neg ?_
    rintro (h | h)
    · exact absurd (harm.symm.trans h) (by decide)
    · exact absurd (hidle.symm.trans h) (by decide)
  obtain ⟨l, hact⟩ := hact
  have hat : rg t .CNT_SNAPAT 0 0 = rg s.mach .CNT_SNAPAT 0 0 := by
    rw [ht]
    exact rg_wr_other _ _ _ _ _ _ _ _ (by decide)
  have hctl : rg t .CNT_SNAPCTL 0 0 = w := by
    rw [ht]
    exact rg_wr _ _ _ _ _
  have hbays : t.bays = s.mach.bays := by
    rw [ht]
    exact OffCsr.wr (g := Mach.bays) (fun _ _ => rfl) _ _ _ _ _
  rw [hat] at hact
  refine cspEnds_outside (placed_of rfl rfl (by decide)) rfl rfl hact ⟨?_, rfl, hbays⟩
  exact (congrArg (bit · 63) hctl).trans hbit

theorem ends_ideKeyWrite {q : Fin 4} {i : Fin 32} (hclear : rb s.mach .PCI_IDECTL q (i.val / 8) 8 = false) :
    CspEnds (.ideKeyWrite mid q i v) s mid .PCI_IDEKEY q i v (fun t m => m.csr = t.csr ∧
      smapGet 0 m.ideKeys (2048 * q.val + i.val) = v ∧
      ∀ j, j ≠ 2048 * q.val + i.val → smapGet 0 m.ideKeys j = smapGet 0 t.ideKeys j) := by
  have hact : regWrite s.mach mid { name := .PCI_IDEKEY, unit := q, idx := i } false v =
      { s.mach with ideKeys := smapPut 0 s.mach.ideKeys (2048 * q.val + i.val) v } := by
    show onIdeKey s.mach q i v = _
    unfold onIdeKey
    rw [hclear, if_neg Bool.false_ne_true]
  have hplace : RegRef.placed { name := .PCI_IDEKEY, unit := q.val, idx := i.val } = true := placed_of (decide_eq_true q.isLt) rfl (i.isLt.trans_le (by decide))
  exact cspEnds_outside hplace rfl rfl hact ⟨rfl, smapGet_smapPut_same _ _ _ _, fun j hj => smapGet_smapPut_other _ _ _ _ _ _ hj⟩

end

/-- Settles O34. -/
theorem packageRegisterWrites : Obligations.PackageRegisterWrites :=
  ⟨fun _ _ _ _ _ => ends_sharedRegionWrite_invalid, fun _ _ _ _ _ _ => ends_sharedRegionWrite_valid, fun _ _ _ _ _ => ends_cohLlcwayDisWrite,
    fun _ _ _ _ => ends_vkCtl_retrain, fun _ _ _ _ => ends_vkCtl_start, fun _ _ _ _ => ends_vkCtl_stop, fun _ _ _ _ => ends_tenantCommit,
    fun _ _ _ _ => ends_tenantCommit_rejected, fun _ _ _ => ends_rekey, fun _ _ _ _ => ends_rngDbProd, fun _ _ _ _ => ends_rngDbCons,
    fun _ _ _ _ => ends_flush, fun _ _ _ _ => ends_discard, fun _ _ _ _ => ends_rngCfgWrite, fun _ _ _ => ends_pplWWrite,
    fun _ _ _ => ends_ageWrite, fun _ _ _ => ends_fltLogctlTailWrite, fun _ _ _ => ends_snapshotArm, fun _ _ _ _ _ => ends_ideKeyWrite⟩

end Sys2Proof.Machine
end

section
/-! What is due at a bay lands without touching the registers of the hub: results of the vector engine, drains of the matrix array,
loft reads of movers and counted edges. -/

namespace Sys2Proof.Machine

/-- A register of a bay lies above the hub. -/
theorem addr_bay_ge {m : RegName} {u : Nat} (h : (blkBay m.info.blk u).isSome = true) (i : Nat) : 0x800000 ≤ RegRef.addr ⟨m, u, i⟩ := by
  have hdie (k : Nat) : 0x800000 ≤ dieBase (compDieId k) := by
    unfold dieBase compDieId
    split <;> omega
  have hbase : 0x800000 ≤ m.info.blk.base u := by
    generalize m.info.blk = k at h ⊢
    have h12 := hdie (u / 12)
    have h48 := hdie (u / 4 / 12)
    unfold Blk.base
    dsimp only
    cases k <;> simp only [blkBay, Option.isSome_none, Bool.false_eq_true] at h <;> dsimp only <;> omega
  unfold RegRef.addr
  dsimp only
  omega

theorem bayRec_lt (s : Mach) (b : Fin 72) (cls sub blk addr : Nat) (tid : Option Nat) : (bayRec s b cls sub blk addr tid).die < 32 := by
  have hd : compDieId (dieOf b) < 32 := compDieId_lt b
  unfold bayRec
  dsimp only
  split
  · rw [forPart_die]
    exact hd
  · exact hd

namespace HubReg
variable {n : RegName} {u i : Nat} (h : HubReg n u i)
include h

theorem bayWr {m : RegName} {b : Nat} (hm : (blkBay m.info.blk b).isSome = true) (s : Mach) (j : Nat) (v : Word) :
    rg (wr s m b j v) n u i = rg s n u i := by
  have := addr_bay_ge hm j
  have := h.hub
  exact rg_wr_other _ _ _ _ _ _ _ _ (by omega)

theorem bayWf {m : RegName} {b : Nat} (hm : (blkBay m.info.blk b).isSome = true) (s : Mach) (j hi lo v : Nat) :
    rg (wf s m b j hi lo v) n u i = rg s n u i := h.bayWr hm s j _

theorem bayBump {m : RegName} {b : Nat} (hm : (blkBay m.info.blk b).isSome = true) (s : Mach) (j hi lo k : Nat) :
    rg (bump s m b j hi lo k) n u i = rg s n u i := h.bayWr hm s j _

theorem bayRecordFirst {m : RegName} {b : Nat} (hm : (blkBay m.info.blk b).isSome = true) (s : Mach) (v : Word) :
    rg (recordFirst s m b 0 v) n u i = rg s n u i := by
  unfold recordFirst
  exact iteInduction (motive := fun x : Mach => rg x n u i = rg s n u i) (fun _ => rfl) fun _ => h.bayWr hm s 0 _

theorem raiseBay (s : Mach) (b : Nat) {r : FltRec} (hr : r.die < 32) : rg (raiseBay s b r) n u i = rg s n u i := by
  unfold Machine.raiseBay
  dsimp only
  rw [rg_raise_of_uncounted h.quiet _ hr, rg_of_csr (csr_fireIf _ _ _ _)]
  have htrace (t : Mach) (e k c v d : Nat) : rg (emitTraceIf t b e k c v d) n u i = rg t n u i := by
    unfold emitTraceIf
    exact iteInduction (motive := fun x : Mach => rg x n u i = rg t n u i) (fun _ => rg_of_csr (csr_emitTrace _ _ _ _ _ _) _ _ _) fun _ => rfl
  rw [htrace, h.bayBump rfl, foldS_keeps (rg · n u i) _ _ _ fun t k => h.bayWr rfl t k _]

omit h in
theorem modBay (s : Mach) (b : Nat) (f : Bay → Bay) : rg (modBay s b f) n u i = rg s n u i := rfl

variable (b : Fin 72)

theorem countLoftRead (s : Mach) (k : Nat) : rg (countLoftRead s b k) n u i = rg s n u i := by
  unfold Machine.countLoftRead
  rw [rg_bumpAo_of_uncounted h.quiet (compDieId_lt b) (by decide), rg_countEv_of_uncounted h.quiet]

theorem countLoftWrite (s : Mach) (k : Nat) : rg (countLoftWrite s b k) n u i = rg s n u i := by
  unfold Machine.countLoftWrite
  rw [rg_bumpAo_of_uncounted h.quiet (compDieId_lt b) (by decide), rg_countEv_of_uncounted h.quiet]

/-! ### Loft reads of movers -/

omit h in
theorem modMove (s : Mach) (id : Nat) (f : Move → Move) : rg (modMove s b id f) n u i = rg s n u i := modBay s b _

theorem movErr (s : Mach) (m : Move) (code : Nat) : rg (movErr s b m code) n u i = rg s n u i := by
  unfold Machine.movErr
  dsimp only
  rw [h.raiseBay _ _ (bayRec_lt _ b _ _ _ _ _), modMove]
  have hdesc (t : Mach) (c : Prop) [Decidable c] (v : Word) : rg (if c then wr t .MOV_ERRDESC b 0 v else t) n u i = rg t n u i :=
    iteInduction (motive := fun x : Mach => rg x n u i = rg t n u i) (fun _ => h.bayWr rfl t 0 v) fun _ => rfl
  rw [hdesc, h.bayRecordFirst rfl]

theorem cutMove (s : Mach) (m : Move) : rg (cutMove s b m) n u i = rg s n u i := by
  unfold Machine.cutMove
  dsimp only
  refine iteInduction (motive := fun x : Mach => rg x n u i = rg s n u i) (fun _ => rfl) fun _ => ?_
  rw [h.movErr, modMove, h.bayBump rfl]

theorem lftErr_unraised (s : Mach) (code off tid : Nat) : rg (lftErr s b code off tid false) n u i = rg s n u i := by
  unfold lftErr
  dsimp only
  rw [if_neg Bool.false_ne_true]
  exact iteInduction (motive := fun x : Mach => rg x n u i = rg s n u i) (fun _ => (h.bayBump rfl _ _ _ _ _).trans (h.bayRecordFirst rfl s _))
    fun _ => h.bayRecordFirst rfl s _

theorem readLoftBeat (s : Mach) (m : Move) (blk : Nat) : rg (readLoftBeat s b m blk) n u i = rg s n u i := by
  have hread (k : Nat) (f : Move → Move) : rg (Machine.modMove (countEv (Machine.countLoftRead s b k) b 0x0A k) b m.id f) n u i = rg s n u i := by
    rw [modMove, rg_countEv_of_uncounted h.quiet, h.countLoftRead]
  unfold Machine.readLoftBeat
  dsimp only
  refine iteInduction (motive := fun x : Mach => rg x n u i = rg s n u i) (fun _ => rfl) fun _ => ?_
  split
  · exact hread _ _
  · refine iteInduction (motive := fun x : Mach => rg x n u i = rg s n u i) (fun _ => (h.cutMove _ _ _).trans (hread _ _)) fun _ => ?_
    exact (h.movErr _ _ _ _).trans ((h.lftErr_unraised _ _ _ _ _).trans (hread _ _))

theorem catchUp (s : Mach) : rg (catchUp s b) n u i = rg s n u i := by
  unfold Machine.catchUp
  dsimp only
  refine foldS_keeps (rg · n u i) _ _ _ fun t m => ?_
  split
  · refine foldS_keeps (rg · n u i) _ _ _ fun w blk => ?_
    split
    · exact h.readLoftBeat b w _ _
    · rfl
  · rfl

/-! ### Tokens and loft writes -/

theorem sendToken (s : Mach) (e k : Nat) (p : Bool) (a : Nat) : rg (sendToken s b e k p a) n u i = rg s n u i := by
  unfold Machine.sendToken
  split
  · rfl
  split
  · split
    · unfold tokErr
      dsimp only
      rw [h.raiseBay _ _ (bayRec_lt _ b _ _ _ _ _), h.bayRecordFirst rfl]
    · rfl
  · unfold sendExpress
    split
    · unfold unroutable vkRecord
      dsimp only
      rw [rg_raise_hub _ (by rfl)]
      rfl
    · rfl

theorem loftPut (s : Mach) (off : Nat) (bs : List Byte) (mask pois : Nat) : rg (loftPut s b off bs mask pois) n u i = rg s n u i := by
  have hcatch (c : Prop) [Decidable c] : rg (if c then s else Machine.catchUp s b) n u i = rg s n u i :=
    iteInduction (motive := fun x : Mach => rg x n u i = rg s n u i) (fun _ => rfl) fun _ => h.catchUp b s
  have hloft (t : Mach) (x : SMap Byte) : rg { t with loft := x } n u i = rg t n u i := rfl
  unfold Machine.loftPut
  dsimp only
  refine (foldS_keeps (rg · n u i) _ _ _ fun t x => ?_).trans ((hloft _ _).trans (hcatch _))
  exact iteInduction (motive := fun x : Mach => rg x n u i = rg t n u i) (fun _ => rfl) fun _ => rfl

theorem loftWrite (s : Mach) (off : Nat) (bs : List Byte) (p : Bool) : rg (loftWrite s b off bs p) n u i = rg s n u i := h.loftPut b s _ _ _ _

/-! ### Drains of the matrix array -/

theorem drainPut (s : Mach) (ws : List (Nat × List Byte × Bool)) (k : Nat) : rg (drainPut s b ws k) n u i = rg s n u i := by
  unfold Machine.drainPut
  exact (foldS_keeps (rg · n u i) _ _ _ fun t (w : Nat × List Byte × Bool) => h.loftWrite b t w.1 w.2.1 w.2.2).trans (h.countLoftWrite b s _)

theorem finishDrain (s : Mach) (d : Drain) : rg (finishDrain s b d) n u i = rg s n u i := by
  have hput (t : Mach) (w : Word) (ws : List (Nat × List Byte × Bool)) (k : Nat) (f : Mxa → Mxa) :
      rg (modMxa (bump (wr (Machine.drainPut t b ws k) .MXA_LASTFLAGS b 0 w) .MXA_PASSES b 0 63 0 1) b f) n u i = rg t n u i :=
    (modBay _ b _).trans ((h.bayBump rfl _ _ _ _ _).trans ((h.bayWr rfl _ _ _).trans (h.drainPut b t ws k)))
  have hadv : rg (advanceEdge s b d.fin) n u i = rg s n u i := rfl
  unfold Machine.finishDrain
  dsimp only
  generalize (getSeq _ b).tid = o
  cases o with
  | none =>
    split
    · exact (hput _ _ _ _ _).trans hadv
    · split
      · exact (h.sendToken b _ _ _ _ _).trans ((hput _ _ _ _ _).trans hadv)
      · exact (hput _ _ _ _ _).trans hadv
      · exact (modBay _ b _).trans ((hput _ _ _ _ _).trans hadv)
  | some o =>
    have hflags (t : Mach) (w : Word) (ws : List (Nat × List Byte × Bool)) (k : Nat) (f : Mxa → Mxa) (x : Nat) :
        rg (orTflags (modMxa (bump (wr (Machine.drainPut t b ws k) .MXA_LASTFLAGS b 0 w) .MXA_PASSES b 0 63 0 1) b f) b o x) n u i = rg t n u i :=
      (modBay _ b _).trans (hput t w ws k f)
    dsimp only
    split
    · exact (hflags _ _ _ _ _ _).trans hadv
    · split
      · exact (h.sendToken b _ _ _ _ _).trans ((hflags _ _ _ _ _ _).trans hadv)
      · exact (hflags _ _ _ _ _ _).trans hadv
      · exact (modBay _ b _).trans ((hflags _ _ _ _ _ _).trans hadv)

theorem flushDrains (s : Mach) (e : Nat) : rg (flushDrains s b e) n u i = rg s n u i :=
  foldS_keeps (rg · n u i) _ _ _ fun t d => h.finishDrain b t d

/-! ### Results of the vector engine -/

theorem vRaise (s : Mach) (w l f : Nat) : rg (vRaise s b w l f) n u i = rg s n u i := by
  unfold Machine.vRaise
  split
  · rfl
  · dsimp only
    split
    · exact (modBay _ b _).trans ((h.bayWf rfl _ _ _ _ _).trans (modBay _ b _))
    · exact (h.bayWf rfl _ _ _ _ _).trans (modBay _ b _)

theorem vApply (w : Nat) (s : Mach) (e : VEff) : rg (vApply b w s e) n u i = rg s n u i := by
  unfold Machine.vApply
  cases e with
  | lane => exact modBay s b _
  | mask => exact modBay s b _
  | scalar => exact modBay s b _
  | token => exact modBay s b _
  | ptr => exact modBay s b _
  | acSet => exact modBay s b _
  | clearFlags => exact modBay s b _
  | acAdd a l c p => exact (h.vRaise b _ _ _ _).trans (modBay s b _)
  | loft o bs m p => exact (h.loftPut b _ _ _ _ _).trans (h.countLoftWrite b s _)
  | flags l f => exact h.vRaise b s w l f

theorem applyWrite (s : Mach) (w : VWrite) : rg (applyWrite s b w) n u i = rg s n u i := by
  have hput (t : Mach) : rg (foldS w.effs (Machine.vApply b w.word) t) n u i = rg t n u i :=
    foldS_keeps (rg · n u i) _ _ _ fun t e => h.vApply b _ t e
  have hstart (k : Nat) (f : Vxe → Vxe) : rg (bump (modVxe s b f) .VXE_COUNT b 0 31 0 k) n u i = rg s n u i :=
    (h.bayBump rfl _ _ _ _ _).trans (modBay s b _)
  have hcount (t : Mach) : rg (bump t .VXE_OPS b 0 63 0 1) n u i = rg t n u i := h.bayBump rfl _ _ _ _ _
  unfold Machine.applyWrite
  dsimp only
  split
  · split
    · exact (h.sendToken b _ _ _ _ _).trans ((hcount _).trans ((hput _).trans (hstart _ _)))
    · exact (hcount _).trans ((hput _).trans (hstart _ _))
  · exact (hput _).trans (hstart _ _)

theorem vFlushN (k : Nat) (s : Mach) (t : Nat) : rg (vFlushN s b t k) n u i = rg s n u i := by
  induction k generalizing s with
  | zero => rfl
  | succ k ih =>
    unfold Machine.vFlushN
    split
    · split
      · rw [ih, h.applyWrite]
      · rfl
    · rfl

theorem syncCnt (s : Mach) : rg (syncCnt s b) n u i = rg s n u i := by
  unfold Machine.syncCnt
  dsimp only
  rw [modBay, rg_countEv_of_uncounted h.quiet, rg_countEv_of_uncounted h.quiet]

theorem settleBay (s : Mach) : rg (settleBay s b) n u i = rg s n u i := by
  unfold Machine.settleBay vFlush
  dsimp only
  rw [h.syncCnt, h.catchUp, h.flushDrains, h.vFlushN]

end HubReg

/-! ### What lands leaves of the package -/

theorem Outer.settleBay {β : Type} {g : Mach → β} (h : Outer g) (s : Mach) (b : Nat) : g (settleBay s b) = g s := by
  unfold Machine.settleBay vFlush
  dsimp only
  rw [h.of_units (units_syncCnt _ b), h.catchUp, h.flushDrains, h.vFlushN]

theorem sameParts_settleBay (s : Mach) (b : Fin 72) : SameParts (settleBay s b) s := sameParts_of_hub fun h => h.settleBay b s

theorem fuses_of_units {s t : Mach} (h : s.units = t.units) : s.fuses = t.fuses := by
  have e := congrArg Mach.fuses h
  exact e

theorem outer_fuses : Outer Mach.fuses :=
  ⟨⟨fuses_of_units, fun _ _ _ => rfl, fun _ _ => rfl, fun _ _ => rfl⟩, fun _ _ => rfl, fun _ _ => rfl, fun _ _ _ => rfl, fun _ _ => rfl⟩

theorem bayPid_settleBay (s : Mach) (b : Fin 72) (c : Nat) : bayPid (settleBay s b) c = bayPid s c := bayPid_of_parts (sameParts_settleBay s b) c

theorem isLead_settleBay (s : Mach) (b : Fin 72) (c : Nat) : isLead (settleBay s b) c = isLead s c := by
  unfold isLead leadBay
  rw [bayPid_settleBay]
  split
  · rw [partBays_of_parts (sameParts_settleBay s b) (outer_fuses.settleBay s b)]
  · rfl

end Sys2Proof.Machine
end

section
/-! Writes of a bay's registers: the rota, tokens, semaphores and the loft (R83, R99, R131, R249, R258, R260, R266, R273). -/

namespace Sys2Proof.Machine

/-- A rota about to start at a frame. -/
def Rota.starting (f : Nat) : Rota := { Rota.zero with enabled := true, startFrame := f, endFrame := f, entryEnd := f }

section
variable {s : State} {mid : Mid} {b : BayNo} {v : Word}

/-- A write of a bay's register works on the package in which all that is due at the bay has landed. -/
theorem cspEnds_bay {c : Instr} {n : RegName} {i : Nat} {P : Mach → Mach → Prop} {m : Mach} (hb : blkBay n.info.blk b = some b.val)
    (hu : n.info.blk.hasUnit b = true) (hp : regPresent n b = true) (hi : i < n.info.count)
    (hc : exec c s = onMach s (fun s => writeReg s mid n b i v))
    (hm : regWrite (settleBay s.mach b) mid { name := n, unit := b, idx := i } false v = m)
    (hP : P (settleBay s.mach b) { m with cspOut := (0, 0) }) : CspEnds c s mid n b i v P := by
  have hsettle : settleBlk s.mach n.info.blk b = settleBay s.mach b := by
    unfold settleBlk
    rw [hb]
  refine cspEnds_of_write (placed_of hu hp hi) hc ?_
  rw [hsettle, hm]
  exact hP

theorem hasUnit_bay (b : BayNo) : decide (b.val < 72) = true := decide_eq_true b.isLt

/-! ### The rota (R89, R98, R99) -/

section
variable {p : Fin 16} (hpid : bayPid s.mach b = some p.val) (hlead : isLead s.mach b = true)
include hpid hlead

omit hpid hlead in
theorem rota_wf (t : Mach) (n : RegName) (u i hi lo x q : Nat) : getRota (wf t n u i hi lo x) q = getRota t q :=
  congrArg (vget Rota.zero · q) (rota_of_units (units_wf t n u i hi lo x))

omit hpid hlead in
theorem rota_wb (t : Mach) (n : RegName) (u i k : Nat) (x : Bool) (q : Nat) : getRota (wb t n u i k x) q = getRota t q := rota_wf t n u i k k _ q

omit hpid hlead in
theorem bays_modRota (t : Mach) (q : Nat) (f : Rota → Rota) : (modRota t q f).bays = t.bays := rfl

omit hpid hlead in
theorem bays_wf (t : Mach) (n : RegName) (u i hi lo x : Nat) : (wf t n u i hi lo x).bays = t.bays :=
  OffCsr.wf (g := Mach.bays) (fun _ _ => rfl) _ _ _ _ _ _ _

theorem onRotaCtl_lead : onRotaCtl (settleBay s.mach b) b v =
    let t := wf (settleBay s.mach b) .SEQ_ROTA_CTL b 0 5 0 (fld v 5 0)
    if (getRota (settleBay s.mach b) p).enabled then
      if bit v 9 then modRota t p (fun r => { r with abortReq := true })
      else if bit v 8 ∨ bit v 7 = false then modRota t p (fun r => { r with stopReq := true })
      else t
    else if bit v 7 then
      if frameNo t + 2 ≤ rf t .SEQ_ROTA_START b 0 47 0 then
        wb (modRota t p (fun _ => Rota.starting (rf t .SEQ_ROTA_START b 0 47 0))) .SEQ_ROTA_CTL b 0 7 true
      else wb t .SEQ_ROTA_CUR b 0 63 true
    else t := by
  unfold onRotaCtl
  rw [(bayPid_settleBay s.mach b b).trans hpid]
  dsimp only
  rw [if_neg (by rw [isLead_settleBay, hlead]; decide)]
  rfl

theorem ends_rotaCtl_enable (hoff : (getRota (settleBay s.mach b) p).enabled = false) (h7 : bit v 7 = true)
    (hstart : frameNo (settleBay s.mach b) + 2 ≤ rf (settleBay s.mach b) .SEQ_ROTA_START b 0 47 0) :
    CspEnds (.seqRotaCtlEnable mid b v) s mid .SEQ_ROTA_CTL b 0 v (fun t m => rb m .SEQ_ROTA_CTL b 0 7 = true ∧
      (getRota m p).enabled = true ∧ (getRota m p).startFrame = rf t .SEQ_ROTA_START b 0 47 0 ∧ m.bays = t.bays) := by
  have heq := onRotaCtl_lead (v := v) hpid hlead
  obtain ⟨t, ht⟩ : ∃ t, t = settleBay s.mach b := ⟨_, rfl⟩
  obtain ⟨u, hu⟩ : ∃ u, u = wf t .SEQ_ROTA_CTL b 0 5 0 (fld v 5 0) := ⟨_, rfl⟩
  rw [← ht] at hoff hstart heq
  have hframe : frameNo u = frameNo t := by
    rw [hu]
    exact frameNo_congr (now_wf _ _ _ _ _ _ _) (alm_wf _ _ _ _ _ _ _)
  have hfirst : rf u .SEQ_ROTA_START b 0 47 0 = rf t .SEQ_ROTA_START b 0 47 0 := by
    rw [hu]
    exact congrArg (fld · 47 0) (rg_wf_apart (addr_ne_of_off .SEQ_ROTA_START .SEQ_ROTA_CTL rfl (by decide) b) _ _ _ _)
  have hact : regWrite (settleBay s.mach b) mid { name := .SEQ_ROTA_CTL, unit := b, idx := 0 } false v =
      wb (modRota u p (fun _ => Rota.starting (rf t .SEQ_ROTA_START b 0 47 0))) .SEQ_ROTA_CTL b 0 7 true := by
    rw [← ht]
    show onRotaCtl t b v = _
    rw [heq]
    dsimp only
    rw [hoff, if_neg Bool.false_ne_true, if_pos h7, ← hu, hframe, hfirst, if_pos hstart]
  have hbays : u.bays = t.bays := by
    rw [hu]
    exact bays_wf _ _ _ _ _ _ _
  have hrota : getRota (wb (modRota u p (fun _ => Rota.starting (rf t .SEQ_ROTA_START b 0 47 0))) .SEQ_ROTA_CTL b 0 7 true) p =
      Rota.starting (rf t .SEQ_ROTA_START b 0 47 0) := (rota_wb _ _ _ _ _ _ _).trans (getRota_modRota _ _ _)
  refine cspEnds_bay rfl (hasUnit_bay b) rfl (by decide) rfl hact ?_
  rw [rb_cspOut, getRota_cspOut, hrota, ← ht]
  unfold Rota.starting
  dsimp only
  exact ⟨rb_wb _ .SEQ_ROTA_CTL b 0 7 true (by decide), rfl, rfl, (bays_wf _ _ _ _ _ _ _).trans ((bays_modRota _ _ _).trans hbays)⟩

omit hpid hlead in
theorem ends_rotaCtl_request {c : Instr} {f : Rota → Rota} (hc : exec c s = onMach s (fun s => writeReg s mid .SEQ_ROTA_CTL b 0 v))
    (hact : onRotaCtl (settleBay s.mach b) b v = modRota (wf (settleBay s.mach b) .SEQ_ROTA_CTL b 0 5 0 (fld v 5 0)) p f) :
    CspEnds c s mid .SEQ_ROTA_CTL b 0 v (fun t m => getRota m p = f (getRota t p) ∧ m.bays = t.bays) := by
  refine cspEnds_bay rfl (hasUnit_bay b) rfl (by decide) hc hact ?_
  obtain ⟨t, ht⟩ : ∃ t, t = settleBay s.mach b := ⟨_, rfl⟩
  rw [← ht]
  dsimp only
  rw [getRota_cspOut (modRota (wf t .SEQ_ROTA_CTL b 0 5 0 (fld v 5 0)) p f), getRota_modRota, rota_wf]
  exact ⟨rfl, (bays_modRota _ _ _).trans (bays_wf _ _ _ _ _ _ _)⟩

theorem ends_rotaCtl_stop (hon : (getRota (settleBay s.mach b) p).enabled = true) (h9 : bit v 9 = false) (h8 : bit v 8 = true) :
    CspEnds (.seqRotaCtlStop mid b v) s mid .SEQ_ROTA_CTL b 0 v (fun t m =>
      getRota m p = { getRota t p with stopReq := true } ∧ m.bays = t.bays) := by
  refine ends_rotaCtl_request (p := p) (f := fun r => { r with stopReq := true }) rfl ?_
  rw [onRotaCtl_lead hpid hlead]
  dsimp only
  rw [if_pos hon, h9, if_neg Bool.false_ne_true, if_pos (Or.inl h8)]

theorem ends_rotaCtl_abort (hon : (getRota (settleBay s.mach b) p).enabled = true) (h9 : bit v 9 = true) :
    CspEnds (.seqRotaCtlAbort mid b v) s mid .SEQ_ROTA_CTL b 0 v (fun t m =>
      getRota m p = { getRota t p with abortReq := true } ∧ m.bays = t.bays) := by
  refine ends_rotaCtl_request (p := p) (f := fun r => { r with abortReq := true }) rfl ?_
  rw [onRotaCtl_lead hpid hlead]
  dsimp only
  rw [if_pos hon, if_pos h9]

end

/-! ### Entries of the rota (R99) -/

/-- An entry's tenant made new in one entry. -/
def entryNew (lead tid n : Nat) (t : Mach) : Mach :=
  if entTid (rotaA t lead n) = tid then wf (wf t .SEQ_ROTA_A lead n 39 38 eNew) .SEQ_ROTA_A lead n 31 16 0 else t

theorem setEstate_new (s : Mach) (lead tid : Nat) : setEstate s lead tid eNew (some 0) = foldS (List.range 64) (fun t n => entryNew lead tid n t) s := rfl

theorem units_entryNew (lead tid n : Nat) (t : Mach) : (entryNew lead tid n t).units = t.units := by
  unfold entryNew
  rw [apply_ite Mach.units, units_wf, units_wf, ite_self]

theorem addr_rotaA_ne {b n k : Nat} (h : n ≠ k) : RegRef.addr ⟨.SEQ_ROTA_A, b, n⟩ ≠ RegRef.addr ⟨.SEQ_ROTA_A, b, k⟩ := by
  simp only [RegRef.addr, RegName.info]
  omega

theorem rg_entryNew_other {lead tid n k : Nat} (h : k ≠ n) (t : Mach) : rg (entryNew lead tid n t) .SEQ_ROTA_A lead k = rg t .SEQ_ROTA_A lead k := by
  unfold entryNew
  exact iteInduction (motive := fun m : Mach => rg m .SEQ_ROTA_A lead k = rg t .SEQ_ROTA_A lead k)
    (fun _ => (rg_wf_apart (addr_rotaA_ne h) _ _ _ _).trans (rg_wf_apart (addr_rotaA_ne h) _ _ _ _)) fun _ => rfl

/-- A field of an entry outside its tenant's state and section. -/
theorem rf_entryNew {hi lo : Nat} (h : 39 < lo ∨ hi < 16) (lead tid n k : Nat) (t : Mach) :
    rf (entryNew lead tid n t) .SEQ_ROTA_A lead k hi lo = rf t .SEQ_ROTA_A lead k hi lo := by
  by_cases hk : k = n
  · subst hk
    unfold entryNew
    refine iteInduction (motive := fun m : Mach => rf m .SEQ_ROTA_A lead k hi lo = rf t .SEQ_ROTA_A lead k hi lo) (fun _ => ?_) fun _ => rfl
    exact (rf_wf_other _ _ _ _ _ _ _ _ _ (by decide) (by omega)).trans (rf_wf_other _ _ _ _ _ _ _ _ _ (by decide) (by omega))
  · exact congrArg (fld · hi lo) (rg_entryNew_other hk t)

/-- An entry whose tenant is made new. -/
theorem new_entryNew {lead tid n : Nat} {t : Mach} (h : entTid (rotaA t lead n) = tid) :
    rf (entryNew lead tid n t) .SEQ_ROTA_A lead n 39 38 = eNew ∧ rf (entryNew lead tid n t) .SEQ_ROTA_A lead n 31 16 = 0 := by
  unfold entryNew
  rw [if_pos h]
  refine ⟨?_, rf_wf_of_lt _ _ _ _ (by decide) (by decide) (by decide)⟩
  exact (rf_wf_other _ _ _ _ _ _ _ _ _ (by decide) (by decide)).trans (rf_wf_of_lt _ _ _ _ (by decide) (by decide) (by decide))

theorem units_setEstate_new (s : Mach) (lead tid : Nat) : (setEstate s lead tid eNew (some 0)).units = s.units :=
  foldS_keeps Mach.units _ _ _ fun t n => units_entryNew lead tid n t

theorem rf_setEstate_new {hi lo : Nat} (h : 39 < lo ∨ hi < 16) (s : Mach) (lead tid k : Nat) :
    rf (setEstate s lead tid eNew (some 0)) .SEQ_ROTA_A lead k hi lo = rf s .SEQ_ROTA_A lead k hi lo :=
  foldS_keeps (rf · .SEQ_ROTA_A lead k hi lo) _ _ _ fun t n => rf_entryNew h lead tid n k t

/-- Every entry of the tenant is new after a row of entries that holds it. -/
theorem new_foldS {lead tid k : Nat} (l : List Nat) (s : Mach) (hk : k ∈ l ∨
      (rf s .SEQ_ROTA_A lead k 39 38 = eNew ∧ rf s .SEQ_ROTA_A lead k 31 16 = 0)) (htid : entTid (rotaA s lead k) = tid) :
    rf (foldS l (fun t n => entryNew lead tid n t) s) .SEQ_ROTA_A lead k 39 38 = eNew ∧
      rf (foldS l (fun t n => entryNew lead tid n t) s) .SEQ_ROTA_A lead k 31 16 = 0 := by
  induction l generalizing s with
  | nil => exact hk.resolve_left List.not_mem_nil
  | cons n l ih =>
    have htid' : entTid (rotaA (entryNew lead tid n s) lead k) = tid := (rf_entryNew (hi := 61) (lo := 52) (Or.inl (by decide)) lead tid n k s).trans htid
    unfold foldS
    rw [List.foldl_cons]
    refine ih _ ?_ htid'
    by_cases hn : k = n
    · subst hn
      exact Or.inr (new_entryNew htid)
    · rcases hk with hmem | hnew
      · exact Or.inl ((List.mem_cons.1 hmem).resolve_left hn)
      · have hkept := rg_entryNew_other (lead := lead) (tid := tid) hn s
        exact Or.inr ⟨(congrArg (fld · 39 38) hkept).trans hnew.1, (congrArg (fld · 31 16) hkept).trans hnew.2⟩

theorem ends_rotaEntryWrite {n : Fin 64} {p : Fin 16} (hpid : bayPid s.mach b = some p.val) (hlead : isLead s.mach b = true)
    (hfree : entryBusy (settleBay s.mach b) p n = false) :
    CspEnds (.rotaEntryWrite mid b n v) s mid .SEQ_ROTA_A b n v (fun t m => rf m .SEQ_ROTA_A b n 63 40 = fld v 63 40 ∧
      rf m .SEQ_ROTA_A b n 12 0 = fld v 12 0 ∧ (bit v 63 = true → rf m .SEQ_ROTA_A b n 39 38 = eNew ∧ rf m .SEQ_ROTA_A b n 31 16 = 0) ∧
      m.units = { t with cspOut := (0, 0) }.units) := by
  obtain ⟨t, ht⟩ : ∃ t, t = settleBay s.mach b := ⟨_, rfl⟩
  obtain ⟨u, hu⟩ : ∃ u, u = wf (wf t .SEQ_ROTA_A b n 63 40 (fld v 63 40)) .SEQ_ROTA_A b n 12 0 (fld v 12 0) := ⟨_, rfl⟩
  have hact : regWrite (settleBay s.mach b) mid { name := .SEQ_ROTA_A, unit := b, idx := n } false v =
      if bit v 63 then setEstate u b (entTid v) eNew (some 0) else u := by
    show onRotaA (settleBay s.mach b) b n v = _
    unfold onRotaA
    rw [(bayPid_settleBay s.mach b b).trans hpid]
    dsimp only
    rw [if_neg (by rw [isLead_settleBay, hlead, hfree]; decide), ← ht, ← hu]
  have hhigh : rf u .SEQ_ROTA_A b n 63 40 = fld v 63 40 := by
    rw [hu]
    exact (rf_wf_other _ _ _ _ _ _ _ _ _ (by decide) (by decide)).trans (rf_wf_of_lt t _ _ _ (by decide) (by decide) (Nat.mod_lt _ (by decide)))
  have hlow : rf u .SEQ_ROTA_A b n 12 0 = fld v 12 0 := by
    rw [hu]
    exact rf_wf_of_lt _ _ _ _ (by decide) (by decide) (Nat.mod_lt _ (by decide))
  have hunits : u.units = t.units := by rw [hu, units_wf, units_wf]
  have htid : entTid (rotaA u b n) = entTid v := by
    show fld (rg u .SEQ_ROTA_A b n) 61 52 = fld v 61 52
    have hhigh' : fld (rg u .SEQ_ROTA_A b n) 63 40 = fld v 63 40 := hhigh
    unfold fld at hhigh' ⊢
    omega
  refine cspEnds_bay rfl (hasUnit_bay b) rfl n.isLt rfl hact ?_
  rw [← ht]
  obtain ⟨w, hw⟩ : ∃ w, w = setEstate u b (entTid v) eNew (some 0) := ⟨_, rfl⟩
  rw [← hw]
  have hwhigh : rf w .SEQ_ROTA_A b n 63 40 = rf u .SEQ_ROTA_A b n 63 40 := by
    rw [hw]
    exact rf_setEstate_new (Or.inl (by decide)) _ _ _ _
  have hwlow : rf w .SEQ_ROTA_A b n 12 0 = rf u .SEQ_ROTA_A b n 12 0 := by
    rw [hw]
    exact rf_setEstate_new (Or.inr (by decide)) _ _ _ _
  cases h63 : bit v 63
  · rw [if_neg Bool.false_ne_true, rf_cspOut u, rf_cspOut u, rf_cspOut u, rf_cspOut u]
    exact ⟨hhigh, hlow, fun h => (by cases h), units_cspOut hunits _⟩
  · rw [if_pos rfl, rf_cspOut w, rf_cspOut w, rf_cspOut w, rf_cspOut w]
    refine ⟨hwhigh.trans hhigh, hwlow.trans hlow, fun _ => ?_, units_cspOut ?_ _⟩
    · rw [hw, setEstate_new]
      exact new_foldS _ _ (Or.inl (List.mem_range.2 n.isLt)) htid
    · rw [hw]
      exact (units_setEstate_new _ _ _).trans hunits

/-! ### Tokens (R131) -/

theorem getChan_cspOut (m : Mach) (x : Nat × Word) (c k : Nat) : getChan { m with cspOut := x } c k = getChan m c k := rfl

theorem getChan_deliver_eq (m : Mach) (b : BayNo) (ch n : Nat) (p : Bool) :
    getChan (deliver m b ch n p) b ch = (getChan m b ch).deliver n p m.now := by
  have hput : getChan (countEv (modChan m b ch (fun c => c.deliver n p m.now)) b 0x13 n) b ch = (getChan m b ch).deliver n p m.now := by
    rw [chan_of_units (units_countEv _ _ _ _), getChan_modChan]
  unfold deliver
  exact iteInduction (motive := fun x : Mach => getChan x b ch = (getChan m b ch).deliver n p m.now)
    (fun _ => (chan_of_units (units_tokErr _ _ _ _) b ch).trans hput) fun _ => hput

theorem mem_modChan (m : Mach) (b ch : Nat) (f : Chan → Chan) : (modChan m b ch f).mem = m.mem := rfl

theorem mem_deliver (m : Mach) (b ch n : Nat) (p : Bool) : (deliver m b ch n p).mem = m.mem := by
  have hput (f : Chan → Chan) : (countEv (modChan m b ch f) b 0x13 n).mem = m.mem :=
    (mem_of_units (units_countEv _ _ _ _)).trans (mem_modChan _ _ _ _)
  unfold deliver
  exact iteInduction (motive := fun x : Mach => x.mem = m.mem) (fun _ => (mem_of_units (units_tokErr _ _ _ _)).trans (hput _)) fun _ => hput _

theorem ends_toksig_deliver (hn : fld v 39 32 ≠ 0) (htid : (getSeq (settleBay s.mach b) b).tid.isSome = true) :
    CspEnds (.seqToksigWrite mid b v) s mid .SEQ_TOKSIG b 0 v (fun t m => m.mem = t.mem ∧
      getChan m b (fld v 9 0) = (getChan t b (fld v 9 0)).deliver (fld v 39 32) false t.now) := by
  obtain ⟨t, ht⟩ : ∃ t, t = settleBay s.mach b := ⟨_, rfl⟩
  have hact : regWrite (settleBay s.mach b) mid { name := .SEQ_TOKSIG, unit := b, idx := 0 } false v =
      deliver t b (fld v 9 0) (fld v 39 32) false := by
    show onToksig (settleBay s.mach b) b v = _
    unfold onToksig
    dsimp only
    rw [if_neg hn, if_pos htid, ← ht]
  refine cspEnds_bay rfl (hasUnit_bay b) rfl (by decide) rfl hact ?_
  rw [← ht, getChan_cspOut (deliver t b (fld v 9 0) (fld v 39 32) false)]
  exact ⟨mem_deliver _ _ _ _ _, getChan_deliver_eq _ _ _ _ _⟩

theorem ends_toksig_drop (hn : fld v 39 32 ≠ 0) (htid : (getSeq (settleBay s.mach b) b).tid = none) :
    CspEnds (.seqToksigWrite mid b v) s mid .SEQ_TOKSIG b 0 v (fun t m => m.units = { t with cspOut := (0, 0) }.units ∧
      rf m .SEQ_TOKSTAT b 0 31 0 = sat 32 (rf t .SEQ_TOKSTAT b 0 31 0 + 1)) := by
  obtain ⟨t, ht⟩ : ∃ t, t = settleBay s.mach b := ⟨_, rfl⟩
  have hact : regWrite (settleBay s.mach b) mid { name := .SEQ_TOKSIG, unit := b, idx := 0 } false v = bump t .SEQ_TOKSTAT b 0 31 0 1 := by
    show onToksig (settleBay s.mach b) b v = _
    unfold onToksig
    dsimp only
    rw [if_neg hn, htid, ← ht]
    rfl
  refine cspEnds_bay rfl (hasUnit_bay b) rfl (by decide) rfl hact ?_
  rw [← ht, rf_cspOut (bump t .SEQ_TOKSTAT b 0 31 0 1)]
  exact ⟨units_cspOut (units_bump _ _ _ _ _ _ _) _, rf_bump _ _ _ _ _ _ _ (by decide) (by decide)⟩

/-! ### Semaphores (R249, R258, R260) -/

theorem fld_semWord_op {op : Nat} (h : op < 4) (n : BitVec 32) : fld (semWord op n) 63 62 = op := by
  show fld (setFld (setFld (0 : Word) 63 62 op) 31 0 n.toNat) 63 62 = op
  rw [fld_setFld_other _ _ _ _ _ _ (by decide) (by decide), fld_setFld_same _ _ _ _ (by decide) (by decide)]
  exact Nat.mod_eq_of_lt h

theorem fld_semWord_n (op : Nat) (n : BitVec 32) : fld (semWord op n) 31 0 = n.toNat := by
  show fld (setFld (setFld (0 : Word) 63 62 op) 31 0 n.toNat) 31 0 = n.toNat
  rw [fld_setFld_same _ _ _ _ (by decide) (by decide)]
  exact Nat.mod_eq_of_lt n.isLt

theorem fld_semWord_mid (op : Nat) (n : BitVec 32) : fld (semWord op n) 61 32 = 0 := by
  show fld (setFld (setFld (0 : Word) 63 62 op) 31 0 n.toNat) 61 32 = 0
  rw [fld_setFld_other _ _ _ _ _ _ (by decide) (by decide), fld_setFld_other _ _ _ _ _ _ (by decide) (by decide)]
  rfl

/-- The kind of operation that OP of an array write names. -/
def semKindOf (op : Nat) : SemKind := if op = 0 then .set else if op = 1 then .add else .sub

theorem mem_of_apart {s t : Mach} {b : Nat} (h : s.apart b = t.apart b) : s.mem = t.mem := by
  have e := congrArg (fun x => Mach.mem x) h
  exact e

theorem semCount_cspOut (m : Mach) (x : Nat × Word) (c i : Nat) : semCount { m with cspOut := x } c i = semCount m c i := rfl

/-- A block at rest that takes one operation performs it at once. -/
theorem semRun_op {t : Mach} {o : SemOp} (hops : (getSem t b).ops = []) (hdones : (getSem t b).dones = []) (h : (getSem t b).Still) :
    let m := semRun (modSem t b (fun x => { x with ops := x.ops ++ [o] })) b o.edge
    getSem m b = (getSem t b).after o ∧ m.apart b = t.apart b := by
  obtain ⟨u, hu⟩ : ∃ u, u = modSem t b (fun x => { x with ops := x.ops ++ [o] }) := ⟨_, rfl⟩
  have hsem : getSem u b = { getSem t b with ops := [o] } := by
    rw [hu, getSem_modSem, hops, List.nil_append]
  have hnext : semNext (getSem u b) = some o.edge := by
    unfold semNext
    rw [hsem]
    dsimp only
    rw [hdones]
    rfl
  have hrun : semRun u b o.edge = semAt u b o.edge := by
    unfold semRun
    rw [hsem]
    dsimp only
    rw [hdones]
    show semRunN u b o.edge 1 = _
    unfold semRunN
    rw [hnext]
    exact if_pos (Nat.le_refl _)
  obtain ⟨hafter, hapart⟩ := semAt_op (s := u) b (o := o) (by rw [hsem]) (by rw [hsem]; exact hdones) (by rw [hsem]; exact h)
  dsimp only
  rw [← hu, hrun]
  refine ⟨?_, hapart.trans ?_⟩
  · rw [hafter, hsem]
    dsimp only
    rw [← hops]
  · rw [hu]
    exact apart_modSem t b _

theorem semCount_lt (t : Mach) (c i : Nat) : semCount t c i < 2 ^ 32 := (smapGet 0 (getSem t c).count i).isLt

theorem ends_semArray {c : Instr} {op : Nat} {f : Nat → Nat → Nat} {i : Fin 2048} {n : BitVec 32} (hop : op < 3)
    (hf : ∀ x, x < 2 ^ 32 → semResult x n.toNat (semKindOf op) % 2 ^ 32 = f x n.toNat)
    (hc : exec c s = onMach s (fun s => writeReg s mid .SEM_ARRAY b i (semWord op n)))
    (hops : (getSem (settleBay s.mach b) b).ops = []) (hdones : (getSem (settleBay s.mach b) b).dones = [])
    (hwaits : (getSem (settleBay s.mach b) b).waits = []) (hswait : (getSem (settleBay s.mach b) b).swait = none)
    (hxfer : (getSem (settleBay s.mach b) b).xfer = none) :
    CspEnds c s mid .SEM_ARRAY b i (semWord op n) (fun t m => m.mem = t.mem ∧
      semCount m b i = f (semCount t b i) n.toNat ∧ ∀ j, j ≠ i.val → semCount m b j = semCount t b j) := by
  obtain ⟨t, ht⟩ : ∃ t, t = settleBay s.mach b := ⟨_, rfl⟩
  rw [← ht] at hops hdones hwaits hswait hxfer
  obtain ⟨o, ho⟩ : ∃ o : SemOp, o = { edge := edgeAfter (clkOf t b) t.now, src := .csp, kind := semKindOf op, phys := i, n := n.toNat } := ⟨_, rfl⟩
  obtain ⟨m, hm⟩ : ∃ m, m = semRun (modSem t b (fun x => { x with ops := x.ops ++ [o] })) b o.edge := ⟨_, rfl⟩
  have hact : regWrite (settleBay s.mach b) mid { name := .SEM_ARRAY, unit := b, idx := i } false (semWord op n) = m := by
    show onSemArray (settleBay s.mach b) b i (semWord op n) = _
    unfold onSemArray
    dsimp only
    rw [fld_semWord_op (by omega), fld_semWord_mid, fld_semWord_n, if_neg (by omega), ← ht, hm, ho]
    rfl
  obtain ⟨hafter, hapart⟩ := semRun_op (o := o) hops hdones ⟨hwaits, hswait, hxfer⟩
  rw [← hm] at hafter hapart
  have hphys : o.phys = i.val := by rw [ho]
  refine cspEnds_bay rfl (hasUnit_bay b) rfl i.isLt hc hact ?_
  rw [← ht, semCount_cspOut m]
  refine ⟨(show m.mem = t.mem from mem_of_apart hapart), ?_, fun j hj => ?_⟩
  · rw [semCount_of_after hafter, if_pos hphys.symm, ho]
    exact hf _ (semCount_lt t b i)
  · rw [semCount_cspOut m, semCount_of_after hafter, if_neg (by rw [hphys]; exact hj)]
    rfl

theorem ends_semPool {k : Fin 64} (hvalid : bit v 63 = true) (hsize : fld v 7 0 ≠ 0) (hfit : fld v 22 16 + fld v 7 0 ≤ 128)
    (hfree : ∀ j : Fin 64, rb (settleBay s.mach b) .SEM_POOL b j 63 = false) (htid : (getSeq (settleBay s.mach b) b).tid ≠ some (fld v 57 48)) :
    CspEnds (.semPoolWrite mid b k v) s mid .SEM_POOL b k v (fun t m => m.units = { t with cspOut := (0, 0) }.units ∧
      rg m .SEM_POOL b k = packFlds [(63, 63, 1), (57, 48, fld v 57 48), (22, 16, fld v 22 16), (7, 0, fld v 7 0)]) := by
  obtain ⟨t, ht⟩ : ∃ t, t = settleBay s.mach b := ⟨_, rfl⟩
  rw [← ht] at hfree htid
  have hothers : (List.range 64).filter (fun j => decide (j ≠ k.val) && rb t .SEM_POOL b j 63) = [] := by
    refine List.filter_eq_nil_iff.2 fun j hj => ?_
    rw [hfree ⟨j, List.mem_range.1 hj⟩, Bool.and_false]
    exact Bool.false_ne_true
  have hfits : ¬ (128 < fld v 22 16 + fld v 7 0) := by omega
  have hact : regWrite (settleBay s.mach b) mid { name := .SEM_POOL, unit := b, idx := k } false v = wr t .SEM_POOL b k
      (packFlds [(63, 63, 1), (57, 48, fld v 57 48), (22, 16, fld v 22 16), (7, 0, fld v 7 0)]) := by
    show onSemPool (settleBay s.mach b) b k v = _
    unfold onSemPool
    dsimp only
    rw [← ht, hothers, hvalid, hfree k, decide_eq_false hsize, decide_eq_false hfits, decide_eq_false htid]
    rfl
  refine cspEnds_bay rfl (hasUnit_bay b) rfl k.isLt rfl hact ?_
  rw [← ht, rg_cspOut (wr t .SEM_POOL b k _)]
  exact ⟨units_cspOut (units_wr _ _ _ _ _) _, rg_wr _ _ _ _ _⟩

theorem getSem_cspOut (m : Mach) (x : Nat × Word) (c : Nat) : getSem { m with cspOut := x } c = getSem m c := rfl

theorem ends_semXfer {c : Instr} {load : Bool} (hc : exec c s = onMach s (fun s => writeReg s mid .SEM_XFER_CTL b 0 v))
    (hxfer : (getSem (settleBay s.mach b) b).xfer = none) (htid : (getSeq (settleBay s.mach b) b).tid = none) (h62 : bit v 62 = true)
    (h61 : bit v 61 = load) (hn : fld v 43 32 ≠ 0) (hfit : fld v 10 0 + fld v 43 32 ≤ 2048) :
    CspEnds c s mid .SEM_XFER_CTL b 0 v (fun t m => rb m .SEM_XFER_CTL b 0 63 = true ∧
      getSem m b = semXferOn (getSem t b) (fld v 10 0) (fld v 43 32) load (rf t .SEM_XFER_ADDR b 0 47 0)) := by
  obtain ⟨t, ht⟩ : ∃ t, t = settleBay s.mach b := ⟨_, rfl⟩
  rw [← ht] at hxfer htid
  obtain ⟨u, hu⟩ : ∃ u, u = wr t .SEM_XFER_CTL b 0 (packFlds [(61, 61, fld v 61 61), (43, 32, fld v 43 32), (10, 0, fld v 10 0)]) := ⟨_, rfl⟩
  have hunits : u.units = t.units := by rw [hu, units_wr]
  have hseq : (getSeq u b).tid = none := by rw [seq_of_units hunits, htid]
  have haddr : rf u .SEM_XFER_ADDR b 0 47 0 = rf t .SEM_XFER_ADDR b 0 47 0 := by
    rw [hu]
    exact congrArg (fld · 47 0) (rg_wr_other _ _ _ _ _ _ _ _ (addr_ne_of_off .SEM_XFER_ADDR .SEM_XFER_CTL rfl (by decide) b))
  have hact : regWrite (settleBay s.mach b) mid { name := .SEM_XFER_CTL, unit := b, idx := 0 } false v =
      wb (modSem u b (fun x => semXferOn x (fld v 10 0) (fld v 43 32) load (rf t .SEM_XFER_ADDR b 0 47 0))) .SEM_XFER_CTL b 0 63 true := by
    show onSemXfer (settleBay s.mach b) b v = _
    unfold onSemXfer
    dsimp only
    rw [← ht, hxfer, ← hu, if_neg (by simp), h62, if_neg (by simp), hseq, if_neg hn, Option.bind_none, if_neg (by simp; omega), h61, haddr]
    rfl
  refine cspEnds_bay rfl (hasUnit_bay b) rfl (by decide) hc hact ?_
  rw [← ht, rb_cspOut (wb _ .SEM_XFER_CTL b 0 63 true), getSem_cspOut (wb _ .SEM_XFER_CTL b 0 63 true)]
  refine ⟨rb_wb _ _ _ _ _ _ (by decide), ?_⟩
  rw [sem_of_units (units_wb _ _ _ _ _ _), getSem_modSem, sem_of_units hunits]

/-! ### The loft (R266, R273) -/

theorem getCReg_cspOut (m : Mach) (x : Nat × Word) (c : Nat) : getCReg { m with cspOut := x } c = getCReg m c := rfl

/-- The loft's poison is cut to the blocks that a split keeps. -/
def cutPois (t : Mach) (b keep : Nat) : Mach :=
  { t with loftPois := t.loftPois.filter (fun p => !(decide (loftIx b keep / 64 ≤ p.1) && decide (p.1 < loftIx b 0x1800000 / 64))) }

/-- Free bytes at the end of the planned region. -/
def growLoft (t : Mach) (lo n : Nat) : Mach := { (drawBytes t n).2 with loft := writeBytes (drawBytes t n).2.loft lo (drawBytes t n).1 }

theorem creg_growLoft (t : Mach) (lo n c : Nat) : getCReg (growLoft t lo n) c = getCReg t c := rfl
theorem mem_growLoft (t : Mach) (lo n : Nat) : (growLoft t lo n).mem = t.mem := rfl
theorem csr_growLoft (t : Mach) (lo n : Nat) : (growLoft t lo n).csr = t.csr := rfl
theorem mem_cutPois (t : Mach) (b k : Nat) : (cutPois t b k).mem = t.mem := rfl
theorem csr_cutPois (t : Mach) (b k : Nat) : (cutPois t b k).csr = t.csr := rfl
theorem mem_modCReg (t : Mach) (b : Nat) (f : CReg → CReg) : (modCReg t b f).mem = t.mem := rfl
theorem csr_modCReg (t : Mach) (b : Nat) (f : CReg → CReg) : (modCReg t b f).csr = t.csr := rfl

theorem getCReg_modCReg (t : Mach) (b : BayNo) (f : CReg → CReg) : getCReg (modCReg t b f) b = f (getCReg t b) := by
  unfold getCReg modCReg
  rw [getBay_modBay_fin]

theorem ends_lftSplit {p : Nat} (hpid : bayPid s.mach b = some p) (hrun : furrowRunning (settleBay s.mach b) p = false)
    (hcode : fld v 2 0 < 5) (hctl : rg (settleBay s.mach b) .LFT_CCTL b 0 = 0) :
    CspEnds (.lftSplitWrite mid b v) s mid .LFT_SPLIT b 0 v (fun t m => rf m .LFT_SPLIT b 0 2 0 = fld v 2 0 ∧ m.mem = t.mem ∧
      getCReg m b = CReg.zero) := by
  have hpid' := (bayPid_settleBay s.mach b b).trans hpid
  obtain ⟨t, ht⟩ : ∃ t, t = settleBay s.mach b := ⟨_, rfl⟩
  rw [← ht] at hrun hctl hpid'
  obtain ⟨u, hu⟩ : ∃ u, u = wf t .LFT_SPLIT b 0 2 0 (fld v 2 0) := ⟨_, rfl⟩
  obtain ⟨w, hw⟩ : ∃ w, w = modCReg (cutPois u b (min (plannedSize t b) (plannedSize u b))) b (fun _ => CReg.zero) := ⟨_, rfl⟩
  obtain ⟨m, hm⟩ : ∃ m, m = if plannedSize u b ≤ plannedSize t b then w else
      growLoft w (loftIx b (plannedSize t b)) (loftIx b (plannedSize u b) - loftIx b (plannedSize t b)) := ⟨_, rfl⟩
  have hgo : ¬ (furrowRunning t p = true ∨ 5 ≤ fld v 2 0 ∨ rg t .LFT_CCTL b 0 ≠ 0) := by
    rw [hrun, hctl]
    simp [hcode]
  have hact : regWrite (settleBay s.mach b) mid { name := .LFT_SPLIT, unit := b, idx := 0 } false v = m := by
    show onLftSplit (settleBay s.mach b) b v = _
    unfold onLftSplit
    dsimp only
    rw [← ht, hpid']
    dsimp only
    rw [if_neg hgo, ← hu, hm, hw]
    rfl
  have hkeep {β : Type} (g : Mach → β) (hg : ∀ x lo n, g (growLoft x lo n) = g x) : g m = g w := by
    rw [hm]
    exact iteInduction (motive := fun x : Mach => g x = g w) (fun _ => rfl) fun _ => hg _ _ _
  refine cspEnds_bay rfl (hasUnit_bay b) rfl (by decide) rfl hact ?_
  rw [← ht, rf_cspOut m, getCReg_cspOut m]
  refine ⟨?_, ?_, ?_⟩
  · have hcsr : m.csr = u.csr := by
      rw [hkeep Mach.csr csr_growLoft, hw, csr_modCReg, csr_cutPois]
    have hrf : rf m .LFT_SPLIT b 0 2 0 = rf u .LFT_SPLIT b 0 2 0 := congrArg (fld · 2 0) (rg_of_csr hcsr _ _ _)
    rw [hrf, hu]
    exact rf_wf_of_lt _ _ _ _ (by decide) (by decide) (Nat.mod_lt _ (by decide))
  · show m.mem = t.mem
    rw [hkeep Mach.mem mem_growLoft, hw, mem_modCReg, mem_cutPois, hu]
    exact mem_of_units (units_wf _ _ _ _ _ _ _)
  · rw [hkeep (getCReg · b) fun x lo n => creg_growLoft x lo n b, hw, getCReg_modCReg]

theorem ends_lftCctl_flush (h1 : bit v 1 = true) :
    CspEnds (.lftCctlFlush mid b v) s mid .LFT_CCTL b 0 v (fun t m => m.units = { t with cspOut := (0, 0) }.units ∧
      rb m .LFT_CCTL b 0 1 = true ∧ rb m .LFT_CCTL b 0 0 = bit v 0) := by
  obtain ⟨t, ht⟩ : ∃ t, t = settleBay s.mach b := ⟨_, rfl⟩
  obtain ⟨u, hu⟩ : ∃ u, u = wb t .LFT_CCTL b 0 0 (bit v 0) := ⟨_, rfl⟩
  have hact : regWrite (settleBay s.mach b) mid { name := .LFT_CCTL, unit := b, idx := 0 } false v = wb u .LFT_CCTL b 0 1 true := by
    show onLftCctl (settleBay s.mach b) b v = _
    unfold onLftCctl
    dsimp only
    rw [if_pos (Or.inl h1), ← ht, ← hu]
  have hunits : u.units = t.units := by rw [hu, units_wb]
  refine cspEnds_bay rfl (hasUnit_bay b) rfl (by decide) rfl hact ?_
  rw [← ht, rb_cspOut (wb u .LFT_CCTL b 0 1 true) (0, 0) .LFT_CCTL b 0 1, rb_cspOut (wb u .LFT_CCTL b 0 1 true) (0, 0) .LFT_CCTL b 0 0]
  refine ⟨units_cspOut ((units_wb _ _ _ _ _ _).trans hunits) _, rb_wb _ _ _ _ _ _ (by decide), ?_⟩
  rw [rb_wb_other _ _ _ _ _ _ _ (by decide), hu]
  exact rb_wb _ _ _ _ _ _ (by decide)

theorem ends_lftCctl_enable (h0 : bit v 0 = true) (h1 : bit v 1 = false) :
    CspEnds (.lftCctlEnable mid b v) s mid .LFT_CCTL b 0 v (fun t m => m.units = { t with cspOut := (0, 0) }.units ∧
      rb m .LFT_CCTL b 0 0 = true ∧ rb m .LFT_CCTL b 0 1 = rb t .LFT_CCTL b 0 1) := by
  obtain ⟨t, ht⟩ : ∃ t, t = settleBay s.mach b := ⟨_, rfl⟩
  have hact : regWrite (settleBay s.mach b) mid { name := .LFT_CCTL, unit := b, idx := 0 } false v = wb t .LFT_CCTL b 0 0 true := by
    show onLftCctl (settleBay s.mach b) b v = _
    unfold onLftCctl
    dsimp only
    rw [if_neg (by simp [h0, h1]), ← ht, h0]
  refine cspEnds_bay rfl (hasUnit_bay b) rfl (by decide) rfl hact ?_
  rw [← ht, rb_cspOut (wb t .LFT_CCTL b 0 0 true) (0, 0) .LFT_CCTL b 0 0, rb_cspOut (wb t .LFT_CCTL b 0 0 true) (0, 0) .LFT_CCTL b 0 1]
  exact ⟨units_cspOut (units_wb _ _ _ _ _ _) _, rb_wb _ _ _ _ _ _ (by decide), rb_wb_other _ _ _ _ _ _ _ (by decide)⟩

end

theorem semResult_set (x : Nat) (n : BitVec 32) : semResult x n.toNat (semKindOf 0) % 2 ^ 32 = n.toNat := Nat.mod_eq_of_lt n.isLt

theorem semResult_add (x : Nat) (n : BitVec 32) : semResult x n.toNat (semKindOf 1) % 2 ^ 32 = min (x + n.toNat) 0xFFFFFFFF := by
  show min (x + n.toNat) 0xFFFFFFFF % 2 ^ 32 = _
  omega

theorem semResult_sub {x : Nat} (h : x < 2 ^ 32) (n : BitVec 32) : semResult x n.toNat (semKindOf 2) % 2 ^ 32 = x - n.toNat := by
  show (x - n.toNat) % 2 ^ 32 = _
  omega

/-- Settles O33. -/
theorem bayRegisterWrites : Obligations.BayRegisterWrites :=
  ⟨fun _ _ _ _ _ hpid hlead hoff h7 hstart => ends_rotaCtl_enable hpid hlead hoff h7 hstart,
    fun _ _ _ _ _ hpid hlead hon h9 h8 => ends_rotaCtl_stop hpid hlead hon h9 h8,
    fun _ _ _ _ _ hpid hlead hon h9 => ends_rotaCtl_abort hpid hlead hon h9,
    fun _ _ _ _ _ _ hpid hlead hfree => ends_rotaEntryWrite hpid hlead hfree,
    fun _ _ _ _ hn htid => ends_toksig_deliver hn htid,
    fun _ _ _ _ hn htid => ends_toksig_drop hn htid,
    ⟨fun _ _ _ _ n => ends_semArray (op := 0) (f := fun _ n => n) (by decide) (fun x _ => semResult_set x n) rfl,
      fun _ _ _ _ n => ends_semArray (op := 1) (f := fun x n => min (x + n) 0xFFFFFFFF) (by decide) (fun x _ => semResult_add x n) rfl,
      fun _ _ _ _ n => ends_semArray (op := 2) (f := fun x n => x - n) (by decide) (fun _ hx => semResult_sub hx n) rfl⟩,
    fun _ _ _ _ _ hvalid hsize hfit hfree htid => ends_semPool hvalid hsize hfit hfree htid,
    ⟨fun _ _ _ _ => ends_semXfer rfl, fun _ _ _ _ => ends_semXfer rfl⟩,
    fun _ _ _ _ _ hpid hrun hcode hctl => ends_lftSplit hpid hrun hcode hctl,
    fun _ _ _ _ h1 => ends_lftCctl_flush h1,
    fun _ _ _ _ h0 h1 => ends_lftCctl_enable h0 h1⟩

end Sys2Proof.Machine
end

section
/-! Host cores: what a hart's step leaves of the package, one instruction taken apart, and ADDI and JAL (R339). -/

namespace Sys2Proof.Machine

/-! ### One core among the cores -/

section
variable (s : Mach) (c : CoreNo) (f : Core → Core)

theorem getCore_modCore_same : getCore (modCore s c f) c = f (getCore s c) :=
  (getCore_modCore s c c f).trans (if_pos ⟨rfl, c.isLt⟩)

theorem csrOf_setCsr (n m : Nat) (v : Word) : csrOf (setCsr s c n v) c m = if m = n then v else csrOf s c m := by
  unfold csrOf setCsr
  rw [getCore_modCore_same, smapGet_smapPut]

end

/-- What a core's state keeps where only its control and status registers change. -/
theorem core_setCsr {β : Type} {g : Core → β} (hg : ∀ (x : Core) m, g { x with csr := m } = g x) (s : Mach) (c : CoreNo) (n : Nat) (v : Word) :
    g (getCore (setCsr s c n v) c) = g (getCore s c) := by
  unfold setCsr
  rw [getCore_modCore_same]
  exact hg _ _

/-- What neither the registers of control space nor the cores hold. -/
structure OffHart {β : Type} (g : Mach → β) : Prop where
  csr : OffCsr g
  core : ∀ s c f, g (modCore s c f) = g s

namespace OffHart
variable {β : Type} {g : Mach → β} (h : OffHart g)
include h

theorem setCsr (s : Mach) (c n : Nat) (v : Word) : g (setCsr s c n v) = g s := h.core _ _ _

theorem putXr (s : Mach) (c r v : Nat) : g (putXr s c r v) = g s := by
  unfold Machine.putXr
  exact iteInduction (motive := fun m : Mach => g m = g s) (fun _ => rfl) fun _ => h.core _ _ _

theorem setPc (s : Mach) (c t : Nat) : g (setPc s c t) = g s := h.core _ _ _

theorem retire (s : Mach) (c len : Nat) : g (retire s c len) = g s := (h.csr.wr _ _ _ _ _).trans (h.core _ _ _)

theorem tickCount (s : Mach) (c : Nat) (t : Mach) : g (tickCount s c t) = g s := by
  refine foldS_keeps g _ _ _ fun u i => ?_
  exact iteInduction (motive := fun m : Mach => g m = g u) (fun _ => h.setCsr _ _ _ _) fun _ => rfl

end OffHart

theorem offHart_mem : OffHart Mach.mem := ⟨fun _ _ => rfl, fun _ _ _ => rfl⟩
theorem offHart_loft : OffHart Mach.loft := ⟨fun _ _ => rfl, fun _ _ _ => rfl⟩
theorem offHart_bays : OffHart Mach.bays := ⟨fun _ _ => rfl, fun _ _ _ => rfl⟩
theorem offHart_held : OffHart Mach.held := ⟨fun _ _ => rfl, fun _ _ _ => rfl⟩

theorem core_tickCount {β : Type} {g : Core → β} (hg : ∀ (x : Core) m, g { x with csr := m } = g x) (s : Mach) (c : CoreNo) (t : Mach) :
    g (getCore (tickCount s c t) c) = g (getCore s c) := by
  refine foldS_keeps (fun u => g (getCore u c)) _ _ _ fun u i => ?_
  exact iteInduction (motive := fun m : Mach => g (getCore m c) = g (getCore u c)) (fun _ => core_setCsr hg _ _ _ _) fun _ => rfl

/-! ### Registers and the pc -/

section
variable (s : Mach) (c : CoreNo)

/-- A register read after a write. -/
theorem getXr_putXr (rd v r : Nat) : getXr (putXr s c rd v) c r = if r = rd ∧ r ≠ 0 then v % 2 ^ 64 else getXr s c r := by
  unfold putXr getXr
  by_cases hr : r = 0
  · rw [if_pos hr, if_pos hr, if_neg fun h => h.2 hr]
  rw [if_neg hr, if_neg hr]
  by_cases hrd : rd = 0
  · rw [if_pos hrd, if_neg (by omega)]
  rw [if_neg hrd, getCore_modCore_same]
  dsimp only
  rw [smapGet_smapPut]
  by_cases heq : r = rd
  · rw [if_pos heq, if_pos ⟨heq, hr⟩]
    exact BitVec.toNat_ofNat _ _
  · rw [if_neg heq, if_neg fun h => heq h.1]

theorem getXr_of_x {s t : Mach} {c : Nat} (h : (getCore s c).x = (getCore t c).x) (r : Nat) : getXr s c r = getXr t c r := by
  unfold getXr
  rw [h]

theorem pc_putXr (rd v : Nat) : (getCore (putXr s c rd v) c).pc = (getCore s c).pc := by
  unfold putXr
  refine iteInduction (motive := fun m : Mach => (getCore m c).pc = (getCore s c).pc) (fun _ => rfl) fun _ => ?_
  rw [getCore_modCore_same]

theorem getCore_wr (t : Mach) (n : RegName) (u i : Nat) (v : Word) (d : Nat) : getCore (wr t n u i v) d = getCore t d := rfl

theorem getCore_retire (len : Nat) : getCore (retire s c len) c =
    { getCore s c with pc := (getCore s c).pc + BitVec.ofNat 64 len, instret := (getCore s c).instret + 1 } := by
  unfold retire bumpAo bumpWrap
  rw [getCore_wr, getCore_modCore_same]

theorem getXr_retire (len r : Nat) : getXr (retire s c len) c r = getXr s c r := by
  refine getXr_of_x ?_ r
  rw [getCore_retire]

theorem getXr_setPc (t r : Nat) : getXr (setPc s c t) c r = getXr s c r := by
  refine getXr_of_x ?_ r
  unfold setPc
  rw [getCore_modCore_same]

theorem getXr_zero (t : Mach) (d : Nat) : getXr t d 0 = 0 := if_pos rfl

end

/-! ### One instruction -/

/-- With nothing to take before it, the step is the instruction at the pc. -/
theorem hartStep_of_one {s t : Mach} {c w : Nat} (h : HartOne s c w t) (io : CspIo) (err : Option CmxHw) :
    hartStep io s c err = match hartInstr io t c w 4 false err with
      | .done u => tickCount u c t
      | .fail e u => trap u c (if e.cause = 2 ∨ e.cause = 22 then { e with tval := w } else e)
      | .debug u => enterDebug u c 1 := by
  obtain ⟨hrel, hhalt, hreq, hpin, hint, hcount, haddr, hfetch, hdata⟩ := h
  have hbody : hartBody io s c err = match hartInstr io t c w 4 false err with
      | .done u => tickCount u c t
      | .fail e u => trap u c (if e.cause = 2 ∨ e.cause = 22 then { e with tval := w } else e)
      | .debug u => enterDebug u c 1 := by
    unfold hartBody
    dsimp only
    rw [hcount]
    dsimp only
    rw [haddr]
    dsimp only
    rw [hfetch]
    dsimp only
    rw [if_neg (by decide)]
    dsimp only
    rw [hdata, Option.bind_none] <;> rfl
  unfold hartStep
  dsimp only
  rw [if_neg (by simp [hrel, hhalt, hpin]), if_neg (by simp [hreq]), if_neg (by simp [hreq]), hint]
  exact hbody

/-- A scalar instruction that ends: the step is its effect, and it counts in the triggers. -/
theorem hartStep_of_done {s t u : Mach} {c w : Nat} (h : HartOne s c w t) {io : CspIo} (err : Option CmxHw)
    (hx : scalarExec io t c w 4 false = some (.done u)) : hartStep io s c err = tickCount u c t := by
  rw [hartStep_of_one h]
  unfold hartInstr
  rw [hx]

theorem usesFp_of_op {w : Nat} (h : iOp w ∉ [0x43, 0x47, 0x4B, 0x4F, 0x53, 0x07, 0x27]) : usesFp w = false := by
  unfold usesFp
  simp only [List.mem_cons, List.not_mem_nil, or_false, not_or] at h ⊢
  obtain ⟨h1, h2, h3, h4, h5, h6, h7⟩ := h
  simp [h1, h2, h3, h4, h5, h6, h7]

theorem rvExec_addi {i : RvIn} {w : Nat} (hop : iOp w = 0x13) (hf3 : iF3 w = 0) :
    rvExec i w = .result false (iRd w) (add64 (i.x (iRs1 w)) (immI w) % 2 ^ 64) 0 := by
  unfold rvExec rvOpImm
  rw [hop, hf3]
  rfl

theorem rvExec_jal {i : RvIn} {w : Nat} (hop : iOp w = 0x6F) : rvExec i w = .jump (add64 i.pc (immJ w)) (iRd w) := by
  unfold rvExec
  rw [hop]
  rfl

theorem scalarExec_addi {t : Mach} {c w : Nat} (io : CspIo) (hop : iOp w = 0x13) (hf3 : iF3 w = 0) : scalarExec io t c w 4 false =
    some (.done (retire (putXr t c (iRd w) (add64 (getXr t c (iRs1 w)) (immI w) % 2 ^ 64)) c 4)) := by
  unfold scalarExec
  rw [usesFp_of_op (by rw [hop]; decide), if_neg (by simp), rvExec_addi hop hf3]
  rfl

theorem scalarExec_jal {t : Mach} {c w : Nat} (io : CspIo) (hop : iOp w = 0x6F) : scalarExec io t c w 4 false =
    some (.done (setPc (putXr (retire t c 4) c (iRd w) ((getCore t c).pc + 4).toNat) c (add64 (getCore t c).pc.toNat (immJ w)))) := by
  unfold scalarExec
  rw [usesFp_of_op (by rw [hop]; decide), if_neg (by simp), rvExec_jal hop]
  rfl

/-! ### Cores execute -/

section
variable {s : State} {c : CoreNo}

theorem ends_coreInstruction_still (h : (getCore s.mach c).released = false ∨ (getCore s.mach c).halted = true) :
    Ends (.coreInstruction c) s (fun m => m = s.mach) := by
  refine ⟨_, rfl, ?_⟩
  show hartStep cspWrite s.mach c none = s.mach
  unfold hartStep
  exact if_pos (h.imp_right Or.inl)

theorem ends_addi {w : Nat} {t : Mach} (h : HartOne s.mach c w t) (hop : iOp w = 0x13) (hf3 : iF3 w = 0) :
    Ends (.coreInstruction c) s (fun m => m.mem = t.mem ∧ m.loft = t.loft ∧ m.bays = t.bays ∧ m.held = t.held ∧
      (getCore m c).pc = (getCore t c).pc + 4 ∧ getXr m c 0 = 0 ∧
      ∀ r, getXr m c r = if r = iRd w ∧ r ≠ 0 then add64 (getXr t c (iRs1 w)) (immI w) % 2 ^ 64 else getXr t c r) := by
  have hkeep {β : Type} {g : Mach → β} (hg : OffHart g) (u : Mach) (rd v : Nat) : g (tickCount (retire (putXr t c rd v) c 4) c u) = g t :=
    (hg.tickCount _ _ _).trans ((hg.retire _ _ _).trans (hg.putXr _ _ _ _))
  refine ⟨_, rfl, ?_⟩
  dsimp only
  rw [show coreInstruction s.mach c = _ from hartStep_of_done h none (scalarExec_addi cspWrite hop hf3)]
  refine ⟨hkeep offHart_mem _ _ _, hkeep offHart_loft _ _ _, hkeep offHart_bays _ _ _, hkeep offHart_held _ _ _, ?_, getXr_zero _ _, fun r => ?_⟩
  · rw [core_tickCount (g := Core.pc) fun _ _ => rfl, getCore_retire]
    dsimp only
    rw [pc_putXr]
    rfl
  · rw [getXr_of_x (core_tickCount (g := Core.x) (fun _ _ => rfl) _ c t), getXr_retire, getXr_putXr, Nat.mod_mod]

theorem ends_jal {w : Nat} {t : Mach} (h : HartOne s.mach c w t) (hop : iOp w = 0x6F) :
    Ends (.coreInstruction c) s (fun m => m.mem = t.mem ∧ m.loft = t.loft ∧ m.bays = t.bays ∧ m.held = t.held ∧
      (getCore m c).pc = BitVec.ofNat 64 (add64 (getCore t c).pc.toNat (immJ w)) ∧
      ∀ r, getXr m c r = if r = iRd w ∧ r ≠ 0 then ((getCore t c).pc + 4).toNat else getXr t c r) := by
  have hkeep {β : Type} {g : Mach → β} (hg : OffHart g) (u : Mach) (rd v p : Nat) :
      g (tickCount (setPc (putXr (retire t c 4) c rd v) c p) c u) = g t :=
    (hg.tickCount _ _ _).trans ((hg.setPc _ _ _).trans ((hg.putXr _ _ _ _).trans (hg.retire _ _ _)))
  refine ⟨_, rfl, ?_⟩
  dsimp only
  rw [show coreInstruction s.mach c = _ from hartStep_of_done h none (scalarExec_jal cspWrite hop)]
  refine ⟨hkeep offHart_mem _ _ _ _, hkeep offHart_loft _ _ _ _, hkeep offHart_bays _ _ _ _, hkeep offHart_held _ _ _ _, ?_, fun r => ?_⟩
  · rw [core_tickCount (g := Core.pc) fun _ _ => rfl]
    unfold setPc
    rw [getCore_modCore_same]
  · rw [getXr_of_x (core_tickCount (g := Core.x) (fun _ _ => rfl) _ c t), getXr_setPc, getXr_putXr, getXr_retire,
      Nat.mod_eq_of_lt (BitVec.isLt _)]

end

/-- Settles O38. -/
theorem coresExecute : Obligations.CoresExecute :=
  ⟨fun _ _ h => ends_coreInstruction_still (Or.inl h), fun _ _ h => ends_coreInstruction_still (Or.inr h),
    fun _ _ _ _ h hop hf3 => ends_addi h hop hf3, fun _ _ _ _ h hop => ends_jal h hop⟩

end Sys2Proof.Machine
end

section
/-! Engine translation: lookups, walks, page faults and invalidation (R317, R318, R321, R322, R331 to R336). -/

namespace Sys2Proof.Machine

/-! ### Units and walker dies -/

theorem barnEtr_of_units {s t : Mach} (h : s.units = t.units) : s.barnEtr = t.barnEtr := by
  have e := congrArg Mach.barnEtr h
  exact e

theorem etrDie_of_units {s t : Mach} (h : s.units = t.units) (d : Nat) : getEtrDie s d = getEtrDie t d := by
  have e := congrArg (fun x => getEtrDie x d) h
  exact e

theorem unit_of_units {s t : Mach} (h : s.units = t.units) (u : Fin 76) : getEtr s u = getEtr t u := by
  by_cases hu : u.val < 72
  · exact etr_of_units h ⟨u, hu⟩
  · unfold getEtr
    rw [if_neg hu, if_neg hu, barnEtr_of_units h]

theorem getEtr_modEtr_unit (s : Mach) (u : Fin 76) (f : Etr → Etr) : getEtr (modEtr s u f) u = f (getEtr s u) := by
  by_cases hu : u.val < 72
  · exact getEtr_modEtr s ⟨u, hu⟩ f
  · unfold getEtr modEtr
    rw [if_neg hu, if_neg hu, if_neg hu]
    exact vget_vmod_same _ _ _ _ (by omega)

theorem getEtr_modEtr_other (s : Mach) {u v : Nat} (h : u ≠ v) (f : Etr → Etr) : getEtr (modEtr s v f) u = getEtr s u := by
  unfold getEtr modEtr
  by_cases hv : v < 72
  · rw [if_pos hv]
    by_cases hu : u < 72
    · rw [if_pos hu, if_pos hu]
      exact congrArg Bay.etr ((getBay_modBay s v u _).trans (if_neg fun e => h e.1))
    · rw [if_neg hu, if_neg hu]
      rfl
  · rw [if_neg hv]
    by_cases hu : u < 72
    · rw [if_pos hu, if_pos hu]
      rfl
    · rw [if_neg hu, if_neg hu]
      exact (vget_vmod _ _ _ _ _).trans (if_neg fun e => h (by omega))

theorem getEtrDie_modEtr (s : Mach) (u : Nat) (f : Etr → Etr) (d : Nat) : getEtrDie (modEtr s u f) d = getEtrDie s d := by
  unfold modEtr
  exact iteInduction (motive := fun m : Mach => getEtrDie m d = getEtrDie s d) (fun _ => rfl) fun _ => rfl

theorem csr_modEtr (s : Mach) (u : Nat) (f : Etr → Etr) : (modEtr s u f).csr = s.csr := by
  unfold modEtr
  exact iteInduction (motive := fun m : Mach => m.csr = s.csr) (fun _ => rfl) fun _ => rfl

theorem now_modEtr (s : Mach) (u : Nat) (f : Etr → Etr) : (modEtr s u f).now = s.now := by
  unfold modEtr
  exact iteInduction (motive := fun m : Mach => m.now = s.now) (fun _ => rfl) fun _ => rfl

section
variable (s : Mach) (d : Fin 10) (f : EtrDie → EtrDie)

theorem getEtrDie_modEtrDie : getEtrDie (modEtrDie s d f) d = f (getEtrDie s d) := vget_vmod_same _ _ _ _ d.isLt
theorem getEtr_modEtrDie (u : Nat) : getEtr (modEtrDie s d f) u = getEtr s u := rfl
theorem csr_modEtrDie (k : Nat) : (modEtrDie s k f).csr = s.csr := rfl
theorem mem_modEtrDie (k : Nat) : (modEtrDie s k f).mem = s.mem := rfl
theorem now_modEtrDie (k : Nat) : (modEtrDie s k f).now = s.now := rfl

end

theorem inCrop_of_csr {s t : Mach} (h : s.csr = t.csr) (tid va n : Nat) : inCrop s tid va n = inCrop t tid va n := by
  unfold inCrop tenValid rb rf
  simp only [rg_of_csr h]

theorem tenPid_of_csr {s t : Mach} (h : s.csr = t.csr) (tid : Nat) : tenPid s tid = tenPid t tid := by
  unfold tenPid tenValid rb rf
  simp only [rg_of_csr h]

/-! ### Answers and refusals -/

theorem units_etrRefuse (s : Mach) (u : Nat) (r : XReq) (code : Nat) : (etrRefuse s u r code).units = (xAnswer s u r code 0).units := by
  have hrec (t : Mach) (c e : Prop) [Decidable c] [Decidable e] (v w : Word) : (if c then if e then t
      else wr (recordFirst t .ETR_ERR u 0 v) .ETR_ERRVA u 0 w else t).units = t.units := by
    rw [apply_ite Mach.units, apply_ite Mach.units, units_wr, units_recordFirst, ite_self, ite_self]
  unfold etrRefuse
  dsimp only
  refine iteInduction (motive := fun m : Mach => m.units = (xAnswer s u r code 0).units) (fun _ => hrec _ _ _ _ _) fun _ => ?_
  refine iteInduction (motive := fun m : Mach => m.units = (xAnswer s u r code 0).units) (fun _ => ?_) fun _ => ?_
  · rw [units_raiseBay]
    exact hrec _ _ _ _ _
  · rw [units_raise]
    exact hrec _ _ _ _ _

/-- A part of the package that answers to requests leave: all that recording does not touch, with units' translations but without
their requests and answers. -/
structure OffAnswers {β : Type} (g : Mach → β) : Prop where
  of_units : ∀ {s t : Mach}, s.units = t.units → g s = g t
  modEtr : ∀ (s : Mach) (u : Nat) (f : Etr → Etr), (∀ x, (f x).tlb = x.tlb) → g (modEtr s u f) = g s

namespace OffAnswers
variable {β : Type} {g : Mach → β} (h : OffAnswers g)
include h

theorem xAnswer (s : Mach) (u : Nat) (r : XReq) (code pa : Nat) : g (xAnswer s u r code pa) = g s := h.modEtr s u _ fun _ => rfl

theorem etrRefuse (s : Mach) (u : Nat) (r : XReq) (code : Nat) : g (etrRefuse s u r code) = g s :=
  (h.of_units (units_etrRefuse s u r code)).trans (h.xAnswer s u r code 0)

theorem answerBy (s : Mach) (u : Nat) (e : TEnt) (r : XReq) : g (answerBy s u e r) = g s := by
  unfold Machine.answerBy
  exact iteInduction (motive := fun m : Mach => g m = g s) (fun _ => h.etrRefuse s u r 2) fun _ => h.xAnswer s u r 0 _

theorem endMiss (s : Mach) (u q t p : Nat) : g (endMiss s u q t p).2 = g s := h.modEtr s u _ fun _ => rfl

theorem refuseMiss (s : Mach) (u q t p code : Nat) : g (refuseMiss s u q t p code) = g s :=
  (foldS_keeps g _ _ _ fun x r => h.etrRefuse x u r code).trans (h.endMiss s u q t p)

theorem faultAbort (s : Mach) (d : Nat) (f : PFault) (code : Nat) : g (faultAbort s d f code) = g (dropFault s d f) :=
  foldS_keeps g _ _ _ fun _ u => foldS_keeps g _ _ _ fun v _ => h.refuseMiss v u _ _ _ code

theorem faultRetry (s : Mach) (d : Nat) (f : PFault) : g (faultRetry s d f) = g (dropFault s d f) :=
  foldS_keeps g _ _ _ fun t u => h.modEtr t u _ fun _ => rfl

end OffAnswers

theorem offAnswers_die (d : Nat) : OffAnswers (getEtrDie · d) := ⟨fun h => etrDie_of_units h d, fun s u f _ => getEtrDie_modEtr s u f d⟩
theorem offAnswers_mem : OffAnswers Mach.mem := ⟨mem_of_units, fun s u f _ => mem_modEtr s u f⟩
theorem offAnswers_tlb (u : Fin 76) : OffAnswers (fun m => (getEtr m u).tlb) := by
  refine ⟨fun h => congrArg Etr.tlb (unit_of_units h u), fun s v f hf => ?_⟩
  by_cases hv : u.val = v
  · subst hv
    rw [getEtr_modEtr_unit, hf]
  · rw [getEtr_modEtr_other s hv]

theorem getEtr_etrRefuse (s : Mach) (u : Fin 76) (r : XReq) (code : Nat) :
    getEtr (etrRefuse s u r code) u = { getEtr s u with ans := (getEtr s u).ans ++ [{ req := r, code := code, pa := 0 }] } :=
  (unit_of_units (units_etrRefuse s u r code) u).trans (getEtr_modEtr_unit s u _)

/-! ### Lookups (R317, R318) -/

section
variable {s : State} {u : Fin 76} {q : Fin 8} {r : XReq}

/-- The unit with its oldest request of a queue taken. -/
def tookReq (s : Mach) (u : Nat) (r : XReq) : Mach := modEtr s u (fun x => { x with reqs := x.reqs.erase r })

theorem getEtr_tookReq (s : Mach) (u : Fin 76) (r : XReq) :
    getEtr (tookReq s u r) u = { getEtr s u with reqs := (getEtr s u).reqs.erase r } := getEtr_modEtr_unit s u _

theorem ends_lookup_hit {k : Nat} {e : TEnt} (hreq : (getEtr s.mach u).reqs.find? (fun x => decide (x.queue = q.val)) = some r)
    (hcrop : inCrop s.mach r.tid r.va r.len = true) (hfind : tlbFind (getEtr s.mach u) r.tid r.va = some (k, e))
    (hright : e.rights &&& kindRight r.kind ≠ 0) :
    Ends (.translationLookup u q) s (fun m => m.mem = s.mach.mem ∧ (getEtr m u).reqs = (getEtr s.mach u).reqs.erase r ∧
      (getEtr m u).ans = (getEtr s.mach u).ans ++ [{ req := r, code := 0, pa := tePa e r.va }]) := by
  obtain ⟨t, ht⟩ : ∃ t, t = tookReq s.mach u r := ⟨_, rfl⟩
  obtain ⟨w, hw⟩ : ∃ w, w = modEtr t u (fun x => tlbTouch x k) := ⟨_, rfl⟩
  obtain ⟨c, hc⟩ : ∃ c, c = if u.val < 72 then bump w .ETR_HITS u 0 63 0 1 else w := ⟨_, rfl⟩
  have hcunits : c.units = w.units := by
    rw [hc, apply_ite Mach.units, units_bump, ite_self]
  have hunit : getEtr c u = tlbTouch { getEtr s.mach u with reqs := (getEtr s.mach u).reqs.erase r } k := by
    rw [unit_of_units hcunits, hw, getEtr_modEtr_unit, ht, getEtr_tookReq]
  have hmem : c.mem = s.mach.mem := by
    rw [mem_of_units hcunits, hw, mem_modEtr, ht]
    exact mem_modEtr _ _ _
  have hcrop' : inCrop t r.tid r.va r.len = true := by
    rw [ht]
    exact (inCrop_of_csr (csr_modEtr _ _ _) _ _ _).trans hcrop
  have hfind' : tlbFind (getEtr t u) r.tid r.va = some (k, e) := by
    rw [ht, getEtr_tookReq]
    exact hfind
  have heq : translationLookup s.mach u q = xAnswer c u r 0 (tePa e r.va) := by
    unfold translationLookup
    rw [hreq]
    dsimp only
    rw [show modEtr s.mach u (fun x => { x with reqs := x.reqs.erase r }) = t from ht.symm, if_neg (by simp [hcrop']), hfind']
    dsimp only
    rw [← hw, ← hc]
    unfold answerBy
    exact if_neg hright
  refine ⟨_, rfl, ?_⟩
  show (translationLookup s.mach u q).mem = _ ∧ _
  dsimp only
  rw [heq]
  have hans : getEtr (xAnswer c u r 0 (tePa e r.va)) u =
      { getEtr c u with ans := (getEtr c u).ans ++ [{ req := r, code := 0, pa := tePa e r.va }] } := getEtr_modEtr_unit c u _
  rw [hans, hunit]
  exact ⟨(offAnswers_mem.xAnswer _ _ _ _ _).trans hmem, rfl, rfl⟩

theorem ends_lookup_outside (hreq : (getEtr s.mach u).reqs.find? (fun x => decide (x.queue = q.val)) = some r)
    (hcrop : inCrop s.mach r.tid r.va r.len = false) :
    Ends (.translationLookup u q) s (fun m => m.mem = s.mach.mem ∧
      (getEtr m u).ans = (getEtr s.mach u).ans ++ [{ req := r, code := 1, pa := 0 }]) := by
  have hcrop' : inCrop (tookReq s.mach u r) r.tid r.va r.len = false := (inCrop_of_csr (csr_modEtr _ _ _) _ _ _).trans hcrop
  have heq : translationLookup s.mach u q = etrRefuse (tookReq s.mach u r) u r 1 := by
    unfold translationLookup
    rw [hreq]
    exact if_pos hcrop'
  refine ⟨_, rfl, ?_⟩
  dsimp only
  rw [show translationLookup s.mach u q = _ from heq, getEtr_etrRefuse, getEtr_tookReq]
  exact ⟨(offAnswers_mem.etrRefuse _ _ _ _).trans (mem_modEtr _ _ _), rfl⟩

end

/-! ### Walks (R321, R322) -/

theorem walkStart_of_die {s t : Mach} {d : Nat} (hcsr : s.csr = t.csr) (hwc : (getEtrDie s d).wc = (getEtrDie t d).wc) (tid va : Nat) :
    walkStart s d tid va = walkStart t d tid va := by
  have hroot : tenRoot s tid = tenRoot t tid := by
    unfold tenRoot tenValid rb rf
    simp only [rg_of_csr hcsr]
  unfold walkStart
  rw [hwc, hroot]

/-- The round-robin of a die moved on past a miss. -/
def EtrDie.turned (x : EtrDie) (u : Nat) (m : Miss) : EtrDie :=
  if m.queue < 2 then { x with rrA := (u % 12 + 1) % 12 } else { x with rrB := (u % 12 * 6 + (m.queue - 2) + 1) % 72 }

theorem wc_turned (x : EtrDie) (u : Nat) (m : Miss) : (x.turned u m).wc = x.wc := by
  unfold EtrDie.turned
  split <;> rfl

theorem walks_turned (x : EtrDie) (u : Nat) (m : Miss) : (x.turned u m).walks = x.walks := by
  unfold EtrDie.turned
  split <;> rfl

theorem ends_walk {s : State} {d : CompDie} {u : Nat} {x : Miss} {l a : Nat} (hfree : (getEtrDie s.mach d).walks.length < 16)
    (hpick : pickMiss s.mach d = some (u, x))
    (hstart : walkStart s.mach d x.tid (match x.reqs with | r :: _ => r.va | [] => x.page * 65536) = some (l, a)) :
    Ends (.walk (d.castLE (by decide))) s (fun m => m.csr = s.mach.csr ∧ m.mem = s.mach.mem ∧ (getEtrDie m d).walks =
      (getEtrDie s.mach d).walks ++
        [{ unit := u, queue := x.queue, tid := x.tid, page := x.page, level := l, entry := a, start := s.mach.now }]) := by
  obtain ⟨k, hk⟩ : ∃ k : Fin 10, k = d.castLE (by decide) := ⟨_, rfl⟩
  have hkd : d.val = k.val := by rw [hk]; rfl
  rw [hkd] at hfree hpick hstart
  obtain ⟨t, ht⟩ : ∃ t, t = modEtrDie s.mach k (fun y => y.turned u x) := ⟨_, rfl⟩
  obtain ⟨w, hw⟩ : ∃ w, w = modEtr t u (fun y => { y with misses := y.misses.map (fun n => if n = x then { n with walking := true } else n) }) :=
    ⟨_, rfl⟩
  have htdie : getEtrDie t k = (getEtrDie s.mach k).turned u x := by
    rw [ht, getEtrDie_modEtrDie]
  have htcsr : t.csr = s.mach.csr := by rw [ht, csr_modEtrDie]
  have hnow : t.now = s.mach.now := by rw [ht, now_modEtrDie]
  have hstart' : walkStart t k x.tid (match x.reqs with | r :: _ => r.va | [] => x.page * 65536) = some (l, a) := by
    rw [walkStart_of_die htcsr (by rw [htdie, wc_turned]), hstart]
  have heq : walk s.mach k = modEtrDie w k (fun y => { y with walks := y.walks ++
      [{ unit := u, queue := x.queue, tid := x.tid, page := x.page, level := l, entry := a, start := s.mach.now }] }) := by
    unfold walk
    dsimp only
    rw [if_pos (by omega), if_pos hfree, hpick]
    dsimp only
    rw [show modEtrDie s.mach k (fun y => if x.queue < 2 then { y with rrA := (u % 12 + 1) % 12 }
      else { y with rrB := (u % 12 * 6 + (x.queue - 2) + 1) % 72 }) = t from ht.symm]
    erw [hstart']
    dsimp only
    rw [← hw, hw, now_modEtr, hnow]
  refine ⟨_, rfl, ?_⟩
  rw [← hk, hkd]
  dsimp only
  rw [heq]
  refine ⟨?_, ?_, ?_⟩
  · rw [csr_modEtrDie, hw, csr_modEtr, htcsr]
  · rw [mem_modEtrDie, hw, mem_modEtr, ht, mem_modEtrDie]
  · rw [getEtrDie_modEtrDie, hw, getEtrDie_modEtr, htdie, walks_turned]

/-! ### A walk's read returns (R322 to R324) -/

/-- A walk off its die. -/
def walkOff (s : Mach) (d : Nat) (w : Walk) : Mach := modEtrDie s d (fun x => { x with walks := x.walks.erase w })

theorem units_endWalk (s : Mach) (d : Nat) (w : Walk) : (endWalk s d w).units = (walkOff s d w).units := by
  unfold endWalk
  refine iteInduction (motive := fun m : Mach => m.units = (walkOff s d w).units) (fun _ => ?_) fun _ => rfl
  dsimp only
  rw [apply_ite Mach.units, units_wf, ite_self, units_bump]
  rfl

theorem getEtrDie_endWalk (s : Mach) (d : Fin 10) (w : Walk) :
    getEtrDie (endWalk s d w) d = { getEtrDie s d with walks := (getEtrDie s d).walks.erase w } :=
  (etrDie_of_units (units_endWalk s d w) d).trans (getEtrDie_modEtrDie s d _)

theorem barnEtr_walkOff (s : Mach) (d u : Nat) (w : Walk) : getEtr (walkOff s d w) u = getEtr s u := rfl

theorem getEtr_of_units_any {s t : Mach} (h : s.units = t.units) (u : Nat) : getEtr s u = getEtr t u := by
  by_cases hu : u < 76
  · exact unit_of_units h ⟨u, hu⟩
  · unfold getEtr vget
    rw [if_neg (by omega), if_neg (by omega), dif_neg (by omega), dif_neg (by omega)]

theorem walkReqs_endWalk (s : Mach) (d : Nat) (w : Walk) : walkReqs (endWalk s d w) w = walkReqs s w := by
  unfold walkReqs
  rw [getEtr_of_units_any (units_endWalk s d w), barnEtr_walkOff]

theorem rg_endWalk {n : RegName} {u i d : Nat} (h1 : RegRef.addr ⟨n, u, i⟩ ≠ RegRef.addr ⟨.ETR_WALKS, d, 0⟩)
    (h2 : RegRef.addr ⟨n, u, i⟩ ≠ RegRef.addr ⟨.ETR_WALKMAX, d, 0⟩) (s : Mach) (w : Walk) : rg (endWalk s d w) n u i = rg s n u i := by
  have hcount (k : Nat) : rg (bump (walkOff s d w) .ETR_WALKS d 0 63 0 k) n u i = rg s n u i :=
    (rg_wr_other _ _ _ _ _ _ _ _ h1).trans (rg_of_csr (csr_modEtrDie s _ d) _ _ _)
  unfold endWalk
  refine iteInduction (motive := fun m : Mach => rg m n u i = rg s n u i) (fun _ => ?_) fun _ => rg_of_csr (csr_modEtrDie s _ d) _ _ _
  exact iteInduction (motive := fun m : Mach => rg m n u i = rg s n u i) (fun _ => (rg_wf_apart h2 _ _ _ _).trans (hcount 1)) fun _ => hcount 1

theorem compDieId_cases (d : Nat) : compDieId d = 4 + d ∨ compDieId d = 0x14 + (d - 3) := by
  unfold compDieId
  split <;> omega

/-- Tenants' records lie apart from the counts of walks. -/
theorem tenPid_endWalk (s : Mach) (d : Nat) (w : Walk) (t : Nat) : tenPid (endWalk s d w) t = tenPid s t := by
  have hrg : rg (endWalk s d w) .PRT_TEN_A 0 t = rg s .PRT_TEN_A 0 t := by
    refine rg_endWalk ?_ ?_ s w <;>
    · simp only [RegRef.addr, RegName.info, Blk.base, dieBase]
      omega
  unfold tenPid tenValid rb rf
  rw [hrg]

theorem tenPid_lt (s : Mach) (t : Nat) : (tenPid s t).getD 0 < 16 := by
  unfold tenPid
  split
  · exact Nat.mod_lt _ (by decide)
  · decide

theorem pfRing_endWalk (s : Mach) {d i : Nat} (w : Walk) (hi : i < 16) :
    rb (endWalk s d w) .ETR_PFRING 0 i 63 = rb s .ETR_PFRING 0 i 63 := by
  have hdie := compDieId_cases d
  have hrg : rg (endWalk s d w) .ETR_PFRING 0 i = rg s .ETR_PFRING 0 i := by
    have h0 : compDieId 0 = 4 := rfl
    refine rg_endWalk ?_ ?_ s w <;>
    · simp only [RegRef.addr, RegName.info, Blk.base, dieBase, h0]
      omega
  unfold rb
  rw [hrg]

section
variable {s : State} {d : Fin 10} {w : Walk} {bs : List Byte} {t : Mach}

/-- The page of a walk as its first request has it. -/
def walkVa (s : Mach) (w : Walk) : Nat := match walkReqs s w with | r :: _ => r.va | [] => w.page * 65536

theorem ends_walkRead_leaf {e : Word} (hw : (getEtrDie s.mach d).walks = [w]) (hu : w.unit < 76)
    (hread : readAs s.mach (walkerMid d) (tenPid s.mach w.tid) w.tid w.entry 8 = (some (bs, false), t))
    (ht : (getEtrDie t d).walks = [w]) (he : BitVec.ofNat 64 (ofBytes bs) = e) (h0 : bit e 0 = true) (h1 : bit e 1 = true)
    (hgood : badEntry w.level e = false) :
    Ends (.walkReadReturn d 0) s (fun m => (getEtrDie m d).walks = [] ∧ ∃ x ∈ (getEtr m w.unit).tlb,
      x.2 = leafEnt w.level w.tid (walkVa s.mach w) e) := by
  obtain ⟨y, hy⟩ : ∃ y, y = leafEnt w.level w.tid (walkVa s.mach w) e := ⟨_, rfl⟩
  obtain ⟨p, hp⟩ : ∃ p, p = modEtr (endWalk t d w) w.unit (fun x => tlbPut w.unit x y) := ⟨_, rfl⟩
  have heq : walkReadReturn s.mach d 0 = foldS (endMiss p w.unit w.queue w.tid w.page).1 (fun u r => answerBy u w.unit y r)
      (endMiss p w.unit w.queue w.tid w.page).2 := by
    unfold walkReadReturn
    rw [hw]
    dsimp only [List.getElem?_cons_zero]
    rw [hread]
    dsimp only
    rw [if_neg Bool.false_ne_true, he, if_neg (by simp [h0]), if_neg (by simp [hgood]), if_pos h1, hp, hy]
    rfl
  have hkeep {β : Type} {g : Mach → β} (hg : OffAnswers g) : g (walkReadReturn s.mach d 0) = g p := by
    rw [heq]
    exact (foldS_keeps g _ _ _ fun u r => hg.answerBy u _ _ _).trans (hg.endMiss p _ _ _ _)
  refine ⟨_, rfl, ?_, ?_⟩
  · show (getEtrDie (walkReadReturn s.mach d 0) d).walks = []
    rw [hkeep (offAnswers_die d), hp, getEtrDie_modEtr, getEtrDie_endWalk]
    dsimp only
    rw [ht, List.erase_cons_head]
  · show ∃ x ∈ (getEtr (walkReadReturn s.mach d 0) w.unit).tlb, x.2 = leafEnt w.level w.tid (walkVa s.mach w) e
    rw [hkeep (offAnswers_tlb ⟨w.unit, hu⟩)]
    dsimp only
    rw [hp, getEtr_modEtr_unit _ ⟨w.unit, hu⟩, ← hy]
    unfold tlbPut
    exact ⟨_, List.mem_cons_self, rfl⟩

/-- The fault of a walk that found its slot. -/
def newFault (s : Mach) (w : Walk) (r : XReq) (gen : Nat) : PFault :=
  { slot := 0, gen := gen, unit := w.unit, req := r, level := w.level, pte := w.entry,
    stamp := count s % 2 ^ 32, merged := sat 16 ((walkReqs s w).length - 1), written := none, waited := false }

theorem firstSlot_nil : (List.range 64).find? (fun k => ([] : List PFault).all (fun f => decide (f.slot ≠ k))) = some 0 := rfl

/-- A page fault on a die without faults takes slot 0. -/
theorem die_pageFault {u : Mach} {r : XReq} {l : List XReq} (hfaults : (getEtrDie u d).faults = []) (hreqs : walkReqs u w = r :: l)
    (hring : rb u .ETR_PFRING 0 ((tenPid u w.tid).getD 0) 63 = true) : (getEtrDie (pageFault u d w) d).walks = (getEtrDie u d).walks ∧
      (getEtrDie (pageFault u d w) d).faults = [newFault u w r (smapGet 0 (getEtrDie u d).gens 0)] := by
  obtain ⟨v, hv⟩ : ∃ v, v = modEtrDie u d (fun x => { x with
    faults := x.faults ++ [newFault u w r (smapGet 0 (getEtrDie u d).gens 0)],
    gens := smapPut 0 x.gens 0 ((smapGet 0 (getEtrDie u d).gens 0 + 1) % 1024) }) := ⟨_, rfl⟩
  obtain ⟨f, hf⟩ : ∃ f : Etr → Etr, pageFault u d w = modEtr (if w.unit < 72 then bump v .ETR_FAULTS w.unit 0 63 32 1 else v) w.unit f := by
    unfold pageFault
    dsimp only
    rw [hfaults, List.find?_nil, firstSlot_nil]
    dsimp only
    rw [if_neg (by simp [hring]), hv]
    unfold newFault
    rw [hreqs]
    exact ⟨_, rfl⟩
  have hdie : getEtrDie (pageFault u d w) d = getEtrDie v d := by
    rw [hf, getEtrDie_modEtr]
    refine etrDie_of_units ?_ d
    rw [apply_ite Mach.units, units_bump, ite_self]
  rw [hdie, hv, getEtrDie_modEtrDie]
  dsimp only
  rw [hfaults]
  exact ⟨rfl, rfl⟩

theorem ends_walkRead_fault {r : XReq} {l : List XReq} (hw : (getEtrDie s.mach d).walks = [w])
    (hread : readAs s.mach (walkerMid d) (tenPid s.mach w.tid) w.tid w.entry 8 = (some (bs, false), t))
    (h0 : bit (BitVec.ofNat 64 (ofBytes bs)) 0 = false) (ht : (getEtrDie t d).walks = [w]) (hfaults : (getEtrDie t d).faults = [])
    (hreqs : walkReqs t w = r :: l) (hring : rb t .ETR_PFRING 0 ((tenPid t w.tid).getD 0) 63 = true) :
    Ends (.walkReadReturn d 0) s (fun m => (getEtrDie m d).walks = [] ∧ ∃ f, (getEtrDie m d).faults = [f] ∧ f.slot = 0 ∧
      f.req = r ∧ f.level = w.level ∧ f.pte = w.entry ∧ f.written = none) := by
  have heq : walkReadReturn s.mach d 0 = pageFault (endWalk t d w) d w := by
    unfold walkReadReturn
    rw [hw]
    dsimp only [List.getElem?_cons_zero]
    rw [hread]
    dsimp only
    rw [if_neg Bool.false_ne_true, if_pos h0]
  obtain ⟨hwalks, hnew⟩ := die_pageFault (d := d) (u := endWalk t d w) (w := w) (r := r) (l := l) (by rw [getEtrDie_endWalk, hfaults])
    (by rw [walkReqs_endWalk, hreqs]) (by rw [tenPid_endWalk, pfRing_endWalk _ _ (tenPid_lt _ _), hring])
  refine ⟨_, rfl, ?_⟩
  show (getEtrDie (walkReadReturn s.mach d 0) d).walks = [] ∧ _
  dsimp only
  rw [show walkReadReturn s.mach d (0 : Nat) = _ from heq, hwalks, hnew, getEtrDie_endWalk]
  dsimp only
  rw [ht, List.erase_cons_head]
  exact ⟨rfl, _, rfl, rfl, rfl, rfl, rfl, rfl⟩

end

/-! ### Fault records (R334) -/

theorem offHome_etrDie (d : Nat) : OffHome (getEtrDie · d) where
  csr _ _ := rfl
  wire _ _ _ := rfl
  now _ _ := rfl
  events _ _ := rfl
  memory _ _ _ := rfl
  memPois _ _ := rfl
  held _ _ := rfl
  dir _ _ := rfl
  cores _ _ := rfl
  shfResv _ _ := rfl
  loft _ _ := rfl
  loftPois _ _ := rfl
  move _ _ _ _ _ := rfl
  trcWire _ _ := rfl
  fireIf s b src c := by
    unfold fireIf
    split
    · rfl
    · dsimp only
      split <;> rfl

theorem getEtrDie_putItem (s : Mach) (r : Nat) (x : Line) (d : Nat) : getEtrDie (putItem s r x) d = getEtrDie s d := by
  unfold putItem
  exact (etrDie_of_units (units_advancePidx _ _ _) d).trans ((offHome_etrDie d).homeWrite s _ _ _ _)

theorem ends_faultRecordWrite {s : State} {d : Fin 10} {f : PFault} {g : Nat} (hf : (getEtrDie s.mach d).faults = [f]) (hw : f.written = none)
    (hg : rf s.mach .ETR_PFRING 0 ((tenPid s.mach f.req.tid).getD 0) 11 0 = g) (htake : takesItem s.mach g 4 = true)
    (hroom : ringOcc s.mach g < ringSize s.mach g) :
    Ends (.faultRecordWrite d) s (fun m => (getEtrDie m d).faults.map (fun q => (q.slot, q.written.isSome)) = [(f.slot, true)]) := by
  obtain ⟨t, ht⟩ : ∃ t, t = putItem s.mach g (BitVec.ofNat 512 (faultItem s.mach d f).toNat) := ⟨_, rfl⟩
  have hfirst : (getEtrDie s.mach d).faults.find? (fun f => f.written.isNone) = some f := by
    rw [hf, List.find?_cons_of_pos (by rw [hw]; rfl)]
  have heq : faultRecordWrite s.mach d = modEtrDie t d (fun x => { x with faults := x.faults.map (fun q =>
      if q.slot = f.slot then { q with written := some (frameNo t) } else q) }) := by
    unfold faultRecordWrite
    rw [hfirst]
    dsimp only
    rw [hg, if_neg (by simp [htake]), if_neg (by omega), ← ht]
  refine ⟨_, rfl, ?_⟩
  dsimp only
  rw [show faultRecordWrite s.mach d = _ from heq, getEtrDie_modEtrDie, ht, getEtrDie_putItem, hf]
  dsimp only
  rw [List.map_map, List.map_cons, List.map_nil, Function.comp_apply, if_pos rfl]
  rfl

/-! ### Answers and time-outs of faults (R335, R336) -/

theorem etrDie_zero {d : Nat} (h : ¬ d < 10) (s : Mach) : getEtrDie s d = EtrDie.zero := dif_neg h

theorem faults_dropFault (s : Mach) (d : Nat) (f : PFault) :
    (getEtrDie (dropFault s d f) d).faults = (getEtrDie s d).faults.filter (fun g => decide (g.slot ≠ f.slot)) := by
  by_cases hd : d < 10
  · exact congrArg EtrDie.faults (getEtrDie_modEtrDie s ⟨d, hd⟩ _)
  · rw [etrDie_zero hd, etrDie_zero hd]
    rfl

theorem getEtrDie_cspOut (m : Mach) (x : Nat × Word) (d : Nat) : getEtrDie { m with cspOut := x } d = getEtrDie m d := rfl

section
variable {s : State} {mid : Mid} {d : CompDie} {v : Word}

theorem etrw_placed {n : RegName} (hb : n.info.blk = .etrw) (hp : regPresent n d = true) (hc : 0 < n.info.count) :
    RegRef.placed { name := n, unit := d, idx := 0 } = true := by
  refine placed_of ?_ hp hc
  rw [hb]
  exact decide_eq_true d.isLt

theorem ends_pfresp {c : Instr} {k : Nat} {f : PFault} {m : Mach} (hc : exec c s = onMach s (fun s => writeReg s mid .ETR_PFRESP d 0 v))
    (hans : answered s.mach mid v = some (k, f)) (hact : fld v 18 17 < 2)
    (hm : (if fld v 18 17 = 0 then faultRetry s.mach k f else faultAbort s.mach k f 7) = m)
    (hmem : m.mem = (dropFault s.mach k f).mem) (hdie : getEtrDie m k = getEtrDie (dropFault s.mach k f) k) :
    CspEnds c s mid .ETR_PFRESP d 0 v (fun t m => m.mem = t.mem ∧
      (getEtrDie m k).faults = (getEtrDie t k).faults.filter (fun g => decide (g.slot ≠ f.slot))) := by
  have hwrite : regWrite s.mach mid { name := .ETR_PFRESP, unit := d, idx := 0 } false v = m := by
    show onPfresp s.mach mid v = m
    unfold onPfresp
    dsimp only
    rw [if_neg (by omega), hans]
    exact hm
  refine cspEnds_outside (etrw_placed rfl rfl (by decide)) rfl hc hwrite ?_
  rw [getEtrDie_cspOut m, hdie, faults_dropFault]
  exact ⟨hmem, rfl⟩

theorem ends_pfresp_retry {k : Nat} {f : PFault} (hans : answered s.mach mid v = some (k, f)) (hact : fld v 18 17 = 0) :
    CspEnds (.etrPfrespRetry mid d v) s mid .ETR_PFRESP d 0 v (fun t m => m.mem = t.mem ∧
      (getEtrDie m k).faults = (getEtrDie t k).faults.filter (fun g => decide (g.slot ≠ f.slot))) :=
  ends_pfresp rfl hans (by omega) (if_pos hact) (offAnswers_mem.faultRetry _ _ _) ((offAnswers_die k).faultRetry _ _ _)

theorem ends_pfresp_abort {k : Nat} {f : PFault} (hans : answered s.mach mid v = some (k, f)) (hact : fld v 18 17 = 1) :
    CspEnds (.etrPfrespAbort mid d v) s mid .ETR_PFRESP d 0 v (fun t m => m.mem = t.mem ∧
      (getEtrDie m k).faults = (getEtrDie t k).faults.filter (fun g => decide (g.slot ≠ f.slot))) :=
  ends_pfresp rfl hans (by omega) (if_neg (by omega)) (offAnswers_mem.faultAbort _ _ _ _) ((offAnswers_die k).faultAbort _ _ _ _)

end

theorem now_etrRefuse (s : Mach) (u : Nat) (r : XReq) (code : Nat) : (etrRefuse s u r code).now = s.now := by
  have hrec (t : Mach) (c e : Prop) [Decidable c] [Decidable e] (v w : Word) : (if c then if e then t
      else wr (recordFirst t .ETR_ERR u 0 v) .ETR_ERRVA u 0 w else t).now = t.now := by
    rw [apply_ite Mach.now, apply_ite Mach.now, wr_now, now_recordFirst, ite_self, ite_self]
  have hans : (xAnswer s u r code 0).now = s.now := now_modEtr s u _
  unfold etrRefuse
  dsimp only
  refine iteInduction (motive := fun m : Mach => m.now = s.now) (fun _ => (hrec _ _ _ _ _).trans hans) fun _ => ?_
  refine iteInduction (motive := fun m : Mach => m.now = s.now) (fun _ => ?_) fun _ => ?_
  · exact (now_raiseBay _ _ _).trans ((hrec _ _ _ _ _).trans hans)
  · exact (now_raise _ _).trans ((hrec _ _ _ _ _).trans hans)

theorem now_faultAbort (s : Mach) (d : Nat) (f : PFault) (code : Nat) : (faultAbort s d f code).now = s.now := by
  refine (foldS_keeps Mach.now _ _ _ fun _ u => foldS_keeps Mach.now _ _ _ fun v m => ?_).trans (now_modEtrDie s _ d)
  exact (foldS_keeps Mach.now _ _ _ fun x r => now_etrRefuse x u r code).trans (now_modEtr v u _)

theorem ends_pfTimeout {s : State} {d : Fin 10} {i : Fin 64} {f : PFault} {w n : Nat}
    (hf : (getEtrDie s.mach d).faults.find? (fun g => decide (g.slot = i.val)) = some f) (hw : f.written = some w)
    (hn : rf s.mach .ETR_PFCFG (if d.val < 6 then d.val else 0) 0 15 0 = n) (h0 : n ≠ 0) :
    Ends (.pfTimeout d i) s (fun m => m.mem = s.mach.mem ∧ tickOf s.mach ((w + n) * 65536) ≤ m.now ∧
      (getEtrDie m d).faults = (getEtrDie s.mach d).faults.filter (fun g => decide (g.slot ≠ f.slot))) := by
  obtain ⟨t, ht⟩ : ∃ t, t = advanceTo s.mach (tickOf s.mach ((w + n) * 65536)) := ⟨_, rfl⟩
  obtain ⟨c, hc⟩ : ∃ c, c = bump t .ETR_PFSTAT 0 0 47 32 1 := ⟨_, rfl⟩
  have hunits : c.units = s.mach.units := by rw [hc, units_bump, ht, units_advanceTo]
  have heq : pfTimeout s.mach d i = faultAbort c d f 8 := by
    unfold pfTimeout
    rw [hf]
    dsimp only
    rw [hw]
    dsimp only
    rw [hn, if_neg h0, ← ht, ← hc]
  refine ⟨_, rfl, ?_⟩
  dsimp only
  rw [show pfTimeout s.mach d i = _ from heq]
  refine ⟨?_, ?_, ?_⟩
  · exact (offAnswers_mem.faultAbort _ _ _ _).trans ((mem_modEtrDie c _ d).trans (mem_of_units hunits))
  · rw [now_faultAbort, hc, now_bump, ht]
    exact Nat.le_max_right _ _
  · rw [(offAnswers_die d).faultAbort, faults_dropFault, etrDie_of_units hunits]

/-! ### Invalidation (R331, R332) -/

/-- A unit without what an invalidation covers. -/
def Etr.uncovered (cov : Nat → Nat → Nat → Bool) (x : Etr) : Etr :=
  let back := x.ans.filter (fun a => decide (a.code = 0) && cov a.req.tid a.req.va a.req.len)
  { x with tlb := x.tlb.filter (fun p => !cov p.2.tid (p.2.vpn * 2 ^ teLog p.2.size) (2 ^ teLog p.2.size)),
           ans := x.ans.filter (fun a => !(decide (a.code = 0) && cov a.req.tid a.req.va a.req.len)),
           reqs := back.map XAns.req ++ x.reqs,
           misses := x.misses.map (fun m => if cov m.tid (m.page * 65536) 65536 then { m with walking := false } else m) }

/-- A move without the translations that an invalidation covers. -/
def Move.uncovered (cov : Nat → Nat → Nat → Bool) (m : Move) : Move :=
  let keep := fun (a : XAns) => !cov a.req.tid a.req.va a.req.len
  { m with xl := m.xl.filter keep, asked := if m.xl.all keep then m.asked else [] }

/-- The moves of all bays and barns so. -/
def cutMoves (cov : Nat → Nat → Nat → Bool) (s : Mach) : Mach :=
  { s with bays := s.bays.map (fun x => { x with mov := { x.mov with moves := x.mov.moves.map (Move.uncovered cov) } }),
           barnMov := s.barnMov.map (fun x => { x with moves := x.moves.map (Move.uncovered cov) }) }

/-- Units without what is covered, in a row. -/
def cutUnits (cov : Nat → Nat → Nat → Bool) (l : List Nat) (s : Mach) : Mach := foldS l (fun t u => modEtr t u (Etr.uncovered cov)) s

/-- The walks and the walk caches of the dies so. -/
def cutDies (cov : Nat → Nat → Nat → Bool) (s : Mach) : Mach :=
  foldS (List.range 10) (fun t k => modEtrDie t k (fun x =>
    { x with wc := x.wc.filter (fun e => !cov e.tid (e.va * 2 ^ lvlShift e.level) (2 ^ lvlShift e.level)),
             walks := x.walks.filter (fun w => !cov w.tid (w.page * 65536) 65536) })) s

theorem mem_cutMoves (cov : Nat → Nat → Nat → Bool) (s : Mach) : (cutMoves cov s).mem = s.mem := rfl

theorem getEtr_cutMoves (cov : Nat → Nat → Nat → Bool) (s : Mach) (u : Nat) : getEtr (cutMoves cov s) u = getEtr s u := by
  have hbay : u < 72 → (getBay (cutMoves cov s) u).etr = (getBay s u).etr := fun hu => by
    unfold getBay vget cutMoves
    simp only [hu, dif_pos, Vector.getElem_map]
  have hbarn : (cutMoves cov s).barnEtr = s.barnEtr := rfl
  unfold getEtr
  by_cases hu : u < 72
  · rw [if_pos hu, if_pos hu, hbay hu]
  · rw [if_neg hu, if_neg hu, hbarn]

theorem mem_cutUnits (cov : Nat → Nat → Nat → Bool) (l : List Nat) (s : Mach) : (cutUnits cov l s).mem = s.mem :=
  foldS_keeps Mach.mem _ _ _ fun t u => mem_modEtr t u _

theorem mem_cutDies (cov : Nat → Nat → Nat → Bool) (s : Mach) : (cutDies cov s).mem = s.mem :=
  foldS_keeps Mach.mem _ _ _ fun t k => mem_modEtrDie t _ k

theorem getEtr_cutDies (cov : Nat → Nat → Nat → Bool) (s : Mach) (u : Nat) : getEtr (cutDies cov s) u = getEtr s u :=
  foldS_keeps (getEtr · u) _ _ _ fun _ _ => rfl

/-- A translation that stays is not covered, where its unit is of the row. -/
theorem tlb_cutUnits {cov : Nat → Nat → Nat → Bool} {u : Fin 76} {p : Nat × TEnt} (l : List Nat) (s : Mach)
    (h : p ∈ (getEtr (cutUnits cov l s) u).tlb) : p ∈ (getEtr s u).tlb ∧
      (u.val ∈ l → cov p.2.tid (p.2.vpn * 2 ^ teLog p.2.size) (2 ^ teLog p.2.size) = false) := by
  induction l generalizing s with
  | nil => exact ⟨h, fun hu => absurd hu List.not_mem_nil⟩
  | cons k l ih =>
    have hcons : cutUnits cov (k :: l) s = cutUnits cov l (modEtr s k (Etr.uncovered cov)) := rfl
    rw [hcons] at h
    obtain ⟨hin, hcov⟩ := ih _ h
    by_cases hk : u.val = k
    · subst hk
      rw [getEtr_modEtr_unit] at hin
      obtain ⟨hin', hkeep⟩ := List.mem_filter.1 hin
      exact ⟨hin', fun _ => by simpa using hkeep⟩
    · rw [getEtr_modEtr_other s hk] at hin
      exact ⟨hin, fun hu => hcov ((List.mem_cons.1 hu).resolve_left hk)⟩

section
variable {s : State} {mid : Mid} {d : CompDie} {v : Word}

theorem mem_cspOut (m : Mach) (x : Nat × Word) : Mach.mem { m with cspOut := x } = m.mem := rfl
theorem getEtr_cspOut (m : Mach) (x : Nat × Word) (u : Nat) : getEtr { m with cspOut := x } u = getEtr m u := rfl

theorem ends_invalidate {c : Instr} {scope : Nat} {covers : Word → Nat → TEnt → Prop} (hscope : scope < 3)
    (hcovers : ∀ v lo e, covers v lo e → invCovers scope (fld v 57 48) lo ((if fld v 15 0 = 0 then 65536 else fld v 15 0) * 65536) e.tid
      (e.vpn * 2 ^ teLog e.size) (2 ^ teLog e.size) = true)
    (hc : exec c s = onMach s (fun s => writeReg s mid .ETR_INV_CTL d 0 v)) (hbusy : rb s.mach .ETR_INV_CTL d 0 63 = false)
    (h62 : bit v 62 = true) (hv : fld v 61 60 = scope) :
    CspEnds c s mid .ETR_INV_CTL d 0 v (fun t m => m.mem = t.mem ∧ rb m .ETR_INV_CTL d 0 63 = true ∧
      ∀ (u : Fin 76) (p : Nat × TEnt), p ∈ (getEtr m u).tlb → p ∈ (getEtr t u).tlb ∧
        ¬ covers v (rf t .ETR_INV_ADDR d 0 47 16 * 65536) p.2) := by
  obtain ⟨t, ht⟩ : ∃ t, t = wr s.mach .ETR_INV_CTL d 0 (packFlds [(61, 60, fld v 61 60), (57, 48, fld v 57 48), (15, 0, fld v 15 0)]) := ⟨_, rfl⟩
  obtain ⟨cov, hcov⟩ : ∃ cov, cov = invCovers scope (fld v 57 48) (rf s.mach .ETR_INV_ADDR d 0 47 16 * 65536)
      ((if fld v 15 0 = 0 then 65536 else fld v 15 0) * 65536) := ⟨_, rfl⟩
  have haddr : rf t .ETR_INV_ADDR d 0 47 16 = rf s.mach .ETR_INV_ADDR d 0 47 16 := by
    rw [ht]
    exact congrArg (fld · 47 16) (rg_wr_other _ _ _ _ _ _ _ _ (addr_ne_of_off .ETR_INV_ADDR .ETR_INV_CTL rfl (by decide) d))
  obtain ⟨m, hm⟩ : ∃ m, m = cutDies cov (cutMoves cov (cutUnits cov (List.range 76) t)) := ⟨_, rfl⟩
  have hwrite : regWrite s.mach mid { name := .ETR_INV_CTL, unit := d, idx := 0 } false v = wb m .ETR_INV_CTL d 0 63 true := by
    show onInvCtl s.mach d v = _
    unfold onInvCtl
    rw [if_neg (by simp [hbusy])]
    dsimp only
    rw [← ht, if_neg (by simp [h62, hv]; omega), haddr, hv, ← hcov, hm]
    rfl
  have hmem : m.mem = s.mach.mem := by
    rw [hm, mem_cutDies, mem_cutMoves, mem_cutUnits, ht]
    exact mem_of_units (units_wr _ _ _ _ _)
  have hunit (u : Fin 76) : getEtr (wb m .ETR_INV_CTL d 0 63 true) u = getEtr (cutUnits cov (List.range 76) t) u := by
    rw [unit_of_units (units_wb _ _ _ _ _ _), hm, getEtr_cutDies, getEtr_cutMoves]
  refine cspEnds_outside (etrw_placed rfl rfl (by decide)) rfl hc hwrite ⟨?_, ?_, fun u p hp => ?_⟩
  · rw [mem_cspOut (wb m .ETR_INV_CTL d 0 63 true), mem_of_units (units_wb m _ _ _ _ _), hmem]
  · rw [rb_cspOut (wb m .ETR_INV_CTL d 0 63 true)]
    exact rb_wb _ _ _ _ _ _ (by decide)
  · rw [getEtr_cspOut (wb m .ETR_INV_CTL d 0 63 true), hunit] at hp
    obtain ⟨hin, hfree⟩ := tlb_cutUnits _ _ hp
    refine ⟨?_, fun hbad => ?_⟩
    · rw [ht, unit_of_units (units_wr _ _ _ _ _)] at hin
      exact hin
    · have h1 := hcovers _ _ _ hbad
      rw [← hcov, hfree (List.mem_range.2 u.isLt)] at h1
      exact Bool.false_ne_true h1

theorem ends_invalidationComplete : Ends (.invalidationComplete d) s (fun m => m.units = s.mach.units ∧ rb m .ETR_INV_CTL d 0 63 = false) :=
  ⟨_, rfl, units_wb _ _ _ _ _ _, rb_wb _ _ _ _ _ _ (by decide)⟩

end

/-- Settles O37. -/
theorem translationWorks : Obligations.TranslationWorks :=
  ⟨fun _ _ _ _ _ _ hreq hcrop hfind hright => ends_lookup_hit hreq hcrop hfind hright,
    fun _ _ _ _ hreq hcrop => ends_lookup_outside hreq hcrop,
    fun _ _ _ _ _ _ hfree hpick hstart => ends_walk hfree hpick hstart,
    fun _ _ _ _ _ _ hw hu hread ht he h0 h1 hgood => ends_walkRead_leaf hw hu hread ht he h0 h1 hgood,
    fun _ _ _ _ _ _ _ hw hread h0 ht hfaults hreqs hring => ends_walkRead_fault hw hread h0 ht hfaults hreqs hring,
    fun _ _ _ _ hf hw hg htake hroom => ends_faultRecordWrite hf hw hg htake hroom,
    ⟨fun _ _ _ _ _ _ hans hact => ends_pfresp_retry hans hact, fun _ _ _ _ _ _ hans hact => ends_pfresp_abort hans hact⟩,
    fun _ _ _ _ _ _ hf hw hn h0 => ends_pfTimeout hf hw hn h0,
    ⟨fun _ _ _ _ => ends_invalidate (covers := fun _ _ _ => True) (by decide) (fun _ _ _ _ => rfl) rfl,
      fun _ _ _ _ => ends_invalidate (covers := fun v _ e => e.tid = fld v 57 48) (by decide) (fun _ _ _ h => decide_eq_true h) rfl,
      fun _ _ _ _ => ends_invalidate (covers := fun v lo e => e.tid = fld v 57 48 ∧ fld v 15 0 ≠ 0 ∧
          overlaps lo (fld v 15 0 * 65536) (e.vpn * 2 ^ teLog e.size) (2 ^ teLog e.size) = true) (by decide)
        (fun v lo e ⟨htid, hn, hover⟩ => by
          unfold invCovers
          rw [if_neg hn, hover, decide_eq_true htid]
          rfl) rfl⟩,
    fun _ _ => ends_invalidationComplete⟩

end Sys2Proof.Machine
end

section
/-! The caches, clocks and reservations of the cores (R343, R349 to R354, R359, R367, R385). -/

namespace Sys2Proof.Machine

/-! ### Lines that a cache holds -/

theorem getHeld_putHeld (s : Mach) (k line : Nat) (h : HLine) : getHeld (putHeld s k line h) k line = h := smapGet_smapPut_same _ _ _ _

theorem getHeld_of_held {s t : Mach} (h : s.held = t.held) (k line : Nat) : getHeld s k line = getHeld t k line := by
  unfold getHeld
  rw [h]

theorem held_of_units {s t : Mach} (h : s.units = t.units) : s.held = t.held := by
  have e := congrArg Mach.held h
  exact e

/-- A home without a transaction has nothing to bring to its end. -/
theorem settleLine_idle {s : Mach} {line : Nat} (h : (getDir s line).txn = none) : settleLine s line = s := by
  have hfin : finishTxn s line = s := by
    unfold finishTxn
    rw [h]
  exact List.foldl_fixed' (fun _ => hfin) _

/-- A line that a cache owns is there. -/
theorem obtainLine_owned {s : Mach} {k line : Nat} (hidle : (getDir s line).txn = none) (hst : 2 ≤ (getHeld s k line).st)
    (horphan : (getHeld s k line).orphan = false) : obtainLine s k line true = s := by
  have hholds : holds s k line = true := by
    unfold holds
    dsimp only
    rw [horphan, decide_eq_true (by omega)]
    rfl
  have hread : readForOwnership s k line = s := by
    unfold readForOwnership
    exact if_pos (Or.inr ⟨hholds, hst⟩)
  unfold obtainLine
  rw [settleLine_idle hidle]
  dsimp only
  rw [if_pos rfl, hread, settleLine_idle hidle]

theorem units_countBytes (s : Mach) (a n : Nat) (use : MemUse) (o : Nat) : (countBytes s a n use o).units = s.units := by
  unfold countBytes
  dsimp only
  split
  · rw [units_book, units_bumpAo, units_bump]
  · rw [units_book, units_bumpAo]
  · rfl

/-! ### The store buffer (R354) -/

theorem mem_breakResv (s : Mach) (line mask : Nat) (x : Option Nat) : (breakResv s line mask x).mem = s.mem := rfl
theorem held_breakResv (s : Mach) (line mask : Nat) (x : Option Nat) : (breakResv s line mask x).held = s.held := rfl

theorem getCore_breakResv_except (s : Mach) (line mask : Nat) (c : CoreNo) : getCore (breakResv s line mask (some c.val)) c = getCore s c := by
  unfold breakResv getCore vget
  rw [dif_pos c.isLt, dif_pos c.isLt]
  dsimp only
  rw [Vector.getElem_mapFinIdx, if_pos rfl]

theorem mem_putHeld (s : Mach) (k line : Nat) (h : HLine) : (putHeld s k line h).mem = s.mem := rfl
theorem getCore_putHeld (s : Mach) (k line : Nat) (h : HLine) (c : Nat) : getCore (putHeld s k line h) c = getCore s c := rfl

theorem getCore_of_cores {s t : Mach} (h : s.cores = t.cores) (c : Nat) : getCore s c = getCore t c := by
  unfold getCore
  rw [h]

section
variable {s : State} {c : CoreNo}

theorem l2On_of_csr {s t : Mach} {c : Nat} (h : (getCore s c).csr = (getCore t c).csr) : l2On s c = l2On t c := by
  unfold l2On csrOf
  rw [h]

/-- The core with its oldest store taken. -/
def tookStore (s : Mach) (c : Nat) (l : List SbEnt) : Mach := modCore s c (fun x => { x with sb := l })

theorem getCore_tookStore (s : Mach) (c : CoreNo) (l : List SbEnt) : getCore (tookStore s c l) c = { getCore s c with sb := l } :=
  getCore_modCore_same s c _

/-- A store reaches the line that L2 owns. -/
theorem drainTo_owned {t : Mach} {e : SbEnt} (hon : l2On t c = true) (hidle : (getDir t e.line).txn = none)
    (hst : 2 ≤ (getHeld t c e.line).st) (horphan : (getHeld t c e.line).orphan = false) :
    (drainTo t c e).mem = t.mem ∧ getCore (drainTo t c e) c = getCore t c ∧ (getHeld (drainTo t c e) c e.line).st = 3 ∧
      (getHeld (drainTo t c e) c e.line).data = mergeLine (getHeld t c e.line).data e.data e.mask := by
  obtain ⟨h, hh, hst3, hdata⟩ : ∃ h : HLine, h = { getHeld t c e.line with
      st := 3, data := mergeLine (getHeld t c e.line).data e.data e.mask,
      pois := (getHeld t c e.line).pois && !decide (e.mask % 2 ^ 64 = fullMask), wb := false, acked := false } ∧
      h.st = 3 ∧ h.data = mergeLine (getHeld t c e.line).data e.data e.mask := ⟨_, rfl, rfl, rfl⟩
  obtain ⟨w, hw⟩ : ∃ w, w = countBytes (putHeld t c e.line h) (e.line * 64) 64 .write (ownerOf (putHeld t c e.line h) (c.val + 1) none) :=
    ⟨_, rfl⟩
  have hunits : w.units = (putHeld t c e.line h).units := by rw [hw, units_countBytes]
  have heq : drainTo t c e = breakResv w e.line e.mask (some c.val) := by
    unfold drainTo
    dsimp only
    rw [if_pos hon, obtainLine_owned hidle hst horphan, if_pos ⟨hst, horphan⟩, horphan, if_neg Bool.false_ne_true, hw, hh]
    dsimp only
    rw [horphan]
  have hget : getHeld (drainTo t c e) c e.line = h := by
    rw [heq, getHeld_of_held (held_breakResv _ _ _ _), getHeld_of_held (held_of_units hunits), getHeld_putHeld]
  refine ⟨?_, ?_, by rw [hget, hst3], by rw [hget, hdata]⟩
  · rw [heq, mem_breakResv, mem_of_units hunits, mem_putHeld]
  · rw [heq, getCore_breakResv_except, getCore_of_cores (cores_of_units hunits), getCore_putHeld]

theorem ends_storeBufferDrain {e : SbEnt} {l : List SbEnt} (hsb : (getCore s.mach c).sb = e :: l) (hon : l2On s.mach c = true)
    (hidle : (getDir s.mach e.line).txn = none) (hst : 2 ≤ (getHeld s.mach c e.line).st) (horphan : (getHeld s.mach c e.line).orphan = false) :
    Ends (.storeBufferDrain c) s (fun m => m.mem = s.mach.mem ∧ (getCore m c).sb = l ∧ (getHeld m c e.line).st = 3 ∧
      (getHeld m c e.line).data = mergeLine (getHeld s.mach c e.line).data e.data e.mask) := by
  obtain ⟨t, ht⟩ : ∃ t, t = tookStore s.mach c l := ⟨_, rfl⟩
  have hheld : getHeld t c e.line = getHeld s.mach c e.line := by rw [ht]; rfl
  have hcsr : (getCore t c).csr = (getCore s.mach c).csr := by rw [ht, getCore_tookStore]
  have hdir : getDir t e.line = getDir s.mach e.line := by rw [ht]; rfl
  have hmem : t.mem = s.mach.mem := by rw [ht]; rfl
  obtain ⟨h1, h2, h3, h4⟩ := drainTo_owned (c := c) (t := t) (e := e) (by rw [l2On_of_csr hcsr, hon]) (by rw [hdir, hidle])
    (by rw [hheld]; exact hst) (by rw [hheld, horphan])
  have heq : drainOne s.mach c = drainTo t c e := by
    unfold drainOne
    rw [hsb, ht]
    rfl
  refine ⟨_, rfl, ?_⟩
  dsimp only
  rw [heq, h2, h1, h3, h4, hheld, hmem, ht, getCore_tookStore]
  exact ⟨rfl, rfl, rfl, rfl⟩

/-! ### Lost tags and disabled ways (R349, R350) -/

theorem cls_forPart (r : FltRec) (p : Option Nat) (t : Nat) : (r.forPart p t).cls = r.cls := by
  unfold FltRec.forPart
  split <;> rfl

theorem units_llcErr (s : Mach) (d code way line : Nat) : (llcErr s d code way line).units = s.units := by
  unfold llcErr
  dsimp only
  rw [units_raise, units_recordFirst]

theorem wire_llcErr (s : Mach) (d way line : Nat) {code : Nat} (h : code ≠ 1) : ∃ r, (llcErr s d code way line).flt.wire = s.flt.wire ++ [r] ∧
    r.cls = 0xA ∧ r.sub = code := by
  unfold llcErr
  dsimp only
  rw [raise_wire, flt_recordFirst, if_neg h, if_neg h]
  exact ⟨_, rfl, rfl, rfl⟩

theorem flt_putHeld (s : Mach) (k line : Nat) (h : HLine) : (putHeld s k line h).flt = s.flt := rfl

theorem ends_tagLoss_llc {d : Fin 2} {set : Fin 65536} {way : Fin 16} {l : Fin (2 ^ 42)} :
    Ends (.tagLoss (.llc d set way) (some l)) s (fun m => getHeld m (llcKey d) l = HLine.none ∧ m.mem = s.mach.mem ∧
      ∃ r, m.flt.wire = s.mach.flt.wire ++ [r] ∧ r.cls = 0xA ∧ r.sub = 2) := by
  obtain ⟨t, ht⟩ : ∃ t, t = putHeld s.mach (llcKey d) l HLine.none := ⟨_, rfl⟩
  have heq : tagLoss s.mach (.llc d set way) (some l) = llcErr t d 2 way 0 := by rw [ht]; rfl
  have hunits := units_llcErr t d 2 way 0
  refine ⟨_, rfl, ?_⟩
  dsimp only
  rw [heq]
  refine ⟨?_, ?_, ?_⟩
  · rw [getHeld_of_held (held_of_units hunits), ht, getHeld_putHeld]
  · rw [mem_of_units hunits, ht, mem_putHeld]
  · rw [show s.mach.flt = t.flt by rw [ht, flt_putHeld]]
    exact wire_llcErr t d way 0 (by decide)

/-- The package after two free words are drawn for a record. -/
def drewTwo (s : Mach) : Mach := (drawWord (drawWord s).2).2

theorem held_drewTwo (s : Mach) : (drewTwo s).held = s.held := rfl
theorem mem_drewTwo (s : Mach) : (drewTwo s).mem = s.mem := rfl
theorem flt_drewTwo (s : Mach) : (drewTwo s).flt = s.flt := rfl
theorem held_bumpEcc (s : Mach) (c lo : Nat) : (bumpEcc s c lo).held = s.held := rfl
theorem mem_bumpEcc (s : Mach) (c lo : Nat) : (bumpEcc s c lo).mem = s.mem := rfl
theorem flt_bumpEcc (s : Mach) (c lo : Nat) : (bumpEcc s c lo).flt = s.flt := rfl

theorem ends_tagLoss_l2 {set : Fin 2048} {way : Fin 16} {l : Fin (2 ^ 42)} :
    Ends (.tagLoss (.l2 c set way) (some l)) s (fun m => getHeld m c l = HLine.none ∧ m.mem = s.mach.mem ∧
      ∃ r, m.flt.wire = s.mach.flt.wire ++ [r] ∧ r.cls = 0xA) := by
  obtain ⟨t, ht⟩ : ∃ t, t = putHeld s.mach c l HLine.none := ⟨_, rfl⟩
  obtain ⟨w, hw⟩ : ∃ w, w = drewTwo (bumpEcc t c 0) := ⟨_, rfl⟩
  obtain ⟨r, heq, hcls⟩ : ∃ r, tagLoss s.mach (.l2 c set way) (some l) = raise w r ∧ r.cls = 0xA := by
    rw [hw, ht]
    exact ⟨_, rfl, cls_forPart _ _ _⟩
  refine ⟨_, rfl, ?_⟩
  dsimp only
  rw [heq]
  refine ⟨?_, ?_, r, ?_, hcls⟩
  · rw [getHeld_of_held (held_of_units (units_raise _ _)), hw, getHeld_of_held (held_drewTwo _), getHeld_of_held (held_bumpEcc _ _ _), ht,
      getHeld_putHeld]
  · rw [mem_of_units (units_raise _ _), hw, mem_drewTwo, mem_bumpEcc, ht, mem_putHeld]
  · rw [raise_wire, hw, flt_drewTwo, flt_bumpEcc, ht, flt_putHeld]

theorem llcway_uncounted (d : Fin 2) : Uncounted (RegRef.addr ⟨.COH_LLCWAY, 4 + d.val, 0⟩) := by
  have hdie (k : Nat) : coreDieId k = 1 ∨ coreDieId k = 0x11 := by
    unfold coreDieId
    split
    · exact Or.inl rfl
    · exact Or.inr rfl
  have hd := hdie (4 + d.val - 4)
  unfold Uncounted
  simp only [RegRef.addr, RegName.info, Blk.base, dieBase]
  rw [if_neg (by omega)]
  omega

theorem rg_llcErr (s : Mach) (d : Fin 2) (code way line : Nat) :
    rg (llcErr s d code way line) .COH_LLCWAY (4 + d.val) 0 = rg s .COH_LLCWAY (4 + d.val) 0 := by
  have hdie : coreDieId d < 32 := by
    unfold coreDieId
    split <;> decide
  unfold llcErr
  dsimp only
  rw [rg_raise_of_uncounted (llcway_uncounted d) _ (by split <;> exact hdie)]
  exact rg_recordFirst_other (addr_ne_of_off .COH_LLCWAY .COH_LLCERR rfl (by decide) _) _ _

/-- A disabled way's soft mark cleared. -/
def withSoft (s : Mach) (x : SMap Bool) : Mach := { s with llcSoft := x }

theorem mem_withSoft (s : Mach) (x : SMap Bool) : (withSoft s x).mem = s.mem := rfl
theorem rg_withSoft (s : Mach) (x : SMap Bool) (n : RegName) (u i : Nat) : rg (withSoft s x) n u i = rg s n u i := rfl

theorem ends_llcWayDisable {d : Fin 2} {way : Fin 16} (hpend : rb s.mach .COH_LLCWAY (4 + d.val) 0 (16 + way.val) = true) :
    Ends (.llcWayDisable d way) s (fun m => m.mem = s.mach.mem ∧ rb m .COH_LLCWAY (4 + d.val) 0 way = true ∧
      rb m .COH_LLCWAY (4 + d.val) 0 (16 + way.val) = false) := by
  have hway := way.isLt
  obtain ⟨v, hv⟩ : ∃ v, v = setBit (setBit (rg s.mach .COH_LLCWAY (4 + d.val) 0) (16 + way.val) false) way true := ⟨_, rfl⟩
  obtain ⟨w, x, hw, heq⟩ : ∃ w x, (w = v ∨ w = setBit v (32 + way.val) true) ∧
      llcWayDisable s.mach d way = llcErr (withSoft (wr s.mach .COH_LLCWAY (4 + d.val) 0 w) x) d 3 way 0 := by
    refine ⟨if smapGet false s.mach.llcSoft (16 * d.val + way.val) then v else setBit v (32 + way.val) true,
      smapPut false s.mach.llcSoft (16 * d.val + way.val) false, ?_, ?_⟩
    · split
      · exact Or.inl rfl
      · exact Or.inr rfl
    · unfold llcWayDisable
      dsimp only
      rw [if_neg (by rw [show bit _ _ = true from hpend]; decide), ← hv]
      rfl
  have hbits : bit w way = true ∧ bit w (16 + way.val) = false := by
    have hon : bit v way = true := by
      rw [hv]
      exact bit_setBit_same _ _ _ (by omega)
    have hoff : bit v (16 + way.val) = false := by
      rw [hv, bit_setBit_other _ _ _ _ (by omega)]
      exact bit_setBit_same _ _ _ (by omega)
    rcases hw with rfl | rfl
    · exact ⟨hon, hoff⟩
    · exact ⟨(bit_setBit_other _ _ _ _ (by omega)).trans hon, (bit_setBit_other _ _ _ _ (by omega)).trans hoff⟩
  have hreg : rg (llcWayDisable s.mach d way) .COH_LLCWAY (4 + d.val) 0 = w := by
    rw [heq, rg_llcErr, rg_withSoft, rg_wr]
  refine ⟨_, rfl, ?_⟩
  dsimp only
  refine ⟨?_, (congrArg (bit · way) hreg).trans hbits.1, (congrArg (bit · (16 + way.val)) hreg).trans hbits.2⟩
  rw [heq, mem_of_units (units_llcErr _ _ _ _ _), mem_withSoft]
  exact mem_of_units (units_wr _ _ _ _ _)

/-! ### The custom CSRs (R343, R351 to R353, R359, R367) -/

theorem customWrite_of_ok {s : Mach} {c : Nat} (h : CustomOk s c) (f : Mach → Mach) : customWrite s c f = f s := by
  obtain ⟨hrel, hhalt, hpriv⟩ := h
  unfold customWrite
  dsimp only
  rw [if_neg (by simp [hrel, hhalt]), if_pos hpriv]

theorem csr_retarget (s : Mach) (cl : Nat) : (retarget s cl).csr = s.csr := rfl
theorem mem_retarget (s : Mach) (cl : Nat) : (retarget s cl).mem = s.mem := rfl
theorem csrOf_retarget (s : Mach) (cl c n : Nat) : csrOf (retarget s cl) c n = csrOf s c n := rfl

theorem ends_pstateRequest {v : Word} (hok : CustomOk s.mach c) (hreq : fld v 2 0 < 6) :
    Ends (.pstateRequest c v) s (fun m => m.csr = s.mach.csr ∧ m.mem = s.mach.mem ∧ fld (csrOf m c 0x7C2) 2 0 = fld v 2 0) := by
  have heq : customWrite s.mach c (onPstate · c v) =
      retarget (setCsr s.mach c 0x7C2 (setFld (csrOf s.mach c 0x7C2) 2 0 (fld v 2 0))) (c / 8) := by
    rw [customWrite_of_ok hok]
    unfold onPstate
    exact if_neg (by omega)
  refine ⟨_, rfl, ?_⟩
  dsimp only
  rw [heq]
  refine ⟨csr_retarget _ _, mem_retarget _ _, ?_⟩
  rw [csrOf_retarget, csrOf_setCsr, if_pos rfl, fld_setFld_same _ _ _ _ (by decide) (by decide)]
  exact Nat.mod_eq_of_lt (by omega)

theorem ends_pstateChangeComplete {cl : ClusterNo} {x : Clu} {p : Nat} (hx : vget Clu.zero s.mach.clus cl = x) (hp : x.target = some p) :
    Ends (.pstateChangeComplete cl) s (fun m => m.csr = s.mach.csr ∧ m.cores = s.mach.cores ∧
      (vget Clu.zero m.clus cl).pst = p ∧ (vget Clu.zero m.clus cl).target = none) := by
  refine ⟨_, rfl, ?_⟩
  dsimp only
  unfold pstateChangeComplete
  rw [hx]
  dsimp only
  rw [hp]
  dsimp only
  rw [vget_vmod_same _ _ _ _ cl.isLt]
  exact ⟨rfl, rfl, rfl, rfl⟩

theorem ends_hd8Write {v : Word} (hok : CustomOk s.mach c) :
    Ends (.hd8Write c v) s (fun m => m.csr = s.mach.csr ∧ (getCore m c).resv = none ∧ bit (csrOf m c 0x7C1) 1 = bit v 1) := by
  have heq : customWrite s.mach c (onResv · c v) = onResv s.mach c v := customWrite_of_ok hok _
  refine ⟨_, rfl, ?_⟩
  dsimp only
  rw [heq]
  unfold onResv csrOf
  rw [getCore_modCore_same]
  dsimp only
  rw [smapGet_smapPut_same, ← bit_eq_fld]
  exact ⟨rfl, rfl, bit_setBit_same _ _ _ (by decide)⟩

/-- A core whose reservation has timed out, and is counted. -/
def Core.timedOut (x : Core) : Core :=
  { x with resv := none, csr := smapPut 0 x.csr 0x7C1 (setFld (smapGet 0 x.csr 0x7C1) 63 32 (sat 32 (fld (smapGet 0 x.csr 0x7C1) 63 32 + 1))) }

theorem ends_reservationTimeout {a n t0 : Nat} (hresv : (getCore s.mach c).resv = some (a, n, t0, true)) :
    Ends (.reservationTimeout c) s (fun m => (getCore m c).resv = none ∧ m.now = max s.mach.now (t0 + 4096 * cclk s.mach c) ∧
      fld (csrOf m c 0x7C1) 63 32 = sat 32 (fld (csrOf s.mach c 0x7C1) 63 32 + 1)) := by
  obtain ⟨t, ht⟩ : ∃ t, t = advanceTo s.mach (t0 + 4096 * cclk s.mach c) := ⟨_, rfl⟩
  have hcore : getCore t c = getCore s.mach c := by rw [ht]; rfl
  have hnow : t.now = max s.mach.now (t0 + 4096 * cclk s.mach c) := by rw [ht]; rfl
  have heq : reservationTimeout s.mach c = modCore t c Core.timedOut := by
    unfold reservationTimeout
    rw [hresv, ht]
    rfl
  refine ⟨_, rfl, ?_⟩
  dsimp only
  rw [heq]
  unfold csrOf
  rw [getCore_modCore_same, hcore]
  unfold Core.timedOut
  dsimp only
  rw [smapGet_smapPut_same, fld_setFld_same _ _ _ _ (by decide) (by decide)]
  exact ⟨rfl, hnow, Nat.mod_eq_of_lt (Nat.lt_of_le_of_lt (Nat.min_le_right _ _) (by decide))⟩

end

end Sys2Proof.Machine
end

section
/-! The cache control of the cores (R351 to R353) and the end of an L2 disable (R351, R385). -/

namespace Sys2Proof.Machine

/-! ### core.cachectl -/

/-- The word of core.cachectl: L2 prefetch, L2_DPEND, L2 and the two L1 enables. -/
def cachectlWord (pf : Nat) (dpend l2 : Bool) (l1 : Nat) : Word := packFlds [(5, 5, pf), (4, 4, dpend.toNat), (3, 3, l2.toNat), (2, 1, l1)]

theorem bit3_cachectlWord (pf : Nat) (p l : Bool) (x : Nat) : bit (cachectlWord pf p l x) 3 = l := by
  show bit (setFld (setBit (setBit (setFld (0 : Word) 5 5 pf) 4 p) 3 l) 2 1 x) 3 = l
  rw [bit_setFld_other _ _ _ _ _ (by decide) (by decide)]
  exact bit_setBit_same _ _ _ (by decide)

theorem bit4_cachectlWord (pf : Nat) (p l : Bool) (x : Nat) : bit (cachectlWord pf p l x) 4 = p := by
  show bit (setFld (setBit (setBit (setFld (0 : Word) 5 5 pf) 4 p) 3 l) 2 1 x) 4 = p
  rw [bit_setFld_other _ _ _ _ _ (by decide) (by decide), bit_setBit_other _ _ _ _ (by decide)]
  exact bit_setBit_same _ _ _ (by decide)

/-- The three enables together. -/
theorem enables_eq (w : Word) : fld w 3 1 = fld w 3 3 * 4 + fld w 2 1 := by
  unfold fld
  omega

theorem enables_cachectlWord (pf : Nat) (p : Bool) : fld (cachectlWord pf p true 3) 3 1 = 7 := by
  have h3 : fld (cachectlWord pf p true 3) 3 3 = 1 := by
    rw [← bit_eq_fld, bit3_cachectlWord]
    rfl
  have h21 : fld (cachectlWord pf p true 3) 2 1 = 3 := by
    show fld (setFld (setFld (setFld (setFld (0 : Word) 5 5 pf) 4 4 p.toNat) 3 3 1) 2 1 3) 2 1 = 3
    exact fld_setFld_same _ _ _ _ (by decide) (by decide)
  rw [enables_eq, h3, h21]

/-- A core whose core.cachectl is written. -/
def Core.cachectl (x : Core) (v : Word) : Core :=
  let old := smapGet 0 x.csr 0x7C0
  let l2 := if bit v 3 then bit old 3 || !bit old 4 else false
  let off := bit old 3 && !l2
  let d := bit old 3 && bit old 2
  let i := bit old 3 && bit old 1
  { x with csr := smapPut 0 x.csr 0x7C0 (cachectlWord (fld v 5 5) (bit old 4 || off) l2 (fld v 2 1)), resv := if off then none else x.resv,
           l1dStale := (x.l1dStale && !(bit v 7 && !bit old 2)) || (d && !(l2 && bit v 2)),
           l1iStale := (x.l1iStale && !(bit v 6 && !bit old 1)) || (i && !(l2 && bit v 1)) }

theorem getCore_invalidateL2 (s : Mach) (k c : Nat) : getCore (invalidateL2 s k) c = getCore s c := rfl

theorem getCore_onCachectl (s : Mach) (c : CoreNo) (v : Word) : getCore (onCachectl s c v) c = (getCore s c).cachectl v := by
  have hinv (p : Prop) [Decidable p] : getCore (if p then invalidateL2 s c else s) c = getCore s c :=
    iteInduction (motive := fun m : Mach => getCore m c = getCore s c) (fun _ => getCore_invalidateL2 s c c) fun _ => rfl
  unfold onCachectl csrOf
  dsimp only
  rw [getCore_modCore_same, getCore_modCore_same, hinv]
  rfl

theorem held_onCachectl (s : Mach) (c : CoreNo) (v : Word) : (onCachectl s c v).held =
    if bit v 8 && !bit (csrOf s c 0x7C0) 3 && !bit (csrOf s c 0x7C0) 4 then s.held.filter (fun p => decide (p.1 / lineSpan ≠ c.val))
    else s.held := by
  have hcore (t : Mach) (f : Core → Core) : (modCore t c f).held = t.held := rfl
  unfold onCachectl
  dsimp only
  rw [hcore, hcore]
  split <;> rfl

section
variable {s : State} {c : CoreNo} {v : Word}

theorem cachectl_of_ok (hok : CustomOk s.mach c) : customWrite s.mach c (onCachectl · c v) = onCachectl s.mach c v := customWrite_of_ok hok _

theorem csrOf_onCachectl (s : Mach) (c : CoreNo) (v : Word) : csrOf (onCachectl s c v) c 0x7C0 = smapGet 0 ((getCore s c).cachectl v).csr 0x7C0 := by
  unfold csrOf
  rw [getCore_onCachectl]

theorem csr_cachectl (x : Core) (v : Word) : smapGet 0 (x.cachectl v).csr 0x7C0 =
    let old := smapGet 0 x.csr 0x7C0
    let l2 := if bit v 3 then bit old 3 || !bit old 4 else false
    cachectlWord (fld v 5 5) (bit old 4 || (bit old 3 && !l2)) l2 (fld v 2 1) := smapGet_smapPut_same _ _ _ _

theorem ends_l2Disable (hok : CustomOk s.mach c) (hv : bit v 3 = false) (hon : bit (csrOf s.mach c 0x7C0) 3 = true)
    (hpend : bit (csrOf s.mach c 0x7C0) 4 = false) :
    Ends (.l2Disable c v) s (fun m => m.held = s.mach.held ∧ bit (csrOf m c 0x7C0) 3 = false ∧ bit (csrOf m c 0x7C0) 4 = true ∧
      (getCore m c).resv = none) := by
  refine ⟨_, rfl, ?_⟩
  dsimp only
  rw [cachectl_of_ok hok, csrOf_onCachectl, csr_cachectl, held_onCachectl, getCore_onCachectl, hon]
  unfold csrOf at hon hpend
  unfold Core.cachectl
  dsimp only
  rw [hv, hon, hpend, bit3_cachectlWord, bit4_cachectlWord]
  simp

theorem ends_cacheEnable (hok : CustomOk s.mach c) (hpend : bit (csrOf s.mach c 0x7C0) 4 = false) (hv : fld v 3 1 = 7) (h8 : bit v 8 = false) :
    Ends (.cacheEnable c v) s (fun m => m.held = s.mach.held ∧ fld (csrOf m c 0x7C0) 3 1 = 7) := by
  have hsum := enables_eq v
  have h21lt : fld v 2 1 < 4 := Nat.mod_lt _ (by decide)
  have h21 : fld v 2 1 = 3 := by
    have h33lt : fld v 3 3 < 2 := Nat.mod_lt _ (by decide)
    omega
  have h3 : bit v 3 = true := by
    have hbit := bit_eq_fld v 3
    cases hb : bit v 3
    · rw [hb, Bool.toNat_false] at hbit
      omega
    · rfl
  refine ⟨_, rfl, ?_⟩
  dsimp only
  rw [cachectl_of_ok hok, csrOf_onCachectl, csr_cachectl, held_onCachectl, h8]
  unfold csrOf at hpend
  dsimp only
  rw [h3, hpend, h21, if_pos rfl, Bool.not_false, Bool.or_true]
  exact ⟨rfl, enables_cachectlWord _ _⟩

theorem ends_invL1i (hok : CustomOk s.mach c) (h6 : bit v 6 = true) (hoff : bit (csrOf s.mach c 0x7C0) 1 = false) :
    Ends (.invL1i c v) s (fun m => (getCore m c).l1iStale = false) := by
  refine ⟨_, rfl, ?_⟩
  dsimp only
  rw [cachectl_of_ok hok, getCore_onCachectl]
  unfold csrOf at hoff
  unfold Core.cachectl
  dsimp only
  rw [h6, hoff]
  simp

theorem ends_invL1d (hok : CustomOk s.mach c) (h7 : bit v 7 = true) (hoff : bit (csrOf s.mach c 0x7C0) 2 = false) :
    Ends (.invL1d c v) s (fun m => (getCore m c).l1dStale = false) := by
  refine ⟨_, rfl, ?_⟩
  dsimp only
  rw [cachectl_of_ok hok, getCore_onCachectl]
  unfold csrOf at hoff
  unfold Core.cachectl
  dsimp only
  rw [h7, hoff]
  simp

theorem ends_invL2 (hok : CustomOk s.mach c) (h8 : bit v 8 = true) (hoff : bit (csrOf s.mach c 0x7C0) 3 = false)
    (hpend : bit (csrOf s.mach c 0x7C0) 4 = false) :
    Ends (.invL2 c v) s (fun m => m.held = s.mach.held.filter (fun p => decide (p.1 / lineSpan ≠ c.val))) := by
  refine ⟨_, rfl, ?_⟩
  dsimp only
  rw [cachectl_of_ok hok, held_onCachectl, h8, hoff, hpend]
  rfl

end

/-! ### The end of an L2 disable (R385) -/

/-- The registers in which homes note who has departed. -/
def departReg (pos : Nat) : RegName := if pos < 64 then .COH_DEPART0 else .COH_DEPART1
def departBit (pos : Nat) : Nat := if pos < 64 then pos else pos - 64

theorem departed_eq (s : Mach) (h pos : Nat) : departed s h pos = rb s (departReg pos) h 0 (departBit pos) := by
  unfold departed departReg departBit
  split <;> rfl

theorem setDepart_eq (s : Mach) (h pos : Nat) (v : Bool) : setDepart s h pos v = wb s (departReg pos) h 0 (departBit pos) v := by
  unfold setDepart departReg departBit
  split <;> rfl

/-- Registers of one name at two homes lie apart. -/
theorem addr_depart_ne {h k : Nat} (hh : h < 6) (hk : k < 6) (hne : h ≠ k) (pos : Nat) :
    RegRef.addr ⟨departReg pos, h, 0⟩ ≠ RegRef.addr ⟨departReg pos, k, 0⟩ := by
  have hbase : Blk.base .home h ≠ Blk.base .home k := by
    have hb (b : Nat) : barnDieId b = 2 + b ∧ b < 2 ∨ barnDieId b = 0x12 + (b - 2) ∧ 2 ≤ b := by
      unfold barnDieId
      split <;> omega
    have hc (b : Nat) : coreDieId b = 1 ∧ b = 0 ∨ coreDieId b = 0x11 ∧ b ≠ 0 := by
      unfold coreDieId
      split
      · exact Or.inl ⟨rfl, by assumption⟩
      · exact Or.inr ⟨rfl, by assumption⟩
    have h1 := hb h
    have h2 := hb k
    have h3 := hc (h - 4)
    have h4 := hc (k - 4)
    simp only [Blk.base, dieBase]
    split <;> split <;> omega
  have hblk : (departReg pos).info.blk = .home := by
    unfold departReg
    split <;> rfl
  unfold RegRef.addr
  dsimp only
  rw [hblk]
  omega

theorem departed_setDepart {h k : Nat} (hh : h < 6) (hk : k < 6) {c : Nat} (hc : c < 96) (s : Mach) :
    departed (setDepart s k c true) h c = (decide (h = k) || departed s h c) := by
  have hbit : departBit c < 64 := by
    unfold departBit
    split <;> omega
  rw [departed_eq, departed_eq, setDepart_eq]
  by_cases hne : h = k
  · subst hne
    rw [rb_wb _ _ _ _ _ _ hbit, decide_eq_true rfl, Bool.true_or]
  · rw [decide_eq_false hne, Bool.false_or]
    exact congrArg (bit · (departBit c)) (rg_wf_apart (addr_depart_ne hh hk hne c) _ _ _ _)

theorem csr_l2DisableDone (s : Mach) (c : Nat) : (l2DisableDone s c).csr = s.csr := by
  unfold l2DisableDone
  exact iteInduction (motive := fun m : Mach => m.csr = s.csr) (fun _ => rfl) fun _ => rfl

theorem departed_of_csr {s t : Mach} (h : s.csr = t.csr) (k c : Nat) : departed s k c = departed t k c := by
  rw [departed_eq, departed_eq]
  exact congrArg (bit · _) (rg_of_csr h _ _ _)

theorem mem_depart (s : Mach) (c h : Nat) : (depart s c h).mem = s.mem := by
  unfold depart l2DisableDone
  refine iteInduction (motive := fun m : Mach => m.mem = s.mem) (fun _ => ?_) fun _ => rfl
  have hset : (setDepart s h c true).mem = s.mem := by
    rw [setDepart_eq]
    exact mem_of_units (units_wb _ _ _ _ _ _)
  exact iteInduction (motive := fun m : Mach => m.mem = s.mem) (fun _ => hset) fun _ => hset

/-- The L2 of a core on its way out of coherence: the homes of a list have masked it; once every home has, the disable is over. -/
structure Departing (s : Mach) (c : Nat) (l : List Nat) : Prop where
  gone : ∀ h ∈ l, departed s h c = true
  either : (l2Disabling s c = false ∧ ∀ h, h < 6 → departed s h c = true) ∨
    (l2Disabling s c = true ∧ wbPending s c = false ∧ (l ≠ [] → ∃ h, h < 6 ∧ departed s h c = false))

theorem l2Disabling_done {s : Mach} {c : CoreNo} (h : (List.range 6).all (fun h => departed s h c) = true) :
    l2Disabling (l2DisableDone s c) c = false := by
  cases hd : l2Disabling s c with
  | false =>
    unfold l2DisableDone
    rw [if_neg (by simp [hd]), hd]
  | true =>
    unfold l2DisableDone
    rw [if_pos (by simp [hd, h])]
    dsimp only
    unfold l2Disabling
    rw [getCore_modCore_same]
    dsimp only
    rw [smapGet_smapPut_same, bit_setBit_same _ _ _ (by decide), Bool.and_false]

theorem l2Disabling_setDepart (s : Mach) (h c k : Nat) (v : Bool) : l2Disabling (setDepart s h c v) k = l2Disabling s k := by
  rw [setDepart_eq]
  rfl

theorem wbPending_setDepart (s : Mach) (h c k : Nat) (v : Bool) : wbPending (setDepart s h c v) k = wbPending s k := by
  rw [setDepart_eq]
  rfl

theorem departing_depart {s : Mach} {c : CoreNo} {l : List Nat} {k : Nat} (hl : ∀ h ∈ l, h < 6) (hk : k < 6) (h : Departing s c l) :
    Departing (depart s c k) c (l ++ [k]) := by
  obtain ⟨hgone, ⟨hoff, hall⟩ | ⟨hon, hwb, -⟩⟩ := h
  · have hid : depart s c k = s := by
      unfold depart
      exact if_neg (by simp [hoff])
    rw [hid]
    exact ⟨fun x hx => hall x ((List.mem_append.1 hx).elim (hl x) fun hx => by rwa [List.mem_singleton.1 hx]), Or.inl ⟨hoff, hall⟩⟩
  · obtain ⟨t, ht⟩ : ∃ t, t = setDepart s k c true := ⟨_, rfl⟩
    have hset (x : Nat) (hx : x < 6) : departed t x c = (decide (x = k) || departed s x c) := by
      rw [ht]
      exact departed_setDepart hx hk c.isLt s
    have hgone' (x : Nat) (hx : x ∈ l ++ [k]) : departed t x c = true := by
      rcases List.mem_append.1 hx with hxl | hxk
      · rw [hset x (hl x hxl), hgone x hxl, Bool.or_true]
      · rw [List.mem_singleton.1 hxk, hset k hk, decide_eq_true rfl, Bool.true_or]
    have hstep : depart s c k = l2DisableDone t c := by
      unfold depart
      rw [if_pos ⟨hon, hwb⟩, ht]
    have hcsr := csr_l2DisableDone t c
    rw [hstep]
    refine ⟨fun x hx => (departed_of_csr hcsr x c).trans (hgone' x hx), ?_⟩
    by_cases hall : (List.range 6).all (fun h => departed t h c) = true
    · exact Or.inl ⟨l2Disabling_done hall, fun x hx => (departed_of_csr hcsr x c).trans (List.all_eq_true.1 hall x (List.mem_range.2 hx))⟩
    · have hid : l2DisableDone t c = t := by
        unfold l2DisableDone
        exact if_neg (by simp [hall])
      rw [hid]
      refine Or.inr ⟨by rw [ht, l2Disabling_setDepart, hon], by rw [ht, wbPending_setDepart, hwb], fun _ => ?_⟩
      obtain ⟨x, hx, hne⟩ := List.all_eq_false.1 (Bool.eq_false_iff.2 hall)
      exact ⟨x, List.mem_range.1 hx, by simpa using hne⟩

theorem departing_foldS {c : CoreNo} (r l : List Nat) (hl : ∀ h ∈ l, h < 6) (hr : ∀ h ∈ r, h < 6) (s : Mach) (h : Departing s c l) :
    Departing (foldS r (fun t k => depart t c k) s) c (l ++ r) := by
  induction r generalizing s l with
  | nil => rwa [List.append_nil]
  | cons k r ih =>
    have hstep := departing_depart hl (hr k List.mem_cons_self) h
    have happ := ih (l ++ [k]) (fun x hx => (List.mem_append.1 hx).elim (hl x) fun hx => by rw [List.mem_singleton.1 hx]; exact hr k List.mem_cons_self)
      (fun x hx => hr x (List.mem_cons_of_mem _ hx)) _ hstep
    rwa [List.append_assoc] at happ

theorem ends_l2DisableComplete {s : State} {c : CoreNo} (hon : l2Disabling s.mach c = true) (hwb : wbPending s.mach c = false) :
    Ends (.l2DisableComplete c) s (fun m => m.mem = s.mach.mem ∧ l2Disabling m c = false ∧ ∀ h : Fin 6, departed m h c = true) := by
  have hstart : Departing s.mach c [] := ⟨fun _ h => absurd h List.not_mem_nil, Or.inr ⟨hon, hwb, fun h => absurd rfl h⟩⟩
  have hend : Departing (l2DisableComplete s.mach c) c (List.range 6) :=
    departing_foldS (List.range 6) [] (fun _ h => absurd h List.not_mem_nil) (fun _ h => List.mem_range.1 h) _ hstart
  refine ⟨_, rfl, foldS_keeps Mach.mem _ _ _ fun t k => mem_depart t c k, ?_, fun h => hend.gone h (List.mem_range.2 h.isLt)⟩
  rcases hend.either with ⟨hoff, -⟩ | ⟨-, -, hleft⟩
  · exact hoff
  · obtain ⟨x, hx, hne⟩ := hleft (by decide)
    rw [hend.gone x (List.mem_range.2 hx)] at hne
    exact absurd hne (by decide)

/-- Settles O39. -/
theorem coreCachesServe : Obligations.CoreCachesServe :=
  ⟨fun _ _ _ _ hsb hon hidle hst horphan => ends_storeBufferDrain hsb hon hidle hst horphan,
    fun _ _ _ _ _ => ends_tagLoss_llc, fun _ _ _ _ _ => ends_tagLoss_l2,
    fun _ _ _ hpend => ends_llcWayDisable hpend,
    fun _ _ _ hok hreq => ends_pstateRequest hok hreq,
    fun _ _ _ _ hx hp => ends_pstateChangeComplete hx hp,
    fun _ _ _ hok hv hon hpend => ends_l2Disable hok hv hon hpend,
    fun _ _ hon hwb => ends_l2DisableComplete hon hwb,
    fun _ _ _ hok hpend hv h8 => ends_cacheEnable hok hpend hv h8,
    fun _ _ _ hok h6 hoff => ends_invL1i hok h6 hoff,
    fun _ _ _ hok h7 hoff => ends_invL1d hok h7 hoff,
    fun _ _ _ hok h8 hoff hpend => ends_invL2 hok h8 hoff hpend,
    fun _ _ _ hok => ends_hd8Write hok,
    fun _ _ _ _ _ hresv => ends_reservationTimeout hresv⟩

end Sys2Proof.Machine
end

section
/-! The tile units of the core clusters (R360 to R366, R368). -/

namespace Sys2Proof.Machine

/-! ### The tile unit of a core -/

/-- A left fold keeps what every step keeps. -/
theorem foldl_keeps {α β γ : Type} (g : α → γ) (f : α → β → α) (l : List β) (a : α) (h : ∀ x p, p ∈ l → g (f x p) = g x) :
    g (l.foldl f a) = g a := by
  induction l generalizing a with
  | nil => rfl
  | cons p l ih => exact (ih (f a p) fun x q hq => h x q (List.mem_cons_of_mem _ hq)).trans (h a p List.mem_cons_self)

section
variable (s : Mach) (c : CoreNo) (f : Cmx → Cmx)

theorem getCmx_modCmx : getCmx (modCmx s c f) c = f (getCmx s c) := by
  unfold getCmx modCmx
  rw [getCore_modCore_same]

theorem mem_modCmx : (modCmx s c f).mem = s.mem := rfl

theorem pc_modCmx : (getCore (modCmx s c f) c).pc = (getCore s c).pc := by
  unfold modCmx
  rw [getCore_modCore_same]

theorem work_modCmx_other (k : CoreNo) (h : k ≠ c) : (getCmx (modCmx s c f) k).work = (getCmx s k).work := by
  unfold getCmx modCmx
  rw [getCore_modCore, if_neg fun e => h (Fin.ext e.1)]

end

theorem drainAll_empty {s : Mach} {c : Nat} (h : (getCore s c).sb = []) : drainAll s c = s := by
  have hone : drainOne s c = s := by
    unfold drainOne
    rw [h]
  exact List.foldl_fixed' (fun _ => hone) _

theorem cmxFinish_idle {s : Mach} {c : Nat} (h : (getCmx s c).work = []) : cmxFinish s c = s := by
  unfold cmxFinish
  rw [h]
  rfl

theorem cmxStores_idle {s : Mach} {c : Nat} (h : (getCmx s c).work = []) : cmxStores s c = s := by
  unfold cmxStores
  rw [h]
  exact if_neg Bool.false_ne_true

/-- A cluster without work takes what it is given. -/
theorem cmxAccept_idle {s : Mach} {c : CoreNo} (h : ∀ k : CoreNo, (getCmx s k).work = []) (w : CmxWork) :
    cmxAccept s c w = modCmx s c (fun x => { x with work := x.work ++ [w] }) := by
  have hnone (j : Nat) (hj : j < 8) : (getCmx s (c / 8 * 8 + j)).work.length = 0 := by
    rw [h ⟨c / 8 * 8 + j, by omega⟩]
    rfl
  have hsum : (((List.range 8).map (fun j => c.val / 8 * 8 + j)).map (fun k : Nat => (getCmx s k).work.length)).sum = 0 := by
    rw [List.map_map]
    refine List.sum_eq_zero fun x hx => ?_
    obtain ⟨j, hj, rfl⟩ := List.mem_map.1 hx
    exact hnone j (List.mem_range.1 hj)
  unfold cmxAccept
  dsimp only
  rw [hsum, if_pos (by decide)]

theorem idle_modCmx {s : Mach} {c : CoreNo} {f : Cmx → Cmx} (h : ∀ k : CoreNo, (getCmx s k).work = []) (hf : (f (getCmx s c)).work = [])
    (k : CoreNo) : (getCmx (modCmx s c f) k).work = [] := by
  by_cases hk : k = c
  · subst hk
    rw [getCmx_modCmx, hf]
  · rw [work_modCmx_other s c f k hk, h]

/-- Work accepted by an idle cluster after its core's unit has changed. -/
theorem getCmx_accepted {s : Mach} {c : CoreNo} {f : Cmx → Cmx} (h : ∀ k : CoreNo, (getCmx s k).work = []) (hf : (f (getCmx s c)).work = [])
    (w : CmxWork) : getCmx (cmxAccept (modCmx s c f) c w) c = { f (getCmx s c) with work := [w] } := by
  rw [cmxAccept_idle (idle_modCmx h hf), getCmx_modCmx, getCmx_modCmx, hf]
  rfl

theorem accepted_outside {s : Mach} {c : CoreNo} {f : Cmx → Cmx} (h : ∀ k : CoreNo, (getCmx s k).work = []) (hf : (f (getCmx s c)).work = [])
    (w : CmxWork) : (cmxAccept (modCmx s c f) c w).mem = s.mem ∧ (getCore (cmxAccept (modCmx s c f) c w) c).pc = (getCore s c).pc := by
  rw [cmxAccept_idle (idle_modCmx h hf), mem_modCmx, mem_modCmx, pc_modCmx, pc_modCmx]
  exact ⟨rfl, rfl⟩

/-! ### The end of an instruction -/

theorem OffHart.ctxDirty {β : Type} {g : Mach → β} (h : OffHart g) (s : Mach) (c lo : Nat) : g (ctxDirty s c lo) = g s := by
  unfold Machine.ctxDirty
  dsimp only
  exact iteInduction (motive := fun m : Mach => g m = g s) (fun _ => (h.setCsr _ _ _ _).trans (h.setCsr _ _ _ _)) fun _ => h.setCsr _ _ _ _

theorem core_ctxDirty {β : Type} {g : Core → β} (hg : ∀ (x : Core) m, g { x with csr := m } = g x) (s : Mach) (c : CoreNo) (lo : Nat) :
    g (getCore (ctxDirty s c lo) c) = g (getCore s c) := by
  unfold ctxDirty
  dsimp only
  refine iteInduction (motive := fun m : Mach => g (getCore m c) = g (getCore s c)) (fun _ => ?_) fun _ => core_setCsr hg _ _ _ _
  exact (core_setCsr hg _ _ _ _).trans (core_setCsr hg _ _ _ _)

/-- What is left where a tile instruction has ended: memory and the unit as its effect left them, the pc moved on. -/
structure CmxEnded (m u : Mach) (c : Nat) : Prop where
  mem : m.mem = u.mem
  cmx : getCmx m c = getCmx u c
  pc : (getCore m c).pc = (getCore u c).pc + 4
  x : (getCore m c).x = (getCore u c).x

theorem cmxEnded_retire (u : Mach) (c : CoreNo) (t : Mach) : CmxEnded (tickCount (retire u c 4) c t) u c where
  mem := (offHart_mem.tickCount _ _ _).trans (offHart_mem.retire _ _ _)
  cmx := (core_tickCount (g := Core.cmx) (fun _ _ => rfl) _ c t).trans (by rw [getCore_retire]; rfl)
  pc := (core_tickCount (g := Core.pc) (fun _ _ => rfl) _ c t).trans (by rw [getCore_retire]; rfl)
  x := (core_tickCount (g := Core.x) (fun _ _ => rfl) _ c t).trans (by rw [getCore_retire])

theorem CmxEnded.dirty {m u : Mach} {c : CoreNo} (h : CmxEnded m (ctxDirty u c 15) c) : CmxEnded m u c where
  mem := h.mem.trans (offHart_mem.ctxDirty u c 15)
  cmx := h.cmx.trans (core_ctxDirty (g := Core.cmx) (fun _ _ => rfl) u c 15)
  pc := h.pc.trans (congrArg (· + 4) (core_ctxDirty (g := Core.pc) (fun _ _ => rfl) u c 15))
  x := h.x.trans (core_ctxDirty (g := Core.x) (fun _ _ => rfl) u c 15)

section
variable {s : State} {c : CoreNo} {w : Nat} {t : Mach}

theorem scalarExec_custom (io : CspIo) (hop : iOp w = 0x0B) : scalarExec io t c w 4 false = none := by
  have hother : rvExec (hartIn t c) w = .other := by
    unfold rvExec
    rw [hop]
    rfl
  unfold scalarExec
  rw [usesFp_of_op (by rw [hop]; decide), if_neg (by simp), hother]
  dsimp only
  rw [hop, if_neg (by decide)]

/-- The command of a tile instruction is a step of its core. -/
theorem cmxStep_of_one {f7 : Nat} (h : CmxOne s.mach c f7 w t) {l : List Nat} (hl : f7 ∈ l) (err : Option CmxHw) {u : Mach}
    (hx : cmxExec t c w 4 err = .done (retire u c 4)) : CmxEnded (cmxStep s.mach c l err) u c := by
  obtain ⟨hone, hop, hf3, hf7, -⟩ := h
  have hfetch : hartFetch s.mach c = (.ok (w, 4), t) := hone.2.2.2.2.2.2.2.1
  have hpc : cmxAtPc s.mach c = some f7 := by
    unfold cmxAtPc
    rw [hfetch, ← hf7]
    exact if_pos ⟨hop, hf3⟩
  have hstep : hartStep cspWrite s.mach c err = tickCount (retire u c 4) c t := by
    rw [hartStep_of_one hone]
    unfold hartInstr
    rw [scalarExec_custom cspWrite hop]
    dsimp only
    rw [if_neg (by rw [hop]; decide), if_pos hop, hx]
  have heq : cmxStep s.mach c l err = tickCount (retire u c 4) c t := by
    unfold cmxStep
    rw [hpc]
    dsimp only
    rw [if_pos (List.contains_iff_mem.2 hl), hstep]
  rw [heq]
  exact cmxEnded_retire u c t

/-! ### CFG and ZERO (R362, R363) -/

theorem ends_cmxCfg (h : CmxOne s.mach c 0 w t) (hrd : iRd w = 0) (hr2 : iRs2 w = 0)
    (hcfg : cmxCfgOk (BitVec.ofNat 64 (getXr t c (iRs1 w))) = true) :
    Ends (.cmxCfg c) s (fun m => m.mem = t.mem ∧ (getCmx m c).cfg = BitVec.ofNat 64 (getXr t c (iRs1 w)) ∧
      (getCmx m c).acc = (getCmx t c).acc ∧ (getCore m c).pc = (getCore t c).pc + 4) := by
  obtain ⟨-, -, hf3, hf7, hctx⟩ := id h
  have hx : cmxExec t c w 4 none =
      .done (retire (ctxDirty (modCmx t c (fun q => { q with cfg := BitVec.ofNat 64 (getXr t c (iRs1 w)) })) c 15) c 4) := by
    unfold cmxExec
    dsimp only
    rw [if_neg (by simp [hf3, hctx]), if_pos hf7, if_neg (by simp [hrd, hr2, hcfg])]
  obtain ⟨hmem, hcmx, hpc, -⟩ := (cmxStep_of_one h (l := [0]) (by decide) none hx).dirty
  refine ⟨_, rfl, ?_⟩
  dsimp only
  rw [hmem, hcmx, hpc, getCmx_modCmx, pc_modCmx]
  exact ⟨rfl, rfl, rfl, rfl⟩

theorem ends_cmxZero {a : Fin 2} (h : CmxOne s.mach c (2 + a.val) w t) (hrd : iRd w = 0) (hr1 : iRs1 w = 0) (hr2 : iRs2 w = 0) :
    Ends (.cmxZero c) s (fun m => m.mem = t.mem ∧ (getCore m c).pc = (getCore t c).pc + 4 ∧
      (∀ i j : Fin 64, smapGet 0 (getCmx m c).acc (cmxIx a i j) = 0) ∧
      (∀ i j : Fin 64, smapGet 0 (getCmx m c).acc (cmxIx (1 - a.val) i j) = smapGet 0 (getCmx t c).acc (cmxIx (1 - a.val) i j))) := by
  obtain ⟨-, -, hf3, hf7, hctx⟩ := id h
  have hacc : (2 + a.val) % 2 = a.val := by omega
  have hx : cmxExec t c w 4 none = .done (retire (ctxDirty (cmxZero t c a) c 15) c 4) := by
    unfold cmxExec
    dsimp only
    rw [if_neg (by simp [hf3, hctx]), hf7, if_neg (by omega), if_pos (by omega), if_neg (by simp [hrd, hr1, hr2]), hacc]
  obtain ⟨hmem, hcmx, hpc, -⟩ := (cmxStep_of_one h (l := [2, 3]) (by simp; omega) none hx).dirty
  refine ⟨_, rfl, ?_⟩
  dsimp only
  rw [hmem, hcmx, hpc]
  unfold cmxZero
  rw [getCmx_modCmx, pc_modCmx]
  dsimp only
  refine ⟨rfl, rfl, fun i j => ?_, fun i j => ?_⟩
  · rw [smapGet_smapClear, if_pos (by unfold cmxIx; omega)]
  · rw [smapGet_smapClear, if_neg (by unfold cmxIx; omega)]

/-! ### MMA, LDA and STA (R363 to R365) -/

/-- The other accumulator, and the work, of a unit. -/
def Cmx.besides (a : Nat) (x : Cmx) : List CmxWork × (Fin 64 → Fin 64 → BitVec 128) :=
  (x.work, fun i j => smapGet 0 x.acc (cmxIx (1 - a) i j))

/-- An entry of an accumulator written leaves the other accumulator. -/
theorem besides_put (a : Fin 2) {m n : Nat} (hm : m < 64) (hn : n < 64) (x : Cmx) (e : BitVec 128) (q : SMap Bool) (fl : Nat) (p : Bool) :
    Cmx.besides a { x with acc := smapPut 0 x.acc (cmxIx a m n) e, accPois := q, flags := fl, pois := p } = x.besides a := by
  unfold Cmx.besides
  refine Prod.ext rfl (funext fun i => funext fun j => ?_)
  exact smapGet_smapPut_other _ _ _ _ _ _ (by unfold cmxIx; omega)

theorem mem_cells {p : Nat × Nat} (h : p ∈ (List.range 64).flatMap (fun m => (List.range 64).map (fun n => (m, n)))) : p.1 < 64 ∧ p.2 < 64 := by
  obtain ⟨m, hm, hp⟩ := List.mem_flatMap.1 h
  obtain ⟨n, hn, rfl⟩ := List.mem_map.1 hp
  exact ⟨List.mem_range.1 hm, List.mem_range.1 hn⟩

theorem cmxMma_eq {v : Mach} (hidle : CmxIdle v c) (a : Fin 2) (ra rb : List (List (Nat × Nat))) : ∃ x : Cmx,
    cmxMma v c a ra rb = cmxAccept (modCmx v c (fun _ => x)) c { mma := true, writes := [] } ∧ x.besides a = (getCmx v c).besides a := by
  unfold cmxMma
  dsimp only
  rw [drainAll_empty hidle.2, cmxStores_idle (hidle.1 c)]
  exact ⟨_, rfl, foldl_keeps _ _ _ _ fun x p hp => besides_put a (mem_cells hp).1 (mem_cells hp).2 x _ _ _ _⟩

theorem cmxLda_eq {u : Mach} (hidle : CmxIdle u c) (a : Fin 2) {rows : List (List (Nat × Nat))} (hlen : rows.length = 64) : ∃ x : Cmx,
    cmxLda u c a rows = cmxAccept (modCmx u c (fun _ => x)) c { mma := false, writes := [] } ∧ x.besides a = (getCmx u c).besides a := by
  unfold cmxLda
  dsimp only
  rw [drainAll_empty hidle.2, cmxStores_idle (hidle.1 c)]
  refine ⟨_, rfl, foldl_keeps _ _ _ _ fun x p hp => ?_⟩
  have hrow : p.2 < 64 := by
    have := List.snd_lt_of_mem_zipIdx hp
    omega
  exact foldl_keeps _ _ _ _ fun y n hn => besides_put a hrow (List.mem_range.1 hn) y _ _ _ _

/-- What an instruction of an idle cluster leaves that changes the unit beside the other accumulator and waits for its completion. -/
theorem waits_of_accepted {m v : Mach} {a : Fin 2} {x : Cmx} {k : CmxWork} (hidle : CmxIdle v c) (hx : x.besides a = (getCmx v c).besides a)
    (h : CmxEnded m (cmxAccept (modCmx v c (fun _ => x)) c k) c) : m.mem = v.mem ∧ (getCore m c).pc = (getCore v c).pc + 4 ∧
      (getCmx m c).work = [k] ∧
      (∀ i j : Fin 64, smapGet 0 (getCmx m c).acc (cmxIx (1 - a.val) i j) = smapGet 0 (getCmx v c).acc (cmxIx (1 - a.val) i j)) := by
  have hwork : x.work = [] := (congrArg Prod.fst hx).trans (hidle.1 c)
  obtain ⟨hmem, hpc⟩ := accepted_outside hidle.1 (f := fun _ => x) hwork k
  rw [h.mem, h.pc, h.cmx, hmem, hpc, getCmx_accepted hidle.1 hwork]
  exact ⟨rfl, rfl, rfl, fun i j => congrFun (congrFun (congrArg Prod.snd hx) i) j⟩

theorem ends_cmxMma {u v : Mach} {a : Fin 2} {ra rb : List (List (Nat × Nat))} (h : CmxOne s.mach c (4 + a.val) w t) (hrd : iRd w = 0)
    (hra : cmxRows t c 1 (getXr t c (iRs1 w)) (cApitch (getCmx t c).cfg) (cRow (cAfmt (getCmx t c).cfg)) = (.ok ra, u))
    (hrb : cmxRows u c 1 (getXr t c (iRs2 w)) (cBpitch (getCmx t c).cfg) (cRow (cBfmt (getCmx t c).cfg)) = (.ok rb, v)) (hidle : CmxIdle v c) :
    Ends (.cmxMma c none) s (fun m => m.mem = v.mem ∧ (getCore m c).pc = (getCore v c).pc + 4 ∧
      (getCmx m c).work = [{ mma := true, writes := [] }] ∧
      (∀ i j : Fin 64, smapGet 0 (getCmx m c).acc (cmxIx (1 - a.val) i j) = smapGet 0 (getCmx v c).acc (cmxIx (1 - a.val) i j))) := by
  obtain ⟨-, -, hf3, hf7, hctx⟩ := id h
  have hacc : (4 + a.val) % 2 = a.val := by omega
  have hx : cmxExec t c w 4 none = .done (retire (ctxDirty (cmxMma v c a ra rb) c 15) c 4) := by
    unfold cmxExec
    dsimp only
    rw [if_neg (by simp [hf3, hctx]), hf7, if_neg (by omega), if_neg (by omega), if_pos (by omega), if_neg (by simp [hrd]), hra]
    dsimp only
    rw [hrb, hacc]
    rfl
  obtain ⟨x, heq, hbeside⟩ := cmxMma_eq hidle a ra rb
  rw [heq] at hx
  exact ⟨_, rfl, waits_of_accepted hidle hbeside (cmxStep_of_one h (l := [4, 5]) (by simp; omega) none hx).dirty⟩

theorem ends_cmxLda {u : Mach} {a : Fin 2} {rows : List (List (Nat × Nat))} (h : CmxOne s.mach c (0xA + a.val) w t) (hrd : iRd w = 0)
    (hfmt : cOfmt (getCmx t c).cfg = kFP32 ∨ cOfmt (getCmx t c).cfg = kANC80)
    (hrows : cmxRows t c 1 (getXr t c (iRs1 w)) (getXr t c (iRs2 w)) (cRow (cOfmt (getCmx t c).cfg)) = (.ok rows, u)) (hidle : CmxIdle u c)
    (hlen : rows.length = 64) :
    Ends (.cmxLda c) s (fun m => m.mem = u.mem ∧ (getCore m c).pc = (getCore u c).pc + 4 ∧
      (getCmx m c).work = [{ mma := false, writes := [] }] ∧
      (∀ i j : Fin 64, smapGet 0 (getCmx m c).acc (cmxIx (1 - a.val) i j) = smapGet 0 (getCmx u c).acc (cmxIx (1 - a.val) i j))) := by
  obtain ⟨-, -, hf3, hf7, hctx⟩ := id h
  have hacc : (0xA + a.val) % 2 = a.val := by omega
  have hgo : ¬ (iRd w ≠ 0 ∨ cOfmt (getCmx t c).cfg ≠ kFP32 ∧ cOfmt (getCmx t c).cfg ≠ kANC80) := fun hbad =>
    hbad.elim (fun hne => hne hrd) fun hne => hfmt.elim hne.1 hne.2
  have hx : cmxExec t c w 4 none = .done (retire (ctxDirty (cmxLda u c a rows) c 15) c 4) := by
    unfold cmxExec
    dsimp only
    rw [if_neg (by simp [hf3, hctx]), hf7, if_neg (by omega), if_neg (by omega), if_neg (by omega), if_neg (by omega), if_neg (by omega),
      if_pos (by omega), if_neg hgo, hrows]
    dsimp only
    rw [hacc]
  obtain ⟨x, heq, hbeside⟩ := cmxLda_eq hidle a hlen
  rw [heq] at hx
  exact ⟨_, rfl, waits_of_accepted hidle hbeside (cmxStep_of_one h (l := [0xA, 0xB]) (by simp; omega) none hx).dirty⟩

/-- A unit with more flags seen. -/
def Cmx.saw (x : Cmx) (fl : Nat) (p : Bool) : Cmx := { x with flags := fl, pois := p }

theorem cmxSta_eq (u : Mach) (c a : Nat) (rows : List (List (Nat × Nat))) : ∃ (fl : Nat → Nat) (p : Bool → Bool) (l : List (Nat × List Byte × Bool)),
    cmxSta u c a rows = cmxAccept (modCmx u c (fun y => y.saw (fl y.flags) (p y.pois))) c { mma := false, writes := l } := by
  unfold cmxSta
  dsimp only
  exact ⟨fun f => List.foldl _ f _, fun p => p || _, _, rfl⟩

theorem ends_cmxSta {u : Mach} {a : Fin 2} {rows : List (List (Nat × Nat))} (h : CmxOne s.mach c (6 + a.val) w t) (hrd : iRd w = 0)
    (hrows : cmxRows t c 2 (getXr t c (iRs1 w)) (getXr t c (iRs2 w)) (cRow (cOfmt (getCmx t c).cfg)) = (.ok rows, u)) (hidle : CmxIdle u c) :
    Ends (.cmxSta c none) s (fun m => m.mem = u.mem ∧ (getCore m c).pc = (getCore u c).pc + 4 ∧
      (getCmx m c).acc = (getCmx u c).acc ∧ ∃ l, (getCmx m c).work = [{ mma := false, writes := l }]) := by
  obtain ⟨-, -, hf3, hf7, hctx⟩ := id h
  have hacc : (6 + a.val) % 2 = a.val := by omega
  have hx : cmxExec t c w 4 none = .done (retire (cmxSta u c a rows) c 4) := by
    unfold cmxExec
    dsimp only
    rw [if_neg (by simp [hf3, hctx]), hf7, if_neg (by omega), if_neg (by omega), if_neg (by omega), if_pos (by omega), if_neg (by simp [hrd]),
      hrows]
    dsimp only
    rw [hacc]
    rfl
  obtain ⟨fl, p, l, heq⟩ := cmxSta_eq u c a rows
  rw [heq] at hx
  obtain ⟨hmem, hcmx, hpc, -⟩ := cmxStep_of_one h (l := [6, 7]) (by simp; omega) none hx
  have hwork : ((getCmx u c).saw (fl (getCmx u c).flags) (p (getCmx u c).pois)).work = [] := hidle.1 c
  obtain ⟨hmem', hpc'⟩ := accepted_outside hidle.1 (f := fun y => y.saw (fl y.flags) (p y.pois)) hwork { mma := false, writes := l }
  refine ⟨_, rfl, ?_⟩
  dsimp only
  rw [hmem, hcmx, hpc, hmem', hpc', getCmx_accepted hidle.1 (f := fun y => y.saw (fl y.flags) (p y.pois)) hwork]
  exact ⟨rfl, rfl, rfl, l, rfl⟩

/-! ### WAIT (R363) -/

theorem getCore_sbSeal (s : Mach) (c : CoreNo) : getCore (sbSeal s c) c =
    { getCore s c with sb := (getCore s c).sb.map (fun e => { e with mergeable := false }) } := getCore_modCore_same s c _

theorem mem_sbSeal (s : Mach) (c : Nat) : (sbSeal s c).mem = s.mem := rfl

theorem mem_putXr (s : Mach) (c r v : Nat) : (putXr s c r v).mem = s.mem := offHart_mem.putXr s c r v

theorem cmx_putXr (s : Mach) (c : CoreNo) (r v : Nat) : getCmx (putXr s c r v) c = getCmx s c := by
  unfold putXr getCmx
  refine iteInduction (motive := fun m : Mach => (getCore m c).cmx = (getCore s c).cmx) (fun _ => rfl) fun _ => ?_
  rw [getCore_modCore_same]

/-- What WAIT gives: the flags and whether poison was seen. -/
def Cmx.waitWord (x : Cmx) : Nat := x.flags % 2 ^ 16 + (if x.pois then 2 ^ 16 else 0)

theorem waitWord_lt (x : Cmx) : x.waitWord < 2 ^ 64 := by
  unfold Cmx.waitWord
  split <;> omega

theorem ends_cmxWait (h : CmxOne s.mach c 8 w t) (hr1 : iRs1 w = 0) (hr2 : iRs2 w = 0) (hidle : CmxIdle t c) :
    Ends (.cmxWait c) s (fun m => m.mem = t.mem ∧ (getCmx m c).flags = 0 ∧ (getCmx m c).pois = false ∧
      (getCore m c).pc = (getCore t c).pc + 4 ∧
      (iRd w ≠ 0 → getXr m c (iRd w) = (getCmx t c).flags % 2 ^ 16 + (if (getCmx t c).pois then 2 ^ 16 else 0))) := by
  obtain ⟨-, -, hf3, hf7, hctx⟩ := id h
  have hempty : (getCore (sbSeal t c) c).sb = [] := by
    rw [getCore_sbSeal, hidle.2]
    rfl
  obtain ⟨u, hu⟩ : ∃ u, u = modCmx (sbSeal t c) c (fun q => { q with flags := 0, pois := false }) := ⟨_, rfl⟩
  have hx : cmxExec t c w 4 none = .done (retire (putXr u c (iRd w) (getCmx t c).waitWord) c 4) := by
    unfold cmxExec
    dsimp only
    rw [if_neg (by simp [hf3, hctx]), hf7, if_neg (by omega), if_neg (by omega), if_neg (by omega), if_neg (by omega), if_pos rfl,
      if_neg (by simp [hr1, hr2]), cmxFinish_idle (hidle.1 c), drainAll_empty hempty, ← hu]
    rfl
  obtain ⟨hmem, hcmx, hpc, hregs⟩ := cmxStep_of_one h (l := [8]) (by decide) none hx
  have hucmx : getCmx u c = { getCmx (sbSeal t c) c with flags := 0, pois := false } := by rw [hu, getCmx_modCmx]
  have hupc : (getCore u c).pc = (getCore t c).pc := by rw [hu, pc_modCmx, getCore_sbSeal]
  have humem : u.mem = t.mem := by rw [hu, mem_modCmx, mem_sbSeal]
  refine ⟨_, rfl, ?_⟩
  dsimp only
  rw [hmem, hcmx, hpc, mem_putXr, cmx_putXr, pc_putXr, hucmx, hupc, humem]
  refine ⟨rfl, rfl, rfl, rfl, fun hne => ?_⟩
  rw [getXr_of_x hregs, getXr_putXr, if_pos ⟨rfl, hne⟩, Nat.mod_eq_of_lt (waitWord_lt _)]
  rfl

end

/-! ### Completion and squashes (R364, R366, R368) -/

section
variable {s : State} {c : CoreNo}

theorem cmxCount_uncounted (c : CoreNo) : Uncounted (RegRef.addr ⟨.CMX_COUNT, c.val / 8, 0⟩) := by
  have hdie (k : Nat) : coreDieId k = 1 ∨ coreDieId k = 0x11 := by
    unfold coreDieId
    split
    · exact Or.inl rfl
    · exact Or.inr rfl
  have hd := hdie (c.val / 8 / 6)
  unfold Uncounted
  simp only [RegRef.addr, RegName.info, Blk.base, dieBase]
  omega

/-- The oldest work of a core taken from its unit. -/
def tookWork (s : Mach) (c : Nat) (l : List CmxWork) : Mach := modCore (modCmx s c (fun x => { x with work := l })) c (fun y => { y with
  resv := (getCore (modCmx s c (fun x => { x with work := l })) c).resv })

theorem getCmx_tookWork (s : Mach) (c : CoreNo) (l : List CmxWork) : (getCmx (tookWork s c l) c).work = l := by
  unfold tookWork getCmx
  rw [getCore_modCore_same]
  exact congrArg Cmx.work (getCmx_modCmx s c _)

theorem mem_tookWork (s : Mach) (c : Nat) (l : List CmxWork) : (tookWork s c l).mem = s.mem := rfl
theorem csr_tookWork (s : Mach) (c : Nat) (l : List CmxWork) : (tookWork s c l).csr = s.csr := rfl

theorem ends_cmxComplete {l : List CmxWork} (hwork : (getCmx s.mach c).work = { mma := true, writes := [] } :: l) :
    Ends (.cmxComplete c) s (fun m => m.mem = s.mach.mem ∧ (getCmx m c).work = l ∧
      rf m .CMX_COUNT (c.val / 8) 0 63 32 = sat 32 (rf s.mach .CMX_COUNT (c.val / 8) 0 63 32 + 1)) := by
  obtain ⟨t, ht⟩ : ∃ t, t = tookWork s.mach c l := ⟨_, rfl⟩
  obtain ⟨u, hu⟩ : ∃ u, u = bump t .CMX_COUNT (c.val / 8) 0 63 32 1 := ⟨_, rfl⟩
  obtain ⟨p, o, heq⟩ : ∃ p o, cmxComplete s.mach c = book (bumpAo u (coreDieId (coreDieOf c)) 5 1) p o 12 1 := by
    unfold cmxComplete
    rw [hwork, hu, ht]
    exact ⟨_, _, rfl⟩
  have hunits : (cmxComplete s.mach c).units = t.units := by
    rw [heq, units_book, units_bumpAo, hu, units_bump]
  have hdie : coreDieId (coreDieOf c) < 32 := by
    unfold coreDieId
    split <;> decide
  have hcount : rg (cmxComplete s.mach c) .CMX_COUNT (c.val / 8) 0 = rg u .CMX_COUNT (c.val / 8) 0 := by
    rw [heq]
    exact rg_bumpAo_of_uncounted (cmxCount_uncounted c) hdie (by decide) u 1
  refine ⟨_, rfl, ?_, ?_, ?_⟩
  · exact (mem_of_units hunits).trans (by rw [ht, mem_tookWork])
  · show (getCmx (cmxComplete s.mach c) c).work = l
    unfold getCmx
    rw [getCore_of_cores (cores_of_units hunits), ht]
    exact getCmx_tookWork s.mach c l
  · show fld (rg (cmxComplete s.mach c) .CMX_COUNT (c.val / 8) 0) 63 32 = _
    rw [hcount, hu]
    refine (rf_bump t .CMX_COUNT (c.val / 8) 0 63 32 1 (by decide) (by decide)).trans ?_
    rw [show rf t .CMX_COUNT (c.val / 8) 0 63 32 = rf s.mach .CMX_COUNT (c.val / 8) 0 63 32 from
      congrArg (fld · 63 32) (rg_of_csr (by rw [ht, csr_tookWork]) _ _ _)]

theorem ends_cmxSquash : Ends (.cmxSquash c) s (fun m => m.units = s.mach.units ∧
    rf m .CMX_COUNT (c.val / 8) 0 31 0 = sat 32 (rf s.mach .CMX_COUNT (c.val / 8) 0 31 0 + 1)) :=
  ⟨_, rfl, units_bump _ _ _ _ _ _ _, rf_bump _ _ _ _ _ _ _ (by decide) (by decide)⟩

end

/-- Settles O40. -/
theorem tileUnitsRun : Obligations.TileUnitsRun :=
  ⟨fun _ _ _ _ h hrd hr2 hcfg => ends_cmxCfg h hrd hr2 hcfg,
    fun _ _ _ _ _ h hrd hr1 hr2 => ends_cmxZero h hrd hr1 hr2,
    fun _ _ _ _ _ _ _ _ _ h hrd hra hrb hidle => ends_cmxMma h hrd hra hrb hidle,
    fun _ _ _ _ _ _ _ h hrd hrows hidle => ends_cmxSta h hrd hrows hidle,
    fun _ _ _ _ h hr1 hr2 hidle => ends_cmxWait h hr1 hr2 hidle,
    fun _ _ _ _ _ _ _ h hrd hfmt hrows hidle hlen => ends_cmxLda h hrd hfmt hrows hidle hlen,
    fun _ _ _ hwork => ends_cmxComplete hwork, fun _ _ => ends_cmxSquash⟩

end Sys2Proof.Machine
end

section
/-! What moves leave of the package as they go on (R302, R306, R308, R311, R313). -/

namespace Sys2Proof.Machine

/-- A move asks for translations: its list of pages asked and the queue of its unit's translation port change. -/
theorem askPages_keeps {β : Type} {g : Mach → β} {u i : Nat}
    (hmv : ∀ (s : Mach) (l : List (Nat × Bool)), g (modMv s u i (fun m => { m with asked := m.asked ++ l })) = g s)
    (hetr : ∀ (s : Mach) (f : Etr → Etr), g (modEtr s u f) = g s) (s : Mach) : g (askPages s u i) = g s := by
  unfold askPages
  refine foldS_keeps g _ _ _ fun t w => ?_
  cases getMv t u i
  case none => rfl
  case some m =>
    refine foldS_keeps g _ _ _ fun v p => ?_
    cases getMv v u i
    case none => rfl
    case some m =>
      refine iteInduction (motive := fun x : Mach => g x = g v) (fun _ => rfl) fun _ => ?_
      exact (hmv _ _).trans (hetr v _)

/-- A part of the package that moves under way leave: outside the translation ports, the link ports and their requests, and the
records and counts, and outside all of the moves but their courses. -/
structure OffCourse {β : Type} (g : Mach → β) : Prop extends OffTxn g where
  mv : ∀ (s : Mach) (u i : Nat) (f : Move → Move), (∀ m, (f m).course = m.course) → g (modMv s u i f) = g s
  modEtr : ∀ (s : Mach) (u : Nat) (f : Etr → Etr), g (modEtr s u f) = g s
  modPort : ∀ (s : Mach) (p : Nat) (f : Port → Port), g (modPort s p f) = g s
  withReqs : ∀ (s : Mach) (l : List VkReq), g (withReqs s l) = g s
  freeCtr : ∀ (s : Mach) (x : Nat), g { s with freeCtr := x } = g s

namespace OffCourse
variable {β : Type} {g : Mach → β} (h : OffCourse g)
include h

/-! ### Translations and errors -/

theorem askPages (s : Mach) (u i : Nat) : g (askPages s u i) = g s :=
  askPages_keeps (fun s _ => h.mv s u i _ (by intro; rfl)) (fun s f => h.modEtr s u f) s

theorem takeAnswers (s : Mach) (u i : Nat) : g (takeAnswers s u i) = g s := by
  unfold Machine.takeAnswers
  dsimp only
  refine iteInduction (motive := fun x : Mach => g x = g s) (fun _ => rfl) fun _ => ?_
  exact (h.mv _ u i _ (by intro; rfl)).trans (h.modEtr s u _)

theorem barnErr (s : Mach) (d k tid : Nat) (p : Option Nat) (a code : Nat) : g (barnErr s d k tid p a code) = g s := by
  have hdesc (t : Mach) (c : Prop) [Decidable c] (v : Word) : g (if c then Machine.wr t .MOV_BERRDESC d 0 v else t) = g t :=
    iteInduction (motive := fun m : Mach => g m = g t) (fun _ => h.csr.wr t _ _ _ _) fun _ => rfl
  unfold Machine.barnErr
  dsimp only
  rw [h.raise, hdesc, h.recordFirst]

theorem mvErr (s : Mach) (u : Nat) (m : Move) (code : Nat) : g (mvErr s u m code) = g s := by
  unfold Machine.mvErr
  refine iteInduction (motive := fun x : Mach => g x = g s) (fun _ => h.movErr s u m code) fun _ => ?_
  exact (h.barnErr _ _ _ _ _ _ _).trans (h.mv s u _ _ (by intro; rfl))

theorem vkRequest (s : Mach) (mid sid node pt mod_ addr : Nat) (data : List (BitVec 128)) (owner : VkOwner) (due : Option Nat) :
    g (vkRequest s mid sid node pt mod_ addr data owner due).2 = g s :=
  vkRequest_keeps h.modPort h.withReqs s mid sid node pt mod_ addr data owner due

/-! ### Source data -/

theorem readAs (s : Mach) (mid : Nat) (proxy : Option Nat) (tid a n : Nat) : g (readAs s mid proxy tid a n).2 = g s := by
  unfold Machine.readAs
  dsimp only
  split
  · exact h.physRefuse s _ _ _ _ _
  · exact foldS_keeps g _ _ _ fun t l => h.countBytes t _ _ _ _

theorem refusedPiece (s : Mach) (u i blk k n code : Nat) : g (refusedPiece s u i blk k n code) = g s := by
  unfold Machine.refusedPiece
  dsimp only
  split
  · exact (h.mvErr _ u _ code).trans (h.mv s u i _ (by intro; rfl))
  · exact h.mv s u i _ (by intro; rfl)

theorem sourceBeat (s : Mach) (u i : Nat) : g (sourceBeat s u i) = g s := by
  have hcount (t : Mach) (c : Prop) [Decidable c] (n : Nat) : g (if c then Machine.countEv t u 0x0A n else t) = g t :=
    iteInduction (motive := fun m : Mach => g m = g t) (fun _ => h.countEv t u _ _) fun _ => rfl
  unfold Machine.sourceBeat
  obtain ⟨a, ha⟩ : ∃ a, a = Machine.askPages (Machine.takeAnswers s u i) u i := ⟨_, rfl⟩
  have hask : g a = g s := by rw [ha, h.askPages, h.takeAnswers]
  rw [← ha]
  dsimp only
  split
  · exact hask
  split
  · exact hask
  refine iteInduction (motive := fun x : Mach => g x = g s) (fun _ => hask) fun _ => ?_
  refine (foldS_keeps g _ _ _ fun t p => ?_).trans ((hcount _ _ _).trans ((h.mv a u i _ (by intro; rfl)).trans hask))
  refine (foldS_keeps g _ _ _ fun v q => ?_).trans (foldS_keeps g _ _ _ fun v q => ?_)
  · split
    · split
      · exact (h.mv _ u i _ (by intro; rfl)).trans (h.readAs v _ _ _ _ _)
      · exact (h.refusedPiece _ u i _ _ _ _).trans (h.readAs v _ _ _ _ _)
    · exact h.mv v u i _ (by intro; rfl)
    · exact h.refusedPiece v u i _ _ _ _
    · rfl
  · split
    · split
      · exact (h.mv _ u i _ (by intro; rfl)).trans (h.vkRequest v _ _ _ _ _ _ _ _ _)
      · exact (h.refusedPiece _ u i _ _ _ _).trans (h.vkRequest v _ _ _ _ _ _ _ _ _)
    · split
      · exact (h.mv _ u i _ (by intro; rfl)).trans (h.vkRequest v _ _ _ _ _ _ _ _ _)
      · exact (h.refusedPiece _ u i _ _ _ _).trans (h.vkRequest v _ _ _ _ _ _ _ _ _)
    · rfl

/-! ### Readiness and husk decode -/

theorem beatReady (s : Mach) (u i blk : Nat) : g (beatReady s u i blk).2 = g s := by
  unfold Machine.beatReady
  split
  · rfl
  dsimp only
  split
  · refine foldS_keeps g _ _ _ fun t k => ?_
    split
    · exact h.readLoftBeat t u _ k
    · rfl
  · rfl

theorem drawBytes (s : Mach) (n : Nat) : g (drawBytes s n).2 = g s := h.freeCtr s _

theorem decodeHusk (s : Mach) (u i : Nat) : g (decodeHusk s u i) = g s := by
  have hcount (c : Prop) [Decidable c] (n : Nat) : g (if c then Machine.countEv (bump s .MOV_HUSK u 0 63 0 n) u 0x0C n else s) = g s :=
    iteInduction (motive := fun m : Mach => g m = g s) (fun _ => (h.countEv _ u _ _).trans (h.csr.bump s _ _ _ _ _ _)) fun _ => rfl
  have hdrawn (c : Prop) [Decidable c] (n k : Nat) (f : Move → Move) (hf : ∀ m, (f m).course = m.course) :
      g (modMv (Machine.drawBytes (if c then Machine.countEv (bump s .MOV_HUSK u 0 63 0 n) u 0x0C n else s) k).2 u i f) = g s :=
    (h.mv _ u i f hf).trans ((h.drawBytes _ k).trans (hcount c n))
  unfold Machine.decodeHusk
  split
  · rfl
  refine iteInduction (motive := fun x : Mach => g x = g s) (fun _ => rfl) fun _ => ?_
  dsimp only
  refine iteInduction (motive := fun x : Mach => g x = g s) (fun _ => hdrawn _ _ _ _ (by intro; rfl)) fun _ => ?_
  split
  · exact (h.mvErr _ u _ _).trans (hdrawn _ _ _ _ (by intro; rfl))
  · exact hdrawn _ _ _ _ (by intro; rfl)

/-! ### Landings -/

theorem remoteWrite (s : Mach) (u i node : Nat) (loft : Bool) (a n : Nat) (bs : List Byte) (p : Nat) :
    g (remoteWrite s u i node loft a n bs p) = g s := by
  unfold Machine.remoteWrite
  split
  · rfl
  dsimp only
  split
  · split
    · split
      · exact (h.mv _ u i _ (by intro; rfl)).trans (h.vkRequest s _ _ _ _ _ _ _ _ _)
      · exact (h.mvErr _ u _ _).trans (h.vkRequest s _ _ _ _ _ _ _ _ _)
    · split
      · exact (h.mv _ u i _ (by intro; rfl)).trans (h.vkRequest s _ _ _ _ _ _ _ _ _)
      · exact (h.mvErr _ u _ _).trans (h.vkRequest s _ _ _ _ _ _ _ _ _)
  · refine foldS_keeps g _ _ _ fun t q => ?_
    split
    · rfl
    split
    · exact (h.mv _ u i _ (by intro; rfl)).trans (h.vkRequest t _ _ _ _ _ _ _ _ _)
    · exact (h.mvErr _ u _ _).trans (h.vkRequest t _ _ _ _ _ _ _ _ _)

theorem remoteAdd (s : Mach) (u i node a : Nat) (els : List (Nat × DstUnit)) : g (remoteAdd s u i node a els) = g s := by
  unfold Machine.remoteAdd
  split
  · rfl
  dsimp only
  split
  · exact (h.mv _ u i _ (by intro; rfl)).trans (h.vkRequest s _ _ _ _ _ _ _ _ _)
  · exact (h.mvErr _ u _ _).trans (h.vkRequest s _ _ _ _ _ _ _ _ _)

end OffCourse

/-- Elements are added at a home: what accesses to memory leave. -/
theorem OffHome.nmaAt {β : Type} {g : Mach → β} (h : OffHome g) (s : Mach) (mid : Nat) (proxy : Option Nat) (tid op : Nat)
    (els : List (Nat × Nat × Bool)) : g (nmaAt s mid proxy tid op els).2 = g s := by
  unfold Machine.nmaAt
  dsimp only
  split
  · rfl
  split
  · exact h.refuseMem s _ _ _ _
  split
  · exact h.physRefuse s _ _ _ _ _
  split
  · dsimp only
    split
    · split
      · exact h.grnErr s _ _
      · rfl
    · rfl
  · refine (foldS_keeps g _ _ _ fun t l => h.countBytes t _ _ _ _).trans ?_
    exact List.foldlRecOn (motive := fun a : Nat × Mach => g a.2 = g s) els _ rfl fun a ha e _ => (h.cohWrite _ _ _ _).trans ha

namespace OffCourse
variable {β : Type} {g : Mach → β} (h : OffCourse g)
include h

/-- What a piece that lands leaves, where it follows a part that moves leave and the writes of memory keep it. -/
theorem landPiece_keeps {P : Mach → Prop} (hP : ∀ {s t : Mach}, g t = g s → P s → P t)
    (hw : ∀ (s : Mach) (mid : Nat) (x : Option Nat) (tid a : Nat) (bs : List Byte) (p : Bool), P s → P (writeAs s mid x tid a bs p).2)
    {s : Mach} (hs : P s) (u i k n num gp : Nat) : P (landPiece s u i k n num gp) := by
  have hlanded (t : Mach) (c d : Prop) [Decidable c] [Decidable d] (j : Nat) :
      g (if d then modMv (if c then Machine.countEv (bump t .MOV_BYTES u j 63 0 n) u 0x0B n else t) u i (fun m => { m with pois := true })
        else if c then Machine.countEv (bump t .MOV_BYTES u j 63 0 n) u 0x0B n else t) = g t := by
    have hcount : g (if c then Machine.countEv (bump t .MOV_BYTES u j 63 0 n) u 0x0B n else t) = g t :=
      iteInduction (motive := fun m : Mach => g m = g t) (fun _ => (h.countEv _ u _ _).trans (h.csr.bump t _ _ _ _ _ _)) fun _ => rfl
    exact iteInduction (motive := fun m : Mach => g m = g t) (fun _ => (h.mv _ u i _ (by intro; rfl)).trans hcount) fun _ => hcount
  unfold Machine.landPiece
  split
  · exact hs
  dsimp only
  split
  · refine iteInduction (motive := P) (fun _ => hP (h.cutMove s u _) hs) fun _ => ?_
    refine iteInduction (motive := P) (fun _ => hP ?_ hs) fun _ => hP ((h.mvErr _ u _ _).trans (h.lftErr_unraised s _ _ _ _)) hs
    exact (hlanded _ _ _ _).trans ((h.loftPut _ _ _ _ _ _).trans (h.countLoftWrite s _ _))
  · refine List.foldlRecOn (motive := P) _ _ (hP (hlanded s _ _ _) hs) fun t ht q _ => ?_
    split
    · exact ht
    · exact iteInduction (motive := P) (fun _ => hw _ _ _ _ _ _ _ ht) fun _ => hP (h.mvErr _ u _ _) (hw _ _ _ _ _ _ _ ht)
  · exact hP ((hlanded _ _ _ _).trans (h.remoteWrite s u i _ _ _ _ _ _)) hs
  · exact hP ((hlanded _ _ _ _).trans (h.remoteWrite s u i _ _ _ _ _ _)) hs
  · exact hP (h.mvErr s u _ _) hs
  · exact hs

end OffCourse

/-! ### Output beats -/

/-- The package once a move has taken the answers of its translations and asked for more. -/
def askedOf (s : Mach) (u i : Nat) : Mach := askPages (takeAnswers s u i) u i

/-- The pieces of an output beat, each with its row. -/
def beatPieces (d : Line) (blk : Nat) : List ((Nat × Nat × Nat × Nat × Nat) × Nat × Nat) :=
  (beatRows d blk).flatMap (fun r => (chunkPieces r.2.2.2.1 r.2.2.2.2).map (fun q => (r, q)))

/-- One piece of an output beat lands. -/
def landRow (u i : Nat) (t : Mach) (x : (Nat × Nat × Nat × Nat × Nat) × Nat × Nat) : Mach :=
  match getMv t u i with
  | none => t
  | some m =>
    let off := x.2.1 - x.1.2.2.1
    let d := pieceData m x.1.1 x.1.2.1 off x.2.2 (x.2.1 - dDst m.desc)
    let t := modMv t u i (fun m => { m with flags := m.flags ||| d.2.2 })
    landPiece t u i x.2.1 x.2.2 d.1 (granBits x.2.1 x.2.2 off d.2.1)

/-- Every piece of an output beat lands. -/
def landRows (u i : Nat) (d : Line) (blk : Nat) (t : Mach) : Mach := foldS (beatPieces d blk) (landRow u i) t

/-- An output beat has landed. -/
def beatLanded (u i : Nat) (t : Mach) : Mach := modMv t u i (fun m => { m with next := m.next + 1, lastAt := t.now })

theorem landBeat_eq (s : Mach) (u i : Nat) : landBeat s u i =
    match getMv (askedOf s u i) u i with
    | none => askedOf s u i
    | some m => match (dstBeats m.desc)[m.next]? with
      | none => askedOf s u i
      | some blk =>
        if (beatReady (askedOf s u i) u i blk).1 = false ∨ beatPlaced (askedOf s u i) u m blk = false ∨ dOp m.desc ≠ 0 then askedOf s u i
        else beatLanded u i (landRows u i m.desc blk (decodeHusk (beatReady (askedOf s u i) u i blk).2 u i)) := rfl

namespace OffCourse
variable {β : Type} {g : Mach → β} (h : OffCourse g)
include h

theorem askedOf (s : Mach) (u i : Nat) : g (askedOf s u i) = g s := (h.askPages _ u i).trans (h.takeAnswers s u i)

theorem landRow_keeps {P : Mach → Prop} (hP : ∀ {s t : Mach}, g t = g s → P s → P t)
    (hw : ∀ (s : Mach) (mid : Nat) (x : Option Nat) (tid a : Nat) (bs : List Byte) (p : Bool), P s → P (writeAs s mid x tid a bs p).2)
    {s : Mach} (hs : P s) (u i : Nat) (x : (Nat × Nat × Nat × Nat × Nat) × Nat × Nat) : P (landRow u i s x) := by
  unfold landRow
  split
  · exact hs
  · exact h.landPiece_keeps hP hw (hP (h.mv s u i _ (by intro; rfl)) hs) u i _ _ _ _

theorem landRows_keeps {P : Mach → Prop} (hP : ∀ {s t : Mach}, g t = g s → P s → P t)
    (hw : ∀ (s : Mach) (mid : Nat) (x : Option Nat) (tid a : Nat) (bs : List Byte) (p : Bool), P s → P (writeAs s mid x tid a bs p).2)
    {s : Mach} (hs : P s) (u i : Nat) (d : Line) (blk : Nat) : P (landRows u i d blk s) :=
  List.foldlRecOn (motive := P) _ _ hs fun _ ht x _ => h.landRow_keeps hP hw ht u i x

theorem landRows (hh : OffHome g) (s : Mach) (u i : Nat) (d : Line) (blk : Nat) : g (landRows u i d blk s) = g s :=
  h.landRows_keeps (P := fun m => g m = g s) (fun e hs => e.trans hs) (fun t _ _ _ _ _ _ hs => (hh.writeAs t _ _ _ _ _ _).trans hs)
    rfl u i d blk

end OffCourse

/-! ### Barn movers (R313) -/

/-- A part of the package that the barn movers leave as they carry out what they have taken: the same, and outside the moves, the
tokens in flight and the completions of work rings. -/
structure OffMoves {β : Type} (g : Mach → β) : Prop extends OffHome g, OffCourse g where
  anyMv : ∀ (s : Mach) (u i : Nat) (f : Move → Move), g (modMv s u i f) = g s
  barnMoves : ∀ (s : Mach) (d : Nat) (f : List Move → List Move), g (modBarnMov s d (fun x => { x with moves := f x.moves })) = g s
  toks : ∀ (s : Mach) (x : List TokFlight), g { s with toks := x } = g s
  ringDone : ∀ (s : Mach) (x : List RingDone), g { s with ringDone := x } = g s

namespace OffMoves
variable {β : Type} {g : Mach → β} (h : OffMoves g)
include h

theorem landBeat (s : Mach) (u i : Nat) : g (landBeat s u i) = g s := by
  have hask := h.toOffCourse.askedOf s u i
  rw [landBeat_eq]
  split
  · exact hask
  split
  · exact hask
  refine iteInduction (motive := fun m : Mach => g m = g s) (fun _ => hask) fun _ => ?_
  unfold beatLanded
  rw [h.anyMv, h.toOffCourse.landRows h.toOffHome, h.toOffCourse.decodeHusk, h.toOffCourse.beatReady, hask]

theorem addBeat (s : Mach) (u i : Nat) : g (addBeat s u i) = g s := by
  unfold Machine.addBeat
  obtain ⟨a, ha⟩ : ∃ a, a = Machine.askPages (Machine.takeAnswers s u i) u i := ⟨_, rfl⟩
  have hask : g a = g s := by rw [ha, h.toOffCourse.askPages, h.toOffCourse.takeAnswers]
  rw [← ha]
  dsimp only
  split
  · exact hask
  split
  · exact hask
  refine iteInduction (motive := fun m : Mach => g m = g s) (fun _ => hask) fun _ => ?_
  refine (h.anyMv _ u i _).trans ((foldS_keeps g _ _ _ fun t l => ?_).trans ((h.toOffCourse.beatReady a u i _).trans hask))
  split
  · rfl
  refine iteInduction (motive := fun m : Mach => g m = g t) (fun _ => rfl) fun _ => ?_
  split
  · have hadd (mid : Nat) (x : Option Nat) (tid op : Nat) (els : List (Nat × Nat × Bool)) : g (nmaAt t mid x tid op els).2 = g t :=
      h.toOffHome.nmaAt t mid x tid op els
    split
    · exact (h.anyMv _ u i _).trans (hadd _ _ _ _ _)
    · exact (h.anyMv _ u i _).trans (hadd _ _ _ _ _)
    · exact (h.anyMv _ u i _).trans ((h.toOffCourse.mvErr _ u _ _).trans (hadd _ _ _ _ _))
    · exact (h.toOffCourse.mvErr _ u _ _).trans (hadd _ _ _ _ _)
  · exact h.toOffCourse.remoteAdd t u i _ _ _
  · exact h.toOffCourse.mvErr t u _ _
  · rfl

theorem unroutable (s : Mach) (n : Nat) : g (unroutable s n) = g s := by
  unfold Machine.unroutable vkRecord drawWord
  dsimp only
  rw [h.raise, h.freeCtr]

theorem sendExpress (s : Mach) (d t n : Nat) (e : Express) : g (sendExpress s d t n e) = g s := by
  unfold Machine.sendExpress
  split
  · exact h.unroutable s n
  · exact h.modPort s _ _

theorem sendOrDrop (s : Mach) (p : Pkt) : g (sendOrDrop s p) = g s := by
  unfold Machine.sendOrDrop sendPkt
  cases routePort s p.dnode
  case none => exact h.unroutable s _
  case some q => exact h.modPort s q _

theorem tokErr (s : Mach) (b code a : Nat) : g (tokErr s b code a) = g s := (h.raiseBay _ b _).trans (h.recordFirst s _ _ _ _)

theorem moveToken (s : Mach) (u : Nat) (m : Move) (edge : Nat) : g (moveToken s u m edge) = g s := by
  have hlocal (c d : Prop) [Decidable c] [Decidable d] (l : List TokFlight) :
      g (if c then { s with toks := l } else if d then Machine.tokErr s u 3 (dCompl m.desc) else s) = g s :=
    iteInduction (motive := fun m : Mach => g m = g s) (fun _ => h.toks s l) fun _ =>
      iteInduction (motive := fun m : Mach => g m = g s) (fun _ => h.tokErr s u 3 _) fun _ => rfl
  unfold Machine.moveToken
  dsimp only
  refine iteInduction (motive := fun m : Mach => g m = g s) (fun _ => rfl) fun _ => ?_
  refine iteInduction (motive := fun m : Mach => g m = g s) (fun _ => hlocal _ _ _) fun _ => ?_
  split
  · exact h.sendExpress s _ _ _ _
  refine iteInduction (motive := fun m : Mach => g m = g s) (fun _ => ?_) fun _ => h.sendOrDrop s _
  split
  · exact h.modPort s _ _
  · exact h.unroutable s _

theorem completeBarn (s : Mach) (d : Nat) (m : Move) : g (completeBarn s d m) = g s := by
  have hflags (c : Prop) [Decidable c] (v : Nat) : g (if c then s else wf s .MOV_BFLAGS d 0 15 0 v) = g s :=
    iteInduction (motive := fun m : Mach => g m = g s) (fun _ => rfl) fun _ => h.csr.wr s _ _ _ _
  have hover (c : Prop) [Decidable c] (t : Mach) (f : List Move → List Move) :
      g (if c then Machine.moveToken (modBarnMov t d (fun x => { x with moves := f x.moves })) (72 + d) m 0
        else modBarnMov t d (fun x => { x with moves := f x.moves })) = g t :=
    iteInduction (motive := fun m : Mach => g m = g t) (fun _ => (h.moveToken _ _ m 0).trans (h.barnMoves t d f)) fun _ => h.barnMoves t d f
  unfold Machine.completeBarn
  dsimp only
  split
  · rw [h.ringDone, hover, h.csr.bump, hflags]
  · rw [hover, h.csr.bump, hflags]

theorem barnRun (s : Mach) (d i : Nat) : g (barnRun s d i) = g s := by
  unfold Machine.barnRun
  dsimp only
  split
  · rfl
  next m _ =>
    obtain ⟨a, ha⟩ : ∃ a, a = foldS (dstBeats m.desc) (fun t _ => if dOp m.desc = 0 then Machine.landBeat t (72 + d) i else Machine.addBeat t (72 + d) i)
        (foldS (srcBeats m.desc) (fun t _ => Machine.sourceBeat t (72 + d) i) s) := ⟨_, rfl⟩
    have hrun : g a = g s := by
      rw [ha]
      refine (foldS_keeps g _ _ _ fun t _ => ?_).trans (foldS_keeps g _ _ _ fun t _ => h.toOffCourse.sourceBeat t _ i)
      exact iteInduction (motive := fun x : Mach => g x = g t) (fun _ => h.landBeat t _ i) fun _ => h.addBeat t _ i
    have hend (c : Prop) [Decidable c] (x : Move) (f : Move → Move) : g (if c then modMv (Machine.mvErr a (72 + d) x 4) (72 + d) i f else a) = g a :=
      iteInduction (motive := fun x : Mach => g x = g a) (fun _ => (h.anyMv _ _ i f).trans (h.toOffCourse.mvErr a _ _ _)) fun _ => rfl
    have hover (e : Mach) (he : g e = g s) (x : Option Move) :
        g (match x with | some m => if moveOver e (72 + d) m then Machine.completeBarn e d m else e | none => e) = g s := by
      cases x with
      | none => exact he
      | some m => exact iteInduction (motive := fun x : Mach => g x = g s) (fun _ => (h.completeBarn e d m).trans he) fun _ => he
    rw [← ha]
    split
    · exact hrun
    · exact hover _ ((hend _ _ _).trans hrun) _

end OffMoves

end Sys2Proof.Machine
end

section
/-! What moves under way leave, of a bay's movers and of the rest (R300, R302, R309). -/

namespace Sys2Proof.Machine

/-- What a bay's movers show of their moves and queues. -/
structure MovView where
  nextId : Nat
  flexq : List FlexMove
  waiting : List FlexMove
  courses : List Course

def movView (b : Nat) (m : Mach) : MovView :=
  { nextId := (getMov m b).nextId, flexq := (getMov m b).flexq, waiting := (getMov m b).waiting,
    courses := (getMov m b).moves.map Move.course }

/-- A change of a move, by identity, that keeps its course. -/
theorem courses_mod (l : List Move) (i : Nat) (f : Move → Move) (hf : ∀ m, (f m).course = m.course) :
    (l.map (fun m => if m.id = i then f m else m)).map Move.course = l.map Move.course := by
  rw [List.map_map]
  refine List.map_congr_left fun m _ => ?_
  exact iteInduction (motive := fun x : Move => x.course = m.course) (fun _ => hf m) fun _ => rfl

theorem movView_of_mov {s t : Mach} {b : Nat} (h : getMov s b = getMov t b) : movView b s = movView b t := by
  unfold movView
  rw [h]

theorem movView_modMove (s : Mach) (b : Fin 72) (c i : Nat) (f : Move → Move) (hf : ∀ m, (f m).course = m.course) :
    movView b (modMove s c i f) = movView b s := by
  unfold modMove modMov
  by_cases hc : c = b.val
  · subst hc
    have h := getMov_modMov s b (fun x => { x with moves := x.moves.map (fun m => if m.id = i then f m else m) })
    unfold modMov at h
    unfold movView
    rw [h]
    dsimp only
    rw [courses_mod _ i f hf]
  · refine movView_of_mov (congrArg Bay.mov ((getBay_modBay s c b _).trans (if_neg fun e => hc e.1.symm)))

theorem mov_modEtr (s : Mach) (b : Fin 72) (u : Nat) (f : Etr → Etr) : getMov (modEtr s u f) b = getMov s b := by
  unfold modEtr
  exact iteInduction (motive := fun m : Mach => getMov m b = getMov s b) (fun _ => part_modBay s b u _ Bay.mov fun _ => rfl) fun _ => rfl

theorem movView_modMv (s : Mach) (b : Fin 72) (u i : Nat) (f : Move → Move) (hf : ∀ m, (f m).course = m.course) :
    movView b (modMv s u i f) = movView b s := by
  unfold modMv
  exact iteInduction (motive := fun m : Mach => movView b m = movView b s) (fun _ => movView_modMove s b u i f hf) fun _ => rfl

theorem offCourse_movView (b : Fin 72) : OffCourse (movView b) where
  csr _ _ := rfl
  wire _ _ _ := rfl
  events _ _ := rfl
  memory _ _ _ := rfl
  memPois _ _ := rfl
  held _ _ := rfl
  dir _ _ := rfl
  cores _ _ := rfl
  shfResv _ _ := rfl
  loft _ _ := rfl
  loftPois _ _ := rfl
  move s c i f hf := movView_modMove s b c i f hf
  trcWire _ _ := rfl
  fireIf s c i f := movView_of_mov (mov_of_units (units_fireIf s c i f) b)
  mv s u i f hf := movView_modMv s b u i f hf
  modEtr s u f := movView_of_mov (mov_modEtr s b u f)
  modPort _ _ _ := rfl
  withReqs _ _ := rfl
  freeCtr _ _ := rfl

theorem offHome_movView (b : Fin 72) : OffHome (movView b) := { (offCourse_movView b).toOffTxn with now := fun _ _ => rfl }

theorem now_modMv (s : Mach) (u i : Nat) (f : Move → Move) : (modMv s u i f).now = s.now := by
  unfold modMv
  exact iteInduction (motive := fun m : Mach => m.now = s.now) (fun _ => rfl) fun _ => rfl

theorem offCourse_now : OffCourse Mach.now where
  csr _ _ := rfl
  wire _ _ _ := rfl
  events _ _ := rfl
  memory _ _ _ := rfl
  memPois _ _ := rfl
  held _ _ := rfl
  dir _ _ := rfl
  cores _ _ := rfl
  shfResv _ _ := rfl
  loft _ _ := rfl
  loftPois _ _ := rfl
  move _ _ _ _ _ := rfl
  trcWire _ _ := rfl
  fireIf := now_fireIf
  mv s u i f _ := now_modMv s u i f
  modEtr := now_modEtr
  modPort _ _ _ := rfl
  withReqs _ _ := rfl
  freeCtr _ _ := rfl

/-- What a barn's movers have still to take. -/
def barnWaits (d : Nat) (m : Mach) : List BarnDesc × Nat := ((getBarnMov m d).queue, (getBarnMov m d).nextId)

theorem barnWaits_modBarnMov (s : Mach) (d c : Nat) (f : BarnMov → BarnMov) (hq : ∀ x, (f x).queue = x.queue) (hi : ∀ x, (f x).nextId = x.nextId) :
    barnWaits d (modBarnMov s c f) = barnWaits d s := by
  unfold barnWaits getBarnMov modBarnMov
  dsimp only
  rw [vget_vmod]
  split
  · next h => rw [hq, hi, h.1]
  · rfl

theorem barnWaits_modMv (s : Mach) (d u i : Nat) (f : Move → Move) : barnWaits d (modMv s u i f) = barnWaits d s := by
  unfold modMv
  exact iteInduction (motive := fun m : Mach => barnWaits d m = barnWaits d s) (fun _ => rfl) fun _ =>
    barnWaits_modBarnMov s d _ _ (fun _ => rfl) fun _ => rfl

theorem offMoves_barnWaits (d : Nat) : OffMoves (barnWaits d) where
  csr _ _ := rfl
  wire _ _ _ := rfl
  events _ _ := rfl
  memory _ _ _ := rfl
  memPois _ _ := rfl
  held _ _ := rfl
  dir _ _ := rfl
  cores _ _ := rfl
  shfResv _ _ := rfl
  loft _ _ := rfl
  loftPois _ _ := rfl
  now _ _ := rfl
  move _ _ _ _ _ := rfl
  trcWire _ _ := rfl
  fireIf s b i f := by
    unfold fireIf
    dsimp only
    split
    · rfl
    · split <;> rfl
  mv s u i f _ := barnWaits_modMv s d u i f
  modEtr s u f := by
    unfold modEtr
    exact iteInduction (motive := fun m : Mach => barnWaits d m = barnWaits d s) (fun _ => rfl) fun _ => rfl
  modPort _ _ _ := rfl
  withReqs _ _ := rfl
  freeCtr _ _ := rfl
  anyMv s u i f := barnWaits_modMv s d u i f
  barnMoves s c f := barnWaits_modBarnMov s d c _ (fun _ => rfl) fun _ => rfl
  toks _ _ := rfl
  ringDone _ _ := rfl

end Sys2Proof.Machine
end

section
/-! Descriptors that enter, wait and leave: MOVE words, the flex queue and the barn movers' queue (R300, R309, R313). -/

namespace Sys2Proof.Machine

section
variable {s : State} {b : BayNo}

/-! ### Issue (R300) -/

theorem courses_append (l : List Move) (x : Move) : (l ++ [x]).map Move.course = l.map Move.course ++ [x.course] := by
  rw [List.map_append, List.map_singleton]

/-- What the list of courses says of the moves' identities and of the last move. -/
theorem ids_of_courses {l : List Move} {c : List Course} (h : l.map Move.course = c) : l.map (fun x => x.id) = c.map Course.id := by
  rw [← h, List.map_map]
  rfl

theorem last_of_courses {α : Type} {l : List Move} {c : List Course} {x : Course} (h : l.map Move.course = c ++ [x]) (v : Course → α) :
    l.getLast?.map (fun m => v m.course) = some (v x) := by
  have e := congrArg (fun k : List Course => k.getLast?.map v) h
  simpa [List.getLast?_map] using e

theorem mem_modMv (s : Mach) (u i : Nat) (f : Move → Move) : (modMv s u i f).mem = s.mem := by
  unfold modMv
  exact iteInduction (motive := fun m : Mach => m.mem = s.mem) (fun _ => rfl) fun _ => rfl

theorem loft_modMv (s : Mach) (u i : Nat) (f : Move → Move) : (modMv s u i f).loft = s.loft := by
  unfold modMv
  exact iteInduction (motive := fun m : Mach => m.loft = s.loft) (fun _ => rfl) fun _ => rfl

theorem loft_modEtr (s : Mach) (u : Nat) (f : Etr → Etr) : (modEtr s u f).loft = s.loft := by
  unfold modEtr
  exact iteInduction (motive := fun m : Mach => m.loft = s.loft) (fun _ => rfl) fun _ => rfl

theorem mem_askPages (s : Mach) (u i : Nat) : (askPages s u i).mem = s.mem :=
  askPages_keeps (fun s _ => mem_modMv s u i _) (fun s f => mem_modEtr s u f) s

theorem loft_askPages (s : Mach) (u i : Nat) : (askPages s u i).loft = s.loft :=
  askPages_keeps (fun s _ => loft_modMv s u i _) (fun s f => loft_modEtr s u f) s

/-- The loft accesses that a move will make are noted in the list of the bay of the loft. -/
theorem moveUses_keeps {β : Type} {g : Mach → β} (h : ∀ (s : Mach) (c : Nat) (x : LoftUse), g (loftUse s c x) = g s) (s : Mach) (b : Nat)
    (m : Move) : g (moveUses s b m) = g s := by
  have hread (c : Prop) [Decidable c] (x : LoftUse) : g (if c then loftUse s b x else s) = g s :=
    iteInduction (motive := fun m : Mach => g m = g s) (fun _ => h s b x) fun _ => rfl
  unfold moveUses
  dsimp only
  split
  · exact (h _ _ _).trans (hread _ _)
  · exact hread _ _

theorem movView_loftUse (s : Mach) (b : Fin 72) (c : Nat) (x : LoftUse) : movView b (loftUse s c x) = movView b s := by
  unfold loftUse
  exact iteInduction (motive := fun m : Mach => movView b m = movView b s) (fun _ => rfl) fun _ =>
    movView_of_mov (part_modBay s b c _ Bay.mov fun _ => rfl)

theorem loft_loftUse (s : Mach) (c : Nat) (x : LoftUse) : (loftUse s c x).loft = s.loft := by
  unfold loftUse
  exact iteInduction (motive := fun m : Mach => m.loft = s.loft) (fun _ => rfl) fun _ => rfl

theorem mem_loftUse (s : Mach) (c : Nat) (x : LoftUse) : (loftUse s c x).mem = s.mem := by
  unfold loftUse
  exact iteInduction (motive := fun m : Mach => m.mem = s.mem) (fun _ => rfl) fun _ => rfl

/-- A move taken into flight. -/
def takeMove (s : Mach) (b : Nat) (mv : Move) : Mach :=
  modMov s b (fun x => { x with moves := x.moves ++ [mv], nextId := mv.id + 1 })

/-- The move that a MOVE word issues. -/
def issuedMove (s : Mach) (b m : Nat) (off : Nat) (d : Line) : Move :=
  newMove (getMov s b).nextId m ((getSeq s b).tid.getD 0) off (getStream s b (3 + m)).issued false d

theorem doMove_eq {s : Mach} {b m : Nat} {w : Slot} {d : Line} (hres : reservedClear w [(18, 0)] = true)
    (hfence : fenceOk s b (fld w 18 0 * 64) 64 = true) (hd : BitVec.ofNat 512 (readNat s.loft (loftIx b (fld w 18 0 * 64)) 64) = d)
    (hok : moveRefusal s b m ((getSeq s b).tid.getD 0) (slotHold w) d = none) :
    doMove b m w s = askPages (moveUses (takeMove s b (issuedMove s b m (fld w 18 0 * 64) d)) b (issuedMove s b m (fld w 18 0 * 64) d)) b
      (getMov s b).nextId := by
  unfold doMove
  dsimp only
  rw [if_neg (by simp [hres]), if_neg (by simp [hfence]), hd, hok]
  rfl

theorem mov_opDone (s : Mach) (b : Fin 72) (k : Nat) : getMov (opDone s b k) b = getMov s b :=
  part_modBay s b b _ Bay.mov fun _ => rfl

theorem moveRefusal_opDone (s : Mach) (b : Fin 72) (j m tid hold : Nat) (d : Line) :
    moveRefusal (opDone s b j) b m tid hold d = moveRefusal s b m tid hold d := by
  have hsem : semPhys (opDone s b j) b tid (dSem d) = semPhys s b tid (dSem d) := semPhys_of_csr rfl b tid _
  have hdest : destErr (opDone s b j) (dCompl d) = destErr s (dCompl d) := rfl
  have hloft : loftAddrs (opDone s b j) d = loftAddrs s d := rfl
  have hfly : inFlight (opDone s b j) b m = inFlight s b m := by unfold inFlight; rw [mov_opDone]
  have hpid (c : Nat) : bayPid (opDone s b j) c = bayPid s c := rfl
  have hpres (c : Nat) : bayPresent (opDone s b j) c = bayPresent s c := rfl
  have hfuses : (opDone s b j).fuses = s.fuses := rfl
  unfold moveRefusal
  simp only [hsem, hdest, hloft, hfly, hpid, hpres, hfuses]

theorem movView_takeMove (s : Mach) (b : Fin 72) (mv : Move) : movView b (takeMove s b mv) =
    { movView b s with nextId := mv.id + 1, courses := (movView b s).courses ++ [mv.course] } := by
  unfold movView takeMove
  rw [getMov_modMov]
  dsimp only
  rw [courses_append]

theorem ends_move {k : Fin 2} {w : Slot} {d : Line} (hop : opReady s.mach b (3 + k.val) 1 1 = true)
    (hw : (getStream s.mach b (3 + k.val)).word = w) (hres : reservedClear w [(18, 0)] = true)
    (hfence : fenceOk s.mach b (fld w 18 0 * 64) 64 = true)
    (hd : BitVec.ofNat 512 (readNat s.mach.loft (loftIx b (fld w 18 0 * 64)) 64) = d)
    (hok : moveRefusal s.mach b k ((getSeq s.mach b).tid.getD 0) (slotHold w) d = none) :
    Ends (.move b k) s (fun m => m.mem = s.mach.mem ∧ m.loft = s.mach.loft ∧ (getMov m b).nextId = (getMov s.mach b).nextId + 1 ∧
      ((getMov m b).moves.map (fun x => x.id)) = (getMov s.mach b).moves.map (fun x => x.id) ++ [(getMov s.mach b).nextId] ∧
      ((getMov m b).moves.getLast?.map (fun x => (x.mover, x.desc, x.p))) = some (k.val, d, (getStream s.mach b (3 + k.val)).issued)) := by
  obtain ⟨a, ha⟩ : ∃ a, a = opDone s.mach b (3 + k.val) := ⟨_, rfl⟩
  have hseq : getSeq a b = getSeq s.mach b := by rw [ha]; exact getSeq_modStream s.mach b _ _
  have hmov : getMov a b = getMov s.mach b := by rw [ha, mov_opDone]
  have hissued : (getStream a b (3 + k.val)).issued = (getStream s.mach b (3 + k.val)).issued := by
    rw [ha]; exact issued_opDone s.mach b ⟨3 + k.val, by omega⟩ _
  have hmem : a.mem = s.mach.mem := by rw [ha]; rfl
  have hloft : a.loft = s.mach.loft := by rw [ha]; rfl
  have heq := doMove_eq (s := a) (b := b) (m := k.val) (w := w) (d := d) hres (by rw [ha, fenceOk_opDone, hfence]) (by rw [hloft]; exact hd)
    (by rw [hseq, ha, moveRefusal_opDone]; exact hok)
  obtain ⟨x, hx⟩ : ∃ x, x = issuedMove a b k.val (fld w 18 0 * 64) d := ⟨_, rfl⟩
  have hview : movView b (doMove b k w a) =
      { movView b s.mach with nextId := (getMov s.mach b).nextId + 1, courses := (movView b s.mach).courses ++ [x.course] } := by
    rw [heq, (offCourse_movView b).askPages, moveUses_keeps (movView_loftUse · b), ← hx, movView_takeMove, movView_of_mov hmov,
      show x.id = (getMov s.mach b).nextId by rw [hx, ← hmov]; rfl]
  have hcourses := congrArg MovView.courses hview
  refine ⟨_, rfl, ?_⟩
  dsimp only
  rw [onSlot_of_ready hop, hw, ← ha]
  refine ⟨?_, ?_, congrArg MovView.nextId hview, ?_, ?_⟩
  · rw [heq, mem_askPages, moveUses_keeps mem_loftUse]
    exact hmem
  · rw [heq, loft_askPages, moveUses_keeps loft_loftUse]
    exact hloft
  · refine (ids_of_courses hcourses).trans ?_
    dsimp only [movView]
    rw [List.map_append, List.map_map, hx, ← hmov]
    rfl
  · refine (last_of_courses hcourses fun c => (c.mover, c.desc, c.p)).trans ?_
    rw [← hissued, hx]
    rfl

/-! ### The flex queue (R309) -/

theorem baleRefused_modMov (s : Mach) (b : Fin 72) (tid : Nat) (d : Line) (f : Mov → Mov) :
    baleRefused (modMov s b f) b tid d = baleRefused s b tid d := by
  have hsem : semPhys (modMov s b f) b tid (dSem d) = semPhys s b tid (dSem d) := semPhys_of_csr rfl b tid _
  have hlent (o n : Nat) : lentBank (modMov s b f) b o n = lentBank s b o n := by
    unfold lentBank
    rw [show getSeq (modMov s b f) b = getSeq s b from part_modBay s b b _ Bay.seq fun _ => rfl]
  have hforeign (a : Nat) : tokForeign (modMov s b f) b a = tokForeign s b a := rfl
  have hpres (c : Nat) : bayPresent (modMov s b f) c = bayPresent s c := rfl
  have hrows : baleRefused.ownRows (modMov s b f) d = baleRefused.ownRows s d := rfl
  have hloft : loftAddrs (modMov s b f) d = loftAddrs s d := rfl
  unfold baleRefused
  simp only [hsem, hlent, hforeign, hpres, hrows, hloft]
  rfl

/-- A waiting descriptor taken off the list of those that wait for room. -/
def roomTaken (s : Mach) (b : Nat) (l : List FlexMove) : Mach := modMov s b (fun x => { x with waiting := l })

/-- A descriptor admitted to the flex queue: it is queued, and its thread goes on. -/
def admitted (s : Mach) (b : Nat) (q : FlexMove) : Mach := modMov s b (fun x => { x with flexq := x.flexq ++ [q] })

theorem getMov_modThread (s : Mach) (b : Fin 72) (e k l : Nat) (f : Thread → Thread) : getMov (modThread s b e k l f) b = getMov s b :=
  getMov_modEng s b e _

theorem ends_flexQueueRoom {q : FlexMove} {l : List FlexMove} (hwait : (getMov s.mach b).waiting = q :: l)
    (hroom : (getMov s.mach b).flexq.length < 8) (hok : baleRefused s.mach b (getEng s.mach b q.thread.1).tid q.desc = false) :
    Ends (.flexQueueRoom b) s (fun m => m.apart b = s.mach.apart b ∧ (getMov m b).waiting = l ∧
      (getMov m b).flexq.length = (getMov s.mach b).flexq.length + 1) := by
  obtain ⟨a, ha⟩ : ∃ a, a = roomTaken s.mach b l := ⟨_, rfl⟩
  have hmov : getMov a b = { getMov s.mach b with waiting := l } := by rw [ha]; exact getMov_modMov s.mach b _
  have hapart : a.apart b = s.mach.apart b := by rw [ha]; exact apart_modMov s.mach b _
  have heng : getEng a b q.thread.1 = getEng s.mach b q.thread.1 := by rw [ha]; exact getEng_modMov s.mach b _ _
  have hok' : baleRefused a b (getEng a b q.thread.1).tid q.desc = false := by
    rw [heng, ha]
    exact (baleRefused_modMov s.mach b _ _ _).trans hok
  have heq : flexQueueRoom s.mach b = baleAdmit a b q.thread.1 q.thread.2.1 q.thread.2.2 q.va q.desc := by
    unfold flexQueueRoom
    rw [hwait]
    dsimp only
    rw [if_pos hroom, ha]
    rfl
  refine ⟨_, rfl, ?_⟩
  dsimp only
  rw [heq]
  unfold baleAdmit
  dsimp only
  rw [if_neg (by simp [hok']), if_pos (by rw [hmov]; exact hroom)]
  refine ⟨?_, ?_, ?_⟩
  · rw [apart_modThread, apart_modMov, hapart]
  · rw [getMov_modThread, getMov_modMov, hmov]
  · rw [getMov_modThread, getMov_modMov, hmov, List.length_append, List.length_singleton]

/-- A descriptor of the flex queue taken into flight. -/
def startFlex (s : Mach) (b : Nat) (l : List FlexMove) (mv : Move) : Mach :=
  modMov s b (fun x => { x with moves := x.moves ++ [mv], flexq := l, nextId := mv.id + 1 })

theorem movView_startFlex (s : Mach) (b : Fin 72) (l : List FlexMove) (mv : Move) : movView b (startFlex s b l mv) =
    { movView b s with nextId := mv.id + 1, flexq := l, courses := (movView b s).courses ++ [mv.course] } := by
  unfold movView startFlex
  rw [getMov_modMov]
  dsimp only
  rw [courses_append]

theorem apart_modMv (s : Mach) (b : Fin 72) (i : Nat) (f : Move → Move) : (modMv s b i f).apart b = s.apart b := by
  unfold modMv
  rw [if_pos b.isLt]
  exact apart_modMov s b _

theorem apart_askPages (s : Mach) (b : Fin 72) (i : Nat) : (askPages s b i).apart b = s.apart b :=
  askPages_keeps (g := (Mach.apart · b)) (fun s _ => apart_modMv s b i _) (fun s f => apart_modEtr s b f) s

theorem ends_flexQueueMoveStart {k : Fin 2} {q : FlexMove} {l : List FlexMove} (hq : (getMov s.mach b).flexq = q :: l)
    (hidle : inFlight s.mach b k = 0) :
    Ends (.flexQueueMoveStart b k) s (fun m => m.apart b = s.mach.apart b ∧ (getMov m b).flexq = l ∧
      ((getMov m b).moves.getLast?.map (fun x => (x.mover, x.flex, x.desc))) = some (k.val, true, q.desc)) := by
  obtain ⟨x, hx⟩ : ∃ x, x = newMove (getMov s.mach b).nextId k q.tid q.va (edgeOf s.mach b) true q.desc := ⟨_, rfl⟩
  have heq : flexQueueMoveStart s.mach b k = askPages (startFlex s.mach b l x) b (getMov s.mach b).nextId := by
    unfold flexQueueMoveStart
    rw [hq]
    dsimp only
    rw [if_pos hidle, hx]
    rfl
  have hview : movView b (askPages (startFlex s.mach b l x) b (getMov s.mach b).nextId) =
      { movView b s.mach with nextId := x.id + 1, flexq := l, courses := (movView b s.mach).courses ++ [x.course] } :=
    ((offCourse_movView b).askPages _ _ _).trans (movView_startFlex s.mach b l x)
  refine ⟨_, rfl, ?_⟩
  dsimp only
  rw [heq]
  refine ⟨(apart_askPages _ b _).trans (apart_modMov s.mach b _), congrArg MovView.flexq hview, ?_⟩
  refine (last_of_courses (congrArg MovView.courses hview) fun c => (c.mover, c.flex, c.desc)).trans ?_
  rw [hx]
  rfl

/-! ### Barn movers (R313) -/

theorem ends_barnMove_none {d : Fin 4} {k : Fin 8} (hm : (getBarnMov s.mach d).moves = []) (hq : (getBarnMov s.mach d).queue = []) :
    Ends (.barnMove d k) s (fun m => m = s.mach) := by
  refine ⟨_, rfl, ?_⟩
  unfold barnMove
  dsimp only
  rw [hm, List.find?_nil]
  dsimp only
  rw [hq]

/-- A queued descriptor taken by a barn mover. -/
def takeBarn (s : Mach) (d : Nat) (l : List BarnDesc) (mv : Move) : Mach :=
  modBarnMov s d (fun x => { x with queue := l, moves := x.moves ++ [mv], nextId := x.nextId + 1 })

/-- The move that a barn mover makes of a queued descriptor. -/
def takenMove (s : Mach) (d k : Nat) (q : BarnDesc) : Move :=
  { newMove (8 * (getBarnMov s d).nextId + k) k (dTid q.desc) q.addr 0 false q.desc with proxy := tenPid s (dTid q.desc), item := q.item }

theorem ends_barnMove_take {d : Fin 4} {k : Fin 8} {q : BarnDesc} {l : List BarnDesc} (hm : (getBarnMov s.mach d).moves = [])
    (hq : (getBarnMov s.mach d).queue = q :: l) :
    Ends (.barnMove d k) s (fun m => (getBarnMov m d).queue = l ∧ (getBarnMov m d).nextId = (getBarnMov s.mach d).nextId + 1) := by
  obtain ⟨x, hx⟩ : ∃ x, x = takenMove s.mach d k q := ⟨_, rfl⟩
  have heq : barnMove s.mach d k = barnRun (takeBarn s.mach d l x) d x.id := by
    unfold barnMove
    dsimp only
    rw [hm, List.find?_nil]
    dsimp only
    rw [hq, hx]
    rfl
  have hwaits : barnWaits d (barnRun (takeBarn s.mach d l x) d x.id) = (l, (getBarnMov s.mach d).nextId + 1) := by
    rw [(offMoves_barnWaits d).barnRun]
    unfold barnWaits takeBarn
    rw [getBarnMov_modBarnMov d.isLt]
  refine ⟨_, rfl, ?_⟩
  dsimp only
  rw [heq]
  exact ⟨congrArg Prod.fst hwaits, congrArg Prod.snd hwaits⟩

/-- A descriptor that a barn die takes joins its queue. -/
theorem barnSubmit_of_ok {s : Mach} {d p a : Nat} {desc : Line} (item : Option (Nat × Nat)) (hroom : (getBarnMov s d).queue.length < 64)
    (hten : tenPid s (dTid desc) = some p) (hform : malformed desc = false) (hsigs : dSigs desc = false) (hhusk : dHusk desc = false) :
    barnSubmit s d (some p) a desc item =
      (true, modBarnMov s d (fun x => { x with queue := x.queue ++ [{ addr := a, desc := desc, item := item }] })) := by
  unfold barnSubmit
  dsimp only
  rw [hten, hform, hsigs, hhusk]
  simp [Nat.not_le.2 hroom]

theorem getBarnMov_cspOut (m : Mach) (x : Nat × Word) (d : Nat) : getBarnMov { m with cspOut := x } d = getBarnMov m d := rfl

theorem ends_movBsub {mid : Mid} {d : Fin 4} {v : Word} {p : Nat} {desc : Line} (hmid : midInfo s.mach mid = (.bound, some p))
    (hdesc : (cohLine s.mach (fld v 47 6)).1 = desc) (hroom : (getBarnMov s.mach d).queue.length < 64)
    (hten : tenPid s.mach (dTid desc) = some p) (hform : malformed desc = false) (hsigs : dSigs desc = false) (hhusk : dHusk desc = false) :
    CspEnds (.movBsub mid d v) s mid .MOV_BSUB d 0 v (fun t m => m.mem = t.mem ∧ (getBarnMov m d).queue =
      (getBarnMov t d).queue ++ [{ addr := fld v 47 6 * 64, desc := desc, item := none }]) := by
  have hline : fld v 47 6 * 64 / 64 = fld v 47 6 := Nat.mul_div_cancel _ (by decide)
  have hplaced : RegRef.placed { name := .MOV_BSUB, unit := d, idx := 0 } = true :=
    placed_of (decide_eq_true d.isLt) rfl (by decide)
  obtain ⟨a, ha⟩ : ∃ a, a = modBarnMov s.mach d
      (fun x => { x with queue := x.queue ++ [{ addr := fld v 47 6 * 64, desc := desc, item := none }] }) := ⟨_, rfl⟩
  have hwrite : regWrite s.mach mid { name := .MOV_BSUB, unit := d, idx := 0 } false v = a := by
    show onMovBsub s.mach mid d v = a
    unfold onMovBsub
    dsimp only
    rw [hline, hdesc, hmid, ha]
    exact congrArg Prod.snd (barnSubmit_of_ok none hroom hten hform hsigs hhusk)
  refine cspEnds_outside hplaced rfl rfl hwrite ⟨?_, ?_⟩
  · rw [mem_cspOut a, ha]
    rfl
  · rw [getBarnMov_cspOut a, ha, getBarnMov_modBarnMov d.isLt]

end

end Sys2Proof.Machine
end

section
/-! One move of a bay: its completion and a refused anchored add (R302, R307, R311, R314). -/

namespace Sys2Proof.Machine

/-! ### The move of a bay that has one -/

section
variable {s : Mach} {b : Fin 72} {x : Move}

theorem nthMove_one (h : (getMov s b).moves = [x]) : nthMove s b 0 = some x := by
  unfold nthMove
  rw [h]
  rfl

theorem getMv_bay (s : Mach) (b : Fin 72) (i : Nat) : getMv s b i = (getMov s b).moves.find? (fun m => decide (m.id = i)) := by
  unfold getMv unitMoves
  rw [if_pos b.isLt]

theorem getMv_one (h : (getMov s b).moves = [x]) : getMv s b x.id = some x := by
  rw [getMv_bay, h]
  simp

theorem moves_modMv (s : Mach) (b : Fin 72) (i : Nat) (f : Move → Move) :
    (getMov (modMv s b i f) b).moves = (getMov s b).moves.map (fun m => if m.id = i then f m else m) := by
  unfold modMv modMove
  rw [if_pos b.isLt, getMov_modMov]

theorem moves_modMv_one (h : (getMov s b).moves = [x]) (f : Move → Move) : (getMov (modMv s b x.id f) b).moves = [f x] := by
  rw [moves_modMv, h, List.map_singleton, if_pos rfl]

end

/-- The only move of a bay, after what leaves its course. -/
theorem one_of_movView {s t : Mach} {b : Fin 72} {x : Move} (h : movView b t = movView b s) (hm : (getMov s b).moves = [x]) :
    ∃ y, (getMov t b).moves = [y] ∧ y.course = x.course := by
  have hcourses : (getMov t b).moves.map Move.course = [x.course] := by
    refine (congrArg MovView.courses h).trans ?_
    unfold movView
    rw [hm]
    rfl
  obtain ⟨y, hy, hc⟩ := List.map_eq_singleton_iff.1 hcourses
  exact ⟨y, hy, hc⟩

/-! ### Completion (R302, R311) -/

theorem getSem_modMov (s : Mach) (b : Fin 72) (f : Mov → Mov) : getSem (modMov s b f) b = getSem s b :=
  part_modBay s b b _ Bay.sem fun _ => rfl

theorem getMov_modSem (s : Mach) (b : Fin 72) (f : Sem → Sem) : getMov (modSem s b f) b = getMov s b :=
  part_modBay s b b _ Bay.mov fun _ => rfl

/-- What a move that ends writes first: its flags and the count of errors. -/
theorem flagged_keeps {β : Type} {g : Mach → β} (hu : ∀ {s t : Mach}, s.units = t.units → g s = g t)
    (hf : ∀ (s : Mach) (b i f : Nat), g (orTflags s b i f) = g s) (t : Mach) (b i f : Nat) (c d : Prop) [Decidable c] [Decidable d] :
    g (if d then (if c then t else orTflags t b i f) else bump (if c then t else orTflags t b i f) .MOV_COUNT b 0 47 32 1) = g t := by
  have hflags : g (if c then t else orTflags t b i f) = g t :=
    iteInduction (motive := fun m : Mach => g m = g t) (fun _ => rfl) fun _ => hf t b i f
  exact iteInduction (motive := fun m : Mach => g m = g t) (fun _ => hflags) fun _ => (hu (units_bump _ _ _ _ _ _ _)).trans hflags

/-- The move taken off the list of those in flight. -/
def dropMove (s : Mach) (b i : Nat) : Mach := modMov s b (fun x => { x with moves := x.moves.filter (fun n => decide (n.id ≠ i)) })

/-- A move that ends without a token is dropped, and completes at the semaphore block where its descriptor asks for it. -/
theorem completeBay_eq {s : Mach} {b : Fin 72} {m : Move} (htok : dSigt m.desc = false) :
    ∃ (t : Mach) (d : SemDone), t.mem = s.mem ∧ t.loft = s.loft ∧ getMov t b = getMov s b ∧ getSem t b = getSem s b ∧
      completeBay s b m = if (dSigs m.desc && !m.cut) = true then modSem (dropMove t b m.id) b (fun x => { x with dones := x.dones ++ [d] })
        else dropMove t b m.id := by
  obtain ⟨a, ha⟩ : ∃ a, a = advanceEdge s b (edgeNo (clkOf s b) m.lastAt + 1) := ⟨_, rfl⟩
  have hadv : a.units = s.units := by rw [ha]; exact units_advanceEdge _ _ _
  obtain ⟨t, ht⟩ : ∃ t, t = if m.err = 0 then (if m.flags = 0 then a else orTflags a b m.tid m.flags)
      else bump (if m.flags = 0 then a else orTflags a b m.tid m.flags) .MOV_COUNT b 0 47 32 1 := ⟨_, rfl⟩
  refine ⟨t, { mover := true, tid := m.tid, idx := dSem m.desc, edge := max (edgeNo (clkOf s b) m.lastAt + 1) (edgeOf a b) }, ?_, ?_, ?_, ?_, ?_⟩
  · rw [ht, flagged_keeps mem_of_units (fun _ _ _ _ => rfl), mem_of_units hadv]
  · rw [ht, flagged_keeps loft_of_units (fun _ _ _ _ => rfl), loft_of_units hadv]
  · rw [ht, flagged_keeps (g := (getMov · b)) (fun h => mov_of_units h b) (fun s c _ _ => part_modBay s b c _ Bay.mov fun _ => rfl),
      mov_of_units hadv b]
  · rw [ht, flagged_keeps (g := (getSem · b)) (fun h => sem_of_units h b) (fun s c _ _ => part_modBay s b c _ Bay.sem fun _ => rfl),
      sem_of_units hadv b]
  · unfold completeBay
    dsimp only
    rw [← ha, ← ht, htok, if_neg Bool.false_ne_true]
    rfl

section
variable {s : State} {b : BayNo} {x : Move}

theorem ends_moveCompletion (hm : (getMov s.mach b).moves = [x]) (hover : moveOver s.mach b x = true) (htok : dSigt x.desc = false) :
    Ends (.moveCompletion b 0) s (fun m => m.mem = s.mach.mem ∧ m.loft = s.mach.loft ∧ (getMov m b).moves = [] ∧
      (getSem m b).dones.length = (getSem s.mach b).dones.length + (if dSigs x.desc && !x.cut then 1 else 0)) := by
  obtain ⟨t, d, hmem, hloft, hmov, hsem, heq⟩ := completeBay_eq (s := s.mach) (b := b) htok
  have hdrop : (getMov (dropMove t b x.id) b).moves = [] := by
    unfold dropMove
    rw [getMov_modMov, hmov, hm]
    simp
  have hsemd : getSem (dropMove t b x.id) b = getSem s.mach b := (getSem_modMov t b _).trans hsem
  refine ⟨_, rfl, ?_⟩
  unfold moveCompletion
  dsimp only
  rw [nthMove_one hm]
  dsimp only
  rw [if_pos hover, heq]
  cases hdone : (dSigs x.desc && !x.cut)
  case false =>
    rw [if_neg Bool.false_ne_true, if_neg Bool.false_ne_true, hsemd]
    exact ⟨hmem, hloft, hdrop, rfl⟩
  case true =>
    rw [if_pos rfl, if_pos rfl, getSem_modSem, hsemd, List.length_append, List.length_singleton]
    exact ⟨hmem, hloft, (congrArg Mov.moves (getMov_modSem _ b _)).trans hdrop, rfl⟩

/-! ### Source data of the own loft (R302) -/

theorem ends_moveSourceData_own (hm : (getMov s.mach b).moves = [x]) (hown : ownLoft s.mach b x = true) :
    Ends (.moveSourceData b 0) s (fun m => m = s.mach) := by
  refine ⟨_, rfl, ?_⟩
  unfold moveSourceData
  dsimp only
  rw [nthMove_one hm]
  exact if_pos hown

end

/-! ### Errors (R314) -/

theorem csr_emitTraceIf (s : Mach) (b e k c u d : Nat) : (emitTraceIf s b e k c u d).csr = s.csr := by
  unfold emitTraceIf emitTrace
  refine iteInduction (motive := fun m : Mach => m.csr = s.csr) (fun _ => ?_) fun _ => rfl
  exact iteInduction (motive := fun m : Mach => m.csr = s.csr) (fun _ => rfl) fun _ => rfl

theorem csr_modMv (s : Mach) (u i : Nat) (f : Move → Move) : (modMv s u i f).csr = s.csr := by
  unfold modMv
  exact iteInduction (motive := fun m : Mach => m.csr = s.csr) (fun _ => rfl) fun _ => rfl

theorem mem_modMove (s : Mach) (b i : Nat) (f : Move → Move) : (modMove s b i f).mem = s.mem := rfl
theorem loft_modMove (s : Mach) (b i : Nat) (f : Move → Move) : (modMove s b i f).loft = s.loft := rfl

theorem rg_raiseBay_movErr (s : Mach) (b : Fin 72) (r : FltRec) (hd : r.die < 32) :
    rg (raiseBay s b r) .MOV_ERR b 0 = rg s .MOV_ERR b 0 := by
  have hquiet : Uncounted (RegRef.addr ⟨.MOV_ERR, b, 0⟩) := by
    unfold Uncounted
    simp only [RegRef.addr, RegName.info, Blk.base, dieBase, compDieId]
    omega
  have hlast (k : Nat) (hk : k < 4) : RegRef.addr ⟨.MOV_ERR, b, 0⟩ ≠ RegRef.addr ⟨.FLT_BLAST, b, k⟩ := by
    simp only [RegRef.addr, RegName.info, Blk.base]
    omega
  have hcount : RegRef.addr ⟨.MOV_ERR, b, 0⟩ ≠ RegRef.addr ⟨.FLT_BCOUNT, b, 0⟩ := by
    simp only [RegRef.addr, RegName.info, Blk.base]
    omega
  unfold raiseBay
  dsimp only
  rw [rg_raise_of_uncounted hquiet _ hd]
  refine (rg_of_csr (csr_fireIf _ _ _ _) _ _ _).trans ((rg_of_csr (csr_emitTraceIf _ _ _ _ _ _ _) _ _ _).trans ?_)
  unfold bump wf
  rw [rg_wr_other _ _ _ _ _ _ _ _ hcount]
  exact foldS_keeps_of_mem (fun m => rg m .MOV_ERR b 0) _ _ _ fun t k hk => rg_wr_other _ _ _ _ _ _ _ _ (hlast k (List.mem_range.1 hk))

theorem die_bayRec (s : Mach) (b : Fin 72) (cls sub blk addr : Nat) (tid : Option Nat) : (bayRec s b cls sub blk addr tid).die < 32 := by
  unfold bayRec
  dsimp only
  split
  · rw [forPart_die]
    exact compDieId_lt b
  · exact compDieId_lt b

/-- After an error of a move MOV_ERR is valid. -/
theorem valid_movErr (s : Mach) (b : Fin 72) (m : Move) (code : Nat) : rb (movErr s b m code) .MOV_ERR b 0 63 = true := by
  have hdesc : RegRef.addr ⟨.MOV_ERR, b, 0⟩ ≠ RegRef.addr ⟨.MOV_ERRDESC, b, 0⟩ := by
    simp only [RegRef.addr, RegName.info, Blk.base]
    omega
  have hwrite (t : Mach) (c : Prop) [Decidable c] (v : Word) :
      rg (if c then wr t .MOV_ERRDESC b 0 v else t) .MOV_ERR b 0 = rg t .MOV_ERR b 0 :=
    iteInduction (motive := fun m : Mach => rg m .MOV_ERR b 0 = rg t .MOV_ERR b 0) (fun _ => rg_wr_other _ _ _ _ _ _ _ _ hdesc) fun _ => rfl
  unfold movErr
  dsimp only
  refine (congrArg (bit · 63) (rg_raiseBay_movErr _ b _ (die_bayRec _ b _ _ _ _ _))).trans ?_
  exact (congrArg (bit · 63) (hwrite _ _ _)).trans (rb_recordFirst s .MOV_ERR b 0 _)

/-- An error of a move: the move has P = 1, and its first error is kept. -/
def Move.erred (m : Move) (code : Nat) : Move := { m with pois := true, err := if m.err = 0 then code else m.err }

theorem movErr_units (s : Mach) (b : Nat) (m : Move) (code : Nat) :
    ∃ t : Mach, t.units = s.units ∧ (movErr s b m code).units = (modMove t b m.id (fun m => m.erred code)).units := by
  obtain ⟨r, hr⟩ : ∃ r, r = recordFirst s .MOV_ERR b 0
    (packFlds [(57, 48, m.tid), (47, 47, m.mover), (46, 46, m.flex.toNat), (39, 8, m.at_ / 64), (7, 0, code)]) := ⟨_, rfl⟩
  refine ⟨if !(rb s .MOV_ERR b 0 63) then wr r .MOV_ERRDESC b 0 (packFlds [(47, 6, m.at_ / 64)]) else r, ?_, ?_⟩
  · rw [apply_ite Mach.units, units_wr, ite_self, hr, units_recordFirst]
  · unfold movErr
    dsimp only
    rw [units_raiseBay, ← hr]
    rfl

theorem mvErr_bay (s : Mach) (b : Fin 72) (m : Move) (code : Nat) : mvErr s b m code = movErr s b m code := if_pos b.isLt

theorem moves_mvErr (s : Mach) (b : Fin 72) (m : Move) (code : Nat) :
    (getMov (mvErr s b m code) b).moves = (getMov s b).moves.map (fun y => if y.id = m.id then y.erred code else y) := by
  obtain ⟨t, ht, heq⟩ := movErr_units s b m code
  rw [mvErr_bay, mov_of_units heq, modMove, getMov_modMov, mov_of_units ht]

theorem mem_mvErr (s : Mach) (b : Fin 72) (m : Move) (code : Nat) : (mvErr s b m code).mem = s.mem := by
  obtain ⟨t, ht, heq⟩ := movErr_units s b m code
  rw [mvErr_bay, mem_of_units heq, mem_modMove, mem_of_units ht]

theorem loft_mvErr (s : Mach) (b : Fin 72) (m : Move) (code : Nat) : (mvErr s b m code).loft = s.loft := by
  obtain ⟨t, ht, heq⟩ := movErr_units s b m code
  rw [mvErr_bay, loft_of_units heq, loft_modMove, loft_of_units ht]

section
variable {s : State} {b : BayNo} {x : Move}

theorem ends_nmaRefused (hm : (getMov s.mach b).moves = [x]) (href : x.refused = true) (hnext : x.next < (dstBeats x.desc).length) :
    Ends (.nmaRefused (.bay b 0)) s (fun m => m.mem = s.mach.mem ∧
      (getMov m b).moves.map (fun y => (y.next, y.pois)) = [((dstBeats x.desc).length, true)] ∧ rb m .MOV_ERR b 0 63 = true) := by
  obtain ⟨a, ha⟩ : ∃ a, a = mvErr s.mach b x 4 := ⟨_, rfl⟩
  have hone : (getMov a b).moves = [x.erred 4] := by
    rw [ha, moves_mvErr, hm, List.map_singleton, if_pos rfl]
  have heq : nmaRefusedMove s.mach (.bay b 0) =
      modMv a b (x.erred 4).id (fun m => { m with next := (dstBeats m.desc).length, lastAt := s.mach.now }) := by
    unfold nmaRefusedMove refMove
    dsimp only
    rw [nthMove_one hm]
    dsimp only [Option.map]
    rw [getMv_one hm]
    dsimp only
    rw [if_pos ⟨href, hnext⟩, ← ha]
    rfl
  refine ⟨_, rfl, ?_⟩
  dsimp only
  rw [heq, moves_modMv_one hone]
  refine ⟨?_, rfl, ?_⟩
  · rw [mem_modMv, ha, mem_mvErr]
  · refine (congrArg (bit · 63) (rg_of_csr (csr_modMv _ _ _ _) _ _ _)).trans ?_
    rw [ha, mvErr_bay]
    exact valid_movErr s.mach b x 4

end

end Sys2Proof.Machine
end

section
/-! Source data from memory and near-memory adds (R302, R306). -/

namespace Sys2Proof.Machine

/-! ### A move that has asked for its pages -/

theorem takeAnswers_none {s : Mach} {u : Nat} (h : (getEtr s u).ans = []) (i : Nat) : takeAnswers s u i = s := by
  unfold takeAnswers
  dsimp only
  rw [h, List.filter_nil, if_pos rfl]

/-- A move but for the list of pages that it has asked for. -/
def Move.unasked (m : Move) : Move := { m with asked := [] }

theorem unasked_mod (l : List Move) (i : Nat) (f : Move → Move) (hf : ∀ m, (f m).unasked = m.unasked) :
    (l.map (fun m => if m.id = i then f m else m)).map Move.unasked = l.map Move.unasked := by
  rw [List.map_map]
  refine List.map_congr_left fun m _ => ?_
  exact iteInduction (motive := fun x : Move => x.unasked = m.unasked) (fun _ => hf m) fun _ => rfl

/-- Asking for pages leaves of a move all but the list of pages asked. -/
theorem moves_askPages {s : Mach} {b : Fin 72} {x : Move} (h : (getMov s b).moves = [x]) (i : Nat) :
    ∃ l, (getMov (askPages s b i) b).moves = [{ x with asked := l }] := by
  have hkeep : (getMov (askPages s b i) b).moves.map Move.unasked = [x.unasked] := by
    refine (askPages_keeps (g := fun t => (getMov t b).moves.map Move.unasked) (fun t l => ?_) (fun t f => ?_) s).trans ?_
    · rw [moves_modMv]
      exact unasked_mod _ i _ fun _ => rfl
    · rw [mov_modEtr]
    · rw [h]
      rfl
  obtain ⟨y, hy, he⟩ := List.map_eq_singleton_iff.1 hkeep
  refine ⟨y.asked, ?_⟩
  rw [hy]
  have e := congrArg (fun m : Move => { m with asked := y.asked }) he
  exact congrArg (· :: []) e

theorem route_of_units {s t : Mach} (h : s.units = t.units) : s.route = t.route := by
  have e := congrArg Mach.route h
  exact e

theorem route_modMv (s : Mach) (u i : Nat) (f : Move → Move) : (modMv s u i f).route = s.route := by
  unfold modMv
  exact iteInduction (motive := fun m : Mach => m.route = s.route) (fun _ => rfl) fun _ => rfl

theorem route_modEtr (s : Mach) (u : Nat) (f : Etr → Etr) : (modEtr s u f).route = s.route := by
  unfold modEtr
  exact iteInduction (motive := fun m : Mach => m.route = s.route) (fun _ => rfl) fun _ => rfl

theorem route_askPages (s : Mach) (u i : Nat) : (askPages s u i).route = s.route :=
  askPages_keeps (fun s _ => route_modMv s u i _) (fun s f => route_modEtr s u f) s

theorem placeOf_phys {s : Mach} {k a : Nat} (h : baleAddr s.route.nodeId k = .phys a) (u : Nat) (m : Move) (w : Bool) :
    placeOf s u m k w = .phys a := by
  unfold placeOf
  rw [h]

/-! ### Pieces -/

/-- A piece within one line lies within one chunk. -/
theorem chunkPieces_of_line {k n : Nat} (h : linePieces k n = [(k, n)]) : chunkPieces k n = [(k, n)] := by
  have hn : n ≠ 0 := by
    rintro rfl
    exact absurd h (by simp [linePieces])
  unfold linePieces at h
  rw [if_neg hn] at h
  have hlen := congrArg List.length h
  rw [List.length_map, List.length_range, List.length_singleton] at hlen
  have hone : (k + n - 1) / 256 + 1 - k / 256 = 1 := by omega
  unfold chunkPieces
  rw [if_neg hn, hone]
  simp only [List.range_one, List.map_cons, List.map_nil]
  congr 2 <;> omega

/-! ### Reading memory -/

theorem units_grnErr (s : Mach) (o c : Nat) : (grnErr s o c).units = s.units := by
  unfold grnErr
  dsimp only
  rw [units_raise]
  split
  · rw [units_bump, units_recordFirst]
  · rw [units_bump, units_recordFirst]
  · rw [units_bump, units_recordFirst]
  · rw [units_recordFirst]

theorem units_physRefuse (s : Mach) (mid : Nat) (c : Checked) (tid a : Nat) (w : Bool) : (physRefuse s mid c tid a w).units = s.units := by
  unfold physRefuse
  dsimp only
  refine iteInduction (motive := fun m : Mach => m.units = s.units) (fun _ => ?_) fun _ => units_refuseMem s mid c tid a
  split
  · exact units_grnErr s _ _
  · rfl

theorem units_readAs (s : Mach) (mid : Nat) (p : Option Nat) (tid a n : Nat) : (readAs s mid p tid a n).2.units = s.units := by
  unfold readAs
  dsimp only
  split
  · exact units_physRefuse s _ _ _ _ _
  · exact foldS_keeps Mach.units _ _ _ fun t l => units_countBytes t _ _ _ _

/-- The blocks that a move has begun to read, with the answers that each waits for. -/
def readView (b : Nat) (m : Mach) : List (List (Nat × Nat)) := (getMov m b).moves.map (fun y => y.got.map (fun g => (g.blk, g.left)))

theorem readView_modMv (s : Mach) (b : Fin 72) (i blk : Nat) (f : SrcBeat → SrcBeat)
    (hf : ∀ g, ((f g).blk, (f g).left) = (g.blk, g.left)) :
    readView b (modMv s b i (fun m => { m with got := m.got.map (fun g => if g.blk = blk then f g else g) })) = readView b s := by
  unfold readView
  rw [moves_modMv, List.map_map]
  refine List.map_congr_left fun m _ => ?_
  refine iteInduction (motive := fun x : Move => x.got.map (fun g => (g.blk, g.left)) = m.got.map (fun g => (g.blk, g.left))) (fun _ => ?_) fun _ => rfl
  dsimp only
  rw [List.map_map]
  refine List.map_congr_left fun g _ => ?_
  exact iteInduction (motive := fun x : SrcBeat => (x.blk, x.left) = (g.blk, g.left)) (fun _ => hf g) fun _ => rfl

theorem readView_mvErr (s : Mach) (b : Fin 72) (m : Move) (code : Nat) : readView b (mvErr s b m code) = readView b s := by
  unfold readView
  rw [moves_mvErr, List.map_map]
  refine List.map_congr_left fun y _ => ?_
  exact iteInduction (motive := fun x : Move => x.got.map (fun g => (g.blk, g.left)) = y.got.map (fun g => (g.blk, g.left))) (fun _ => rfl) fun _ => rfl

theorem readView_of_units {s t : Mach} (h : s.units = t.units) (b : Fin 72) : readView b s = readView b t := by
  unfold readView
  rw [mov_of_units h]

theorem mergeBeat_same (g : SrcBeat) (k : Nat) (bs : List Byte) (p : Nat → Bool) :
    ((mergeBeat g k bs p).blk, (mergeBeat g k bs p).left) = (g.blk, g.left) := by
  unfold mergeBeat
  dsimp only

theorem readView_refusedPiece (s : Mach) (b : Fin 72) (i blk k n code : Nat) : readView b (refusedPiece s b i blk k n code) = readView b s := by
  unfold refusedPiece
  dsimp only
  split
  · exact (readView_mvErr _ b _ code).trans (readView_modMv s b i blk _ fun g => mergeBeat_same g k _ _)
  · exact readView_modMv s b i blk _ fun g => mergeBeat_same g k _ _

theorem loft_refusedPiece (s : Mach) (b : Fin 72) (i blk k n code : Nat) : (refusedPiece s b i blk k n code).loft = s.loft := by
  unfold refusedPiece
  dsimp only
  split
  · rw [loft_mvErr, loft_modMv]
  · exact loft_modMv s b i _

section
variable {s : State} {b : BayNo} {x : Move}

theorem ends_moveSourceData {blk k n a : Nat} (hm : (getMov s.mach b).moves = [x]) (hans : (getEtr s.mach b).ans = [])
    (hown : ownLoft s.mach b x = false) (hgot : x.got = []) (hsrc : (srcBeats x.desc).head? = some blk)
    (hps : blockPieces (srcRows x.desc) blk = [(k, n)]) (hline : linePieces k n = [(k, n)])
    (haddr : baleAddr s.mach.route.nodeId k = .phys a) :
    Ends (.moveSourceData b 0) s (fun m => m.loft = s.mach.loft ∧
      (getMov m b).moves.map (fun y => y.got.map (fun g => (g.blk, g.left))) = [[(blk, 0)]]) := by
  obtain ⟨t, ht⟩ : ∃ t, t = askPages s.mach b x.id := ⟨_, rfl⟩
  obtain ⟨l, hl⟩ := moves_askPages hm x.id
  rw [← ht] at hl
  have hloft : t.loft = s.mach.loft := by rw [ht, loft_askPages]
  have hroute : t.route = s.mach.route := by rw [ht, route_askPages]
  obtain ⟨y, hy⟩ : ∃ y : Move, y = { x with asked := l } := ⟨_, rfl⟩
  rw [← hy] at hl
  have hid : x.id = y.id := by rw [hy]
  have hfind : (srcBeats y.desc).find? (fun c => y.got.all (fun g => decide (g.blk ≠ c))) = some blk := by
    rw [hy]
    dsimp only
    rw [hgot, ← hsrc]
    cases srcBeats x.desc <;> simp
  have hplace (v : Mach) (hv : v.route = t.route) : placeOf v b y k false = .phys a := placeOf_phys (by rw [hv, hroute]; exact haddr) b y false
  obtain ⟨u, hu⟩ : ∃ u, u = countEv (modMv t b x.id (fun m => { m with got := m.got ++ [newBeat blk] })) b 0x0A n := ⟨_, rfl⟩
  have hunits : u.units = (modMv t b x.id (fun m => { m with got := m.got ++ [newBeat blk] })).units := by rw [hu, units_countEv]
  have hview : readView b u = [[(blk, 0)]] := by
    rw [readView_of_units hunits]
    unfold readView
    rw [hid, moves_modMv_one hl, hy, hgot]
    rfl
  have hlofted : u.loft = s.mach.loft := by rw [loft_of_units hunits, loft_modMv, hloft]
  have hrouted : u.route = t.route := (route_of_units hunits).trans (route_modMv t b x.id _)
  obtain ⟨r, hr⟩ : ∃ r, r = readAs u (mvMid b y) y.proxy y.tid a n := ⟨_, rfl⟩
  have hread : r.2.units = u.units := by rw [hr, units_readAs]
  refine ⟨_, rfl, ?_⟩
  unfold moveSourceData
  dsimp only
  rw [nthMove_one hm]
  dsimp only
  rw [if_neg (by simp [hown])]
  unfold sourceBeat
  rw [takeAnswers_none hans, ← ht, hid]
  dsimp only
  rw [getMv_one hl]
  dsimp only
  rw [hfind]
  dsimp only
  rw [show blockPieces (srcRows y.desc) blk = [(k, n)] by rw [hy]; exact hps]
  rw [if_neg (by simp [hplace t rfl]), if_pos b.isLt, ← hid]
  simp only [foldS, List.foldl_cons, List.foldl_nil, Nat.zero_add, hline, chunkPieces_of_line hline, ← hu, hplace u hrouted, ← hr]
  cases r.1 with
  | none =>
    dsimp only
    rw [loft_refusedPiece, loft_of_units hread]
    exact ⟨hlofted, (readView_refusedPiece _ b _ _ _ _ _).trans ((readView_of_units hread b).trans hview)⟩
  | some q =>
    dsimp only
    rw [loft_modMv, loft_of_units hread]
    exact ⟨hlofted, (readView_modMv _ b _ blk _ fun g => mergeBeat_same g k _ _).trans ((readView_of_units hread b).trans hview)⟩

end

end Sys2Proof.Machine
end

section
/-! Near-memory adds: an output beat of one line (R306). -/

namespace Sys2Proof.Machine

theorem dedup_acc (l : List Nat) : ∀ acc : List Nat, ∀ a ∈ acc ++ l,
    a ∈ l.foldl (fun acc b => if acc.head? = some b ∨ acc.contains b then acc else b :: acc) acc := by
  induction l with
  | nil => intro acc a ha; simpa using ha
  | cons b l ih =>
    intro acc a ha
    rw [List.foldl_cons]
    refine ih _ a ?_
    by_cases hb : acc.head? = some b ∨ acc.contains b
    · rw [if_pos hb]
      have hmem : b ∈ acc := hb.elim (fun h => List.mem_of_mem_head? h) fun h => List.contains_iff_mem.1 h
      rcases List.mem_append.1 ha with h | h
      · exact List.mem_append_left _ h
      · rcases List.mem_cons.1 h with rfl | h
        · exact List.mem_append_left _ hmem
        · exact List.mem_append_right _ h
    · rw [if_neg hb]
      simp only [List.mem_append, List.mem_cons] at ha ⊢
      tauto

/-- A block that appears is among the blocks in the order of their first appearance. -/
theorem mem_dedupBlocks {l : List Nat} {a : Nat} (h : a ∈ l) : a ∈ dedupBlocks l :=
  List.mem_reverse.2 (dedup_acc l [] a h)

theorem askPages_idle {s : Mach} {u : Nat} {m : Move} (hm : getMv s u m.id = some m) (h : ∀ w : Bool, pagesOf (aheadPieces m w) = []) :
    askPages s u m.id = s := by
  unfold askPages
  simp only [foldS, List.foldl_cons, List.foldl_nil, hm, h]

theorem beatReady_memory {s : Mach} {u : Nat} {m : Move} {blk : Nat} (hm : getMv s u m.id = some m) (hown : ownLoft s u m = false)
    (hneeds : (beatNeeds m.desc blk).all (fun k => m.got.any (fun g => decide (g.blk = k) && decide (g.left = 0))) = true) :
    beatReady s u m.id blk = (true, s) := by
  unfold beatReady
  rw [hm]
  dsimp only
  rw [if_neg (by simp [hown]), hneeds]

section
variable {s : State} {b : BayNo} {x : Move}

/-- The line of an output beat has been added: the move has the flags and the poison of its elements. -/
def lineAdded (b i f : Nat) (p : Bool) (v : Mach) : Mach := modMv v b i (fun m => { m with flags := m.flags ||| f, pois := m.pois || p })

/-- The output beat has been added: the move goes on to its next one. -/
def beatAdded (b i f : Nat) (v : Mach) : Mach :=
  modMv v b i (fun m => { m with flags := m.flags ||| f, lastAt := v.now,
                                 next := if m.refused then m.next else min (m.next + 1) (dstBeats m.desc).length })

theorem addBeat_line {blk k a l f : Nat} {v : Mach} {s : Mach} (hm : getMv s b x.id = some x) (hans : (getEtr s b).ans = [])
    (hpages : ∀ w : Bool, pagesOf (aheadPieces x w) = []) (hblk : (dstBeats x.desc)[x.next]? = some blk)
    (hplaced : beatPlaced s b x blk = true) (hop : dOp x.desc ≠ 0) (href : x.refused = false) (hown : ownLoft s b x = false)
    (hneeds : (beatNeeds x.desc blk).all (fun k => x.got.any (fun g => decide (g.blk = k) && decide (g.left = 0))) = true)
    (hline : dedupBlocks ((beatElems x blk).map (fun e => e.1 / 64)) = [l]) (hhead : (beatElems x blk).head?.map Prod.fst = some k)
    (hplace : placeOf s b x k true = .phys a)
    (hadd : nmaAt s (mvMid b x) x.proxy x.tid (dOp x.desc)
      ((beatElems x blk).map (fun e => (a + (e.1 - k), e.2.bits, (beatElems x blk).any (fun e => e.2.pois)))) = (.done f, v)) :
    ∃ g p, addBeat s b x.id = beatAdded b x.id g (lineAdded b x.id f p v) := by
  have hready := beatReady_memory hm hown hneeds
  have hall : (beatElems x blk).filter (fun e => decide (e.1 / 64 = l)) = beatElems x blk := by
    refine List.filter_eq_self.2 fun e he => decide_eq_true ?_
    have hin := mem_dedupBlocks (List.mem_map_of_mem (f := fun e : Nat × DstUnit => e.1 / 64) he)
    rw [hline] at hin
    exact List.mem_singleton.1 hin
  have hlt : ¬ (dstBeats x.desc).length ≤ x.next := Nat.not_le.2 (List.getElem?_eq_some_iff.1 hblk).1
  refine ⟨(beatElems x blk).foldl (fun f e => f ||| e.2.flags) 0, (beatElems x blk).any (fun e => e.2.pois), ?_⟩
  unfold addBeat
  rw [takeAnswers_none hans, askPages_idle hm hpages]
  dsimp only
  rw [hm]
  dsimp only
  rw [hblk]
  dsimp only
  rw [hready, if_neg (by simp [hplaced, hop, href])]
  dsimp only
  rw [hm, Option.getD_some, hline]
  simp only [Option.getD_some, foldS, List.foldl_cons, List.foldl_nil, hm, hall, hhead, href, hplace, hadd, Bool.false_eq_true, false_or,
    if_neg hlt]
  rfl

theorem ends_nearMemoryAdd {blk k a l f : Nat} {v : Mach} (hm : (getMov s.mach b).moves = [x]) (hans : (getEtr s.mach b).ans = [])
    (hpages : ∀ w : Bool, pagesOf (aheadPieces x w) = []) (hblk : (dstBeats x.desc)[x.next]? = some blk)
    (hplaced : beatPlaced s.mach b x blk = true) (hop : dOp x.desc ≠ 0) (href : x.refused = false) (hown : ownLoft s.mach b x = false)
    (hneeds : (beatNeeds x.desc blk).all (fun k => x.got.any (fun g => decide (g.blk = k) && decide (g.left = 0))) = true)
    (hline : dedupBlocks ((beatElems x blk).map (fun e => e.1 / 64)) = [l]) (hhead : (beatElems x blk).head?.map Prod.fst = some k)
    (hplace : placeOf s.mach b x k true = .phys a)
    (hadd : nmaAt s.mach (mvMid b x) x.proxy x.tid (dOp x.desc)
      ((beatElems x blk).map (fun e => (a + (e.1 - k), e.2.bits, (beatElems x blk).any (fun e => e.2.pois)))) = (.done f, v)) :
    Ends (.nearMemoryAdd (.bay b 0)) s (fun m => m.mem = v.mem ∧ m.loft = v.loft ∧
      (getMov m b).moves.map (fun y => y.next) = [x.next + 1]) := by
  obtain ⟨g, p, heq⟩ := addBeat_line (getMv_one hm) hans hpages hblk hplaced hop href hown hneeds hline hhead hplace hadd
  have hview : movView b v = movView b s.mach := by
    have e := (offHome_movView b).nmaAt s.mach (mvMid b x) x.proxy x.tid (dOp x.desc)
      ((beatElems x blk).map (fun e => (a + (e.1 - k), e.2.bits, (beatElems x blk).any (fun e => e.2.pois))))
    rw [hadd] at e
    exact e
  obtain ⟨y, hy, hcourse⟩ := one_of_movView hview hm
  have hid : x.id = y.id := (congrArg Course.id hcourse).symm
  have hdesc : y.desc = x.desc := congrArg Course.desc hcourse
  have hnext : y.next = x.next := congrArg Course.next hcourse
  have hgo : y.refused = false := (congrArg Course.refused hcourse).trans href
  have hlt : x.next < (dstBeats x.desc).length := (List.getElem?_eq_some_iff.1 hblk).1
  have hrun : nearMemoryAdd s.mach (.bay b 0) = addBeat s.mach b x.id := by
    unfold nearMemoryAdd refMove
    dsimp only
    rw [nthMove_one hm]
    rfl
  have hline : (getMov (lineAdded b y.id f p v) b).moves = [{ y with flags := y.flags ||| f, pois := y.pois || p }] := moves_modMv_one hy _
  have hend : (getMov (beatAdded b y.id g (lineAdded b y.id f p v)) b).moves.map (fun z => z.next) = [x.next + 1] := by
    unfold beatAdded
    rw [moves_modMv_one hline]
    simp only [List.map_cons, List.map_nil, hgo, hdesc, hnext, Bool.false_eq_true, if_false]
    rw [Nat.min_eq_left hlt]
  refine ⟨_, rfl, ?_⟩
  dsimp only
  rw [hrun, heq, hid]
  refine ⟨?_, ?_, hend⟩
  · unfold beatAdded lineAdded
    rw [mem_modMv, mem_modMv]
  · unfold beatAdded lineAdded
    rw [loft_modMv, loft_modMv]

end

end Sys2Proof.Machine
end

section
/-! Landings: the next output beat of a move of a bay lands (R290, R302, R308). -/

namespace Sys2Proof.Machine

/-! ### Time goes on -/

section
variable {n : Nat}

theorem now_le_finishTxn {s : Mach} (h : n ≤ s.now) (l : Nat) : n ≤ (finishTxn s l).now := by
  have hc := offCourse_now
  unfold finishTxn
  split
  · exact h
  · dsimp only
    rw [hc.completionAck, hc.grant, foldS_keeps Mach.now _ _ _ fun t p => hc.takeResponse t _ _]
    refine List.foldlRecOn (motive := fun t : Mach => n ≤ t.now) _ _ h fun t ht p _ => ?_
    rw [hc.answerTxn]
    exact ht.trans (Nat.le_max_left _ _)

theorem now_le_settleLine {s : Mach} (h : n ≤ s.now) (l : Nat) : n ≤ (settleLine s l).now :=
  List.foldlRecOn (motive := fun t : Mach => n ≤ t.now) _ _ h fun _ ht _ _ => now_le_finishTxn ht l

theorem now_le_homeWrite {s : Mach} (h : n ≤ s.now) (l : Nat) (d : Line) (m : Nat) (p : Bool) : n ≤ (homeWrite s l d m p).now := by
  have hc := offCourse_now
  have hraw (u : Mach) (c : Prop) [Decidable c] (d : Line) (m : Nat) (p : Bool) : (if c then rawWrite u l d m p else u).now = u.now :=
    iteInduction (motive := fun x : Mach => x.now = u.now) (fun _ => hc.rawWrite u _ _ _ _) fun _ => rfl
  unfold homeWrite
  dsimp only
  rw [hc.breakResv, hc.rawWrite, hc.modDir, hraw, foldS_keeps Mach.now _ _ _ fun t q => hc.answerSnoop t _ _ _ _]
  exact now_le_settleLine h l

theorem now_le_cohWrite {s : Mach} (h : n ≤ s.now) (a : Nat) (bs : List Byte) (p : Bool) : n ≤ (cohWrite s a bs p).now := by
  unfold cohWrite
  dsimp only
  exact iteInduction (motive := fun t : Mach => n ≤ t.now) (fun _ => h) fun _ =>
    List.foldlRecOn (motive := fun t : Mach => n ≤ t.now) _ _ h fun _ ht _ _ => now_le_homeWrite ht _ _ _ _

theorem now_le_physWrite {s : Mach} (h : n ≤ s.now) (a : Nat) (bs : List Byte) (p : Bool) : n ≤ (physWrite s a bs p).now := by
  have hc := offCourse_now
  unfold physWrite
  split
  · refine iteInduction (motive := fun t : Mach => n ≤ t.now) (fun _ => ?_) fun _ => h
    rw [hc.loftWrite, hc.countLoftWrite]
    exact h
  · exact iteInduction (motive := fun t : Mach => n ≤ t.now) (fun _ => now_le_cohWrite h _ _ _) fun _ => h

theorem now_le_writeAs {s : Mach} (h : n ≤ s.now) (mid : Nat) (x : Option Nat) (tid a : Nat) (bs : List Byte) (p : Bool) :
    n ≤ (writeAs s mid x tid a bs p).2.now := by
  have hc := offCourse_now
  unfold writeAs
  dsimp only
  split
  · rw [hc.physRefuse]
    exact h
  · refine now_le_physWrite ?_ _ _ _
    rw [foldS_keeps Mach.now _ _ _ fun t l => hc.countBytes t _ _ _ _]
    exact h

end

/-! ### The route of the package -/

theorem cfg_of_units {s t : Mach} (h : s.units = t.units) : s.cfg = t.cfg := by
  have e := congrArg Mach.cfg h
  exact e

theorem offCourse_route : OffCourse Mach.route where
  csr _ _ := rfl
  wire _ _ _ := rfl
  events _ _ := rfl
  memory _ _ _ := rfl
  memPois _ _ := rfl
  held _ _ := rfl
  dir _ _ := rfl
  cores _ _ := rfl
  shfResv _ _ := rfl
  loft _ _ := rfl
  loftPois _ _ := rfl
  move _ _ _ _ _ := rfl
  trcWire _ _ := rfl
  fireIf s b i f := route_of_units (units_fireIf s b i f)
  mv s u i f _ := route_modMv s u i f
  modEtr := route_modEtr
  modPort _ _ _ := rfl
  withReqs _ _ := rfl
  freeCtr _ _ := rfl

theorem offHome_route : OffHome Mach.route := { offCourse_route.toOffTxn with now := fun _ _ => rfl }

/-! ### What a piece writes -/

theorem loft_lftErr_unraised (s : Mach) (b code off tid : Nat) : (lftErr s b code off tid false).loft = s.loft :=
  offBay_loft.offMov.lftErr s b code off tid false

/-- A piece that lands in a loft writes its bytes there and no others. -/
theorem byteAt_loftPut (s : Mach) (c off : Nat) (bs : List Byte) (mask p : Nat) {i : Nat}
    (h : ¬ (loftIx c off ≤ i ∧ i < loftIx c off + bs.length)) : byteAt (loftPut s c off bs mask p).loft i = byteAt s.loft i := by
  have hcatch (d : Prop) [Decidable d] : (if d then s else catchUp s c).loft = s.loft :=
    iteInduction (motive := fun t : Mach => t.loft = s.loft) (fun _ => rfl) fun _ => offBay_loft.catchUp s c
  unfold loftPut
  dsimp only
  rw [foldS_keeps Mach.loft _ _ _ fun t x => by split <;> rfl]
  rw [byteAt_writeMasked, if_neg fun e => h ⟨e.1, e.2.1⟩, hcatch]

theorem byteAt_landPiece {s : Mach} (b : Fin 72) (i k n num gp : Nat) {c off j : Nat} (haddr : baleAddr s.route.nodeId k = .loft c off)
    (hout : ¬ (loftIx c off ≤ j ∧ j < loftIx c off + n)) : byteAt (landPiece s b i k n num gp).loft j = byteAt s.loft j := by
  have hlanded (t : Mach) (q d : Prop) [Decidable q] [Decidable d] (f : Nat) :
      (if d then modMv (if q then countEv (bump t .MOV_BYTES b f 63 0 n) b 0x0B n else t) b i (fun m => { m with pois := true })
        else if q then countEv (bump t .MOV_BYTES b f 63 0 n) b 0x0B n else t).loft = t.loft := by
    have hcount : (if q then countEv (bump t .MOV_BYTES b f 63 0 n) b 0x0B n else t).loft = t.loft :=
      iteInduction (motive := fun m : Mach => m.loft = t.loft)
        (fun _ => (loft_of_units (units_countEv _ _ _ _)).trans (loft_of_units (units_bump _ _ _ _ _ _ _))) fun _ => rfl
    exact iteInduction (motive := fun m : Mach => m.loft = t.loft) (fun _ => (loft_modMv _ _ _ _).trans hcount) fun _ => hcount
  have hplace (m : Move) : placeOf s b m k true = .loft c off := by
    unfold placeOf
    rw [haddr]
    exact if_pos b.isLt
  unfold landPiece
  split
  · rfl
  next m _ =>
    dsimp only
    rw [hplace]
    dsimp only
    refine iteInduction (motive := fun t : Mach => byteAt t.loft j = byteAt s.loft j)
      (fun _ => congrArg (byteAt · j) (offBay_loft.offMov.cutMove s b m)) fun _ => ?_
    refine iteInduction (motive := fun t : Mach => byteAt t.loft j = byteAt s.loft j) (fun _ => ?_) fun _ => ?_
    · rw [hlanded, byteAt_loftPut _ c off _ _ _ (by rw [length_bytesOf]; exact hout), offBay_loft.countLoftWrite]
    · rw [loft_mvErr, loft_lftErr_unraised]

theorem byteAt_landRow {s : Mach} (b : Fin 72) (i : Nat) (x : (Nat × Nat × Nat × Nat × Nat) × Nat × Nat) {c off j : Nat}
    (haddr : baleAddr s.route.nodeId x.2.1 = .loft c off) (hout : ¬ (loftIx c off ≤ j ∧ j < loftIx c off + x.2.2)) :
    byteAt (landRow b i s x).loft j = byteAt s.loft j := by
  unfold landRow
  split
  · rfl
  · dsimp only
    rw [byteAt_landPiece b i _ _ _ _ (by rw [route_modMv]; exact haddr) hout, loft_modMv]

/-- A byte that no piece of a beat names stays, where every piece of the beat lands in a loft. -/
theorem byteAt_landRows {s : Mach} (b : Fin 72) (i : Nat) (d : Line) (blk : Nat) {j : Nat}
    (hloft : ∀ r ∈ beatRows d blk, ∀ q ∈ chunkPieces r.2.2.2.1 r.2.2.2.2, ∃ c off, baleAddr s.route.nodeId q.1 = .loft c off)
    (hout : ∀ r ∈ beatRows d blk, ∀ q ∈ chunkPieces r.2.2.2.1 r.2.2.2.2, ∀ c off,
      baleAddr s.route.nodeId q.1 = .loft c off → ¬ (loftIx c off ≤ j ∧ j < loftIx c off + q.2)) :
    byteAt (landRows b i d blk s).loft j = byteAt s.loft j := by
  have hrun : byteAt (landRows b i d blk s).loft j = byteAt s.loft j ∧ (landRows b i d blk s).route = s.route := by
    refine List.foldlRecOn (motive := fun t : Mach => byteAt t.loft j = byteAt s.loft j ∧ t.route = s.route) _ _ ⟨rfl, rfl⟩ fun t ht x hx => ?_
    obtain ⟨hbyte, hroute⟩ := ht
    unfold beatPieces at hx
    obtain ⟨r, hr, hpiece⟩ := List.mem_flatMap.1 hx
    obtain ⟨q, hq, rfl⟩ := List.mem_map.1 hpiece
    obtain ⟨c, off, haddr⟩ := hloft r hr q hq
    refine ⟨?_, ?_⟩
    · rw [byteAt_landRow b i (r, q) (by rw [hroute]; exact haddr) (hout r hr q hq c off haddr), hbyte]
    · exact (offCourse_route.landRow_keeps (P := fun m => m.route = t.route) (fun e hs => e.trans hs)
        (fun v _ _ _ _ _ _ hs => (offHome_route.writeAs v _ _ _ _ _ _).trans hs) rfl b i (r, q)).trans hroute
  exact hrun.1

/-! ### The beat -/

theorem landEdge_some {s : Mach} {b e : Nat} {m : Move} (h : landEdge s b m = some e) : ownLoft s b m = true ∧ dHusk m.desc = false := by
  unfold landEdge at h
  split at h
  · split at h
    · next hc =>
      simp only [Bool.and_eq_true, Bool.not_eq_true'] at hc
      exact ⟨hc.1.1.1, hc.1.2⟩
    · exact absurd h (by simp)
  · exact absurd h (by simp)

theorem ownLoft_congr {s t : Mach} (h : s.route = t.route) (u : Nat) {m x : Move} (hd : m.desc = x.desc) : ownLoft s u m = ownLoft t u x := by
  unfold ownLoft
  rw [h, hd]

theorem beatPlaced_congr {s t : Mach} (h : s.route = t.route) (hc : s.cfg = t.cfg) (u blk : Nat) {m x : Move} (hd : m.desc = x.desc)
    (hx : m.xl = x.xl) : beatPlaced s u m blk = beatPlaced t u x blk := by
  have hplace (k : Nat) : placeOf s u m k true = placeOf t u x k true := by
    unfold placeOf
    rw [h, hc, hd, hx]
  unfold beatPlaced
  simp only [hplace, hd]

theorem decodeHusk_plain {s : Mach} {u i : Nat} {m : Move} (hm : getMv s u i = some m) (h : dHusk m.desc = false) : decodeHusk s u i = s := by
  unfold decodeHusk
  rw [hm]
  exact if_pos (Or.inl h)

theorem beatReady_own {s : Mach} {u i : Nat} {m : Move} (blk : Nat) (hm : getMv s u i = some m) (h : ownLoft s u m = true) :
    (beatReady s u i blk).1 = true := by
  unfold beatReady
  rw [hm]
  dsimp only
  rw [if_pos h]

theorem loft_beatReady (s : Mach) (b : Fin 72) (i blk : Nat) : (beatReady s b i blk).2.loft = s.loft := by
  unfold beatReady
  split
  · rfl
  dsimp only
  split
  · refine foldS_keeps Mach.loft _ _ _ fun t k => ?_
    split
    · exact offBay_loft.offMov.readLoftBeat t b _ k
    · rfl
  · rfl

theorem cfg_modMv (s : Mach) (u i : Nat) (f : Move → Move) : (modMv s u i f).cfg = s.cfg := by
  unfold modMv
  exact iteInduction (motive := fun m : Mach => m.cfg = s.cfg) (fun _ => rfl) fun _ => rfl

theorem cfg_modEtr (s : Mach) (u : Nat) (f : Etr → Etr) : (modEtr s u f).cfg = s.cfg := by
  unfold modEtr
  exact iteInduction (motive := fun m : Mach => m.cfg = s.cfg) (fun _ => rfl) fun _ => rfl

/-- The package in which the pieces of a beat have landed, and how it came about. -/
theorem landBeat_own {s : Mach} {b : Fin 72} {x : Move} {blk : Nat} (hm : (getMov s b).moves = [x]) (hans : (getEtr s b).ans = [])
    (hown : ownLoft s b x = true) (hhusk : dHusk x.desc = false) (hop : dOp x.desc = 0) (hblk : (dstBeats x.desc)[x.next]? = some blk)
    (hplaced : beatPlaced s b x blk = true) :
    ∃ t : Mach, t.loft = s.loft ∧ t.now = s.now ∧ t.route = s.route ∧ movView b t = movView b s ∧
      landBeat s b x.id = beatLanded b x.id (landRows b x.id x.desc blk t) := by
  obtain ⟨a, ha⟩ : ∃ a, a = askPages s b x.id := ⟨_, rfl⟩
  obtain ⟨l, hl⟩ := moves_askPages hm x.id
  rw [← ha] at hl
  obtain ⟨y, hy⟩ : ∃ y : Move, y = { x with asked := l } := ⟨_, rfl⟩
  rw [← hy] at hl
  have hid : x.id = y.id := by rw [hy]
  have hdesc : y.desc = x.desc := by rw [hy]
  have hgeta : getMv a b x.id = some y := by rw [hid]; exact getMv_one hl
  have hasked : askedOf s b x.id = a := by
    unfold askedOf
    rw [takeAnswers_none hans, ha]
  have hroute : a.route = s.route := by rw [ha, route_askPages]
  have hcfg : a.cfg = s.cfg := by
    rw [ha]
    exact askPages_keeps (g := Mach.cfg) (fun t l => cfg_modMv t b x.id _) (fun t f => cfg_modEtr t b f) s
  have hview : movView b a = movView b s := by rw [ha, (offCourse_movView b).askPages]
  obtain ⟨t, ht⟩ : ∃ t, t = (beatReady a b x.id blk).2 := ⟨_, rfl⟩
  have htview : movView b t = movView b s := by rw [ht, (offCourse_movView b).beatReady, hview]
  obtain ⟨z, hz, hcourse⟩ := one_of_movView htview hm
  have hzid : z.id = x.id := congrArg Course.id hcourse
  have hgett : getMv t b x.id = some z := by rw [← hzid]; exact getMv_one hz
  have hzhusk : dHusk z.desc = false := by rw [show z.desc = x.desc from congrArg Course.desc hcourse, hhusk]
  have hready : (beatReady a b x.id blk).1 = true := beatReady_own blk hgeta (by rw [ownLoft_congr hroute b hdesc]; exact hown)
  have hplaceda : beatPlaced a b y blk = true := by
    rw [beatPlaced_congr hroute hcfg b blk hdesc (show y.xl = x.xl by rw [hy])]
    exact hplaced
  refine ⟨t, ?_, ?_, ?_, htview, ?_⟩
  · rw [ht, loft_beatReady, ha, loft_askPages]
  · rw [ht, offCourse_now.beatReady, ha, offCourse_now.askPages]
  · rw [ht, offCourse_route.beatReady, hroute]
  · rw [landBeat_eq, hasked, hgeta]
    dsimp only
    rw [show y.next = x.next by rw [hy], hdesc, hblk]
    dsimp only
    rw [if_neg (by simp [hready, hplaceda, hop]), ← ht, decodeHusk_plain hgett hzhusk]

section
variable {s : State} {b : BayNo} {x : Move}

theorem ends_moveLanding {e blk : Nat} (hm : (getMov s.mach b).moves = [x]) (hans : (getEtr s.mach b).ans = [])
    (hedge : landEdge s.mach b x = some e) (hop : dOp x.desc = 0) (hblk : (dstBeats x.desc)[x.next]? = some blk)
    (hplaced : beatPlaced s.mach b x blk = true) :
    Ends (.moveLanding b 0) s (fun m => (getMov m b).moves.map (fun y => (y.id, y.next)) = [(x.id, x.next + 1)] ∧
      max s.mach.now (edgeTick (clkOf s.mach b) e) ≤ m.now ∧
      ∀ i, (∀ r ∈ beatRows x.desc blk, ∀ q ∈ chunkPieces r.2.2.2.1 r.2.2.2.2, ∀ c off,
          baleAddr s.mach.route.nodeId q.1 = .loft c off → ¬ (loftIx c off ≤ i ∧ i < loftIx c off + q.2)) →
        (∀ r ∈ beatRows x.desc blk, ∀ q ∈ chunkPieces r.2.2.2.1 r.2.2.2.2, ∃ c off, baleAddr s.mach.route.nodeId q.1 = .loft c off) →
        byteAt m.loft i = byteAt s.mach.loft i) := by
  obtain ⟨hown, hhusk⟩ := landEdge_some hedge
  obtain ⟨a, ha⟩ : ∃ a, a = advanceEdge s.mach b e := ⟨_, rfl⟩
  have hunits : a.units = s.mach.units := by rw [ha, units_advanceEdge]
  have hmov : getMov a b = getMov s.mach b := mov_of_units hunits b
  have hroute : a.route = s.mach.route := route_of_units hunits
  have hcfg : a.cfg = s.mach.cfg := cfg_of_units hunits
  have hnow : a.now = max s.mach.now (edgeTick (clkOf s.mach b) e) := by rw [ha]; rfl
  obtain ⟨t, htloft, htnow, htroute, htview, heq⟩ := landBeat_own (by rw [hmov, hm]) (by rw [etr_of_units hunits, hans])
    (by rw [ownLoft_congr hroute b rfl]; exact hown) hhusk hop hblk (by rw [beatPlaced_congr hroute hcfg b blk rfl rfl]; exact hplaced)
  obtain ⟨v, hv⟩ : ∃ v, v = landRows b x.id x.desc blk t := ⟨_, rfl⟩
  have hvview : movView b v = movView b s.mach := by
    rw [hv, (offCourse_movView b).landRows (offHome_movView b), htview]
    exact movView_of_mov hmov
  obtain ⟨z, hz, hcourse⟩ := one_of_movView hvview hm
  have hid : z.id = x.id := congrArg Course.id hcourse
  have hnext : z.next = x.next := congrArg Course.next hcourse
  have hvnow : a.now ≤ v.now := by
    rw [hv]
    exact offCourse_now.landRows_keeps (P := fun m => a.now ≤ m.now) (fun e hs => by rw [e]; exact hs)
      (fun u mid o tid c bs p hs => now_le_writeAs hs mid o tid c bs p) (by rw [htnow]) b x.id x.desc blk
  have hnode : t.route = s.mach.route := htroute.trans hroute
  refine ⟨_, rfl, ?_⟩
  unfold moveLanding
  dsimp only
  rw [nthMove_one hm]
  dsimp only
  rw [hedge]
  dsimp only
  rw [← ha, heq, ← hv]
  unfold beatLanded
  refine ⟨?_, ?_, fun i hout hin => ?_⟩
  · rw [← hid, moves_modMv_one hz]
    exact congrArg (fun k => [(z.id, k + 1)]) hnext
  · rw [now_modMv, ← hnow]
    exact hvnow
  · rw [loft_modMv, hv, byteAt_landRows b x.id x.desc blk (by rw [hnode]; exact hin) (by rw [hnode]; exact hout), htloft, loft_of_units hunits]

/-- Settles O36, a command at a time. Descriptors enter, wait and leave by what their queues hold; what a move under way leaves of the
package is said once for every part that its course does not touch (`OffCourse`, `OffMoves`). -/
theorem movesRun : Obligations.MovesRun :=
  ⟨fun _ _ _ _ _ hop hw hres hfence hd hok => ends_move hop hw hres hfence hd hok,
   fun _ _ _ _ _ hm hans hedge hop hblk hplaced => ends_moveLanding hm hans hedge hop hblk hplaced,
   fun _ _ _ hm hown => ends_moveSourceData_own hm hown,
   fun _ _ _ _ _ _ _ hm hans hown hgot hsrc hps hline haddr => ends_moveSourceData hm hans hown hgot hsrc hps hline haddr,
   fun _ _ _ hm hover htok => ends_moveCompletion hm hover htok,
   fun _ _ _ _ _ _ _ _ _ hm hans hpages hblk hplaced hop href hown hneeds hline hhead hplace hadd =>
     ends_nearMemoryAdd hm hans hpages hblk hplaced hop href hown hneeds hline hhead hplace hadd,
   fun _ _ _ hm href hnext => ends_nmaRefused hm href hnext,
   fun _ _ _ _ hwait hroom hok => ends_flexQueueRoom hwait hroom hok,
   fun _ _ _ _ _ hq hidle => ends_flexQueueMoveStart hq hidle,
   fun _ _ _ _ _ _ hmid hdesc hroom hten hform hsigs hhusk => ends_movBsub hmid hdesc hroom hten hform hsigs hhusk,
   fun _ _ _ hm hq => ends_barnMove_none hm hq,
   fun _ _ _ _ _ hm hq => ends_barnMove_take hm hq⟩

end

end Sys2Proof.Machine
end
